-- ==== Sys2Proof/Word.lean ====
section
/-! DEFINITION. The word types of the ZK-780 (R9: every register is 32 bits wide) and the two sparse containers
the state is built from. -/

namespace Sys2Proof

/-- A byte. -/
abbrev Byte := BitVec 8

/-- A register word, R9. -/
abbrev Word := BitVec 32

/-- A sparse table: keys with their values, keys strictly rising. -/
abbrev Tbl (α : Type) := List (Nat × α)

end Sys2Proof
end

