-- ==== Sys2Proof/Config.lean ====
section
/-! DEFINITION. What an implementation fixes and the free values: values the manual does not state. They are opaque:
nothing can evaluate them. A fresh index is drawn from the plain counter `free` of the state. -/

namespace Sys2Proof

/-- Bytes whose content the manual calls unspecified (destination bytes beyond PMP_DONE, R330), or has no image of in this model, one per draw. -/
opaque Config.freeByte : Nat → Byte

/-- A value the manual calls for and does not state (a random draw of R434, a digest, an estimate of R57). -/
opaque Config.freeNat : Nat → Nat

/-- The bytes that a codeword decrypts to under a key that is not its own (R435: "unrelated bytes"), as one number. -/
opaque Config.freeData : Nat → Nat

/-- AES-XTS-256 of one LBA of data under the key of R435 (media root generation, NSID with INST, KGEN), with the LBA as its tweak: the manual names the
cipher and keeps the keys inside SEC. -/
opaque Config.cipher : Nat × Nat × Nat → Nat → Nat → Nat

/-- The bytes that a block of the wellhead store holds, by the draw made when it was programmed and the address: the manual gives
an image's and a profile's bytes no values that a command brings. -/
opaque Config.storeByte : Nat → Nat → Byte

/-- The number of mirror submission queues of R283, which the manual does not state. -/
opaque Config.mirrorQueues : Nat

/-- The endpoint UUID of R456, which the manual does not state. -/
opaque Config.uuid : Nat

/-- D0 of 0x0012 from OWNER_CHALLENGE (Table 3-12: a reason its group defines; R453 defines none), by the count of nonces. -/
opaque Config.busyReason : Nat → Word

/-- Map pages evicted for the sleep images of R375, whose size the manual does not state. -/
opaque Config.sleepPages : Nat

/-- The low byte of the event code of a group whose entry the manual calls for without stating its code. -/
opaque Config.eventCode : Nat → Nat

end Sys2Proof
end

