-- ==== Sys2Proof/Syntax.lean ====
section
/-! DEFINITION. The commands of the device: one constructor of `Instr` for each row of spec/opcode_table.json, with
the operands this model gives it. The table states no operands: an operand is what the outside world supplies with the
event (a value written, the entries read from host memory, the outcome of an array phase, a sensor reading). -/

namespace Sys2Proof

/-- Completion status names of Table 5-19 and of the chapters (R121, R495). -/
inductive Sc where
  | success | invalidOpcode | invalidField | invalidNs | nsNotReady | sanitizeInProgress | sanitizeFailed
  | writeProtected | lbaRange | prpOffset | sglType | sglLength | invalidPi | invalidQid | invalidQDeletion
  | invalidQueueSize | completionQueueInvalid | invalidVector | nsIdUnavailable | insufficientCapacity | nsPrivate
  | nsAttached | nsNotAttached | invalidFwSlot | invalidFwImage | overlappingRange | unrecoveredRead | compareFailure
  | guardCheck | appTagCheck | refTagCheck | capacityExceeded | missingFused | failedFused | abortRequested
  | dataTransfer | internalError | fwProhibited | sequenceError | selfTestInProgress | aerLimit | invalidLogPage
  | invalidCtrlId | invalidSecondaryState | invalidResourceNum | invalidResourceId | invalidFormat | abortLimit
deriving DecidableEq, Repr

/-- The outcome of the data-pointer check, check 7 of Table 5-7: an outcome of the NVMe specification's own rules. -/
inductive DptrCheck where
  | ok | prpOffset | sglType | sglLength
deriving DecidableEq, Repr

/-- A submission entry as fetched (R109): command words CDW0-CDW15 with what the NVMe base specification's own field
rules say of it (`resvOk`: check 2, `dptr`: check 7, `piOk`: check 8 of Table 5-7), its data segments in transfer order
(host address, bytes) and, for Dataset Management, its ranges (first LBA, LBAs). -/
structure Entry where
  dw : List Word
  resvOk : Bool := true
  dptr : DptrCheck := .ok
  piOk : Bool := true
  segs : List (Nat × Nat) := []
  ranges : List (Nat × Nat) := []
  /-- R151; the PRP lists or SGL segments that hold the pointers of the transfer, in order, one for each host page they lie in: the byte of the
  transfer whose pointer is the first that the list holds, and the list's host address. -/
  lists : List (Nat × Nat) := []
  /-- Table 5-3 SGLS; the descriptor types of an SGL in order (none: PRPs). -/
  sgl : List Nat := []
deriving DecidableEq, Repr

/-- What a read of a submission entry returns (R112): the entries, or a failed read. -/
inductive FetchResult where
  | entries (es : List Entry)
  | failed
deriving DecidableEq, Repr

/-- Values of the drive profile (Table 0-3): the fields the chapters take from it. The profile's byte layout is not in
the manual; a profile is given to PROFILE_WRITE in parsed form. -/
structure Profile where
  format : Nat := 1
  bytes : Nat := 4096
  signOk : Bool := true
  keyIndex : Nat := 0
  revoke0 : Bool := false
  regs : List (Nat × Word) := []
  reacts : List (Nat × Nat × Nat) := []
  merge : Nat := 0
  role : Nat := 0
  pface : Nat := 0
  timePort : Nat := 0
  psnEgr : Nat := 0
  ideTwin : Bool := false
  dies : List Nat := List.range 512
  iface : Nat := 2
  rates : List Nat := [48, 36, 24]
  pages : Nat := 8
  q : Nat := 4
  qSlc : Nat := 4
  blocksPerDie : Nat := 16
  pageBytes : Nat := 18592
  steps : Nat := 8
  pagesPerStep : Nat := 1
  slcSteps : Nat := 8
  rateSlc : Nat := 0
  rateBands : List (Nat × Nat) := [(100000, 2)]
  ageBands : List Nat := [1, 2, 4, 8, 16, 32, 64]
  badWordlines : List Nat := []
  levels : Nat := 7
  loopDir : List Int := [1, 1, 1]
  ptMean : List Nat := [8]
  ptLow : Nat := 0
  width : List Nat := [16, 16, 16, 16]
  opf : Nat := 7
  floor : Nat := 4
  spareInit : Nat := 4
  hyst : Nat := 2
  resMap : Nat := 1
  resSpill : Nat := 1
  ratedCycles : Nat := 3000
  /-- Table 9-1; planes of a die, main bytes of a page, whether the command table gives erase suspend and resume sequences, on-die termination by CE,
  the trainings the part declares. -/
  planes : Nat := 4
  pageMain : Nat := 16384
  suspSeq : Bool := true
  odt : List Nat := []
  trainings : List Nat := []
  /-- R216, R218; the program sequence of a native block: for each step the group of pages it programs, numbered in page order (empty: one step for
  each group in order). A page passes with the last step that programs it. -/
  seq : List Nat := []
  /-- R221; maximum program time by step, µs (a step not listed: maxProg). -/
  maxProgs : List Nat := []
  /-- R253; initial loop values O, S, T by bin (a bin not listed: 0). -/
  loopInit : List (Int × Int × Int) := []
  /-- R247; base offsets by bin and level, temperature coefficient in DAC steps per °C as a fraction, and the range the part declares. -/
  base : List (List Int) := []
  tcNum : Int := 0
  tcDen : Nat := 8
  offMin : Int := -128
  offMax : Int := 127
  /-- R255, R256; density gain, retry table by bin, soft offsets Δ1 to Δ3. -/
  kOd : Int := 0
  retry : List (List Int) := []
  deltas : List Int := [6, 12, 18]
  tokens : List (Nat × Nat) := []
  tRead : Nat := 28
  tProg : Nat := 1000
  tErase : Nat := 5000
  maxRead : Nat := 100
  maxProg : Nat := 1200
  maxErase : Nat := 10000
  suspLat : Nat := 20
  holdupPool : Nat := 4500
  capTable : List (Nat × Nat × Nat) := []
  autoDormant : Bool := false
  /-- R86; Vendor ID, Device ID, Subsystem Vendor ID, Subsystem ID, VF Device ID. -/
  vid : Nat := 0
  did : Nat := 0
  svid : Nat := 0
  sid : Nat := 0
  vfDid : Nat := 0
  edstt : Nat := 60
  psPower : List Nat := []
  vqInit : List (Nat × Nat × Nat) := []
  vpd : List Byte := []
deriving DecidableEq, Repr

/-- An image of R412 as its header and signature block state it. -/
structure Image where
  magicOk : Bool := true
  partOk : Bool := true
  crcOk : Bool := true
  signOk : Bool := true
  rev : Nat := 0
  svn : Nat := 0
  textLen : Nat := 0
  dataLen : Nat := 0
  cstFmt : Nat := 1
  prfMin : Nat := 1
  prfMax : Nat := 1
  hndFmt : Nat := 1
deriving DecidableEq, Repr

/-- What a channel's training of Table 9-7 found: rate in 100 MT/s (0: failed at every step of BOOT's ladder, R230), eye, temperature. -/
structure ChTrain where
  rate : Nat
  eye : Nat
  temp : Int
deriving DecidableEq, Repr

/-- What the outside world supplies at the end of a boot step of Table 2-10. -/
inductive BootEnv where
  /-- Step 0x1: fuse-map repairs applied (class, macro, row); the fuse map's own check. -/
  | fuses (repairs : List (Nat × Nat × Nat)) (mapOk : Bool)
  /-- Step 0x2: whether the image of slot A, of slot B verifies by R413. -/
  | images (aOk bOk : Bool)
  /-- Step 0x3: bank tests; whether a copy of the media root record unwraps. -/
  | cistern (bank0 bank1 : Bool) (rootOk : Bool)
  /-- Step 0x4: whether the profile in slot A, in slot B verifies. -/
  | profile (aOk bOk : Bool)
  /-- Step 0x5: training result, fitted GiB, trained rate; the lines whose post-package repair failed. -/
  | dram (ok : Bool) (gib : Nat) (rate : Nat) (pprFail : List Nat)
  /-- Step 0x6: listed dies that do not answer, whether an answering die mismatches the profile, training per channel, and what the dies' header
  blocks hold: the blocks (die, block) of their bad-block tables and the factory bad columns (die, plane, column). -/
  | nand (silent : List Nat) (mismatch : Bool) (trains : List ChTrain) (bad : List (Nat × Nat)) (cols : List (Nat × Nat × Nat))
  /-- Step 0x7: spill entries (by index) that fail read-back; scan outcome: whether it completed, relocated stripes; the dies whose SRE state page
  cannot be read. -/
  | replay (badSpill : List Nat) (scanOk : Bool) (relocated : Nat) (lostSre : List Nat)
  /-- Step 0x8. -/
  | resume
  /-- Step 0x9. -/
  | finish
deriving DecidableEq, Repr

/-- The decode of one codeword as the decoder and the NAND give it (R243): whether it converged, whether the seal
passed, its POISON flag, the bits it corrected (bit column of the plane page, read as 1) and the syndrome weight at which it stopped. -/
structure Decode where
  converged : Bool := true
  sealOk : Bool := true
  poison : Bool := false
  bits : List (Nat × Bool) := []
  syndrome : Nat := 0
  /-- R243; iterations it took. -/
  iters : Nat := 1
  /-- R255; bits of the codeword read as 1. -/
  ones : Nat := 0
deriving DecidableEq, Repr

/-- What becomes of one IU of a read as it passes the engines (R24, R337, R341): clean data, or poisoned at decode, by
its seal at egress (the 4 KiB parts whose seal fails, R335), by protection information (field 1, 2 or 3), or by the AES self-compare. -/
inductive IuOutcome where
  | clean | poisoned (parts : List Nat) | sealBad (parts : List Nat) | piBad (part field : Nat) | aesBad (parts : List Nat)
deriving DecidableEq, Repr

/-- What ingress found for the data of a write (R341, R346, Table 4-7). -/
inductive Ingress where
  | ok | guard | appTag | refTag | aesTwice | lostTlp | listFail
  /-- R16, Table 14-4; byte parity errors on beats into the wells: the LBAs of the command, counted from its first, whose lines are poisoned. -/
  | parity (lbas : List Nat)
deriving DecidableEq, Repr

/-- A received request of the twin inbound window (R91). -/
inductive WindowReq where
  | read (bytes : Nat)
  | write (data : List Byte)
deriving DecidableEq, Repr

/-- AER errors of Table 4-7. -/
inductive AerErr where
  | poisonedTlp | ecrc | completionTimeout | ideCheck
deriving DecidableEq, Repr

/-- What a configuration request does to the function state the manual names (Tables 4-2, 4-4, R83, R84, R156, R161, R162, R382): a read,
or a write of VF Enable, NumVFs, the System Page Size (64 KiB or 4 KiB), ATS Enable, PRI Enable, PRI Reset, the Outstanding Page Request
Allocation, Max Payload Size and Max Read Request Size in bytes, the attributes the host enables, PTM Enable, D3hot, a BAR (by its number)
or a VF BAR, MSI-X Enable and Function Mask, ECRC generation and check, ACS controls, LTR Enable, the ASPM L1 states enabled (L1, L1.1, L1.2),
or AER status bits written 1. -/
inductive ConfigOp where
  | read | vfEnable (on : Bool) | atsEnable (on : Bool) | priEnable (on : Bool) | priAlloc (n : Nat) | maxPayload (n : Nat)
  | ptmEnable (on : Bool)
  | numVfs (n : Nat) | vfPage64 (on : Bool) | priReset | maxRead (n : Nat) | attrs (ro ido ns : Bool) | d3hot (on : Bool)
  | bar (k addr : Nat) | vfBar (k addr : Nat) | msix (en mask : Bool) | ecrc (gen chk : Bool) | acs (w : Nat) | ltr (on : Bool)
  | aspm (l1 l11 l12 : Bool) | aerClear (errs : List AerErr)
deriving DecidableEq, Repr

/-- Received error TLPs of Table 4-7. -/
inductive ErrTlp where
  | epDataRead | epFetch | urFetch | caFetch | epBarWrite | ecrc
deriving DecidableEq, Repr

/-- Answers of a Translation Request (R159) : granted translation (first page, pages, read, write), denial, or failure. -/
inductive XlatAnswer where
  | granted (pages : Nat) (r w : Bool)
  | denied
  | failed
deriving DecidableEq, Repr

/-- Contexts that resume (Table 7-1): a command's Host DMA context with its list fetch, its map lookup context, or an engine step's. -/
inductive CtxKind where
  | dma | lookup | engine
deriving DecidableEq, Repr

/-- PRG responses of R162. -/
inductive PrgAnswer where
  | success | invalid | failure
deriving DecidableEq, Repr

/-- Die operation kinds of Table 9-2. -/
inductive DieKind where
  | read | program | erase | feature | reset
deriving DecidableEq, Repr

/-- The bits received where R240 looks for a frame's marks: 78 bits from 7 bits before the nominal position of the lead mark, and of the backup mark,
the first bit received in bit 0; and how many bits of the nominal frame span read as 0 (R496). -/
structure Marks where
  lead : Nat
  backup : Nat
  zeros : Nat := 0
deriving DecidableEq, Repr

/-- What a memory read finds wrong (R334, R339, Table 14-3, R347): a single bit, which is corrected; a well line with the LBA of
an IU whose data it holds, if any (namespace, IU, LBA of the IU); a DRAM line; a map cache entry, by its check bits or by its
line (`ecc`); a directory or block table entry; the engine structures. -/
inductive UeWhere where
  | corrected
  | wellLine (addr : Nat) (data : Option (Nat × Nat × Nat)) | sideRecord (buf : Nat) (data : Option (Nat × Nat × Nat))
  | dramLine (addr : Nat) | mapCache (ns page : Nat) (ecc : Bool) | dirEntry | blkEntry (die block : Nat)
  | tagEntry (tag : Nat) (cqOk : Bool) | queueCtx (ctrl qid : Nat) (spilled : Bool) | ovlEntry | atcEntry (idx : Nat)
  | ringEntry (p : Nat) | sideSlot (slot : Nat) | other
deriving DecidableEq, Repr

/-- MCTP message transport: the bus it came by. -/
inductive Bus where
  | i3c | smbus
deriving DecidableEq, Repr

/-- An MCTP packet as SBM sees it (R456). -/
structure MctpPacket where
  som : Bool
  eom : Bool
  seq : Nat
  tag : Nat
  bytes : List Byte
  pecOk : Bool := true
deriving DecidableEq, Repr

/-- A signed request's signature verdict as SEC computes it (R444). -/
abbrev SigOk := Bool

/-- Results of a device self-test (R396): the names of the failed checks, by die or structure number. -/
abbrev SelfTestFail := Option Nat

/-- SPDM requests of R441: supported, unsupported, session events, and IDE_KM that sets the keys of streams of the link, 0 the link IDE stream, 1 to 8
selective ones (R81). -/
inductive SpdmReq where
  | supported | unsupported | keyExchange (authOk : Bool) | endSession | getMeasurements | ideKeys (streams : List Nat)
deriving DecidableEq, Repr

/-- Supplies of Table 21-1. -/
inductive Supply where
  | vddAon | vddIo | vddCore | vddSram | vddHp | vddaHp | vddqNand | vdd2hDram | vddqDram | vddCst | vddWhs
deriving DecidableEq, Repr

/-- Pump burst errors of R330. -/
inductive BurstErr where
  | parity | response | busy | poison
deriving DecidableEq, Repr

/-- Well allocation sizes and requesters are plain numbers (Table 13-2). One constructor per row of
spec/opcode_table.json, in the table's order. -/
inductive Instr where
  -- power, boot, hold-up, standpipe, time and power events
  | powerOn (island0Lost strap fuse : Bool)
  | chipResetToBoot (strap fuse : Bool)
  | bootStepComplete (env : BootEnv)
  | pwrgdLow | railOutOfRange (rail : Supply) (uv : Nat) | plossNAsserted | plossNShortPulse
  | spillProgramPass (die : Nat)
  | holdupComplete (suppliesGood : Bool)
  | resetSpillStart
  | overvoltageOnset | overvoltagePersist | wrStopClear | chgEnRestore | chgEnStartupHoldEnd
  | capvConversion (uv : Nat)
  | standpipeEntry | standpipeSample (temp : Int) (uv : Nat)
  | standpipeWake (rtcDelta : Nat) (mismatch : List Nat)
  | dormantEntry | autoDormantTimer
  | idleGating (isl : Nat) | islandWakeOnAccess (isl : Nat) (sigOk : Bool)
  | handshakeTimeout (isl : Nat)
  | alarmMatch (a : Nat) | crystalStopDetect
  | ptmRequest (port : Nat) | ptmExchangeComplete (port hostTime : Nat) | slewAbsorbed | ptmLost
  | ratioWindow (ns : Nat)
  | thermalRead | poolRecompute (ungoverned : Int) | tokenGrant (die op : Nat)
  | zk540Window | powerAverageCheck (avgTokens : Nat)
  | selfTestComplete (fail : SelfTestFail) | recalibrationRead (die bin : Nat)
  -- host ports
  | perstNAsserted (port : Nat) | perstNDeasserted (port : Nat) | hotReset (port : Nat) | linkDown (port : Nat)
  | flrPf (ctrl : Nat) | flrVf (ctrl : Nat) | configRequest (ctrl : Nat) (op : ConfigOp) (ready : Bool)
  | ideCheckFail (port stream : Nat) (tag : Option Nat) (hdr : List Word)
  | receivedErrorTlp (port : Nat) (e : ErrTlp) (fn : Nat) (tag : Option Nat) (hdr : List Word)
  | completionTimeout (port : Nat) (tag : Option Nat)
  | inboundWindowRequest (fromPartner : Bool) (addr : Nat) (r : WindowReq)
  | prPerstRelease
  | twinConfigStart (chipId : Word) (pface authOk rdy : Bool)
  | twinPartnerLost | twinRetry
  | atsInvalidateRequest (port rid page pages : Nat)
  -- NVMe queueing
  | controllerEnable (ctrl ams mps asqs acqs : Nat) | controllerReset (ctrl : Nat) | shutdownNotification (ctrl : Nat)
  | nvmSubsystemReset (ctrl : Nat)
  | sqTailDoorbell (ctrl qid value : Nat) | cqHeadDoorbell (ctrl qid value : Nat)
  | submissionFetch (ctrl qid : Nat) (r : FetchResult)
  | contextMadeHot (ctrl qid : Nat)
  | fetchRetry (ctrl qid : Nat) (r : FetchResult)
  | admitToRun (tag : Nat) | completionPost (tag : Nat) | heldAenDelivery (ctrl : Nat)
  -- admin commands
  | deleteIoSubmissionQueue (tag : Nat) | createIoSubmissionQueue (tag : Nat) | getLogPage (tag : Nat)
  | deleteIoCompletionQueue (tag : Nat) | createIoCompletionQueue (tag : Nat) | identify (tag : Nat)
  | abort (tag : Nat) | setFeatures (tag : Nat) | getFeatures (tag : Nat)
  | asynchronousEventRequest (tag : Nat)
  | namespaceManagement (tag nsze ncap fmt : Nat)
  | firmwareCommit (tag : Nat) (img : Image)
  | firmwareImageDownload (tag : Nat)
  | deviceSelfTest (tag : Nat)
  | namespaceAttachment (tag : Nat) (ctrls : List Nat)
  | virtualizationManagement (tag : Nat)
  | nvmeMiSend (tag : Nat) | nvmeMiReceive (tag : Nat)
  | formatNvm (tag : Nat)
  | securitySend (tag : Nat) (req : SpdmReq) | securityReceive (tag : Nat)
  | sanitize (tag : Nat)
  | camentPacket (tag : Nat)
  -- I/O commands
  | flush (tag : Nat)
  | write (tag : Nat) (ing : Ingress) (mirOk : Bool) (data : List Nat)
  | read (tag : Nat) (outcomes : List IuOutcome)
  | writeUncorrectable (tag : Nat)
  | compare (tag : Nat) (outcomes : List IuOutcome) (data : List Nat)
  | fusedCompareAndWrite (tag : Nat) (outcomes : List IuOutcome) (mirOk : Bool) (expect data : List Nat)
  | writeZeroes (tag : Nat) (ing : Ingress)
  | datasetManagement (tag : Nat)
  | verify (tag : Nat) (outcomes : List IuOutcome)
  -- QoS and translation events
  | meterTick | transferBlockStart (tag : Nat) | traceEnd
  | translationCompletion (req : Nat) (a : XlatAnswer) | translationRetry (req : Nat)
  | prgSend (tag : Nat) | prgResponse (ctrl prg : Nat) (a : PrgAnswer) | prgTimeout (ctrl prg : Nat)
  | mapPageLoaded (ns page : Nat) (readable : Bool)
  | contextResume (id : Nat) (k : CtxKind)
  | engineStepStart (ns iu step idx : Nat) (frees : Bool)
  -- flash translation events
  | pagePassed (die block step : Nat) (bad : List Nat) (accMis : Bool) | mapFold | logCompaction
  | rangeRecordFold (slot : Nat) | writeGrant (tag : Nat)
  | gcSelect (dom : Nat) | gcScan (dom stripe : Nat) (outcomes : List IuOutcome) | gcDrain (dom stripe : Nat)
  | erasePass (die block : Nat) | eraseFailure (die block : Nat) | programFailure (die block step : Nat)
  -- flash channel events
  | dieEntryChosen (die : Nat) | busTransferGrant (ch die : Nat) | dieReadyPoll (die : Nat)
  | arrayOverrun (die : Nat) | suspendDue (die : Nat) | eraseSuspendDone (die : Nat) | resumeDue (die : Nat)
  | readAroundOffer (die op : Nat)
  | channelTempSample (ch : Nat) (temp : Int) | marginCheck (ch eye : Nat)
  | retrainQueueServed | retrainComplete (r : ChTrain)
  -- signal recovery events
  | frameReceived (ch cw : Nat) (m : Marks)
  | decodeResult (cw step : Nat) (d : Decode)
  | candidateExpiry (die plane col : Nat)
  | loopWindowUpdate (die bin : Nat)
  | sreStatePageWrite
  -- die redundancy events
  | reconstructionDone (cw : Nat) (sealOk partner : Bool)
  | stripeIdleClose (dom stripe : Nat)
  | rebuildStripeStep (dom stripe : Nat) (sealBad : List Nat) (accMis : Bool)
  | rebuildMapScan (dom : Nat)
  | mirrorCompletion (tag : Nat) | mirrorTimeout (tag : Nat)
  | granuleInactive (ns gran : Nat) | resyncChunkComplete (ns gran : Nat) (last sealOk : Bool)
  -- cistern, wells, pumps
  | checkpoint (ok : Bool)
  | allocate (rq size : Nat) | allocationWaitServed (pool : Nat) | allocationWaitTimeout (rq : Nat)
  | free (rq buf : Nat) | attach (rq buf : Nat) | detach (rq buf : Nat) | handover (rq buf rcv : Nat)
  | unallocatedAccess (addr : Nat)
  | pmpGo (ch : Nat) (ctl src dst : Word) (cnt : Nat) | pmpAbort (ch : Nat) | burstAck (ch : Nat) (idx : Nat)
  | burstError (ch idx : Nat) (e : BurstErr) | burstRetry (ch idx : Nat)
  -- integrity
  | uncorrectableRead (cls mac loc : Nat) (stuck : Bool) (w : UeWhere) | narrowWrite (mem word : Nat) (oldUe : Bool)
  | mergeBufferFree (mem : Nat) | trackingEntryExpiry (cls mac row : Nat)
  | scrubPass (cls : Nat) (corrected : List (Nat × Nat)) (bad : List (Nat × Nat × UeWhere))
  -- fault collection
  | faultRailCode (src : Nat) (p n : Bool) (samples : Nat)
  | nmtEscalation (src : Nat) | islandResetComplete (isl : Nat)
  | fltLatchClear (fn w : Nat) (mask : Word) | fltPinClr (fn : Nat) (key : Word) | fltInj (fn : Nat) (v : Word) | injectionEnd
  -- update, wellhead store
  | stagingTimeout | warmActivationSwitch (verifyOk : Bool) | updConfirm (key : Word)
  | trialTimerExpiry | reverseHandoverTimeout (restartOk : Bool)
  | whsOperationComplete (ok : Bool) | whsSuspendDue | whsResume | executeOnlyRead (addr : Nat)
  | brownout | brownoutRecovery
  -- security
  | entropyFailure | keyScheduleMismatch (ns : Nat) | spdmRequest (bus : Nat) (r : SpdmReq)
  | sanitizePhaseDone (rootWritten : Bool) | sanitizeQuiesceTimeout | nonceExpiry | challengeLockoutEnd
  -- sideband
  | mctpPacketReceived (b : Bus) (p : MctpPacket) | mctpAssemblyTimeout (b : Bus)
  | setEndpointId (b : Bus) (eid : Nat) | getEndpointId (b : Bus) | getEndpointUuid (b : Bus)
  | getMctpVersionSupport (b : Bus) | getMessageTypeSupport (b : Bus) | getVendorDefinedMessageSupport (b : Bus)
  | readNvmeMiDataStructure (b : Bus) (typ : Nat) | nvmSubsystemHealthStatusPoll (b : Bus)
  | controllerHealthStatusPoll (b : Bus) (ctrl : Nat) | configurationGet (b : Bus) (id : Nat)
  | configurationSet (b : Bus) (id value : Nat) | vpdRead (b : Bus) (off len : Nat) | vpdWrite (b : Bus)
  | miReset (b : Bus) | basicManagementRead | dynamicAddressAssignment (setdasa : Bool) (addr : Nat)
  | sidebandBusReset (b : Bus) (storm : Bool)
  | sensorConversion (site : Nat) (reading : Option Int) | dramRetrain (ch : Nat) (temp : Int)
  -- Cament interface; `fn` of a window access: the function (controller index) whose BAR2 it names
  | sysCamRcfg (fn p : Nat) (v : Word) | sysCamRdb (fn p : Nat) (v : Word) | requestTaken (p : Nat)
  | replyStallTimeout (p : Nat)
  | camentMctpMessage (b : Bus)
  | longOperationEnd (h : Nat) (status : Nat) (detail : List Word)
  -- Cament opcodes; `src`: 0-3 ring p, 4-7 C0h of PF 0-3, 8 sideband
  | nop (src : Nat) | deviceInfo (src : Nat) | opQuery (src : Nat) | opCancel (src : Nat) | chipReset (src : Nat)
  | troughRelease (src : Nat) | troughCheck (src : Nat) | troughPut (src : Nat) | troughGet (src : Nat)
  | modeGet (src : Nat) | modeRequest (src : Nat)
  | qosInfo (src : Nat) | tenantSet (src : Nat) | tenantGet (src : Nat) | tenantBind (src : Nat) | tenantTrace (src : Nat)
  | xltInfo (src : Nat) | suspList (src : Nat) | atcDrop (src : Nat)
  | fteInfo (src : Nat) | domCapacity (src : Nat) | blockInfo (src : Nat) | nsPlacement (src : Nat) | gcControl (src : Nat)
  | badlbaList (src : Nat)
  | fchInfo (src : Nat) | chStatus (src : Nat) | dieStatus (src : Nat) | chRetrain (src : Nat) | dieParam (src : Nat)
  | bstGet (src : Nat)
  | sreInfo (src : Nat) | loopGet (src : Nat) | defectList (src : Nat) | coldefAdd (src : Nat) | loopReset (src : Nat)
  | ladderProbe (src : Nat)
  | dreInfo (src : Nat) | domStatus (src : Nat) | rebuildCtl (src : Nat) | dieRetire (src : Nat) | stripeInfo (src : Nat)
  | mirrorSet (src : Nat) (storeOk : Bool) | mirrorStatus (src : Nat)
  | cstInfo (src : Nat) | eventRead (src : Nat) | ckptNow (src : Nat) | bankRetest (src : Nat)
  | welInfo (src : Nat) | poolStatus (src : Nat) | rqStatus (src : Nat) | pumpStart (src : Nat) | pumpStatus (src : Nat)
  | mprInfo (src : Nat) | eccCounts (src : Nat) | repairList (src : Nat) | scrubNow (src : Nat)
  | fltInfo (src : Nat) | srcStatus (src : Nat) | srcClear (src : Nat) | faultList (src : Nat) | faultInject (src : Nat)
  | pinRelease (src : Nat)
  | pwrInfo (src : Nat) | powerCapSet (src : Nat) | timeGet (src : Nat) | rtcAlarm (src : Nat) | chargerCtl (src : Nat)
  | profileInfo (src : Nat) | profileWrite (src : Nat) (p : Profile) | profileSelect (src : Nat)
  | updInfo (src : Nat) | imageStage (src : Nat) | imageCommit (src : Nat) (img : Image) | stageDiscard (src : Nat)
  | slotInfo (src : Nat) | whsRead (src : Nat)
  | secInfo (src : Nat) | ownerChallenge (src : Nat) | ownerSet (src : Nat) (sigOk : SigOk)
  | ownerLock (src : Nat) (sigOk : SigOk) | ownerRelease (src : Nat) (sigOk : SigOk) | svnRaise (src : Nat) (sigOk : SigOk)
  | telInfo (src : Nat) | sensorRead (src : Nat) | telSnapshot (src : Nat)
  -- window accesses and late events
  | registerWrite (fn addr size : Nat) (value : Nat) | registerRead (fn addr size : Nat)
  | ringEntryWrite (fn addr : Nat) (bytes : List Byte) | slotFlagWrite (fn addr size : Nat) (v : Word)
  | linkUp (port width rate : Nat) (flit : Bool)
  | crystalStart | dieResetReadyTimeout (die : Nat) | whsReadBusyTimeout (src : Nat) | entropySourcePass
deriving DecidableEq, Repr

end Sys2Proof
end

