-- ==== Sys2Proof/WellFormed.lean ====
section
/-! DEFINITION. Well-formed commands: each operand lies in the range the device gives it. A command that is not
well formed names a thing the device does not have; no meaning below relies on the check, since an entry that does not
exist leaves the state unchanged. -/

namespace Sys2Proof

/-- A submission entry has its sixteen words. -/
def FetchResult.wf : FetchResult → Bool
  | .entries es => es.all fun e => e.dw.length == 16
  | .failed => true

/-- Ranges of a window access (R9, R46): sizes 1, 2, 4, 8 within the 128 MiB window. -/
def wfAccess (addr size : Nat) : Bool := [1, 2, 4, 8].contains size && decide (addr + size ≤ 2 ^ 27)

/-- The operands of a command lie in their ranges. -/
def Instr.wf : Instr → Bool
  | .powerOn _ _ _ => true
  | .chipResetToBoot _ _ => true
  | .bootStepComplete _ => true
  | .pwrgdLow => true
  | .railOutOfRange _ _ => true
  | .plossNAsserted => true
  | .plossNShortPulse => true
  | .spillProgramPass die => decide (die < 512)
  | .holdupComplete _ => true
  | .resetSpillStart => true
  | .overvoltageOnset => true
  | .overvoltagePersist => true
  | .wrStopClear => true
  | .chgEnRestore => true
  | .chgEnStartupHoldEnd => true
  | .capvConversion uv => decide (uv < 2100001)
  | .standpipeEntry => true
  | .standpipeSample _ uv => decide (uv < 2100001)
  | .standpipeWake _ _ => true
  | .dormantEntry => true
  | .autoDormantTimer => true
  | .idleGating isl => decide (isl < 46)
  | .islandWakeOnAccess isl _ => decide (isl < 46)
  | .handshakeTimeout isl => decide (isl < 46)
  | .alarmMatch a => decide (a < 4)
  | .crystalStopDetect => true
  | .ptmRequest port => decide (port < 4)
  | .ptmExchangeComplete port _ => decide (port < 4)
  | .slewAbsorbed => true
  | .ptmLost => true
  | .ratioWindow _ => true
  | .thermalRead => true
  | .poolRecompute _ => true
  | .tokenGrant die _ => decide (die < 512)
  | .zk540Window => true
  | .powerAverageCheck _ => true
  | .selfTestComplete _ => true
  | .recalibrationRead die _ => decide (die < 512)
  | .perstNAsserted port => decide (port < 4)
  | .perstNDeasserted port => decide (port < 4)
  | .hotReset port => decide (port < 4)
  | .linkDown port => decide (port < 4)
  | .flrPf ctrl => decide (ctrl < 1012)
  | .flrVf ctrl => decide (ctrl < 1012)
  | .configRequest ctrl _ _ => decide (ctrl < 1012)
  | .ideCheckFail port _ tag _ => decide (port < 4) && tag.all (fun t => decide (t < 65536))
  | .receivedErrorTlp port _ fn tag _ => decide (port < 4) && decide (fn < 1012) && tag.all (fun t => decide (t < 65536))
  | .completionTimeout port tag => decide (port < 4) && tag.all (fun t => decide (t < 65536))
  | .inboundWindowRequest _ _ _ => true
  | .prPerstRelease => true
  | .twinConfigStart _ _ _ _ => true
  | .twinPartnerLost => true
  | .twinRetry => true
  | .atsInvalidateRequest port _ _ _ => decide (port < 4)
  | .controllerEnable ctrl _ _ _ _ => decide (ctrl < 1012)
  | .controllerReset ctrl => decide (ctrl < 1012)
  | .shutdownNotification ctrl => decide (ctrl < 1012)
  | .nvmSubsystemReset ctrl => decide (ctrl < 1012)
  | .sqTailDoorbell ctrl qid value => decide (ctrl < 1012) && decide (qid < 65536) && decide (value < 4294967296)
  | .cqHeadDoorbell ctrl qid value => decide (ctrl < 1012) && decide (qid < 65536) && decide (value < 4294967296)
  | .submissionFetch ctrl qid r => decide (ctrl < 1012) && decide (qid < 65536) && r.wf
  | .contextMadeHot ctrl qid => decide (ctrl < 1012) && decide (qid < 65536)
  | .fetchRetry ctrl qid r => decide (ctrl < 1012) && decide (qid < 65536) && r.wf
  | .admitToRun tag => decide (tag < 65536)
  | .completionPost tag => decide (tag < 65536)
  | .heldAenDelivery ctrl => decide (ctrl < 1012)
  | .deleteIoSubmissionQueue tag => decide (tag < 65536)
  | .createIoSubmissionQueue tag => decide (tag < 65536)
  | .getLogPage tag => decide (tag < 65536)
  | .deleteIoCompletionQueue tag => decide (tag < 65536)
  | .createIoCompletionQueue tag => decide (tag < 65536)
  | .identify tag => decide (tag < 65536)
  | .abort tag => decide (tag < 65536)
  | .setFeatures tag => decide (tag < 65536)
  | .getFeatures tag => decide (tag < 65536)
  | .asynchronousEventRequest tag => decide (tag < 65536)
  | .namespaceManagement tag _ _ _ => decide (tag < 65536)
  | .firmwareCommit tag _ => decide (tag < 65536)
  | .firmwareImageDownload tag => decide (tag < 65536)
  | .deviceSelfTest tag => decide (tag < 65536)
  | .namespaceAttachment tag _ => decide (tag < 65536)
  | .virtualizationManagement tag => decide (tag < 65536)
  | .nvmeMiSend tag => decide (tag < 65536)
  | .nvmeMiReceive tag => decide (tag < 65536)
  | .formatNvm tag => decide (tag < 65536)
  | .securitySend tag _ => decide (tag < 65536)
  | .securityReceive tag => decide (tag < 65536)
  | .sanitize tag => decide (tag < 65536)
  | .camentPacket tag => decide (tag < 65536)
  | .flush tag => decide (tag < 65536)
  | .write tag _ _ _ => decide (tag < 65536)
  | .read tag _ => decide (tag < 65536)
  | .writeUncorrectable tag => decide (tag < 65536)
  | .compare tag _ _ => decide (tag < 65536)
  | .fusedCompareAndWrite tag _ _ _ _ => decide (tag < 65536)
  | .writeZeroes tag _ => decide (tag < 65536)
  | .datasetManagement tag => decide (tag < 65536)
  | .verify tag _ => decide (tag < 65536)
  | .meterTick => true
  | .transferBlockStart tag => decide (tag < 65536)
  | .traceEnd => true
  | .translationCompletion _ _ => true
  | .translationRetry _ => true
  | .prgSend tag => decide (tag < 65536)
  | .prgResponse ctrl _ _ => decide (ctrl < 1012)
  | .prgTimeout ctrl _ => decide (ctrl < 1012)
  | .mapPageLoaded _ _ _ => true
  | .contextResume _ _ => true
  | .engineStepStart _ _ _ _ _ => true
  | .pagePassed die _ _ _ _ => decide (die < 512)
  | .mapFold => true
  | .logCompaction => true
  | .rangeRecordFold _ => true
  | .writeGrant tag => decide (tag < 65536)
  | .gcSelect dom => decide (dom < 4)
  | .gcScan dom _ _ => decide (dom < 4)
  | .gcDrain dom _ => decide (dom < 4)
  | .erasePass die _ => decide (die < 512)
  | .eraseFailure die _ => decide (die < 512)
  | .programFailure die _ _ => decide (die < 512)
  | .dieEntryChosen die => decide (die < 512)
  | .busTransferGrant ch die => decide (ch < 32) && decide (die < 512)
  | .dieReadyPoll die => decide (die < 512)
  | .arrayOverrun die => decide (die < 512)
  | .suspendDue die => decide (die < 512)
  | .eraseSuspendDone die => decide (die < 512)
  | .resumeDue die => decide (die < 512)
  | .readAroundOffer die _ => decide (die < 512)
  | .channelTempSample ch _ => decide (ch < 32)
  | .marginCheck ch _ => decide (ch < 32)
  | .retrainQueueServed => true
  | .retrainComplete _ => true
  | .frameReceived ch _ _ => decide (ch < 32)
  | .decodeResult _ _ _ => true
  | .candidateExpiry die _ _ => decide (die < 512)
  | .loopWindowUpdate die _ => decide (die < 512)
  | .sreStatePageWrite => true
  | .reconstructionDone _ _ _ => true
  | .stripeIdleClose dom _ => decide (dom < 4)
  | .rebuildStripeStep dom _ _ _ => decide (dom < 4)
  | .rebuildMapScan dom => decide (dom < 4)
  | .mirrorCompletion tag => decide (tag < 65536)
  | .mirrorTimeout tag => decide (tag < 65536)
  | .granuleInactive _ _ => true
  | .resyncChunkComplete _ _ _ _ => true
  | .checkpoint _ => true
  | .allocate rq _ => decide (rq < 64)
  | .allocationWaitServed pool => decide (pool < 4)
  | .allocationWaitTimeout rq => decide (rq < 64)
  | .free rq _ => decide (rq < 64)
  | .attach rq _ => decide (rq < 64)
  | .detach rq _ => decide (rq < 64)
  | .handover rq _ _ => decide (rq < 64)
  | .unallocatedAccess _ => true
  | .pmpGo ch _ _ _ _ => decide (ch < 16)
  | .pmpAbort ch => decide (ch < 16)
  | .burstAck ch _ => decide (ch < 16)
  | .burstError ch _ _ => decide (ch < 16)
  | .burstRetry ch _ => decide (ch < 16)
  | .uncorrectableRead cls _ _ _ _ => decide (cls < 6)
  | .narrowWrite mem _ _ => decide (mem < 128)
  | .mergeBufferFree mem => decide (mem < 128)
  | .trackingEntryExpiry cls _ _ => decide (cls < 5)
  | .scrubPass cls _ _ => decide (cls < 7)
  | .faultRailCode src _ _ _ => decide (src < 384)
  | .nmtEscalation src => decide (src < 384)
  | .islandResetComplete isl => decide (isl < 46)
  | .fltLatchClear fn w _ => decide (fn < 1012) && decide (w < 12)
  | .fltPinClr fn _ => decide (fn < 1012)
  | .fltInj fn _ => decide (fn < 1012)
  | .injectionEnd => true
  | .stagingTimeout => true
  | .warmActivationSwitch _ => true
  | .updConfirm _ => true
  | .trialTimerExpiry => true
  | .reverseHandoverTimeout _ => true
  | .whsOperationComplete _ => true
  | .whsSuspendDue => true
  | .whsResume => true
  | .executeOnlyRead _ => true
  | .brownout => true
  | .brownoutRecovery => true
  | .entropyFailure => true
  | .keyScheduleMismatch _ => true
  | .spdmRequest bus _ => decide (bus < 6)
  | .sanitizePhaseDone _ => true
  | .sanitizeQuiesceTimeout => true
  | .nonceExpiry => true
  | .challengeLockoutEnd => true
  | .mctpPacketReceived _ _ => true
  | .mctpAssemblyTimeout _ => true
  | .setEndpointId _ eid => decide (eid < 256)
  | .getEndpointId _ => true
  | .getEndpointUuid _ => true
  | .getMctpVersionSupport _ => true
  | .getMessageTypeSupport _ => true
  | .getVendorDefinedMessageSupport _ => true
  | .readNvmeMiDataStructure _ _ => true
  | .nvmSubsystemHealthStatusPoll _ => true
  | .controllerHealthStatusPoll _ ctrl => decide (ctrl < 1012)
  | .configurationGet _ _ => true
  | .configurationSet _ _ _ => true
  | .vpdRead _ _ _ => true
  | .vpdWrite _ => true
  | .miReset _ => true
  | .basicManagementRead => true
  | .dynamicAddressAssignment _ _ => true
  | .sidebandBusReset _ _ => true
  | .sensorConversion site _ => decide (site < 18)
  | .dramRetrain ch _ => decide (ch < 4)
  | .sysCamRcfg fn p _ => decide (fn < 1012) && decide (p < 4)
  | .sysCamRdb fn p _ => decide (fn < 1012) && decide (p < 4)
  | .requestTaken p => decide (p < 4)
  | .replyStallTimeout p => decide (p < 4)
  | .camentMctpMessage _ => true
  | .longOperationEnd h _ _ => decide (h < 64)
  | .nop src => decide (src < 9)
  | .deviceInfo src => decide (src < 9)
  | .opQuery src => decide (src < 9)
  | .opCancel src => decide (src < 9)
  | .chipReset src => decide (src < 9)
  | .troughRelease src => decide (src < 9)
  | .troughCheck src => decide (src < 9)
  | .troughPut src => decide (src < 9)
  | .troughGet src => decide (src < 9)
  | .modeGet src => decide (src < 9)
  | .modeRequest src => decide (src < 9)
  | .qosInfo src => decide (src < 9)
  | .tenantSet src => decide (src < 9)
  | .tenantGet src => decide (src < 9)
  | .tenantBind src => decide (src < 9)
  | .tenantTrace src => decide (src < 9)
  | .xltInfo src => decide (src < 9)
  | .suspList src => decide (src < 9)
  | .atcDrop src => decide (src < 9)
  | .fteInfo src => decide (src < 9)
  | .domCapacity src => decide (src < 9)
  | .blockInfo src => decide (src < 9)
  | .nsPlacement src => decide (src < 9)
  | .gcControl src => decide (src < 9)
  | .badlbaList src => decide (src < 9)
  | .fchInfo src => decide (src < 9)
  | .chStatus src => decide (src < 9)
  | .dieStatus src => decide (src < 9)
  | .chRetrain src => decide (src < 9)
  | .dieParam src => decide (src < 9)
  | .bstGet src => decide (src < 9)
  | .sreInfo src => decide (src < 9)
  | .loopGet src => decide (src < 9)
  | .defectList src => decide (src < 9)
  | .coldefAdd src => decide (src < 9)
  | .loopReset src => decide (src < 9)
  | .ladderProbe src => decide (src < 9)
  | .dreInfo src => decide (src < 9)
  | .domStatus src => decide (src < 9)
  | .rebuildCtl src => decide (src < 9)
  | .dieRetire src => decide (src < 9)
  | .stripeInfo src => decide (src < 9)
  | .mirrorSet src _ => decide (src < 9)
  | .mirrorStatus src => decide (src < 9)
  | .cstInfo src => decide (src < 9)
  | .eventRead src => decide (src < 9)
  | .ckptNow src => decide (src < 9)
  | .bankRetest src => decide (src < 9)
  | .welInfo src => decide (src < 9)
  | .poolStatus src => decide (src < 9)
  | .rqStatus src => decide (src < 9)
  | .pumpStart src => decide (src < 9)
  | .pumpStatus src => decide (src < 9)
  | .mprInfo src => decide (src < 9)
  | .eccCounts src => decide (src < 9)
  | .repairList src => decide (src < 9)
  | .scrubNow src => decide (src < 9)
  | .fltInfo src => decide (src < 9)
  | .srcStatus src => decide (src < 9)
  | .srcClear src => decide (src < 9)
  | .faultList src => decide (src < 9)
  | .faultInject src => decide (src < 9)
  | .pinRelease src => decide (src < 9)
  | .pwrInfo src => decide (src < 9)
  | .powerCapSet src => decide (src < 9)
  | .timeGet src => decide (src < 9)
  | .rtcAlarm src => decide (src < 9)
  | .chargerCtl src => decide (src < 9)
  | .profileInfo src => decide (src < 9)
  | .profileWrite src _ => decide (src < 9)
  | .profileSelect src => decide (src < 9)
  | .updInfo src => decide (src < 9)
  | .imageStage src => decide (src < 9)
  | .imageCommit src _ => decide (src < 9)
  | .stageDiscard src => decide (src < 9)
  | .slotInfo src => decide (src < 9)
  | .whsRead src => decide (src < 9)
  | .secInfo src => decide (src < 9)
  | .ownerChallenge src => decide (src < 9)
  | .ownerSet src _ => decide (src < 9)
  | .ownerLock src _ => decide (src < 9)
  | .ownerRelease src _ => decide (src < 9)
  | .svnRaise src _ => decide (src < 9)
  | .telInfo src => decide (src < 9)
  | .sensorRead src => decide (src < 9)
  | .telSnapshot src => decide (src < 9)
  | .registerWrite fn addr size _ => decide (fn < 1012) && wfAccess addr size
  | .registerRead fn addr size => decide (fn < 1012) && wfAccess addr size
  | .ringEntryWrite fn addr _ => decide (fn < 1012) && decide (addr < 134217728)
  | .slotFlagWrite fn addr size _ => decide (fn < 1012) && wfAccess addr size
  | .linkUp port _ _ _ => decide (port < 4)
  | .crystalStart => true
  | .dieResetReadyTimeout die => decide (die < 512)
  | .whsReadBusyTimeout src => decide (src < 9)
  | .entropySourcePass => true

end Sys2Proof
end

