-- ==== Sys2Proof/Machine/Package.lean ====
section
/-! DEFINITION. Supplies, the CAPV code and the ball map of chapter 21 (R476, R482, R489 to R493). -/

namespace Sys2Proof.Machine

/-! ## Supplies, Table 21-1 -/

/-- Nominal level of a supply, µV; that of VDDQ_NAND by the profile's interface kind (1: NV-DDR3, 2: NV-LPDDR4). -/
def nominalUv (iface : Nat) : Supply → Nat
  | .vddAon | .vddCst => 800000
  | .vddIo | .vddWhs => 1800000
  | .vddCore | .vddHp => 750000
  | .vddSram => 850000
  | .vddaHp => 1200000
  | .vddqNand => if iface = 1 then 1200000 else 600000
  | .vdd2hDram => 1050000
  | .vddqDram => 500000

/-- Recommended range, percent to either side of the nominal level. -/
def rangePct : Supply → Nat
  | .vddIo | .vddqNand | .vddWhs => 5
  | .vddHp => 2
  | .vddAon | .vddCore | .vddSram | .vddaHp | .vdd2hDram | .vddqDram | .vddCst => 3

/-- A supply at a level is within its recommended range. -/
def railInRange (iface : Nat) (x : Supply) (uv : Nat) : Bool :=
  let n := nominalUv iface x
  decide (n * (100 - rangePct x) ≤ uv * 100) && decide (uv * 100 ≤ n * (100 + rangePct x))

/-- The internal monitors of R478 watch every rail but the two of island 0. -/
def monitored (x : Supply) : Bool := x != .vddAon && x != .vddIo

/-- The CAPV code of a level in µV, R482: floor(4,096 × V ÷ 1.2 V), saturating at 4,095. -/
def capvCode (uv : Nat) : Nat := min 4095 (4096 * uv / 1200000)

/-! ## Ball map, Tables 21-9 to 21-13 -/

/-- What a ball carries: ground, a supply, or a signal of a numbered unit (a NAND channel, a host port, a DRAM channel; 0 for control balls). -/
inductive Ball where
  | vss | rail (x : Supply) | sig (unit : String) (n : Nat) (name : String)
deriving DecidableEq, Repr

/-- A cell of a tile's table. -/
def cellOf (unit : String) (n : Nat) (x : String) : Ball :=
  if x = "VSS" then .vss
  else if x = "VDDQ_NAND" then .rail .vddqNand
  else if x = "VDDA_HP" then .rail .vddaHp
  else if x = "VDD_HP" then .rail .vddHp
  else .sig unit n x

/-- Cell of a tile by row and column from 0. -/
def tileAt (t : List (List String)) (r k : Nat) : String := (t.getD r []).getD k "VSS"

/-- Table 21-10. -/
def nandTile : List (List String) :=
  [["CE0_N", "CE1_N", "CE2_N", "CE3_N", "VSS", "VDDQ_NAND"], ["DQ0", "DQ1", "VSS", "DQ2", "DQ3", "CE4_N"],
   ["DQS_T", "DQS_C", "VSS", "RE_T", "RE_C", "CE5_N"], ["DQ4", "DQ5", "VSS", "DQ6", "DQ7", "CE6_N"],
   ["CLE", "ALE", "WE_N", "WP_N", "VDDQ_NAND", "CE7_N"]]

/-- Table 21-11; rows B and D carry ground alone. -/
def hostTile : List (List String) :=
  [["TX0_P", "TX0_N", "VSS", "TX1_P", "TX1_N", "VSS", "REFCLK_P", "REFCLK_N"], [],
   ["TX2_P", "TX2_N", "VSS", "TX3_P", "TX3_N", "VSS", "PERST_N", "VSS"], [],
   ["RX0_P", "RX0_N", "VSS", "RX1_P", "RX1_N", "VSS", "VDDA_HP", "VSS"], ["RX2_P", "RX2_N", "VSS", "RX3_P", "RX3_N", "VSS", "VDD_HP", "VSS"]]

/-- Table 21-12. -/
def dramTile : List (List String) :=
  [["DQ0", "DQ1", "DQ2", "DQ3", "DMI0", "RDQS0_T", "RDQS0_C"], ["DQ4", "DQ5", "DQ6", "DQ7", "VSS", "WCK0_T", "WCK0_C"],
   ["CA0", "CA1", "CA2", "CA3", "VSS", "CK_T", "CK_C"], ["CA4", "CA5", "CA6", "CS0", "CS1", "VSS", "VSS"],
   ["DQ8", "DQ9", "DQ10", "DQ11", "DMI1", "RDQS1_T", "RDQS1_C"], ["DQ12", "DQ13", "DQ14", "DQ15", "VSS", "WCK1_T", "WCK1_C"]]

/-- Signals of K20 to K44, Table 21-13. -/
def controlRow : List String :=
  ["XTAL32_IN", "XTAL32_OUT", "PLOSS_N", "OVP_N", "CHG_EN", "CAPV", "CAPV_RTN", "FAULT_N", "TESTMODE", "PWRGD", "SYS_REFCLK_P", "SYS_REFCLK_N",
   "I3C_SCL", "I3C_SDA", "SMB_CLK", "SMB_DAT", "DM_RESET_N0", "DM_RESET_N1", "DM_RESET_N2", "DM_RESET_N3", "DM_ZQ0", "DM_ZQ1", "DM_ZQ2",
   "DM_ZQ3", "NF_ZQ"]

/-- Supplies of L20 to L43, Table 21-13. -/
def supplyRow (j : Nat) : Supply := if j ≤ 25 then .vddAon else if j ≤ 31 then .vddIo else if j ≤ 37 then .vddCst else .vddWhs

/-- A ball that a region's rule assigns: ground where the sum of row and column is even, a supply elsewhere. -/
def chequer (i j : Nat) (x : Supply) : Ball := if (i + j) % 2 = 0 then .vss else .rail x

/-- Ball of a NAND tile: `j` is the column counted from 1 at the package edge, `base` the side's first channel (R490). -/
def nandBall (base i j : Nat) : Ball :=
  cellOf "NF" (base + (if j ≤ 6 then 0 else 8) + (i - 9) / 5) (tileAt nandTile ((i - 9) % 5) ((j - 1) % 6))

/-- The ball at row index `i` and column `j`, both from 1 to 58 (R489); none: no such ball. -/
def ballAt (i j : Nat) : Option Ball :=
  if i = 0 ∨ j = 0 ∨ 58 < i ∨ 58 < j then none
  else some (
    if i ≤ 8 then
      if j < 13 ∨ 47 < j then chequer i j .vddqNand
      else if i ≤ 6 then
        (if (j - 13) % 9 = 8 then .vss else cellOf "HP" ((j - 13) / 9) (tileAt hostTile (i - 1) ((j - 13) % 9)))
      else chequer i j (if i = 7 then .vddHp else .vddaHp)
    else if i ≤ 48 then
      if j ≤ 12 then nandBall 0 i j
      else if 47 ≤ j then nandBall 16 i (59 - j)
      else if i = 10 ∧ 20 ≤ j ∧ j ≤ 44 then .sig "" 0 (controlRow.getD (j - 20) "")
      else if i = 11 ∧ 20 ≤ j ∧ j ≤ 43 then .rail (supplyRow j)
      else chequer i j (if j ≤ 40 then .vddCore else .vddSram)
    else if 52 ≤ i ∧ i ≤ 57 then
      (if j = 1 ∨ j = 58 then .vss
       else cellOf (if (j - 2) / 7 % 2 = 0 then "DMA" else "DMB") ((j - 2) / 14) (tileAt dramTile (i - 52) ((j - 2) % 7)))
    else chequer i j (if i ≤ 50 then .vdd2hDram else .vddqDram))

/-- Letters of a row, A to Y and then AA onward without I, O, Q, R, S, X and Z. -/
def rowName (i : Nat) : String :=
  let l (k : Nat) : String := ["A", "B", "C", "D", "E", "F", "G", "H", "J", "K", "L", "M", "N", "P", "T", "U", "V", "W", "Y"].getD k ""
  if i ≤ 19 then l (i - 1) else l ((i - 1) / 19 - 1) ++ l ((i - 1) % 19)

/-- Lane `l` of a merged link whose lowest member is `lo` uses this port's tile and this lane of it (R491). -/
def laneOf (lo l : Nat) : Nat × Nat := (lo + l / 4, l % 4)

end Sys2Proof.Machine
end

