-- ==== Sys2Proof/Machine/State.lean ====
section
/-! DEFINITION. The state of the device, by subsystem, and the state right after reset: plain data only. Each field's
docstring gives the rule of spec/ that names it, then its width or range. A field's value after reset stands behind its
`:=`. Registers with stored content that no other field holds are in `State.regs`, keyed by window byte address. -/

namespace Sys2Proof.Machine

/-- Reasons the machine stops with a fault. The manual gives an effect, or "no effect", for every event
(00_scope: an event that does not appear for a state leaves that state unchanged), so no meaning raises one. -/
inductive Fault where
  /-- An address outside the 128 MiB management window (R46) was used as a window address. Raised by REGISTER_WRITE,
  REGISTER_READ, RING_ENTRY_WRITE and SLOT_FLAG_WRITE. Safe: the machine stops. -/
  | noSuchAddress (addr : Nat)
deriving DecidableEq, Repr

/-- Reasons a command is refused by the model. -/
inductive Refusal where
  /-- The command has no meaning yet. Raised by `exec` only. Safe: the machine stops. -/
  | notModelled (mnemonic : String)
deriving DecidableEq, Repr

/-! ## Device level -/

/-- Device modes, Table 2-1. -/
inductive Mode where
  | boot | operational | degraded | writeProtected | offline | sanitize | holdup | standpipe | dormant | factory
deriving DecidableEq, Repr

/-- Domain states, R31. -/
inductive DomState where
  | inService | rebuilding | offline
deriving DecidableEq, Repr

/-- Mode, boot and reset control (SYS). -/
structure Sys where
  /-- R30; 4 bits. The device mode. -/
  mode : Mode := .boot
  /-- R30, Table 2-5 PREV_MODE; 4 bits. -/
  prevMode : Mode := .boot
  /-- Table 2-5 CHG_CNT; 8 bits. -/
  chgCnt : Nat := 0
  /-- R37, Table 2-5 TM_IGN; 1 bit. -/
  tmIgn : Bool := false
  /-- R43, Table 2-5 HOLD; 1 bit. -/
  hold : Bool := false
  /-- Table 2-7 HOLD_WHY, R473; 4 bits. -/
  holdWhy : Nat := 0
  /-- Table 2-7 STEP; 4 bits. Last boot step completed. -/
  step : Nat := 0
  /-- Table 2-7 RST_CAUSE; 4 bits. -/
  rstCause : Nat := 0
  /-- Table 2-7 PROF_SLOT; 1 bit. -/
  profSlot : Nat := 0
  /-- Table 2-7 IMG_SLOT; 1 bit. -/
  imgSlot : Nat := 0
  /-- R471; 1 bit. The boot lock is applied. -/
  locked : Bool := false
  /-- R37; 1 bit. TESTMODE high with the test fuse unblown at the last chip reset. -/
  testArmed : Bool := false
  /-- Table 2-8 MODE_GET D2-D3; 64 bits. Time base at the last mode change. -/
  chgTime : Nat := 0
  /-- R33, R72, R307; RST_CAUSE of a requested chip reset whose reset spill has not begun. -/
  resetReq : Option Nat := none
  /-- R34, R307; RST_CAUSE of the chip reset that ends the HOLDUP in force. -/
  holdupCause : Nat := 1
  /-- R33, R477; 1 bit. A chip reset is due: rails good after power-up, HOLDUP ended with good supplies, DORMANT wake. -/
  resetDue : Bool := false
  /-- R498; an accepted MODE_REQUEST for STANDPIPE or DORMANT whose entry begins. -/
  modeReq : Option Mode := none
  /-- R375, R498; 1 bit. Fetch and ring service are stopped for an entry in progress. -/
  fetchStop : Bool := false
  /-- R377; 1 bit. A wake event of R377 waits to be served. -/
  wakeReq : Bool := false
  /-- R477, R478; 1 bit. The rails are up and PWRGD high. -/
  railsUp : Bool := true
deriving DecidableEq, Repr

/-- Levels of the control pins (R480, R481, R483). -/
structure Pins where
  /-- R480; 1 bit. TESTMODE level. -/
  testmode : Bool := false
  /-- R37; 1 bit. Test fuse blown. -/
  fuseBlown : Bool := true
  /-- R478; 1 bit. PWRGD level. -/
  pwrgd : Bool := true
  /-- R302, Table 16-7g; 1 bit. PLOSS_N level. -/
  plossN : Bool := true
  /-- R400, Table 16-7g; 1 bit. OVP_N level. -/
  ovpN : Bool := true
  /-- R364; 1 bit. FAULT_N latch of island 0 (true: asserted). Survives chip reset. -/
  faultN : Bool := false
  /-- R399; 1 bit. CHG_EN level driven. Not changed by a chip reset. -/
  chgEn : Bool := false
deriving DecidableEq, Repr

/-! ## Cament -/

/-- A request as taken from a ring, a C0h command or an MCTP message (R48). -/
structure CamReq where
  src : Nat
  words : List Word
  payload : List Byte := []
  /-- The tag of the carrying C0h command. -/
  tag : Option Nat := none
  bus : Option Bus := none
  /-- R69; the path it came by was lost: its replies are discarded. -/
  mute : Bool := false
  /-- Table 14-3; a word of the packet was uncorrectable when it was taken. -/
  torn : Bool := false
deriving DecidableEq, Repr

/-- One ring pair (R49-R55). -/
structure Ring where
  /-- Table 3-7 VEC; 11 bits. -/
  vec : Nat := 0
  /-- Table 3-7 IRQ_EN; 1 bit. -/
  irqEn : Bool := false
  /-- Table 3-7 SIZE; 4 bits. -/
  size : Nat := 0
  /-- Table 3-7 EN; 1 bit. -/
  en : Bool := false
  /-- Table 3-8b REQ_HEAD; 12 bits. -/
  head : Nat := 0
  /-- Table 3-8b RPL_NEXT; 12 bits. -/
  rplNext : Nat := 0
  /-- Table 3-8a TAIL; 12 bits. The latest doorbell. -/
  tail : Nat := 0
  /-- R54; reply entries reserved. -/
  reserved : Nat := 0
  /-- Table 3-8c OWN_ERR; 1 bit. -/
  ownErr : Bool := false
  /-- Table 3-8c RPL_STALL; 1 bit. -/
  rplStall : Bool := false
  /-- Table 3-8c CFG_ERR; 1 bit. -/
  cfgErr : Bool := false
  /-- Table 3-8c DB_ERR; 1 bit. -/
  dbErr : Bool := false
  /-- R55; 1 bit. A reply without NO_IRQ has been written since the last message. -/
  owed : Bool := false
deriving DecidableEq, Repr

/-- State of an operation handle (R57). -/
inductive OpSt where
  | running | complete
deriving DecidableEq, Repr

/-- A long operation (R57, R58). -/
structure LongOp where
  st : OpSt := .running
  src : Nat := 0
  tag : Nat := 0
  opcode : Nat := 0
  target : Nat := 0
  notify : Bool := false
  noIrq : Bool := false
  fence : Bool := false
  status : Nat := 0
  detail : List Word := []
  /-- Slots held (first, count) and, for an outbound operation, the bytes written. -/
  slots : Option (Nat × Nat) := none
  outbound : Bool := false
  written : Nat := 0
  /-- Completion order, for R57's choice of the handle completed longest ago. -/
  done : Nat := 0
  /-- FINAL reply discarded (R51, R69). -/
  discard : Bool := false
  /-- A second reply entry is reserved on the ring (R54). -/
  rsv : Bool := false
  /-- Parameters its end needs (R464). -/
  args : List Nat := []
  /-- R56; earlier long operations of the same source, group and target that have not ended: this one ends after them. -/
  behind : List Nat := []
  /-- R56; the result of an operation whose work is over and that waits for those: status, detail, outbound data. -/
  ended : Option (Nat × List Word × List Byte) := none
deriving DecidableEq, Repr

/-- An answer that waits for earlier long operations of the same source, group and target (R56). -/
structure Gated where
  req : CamReq
  status : Nat
  detail : List Word := []
  payload : List Byte := []
  behind : List Nat
deriving DecidableEq, Repr

/-- Cament state. -/
structure Cam where
  /-- R47, Table 3-6 DRAM_TROUGH; 1 bit. -/
  dramTrough : Bool := false
  /-- R49; ring pairs 0-3. -/
  rings : Tbl Ring := []
  /-- R56; requests taken and dispatched, not yet carried out, oldest first. -/
  queue : List CamReq := []
  /-- R57; operation handles 0-63. -/
  ops : Tbl LongOp := []
  /-- R57; completions of long operations so far. -/
  opSeq : Nat := 0
  /-- R56; answers that wait for earlier long operations, in arrival order. -/
  gate : List Gated := []
  /-- R59; 32 bits per slot. Slot flag words that are not 0. -/
  flags : Tbl Word := []
  /-- R46; the ring area and the trough data, one byte per window address: addresses strictly rising, no entry 0. -/
  mem : List Host.Cell := []
  /-- R68, Table 19-6b CAM_BUSY; sideband requests that wait, oldest first. -/
  side : List CamReq := []
deriving DecidableEq, Repr

/-! ## Host ports -/

/-- A host port (Table 4-8c to 4-8e). PORT_CTL and PORT_EVT are in `State.regs`. -/
structure Port where
  /-- Table 4-8c LINK_UP; 1 bit. -/
  up : Bool := false
  /-- Table 4-8c STATE; 4 bits. -/
  st : Nat := 0
  /-- Table 4-8c WIDTH; 5 bits. -/
  width : Nat := 0
  /-- Table 4-8c RATE; 4 bits. -/
  rate : Nat := 0
  /-- Table 4-8c FLIT; 1 bit. -/
  flit : Bool := false
  /-- Table 4-8c PERST; 1 bit. -/
  perst : Bool := false
  /-- R95; 1 bit. Configuration space is ready. -/
  cfgReady : Bool := false
  /-- R81, Table 4-2; IDE streams of the link in the Insecure state: 0 the link IDE stream, 1 to 8 selective ones. -/
  ideInsecure : List Nat := []
  /-- R81, R93; IDE streams whose keys are held. -/
  ideKeys : List Nat := []
  /-- R382; 1 bit. A PTM request is outstanding. -/
  ptmOut : Bool := false
deriving DecidableEq, Repr

/-- Per-function state above the port (R79, R83, R93, R156, R161, R162), keyed by controller index 253 n + j. The manual gives no value after a
reset of the function but for VF Enable; the others take the PCIe base specification's (PRESUMED, log entry 53). -/
structure Fn where
  /-- R83; VF Enable of a PF. -/
  vfEnable : Bool := false
  /-- R156; ATS Enable. -/
  atsEn : Bool := false
  /-- R162; PRI Enable. -/
  priEn : Bool := false
  /-- R162; PRI stopped. -/
  priStopped : Bool := false
  /-- R162; Response Failure in the PRI status. -/
  priFail : Bool := false
  /-- R161; Outstanding Page Request Allocation, at most 1,024. -/
  priAlloc : Nat := 0
  /-- R79; Max Payload Size in bytes. -/
  mps : Nat := 128
  /-- R382; PTM enabled. -/
  ptmEn : Bool := false
  /-- R79, R83; NumVFs of a PF. -/
  numVfs : Nat := 0
  /-- Table 4-2; System Page Size 64 KiB (false: 4 KiB). -/
  vfPage64 : Bool := false
  /-- Table 4-2; Max Read Request Size in bytes. -/
  mrrs : Nat := 512
  /-- Table 4-2; Relaxed Ordering, ID-Based Ordering, No Snoop as enabled by the host. -/
  ro : Bool := true
  ido : Bool := false
  noSnoop : Bool := true
  /-- Table 4-2; D3hot (false: D0). -/
  d3hot : Bool := false
  /-- R84; bus addresses of the BARs by their number, and of the VF BARs of a PF. -/
  bars : Tbl Nat := []
  vfBars : Tbl Nat := []
  /-- Table 4-2; MSI-X Enable and Function Mask. -/
  msixEn : Bool := false
  msixMask : Bool := false
  /-- Table 4-2, R98; ECRC generation and check enabled. -/
  ecrcGen : Bool := false
  ecrcChk : Bool := false
  /-- Table 4-2; ACS controls. -/
  acs : Nat := 0
  /-- Table 4-2; LTR enabled. -/
  ltrEn : Bool := false
  /-- Table 4-2; ASPM L1, L1.1 and L1.2 enabled. -/
  aspmL1 : Bool := false
  aspmL11 : Bool := false
  aspmL12 : Bool := false
  /-- R79, R93, R98; AER error status, sticky; the error whose header is logged, with the header. -/
  aer : List AerErr := []
  aerHdr : Option (AerErr × List Word) := none
deriving DecidableEq, Repr

/-- The partner as the PR device has enumerated it (Table 4-5): bus number, BAR addresses, Bus Master Enable, the admin queue, and the mirror
I/O queues created. -/
structure Partner where
  bus : Option Nat := none
  bars : List Nat := []
  bme : Bool := false
  adminQ : Bool := false
  mirrorQs : Nat := 0
deriving DecidableEq, Repr

/-- A window access to a register whose island is not ON, which waits for it (R22, R468): its address, size and, for a write, value. `late`: it
has waited 1 ms. -/
structure HeldAcc where
  write : Bool
  addr : Nat
  size : Nat
  value : Nat := 0
  late : Bool := false
deriving DecidableEq, Repr

/-- Host port complex. -/
structure Hpc where
  /-- Table 4-8a MERGE; 3 bits. -/
  merge : Nat := 0
  /-- Table 4-8a ROLE; 4 bits. -/
  role : Nat := 0
  /-- Table 4-8a PFACE; 4 bits. -/
  pface : Nat := 0
  /-- Table 4-8a TIME_PORT; 2 bits. -/
  timePort : Nat := 0
  /-- R77; 1 bit. The port configuration has been applied. -/
  applied : Bool := false
  /-- R77; 1 bit. The ports are released for link training. -/
  released : Bool := false
  /-- Table 4-8b CFG_PEND; 1 bit. -/
  cfgPend : Bool := false
  /-- Table 4-8b PF_STATE; 3 bits. -/
  pfState : Nat := 0
  /-- Table 4-8b TWIN; 3 bits. -/
  twin : Nat := 0
  /-- R90; the partner on the PR link. -/
  partner : Partner := {}
  /-- R50; 2 bits. MGMT_PORT in force. -/
  mgmtPort : Nat := 0
  /-- Ports HP0-HP3. -/
  ports : Tbl Port := []
  /-- Functions by controller index. -/
  fns : Tbl Fn := []
  /-- R22, R468; window accesses that wait for an island, in the order offered. -/
  held : List HeldAcc := []
  /-- R91; the 4 GiB inbound window, by offset: addresses strictly rising, no entry 0. -/
  window : List Host.Cell := []
deriving DecidableEq, Repr

/-! ## NVMe queueing -/

/-- An Error Information entry (R112, R166, R341, R366, R419). -/
structure ErrEntry where
  sqid : Nat
  cid : Nat
  status : Sc
  vendor : Nat := 0
  csi : Nat := 0
deriving DecidableEq, Repr

/-- Asynchronous events (R40, R106, R112, R366, R421, R463). -/
inductive Aen where
  | smart | invalidDoorbellReg | invalidDoorbellValue | persistentInternal | transientInternal | subsystemReliability
  | temperatureThreshold | fwActivationStarting | telemetryNotice | nsChanged
deriving DecidableEq, Repr

/-- The capabilities a controller reports (R100, R101, Table 5-3). -/
structure CtrlCap where
  /-- CAP.MQES; entries of an I/O queue less one. -/
  mqes : Nat := 0xFFFF
  cqr : Bool := true
  ams : Nat := 1
  /-- CAP.TO, in 500 ms. -/
  tmo : Nat := 0xFF
  dstrd : Nat := 0
  nssrs : Bool := true
  mpsMin : Nat := 0
  mpsMax : Nat := 4
  /-- CAP.CSS; the NVM command set alone. -/
  css : Nat := 1
deriving DecidableEq, Repr

/-- An NVMe controller (R100-R127). -/
structure Ctrl where
  /-- R100, R101. -/
  cap : CtrlCap := {}
  /-- R101; CC.MPS: memory pages of 4,096 × 2^MPS bytes. -/
  mps : Nat := 0
  /-- R127; CC.EN. -/
  en : Bool := false
  /-- R127; CSTS.RDY. -/
  rdy : Bool := false
  /-- R126; CC.SHN written. -/
  shn : Bool := false
  /-- R125; CSTS.NSSRO. -/
  nssro : Bool := false
  /-- R421; CSTS.PP. -/
  pp : Bool := false
  /-- R109; CC.AMS. -/
  ams : Nat := 0
  /-- R104; Number of Queues set by the host: submission, completion. -/
  numQ : Option (Nat × Nat) := none
  /-- R105; flexible VQ resources assigned. -/
  vqFlex : Nat := 0
  /-- R105; flexible VI resources assigned. -/
  viFlex : Nat := 0
  /-- R105; Primary Controller Flexible Allocation effective at the next Controller Reset. -/
  flexNext : Option (Nat × Nat) := none
  /-- R105; a secondary controller is online. -/
  online : Bool := false
  /-- R100; feature values by feature identifier (07h apart); absent: default 0. -/
  feats : Tbl Nat := []
  /-- R387, R388; selected power state. -/
  ps : Nat := 0
  /-- R40; tags of outstanding Asynchronous Event Requests. -/
  aers : List Nat := []
  /-- R40; critical-warning bits whose event is held. -/
  heldWarn : Nat := 0
  /-- R366; further events waiting for a request. -/
  events : List Aen := []
  /-- Table 5-1 log page 01h; newest first, at most 256. -/
  errLog : List ErrEntry := []
  /-- R67; log page C0h, 8 words. -/
  lastReply : List Word := []
  /-- Table 5-1 log page 04h. -/
  changedNs : List Nat := []
  /-- R443; the Security Receive response held. -/
  secResp : Option Nat := none
  /-- R109; the queue fetched last and the commands left in its arbitration burst. -/
  lastQ : Nat := 0
  burst : Nat := 0
  /-- R109; the queue served last in each class of CC.AMS. -/
  turns : Tbl Nat := []
  /-- R109; commands left to the high, medium and low weighted classes in the round. -/
  credits : List Nat := [0, 0, 0]
  /-- Table 5-6; completions of each interrupt vector since its last interrupt, and the time base of the first of them (features 08h, 09h). -/
  aggr : Tbl (Nat × Nat) := []
deriving DecidableEq, Repr

/-- A submission queue, keyed by 65,536 × controller + QID (admin: QID 0). -/
structure Sq where
  /-- R104; entries. -/
  size : Nat
  cqid : Nat := 0
  /-- R109; QPRIO. -/
  prio : Nat := 0
  /-- R109; next entry fetched, also SQHD. -/
  head : Nat := 0
  /-- R106; doorbell store. -/
  tail : Nat := 0
  /-- R112; fetch-stopped. -/
  stopped : Bool := false
  /-- R112; a failed read waits for its retry. -/
  retry : Bool := false
  /-- R108; order of last use, for the least recently used choice. -/
  used : Nat := 0
  /-- R107; the context is held hot (admin contexts always are). -/
  hot : Bool := false
  /-- R119; the tag of a fused first command whose second is the next entry to be fetched. -/
  half : Option Nat := none
  /-- R119; the next entry is a fused first command whose second is not present yet. -/
  lone : Bool := false
deriving DecidableEq, Repr

/-- A completion queue, keyed as submission queues are. -/
structure Cq where
  /-- R104; entries. -/
  size : Nat
  /-- Table 5-1 IV. -/
  iv : Nat := 0
  ien : Bool := true
  /-- R106; head doorbell. -/
  head : Nat := 0
  /-- R123; next entry written. -/
  tail : Nat := 0
  phase : Bool := true
deriving DecidableEq, Repr

/-- Tag states, Table 5-6 (FREE: no entry in the tag table). -/
inductive TagSt where
  | adm | run | suspended | post
deriving DecidableEq, Repr

/-- Context states, Table 7-3 (`idle`: no context). -/
inductive CtxSt where
  | idle | running | txWait | pgQueued | pgWait | mpWait | resume
deriving DecidableEq, Repr

/-- A command context (R151-R153). -/
structure Ctx where
  st : CtxSt := .idle
  /-- R151; progress point: byte offset, or IU index. -/
  prog : Nat := 0
  /-- R158, R163; the page or map page waited on. -/
  page : Nat := 0
  /-- R151, R153; the fault is of the list fetch nested in the Host DMA context: the number of the list or segment it reads. -/
  lst : Option Nat := none
  /-- R160; a PRG was sent for this fault. -/
  prgSent : Bool := false
  /-- R160; PRG index held. -/
  prg : Nat := 0
  /-- R158; pieces of the transfer, one to a host page, whose translations have been asked for ahead. -/
  ahead : Nat := 0
  /-- R164, R170; time base when the fault was taken. -/
  since : Nat := 0
deriving DecidableEq, Repr

/-- One LBA of a read as it comes back: its value (data in the low bytes, metadata above), poisoned, or on the bad-LBA list. -/
inductive LbaGot where
  | ok (v : Nat) | psn | bad
deriving DecidableEq, Repr

/-- A tag table entry (R110, R111). -/
structure Tag where
  ctrl : Nat
  qid : Nat
  ent : Entry
  /-- R109; fetch sequence number, 32 bits. -/
  seq : Nat
  st : TagSt := .adm
  /-- R128; classification at fetch. -/
  tenant : Option Nat := none
  /-- R113; write-class and taken without detector entries. -/
  untracked : Bool := false
  /-- R118, Table 8-5; its data (or records) reached the point that stands for "in a well". -/
  placed : Bool := false
  /-- R201; holds a grant. -/
  granted : Bool := false
  /-- R153; Host DMA context. -/
  dma : Ctx := {}
  /-- R153; map lookup context. -/
  lkp : Ctx := {}
  /-- R134; transfer blocks started, and bytes reserved. -/
  blocks : Nat := 0
  reserved : Nat := 0
  /-- R130; bytes delivered so far that are charged. -/
  moved : Nat := 0
  /-- Status prepared for POST. -/
  status : Sc := .success
  dnr : Bool := false
  dw0 : Nat := 0
  dw1 : Nat := 0
  /-- R123; order of entry into POST. -/
  postSeq : Nat := 0
  /-- R119; the other tag of a fused pair while that exists, and whether the command belongs to a pair. -/
  fused : Option Nat := none
  pair : Bool := false
  /-- R137; bytes by which its tenant's deficit was debited at dispatch. -/
  debited : Nat := 0
  /-- R26, R283; the partner's completion is outstanding. -/
  mirWait : Bool := false
  /-- R24; codewords of a read that have been decoded, with their poison verdict, and those still being read. -/
  got : List (Nat × Bool) := []
  want : List Nat := []
  /-- R337; codewords read a second time after their seal failed at egress. -/
  again : List Nat := []
  /-- R117; the IU at the progress point while a sector of it is delivered in part, as it was looked up: IU, its LBAs, whether from NAND. -/
  cut : Option (Nat × List LbaGot × Bool) := none
  /-- R129; it failed a check of Table 5-7 or was aborted in ADMIT: it is charged nothing. -/
  uncharged : Bool := false
  /-- R188, R341; some delivered data was poisoned. -/
  psn : Bool := false
  /-- R187, R293; its records are in the log up to this position, and it waits until they are durable. -/
  recs : Option Nat := none
  /-- R26; local work done, completion held for the partner. -/
  localDone : Bool := false
  /-- R100, R461; tunneled over the sideband or in-band Cament: long-operation handle or bus. -/
  via : Option Bus := none
deriving DecidableEq, Repr

/-- An overlap detector entry (R113). -/
structure Ovl where
  ns : Nat
  lo : Nat
  hi : Nat
  seq : Nat
  /-- R114; its data is in a write well. -/
  inWell : Bool := false
  /-- R118; the command's tag still exists. -/
  tag : Option Nat := none
deriving DecidableEq, Repr

/-- NVMe queueing engine. -/
structure Nvq where
  ctrls : Tbl Ctrl := []
  sqs : Tbl Sq := []
  cqs : Tbl Cq := []
  tags : Tbl Tag := []
  /-- R109, R295; next fetch sequence number. -/
  seq : Nat := 0
  /-- R123; entries into POST so far. -/
  postSeq : Nat := 0
  /-- R108; uses of queue contexts so far. -/
  useSeq : Nat := 0
  /-- R137; the controller from which an I/O queue was fetched last. -/
  lastCtl : Nat := 0
  /-- R461; tunneled admin commands that wait for a tag, oldest first: bus, controller, entry. -/
  tun : List (Bus × Nat × Entry) := []
  /-- R113; detector entries. -/
  ovl : List Ovl := []
  /-- Table 14-3; the detector is taken as full until commands up to this sequence number are gone. -/
  ovlFullTill : Option Nat := none
  /-- Table 5-15 OVL_HWM; 13 bits. -/
  ovlHwm : Nat := 0
  /-- Table 5-15 TAG_HWM; 17 bits. -/
  tagHwm : Nat := 0
  /-- Table 5-16; first queue stopped since the last read: controller, QID. -/
  sqStop : Option (Nat × Nat) := none
  /-- R126; 1 bit. Every host controller is shut down: no stripe opens. -/
  shutHold : Bool := false
  /-- R126; the controller whose shutdown completes the set waits for wells and stripes. -/
  shutLast : Option Nat := none
  /-- R126; 1 bit. The set of R126 is complete and its programming waits for data still on its way into wells. -/
  shutDue : Bool := false
deriving DecidableEq, Repr

/-! ## Tenants -/

/-- A tenant entry (Table 6-3) with its meters and counters. -/
structure Tenant where
  /-- Table 6-3 BW_MIN; 16 bits. -/
  bwMin : Nat := 0
  bwMax : Nat := 0
  ioMin : Nat := 0
  ioMax : Nat := 0
  /-- Table 6-14 WEIGHT; 8 bits. -/
  weight : Nat := 1
  /-- Table 6-14 OUT_MAX; 15 bits. -/
  outMax : Nat := 1024
  en : Bool := false
  /-- R133; bandwidth maximum meter, in units of 1/1,024,000 byte. -/
  mBwMax : Int := 0
  mBwMin : Nat := 0
  /-- R133; IOPS maximum meter, in units of 1/1,024,000,000 operation. -/
  mIoMax : Int := 0
  mIoMin : Nat := 0
  /-- R137; deficit. -/
  deficit : Int := 0
  /-- Table 6-15 UNITS; 64 bits. -/
  units : Nat := 0
  /-- Bytes charged that do not yet make a 512-byte unit. -/
  frac : Nat := 0
  /-- Table 6-15 OPS; 32 bits. -/
  ops : Nat := 0
  /-- Table 6-15 UNITS_HI latch; 32 bits. -/
  hiLatch : Nat := 0
deriving DecidableEq, Repr

/-- A running trace (R148). -/
structure Trace where
  tenant : Nat
  handle : Nat
  first : Nat
  count : Nat
  bins : Nat
  start : Nat
  /-- Charges so far: bin, 512-byte units, operations. -/
  log : List (Nat × Nat × Nat) := []
deriving DecidableEq, Repr

/-- Tenant QoS scheduler. -/
structure Qos where
  tnts : Tbl Tenant := []
  /-- R128; controller index to tenant. -/
  bindC : Tbl Nat := []
  /-- R128; NSID to tenant. -/
  bindN : Tbl Nat := []
  /-- Table 6-8 SCALE_BW; 11 bits. -/
  scaleBw : Nat := 1024
  /-- Table 6-8 SCALE_IO; 11 bits. -/
  scaleIo : Nat := 1024
  /-- Table 6-9 BW, IO; 16 bits each. -/
  capBw : Nat := 0
  capIo : Nat := 0
  /-- R137; deficit of the unassigned commands. -/
  unasg : Int := 0
  /-- R137; the tenant served last among those with minimum credit and among the others, at fetch and at die dispatch (1,024: unassigned). -/
  lastMin : Nat := 1024
  lastRest : Nat := 1024
  trace : Option Trace := none
deriving DecidableEq, Repr

/-! ## Translation -/

/-- An ATC entry (R157). -/
structure Atc where
  ctrl : Nat
  page : Nat
  pages : Nat
  r : Bool
  w : Bool
deriving DecidableEq, Repr

/-- An engine step context (R151, R154): the IU at its progress point, its step number and the IU's index within the step. `frees`: the step
releases write-well or accumulator space (R164). -/
structure EngCtx where
  ns : Nat
  iu : Nat
  step : Nat := 0
  idx : Nat := 0
  frees : Bool := false
  st : CtxSt := .running
  since : Nat := 0
deriving DecidableEq, Repr

/-- A Translation Request (R158, R159, R171) of a tag (none: its command has ended), with the pages it covers. `again`: it
has been sent again; `wait`: it failed and waits to be sent again; `stale`: an Invalidate Request overtook it. -/
structure XReq where
  tag : Option Nat
  ctrl : Nat
  page : Nat
  pages : Nat
  again : Bool := false
  wait : Bool := false
  stale : Bool := false
deriving DecidableEq, Repr

/-- A Page Request Group outstanding (R160, R161): function, index, its pages, and the access. -/
structure Prg where
  ctrl : Nat
  idx : Nat
  pages : List Nat
  w : Bool
deriving DecidableEq, Repr

/-- Translation and fault unit. -/
structure Xlt where
  atc : List Atc := []
  /-- R154; 1,024 save slots. -/
  eng : Tbl EngCtx := []
  /-- R154; engine steps that wait for a slot, oldest first. -/
  engWait : List EngCtx := []
  /-- R158, R159, R171; Translation Requests by number; the next number. -/
  reqs : Tbl XReq := []
  nextReq : Nat := 0
  /-- R160, R161; Page Request Groups outstanding. -/
  prgs : List Prg := []
  /-- R163; map pages whose read is outstanding: (namespace, page), at most 1,024; then those that wait. -/
  reads : List (Nat × Nat) := []
  waits : List (Nat × Nat) := []
  /-- Table 7-12 LONG_US; 32 bits. -/
  hwm : Nat := 0
  /-- Table 7-13; 32 bits each. -/
  cntTx : Nat := 0
  cntPg : Nat := 0
  cntMp : Nat := 0
deriving DecidableEq, Repr

/-! ## Flash translation -/

/-- A namespace (R102, R191, Table 12-1 namespace table). -/
structure Ns where
  /-- Table 8-3 INST. -/
  inst : Nat := 0
  /-- R435; key generation, 16 bits. -/
  kgen : Nat := 0
  /-- R102; NSZE, in LBAs. -/
  size : Nat := 0
  /-- R103; LBA format index. -/
  fmt : Nat := 0
  /-- R103, R338; protection information type. -/
  pi : Nat := 0
  /-- R103; metadata moves with the data of its LBA (extended LBA), not through a separate buffer. -/
  mset : Bool := false
  /-- R191; segments (domain, first IU, IUs). -/
  segs : List (Nat × Nat × Nat) := []
  /-- R102; controllers attached. -/
  att : List Nat := []
  /-- R282; a mirror store. -/
  mirror : Bool := false
  /-- False once deleted (INST is kept for the next create of the NSID). -/
  live : Bool := false
deriving DecidableEq, Repr

/-- One IU's content in a well or on NAND: the LBA data as numbers, and the marks carried with it. -/
structure IuData where
  /-- LBA data in order, each the LBA's bytes as one number. -/
  data : List Nat
  /-- R342; poison per LBA. -/
  psn : List Bool := []
  /-- R435; the key the data was encrypted under: media root generation, INST, KGEN. -/
  key : Nat × Nat × Nat := (0, 0, 0)
  /-- R335; the sector seal of each 4 KiB part. -/
  seals : List Nat := []
deriving DecidableEq, Repr

/-- A well index record (R182, R185). -/
structure WellRec where
  ns : Nat
  inst : Nat
  iu : Nat
  /-- R185; version. -/
  ver : Nat
  /-- False: a retained record. -/
  live : Bool := true
  body : IuData
  tag : Option Nat := none
  /-- R193; NAND position given, once programmed to a stripe: codeword address. -/
  pos : Option Nat := none
deriving DecidableEq, Repr

/-- Kinds of range records (R183). -/
inductive RangeKind where
  | unmapped | zero | unc
deriving DecidableEq, Repr

/-- A range record (R183). -/
structure RangeRec where
  slot : Nat
  ns : Nat
  inst : Nat
  lo : Nat
  hi : Nat
  kind : RangeKind
  ver : Nat
  folded : Bool := false
deriving DecidableEq, Repr

/-- A partial bad-LBA record (R190). -/
structure Partial where
  ns : Nat
  iu : Nat
  map : Nat
  src : Nat
deriving DecidableEq, Repr

/-- Block states of FTE, Table 8-6. -/
inductive BlkSt where
  | free | opened | closed | victim | doubt | retired | header
deriving DecidableEq, Repr

/-- Block states of FCH, Table 9-5. -/
inductive BstSt where
  | erased | opened | full | doubt | bad | header
deriving DecidableEq, Repr

/-- A block, keyed by 65,536 × die + block (R177, R194, R216). -/
structure Blk where
  st : BlkSt := .free
  /-- R194; erase count. -/
  ec : Nat := 0
  /-- R193; stream 0 HOST, 1 GC, 2 MAP, 3 spill. -/
  stream : Nat := 0
  /-- R194; in the reserved pool. -/
  resv : Bool := false
  /-- R268; stripe number and member position. -/
  stripe : Nat := 0
  pos : Nat := 0
  /-- R197; close time. -/
  closeT : Nat := 0
  /-- R198; read references. -/
  refs : Nat := 0
  /-- R216; FCH state and NEXT. -/
  bst : BstSt := .erased
  next : Nat := 0
  /-- R238; code rate index. -/
  rate : Nat := 2
  /-- R217; the block state read from DRAM has an uncorrectable error. -/
  ue : Bool := false
deriving DecidableEq, Repr

/-- A codeword on NAND (Table 10-1), keyed by 2^27 × die + CW. -/
structure Cw where
  ns : Nat
  inst : Nat
  iu : Nat
  body : IuData
  poison : Bool := false
  stream : Nat := 0
  ver : Nat := 0
deriving DecidableEq, Repr

/-- What a codeword position given by FTE will hold (R193): host data of a well record, data moved by garbage collection,
rebuild or relocation from a source codeword, a map page folded or a directory page written up to a log position, one that rebuild moves as it was,
other MAP-stream content that makes the log durable up to a position, or a spilled accumulator's stripe content. -/
inductive ProgKind where
  | host | move (src : Nat) | mapPage (page fold : Nat) | dirPage (no fold : Nat) (entries : Tbl Nat) | movePage (page src : Nat) | moveDir (no src : Nat)
  | shadow (upto : Nat)
deriving DecidableEq, Repr

/-- A codeword given a position whose program has not passed (R185, R186, R218). -/
structure Prog where
  kind : ProgKind
  ns : Nat := 0
  inst : Nat := 0
  iu : Nat := 0
  ver : Nat := 0
  body : IuData
  poison : Bool := false
  /-- R172; codeword 0 to 3 of a 16 KiB IU. -/
  part : Nat := 0
  dom : Nat := 0
deriving DecidableEq, Repr

/-- States of a victim stripe, Table 8-7. -/
inductive GcSt where
  | selected | scan | copy | drain | erase
deriving DecidableEq, Repr

/-- A victim stripe. -/
structure Victim where
  dom : Nat
  stripe : Nat
  st : GcSt := .selected
  /-- Table 8-7; codewords asked of the die queues, and those read so far with their poison verdict. -/
  asked : List Nat := []
  got : List (Nat × Bool) := []
deriving DecidableEq, Repr

/-- Garbage collection of a domain (R196, R204). -/
structure Gc where
  /-- R204; GC_CONTROL mode. -/
  mode : Nat := 0
  target : Nat := 0
  op : Option Nat := none
  /-- R204; the mode before the present one. -/
  prev : Nat := 0
  /-- R196; running in the background. -/
  act : Bool := false
  /-- R196; urgent. -/
  urg : Bool := false
  /-- R196; blocks freed since HOST last opened a stripe. -/
  freed : Nat := 0
deriving DecidableEq, Repr

/-- Flash translation engine. -/
structure Fte where
  nss : Tbl Ns := []
  /-- R173, R174; committed map entries by 2^40 × NSID + IU; absent: UNMAPPED. -/
  map : Tbl Nat := []
  /-- R179; map pages in the cache, by 2^32 × NSID + page, from the clock hand on. -/
  cached : List Nat := []
  /-- R179; cached pages referenced since the hand last passed them. -/
  refd : List Nat := []
  /-- R176; directory: codeword address of the newest written copy; absent: NONE. -/
  dir : Tbl Nat := []
  /-- R176; the cistern's root table: codeword address of the newest written copy of a directory page, by page key ÷ 512. -/
  root : Tbl Nat := []
  /-- R176; the directory as those pages hold it. -/
  dirSaved : Tbl Nat := []
  /-- R175; FOLD_SEQ of the newest written copy. -/
  foldSeq : Tbl Nat := []
  /-- R182, R185; well index. -/
  idx : List WellRec := []
  /-- R183; range table. -/
  rng : List RangeRec := []
  /-- R190; partial bad-LBA records. -/
  bad : List Partial := []
  /-- R204; source of whole IUs on the bad-LBA list, by 2^40 × NSID + IU. -/
  uncSrc : Tbl Nat := []
  /-- R177; block table. -/
  blks : Tbl Blk := []
  /-- NAND contents. -/
  nand : Tbl Cw := []
  /-- R193, R218; positions given whose programs have not passed, by codeword address. -/
  prog : Tbl Prog := []
  /-- R196; data that waits for a stripe to open: domain, stream, content. -/
  wait : List (Nat × Nat × Prog) := []
  victims : List Victim := []
  /-- R197; stripes that go first, earliest marked first: (domain, stripe). -/
  first : List (Nat × Nat) := []
  gc : Tbl Gc := []
  /-- Table 8-8 CAP_d; fixed when the domain is laid out. -/
  capD : Tbl Nat := []
  /-- R202; WRITE-PROTECTED condition. -/
  wp : Bool := false
  /-- R261; IUs waiting for relocation: (namespace, IU). -/
  reloc : List (Nat × Nat) := []
deriving DecidableEq, Repr

/-! ## Flash channels -/

/-- States of a die queue entry, Table 9-4. -/
inductive DqSt where
  | queued | tokenWait | array | suspended | busOut | done
deriving DecidableEq, Repr

/-- What a die operation is for. -/
inductive DopFor where
  | host (tag : Nat) | mapPage (ns page : Nat) | fold (ns page : Nat) | ladder (cw step : Nat) | gc | rebuild | spill | eraseBlk
  | selfTest | recal | scrub | stream
deriving DecidableEq, Repr

/-- A die queue entry (R209-R211). -/
structure Dop where
  id : Nat
  kind : DieKind
  st : DqSt := .queued
  block : Nat := 0
  step : Nat := 0
  planes : Nat := 4
  slc : Bool := false
  use : DopFor := .gc
  /-- R209; codewords a READ brings out, by address. -/
  cws : List Nat := []
  /-- R247; level offsets set with a READ, by level. -/
  offs : List Int := []
  /-- R213, R223; time base when the array phase last began, and array time before that, ns. -/
  arrT : Nat := 0
  ran : Nat := 0
  /-- R221; a program that did not fit the suspension it met: it waits until the erase has completed. -/
  late : Bool := false
  /-- R221, R224; time base when the erase was suspended. -/
  suspT : Nat := 0
  /-- R211; reads that have passed it since it entered. -/
  passed : Nat := 0
  /-- R222; suspends of this erase. -/
  susp : Nat := 0
  /-- R223; due: a read waits and the erase has run ERS_SEG. -/
  dueSusp : Bool := false
  /-- R224; resume due. -/
  dueRes : Bool := false
  /-- R392; background class. -/
  bg : Bool := false
  /-- R391; tokens held. -/
  held : Nat := 0
  /-- R393, R212; time base when the entry was queued, or became ready to transfer. -/
  since : Nat := 0
deriving DecidableEq, Repr

/-- A die (R207-R235). -/
structure Die where
  present : Bool := false
  failed : Bool := false
  queue : List Dop := []
  /-- R210; operations that wait for a queue entry, oldest first. -/
  wait : List Dop := []
  /-- R214; overruns in succession. -/
  runs : Nat := 0
  /-- Table 9-16 DIE_STATUS D1-D4. -/
  erases : Nat := 0
  progFails : Nat := 0
  eraseFails : Nat := 0
  overruns : Nat := 0
  /-- R208; parameter page bytes as read. -/
  params : Nat := 0
  /-- R277; retired: no longer counted among the domain's dies. -/
  retired : Bool := false
  /-- R214; a die reset is outstanding. -/
  resetting : Bool := false
  /-- R397; background array time run back to back, µs. -/
  bgRun : Nat := 0
  /-- R281; operations started since the last rebuild operation. -/
  hostRun : Nat := 0
deriving DecidableEq, Repr

/-- A channel (Table 9-14). -/
structure Chan where
  up : Bool := false
  trn : Bool := false
  failed : Bool := false
  iface : Nat := 0
  rate : Nat := 0
  trnTemp : Int := 0
  eye : Nat := 0
  retrains : Nat := 0
  slips : Nat := 0
  /-- R231; time base of each realignment of the last 1 ms. -/
  slipT : List Nat := []
  /-- Table 9-16 CH_STATUS D3: time base at the last training. -/
  lastTrn : Nat := 0
  /-- R247; temperature now. -/
  temp : Int := 0
deriving DecidableEq, Repr

/-- A retrain request (R231). -/
structure Retrain where
  ch : Nat
  frame : Bool := false
  rateReset : Bool := false
  op : Option Nat := none
  /-- R213; time base when the retraining began. -/
  t0 : Nat := 0
deriving DecidableEq, Repr

/-- Flash channel complex. -/
structure Fch where
  dies : Tbl Die := []
  chans : Tbl Chan := []
  /-- R231; retrain queue, arrival order. -/
  trnQ : List Retrain := []
  /-- Table 9-11 TRN_BUSY, TRN_CH. -/
  trnNow : Option Retrain := none
  /-- Table 9-11 DIES_FAILED. -/
  diesFailed : Nat := 0
  /-- Next die operation number. -/
  nextId : Nat := 0
deriving DecidableEq, Repr

/-! ## Signal recovery -/

/-- A tracking bin (R246). -/
structure Bin where
  o : Int := 0
  s : Int := 0
  t : Int := 0
  /-- R246 Tupd. -/
  tupd : Int := 0
  /-- R248; counted codewords in the window, and Σ n10, Σ n01 by page type. -/
  counted : Nat := 0
  sums : Tbl (Nat × Nat) := []
  /-- Table 10-14 LOOP_GET D1. -/
  windows : Nat := 0
deriving DecidableEq, Repr

/-- A defect column: plane, column, kind 0 factory, 1 detected, 2 added (R252, R263). -/
structure Col where
  plane : Nat
  col : Nat
  kind : Nat
deriving DecidableEq, Repr

/-- A candidate column (R251). -/
structure Cand where
  plane : Nat
  col : Nat
  hits : Nat := 1
  start : Nat := 0
deriving DecidableEq, Repr

/-- Per-die signal recovery state. -/
structure SreDie where
  bins : Tbl Bin := []
  cols : List Col := []
  /-- R250; die list: block, wordline; oldest first. -/
  wls : List (Nat × Nat) := []
  cands : List Cand := []
  /-- R251; codewords decoded per plane. -/
  cws : Tbl Nat := []
  lastStep : Nat := 0
  /-- R253; changed since the last state page. -/
  dirty : Bool := false
deriving DecidableEq, Repr

/-- Who reads a codeword (Table 10-6). -/
inductive Reader where
  | host (tag : Nat) | merge | gc | mapPage (ns page : Nat) | stripe | statePage | scrub | probe (h top : Nat) | readAround
deriving DecidableEq, Repr

/-- A codeword on the ladder (R254, R260). -/
structure Ladder where
  cw : Nat
  step : Nat := 1
  tries : Nat := 0
  readers : List Reader := []
  /-- R241; senses of the step whose frame has been taken, a sense lost by a second frame failure, and every frame is there, so that a decode can end. -/
  found : Nat := 0
  lost : Bool := false
  framed : Bool := false
  /-- R242; the read has been repeated for a frame failure; `hold`: it is repeated once the channel is back in service. -/
  reread : Bool := false
  hold : Bool := false
  /-- R255, R256; level offsets of the present read, and of the step 1 or step 2 read that stopped at the lowest syndrome weight. -/
  offs : List Int := []
  centre : List Int := []
  /-- R255; bits of the failed step 1 codeword read as 1. -/
  ones : Nat := 0
  /-- R259; queue age of the read that started the ladder. -/
  since : Nat := 0
  /-- R256; lowest syndrome weight so far; R262: that of the last decode. -/
  best : Nat := 0
  synd : Nat := 0
  /-- R213, R257; entered step 5 as a read-around. -/
  around : Bool := false
  /-- R262; MISCORR seen, frame result, by a probe. -/
  mis : Bool := false
  frame : Nat := 0
deriving DecidableEq, Repr

/-- Frame counters of a channel (Table 10-13). -/
structure ChFrame where
  realign : Nat := 0
  leadMiss : Nat := 0
  fail : Nat := 0
deriving DecidableEq, Repr

/-- Signal recovery engine. -/
structure Sre where
  dies : Tbl SreDie := []
  ladders : List Ladder := []
  /-- Table 10-11; 32 bits each, s = 1-6. -/
  stepCnt : Tbl Nat := []
  frames : Tbl ChFrame := []
deriving DecidableEq, Repr

/-! ## Die redundancy -/

/-- A parity accumulator step of an open stripe (R270). -/
structure Acc where
  step : Nat
  /-- R270, R310; data members that were given positions of the step. -/
  members : List Nat := []
  queued : Bool := false
  /-- R304; every codeword came back at replay. -/
  whole : Bool := true
deriving DecidableEq, Repr

/-- States of a stripe. -/
inductive StripeSt where
  | opened | closed | unprotected | collected
deriving DecidableEq, Repr

/-- A replacement under rebuild (R278). -/
structure Repl where
  lost : Nat
  die : Nat
  block : Nat
  /-- Group of the last step recorded as passed. -/
  step : Option Nat := none
  /-- Groups reconstructed and given to the replacement since the last reset. -/
  given : Nat := 0
deriving DecidableEq, Repr

/-- A stripe, keyed by 2^32 × domain + number (R268). -/
structure Stripe where
  stream : Nat
  /-- R268; member (die, block) by position. -/
  members : List (Nat × Nat)
  ppos : Nat
  st : StripeSt := .opened
  /-- Table 12-3 STEP_PASSED. -/
  passed : Option Nat := none
  /-- Codeword positions given so far, counted over the data members. -/
  fill : Nat := 0
  accs : List Acc := []
  closeT : Nat := 0
  repl : Option Repl := none
  /-- R272; closed partially. -/
  part : Bool := false
  /-- R279; positions left without protection. -/
  bare : List Nat := []
  /-- R348; a reconstructed parity codeword mismatched: the replacement is final only after the valid IUs have moved. -/
  accMis : Bool := false
deriving DecidableEq, Repr

/-- A redundancy domain (R265, R277, Table 11-8). -/
structure Dom where
  st : DomState := .inService
  /-- Table 11-8 W. -/
  w : Nat := 0
  /-- R268; next stripe number. -/
  next : Nat := 0
  /-- Table 11-8 DRE_DOM_RBLD DIE. -/
  rdie : Nat := 0
  /-- R278; exposed stripes in order. -/
  exposed : List Nat := []
  total : Nat := 0
  /-- Table 11-8 LOST. -/
  lost : Nat := 0
  /-- R279; recorded codeword addresses. -/
  lostCw : List Nat := []
  /-- R280; the map scan has run. -/
  scanned : Bool := false
deriving DecidableEq, Repr

/-- A mirror pair, keyed by local NSID (R282). -/
structure Pair where
  partner : Nat
  op : Option Nat := none
  copied : Nat := 0
deriving DecidableEq, Repr

/-- Die redundancy engine. -/
structure Dre where
  doms : Tbl Dom := []
  stripes : Tbl Stripe := []
  /-- Table 11-5 PRI. -/
  pri : Nat := 0
  /-- R275; reconstructions outstanding (codeword addresses), at most 256, then those that wait. -/
  recon : List Nat := []
  /-- R275, R278; survivor codewords being read for DRE, and those that have ended: readable by step 4 of the ladder or not. -/
  want : List Nat := []
  got : List (Nat × Bool) := []
  pairs : Tbl Pair := []
  /-- R285; granule table (durable): dirty and active granules by 2^20 × NSID + granule. -/
  dirty : List Nat := []
  active : List Nat := []
  /-- R284; the partner is lost. -/
  lost : Bool := false
deriving DecidableEq, Repr

/-! ## Cistern -/

/-- Bank states, Table 12-13. -/
inductive BankSt where
  | inService | resilvering | failed
deriving DecidableEq, Repr

/-- A bank (R289, Table 12-17). -/
structure Bank where
  st : BankSt := .inService
  corr : Nat := 0
  unc : Nat := 0
deriving DecidableEq, Repr

/-- Delta record kinds, Table 12-2. -/
inductive DeltaKind where
  | map | dir | range | block | nsdel
deriving DecidableEq, Repr

/-- A live delta record (Table 12-2). -/
structure Delta where
  kind : DeltaKind
  ns : Nat := 0
  key : Nat := 0
  inst : Nat := 0
  val : Nat := 0
  seq : Nat := 0
  ver : Nat := 0
  /-- R296; segment that holds the record. -/
  seg : Nat := 0
deriving DecidableEq, Repr

/-- An event log entry (Table 12-7). -/
structure Event where
  seq : Nat
  time : Nat
  est : Bool
  code : Nat
  old : Word
  new : Word
  cause : Word
deriving DecidableEq, Repr

/-- A spill index entry (Table 12-8), one codeword: of a host sector, or of an accumulator step with the data members that were given
positions of the step. -/
inductive Spill where
  | host (r : WellRec) (part : Nat) (die : Nat)
  | acc (dom stripe step cw : Nat) (members : List Nat) (die : Nat)
deriving DecidableEq, Repr

/-- The hold-up record (Table 12-5) and the spill plan's progress. -/
structure HoldRec where
  /-- Table 12-5 STATE. -/
  st : Nat := 0
  entries : Nat := 0
  tPloss : Nat := 0
  spillUs : Nat := 0
  planUs : Nat := 0
  fseq : Nat := 0
  /-- R303; dies that still have spill pages to program: (die, pages). -/
  plan : List (Nat × Nat) := []
deriving DecidableEq, Repr

/-- The sanitize record (R449). -/
structure SanRec where
  /-- 1 Block Erase, 2 Crypto Erase. -/
  act : Nat
  ause : Bool
  phase : Nat := 0
  done : Nat := 0
  total : Nat := 0
  failed : Bool := false
  /-- R449; block cursor by die. -/
  cursors : Tbl Nat := []
  /-- Table 18-3 phase 4; MAP blocks left out in phase 3 that are still to be erased: (die, block). -/
  left : List (Nat × Nat) := []
deriving DecidableEq, Repr

/-- A checkpoint (R299). -/
structure Ckpt where
  pos : Nat := 0
  map : Tbl Nat := []
  nss : Tbl Ns := []
  time : Nat := 0
  /-- The root table and the directory as its pages hold it (R176). -/
  root : Tbl Nat := []
  dirs : Tbl Nat := []
  /-- The sanitize record (R449). -/
  san : Option SanRec := none
deriving DecidableEq, Repr

/-- The cistern. Contents are persistent. -/
structure Cst where
  banks : Tbl Bank := []
  /-- R294; superblock generation and layout version. -/
  gen : Nat := 1
  layout : Nat := 1
  /-- R295; fetch sequence watermark. -/
  mark : Nat := 0
  /-- R296, Table 12-16; next log position, 64 bits. -/
  logSeq : Nat := 0
  /-- Table 12-16 SEQ_HI latch; 32 bits. -/
  seqLatch : Nat := 0
  /-- R296; live records, oldest first. -/
  log : List Delta := []
  /-- R296; records written to the log so far, copies of R298 included: 1,024 to a segment. -/
  wr : Nat := 0
  /-- R180; deltas that wait for log space, oldest first. -/
  due : List Delta := []
  /-- R293, R299; log position up to which shadow programs have passed. -/
  shadow : Nat := 0
  /-- R312; event log, oldest first. -/
  events : List Event := []
  evSeq : Nat := 1
  /-- R301, R410; erase-in-doubt list: die, block, count; die 512 stands for the wellhead store. -/
  doubt : List (Nat × Nat × Nat) := []
  hold : HoldRec := {}
  spill : List Spill := []
  ckpt : Option Ckpt := none
  /-- Table 12-13 CKPT_BUSY: handle of CKPT_NOW, if one runs. -/
  ckptOp : Option Nat := none
  ckptBusy : Bool := false
  /-- Table 12-13 SCAN. -/
  scan : Bool := false
  /-- R42, R41; last SYS_MODE_STS value logged. -/
  lastSts : Word := 0
  /-- Table 12-15; loaded at replay: RESULT, SPILL_CW, SPILL_US, PLAN_US. -/
  huRes : Nat := 0
  huCw : Nat := 0
  huSpill : Nat := 0
  huPlan : Nat := 0
  san : Option SanRec := none
  /-- R386; time pair saved with the boot record at the last checkpoint: time base. -/
  savedT : Nat := 0
  /-- R253; the SRE state as its state pages hold it. -/
  sreSaved : Tbl SreDie := []
deriving DecidableEq, Repr

/-! ## Wells and pumps -/

/-- A pool (R315, R318): its stack is `ret` (freed indexes, newest first) above the indexes from `fresh` up. -/
structure Pool where
  total : Nat := 0
  fresh : Nat := 0
  ret : List Nat := []
  /-- Table 13-11 LOW. -/
  low : Nat := 0
  /-- Table 13-18 POOL_STATUS D2, D3. -/
  allocs : Nat := 0
  fallbacks : Nat := 0
deriving DecidableEq, Repr

/-- A buffer that is HELD or PENDING (Table 13-3), keyed by 2^20 × pool + index; absent: FREE. -/
structure Buf where
  owner : Nat
  holders : List Nat
  cls : Nat
  pend : Bool := false
  /-- R317; poisoned 64-byte lines. -/
  psn : List Nat := []
deriving DecidableEq, Repr

/-- A waiting allocation (R321). -/
structure Wait where
  pool : Nat
  rq : Nat
  size : Nat
deriving DecidableEq, Repr

/-- Buffer well manager. -/
structure Wel where
  pools : Tbl Pool := []
  bufs : Tbl Buf := []
  waits : List Wait := []
  /-- R322; attaches that wait: requester, buffer. -/
  attWait : List (Nat × Nat) := []
  /-- R324; allocation stopped. -/
  stop : Bool := false
  built : Bool := false
  /-- R315; well space bytes by address: addresses strictly rising, no entry 0. -/
  mem : List Host.Cell := []
deriving DecidableEq, Repr

/-- A pump channel (R325-R331). -/
structure Pump where
  src : Word := 0
  dst : Word := 0
  cnt : Nat := 0
  ctl : Word := 0
  retry : Word := 0x00001003
  busy : Bool := false
  halt : Bool := false
  aborted : Bool := false
  ok : Bool := false
  err : Nat := 0
  retries : Nat := 0
  /-- R328; bursts issued so far. -/
  issued : Nat := 0
  /-- Bursts acknowledged out of order; `done`: the acknowledged prefix in bytes. -/
  acked : List Nat := []
  done : Nat := 0
  /-- R330; failed bursts waiting for their retry. -/
  failed : List Nat := []
  /-- R330; retries made so far, by burst. -/
  tries : Tbl Nat := []
  /-- R330, R331; the run halts with this ERR once its outstanding bursts have ended; 0: it is aborted. -/
  stopping : Option Nat := none
  op : Option Nat := none
deriving DecidableEq, Repr

/-- Pumps. -/
structure Pmp where
  ch : Tbl Pump := []
  /-- R326; DRAM bytes outside the trough, by address. -/
  dram : List Host.Cell := []
deriving DecidableEq, Repr

/-! ## Integrity and faults -/

/-- A tracking entry (R350). -/
structure Track where
  cls : Nat
  mac : Nat
  row : Nat
  count : Nat := 1
  /-- Time base at its first corrected error. -/
  first : Nat := 0
deriving DecidableEq, Repr

/-- A repair (R349-R351): kind 0 fuse, 1 soft applied, 2 soft not applied. -/
structure Repair where
  kind : Nat
  cls : Nat
  mac : Nat
  row : Nat
  line : Nat := 0
deriving DecidableEq, Repr

/-- A narrow write held in a merge buffer, or waiting for one (R344, R345). -/
structure MergeW where
  mem : Nat
  word : Nat
deriving DecidableEq, Repr

/-- Memory protection and repair. -/
structure Mpr where
  track : List Track := []
  /-- R349; soft entries of the boot record (persistent), and fuse repairs. -/
  soft : List Repair := []
  hard : List Repair := []
  /-- Table 14-9 SCRUB: passes running. -/
  scrub : List Nat := []
  scrubOp : Tbl Nat := []
  /-- Table 14-11. -/
  lastValid : Bool := false
  lastUe : Bool := false
  lastCls : Nat := 0
  lastMac : Nat := 0
  lastLoc : Nat := 0
  /-- Table 14-12; CE, UE per class. -/
  ce : Tbl Nat := []
  ue : Tbl Nat := []
  merges : List MergeW := []
  mwait : List MergeW := []
  /-- R342; poisoned DRAM lines, and poisoned trough lines. -/
  dramPsn : List Nat := []
deriving DecidableEq, Repr

/-- A fault source's rails, latch and configuration (R356-R366). -/
structure Src where
  /-- Rails P, N as last taken. -/
  p : Bool := false
  n : Bool := true
  latched : Bool := false
  /-- R363; the FLT_LAST value of its last latch setting. -/
  lastW : Word := 0
  /-- R363; the latch was cleared and the rails have not shown asserted since. -/
  react : Option Nat := none
  aen : Option Nat := none
deriving DecidableEq, Repr

/-- Fault collector. -/
structure Flt where
  srcs : Tbl Src := []
  /-- Table 15-9 FLT_LAST. -/
  lastValid : Bool := false
  last : Word := 0
  /-- R361; sources whose NMT has not been entered. -/
  nmt : List Nat := []
  /-- R360; interrupts at sequencers: source. -/
  ints : List Nat := []
  /-- R361; interrupts to a sequencer whose island is held in reset: source, reactions, sequence number of the log entry. -/
  intWait : List (Nat × Nat × Nat) := []
  /-- R362; islands under a BLK reset. -/
  blk : List Nat := []
  /-- Table 15-11 FLT_INJ. -/
  inj : Word := 0
  /-- R367; the source a running injection drives, and whether it ends by itself after DUR. -/
  injRun : Option (Nat × Bool) := none
deriving DecidableEq, Repr

/-! ## Power and time -/

/-- Island power states (R370). -/
inductive IslSt where
  | on | retain | off | reset
deriving DecidableEq, Repr

/-- Time base states (R381). -/
inductive TbSt where
  | free | sync | estimated | slew
deriving DecidableEq, Repr

/-- An alarm (R380). -/
structure Alarm where
  val : Nat := 0
  en : Bool := false
  wake : Bool := false
deriving DecidableEq, Repr

/-- A token request (R392, R393). -/
structure TokReq where
  die : Nat
  op : Nat
  cost : Nat
  energy : Nat := 0
deriving DecidableEq, Repr

/-- Power, clocks and time. -/
structure Pwr where
  /-- R370; absent: ON. -/
  isl : Tbl IslSt := []
  /-- R381; 64 bits. -/
  tb : Nat := 0
  /-- Table 16-7i TB_HI latch; 32 bits. -/
  tbLatch : Nat := 0
  tbSt : TbSt := .free
  /-- R385; error bound, in 10^-9 µs; none: saturated. -/
  bound : Option Nat := none
  /-- R383; backward correction left, ns. -/
  slew : Nat := 0
  /-- R375, R381; time pair of island 0. -/
  pair : Option (Nat × Nat) := none
  /-- R379; 48 bits. -/
  rtc : Nat := 0
  rtcValid : Bool := false
  /-- Table 16-7i RTC_HI latch; 16 bits. -/
  rtcLatch : Nat := 0
  /-- R384; 32 bits. -/
  ratio : Nat := 0x77359400
  alarms : Tbl Alarm := []
  /-- R388; management cap, 0 none. -/
  mgmtCap : Nat := 0
  /-- R389; thermal limit, W. -/
  thermW : Nat := 32
  /-- Table 16-7b TEMP. -/
  temp : Int := 0
  shut : Bool := false
  /-- R390; pool P and tokens held H. -/
  pool : Nat := 0
  held : Nat := 0
  reqs : List TokReq := []
  bgReqs : List TokReq := []
  /-- R393; energy left in the window. -/
  energy : Nat := 0
  /-- R398. -/
  huRdy : Bool := false
  capv : Nat := 0
  /-- R400; an overvoltage exists; it persisted 1 ms. -/
  ovp : Bool := false
  wrStop : Bool := false
  chgLock : Bool := false
  /-- R401; time base when CHG_EN last returned high after an overvoltage. -/
  chgHigh : Option Nat := none
  /-- R376; thresholds that caused a wake: 0 hot, 1 cold, 2 CAPV low, 3 CAPV high. -/
  spMask : List Nat := []
  /-- R378; PLOSS_N recorded in DORMANT. -/
  plossRec : Bool := false
  /-- R396; running self-test: controller, extended. -/
  selfTest : Option (Nat × Bool) := none
  /-- R396; results, newest first: code, failed item. -/
  stLog : List (Nat × Nat) := []
  /-- R399; 1 bit. The first 1 ms after island 0's supply became good: CHG_EN is held low. -/
  chgHold : Bool := true
  /-- R400; 1 bit. CHG_EN is held low since an overvoltage began, until it has been absent for 1 s. -/
  chgOv : Bool := false
  /-- R379, R479; 1 bit. A crystal edge has been seen since island 0's power-on. -/
  rtcStarted : Bool := false
  /-- R379; part of an RTC cycle counted so far, in 10^-9 cycle. -/
  rtcFrac : Nat := 0
deriving DecidableEq, Repr

/-! ## Wellhead store, update, security -/

/-- A wellhead store block (R409). -/
structure WBlk where
  next : Nat := 0
  ec : Nat := 0
  /-- Draw that names the bytes programmed since the erase (`Config.storeByte`): the store's content as bytes is not held. -/
  gen : Nat := 0
deriving DecidableEq, Repr

/-- Wellhead store controller. -/
structure Whs where
  /-- Table 17-10 OP: 0 idle, 1 program, 2 erase, 3 suspended. -/
  op : Nat := 0
  block : Nat := 0
  page : Nat := 0
  susp : Nat := 0
  brown : Bool := false
  blks : Tbl WBlk := []
  /-- R407; WHS_READ requests that retry: source. -/
  readWait : List Nat := []
  /-- R408; time base when the erase started or last resumed, and at its suspension. -/
  runT : Nat := 0
  suspT : Nat := 0
  /-- R418, R430; what the running operation sequence does next: blocks to erase, pages to program, job. -/
  eraseLeft : Nat := 0
  progLeft : Nat := 0
deriving DecidableEq, Repr

/-- An image or profile slot state (Table 17-4): 0 empty, 1 written, 2 confirmed or verified, 3 failed. -/
structure Slot where
  st : Nat := 0
  img : Option Image := none
  prof : Option Profile := none
deriving DecidableEq, Repr

/-- Jobs of UPD that end with a long operation or an NVMe completion. -/
structure UpdJob where
  /-- 0 program image, 1 profile write, 2 warm activation. -/
  kind : Nat
  /-- R421; begun by an NVM Subsystem Reset. -/
  nssr : Bool := false
  slot : Nat
  act : Nat := 0
  img : Option Image := none
  prof : Option Profile := none
  tag : Option Nat := none
  op : Option Nat := none
deriving DecidableEq, Repr

/-- Update manager; the slot directory is persistent. -/
structure Upd where
  /-- Table 17-13 STATE: 0 IDLE, 1 PENDING, 2 LOADING, 3 TRIAL. -/
  st : Nat := 0
  prfPend : Bool := false
  /-- R415; owner: controller index, or 2,000 + source; fragments (offset, bytes). -/
  owner : Option Nat := none
  frags : List (Nat × Nat) := []
  /-- R424; length of the trial, s. -/
  trialS : Nat := 0
  reason : Nat := 0
  /-- Table 17-4 directory: active image slot 1 A, 2 B; next, trial, tries; profiles likewise; generation. -/
  actImg : Nat := 1
  nextImg : Nat := 0
  trial : Nat := 0
  tries : Nat := 0
  prevImg : Nat := 1
  actPrf : Nat := 1
  nextPrf : Nat := 0
  dirGen : Nat := 1
  /-- Slots: 1, 2 images A, B; 3, 4 profiles A, B. -/
  slots : Tbl Slot := []
  job : Option UpdJob := none
  /-- R426; the profile slot active before the switch. -/
  prevPrf : Nat := 1
  /-- R424; time base at the switch. -/
  switchT : Nat := 0
deriving DecidableEq, Repr

/-- Crypto engine and owner state. -/
structure Sec where
  /-- R434; media root generation (its value never leaves SEC). -/
  root : Nat := 0
  rootPend : Bool := false
  /-- R447; security record generation. -/
  sgen : Nat := 0
  /-- R444; owner credential as a number; lock. -/
  owner : Option Nat := none
  lock : Bool := false
  svn : Nat := 0
  /-- R444; nonce in force, count, failures in succession, refusal. -/
  nonce : Option Nat := none
  nonceCnt : Nat := 0
  fails : Nat := 0
  lockout : Bool := false
  /-- R434; the entropy source passes. -/
  entropyOk : Bool := true
  /-- R441; sessions. -/
  sessions : Nat := 0
  /-- R442; digests of index 2 by image slot, newest first. -/
  measures : List Nat := []
  /-- R434; a request that waits for entropy: phase 1 of sanitize. -/
  entWait : Bool := false
  /-- R439; key index 0 revoked. -/
  revoked0 : Bool := false
  /-- R448; log page 81h: last completed result 0 none, 1 done, 3 failed. -/
  sanLog : Nat := 0
  /-- R452; SCDW10 of log page 81h. -/
  scdw : Nat := 0
  /-- R434; the device has left FACTORY with a media root. -/
  rooted : Bool := true
deriving DecidableEq, Repr

/-! ## Sideband and DRAM controller -/

/-- An MCTP message in assembly or held (R456). -/
structure Msg where
  bus : Bus
  tag : Nat
  seq : Nat
  bytes : List Byte
  whole : Bool := false
deriving DecidableEq, Repr

/-- A sensor site (R462, Table 19-6d). -/
structure Sens where
  valid : Bool := false
  fail : Bool := false
  peak : Option Int := none
  temp : Int := 0
  /-- Consecutive discarded or failed; consecutive valid. -/
  bad : Nat := 0
  good : Nat := 0
deriving DecidableEq, Repr

/-- A telemetry capture (R463): its areas and its time. -/
structure Capture where
  gen : Nat := 0
  area1 : List Word := []
  /-- Table 19-5 area 3: the words of each die that answers; the words of the others are 0. -/
  area3 : List (Nat × List Word) := []
  events : List Event := []
  time : Nat := 0
  wasRead : Bool := false
deriving DecidableEq, Repr

/-- Sideband management. -/
structure Sbm where
  smbEid : Nat := 0
  i3cEid : Nat := 0
  daddr : Nat := 0
  daValid : Bool := false
  msgs : List Msg := []
  sens : Tbl Sens := []
  /-- R458; configuration 01h: SMBus frequency code. -/
  freq : Nat := 1
  hostCap : Option Capture := none
  ctrlCap : Option Capture := none
  hostGen : Nat := 0
  ctrlGen : Nat := 0
deriving DecidableEq, Repr

/-- A DRAM channel (Table 20-24, 20-25). -/
structure DrmCh where
  up : Bool := false
  selfRef : Bool := false
  trnTemp : Int := 0
  ref : Nat := 0
  retrains : Nat := 0
  derates : Nat := 0
deriving DecidableEq, Repr

/-- DRAM controller. -/
structure Drm where
  trained : Bool := false
  size : Nat := 0
  rate : Nat := 0
  /-- R472; training has started. -/
  started : Bool := false
  chs : Tbl DrmCh := []
deriving DecidableEq, Repr

/-- Capabilities of Table 4-2. -/
inductive CfgCap where
  | powerMgmt | l1Substates | margining | msix | sriov | ari | ats | pri | ptmRequester | ide | doe | aer | acs | ltr | vsec
deriving DecidableEq, Repr

/-- A function's configuration space as the manual states it (R79, R83, R84, R86): identity, BARs (number, bytes, bus address; all 64-bit and
non-prefetchable), SR-IOV values of a PF with VFs, MSI-X (vectors; table and PBA as BAR and offset), the VSEC (ID, revision, its two
registers), the capabilities present, and the settings. -/
structure CfgSpace where
  vid : Nat
  did : Nat
  svid : Nat
  sid : Nat
  classCode : Nat
  bars : List (Nat × Nat × Nat)
  vfBars : List (Nat × Nat × Nat)
  vfDid : Nat
  totalVfs : Nat
  firstVf : Nat
  vfStride : Nat
  vfPages : List Nat
  msix : Nat
  msixTable : Nat × Nat
  msixPba : Nat × Nat
  vsec : Option (Nat × Nat × Word × Word)
  caps : List CfgCap
  maxPayload : Nat
  maxRead : Nat
  tags : Nat
  priCapacity : Nat
  atsQueue : Nat
  set : Fn
deriving DecidableEq, Repr

/-- The answer of a configuration request (R95, Table 4-2): Request Retry Status, Unsupported Request, or done, with what a read returns. -/
inductive CfgAnswer where
  | retry | unsupported | done (v : Option CfgSpace)
deriving DecidableEq, Repr

/-- What the device sends out, newest first in `State.out`: the model's own record of visible actions. -/
inductive Output where
  /-- R50, R55; MSI-X of the management PF for ring p: controller, ring, vector. -/
  | ringMsix (ctrl p vec : Nat)
  /-- R55; reply entry written. -/
  | reply (src : Nat) (words : List Word) (payload : List Byte)
  /-- R123; completion entry: controller, CQ, CID, SQID, SQHD, status, DNR, DW0, DW1. -/
  | completion (ctrl cq cid sqid sqhd : Nat) (sc : Sc) (dnr : Bool) (dw0 dw1 : Nat)
  /-- R123; interrupt vector of a completion queue. -/
  | msix (ctrl vec : Nat)
  /-- R97; a memory write TLP with read data: host address, bytes, EP. -/
  | tlp (ctrl addr bytes : Nat) (ep : Bool)
  /-- R24; LBA data delivered to a host: tag, first LBA, data. -/
  | data (tag lba : Nat) (vals : List Nat)
  /-- Data returned by a Get Log Page, Identify or Get Features: what, and its value words. -/
  | info (tag : Nat) (what : Nat) (vals : List Nat)
  /-- R95; a configuration request was answered. -/
  | cfgReply (ctrl : Nat) (a : CfgAnswer)
  /-- R91; answer of the inbound window; none: Unsupported Request. -/
  | windowReply (bytes : Option (List Byte))
  /-- R89; level driven on the PR port's PERST_N. -/
  | prPerst (assertd : Bool)
  /-- R283; a mirror command is sent to the partner: queue, tag. -/
  | mirror (queue tag : Nat)
  /-- R158, R160, R159; translation request, page request group, invalidation completion. -/
  | xlatReq (ctrl page pages : Nat)
  | pageReq (ctrl page : Nat) (w last : Bool) (prg : Nat)
  | invalDone (ctrl page pages : Nat)
  /-- R456; a sideband response: bus, bytes as numbers. -/
  | sideband (bus : Option Bus) (body : List Nat)
  /-- R470; value returned by a register read. -/
  | regRead (addr : Nat) (value : Nat)
  /-- R46; value returned by a window read of ring area, flags or trough. -/
  | busRead (addr : Nat) (bytes : List Byte)
  /-- R441; SPDM answer: 0 response, 1 ERROR UnsupportedRequest, 2 ERROR. -/
  | spdm (kind : Nat)
  /-- R382; PTM request sent. -/
  | ptm (port : Nat)
  /-- R82; a PTM request of the partner is answered with the time base. -/
  | ptmTime (port tb : Nat)
deriving DecidableEq, Repr

/-- The state of the device. -/
structure State where
  sys : Sys := {}
  pins : Pins := {}
  /-- R11; stored registers by window byte address; absent: the reset value of the register's definition. -/
  regs : Tbl Word := []
  /-- R471; bits of RWL registers that a window write has set since the chip reset. -/
  ovr : Tbl Word := []
  cam : Cam := {}
  hpc : Hpc := {}
  nvq : Nvq := {}
  qos : Qos := {}
  xlt : Xlt := {}
  fte : Fte := {}
  fch : Fch := {}
  sre : Sre := {}
  dre : Dre := {}
  cst : Cst := {}
  wel : Wel := {}
  pmp : Pmp := {}
  mpr : Mpr := {}
  flt : Flt := {}
  pwr : Pwr := {}
  whs : Whs := {}
  upd : Upd := {}
  sec : Sec := {}
  sbm : Sbm := {}
  drm : Drm := {}
  /-- Profile in use (R430); before one is applied, the model's default record, which no rule reads. -/
  prof : Profile := {}
  /-- Whether a profile has been applied since the chip reset. -/
  profOn : Bool := false
  /-- Messages and bus actions sent, newest first (the model's own record). -/
  out : List Output := []
  /-- Counter from which free values are drawn (the model's own field). -/
  free : Nat := 0
  /-- Commands waiting, first in first out (the model's own field). -/
  pending : List Instr := []
deriving DecidableEq, Repr

/-- The device right after reset: every field at its value above; the wellhead store holds a confirmed image in slot A
and a verified profile in profile slot A (a choice of this model: the manual does not state what a store holds when it
is first powered). -/
def State.reset : State :=
  { upd := { slots := [(1, { st := 2, img := some {} }), (3, { st := 2, prof := some {} })] } }

end Sys2Proof.Machine
end

