-- ==== Sys2Proof/Machine/RegDefs.lean ====
section
/-! DEFINITION. The registers of Tables 20-2 to 20-20: for each its address in the management window, its repeats, its
reset value and, bit by bit, its access codes of Table 0-4, as the chapters' field tables give them. -/

namespace Sys2Proof.Machine

/-- The registers, in the order of the chapters. -/
inductive RegId where
  | sysChipId | sysModeSts | sysModeEvt | sysBootSts | sysCamCtl | sysCamSts | sysCamRcfg | sysCamRdb
  | sysCamRptr | sysCamRsts | hpcCfg | hpcSts | hpcLnkSts | hpcPortCtl | hpcPortEvt | nvqCfg | nvqTagSts
  | nvqCtxSts | nvqQcnt | nvqOvlSts | nvqEvt | nvqHwm | nvqSqStop | qosCfg | qosSts | qosCap | qosSum
  | qosEvt | qosTntBw | qosTntIo | qosTntCtl | qosTntUnitsLo | qosTntUnitsHi | qosTntOps | xltCfg | xltSts
  | xltAtcSts | xltMapSts | xltEvt | xltSuspHwm | xltCntTx | xltCntPg | xltCntMp | xltLnkSts | fteCfg
  | fteSts | fteEvt | fteSpareCfg | fteMapcSts | fteLogSts | fteBadSts | fteDomSpare | fteDomFree | fteDomHeld
  | fteDomEc | fchCfg | fchCfg2 | fchSts | fchEvt | fchChFail | fchChSts | fchChCnt | fchDieqSts | sreCfg
  | sreCfg2 | sreSts | sreEvt | sreStepCnt | sreDieSts | sreChFrame | dreCfg | dreSts | dreEvt | dreMirSts
  | dreDomCfg | dreDomRbld | dreDomExp | dreDomLost | cstCfg | cstSts | cstEvt | cstHuSts | cstHuTime
  | cstLogSeqLo | cstLogSeqHi | cstBankSts | welCfg | welPoolCfg | welFloor | welClsSts | welEvt | welPoolSts
  | welPoolTot | welPoolLow | welRqCfg | welRqSts | pmpEvt | pmpBusy | pmpSrc | pmpDst | pmpCnt | pmpDone
  | pmpCtl | pmpSts | pmpRetry | mprCfg | mprSts | mprEvt | mprLastErr | mprErrLoc | mprCeCnt | fltSts
  | fltEvt | fltLast | fltPinClr | fltInj | fltAssert | fltLatch | fltSrcCfg | pwrCfg | pwrSts | pwrEvt
  | pwrTok | pwrTherm | pwrHuCfg | pwrHuSts | pwrSpCfg | pwrRtcLo | pwrRtcHi | pwrRatio | pwrTbLo | pwrTbHi
  | pwrTimeSts | pwrTimeCfg | pwrAlarmLo | pwrAlarmHi | pwrIslSts | whsCfg | whsSts | whsEvt | updCfg
  | updSts | updEvt | updConfirm | secSts | secEvt | secSvnFloor | secSanDone | secSanTotal | sbmCfg
  | sbmSts | sbmEvt | sbmSens | drmCfg | drmSts | drmEvt | drmChSts | drmChCnt
deriving DecidableEq, Repr

/-- A register's definition: window address of instance 0, stride and count, second stride and count (die queue
registers only), reset value, and the masks of its RW, RWL, W1C, W1S, RC and WO bits. -/
structure RegDef where
  addr : Nat
  stride : Nat := 0
  n : Nat := 1
  stride2 : Nat := 0
  n2 : Nat := 1
  reset : Word := 0
  rw : Word := 0
  rwl : Word := 0
  w1c : Word := 0
  w1s : Word := 0
  rc : Word := 0
  wo : Word := 0
deriving DecidableEq, Repr

/-- The definition of each register. -/
def regDef : RegId → RegDef
  | .sysChipId => { addr := 0x0, reset := 0x78000b1 }
  | .sysModeSts => { addr := 0x10 }
  | .sysModeEvt => { addr := 0x14, w1c := 0xff03ff }
  | .sysBootSts => { addr := 0x20 }
  | .sysCamCtl => { addr := 0x100, reset := 0x300, rwl := 0x303 }
  | .sysCamSts => { addr := 0x104 }
  | .sysCamRcfg => { addr := 0x140, stride := 0x20, n := 4, rw := 0x7ff01f1 }
  | .sysCamRdb => { addr := 0x144, stride := 0x20, n := 4, wo := 0xfff }
  | .sysCamRptr => { addr := 0x148, stride := 0x20, n := 4 }
  | .sysCamRsts => { addr := 0x14c, stride := 0x20, n := 4, w1c := 0xf }
  | .hpcCfg => { addr := 0x40000 }
  | .hpcSts => { addr := 0x40004 }
  | .hpcLnkSts => { addr := 0x41000, stride := 0x1000, n := 4 }
  | .hpcPortCtl => { addr := 0x41004, stride := 0x1000, n := 4, rw := 0x3 }
  | .hpcPortEvt => { addr := 0x41008, stride := 0x1000, n := 4, w1c := 0x7f }
  | .nvqCfg => { addr := 0x80000, reset := 0x8, rwl := 0xf }
  | .nvqTagSts => { addr := 0x80010 }
  | .nvqCtxSts => { addr := 0x80014 }
  | .nvqQcnt => { addr := 0x80018 }
  | .nvqOvlSts => { addr := 0x8001c }
  | .nvqEvt => { addr := 0x80020, w1c := 0x3f }
  | .nvqHwm => { addr := 0x80024, rc := 0x3fffffff }
  | .nvqSqStop => { addr := 0x80028, rc := 0x83ffffff }
  | .qosCfg => { addr := 0xc0000, reset := 0x100, rwl := 0x7fff01 }
  | .qosSts => { addr := 0xc0004, reset := 0x80100000 }
  | .qosCap => { addr := 0xc0008 }
  | .qosSum => { addr := 0xc000c }
  | .qosEvt => { addr := 0xc0010, w1c := 0x7 }
  | .qosTntBw => { addr := 0xc1000, stride := 0x20, n := 1024 }
  | .qosTntIo => { addr := 0xc1004, stride := 0x20, n := 1024 }
  | .qosTntCtl => { addr := 0xc1008, stride := 0x20, n := 1024, reset := 0x4000001 }
  | .qosTntUnitsLo => { addr := 0xc100c, stride := 0x20, n := 1024 }
  | .qosTntUnitsHi => { addr := 0xc1010, stride := 0x20, n := 1024 }
  | .qosTntOps => { addr := 0xc1014, stride := 0x20, n := 1024 }
  | .xltCfg => { addr := 0x100000, reset := 0x64800080, rwl := 0xfff000f0 }
  | .xltSts => { addr := 0x100004 }
  | .xltAtcSts => { addr := 0x100008 }
  | .xltMapSts => { addr := 0x10000c }
  | .xltEvt => { addr := 0x100010, w1c := 0x3f }
  | .xltSuspHwm => { addr := 0x100014, rc := 0xffffffff }
  | .xltCntTx => { addr := 0x100020 }
  | .xltCntPg => { addr := 0x100024 }
  | .xltCntMp => { addr := 0x100028 }
  | .xltLnkSts => { addr := 0x101000, stride := 0x1000, n := 4 }
  | .fteCfg => { addr := 0x140000, reset := 0x50080324, rwl := 0xffffffff }
  | .fteSts => { addr := 0x140004 }
  | .fteEvt => { addr := 0x140008, w1c := 0xff }
  | .fteSpareCfg => { addr := 0x14000c }
  | .fteMapcSts => { addr := 0x140010 }
  | .fteLogSts => { addr := 0x140014 }
  | .fteBadSts => { addr := 0x140018 }
  | .fteDomSpare => { addr := 0x141000, stride := 0x100, n := 4 }
  | .fteDomFree => { addr := 0x141004, stride := 0x100, n := 4 }
  | .fteDomHeld => { addr := 0x141008, stride := 0x100, n := 4 }
  | .fteDomEc => { addr := 0x14100c, stride := 0x100, n := 4 }
  | .fchCfg => { addr := 0x180000, reset := 0x80a0843c, rwl := 0xffffffff }
  | .fchCfg2 => { addr := 0x180004, reset := 0x14501000, rwl := 0xffffff00 }
  | .fchSts => { addr := 0x180008 }
  | .fchEvt => { addr := 0x18000c, w1c := 0xff }
  | .fchChFail => { addr := 0x180010 }
  | .fchChSts => { addr := 0x181000, stride := 0x1000, n := 32 }
  | .fchChCnt => { addr := 0x181004, stride := 0x1000, n := 32 }
  | .fchDieqSts => { addr := 0x181100, stride := 0x10, n := 16, stride2 := 0x1000, n2 := 32 }
  | .sreCfg => { addr := 0x1c0000, reset := 0x20281403, rwl := 0xf0ffff03 }
  | .sreCfg2 => { addr := 0x1c0004, reset := 0x40101004, rwl := 0xffffff0f }
  | .sreSts => { addr := 0x1c0008 }
  | .sreEvt => { addr := 0x1c000c, w1c := 0xfff }
  | .sreStepCnt => { addr := 0x1c0044, stride := 0x4, n := 6 }
  | .sreDieSts => { addr := 0x1c1000, stride := 0x10, n := 512 }
  | .sreChFrame => { addr := 0x1c3000, stride := 0x10, n := 32 }
  | .dreCfg => { addr := 0x200000, reset := 0x640a0001, rwl := 0xffff0007 }
  | .dreSts => { addr := 0x200004 }
  | .dreEvt => { addr := 0x200008, w1c := 0x3ff }
  | .dreMirSts => { addr := 0x20000c }
  | .dreDomCfg => { addr := 0x201000, stride := 0x100, n := 4 }
  | .dreDomRbld => { addr := 0x201004, stride := 0x100, n := 4 }
  | .dreDomExp => { addr := 0x201008, stride := 0x100, n := 4 }
  | .dreDomLost => { addr := 0x20100c, stride := 0x100, n := 4 }
  | .cstCfg => { addr := 0x240000, reset := 0xa3c, rwl := 0xffff }
  | .cstSts => { addr := 0x240004 }
  | .cstEvt => { addr := 0x240008, w1c := 0x7f }
  | .cstHuSts => { addr := 0x24000c }
  | .cstHuTime => { addr := 0x240010 }
  | .cstLogSeqLo => { addr := 0x240014 }
  | .cstLogSeqHi => { addr := 0x240018 }
  | .cstBankSts => { addr := 0x241000, stride := 0x100, n := 2 }
  | .welCfg => { addr := 0x280000, rwl := 0x71 }
  | .welPoolCfg => { addr := 0x280004, reset := 0x4000, rwl := 0xffffffff }
  | .welFloor => { addr := 0x280008, reset := 0x4000, rwl := 0xffffffff }
  | .welClsSts => { addr := 0x28000c }
  | .welEvt => { addr := 0x280010, w1c := 0xff }
  | .welPoolSts => { addr := 0x280100, stride := 0x10, n := 4 }
  | .welPoolTot => { addr := 0x280104, stride := 0x10, n := 4 }
  | .welPoolLow => { addr := 0x280108, stride := 0x10, n := 4, rc := 0x3ffff }
  | .welRqCfg => { addr := 0x281000, stride := 0x10, n := 64, rwl := 0x7ff03ff }
  | .welRqSts => { addr := 0x281004, stride := 0x10, n := 64 }
  | .pmpEvt => { addr := 0x2c0000, w1c := 0xffffffff }
  | .pmpBusy => { addr := 0x2c0004 }
  | .pmpSrc => { addr := 0x2c1000, stride := 0x100, n := 16, rw := 0xffffffff }
  | .pmpDst => { addr := 0x2c1004, stride := 0x100, n := 16, rw := 0xffffffff }
  | .pmpCnt => { addr := 0x2c1008, stride := 0x100, n := 16, rw := 0xfffffff }
  | .pmpDone => { addr := 0x2c1018, stride := 0x100, n := 16 }
  | .pmpCtl => { addr := 0x2c100c, stride := 0x100, n := 16, rw := 0x3ff77000, w1s := 0xc0000000 }
  | .pmpSts => { addr := 0x2c1010, stride := 0x100, n := 16 }
  | .pmpRetry => { addr := 0x2c1014, stride := 0x100, n := 16, reset := 0x1003, rw := 0xff07 }
  | .mprCfg => { addr := 0x340000, reset := 0x7183c33, rwl := 0xfffffff3 }
  | .mprSts => { addr := 0x340004 }
  | .mprEvt => { addr := 0x340008, w1c := 0x3ff }
  | .mprLastErr => { addr := 0x340010, rc := 0x80000000 }
  | .mprErrLoc => { addr := 0x340014 }
  | .mprCeCnt => { addr := 0x340100, stride := 0x10, n := 5 }
  | .fltSts => { addr := 0x380000 }
  | .fltEvt => { addr := 0x380004, w1c := 0x1f }
  | .fltLast => { addr := 0x380008, rc := 0x80000000 }
  | .fltPinClr => { addr := 0x38000c, wo := 0xffffffff }
  | .fltInj => { addr := 0x380020, rw := 0x83ff01ff }
  | .fltAssert => { addr := 0x380100, stride := 0x4, n := 12 }
  | .fltLatch => { addr := 0x380180, stride := 0x4, n := 12, w1c := 0xffffffff }
  | .fltSrcCfg => { addr := 0x381000, stride := 0x4, n := 384, rwl := 0x71f }
  | .pwrCfg => { addr := 0x3c0000, reset := 0x400a0100, rwl := 0xc0ffffff }
  | .pwrSts => { addr := 0x3c0004, reset := 0x82080000 }
  | .pwrEvt => { addr := 0x3c0008, w1c := 0x7fff }
  | .pwrTok => { addr := 0x3c000c }
  | .pwrTherm => { addr := 0x3c0010, reset := 0x7d690100, rwl := 0xffff1f00 }
  | .pwrHuCfg => { addr := 0x3c0014, reset := 0xe00c0008, rwl := 0xffffffff }
  | .pwrHuSts => { addr := 0x3c0018, reset := 0xc0000 }
  | .pwrSpCfg => { addr := 0x3c001c, reset := 0xa5fd800, rwl := 0xffffff00 }
  | .pwrRtcLo => { addr := 0x3c0020 }
  | .pwrRtcHi => { addr := 0x3c0024 }
  | .pwrRatio => { addr := 0x3c0028, reset := 0x77359400 }
  | .pwrTbLo => { addr := 0x3c0030 }
  | .pwrTbHi => { addr := 0x3c0034 }
  | .pwrTimeSts => { addr := 0x3c0038, reset := 0xffffff }
  | .pwrTimeCfg => { addr := 0x3c003c, reset := 0xa00001e, rwl := 0xff0000ff }
  | .pwrAlarmLo => { addr := 0x3c0040, stride := 0x8, n := 4, rw := 0xffffffff }
  | .pwrAlarmHi => { addr := 0x3c0044, stride := 0x8, n := 4, rw := 0xc000ffff }
  | .pwrIslSts => { addr := 0x3c0100, stride := 0x4, n := 3 }
  | .whsCfg => { addr := 0x400000, reset := 0x8, rwl := 0xf }
  | .whsSts => { addr := 0x400004 }
  | .whsEvt => { addr := 0x400008, w1c := 0x1f }
  | .updCfg => { addr := 0x440000, reset := 0x3c, rwl := 0x3f }
  | .updSts => { addr := 0x440004 }
  | .updEvt => { addr := 0x440008, w1c := 0x1f }
  | .updConfirm => { addr := 0x44000c, wo := 0xffffffff }
  | .secSts => { addr := 0x300000 }
  | .secEvt => { addr := 0x300004, w1c := 0x3f }
  | .secSvnFloor => { addr := 0x300008 }
  | .secSanDone => { addr := 0x30000c }
  | .secSanTotal => { addr := 0x300010 }
  | .sbmCfg => { addr := 0x480000, reset := 0xea1d0003, rwl := 0xff7f7f03 }
  | .sbmSts => { addr := 0x480004 }
  | .sbmEvt => { addr := 0x480008, w1c := 0xff }
  | .sbmSens => { addr := 0x480100, stride := 0x4, n := 18, rc := 0xff0000 }
  | .drmCfg => { addr := 0x4c0000, reset := 0xa002155, rwl := 0xff00ffff }
  | .drmSts => { addr := 0x4c0004 }
  | .drmEvt => { addr := 0x4c0008, w1c := 0x3f }
  | .drmChSts => { addr := 0x4c1000, stride := 0x100, n := 4 }
  | .drmChCnt => { addr := 0x4c1004, stride := 0x100, n := 4 }

/-- Registers, part 0. -/
def regIds0 : List RegId := [
  .sysChipId, .sysModeSts, .sysModeEvt, .sysBootSts, .sysCamCtl, .sysCamSts, .sysCamRcfg, .sysCamRdb,
  .sysCamRptr, .sysCamRsts, .hpcCfg, .hpcSts, .hpcLnkSts, .hpcPortCtl, .hpcPortEvt, .nvqCfg,
  .nvqTagSts, .nvqCtxSts, .nvqQcnt, .nvqOvlSts, .nvqEvt, .nvqHwm, .nvqSqStop, .qosCfg,
  .qosSts, .qosCap, .qosSum, .qosEvt, .qosTntBw, .qosTntIo, .qosTntCtl, .qosTntUnitsLo,
  .qosTntUnitsHi, .qosTntOps, .xltCfg, .xltSts, .xltAtcSts, .xltMapSts, .xltEvt, .xltSuspHwm]

/-- Registers, part 1. -/
def regIds1 : List RegId := [
  .xltCntTx, .xltCntPg, .xltCntMp, .xltLnkSts, .fteCfg, .fteSts, .fteEvt, .fteSpareCfg,
  .fteMapcSts, .fteLogSts, .fteBadSts, .fteDomSpare, .fteDomFree, .fteDomHeld, .fteDomEc, .fchCfg,
  .fchCfg2, .fchSts, .fchEvt, .fchChFail, .fchChSts, .fchChCnt, .fchDieqSts, .sreCfg,
  .sreCfg2, .sreSts, .sreEvt, .sreStepCnt, .sreDieSts, .sreChFrame, .dreCfg, .dreSts,
  .dreEvt, .dreMirSts, .dreDomCfg, .dreDomRbld, .dreDomExp, .dreDomLost, .cstCfg, .cstSts]

/-- Registers, part 2. -/
def regIds2 : List RegId := [
  .cstEvt, .cstHuSts, .cstHuTime, .cstLogSeqLo, .cstLogSeqHi, .cstBankSts, .welCfg, .welPoolCfg,
  .welFloor, .welClsSts, .welEvt, .welPoolSts, .welPoolTot, .welPoolLow, .welRqCfg, .welRqSts,
  .pmpEvt, .pmpBusy, .pmpSrc, .pmpDst, .pmpCnt, .pmpDone, .pmpCtl, .pmpSts,
  .pmpRetry, .mprCfg, .mprSts, .mprEvt, .mprLastErr, .mprErrLoc, .mprCeCnt, .fltSts,
  .fltEvt, .fltLast, .fltPinClr, .fltInj, .fltAssert, .fltLatch, .fltSrcCfg, .pwrCfg]

/-- Registers, part 3. -/
def regIds3 : List RegId := [
  .pwrSts, .pwrEvt, .pwrTok, .pwrTherm, .pwrHuCfg, .pwrHuSts, .pwrSpCfg, .pwrRtcLo,
  .pwrRtcHi, .pwrRatio, .pwrTbLo, .pwrTbHi, .pwrTimeSts, .pwrTimeCfg, .pwrAlarmLo, .pwrAlarmHi,
  .pwrIslSts, .whsCfg, .whsSts, .whsEvt, .updCfg, .updSts, .updEvt, .updConfirm,
  .secSts, .secEvt, .secSvnFloor, .secSanDone, .secSanTotal, .sbmCfg, .sbmSts, .sbmEvt,
  .sbmSens, .drmCfg, .drmSts, .drmEvt, .drmChSts, .drmChCnt]

/-- All registers. -/
def regIds : List RegId := List.append regIds0 (List.append regIds1 (List.append regIds2 (regIds3)))

/-- The instance of a register at a word-aligned window address, if there is one. -/
def RegDef.instAt (d : RegDef) (a : Nat) : Option Nat :=
  if d.n2 == 1 then
    if d.n == 1 then (if a == d.addr then some 0 else none)
    else if a < d.addr then none
    else if (a - d.addr) % d.stride == 0 && (a - d.addr) / d.stride < d.n then some ((a - d.addr) / d.stride) else none
  else if a < d.addr then none
  else
    let o := a - d.addr
    let j := o / d.stride2
    let k := o % d.stride2
    if j < d.n2 && k % d.stride == 0 && k / d.stride < d.n then some (d.n * j + k / d.stride) else none

/-- The window address of instance `i`. -/
def RegDef.addrOf (d : RegDef) (i : Nat) : Nat :=
  if d.n2 == 1 then d.addr + d.stride * i else d.addr + d.stride2 * (i / d.n) + d.stride * (i % d.n)

/-- Search in a list of registers for the one at an address. -/
def findReg (a : Nat) : List RegId → Option (RegId × Nat)
  | [] => none
  | r :: rs =>
    match (regDef r).instAt a with
    | some i => some (r, i)
    | none => findReg a rs

/-- The register at a word-aligned window address (R13: none where no register is defined). -/
def regAt (a : Nat) : Option (RegId × Nat) := findReg a regIds

end Sys2Proof.Machine
end

