-- ==== Sys2Proof/Machine/Ops.lean ====
section
/-! DEFINITION. The named operations every meaning is built from: sparse tables and byte memories in canonical form,
bit fields, the stored registers, visible actions, free values and the fixed numbers of the device. -/

namespace Sys2Proof.Machine

/-- What a meaning answers. -/
abbrev Res := Host.Outcome State Fault Refusal

/-! ## Tables -/

/-- The entry of a table at a key. -/
def tget {α : Type} : Tbl α → Nat → Option α
  | [], _ => none
  | (j, v) :: t, k => if j = k then some v else tget t k

/-- The entry at a key, or a default. -/
def tgetD {α : Type} (t : Tbl α) (k : Nat) (d : α) : α := (tget t k).getD d

/-- A table with the entry at a key set; keys stay strictly rising. -/
def tset {α : Type} : Tbl α → Nat → α → Tbl α
  | [], k, v => [(k, v)]
  | (j, w) :: t, k, v =>
    if k < j then (k, v) :: (j, w) :: t
    else if j = k then (k, v) :: t
    else (j, w) :: tset t k v

/-- A table without the entry at a key. -/
def terase {α : Type} : Tbl α → Nat → Tbl α
  | [], _ => []
  | (j, w) :: t, k => if j = k then terase t k else (j, w) :: terase t k

/-- Change the entry at a key if there is one. -/
def tmod {α : Type} (t : Tbl α) (k : Nat) (f : α → α) : Tbl α :=
  match tget t k with
  | some v => tset t k (f v)
  | none => t

/-- Change the entry at a key, starting from a default. -/
def tupd {α : Type} (t : Tbl α) (k : Nat) (d : α) (f : α → α) : Tbl α := tset t k (f (tgetD t k d))

/-- Whether a key is present. -/
def thas {α : Type} (t : Tbl α) (k : Nat) : Bool := (tget t k).isSome

/-- The values of a table, in key order. -/
def tvals {α : Type} (t : Tbl α) : List α := t.map (·.2)

/-- The keys of a table, in order. -/
def tkeys {α : Type} (t : Tbl α) : List Nat := t.map (·.1)

/-- Change every entry. -/
def tmap {α : Type} (t : Tbl α) (f : Nat → α → α) : Tbl α := t.map fun e => (e.1, f e.1 e.2)

/-- Keep the entries that pass a test. -/
def tfilter {α : Type} (t : Tbl α) (p : Nat → α → Bool) : Tbl α := t.filter fun e => p e.1 e.2

/-- Keys strictly rising: the canonical form of a table. -/
def keysRise {α : Type} : Tbl α → Bool
  | [] => true
  | [_] => true
  | (a, _) :: (b, w) :: t => decide (a < b) && keysRise ((b, w) :: t)

/-- The numbers from `lo` on, `n` of them. -/
def upFrom (lo n : Nat) : List Nat := (List.range n).map (lo + ·)

/-- `f i` for the numbers below `n`, folded over the state in rising order. -/
def forN {σ : Type} (n : Nat) (f : Nat → σ → σ) (s : σ) : σ := (List.range n).foldl (fun s i => f i s) s

/-- `f x` for each element, folded over the state in order. -/
def forEach {α σ : Type} (l : List α) (f : α → σ → σ) (s : σ) : σ := l.foldl (fun s x => f x s) s

/-- A state transformer under a condition. -/
def onlyIf {σ : Type} (c : Bool) (f : σ → σ) (s : σ) : σ := if c then f s else s

/-- The first `n` elements with the `i`th changed. -/
def setAt {α : Type} : List α → Nat → α → List α
  | [], _, _ => []
  | _ :: l, 0, v => v :: l
  | x :: l, i + 1, v => x :: setAt l i v

/-! ## Byte memories: sorted by address, no entry equal to what an unlisted address reads as -/

/-- One byte; an unlisted address reads as `d`. -/
def mget (d : Byte) (m : List Host.Cell) (a : Nat) : Byte := tgetD m a d

/-- Write one byte; writing `d` removes the entry. -/
def mput (d : Byte) (m : List Host.Cell) (a : Nat) (b : Byte) : List Host.Cell :=
  if b = d then terase m a else tset m a b

/-- `n` bytes from an address on. -/
def mread (d : Byte) (m : List Host.Cell) (a n : Nat) : List Byte := (upFrom a n).map (mget d m)

/-- Write bytes from an address on. -/
def mwrite (d : Byte) : List Host.Cell → Nat → List Byte → List Host.Cell
  | m, _, [] => m
  | m, a, b :: bs => mwrite d (mput d m a b) (a + 1) bs

/-- The canonical form of a byte memory whose unlisted addresses read as `d`. -/
def memWf (d : Byte) (m : List Host.Cell) : Bool := keysRise m && m.all (fun c => c.2 != d)

/-- Little-endian bytes of a number, R10. -/
def leBytes : Nat → Nat → List Byte
  | 0, _ => []
  | n + 1, v => BitVec.ofNat 8 v :: leBytes n (v / 256)

/-- The number that little-endian bytes hold, R10. -/
def leNat : List Byte → Nat
  | [] => 0
  | b :: bs => b.toNat + 256 * leNat bs

/-- Little-endian words of a byte list. -/
def leWords (n : Nat) (bs : List Byte) : List Word :=
  (List.range n).map fun i => BitVec.ofNat 32 (leNat ((bs.drop (4 * i)).take 4))

/-- The bytes of words. -/
def wordBytes (ws : List Word) : List Byte := ws.flatMap fun w => leBytes 4 w.toNat

/-! ## Bit fields -/

/-- A field of a number: `n` bits from bit `lo`. -/
def nfld (v lo n : Nat) : Nat := v / 2 ^ lo % 2 ^ n

/-- A field of a word: `n` bits from bit `lo`. -/
def fld (w : Word) (lo n : Nat) : Nat := nfld w.toNat lo n

/-- One bit of a word. -/
def bitOf (w : Word) (i : Nat) : Bool := w.getLsbD i

/-- A word with only bit `i` set. -/
def bitW (i : Nat) : Word := 1#32 <<< i

/-- A word from fields (lowest bit, bits, value); a value that is too wide keeps its low bits. -/
def pack (fs : List (Nat × Nat × Nat)) : Word :=
  fs.foldl (fun w f => w ||| (BitVec.ofNat 32 (f.2.2 % 2 ^ f.2.1) <<< f.1)) 0

/-- A Bool as a bit. -/
def b2n (b : Bool) : Nat := if b then 1 else 0

/-- A count in a field of `n` bits that saturates. -/
def sat (n v : Nat) : Nat := min v (2 ^ n - 1)

/-- A signed number as a field of `n` bits, two's complement. -/
def twos (n : Nat) (i : Int) : Nat := (i % (2 ^ n : Int)).toNat

/-- A field of `n` bits read as two's complement. -/
def signed (n v : Nat) : Int := if v < 2 ^ (n - 1) then v else (v : Int) - (2 ^ n : Int)

/-- A field that acts as 1 where it holds 0. -/
def orOne (v : Nat) : Nat := if v = 0 then 1 else v

/-- Words from a 64-bit number, low word first. -/
def lo32 (v : Nat) : Word := BitVec.ofNat 32 v
def hi32 (v : Nat) : Word := BitVec.ofNat 32 (v / 2 ^ 32)

/-- Quotient rounded up. -/
def ceilDiv (a b : Nat) : Nat := (a + b - 1) / b

/-- CRC-32C of bytes, R335, R71. -/
def crc32c (bs : List Byte) : Word :=
  let bit (c : Word) : Word := if c.getLsbD 0 then (c >>> 1) ^^^ 0x82F63B78 else c >>> 1
  ~~~(bs.foldl (fun c b => (List.range 8).foldl (fun c _ => bit c) (c ^^^ b.setWidth 32)) (0xFFFFFFFF : Word))

/-! ## Stored registers, R9 to R13 -/

/-- Stored content of a register repeat. -/
def reg (s : State) (r : RegId) (i : Nat := 0) : Word :=
  tgetD s.regs ((regDef r).addrOf i) (regDef r).reset

/-- Store a register repeat. -/
def setReg (r : RegId) (i : Nat) (w : Word) (s : State) : State :=
  { s with regs := tset s.regs ((regDef r).addrOf i) w }

/-- Set bits of a register: how hardware sets W1C event bits (R12: a set is never lost). -/
def orReg (r : RegId) (i : Nat) (m : Word) (s : State) : State := setReg r i (reg s r i ||| m) s

/-- Set event bit `b` of an event register that has one repeat. -/
def evt (r : RegId) (b : Nat) (s : State) : State := orReg r 0 (bitW b) s

/-- A field of a stored register. -/
def rfld (s : State) (r : RegId) (lo n : Nat) : Nat := fld (reg s r) lo n

/-! ## Changing one subsystem -/

def onSys (f : Sys → Sys) (s : State) : State := { s with sys := f s.sys }
def onPins (f : Pins → Pins) (s : State) : State := { s with pins := f s.pins }
def onCam (f : Cam → Cam) (s : State) : State := { s with cam := f s.cam }
def onHpc (f : Hpc → Hpc) (s : State) : State := { s with hpc := f s.hpc }
def onNvq (f : Nvq → Nvq) (s : State) : State := { s with nvq := f s.nvq }
def onQos (f : Qos → Qos) (s : State) : State := { s with qos := f s.qos }
def onXlt (f : Xlt → Xlt) (s : State) : State := { s with xlt := f s.xlt }
def onFte (f : Fte → Fte) (s : State) : State := { s with fte := f s.fte }
def onFch (f : Fch → Fch) (s : State) : State := { s with fch := f s.fch }
def onSre (f : Sre → Sre) (s : State) : State := { s with sre := f s.sre }
def onDre (f : Dre → Dre) (s : State) : State := { s with dre := f s.dre }
def onCst (f : Cst → Cst) (s : State) : State := { s with cst := f s.cst }
def onWel (f : Wel → Wel) (s : State) : State := { s with wel := f s.wel }
def onPmp (f : Pmp → Pmp) (s : State) : State := { s with pmp := f s.pmp }
def onMpr (f : Mpr → Mpr) (s : State) : State := { s with mpr := f s.mpr }
def onFlt (f : Flt → Flt) (s : State) : State := { s with flt := f s.flt }
def onPwr (f : Pwr → Pwr) (s : State) : State := { s with pwr := f s.pwr }
def onWhs (f : Whs → Whs) (s : State) : State := { s with whs := f s.whs }
def onUpd (f : Upd → Upd) (s : State) : State := { s with upd := f s.upd }
def onSec (f : Sec → Sec) (s : State) : State := { s with sec := f s.sec }
def onSbm (f : Sbm → Sbm) (s : State) : State := { s with sbm := f s.sbm }
def onDrm (f : Drm → Drm) (s : State) : State := { s with drm := f s.drm }

/-! ## Visible actions and free values -/

/-- Record a visible action. -/
def emit (o : Output) (s : State) : State := { s with out := o :: s.out }

/-- Advance the counter from which free values are drawn. -/
def drawn (s : State) : State := { s with free := s.free + 1 }

/-- A free number below `n` (0 where `n` is 0). -/
def freeBelow (s : State) (n : Nat) : Nat := Config.freeNat s.free % n

/-! ## Numbers of the device -/

def ctrlOf (port fn : Nat) : Nat := 253 * port + fn
def portOf (ctrl : Nat) : Nat := ctrl / 253
def fnOf (ctrl : Nat) : Nat := ctrl % 253
def isPf (ctrl : Nat) : Bool := ctrl % 253 == 0
def qkey (ctrl qid : Nat) : Nat := 65536 * ctrl + qid
def dieNo (chan k : Nat) : Nat := 16 * chan + k
def chanOf (die : Nat) : Nat := die / 16
def blkKey (die block : Nat) : Nat := 65536 * die + block
def stripeKey (dom stripe : Nat) : Nat := 2 ^ 32 * dom + stripe
def iuKey (ns iu : Nat) : Nat := 2 ^ 40 * ns + iu
def cwKey (die cw : Nat) : Nat := 2 ^ 27 * die + cw

end Sys2Proof.Machine
end

