-- ==== Sys2Proof/Machine/Flags.lean ====
section
/-! DEFINITION. Mode and domain status: SYS_MODE_STS and SYS_BOOT_STS, the event log, derivation of the device mode and
the critical warning. -/

namespace Sys2Proof.Machine

/-- Codes of Table 2-1. -/
def Mode.code : Mode → Nat
  | .boot => 0 | .operational => 1 | .degraded => 2 | .writeProtected => 3 | .offline => 4
  | .sanitize => 5 | .holdup => 6 | .standpipe => 7 | .dormant => 8 | .factory => 9

/-- Codes of Table 2-5 DOM_STATE. -/
def DomState.code : DomState → Nat
  | .inService => 0 | .rebuilding => 1 | .offline => 2

/-- State of domain `d`, R31. -/
def domSt (s : State) (d : Nat) : DomState := (tgetD s.dre.doms d {}).st

/-- Whether some domain is in a state. -/
def anyDom (s : State) (st : DomState) : Bool := (List.range 4).any fun d => domSt s d == st

/-- Whether every domain is in a state. -/
def allDoms (s : State) (st : DomState) : Bool := (List.range 4).all fun d => domSt s d == st

/-- Table 2-5 DOM_STATE. -/
def domStates (s : State) : Nat :=
  (domSt s 0).code + 4 * (domSt s 1).code + 16 * (domSt s 2).code + 64 * (domSt s 3).code

/-- A sanitize record is open (R449). -/
def sanOpen (s : State) : Bool := s.cst.san.isSome

/-- The conditions the cistern keeps are known: from step 0x3 of BOOT on, SYS_MODE_STS shows them (R43). -/
def stsKnown (s : State) : Bool := s.sys.mode != .boot || decide (3 ≤ s.sys.step)

/-- SYS_MODE_STS, Table 2-5. -/
def modeSts (s : State) : Word :=
  let k := stsKnown s
  pack [(24, 8, s.sys.chgCnt), (19, 1, b2n s.sys.tmIgn), (18, 1, b2n s.sys.hold), (17, 1, b2n (k && sanOpen s)),
    (16, 1, b2n (k && s.fte.wp)), (8, 8, if k then domStates s else 0), (4, 4, s.sys.prevMode.code), (0, 4, s.sys.mode.code)]

/-- SYS_BOOT_STS, Table 2-7. -/
def bootSts (s : State) : Word :=
  pack [(12, 4, s.sys.rstCause), (9, 1, s.sys.profSlot), (8, 1, s.sys.imgSlot), (4, 4, s.sys.step),
    (0, 4, s.sys.holdWhy)]

/-- The mode R30 derives from the conditions of the media, Table 2-1. -/
def deriveMode (s : State) : Mode :=
  if sanOpen s then .sanitize
  else if allDoms s .offline then .offline
  else if s.fte.wp then .writeProtected
  else if anyDom s .rebuilding then .degraded
  else .operational

/-- Modes that conditions of the media change (Table 2-2); BOOT, HOLDUP, STANDPIPE, DORMANT and FACTORY are left only by
their own events. -/
def Mode.derived : Mode → Bool
  | .operational | .degraded | .writeProtected | .offline | .sanitize => true
  | .boot | .holdup | .standpipe | .dormant | .factory => false

/-- Modes in which host work runs. -/
def Mode.serving : Mode → Bool
  | .operational | .degraded | .writeProtected | .offline | .sanitize | .factory => true
  | .boot | .holdup | .standpipe | .dormant => false

/-- Write an event log entry (Table 12-7); EST by R381; at most 32,768 entries (Table 12-1). -/
def logEvent (code : Nat) (old new cause : Word) (s : State) : State :=
  let e : Event := { seq := s.cst.evSeq, time := s.pwr.tb, est := s.pwr.tbSt != .sync, code, old, new, cause }
  let l := s.cst.events ++ [e]
  { s with cst := { s.cst with events := l.drop (l.length - 32768), evSeq := s.cst.evSeq + 1 } }

/-- An event log entry whose OLD, NEW and CAUSE the manual does not state: they are free values. -/
def logOpen (code : Nat) (s : State) : State :=
  let w (i : Nat) : Word := BitVec.ofNat 32 (Config.freeNat (s.free + i))
  let s1 := logEvent code (w 0) (w 1) (w 2) s
  { s1 with free := s.free + 3 }

/-- An event log entry of a group for which the manual states no code: its low byte is free too (R312 gives [15:8]). -/
def logGroup (group : Nat) (s : State) : State := logOpen (256 * group + Config.eventCode group % 256) s

/-- CAUSE of event code 0x0101, Table 2-11. -/
def modeCause (s0 s1 : State) (code die : Nat) : Word :=
  let chg (d : Nat) := b2n (domSt s0 d != domSt s1 d)
  pack [(16, 9, die), (8, 4, chg 0 + 2 * chg 1 + 4 * chg 2 + 8 * chg 3), (0, 8, code)]

/-- Log a change of mode or domain state, R41. -/
def logMode (s0 : State) (code die : Nat) (s : State) : State :=
  let s1 := logEvent 0x0101 (modeSts s0) (modeSts s) (modeCause s0 s code die) s
  { s1 with cst := { s1.cst with lastSts := modeSts s1 } }

/-- Change the device mode: CHG_CNT, PREV_MODE, the time of Table 2-8 and SYS_MODE_EVT.ENTERED (R42). -/
def moveMode (m : Mode) (s : State) : State :=
  if m = s.sys.mode then s
  else orReg .sysModeEvt 0 (bitW m.code)
    { s with sys := { s.sys with mode := m, prevMode := s.sys.mode, chgCnt := (s.sys.chgCnt + 1) % 256, chgTime := s.pwr.tb } }

/-- SYS_MODE_EVT.DOM_OFF and DOM_BACK for the domains that changed, R42. -/
def domEvents (s0 s : State) : State :=
  forN 4 (fun d s1 =>
    if domSt s0 d = domSt s d then s1
    else if domSt s d = .offline then evt .sysModeEvt (16 + d) s1
    else if domSt s d = .inService then evt .sysModeEvt (20 + d) s1
    else s1) s

/-- After a condition of the media changed between `s0` and `s`: the mode is derived again (R30, R33) and one event log
entry records the change, if any (R41). -/
def settle (s0 : State) (code die : Nat) (s : State) : State :=
  let s1 := domEvents s0 (if s.sys.mode.derived then moveMode (deriveMode s) s else s)
  if s1.sys.mode = s0.sys.mode ∧ domStates s1 = domStates s0 then s1 else logMode s0 code die s1

/-- Enter a mode by its own event, with the log entry of R41. -/
def enterMode (m : Mode) (code : Nat) (s : State) : State := logMode s code 0 (moveMode m s)

/-- The critical warning byte of R40, Table 2-4. -/
def critWarn (s : State) : Nat :=
  if s.sys.mode = .boot then 0
  else (if s.fte.wp then 9 else 0) + (if anyDom s .rebuilding || anyDom s .offline then 4 else 0)

end Sys2Proof.Machine
end

