-- ==== Sys2Proof/Machine/Space.lean ====
section
/-! DEFINITION. Geometry and capacity: dies and domains, the figures of Table 8-8, block pools, namespaces and map
entries, well capacity. -/

namespace Sys2Proof.Machine

/-! ## Dies and domains -/

/-- Domain of a die, R265; chip enable by R207. -/
def dieDom (die : Nat) : Nat := ((die % 16 / 2) / 2 + 3 * (die / 16 / 16)) % 4

/-- A die. -/
def dieAt (s : State) (die : Nat) : Die := tgetD s.fch.dies die {}

/-- A die is in service: answering, not marked failed, not retired (R208, R214, R277), its channel not failed. -/
def dieOk (s : State) (die : Nat) : Bool :=
  let d := dieAt s die
  d.present && !d.failed && !d.retired

/-- The in-service dies of the device, in increasing number. -/
def okDies (s : State) : List Nat := (tkeys s.fch.dies).filter (dieOk s)

/-- The in-service dies of a domain, R266. -/
def domDies (s : State) (d : Nat) : List Nat := (okDies s).filter fun k => dieDom k == d

/-- Stripe width of a domain. -/
def domW (s : State) (d : Nat) : Nat := (tgetD s.dre.doms d {}).w

/-! ## Blocks -/

/-- The block R194 puts into the reserved pool of its die: the lowest numbered blocks (DESIGN CHOICE: the manual gives
their number per die, not which they are); the last block is the header block, R173. -/
def blkNew (p : Profile) (block : Nat) : Blk :=
  if block + 1 = p.blocksPerDie then { st := .header, bst := .header }
  else { resv := decide (block < p.resMap + p.resSpill) }

/-- A block of the block table. -/
def blkAt (s : State) (die block : Nat) : Blk := tgetD s.fte.blks (blkKey die block) (blkNew s.prof block)

/-- Change a block. -/
def blkMod (die block : Nat) (f : Blk → Blk) (s : State) : State :=
  { s with fte := { s.fte with blks := tset s.fte.blks (blkKey die block) (f (blkAt s die block)) } }

/-- Good: neither header nor retired. -/
def Blk.good (b : Blk) : Bool := b.st != .retired && b.st != .header

/-- The blocks of a domain's in-service dies: (die, block, entry). -/
def domBlks (s : State) (d : Nat) : List (Nat × Nat × Blk) :=
  (domDies s d).flatMap fun k => (List.range s.prof.blocksPerDie).map fun b => (k, b, blkAt s k b)

/-- Lowest erase count of a good block of a pool. -/
def poolMin (bs : List (Nat × Nat × Blk)) (resv : Bool) : Nat :=
  let ecs := (bs.filter fun x => x.2.2.good && x.2.2.resv == resv).map (·.2.2.ec)
  ecs.foldl min (ecs.headD 0)

/-- FTE_CFG.SPREAD in cycles, R194. -/
def spreadLimit (s : State) : Nat := 16 * orOne (rfld s .fteCfg 4 4)

/-- Held back, R194. -/
def heldBack (s : State) (bs : List (Nat × Nat × Blk)) (b : Blk) : Bool :=
  decide (b.ec > poolMin bs b.resv + spreadLimit s)

/-- Free blocks of a domain that are not held back, and that are. -/
def freeBlks (s : State) (d : Nat) (held : Bool) : Nat :=
  let bs := domBlks s d
  (bs.filter fun x => x.2.2.st == .free && heldBack s bs x.2.2 == held).length

/-- f_d compared with a count per die, R196: free blocks per in-service die are below `n`. -/
def freeBelowPerDie (s : State) (d n : Nat) : Bool :=
  decide (freeBlks s d false < n * (domDies s d).length)

/-- Codewords per block in native mode (C of Table 8-8). -/
def cwsPerBlk (p : Profile) : Nat := p.pages * 4 * p.q

/-- Positions of one program step of a block of a stream (MAP programs in SLC mode, R193). -/
def stepCws (p : Profile) (stream : Nat) : Nat :=
  if stream = 2 then 4 * p.qSlc else p.pagesPerStep * 4 * p.q

/-- Groups of pages of a block of a stream that program steps program together. -/
def stepsOf (p : Profile) (stream : Nat) : Nat := if stream = 2 then p.slcSteps else p.steps

/-- The program sequence of a block of a stream (R216, R218): for each program step the group of pages it programs. -/
def seqOf (p : Profile) (stream : Nat) : List Nat := if stream = 2 ∨ p.seq = [] then List.range (stepsOf p stream) else p.seq

/-- Steps of the sequence. -/
def seqLen (p : Profile) (stream : Nat) : Nat := (seqOf p stream).length

/-- The group a step of the sequence programs. -/
def groupAt (p : Profile) (stream i : Nat) : Nat := (seqOf p stream).getD i 0

/-- A step is the last that programs its group: the group's pages pass with it (R218). -/
def lastOf (p : Profile) (stream i : Nat) : Bool := !((seqOf p stream).drop (i + 1)).contains (groupAt p stream i)

/-- Steps from the front of the sequence that program groups below `g` only. -/
def cutAt (p : Profile) (stream g : Nat) : Nat := ((seqOf p stream).takeWhile fun x => decide (x < g)).length

/-- Steps up to the last that programs a group below `g`. -/
def endAt (p : Profile) (stream g : Nat) : Nat :=
  seqLen p stream - ((seqOf p stream).reverse.takeWhile fun x => decide (g ≤ x)).length

/-- Groups of a block all of whose steps come before step `next`. -/
def groupsDone (p : Profile) (stream next : Nat) : Nat :=
  ((List.range (stepsOf p stream)).takeWhile fun g => !((seqOf p stream).drop next).contains g).length

/-- Block and position of a codeword index, R173. -/
def cwBlk (p : Profile) (cw : Nat) : Nat := cw / max 1 (cwsPerBlk p)
def cwPos (p : Profile) (cw : Nat) : Nat := cw % max 1 (cwsPerBlk p)
def cwOf (p : Profile) (block pos : Nat) : Nat := block * cwsPerBlk p + pos

/-- Die of a codeword address. -/
def cwDie (cw : Nat) : Nat := cw / 2 ^ 27

/-! ## Namespaces and map entries -/

/-- 4 KiB units per IU of an LBA format, Table 5-4. -/
def iuUnits (fmt : Nat) : Nat := if fmt < 4 then 1 else 4

/-- Bytes of LBA data of a format. -/
def lbaBytes (fmt : Nat) : Nat := if fmt % 4 = 0 then 512 else 4096

/-- Metadata bytes of a format. -/
def metaBytes (fmt : Nat) : Nat := if fmt % 4 = 2 then 8 else if fmt % 4 = 3 then 16 else 0

/-- LBAs per IU, R172. -/
def lbasPerIu (fmt : Nat) : Nat := iuUnits fmt * 4096 / lbaBytes fmt

/-- A namespace that exists. -/
def nsAt (s : State) (ns : Nat) : Option Ns := (tget s.fte.nss ns).filter (·.live)

/-- The special values of Table 8-2 and the value that names a codeword, Table 8-1. -/
def mapUnmapped : Nat := 0xFFFFFFFFF
def mapZero : Nat := 0xFFFFFFFFE
def mapUnc : Nat := 0xFFFFFFFFD
def mapCw (die cw : Nat) : Nat := 2 ^ 27 * die + cw
def mapSpecial (e : Nat) : Bool := decide (0xFFFFFFFF0 ≤ e)

/-- A_d, Table 8-8: namespace capacity allocated in a domain, 4 KiB units. -/
def allocD (s : State) (d : Nat) : Nat :=
  (tvals s.fte.nss).foldl (fun a n =>
    if n.live then n.segs.foldl (fun a g => if g.1 = d then a + g.2.2 * iuUnits n.fmt else a) a else a) 0

/-- G_d. -/
def goodD (s : State) (d : Nat) : Nat := ((domBlks s d).filter fun x => x.2.2.good).length

/-- RES_d: over the domain's dies, those out of service but not retired among them. -/
def resD (s : State) (d : Nat) : Nat :=
  ((s.fch.dies.filter fun e => dieDom e.1 == d && !e.2.retired).length) * (s.prof.resMap + s.prof.resSpill)

/-- Need_d; OPF is a percentage of the profile. -/
def needD (s : State) (d : Nat) : Nat :=
  let w := domW s d
  resD s d + ceilDiv (allocD s d * (100 + s.prof.opf) * w) (max 1 (100 * cwsPerBlk s.prof * (w - 1)))

/-- Spare_d, which may be negative. -/
def spareD (s : State) (d : Nat) : Int := (goodD s d : Int) - (needD s d : Int)

/-- The value CAP_d takes when the domain is laid out. -/
def layCapD (s : State) (d : Nat) : Nat :=
  let w := domW s d
  (goodD s d - resD s d - s.prof.floor - s.prof.spareInit) * cwsPerBlk s.prof * (w - 1) * 100 / max 1 (w * (100 + s.prof.opf))

/-- Unallocated capacity of a domain, 4 KiB units. -/
def unallocD (s : State) (d : Nat) : Nat := tgetD s.fte.capD d 0 - allocD s d

/-- Device unallocated capacity of R200. -/
def unalloc (s : State) : Nat :=
  (List.range 4).foldl (fun a d => if domSt s d = .offline then a else a + unallocD s d) 0

/-- Whether a domain is below FLOOR (R202), and whether it has FLOOR plus HYST. -/
def belowFloor (s : State) (d : Nat) : Bool := decide (spareD s d < (s.prof.floor : Int))
def aboveHyst (s : State) (d : Nat) : Bool := decide ((s.prof.floor + s.prof.hyst : Int) ≤ spareD s d)

/-- Available Spare, Available Spare Threshold, R203. -/
def availSpare (s : State) : Nat :=
  let den := max 1 (s.prof.floor + s.prof.spareInit)
  let vs := ((List.range 4).filter fun d => domSt s d != .offline).map fun d => min 100 ((spareD s d).toNat * 100 / den)
  vs.foldl min 100
def spareThresh (s : State) : Nat := 100 * s.prof.floor / max 1 (s.prof.floor + s.prof.spareInit)

/-- Percentage Used, R203. -/
def pctUsed (s : State) : Nat :=
  let bs := (List.range 4).flatMap fun d => (domBlks s d).filter fun x => x.2.2.good && !x.2.2.resv
  let tot := bs.foldl (fun a x => a + x.2.2.ec) 0
  min 255 (100 * tot / max 1 (bs.length * s.prof.ratedCycles))

/-- Segments in use: those that hold a live record, and the current one once it is begun (R296, R297). -/
def segsUsed (s : State) : Nat :=
  let l := (s.cst.log.map (·.seg)).eraseDups
  l.length + b2n (decide (0 < s.cst.wr) && !l.contains (s.cst.wr / 1024))

/-- FTE_LOG_STS.LOG_PCT, R297. -/
def logPct (s : State) : Nat := segsUsed s * 100 / 736

/-! ## Wells -/

/-- Buffer bytes of a pool, Table 13-1. -/
def bufBytes (p : Nat) : Nat := match p with | 0 => 512 | 1 => 4096 | 2 => 16384 | _ => 65536

/-- Free buffers of a pool. -/
def poolFree (p : Pool) : Nat := p.total - p.fresh + p.ret.length

/-- Bytes held by a class: 0 WRITE, 1 PARITY, 2 GENERAL. -/
def clsBytes (s : State) (c : Nat) : Nat :=
  s.wel.bufs.foldl (fun a e => if e.2.cls = c then a + bufBytes (e.1 / 2 ^ 20) else a) 0

/-- HELD_r of R320, in bytes. -/
def rqBytes (s : State) (r : Nat) : Nat :=
  s.wel.bufs.foldl (fun a e => if e.2.owner = r then a + bufBytes (e.1 / 2 ^ 20) else a) 0

/-- Free bytes of the wells, over the present pools. -/
def welFree (s : State) : Nat :=
  s.wel.pools.foldl (fun a e => a + poolFree e.2 * bufBytes e.1) 0

/-- The write-data limit and the parity limit of R18, lowered by R19 below 240 dies in service. -/
def lim19 (s : State) (mib : Nat) : Nat :=
  let n := (okDies s).length
  if 240 ≤ n then mib * 2 ^ 20 else mib * 2 ^ 20 * n / 240 / 65536 * 65536

/-- PWR_HU_CFG.HU_LOW_MIB, R398. -/
def huLowMib (s : State) : Nat := min 48 (orOne (rfld s .pwrHuCfg 0 8))

/-- The write-data limit in force, R18, R19, R398. -/
def writeLimit (s : State) : Nat :=
  let l := lim19 s 48
  if s.pwr.huRdy then l else min l (huLowMib s * 2 ^ 20)

/-- Accumulator bytes in use, R270. -/
def accBytes (s : State) : Nat :=
  (tvals s.dre.stripes).foldl (fun a t => a + t.accs.length * stepCws s.prof t.stream * 4096) 0

/-- Bytes of write data in the write wells: sectors whose well space is not released. -/
def wellBytes (s : State) : Nat :=
  s.fte.idx.foldl (fun a r => match nsAt s r.ns with
    | some n => if r.live then a + 4096 * iuUnits n.fmt else a
    | none => if r.live then a + 4096 else a) 0

/-! ## Host ports and power caps -/

def portAt (s : State) (n : Nat) : Port := tgetD s.hpc.ports n {}

/-- Lowest member of the link that includes port `n`, by the merge configuration of Table 4-1: 000b four x4, 001b HP0+HP1
x8, 010b HP2+HP3 x8, 011b both x8, 100b one x16. -/
def linkOf (s : State) (n : Nat) : Nat :=
  match s.hpc.merge with
  | 1 => if n = 1 then 0 else n
  | 2 => if n = 3 then 2 else n
  | 3 => if n = 1 then 0 else if n = 3 then 2 else n
  | 4 => 0
  | _ => n

/-- A port in the PR role; a partner-facing link. -/
def isPr (s : State) (n : Nat) : Bool := s.hpc.role.testBit n
def isPface (s : State) (n : Nat) : Bool := s.hpc.pface.testBit n

/-- An EP link that is not partner-facing, named by its lowest member. -/
def hostLink (s : State) (n : Nat) : Bool := linkOf s n == n && !isPr s n && !isPface s n

/-- The link whose PF 0 exposes BAR2, R50, R85. -/
def mgmtLink (s : State) : Nat :=
  let l := linkOf s s.hpc.mgmtPort
  if isPr s l || isPface s l then ((List.range 4).find? (hostLink s)).getD 0 else l

/-- The management PF, R50, R85: BAR2 maps the window there alone, and the ring messages go through its MSI-X table. -/
def mgmtPf (s : State) : Nat := ctrlOf (mgmtLink s) 0

/-- A controller on an EP link that is not partner-facing. -/
def hostCtrl (s : State) (c : Nat) : Bool := decide (c < 1012) && hostLink s (linkOf s (portOf c))

def ctrlAt (s : State) (c : Nat) : Ctrl := tgetD s.nvq.ctrls c {}
def fnAt (s : State) (c : Nat) : Fn := tgetD s.hpc.fns c {}

/-- Host cap of R388. -/
def hostCap (s : State) : Nat :=
  let c0 := (List.range 4).foldl (fun c n =>
    let p := (ctrlAt s (ctrlOf n 0)).ps
    if hostLink s (linkOf s n) && decide (p ≤ 20) && thas s.nvq.ctrls (ctrlOf n 0) then min c (32 - p) else c) 32
  if s.pwr.mgmtCap = 0 then c0 else min c0 s.pwr.mgmtCap

/-- Effective cap C of R388. -/
def effCap (s : State) : Nat := min (hostCap s) s.pwr.thermW

/-- Island state, R370 (absent: ON). -/
def islAt (s : State) (i : Nat) : IslSt := tgetD s.pwr.isl i .on
def islOn (s : State) (i : Nat) : Bool := islAt s i == .on

/-- A control sequencer can work: its island, 40 to 42, is not held in reset. -/
def seqUp (s : State) (k : Nat) : Bool := islAt s (40 + k / 4) != .reset

/-- The work of sequencer `k`, Table 1-3, R21: it pauses while the sequencer's island is held in reset, and its rows come after. -/
def onSeq (k : Nat) (s : State) (r : Res) : Res := if seqUp s k then r else .next s

end Sys2Proof.Machine
end

