-- ==== Sys2Proof/Machine/Views.lean ====
section
/-! DEFINITION. The value each register reads: stored registers as stored, status registers computed from the state they
report; the fault source catalogue of Tables 15-2 and 15-15. -/

namespace Sys2Proof.Machine

/-! ## The source catalogue -/

/-- Default reactions, fixed reactions and AEN of a source, Table 15-2. Bits: 0 INT, 1 NMT, 2 BLK, 3 CHP, 4 PIN. -/
def srcDefault (i : Nat) : Nat × Nat × Nat :=
  if i < 46 then (1, 1, 1)
  else if i < 92 then (5, 1, 1)
  else if i < 138 then (1, 1, 0)
  else if i < 150 then (3, 2, 2)
  else if i < 162 then (2, 2, 2)
  else if i < 178 then (1, 0, 0)
  else if i < 186 then (1, 0, if i ≤ 181 || i = 185 then 1 else 0)
  else if i < 238 then (1, 0, 0)
  else if i < 246 then (1, 0, if i = 238 || i = 242 then 1 else 0)
  else if i < 270 then (1, 0, 0)
  else if i < 278 then (if i = 272 then 17 else 1, 1, if i ≤ 272 || i = 275 then 3 else 0)
  else if i < 302 then (1, 0, 0)
  else if i < 310 then (if i = 304 then 24 else 1, if i = 304 then 8 else 0, if i ≤ 303 || i = 308 then 1 else 0)
  else if i < 326 then
    (if i = 312 then 24 else 1, if i = 312 then 8 else 0, if i ≤ 311 || (317 ≤ i && i ≤ 322) then 1 else 0)
  else if i < 342 then
    (if i = 327 then 16 else if i = 332 then 17 else 1, if i = 327 then 16 else 0,
      if i = 331 || i = 332 then 4 else if i = 328 || i = 341 then 3 else 0)
  else if i < 358 then (1, 0, 0)
  else if i < 366 then (1, 0, if i ≤ 361 then 1 else 0)
  else (1, 0, 4)

def srcAt (s : State) (i : Nat) : Src := tgetD s.flt.srcs i {}

/-- Reactions in force: the table's or the loaded ones, with the fixed ones (R365). -/
def srcReact (s : State) (i : Nat) : Nat := ((srcAt s i).react.getD (srcDefault i).1) ||| (srcDefault i).2.1

/-- AEN mapping in force. -/
def srcAen (s : State) (i : Nat) : Nat := (srcAt s i).aen.getD (srcDefault i).2.2

/-- FLT_SRC_CFG image, Table 15-13. -/
def srcCfg (s : State) (i : Nat) : Word :=
  pack [(16, 5, (srcDefault i).2.1), (8, 3, srcAen s i), (0, 5, srcReact s i)]

/-- Handling sequencer of a source, Table 15-15. -/
def srcSeq (i : Nat) : Nat :=
  if i < 46 then 11
  else if i < 138 then 9
  else if i < 150 then i - 138
  else if i < 162 then i - 150
  else if i < 174 then 11
  else if i = 174 then 7
  else if i < 178 then 11
  else if i < 186 then 1
  else if i < 190 then 11
  else if i < 198 then 2
  else if i = 198 || i = 199 || i = 202 then 2
  else if i < 206 then 3
  else if i < 222 then 4
  else if i < 238 then 5
  else if i < 246 then 4
  else if i < 262 then 6
  else if i < 270 then 7
  else if i < 278 then 8
  else if i < 286 then 11
  else if i < 298 then i - 286
  else if i < 302 then 11
  else if i < 310 then 10
  else if i < 326 then 11
  else if i < 342 then 9
  else if i < 350 then 10
  else if i < 366 then 11
  else 9

/-- Islands of Table 15-4, which BLK can reset alone. -/
def blkListed (i : Nat) : Bool := (11 ≤ i && i ≤ 22) || i == 28 || i == 30 || i == 34 || i == 35 || (40 ≤ i && i ≤ 44)

/-- The island Table 15-15 names for a source, whether or not BLK can reset it alone. -/
def srcTable (i : Nat) : Option Nat :=
  if i < 46 then some i
  else if i < 92 then some (i - 46)
  else if i < 138 then some (i - 92)
  else if i < 150 then some (40 + (i - 138) / 4)
  else if i < 162 then some (40 + (i - 150) / 4)
  else if i < 174 then some (2 + (i - 162) % 4)
  else if i < 178 then none
  else if i < 186 then some 7
  else if i < 190 then some 8
  else if i < 198 then some 9
  else if i < 206 then some 10
  else if i < 238 then some (11 + (i - 206) / 4)
  else if i < 246 then none
  else if i < 250 then some (19 + (i - 246))
  else if i < 254 then some (19 + (i - 250))
  else if i < 262 then none
  else if i < 270 then some 23
  else if i < 272 then some (43 + (i - 270))
  else if i < 278 then none
  else if i < 282 then some (24 + (i - 278))
  else if i < 286 then none
  else if i < 302 then some 28
  else if i < 310 then some 29
  else if i < 326 then some 30
  else if i < 342 then some 32
  else if i < 350 then some 34
  else if i < 358 then some 35
  else if i < 362 then some (36 + (i - 358))
  else if i < 366 then none
  else if i < 370 then some (2 + (i - 366))
  else if i < 382 then some (7 + (i - 366))
  else none

/-- The island that BLK resets for a source; none where BLK acts as CHP (R497). -/
def srcIsland (i : Nat) : Option Nat := (srcTable i).filter blkListed

/-- The island that drives a source's rails, R358: the one the table names, but for the sources 0 to 137, which others raise about it. -/
def srcHome (i : Nat) : Option Nat := if i < 138 then none else srcTable i

/-- Asserted or in wire fault: every code but clear (Table 15-1). -/
def Src.live (x : Src) : Bool := x.p || !x.n
def Src.wire (x : Src) : Bool := x.p == x.n

/-- Live bits, latch bits of a word of sources. -/
def fltLiveW (s : State) (w : Nat) : Word :=
  (List.range 32).foldl (fun a b => if (srcAt s (32 * w + b)).live then a ||| bitW b else a) 0
def fltLatchW (s : State) (w : Nat) : Word :=
  (List.range 32).foldl (fun a b => if (srcAt s (32 * w + b)).latched then a ||| bitW b else a) 0

/-- FLT_STS, Table 15-7. -/
def fltSts (s : State) : Word :=
  let vs := s.flt.srcs.map (·.2)
  pack [(31, 1, b2n s.pins.faultN), (30, 1, b2n s.sys.locked), (29, 1, b2n (s.sys.mode == .factory)),
    (16, 9, (vs.filter Src.live).length), (0, 9, (vs.filter Src.wire).length)]

/-! ## Status registers -/

def ringAt (s : State) (p : Nat) : Ring := tgetD s.cam.rings p {}

/-- Long operations running. -/
def opsRun (s : State) : Nat := (s.cam.ops.filter fun e => e.2.st == .running).length

def camSts (s : State) : Word :=
  let en (p : Nat) := b2n (ringAt s p).en
  pack [(16, 4, en 0 + 2 * en 1 + 4 * en 2 + 8 * en 3), (8, 7, opsRun s), (0, 1, b2n s.cam.dramTrough)]

def ringActive (s : State) (p : Nat) : Bool := s.cam.ops.any fun e => e.2.st == .running && e.2.src == p

def rcfgW (r : Ring) : Word := pack [(16, 11, r.vec), (8, 1, b2n r.irqEn), (4, 4, r.size), (0, 1, b2n r.en)]
def rptrW (r : Ring) : Word := pack [(16, 12, r.rplNext), (0, 12, r.head)]
def rstsW (s : State) (p : Nat) : Word :=
  let r := ringAt s p
  pack [(8, 1, b2n (ringActive s p)), (3, 1, b2n r.dbErr), (2, 1, b2n r.cfgErr), (1, 1, b2n r.rplStall), (0, 1, b2n r.ownErr)]

def hpcCfgW (s : State) : Word :=
  pack [(18, 2, s.hpc.timePort), (12, 4, s.hpc.pface), (8, 4, s.hpc.role), (0, 3, s.hpc.merge)]
def hpcStsW (s : State) : Word := pack [(8, 1, b2n s.hpc.cfgPend), (4, 3, s.hpc.pfState), (0, 3, s.hpc.twin)]
def lnkStsW (p : Port) : Word :=
  pack [(31, 1, b2n p.up), (24, 4, p.st), (16, 5, p.width), (8, 4, p.rate), (1, 1, b2n p.flit), (0, 1, b2n p.perst)]

/-- A submission queue is active, R108. -/
def sqActive (s : State) (k : Nat) (q : Sq) : Bool :=
  q.head != q.tail || s.nvq.tags.any fun e => qkey e.2.ctrl e.2.qid == k

def ioSqs (s : State) : Tbl Sq := s.nvq.sqs.filter fun e => e.1 % 65536 != 0
def ioCqs (s : State) : Tbl Cq := s.nvq.cqs.filter fun e => e.1 % 65536 != 0

def ctxStsW (s : State) : Word :=
  let act := (ioSqs s).filter fun e => sqActive s e.1 e.2
  pack [(16, 14, (act.filter fun e => !e.2.hot).length), (0, 13, (act.filter fun e => e.2.hot).length)]

/-- Namespace a command names, CDW1. -/
def entNsid (e : Entry) : Nat := (e.dw.getD 1 0).toNat

def untrkNs (s : State) : Nat :=
  ((s.nvq.tags.filterMap fun e => if e.2.untracked && !e.2.placed then some (entNsid e.2.ent) else none).eraseDups).length

def ovlStsW (s : State) : Word :=
  let u := s.nvq.ovl.length
  pack [(31, 1, b2n (decide (4096 ≤ u) || s.nvq.ovlFullTill.isSome)), (16, 11, untrkNs s), (0, 13, u)]

def tagStsW (s : State) : Word :=
  let n := s.nvq.tags.length
  pack [(31, 1, b2n (decide (65536 ≤ n))), (30, 1, b2n (decide (65536 - n ≤ 256))), (0, 17, n)]

def tntAt (s : State) (t : Nat) : Tenant := tgetD s.qos.tnts t {}

/-- Sums of the minimums over enabled tenants. -/
def sumBwMin (s : State) : Nat := (tvals s.qos.tnts).foldl (fun a t => if t.en then a + t.bwMin else a) 0
def sumIoMin (s : State) : Nat := (tvals s.qos.tnts).foldl (fun a t => if t.en then a + t.ioMin else a) 0

def qosStsW (s : State) : Word :=
  pack [(21, 11, s.qos.scaleIo), (10, 11, s.qos.scaleBw), (9, 1, b2n (bitOf (reg s .pwrCfg) 31)),
    (8, 1, b2n (decide (s.qos.scaleBw < 1024) || decide (s.qos.scaleIo < 1024)))]

/-- Whether a context waits (Table 7-3). -/
def CtxSt.waiting : CtxSt → Bool
  | .txWait | .pgQueued | .pgWait | .mpWait => true
  | .idle | .running | .resume => false

/-- Tags of the controllers of a port. -/
def portTags (s : State) (n : Nat) : List Tag := (tvals s.nvq.tags).filter fun t => portOf t.ctrl == n

/-- Translation Requests outstanding on a link (R171); Page Request Messages that count, of the groups that pass a test (R161). -/
def atsOut (s : State) (l : Nat) : Nat := (s.xlt.reqs.filter fun e => !e.2.wait && linkOf s (portOf e.2.ctrl) == l).length
def msgsOf (s : State) (p : Prg → Bool) : Nat := ((s.xlt.prgs.filter p).map (·.pages.length)).foldl (· + ·) 0

def xltLnkW (s : State) (n : Nat) : Word :=
  if linkOf s n ≠ n then 0
  else pack [(16, 13, msgsOf s fun g => linkOf s (portOf g.ctrl) == n), (0, 10, atsOut s n)]

def retained (s : State) : Nat := (s.fte.idx.filter fun r => !r.live).length

def gcAt (s : State) (d : Nat) : Gc := tgetD s.fte.gc d {}

def domBits (f : Nat → Bool) : Nat := b2n (f 0) + 2 * b2n (f 1) + 4 * b2n (f 2) + 8 * b2n (f 3)

/-- FTE_STS, Table 8-10; WP_DOM keeps its reset value until replay has given the figures of Table 8-8 (DEDUCED). -/
def fteStsW (s : State) : Word :=
  let k := s.sys.mode != .boot || decide (7 ≤ s.sys.step)
  pack [(28, 4, domBits fun d => k && domSt s d != .offline && belowFloor s d), (24, 4, domBits fun d => (gcAt s d).urg),
    (20, 4, domBits fun d => (gcAt s d).act)]

def domEcW (s : State) (d : Nat) : Word :=
  let ecs := ((domBlks s d).filter fun x => x.2.2.good && !x.2.2.resv).map (·.2.2.ec)
  pack [(16, 16, sat 16 (ecs.foldl max 0)), (0, 16, sat 16 (ecs.foldl min (ecs.headD 0)))]

def chanAt (s : State) (c : Nat) : Chan := tgetD s.fch.chans c {}

def fchStsW (s : State) : Word :=
  pack [(31, 1, b2n s.fch.trnNow.isSome), (24, 5, (s.fch.trnNow.map (·.ch)).getD 0), (16, 6, s.fch.trnQ.length),
    (0, 10, s.fch.diesFailed)]

def chStsW (c : Chan) : Word :=
  pack [(31, 1, b2n (c.up && !c.trn)), (30, 1, b2n c.trn), (29, 1, b2n c.failed), (24, 3, c.iface), (16, 8, c.rate),
    (8, 8, twos 8 c.trnTemp), (0, 8, c.eye)]
def chCntW (c : Chan) : Word := pack [(16, 16, sat 16 c.retrains), (0, 16, sat 16 c.slips)]

def kindCode : DieKind → Nat
  | .read => 1 | .program => 2 | .erase => 3 | .feature => 4 | .reset => 5

def dieqW (d : Die) : Word :=
  let head := d.queue.find? fun o => o.st == .array || o.st == .tokenWait
  let ers := d.queue.find? fun o => o.kind == .erase && (o.st == .suspended || o.st == .array)
  pack [(31, 1, b2n d.present), (30, 1, b2n d.failed), (29, 1, b2n (d.queue.any fun o => o.st == .suspended)),
    (28, 1, b2n (d.queue.any fun o => o.st == .array)), (24, 4, (ers.map (·.susp)).getD 0), (20, 4, d.queue.length),
    (16, 4, if d.resetting then kindCode .reset else (head.map fun o => kindCode o.kind).getD 0)]

def sreDieAt (s : State) (d : Nat) : SreDie := tgetD s.sre.dies d {}

/-- A bin at the profile's initial loop values, and a die's bin (R253). -/
def bin0 (p : Profile) (bin : Nat) : Bin :=
  let v := p.loopInit.getD bin (0, 0, 0)
  { o := v.1, s := v.2.1, t := v.2.2 }
def binIn (p : Profile) (d : SreDie) (bin : Nat) : Bin := tgetD d.bins bin (bin0 p bin)
def binAt (s : State) (die bin : Nat) : Bin := binIn s.prof (sreDieAt s die) bin

/-- A loop is at its bound, Table 10-4: ±64 for O, ±32 for S and T. -/
def binBound (b : Bin) (i : Nat) : Bool :=
  match i with
  | 0 => decide (b.o.natAbs ≥ 64)
  | 1 => decide (b.s.natAbs ≥ 32)
  | _ => decide (b.t.natAbs ≥ 32)

def sreDieW (p : Profile) (d : SreDie) : Word :=
  let bit (b i : Nat) := b2n (binBound (binIn p d b) i)
  pack ([(23, 9, d.cols.length), (16, 7, d.wls.length), (12, 4, d.lastStep)] ++
    ((List.range 3).flatMap fun b => (List.range 3).map fun i => (3 * b + i, 1, bit b i)) ++
    [(9, 1, b2n ((List.range 7).any fun b => (List.range 3).any fun i => binBound (binIn p d (3 + b)) i))])

/-- Only LADDER_PROBE waits on the codeword: nothing is counted, R263. -/
def probeOnly (l : Ladder) : Bool := !l.readers.isEmpty && l.readers.all fun r => match r with | .probe _ _ => true | _ => false

/-- Codewords whose senses have arrived and that wait for one of the two soft decoders of their group (R243). -/
def softWait (s : State) : Nat :=
  (List.range 4).foldl (fun a g => a + ((s.sre.ladders.filter fun l =>
    !probeOnly l && l.framed && (l.step == 3 || l.step == 4) && cwDie l.cw / 128 == g).length - 2)) 0

def sreStsW (s : State) : Word :=
  let cnt (p : Ladder → Bool) := (s.sre.ladders.filter fun l => p l && !probeOnly l).length
  pack [(24, 8, sat 8 (softWait s)), (16, 8, sat 8 (cnt fun l => l.step == 5)),
    (0, 16, sat 16 (cnt fun l => decide (2 ≤ l.step && l.step ≤ 5)))]

def frameW (f : ChFrame) : Word := pack [(16, 16, sat 16 f.realign), (8, 8, sat 8 f.leadMiss), (0, 8, sat 8 f.fail)]

def domAt (s : State) (d : Nat) : Dom := tgetD s.dre.doms d {}

def openStripes (s : State) : Nat := (s.dre.stripes.filter fun e => e.2.st == .opened).length

def dreStsW (s : State) : Word :=
  pack [(28, 4, domBits fun d => domSt s d == .rebuilding), (26, 2, s.dre.pri), (16, 8, sat 8 (openStripes s)),
    (8, 8, ceilDiv (accBytes s) 65536), (0, 8, sat 8 s.dre.recon.length)]

def mirStsW (s : State) : Word :=
  pack [(31, 1, b2n (s.dre.lost && !s.dre.pairs.isEmpty)), (30, 1, b2n (!s.dre.lost && s.hpc.twin == 4 && !s.dre.dirty.isEmpty)),
    (16, 7, s.dre.pairs.length), (0, 16, sat 16 s.dre.dirty.length)]

def domRbldW (d : Dom) : Word :=
  pack [(31, 1, b2n (d.st == .rebuilding)), (16, 9, d.rdie),
    (8, 8, if d.total = 0 then 0 else 100 * (d.total - d.exposed.length) / d.total)]

def bankAt (s : State) (b : Nat) : Bank := tgetD s.cst.banks b {}
def BankSt.code : BankSt → Nat
  | .inService => 0 | .resilvering => 1 | .failed => 2

/-- Stripe journal slots in use, R300. -/
def journalSlots (s : State) : Nat :=
  (s.dre.stripes.filter fun e => e.2.st == .opened || e.2.st == .unprotected || e.2.repl.isSome).length

def shadowOnly (s : State) : Bool := (bankAt s 0).st == .failed && (bankAt s 1).st == .failed

def cstStsW (s : State) : Word :=
  pack [(16, 16, journalSlots s), (6, 1, b2n s.cst.ckptBusy), (5, 1, b2n s.cst.scan), (4, 1, b2n (shadowOnly s)),
    (2, 2, (bankAt s 1).st.code), (0, 2, (bankAt s 0).st.code)]

def poolAt (s : State) (p : Nat) : Pool := tgetD s.wel.pools p {}

def clsStsW (s : State) : Word :=
  let u (c : Nat) := ceilDiv (clsBytes s c) 65536
  pack [(19, 11, u 2), (10, 9, u 1), (0, 10, u 0)]

def rqStsW (s : State) (r : Nat) : Word :=
  pack [(31, 1, b2n (s.wel.waits.any fun w => w.rq == r)),
    (19, 12, sat 12 (s.wel.bufs.filter fun e => e.2.owner == r && (e.2.pend || decide (1 < e.2.holders.length))).length),
    (0, 18, rqBytes s r / 512)]

def pumpAt (s : State) (k : Nat) : Pump := tgetD s.pmp.ch k {}

def pumpCtlW (p : Pump) : Word := (p.ctl &&& 0x3FF77000) ||| pack [(31, 1, b2n p.busy)]
def pumpStsW (p : Pump) : Word :=
  pack [(31, 1, b2n p.busy), (30, 1, b2n p.halt), (29, 1, b2n p.aborted), (28, 1, b2n p.ok), (24, 4, p.err),
    (16, 8, sat 8 p.retries)]

def secStsW (s : State) : Word :=
  let r := s.cst.san
  pack [(31, 1, b2n s.sec.owner.isSome), (30, 1, b2n s.sec.lock), (29, 1, b2n r.isSome),
    (28, 1, b2n ((r.map (·.failed)).getD false)), (26, 2, (r.map (·.act)).getD 0), (23, 3, (r.map (·.phase)).getD 0),
    (0, 4, s.sec.sessions)]

def mprStsW (s : State) : Word :=
  pack [(24, 8, (s.mpr.soft.filter fun r => r.kind == 1).length), (16, 8, sat 8 s.mpr.hard.length),
    (0, 7, (List.range 7).foldl (fun a c => if s.mpr.scrub.contains c then a + 2 ^ c else a) 0)]

def lastErrW (s : State) : Word :=
  pack [(31, 1, b2n s.mpr.lastValid), (30, 1, b2n s.mpr.lastUe), (27, 3, s.mpr.lastCls), (16, 11, s.mpr.lastMac)]

def pwrStsW (s : State) : Word :=
  pack [(26, 6, effCap s), (20, 6, s.pwr.thermW), (14, 6, hostCap s), (13, 1, b2n s.pwr.shut), (12, 1, b2n s.pwr.huRdy),
    (11, 1, b2n s.pwr.ovp), (10, 1, b2n s.pwr.wrStop), (9, 1, b2n s.pwr.chgLock), (0, 8, twos 8 s.pwr.temp)]

def huStsW (s : State) : Word :=
  pack [(20, 12, s.pwr.capv), (19, 1, b2n s.pins.ovpN), (18, 1, b2n s.pins.plossN), (17, 1, b2n s.pins.chgEn)]

def TbSt.code : TbSt → Nat
  | .free => 0 | .sync => 1 | .estimated => 2 | .slew => 3

/-- PWR_TIME_STS.BOUND in µs, rounded up as the example of chapter 16 shows (DEDUCED), saturating; held in 10^-9 µs. -/
def timeBound (s : State) : Nat :=
  match s.pwr.tbSt with
  | .sync => 0
  | .slew => sat 24 (ceilDiv s.pwr.slew 1000)
  | _ => match s.pwr.bound with
    | none => 0xFFFFFF
    | some b => sat 24 (ceilDiv b 1000000000)

def timeStsW (s : State) : Word := pack [(30, 2, s.pwr.tbSt.code), (0, 24, timeBound s)]

def alarmAt (s : State) (a : Nat) : Alarm := tgetD s.pwr.alarms a {}
def alarmHiW (x : Alarm) : Word := pack [(31, 1, b2n x.en), (30, 1, b2n x.wake), (0, 16, x.val / 2 ^ 32)]

def IslSt.code : IslSt → Nat
  | .on => 0 | .retain => 1 | .off => 2 | .reset => 3

def islStsW (s : State) (w : Nat) : Word :=
  pack ((List.range 16).map fun j => (2 * j, 2, if 16 * w + j < 46 then (islAt s (16 * w + j)).code else 0))

def whsStsW (s : State) : Word :=
  pack [(30, 2, s.whs.op), (29, 1, b2n s.whs.brown), (20, 4, s.whs.susp), (8, 9, s.whs.page), (0, 8, s.whs.block)]

/-- Seconds left in a trial, R424. -/
def trialLeft (s : State) : Nat := if s.upd.st = 3 then s.upd.trialS - (s.pwr.tb - s.upd.switchT) / 1000000000 else 0

/-- UPD_STS, Table 17-13; the slots keep their reset value in BOOT until its step has read the directory: 2 for images, 4 for profiles
(DEDUCED). -/
def updStsW (s : State) : Word :=
  let img (x : Nat) : Nat := if s.sys.mode = .boot ∧ s.sys.step < 2 then 0 else x
  let prf (x : Nat) : Nat := if s.sys.mode = .boot ∧ s.sys.step < 4 then 0 else x
  pack [(29, 3, s.upd.st), (28, 1, b2n s.upd.prfPend), (27, 1, b2n s.upd.owner.isSome), (16, 8, trialLeft s),
    (12, 4, s.upd.reason), (8, 2, prf s.upd.nextPrf), (6, 2, prf s.upd.actPrf), (4, 2, img s.upd.trial), (2, 2, img s.upd.nextImg),
    (0, 2, img s.upd.actImg)]

def sbmStsW (s : State) : Word :=
  pack [(24, 8, s.sbm.smbEid), (16, 8, s.sbm.i3cEid), (9, 7, s.sbm.daddr), (8, 1, b2n s.sbm.daValid),
    (4, 4, s.sbm.msgs.length), (3, 1, b2n (!s.cam.side.isEmpty))]

def sensAt (s : State) (i : Nat) : Sens := tgetD s.sbm.sens i {}
def sensW (x : Sens) : Word :=
  pack [(31, 1, b2n x.valid), (30, 1, b2n x.fail), (16, 8, (x.peak.map (twos 8)).getD 0), (0, 8, twos 8 x.temp)]

def drmChAt (s : State) (c : Nat) : DrmCh := tgetD s.drm.chs c {}

def drmStsW (s : State) : Word :=
  pack [(31, 1, b2n s.drm.trained), (24, 4, domBits fun c => (drmChAt s c).up), (16, 8, s.drm.size), (0, 16, s.drm.rate)]
/-- Repairs of a channel that wait for the next chip reset; a line's channel is its number mod 4 (PRESUMED). -/
def pprPend (s : State) (c : Nat) : Nat := (s.mpr.soft.filter fun r => r.cls == 3 && r.kind == 2 && r.line % 4 == c).length
def drmChW (s : State) (i : Nat) : Word :=
  let c := drmChAt s i
  pack [(31, 1, b2n c.up), (30, 1, b2n c.selfRef), (16, 8, twos 8 c.trnTemp), (12, 4, c.ref), (0, 8, sat 8 (pprPend s i))]
def drmCntW (c : DrmCh) : Word := pack [(16, 16, sat 16 c.retrains), (0, 16, sat 16 c.derates)]

/-- The value a register repeat reads. -/
def regValue (s : State) (r : RegId) (i : Nat) : Word :=
  match r with
  | .sysChipId => 0x078000B1
  | .sysModeSts => modeSts s
  | .sysBootSts => bootSts s
  | .sysCamSts => camSts s
  | .sysCamRcfg => rcfgW (ringAt s i)
  | .sysCamRdb => 0
  | .sysCamRptr => rptrW (ringAt s i)
  | .sysCamRsts => rstsW s i
  | .hpcCfg => hpcCfgW s
  | .hpcSts => hpcStsW s
  | .hpcLnkSts => if linkOf s i = i then lnkStsW (portAt s i) else 0x09000000
  | .nvqTagSts => tagStsW s
  | .nvqCtxSts => ctxStsW s
  | .nvqQcnt => pack [(16, 15, (ioCqs s).length), (0, 15, (ioSqs s).length)]
  | .nvqOvlSts => ovlStsW s
  | .nvqHwm => pack [(17, 13, s.nvq.ovlHwm), (0, 17, s.nvq.tagHwm)]
  | .nvqSqStop => match s.nvq.sqStop with
    | none => 0
    | some (c, q) => pack [(31, 1, 1), (16, 10, c), (0, 16, q)]
  | .qosSts => qosStsW s
  | .qosCap => pack [(16, 16, s.qos.capIo), (0, 16, s.qos.capBw)]
  | .qosSum => pack [(16, 16, sumIoMin s), (0, 16, sumBwMin s)]
  | .qosTntBw => pack [(16, 16, (tntAt s i).bwMax), (0, 16, (tntAt s i).bwMin)]
  | .qosTntIo => pack [(16, 16, (tntAt s i).ioMax), (0, 16, (tntAt s i).ioMin)]
  | .qosTntCtl => pack [(31, 1, b2n (tntAt s i).en), (16, 15, (tntAt s i).outMax), (0, 8, (tntAt s i).weight)]
  | .qosTntUnitsLo => lo32 (tntAt s i).units
  | .qosTntUnitsHi => lo32 (tntAt s i).hiLatch
  | .qosTntOps => lo32 (tntAt s i).ops
  | .xltSts =>
    pack [(17, 11, (s.xlt.eng.filter fun e => e.2.st.waiting).length),
      (0, 17, (s.nvq.tags.filter fun e => e.2.st == .suspended).length)]
  | .xltAtcSts => pack [(0, 16, s.xlt.atc.length)]
  | .xltMapSts => pack [(31, 1, b2n (decide (1024 ≤ s.xlt.reads.length))), (0, 11, s.xlt.reads.length)]
  | .xltSuspHwm => lo32 s.xlt.hwm
  | .xltCntTx => lo32 s.xlt.cntTx
  | .xltCntPg => lo32 s.xlt.cntPg
  | .xltCntMp => lo32 s.xlt.cntMp
  | .xltLnkSts => xltLnkW s i
  | .fteSts => fteStsW s
  | .fteSpareCfg => pack [(16, 16, if s.profOn then s.prof.floor else 0), (0, 16, if s.profOn then s.prof.hyst else 0)]
  | .fteMapcSts => pack [(0, 24, s.fte.cached.length)]
  | .fteLogSts => pack [(25, 7, logPct s), (14, 11, s.fte.rng.length), (0, 13, retained s)]
  | .fteBadSts => pack [(0, 13, s.fte.bad.length)]
  | .fteDomSpare => if domSt s i = .offline || !s.profOn then 0 else pack [(0, 24, twos 24 (spareD s i))]
  | .fteDomFree => if domSt s i = .offline || !s.profOn then 0 else pack [(0, 18, freeBlks s i false)]
  | .fteDomHeld => if domSt s i = .offline || !s.profOn then 0 else pack [(0, 18, freeBlks s i true)]
  | .fteDomEc => if domSt s i = .offline || !s.profOn then 0 else domEcW s i
  | .fchSts => fchStsW s
  | .fchChFail => pack ((List.range 32).map fun n => (n, 1, b2n (chanAt s n).failed))
  | .fchChSts => chStsW (chanAt s i)
  | .fchChCnt => chCntW (chanAt s i)
  | .fchDieqSts => dieqW (dieAt s i)
  | .sreSts => sreStsW s
  | .sreStepCnt => lo32 (tgetD s.sre.stepCnt (i + 1) 0)
  | .sreDieSts => sreDieW s.prof (sreDieAt s i)
  | .sreChFrame => frameW (tgetD s.sre.frames i {})
  | .dreSts => dreStsW s
  | .dreMirSts => mirStsW s
  | .dreDomCfg => pack [(16, 6, domW s i), (0, 8, (domDies s i).length)]
  | .dreDomRbld => domRbldW (domAt s i)
  | .dreDomExp => lo32 (domAt s i).exposed.length
  | .dreDomLost => lo32 (domAt s i).lost
  | .cstSts => cstStsW s
  | .cstHuSts => pack [(30, 2, s.cst.huRes), (0, 16, s.cst.huCw)]
  | .cstHuTime => pack [(16, 16, s.cst.huSpill), (0, 16, s.cst.huPlan)]
  | .cstLogSeqLo => lo32 s.cst.logSeq
  | .cstLogSeqHi => lo32 s.cst.seqLatch
  | .cstBankSts => pack [(16, 16, sat 16 (bankAt s i).corr), (8, 8, sat 8 (bankAt s i).unc)]
  | .welClsSts => clsStsW s
  | .welPoolSts =>
    pack [(24, 8, sat 8 (s.wel.waits.filter fun w => w.pool == i).length), (0, 18, poolFree (poolAt s i))]
  | .welPoolTot => pack [(0, 18, (poolAt s i).total)]
  | .welPoolLow => pack [(0, 18, (poolAt s i).low)]
  | .welRqSts => rqStsW s i
  | .pmpBusy => pack ((List.range 16).map fun k => (k, 1, b2n (pumpAt s k).busy))
  | .pmpSrc => (pumpAt s i).src
  | .pmpDst => (pumpAt s i).dst
  | .pmpCnt => lo32 (pumpAt s i).cnt
  | .pmpDone => lo32 (pumpAt s i).done
  | .pmpCtl => pumpCtlW (pumpAt s i)
  | .pmpSts => pumpStsW (pumpAt s i)
  | .pmpRetry => (pumpAt s i).retry
  | .secSts => secStsW s
  | .secSvnFloor => lo32 s.sec.svn
  | .secSanDone => lo32 ((s.cst.san.map (·.done)).getD 0)
  | .secSanTotal => lo32 ((s.cst.san.map (·.total)).getD 0)
  | .mprSts => mprStsW s
  | .mprLastErr => lastErrW s
  | .mprErrLoc => lo32 s.mpr.lastLoc
  | .mprCeCnt => pack [(16, 16, sat 16 (tgetD s.mpr.ce i 0)), (0, 16, sat 16 (tgetD s.mpr.ue i 0))]
  | .fltSts => fltSts s
  | .fltLast => (s.flt.last &&& 0x7FFFFFFF) ||| pack [(31, 1, b2n s.flt.lastValid)]
  | .fltPinClr => 0
  | .fltInj => if s.sys.mode = .factory then s.flt.inj else 0
  | .fltAssert => fltLiveW s i
  | .fltLatch => fltLatchW s i
  | .fltSrcCfg => srcCfg s i
  | .pwrSts => pwrStsW s
  | .pwrTok => pack [(16, 16, s.pwr.pool), (0, 16, s.pwr.held)]
  | .pwrHuSts => huStsW s
  | .pwrRtcLo => lo32 s.pwr.rtc
  | .pwrRtcHi => pack [(31, 1, b2n s.pwr.rtcValid), (0, 16, s.pwr.rtcLatch)]
  | .pwrRatio => lo32 s.pwr.ratio
  | .pwrTbLo => lo32 s.pwr.tb
  | .pwrTbHi => lo32 s.pwr.tbLatch
  | .pwrTimeSts => timeStsW s
  | .pwrAlarmLo => lo32 (alarmAt s i).val
  | .pwrAlarmHi => alarmHiW (alarmAt s i)
  | .pwrIslSts => islStsW s i
  | .whsSts => whsStsW s
  | .updSts => updStsW s
  | .updConfirm => 0
  | .sbmSts => sbmStsW s
  | .sbmSens => sensW (sensAt s i)
  | .drmSts => drmStsW s
  | .drmChSts => drmChW s i
  | .drmChCnt => drmCntW (drmChAt s i)
  | .sysModeEvt | .sysCamCtl | .hpcPortCtl | .hpcPortEvt | .nvqCfg | .nvqEvt | .qosCfg | .qosEvt | .xltCfg | .xltEvt
  | .fteCfg | .fteEvt | .fchCfg | .fchCfg2 | .fchEvt | .sreCfg | .sreCfg2 | .sreEvt | .dreCfg | .dreEvt | .cstCfg
  | .cstEvt | .welCfg | .welPoolCfg | .welFloor | .welEvt | .welRqCfg | .pmpEvt | .secEvt | .mprCfg | .mprEvt
  | .fltEvt | .pwrCfg | .pwrEvt | .pwrTherm | .pwrHuCfg | .pwrSpCfg | .pwrTimeCfg | .whsCfg | .whsEvt | .updCfg
  | .updEvt | .sbmCfg | .sbmEvt | .drmCfg | .drmEvt => reg s r i

end Sys2Proof.Machine
end

