-- ==== Sys2Proof/Machine/Operands.lean ====
section
/-! DEFINITION. Operand forms: the fields of a submission entry that the chapters read, and classes of commands
(Tables 5-1, 5-2, R187). Field places in the command words are those of the NVMe specifications the manual names. -/

namespace Sys2Proof.Machine

/-- Command word `i`. -/
def cdw (e : Entry) (i : Nat) : Word := e.dw.getD i 0

/-- Opcode, FUSE and command identifier of CDW0. -/
def opc (e : Entry) : Nat := fld (cdw e 0) 0 8
def fuseOf (e : Entry) : Nat := fld (cdw e 0) 8 2
def cidOf (e : Entry) : Nat := fld (cdw e 0) 16 16

/-- Starting LBA and number of LBAs of an I/O command. -/
def slba (e : Entry) : Nat := (cdw e 10).toNat + 2 ^ 32 * (cdw e 11).toNat
def nlb (e : Entry) : Nat := fld (cdw e 12) 0 16 + 1

/-- AD of Dataset Management. -/
def dsmAd (e : Entry) : Bool := bitOf (cdw e 11) 2

/-- A tag's command is an I/O command. -/
def isIo (t : Tag) : Bool := t.qid != 0

/-- Write-like commands of R187: Write, Write Uncorrectable, Write Zeroes, Dataset Management with AD = 1. -/
def writeLike (e : Entry) : Bool :=
  let o := opc e
  o == 1 || o == 4 || o == 8 || (o == 9 && dsmAd e)

/-- Read-class commands: Read, Compare, Verify. -/
def readClass (e : Entry) : Bool :=
  let o := opc e
  o == 2 || o == 5 || o == 12

/-- The LBA ranges an I/O command names: (first, LBAs). -/
def lbaRanges (e : Entry) : List (Nat × Nat) :=
  if opc e = 9 then e.ranges else if opc e = 0 then [] else [(slba e, nlb e)]

/-- Two spans overlap: (first, length). -/
def spansMeet (a b : Nat × Nat) : Bool := decide (a.1 < b.1 + b.2) && decide (b.1 < a.1 + a.2)

/-- Two I/O commands of one namespace overlap. -/
def entsMeet (a b : Entry) : Bool :=
  entNsid a == entNsid b && (lbaRanges a).any fun x => (lbaRanges b).any fun y => spansMeet x y

/-- Bytes of LBA data a command moves or acts on, Table 6-1. -/
def dataBytes (s : State) (e : Entry) : Nat :=
  let o := opc e
  match nsAt s (entNsid e) with
  | none => 0
  | some n => if o = 1 ∨ o = 2 ∨ o = 5 ∨ o = 8 ∨ o = 12 then nlb e * lbaBytes n.fmt else 0

/-- PRACT of an I/O command's PRINFO: HPC generates, or checks and strips, the protection information (R340). -/
def pract (e : Entry) : Bool := bitOf (cdw e 12) 29

/-- Metadata bytes that an LBA of a command moves, R103, R340. -/
def moveMeta (n : Ns) (e : Entry) : Nat := if pract e && n.pi != 0 then 0 else metaBytes n.fmt

/-- Bytes of an LBA in the data transfer: with its metadata where that is an extended LBA. -/
def xferLba (n : Ns) (e : Entry) : Nat := lbaBytes n.fmt + (if n.mset then moveMeta n e else 0)

/-- Metadata bytes of an LBA that move through the separate buffer, and its host address MPTR. -/
def sepMeta (n : Ns) (e : Entry) : Nat := if n.mset then 0 else moveMeta n e
def mptr (e : Entry) : Nat := (cdw e 4).toNat + 2 ^ 32 * (cdw e 5).toNat

/-- The IUs a span of LBAs touches, of a format: first IU and IUs. -/
def iuSpan (fmt lba n : Nat) : Nat × Nat :=
  let k := lbasPerIu fmt
  (lba / k, (lba + n - 1) / k - lba / k + 1)

/-- The whole IUs inside a span of LBAs: first IU and IUs. -/
def wholeIus (fmt lba n : Nat) : Nat × Nat :=
  let k := lbasPerIu fmt
  let a := ceilDiv lba k
  (a, (lba + n) / k - a)

end Sys2Proof.Machine
end

