-- ==== Sys2Proof/Machine/Seal.lean ====
section
/-! DEFINITION. Sector seals (R236, R335): the bytes of a 4 KiB part as they are stored, and the CRC-32C over them. -/

namespace Sys2Proof.Machine

/-- LBAs per 4 KiB sector. -/
def perSector (fmt : Nat) : Nat := 4096 / lbaBytes fmt

/-- An LBA's data bytes in stored form, R17, R435: ciphertext, or the bytes as they came in a mirror store. -/
def storedLba (n : Ns) (key : Nat × Nat × Nat) (lba v : Nat) : Nat :=
  let d := v % 2 ^ (8 * lbaBytes n.fmt)
  if n.mirror then d else Config.cipher key lba d

/-- BACKPTR of Table 10-1: IU, NSID, namespace instance. -/
def backPtr (ns inst iu : Nat) : Nat := iu % 2 ^ 36 + 2 ^ 36 * (ns % 2 ^ 11) + 2 ^ 47 * (inst % 2 ^ 16)

/-- Bytes 0 to 4,119 of Table 10-1 of a part of an IU: DATA, HMETA, BACKPTR. -/
def sealedBytes (ns : Nat) (n : Ns) (iu part : Nat) (body : IuData) : List Byte :=
  let k := perSector n.fmt
  let val (i : Nat) : Nat := body.data.getD (part * k + i) 0
  let first := iu * lbasPerIu n.fmt + part * k
  ((List.range k).flatMap fun i => leBytes (lbaBytes n.fmt) (storedLba n body.key (first + i) (val i))) ++
    leBytes 16 (if k = 1 then val 0 / 2 ^ (8 * lbaBytes n.fmt) else 0) ++ leBytes 8 (backPtr ns n.inst iu)

/-- The sector seal of a part, R335. -/
def sealOf (ns : Nat) (n : Ns) (iu part : Nat) (body : IuData) : Nat := (crc32c (sealedBytes ns n iu part body)).toNat

/-- The content of an IU with the seal of each 4 KiB part, computed after SEC and after a merge (R335). -/
def sealIu (ns : Nat) (n : Ns) (iu : Nat) (body : IuData) : IuData :=
  { body with seals := (List.range (iuUnits n.fmt)).map fun p => sealOf ns n iu p body }

end Sys2Proof.Machine
end

