-- ==== Sys2Proof/Machine/Meters.lean ====
section
/-! DEFINITION. Meters and deficits of tenants (R129 to R137): their units and depths, charges, and deficit round robin. Bandwidth meters
count units of 1/1,024,000 byte and IOPS meters units of 1/1,024,000,000 operation, so that every refill of R133 is a whole number of
units. -/

namespace Sys2Proof.Machine

/-- One byte, one operation, in meter units. -/
def bwUnit : Nat := 1024000
def ioUnit : Nat := 1024000000

/-! ## Depths, R133 -/

def bwMaxDepth (t : Tenant) : Nat := (16 * t.bwMax + 4096) * bwUnit
def bwMinDepth (t : Tenant) (scale : Nat) : Nat := t.bwMin * scale * 2000 * 1000
def ioMaxDepth (t : Tenant) : Nat := (4000 * t.ioMax + 1000000) * 1024
def ioMinDepth (t : Tenant) (scale : Nat) : Nat := t.ioMin * scale * 500000

/-- A meter that gains `n` stops at its depth; one that is above it already stays. -/
def fillTo (m : Int) (n depth : Nat) : Int := min (m + n) (max m depth)

def modTnt (t : Nat) (f : Tenant → Tenant) (s : State) : State := onQos (fun q => { q with tnts := tupd q.tnts t {} f }) s

/-! ## Charges, R129, R130 -/

/-- Add a charge to a running trace of the tenant. -/
def traceAdd (t units ops : Nat) (s : State) : State :=
  match s.qos.trace with
  | none => s
  | some x =>
    if x.tenant ≠ t ∨ s.pwr.tb < x.start then s
    else
      let b := (s.pwr.tb - x.start) / 1000
      if b < x.bins then onQos (fun q => { q with trace := some { x with log := (b, units, ops) :: x.log } }) s else s

/-- Charge data bytes to a command's tenant; `resv` of them were reserved from the maximum meter (R134). The minimum meter is floored at
zero, the maximum meter is not (R133); a tenant without a maximum has no maximum meter to debit (DESIGN CHOICE, log entry 48). -/
def chargeData (tnt : Option Nat) (bytes resv : Nat) (s : State) : State :=
  match tnt with
  | none => s
  | some k =>
    let t := tntAt s k
    let n := (t.frac + bytes) / 512
    traceAdd k n 0 (modTnt k (fun t => { t with mBwMax := if t.bwMax = 0 then t.mBwMax else t.mBwMax - ((bytes - resv) * bwUnit : Nat),
                                                 mBwMin := t.mBwMin - bytes * bwUnit, units := (t.units + n) % 2 ^ 64,
                                                 frac := (t.frac + bytes) % 512 }) s)

/-- Charge `n` operations. -/
def chargeOps (tnt : Option Nat) (n : Nat) (s : State) : State :=
  match tnt with
  | none => s
  | some k => traceAdd k 0 n (modTnt k (fun t => { t with mIoMax := if t.ioMax = 0 then t.mIoMax else t.mIoMax - (n * ioUnit : Nat),
                                                          mIoMin := t.mIoMin - n * ioUnit, ops := (t.ops + n) % 2 ^ 32 }) s)

/-- Debit a deficit at dispatch, and settle it at the charge point, R137. -/
def debit (tnt : Option Nat) (bytes : Int) (s : State) : State :=
  match tnt with
  | none => onQos (fun q => { q with unasg := q.unasg - bytes }) s
  | some k => modTnt k (fun t => { t with deficit := t.deficit - bytes }) s

/-- Commands of a tenant in RUN, SUSPENDED and POST, R136. -/
def outCount (s : State) (t : Nat) : Nat := (s.nvq.tags.filter fun e => e.2.tenant == some t && e.2.st != .adm).length

/-- A tenant is at OUT_MAX. -/
def atOutMax (s : State) (t : Nat) : Bool := decide ((tntAt s t).outMax ≤ outCount s t)

/-! ## Deficit round robin, R137 -/

/-- A tenant holds minimum credit, R133. -/
def minCredit (t : Tenant) : Bool := t.en && (decide (0 < t.mBwMin) || decide (0 < t.mIoMin))

/-- The quantum of a tenant in bytes: the scaled minimum × 1 µs while it holds minimum credit, else WEIGHT × 4,096; at least 1. -/
def quantum (s : State) (t : Tenant) : Nat :=
  orOne (if minCredit t then 2 * t.bwMin * s.qos.scaleBw / 1024 else orOne t.weight * 4096)

/-- The number that stands for the unassigned commands among tenants. -/
def unasgNo : Nat := 1024

/-- Quantum and deficit by tenant number; unassigned commands together take QOS_CFG.UNASG_WT. -/
def quantumOf (s : State) (t : Nat) : Nat := if t = unasgNo then orOne (rfld s .qosCfg 8 8) * 4096 else quantum s (tntAt s t)
def deficitOf (s : State) (t : Nat) : Int := if t = unasgNo then s.qos.unasg else (tntAt s t).deficit

/-- Turns after which a tenant's deficit is above 0, one quantum a turn; at least one. -/
def turnsOf (s : State) (t : Nat) : Nat := if 0 < deficitOf s t then 1 else (-(deficitOf s t)).toNat / quantumOf s t + 1

/-- Candidates in the order of their turns after the tenant served last. -/
def turnOrder (last : Nat) (cs : List Nat) : List Nat := cs.filter (decide <| last < ·) ++ cs.filter (decide <| · ≤ last)

/-- The tenant deficit round robin serves among candidates in number order: the one served last while its deficit lasts, else the first
whose turns bring its deficit above 0. -/
def drrPick (s : State) (last : Nat) (cs : List Nat) : Option Nat :=
  if cs.contains last && decide (0 < deficitOf s last) then some last
  else (turnOrder last cs).foldl (fun a t => match a with
    | none => some t
    | some b => if turnsOf s t < turnsOf s b then some t else some b) none

/-- Add quanta to a tenant's deficit. -/
def giveQuanta (n t : Nat) (s : State) : State := debit (if t = unasgNo then none else some t) (-((n * quantumOf s t : Nat) : Int)) s

/-- The quanta of the turns up to the choice of `t`; `rest` says which round robin it was. -/
def drrServe (rest : Bool) (t : Nat) (cs : List Nat) (s : State) : State :=
  let last := if rest then s.qos.lastRest else s.qos.lastMin
  let n := turnsOf s t
  let s1 := if t = last ∧ 0 < deficitOf s t then s
    else
      let l := turnOrder last cs
      let before := l.takeWhile (· != t)
      let after := (l.dropWhile (· != t)).drop 1
      forEach after (giveQuanta (n - 1)) (forEach before (giveQuanta n) (giveQuanta n t s))
  onQos (fun q => if rest then { q with lastRest := t } else { q with lastMin := t }) s1

/-- Class of a tenant's work in QOS's order: 1 with minimum credit, 2 otherwise. -/
def tntClass (s : State) (t : Nat) : Nat := if t ≠ unasgNo ∧ minCredit (tntAt s t) then 1 else 2

/-- The choice of R137 among tenants that have candidates, given in number order: minimum credit first. -/
def qosPick (s : State) (ts : List Nat) : Option Nat :=
  match ts.filter fun t => tntClass s t == 1 with
  | [] => drrPick s s.qos.lastRest ts
  | l => drrPick s s.qos.lastMin l

/-- The choice is served: its class's round robin moves on. -/
def qosServe (t : Nat) (ts : List Nat) (s : State) : State :=
  drrServe (tntClass s t == 2) t (ts.filter fun x => tntClass s x == tntClass s t) s

end Sys2Proof.Machine
end

