-- ==== Sys2Proof/Machine/Faults.lean ====
section
/-! DEFINITION. Completions prepared (POST), asynchronous events, telemetry captures, and what happens when a fault source
asserts (R356 to R366). -/

namespace Sys2Proof.Machine

/-! ## POST and asynchronous events -/

/-- DNR of Table 5-19 where the status alone decides. -/
def scDnr : Sc → Bool
  | .success => false
  | .writeProtected | .sanitizeInProgress | .failedFused | .abortRequested | .dataTransfer | .internalError
  | .fwProhibited | .sequenceError | .selfTestInProgress => false
  | .invalidOpcode | .invalidField | .invalidNs | .nsNotReady | .sanitizeFailed | .lbaRange | .prpOffset | .sglType
  | .sglLength | .invalidPi | .invalidQid | .invalidQDeletion | .invalidQueueSize | .completionQueueInvalid
  | .invalidVector | .nsIdUnavailable | .insufficientCapacity | .nsPrivate | .nsAttached | .nsNotAttached
  | .invalidFwSlot | .invalidFwImage | .overlappingRange | .unrecoveredRead | .compareFailure | .guardCheck
  | .appTagCheck | .refTagCheck | .capacityExceeded | .missingFused | .aerLimit | .invalidLogPage | .invalidCtrlId
  | .invalidSecondaryState | .invalidResourceNum | .invalidResourceId | .invalidFormat | .abortLimit => true

/-- A tag's entry moves to POST with its completion; one already in POST keeps its own. `moved`: the data it has then moved. -/
def setPost (tag : Nat) (sc : Sc) (dnr : Bool) (dw0 dw1 : Nat) (moved : Tag → Nat) (s : State) : State :=
  match tget s.nvq.tags tag with
  | none => s
  | some t =>
    if t.st = .post then s
    else
      let t1 := { t with st := .post, status := sc, dnr, dw0, dw1, postSeq := s.nvq.postSeq, dma := { t.dma with st := .idle },
                         lkp := { t.lkp with st := .idle }, moved := moved t }
      { s with nvq := { s.nvq with tags := tset s.nvq.tags tag t1, postSeq := s.nvq.postSeq + 1 } }

/-- A command enters POST. Here the data of a Verify or Write Zeroes that has run is charged (Table 6-2). -/
def enterPost (tag : Nat) (sc : Sc) (dnr : Bool) (dw0 dw1 : Nat) (s : State) : State :=
  match tget s.nvq.tags tag with
  | none => s
  | some t =>
    if t.st != .adm && t.st != .post && isIo t && (opc t.ent == 8 || opc t.ent == 12) then
      let n := dataBytes s t.ent
      chargeData t.tenant n 0 (setPost tag sc dnr dw0 dw1 (fun _ => n) s)
    else setPost tag sc dnr dw0 dw1 (·.moved) s

/-- The Write of a fused pair whose Compare, a tag not yet in POST, is about to end with an error. -/
def failedPair (tag : Nat) (sc : Sc) (s : State) : Option Nat :=
  match tget s.nvq.tags tag with
  | none => none
  | some t => if sc ≠ .success ∧ t.st ≠ .post ∧ (t.ent.dw.getD 0 0).toNat % 256 = 5 then t.fused else none

/-- A tag enters POST with its completion prepared (Table 5-6). The Write of a fused pair whose Compare ends with an error ends with
it (R119). -/
def postDnr (tag : Nat) (sc : Sc) (dnr : Bool) (dw0 dw1 : Nat) (s : State) : State :=
  match failedPair tag sc s with
  | some o => enterPost o .failedFused (scDnr .failedFused) 0 0 (enterPost tag sc dnr dw0 dw1 s)
  | none => enterPost tag sc dnr dw0 dw1 s

/-- POST with the DNR bit of Table 5-19. -/
def post (tag : Nat) (sc : Sc) (dw0 : Nat := 0) (s : State) : State := postDnr tag sc (scDnr sc) dw0 0 s

/-- Completion DW0 of an asynchronous event: type, information and log page of the NVMe base specification (PRESUMED). -/
def Aen.dw0 : Aen → Nat
  | .invalidDoorbellReg => 0x010000
  | .invalidDoorbellValue => 0x010100
  | .persistentInternal => 0x010300
  | .transientInternal => 0x010400
  | .subsystemReliability => 0x020001
  | .temperatureThreshold => 0x020101
  | .smart => 0x020201
  | .nsChanged => 0x040002
  | .fwActivationStarting => 0x030102
  | .telemetryNotice => 0x070202

/-- The Asynchronous Event Configuration of a controller (feature 0Bh). -/
def aenConfig (c : Ctrl) : Nat := tgetD c.feats 0x0B 0

/-- Whether the host has an event enabled: critical-warning bits 0-7, notices 8-10; error events are always enabled. -/
def aenEnabled (c : Ctrl) : Aen → Bool
  | .invalidDoorbellReg | .invalidDoorbellValue | .persistentInternal | .transientInternal | .smart => true
  | .subsystemReliability => (aenConfig c).testBit 2
  | .temperatureThreshold => (aenConfig c).testBit 1
  | .nsChanged => (aenConfig c).testBit 8
  | .fwActivationStarting => (aenConfig c).testBit 9
  | .telemetryNotice => (aenConfig c).testBit 10

def setCtrl (c : Nat) (x : Ctrl) (s : State) : State := { s with nvq := { s.nvq with ctrls := tset s.nvq.ctrls c x } }
def modCtrl (c : Nat) (f : Ctrl → Ctrl) (s : State) : State :=
  { s with nvq := { s.nvq with ctrls := tmod s.nvq.ctrls c f } }

/-- Send an enabled event to a controller: it completes the oldest outstanding request, or waits for one. -/
def sendAen (c : Nat) (a : Aen) (s : State) : State :=
  match tget s.nvq.ctrls c with
  | none => s
  | some x =>
    if !x.en || !x.rdy || !aenEnabled x a then s
    else match x.aers with
      | [] => setCtrl c { x with events := x.events ++ [a] } s
      | t :: ts => setPost t .success false a.dw0 0 (·.moved) (setCtrl c { x with aers := ts } s)

/-- Send an event to every controller on EP links that are not partner-facing. -/
def sendAll (a : Aen) (s : State) : State :=
  forEach (tkeys s.nvq.ctrls) (fun c s => if hostCtrl s c then sendAen c a s else s) s

/-- Add an Error Information entry, newest first, at most 256 (Table 5-1). -/
def logErr (c : Nat) (e : ErrEntry) (s : State) : State :=
  modCtrl c (fun x => { x with errLog := (e :: x.errLog).take 256 }) s

/-- R40: the SMART / Health event for each critical-warning bit that became set between `s0` and `s`. A held event goes with its bit: once the bit
has cleared, it is reported again when it sets, and not by the event held before. -/
def warnNew (s0 s : State) : State :=
  let fresh := critWarn s - (critWarn s &&& critWarn s0)
  let held := critWarn s - fresh
  let s1 : State := if s.nvq.ctrls.any fun e => (e.2.heldWarn &&& held) != e.2.heldWarn then
      { s with nvq := { s.nvq with ctrls := tmap s.nvq.ctrls fun _ x => { x with heldWarn := x.heldWarn &&& held } } } else s
  if fresh = 0 then s1
  else forEach (tkeys s1.nvq.ctrls) (fun c s =>
    if hostCtrl s c && (aenConfig (ctrlAt s c) &&& fresh) != 0 then sendAen c .smart s else s) s1

/-- A condition of the media changed between `s0` and `s`: mode, log and warnings (R33, R40, R41). -/
def mediaChange (s0 : State) (code die : Nat) (s : State) : State := warnNew s0 (settle s0 code die s)

/-! ## Telemetry captures, R463, R475 -/

/-- Registers of data area 1: block offset below 0x1000 and access RO or W1C (no writable field but W1C). -/
def area1Regs : List RegId := regIds.filter fun r =>
  let d := regDef r
  d.addr % 0x40000 < 0x1000 && d.rw == 0 && d.rwl == 0 && d.wo == 0 && d.w1s == 0 && r != .fltPinClr && r != .updConfirm

/-- One word of area 1: LO and HI pairs as one 64-bit value, without the latches (R475). -/
def captureWord (s : State) (r : RegId) (i : Nat) : Word :=
  match r with
  | .cstLogSeqHi => hi32 s.cst.logSeq
  | .pwrRtcHi => pack [(31, 1, b2n s.pwr.rtcValid), (0, 16, s.pwr.rtc / 2 ^ 32)]
  | .pwrTbHi => hi32 s.pwr.tb
  | _ => regValue s r i

/-- Insert by window address. -/
def insWord (x : Nat × Word) : List (Nat × Word) → List (Nat × Word)
  | [] => [x]
  | y :: l => if x.1 < y.1 then x :: y :: l else y :: insWord x l

/-- Order of Table 20-1 among blocks is the order of their bases. -/
def area1 (s : State) : List Word :=
  ((area1Regs.flatMap fun r => (List.range (regDef r).n).map fun i => ((regDef r).addrOf i, captureWord s r i)).foldr
    insWord []).map (·.2)

/-- The words of a tracking bin, LOOP_GET D0 (Table 10-14). -/
def binW (x : Bin) : Word := pack [(24, 8, twos 8 x.o), (16, 8, twos 8 x.s), (8, 8, twos 8 x.t), (0, 8, twos 8 x.tupd)]

/-- Area 3 of a die, Table 19-5. -/
def area3 (s : State) (die : Nat) : List Word :=
  let d := dieAt s die
  [dieqW d, sreDieW s.prof (sreDieAt s die), lo32 d.erases, lo32 d.progFails, lo32 d.eraseFails, lo32 d.overruns] ++
    (List.range 10).map fun b => binW (binAt s die b)

/-- A capture of the state. -/
def captureOf (s : State) (gen : Nat) : Capture :=
  { gen, area1 := area1 s, events := s.cst.events, time := s.pwr.tb,
    area3 := ((tkeys s.fch.dies).filter fun k => (dieAt s k).present).map fun k => (k, area3 s k) }

/-- Generate controller-initiated telemetry; an older capture is overwritten only once read, or 10 minutes old (R463). -/
def ctrlCapture (s : State) : State :=
  let keep := match s.sbm.ctrlCap with
    | none => false
    | some c => !c.wasRead && decide (s.pwr.tb < c.time + 600000000000)
  if keep then s
  else
    let g := (s.sbm.ctrlGen + 1) % 256
    sendAll .telemetryNotice { s with sbm := { s.sbm with ctrlCap := some (captureOf s g), ctrlGen := g } }

/-! ## Fault sources -/

/-- Request a chip reset with a cause; the first one asked for stands. -/
def askReset (cause : Nat) (s : State) : State :=
  if s.sys.mode = .dormant ∨ s.sys.mode = .holdup ∨ s.sys.resetReq.isSome then s
  else { s with sys := { s.sys with resetReq := some cause } }

/-- FAULT_N asserted, R364. -/
def pinAssert (s : State) : State := evt .fltEvt 0 { s with pins := { s.pins with faultN := true } }

/-- The sources of an island that is powered down or held in reset read as clear, R358. -/
def isolate (i : Nat) (s : State) : State :=
  { s with flt := { s.flt with srcs := tmap s.flt.srcs fun k x => if srcHome k = some i then { x with p := false, n := true } else x } }

/-- A source's rails reach FLT: its island is on. -/
def drives (s : State) (i : Nat) : Bool := match srcHome i with
  | some k => islOn s k
  | none => true

/-- Hold an island in reset, Table 15-4; its effects come with ISLAND_RESET_COMPLETE. -/
def holdIsland (i : Nat) (s : State) : State :=
  isolate i { s with pwr := { s.pwr with isl := tset s.pwr.isl i .reset },
                     flt := { s.flt with blk := if s.flt.blk.contains i then s.flt.blk else s.flt.blk ++ [i] } }

/-- A wake event of R377 while in STANDPIPE, or while a STANDPIPE entry is in progress. -/
def wake (s : State) : State :=
  if s.sys.mode = .standpipe ∨ s.sys.modeReq = some .standpipe then { s with sys := { s.sys with wakeReq := true } } else s

/-- AEN reports of an INT source, R366. -/
def reportSrc (i react seq : Nat) (s : State) : State :=
  let a := srcAen s i
  if a = 1 ∨ a = 2 then
    let e : ErrEntry := { sqid := 0xFFFF, cid := 0xFFFF, status := .internalError,
                          csi := i + 2 ^ 16 * react + 2 ^ 32 * (seq % 2 ^ 32) }
    let s1 := forEach (tkeys s.nvq.ctrls) (fun c s => if hostCtrl s c then logErr c e s else s) s
    sendAll (if a = 1 then .persistentInternal else .transientInternal) s1
  else if a = 3 then sendAll .subsystemReliability s
  else if a = 4 then sendAll .temperatureThreshold s
  else s

/-- INT of Table 15-3: a sequencer whose island is held in reset takes it after the reset ends (R361). -/
def interrupt (i rset seq : Nat) (s : State) : State :=
  let s1 := wake { s with flt := { s.flt with ints := s.flt.ints ++ [i] } }
  if islAt s (40 + srcSeq i / 4) == .reset then { s1 with flt := { s1.flt with intWait := s1.flt.intWait ++ [(i, rset, seq)] } }
  else reportSrc i rset seq s1

/-- The reactions of Table 15-3, in its order, with the precedence of R361: CHP over BLK, NMT and INT; BLK of an island
over NMT of a sequencer of that island. In HOLDUP only PIN takes effect (R365). -/
def react (i rset seq : Nat) (s : State) : State :=
  let pin := rset.testBit 4
  let s1 := if pin then ctrlCapture (pinAssert s) else s
  if s.sys.mode = .holdup then s1
  else
    let isl := srcIsland i
    let chp := rset.testBit 3 || (rset.testBit 2 && isl.isNone)
    if chp then askReset 3 s1
    else
      let blk := rset.testBit 2
      let s2 := if rset.testBit 0 then interrupt i rset seq s1 else s1
      let s3 := if rset.testBit 1 && !(blk && isl == some (40 + srcSeq i / 4)) then
          { s2 with flt := { s2.flt with nmt := s2.flt.nmt ++ [i] } } else s2
      match blk, isl with
      | true, some k => holdIsland k s3
      | _, _ => s3

/-- A source's latch sets: FLT_EVT.NEW, FLT_LAST, the event log entry and the reactions (R360, R363). -/
def latchSrc (i : Nat) (p n : Bool) (s : State) : State :=
  let rset := srcReact s i
  let last := pack [(31, 1, 1), (16, 5, rset), (13, 1, b2n p), (12, 1, b2n n), (0, 9, i)]
  let srcs := tupd s.flt.srcs i {} fun x => { x with latched := true, lastW := last }
  let s1 := evt .fltEvt 1 { s with flt := { s.flt with srcs, last, lastValid := true } }
  let seq := s1.cst.evSeq
  react i rset seq (logEvent 0x0801 (BitVec.ofNat 32 i) last 0 s1)

/-- The rails of a source are taken at a code (R356, R357): an asserted code or a wire fault on an unlatched source sets
its latch; entering a wire fault is counted and logged with code 0x0802. FLT is unpowered in DORMANT. -/
def takeRails (i : Nat) (p n : Bool) (s : State) : State :=
  if s.sys.mode = .dormant ∨ 384 ≤ i then s
  else
    let x := srcAt s i
    let wasWire := x.wire
    let s1 := { s with flt := { s.flt with srcs := tset s.flt.srcs i { x with p, n } } }
    let s2 := if p == n && !wasWire then logOpen 0x0802 (evt .fltEvt 2 s1)
      else s1
    if (p || !n) && !x.latched then latchSrc i p n s2 else s2

/-- Raise a source for an event that has passed: its rails show asserted, then clear (DEDUCED: the sources of the
chapters' events are pulses; a condition that lasts comes as FAULT_RAIL_CODE). -/
def raiseSrc (i : Nat) (s : State) : State := takeRails i false true (takeRails i true false s)

/-- Raise several sources in order. -/
def raiseAll (l : List Nat) (s : State) : State := forEach l raiseSrc s

end Sys2Proof.Machine
end

