-- ==== Sys2Proof/Machine/Media.lean ====
section
/-! DEFINITION. The path from a well to NAND: versions and the well index (R182 to R186), the delta log (R296 to R298),
stripes, positions and accumulators (R193, R194, R266 to R274), die queues (R210), failures of programs and dies (R195,
R214, R219, R277) and the WRITE-PROTECTED check (R202). -/

namespace Sys2Proof.Machine

/-! ## Versions and lookup -/

/-- Version `a` is newer than `b` by serial arithmetic modulo 2^32, R185. -/
def newer (a b : Nat) : Bool :=
  let d := (a % 2 ^ 32 + 2 ^ 32 - b % 2 ^ 32) % 2 ^ 32
  decide (0 < d) && decide (d < 2 ^ 31)

/-- Key of a map page: namespace and page. -/
def pageKey (ns page : Nat) : Nat := 2 ^ 32 * ns + page

/-- IUs per map page, R175. -/
def iusPerPage : Nat := 896

/-- The committed map entry of an IU. -/
def mapAt (s : State) (ns iu : Nat) : Nat := tgetD s.fte.map (iuKey ns iu) mapUnmapped

/-- Set a map entry; UNMAPPED entries are not listed. -/
def setMap (ns iu v : Nat) (s : State) : State :=
  onFte (fun f => { f with map := if v = mapUnmapped then terase f.map (iuKey ns iu) else tset f.map (iuKey ns iu) v }) s

/-- Well index records of an IU, and range records that cover it. -/
def recsOf (s : State) (ns iu : Nat) : List WellRec := s.fte.idx.filter fun r => r.ns == ns && r.iu == iu
def rngOf (s : State) (ns iu : Nat) : List RangeRec :=
  s.fte.rng.filter fun r => r.ns == ns && decide (r.lo ≤ iu) && decide (iu ≤ r.hi)

/-- A change of version `ver` is newer than every other pending or retained version of its IU, R185. -/
def beatsAll (s : State) (ns iu ver : Nat) : Bool :=
  ((recsOf s ns iu).all fun r => r.ver == ver || newer ver r.ver) &&
    ((rngOf s ns iu).all fun r => r.ver == ver || newer ver r.ver)

/-- What a lookup answers, R184. -/
inductive Look where
  | well (b : IuData) | entry (e : Nat)
deriving DecidableEq, Repr

/-- The newer of two records. -/
def newestRec : Option WellRec → WellRec → Option WellRec
  | none, r => some r
  | some a, r => if newer r.ver a.ver then some r else some a

/-- The newest live record of an IU that no retained or range record outranks, R184. -/
def liveRec (s : State) (ns iu : Nat) : Option WellRec :=
  (((recsOf s ns iu).filter (·.live)).foldl newestRec none).filter fun r =>
    ((recsOf s ns iu).all fun x => x.live || newer r.ver x.ver) && ((rngOf s ns iu).all fun x => newer r.ver x.ver)

/-- A lookup of an IU, R184. -/
def lookup (s : State) (ns iu : Nat) : Look :=
  match liveRec s ns iu with
  | some r => .well r.body
  | none => .entry (mapAt s ns iu)

/-- No change of the namespace with a lower version than `ver` is pending, R185 Retention: no write-class command of it
with a lower fetch sequence number holds a tag, and no live record or range record of it with a lower version remains. -/
def nothingOlder (s : State) (ns ver : Nat) : Bool :=
  (s.nvq.tags.all fun e => !(isIo e.2 && writeLike e.2.ent && entNsid e.2.ent == ns && newer ver e.2.seq)) &&
    (s.fte.idx.all fun r => !(r.live && r.ns == ns && newer ver r.ver)) &&
    (s.fte.rng.all fun r => !(r.ns == ns && newer ver r.ver))

/-- Release the retained records R185 no longer keeps, and retire the range records folded and no longer retained (R183). -/
def releaseKept (s : State) : State :=
  onFte (fun f => { f with idx := f.idx.filter fun r => r.live || !nothingOlder s r.ns r.ver,
                           rng := f.rng.filter fun r => !(r.folded && nothingOlder s r.ns r.ver) }) s

/-- A detector entry whose data is in a well is given up once no live record of its command remains, R113, R118. -/
def sweepOvl (s : State) : State :=
  let l := s.nvq.ovl.filter fun o => !(o.inWell && s.fte.idx.all fun r => !(r.live && r.ns == o.ns && r.ver == o.seq))
  onNvq (fun n => { n with ovl := l }) s

/-! ## Delta log -/

/-- The log has no room for a record: the next record begins a segment and 736 segments hold live records. -/
def logFull (s : State) : Bool :=
  s.cst.wr % 1024 == 0 && decide (736 ≤ ((s.cst.log.map (·.seg)).eraseDups).length)

/-- No delta is committed now, R180: the log is full, or earlier deltas wait for it. -/
def logWaits (s : State) : Bool := logFull s || !s.cst.due.isEmpty

/-- FTE_EVT.LOG_FULL and source 202. -/
def fullLog (s : State) : State := raiseSrc 202 (evt .fteEvt 4 s)

/-- Write a delta record at the next log position, R296; what it changes takes effect: the map entry of a MAP record. -/
def writeDelta (d : Delta) (s : State) : State :=
  let s1 := onCst (fun c => { c with log := c.log ++ [{ d with seq := c.logSeq, seg := c.wr / 1024 }], logSeq := c.logSeq + 1,
                                     wr := c.wr + 1 }) s
  if d.kind = .map then setMap d.ns d.key d.val s1 else s1

/-- Commit a delta record; while the log is full it waits in order (R180). -/
def appendDelta (d : Delta) (s : State) : State :=
  if logWaits s then fullLog (onCst (fun c => { c with due := c.due ++ [d] }) s) else writeDelta d s

/-- Waiting deltas are committed as the log has room; `fuel` bounds their number. -/
def drainDue : Nat → State → State
  | 0, s => s
  | n + 1, s => if logFull s then s else match s.cst.due with
    | [] => s
    | d :: l => drainDue n (writeDelta d (onCst (fun c => { c with due := l }) s))

/-- A BLOCK record for a block's state. -/
def blkDelta (die block : Nat) (s : State) : State :=
  appendDelta { kind := .block, key := blkKey die block, val := (blkAt s die block).ec } s

/-- A record is durable, R289, R293: with no bank in service, only once its log shadow has passed. -/
def durable (s : State) (seq : Nat) : Bool := !shadowOnly s || decide (seq < s.cst.shadow)

/-- Every record written so far is durable. -/
def logDurable (s : State) : Bool := !shadowOnly s || decide (s.cst.logSeq ≤ s.cst.shadow)

/-! ## Codewords on NAND -/

/-- Pieces of an IU of a namespace, in codewords. -/
def nsUnits (s : State) (ns : Nat) : Nat := match nsAt s ns with | some n => iuUnits n.fmt | none => 1

/-- The namespace field under which the model keeps a directory page's codeword (no NSID). -/
def dirNs : Nat := 0xFFFF

/-- A codeword's back-pointer names an existing instance and the map names it: it holds valid data. A MAP-stream codeword is
valid while the directory names it, a directory page's while the root table does. -/
def validCw (s : State) (addr : Nat) : Bool :=
  match tget s.fte.nand addr with
  | none => false
  | some c =>
    if c.ns = dirNs then tget s.fte.root c.iu == some addr
    else if c.stream = 2 then tget s.fte.dir (pageKey c.ns c.iu) == some addr
    else match nsAt s c.ns with
      | none => false
      | some n =>
        let m := mapAt s c.ns c.iu
        n.inst == c.inst && !mapSpecial m && decide (m ≤ addr) && decide (addr < m + iuUnits n.fmt)

/-- First codeword of a valid IU. -/
def validHead (s : State) (addr : Nat) : Bool :=
  validCw s addr && match tget s.fte.nand addr with
    | some c => c.stream == 2 || mapAt s c.ns c.iu == addr
    | none => false

/-- Addresses of the programmed codewords of a block. -/
def blkCws (s : State) (die block : Nat) : List Nat :=
  let lo := cwKey die (cwOf s.prof block 0)
  (s.fte.nand.filter fun e => decide (lo ≤ e.1) && decide (e.1 < lo + cwsPerBlk s.prof)).map (·.1)

/-- Valid IUs of a block, of a stripe. -/
def validIus (s : State) (die block : Nat) : List Nat := (blkCws s die block).filter (validHead s)
def stripeValid (s : State) (t : Stripe) : List Nat := t.members.flatMap fun m => validIus s m.1 m.2

def stripeAt (s : State) (dom n : Nat) : Option Stripe := tget s.dre.stripes (stripeKey dom n)
def setStripe (dom n : Nat) (t : Stripe) (s : State) : State :=
  onDre (fun d => { d with stripes := tset d.stripes (stripeKey dom n) t }) s
def modStripe (dom n : Nat) (f : Stripe → Stripe) (s : State) : State :=
  onDre (fun d => { d with stripes := tmod d.stripes (stripeKey dom n) f }) s
def modDom (d : Nat) (f : Dom → Dom) (s : State) : State := onDre (fun x => { x with doms := tupd x.doms d {} f }) s
def modDie (die : Nat) (f : Die → Die) (s : State) : State := onFch (fun x => { x with dies := tmod x.dies die f }) s

/-- Mark a stripe to be collected first, R197. -/
def markFirst (dom n : Nat) (s : State) : State :=
  onFte (fun f => { f with first := if f.first.contains (dom, n) then f.first else f.first ++ [(dom, n)] }) s

/-! ## Die queues -/

def isRead (k : DieKind) : Bool := k == .read || k == .feature
def isWrite (k : DieKind) : Bool := k == .program || k == .erase

/-- A queue has room for one more operation of a kind, R210: 8 entries, at most 6 of one class. -/
def roomFor (q : List Dop) (k : DieKind) : Bool :=
  decide (q.length < 8) &&
    (if isRead k then decide ((q.filter fun o => isRead o.kind).length < 6)
     else if isWrite k then decide ((q.filter fun o => isWrite o.kind).length < 6) else true)

/-- A map-page read, which enters ahead of host reads (R163). -/
def isMapRead (o : Dop) : Bool := match o.use with | .mapPage _ _ => true | .fold _ _ => true | _ => false

/-- The ZK-540 dispatch mode, PWR_CFG.BMODE. -/
def zk540 (s : State) : Bool := bitOf (reg s .pwrCfg) 31

/-- Whether a host operation is of a partner-facing link, and its tenant; none for work that QOS does not schedule. -/
def opTenant (s : State) (o : Dop) : Option (Bool × Nat) := match o.use with
  | .host k => (tget s.nvq.tags k).map fun t => (isPface s (linkOf s (portOf t.ctrl)), t.tenant.getD unasgNo)
  | _ => none

/-- R137: a tenant has more than BW_MAX × 64 µs of data waiting at its maximum gate: decoded, and not yet moved or reserved. -/
def gateFull (s : State) (t : Nat) : Bool :=
  t != unasgNo && (tntAt s t).bwMax != 0 && decide (128 * (tntAt s t).bwMax <
    s.nvq.tags.foldl (fun a e => if e.2.tenant = some t then a + (4096 * e.2.got.length - (e.2.moved + e.2.reserved)) else a) 0)

/-- Insert into a rising list without repeats. -/
def insNat (x : Nat) : List Nat → List Nat
  | [] => [x]
  | y :: l => if x < y then x :: y :: l else if x = y then y :: l else y :: insNat x l

/-- The waiting operation that enters a free queue entry: a map-page read first (R163); else the oldest, but among host operations the one QOS
chooses (R137): the partner-facing link first, then by deficit round robin, which the ZK-540 dispatch mode leaves out (R143). -/
def pickWait (s : State) (d : Die) : Option Dop :=
  let c := d.wait.filter fun o => roomFor d.queue o.kind && !((opTenant s o).any fun x => gateFull s x.2)
  match (c.find? isMapRead).or c.head? with
  | none => none
  | some o =>
    if (opTenant s o).isNone then some o
    else match c.find? fun x => (opTenant s x).any (·.1) with
      | some x => some x
      | none =>
        if zk540 s then some o
        else match qosPick s ((c.filterMap (opTenant s)).foldl (fun l x => insNat x.2 l) []) with
          | some t => (c.find? fun x => opTenant s x == some (false, t)).or (some o)
          | none => some o

/-- An operation enters its die's queue; the choice of a tenant's is served. -/
def enterQueue (die : Nat) (o : Dop) (s : State) : State :=
  let ts := (((dieAt s die).wait.filter fun o => roomFor (dieAt s die).queue o.kind).filterMap (opTenant s)).foldl (fun l x => insNat x.2 l) []
  let s1 := match opTenant s o with
    | some (false, t) => if zk540 s then s else qosServe t ts s
    | _ => s
  modDie die (fun d => { d with queue := d.queue ++ [o], wait := d.wait.filter fun x => x.id != o.id }) s1

/-- Move waiting operations into the queue while there is room; `fuel` bounds their number. -/
def drainN : Nat → Nat → State → State
  | 0, _, s => s
  | n + 1, die, s => match pickWait s (dieAt s die) with
    | none => s
    | some o => drainN n die (enterQueue die o s)

def drainQ (die : Nat) (s : State) : State := drainN (dieAt s die).wait.length die s

/-- Give an operation to a die: it enters the queue, or waits for an entry. A die that is absent or failed takes none. -/
def queueOp (die : Nat) (o : Dop) (s : State) : State :=
  if !(dieAt s die).present || (dieAt s die).failed then s
  else drainQ die (modDie die (fun d => { d with wait := d.wait ++ [{ o with id := s.fch.nextId, since := if o.since = 0 then s.pwr.tb else o.since }] })
    (onFch (fun f => { f with nextId := f.nextId + 1 }) s))

/-- Return the tokens an entry holds. -/
def dropTokens (o : Dop) (s : State) : State :=
  onPwr (fun p => { p with held := p.held - o.held, reqs := p.reqs.filter fun r => r.op != o.id,
                           bgReqs := p.bgReqs.filter fun r => r.op != o.id }) s

/-- Free a queue entry; the next waiting operation takes its place. With an erase the programs that waited for it go on (R221). -/
def freeEntry (die : Nat) (o : Dop) (s : State) : State :=
  let go (x : Dop) : Dop := if o.kind = .erase then { x with late := false } else x
  drainQ die (modDie die (fun d => { d with queue := (d.queue.filter fun x => x.id != o.id).map go, wait := d.wait.map go }) (dropTokens o s))

/-! ## Places in a block -/

/-- Die, block, plane and page of a codeword, R173. -/
def cwBlock (s : State) (cw : Nat) : Nat := cwBlk s.prof (cw % 2 ^ 27)
def cwPlane (s : State) (cw : Nat) : Nat := cwPos s.prof (cw % 2 ^ 27) / max 1 s.prof.q % 4
def cwPage (s : State) (cw : Nat) : Nat := cwPos s.prof (cw % 2 ^ 27) / max 1 (4 * s.prof.q)

/-- Wordline of a codeword: pages of one wordline follow one another, one per page type (PRESUMED: the manual leaves the order
of pages to the part). -/
def cwWl (s : State) (cw : Nat) : Nat := cwPage s cw / max 1 s.prof.ptMean.length

/-- Page type of a codeword. -/
def cwType (s : State) (cw : Nat) : Nat := cwPage s cw % max 1 s.prof.ptMean.length

/-- A day of the time base, in which the profile's age bands are taken. -/
def dayNs : Nat := 86400000000000

/-- Tracking bin of a block, R246. -/
def binOf (s : State) (die block : Nat) : Nat :=
  let b := blkAt s die block
  if b.stream = 2 ∨ b.stream = 3 then 0
  else if b.st = .opened then 1
  else 2 + (s.prof.ageBands.filter fun d => decide (d * dayNs ≤ s.pwr.tb - b.closeT)).length

/-- A value clamped to a bound. -/
def clampI (m : Int) (v : Int) : Int := if v < -m then -m else if m < v then m else v

/-- Quotient rounded to the nearest integer, a half away from zero (DESIGN CHOICE: the manual writes `round` and no more). -/
def roundDiv (a : Int) (b : Nat) : Int := a.sign * ((2 * a.natAbs + b) / (2 * max 1 b) : Nat)

/-- Levels sensed by a read of a block, R247. -/
def levelsOf (s : State) (die block : Nat) : Nat := if (binOf s die block) = 0 then 1 else s.prof.levels

/-- Level offsets of a read of a block, R247: the profile's base offset for the bin, V_k, and `add` on top of O, clamped to the part's range. -/
def levelOffs (s : State) (die block : Nat) (add : Int) : List Int :=
  let bin := binOf s die block
  let k0 := levelsOf s die block
  let x := binAt s die bin
  let dT := roundDiv (s.prof.tcNum * ((chanAt s (chanOf die)).temp - x.tupd)) s.prof.tcDen
  (upFrom 1 k0).map fun (k : Nat) =>
    let v := x.o + add + roundDiv (x.s * (2 * (k : Int) - k0 - 1)) 32 + (if k = 1 then x.t else 0) + dT
    max s.prof.offMin (min s.prof.offMax ((s.prof.base.getD bin []).getD (k - 1) 0 + v))

/-- Read of one codeword on behalf of a reader: a single-plane READ of its page at level offsets, which ages from a time. -/
def readAtOp (s : State) (addr : Nat) (use : DopFor) (offs : List Int) (since : Nat) : Nat × Dop :=
  let die := addr / 2 ^ 27
  let block := cwBlk s.prof (addr % 2 ^ 27)
  (die, { id := 0, kind := .read, block, planes := 1, slc := (blkAt s die block).stream == 2 || (blkAt s die block).stream == 3, use, cws := [addr],
          offs, since })

/-- The READ of step 1, at the bin's levels (R247). -/
def readOp (s : State) (addr : Nat) (use : DopFor) : Nat × Dop :=
  readAtOp s addr use (levelOffs s (addr / 2 ^ 27) (cwBlk s.prof (addr % 2 ^ 27)) 0) 0

/-- Queue a READ; the lookup's entry takes a reference to its block (R198). -/
def queueReadOp (x : Nat × Dop) (s : State) : State := queueOp x.1 x.2 (blkMod x.1 x.2.block (fun b => { b with refs := b.refs + 1 }) s)

/-- An operation that has not been chosen, to which a read of a codeword can be added (R209): the same reader's READ of the same page. -/
def sameRead (s : State) (addr : Nat) (use : DopFor) (o : Dop) : Bool :=
  o.kind == .read && o.st == .queued && o.use == use && o.cws.any fun a =>
    cwBlock s a == cwBlock s addr && cwPage s a == cwPage s addr && a / 2 ^ 27 == addr / 2 ^ 27

/-- Queue a read of a codeword: codewords of one page on several planes are one multi-plane READ (R209). -/
def queueRead (addr : Nat) (use : DopFor) (s : State) : State :=
  let d := dieAt s (addr / 2 ^ 27)
  if (d.queue ++ d.wait).any (sameRead s addr use) then
    let add (o : Dop) : Dop := if sameRead s addr use o then
        { o with cws := o.cws ++ [addr], planes := ((o.cws ++ [addr]).map (cwPlane s)).eraseDups.length } else o
    modDie (addr / 2 ^ 27) (fun d => { d with queue := d.queue.map add, wait := d.wait.map add }) s
  else queueReadOp (readOp s addr use) s

/-- A NAND read ends: its references are released. -/
def endRefs (die : Nat) (o : Dop) (s : State) : State :=
  if o.kind = .read then blkMod die o.block (fun b => { b with refs := b.refs - 1 }) s else s

/-! ## Codewords on the ladder, R254, R260 -/

/-- Put a codeword on the ladder for a reader; a codeword already there takes the reader too. -/
def toLadder (cw : Nat) (r : Reader) (step : Nat) (s : State) : State :=
  if s.sre.ladders.any (fun l => l.cw == cw) then
    onSre (fun x => { x with ladders := x.ladders.map fun l => if l.cw = cw then { l with readers := l.readers ++ [r] } else l }) s
  else onSre (fun x => { x with ladders := x.ladders ++ [{ cw, step, readers := [r], since := s.pwr.tb }] }) s

/-- A seal fails at a check point: SEAL_FAIL, event 0x0810 and source 313 (R337). -/
def sealFail (s : State) : State := raiseSrc 313 (logOpen 0x0810 (evt .mprEvt 7 s))

/-! ## Survivors, R275, R278 -/

/-- A survivor read of DRE has ended: with the codeword, or unreadable after step 4. -/
def survGot (a : Nat) (ok : Bool) (s : State) : State :=
  if s.dre.want.contains a then onDre (fun d => { d with want := d.want.filter (· != a), got := d.got ++ [(a, ok)] }) s else s

/-- Read a survivor: through its die's queue and the ladder up to step 4; it is unreadable at once where the die does not answer or the codeword is
past step 4 already. -/
def askSurv (a : Nat) (s : State) : State :=
  if s.dre.want.contains a || s.dre.got.any (fun g => g.1 == a) then s
  else
    let d := dieAt s (cwDie a)
    let s1 := onDre (fun d => { d with want := d.want ++ [a] }) s
    if !d.present || d.failed || s.sre.ladders.any (fun l => l.cw == a && decide (5 ≤ l.step)) then survGot a false s1
    else queueRead a .rebuild s1

/-- A position of a member block is programmed: NEXT of its block state (R216) is past the last step of its group. -/
def written (s : State) (die block pos : Nat) : Bool :=
  let b := blkAt s die block
  decide (pos / max 1 (stepCws s.prof b.stream) < groupsDone s.prof b.stream b.next)

/-- A position's parity step is still in an accumulator. -/
def inAcc (s : State) (t : Stripe) (pos : Nat) : Bool := t.accs.any fun a => a.step == pos / max 1 (stepCws s.prof t.stream)

/-- The codewords read to reconstruct a position of a member, steps 1 and 2 of R275: the other members', the parity member's only where the parity
step is not in an accumulator; a position never programmed is not read. -/
def rowReads (s : State) (t : Stripe) (m pos : Nat) : List Nat :=
  t.members.zipIdx.filterMap fun x =>
    if x.2 = m || (inAcc s t pos && x.2 == t.ppos) || !written s x.1.1 x.1.2 pos then none else some (cwKey x.1.1 (cwOf s.prof x.1.2 pos))

/-- The stripe and member position a codeword lies in. -/
def cwStripe (s : State) (cw : Nat) : Option (Stripe × Nat) :=
  match stripeAt s (dieDom (cwDie cw)) (blkAt s (cwDie cw) (cwBlock s cw)).stripe with
  | none => none
  | some t => (t.members.findIdx? fun m => m.1 == cwDie cw && m.2 == cwBlock s cw).map fun j => (t, j)

/-- The survivors of a codeword. -/
def reconReads (s : State) (cw : Nat) : List Nat := match cwStripe s cw with
  | some (t, m) => rowReads s t m (cwPos s.prof (cw % 2 ^ 27))
  | none => []

/-- Steps 1 and 2 of R275 can yield the codeword: its row is still protected, and every survivor was readable. -/
def survOk (s : State) (cw : Nat) : Bool := match cwStripe s cw with
  | some (t, m) =>
    let pos := cwPos s.prof (cw % 2 ^ 27)
    !t.bare.contains pos && (t.st != .unprotected || inAcc s t pos) && (rowReads s t m pos).all fun a => s.dre.got.contains (a, true)
  | none => false

/-- The survivors of the reconstructions that are outstanding are read; requests for one row share their reads. -/
def askRecons (s : State) : State := forEach ((s.dre.recon.take 256).flatMap (reconReads s)) askSurv s

/-- Survivors that nothing outstanding needs any more are forgotten: `keep` are those that rebuild needs. -/
def pruneSurv (keep : List Nat) (s : State) : State :=
  let need := keep ++ (s.dre.recon.take 256).flatMap (reconReads s)
  onDre (fun d => { d with want := d.want.filter need.contains, got := d.got.filter fun g => need.contains g.1 }) s

/-- Requests for reconstruction, R275: at most 256 outstanding, further ones in order. -/
def toRecon (cw : Nat) (s : State) : State :=
  if s.dre.recon.contains cw then s else askRecons (onDre (fun d => { d with recon := d.recon ++ [cw] }) s)

/-- A survivor is unreadable past step 4: its ladder goes on only for other readers. -/
def dropSurv (cw : Nat) (s : State) : State :=
  let cut (l : Ladder) : Ladder := if l.cw = cw then { l with readers := l.readers.filter (· != .stripe) } else l
  if s.sre.ladders.any fun l => l.cw == cw && l.readers.contains .stripe then
    survGot cw false (onSre (fun x => { x with ladders := (x.ladders.map cut).filter fun l => !(l.cw == cw && l.readers.isEmpty) }) s)
  else s

/-- Step 5 of the ladder for a codeword: SRE_STEP_CNT[5], SRE_EVT.STEP5 and source 261 (R257). DRE's own reads end before it. -/
def enterStep5 (cw : Nat) (s : State) : State :=
  let s0 := dropSurv cw s
  if s0.sre.ladders.any fun l => l.cw == cw then
    let s1 := onSre (fun x => { x with ladders := x.ladders.map fun l => if l.cw = cw then { l with step := 5, framed := false, hold := false } else l,
                                       stepCnt := tupd x.stepCnt 5 0 fun n => (n + 1) % 2 ^ 32 }) s0
    toRecon cw (raiseSrc 261 (evt .sreEvt 4 s1))
  else s0

/-- The reader an operation's codewords are read for. -/
def useReader : DopFor → Reader
  | .host t => .host t
  | .mapPage n p => .mapPage n p
  | .fold n p => .mapPage n p
  | .gc => .gc
  | .rebuild => .stripe
  | .scrub => .scrub
  | .ladder _ _ => .stripe
  | .spill | .eraseBlk | .selfTest | .recal | .stream => .readAround

/-- A read that ends without data for a die's failure goes to step 5 at once, R257. -/
def readToStep5 (o : Dop) (s : State) : State :=
  if o.kind ≠ .read then s
  else forEach o.cws (fun c s =>
    if s.sre.ladders.any (fun l => l.cw == c && l.step == 5) then s
    else enterStep5 c (match o.use with
      | .ladder _ _ => s
      | u => toLadder c (useReader u) 5 s)) s

/-- Read a codeword for a reader: from its die, or by step 5 at once where the die does not answer (R257). -/
def readCw (addr : Nat) (use : DopFor) (s : State) : State :=
  let d := dieAt s (addr / 2 ^ 27)
  if d.present && !d.failed then queueRead addr use s
  else if s.sre.ladders.any (fun l => l.cw == addr && l.step == 5) then toLadder addr (useReader use) 5 s
  else enterStep5 addr (toLadder addr (useReader use) 5 s)

/-! ## Declustering table and stripes -/

/-- Rows of a domain's declustering table, R267: the multipliers b. -/
def declB (n w : Nat) : List Nat := (upFrom 1 (n - 1)).filter fun b => decide (w ≤ n / Nat.gcd b n)
def declRows (s : State) (d : Nat) : Nat :=
  let n := (domDies s d).length
  n * (declB n (domW s d)).length

/-- Member dies of a row. -/
def rowDies (s : State) (d row : Nat) : List Nat :=
  let ds := domDies s d
  let n := ds.length
  let b := (declB n (domW s d)).getD (row / n) 0
  (List.range (domW s d)).map fun j => ds.getD ((row % n + j * b) % n) 0

/-- Free blocks of a die in one pool, in number order. -/
def freeOn (s : State) (die : Nat) (resv : Bool) : List (Nat × Blk) :=
  (List.range s.prof.blocksPerDie).filterMap fun b =>
    let x := blkAt s die b
    if x.st = .free && x.resv == resv then some (b, x) else none

/-- The block with the lowest erase count, the lowest number among equals. -/
def lowestEc (l : List (Nat × Blk)) : Option (Nat × Blk) :=
  l.foldl (fun a x => match a with
    | none => some x
    | some y => if x.2.ec < y.2.ec then some x else some y) none

/-- The block R194 gives a stream on a die, and whether it is one held back. MAP leaves the spill reserve of R303. -/
def pickBlk (s : State) (die stream : Nat) : Option (Nat × Bool) :=
  let fs := freeOn s die (stream == 2)
  if stream = 2 ∧ fs.length ≤ s.prof.resSpill then none
  else
    let bs := domBlks s (dieDom die)
    match lowestEc (fs.filter fun x => !heldBack s bs x.2) with
    | some x => some (x.1, false)
    | none => (lowestEc fs).map fun x => (x.1, true)

/-- Code rate index a block takes when it is allocated, R238: the profile's for SLC, or that of its wear band. -/
def rateFor (p : Profile) (stream ec : Nat) : Nat :=
  if stream = 2 ∨ stream = 3 then p.rateSlc
  else match p.rateBands.find? fun b => decide (ec ≤ b.1) with
    | some b => b.2
    | none => ((p.rateBands.getLast?).map (·.2)).getD 2

/-- A stream takes a block: FREE to OPEN, Table 8-6. -/
def takeBlk (die block stream stripe pos : Nat) (s : State) : State :=
  blkDelta die block (blkMod die block (fun b => { b with st := .opened, stream, stripe, pos,
                                                          rate := rateFor s.prof stream b.ec }) s)

/-- The first stripe number at or after `n` whose row can open, with its blocks (R268); `fuel` rows are tried. -/
def findRow (s : State) (d stream : Nat) : Nat → Nat → Option (Nat × List (Nat × Nat × Bool))
  | 0, _ => none
  | fuel + 1, n =>
    let ms := (rowDies s d (n % max 1 (declRows s d))).map fun die => (pickBlk s die stream).map fun b => (die, b.1, b.2)
    if ms.all (·.isSome) && !ms.isEmpty then some (n, ms.filterMap id) else findRow s d stream fuel ((n + 1) % 2 ^ 32)

/-- Stripes of a domain and stream that are open. -/
def openOf (s : State) (d stream : Nat) : Tbl Stripe :=
  s.dre.stripes.filter fun e => e.1 / 2 ^ 32 == d && e.2.stream == stream && e.2.st == .opened

/-- FTE_CFG.STREAM_OPEN, 1 to 8. -/
def streamOpen (s : State) : Nat := min 8 (orOne (rfld s .fteCfg 0 4))

/-- HOST may open a stripe in an urgent domain, R196. -/
def urgentOk (s : State) (d stream : Nat) : Bool :=
  !(stream == 0 && (gcAt s d).urg) || decide (domW s d ≤ (gcAt s d).freed)

/-- The codewords given positions in a block whose programs have not passed, from a step on. -/
def unpassed (s : State) (die block fromPos : Nat) : Tbl Prog :=
  let lo := cwKey die (cwOf s.prof block 0)
  s.fte.prog.filter fun e => decide (lo + fromPos ≤ e.1) && decide (e.1 < lo + cwsPerBlk s.prof)

/-- Every data position is programmed and holds a valid IU: collecting it frees nothing. -/
def noGain (s : State) (t : Stripe) : Bool :=
  decide (stepsOf s.prof t.stream * (t.members.length - 1) * stepCws s.prof t.stream ≤
    t.members.foldl (fun a m => a + ((blkCws s m.1 m.2).filter (validCw s)).length) 0)

/-- A stripe is a victim already. -/
def isVictim (s : State) (d n : Nat) : Bool := s.fte.victims.any fun v => v.dom == d && v.stripe == n

/-- A candidate of R197: closed, every member CLOSED or RETIRED, no program of it running, not a victim, and not exposed with
valid data while its domain rebuilds (R277). -/
def gcCand (s : State) (d : Nat) (n : Nat) (t : Stripe) : Bool :=
  (t.st == .closed || t.st == .unprotected) && !isVictim s d n && t.repl.isNone &&
    (t.members.all fun m => let b := blkAt s m.1 m.2
      b.st == .closed || b.st == .retired) &&
    (t.members.all fun m => (unpassed s m.1 m.2 0).isEmpty) &&
    !(domSt s d == .rebuilding && ((tgetD s.dre.doms d {}).exposed.contains n) && t.st != .unprotected && !(stripeValid s t).isEmpty)

/-- The candidates of a domain. -/
def gcCands (s : State) (d : Nat) : List (Nat × Stripe) :=
  ((s.dre.stripes.filter fun e => e.1 / 2 ^ 32 == d).map fun e => (e.1 % 2 ^ 32, e.2)).filter fun c => gcCand s d c.1 c.2

/-- Garbage collection of a domain stops, R197: no victim is being collected and every candidate has no space to reclaim. -/
def gcStops (s : State) (d : Nat) : Bool :=
  let cs := gcCands s d
  !(s.fte.victims.any fun v => v.dom == d) && !cs.isEmpty && cs.all fun c => noGain s c.2

/-- Urgency and garbage collection of every domain, R196, R197: URG_ENTER and source 201 for a domain that becomes urgent. -/
def gcLevels (s : State) : State :=
  forN 4 (fun d s =>
    let urg := domSt s d != .offline && !(domDies s d).isEmpty && freeBelowPerDie s d (rfld s .fteCfg 8 8)
    let want := domSt s d != .offline && ((freeBelowPerDie s d (rfld s .fteCfg 16 8) && ((gcAt s d).mode != 1 || urg)) || (gcAt s d).mode == 2)
    let act := (want && !gcStops s d) || s.fte.first.any (fun f => f.1 == d)
    let fresh := urg && !(gcAt s d).urg
    let s1 := onFte (fun f => { f with gc := tupd f.gc d {} fun g => { g with urg, act } }) s
    if fresh then raiseSrc 201 (evt .fteEvt 7 s1) else s1) s

/-- Open the next stripe of a stream, if the rules let it open (R193, R196, R268, R126). -/
def openStripe (d stream : Nat) (s : State) : State :=
  if domSt s d = .offline || s.nvq.shutHold || s.sys.mode == .holdup || !decide ((openOf s d stream).length < streamOpen s)
      || !urgentOk s d stream || !decide (journalSlots s < 8192) then s
  else match findRow s d stream (declRows s d) (domAt s d).next with
    | none => s
    | some (n, ms) =>
      let held := ms.any fun m => m.2.2
      let s1 := forN ms.length (fun j s => match ms[j]? with
        | some m => takeBlk m.1 m.2.1 stream n j s
        | none => s) s
      let t : Stripe := { stream, members := ms.map fun m => (m.1, m.2.1), ppos := n % max 1 (declRows s d) % max 1 (domW s d) }
      let s2 := modDom d (fun x => { x with next := (n + 1) % 2 ^ 32 }) (setStripe d n t s1)
      let s3 := if stream = 0 then onFte (fun f => { f with gc := tupd f.gc d {} fun g => { g with freed := 0 } }) s2 else s2
      gcLevels (if held then raiseSrc 203 (evt .fteEvt 1 s3) else s3)

/-! ## Positions, R269, R270 -/

/-- Data members of a stripe. -/
def dataN (t : Stripe) : Nat := t.members.length - 1

/-- Where the `f`th data position of a stripe lies: step, member position, place within the member's step. -/
def posAt (p : Profile) (t : Stripe) (f : Nat) : Nat × Nat × Nat :=
  let per := stepCws p t.stream
  let j := f / per % max 1 (dataN t)
  (f / (max 1 (dataN t) * per), if j < t.ppos then j else j + 1, f % per)

/-- Data positions of a stripe. -/
def posCount (p : Profile) (t : Stripe) : Nat := stepsOf p t.stream * dataN t * stepCws p t.stream

/-- Queue the program of a member's steps `lo` up to `hi` of the sequence. -/
def queueSteps (t : Stripe) (member lo hi : Nat) (s : State) : State :=
  match t.members[member]? with
  | some (die, block) => forEach (upFrom lo (hi - lo)) (fun i s =>
      queueOp die { id := 0, kind := .program, block, step := i, slc := t.stream == 2, use := .stream } s) s
  | none => s

/-- Group `g` of a member is full: the steps of the sequence that it allows, after those that the groups before it allowed. -/
def queueGroup (t : Stripe) (member g : Nat) (s : State) : State :=
  queueSteps t member (cutAt s.prof t.stream g) (cutAt s.prof t.stream (g + 1)) s

/-- Group `g` is the last of a member that is programmed: every step up to the last that programs it. -/
def queueLast (t : Stripe) (member g : Nat) (s : State) : State :=
  queueSteps t member (cutAt s.prof t.stream g) (endAt s.prof t.stream (g + 1)) s

/-- A position was given: the accumulator takes the member; a full member step is programmed, and a step every data member
has contributed has its parity queued (R270). -/
def gavePos (d n : Nat) (s : State) : State :=
  match stripeAt s d n with
  | none => s
  | some t =>
    let per := stepCws s.prof t.stream
    let (step, m, _) := posAt s.prof t t.fill
    let accs := if t.accs.any fun a => a.step == step then
        t.accs.map fun a => if a.step = step then { a with members := if a.members.contains m then a.members else a.members ++ [m] } else a
      else t.accs ++ [{ step, members := [m] }]
    let fill := t.fill + 1
    let parity := fill % (max 1 (dataN t) * per) == 0
    let accs := accs.map fun a => if parity && a.step == step then { a with queued := true } else a
    let s1 := setStripe d n { t with fill, accs } s
    let s2 := if fill % per = 0 then queueGroup t m step s1 else s1
    if parity then queueGroup t t.ppos step s2 else s2

/-- Give one position of a stripe to a codeword. -/
def giveCw (d n : Nat) (c : Prog) (s : State) : State :=
  match stripeAt s d n with
  | none => s
  | some t =>
    let (step, m, o) := posAt s.prof t t.fill
    match t.members[m]? with
    | none => s
    | some (die, block) =>
      gavePos d n (onFte (fun f => { f with prog := tset f.prog (cwKey die (cwOf s.prof block (step * stepCws s.prof t.stream + o))) c }) s)

/-- Positions of a member's step left before an IU of `u` codewords would be split over two member steps: they stay unused. -/
def padPos (s : State) (t : Stripe) (u : Nat) : Nat :=
  let left := stepCws s.prof t.stream - t.fill % stepCws s.prof t.stream
  if left < u then left else 0

/-- Whether a stripe can take an IU: it is open, not closed partially, and has positions left; a new accumulator step needs
room in the 12 MiB partition (R18, R270) and is not opened in the hold of R126. -/
def canGive (s : State) (t : Stripe) (u : Nat) : Bool :=
  let f := t.fill + padPos s t u
  let step := (posAt s.prof t f).1
  t.st == .opened && !t.part && decide (f + u ≤ posCount s.prof t) &&
    (t.accs.any (fun a => a.step == step) ||
      (!s.nvq.shutHold && decide (accBytes s + stepCws s.prof t.stream * 4096 ≤ lim19 s 12)))

/-- The open stripe of a stream that takes the next IU. -/
def openFor (s : State) (d stream u : Nat) : Option Nat :=
  ((openOf s d stream).find? fun e => canGive s e.2 u).map fun e => e.1 % 2 ^ 32

/-- Codewords of an IU from its content. -/
def iuCws (s : State) (c : Prog) : Nat :=
  match c.kind with
  | .host | .move _ => nsUnits s c.ns
  | .mapPage _ _ | .dirPage _ _ _ | .movePage _ _ | .moveDir _ _ | .shadow _ => 1

/-- Give the positions of one IU in a stripe. -/
def giveIu (d n u : Nat) (c : Prog) (s : State) : State :=
  match stripeAt s d n with
  | none => s
  | some t =>
    let s1 := forN (padPos s t u) (fun _ s => gavePos d n s) s
    forN u (fun k s => giveCw d n { c with part := k, dom := d } s) s1

/-- Assign data to a stream: a position in the open stripe, or in one that opens now, or the data waits (R193, R196). -/
def place (d stream : Nat) (c : Prog) (s : State) : State :=
  let u := iuCws s c
  match openFor s d stream u with
  | some n => giveIu d n u c s
  | none =>
    let s1 := openStripe d stream s
    match openFor s1 d stream u with
    | some n => giveIu d n u c s1
    | none => onFte (fun f => { f with wait := f.wait ++ [(d, stream, c)] }) s1

/-- Data that waits for a stripe tries again, in order. -/
def placeWaiting (s : State) : State :=
  forEach s.fte.wait (fun w s => place w.1 w.2.1 w.2.2 s) (onFte (fun f => { f with wait := [] }) s)

/-- Domain of an IU of a namespace, R191. -/
def iuDom (s : State) (ns iu : Nat) : Nat :=
  match tget s.fte.nss ns with
  | none => 0
  | some n => ((n.segs.find? fun g => decide (g.2.1 ≤ iu) && decide (iu < g.2.1 + g.2.2)).map (·.1)).getD 0

/-- Domain that takes MAP-stream content of no namespace: the lowest-numbered one not offline (DESIGN CHOICE). -/
def mapDom (s : State) : Nat := ((List.range 4).find? fun d => domSt s d != .offline && !(domDies s d).isEmpty).getD 0

/-- A delta log segment that became full since `s0` is programmed to the MAP stream, R299. -/
def shadowFull (s0 s : State) : State :=
  if s.cst.wr / 1024 ≤ s0.cst.wr / 1024 then s
  else place (mapDom s) 2 { kind := .shadow s.cst.logSeq, body := { data := [] } } s

/-! ## Closing stripes -/

/-- Member blocks of a stripe become CLOSED, Table 8-6. -/
def closeBlks (t : Stripe) (s : State) : State :=
  forEach t.members (fun m s => if (blkAt s m.1 m.2).st = .opened then
    blkDelta m.1 m.2 (blkMod m.1 m.2 (fun b => { b with st := .closed, closeT := s.pwr.tb }) s) else s) s

/-- A stripe whose last parity step has passed is closed: CLOSE of R271. -/
def finishStripe (d n : Nat) (s : State) : State :=
  match stripeAt s d n with
  | none => s
  | some t =>
    if t.st = .opened ∧ t.accs = [] ∧ (t.part ∨ posCount s.prof t ≤ t.fill) then
      closeBlks t (setStripe d n { t with st := .closed, closeT := s.pwr.tb } s)
    else s

/-- The last group a member of a stripe has positions of, if any: data member by its fill, parity by the accumulators given so far. -/
def lastGroup (p : Profile) (t : Stripe) (m : Nat) : Option Nat :=
  let per := stepCws p t.stream
  let j := if m < t.ppos then m else m - 1
  let row := max 1 (dataN t) * per
  let g := t.fill / row
  if m = t.ppos then (if t.fill = 0 then none else some ((t.fill - 1) / row))
  else if j * per < t.fill % row then some g
  else if g = 0 then none else some (g - 1)

/-- Program what a member still needs when its stripe closes partially: the group being filled, its unfilled positions as zero, and the rest of the
sequence up to the last step of its last group. -/
def flushMember (t : Stripe) (m : Nat) (s : State) : State :=
  match lastGroup s.prof t m with
  | none => s
  | some g =>
    let per := stepCws s.prof t.stream
    let full := if m = t.ppos then !(t.accs.any fun a => a.step == g && !a.queued)
      else !((posAt s.prof t t.fill).1 == g && (posAt s.prof t t.fill).2.1 == m && t.fill % per != 0)
    queueSteps t m (cutAt s.prof t.stream (if full then g + 1 else g)) (endAt s.prof t.stream (g + 1)) s

/-- Data members of a stripe, by position. -/
def dataMembers (t : Stripe) : List Nat := (List.range t.members.length).filter (· != t.ppos)

/-- Close a stripe partially, R272. -/
def closePartial (d n : Nat) (s : State) : State :=
  match stripeAt s d n with
  | none => s
  | some t =>
    if t.st ≠ .opened ∨ t.part then s
    else
      let s1 := forEach (dataMembers t) (flushMember t) s
      let s2 := flushMember t t.ppos s1
      let t1 := { t with part := true, accs := t.accs.map fun a => { a with queued := true } }
      finishStripe d n (evt .dreEvt 6 (closeBlks t1 (setStripe d n t1 s2)))

/-- Withdraw the queued programs of a block that have not begun their array phase. -/
def withdraw (die block : Nat) (s : State) : State :=
  let go (o : Dop) := o.kind == .program && o.block == block && (o.st == .queued || o.st == .tokenWait)
  let s1 := forEach ((dieAt s die).queue.filter go) dropTokens s
  drainQ die (modDie die (fun d => { d with queue := d.queue.filter fun o => !go o, wait := d.wait.filter fun o => !go o }) s1)

/-- A parity member fails before its parity is written, R274: the stripe is unprotected and is collected first. -/
def parityLoss (d n : Nat) (s : State) : State :=
  match stripeAt s d n with
  | none => s
  | some t =>
    if t.st = .unprotected then s
    else
      let s1 := forEach (dataMembers t) (flushMember t) s
      let s2 := match t.members[t.ppos]? with
        | some p => withdraw p.1 p.2 s1
        | none => s1
      let t1 := { t with st := .unprotected, part := true, repl := none }
      raiseSrc 267 (evt .dreEvt 5 (markFirst d n (closeBlks t1 (setStripe d n t1 s2))))

/-! ## WRITE-PROTECTED, R202 -/

/-- R136: a tenant has reached OUT_MAX, which counts commands in RUN, SUSPENDED and POST: OUT_HIT, source 188. -/
def outHit (tnt : Option Nat) (s : State) : State :=
  match tnt with
  | some j => if atOutMax s j then raiseSrc 188 (evt .qosEvt 1 s) else s
  | none => s

/-- A command in ADMIT goes to POST with a status. -/
def postEarly (k : Nat) (sc : Sc) (s : State) : State := outHit ((tget s.nvq.tags k).bind (·.tenant)) (post k sc 0 s)

/-- Commands in ADMIT that need a grant complete with Namespace Is Write Protected; FACTORY permits all I/O (Table 2-3). -/
def failGrants (s : State) : State :=
  forEach (tkeys s.nvq.tags) (fun k s => match tget s.nvq.tags k with
    | some t => if t.st = .adm && isIo t && writeLike t.ent && !t.granted && s.sys.mode != .factory then postEarly k .writeProtected s else s
    | none => s) s

/-- Follow Spare_d of every domain not offline: enter below FLOOR, leave at FLOOR + HYST. -/
def checkSpare (s : State) : State :=
  let ds := (List.range 4).filter fun d => domSt s d != .offline && !(domDies s d).isEmpty
  if !s.profOn then s
  else if !s.fte.wp && ds.any (belowFloor s) then
    mediaChange s 0x07 0 (failGrants (raiseSrc 200 (evt .fteEvt 0 (onFte (fun f => { f with wp := true }) s))))
  else if s.fte.wp && ds.all (aboveHyst s) then mediaChange s 0x08 0 (onFte (fun f => { f with wp := false }) s)
  else s

/-! ## Failures -/

/-- Content whose program failed or was refused is given new positions (R195); a 16 KiB IU is placed once, by its first part. -/
def placeAgain (l : Tbl Prog) (s : State) : State :=
  let s1 := onFte (fun f => { f with prog := f.prog.filter fun e => !(l.any fun x => x.1 == e.1) }) s
  forEach l (fun e s => if e.2.part = 0 then
    place e.2.dom (match e.2.kind with | .host => 0 | .move _ => 1 | .mapPage _ _ | .dirPage _ _ _ | .movePage _ _ | .moveDir _ _ | .shadow _ => 2) e.2 s else s) s1

/-- A data member's program fails in a group of an open stripe, R273. -/
def dataLoss (d n member step : Nat) (s : State) : State :=
  match stripeAt s d n with
  | none => s
  | some t =>
    let late : Bool := match t.members[t.ppos]? with
      | none => false
      | some p => (t.passed.any fun x => decide (step ≤ x)) ||
          ((dieAt s p.1).queue.any fun o => o.kind == .program && o.block == p.2 && decide (step ≤ groupAt s.prof t.stream o.step) && o.st == .array)
    let accs := t.accs.map fun a => if step ≤ a.step then { a with members := a.members.filter (· != member) } else a
    let s1 := markFirst d n (setStripe d n { t with accs } s)
    if late then parityLoss d n s1 else closePartial d n s1

/-- The content of a valid codeword moves, R186: host data through the GC stream, map and directory pages as they are through the MAP stream. -/
def moveOff (a : Nat) (s : State) : State :=
  let d := dieDom (a / 2 ^ 27)
  match tget s.fte.nand a with
  | none => s
  | some c =>
    let (stream, kind) : Nat × ProgKind := if c.ns = dirNs then (2, .moveDir c.iu a) else if c.stream = 2 then (2, .movePage c.iu a) else (1, .move a)
    let p (x : Prog) : Bool := x.kind == kind && x.ns == c.ns
    if (s.fte.prog.any fun e => p e.2) || s.fte.wait.any (fun w => p w.2.2) then s
    else place d stream { kind, ns := c.ns, inst := c.inst, iu := c.iu, ver := c.ver, body := c.body, poison := c.poison } s

/-- A program step of a block fails, R219: the block goes BAD and RETIRED, and its unpassed data is placed again. A replacement block is given up, and
what its passed pages hold moves (R278). -/
def failProgram (die block step : Nat) (s : State) : State :=
  let b := blkAt s die block
  let d := dieDom die
  let l := unpassed s die block 0
  let s1 := blkDelta die block (blkMod die block (fun b => { b with st := .retired, bst := .bad }) s)
  let s2 := modDie die (fun x => { x with progFails := x.progFails + 1 }) (withdraw die block s1)
  let s3 := match stripeAt s2 d b.stripe with
    | none => s2
    | some t =>
      match t.repl with
      | some r => if r.die = die ∧ r.block = block then
          forEach (validIus s2 die block) moveOff (parityLoss d b.stripe s2) else markFirst d b.stripe s2
      | none =>
        if t.st = .opened ∧ t.members[b.pos]? = some (die, block) then
          (if b.pos = t.ppos then parityLoss d b.stripe s2 else dataLoss d b.stripe b.pos (groupAt s.prof b.stream step) s2)
        else markFirst d b.stripe s2
  checkSpare (gcLevels (placeAgain l s3))

/-- Stripes of a domain with a member on a die. -/
def stripesOn (s : State) (die : Nat) : Tbl Stripe :=
  s.dre.stripes.filter fun e => e.1 / 2 ^ 32 == dieDom die && e.2.st != .collected && e.2.members.any fun m => m.1 == die

/-- Insert a stripe into the exposed order of R278: MAP stream before the rest, then decreasing valid IUs. -/
def insExposed (x : Nat × Bool × Nat) : List (Nat × Bool × Nat) → List (Nat × Bool × Nat)
  | [] => [x]
  | y :: l =>
    if (x.2.1 && !y.2.1) || (x.2.1 == y.2.1 && decide (y.2.2 < x.2.2)) then x :: y :: l else y :: insExposed x l

/-- Exposed stripes of a failed die: those closed under R273 first, in the order they closed, then R278's order. -/
def exposedOf (s : State) (closed : List Nat) (die : Nat) : List Nat :=
  let rest := (stripesOn s die).filter fun e => !closed.contains (e.1 % 2 ^ 32) && e.2.st == .closed
  let live := rest.filter fun e => !(stripeValid s e.2).isEmpty
  closed ++ ((live.foldr (fun e l => insExposed (e.1 % 2 ^ 32, e.2.stream == 2, (stripeValid s e.2).length) l) []).map (·.1))

/-- A data member's die fails in an open stripe, R273: closed partially, its valid IUs still covered by an accumulator move
through the GC stream. -/
def openDieLoss (d n die : Nat) (s : State) : State :=
  match stripeAt s d n with
  | none => s
  | some t =>
    match t.members.findIdx? (·.1 == die) with
    | none => s
    | some m =>
      if m = t.ppos then parityLoss d n s
      else
        let block := ((t.members[m]?).map (·.2)).getD 0
        let per := stepCws s.prof t.stream
        let lost := (validIus s die block).filter fun a =>
          t.accs.any fun x => x.step == cwPos s.prof (a % 2 ^ 27) / per
        let s1 := raiseSrc 266 (evt .dreEvt 4 (closePartial d n s))
        forEach lost moveOff s1

/-! ## The blocks of a sanitize, R449 -/

/-- A MAP-stream block that holds block table, SRE state or checkpoint pages: MAP content of no namespace. -/
def holdsState (s : State) (die block : Nat) : Bool :=
  let b := blkAt s die block
  b.stream == 2 && (b.st == .opened || b.st == .closed || b.st == .victim) &&
    (blkCws s die block).any fun a => (tget s.fte.nand a).any fun c => c.ns == 0

/-- Blocks of a die from its cursor on that phase 3 erases. -/
def sanBlocks (s : State) (die : Nat) : List Nat :=
  let c := tgetD ((s.cst.san.map (·.cursors)).getD []) die 0
  (upFrom c (s.prof.blocksPerDie - c)).filter fun b => (blkAt s die b).good && !holdsState s die b

/-- The total of phase 3: blocks erased and blocks that remain on the in-service dies (R451). -/
def sanTotal (s : State) : State :=
  match s.cst.san with
  | none => s
  | some r =>
    if r.phase ≠ 3 then s
    else onCst (fun c => { c with san := some { r with
      total := r.done + (okDies s).foldl (fun a d => a + (sanBlocks s d).length) 0 } }) s

/-- A die failed or was retired: Table 11-2 for its domain, with the mode and the warnings that follow. During a sanitize the
die is retired and no rebuild starts (R36); a second die that fails in a domain that is rebuilding takes it offline then too, as in Table 11-2
(DESIGN CHOICE, log entry 75: R36 says only that the die is retired and no rebuild starts). -/
def dieLost (code die : Nat) (s : State) : State :=
  let d := dieDom die
  let opens := ((stripesOn s die).filter fun e => e.2.st == .opened).map (·.1 % 2 ^ 32)
  let data := opens.filter fun n => match stripeAt s d n with
    | some t => t.members.findIdx? (·.1 == die) != some t.ppos
    | none => false
  let s1 := forEach opens (fun n s => openDieLoss d n die s) s
  let n := (domDies s1 d).length
  let s2 := match domSt s1 d with
    | .inService =>
      if sanOpen s1 && decide (domW s1 d ≤ n) then modDie die (fun x => { x with retired := true }) s1
      else if domW s1 d ≤ n then
        let ex := exposedOf s1 data die
        evt .dreEvt 0 (modDom d (fun x => { x with st := .rebuilding, rdie := die, exposed := ex, total := ex.length, lost := 0,
                                                   lostCw := [], scanned := false }) s1)
      else raiseSrc 263 (evt .dreEvt 3 (modDom d (fun x => { x with st := .offline }) s1))
    | .rebuilding => raiseSrc 263 (evt .dreEvt 3 (modDom d (fun x => { x with st := .offline, exposed := [] }) s1))
    | .offline => s1
  checkSpare (mediaChange s code die (gcLevels (sanTotal s2)))

/-- An operation of a failed die ends with timeout: a PROGRAM or ERASE has failed, and its block goes BAD and RETIRED (R214, R219). -/
def timeoutBlk (die : Nat) (o : Dop) (s : State) : State :=
  if !isWrite o.kind then s
  else
    let s1 := blkDelta die o.block (blkMod die o.block (fun b => { b with st := .retired, bst := .bad }) s)
    modDie die (fun d => if o.kind = .program then { d with progFails := d.progFails + 1 } else { d with eraseFails := d.eraseFails + 1 })
      (onCst (fun c => { c with doubt := if o.kind = .erase then c.doubt.filter fun x => !(x.1 == die && x.2.1 == o.block) else c.doubt }) s1)

/-- A die is failed (R208, R214, R232, R277): nothing more is issued to it, its queued entries fail with timeout, and DRE
acts by R277. With `fch` it is FCH that marks it, which is counted and reported; `code` is the cause logged by R41. -/
def loseDie (fch : Bool) (code die : Nat) (s : State) : State :=
  let x := dieAt s die
  if x.failed || !x.present && !thas s.fch.dies die then s
  else
    let ops := x.queue ++ x.wait
    let s1 := onFch (fun f => { f with dies := tset f.dies die { x with failed := true, queue := [], wait := [] },
                                       diesFailed := f.diesFailed + b2n fch }) s
    let s2 := forEach ops (fun o s => timeoutBlk die o (endRefs die o (dropTokens o s))) s1
    let s3 := if fch then raiseSrc 239 (evt .fchEvt 1 s2) else s2
    let l := s3.fte.prog.filter fun e => e.1 / 2 ^ 27 == die
    let s4 := dieLost code die s3
    forEach ops readToStep5 (placeAgain l s4)

/-- FCH marks a die failed. -/
def failDie (die : Nat) (s : State) : State := loseDie true 0x03 die s

/-! ## The bad-LBA list, R190 -/

/-- LBA mask of a whole IU of a format. -/
def iuMask (fmt : Nat) : Nat := 2 ^ lbasPerIu fmt - 1

/-- A whole IU is set UNC with its source. -/
def setUnc (ns iu src : Nat) (s : State) : State :=
  let inst := ((nsAt s ns).map (·.inst)).getD 0
  appendDelta { kind := .map, ns, key := iu, inst, val := mapUnc }
    (onFte (fun f => { f with uncSrc := tset f.uncSrc (iuKey ns iu) src, bad := f.bad.filter fun b => !(b.ns == ns && b.iu == iu) }) s)

/-- LBAs of an IU go on the list: a whole IU as UNC, a part as a partial record; with none free a loss sets the whole IU
(BAD_OVF, source 204). -/
def markBad (ns iu mask src : Nat) (s : State) : State :=
  match nsAt s ns with
  | none => s
  | some n =>
    let had := (s.fte.bad.find? fun b => b.ns == ns && b.iu == iu).map (·.map)
    let m := mask ||| had.getD 0
    if m &&& iuMask n.fmt = iuMask n.fmt then setUnc ns iu src s
    else if had.isSome then
      onFte (fun f => { f with bad := f.bad.map fun b => if b.ns = ns ∧ b.iu = iu then { b with map := m, src } else b }) s
    else if 4096 ≤ s.fte.bad.length then setUnc ns iu src (raiseSrc 204 (evt .fteEvt 6 s))
    else onFte (fun f => { f with bad := f.bad ++ [{ ns, iu, map := m, src }] }) s

/-- LBAs of an IU leave the list: a partial record loses the bits. -/
def clearBad (ns iu mask : Nat) (s : State) : State :=
  let l := s.fte.bad.map fun b => if b.ns = ns ∧ b.iu = iu then { b with map := b.map - (b.map &&& mask) } else b
  onFte (fun f => { f with bad := l.filter fun b => b.map != 0 }) s

end Sys2Proof.Machine
end

