-- ==== Sys2Proof/Machine/CamBase.lean ====
section
/-! DEFINITION. The Cament packet machinery: request and reply packets (R48, R49), slots of the trough (R59 to R63), the
request checks (R64), replies by path (R55, R67, R68) and long operations (R57, R58). -/

namespace Sys2Proof.Machine

/-! ## Window places, R46 -/

def ringBase (p : Nat) : Nat := 0x01000000 + 0x00200000 * p
def reqAddr (p i : Nat) : Nat := ringBase p + 64 * i
def rplAddr (p i : Nat) : Nat := ringBase p + 0x00100000 + 32 * i
def slotAddr (k : Nat) : Nat := 0x02000000 + 0x1000 * k
def sideSlot : Nat := 16128
def slotCount : Nat := 16384

/-- Ring size in entries. -/
def Ring.n (r : Ring) : Nat := 2 ^ r.size

def memWord (s : State) (a : Nat) : Word := BitVec.ofNat 32 (leNat (mread 0 s.cam.mem a 4))
def memStore (a : Nat) (bs : List Byte) (s : State) : State := onCam (fun c => { c with mem := mwrite 0 c.mem a bs }) s
/-- Replies to the requests of a lost path are discarded, R51, R69. -/
def muteReqs (p : CamReq → Bool) (c : Cam) : Cam :=
  let off (r : CamReq) : CamReq := if p r then { r with mute := true, tag := none } else r
  { c with queue := c.queue.map off, gate := c.gate.map fun g => { g with req := off g.req } }

def setRing (p : Nat) (r : Ring) (s : State) : State := onCam (fun c => { c with rings := tset c.rings p r }) s
def modRing (p : Nat) (f : Ring → Ring) (s : State) : State := onCam (fun c => { c with rings := tupd c.rings p {} f }) s

/-! ## Request fields, Tables 3-2, 3-3, 3-9 -/

def rqW (r : CamReq) (i : Nat) : Word := r.words.getD i 0
def rqOp (r : CamReq) : Nat := fld (rqW r 0) 0 16
def rqLen (r : CamReq) : Nat := fld (rqW r 0) 16 8
def rqNotify (r : CamReq) : Bool := bitOf (rqW r 0) 24
def rqFence (r : CamReq) : Bool := bitOf (rqW r 0) 25
def rqTrough (r : CamReq) : Bool := bitOf (rqW r 0) 26
def rqNoIrq (r : CamReq) : Bool := bitOf (rqW r 0) 27
def rqTag (r : CamReq) : Nat := fld (rqW r 1) 0 16
def rqTgt (r : CamReq) : Nat := fld (rqW r 1) 16 16
def rqFirst (r : CamReq) : Nat := fld (rqW r 2) 0 14
def rqCount (r : CamReq) : Nat := fld (rqW r 2) 16 14 + 1
def dscBytes (r : CamReq) : Nat := fld (rqW r 3) 0 27

/-! ## Opcodes: length, trough direction, paths, owner lock and targets, as the chapters' opcode tables give them -/

/-- An opcode's entry: trough 0 none, 1 inbound, 2 outbound; paths 0 all, 1 BAR2 and sideband, 2 sideband only. -/
structure OpDef where
  len : Nat
  trough : Nat := 0
  paths : Nat := 0
  lock : Bool := false
  lo : Nat := 0xFFFF
  hi : Nat := 0xFFFF
deriving DecidableEq, Repr

/-- The opcodes of groups 0x01 to 0x04. -/
def opDefA : Nat → Option OpDef
  | 0x0100 => some { len := 1 }
  | 0x0101 => some { len := 1 }
  | 0x0102 => some { len := 2 }
  | 0x0103 => some { len := 2 }
  | 0x0104 => some { len := 2 }
  | 0x0105 => some { len := 2 }
  | 0x0106 => some { len := 2, trough := 1, paths := 1 }
  | 0x0110 => some { len := 1 }
  | 0x0111 => some { len := 2 }
  | 0x0120 => some { len := 2, paths := 2 }
  | 0x0121 => some { len := 2, paths := 2 }
  | 0x0200 => some { len := 1, lo := 0, hi := 1 }
  | 0x0201 => some { len := 2, trough := 1, lock := true, lo := 0, hi := 1 }
  | 0x0202 => some { len := 1, lock := true, lo := 0, hi := 1 }
  | 0x0300 => some { len := 1 }
  | 0x0301 => some { len := 1, lo := 0, hi := 3 }
  | 0x0302 => some { len := 2, lo := 0, hi := 511 }
  | 0x0303 => some { len := 1, lo := 1, hi := 1024 }
  | 0x0304 => some { len := 2, lock := true, lo := 0, hi := 3 }
  | 0x0305 => some { len := 2, trough := 2, lo := 1, hi := 1024 }
  | 0x0380 => some { len := 1 }
  | 0x0381 => some { len := 2, trough := 2 }
  | 0x0382 => some { len := 2, lo := 0, hi := 3 }
  | 0x0400 => some { len := 1 }
  | 0x0401 => some { len := 1, lo := 0, hi := 31 }
  | 0x0402 => some { len := 1, lo := 0, hi := 511 }
  | 0x0403 => some { len := 2, lock := true, lo := 0, hi := 31 }
  | 0x0404 => some { len := 2, trough := 2, lo := 0, hi := 511 }
  | 0x0405 => some { len := 2, lo := 0, hi := 511 }
  | 0x0480 => some { len := 1 }
  | 0x0481 => some { len := 2, lo := 0, hi := 511 }
  | 0x0482 => some { len := 2, trough := 2, lo := 0, hi := 511 }
  | 0x0483 => some { len := 2, lock := true, lo := 0, hi := 511 }
  | 0x0484 => some { len := 2, lock := true, lo := 0, hi := 511 }
  | 0x0485 => some { len := 3, lo := 0, hi := 511 }
  | _ => none

/-- The opcodes of groups 0x05 to 0x09. -/
def opDefB : Nat → Option OpDef
  | 0x0500 => some { len := 1 }
  | 0x0501 => some { len := 1, lo := 0, hi := 3 }
  | 0x0502 => some { len := 2 }
  | 0x0503 => some { len := 2, lock := true, lo := 0, hi := 511 }
  | 0x0504 => some { len := 2, lo := 0, hi := 3 }
  | 0x0505 => some { len := 2, lock := true, lo := 1, hi := 1024 }
  | 0x0506 => some { len := 1, lo := 1, hi := 1024 }
  | 0x0600 => some { len := 1 }
  | 0x0601 => some { len := 3, trough := 2 }
  | 0x0602 => some { len := 1 }
  | 0x0603 => some { len := 1, lock := true, lo := 0, hi := 1 }
  | 0x0700 => some { len := 1 }
  | 0x0701 => some { len := 1, lo := 0, hi := 3 }
  | 0x0702 => some { len := 1, lo := 0, hi := 63 }
  | 0x0710 => some { len := 3, lock := true, lo := 12, hi := 15 }
  | 0x0711 => some { len := 1, lo := 0, hi := 15 }
  | 0x0800 => some { len := 1 }
  | 0x0801 => some { len := 1, lo := 0, hi := 383 }
  | 0x0802 => some { len := 1, lo := 0, hi := 383 }
  | 0x0803 => some { len := 2, trough := 2 }
  | 0x0804 => some { len := 2, lo := 0, hi := 383 }
  | 0x0805 => some { len := 1 }
  | 0x0880 => some { len := 1 }
  | 0x0881 => some { len := 1, lo := 0, hi := 4 }
  | 0x0882 => some { len := 2, trough := 2 }
  | 0x0883 => some { len := 1, lo := 0, hi := 6 }
  | 0x0900 => some { len := 1 }
  | 0x0901 => some { len := 2 }
  | 0x0902 => some { len := 1 }
  | 0x0903 => some { len := 3, lo := 0, hi := 3 }
  | 0x0904 => some { len := 1, lock := true }
  | _ => none

/-- The opcodes of groups 0x0A to 0x0D. -/
def opDefC : Nat → Option OpDef
  | 0x0A00 => some { len := 1 }
  | 0x0A01 => some { len := 3, trough := 1, lock := true }
  | 0x0A0A => some { len := 2, lock := true, lo := 0, hi := 2 }
  | 0x0A0B => some { len := 1, lock := true }
  | 0x0A0C => some { len := 1, lo := 1, hi := 2 }
  | 0x0A0D => some { len := 3, trough := 2 }
  | 0x0B00 => some { len := 1 }
  | 0x0B01 => some { len := 1 }
  | 0x0B02 => some { len := 2, trough := 1, paths := 1 }
  | 0x0B03 => some { len := 2, trough := 1, paths := 1 }
  | 0x0B04 => some { len := 2, trough := 1, paths := 1 }
  | 0x0B05 => some { len := 2, trough := 1, paths := 1 }
  | 0x0C00 => some { len := 1 }
  | 0x0C01 => some { len := 1, lo := 0, hi := 0xFFFF }
  | 0x0C02 => some { len := 3, trough := 2, lo := 0, hi := 1 }
  | 0x0D00 => some { len := 1 }
  | 0x0D01 => some { len := 3, lo := 0, hi := 1023 }
  | 0x0D02 => some { len := 1, lo := 0, hi := 1023 }
  | 0x0D03 => some { len := 2, lo := 0, hi := 0xFFFF }
  | 0x0D04 => some { len := 2, trough := 2, lo := 0, hi := 1023 }
  | _ => none

/-- The entry of an opcode; none: not defined (R70). -/
def opDef (op : Nat) : Option OpDef :=
  if op < 0x0500 then opDefA op else if op < 0x0A00 then opDefB op else opDefC op

/-! ## Replies -/

/-- The eight words of a reply, Table 3-4. -/
def replyWords (r : CamReq) (status : Nat) (detail : List Word) (final : Bool) : List Word :=
  [pack [(24, 1, b2n final), (16, 8, min 6 detail.length), (0, 16, status)], pack [(16, 16, rqOp r), (0, 16, rqTag r)]] ++
    (List.range 6).map fun i => detail.getD i 0

/-- A reply on a ring, R55: written at RPL_NEXT with OWN = 0. With IRQ_EN the message follows, unless every reply since the last message
had NO_IRQ. A disabled ring discards it. -/
def ringReply (p : Nat) (ws : List Word) (noIrq : Bool) (s : State) : State :=
  let r := ringAt s p
  if !r.en then s
  else
    let s1 := memStore (rplAddr p r.rplNext) (wordBytes ws) s
    let due := r.owed || !noIrq
    let s2 := setRing p { r with rplNext := (r.rplNext + 1) % r.n, reserved := r.reserved - 1, owed := due && !r.irqEn } s1
    let s3 := emit (.reply p ws []) s2
    if r.irqEn && due then emit (.ringMsix (mgmtPf s) p r.vec) s3 else s3

/-- Enterprise number of R457, most significant byte first, after the message type. -/
def camHeader : List Nat := [0x7F, 0x00, 0x00, 0xD8, 0xA7]

/-- A reply by the path of its request: a ring; a C0h command, which completes and keeps log page C0h (R67); the sideband
(R68). In HOLDUP no reply is written, and none of a request whose path was lost (Table 3-13). -/
def replyTo (r : CamReq) (status : Nat) (detail : List Word) (payload : List Byte) (final : Bool) (s : State) : State :=
  if s.sys.mode = .holdup ∨ r.mute then s
  else
    let ws := replyWords r status detail final
    if r.src < 4 then ringReply r.src ws (rqNoIrq r) s
    else match r.tag with
      | some t => match tget s.nvq.tags t with
        | some x =>
          if final then s
          else postDnr t .success false (ws.getD 0 0).toNat (ws.getD 2 0).toNat
            (modCtrl x.ctrl (fun c => { c with lastReply := ws }) (emit (.reply r.src ws []) s))
        | none => s
      | none => emit (.sideband r.bus (camHeader ++ (wordBytes ws ++ payload).map (·.toNat))) (emit (.reply r.src ws payload) s)

/-! ## Slots -/

def slotFlag (s : State) (k : Nat) : Word := if k < sideSlot && !s.cam.dramTrough then 0 else tgetD s.cam.flags k 0
def setFlag (k : Nat) (w : Word) (s : State) : State :=
  onCam (fun c => { c with flags := if w = 0 then terase c.flags k else tset c.flags k w }) s

/-- A slot is usable on a path, R47, R68. -/
def slotUsable (s : State) (src k : Nat) : Bool :=
  decide (k < slotCount) && (decide (sideSlot ≤ k) || (s.cam.dramTrough && src != 8))

/-- LEN of a slot's flag word. -/
def flagLen (w : Word) : Nat := min 4096 (fld w 0 13)

/-- The checks of R62 in order: a status and its detail. -/
def slotCheck (s : State) (r : CamReq) (dir : Nat) : Option (Nat × List Word) :=
  let ks := upFrom (rqFirst r) (rqCount r)
  match ks.find? fun k => !slotUsable s r.src k with
  | some k => some (0x000A, [lo32 k])
  | none =>
    match ks.find? fun k => !bitOf (slotFlag s k) 31 with
    | some k => some (0x0008, [lo32 k])
    | none =>
      match ks.find? fun k => bitOf (slotFlag s k) 30 with
      | some k => some (0x0009, [lo32 k])
      | none =>
        let lens := ks.map fun k => fld (slotFlag s k) 0 13
        let sum := lens.foldl (· + ·) 0
        if dir = 1 then
          if sum = dscBytes r && (lens.dropLast.all (· == 4096)) && lens.all (fun x => decide (x ≤ 4096)) then none
          else some (0x000B, [lo32 sum])
        else if dscBytes r ≤ 4096 * rqCount r then none else some (0x000B, [lo32 (4096 * rqCount r)])

/-- HELD in every named slot. -/
def holdSlots (first n : Nat) (s : State) : State :=
  forEach (upFrom first n) (fun k s => setFlag k (slotFlag s k ||| bitW 30) s) s

/-- Return slots, R63: OWN and HELD 0; an outbound request writes LEN of each slot from the bytes it filled. -/
def returnSlots (first n : Nat) (written : Option Nat) (s : State) : State :=
  if s.sys.mode = .holdup then s
  else forN n (fun i s =>
    let w := slotFlag s (first + i)
    let len := match written with
      | some b => min 4096 (b - 4096 * i)
      | none => fld w 0 13
    setFlag (first + i) (BitVec.ofNat 32 len) s) s

/-- Outbound data fills the slots in order. -/
def fillSlots (first : Nat) (data : List Byte) (s : State) : State :=
  if data.isEmpty then s else memStore (slotAddr first) data s

/-- Inbound data of a request. -/
def slotData (s : State) (r : CamReq) : List Byte := mread 0 s.cam.mem (slotAddr (rqFirst r)) (dscBytes r)

/-! ## Long operations -/

/-- The handle R57 assigns: the lowest free one, else the one completed longest ago, else none. -/
def pickHandle (s : State) : Option Nat :=
  match (List.range 64).find? fun h => !thas s.cam.ops h with
  | some h => some h
  | none =>
    ((s.cam.ops.filter fun e => e.2.st == .complete).foldl (fun a e => match a with
      | none => some e
      | some b => if e.2.done < b.2.done then some e else some b) none).map (·.1)

/-- The request a long operation came from, as far as its FINAL reply needs it. -/
def opReq (o : LongOp) : CamReq :=
  { src := o.src, words := [pack [(27, 1, b2n o.noIrq), (0, 16, o.opcode)], pack [(16, 16, o.target), (0, 16, o.tag)]] }

/-- The running long operations of a request's source, group and target, R56: requests of one source that name the same group and target
complete in arrival order. -/
def earlier (s : State) (r : CamReq) : List Nat :=
  (s.cam.ops.filter fun e => e.2.st == .running && e.2.src == r.src && e.2.opcode / 256 == rqOp r / 256 && e.2.target == rqTgt r).map (·.1)

/-- The answer of a request that is no long operation: at once, or once the earlier operations of `earlier` have their result (R56). -/
def answerReq (r : CamReq) (status : Nat) (detail : List Word) (payload : List Byte) (s : State) : State :=
  match earlier s r with
  | [] => replyTo r status detail payload false s
  | h :: hs => onCam (fun c => { c with gate := c.gate ++ [{ req := r, status, detail, payload, behind := h :: hs }] }) s

/-- The long operation under a handle has its result (R57): its slots are returned (R63), its result is kept, and with NOTIFY the FINAL
reply is written. -/
def completeOp (h status : Nat) (detail : List Word) (data : List Byte) (o : LongOp) (s : State) : State :=
  let s1 := match o.slots with
    | some (f, n) => returnSlots f n (if o.outbound then some data.length else none) (fillSlots f data s)
    | none => s
  let o1 := { o with st := .complete, status, detail, done := s.cam.opSeq, written := data.length, ended := none }
  let s2 := onCam (fun c => { c with opSeq := c.opSeq + 1, ops := tset c.ops h o1 }) s1
  if o.notify && !o.discard then replyTo (opReq o) status detail [] true s2 else s2

/-- The answers that waited only for the operation under a handle are written, in arrival order (R56). -/
def openGate (h : Nat) (s : State) : State :=
  let g := s.cam.gate.map fun x => { x with behind := x.behind.erase h }
  forEach (g.filter fun x => x.behind.isEmpty) (fun x s => replyTo x.req x.status x.detail x.payload false s)
    (onCam (fun c => { c with gate := g.filter fun x => !x.behind.isEmpty, ops := tmap c.ops fun _ o => { o with behind := o.behind.erase h } }) s)

/-- The work of a long operation ends: it has its result at once, or after the earlier operations it completes behind (R56); `fuel` bounds
the operations that then complete one after another. -/
def endOpN : Nat → Nat → Nat → List Word → List Byte → State → State
  | 0, _, _, _, _, s => s
  | fuel + 1, h, status, detail, data, s => match tget s.cam.ops h with
    | none => s
    | some o =>
      if o.st = .complete ∨ o.ended.isSome then s
      else if o.behind.isEmpty then
        let s1 := openGate h (completeOp h status detail data o s)
        forEach (s1.cam.ops.filter fun e => e.2.st == .running && e.2.behind.isEmpty) (fun e s => match e.2.ended with
          | some (st, d, b) => endOpN fuel e.1 st d b (onCam (fun c => { c with ops := tset c.ops e.1 { e.2 with ended := none } }) s)
          | none => s) s1
      else onCam (fun c => { c with ops := tset c.ops h { o with ended := some (status, detail, data) } }) s

/-- A long operation ends, R56, R57. -/
def endOp (h status : Nat) (detail : List Word) (data : List Byte) (s : State) : State := endOpN 65 h status detail data s

/-- The operation a state field names, if it is still the one running. -/
def endOpt (h : Option Nat) (status : Nat) (detail : List Word) (s : State) : State :=
  match h with
  | some k => endOp k status detail [] s
  | none => s

/-- End every running long operation of an opcode with a status. -/
def endOps (p : LongOp → Bool) (status : Nat) (detail : List Word) (s : State) : State :=
  forEach (tkeys s.cam.ops) (fun h s => match tget s.cam.ops h with
    | some o => if o.st = .running && p o then endOp h status detail [] s else s
    | none => s) s

/-! ## Checks 1 to 7 of Table 3-11 -/

/-- Whether a group is permitted in the mode, Table 2-3; FAULT_INJECT only in FACTORY; boot held with no verified image serves the
system and the wellhead and update groups (R429). -/
def groupOk (s : State) (op : Nat) : Bool :=
  let g := op / 256
  (op != 0x0804 || s.sys.mode == .factory) && match s.sys.mode with
    | .boot => g == 1 || g == 0x0A || (s.sys.holdWhy != 6 && (g == 2 || g == 0x0B || g == 0x0C))
    | .sanitize => g != 3 && g != 5
    | .holdup | .dormant | .standpipe => false
    | .operational | .degraded | .writeProtected | .offline | .factory => true

/-- Status 0x0006 at a word, with the lowest offending bit. -/
def badField (word : Nat) (bits : Word) : Nat × List Word :=
  (0x0006, [pack [(8, 5, ((List.range 32).find? fun i => bitOf bits i).getD 0), (0, 4, word)]])

/-- The running long operation of a source that holds a TAG, R58. -/
def tagHolder (s : State) (src tag : Nat) : Option Nat :=
  (s.cam.ops.find? fun e => e.2.st == .running && e.2.src == src && e.2.tag == tag).map (·.1)

/-- Checks 5 to 7. -/
def check57 (s : State) (r : CamReq) (d : OpDef) : Option (Nat × List Word) :=
  if !groupOk s (rqOp r) then some (0x0010, [modeSts s])
  else if d.lock && s.sec.lock then some (0x0011, [])
  else match tagHolder s r.src (rqTag r) with
    | some h => some (0x0014, [lo32 h])
    | none => none

/-- Checks 1 to 4, made when a request arrives: a status and its detail where one fails. A packet with an uncorrectable word is refused with 0x0006
(Table 14-3). -/
def check14 (r : CamReq) : Option (Nat × List Word) :=
  let d := opDef (rqOp r)
  let need := max ((d.map (·.len)).getD 1) (if rqTrough r then 2 else 1)
  let c0h := 4 ≤ r.src && decide (r.src < 8)
  if r.torn then some (0x0006, [0])
  else if rqLen r < need ∨ 8 < rqLen r ∨ (c0h ∧ 4 < rqLen r) then some (0x0005, [lo32 need])
  else if rqW r 0 &&& 0x70000000 ≠ 0 then some (badField 0 (rqW r 0 &&& 0x70000000))
  else match d with
    | none => some (0x0004, [])
    | some d =>
      if (c0h && (rqTrough r || rqNotify r || d.paths != 0)) || (r.src == 8 && rqNotify r) || (d.paths == 2 && r.src != 8) then
        some (0x0015, [])
      else none

/-! ## Carrying out a request -/

/-- What a request answers: its status, detail and outbound data, and for a long operation whether it runs on. -/
structure Ans where
  status : Nat := 0
  detail : List Word := []
  data : List Byte := []
deriving DecidableEq, Repr

/-- The waiting requests of a source's queue. -/
def srcQueue (s : State) (src : Nat) : List CamReq := if src = 8 then s.cam.side else s.cam.queue

/-- A request of the source has no final result yet: a running long operation, or an answer that waits (R56). -/
def unfinished (s : State) (src : Nat) : Bool :=
  s.cam.ops.any (fun e => e.2.st == .running && e.2.src == src) || s.cam.gate.any fun g => g.req.src == src

/-- The waiting request that a source starts next, R56: the oldest of the source; with FENCE only once every earlier one has its final
result. -/
def nextReq (s : State) (src : Nat) : Option CamReq :=
  match (srcQueue s src).find? fun r => r.src == src with
  | none => none
  | some r => if rqFence r && unfinished s src then none else some r

/-- Remove the request a source starts. -/
def dropReq (src : Nat) : List CamReq → List CamReq
  | [] => []
  | r :: l => if r.src = src then l else r :: dropReq src l

/-- Release the second reply entry a NOTIFY request reserved (R54). -/
def dropSecond (r : CamReq) (s : State) : State :=
  if r.src < 4 ∧ rqNotify r ∧ !r.mute then modRing r.src (fun x => { x with reserved := x.reserved - 1 }) s else s

/-- The oldest waiting request of a source leaves its queue. -/
def popReq (src : Nat) (s : State) : State :=
  onCam (fun c => if src = 8 then { c with side := dropReq src c.side } else { c with queue := dropReq src c.queue }) s

/-- Requests of a source that fail a check of 1 to 4 are answered as their turn comes (R56, R64): as many as stand at the front. -/
def refuseFront (src : Nat) : Nat → State → State
  | 0, s => s
  | n + 1, s => match (srcQueue s src).find? fun r => r.src == src with
    | none => s
    | some r => match check14 r with
      | some x => refuseFront src n (answerReq r x.1 x.2 [] (dropSecond r (popReq src s)))
      | none => s

/-- A request has its answer: it is written in its place, and those behind it that fail a check of 1 to 4 follow. -/
def finish (r : CamReq) (status : Nat) (detail : List Word) (payload : List Byte) (s : State) : State :=
  let s1 := answerReq r status detail payload (dropSecond r s)
  refuseFront r.src (srcQueue s1 r.src).length s1

/-- Words beyond LEN are ignored, R48. -/
def trimReq (r : CamReq) : CamReq := { r with words := r.words.take (2 * rqLen r) }

/-- The reason of Table 17-6 that a refusal of a profile or image opcode reports. -/
def refusalCode (op status : Nat) : Option Nat :=
  if op ≠ 0x0201 ∧ op ≠ 0x0A01 ∧ op ≠ 0x0A0A then none
  else if status = 0x0010 then some 1
  else if status = 0x0011 then some 5
  else
    let c := status - (if op = 0x0201 then 0x0210 else 0x0A00)
    if 2 ≤ c ∧ c ≤ 9 ∧ status < 0x0A0A then some c else none

/-- UPD_STS.REASON takes the last refusal of Table 17-6. -/
def noteRefusal (op status : Nat) (s : State) : State :=
  match refusalCode op status with
  | some c => { s with upd := { s.upd with reason := c } }
  | none => s

/-- Carry out the next request of a source if its opcode is `op`: checks 5 to 11 of Table 3-11 (`pre` is check 9), then the
effect `act`, then the reply (R57, R62, R63). `long` says whether it is a long operation; `act` is given its handle. -/
def serve (src op : Nat) (long : CamReq → Bool) (pre : State → CamReq → Option (Nat × List Word))
    (act : CamReq → Nat → State → State × Ans) (s : State) : State :=
  match nextReq s src, opDef op with
  | some r0, some d =>
    if rqOp r0 ≠ op ∨ !seqUp s 0 ∨ !s.sys.mode.serving && s.sys.mode ≠ .boot then s
    else
      let r := trimReq r0
      let s0 := popReq src s
      let refuse (x : Nat × List Word) : State := finish r x.1 x.2 [] (noteRefusal op x.1 s0)
      match check57 s0 r d with
      | some x => refuse x
      | none =>
        if rqTgt r < d.lo ∨ d.hi < rqTgt r then refuse (0x0007, [lo32 d.hi])
        else if rqTrough r != (d.trough != 0) then refuse (badField 0 (bitW 26))
        else if rqTrough r ∧ rqW r 2 &&& 0xC000C000 ≠ 0 then refuse (badField 2 (rqW r 2 &&& 0xC000C000))
        else if rqTrough r ∧ rqW r 3 &&& 0xF8000000 ≠ 0 then refuse (badField 3 (rqW r 3 &&& 0xF8000000))
        else match pre s0 r with
          | some x => refuse x
          | none =>
            match (if rqTrough r then slotCheck s0 r d.trough else none) with
            | some x => refuse x
            | none =>
              let s1 := if rqTrough r then holdSlots (rqFirst r) (rqCount r) s0 else s0
              if long r then
                match pickHandle s0 with
                | none => refuse (0x0013, [])
                | some h =>
                  let o : LongOp :=
                    { src, tag := rqTag r, opcode := op, target := rqTgt r, notify := rqNotify r, noIrq := rqNoIrq r,
                      fence := rqFence r, outbound := d.trough == 2, rsv := rqNotify r, discard := r.mute, behind := earlier s0 r,
                      slots := if rqTrough r then some (rqFirst r, rqCount r) else none }
                  let s2 := onCam (fun c => { c with ops := tset c.ops h o }) s1
                  let est := freeBelow s2 0x10000
                  let s3 := replyTo r 0x0001 [pack [(16, 16, est), (0, 6, h)]] [] false (drawn s2)
                  (act r h (refuseFront src (srcQueue s3 src).length s3)).1
              else
                let (s2, a) := act r 0 s1
                let s3 := if rqTrough r then
                    returnSlots (rqFirst r) (rqCount r) (if d.trough = 2 then some a.data.length else none)
                      (fillSlots (rqFirst r) (if d.trough = 2 then a.data else []) s2)
                  else s2
                finish r a.status a.detail (if rqTrough r then [] else a.data) s3
  | _, _ => s

/-- A request that answers at once from the state, with no parameter to check. -/
def serveRead (src op : Nat) (f : State → CamReq → Nat × List Word) (s : State) : State :=
  serve src op (fun _ => false) (fun _ _ => none) (fun r _ s => let a := f s r; (s, { status := a.1, detail := a.2 })) s

/-- An outbound list of fixed-size records, as much as BYTES and the slots offer: records written and omitted. -/
def listOut (r : CamReq) (size : Nat) (recs : List (List Word)) : Nat × Nat × List Byte :=
  let k := min recs.length (dscBytes r / size)
  (k, recs.length - k, (recs.take k).flatMap wordBytes)

/-- Check 9 for BYTES: a non-zero multiple. -/
def bytesOk (r : CamReq) (unit : Nat) : Option (Nat × List Word) :=
  if dscBytes r = 0 ∨ dscBytes r % unit ≠ 0 then some (badField 3 1) else none

end Sys2Proof.Machine
end

