-- ==== Sys2Proof/Machine/MapCache.lean ====
section
/-! DEFINITION. The map cache (R175 to R179) and the reads of map pages (R163, R164): its size, the clock method, pages wanted by commands and
by engine steps (R154). -/

namespace Sys2Proof.Machine

/-- Host work and background work of the modes in which engines run. -/
def engines (s : State) : Bool := s.sys.mode.serving

/-! ## Size, R177, R178 -/

/-- Map pages of a namespace. -/
def nsPages (n : Ns) : Nat := ceilDiv (ceilDiv n.size (lbasPerIu n.fmt)) iusPerPage

/-- The directory of the namespaces that exist: 8 bytes a map page. -/
def dirBytes (s : State) : Nat := (tvals s.fte.nss).foldl (fun a n => if n.live then a + 8 * nsPages n else a) 0

/-- The directory at its largest. -/
def dirMost : Nat := 586 * 2 ^ 20

/-- DRAM that Table 8-4 leaves to the map cache beside a directory of `dir` bytes: the fitted size less the inline ECC region (one part in 32), the
trough, the spillway, the twin inbound window where there is a PR link, the directory, and the block table of every die of the profile. -/
def cacheBytes (s : State) (dir : Nat) : Nat :=
  s.drm.size * 2 ^ 30 * 31 / 32 - (65 * 2 ^ 20 + (if s.hpc.role = 0 then 0 else 2 ^ 32) + dir + 16 * s.prof.blocksPerDie * s.prof.dies.length)

/-- Map pages the cache holds; the staging buffer of R415 and the sleep images of R375 are borrowed from it while they are in use. -/
def cachePages (s : State) : Nat :=
  (cacheBytes s (dirBytes s) - if s.upd.owner.isSome then 24 * 2 ^ 20 else 0) / 4096 -
    (if s.sys.mode = .standpipe ∨ s.sys.modeReq = some .standpipe then Config.sleepPages else 0)

/-! ## The clock method, R179 -/

/-- The hand passes pages that were referenced and takes their reference; the first page without one is evicted. `c` is the ring from the hand
on, `r` the pages referenced. -/
def clockEvict (c r : List Nat) : List Nat × List Nat :=
  let run := c.takeWhile r.contains
  if run.length = c.length then (c.tail, []) else (c.drop (run.length + 1) ++ run, r.filter fun k => !run.contains k)

/-- Evict pages until `limit` remain; `fuel` bounds their number. -/
def evictTo (limit : Nat) : Nat → List Nat → List Nat → List Nat × List Nat
  | 0, c, r => (c, r)
  | fuel + 1, c, r => if c.length ≤ limit then (c, r) else
    let x := clockEvict c r
    evictTo limit fuel x.1 x.2

/-- Evict pages until a number remain. -/
def trimCache (limit : Nat) (s : State) : State :=
  let x := evictTo limit s.fte.cached.length s.fte.cached s.fte.refd
  onFte (fun f => { f with cached := x.1, refd := x.2 }) s

/-- Evict what the cache no longer has room for. -/
def fitCache (s : State) : State := trimCache (cachePages s) s

def pageCached (s : State) (ns page : Nat) : Bool := s.fte.cached.contains (pageKey ns page)

/-- A page enters the cache behind the hand, in the place of the page evicted for it. -/
def cachePage (ns page : Nat) (s : State) : State :=
  if pageCached s ns page then s
  else if cachePages s = 0 then s
  else onFte (fun f => { f with cached := f.cached ++ [pageKey ns page] }) (trimCache (cachePages s - 1) s)

/-- A page leaves the cache. -/
def uncache (ns page : Nat) (s : State) : State :=
  onFte (fun f => { f with cached := f.cached.filter (· != pageKey ns page), refd := f.refd.filter (· != pageKey ns page) }) s

/-- A map page is wanted: cached already, and then referenced, or created by R176 without a read, and then the page is cached; else none. -/
def wantPage (ns page : Nat) (s : State) : Bool × State :=
  if pageCached s ns page then
    (true, onFte (fun f => { f with refd := if f.refd.contains (pageKey ns page) then f.refd else f.refd ++ [pageKey ns page] }) s)
  else if (tget s.fte.dir (pageKey ns page)).isNone then (true, cachePage ns page s)
  else (false, s)

/-! ## Reads of map pages, R163, R164 -/

/-- Either limit of R18 is reached: write data, or parity accumulators. -/
def limitReached (s : State) : Bool := decide (writeLimit s ≤ wellBytes s) || decide (lim19 s 12 ≤ accBytes s)

/-- Class of a command's contexts in R164's order: commands of the partner-facing link and admin commands first. -/
def cmdClass (s : State) (t : Tag) : Nat := if isPface s (linkOf s (portOf t.ctrl)) || t.qid == 0 then 1 else 3

/-- Class of an engine step context. -/
def engClass (s : State) (e : EngCtx) : Nat := if e.frees && limitReached s then 2 else 4

/-- Order of R164 among (class, time of the fault). -/
def before (a b : Nat × Nat) : Bool := decide (a.1 < b.1) || (a.1 == b.1 && decide (a.2 < b.2))

/-- The first of the contexts that wait on a map page, by class and time; a page that none waits on, a prefetch, comes after all. -/
def pageRank (s : State) (p : Nat × Nat) : Nat × Nat :=
  let cs := (s.nvq.tags.filter fun e => e.2.lkp.st == .mpWait && e.2.lkp.page == pageKey p.1 p.2).map fun e => (cmdClass s e.2, e.2.lkp.since)
  let es := (s.xlt.eng.filter fun e => e.2.st == .mpWait && e.2.ns == p.1 && e.2.iu / iusPerPage == p.2).map fun e => (engClass s e.2, e.2.since)
  (cs ++ es).foldl (fun a x => if before x a then x else a) (5, 0)

/-- The waiting page read that R164 starts first. -/
def firstPage (s : State) : Option (Nat × Nat) :=
  s.xlt.waits.foldl (fun a p => match a with
    | none => some p
    | some b => if before (pageRank s p) (pageRank s b) then some p else some b) none

/-- Start the reads of waiting map pages while fewer than 1,024 are outstanding; `fuel` bounds their number. -/
def startReadsN : Nat → State → State
  | 0, s => s
  | n + 1, s =>
    if 1024 ≤ s.xlt.reads.length then s
    else match firstPage s with
      | none => s
      | some p =>
        let s1 := onXlt (fun x => { x with reads := x.reads ++ [p], waits := x.waits.erase p }) s
        startReadsN n (match tget s.fte.dir (pageKey p.1 p.2) with
          | some a => readCw a (.mapPage p.1 p.2) s1
          | none => s1)

def startMapReads (s : State) : State := startReadsN s.xlt.waits.length s

/-- Ask for a map page's read; a page already asked for is joined. -/
def askMapPage (ns page : Nat) (s : State) : State :=
  if s.xlt.reads.contains (ns, page) || s.xlt.waits.contains (ns, page) then s
  else startMapReads (onXlt (fun x => { x with waits := x.waits ++ [(ns, page)] }) s)

/-- A lookup in the last 64 entries of a page prefetches the next page of the namespace, R179. -/
def prefetch (ns iu : Nat) (s : State) : State :=
  let page := iu / iusPerPage + 1
  if iu % iusPerPage < iusPerPage - 64 || pageCached s ns page || (tget s.fte.dir (pageKey ns page)).isNone then s
  else askMapPage ns page s

/-! ## Engine steps, R154 -/

/-- Whether an engine context for a step's lookup of an IU exists or waits to start. -/
def engHas (s : State) (e : EngCtx) : Bool :=
  let same (x : EngCtx) : Bool := x.ns == e.ns && x.iu == e.iu && x.step == e.step
  (s.xlt.eng.any fun x => same x.2) || s.xlt.engWait.any same

/-- An engine step that reads the entry of an IU reserves a save slot; with none free it waits to start: ENG_FULL, source 197. Where the map page is
there the step ends and gives the slot back; else it takes an MP fault. Answers whether the entry can be read now. -/
def engRun (e : EngCtx) (s : State) : Bool × State :=
  if engHas s e then (false, s)
  else match (List.range 1024).find? fun i => !thas s.xlt.eng i with
    | none => (false, raiseSrc 197 (evt .xltEvt 5 (onXlt (fun x => { x with engWait := x.engWait ++ [e] }) s)))
    | some i =>
      let (ok, s1) := wantPage e.ns (e.iu / iusPerPage) s
      if ok then (true, prefetch e.ns e.iu s1)
      else (false, askMapPage e.ns (e.iu / iusPerPage) (onXlt (fun x =>
        { x with eng := tset x.eng i { e with st := .mpWait, since := s.pwr.tb }, cntMp := (x.cntMp + 1) % 2 ^ 32 }) s1))

/-- A list of engine steps of one engine operation, in order; whether every entry can be read now. -/
def engAll (es : List EngCtx) (s : State) : Bool × State :=
  es.foldl (fun a e => let x := engRun e a.2; (a.1 && x.1, x.2)) (true, s)

/-- An engine step's slot is free again: the step that has waited longest to start takes one. -/
def engFreed (i : Nat) (s : State) : State :=
  let s1 := onXlt (fun x => { x with eng := terase x.eng i }) s
  match s1.xlt.engWait with
  | [] => s1
  | e :: l => (engRun e (onXlt (fun x => { x with engWait := l }) s1)).2

end Sys2Proof.Machine
end

