-- ==== Sys2Proof/Machine/Fte.lean ====
section
/-! DEFINITION. Flash translation events (R172 to R204) and the flash translation opcodes of Table 8-17. -/

namespace Sys2Proof.Machine

/-! ## Commits -/

/-- Remove a live record that R185 drops: its data is discarded. -/
def dropRec (r : WellRec) (s : State) : State :=
  onFte (fun f => { f with idx := f.idx.filter fun x => !(x.live && x.ns == r.ns && x.iu == r.iu && x.ver == r.ver) }) s

/-- A record's delta commits: it is kept as a retained record and its well space is released. -/
def keepRec (r : WellRec) (s : State) : State :=
  onFte (fun f => { f with idx := f.idx.map fun x =>
    if x.live && x.ns == r.ns && x.iu == r.iu && x.ver == r.ver then { x with live := false, pos := none, body := { data := [] } }
    else x }) s

/-- Commit the change of a record whose program has passed at `addr`, by R185: none in HOLDUP (R302); dropped where a newer
version is held; waiting while the log is full (R180) or no retained record is free. -/
def commitRec (r : WellRec) (addr : Nat) (s : State) : State :=
  if s.sys.mode = .holdup then s
  else if !beatsAll s r.ns r.iu r.ver then dropRec r s
  else if logWaits s then fullLog s
  else if 4096 ≤ retained s && !nothingOlder s r.ns r.ver then evt .fteEvt 3 s
  else keepRec r (appendDelta { kind := .map, ns := r.ns, key := r.iu, inst := r.inst, val := addr, ver := r.ver } s)

/-- Commit a move, R186: only while the map names the source and no record of the IU exists; else it is dropped. -/
def commitMove (ns inst iu src addr ver : Nat) (s : State) : State :=
  if mapAt s ns iu = src ∧ (recsOf s ns iu).isEmpty then
    appendDelta { kind := .map, ns, key := iu, inst, val := addr, ver } s
  else s

/-- Commit a folded map page, R180: the directory delta, which a full log takes too since folding is what frees it (DEDUCED), then the folded
records leave the log (R297). -/
def commitPage (ns inst page fold addr : Nat) (s : State) : State :=
  let s1 := writeDelta { kind := .dir, ns, key := page, inst, val := addr } s
  let s2 := onFte (fun f => { f with dir := tset f.dir (pageKey ns page) addr, foldSeq := tset f.foldSeq (pageKey ns page) fold }) s1
  onCst (fun c => { c with log := c.log.filter fun d => !(d.kind == .map && d.ns == ns && d.key / iusPerPage == page && decide (d.seq < fold)) }) s2

/-- The first key and the keys of a directory page of 512 entries, R176. -/
def inDirPage (no key : Nat) : Bool := key / 512 == no

/-- A directory page is on NAND, R176: the root table names it, and the DIR records it holds leave the log (R297). -/
def commitDir (no fold addr : Nat) (entries : Tbl Nat) (s : State) : State :=
  onCst (fun c => { c with log := c.log.filter fun d => !(d.kind == .dir && inDirPage no (pageKey d.ns d.key) && decide (d.seq < fold)) })
    (onFte (fun f => { f with root := tset f.root no addr,
                              dirSaved := entries.foldl (fun t e => tset t e.1 e.2) (tfilter f.dirSaved fun k _ => !inDirPage no k) }) s)

/-- Commit the move of a map page or of a directory page, R186: only while it is still named at its source; else it is dropped. -/
def commitPageMove (ns inst page src addr : Nat) (s : State) : State :=
  if tget s.fte.dir (pageKey ns page) = some src then
    onFte (fun f => { f with dir := tset f.dir (pageKey ns page) addr }) (writeDelta { kind := .dir, ns, key := page, inst, val := addr } s)
  else s
def commitDirMove (no src addr : Nat) (s : State) : State :=
  if tget s.fte.root no = some src then onFte (fun f => { f with root := tset f.root no addr }) s else s

/-- Whether every codeword of an IU has passed, from its first address. -/
def iuPassed (s : State) (addr u : Nat) : Bool := (upFrom addr u).all fun a => thas s.fte.nand a

/-- A codeword whose program has passed takes effect by its kind, once the whole IU has passed. -/
def commitCw (addr : Nat) (c : Prog) (s : State) : State :=
  let u := iuCws s c
  let base := addr - c.part
  if !iuPassed s base u || s.sys.mode == .holdup then s
  else
    let done (s : State) : State := onFte (fun f => { f with prog := f.prog.filter fun e => !(decide (base ≤ e.1) && decide (e.1 < base + u)) }) s
    match c.kind with
    | .host =>
      let s1 := onFte (fun f => { f with idx := f.idx.map fun x =>
        if x.live && x.ns == c.ns && x.iu == c.iu && x.ver == c.ver then { x with pos := some base } else x }) (done s)
      match (recsOf s1 c.ns c.iu).find? fun x => x.live && x.ver == c.ver with
      | some r => commitRec r base s1
      | none => s1
    | .move src => if logWaits s then fullLog s else done (commitMove c.ns c.inst c.iu src base c.ver s)
    | .mapPage page fold => done (onlyIf ((nsAt s c.ns).any (·.inst == c.inst)) (commitPage c.ns c.inst page fold base) s)
    | .movePage page src => done (commitPageMove c.ns c.inst page src base s)
    | .moveDir no src => done (commitDirMove no src base s)
    | .dirPage no fold entries => done (commitDir no fold base entries s)
    | .shadow upto => done (onCst (fun x => { x with shadow := max x.shadow upto }) s)

/-- Well records whose programs have passed and moves that waited try again, oldest first. -/
def commitWaiting (s : State) : State :=
  let s1 := forEach (s.fte.idx.filter fun r => r.live && r.pos.isSome) (fun r s => commitRec r (r.pos.getD 0) s) s
  forEach (s1.fte.prog.filter fun e => thas s1.fte.nand e.1) (fun e s => if thas s.fte.prog e.1 then commitCw e.1 e.2 s else s) s1

/-- After a change to the log or to the records held: retained records and detector entries go as R185 and R113 let them, a
full log segment is shadowed, deltas and records that waited for the log try again, and so does data that waits for a stripe. -/
def afterCommit (s0 s : State) : State :=
  placeWaiting (shadowFull s0 (sweepOvl (releaseKept (commitWaiting (drainDue s.cst.due.length s)))))

/-! ## Programs that pass and fail -/

/-- The program entry of a die's queue for a step of a block, in a state. -/
def progEntry (s : State) (die block step : Nat) (st : DqSt) : Option Dop :=
  (dieAt s die).queue.find? fun o => o.kind == .program && o.block == block && o.step == step && o.st == st

/-- A parity step passed: STEP of R271, the accumulator is released (R270), and the stripe closes with its last step. -/
def parityPassed (d n step : Nat) (s : State) : State :=
  finishStripe d n (modStripe d n (fun t =>
    { t with accs := if t.st = .unprotected then t.accs else t.accs.filter fun a => a.step != step,
             passed := some (max step (t.passed.getD 0)) }) s)

/-- A step of a replacement block passed: REPLACE progress of R278. -/
def replPassed (d n step : Nat) (s : State) : State :=
  modStripe d n (fun t => { t with repl := t.repl.map fun r => { r with step := some step } }) s

/-- The codewords of a group of a block are on NAND, and what they change commits (R27, R185, R186). One whose seal failed at the encoder (`bad`, by
position in the group) was programmed with POISON = 1 and zero data (R239, R337). -/
def passGroup (die block g : Nat) (bad : List Nat) (s : State) : State :=
  let b := blkAt s die block
  let per := stepCws s.prof b.stream
  let lo := cwKey die (cwOf s.prof block (g * per))
  let l := s.fte.prog.filter fun e => decide (lo ≤ e.1) && decide (e.1 < lo + per)
  let lost (e : Nat × Prog) : Bool := b.stream != 2 && bad.contains (e.1 - lo)
  let s1 := onFte (fun f => { f with nand := l.foldl (fun m e => tset m e.1
    { ns := e.2.ns, inst := e.2.inst, iu := e.2.iu, body := if lost e then { data := [] } else e.2.body, poison := e.2.poison || lost e,
      stream := b.stream, ver := e.2.ver }) f.nand }) s
  forEach l (fun e s => commitCw e.1 e.2 s) (forEach (l.filter lost) (fun _ s => sealFail s) s1)

/-- A group of a member of a stripe has passed: the parity's, or the replacement's. -/
def memberPassed (die block g : Nat) (s : State) : State :=
  let d := dieDom die
  let b := blkAt s die block
  match stripeAt s d b.stripe with
  | some t =>
    if t.members[t.ppos]? = some (die, block) ∧ t.repl.isNone then parityPassed d b.stripe g s
    else if t.repl.any (fun r => r.die == die && r.block == block) then replPassed d b.stripe g s
    else s
  | none => s

/-- A program step of a block has passed (its entry is DONE). With the last step that programs a group of pages the group has passed (R218) and is
reported to FTE. In HOLDUP it stays unmapped (R302). -/
def passPage (die block step : Nat) (bad : List Nat) (s : State) : State :=
  match progEntry s die block step .done with
  | none => s
  | some o =>
    let b := blkAt s die block
    let g := groupAt s.prof b.stream step
    let last := lastOf s.prof b.stream step
    let s1 := onlyIf last (passGroup die block g bad) (freeEntry die o s)
    let s2 := if b.next = seqLen s.prof b.stream ∧ b.st = .opened then
        blkDelta die block (blkMod die block (fun b => { b with st := .closed, closeT := s.pwr.tb }) s1) else s1
    afterCommit s (onlyIf last (memberPassed die block g) s2)

/-- R348: an accumulator of an open stripe disagrees with its check word before its parity step is queued; the stripe is treated as
R274 says. -/
def accMismatch (d n : Nat) (s : State) : State :=
  match stripeAt s d n with
  | some t => if t.st = .opened ∧ t.accs ≠ [] then parityLoss d n (evt .mprEvt 6 s) else s
  | none => s

/-- PAGE_PASSED, R218: the last program step of a page has passed. `bad` names the codewords of its group whose seal the encoder found wrong; `accMis`
says that the comparison of R348 that follows in the block's stripe mismatches. -/
def execPagePassed (die block step : Nat) (bad : List Nat) (accMis : Bool) (s : State) : Res :=
  let n := (blkAt s die block).stripe
  .next (if accMis && (progEntry s die block step .done).isSome then accMismatch (dieDom die) n (passPage die block step bad s)
    else passPage die block step bad s)

/-- An array phase has ended in time, if with a failure: overruns are not in succession (R214). -/
def inTime (die : Nat) (s : State) : State := modDie die (fun d => { d with runs := 0 }) s

/-- PROGRAM_FAILURE, R219: a program step fails in its array phase; its token is returned and the block's unpassed data is
placed again (R195, R273, R274). -/
def execProgramFailure (die block step : Nat) (s : State) : Res :=
  match progEntry s die block step .array with
  | none => .next s
  | some o => .next (failProgram die block step (inTime die (freeEntry die o s)))

/-! ## Folding, compaction and range records -/

/-- Delta log fill has reached FOLD_HI, R180, R298; values above 95 act as 95. -/
def foldDue (s : State) : Bool := decide (min 95 (rfld s .fteCfg 24 8) ≤ logPct s)

/-- The map page with the most pending records: (namespace, page). -/
def foldPage (s : State) : Option (Nat × Nat) :=
  let ks := ((s.cst.log.filter fun d => d.kind == .map).map fun d => (d.ns, d.key / iusPerPage)).eraseDups
  let cnt (k : Nat × Nat) := (s.cst.log.filter fun d => d.kind == .map && d.ns == k.1 && d.key / iusPerPage == k.2).length
  ks.foldl (fun a k => match a with
    | none => some k
    | some b => if cnt b < cnt k then some k else some b) none

/-- Whether a page of the map is being programmed. -/
def folding (s : State) (ns page : Nat) : Bool :=
  let p (c : Prog) := c.ns == ns && match c.kind with | .mapPage g _ => g == page | _ => false
  (s.fte.prog.any fun e => p e.2) || s.fte.wait.any fun w => p w.2.2

/-- The entries of a map page as one number, 36 bits each. -/
def pageEntries (s : State) (ns page : Nat) : Nat :=
  (upFrom (page * iusPerPage) iusPerPage).foldr (fun iu a => mapAt s ns iu + 2 ^ 36 * a) 0

/-- A map page as it is stored, Table 8-3, as one little-endian number. -/
def pageImage (s : State) (ns inst page fold : Nat) : Nat :=
  ns % 2 ^ 16 + 2 ^ 16 * (inst % 2 ^ 16) + 2 ^ 32 * (page % 2 ^ 32) + 2 ^ 64 * (fold % 2 ^ 64) + 2 ^ 512 * pageEntries s ns page

/-- Put the current content of a map page into the MAP stream (step 1 of R180). -/
def programPage (ns page : Nat) (s : State) : State :=
  let inst := ((nsAt s ns).map (·.inst)).getD 0
  place (iuDom s ns (iusPerPage * page)) 2
    { kind := .mapPage page s.cst.logSeq, ns, inst, iu := page, body := { data := [pageImage s ns inst page s.cst.logSeq] } } s

/-- Put a directory page of 512 entries into the MAP stream, R176: 8 bytes an entry, NONE as all ones (DESIGN CHOICE: the manual gives NONE no value). -/
def programDir (no : Nat) (s : State) : State :=
  let es := tfilter s.fte.dir fun k _ => inDirPage no k
  let img := (upFrom (512 * no) 512).foldr (fun k a => tgetD es k (2 ^ 64 - 1) + 2 ^ 64 * a) 0
  place (mapDom s) 2 { kind := .dirPage no s.cst.logSeq es, ns := dirNs, iu := no, body := { data := [img] } } s

/-- Whether a directory page is being programmed. -/
def savingDir (s : State) (no : Nat) : Bool :=
  let p (c : Prog) : Bool := match c.kind with | .dirPage k _ _ => k == no | _ => false
  (s.fte.prog.any fun e => p e.2) || s.fte.wait.any fun w => p w.2.2

/-- The map page's entry read as an engine step: whether the page is in the cache. -/
def pageStep (ns page step : Nat) (s : State) : Bool × State := engRun { ns, iu := iusPerPage * page, step } s

/-- MAP_FOLD, R180: with the log at FOLD_HI, CS02 programs the cached content of the map page with the most pending records, which is read first
where it is not cached; the directory delta follows when the program passes. The hold of R126 and R38, in which no stripe opens, shows in
`place`. -/
def execMapFold (s : State) : Res := onSeq 2 s <|
  if !foldDue s || !engines s then .next s
  else match foldPage s with
    | none => .next s
    | some (ns, page) =>
      if folding s ns page then .next s
      else
        let x := pageStep ns page 0 s
        .next (if x.1 then programPage ns page x.2 else x.2)

/-- LOG_COMPACTION, R298: the live records of the oldest segment are copied, with their SEQ, to the current segment when they
are fewer than 128. -/
def execLogCompaction (s : State) : Res := onSeq 8 s <|
  if !foldDue s || s.sys.mode == .holdup then .next s
  else match (s.cst.log.map (·.seg)).min? with
    | none => .next s
    | some g =>
      let old := s.cst.log.filter fun d => d.seg == g
      if 128 ≤ old.length ∨ g = s.cst.wr / 1024 ∨ logFull s then .next s
      else
        let put (i : Nat) := (s.cst.wr + i) / 1024
        let moved := old.mapIdx fun i d => { d with seg := put i }
        .next (afterCommit s (onCst (fun c => { c with log := (c.log.filter fun d => d.seg != g) ++ moved, wr := c.wr + old.length }) s))

/-- RANGE_RECORD_FOLD, R183: CS03 has folded a range record into the pages it covers; it is retired once R185 no longer
retains it. -/
def execRangeRecordFold (slot : Nat) (s : State) : Res :=
  if s.sys.mode = .holdup then .next s
  else match s.fte.rng.find? fun r => r.slot == slot && !r.folded with
    | none => .next s
    | some _ =>
      let s1 := onFte (fun f => { f with rng := f.rng.map fun r => if r.slot = slot then { r with folded := true } else r }) s
      .next (afterCommit s s1)

/-! ## Grants, R201 -/

/-- IUs of a write-like command that take stream space in a domain: those that a Write touches, and those a Write Zeroes
touches in part (DEDUCED: a range record takes no stream space). -/
def grantNeed (s : State) (e : Entry) (d : Nat) : Nat :=
  match nsAt s (entNsid e) with
  | none => 0
  | some n =>
    let sp := iuSpan n.fmt (slba e) (nlb e)
    let w := wholeIus n.fmt (slba e) (nlb e)
    let part (iu : Nat) := opc e == 1 || !(decide (w.1 ≤ iu) && decide (iu < w.1 + w.2))
    if opc e = 1 ∨ opc e = 8 then
      ((upFrom sp.1 sp.2).filter fun iu => part iu && iuDom s (entNsid e) iu == d).length * iuUnits n.fmt
    else 0

/-- Codeword positions left in the open HOST stripes of a domain. -/
def hostLeft (s : State) (d : Nat) : Nat :=
  (openOf s d 0).foldl (fun a e => if e.2.part then a else a + (posCount s.prof e.2 - e.2.fill)) 0

/-- Positions of the stripes HOST may still open: none in an urgent domain that has not freed W_d blocks, one in an urgent
domain that has, else as many as the free native blocks make. -/
def hostMay (s : State) (d : Nat) : Nat :=
  let w := domW s d
  let per := s.prof.steps * (w - 1) * stepCws s.prof 0
  let free := ((domBlks s d).filter fun x => x.2.2.st == .free && !x.2.2.resv && x.2.2.good).length
  let n := free / max 1 w
  if s.nvq.shutHold then 0
  else if (gcAt s d).urg then (if w ≤ (gcAt s d).freed then min 1 n * per else 0) else n * per

/-- Space of a domain taken by grants whose data is not yet placed. -/
def granted (s : State) (d : Nat) : Nat :=
  s.nvq.tags.foldl (fun a e => if e.2.granted && !e.2.placed then a + grantNeed s e.2.ent d else a) 0

/-- An earlier write-like command of the domain still waits for its grant: grants go in fetch order. -/
def grantAhead (s : State) (t : Tag) (d : Nat) : Bool :=
  s.nvq.tags.any fun e => e.2.st == .adm && isIo e.2 && writeLike e.2.ent && !e.2.granted && newer t.seq e.2.seq &&
    decide (0 < grantNeed s e.2.ent d)

/-- WRITE_GRANT, R201, R202: a write-like command in ADMIT receives its grant when its IUs fit the space of every domain it
writes; none while WRITE-PROTECTED, but in FACTORY, which permits all I/O (Table 2-3). -/
def execWriteGrant (tag : Nat) (s : State) : Res := onSeq 3 s <|
  match tget s.nvq.tags tag with
  | none => .next s
  | some t =>
    let ok (d : Nat) : Bool :=
      let need := grantNeed s t.ent d
      need == 0 || (!grantAhead s t d && decide (need + granted s d ≤ hostLeft s d + hostMay s d))
    if t.st = .adm ∧ isIo t ∧ writeLike t.ent ∧ !t.granted ∧ !(s.fte.wp && s.sys.mode != .factory) ∧ s.sys.mode.serving ∧ (List.range 4).all ok then
      .next (onNvq (fun n => { n with tags := tset n.tags tag { t with granted := true } }) s)
    else .next s

/-! ## Garbage collection -/

/-- Line 2 and 3 of R197: fewest valid IUs, then earliest closed, then lowest number. -/
def betterVictim (s : State) (a b : Nat × Stripe) : Bool :=
  let va := (stripeValid s a.2).length
  let vb := (stripeValid s b.2).length
  decide (va < vb) || (va == vb && (decide (a.2.closeT < b.2.closeT) || (a.2.closeT == b.2.closeT && decide (a.1 < b.1))))

/-- The stripe R197 selects in a domain. -/
def pickVictim (s : State) (d : Nat) : Option Nat :=
  let cands := gcCands s d
  match s.fte.first.find? fun f => f.1 == d && cands.any fun c => c.1 == f.2 with
  | some f => some f.2
  | none =>
    if !(gcAt s d).act then none
    else ((cands.filter fun c => !noGain s c.2).foldl (fun a c => match a with
      | none => some c
      | some b => if betterVictim s c b then some c else some b) none).map (·.1)

/-- Garbage collection may run: engines run, no sanitize, and no hold of R126. -/
def gcMay (s : State) (d : Nat) : Bool :=
  engines s && s.sys.mode != .sanitize && s.sys.mode != .offline && !s.nvq.shutHold && s.sys.modeReq.isNone && domSt s d != .offline

/-- GC_SELECT, R196, R197: a victim stripe is selected and its victim record written; its closed members become VICTIM. -/
def execGcSelect (dom : Nat) (s0 : State) : Res := onSeq 3 s0 <|
  let s := gcLevels s0
  if 4 ≤ dom ∨ !gcMay s dom then .next s0
  else match pickVictim s dom with
    | none => .next s0
    | some n => match stripeAt s dom n with
      | none => .next s0
      | some t =>
        let s1 := forEach t.members (fun m s => if (blkAt s m.1 m.2).st = .closed then
          blkMod m.1 m.2 (fun b => { b with st := .victim }) s else s) s
        .next (onFte (fun f => { f with victims := f.victims ++ [{ dom, stripe := n }] }) s1)

def setVictim (d n : Nat) (st : GcSt) (s : State) : State :=
  onFte (fun f => { f with victims := f.victims.map fun v => if v.dom = d ∧ v.stripe = n then { v with st } else v }) s

/-- A move of a source codeword is outstanding. -/
def moving (s : State) (addr : Nat) : Bool :=
  let p (c : Prog) := c.kind == .move addr
  (s.fte.prog.any fun e => p e.2) || s.fte.wait.any fun w => p w.2.2

/-- Copy one valid IU of a victim: a valid map page is programmed afresh by the MAP stream once it is in the cache, a directory page too; host data
moves by the GC stream with a poison marker where it could not be read (R199). -/
def copyIu (addr : Nat) (bad : Bool) (s : State) : State :=
  match tget s.fte.nand addr with
  | none => s
  | some c =>
    if c.ns = dirNs then (if savingDir s c.iu then s else programDir c.iu s)
    else if c.stream = 2 then
      if folding s c.ns c.iu then s
      else
        let x := pageStep c.ns c.iu addr s
        if x.1 then programPage c.ns c.iu x.2 else x.2
    else if moving s addr then s
    else place (dieDom (addr / 2 ^ 27)) 1
      { kind := .move addr, ns := c.ns, inst := c.inst, iu := c.iu, ver := c.ver, body := c.body, poison := c.poison || bad } s

/-- The engine steps that check the back-pointers of a stripe's host data against the map: one for each IU of a namespace instance that exists. -/
def scanSteps (s : State) (t : Stripe) : List EngCtx :=
  let steps : List EngCtx := (t.members.flatMap fun m => blkCws s m.1 m.2).filterMap fun a => match tget s.fte.nand a with
    | some c => if c.stream != 2 && (nsAt s c.ns).any (·.inst == c.inst) then some { ns := c.ns, iu := c.iu, step := 1 } else none
    | none => none
  steps.eraseDups.mapIdx fun i (e : EngCtx) => { e with idx := i }

/-- Codewords of a valid IU of host data that must be read before it is copied. -/
def gcCws (s : State) (addr : Nat) : List Nat := match tget s.fte.nand addr with
  | some c => if c.stream = 2 then [] else upFrom addr (nsUnits s c.ns)
  | none => []

def modVictim (d n : Nat) (f : Victim → Victim) (s : State) : State :=
  onFte (fun x => { x with victims := x.victims.map fun v => if v.dom = d ∧ v.stripe = n then f v else v }) s

/-- Ask the die queues for the codewords of a valid IU; once all are read, the IU is copied, poisoned where a codeword was or where the well found
it so. -/
def gcIu (d n addr : Nat) (o : IuOutcome) (s : State) : State :=
  match s.fte.victims.find? fun v => v.dom == d && v.stripe == n with
  | none => s
  | some v =>
    let cs := gcCws s addr
    if cs.all fun a => v.got.any fun g => g.1 == a then copyIu addr (o != .clean || cs.any fun a => v.got.any fun g => g.1 == a && g.2) s
    else if moving s addr then s
    else
      let go := cs.filter fun a => !v.asked.contains a
      forEach go (readCw · .gc) (modVictim d n (fun v => { v with asked := v.asked ++ go }) s)

/-- The members of a victim that are scanned and erased: after a restart not those that had entered DOUBT before (Table 8-7). -/
def victimPart (s : State) (t : Stripe) : Stripe :=
  { t with members := t.members.filter fun m => (blkAt s m.1 m.2).st == .victim || (blkAt s m.1 m.2).st == .retired }

/-- GC_SCAN, Table 8-7: with the victim record durable, back-pointers are checked as engine steps, valid IUs read through the die queues, and those
read are copied; `outcomes` is how each valid IU came to its well, in member order. -/
def execGcScan (dom stripe : Nat) (outcomes : List IuOutcome) (s : State) : Res := onSeq 3 s <|
  match s.fte.victims.find? fun v => v.dom == dom && v.stripe == stripe, stripeAt s dom stripe with
  | some v, some t0 =>
    let t := victimPart s t0
    if (v.st = .selected ∨ v.st = .scan ∨ v.st = .copy) ∧ gcMay s dom ∧ logDurable s then
      let x := engAll (scanSteps s t) s
      if !x.1 then .next (setVictim dom stripe .scan x.2)
      else
        let l := stripeValid x.2 t
        let s1 := forN l.length (fun i s => gcIu dom stripe (l.getD i 0) (outcomes.getD i .clean) s) x.2
        .next (afterCommit s (setVictim dom stripe (if l.isEmpty then .drain else .copy) s1))
    else .next s
  | _, _ => .next s

/-- R198: nothing valid is left, no move or fold of the stripe is outstanding, the deltas are durable, no read holds a
reference. -/
def drained (s : State) (t : Stripe) : Bool :=
  (stripeValid s t).isEmpty && (t.members.all fun m => (blkCws s m.1 m.2).all fun a => !moving s a) &&
    logDurable s && t.members.all fun m => (blkAt s m.1 m.2).refs == 0

/-- A member enters DOUBT, Table 8-6: its erase-in-doubt entry is durable, the count rises by 1, the erase is issued. -/
def doubtBlk (die block : Nat) (s : State) : State :=
  let ec := (blkAt s die block).ec + 1
  let s1 := blkDelta die block (blkMod die block (fun b => { b with st := .doubt, bst := .doubt, ec }) s)
  let s2 := onCst (fun c => { c with doubt := (c.doubt.filter fun x => !(x.1 == die && x.2.1 == block)) ++ [(die, block, ec)] }) s1
  queueOp die { id := 0, kind := .erase, block, use := .eraseBlk } (modDie die (fun d => { d with erases := d.erases + 1 }) s2)

/-- A die of a running phase 3 erases the next block at or after its cursor; with none left its cursor is at its end. -/
def sanErase (die : Nat) (s : State) : State :=
  match s.cst.san with
  | none => s
  | some r =>
    if r.phase ≠ 3 ∨ !dieOk s die then s
    else
      let cur (b : Nat) (s : State) : State := onCst (fun c => { c with san := some { r with cursors := tset r.cursors die b } }) s
      match (sanBlocks s die).head? with
      | none => cur s.prof.blocksPerDie s
      | some b =>
        let x := dieAt s die
        if (x.queue ++ x.wait).any fun o => o.kind == .erase && o.block == b then cur b s else doubtBlk die b (cur b s)

/-- An erase has ended during a sanitize: the die's cursor advances past the block, and the next is erased; in phase 4 a left-out block
is done. -/
def sanErased (die block : Nat) (ok : Bool) (s : State) : State :=
  match s.cst.san with
  | none => s
  | some r =>
    if r.phase = 3 ∧ tgetD r.cursors die 0 = block then
      sanErase die (sanTotal (onCst (fun c => { c with san := some { r with cursors := tset r.cursors die (block + 1), done := r.done + b2n ok } }) s))
    else if r.phase = 4 then onCst (fun c => { c with san := some { r with left := r.left.filter fun x => !(x.1 == die && x.2 == block) } }) s
    else s

/-- Close the victim records whose members are all FREE or RETIRED. -/
def closeVictims (s : State) : State :=
  onFte (fun f => { f with victims := f.victims.filter fun v => !(v.st == .erase && match stripeAt s v.dom v.stripe with
    | some t => t.members.all fun m => let b := blkAt s m.1 m.2
        b.st == .free || b.st == .retired || b.stripe != v.stripe || b.st == .opened || b.st == .closed
    | none => true) }) s

/-- GC_DRAIN, R198: the members not retired enter DOUBT; the stripe is collected and its journal slot, if it had one, freed. -/
def execGcDrain (dom stripe : Nat) (s : State) : Res := onSeq 3 s <|
  match s.fte.victims.find? fun v => v.dom == dom && v.stripe == stripe, stripeAt s dom stripe with
  | some v, some t =>
    if (v.st = .copy ∨ v.st = .drain ∨ v.st = .scan) ∧ drained s (victimPart s t) ∧ s.sys.mode ≠ .holdup ∧ !sanOpen s then
      let s1 := forEach t.members (fun m s => if (blkAt s m.1 m.2).st = .victim then doubtBlk m.1 m.2 s else s) s
      let s2 := setStripe dom stripe { t with st := .collected, accs := [] } s1
      let s3 := modDom dom (fun x => { x with exposed := x.exposed.filter (· != stripe) }) s2
      let s4 := onFte (fun f => { f with first := f.first.filter fun x => !(x.1 == dom && x.2 == stripe) }) s3
      .next (closeVictims (setVictim dom stripe .erase s4))
    else .next s
  | _, _ => .next s

/-- The erase entry of a die's queue for a block, in a state. -/
def eraseEntry (s : State) (die block : Nat) (st : DqSt) : Option Dop :=
  (dieAt s die).queue.find? fun o => o.kind == .erase && o.block == block && o.st == st

/-- GC_CONTROL mode 10b has reached its target, R204. -/
def gcTargets (s : State) : State :=
  forN 4 (fun d s =>
    let g := gcAt s d
    if g.mode = 2 && decide (g.target * (domDies s d).length ≤ freeBlks s d false) then
      endOpt g.op 0 [lo32 g.prev] (gcLevels (onFte (fun f => { f with gc := tupd f.gc d {} fun g => { g with mode := 0, op := none } }) s))
    else s) s

/-- A block is a member of a victim stripe whose members are being erased: its erase is garbage collection's (R196). -/
def erasing (s : State) (die block : Nat) : Bool := s.fte.victims.any fun v => v.st == .erase && match stripeAt s v.dom v.stripe with
  | some t => t.members.contains (die, block)
  | none => false

/-- ERASE_PASS, Table 8-6: the block leaves the erase-in-doubt list and becomes FREE and ERASED; its known-bad wordline entries
go (R250), and positions recorded by R279 in it name no codeword any more (R280). -/
def execErasePass (die block : Nat) (s : State) : Res :=
  match eraseEntry s die block .done with
  | none => .next s
  | some o =>
    let s1 := freeEntry die o s
    let s2 := blkDelta die block (blkMod die block (fun b => { b with st := .free, bst := .erased, next := 0, refs := 0 }) s1)
    let s3 := onCst (fun c => { c with doubt := c.doubt.filter fun x => !(x.1 == die && x.2.1 == block) }) s2
    let gone := blkCws s die block
    let s4 := onFte (fun f => { f with nand := f.nand.filter fun e => !gone.contains e.1,
                                       gc := if erasing s die block then tupd f.gc (dieDom die) {} fun g => { g with freed := g.freed + 1 } else f.gc }) s3
    let s5 := onSre (fun x => { x with dies := tmod x.dies die fun d => { d with wls := d.wls.filter fun w => w.1 != block } }) s4
    let d := dieDom die
    let s6 := onlyIf ((domAt s d).lostCw.any gone.contains) (modDom d fun x => { x with lostCw := x.lostCw.filter fun a => !gone.contains a }) s5
    .next (afterCommit s (gcTargets (gcLevels (closeVictims (sanErased die block true s6)))))

/-- A block whose erase failed: BAD and RETIRED (R219, Table 8-6). -/
def retireErased (die block : Nat) (s : State) : State :=
  let s1 := blkDelta die block (blkMod die block (fun b => { b with st := .retired, bst := .bad }) s)
  let s2 := onCst (fun c => { c with doubt := c.doubt.filter fun x => !(x.1 == die && x.2.1 == block) }) s1
  checkSpare (gcLevels (closeVictims (sanErased die block false (modDie die (fun d => { d with eraseFails := d.eraseFails + 1 }) s2))))

/-- ERASE_FAILURE, Table 8-6: an erase fails in its array phase and the block is retired. -/
def execEraseFailure (die block : Nat) (s : State) : Res :=
  match eraseEntry s die block .array with
  | none => .next s
  | some o => .next (retireErased die block (inTime die (freeEntry die o s)))

/-! ## Opcodes, Table 8-17 -/

/-- FTE_INFO. -/
def execFteInfo (src : Nat) (s : State) : Res :=
  .next (serveRead src 0x0300 (fun s _ => (0, [reg s .fteCfg, regValue s .fteSts 0, regValue s .fteMapcSts 0,
    regValue s .fteLogSts 0, regValue s .fteBadSts 0, regValue s .fteSpareCfg 0])) s)

/-- DOM_CAPACITY. -/
def execDomCapacity (src : Nat) (s : State) : Res :=
  .next (serveRead src 0x0301 (fun s r =>
    let d := rqTgt r
    if domSt s d = .offline then (0x0302, [])
    else (0, [lo32 (goodD s d), lo32 (resD s d), lo32 (needD s d), lo32 (twos 32 (spareD s d)), lo32 s.prof.spareInit,
      lo32 (unallocD s d * 4096 / 2 ^ 30)])) s)

/-- BLOCK_INFO state code. -/
def blkCode : BlkSt → Nat
  | .free => 0 | .opened => 1 | .closed => 2 | .victim => 3 | .doubt => 4 | .retired => 5 | .header => 6

/-- BLOCK_INFO. -/
def execBlockInfo (src : Nat) (s : State) : Res :=
  .next (serveRead src 0x0302 (fun s r =>
    let die := rqTgt r
    let block := fld (rqW r 2) 0 16
    if !(dieAt s die).present || !decide (block < s.prof.blocksPerDie) then (0x0300, [])
    else
      let b := blkAt s die block
      (0, [pack [(28, 4, blkCode b.st), (0, 24, b.ec)],
        lo32 ((blkCws s die block).filter (validCw s)).length, pack [(4, 2, dieDom die), (0, 2, b.stream)], lo32 b.refs])) s)

/-- Map pages of a namespace in a domain. -/
def nsPagesIn (n : Ns) (d : Nat) : Nat :=
  n.segs.foldl (fun a g => if g.1 = d then a + ceilDiv g.2.2 iusPerPage else a) 0

/-- NS_PLACEMENT. -/
def execNsPlacement (src : Nat) (s : State) : Res :=
  .next (serveRead src 0x0303 (fun s r => match nsAt s (rqTgt r) with
    | none => (0x0301, [])
    | some n => (0, pack [(16, 16, n.inst), (0, 4, domBits fun d => n.segs.any fun g => g.1 == d)] ::
        (List.range 4).map fun d => lo32 (nsPagesIn n d))) s)

/-- GC_CONTROL, R204. Mode 10b is a long operation; either other mode ends one that runs with 0x0003. -/
def execGcControl (src : Nat) (s : State) : Res :=
  let mode (r : CamReq) := fld (rqW r 2) 0 2
  .next (serve src 0x0304 (fun r => mode r == 2)
    (fun s r =>
      if rqW r 2 &&& 0xFF0000FC ≠ 0 then some (badField 2 (rqW r 2 &&& 0xFF0000FC))
      else if mode r = 3 then some (badField 2 3)
      else if domSt s (rqTgt r) = .offline then some (0x0302, [])
      else none)
    (fun r h s =>
      let d := rqTgt r
      let g := gcAt s d
      let set (m t : Nat) (op : Option Nat) (s : State) :=
        onFte (fun f => { f with gc := tupd f.gc d {} fun x => { x with mode := m, target := t, op, prev := g.mode } }) s
      let s1 := endOpt g.op 0x0003 [lo32 g.prev] s
      if mode r = 2 then (gcTargets (gcLevels (set 2 (fld (rqW r 2) 8 16) (some h) s1)), {})
      else (gcLevels (set (mode r) 0 none s1), { detail := [lo32 g.mode] })) s)

/-- Records of the bad-LBA list of a namespace, R190, R204. -/
def badRecs (s : State) (ns : Nat) : List (List Word) :=
  let whole := (s.fte.map.filter fun e => e.1 / 2 ^ 40 == ns && e.2 == mapUnc).map fun e =>
    [lo32 (e.1 % 2 ^ 40), pack [(0, 4, e.1 % 2 ^ 40 / 2 ^ 32)], 0xFFFFFFFF#32, lo32 (tgetD s.fte.uncSrc e.1 1)]
  let part := (s.fte.bad.filter fun b => b.ns == ns).map fun b =>
    [lo32 b.iu, pack [(31, 1, 1), (0, 4, b.iu / 2 ^ 32)], lo32 b.map, lo32 b.src]
  whole ++ part

/-- BADLBA_LIST: a long operation that writes a snapshot. -/
def execBadlbaList (src : Nat) (s : State) : Res :=
  .next (serve src 0x0305 (fun _ => true)
    (fun s r => match bytesOk r 16 with
      | some x => some x
      | none => if (nsAt s (rqTgt r)).isNone then some (0x0301, []) else none)
    (fun r h s =>
      let (k, o, data) := listOut r 16 (badRecs s (rqTgt r))
      (endOp h 0 [lo32 k, lo32 o] data s, {})) s)

end Sys2Proof.Machine
end

