-- ==== Sys2Proof/Machine/Sre.lean ====
section
/-! DEFINITION. Signal recovery (R236 to R264): frames, decodes, the retry ladder, tracking loops, defect columns and
known-bad wordlines, and the opcodes of Table 10-14. -/

namespace Sys2Proof.Machine

def modSreDie (die : Nat) (f : SreDie → SreDie) (s : State) : State :=
  onSre (fun x => { x with dies := tupd x.dies die {} f }) s

/-- Ladder entry of a codeword. -/
def ladderOf (s : State) (cw : Nat) : Option Ladder := s.sre.ladders.find? fun l => l.cw == cw
def setLadder (cw : Nat) (f : Ladder → Ladder) (s : State) : State :=
  onSre (fun x => { x with ladders := x.ladders.map fun l => if l.cw = cw then f l else l }) s
def endLadder (cw : Nat) (s : State) : State :=
  onSre (fun x => { x with ladders := x.ladders.filter fun l => l.cw != cw }) s

/-- Count a codeword that enters a step. -/
def countStep (k : Nat) (s : State) : State :=
  onSre (fun x => { x with stepCnt := tupd x.stepCnt k 0 fun n => (n + 1) % 2 ^ 32 }) s

/-! ## Known-bad wordlines, R250 -/

/-- A wordline is known-bad, R250. -/
def knownBad (s : State) (cw : Nat) : Bool :=
  s.prof.badWordlines.contains (cwWl s cw) || (sreDieAt s (cwDie cw)).wls.contains (cwBlock s cw, cwWl s cw)

/-- Add a known-bad wordline, R250: 64 entries, the oldest replaced. -/
def addWl (cw : Nat) (s : State) : State :=
  let d := sreDieAt s (cwDie cw)
  let w := (cwBlock s cw, cwWl s cw)
  if d.wls.contains w then s
  else evt .sreEvt 9 (modSreDie (cwDie cw) (fun d =>
    let l := d.wls ++ [w]
    { d with wls := l.drop (l.length - 64), dirty := true }) s)

/-! ## Defect columns, R251, R252 -/

/-- List a column: refused by a full list of its plane. -/
def addCol (die : Nat) (c : Col) (s : State) : State :=
  let d := sreDieAt s die
  if d.cols.any fun x => x.plane == c.plane && x.col == c.col then s
  else if 64 ≤ (d.cols.filter fun x => x.plane == c.plane).length then raiseSrc 256 (evt .sreEvt 10 s)
  else evt .sreEvt 8 (modSreDie die (fun d => { d with cols := d.cols ++ [c], dirty := true }) s)

/-- The candidate table with a hit entered: 256 entries, a new one replaces the entry with the fewest hits. -/
def hitCand (l : List Cand) (plane col now : Nat) : List Cand :=
  if l.any fun c => c.plane == plane && c.col == col then
    l.map fun c => if c.plane = plane ∧ c.col = col then { c with hits := c.hits + 1 } else c
  else
    let fresh : Cand := { plane, col, start := now }
    if l.length < 256 then l ++ [fresh]
    else match l.foldl (fun a c => match a with
        | none => some c
        | some b => if c.hits < b.hits then some c else some b) (none : Option Cand) with
      | none => [fresh]
      | some v => (l.erase v) ++ [fresh]

/-- SRE_CFG2 fields: COL_HIT, COL_WIN × 256, LOOP_WIN. -/
def colHit (s : State) : Nat := orOne (rfld s .sreCfg2 16 8)
def colSpan (s : State) : Nat := orOne (rfld s .sreCfg2 8 8) * 256
def loopWin (s : State) : Nat := orOne (rfld s .sreCfg2 24 8)

/-- One corrected bit of a step 1 decode: a candidate hit, or a promotion. -/
def hitCol (die plane col : Nat) (s : State) : State :=
  let d := sreDieAt s die
  if d.cols.any fun x => x.plane == plane && x.col == col then s
  else
    let now := tgetD d.cws plane 0
    let s1 := modSreDie die (fun d => { d with cands := hitCand d.cands plane col now }) s
    match (sreDieAt s1 die).cands.find? fun c => c.plane == plane && c.col == col with
    | none => s1
    | some c =>
      if now - c.start ≤ colSpan s ∧ colHit s ≤ c.hits then
        addCol die { plane, col, kind := 1 }
          (modSreDie die (fun d => { d with cands := d.cands.filter fun x => !(x.plane == plane && x.col == col) }) s1)
      else s1

/-- CANDIDATE_EXPIRY, R251: a candidate that has not reached COL_HIT within its span is dropped. -/
def execCandidateExpiry (die plane col : Nat) (s : State) : Res := onSeq 6 s <|
  let d := sreDieAt s die
  match d.cands.find? fun c => c.plane == plane && c.col == col with
  | none => .next s
  | some c =>
    if colSpan s ≤ tgetD d.cws plane 0 - c.start ∧ c.hits < colHit s then
      .next (modSreDie die (fun d => { d with cands := d.cands.filter fun x => !(x.plane == plane && x.col == col) }) s)
    else .next s

/-! ## Tracking loops, R248, R249 -/

/-- Counts of a codeword's corrected bits, read as 0 and as 1, that lie in no listed column of its plane (R243, R249). -/
def freeBits (x : SreDie) (plane : Nat) (d : Decode) (one : Bool) : Nat :=
  (d.bits.filter fun b => b.2 == one && !x.cols.any fun c => c.plane == plane && c.col == b.1).length

/-- A step 1 decode: the candidates of its corrected bits and, unless frozen, the window of its bin. -/
def countDecode (cw : Nat) (d : Decode) (s : State) : State :=
  let die := cwDie cw
  let plane := cwPlane s cw
  let s1 := modSreDie die (fun x => { x with cws := tupd x.cws plane 0 (· + 1) }) s
  let s2 := forEach d.bits (fun b s => hitCol die plane b.1 s) s1
  if bitOf (reg s .sreCfg) 0 && !knownBad s cw then
    let b := binOf s die (cwBlock s cw)
    let n := freeBits (sreDieAt s die) plane d
    modSreDie die (fun x => { x with bins := tupd x.bins b (bin0 s.prof b) fun y =>
      { y with counted := y.counted + 1, sums := tupd y.sums (cwType s cw) (0, 0) fun p => (p.1 + n false, p.2 + n true) } }) s2
  else s2

/-- Numerator and denominator of D over the page types that pass a test. -/
def loopD (b : Bin) (p : Nat → Bool) : Int × Nat :=
  b.sums.foldl (fun a e => if p e.1 then (a.1 + ((e.2.1 : Int) - e.2.2), a.2 + e.2.1 + e.2.2) else a) (0, 0)

/-- Sign of the difference of two D values if it exceeds 1/8; D over no corrections counts as 0. -/
def stepSign (a b : Int × Nat) : Int :=
  let da := max 1 a.2
  let db := max 1 b.2
  let x : Int := a.1 * db - b.1 * da
  if da * db < 8 * x.natAbs then x.sign else 0

/-- LOOP_WINDOW_UPDATE, R248: after LOOP_WIN counted codewords the loops of a bin step by one unit each; none with fewer than
32 counted corrections; in SLC mode only O runs. Tnow is the PHY sensor's last sample (R247). -/
def execLoopWindowUpdate (die bin : Nat) (s : State) : Res := onSeq 6 s <|
  let b := binAt s die bin
  if b.counted < loopWin s ∨ 9 < bin then .next s
  else
    let k := s.prof.levels
    let mean (t : Nat) := s.prof.ptMean.getD t 0
    let all := loopD b fun _ => true
    let hi := loopD b fun t => decide (k + 1 < 2 * mean t)
    let lo := loopD b fun t => decide (2 * mean t < k + 1)
    let low := loopD b fun t => t == s.prof.ptLow
    let oth := loopD b fun t => t != s.prof.ptLow
    let few := decide (all.2 < 32)
    let dir (i : Nat) : Int := s.prof.loopDir.getD i 1
    let st (skip : Bool) (i : Nat) (v x : Int) (m : Int) : Int := if few || skip then v else clampI m (v + x * dir i)
    let o := st false 0 b.o (stepSign all (0, 0)) 64
    let sp := st (bin == 0) 1 b.s (stepSign hi lo) 32
    let t := st (bin == 0) 2 b.t (stepSign low oth) 32
    let chg := o != b.o || sp != b.s || t != b.t
    let b1 : Bin := { b with o, s := sp, t, tupd := if chg then (chanAt s (chanOf die)).temp else b.tupd, counted := 0, sums := [], windows := b.windows + 1 }
    let bound := (List.range 3).any fun i => binBound b1 i && !binBound b i
    let s1 := modSreDie die (fun d => { d with bins := tset d.bins bin b1, dirty := d.dirty || chg }) s
    .next (if bound then raiseSrc 257 (evt .sreEvt 7 s1) else s1)

/-- SRE_STATE_PAGE_WRITE, R253: changed loop values and lists are written to state pages in the MAP stream. -/
def execSreStatePageWrite (s : State) : Res :=
  if s.sys.mode = .holdup ∨ !(s.sre.dies.any fun e => e.2.dirty) then .next s
  else
    let keep (d : SreDie) : SreDie := { bins := d.bins.map fun b => (b.1, { b.2 with counted := 0, sums := [], windows := 0 }), cols := d.cols, wls := d.wls }
    let s1 := onCst (fun c => { c with sreSaved := s.sre.dies.foldl (fun m e => tset m e.1 (keep e.2)) c.sreSaved }) s
    let s2 := onSre (fun x => { x with dies := tmap x.dies fun _ d => { d with dirty := false } }) s1
    .next (place (mapDom s2) 2 { kind := .shadow 0, body := { data := [] } } s2)

/-! ## Retrain requests from signal recovery, R231 -/

/-- Queue a channel for retraining; a channel already queued is not queued twice. -/
def askRetrain (r : Retrain) (s : State) : State :=
  if s.fch.trnQ.any (fun x => x.ch == r.ch) then s else onFch (fun f => { f with trnQ := f.trnQ ++ [r] }) s

def modChan (ch : Nat) (f : Chan → Chan) (s : State) : State := onFch (fun x => { x with chans := tupd x.chans ch {} f }) s
def modFrame (ch : Nat) (f : ChFrame → ChFrame) (s : State) : State := onSre (fun x => { x with frames := tupd x.frames ch {} f }) s

/-- A realignment or lead miss reported to FCH: SLIPS, and the slip trigger of Table 9-8. -/
def slip (ch : Nat) (s : State) : State :=
  let s1 := modChan ch (fun c => { c with slips := c.slips + 1,
                                          slipT := (c.slipT.filter fun t => decide (s.pwr.tb < t + 1000000)) ++ [s.pwr.tb] }) s
  if orOne (rfld s .fchCfg 8 4) ≤ (chanAt s1 ch).slipT.length then askRetrain { ch } s1 else s1

/-! ## Codes and marks, R237, R238, R240 -/

/-- N of Table 10-2: bytes of a codeword at a rate. -/
def codeBytes (rate : Nat) : Nat := 4128 + [304, 384, 464, 512, 592, 672].getD rate 304

/-- The lead mark's sync word. -/
def syncWord : Nat := 0xE15A3C960FD2

/-- SRE_CFG2.MARK_TOL, 9 to 15 as 8. -/
def markTol (s : State) : Nat := min 8 (rfld s .sreCfg2 0 4)

/-- Bits set in the low `n` bits of a number. -/
def popBits (n v : Nat) : Nat := ((List.range n).filter v.testBit).length

/-- A mark of 64 bits matches, R240: sync within MARK_TOL, header parity even, q and rate those of the frame. -/
def markOk (s : State) (cw want m : Nat) : Bool :=
  let h := m / 2 ^ 48 % 2 ^ 16
  decide (popBits 48 (Nat.xor (m % 2 ^ 48) want) ≤ markTol s) && popBits 16 h % 2 == 0 &&
    h % 4 == cwPos s.prof (cw % 2 ^ 27) % max 1 s.prof.q && h / 4 % 8 == (blkAt s (cwDie cw) (cwBlock s cw)).rate

/-- The offset at which a mark matches in a window of 78 bits that begins 7 bits before its nominal position: 0 first, then from −7 on. -/
def markAt (s : State) (cw want w : Nat) : Option Int :=
  ((7 :: List.range 15).find? fun i => markOk s cw want (w / 2 ^ i)).map fun i => (i : Int) - 7

/-- Where the lead mark and the backup mark, whose sync word is the complement, match. -/
def leadAt (s : State) (cw : Nat) (m : Marks) : Option Int := markAt s cw syncWord m.lead
def backupAt (s : State) (cw : Nat) (m : Marks) : Option Int := markAt s cw (2 ^ 48 - 1 - syncWord) m.backup

/-- Bits of a frame's nominal span: lead mark, codeword, backup mark; erased where at most 1/64 of them read as 0 (R496). -/
def erasedFrame (s : State) (cw : Nat) (m : Marks) : Bool :=
  decide (64 * m.zeros ≤ 8 * (16 + codeBytes (blkAt s (cwDie cw) (cwBlock s cw)).rate))

/-! ## Ends of a ladder -/

/-- Give a codeword's result to a reader: a host read keeps it with its tag, garbage collection with the victim that asked for it. -/
def giveReader (cw : Nat) (poison : Bool) (r : Reader) (s : State) : State :=
  match r with
  | .host t => onNvq (fun n => { n with tags := tmod n.tags t fun x =>
      { x with got := x.got ++ [(cw, poison)], want := x.want.filter (· != cw), psn := x.psn || poison } }) s
  | .gc =>
    let take (v : Victim) : Victim := if v.asked.contains cw then { v with got := v.got ++ [(cw, poison)] } else v
    onFte (fun f => { f with victims := f.victims.map take }) s
  | .merge | .mapPage _ _ | .stripe | .statePage | .scrub | .probe _ _ | .readAround => s

/-- R261: move the codeword's IU to the GC stream. -/
def relocate (cw : Nat) (s : State) : State :=
  match tget s.fte.nand cw with
  | none => s
  | some c =>
    let head := mapAt s c.ns c.iu
    if c.stream = 2 || !validCw s cw || moving s head then s
    else place (dieDom (cwDie cw)) 1 { kind := .move head, ns := c.ns, inst := c.inst, iu := c.iu, ver := c.ver, body := c.body, poison := c.poison } s

/-- A LADDER_PROBE ends, R262. -/
def endProbe (l : Ladder) (d0 : Word) (bits synd : Nat) (s : State) : State :=
  forEach l.readers (fun r s => match r with
    | .probe h _ => endOp h 0 [d0, lo32 bits, lo32 synd] [] s
    | _ => s) s

/-- A codeword ends the ladder with a result at a step: LAST_STEP, known-bad wordline (R250), relocation (R261). -/
def finishCw (l : Ladder) (step : Nat) (poison : Bool) (s : State) : State :=
  let s1 := endLadder l.cw s
  let s2 := if 2 ≤ step && !l.around then modSreDie (cwDie l.cw) (fun d => { d with lastStep := step }) s1 else s1
  let s3 := if 4 ≤ step && !l.around then addWl l.cw s2 else s2
  let s4 := if (step == 4 || step == 5) && !l.around && bitOf (reg s .sreCfg) 1 then relocate l.cw s3 else s3
  forEach l.readers (fun r s => if r = .stripe then survGot l.cw (decide (step ≤ 4)) s else giveReader l.cw poison r s) s4

/-- Step 6, R258: the sector is poisoned. -/
def step6 (l : Ladder) (s : State) : State :=
  finishCw l 6 true (raiseSrc 255 (evt .sreEvt 5 (countStep 6 s)))

/-- Offsets shifted by a number of steps, in the part's range. -/
def shiftOffs (s : State) (l : List Int) (d : Int) : List Int := l.map fun v => max s.prof.offMin (min s.prof.offMax (v + d))

/-- Level offsets of the senses a step queues, R255, R256: a step 2 try adds to O the density term of the first try, or the next entry of the
profile's retry table for the bin (DESIGN CHOICE: taken as steps added to O, as the first try's); steps 3 and 4 shift the centre read. -/
def sensesOf (s : State) (l : Ladder) (step tries : Nat) : List (List Int) :=
  let die := cwDie l.cw
  let block := cwBlock s l.cw
  let bits := 8 * codeBytes (blkAt s die block).rate
  let delta (i : Nat) : Int := s.prof.deltas.getD i 0
  if step = 2 then
    [levelOffs s die block (if tries == 0 then roundDiv (s.prof.kOd * ((bits : Int) - 2 * l.ones)) (2 * bits)
      else (s.prof.retry.getD (binOf s die block) []).getD (tries - 1) 0)]
  else if step = 3 then [delta 0, -delta 0].map (shiftOffs s l.centre)
  else if step = 4 then [delta 1, -delta 1, delta 2, -delta 2].map (shiftOffs s l.centre)
  else [levelOffs s die block 0]

/-- Queue the senses of a step; each carries the age of the read that started the ladder (R259). -/
def queueSenses (cw step : Nat) (s : State) : State :=
  match ladderOf s cw with
  | none => s
  | some l =>
    forEach (sensesOf s l step l.tries) (fun o s => queueReadOp (readAtOp s cw (.ladder cw step) o l.since) s)
      (setLadder cw (fun l => { l with step, found := 0, lost := false, framed := false, reread := false, hold := false }) s)

/-- Hand a codeword on to a step of Table 10-5. -/
def goStep (l : Ladder) (step : Nat) (s : State) : State :=
  if probeOnly l then queueSenses l.cw step s
  else
    let s1 := countStep step s
    queueSenses l.cw step (if step = 4 then evt .sreEvt 3 s1 else s1)

/-- SRE_CFG.STEP2_TRIES, 4 to 15 as 3. -/
def step2Tries (s : State) : Nat := min 3 (rfld s .sreCfg 28 4)

/-- A ladder starts again at step 2, or past it where step 2 is skipped (R362, R422). -/
def restartAt2 (cw : Nat) (s : State) : State :=
  queueSenses cw (if step2Tries s = 0 then 3 else 2) (setLadder cw (fun x => { x with tries := 0 }) s)

/-- The step a codeword was on has failed: the next try or step, R254 to R257. A failed die goes to step 5 at once. -/
def stepFailed (l : Ladder) (s : State) : State :=
  let top := l.readers.foldl (fun a r => match r with | .probe _ t => max a t | _ => a) 0
  if probeOnly l then
    let next := if l.step = 1 ∧ step2Tries s = 0 then 3 else l.step + 1
    if l.step = 2 ∧ l.tries + 1 < step2Tries s then queueSenses l.cw 2 (setLadder l.cw (fun x => { x with tries := l.tries + 1 }) s)
    else if top < next then
      endProbe l (pack [(9, 2, l.frame), (8, 1, b2n l.mis)]) 0 l.synd (endLadder l.cw s)
    else goStep l next s
  else if (dieAt s (cwDie l.cw)).failed then enterStep5 l.cw s
  else if l.step = 1 then (if step2Tries s = 0 then goStep l 3 s else goStep l 2 s)
  else if l.step = 2 then
    (if l.tries + 1 < step2Tries s then queueSenses l.cw 2 (setLadder l.cw (fun x => { x with tries := l.tries + 1 }) s)
     else goStep l 3 s)
  else if l.step = 3 then goStep l 4 s
  else enterStep5 l.cw s

/-- Senses of a step, Table 10-5. -/
def sensesIn (step : Nat) : Nat := if step = 3 then 2 else if step = 4 then 4 else 1

/-- Reads of a codeword that are still in its die's queue. -/
def readsLeft (s : State) (cw : Nat) : Nat :=
  let d := dieAt s (cwDie cw)
  ((d.queue ++ d.wait).filter fun o => o.kind == .read && o.cws.contains cw).length

/-- A frame of the codeword's present step has been received and not yet looked at; a sense read again for a frame failure waits for its channel
(R242). -/
def frameHere (s : State) (l : Ladder) : Bool :=
  !l.framed && decide (l.step ≤ 4) && !l.hold && decide (l.found + readsLeft s l.cw < sensesIn l.step)

/-- An SRE group is not held in reset. -/
def sreUp (s : State) (ch : Nat) : Bool := islAt s (19 + ch / 8) != .reset

/-- Level offsets of the sense a ladder looks at next. -/
def senseOffs (s : State) (l : Ladder) : List Int :=
  if l.step ≤ 2 then l.offs else (sensesOf s l l.step l.tries).getD l.found []

/-- A channel is back in service: reads that met a frame failure are repeated once (R242). -/
def repeatReads (ch : Nat) (s : State) : State :=
  forEach (s.sre.ladders.filter fun l => l.hold && chanOf (cwDie l.cw) == ch) (fun l s =>
    queueReadOp (readAtOp s l.cw (.ladder l.cw l.step) (senseOffs s l) l.since) (setLadder l.cw (fun x => { x with hold := false }) s)) s

/-- One sense of a step is done. With the last the codeword waits for a decoder behind those already framed (R243, R259), or its step has failed if a
sense was lost. -/
def senseDone (l : Ladder) (s : State) : State :=
  if l.found < sensesIn l.step then setLadder l.cw (fun _ => l) s
  else if l.lost then stepFailed l (setLadder l.cw (fun _ => l) s)
  else onSre (fun x => { x with ladders := (x.ladders.filter fun y => y.cw != l.cw) ++ [{ l with framed := true }] }) s

/-- The ladder of a codeword with one more frame taken, with a frame result of Table 10-14; the highest of the senses is reported. -/
def tookFrame (k : Nat) (l : Ladder) : Ladder := { l with found := l.found + 1, reread := false, frame := max l.frame k }

/-- FRAME_RECEIVED, R240 to R242, R496: the frame of one sense of a codeword is found by its marks; on a frame failure the read is repeated once, after
the channel returns to service, and a second failure fails the step. -/
def execFrameReceived (ch cw : Nat) (m : Marks) (s : State) : Res :=
  match ladderOf s cw with
  | none => .next s
  | some l =>
    if !frameHere s l || chanOf (cwDie cw) != ch || !sreUp s ch then .next s
    else
      let quiet := probeOnly l
      let fail (s : State) : State :=
        if quiet then endProbe l (pack [(9, 2, 3), (8, 1, b2n l.mis)]) 0 l.synd (endLadder cw s)
        else
          let s1 := raiseSrc (206 + ch) (raiseSrc 258 (evt .sreEvt 2 (modFrame ch (fun f => { f with fail := f.fail + 1 }) s)))
          let s2 := askRetrain { ch, frame := true } s1
          if l.reread then senseDone { l with found := l.found + 1, reread := false, lost := true } s2
          else setLadder cw (fun x => { x with reread := true, hold := true }) s2
      match leadAt s cw m, backupAt s cw m with
      | some o, b =>
        if o = 0 then .next (senseDone (tookFrame 0 l) s)
        else if b.any (· != o) then .next (fail s)
        else if quiet then .next (senseDone (tookFrame 1 l) s)
        else .next (slip ch (evt .sreEvt 0 (modFrame ch (fun f => { f with realign := f.realign + 1 }) (senseDone (tookFrame 1 l) s))))
      | none, some _ =>
        if quiet then .next (senseDone (tookFrame 2 l) s)
        else .next (slip ch (evt .sreEvt 1 (modFrame ch (fun f => { f with leadMiss := f.leadMiss + 1 }) (senseDone (tookFrame 2 l) s))))
      | none, none =>
        if !erasedFrame s cw m then .next (fail s)
        else if quiet then .next (endProbe l (pack [(11, 1, 1), (8, 1, b2n l.mis)]) 0 l.synd (endLadder cw s))
        else .next (enterStep5 cw (evt .sreEvt 11 s))

/-- A frame is in a decoder of its group, R243: 8 hard decoders and 2 soft decoders take frames oldest first. -/
def inDecoder (s : State) (l : Ladder) : Bool :=
  let soft := decide (3 ≤ l.step)
  let same := s.sre.ladders.filter fun x => x.framed && decide (x.step ≤ 4) && decide (3 ≤ x.step) == soft && cwDie x.cw / 128 == cwDie l.cw / 128
  decide ((same.takeWhile fun x => x.cw != l.cw).length < if soft then 2 else 8)

/-- Iteration limit of a step's decoder, SRE_CFG.HD_ITER or SD_ITER. -/
def iterMax (s : State) (step : Nat) : Nat := orOne (rfld s .sreCfg (if step ≤ 2 then 8 else 16) 8)

/-- A decode converged within the iteration limit (R243). -/
def converges (s : State) (step : Nat) (d : Decode) : Bool := d.converged && decide (d.iters ≤ iterMax s step)

/-- DECODE_RESULT, R243 to R245, R249, R254: a decode of the step a codeword is on ends; its seal is checked and it succeeds or
climbs the ladder. -/
def execDecodeResult (cw step : Nat) (d : Decode) (s : State) : Res :=
  match ladderOf s cw with
  | none => .next s
  | some l0 =>
    if l0.step ≠ step ∨ !l0.framed ∨ 4 < step ∨ !inDecoder s l0 ∨ !sreUp s (chanOf (cwDie cw)) ∨ (2 ≤ step ∧ !seqUp s 6) then .next s
    else
      let low := step = 1 ∨ (step = 2 ∧ d.syndrome < l0.best)
      let l := { l0 with best := if step = 1 then d.syndrome else min l0.best d.syndrome, synd := d.syndrome,
                         centre := if low then l0.offs else l0.centre, ones := if step = 1 then d.ones else l0.ones }
      let quiet := probeOnly l
      let s0 := setLadder cw (fun x => { x with best := l.best, synd := l.synd, centre := l.centre, ones := l.ones }) s
      let s1 := if step = 1 && !quiet then countStep 1 s0 else s0
      if converges s step d && (d.sealOk || d.poison) then
        if quiet then
          .next (endProbe l (pack [(9, 2, l.frame), (8, 1, b2n l.mis), (0, 3, step)]) d.bits.length d.syndrome (endLadder cw s1))
        else
          let s2 := if step = 1 then countDecode cw d s1 else s1
          .next (finishCw l step d.poison s2)
      else if converges s step d then
        let l1 := { l with mis := true }
        let s2 := setLadder cw (fun x => { x with mis := true }) s1
        .next (stepFailed l1 (if quiet then s2 else raiseSrc 254 (evt .sreEvt 6 s2)))
      else .next (stepFailed l s1)

/-! ## Opcodes, Table 10-14 -/

/-- A die is absent or failed. -/
def dieGone (s : State) (die : Nat) : Bool := !(dieAt s die).present || (dieAt s die).failed

/-- SRE_INFO. -/
def execSreInfo (src : Nat) (s : State) : Res :=
  .next (serveRead src 0x0480 (fun s _ => (0, [reg s .sreCfg, reg s .sreCfg2, regValue s .sreSts 0, regValue s .sreStepCnt 3,
    regValue s .sreStepCnt 4, regValue s .sreStepCnt 5])) s)

/-- LOOP_GET. -/
def execLoopGet (src : Nat) (s : State) : Res :=
  .next (serveRead src 0x0481 (fun s r =>
    let die := rqTgt r
    let b := fld (rqW r 2) 0 4
    if dieGone s die then (0x0480, [])
    else if 9 < b then (0x0481, [])
    else
      let x := binAt s die b
      let blks := (List.range s.prof.blocksPerDie).filter fun k =>
        let y := blkAt s die k
        (y.st == .opened || y.st == .closed || y.st == .victim) && binOf s die k == b
      (0, [binW x, lo32 x.windows, lo32 blks.length])) s)

/-- DEFECT_LIST records, R263. -/
def defectRecs (d : SreDie) : List (List Word) :=
  (d.cols.map fun c => [pack [(30, 2, c.kind), (28, 2, c.plane), (0, 18, c.col)], 0]) ++
    d.wls.map fun w => [pack [(30, 2, 3), (0, 18, w.2)], lo32 w.1]

/-- DEFECT_LIST. -/
def execDefectList (src : Nat) (s : State) : Res :=
  .next (serve src 0x0482 (fun _ => false)
    (fun s r => match bytesOk r 8 with
      | some x => some x
      | none => if dieGone s (rqTgt r) then some (0x0480, []) else none)
    (fun r _ s =>
      let (k, o, data) := listOut r 8 (defectRecs (sreDieAt s (rqTgt r)))
      (s, { detail := [lo32 k, lo32 o], data })) s)

/-- COLDEF_ADD. A full list refuses it and sets COL_FULL, R252. -/
def execColdefAdd (src : Nat) (s : State) : Res :=
  .next (serve src 0x0483 (fun _ => false)
    (fun s r =>
      let col := fld (rqW r 2) 0 18
      if rqW r 2 &&& 0x3FFC0000 ≠ 0 then some (badField 2 (rqW r 2 &&& 0x3FFC0000))
      else if dieGone s (rqTgt r) then some (0x0480, [])
      else if s.prof.pageBytes * 8 ≤ col then some (0x0483, [])
      else none)
    (fun r _ s =>
      let c : Col := { plane := fld (rqW r 2) 30 2, col := fld (rqW r 2) 0 18, kind := 2 }
      let s1 := addCol (rqTgt r) c s
      if (sreDieAt s1 (rqTgt r)).cols.any fun x => x.plane == c.plane && x.col == c.col then
        (s1, { detail := [regValue s1 .sreDieSts (rqTgt r)] })
      else (s1, { status := 0x0482 })) s)

/-- LOOP_RESET: the bins of the mask return to the profile's initial loop values, and with [31] the detected columns go. -/
def execLoopReset (src : Nat) (s : State) : Res :=
  .next (serve src 0x0484 (fun _ => false)
    (fun s r =>
      if rqW r 2 &&& 0x7FFFFC00 ≠ 0 then some (badField 2 (rqW r 2 &&& 0x7FFFFC00))
      else if dieGone s (rqTgt r) then some (0x0480, []) else none)
    (fun r _ s =>
      let w := rqW r 2
      let s1 := modSreDie (rqTgt r) (fun d =>
        { d with bins := d.bins.map fun b => (b.1, if bitOf w b.1 then { bin0 s.prof b.1 with windows := b.2.windows } else b.2),
                 cols := if bitOf w 31 then d.cols.filter fun c => c.kind != 1 else d.cols, dirty := true }) s
      (s1, { detail := [regValue s1 .sreDieSts (rqTgt r)] })) s)

/-- LADDER_PROBE, R262, R263: a long operation that reads and decodes a codeword up to a step. -/
def execLadderProbe (src : Nat) (s : State) : Res :=
  let cwi (r : CamReq) := fld (rqW r 2) 0 27
  let top (r : CamReq) := fld (rqW r 3) 0 3
  .next (serve src 0x0485 (fun _ => true)
    (fun s r =>
      if rqW r 2 &&& 0xF8000000 ≠ 0 then some (badField 2 (rqW r 2 &&& 0xF8000000))
      else if rqW r 3 &&& 0xFFFFFFF8 ≠ 0 then some (badField 3 (rqW r 3 &&& 0xFFFFFFF8))
      else if top r = 0 ∨ 4 < top r then some (badField 3 1)
      else if dieGone s (rqTgt r) then some (0x0480, [])
      else if s.prof.blocksPerDie * cwsPerBlk s.prof ≤ cwi r then some (0x0483, [])
      else none)
    (fun r h s =>
      let cw := cwKey (rqTgt r) (cwi r)
      let fresh := (ladderOf s cw).isNone
      let s1 := toLadder cw (.probe h (top r)) 1 s
      (if fresh then queueSenses cw 1 s1 else s1, {})) s)

end Sys2Proof.Machine
end

