-- ==== Sys2Proof/Machine/Fch.lean ====
section
/-! DEFINITION. Flash channels and die operations (R206 to R235): selection within a die queue, the program-order guard, tokens,
bus transfers, overruns, erase suspend, retraining, and the opcodes of Table 9-16. -/

namespace Sys2Proof.Machine

/-! ## Tokens, R215, R390 to R393 -/

/-- Cost of an operation: the profile's token table, keyed by 8 × kind + 4 × SLC + planes − 1; an erase resume is kind 5. -/
def costOf (p : Profile) (kind : Nat) (slc : Bool) (planes : Nat) : Nat :=
  ((p.tokens.find? fun e => e.1 == 8 * kind + 4 * b2n slc + (planes - 1)).map (·.2)).getD 0

/-- Token cost of a die queue entry as it would start now. -/
def opCost (s : State) (o : Dop) : Nat :=
  match o.kind with
  | .read => costOf s.prof 1 o.slc o.planes
  | .program => costOf s.prof 2 o.slc o.planes
  | .erase => costOf s.prof (if o.st = .suspended then 5 else 3) o.slc o.planes
  | .feature | .reset => 0

/-- Typical array time of a kind, µs. -/
def typical (p : Profile) : DieKind → Nat
  | .read => p.tRead
  | .program => p.tProg
  | .erase => p.tErase
  | .feature | .reset => 0

/-- Change one entry of a die queue. -/
def modOp (die id : Nat) (f : Dop → Dop) (s : State) : State :=
  modDie die (fun d => { d with queue := d.queue.map fun o => if o.id = id then f o else o }) s

/-- An entry has a token request in the arbiter. -/
def asksToken (s : State) (o : Dop) : Bool := (s.pwr.reqs ++ s.pwr.bgReqs).any fun r => r.op == o.id

/-! ## Selection, R211 -/

/-- The die's array is free: nothing in TOKEN_WAIT, ARRAY or BUS_OUT, no resume waiting for its token, no reset outstanding. -/
def arrayFree (s : State) (d : Die) : Bool :=
  !d.resetting && d.queue.all fun o =>
    !(o.st == .tokenWait || o.st == .array || o.st == .busOut || (o.st == .suspended && asksToken s o))

/-- The suspended erase of a die. -/
def suspOf (d : Die) : Option Dop := d.queue.find? fun o => o.st == .suspended

/-- FCH_CFG2.ESUS_MAX in ns. -/
def esusMax (s : State) : Nat := orOne (rfld s .fchCfg2 24 8) * 100000

/-- The profile's maximum program time of a step, ns. -/
def maxProgOf (s : State) (step : Nat) : Nat := s.prof.maxProgs.getD step s.prof.maxProg * 1000

/-- R221: a program may start while an erase is suspended. -/
def progFits (s : State) (d : Die) (o : Dop) : Bool :=
  match suspOf d with
  | none => true
  | some e => !o.late && decide (s.pwr.tb - e.suspT + maxProgOf s o.step ≤ esusMax s)

/-- Programs that could not start beside the suspended erase wait until it has completed. -/
def markLate (s : State) (die : Nat) (p : Dop → Bool) : State :=
  modDie die (fun d => { d with queue := d.queue.map fun o => if o.kind == .program && p o && !progFits s d o then { o with late := true } else o }) s

/-- R217's sequence order within a block: no queued program of the block with a lower step. -/
def firstOfBlk (d : Die) (o : Dop) : Bool :=
  d.queue.all fun x => !(x.kind == .program && x.block == o.block && x.st == .queued && decide (x.step < o.step))

def isRebuild (o : Dop) : Bool := o.use == .rebuild

/-- Rebuild against other operations on a die where both wait, Table 11-3: whether rebuild goes first. -/
def rebuildFirst (s : State) (d : Die) : Bool :=
  match s.dre.pri with
  | 0 => false
  | 1 => decide (3 ≤ d.hostRun)
  | 2 => decide (1 ≤ d.hostRun)
  | _ => true

/-- The oldest entry of a list. -/
def oldest (l : List Dop) : Option Dop :=
  l.foldl (fun a o => match a with
    | none => some o
    | some b => if o.since < b.since then some o else some b) none

/-- The oldest of a list of entries, with rebuild's priority. -/
def pickFirst (s : State) (d : Die) (l : List Dop) : Option Dop :=
  let rb := oldest (l.filter isRebuild)
  let ho := oldest (l.filter fun o => !isRebuild o)
  if rebuildFirst s d then rb.or ho else ho.or rb

/-- Whether a queued entry may start by R220, R221 and R217's order. -/
def mayStart (s : State) (d : Die) (o : Dop) : Bool :=
  match o.kind with
  | .program => progFits s d o && firstOfBlk d o
  | .erase => (suspOf d).isNone
  | _ => true

/-- The entry Table 9-3 chooses. -/
def chooseOp (s : State) (d : Die) : Option Dop :=
  let q := (d.queue.filter fun o => o.st == .queued && mayStart s d o)
  let due := d.queue.find? fun o => o.st == .suspended && o.dueRes
  let passed := oldest (q.filter fun o => isWrite o.kind && decide (16 ≤ o.passed))
  let maps := oldest (q.filter isMapRead)
  let reads := q.filter fun o => (o.kind == .read || o.kind == .feature) && !isMapRead o
  let fg := reads.filter fun o => !o.bg
  let progs := q.filter fun o => o.kind == .program
  let ers := oldest (q.filter fun o => o.kind == .erase)
  let fgAny := !fg.isEmpty || !progs.isEmpty || ers.isSome
  let reads := if decide (2000 ≤ d.bgRun) && fgAny then fg else reads
  (((due.or passed).or maps).or (pickFirst s d reads)).or ((pickFirst s d progs).or ers)

/-- The program-order guard, Table 9-6: state, step, planes and pages (those of the mode the block is programmed in). A block state read from DRAM
with an uncorrectable error refuses the operation. -/
def orderOk (s : State) (die : Nat) (o : Dop) : Bool :=
  let b := blkAt s die o.block
  match o.kind with
  | .program => !b.ue && (b.bst == .erased || b.bst == .opened) && b.next == o.step && decide (o.step < seqLen s.prof b.stream) &&
      o.planes == 4 && o.slc == (b.stream == 2)
  | .erase => o.st == .suspended || (!b.ue && b.bst == .doubt)
  | _ => true

/-- A refused operation, R217: no command cycle, FCH_EVT.ORDER, source 238; the data of a PROGRAM is placed again. A block state that could not be
read is rebuilt from the cistern. -/
def refuseOp (die : Nat) (o : Dop) (s : State) : State :=
  let s1 := blkMod die o.block (fun b => { b with ue := false }) (raiseSrc 238 (evt .fchEvt 0 (freeEntry die o s)))
  if o.kind = .program then
    let b := blkAt s die o.block
    let per := stepCws s.prof b.stream
    let lo := cwKey die (cwOf s.prof o.block (groupAt s.prof b.stream o.step * per))
    placeAgain (s1.fte.prog.filter fun e => decide (lo ≤ e.1) && decide (e.1 < lo + per)) s1
  else s1

/-- Bookkeeping when an entry starts: reads pass the programs and erases that wait, and the rebuild and background counts. -/
def startCounts (die : Nat) (o : Dop) (s : State) : State :=
  modDie die (fun d =>
    { d with queue := d.queue.map fun x => if isRead o.kind && isWrite x.kind && x.st == .queued then { x with passed := x.passed + 1 } else x,
             hostRun := if isRebuild o then 0 else d.hostRun + 1,
             bgRun := if o.bg then d.bgRun + typical s.prof o.kind else 0 }) s

/-- Begin an array phase: the token is held until its end (R215). -/
def beginArray (die : Nat) (o : Dop) (cost : Nat) (s : State) : State :=
  onPwr (fun p => { p with held := p.held + cost, reqs := p.reqs.filter fun r => r.op != o.id,
                           bgReqs := p.bgReqs.filter fun r => r.op != o.id })
    (modOp die o.id (fun x => { x with st := .array, held := cost, dueSusp := false, dueRes := false, arrT := s.pwr.tb }) s)

/-- DIE_ENTRY_CHOSEN, R211, R217, in the native budget mode: the chosen entry requests its token, needs none, or is refused. -/
def execDieEntryChosen (die : Nat) (s0 : State) : Res :=
  let s := if engines s0 then markLate (drainQ die s0) die (fun o => o.st == .queued) else s0
  let d := dieAt s die
  if !d.present || d.failed || !engines s || zk540 s || !arrayFree s d then .next s
  else match chooseOp s d with
    | none => .next s
    | some o =>
      if !orderOk s die o then .next (refuseOp die o s)
      else
        let s1 := startCounts die o s
        if o.kind = .feature ∨ o.kind = .reset then .next (beginArray die o 0 s1)
        else
          let c := opCost s o
          let rq : TokReq := { die, op := o.id, cost := c, energy := c * typical s.prof o.kind }
          let s2 := if o.st = .suspended then s1 else modOp die o.id (fun x => { x with st := .tokenWait }) s1
          .next (onPwr (fun p => if o.bg then { p with bgReqs := p.bgReqs ++ [rq] } else { p with reqs := p.reqs ++ [rq] }) s2)

/-- Offered entries of every die in the ZK-540 dispatch mode, R393: what could start next. -/
def offered (s : State) : List (Nat × Dop) :=
  s.fch.dies.flatMap fun e =>
    if !e.2.present || e.2.failed || !arrayFree s e.2 then []
    else (e.2.queue.filter fun o => (o.st == .queued && mayStart s e.2 o) || (o.st == .suspended && o.dueRes)).map fun o => (e.1, o)

/-- The entry the ZK-540 dispatch mode grants next, R393. -/
def zkChoice (s : State) : Option (Nat × Dop) :=
  let off := offered s
  let fgs := off.filter fun x => !x.2.bg
  let use := if fgs.isEmpty then off else fgs
  let fits := use.filter fun x => decide (opCost s x.2 ≤ s.pwr.pool - s.pwr.held)
  let en (x : Nat × Dop) := opCost s x.2 * typical s.prof x.2.kind
  match fits.find? fun x => decide (x.2.since + 2000000 ≤ s.pwr.tb) with
  | some x => some x
  | none => (fits.filter fun x => decide (en x ≤ s.pwr.energy)).foldl (fun a x => match a with
      | none => some x
      | some b => if en x < en b ∨ (en x = en b ∧ x.2.id < b.2.id) then some x else some b) none

/-- The READ of a channel that has been ready longest, R212. -/
def oldestBus (s : State) (ch : Nat) : Option (Nat × Dop) :=
  ((List.range 16).flatMap fun k => ((dieAt s (dieNo ch k)).queue.filter fun o => o.st == .busOut).map fun o => (dieNo ch k, o)).foldl
    (fun a x => match a with
      | none => some x
      | some b => if x.2.since < b.2.since ∨ (x.2.since = b.2.since ∧ x.2.id < b.2.id) then some x else some b) none

/-- A channel takes no bus transfer and no poll: it retrains (R232), or its FCH group is held in reset (R362). -/
def chanHeld (s : State) (ch : Nat) : Bool := (chanAt s ch).trn || islAt s (11 + ch / 4) == .reset

/-- A channel's bus is free for the command cycles and the program data of an operation that starts now: bus work goes oldest-ready first (R212), and
none goes while the channel retrains. -/
def busFree (s : State) (die : Nat) : Bool := !chanHeld s (chanOf die) && (oldestBus s (chanOf die)).isNone

/-- A program whose token comes too late to fit the suspension of an erase goes back to wait for the erase (R221). -/
def tooLate (die : Nat) (o : Dop) (s : State) : State :=
  modOp die o.id (fun x => { x with st := .queued, late := true }) (dropTokens o s)

/-- An operation that has its token starts. -/
def startOp (die : Nat) (o : Dop) (cost : Nat) (s : State) : State :=
  if o.kind = .program && !progFits s (dieAt s die) o then tooLate die o s else beginArray die o cost s

/-- TOKEN_GRANT, R390, R392, R393: the arbiter grants a waiting request whose cost fits P − H, in the order of the budget
mode; the operation's bus work is done and its array phase begins. -/
def execTokenGrant (die op : Nat) (s : State) : Res :=
  if !engines s || !busFree s die then .next s
  else if zk540 s then
    match zkChoice s with
    | none => .next s
    | some (k, o) =>
      if k = die ∧ o.id = op then
        if !orderOk s die o then .next (refuseOp die o s)
        else
          let c := opCost s o
          let s1 := startOp die o c (startCounts die o s)
          .next (onPwr (fun p => { p with energy := p.energy - c * typical s.prof o.kind }) s1)
      else .next s
  else
    let rq := match s.pwr.reqs with
      | r :: _ => some r
      | [] => s.pwr.bgReqs.head?
    match rq with
    | none => .next s
    | some r =>
      match (dieAt s die).queue.find? fun o => o.id == op with
      | none => .next s
      | some o =>
        if r.die = die ∧ r.op = op ∧ r.cost ≤ s.pwr.pool - s.pwr.held then .next (startOp die o r.cost s)
        else .next s

/-- ZK540_WINDOW, R393: a new 1 ms energy window of P × 1 ms, in token × µs; what is unspent is lost. -/
def execZk540Window (s : State) : Res :=
  if zk540 s then .next (onPwr (fun p => { p with energy := p.pool * 1000 }) s) else .next s

/-! ## Array ends -/

/-- The entry of a die in its array phase. -/
def inArray (d : Die) : Option Dop := d.queue.find? fun o => o.st == .array

/-- DIE_READY_POLL, R214, Table 9-4: the die is ready; a READ goes to BUS_OUT, a PROGRAM or ERASE that passed to DONE, the token
is returned. A die reset that was outstanding has ended. -/
def execDieReadyPoll (die : Nat) (s : State) : Res :=
  let d := dieAt s die
  if !d.present || d.failed || chanHeld s (chanOf die) then .next s
  else if d.resetting then .next (modDie die (fun d => { d with resetting := false }) s)
  else match inArray d with
    | none => .next s
    | some o =>
      let s1 := inTime die (dropTokens o s)
      match o.kind with
      | .read => .next (modOp die o.id (fun x => { x with st := .busOut, held := 0, since := s.pwr.tb }) s1)
      | .program =>
        let s2 := blkMod die o.block (fun b =>
          let n := b.next + 1
          { b with next := n, bst := if seqLen s.prof b.stream ≤ n then .full else .opened }) s1
        .next (modOp die o.id (fun x => { x with st := .done, held := 0 }) s2)
      | .erase => .next (modOp die o.id (fun x => { x with st := .done, held := 0 }) s1)
      | .feature | .reset => .next (freeEntry die o s1)

/-- BUS_TRANSFER_GRANT, R212: the channel's oldest ready read leaves its die; its codewords reach SRE, its reference is released
(R198) and its entry freed. -/
def execBusTransferGrant (ch die : Nat) (s : State) : Res :=
  if chanHeld s ch ∨ !engines s then .next s
  else match oldestBus s ch with
    | none => .next s
    | some (k, o) =>
      if k ≠ die then .next s
      else
        let s1 := freeEntry die o (endRefs die o s)
        match o.use with
        | .host _ | .mapPage _ _ | .fold _ _ | .gc | .rebuild | .scrub =>
          .next (forEach o.cws (fun c s => setLadder c (fun l => if l.offs = [] then { l with offs := o.offs, since := o.since } else l)
            (toLadder c (useReader o.use) 1 s)) s1)
        | .ladder c _ => .next (setLadder c (fun l => { l with offs := o.offs }) s1)
        | .spill | .eraseBlk | .selfTest | .recal | .stream => .next s1

/-- An erase is issued again in full: its suspends start again and the count is charged once more (R214, Table 8-6). -/
def reissueErase (die : Nat) (o : Dop) (s : State) : State :=
  let s1 := blkMod die o.block (fun b => { b with ec := b.ec + 1 }) (dropTokens o s)
  let s2 := onCst (fun c => { c with doubt := c.doubt.map fun x => if x.1 = die ∧ x.2.1 = o.block then (die, o.block, x.2.2 + 1) else x }) s1
  modDie die (fun d => { d with erases := d.erases + 1 })
    (modOp die o.id (fun x => { x with st := .queued, susp := 0, dueSusp := false, dueRes := false, held := 0, ran := 0 }) s2)

/-- An operation whose entry is freed has timed out, R214: a PROGRAM or ERASE failed, a READ goes to the ladder. -/
def timedOut (die : Nat) (o : Dop) (s : State) : State :=
  match o.kind with
  | .program => failProgram die o.block o.step s
  | .erase => retireErased die o.block s
  | .read => forEach o.cws (fun c s =>
      let s' := match o.use with
        | .ladder _ _ => s
        | u => toLadder c (useReader u) 1 s
      match ladderOf s' c with
      | some l => stepFailed l s'
      | none => s') s
  | .feature | .reset => s

/-- ARRAY_OVERRUN, R214: the die is reset and the operation fails with timeout; a suspended erase is issued again in full;
three overruns in succession make the die failed. -/
def execArrayOverrun (die : Nat) (s : State) : Res :=
  let d := dieAt s die
  if !d.present || d.failed || chanHeld s (chanOf die) then .next s
  else match inArray d with
    | none => .next s
    | some o =>
      let s1 := raiseSrc 240 (evt .fchEvt 6 (freeEntry die o (endRefs die o s)))
      let s2 := modDie die (fun d => { d with runs := d.runs + 1, overruns := d.overruns + 1, resetting := true }) s1
      let s3 := match suspOf (dieAt s2 die) with
        | some e => reissueErase die e s2
        | none => s2
      let s4 := timedOut die o s3
      .next (if 3 ≤ (dieAt s4 die).runs then failDie die s4 else s4)

/-- DIE_RESET_READY_TIMEOUT, R214: a die not ready within 1 ms of its reset is failed. -/
def execDieResetReadyTimeout (die : Nat) (s : State) : Res :=
  if (dieAt s die).resetting then .next (failDie die s) else .next s

/-! ## Erase suspend, R220 to R225 -/

/-- A read or FEATURE waits in the queue of a die. -/
def readWaits (d : Die) : Bool := d.queue.any fun o => isRead o.kind && o.st == .queued

/-- FCH_CFG.SUSP_MAX. -/
def suspMax (s : State) : Nat := rfld s .fchCfg 28 4

/-- A read waits for an erase at its limit, R222: SUSP_LIM and source 241, once for the erase. -/
def suspLimit (die : Nat) (o : Dop) (s : State) : State :=
  if o.dueSusp then s
  else raiseSrc 241 (evt .fchEvt 5 (modOp die o.id (fun x => { x with dueSusp := true }) s))

/-- Array time of an operation so far, suspensions not counted: its run ends when a suspend is issued. -/
def runOf (s : State) (o : Dop) : Nat := if o.dueSusp ∧ o.susp < suspMax s then o.ran else o.ran + (s.pwr.tb - o.arrT)

/-- FCH_CFG.ERS_SEG in ns. -/
def ersSeg (s : State) : Nat := orOne (rfld s .fchCfg 20 8) * 10000

/-- SUSPEND_DUE, R222, R223: a read waits and the erase has run ERS_SEG since it started or last resumed: the suspend sequence is issued. An erase at
its limit runs on, and with SUSP_MAX 0 none is suspended. -/
def execSuspendDue (die : Nat) (s : State) : Res :=
  let d := dieAt s die
  match inArray d with
  | none => .next s
  | some o =>
    if o.kind ≠ .erase ∨ !readWaits d ∨ suspMax s = 0 ∨ !engines s then .next s
    else if suspMax s ≤ o.susp then .next (suspLimit die o s)
    else if o.dueSusp ∨ s.pwr.tb - o.arrT < ersSeg s then .next s
    else .next (modOp die o.id (fun x => { x with dueSusp := true, ran := runOf s o }) s)

/-- ERASE_SUSPEND_DONE, R223: the die reports the erase suspended and its token is returned. -/
def execEraseSuspendDone (die : Nat) (s : State) : Res :=
  match inArray (dieAt s die) with
  | none => .next s
  | some o =>
    if o.kind = .erase ∧ o.dueSusp ∧ o.susp < suspMax s then
      .next (modOp die o.id (fun x => { x with st := .suspended, susp := x.susp + 1, dueSusp := false, held := 0, suspT := s.pwr.tb })
        (dropTokens o s))
    else .next s

/-- RESUME_DUE, R224: nothing waits that may run and nothing runs, or ESUS_MAX has elapsed and no array phase runs. -/
def execResumeDue (die : Nat) (s : State) : Res :=
  let d := dieAt s die
  match suspOf d with
  | none => .next s
  | some o =>
    let waits := d.queue.any fun x => x.st == .queued && (isRead x.kind || (x.kind == .program && mayStart s d x))
    let idle := (inArray d).isNone && d.queue.all fun x => x.st != .tokenWait
    if !engines s then .next s
    else if idle ∧ (!waits ∨ o.suspT + esusMax s ≤ s.pwr.tb) then .next (modOp die o.id (fun x => { x with dueRes := true }) s)
    else .next s

/-! ## Read-around, R213, R276 -/

/-- DRE accepts a read-around of a codeword: closed stripe, no other member on a failed die or retraining channel, room for one
more read on each, fewer than 256 reconstructions. -/
def aroundOk (s : State) (cw : Nat) : Bool :=
  let die := cwDie cw
  let b := blkAt s die (cwBlock s cw)
  match stripeAt s (dieDom die) b.stripe with
  | none => false
  | some t =>
    t.st == .closed && decide (s.dre.recon.length < 256) && t.members.all fun m =>
      m.1 == die || (!dieGone s m.1 && !(chanAt s (chanOf m.1)).trn && roomFor (dieAt s m.1).queue .read)

/-- The expected wait of a read behind an array phase that cannot be suspended, or behind its channel's retraining, in µs, R213. A phase that cannot be
suspended has no suspend latency to add (DEDUCED). -/
def expectedWait (s : State) (die : Nat) : Option Nat :=
  let stuck (x : Dop) : Bool := x.kind == .program || (x.kind == .erase && (suspMax s == 0 || decide (suspMax s ≤ x.susp)))
  let behind := ((inArray (dieAt s die)).filter stuck).map fun x => typical s.prof x.kind - runOf s x / 1000
  if (chanAt s (chanOf die)).trn then some (400 - (s.pwr.tb - (s.fch.trnNow.map (·.t0)).getD 0) / 1000) else behind

/-- READ_AROUND_OFFER, R213: a host read (never a ladder operation, R259) that waits behind an array phase that cannot be
suspended, or behind retraining, and is expected to wait longer than RA_US, is offered to DRE. -/
def execReadAroundOffer (die op : Nat) (s : State) : Res :=
  let d := dieAt s die
  match d.queue.find? fun o => o.id == op && o.kind == .read && o.st == .queued with
  | none => .next s
  | some o =>
    let ra := rfld s .fchCfg 12 8 * 10
    let own := match o.use with | .ladder _ _ => false | _ => true
    if ra = 0 ∨ !((expectedWait s die).any fun w => decide (ra < w)) ∨ !own ∨ !engines s then .next s
    else
      let s0 := match inArray d with
        | some x => if x.kind = .erase ∧ 0 < suspMax s ∧ suspMax s ≤ x.susp then suspLimit die x s else s
        | none => s
      if !(o.cws.all (aroundOk s)) then .next s0
      else
        let s1 := freeEntry die o (endRefs die o s0)
        let s2 := forEach o.cws (fun c s =>
          toRecon c (evt .sreEvt 4 (countStep 5 (setLadder c (fun l => { l with step := 5, around := true }) (toLadder c (useReader o.use) 5 s))))) s1
        .next (evt .fchEvt 7 s2)

/-! ## Retraining, R229 to R233 -/

/-- CHANNEL_TEMP_SAMPLE, Table 9-8: a deviation of more than 12 °C from the training temperature queues retraining. -/
def execChannelTempSample (ch : Nat) (temp : Int) (s : State) : Res :=
  let c := chanAt s ch
  if 32 ≤ ch ∨ !c.up ∨ !engines s then .next s
  else
    let s1 := modChan ch (fun c => { c with temp }) s
    .next (if 12 < (temp - c.trnTemp).natAbs then askRetrain { ch } s1 else s1)

/-- FCH_CFG2.EYE_MIN and GUARD. -/
def eyeMin (s : State) : Nat := rfld s .fchCfg2 16 8
def eyeGuard (s : State) : Nat := rfld s .fchCfg2 8 8

/-- MARGIN_CHECK, Table 9-8: the channel's eye is measured; below EYE_MIN + GUARD it is queued for retraining. -/
def execMarginCheck (ch eye : Nat) (s : State) : Res := onSeq 4 s <|
  let c := chanAt s ch
  if 32 ≤ ch ∨ !c.up ∨ chanHeld s ch ∨ rfld s .fchCfg 0 8 = 0 ∨ !engines s then .next s
  else
    let s1 := modChan ch (fun c => { c with eye }) s
    .next (if eye < eyeMin s + eyeGuard s then askRetrain { ch } s1 else s1)

/-- RETRAIN_QUEUE_SERVED, R231, R232: frame failures first, then the rest, in arrival order, one channel at a time. -/
def execRetrainQueueServed (s : State) : Res := onSeq 4 s <|
  if s.fch.trnNow.isSome ∨ !engines s then .next s
  else match (s.fch.trnQ.find? (·.frame)).or s.fch.trnQ.head? with
    | none => .next s
    | some r =>
      .next (onFch (fun f => { f with trnQ := f.trnQ.filter fun x => x.ch != r.ch, trnNow := some { r with t0 := s.pwr.tb } })
        (modChan r.ch (fun c => { c with trn := true }) s))

/-- The rate below one on the ladder of R230; 0 below the lowest. -/
def rateDown (p : Profile) (r : Nat) : Nat := (p.rates.filter fun x => decide (x < r)).foldl max 0

/-- RETRAIN_COMPLETE, R232: the channel passes with an eye of EYE_MIN + GUARD, drops a rate step and is queued again, or fails
at every step, and then each of its dies fails, in die-number order. -/
def execRetrainComplete (t : ChTrain) (s : State) : Res := onSeq 4 s <|
  match s.fch.trnNow with
  | none => .next s
  | some r =>
    let c := chanAt s r.ch
    let from0 := if r.rateReset then s.prof.rates.headD 0 else c.rate
    let s1 := onFch (fun f => { f with trnNow := none }) (modChan r.ch (fun c =>
      { c with trn := false, retrains := c.retrains + 1, lastTrn := s.pwr.tb, trnTemp := t.temp, eye := t.eye, slipT := [] }) s)
    let s2 := repeatReads r.ch (evt .fchEvt 2 s1)
    if eyeMin s + eyeGuard s ≤ t.eye then
      let s3 := modChan r.ch (fun c => { c with rate := from0 }) s2
      .next (endOpt r.op 0 [chStsW (chanAt s3 r.ch)] s3)
    else
      let low := rateDown s.prof from0
      if low ≠ 0 then
        let s3 := raiseSrc (206 + r.ch) (evt .fchEvt 3 (modChan r.ch (fun c => { c with rate := low }) s2))
        .next (askRetrain { ch := r.ch, op := r.op } s3)
      else
        let s3 := raiseSrc (206 + r.ch) (evt .fchEvt 4 (modChan r.ch (fun c => { c with failed := true, up := false }) s2))
        let s4 := forN 16 (fun k s => if (dieAt s (dieNo r.ch k)).present then failDie (dieNo r.ch k) s else s) s3
        .next (endOpt r.op 0 [chStsW (chanAt s4 r.ch)] s4)

/-! ## Opcodes, Table 9-16 -/

/-- Dies that are listed and answer. -/
def presentDies (s : State) : Nat := (s.fch.dies.filter fun e => e.2.present).length

/-- FCH_INFO. -/
def execFchInfo (src : Nat) (s : State) : Res :=
  .next (serveRead src 0x0400 (fun s _ => (0, [reg s .fchCfg, reg s .fchCfg2, regValue s .fchSts 0, regValue s .fchChFail 0,
    lo32 (presentDies s)])) s)

/-- CH_STATUS. -/
def execChStatus (src : Nat) (s : State) : Res :=
  .next (serveRead src 0x0401 (fun s r =>
    let c := chanAt s (rqTgt r)
    (0, [chStsW c, chCntW c, pack ((List.range 16).map fun k => (k, 1, b2n (dieAt s (dieNo (rqTgt r) k)).present)),
      lo32 ((s.pwr.tb - c.lastTrn) / 1000000000)])) s)

/-- DIE_STATUS. -/
def execDieStatus (src : Nat) (s : State) : Res :=
  .next (serveRead src 0x0402 (fun s r =>
    let d := dieAt s (rqTgt r)
    if !d.present then (0x0400, []) else (0, [dieqW d, lo32 d.erases, lo32 d.progFails, lo32 d.eraseFails, lo32 d.overruns])) s)

/-- CH_RETRAIN, R234: a long operation that ends when the channel has been retrained. -/
def execChRetrain (src : Nat) (s : State) : Res :=
  .next (serve src 0x0403 (fun _ => true)
    (fun s r =>
      let ch := rqTgt r
      if rqW r 2 &&& 0xFFFFFFFE ≠ 0 then some (badField 2 (rqW r 2 &&& 0xFFFFFFFE))
      else if s.fch.trnQ.any (fun x => x.ch == ch) || s.fch.trnNow.any (fun x => x.ch == ch) then some (0x0401, [])
      else if (chanAt s ch).failed then some (0x0402, []) else none)
    (fun r h s => (askRetrain { ch := rqTgt r, rateReset := bitOf (rqW r 2) 0, op := some h } s, {})) s)

/-- Bytes of a die's parameter page as read (R208): the manual does not state them; they are a free value of the die. -/
def paramBytes (s : State) (die : Nat) : List Byte := leBytes 256 (Config.freeData (dieAt s die).params)

/-- DIE_PARAM. -/
def execDieParam (src : Nat) (s : State) : Res :=
  .next (serve src 0x0404 (fun _ => false)
    (fun s r => if !(dieAt s (rqTgt r)).present then some (0x0400, []) else if dscBytes r < 256 then some (badField 3 1) else none)
    (fun r _ s => (s, { detail := [lo32 256], data := paramBytes s (rqTgt r) })) s)

def bstCode : BstSt → Nat
  | .erased => 0 | .opened => 1 | .full => 2 | .doubt => 3 | .bad => 4 | .header => 5

/-- BST_GET. -/
def execBstGet (src : Nat) (s : State) : Res :=
  .next (serveRead src 0x0405 (fun s r =>
    let block := fld (rqW r 2) 0 16
    if !(dieAt s (rqTgt r)).present || !decide (block < s.prof.blocksPerDie) then (0x0400, [])
    else
      let b := blkAt s (rqTgt r) block
      (0, [pack [(16, 12, b.next), (0, 3, bstCode b.bst)]])) s)

end Sys2Proof.Machine
end

