-- ==== Sys2Proof/Machine/Dre.lean ====
section
/-! DEFINITION. Die redundancy and twin mirroring (R265 to R288): reconstruction, rebuild, mirror commands and resync, and the
opcodes of Table 11-9. -/

namespace Sys2Proof.Machine

/-! ## Reconstruction and closing -/

def granKey (ns g : Nat) : Nat := 2 ^ 20 * ns + g

/-- R286: the partner holds a current copy of the IU a codeword belongs to: the pair is not broken, and the granule of the IU is neither dirty nor
active. -/
def partnerCurrent (s : State) (cw : Nat) : Bool := match tget s.fte.nand cw with
  | none => false
  | some c => match nsAt s c.ns with
    | none => false
    | some n =>
      let k := granKey c.ns (c.iu * lbasPerIu n.fmt * lbaBytes n.fmt / 2 ^ 30)
      c.stream != 2 && n.inst == c.inst && thas s.dre.pairs c.ns && s.hpc.twin == 4 && !s.dre.lost && !s.dre.dirty.contains k && !s.dre.active.contains k

/-- The codewords of one program step of a member that rebuild reads: the survivors of every position of the group. -/
def groupReads (s : State) (t : Stripe) (lost g : Nat) : List Nat :=
  let per := stepCws s.prof t.stream
  (upFrom (g * per) per).flatMap (rowReads s t lost)

/-- The survivors that the rebuilding stripes are reading. -/
def rebuildNeeds (s : State) : List Nat := (tvals s.dre.stripes).flatMap fun t => match t.repl with
  | some r => groupReads s t r.lost r.given
  | none => []

/-- RECONSTRUCTION_DONE, R275: DRE's reads for a reconstruction have ended. Steps 1 and 2 give the codeword where every survivor was readable and its
seal passes (`sealOk`); else step 3 reads it from the partner where the copy there is current (`partner`: the read succeeds). The codeword succeeds at
step 5, or the verdict is unrecoverable (RECON_FAIL, source 265) and step 6 follows. -/
def execReconstructionDone (cw : Nat) (sealOk partner : Bool) (s : State) : Res :=
  if !(s.dre.recon.take 256).contains cw || !islOn s 23 || (reconReads s cw).any s.dre.want.contains then .next s
  else
    let ok := (survOk s cw && sealOk) || (partnerCurrent s cw && partner)
    let s0 := onDre (fun d => { d with recon := d.recon.filter (· != cw) }) s
    let s1 := onlyIf (survOk s cw && !sealOk) sealFail (askRecons (pruneSurv (rebuildNeeds s0) s0))
    match ladderOf s1 cw with
    | none => .next s1
    | some l =>
      if ok then .next (finishCw l 5 (((tget s1.fte.nand cw).map (·.poison)).getD false) s1)
      else .next (step6 l (raiseSrc 265 (evt .dreEvt 7 s1)))

/-- STRIPE_IDLE_CLOSE, R272: an open stripe that has received no position for IDLE × 10 ms is closed partially. -/
def execStripeIdleClose (dom stripe : Nat) (s : State) : Res := onSeq 7 s <|
  if s.sys.mode = .holdup then .next s else .next (closePartial dom stripe s)

/-! ## Rebuild -/

/-- Free blocks of a die for a stream, not held back and in all. -/
def freeCounts (s : State) (die stream : Nat) : Nat × Nat :=
  let fs := freeOn s die (stream == 2)
  let bs := domBlks s (dieDom die)
  ((fs.filter fun x => !heldBack s bs x.2).length, fs.length)

/-- The replacement die of R278 for a stripe: most free blocks not held back, else most free blocks; lowest number on a tie. -/
def replDie (s : State) (d : Nat) (t : Stripe) : Option Nat :=
  let ks := (domDies s d).filter fun k => !(t.members.any fun m => m.1 == k)
  let best (f : Nat → Nat) : Option Nat := (ks.filter fun k => decide (0 < f k)).foldl (fun a k => match a with
    | none => some k
    | some b => if f b < f k then some k else some b) none
  (best fun k => (freeCounts s k t.stream).1).or (best fun k => (freeCounts s k t.stream).2)

/-- Position of a stripe's member that lies on a failed die. -/
def lostPos (s : State) (t : Stripe) : Option Nat := t.members.findIdx? fun m => !dieOk s m.1

/-- Begin the replacement of a stripe's lost member: block taken, REPLACE record (R278, R300). -/
def beginRepl (d n : Nat) (t : Stripe) (s : State) : State :=
  match lostPos s t, replDie s d t with
  | some lost, some k => match pickBlk s k t.stream with
    | none => s
    | some (b, held) =>
      let s1 := takeBlk k b t.stream n lost s
      let s2 := if held then raiseSrc 203 (evt .fteEvt 1 s1) else s1
      setStripe d n { t with repl := some { lost, die := k, block := b } } s2
  | _, _ => s

/-- The members' valid IUs at a position, other than the lost member's and the unreadable one. -/
def rowValid (s : State) (t : Stripe) (lost pos bad : Nat) : List Nat :=
  (t.members.zipIdx.filterMap fun m =>
    let a := cwKey m.1.1 (cwOf s.prof m.1.2 pos)
    if m.2 = lost ∨ a = bad then none else if validCw s a then some a else none)

/-- The IU a valid codeword belongs to moves by the GC stream. -/
def moveIu (addr : Nat) (s : State) : State :=
  match tget s.fte.nand addr with
  | none => s
  | some c =>
    if c.ns = dirNs then (if savingDir s c.iu then s else programDir c.iu s)
    else if c.stream = 2 then
      if folding s c.ns c.iu then s
      else
        let x := pageStep c.ns c.iu addr s
        if x.1 then programPage c.ns c.iu x.2 else x.2
    else
      let head := mapAt s c.ns c.iu
      if moving s head then s
      else place (dieDom (cwDie addr)) 1 { kind := .move head, ns := c.ns, inst := c.inst, iu := c.iu, ver := c.ver, body := c.body, poison := c.poison } s

/-- An unreconstructable position of a replaced member, R279: the replacement's codeword is poisoned and the positions recorded (`u` is the unreadable
member's codeword, where there is one); the row's other valid IUs move, as the row no longer protects them. -/
def lostRow (d n : Nat) (t : Stripe) (r : Repl) (pos a dst : Nat) (u : Option Nat) (s : State) : State :=
  let c : Prog := { kind := .move (2 ^ 40), body := { data := [] }, poison := true, dom := d }
  let s1 := onFte (fun f => { f with prog := tset f.prog dst c }) s
  let s2 := modStripe d n (fun t => { t with bare := if t.bare.contains pos then t.bare else t.bare ++ [pos] })
    (modDom d (fun x => { x with lost := x.lost + 1, lostCw := x.lostCw ++ a :: dst :: u.toList }) s1)
  forEach (rowValid s t r.lost pos (u.getD a)) moveIu (raiseSrc 264 (evt .dreEvt 2 s2))

/-- One position of a replaced step: its reconstructed codeword is given the replacement position, unless a member of the row cannot be read, the row
was no longer protected, or the result fails its seal (R279, R337). -/
def replPos (d n : Nat) (t : Stripe) (r : Repl) (unread sealBad : List Nat) (pos : Nat) (s : State) : State :=
  match t.members[r.lost]? with
  | none => s
  | some (ld, lb) =>
    let a := cwKey ld (cwOf s.prof lb pos)
    let dst := cwKey r.die (cwOf s.prof r.block pos)
    match unread.find? fun u => cwPos s.prof (u % 2 ^ 27) == pos with
    | some u => lostRow d n t r pos a dst (some u) s
    | none =>
      if t.bare.contains pos then lostRow d n t r pos a dst none s
      else match tget s.fte.nand a with
        | none => s
        | some c =>
          if sealBad.contains pos && c.stream != 2 then lostRow d n t r pos a dst none (sealFail s)
          else if !validCw s a then s
          else
            let k : ProgKind := if c.ns = dirNs then .moveDir c.iu a else if c.stream = 2 then .movePage c.iu a else .move (mapAt s c.ns c.iu)
            let part := if c.stream = 2 then 0 else a - mapAt s c.ns c.iu
            let p : Prog := { kind := k, ns := c.ns, inst := c.inst, iu := c.iu, ver := c.ver, body := c.body, poison := c.poison, part, dom := d }
            onFte (fun f => { f with prog := tset f.prog dst p }) s

/-- Exposed stripes ahead of one that rebuild could take now: rebuild goes in the order of R278 past stripes that wait. -/
def aheadOk (s : State) (d n : Nat) : Bool :=
  ((domAt s d).exposed.takeWhile (· != n)).all fun m => match stripeAt s d m with
    | some t => t.repl.isSome || (replDie s d t).isNone || t.st != .closed
    | none => true

/-- R348: a reconstructed parity codeword disagrees with its check word: the stripe's valid IUs are moved. -/
def parityMis (d n : Nat) (t : Stripe) (s : State) : State :=
  forEach (stripeValid s t) moveIu (modStripe d n (fun t => { t with accMis := true }) (evt .mprEvt 6 s))

/-- A replacement whose last step has passed becomes final in the block table and the journal: the stripe is no longer exposed. -/
def finishRepl (d n : Nat) (t : Stripe) (r : Repl) (s : State) : State :=
  let t1 := { t with members := setAt t.members r.lost (r.die, r.block), repl := none, accMis := false }
  let s1 := blkDelta r.die r.block (blkMod r.die r.block (fun b => { b with st := .closed, closeT := s.pwr.tb }) (setStripe d n t1 s))
  modDom d (fun x => { x with exposed := x.exposed.filter (· != n) }) s1

/-- One program step of a replacement: its reconstructed codewords are given their positions and its program is queued; `n` is the number of groups of
the lost member, whose last runs to the end of the sequence that programs it. -/
def giveRepl (d m n : Nat) (t : Stripe) (r : Repl) (unread sealBad : List Nat) (s : State) : State :=
  let per := stepCws s.prof t.stream
  let lo := max (cutAt s.prof t.stream r.given) (blkAt s r.die r.block).next
  let hi := if r.given + 1 = n then endAt s.prof t.stream n else cutAt s.prof t.stream (r.given + 1)
  let s1 := forEach (upFrom (r.given * per) per) (fun pos s => replPos d m t r unread sealBad pos s) s
  let s2 := forEach (upFrom lo (hi - lo)) (fun i s =>
    queueOp r.die { id := 0, kind := .program, block := r.block, step := i, slc := t.stream == 2, use := .rebuild } s) s1
  modStripe d m (fun t => { t with repl := t.repl.map fun r => { r with given := r.given + 1 } }) s2

/-- REBUILD_STRIPE_STEP, R278, R279: a replacement is begun, the survivors of one program step of the lost member are read, the step is reconstructed
from them and queued, or, after the last step, the replacement becomes final. A stripe with no valid IU goes to garbage collection (R277). A position
whose row is no longer protected, with a member that cannot be read by step 4, or whose result fails its seal (`sealBad`, by position) is
unreconstructable. `accMis` says that a parity codeword
reconstructed in the step mismatches. -/
def execRebuildStripeStep (dom stripe : Nat) (sealBad : List Nat) (accMis : Bool) (s : State) : Res := onSeq 7 s <|
  match stripeAt s dom stripe with
  | none => .next s
  | some t =>
    if domSt s dom ≠ .rebuilding ∨ !(domAt s dom).exposed.contains stripe ∨ !engines s ∨ sanOpen s ∨ t.st ≠ .closed then .next s
    else if t.repl.isNone && (stripeValid s t).isEmpty then
      .next (modDom dom (fun x => { x with exposed := x.exposed.filter (· != stripe) }) s)
    else if t.repl.isNone && !aheadOk s dom stripe then .next s
    else
      let s1 := if t.repl.isNone then beginRepl dom stripe t s else s
      match stripeAt s1 dom stripe with
      | none => .next s1
      | some t1 => match t1.repl with
        | none => .next s1
        | some r =>
          let busy := ((dieAt s1 r.die).queue ++ (dieAt s1 r.die).wait).any fun o => o.kind == .program && o.block == r.block
          let (ld, lb) := (t1.members[r.lost]?).getD (0, 0)
          let n := groupsDone s1.prof t1.stream (blkAt s1 ld lb).next
          let reads := groupReads s1 t1 r.lost r.given
          if busy then .next s1
          else if n ≤ (r.step.map (· + 1)).getD 0 then
            if t1.accMis && !(stripeValid s1 t1).isEmpty then .next s1 else .next (finishRepl dom stripe t1 r s1)
          else if n ≤ r.given then .next s1
          else if !(reads.all fun a => s1.dre.got.any fun g => g.1 == a) then .next (forEach reads askSurv s1)
          else
            let unread := reads.filter fun a => s1.dre.got.contains (a, false)
            let s2 := giveRepl dom stripe n t1 r unread sealBad s1
            let s3 := pruneSurv (rebuildNeeds s2) s2
            .next (if accMis && r.lost == t1.ppos then parityMis dom stripe t1 s3 else s3)

/-- The LBAs of one codeword of an IU. -/
def partMask (fmt part : Nat) : Nat :=
  if iuUnits fmt = 1 then iuMask fmt else (2 ^ (4096 / lbaBytes fmt) - 1) * 2 ^ (part * (4096 / lbaBytes fmt))

/-- The engine steps of R280: one for each mapped map page of the namespaces placed in a domain. -/
def scanPages (s : State) (d : Nat) : List EngCtx :=
  let keys := (s.fte.map.filterMap fun e => if (nsAt s (e.1 / 2 ^ 40)).any (fun n => n.segs.any fun g => g.1 == d) then
      some (e.1 / 2 ^ 40, e.1 % 2 ^ 40 / iusPerPage) else none).eraseDups
  keys.mapIdx fun i p => { ns := p.1, iu := iusPerPage * p.2, step := 2, idx := i }

/-- The map entries that name a recorded position: their LBAs go on the bad-LBA list with source 2, R280. -/
def scanLost (l : List Nat) (s : State) : State :=
  forEach s.fte.map (fun e s =>
    let ns := e.1 / 2 ^ 40
    let iu := e.1 % 2 ^ 40
    match nsAt s ns with
    | none => s
    | some n =>
      if mapSpecial e.2 then s
      else forN (iuUnits n.fmt) (fun k s => if l.contains (e.2 + k) then markBad ns iu (partMask n.fmt k) 2 s else s) s) s

/-- REBUILD_MAP_SCAN, R280, Table 11-2: with the exposed list exhausted the map is scanned for lost positions where there are
any, by engine steps that wait for pages not cached; the failed die is retired and the domain returns to service. -/
def execRebuildMapScan (dom : Nat) (s : State) : Res := onSeq 7 s <|
  let x := domAt s dom
  if domSt s dom ≠ .rebuilding ∨ x.exposed ≠ [] ∨ !engines s ∨ sanOpen s then .next s
  else
    let e := if x.lost = 0 then (true, s) else engAll (scanPages s dom) s
    if !e.1 then .next e.2
    else
    let s1 := onlyIf (x.lost ≠ 0) (scanLost x.lostCw) e.2
    let s2 := modDom dom (fun x => { x with st := .inService, scanned := true }) (modDie x.rdie (fun d => { d with retired := true }) s1)
    .next (checkSpare (mediaChange s 0x05 0 (evt .dreEvt 1 (gcLevels s2))))

/-! ## Twin mirroring -/

/-- TWIN is 100b: the twin link works. -/
def twinUp (s : State) : Bool := s.hpc.twin == 4

/-- Granules of a namespace that a span of LBAs touches, R284. -/
def granules (fmt lba n : Nat) : List Nat :=
  let a := lba * lbaBytes fmt / 2 ^ 30
  upFrom a ((lba + n - 1) * lbaBytes fmt / 2 ^ 30 - a + 1)

/-- Granules of a namespace. -/
def nsGranules (n : Ns) : Nat := ceilDiv (n.size * lbaBytes n.fmt) (2 ^ 30)

/-- Granules a command touches. -/
def entGrans (s : State) (e : Entry) : List Nat :=
  match nsAt s (entNsid e) with
  | none => []
  | some n => (lbaRanges e).flatMap fun r => (granules n.fmt r.1 r.2).map (granKey (entNsid e))

def addAll (l : List Nat) (xs : List Nat) : List Nat := xs.foldl (fun l x => if l.contains x then l else l ++ [x]) l
def dirtyGrans (gs : List Nat) (s : State) : State := onDre (fun d => { d with dirty := addAll d.dirty gs }) s
def activeGrans (gs : List Nat) (s : State) : State := onDre (fun d => { d with active := addAll d.active gs }) s

/-- A command completes locally: its completion is prepared if its local work is done. -/
def finishMirror (tag : Nat) (s : State) : State :=
  match tget s.nvq.tags tag with
  | none => s
  | some t =>
    let s1 := onNvq (fun n => { n with tags := tset n.tags tag { t with mirWait := false } }) s
    if t.localDone then post tag .success 0 s1 else s1

/-- The partner is lost, R284: commands mirrored or in flight complete on local durability and their granules become dirty. -/
def partnerLost (s : State) : State :=
  if s.dre.lost then s
  else
    let s1 := raiseSrc 268 (evt .dreEvt 8 (onDre (fun d => { d with lost := true }) s))
    forEach (tkeys s.nvq.tags) (fun k s => match tget s.nvq.tags k with
      | some t => if t.mirWait then finishMirror k (dirtyGrans (entGrans s t.ent) s) else s
      | none => s) s1

/-- MIRROR_COMPLETION, R283, R26: the partner's completion arrives; the host completion follows once the local work is done. -/
def execMirrorCompletion (tag : Nat) (s : State) : Res :=
  match tget s.nvq.tags tag with
  | none => .next s
  | some t => if t.mirWait ∧ !s.dre.lost then .next (finishMirror tag s) else .next s

/-- MIRROR_TIMEOUT, R284: a mirror command without completion within MIR_TO makes the partner lost. -/
def execMirrorTimeout (tag : Nat) (s : State) : Res :=
  match tget s.nvq.tags tag with
  | none => .next s
  | some t => if t.mirWait then .next (partnerLost s) else .next s

/-- GRANULE_INACTIVE, R285: a granule without mirror commands for 1 s stops being active. -/
def execGranuleInactive (ns gran : Nat) (s : State) : Res := onSeq 7 s <|
  let k := granKey ns gran
  let busy := s.nvq.tags.any fun e => e.2.mirWait && (entGrans s e.2.ent).contains k
  if s.dre.active.contains k && !busy then .next (onDre (fun d => { d with active := d.active.filter (· != k) }) s) else .next s

/-- Dirty granules of a namespace. -/
def nsDirty (s : State) (ns : Nat) : List Nat := s.dre.dirty.filter fun k => k / 2 ^ 20 == ns

/-- RESYNC_CHUNK_COMPLETE, R285: a resync chunk of a dirty granule completes; with its last chunk the granule is clean, and a pair
without a dirty granule sets RESYNC_DONE and ends its MIRROR_SET. A seal that failed as a part left for the partner (`sealOk` false) is sent poisoned
and its granule stays dirty (Table 14-2). -/
def execResyncChunkComplete (ns gran : Nat) (last sealOk : Bool) (s0 : State) : Res := onSeq 7 s0 <|
  let s := onlyIf (!sealOk && thas s0.dre.pairs ns && s0.dre.dirty.contains (granKey ns gran)) sealFail s0
  let k := granKey ns gran
  match tget s.dre.pairs ns with
  | none => .next s
  | some p =>
    if !s.dre.dirty.contains k || !twinUp s || s.dre.lost || !last || !sealOk then .next s
    else
      let s1 := onDre (fun d => { d with dirty := d.dirty.filter (· != k), pairs := tset d.pairs ns { p with copied := p.copied + 1 } }) s
      if nsDirty s1 ns ≠ [] then .next s1
      else
        let s2 := evt .dreEvt 9 (onDre (fun d => { d with pairs := tset d.pairs ns { p with copied := p.copied + 1, op := none } }) s1)
        .next (endOpt p.op 0 [lo32 (p.copied + 1)] s2)

/-! ## Opcodes, Table 11-9 -/

/-- DRE_INFO. -/
def execDreInfo (src : Nat) (s : State) : Res :=
  .next (serveRead src 0x0500 (fun s _ => (0, [reg s .dreCfg, regValue s .dreSts 0, regValue s .dreMirSts 0])) s)

/-- Survivor bytes read of a rebuild: (W − 1) members of every stripe done (DEDUCED). -/
def survivorBytes (s : State) (d : Nat) : Nat :=
  let x := domAt s d
  (x.total - x.exposed.length) * (domW s d - 1) * cwsPerBlk s.prof * 4096

/-- DOM_STATUS; the estimate of the time left is a free value. -/
def execDomStatus (src : Nat) (s : State) : Res :=
  .next (serve src 0x0501 (fun _ => false) (fun _ _ => none) (fun r _ s =>
    let d := rqTgt r
    let est := if domSt s d = .rebuilding then freeBelow s (2 ^ 32) else 0
    (drawn s, { detail := [regValue s .dreDomCfg d, regValue s .dreDomRbld d, regValue s .dreDomExp d, regValue s .dreDomLost d,
      lo32 (survivorBytes s d / 2 ^ 30), lo32 est] })) s)

/-- REBUILD_CTL. -/
def execRebuildCtl (src : Nat) (s : State) : Res :=
  .next (serve src 0x0502 (fun _ => false)
    (fun _ r => if rqW r 2 &&& 0xFFFFFFFC ≠ 0 then some (badField 2 (rqW r 2 &&& 0xFFFFFFFC)) else none)
    (fun r _ s => (onDre (fun d => { d with pri := fld (rqW r 2) 0 2 }) s, { detail := [lo32 s.dre.pri] })) s)

/-- Retiring a die would take its domain offline, Table 11-2. -/
def retireOff (s : State) (die : Nat) : Bool :=
  let d := dieDom die
  domSt s d == .rebuilding || (domSt s d == .inService && decide ((domDies s d).length ≤ domW s d))

/-- DIE_RETIRE, R277, R287. -/
def execDieRetire (src : Nat) (s : State) : Res :=
  .next (serve src 0x0503 (fun _ => false)
    (fun s r =>
      let die := rqTgt r
      if rqW r 2 &&& 0xFFFFFFFE ≠ 0 then some (badField 2 (rqW r 2 &&& 0xFFFFFFFE))
      else if dieGone s die || (dieAt s die).retired then some (0x0500, [])
      else if retireOff s die && !bitOf (rqW r 2) 0 then some (0x0501, []) else none)
    (fun r _ s =>
      let s1 := loseDie false 0x04 (rqTgt r) s
      (s1, { detail := [lo32 (domSt s1 (dieDom (rqTgt r))).code] })) s)

/-- STRIPE_INFO state code. -/
def stripeCode (s : State) (d n : Nat) (t : Stripe) : Nat :=
  if t.st = .opened then 0
  else if t.st = .collected then 4
  else if t.repl.isSome then 3
  else if (domAt s d).exposed.contains n then 2 else 1

/-- STRIPE_INFO. -/
def execStripeInfo (src : Nat) (s : State) : Res :=
  .next (serveRead src 0x0504 (fun s r =>
    let n := (rqW r 2).toNat
    match stripeAt s (rqTgt r) n with
    | none => (0x0502, [])
    | some t => (0, [lo32 (stripeCode s (rqTgt r) n t), pack [(16, 2, t.stream), (8, 8, t.ppos), (0, 8, t.members.length)],
        lo32 (stripeValid s t).length, pack (t.members.zipIdx.map fun m => (m.2, 1, b2n (!dieOk s m.1.1)))])) s)

/-- MIRROR_SET, R282, R285, R287: `storeOk` is whether the partner's namespace is a mirror store of the same format and size. -/
def execMirrorSet (src : Nat) (storeOk : Bool) (s : State) : Res :=
  let set (r : CamReq) := bitOf (rqW r 2) 31
  .next (serve src 0x0505 set
    (fun s r =>
      if rqW r 2 &&& 0x7FFFF800 ≠ 0 then some (badField 2 (rqW r 2 &&& 0x7FFFF800))
      else if set r && !twinUp s then some (0x0503, [])
      else if set r && (!storeOk || (nsAt s (rqTgt r)).isNone || (decide (64 ≤ s.dre.pairs.length) && !thas s.dre.pairs (rqTgt r))) then
        some (0x0504, [])
      else none)
    (fun r h s =>
      let ns := rqTgt r
      let s0 := match tget s.dre.pairs ns with
        | some p => endOpt p.op 0x0003 [lo32 p.copied] s
        | none => s
      if set r then
        let gs := (List.range ((nsAt s ns).map nsGranules |>.getD 0)).map (granKey ns)
        (dirtyGrans gs (onDre (fun d => { d with pairs := tset d.pairs ns { partner := fld (rqW r 2) 0 11, op := some h } }) s0), {})
      else
        (onDre (fun d => { d with pairs := terase d.pairs ns, dirty := d.dirty.filter fun k => k / 2 ^ 20 != ns,
                                  active := d.active.filter fun k => k / 2 ^ 20 != ns }) s0, { detail := [0] })) s)

/-- MIRROR_STATUS. -/
def execMirrorStatus (src : Nat) (s : State) : Res :=
  .next (serveRead src 0x0506 (fun s r => match tget s.dre.pairs (rqTgt r) with
    | none => (0x0505, [])
    | some p =>
      let dirty := (nsDirty s (rqTgt r)).length
      let total := ((nsAt s (rqTgt r)).map nsGranules).getD 0
      let st := if s.dre.lost then 2 else if dirty = 0 then 0 else 1
      (0, [pack [(16, 11, p.partner), (0, 2, st)], lo32 dirty, lo32 total,
        lo32 (if total = 0 then 100 else 100 * (total - dirty) / total)])) s)

end Sys2Proof.Machine
end

