-- ==== Sys2Proof/Machine/Cst.lean ====
section
/-! DEFINITION. The cistern (R289 to R313): banks that leave and return, checkpoints, and the opcodes of Table 12-18. -/

namespace Sys2Proof.Machine

/-- A bank leaves service, R291, R293: BANKn_FAIL, event 0x0601 and source 270 + b; with no bank left SHADOW_ONLY is in force:
BOTH_LOST, event 0x0603 and source 272. -/
def bankFail (b : Nat) (s : State) : State :=
  if (bankAt s b).st = .failed then s
  else
    let s1 := onCst (fun c => { c with banks := tupd c.banks b {} fun x => { x with st := .failed } }) s
    let s2 := raiseSrc (270 + b) (logOpen 0x0601 (evt .cstEvt b s1))
    if shadowOnly s2 then raiseSrc 272 (logOpen 0x0603 (evt .cstEvt 3 s2)) else s2

/-- A bank that passed its test is resilvered and returns to service, R292. -/
def bankBack (b : Nat) (s : State) : State :=
  logOpen 0x0602 (evt .cstEvt 2
    (onCst (fun c => { c with banks := tupd c.banks b {} fun x => { x with st := .inService } }) s))

/-- The directory pages that DIR records of the log change are programmed, R176, R297. -/
def saveDirs (s : State) : State :=
  let nos := (s.cst.log.filterMap fun d => if d.kind = .dir then some (pageKey d.ns d.key / 512) else none).eraseDups
  forEach nos (fun no s => if savingDir s no then s else programDir no s) s

/-- The content a checkpoint saves, R299: the committed map, the root table with the directory pages it names, the namespace table, the sanitize
record, the log position and the time base. Its block table pages release
the BLOCK records (R297); DIR records leave with their directory pages. -/
def takeCkpt (s : State) : State :=
  onCst (fun c => { c with ckpt := some { pos := c.logSeq, map := s.fte.map, nss := s.fte.nss, time := s.pwr.tb,
                                             root := s.fte.root, dirs := s.fte.dirSaved, san := c.san },
                           savedT := s.pwr.tb, shadow := max c.shadow c.logSeq,
                           log := c.log.filter fun d => d.kind != .block }) s

/-- CHECKPOINT, R299: the period elapsed, or CKPT_NOW runs, and the regions are programmed to the MAP stream; `ok` says whether
every program passed. A checkpoint that fails sets CKPT_FAIL, raises source 273 and is taken again at the next period; a running
CKPT_NOW then runs on. -/
def execCheckpoint (ok : Bool) (s : State) : Res := onSeq 8 s <|
  if !engines s then .next s
  else if !ok then .next (raiseSrc 273 (evt .cstEvt 6 s))
  else
    let s1 := place (mapDom s) 2 { kind := .shadow s.cst.logSeq, body := { data := [] } } s
    let s2 := drainDue s.cst.due.length (takeCkpt (saveDirs s1))
    let s3 := endOpt s2.cst.ckptOp 0 [lo32 s2.cst.logSeq, hi32 s2.cst.logSeq] s2
    .next (onCst (fun c => { c with ckptBusy := false, ckptOp := none }) s3)

/-- CST_INFO. -/
def execCstInfo (src : Nat) (s : State) : Res :=
  .next (serveRead src 0x0600 (fun s _ => (0, [reg s .cstCfg, regValue s .cstSts 0, regValue s .cstHuSts 0, regValue s .cstHuTime 0,
    lo32 (s.cst.evSeq - 1), hi32 (s.cst.evSeq - 1)])) s)

/-- The eight words of an event log entry, Table 12-7. -/
def eventWords (e : Event) : List Word :=
  [lo32 e.seq, hi32 e.seq, lo32 e.time, hi32 e.time, pack [(24, 1, b2n e.est), (0, 16, e.code)], e.old, e.new, e.cause]

/-- EVENT_READ, R313: entries from the oldest whose SEQ is at least the requested value. -/
def execEventRead (src : Nat) (s : State) : Res :=
  .next (serve src 0x0601 (fun _ => false) (fun _ r => bytesOk r 32) (fun r _ s =>
    let first := (rqW r 4).toNat + 2 ^ 32 * (rqW r 5).toNat
    let es := s.cst.events.filter fun e => decide (first ≤ e.seq)
    let (k, _, bs) := listOut r 32 (es.map eventWords)
    (s, { detail := [lo32 k, lo32 (if k = 0 then 0 else ((es.head?).map (·.seq)).getD 0)], data := bs })) s)

/-- CKPT_NOW: a long operation that CHECKPOINT ends. -/
def execCkptNow (src : Nat) (s : State) : Res :=
  .next (serve src 0x0602 (fun _ => true) (fun s _ => if s.cst.ckptBusy then some (0x0601, []) else none)
    (fun _ h s => (onCst (fun c => { c with ckptBusy := true, ckptOp := some h }) s, {})) s)

/-- BANK_RETEST, R292: a long operation; LONG_OPERATION_END with status 0 returns the bank to service. -/
def execBankRetest (src : Nat) (s : State) : Res :=
  .next (serve src 0x0603 (fun _ => true)
    (fun s r => if (bankAt s (rqTgt r)).st ≠ .failed then some (0x0602, [])
      else if (bankAt s (1 - rqTgt r)).st ≠ .inService then some (0x0603, []) else none)
    (fun _ _ s => (s, {})) s)

end Sys2Proof.Machine
end

