-- ==== Sys2Proof/Machine/Qos.lean ====
section
/-! DEFINITION. Tenants (R128 to R150): classification, meters, reservations, charges, scales, the trace, and the opcodes of
Table 6-6. -/

namespace Sys2Proof.Machine

/-! ## Classification and limits -/

/-- Classification of an I/O command at fetch, R128; with enforcement off every command is unassigned. -/
def classify (s : State) (ctrl ns : Nat) : Option Nat :=
  let on (t : Option Nat) : Option Nat := t.filter fun k => (tntAt s k).en
  if !bitOf (reg s .qosCfg) 0 || isPface s (linkOf s (portOf ctrl)) then none
  else (on (tget s.qos.bindC ctrl)).or (on (tget s.qos.bindN ns))

/-- A controller is skipped in fetch arbitration, R136. -/
def ctrlAtLimit (s : State) (c : Nat) : Bool :=
  bitOf (reg s .qosCfg) 0 && match tget s.qos.bindC c with
    | some t => (tntAt s t).en && atOutMax s t
    | none => false

/-! ## Meters, R133 -/

/-- One 64 ns refill of a tenant; refill beyond a depth is lost. -/
def refill (scaleBw scaleIo : Nat) (t : Tenant) : Tenant :=
  if !t.en then t
  else { t with mBwMax := fillTo t.mBwMax (131072 * t.bwMax) (bwMaxDepth t),
                mBwMin := min (t.mBwMin + 128 * t.bwMin * scaleBw) (max t.mBwMin (bwMinDepth t scaleBw)),
                mIoMax := fillTo t.mIoMax (32768 * t.ioMax) (ioMaxDepth t),
                mIoMin := min (t.mIoMin + 32 * t.ioMin * scaleIo) (max t.mIoMin (ioMinDepth t scaleIo)) }

/-- Clip meters to the depths of changed settings, R147. -/
def clip (scaleBw scaleIo : Nat) (t : Tenant) : Tenant :=
  { t with mBwMax := min t.mBwMax (bwMaxDepth t), mBwMin := min t.mBwMin (bwMinDepth t scaleBw),
           mIoMax := min t.mIoMax (ioMaxDepth t), mIoMin := min t.mIoMin (ioMinDepth t scaleIo) }

/-! ## Capacity and scales, R138, R139 -/

/-- Capacity entry of the profile for a cap: bandwidth, IOPS. -/
def capEntry (s : State) (c : Nat) : Nat × Nat := ((s.prof.capTable.find? fun e => e.1 == c).map (·.2)).getD (0, 0)

/-- Effective capacity. -/
def effCapacity (s : State) : Nat × Nat :=
  let e := capEntry s (effCap s)
  let keep := 100 - min 90 (rfld s .qosCfg 16 7)
  if anyDom s .rebuilding then (e.1 * keep / 100, e.2 * keep / 100) else e

/-- The scale of a dimension. -/
def scaleOf (cap sum : Nat) : Nat := if cap < sum then 1024 * cap / sum else 1024

/-- Recompute capacity and scales; a change of scale sets QOS_EVT.SCALE, raises source 187 when a scale falls below 1,024, and is
logged (event code 0x0D01: PRESUMED, the manual numbers no code for it). -/
def rescale (s : State) : State :=
  if !s.profOn then s
  else
    let (bw, io) := effCapacity s
    let sb := scaleOf bw (sumBwMin s)
    let si := scaleOf io (sumIoMin s)
    let old : Word := pack [(16, 11, s.qos.scaleIo), (0, 11, s.qos.scaleBw)]
    let new : Word := pack [(16, 11, si), (0, 11, sb)]
    let s1 := onQos (fun q => { q with capBw := bw, capIo := io, scaleBw := sb, scaleIo := si }) s
    if old = new then s1
    else
      let s2 := logGroup 0x0D (evt .qosEvt 0 s1)
      if sb < 1024 ∨ si < 1024 then raiseSrc 187 s2 else s2

/-! ## Reservations, R134 -/

def setTag (k : Nat) (t : Tag) (s : State) : State := onNvq (fun n => { n with tags := tset n.tags k t }) s
def modTag (k : Nat) (f : Tag → Tag) (s : State) : State := onNvq (fun n => { n with tags := tmod n.tags k f }) s

/-- Return the reservations of a command, R134, R141. -/
def returnResv (tag : Nat) (s : State) : State :=
  match tget s.nvq.tags tag with
  | none => s
  | some t =>
    let s1 := setTag tag { t with reserved := 0 } s
    match t.tenant with
    | none => s1
    | some k => modTnt k (fun x => { x with mBwMax := fillTo x.mBwMax (t.reserved * bwUnit) (bwMaxDepth x) }) s1

/-- A transfer block of a format, R129. -/
def blockBytes (fmt : Nat) : Nat := if fmt % 4 = 0 then 512 else 4096

/-- A command's blocks are gated: its tenant has a maximum, R134. -/
def gated (s : State) (t : Tag) : Bool := match t.tenant with
  | some k => (tntAt s k).bwMax != 0
  | none => false

/-- Bytes of a command that may move now: reserved blocks where it is gated, else all that remain. -/
def mayMove (s : State) (t : Tag) : Nat :=
  let left := dataBytes s t.ent - t.moved
  if gated s t then min left t.reserved else left

/-- TRANSFER_BLOCK_START, R134: the next block of a command at work, whose Host DMA context does not wait (R153), starts once the maximum meter holds its bytes, which are
reserved. Commands that move no data have no block. -/
def execTransferBlockStart (tag : Nat) (s : State) : Res :=
  match tget s.nvq.tags tag with
  | none => .next s
  | some t => match t.tenant, nsAt s (entNsid t.ent) with
    | some k, some n =>
      let b := blockBytes n.fmt
      let o := opc t.ent
      let moves := isIo t && (o == 1 || o == 2 || o == 5)
      if !moves || !(t.st == .run || t.st == .suspended) || t.dma.st.waiting || !gated s t || decide (dataBytes s t.ent < t.moved + t.reserved + b)
          || decide ((tntAt s k).mBwMax < (b * bwUnit : Nat)) then .next s
      else .next (setTag tag { t with blocks := t.blocks + 1, reserved := t.reserved + b }
        (modTnt k (fun x => { x with mBwMax := x.mBwMax - (b * bwUnit : Nat) }) s))
    | _, _ => .next s

/-! ## Time -/

/-- The time base advances by `ns` nanoseconds of time, R383, R385: in SLEW by half of it. -/
def advanceTb (ns : Nat) (s : State) : State :=
  let ppm := rfld s .pwrTimeCfg 0 8
  onPwr (fun p => match p.tbSt with
    | .slew => { p with tb := (p.tb + (ns - min p.slew (ns / 2))) % 2 ^ 64, slew := p.slew - min p.slew (ns / 2) }
    | .sync => { p with tb := (p.tb + ns) % 2 ^ 64 }
    | .free | .estimated => { p with tb := (p.tb + ns) % 2 ^ 64, bound := p.bound.map (· + ppm * ns) }) s

/-- The RTC counts for `ns` of time at the crystal's nominal 32,768 Hz (R379; DESIGN CHOICE: the crystal's own error is the board's). -/
def advanceRtc (ns : Nat) (s : State) : State :=
  if !s.pwr.rtcValid then s
  else
    let f := s.pwr.rtcFrac + 32768 * ns
    onPwr (fun p => { p with rtc := (p.rtc + f / 1000000000) % 2 ^ 48, rtcFrac := f % 1000000000 }) s

/-- Interrupts held by coalescing are sent once the aggregation time has passed (feature 08h, in 100 µs; Table 5-6). -/
def agedMsix (s : State) : State :=
  forEach s.nvq.ctrls (fun c s =>
    let tm := nfld (tgetD c.2.feats 8 0) 8 8
    forEach (c.2.aggr.filter fun v => decide (v.2.2 + tm * 100000 ≤ s.pwr.tb)) (fun v s =>
      modCtrl c.1 (fun x => { x with aggr := terase x.aggr v.1 }) (emit (.msix c.1 v.1) s)) s) s

/-- METER_TICK, R133: one 64 ns tick. The RTC counts; the time base, to which QOS is locked, advances; every enabled tenant's meters refill; the
scales follow a change of capacity (R139). QOS is powered only in the modes that serve hosts. -/
def execMeterTick (s : State) : Res :=
  let s0 := if s.sys.mode = .dormant ∨ s.sys.mode = .standpipe then s else advanceRtc 64 (advanceTb 64 s)
  if !s.sys.mode.serving then .next s0
  else
    let s1 := rescale (agedMsix s0)
    .next (onQos (fun q => { q with tnts := tmap q.tnts fun _ t => refill q.scaleBw q.scaleIo t }) s1)

/-! ## Trace, R148 -/

/-- The bytes of the first `n` bins: units in [31:12], operations in [11:0]; a count that exceeds its field stays at the largest value (DESIGN
CHOICE, log entry 48: the manual does not say). -/
def traceBytes (x : Trace) (n : Nat) : List Byte :=
  wordBytes ((List.range n).map fun b =>
    let l := x.log.filter fun e => e.1 == b
    pack [(12, 20, sat 20 (l.foldl (fun a e => a + e.2.1) 0)), (0, 12, sat 12 (l.foldl (fun a e => a + e.2.2) 0))])

/-- End a trace with `n` bins and a status. -/
def endTrace (x : Trace) (n status : Nat) (s : State) : State :=
  endOp x.handle status (if status = 0 then [lo32 x.start, hi32 x.start, lo32 n] else []) (traceBytes x n)
    (onQos (fun q => { q with trace := none }) s)

/-- A cancelled trace ends with 0x0003 and the bins completed so far. -/
def cancelTrace (s : State) : State :=
  match s.qos.trace with
  | none => s
  | some x => endTrace x (min x.bins ((s.pwr.tb - x.start) / 1000)) 0x0003 s

/-- TRACE_END: the trace has filled its bins. -/
def execTraceEnd (s : State) : Res :=
  match s.qos.trace with
  | none => .next s
  | some x => if s.pwr.tb < x.start + 1000 * x.bins then .next s else .next (endTrace x x.bins 0 (evt .qosEvt 2 s))

/-! ## Opcodes, Table 6-6 -/

/-- QOS_INFO. -/
def execQosInfo (src : Nat) (s : State) : Res :=
  .next (serveRead src 0x0D00 (fun s _ => (0, [reg s .qosCfg, regValue s .qosSts 0, regValue s .qosCap 0, regValue s .qosSum 0,
    lo32 ((tvals s.qos.tnts).filter (·.en)).length])) s)

/-- The tenant that a TENANT_SET request makes of the present one. -/
def setTenant (r : CamReq) (t : Tenant) : Tenant :=
  { t with bwMax := fld (rqW r 2) 16 16, bwMin := fld (rqW r 2) 0 16, ioMax := fld (rqW r 3) 16 16, ioMin := fld (rqW r 3) 0 16,
           en := bitOf (rqW r 4) 31, outMax := if fld (rqW r 4) 16 15 = 0 then 1024 else fld (rqW r 4) 16 15,
           weight := fld (rqW r 4) 0 8 }

/-- Check 9 of TENANT_SET, R132, R140, R147. -/
def tenantCheck (s : State) (r : CamReq) : Option (Nat × List Word) :=
  let w := rqW r 4
  let o := fld w 16 15
  let t := setTenant r (tntAt s (rqTgt r))
  let s1 := onQos (fun q => { q with tnts := tset q.tnts (rqTgt r) t }) s
  let cap := capEntry s 32
  if fld w 0 8 = 0 then some (badField 4 1)
  else if w &&& 0xFF00 ≠ 0 then some (badField 4 (w &&& 0xFF00))
  else if (1 ≤ o ∧ o ≤ 7) ∨ 16384 < o then some (badField 4 (bitW 16))
  else if cap.1 < sumBwMin s1 ∨ cap.2 < sumIoMin s1 then some (0x0D01, [])
  else if (t.bwMax ≠ 0 ∧ t.bwMax < t.bwMin) ∨ (t.ioMax ≠ 0 ∧ t.ioMax < t.ioMin) then some (0x0D02, [])
  else none

/-- TENANT_SET. -/
def execTenantSet (src : Nat) (s : State) : Res :=
  .next (serve src 0x0D01 (fun _ => false) tenantCheck (fun r _ s =>
    let s1 := rescale (modTnt (rqTgt r) (setTenant r) s)
    let s2 := modTnt (rqTgt r) (clip s1.qos.scaleBw s1.qos.scaleIo) s1
    (s2, { detail := [regValue s2 .qosSum 0, regValue s2 .qosSts 0] })) s)

/-- TENANT_GET. -/
def execTenantGet (src : Nat) (s : State) : Res :=
  .next (serveRead src 0x0D02 (fun s r =>
    let n (l : Tbl Nat) := ((tvals l).filter (· == rqTgt r)).length
    (0, [regValue s .qosTntBw (rqTgt r), regValue s .qosTntIo (rqTgt r), regValue s .qosTntCtl (rqTgt r),
      pack [(16, 11, n s.qos.bindN), (0, 11, n s.qos.bindC)]])) s)

/-- TENANT_BIND, R128, R146; TARGET 0xFFFF unbinds. -/
def execTenantBind (src : Nat) (s : State) : Res :=
  .next (serve src 0x0D03 (fun _ => false)
    (fun s r =>
      let w := rqW r 2
      let k := fld w 0 11
      if 1023 < rqTgt r ∧ rqTgt r ≠ 0xFFFF then some (0x0007, [lo32 0xFFFF])
      else if w &&& 0x7FFFF800 ≠ 0 then some (badField 2 (w &&& 0x7FFFF800))
      else if (if bitOf w 31 then (nsAt s k).isNone else !thas s.nvq.ctrls k) then some (0x0D03, []) else none)
    (fun r _ s =>
      let k := fld (rqW r 2) 0 11
      let put (l : Tbl Nat) : Tbl Nat := if rqTgt r = 0xFFFF then terase l k else tset l k (rqTgt r)
      let old := if bitOf (rqW r 2) 31 then tget s.qos.bindN k else tget s.qos.bindC k
      (onQos (fun q => if bitOf (rqW r 2) 31 then { q with bindN := put q.bindN } else { q with bindC := put q.bindC }) s,
        { detail := [lo32 (old.getD 0xFFFF)] })) s)

/-- TENANT_TRACE, R148: bin 0 starts at the first 1 µs boundary after acceptance. -/
def execTenantTrace (src : Nat) (s : State) : Res :=
  .next (serve src 0x0D04 (fun _ => true)
    (fun s r => (bytesOk r 4).or (if s.qos.trace.isSome then some (0x0D04, []) else none))
    (fun r h s =>
      let x : Trace := { tenant := rqTgt r, handle := h, first := rqFirst r, count := rqCount r, bins := dscBytes r / 4,
                         start := (s.pwr.tb / 1000 + 1) * 1000 }
      (onQos (fun q => { q with trace := some x }) s, {})) s)

end Sys2Proof.Machine
end

