-- ==== Sys2Proof/Machine/Xlt.lean ====
section
/-! DEFINITION. Translation, faults and resumption (R151 to R171): the ATC, TX, PG and MP faults of a command's contexts, engine
steps, and the opcodes of Table 7-5. -/

namespace Sys2Proof.Machine

/-! ## Links and routing IDs, R83 -/

/-- Member ports of the link named by its lowest member. -/
def members (s : State) (l : Nat) : List Nat := (List.range 4).filter fun n => linkOf s n == l

/-- Link of a controller. -/
def ctrlLink (s : State) (c : Nat) : Nat := linkOf s (portOf c)

/-- Routing-ID offset of a controller on its link, Table 4-3. -/
def ridOf (s : State) (c : Nat) : Nat :=
  let k := portOf c - ctrlLink s c
  if fnOf c = 0 then k else (members s (ctrlLink s c)).length + 252 * k + (fnOf c - 1)

/-- The controller at a routing-ID offset of a link. -/
def ctrlAtRid (s : State) (l rid : Nat) : Nat :=
  let m := (members s l).length
  if rid < m then ctrlOf (l + rid) 0 else ctrlOf (l + (rid - m) / 252) ((rid - m) % 252 + 1)

/-! ## The ATC, R156, R157 -/

/-- ATC entries. -/
def atcCap : Nat := 32768

/-- The entry that translates a page with the access needed; `w`: write permission. -/
def atcHit (s : State) (c page : Nat) (w : Bool) : Bool :=
  !(fnAt s c).atsEn || s.xlt.atc.any fun e => e.ctrl == c && decide (e.page ≤ page) && decide (page < e.page + e.pages) &&
    (if w then e.w else e.r)

/-- Fill the ATC: at most 1 GiB an entry; a full ATC gives up its oldest entry (DESIGN CHOICE, log entry 29). -/
def atcFill (c page pages : Nat) (r w : Bool) (s : State) : State :=
  let e : Atc := { ctrl := c, page, pages := min pages (2 ^ 18), r, w }
  onXlt (fun x =>
    let l := x.atc.filter fun a => !(a.ctrl == c && a.page == page)
    { x with atc := l.drop (l.length + 1 - atcCap) ++ [e] }) s

/-- Remove the entries of a controller that meet a span of pages. -/
def atcDropSpan (c page pages : Nat) (s : State) : State :=
  onXlt (fun x => { x with atc := x.atc.filter fun a => !(a.ctrl == c && spansMeet (a.page, a.pages) (page, pages)) }) s

/-! ## The host pages of a transfer -/

/-- The access a command's transfer needs, R157: write permission for a read-class command, read permission for a write-class one;
for an admin command the data direction of its opcode decides (PRESUMED: opcode bits 1:0 of the NVMe base specification). -/
def needsW (t : Tag) : Bool := if isIo t then readClass t.ent else opc t.ent % 4 == 2

/-- The access of a command's fault: a list fetch needs read permission (R157). -/
def faultW (t : Tag) : Bool := t.dma.lst.isNone && needsW t

/-- The pieces of a transfer from its segments, one to a host page, in order: first byte, page, bytes. -/
def pieces : List (Nat × Nat) → Nat → List (Nat × Nat × Nat)
  | [], _ => []
  | (a, n) :: l, off =>
    ((List.range (if n = 0 then 0 else (a + n - 1) / 4096 - a / 4096 + 1)).map fun i =>
      let p := a / 4096 + i
      let lo := max a (4096 * p)
      (off + (lo - a), p, min (a + n) (4096 * (p + 1)) - lo)) ++ pieces l (off + n)

def tagPieces (t : Tag) : List (Nat × Nat × Nat) := pieces t.ent.segs 0

/-- A page at which a transfer from byte `p` on stops: the byte at which it is reached, the page, and for a list fetch the number of the list. -/
abbrev Miss := Nat × Nat × Option Nat

/-- The first data page that does not translate. -/
def missData (s : State) (t : Tag) (p : Nat) : Option Miss :=
  ((tagPieces t).find? fun x => decide (p < x.1 + x.2.2) && !atcHit s t.ctrl x.2.1 (needsW t)).map fun x => (max p x.1, x.2.1, none)

/-- The first list or segment still to be read whose page does not translate. -/
def missList (s : State) (t : Tag) (p : Nat) : Option Miss :=
  (((List.range t.ent.lists.length).zip t.ent.lists).find? fun x =>
    decide (p ≤ x.2.1) && !atcHit s t.ctrl (x.2.2 / 4096) false).map fun x => (x.2.1, x.2.2 / 4096, some x.1)

/-- The first page of a separate metadata buffer that does not translate, at the LBA that first reaches it. -/
def missMeta (s : State) (t : Tag) (p : Nat) : Option Miss := match isIo t && (opc t.ent == 1 || opc t.ent == 2 || opc t.ent == 5), nsAt s (entNsid t.ent) with
  | true, some n =>
    let mb := sepMeta n t.ent
    let xb := xferLba n t.ent
    if mb = 0 then none
    else ((List.range (nlb t.ent)).find? fun i => decide (p < (i + 1) * xb) && !atcHit s t.ctrl ((mptr t.ent + i * mb) / 4096) (needsW t)).map fun i =>
      (max p (i * xb), (mptr t.ent + i * mb) / 4096, none)
  | _, _ => none

/-- The earlier of two stops; the first where both are at one byte. -/
def firstMiss : Option Miss → Option Miss → Option Miss
  | some a, some b => if a.1 ≤ b.1 then some a else some b
  | a, b => a.or b

/-- Where a transfer from byte `p` on stops first, R155; a list is read before the data it points to. -/
def missAt (s : State) (t : Tag) (p : Nat) : Option Miss := firstMiss (missList s t p) (firstMiss (missData s t p) (missMeta s t p))

/-! ## Contexts -/

/-- A tag's state follows its contexts, R153. -/
def settleTag (k : Nat) (s : State) : State :=
  modTag k (fun t => match t.st with
    | .run | .suspended => { t with st := if t.dma.st.waiting || t.lkp.st.waiting then .suspended else .run }
    | .adm | .post => t) s

/-- Longest suspension ended, Table 7-12. -/
def noteEnd (since : Nat) (s : State) : State :=
  onXlt (fun y => { y with hwm := max y.hwm (sat 32 ((s.pwr.tb - since) / 1000)) }) s

/-- R167: an untracked write enters a host-side wait. -/
def untrkSusp (t : Tag) (s : State) : State := if t.untracked && !t.placed then raiseSrc 196 (evt .xltEvt 4 s) else s

/-- The tag that R164 serves first among tags that pass a test: by class, then oldest fault. -/
def firstTag (s : State) (p : Tag → Bool) : Option Nat :=
  let rank (t : Tag) : Nat × Nat := (cmdClass s t, t.dma.since)
  ((s.nvq.tags.filter fun e => p e.2).foldl (fun a e => match a with
    | none => some e
    | some b => if before (rank e.2) (rank b.2) then some e else some b) none).map (·.1)

/-! ## Translation Requests, R158, R159, R171 -/

/-- A request in being covers a page of a controller; a request whose command has ended covers none. -/
def covered (s : State) (c page : Nat) : Bool :=
  s.xlt.reqs.any fun e => e.2.tag.isSome && e.2.ctrl == c && decide (e.2.page ≤ page) && decide (page < e.2.page + e.2.pages)

/-- A link has room for one more request. -/
def reqRoom (s : State) (l : Nat) : Bool := decide (atsOut s l < 512)

/-- Send a Translation Request for a tag. -/
def sendReq (k c page pages : Nat) (s : State) : State :=
  emit (.xlatReq c page pages)
    (onXlt (fun x => { x with reqs := tset x.reqs x.nextReq { tag := some k, ctrl := c, page, pages }, nextReq := x.nextReq + 1 }) s)

/-- Pages that follow `p` one by one at the front of a list. -/
def runLen (p : Nat) : List Nat → Nat
  | [] => 0
  | q :: l => if q = p + 1 then runLen q l + 1 else 0

/-- XLT_CFG.LOOKAHEAD. -/
def lookaheadPages (s : State) : Nat := min 8 (rfld s .xltCfg 20 4)

/-- Ask ahead for pieces of a context, `i` the number of the first: pieces that translate, or are asked for, are passed over; consecutive pages go
in one request of at most 8. It stops where the link has no room. -/
def askPieces (k : Nat) (t : Tag) : Nat → Nat → List Nat → State → State
  | 0, _, _, s => s
  | _ + 1, _, [], s => s
  | fuel + 1, i, p :: l, s =>
    if atcHit s t.ctrl p (needsW t) || covered s t.ctrl p then
      askPieces k t fuel (i + 1) l (modTag k (fun t => { t with dma := { t.dma with ahead := i + 1 } }) s)
    else if !reqRoom s (ctrlLink s t.ctrl) then s
    else
      let n := min 8 (1 + runLen p (l.takeWhile fun q => !atcHit s t.ctrl q (needsW t) && !covered s t.ctrl q))
      askPieces k t fuel (i + n) (l.drop (n - 1))
        (modTag k (fun t => { t with dma := { t.dma with ahead := i + n } }) (sendReq k t.ctrl p n s))

/-- XLT keeps translations requested for the page of a running context's progress point and the LOOKAHEAD pages that follow. -/
def lookahead (k : Nat) (s : State) : State :=
  match tget s.nvq.tags k with
  | none => s
  | some t =>
    if !(t.dma.st == .running && (fnAt s t.ctrl).atsEn) then s
    else
      let ps := tagPieces t
      let cur := (ps.takeWhile fun x => decide (x.1 + x.2.2 ≤ t.dma.prog)).length
      let from0 := max t.dma.ahead cur
      let l := ((ps.drop from0).take (cur + 1 + lookaheadPages s - from0)).map (·.2.1)
      askPieces k t (l.length + 1) from0 l s

/-- Pages one request of a fault covers: the page and those of the transfer that follow it one by one, at most LOOKAHEAD and at most 8 in all; a
list's page alone. -/
def faultRun (s : State) (t : Tag) : Nat :=
  if t.dma.lst.isSome then 1
  else min (min 8 (1 + lookaheadPages s)) (1 + runLen t.dma.page (((tagPieces t).filter fun x => decide (t.dma.prog < x.1)).map (·.2.1)))

/-- The waiting context of a link whose request goes next, R164. -/
def nextFault (s : State) (l : Nat) : Option Nat :=
  firstTag s fun t => ctrlLink s t.ctrl == l && t.dma.st == .txWait && !covered s t.ctrl t.dma.page

/-- While a link has room, waiting contexts send their requests; `fuel` bounds their number. -/
def sendFaults (l : Nat) : Nat → State → State
  | 0, s => s
  | n + 1, s =>
    if !reqRoom s l then s
    else match nextFault s l with
      | none => s
      | some k => match tget s.nvq.tags k with
        | none => s
        | some t => sendFaults l n (sendReq k t.ctrl t.dma.page (faultRun s t) s)

/-- Requests of a link as far as R171 has room: those of faults by R164, then those ahead of running contexts. -/
def nextXlat (l : Nat) (s : State) : State :=
  forEach (tkeys s.nvq.tags) (fun k s => match tget s.nvq.tags k with
    | some t => if ctrlLink s t.ctrl = l then lookahead k s else s
    | none => s) (sendFaults l 512 s)

/-- A TX fault of a command's Host DMA context, or of its list fetch, R155, Table 7-3. -/
def txFault (k : Nat) (m : Miss) (s : State) : State :=
  match tget s.nvq.tags k with
  | none => s
  | some t =>
    let d : Ctx := { t.dma with st := .txWait, prog := m.1, page := m.2.1, lst := m.2.2, prgSent := false, since := s.pwr.tb }
    let s1 := settleTag k (setTag k { t with dma := d } s)
    nextXlat (ctrlLink s t.ctrl) (untrkSusp t (onXlt (fun x => { x with cntTx := (x.cntTx + 1) % 2 ^ 32 }) s1))

/-- A Host DMA context starts: translations are requested ahead (R158). -/
def startDma (k : Nat) (s : State) : State := lookahead k (modTag k (fun t => { t with dma := { st := .running } }) s)

/-- A context's progress point advances. -/
def progress (k q : Nat) (s : State) : State := lookahead k (modTag k (fun t => { t with dma := { t.dma with st := .running, prog := q } }) s)

/-- Translations of a function were given up: its running contexts ask ahead again (R158). -/
def askAgain (c : Nat) (s : State) : State :=
  forEach (tkeys s.nvq.tags) (fun k s => match tget s.nvq.tags k with
    | some t => if t.ctrl = c then lookahead k (setTag k { t with dma := { t.dma with ahead := 0 } } s) else s
    | none => s) s

/-- The requests of commands that end belong to none: their answers are dropped (R165). -/
def dropReqs (p : XReq → Bool) (s : State) : State :=
  onXlt (fun x => { x with reqs := tmap x.reqs fun _ r => if p r then { r with tag := none } else r }) s

/-- A context fails: Table 7-4, R166; an earlier error of the command keeps its status. The command leaves SUSPENDED for POST; its reservations are
returned. -/
def failCtx (k : Nat) (code bit src : Nat) (sc : Sc) (x : Ctx) (s : State) : State :=
  match tget s.nvq.tags k with
  | none => s
  | some t =>
    let sc := if t.psn then .unrecoveredRead else sc
    let s1 := noteEnd x.since (raiseSrc src (evt .xltEvt bit s))
    let s2 := logErr t.ctrl { sqid := t.qid, cid := cidOf t.ent, status := sc, vendor := code } s1
    nextXlat (ctrlLink s t.ctrl) (dropReqs (·.tag == some k) (post k sc 0 (returnResv k s2)))

def failTx (k : Nat) (s : State) : State := match tget s.nvq.tags k with
  | some t => failCtx k 1 0 192 .dataTransfer t.dma s
  | none => s
def failPg (k : Nat) (s : State) : State := match tget s.nvq.tags k with
  | some t => failCtx k 2 1 193 .dataTransfer t.dma s
  | none => s
def failPgTo (k : Nat) (s : State) : State := match tget s.nvq.tags k with
  | some t => failCtx k 2 2 194 .dataTransfer t.dma s
  | none => s

/-! ## Answers -/

/-- Denied or insufficient access, Table 7-3. -/
def denied (k : Nat) (s : State) : State :=
  match tget s.nvq.tags k with
  | none => s
  | some t =>
    let f := fnAt s t.ctrl
    if f.priEn && !f.priStopped && !t.dma.prgSent then
      untrkSusp t (onXlt (fun x => { x with cntPg := (x.cntPg + 1) % 2 ^ 32 }) (settleTag k (setTag k { t with dma := { t.dma with st := .pgQueued } } s)))
    else failPg k s

/-- A context in TX_WAIT may go on. -/
def resumeTx (k : Nat) (s : State) : State := settleTag k (modTag k (fun t => { t with dma := { t.dma with st := .resume } }) s)

/-- The contexts that wait in TX_WAIT on a page a request covers. -/
def reqTags (s : State) (r : XReq) : List Nat :=
  (s.nvq.tags.filter fun e => e.2.ctrl == r.ctrl && e.2.dma.st == .txWait && decide (r.page ≤ e.2.dma.page) &&
    decide (e.2.dma.page < r.page + r.pages)).map (·.1)

/-- A request is granted `pages` pages: the ATC is filled; of the contexts that wait on them those whose access suffices resume, the others were
denied. Pages past the grant are asked for again. -/
def grantXlat (r : XReq) (pages : Nat) (rd wr : Bool) (s : State) : State :=
  let s1 := if rd || wr then atcFill r.ctrl r.page pages rd wr s else s
  forEach (reqTags s r) (fun k s => match tget s.nvq.tags k with
    | some t =>
      if atcHit s t.ctrl t.dma.page (faultW t) then resumeTx k s
      else if t.dma.page < r.page + max 1 pages then denied k s
      else s
    | none => s) s1

/-- TRANSLATION_COMPLETION, R159, R165: the answer to an outstanding Translation Request. An answer to a request that an invalidation overtook is
discarded and the request sent again; one to a request whose command has ended is dropped. A request that fails is sent again once; the second
failure is that of every context that waits on it. For pages asked for ahead a denial or failure is no fault (R158). -/
def execTranslationCompletion (req : Nat) (a : XlatAnswer) (s : State) : Res :=
  match tget s.xlt.reqs req with
  | none => .next s
  | some r =>
    let l := ctrlLink s r.ctrl
    let put (r1 : XReq) : State := onXlt (fun x => { x with reqs := tset x.reqs req r1 }) s
    let s1 := onXlt (fun x => { x with reqs := terase x.reqs req }) s
    if r.wait || !engines s then .next s
    else if r.tag.isNone then .next (nextXlat l s1)
    else if r.stale then .next (emit (.xlatReq r.ctrl r.page r.pages) (put { r with stale := false }))
    else match a with
      | .granted pages rd wr => .next (nextXlat l (grantXlat r pages rd wr s1))
      | .denied => .next (nextXlat l (forEach (reqTags s1 r) denied s1))
      | .failed =>
        if r.again then .next (nextXlat l (forEach (reqTags s1 r) failTx s1))
        else .next (nextXlat l (put { r with wait := true }))

/-- TRANSLATION_RETRY, R159: a failed request is sent again once, when the link has room. -/
def execTranslationRetry (req : Nat) (s : State) : Res :=
  match tget s.xlt.reqs req with
  | none => .next s
  | some r =>
    if !r.wait || !engines s then .next s
    else if r.tag.isNone then .next (onXlt (fun x => { x with reqs := terase x.reqs req }) s)
    else if !reqRoom s (ctrlLink s r.ctrl) then .next s
    else .next (emit (.xlatReq r.ctrl r.page r.pages)
      (onXlt (fun x => { x with reqs := tset x.reqs req { r with wait := false, again := true } }) s))

/-- ATS Enable is cleared: contexts in TX_WAIT go on untranslated (Table 7-3). -/
def atsOff (c : Nat) (s : State) : State :=
  forEach (tkeys s.nvq.tags) (fun k s => match tget s.nvq.tags k with
    | some t => if t.ctrl = c ∧ t.dma.st = .txWait then resumeTx k s else s
    | none => s) (dropReqs (·.ctrl == c) s)

/-! ## Page requests, R160 to R162 -/

/-- XLT_CFG.PRG_PAGES, 1 to 8. -/
def prgPages (s : State) : Nat :=
  let v := rfld s .xltCfg 4 4
  if v = 0 ∨ 8 < v then 8 else v

/-- The pages of a fault's Page Request Group: the page and the pages of the command that follow it; a list's page alone. -/
def groupPages (s : State) (t : Tag) : List Nat :=
  if t.dma.lst.isSome then [t.dma.page]
  else (t.dma.page :: ((tagPieces t).filter fun x => decide (t.dma.prog < x.1)).map (·.2.1)).eraseDups.take (prgPages s)

/-- The lowest free PRG index of a function's pool of 512. -/
def freePrg (s : State) (c : Nat) : Option Nat :=
  (List.range 512).find? fun i => !(s.xlt.prgs.any fun g => g.ctrl == c && g.idx == i)

/-- A function's allocation has room for a fault's group. -/
def fnRoom (s : State) (t : Tag) : Bool :=
  (freePrg s t.ctrl).isSome && decide (msgsOf s (·.ctrl == t.ctrl) + (groupPages s t).length ≤ min 1024 (fnAt s t.ctrl).priAlloc)

/-- A link has room for a fault's group. -/
def linkRoom (s : State) (t : Tag) : Bool :=
  decide (msgsOf s (fun g => ctrlLink s g.ctrl == ctrlLink s t.ctrl) + (groupPages s t).length ≤ 4096)

/-- Page Request Messages of a group, one for each page; the last carries the Last bit. -/
def sendGroup (c idx : Nat) (w : Bool) : List Nat → State → State
  | [], s => s
  | p :: l, s => sendGroup c idx w l (emit (.pageReq c p w l.isEmpty idx) s)

/-- A context waits for the answer to a group. -/
def waitGroup (k idx : Nat) (t : Tag) (s : State) : State :=
  untrkSusp t (setTag k { t with dma := { t.dma with st := .pgWait, prg := idx, prgSent := true } } s)

/-- PRG_SEND, R160, R161: a context joins a group outstanding for its page and access; else its group is sent when the function's allocation and
the link's 4,096 messages have room and no fault before it waits for the same room. -/
def execPrgSend (tag : Nat) (s : State) : Res :=
  match tget s.nvq.tags tag with
  | none => .next s
  | some t =>
    if t.dma.st ≠ .pgQueued ∨ !engines s then .next s
    else match s.xlt.prgs.find? fun g => g.ctrl == t.ctrl && g.w == faultW t && g.pages.contains t.dma.page with
      | some g => .next (waitGroup tag g.idx t s)
      | none => match freePrg s t.ctrl with
        | none => .next s
        | some i =>
          let first := firstTag s fun x => x.dma.st == .pgQueued && ctrlLink s x.ctrl == ctrlLink s t.ctrl && (x.ctrl == t.ctrl || fnRoom s x)
          if first ≠ some tag ∨ !fnRoom s t ∨ !linkRoom s t then .next s
          else
            let ps := groupPages s t
            .next (waitGroup tag i t (sendGroup t.ctrl i (faultW t) ps
              (onXlt (fun x => { x with prgs := x.prgs ++ [{ ctrl := t.ctrl, idx := i, pages := ps, w := faultW t }] }) s)))

/-- Tags whose context waits on a page request group. -/
def prgTags (s : State) (c idx : Nat) : List Nat :=
  (s.nvq.tags.filter fun e => e.2.ctrl == c && e.2.dma.st == .pgWait && e.2.dma.prg == idx).map (·.1)

/-- A group no longer counts. -/
def endGroup (c idx : Nat) (s : State) : State := onXlt (fun x => { x with prgs := x.prgs.filter fun g => !(g.ctrl == c && g.idx == idx) }) s

/-- PRI of a function stops, R162: every context of it in PG_QUEUED or PG_WAIT fails; its messages count on. -/
def stopPri (c : Nat) (s : State) : State :=
  let s1 := onHpc (fun h => { h with fns := tupd h.fns c {} fun f => { f with priStopped := true } }) s
  forEach (tkeys s.nvq.tags) (fun k s => match tget s.nvq.tags k with
    | some t => if t.ctrl = c ∧ (t.dma.st = .pgQueued ∨ t.dma.st = .pgWait) then failPg k s else s
    | none => s) s1

/-- A function's PRI state is reset, R161, R162: its messages count no more and Response Failure is cleared. -/
def resetPri (c : Nat) (s : State) : State :=
  onXlt (fun x => { x with prgs := x.prgs.filter fun g => g.ctrl != c })
    (onHpc (fun h => { h with fns := tupd h.fns c {} fun f => { f with priFail := false } }) s)

/-- PRG_RESPONSE, R162, R165; of a group that is not outstanding it is dropped. -/
def execPrgResponse (ctrl prg : Nat) (a : PrgAnswer) (s : State) : Res :=
  if !(s.xlt.prgs.any fun g => g.ctrl == ctrl && g.idx == prg) || !engines s then .next s
  else
    let ks := prgTags s ctrl prg
    let s1 := endGroup ctrl prg s
    match a with
    | .success => .next (nextXlat (ctrlLink s ctrl) (forEach ks (fun k s => match tget s.nvq.tags k with
        | some t => untrkSusp t (setTag k { t with dma := { t.dma with st := .txWait } } s)
        | none => s) s1))
    | .invalid => .next (forEach ks failPg s1)
    | .failure => .next (stopPri ctrl (forEach ks failPg (onHpc (fun h => { h with fns := tupd h.fns ctrl {} fun f => { f with priFail := true } }) s1)))

/-- PRG_TIMEOUT, R162: no response within PRI_TO × 10 ms; a PRI_TO of 0 disables it. -/
def execPrgTimeout (ctrl prg : Nat) (s : State) : Res :=
  if rfld s .xltCfg 24 8 = 0 ∨ !engines s ∨ !(s.xlt.prgs.any fun g => g.ctrl == ctrl && g.idx == prg) then .next s
  else .next (forEach (prgTags s ctrl prg) failPgTo (endGroup ctrl prg s))

/-! ## Map pages, R163, R175 to R181 -/

/-- An MP fault of a command's lookup context at IU `iu`. -/
def mpFault (k iu : Nat) (s : State) : State :=
  match tget s.nvq.tags k with
  | none => s
  | some t =>
    let ns := entNsid t.ent
    let page := iu / iusPerPage
    let s1 := setTag k { t with lkp := { st := .mpWait, prog := iu, page := pageKey ns page, since := s.pwr.tb } } s
    askMapPage ns page (settleTag k (onXlt (fun x => { x with cntMp := (x.cntMp + 1) % 2 ^ 32 }) s1))

/-- Whether an IU's entry has a pending record, R179, R181. -/
def hasPending (s : State) (ns iu : Nat) : Bool :=
  (s.cst.log.any fun d => d.kind == .map && d.ns == ns && d.key == iu) || !(rngOf s ns iu).isEmpty

/-- IUs of a map page that R181 declares lost: entries without a pending record, inside the namespace. -/
def lostIus (s : State) (ns page : Nat) : List Nat :=
  match nsAt s ns with
  | none => []
  | some n => (upFrom (page * iusPerPage) iusPerPage).filter fun iu =>
      decide (iu * lbasPerIu n.fmt < n.size) && !hasPending s ns iu

/-- The IUs a command touches. -/
def entIus (s : State) (e : Entry) : List Nat :=
  match nsAt s (entNsid e) with
  | none => []
  | some n => (lbaRanges e).flatMap fun r => let x := iuSpan n.fmt r.1 r.2
      upFrom x.1 x.2

/-- Resume the contexts waiting on a page; commands that touch a lost IU fail (Table 7-4), and an engine step goes on, with a lost IU UNC (R181). -/
def pageArrived (ns page : Nat) (lost : List Nat) (s : State) : State :=
  let key := pageKey ns page
  let s1 := forEach (tkeys s.nvq.tags) (fun k s => match tget s.nvq.tags k with
    | some t =>
      if t.lkp.st ≠ .mpWait ∨ t.lkp.page ≠ key then s
      else if (entIus s t.ent).any lost.contains then failCtx k 3 3 195 .unrecoveredRead t.lkp s
      else settleTag k (setTag k { t with lkp := { t.lkp with st := .resume } } s)
    | none => s) s
  onXlt (fun x => { x with eng := tmap x.eng fun _ e =>
    if e.st == .mpWait && e.ns == ns && e.iu / iusPerPage == page then { e with st := .resume } else e }) s1

/-- Whether the read of a map page has ended in the die queues and on the ladder. -/
def pageReadDone (s : State) (ns page : Nat) : Bool :=
  (s.sre.ladders.all fun l => !l.readers.contains (.mapPage ns page)) &&
    s.fch.dies.all fun d => (d.2.queue ++ d.2.wait).all fun o => o.use != .mapPage ns page

/-- MAP_PAGE_LOADED, R163, R179, R181: an outstanding map page arrives with its pending records applied, and every context waiting
on it resumes. A page that cannot be read is rebuilt: entries without a pending record are set UNC (source 3 of the bad-LBA
list), MAP_LOST is set and logged (the manual states no code) and the page is written as in a fold. -/
def execMapPageLoaded (ns page : Nat) (readable : Bool) (s : State) : Res := onSeq 2 s <|
  if !s.xlt.reads.contains (ns, page) || !engines s || !pageReadDone s ns page then .next s
  else
    let s1 := cachePage ns page (onXlt (fun x => { x with reads := x.reads.filter (· != (ns, page)) }) s)
    if readable then .next (startMapReads (pageArrived ns page [] s1))
    else
      let lost := lostIus s1 ns page
      let s2 := forEach lost (fun iu s => setUnc ns iu 3 s) s1
      let s3 := logGroup 0x03 (evt .fteEvt 5 s2)
      let s4 := if folding s3 ns page then s3 else programPage ns page s3
      .next (startMapReads (pageArrived ns page lost s4))

/-- CONTEXT_RESUME, R165: a context in RESUME restarts at its saved progress point; an engine step ends with it, and its slot is free. No context
resumes in HOLDUP (R168). -/
def execContextResume (id : Nat) (k : CtxKind) (s : State) : Res :=
  if !engines s then .next s
  else match k with
    | .engine => match tget s.xlt.eng id with
      | some e => if e.st = .resume then .next (engFreed id (noteEnd e.since s)) else .next s
      | none => .next s
    | .lookup => match tget s.nvq.tags id with
      | some t =>
        if t.lkp.st = .resume then .next (settleTag id (setTag id { t with lkp := { t.lkp with st := .running } } (noteEnd t.lkp.since s)))
        else .next s
      | none => .next s
    | .dma => match tget s.nvq.tags id with
      | some t =>
        if t.dma.st = .resume then
          .next (lookahead id (settleTag id (setTag id { t with dma := { t.dma with st := .running, lst := none } } (noteEnd t.dma.since s))))
        else .next s
      | none => .next s

/-- ENGINE_STEP_START, R154: a step of FTE or DRE that reads the entry of an IU; `frees`: it releases write-well or accumulator space (R164). -/
def execEngineStepStart (ns iu step idx : Nat) (frees : Bool) (s : State) : Res :=
  if !engines s then .next s else .next (engRun { ns, iu, step, idx, frees } s).2

/-! ## Opcodes, Table 7-5 -/

/-- XLT_INFO. -/
def execXltInfo (src : Nat) (s : State) : Res :=
  .next (serveRead src 0x0380 (fun s _ => (0, [reg s .xltCfg, regValue s .xltSts 0, regValue s .xltAtcSts 0, regValue s .xltMapSts 0,
    regValue s .xltCntPg 0])) s)

/-- Microseconds of a suspension. -/
def waitUs (s : State) (since : Nat) : Word := lo32 (sat 32 ((s.pwr.tb - since) / 1000))

/-- The SUSP_LIST records of a command's waiting contexts, with the times of their suspension, Table 7-6. -/
def suspRecs (s : State) (k : Nat) (t : Tag) : List (Nat × List Word) :=
  let d : List (Nat × List Word) :=
    if t.dma.st.waiting then
      [(t.dma.since, [pack [(28, 3, if t.dma.st = .txWait then 1 else 2), (0, 16, k)],
        pack [(30, 2, b2n t.dma.lst.isSome), (0, 30, t.dma.prog)], waitUs s t.dma.since,
        pack [(28, 2, ctrlLink s t.ctrl), (16, 10, ridOf s t.ctrl), (0, 9, if t.dma.st = .pgWait then t.dma.prg else 0)]])]
    else []
  let m : List (Nat × List Word) :=
    if t.lkp.st.waiting then
      [(t.lkp.since, [pack [(28, 3, 3), (0, 16, k)], pack [(30, 2, 2), (0, 30, t.lkp.prog)], waitUs s t.lkp.since,
        pack [(0, 11, entNsid t.ent)]])]
    else []
  d ++ m

/-- Insert by suspension time, oldest first. -/
def insSusp (x : Nat × List Word) : List (Nat × List Word) → List (Nat × List Word)
  | [] => [x]
  | y :: l => if x.1 ≤ y.1 then x :: y :: l else y :: insSusp x l

/-- Every waiting context, oldest suspension first, R170. -/
def suspAll (s : State) : List (List Word) :=
  let e := (s.xlt.eng.filter fun e => e.2.st.waiting).map fun e =>
    (e.2.since, [pack [(31, 1, 1), (28, 3, 3), (0, 16, e.1)], pack [(30, 2, 3), (0, 30, e.2.idx)], waitUs s e.2.since, (0 : Word)])
  (((s.nvq.tags.flatMap fun x => suspRecs s x.1 x.2) ++ e).foldr insSusp []).map (·.2)

/-- SUSP_LIST. -/
def execSuspList (src : Nat) (s : State) : Res :=
  .next (serve src 0x0381 (fun _ => false) (fun _ r => bytesOk r 16) (fun r _ s =>
    let (k, om, bs) := listOut r 16 (suspAll s)
    (s, { detail := [lo32 k, lo32 om], data := bs })) s)

/-- ATC_DROP, R170: entries go as for an invalidation, by R80: contexts between two TLPs translate again. -/
def execAtcDrop (src : Nat) (s : State) : Res :=
  .next (serve src 0x0382 (fun _ => false)
    (fun s r =>
      let w := rqW r 2
      if linkOf s (rqTgt r) ≠ rqTgt r then some (0x0007, [lo32 (linkOf s 3)])
      else if w &&& 0x7FFFFC00 ≠ 0 then some (badField 2 (w &&& 0x7FFFFC00))
      else if !bitOf w 31 && (decide (1011 < fld w 0 10) || !thas s.nvq.ctrls (ctrlAtRid s (rqTgt r) (fld w 0 10))
          || ctrlLink s (ctrlAtRid s (rqTgt r) (fld w 0 10)) != rqTgt r) then some (0x0380, [])
      else none)
    (fun r _ s =>
      let w := rqW r 2
      let hit (a : Atc) : Bool := if bitOf w 31 then ctrlLink s a.ctrl == rqTgt r else a.ctrl == ctrlAtRid s (rqTgt r) (fld w 0 10)
      let s1 := onXlt (fun x => { x with atc := x.atc.filter fun a => !hit a }) s
      (forEach ((s.xlt.atc.filter hit).map (·.ctrl)).eraseDups askAgain s1, { detail := [lo32 (s.xlt.atc.filter hit).length] })) s)

end Sys2Proof.Machine
end

