-- ==== Sys2Proof/Machine/NvmeQueue.lean ====
section
/-! DEFINITION. NVMe queueing (R100 to R127): controllers, doorbells, fetch with the checks of Table 5-7, ordering holds, admission,
completion, and the ending of commands. -/

namespace Sys2Proof.Machine

/-! ## Ending commands, R93, R118, R260 -/

/-- Die operations of a command that ends: queued READs are dropped, others run to their end with their data discarded. -/
def dropReads (k : Nat) (s : State) : State :=
  let mine (o : Dop) : Bool := o.use == .host k
  let early (o : Dop) : Bool := mine o && (o.st == .queued || o.st == .tokenWait)
  let s1 := forEach s.fch.dies (fun d s => forEach (d.2.queue ++ d.2.wait) (fun o s =>
    if early o then endRefs d.1 o (dropTokens o s) else s) s) s
  let go (l : List Dop) : List Dop := (l.filter fun o => !early o).map fun o => if mine o then { o with use := .stream } else o
  let s2 := onFch (fun f => { f with dies := tmap f.dies fun _ d => { d with queue := go d.queue, wait := go d.wait } }) s1
  let s3 := forEach (tkeys s2.fch.dies) drainQ s2
  let l := s3.sre.ladders.map fun l => { l with readers := l.readers.filter (· != .host k) }
  let s4 := onSre (fun x => { x with ladders := l }) s3
  forEach (l.filter fun l => l.readers.isEmpty) (fun l s => endLadder l.cw s) s4

/-- The tag table without a tag: entries whose data is not in a well leave the detector; the other command of a fused pair, the queue whose next
entry would be the pair's second, and a firmware job know the tag no more. -/
def eraseTag (k : Nat) (s : State) : State :=
  let keep := (s.nvq.ovl.filter fun o => o.tag != some k || o.inWell).map fun o => if o.tag = some k then { o with tag := none } else o
  let alone (t : Tag) : Tag := if t.fused = some k then { t with fused := none } else t
  let whole (q : Sq) : Sq := if q.half = some k then { q with half := none } else q
  onUpd (fun u => { u with job := u.job.map fun j => if j.tag = some k then { j with tag := none } else j })
    (onNvq (fun n => { n with tags := tmap (terase n.tags k) fun _ t => alone t, sqs := tmap n.sqs fun _ q => whole q, ovl := keep }) s)

/-! ## Shutdown, R126 -/

/-- A controller that R126 counts: on an EP link that is not partner-facing, shut down or disabled. -/
def ctrlDown (s : State) (c : Nat) : Bool := !(ctrlAt s c).en || (ctrlAt s c).shn

/-- Every controller on EP links that are not partner-facing is shut down or disabled. -/
def allDown (s : State) : Bool := (tkeys s.nvq.ctrls).all fun c => !hostCtrl s c || ctrlDown s c

/-- Program the write wells and close the open stripes; from then on no stripe opens. -/
def closeAll (s : State) : State :=
  let s1 := placeWaiting s
  let s2 := forEach (s1.dre.stripes.filter fun e => e.2.st == .opened) (fun e s => closePartial (e.1 / 2 ^ 32) (e.1 % 2 ^ 32) s) s1
  onNvq (fun n => { n with shutHold := true, shutDue := false }) s2

/-- The programming of R126 begins once the last command of the controllers that are down has placed its data (DEDUCED: data placed later would need
a stripe, and none opens from then on). -/
def closeDue (s : State) : State :=
  if s.nvq.shutDue && s.sys.mode.serving && !s.nvq.tags.any fun e => hostCtrl s e.2.ctrl && isIo e.2 && writeLike e.2.ent && !e.2.placed && e.2.st != .post then
    closeAll s else s

/-- Once a tag is freed, records and detector entries that R113 and R185 no longer keep go, and a shutdown may begin its programming. -/
def afterFree (s : State) : State := closeDue (sweepOvl (releaseKept s))

/-- End a command: no further DMA, no completion, its tag freed; its detector entries stay only once all its data is in a well
(R93, R118). -/
def endCmd (k : Nat) (s : State) : State :=
  match tget s.nvq.tags k with
  | none => s
  | some t =>
    let s1 := onCam (muteReqs fun r => r.tag == some k) (eraseTag k (dropReads k (returnResv k s)))
    afterFree (nextXlat (ctrlLink s t.ctrl) (dropReqs (·.tag == some k) s1))

/-- End every command whose tag passes a test. -/
def endCmds (p : Tag → Bool) (s : State) : State :=
  forEach (tkeys s.nvq.tags) (fun k s => match tget s.nvq.tags k with
    | some t => if p t then endCmd k s else s
    | none => s) s

/-- The set of R126 may be complete: `last` is the controller whose shutdown notification came last. -/
def checkShut (last : Option Nat) (s : State) : State :=
  if !allDown s || s.nvq.shutHold || s.nvq.shutDue || !s.sys.mode.serving then s
  else closeDue (onNvq (fun n => { n with shutLast := last, shutDue := true }) s)

/-- The wells are programmed and the stripes closed. -/
def wellsDone (s : State) : Bool :=
  !s.nvq.shutDue && (s.fte.idx.all fun r => !r.live) && s.dre.stripes.all fun e => e.2.st != .opened

/-- CSTS.SHST, R126: 0 no shutdown, 1 in progress, 2 complete. -/
def shstOf (s : State) (c : Nat) : Nat :=
  if !(ctrlAt s c).shn then 0
  else if s.nvq.tags.any fun e => e.2.ctrl == c then 1
  else if s.nvq.shutLast = some c && !wellsDone s then 1 else 2

/-! ## Controllers -/

/-- VQ and VI resources of a controller, R105: a PF has its private ones and the flexible ones it took; a VF the assigned ones. -/
def vqRes (s : State) (c : Nat) : Nat := (if isPf c then 65 else 0) + (ctrlAt s c).vqFlex
def viRes (s : State) (c : Nat) : Nat := (if isPf c then 2048 else 0) + (ctrlAt s c).viFlex

/-- The controller may become ready: its memory page size is one that CAP offers (R101; DESIGN CHOICE, log entry 74: with a larger one it does not),
and it is a PF, or a VF online with VF Enable set (R87, R105). -/
def canReady (s : State) (c : Nat) : Bool :=
  decide ((ctrlAt s c).mps ≤ (ctrlAt s c).cap.mpsMax) && (isPf c || ((ctrlAt s c).online && (fnAt s (ctrlOf (portOf c) 0)).vfEnable && decide (2 ≤ vqRes s c) && decide (1 ≤ viRes s c)))

/-- CSTS of a controller (Tables 2-4, 5-8, R126, R421): RDY, CFS while boot is held, SHST, NSSRO, PP. -/
def cstsOf (s : State) (c : Nat) : Word :=
  let x := ctrlAt s c
  pack [(5, 1, b2n x.pp), (4, 1, b2n (x.nssro && x.cap.nssrs)), (2, 2, shstOf s c), (1, 1, b2n (s.sys.mode == .boot && s.sys.holdWhy != 0)), (0, 1, b2n x.rdy)]

/-- A controller reaches CSTS.RDY = 1; on a host link the hold of R126 ends. -/
def makeReady (c : Nat) (s : State) : State :=
  let s1 := modCtrl c (fun x => { x with rdy := true }) s
  if hostCtrl s c && (s.nvq.shutHold || s.nvq.shutDue) then
    placeWaiting (onNvq (fun n => { n with shutHold := false, shutDue := false, shutLast := none }) s1) else s1

/-- CONTROLLER_ENABLE, R127: CC.EN written 1 with CC.AMS, CC.MPS and the admin queue sizes of AQA (entries less one). In BOOT the
controller becomes ready when BOOT ends (Table 2-4). -/
def execControllerEnable (ctrl ams mps asqs acqs : Nat) (s : State) : Res :=
  match tget s.nvq.ctrls ctrl with
  | none => .next s
  | some x =>
    if x.en || (!s.sys.mode.serving && s.sys.mode != .boot && s.sys.mode != .standpipe) then .next s
    else
      let s0 := wake s
      let s1 := setCtrl ctrl { x with en := true, rdy := false, shn := false, ams, mps } s0
      let s2 := onNvq (fun n => { n with sqs := tset n.sqs (qkey ctrl 0) { size := asqs + 1, hot := true },
                                         cqs := tset n.cqs (qkey ctrl 0) { size := acqs + 1 } }) s1
      let s3 := if isPface s (ctrlLink s ctrl) then onHpc (fun h => { h with pfState := 2 }) s2 else s2
      .next (if s.sys.mode = .boot ∨ !canReady s3 ctrl then s3 else makeReady ctrl s3)

/-- A running self-test ends with a result of log page 06h: code, and the failed item (0: none), R396. -/
def endSelfTest (code item : Nat) (s : State) : State :=
  if s.pwr.selfTest.isNone then s
  else onPwr (fun p => { p with selfTest := none, stLog := ((code, item) :: p.stLog).take 20 }) s

/-- The part of a Controller Reset that touches one controller, Table 5-8. -/
def resetCtrl (c : Nat) (s : State) : State :=
  let s1 := endCmds (fun t => t.ctrl == c) s
  let clear (x : Ctrl) : Ctrl :=
    { x with en := false, rdy := false, shn := false, ams := 0, mps := 0, numQ := none, feats := [], ps := 0, aers := [], events := [],
             vqFlex := (x.flexNext.map (·.1)).getD x.vqFlex, viFlex := (x.flexNext.map (·.2)).getD x.viFlex, flexNext := none,
             secResp := none, lastQ := 0, burst := 0, turns := [], credits := [0, 0, 0], aggr := [] }
  let s2 := onNvq (fun n => { n with sqs := tfilter n.sqs fun k _ => k / 65536 != c, cqs := tfilter n.cqs fun k _ => k / 65536 != c,
                                     tun := n.tun.filter fun x => x.2.1 != c, ctrls := tmod n.ctrls c clear })
    (if s1.pwr.selfTest.any fun x => x.1 == c then endSelfTest 2 0 s1 else s1)
  onUpd (fun u => if u.owner = some c then { u with owner := none, frags := [] } else u) s2

/-- CONTROLLER_RESET, R125: CC.EN written from 1 to 0. -/
def execControllerReset (ctrl : Nat) (s : State) : Res :=
  if (ctrlAt s ctrl).en && s.sys.mode != .holdup && s.sys.mode != .dormant then .next (checkShut none (rescale (resetCtrl ctrl (wake s))))
  else .next s

/-- Whether a doorbell can reach the device. -/
def doorbellsUp (s : State) : Bool := s.sys.mode.serving || s.sys.mode == .standpipe

/-- SHUTDOWN_NOTIFICATION, R126: the controller stops fetching. -/
def execShutdownNotification (ctrl : Nat) (s : State) : Res :=
  if (ctrlAt s ctrl).en && !(ctrlAt s ctrl).shn && doorbellsUp s then
    .next (checkShut (if hostCtrl s ctrl then some ctrl else none) (modCtrl ctrl (fun x => { x with shn := true }) (wake s)))
  else .next s

/-! ## Doorbells and hot contexts -/

def sqAt (s : State) (k : Nat) : Option Sq := tget s.nvq.sqs k
def modSq (k : Nat) (f : Sq → Sq) (s : State) : State := onNvq (fun n => { n with sqs := tmod n.sqs k f }) s

/-- Hot contexts of I/O queues. -/
def hotCount (s : State) : Nat := ((ioSqs s).filter fun e => e.2.hot).length

/-- The inactive hot context least recently used. -/
def lruHot (s : State) : Option Nat :=
  (((ioSqs s).filter fun e => e.2.hot && !sqActive s e.1 e.2).foldl (fun a e => match a with
    | none => some e
    | some b => if e.2.used < b.2.used then some e else some b) none).map (·.1)

/-- Make an active queue's context hot if an entry is free or can be freed, R108. -/
def makeHot (k : Nat) (s : State) : State :=
  let used (s : State) : State := modSq k (fun q => { q with hot := true, used := s.nvq.useSeq }) (onNvq (fun n => { n with useSeq := n.useSeq + 1 }) s)
  match sqAt s k with
  | none => s
  | some q =>
    if q.hot then used s
    else if hotCount s < 4096 then used s
    else match lruHot s with
      | some j => used (modSq j (fun q => { q with hot := false }) s)
      | none => s

/-- An invalid doorbell write, R106. -/
def badDoorbell (c : Nat) (a : Aen) (s : State) : State := sendAen c a (raiseSrc 183 (evt .nvqEvt 4 (wake s)))

/-- SQ_TAIL_DOORBELL, R106: captured in the doorbell store; in STANDPIPE it is the access that wakes the device (R377). A value is not valid where it
is not below the queue's size; a tail that repeats or passes the head is taken (DESIGN CHOICE, log entry 74: the manual does not say which values are
not valid). -/
def execSqTailDoorbell (ctrl qid value : Nat) (s : State) : Res :=
  if !thas s.nvq.ctrls ctrl || !doorbellsUp s then .next s
  else match sqAt s (qkey ctrl qid) with
    | none => .next (badDoorbell ctrl .invalidDoorbellReg s)
    | some q =>
      if q.size ≤ value then .next (badDoorbell ctrl .invalidDoorbellValue s)
      else
        let s1 := wake (modSq (qkey ctrl qid) (fun q => { q with tail := value, lone := q.lone && q.tail == value }) s)
        .next (if qid ≠ 0 ∧ value ≠ q.head then makeHot (qkey ctrl qid) s1 else s1)

/-- CQ_HEAD_DOORBELL, R106: completion entries are freed; a head past the entries written is not valid. -/
def execCqHeadDoorbell (ctrl qid value : Nat) (s : State) : Res :=
  if !thas s.nvq.ctrls ctrl || !doorbellsUp s then .next s
  else match tget s.nvq.cqs (qkey ctrl qid) with
    | none => .next (badDoorbell ctrl .invalidDoorbellReg s)
    | some q =>
      let dist (a b : Nat) : Nat := (b + q.size - a) % q.size
      if q.size ≤ value ∨ dist q.head q.tail < dist q.head value then .next (badDoorbell ctrl .invalidDoorbellValue s)
      else .next (onNvq (fun n => { n with cqs := tset n.cqs (qkey ctrl qid) { q with head := value } }) (wake s))

/-- CONTEXT_MADE_HOT, R108: a spilled active context becomes hot once a hot entry frees. -/
def execContextMadeHot (ctrl qid : Nat) (s : State) : Res :=
  match sqAt s (qkey ctrl qid) with
  | none => .next s
  | some q => if !q.hot && qid != 0 && sqActive s (qkey ctrl qid) q then .next (makeHot (qkey ctrl qid) s) else .next s

/-! ## Checks of Table 5-7 -/

/-- Admin opcodes of Table 5-1, and those a VF accepts. -/
def adminOps : List Nat :=
  [0x00, 0x01, 0x02, 0x04, 0x05, 0x06, 0x08, 0x09, 0x0A, 0x0C, 0x0D, 0x10, 0x11, 0x14, 0x15, 0x1C, 0x1D, 0x1E, 0x80, 0x81, 0x82,
   0x84, 0xC0]
def vfOps : List Nat := [0x00, 0x01, 0x02, 0x04, 0x05, 0x06, 0x08, 0x09, 0x0A, 0x0C]
def ioOps : List Nat := [0x00, 0x01, 0x02, 0x04, 0x05, 0x08, 0x09, 0x0C]

/-- Admin commands that run during a sanitize (PRESUMED: the NVMe base specification's list), with the sanitize command itself and
the Cament packet, whose groups Table 2-3 permits. -/
def sanitizeOps : List Nat := [0x00, 0x01, 0x02, 0x04, 0x05, 0x06, 0x08, 0x09, 0x0A, 0x0C, 0x1D, 0x1E, 0x84, 0xC0]

/-- The sanitize in force has failed. -/
def sanFailedNow (s : State) : Bool := (s.cst.san.map (·.failed)).getD false

/-- A namespace has data in an offline domain, R35. -/
def nsOffline (s : State) (n : Ns) : Bool := n.segs.any fun g => domSt s g.1 == .offline

/-- A namespace is attached to a controller. -/
def attached (s : State) (ns c : Nat) : Bool := match nsAt s ns with
  | some n => n.att.contains c
  | none => false

/-- Check 3: NSID valid and attached. The commands of Table 5-1 that act on the controller take 0 or FFFFFFFFh as well (PRESUMED: the NVMe base
specification, log entry 45); those not named here do not use the NSID. -/
def check3 (s : State) (c : Nat) (io : Bool) (e : Entry) : Bool :=
  let o := opc e
  let ns := entNsid e
  let every := ns == 0xFFFFFFFF
  if io then attached s ns c || (o == 0 && every)
  else if o = 0x80 then attached s ns c
  else if o = 0x15 then (nsAt s ns).isSome
  else if o = 0x0D then fld (cdw e 10) 0 4 == 0 || (nsAt s ns).isSome || every
  else if o = 0x02 || o = 0x09 || o = 0x0A || o = 0x14 then ns == 0 || every || attached s ns c
  else true

/-- Namespaces a command names: all attached ones for FFFFFFFFh. -/
def namedNs (s : State) (c ns : Nat) : List Nat :=
  if ns = 0xFFFFFFFF then (tkeys s.fte.nss).filter fun k => attached s k c else [ns]

/-- Check 4: mode and namespace state, Table 2-3, R284, R400; with the DNR of Table 5-19. FACTORY permits every command whatever spare is left
(Table 2-3). I/O during a sanitize to a namespace with data in an offline domain falls under Namespace Not Ready (R35) and under Sanitize In Progress
(Table 2-3): it is answered Sanitize In Progress (DESIGN CHOICE, log entry 75: the manual does not say which goes first). -/
def check4 (s : State) (c : Nat) (io : Bool) (e : Entry) : Option (Sc × Bool) :=
  let o := opc e
  let ns := entNsid e
  let create := !io && o == 0x0D && fld (cdw e 10) 0 4 == 0
  let wp := s.fte.wp && s.sys.mode != .factory
  if io then
    if s.sys.mode = .offline ∨ (sanOpen s = false ∧ (namedNs s c ns).any fun k => match nsAt s k with | some n => nsOffline s n | none => false) then
      some (.nsNotReady, true)
    else if sanFailedNow s then some (.sanitizeFailed, true)
    else if sanOpen s then some (.sanitizeInProgress, false)
    else if writeLike e && wp then some (.writeProtected, false)
    else if writeLike e && s.pwr.wrStop then some (.nsNotReady, false)
    else if writeLike e && (s.dre.lost || !twinUp s) && bitOf (reg s .dreCfg) 2 && thas s.dre.pairs ns then some (.nsNotReady, false)
    else none
  else if sanFailedNow s && o != 0x84 && !sanitizeOps.contains o then some (.sanitizeFailed, true)
  else if sanOpen s && !sanitizeOps.contains o then some (.sanitizeInProgress, false)
  else if create && wp then some (.insufficientCapacity, true)
  else none

/-- Check 5: transfer limits. -/
def check5 (s : State) (io : Bool) (e : Entry) : Bool :=
  let o := opc e
  if io then
    (if o = 1 ∨ o = 2 ∨ o = 5 ∨ o = 12 then decide (dataBytes s e ≤ 2 ^ 21) else true) && (o != 9 || decide (e.ranges.length ≤ 256))
  else decide (e.segs.foldl (fun a x => a + x.2) 0 ≤ 2 ^ 21)

/-- Check 6: LBA range within the namespace. -/
def check6 (s : State) (io : Bool) (e : Entry) : Bool :=
  match io && !(opc e == 9 && !dsmAd e), nsAt s (entNsid e) with
  | true, some n => (lbaRanges e).all fun r => decide (r.1 + r.2 ≤ n.size)
  | _, _ => true

/-- Check 2: reserved bits 13:10 of CDW0 are 0, as the host's other reserved fields are (`resvOk`), and the FUSE coding is valid. -/
def check2 (io : Bool) (e : Entry) : Bool :=
  let o := opc e
  e.resvOk && fld (cdw e 0) 10 4 == 0 && fuseOf e != 3 && (fuseOf e != 1 || (io && o == 5)) && (fuseOf e != 2 || (io && o == 1))

/-- Bytes that the SGL of a command must cover. -/
def sglNeed (s : State) (io : Bool) (e : Entry) : Nat := match io && (opc e == 1 || opc e == 2 || opc e == 5), nsAt s (entNsid e) with
  | true, some n => nlb e * xferLba n e
  | _, _ => 0

/-- Check 7, of the data pointer as it was read (Table 5-3; which address fails how is the NVMe base specification's, PRESUMED, log entry 45): PRPs
after the first begin at a memory page, the first at a dword and lists at a qword; an SGL has Data Block, Segment and Last Segment descriptors only
and covers the data. -/
def check7 (s : State) (c : Nat) (io : Bool) (e : Entry) : DptrCheck :=
  let page := 4096 * 2 ^ (ctrlAt s c).mps
  if e.dptr ≠ .ok then e.dptr
  else if fld (cdw e 0) 14 2 = 0 then
    (if e.segs.head?.all (fun x => x.1 % 4 == 0) && e.segs.tail.all (fun x => x.1 % page == 0) && e.lists.all (fun x => x.2 % 8 == 0) then .ok
     else .prpOffset)
  else if !(e.sgl.all fun k => k == 0 || k == 2 || k == 3) then .sglType
  else if e.segs.foldl (fun a x => a + x.2) 0 < sglNeed s io e then .sglLength
  else .ok

/-- Check 8, R338: with protection type 1 and a Reference Tag check, the tag expected is the low bits of the first LBA (PRESUMED: the NVM command set
specification, log entry 45). -/
def check8 (s : State) (io : Bool) (e : Entry) : Bool :=
  e.piOk && match io && (readClass e || opc e == 1), nsAt s (entNsid e) with
    | true, some n => !(n.pi == 1 && metaBytes n.fmt != 0 && bitOf (cdw e 12) 26) || cdw e 14 == cdw e 10
    | _, _ => true

/-- The first failing check of Table 5-7, R121: status and DNR. -/
def checkCmd (s : State) (c qid : Nat) (e : Entry) : Option (Sc × Bool) :=
  let o := opc e
  let io := qid != 0
  let bad (sc : Sc) : Option (Sc × Bool) := some (sc, scDnr sc)
  if !(if io then ioOps.contains o else adminOps.contains o && (isPf c || vfOps.contains o) &&
      (o != 0xC0 || bitOf (reg s .sysCamCtl) 8)) then bad .invalidOpcode
  else if !check2 io e then bad .invalidField
  else if !check3 s c io e then bad .invalidNs
  else match check4 s c io e with
    | some x => some x
    | none =>
      if !check5 s io e then bad .invalidField
      else if !check6 s io e then bad .lbaRange
      else match check7 s c io e with
        | .prpOffset => bad .prpOffset
        | .sglType => bad .sglType
        | .sglLength => bad .sglLength
        | .ok => if check8 s io e then none else bad .invalidPi

/-! ## Overlap detector, R113 -/

/-- Entries in use, with the detector taken as full while R339 says so. -/
def ovlFree (s : State) : Nat := if s.nvq.ovlFullTill.isSome then 0 else 4096 - s.nvq.ovl.length

/-- Take detector entries for a tag's ranges; the high-water mark and OVL_FULL follow. -/
def takeOvl (k : Nat) (t : Tag) (s : State) : State :=
  let es := (lbaRanges t.ent).map fun r => ({ ns := entNsid t.ent, lo := r.1, hi := r.1 + r.2 - 1, seq := t.seq, tag := some k } : Ovl)
  let l := s.nvq.ovl ++ es
  let s1 := onNvq (fun n => { n with ovl := l, ovlHwm := max n.ovlHwm l.length }) s
  if 4096 ≤ l.length && s.nvq.ovl.length < 4096 then evt .nvqEvt 2 s1 else s1

/-- A write-class command enters the detector at fetch, or is admitted untracked: UNTRK. -/
def enterOvl (k : Nat) (s : State) : State :=
  match tget s.nvq.tags k with
  | none => s
  | some t =>
    if !isIo t || !writeLike t.ent || t.st == .post then s
    else if (lbaRanges t.ent).length ≤ ovlFree s then takeOvl k t s
    else if t.pair then s
    else evt .nvqEvt 3 (setTag k { t with untracked := true } s)

/-! ## Fetch, R109, R110 -/

/-- The lowest tag not in use. -/
def freeTagFrom : Nat → Tbl Tag → Nat
  | i, [] => i
  | i, (k, _) :: l => if k = i then freeTagFrom (i + 1) l else i

/-- Tags are free for a queue, R110. -/
def tagsFree (s : State) (qid : Nat) : Bool :=
  if qid = 0 then decide (s.nvq.tags.length < 65536) else decide (256 < 65536 - s.nvq.tags.length)

/-- A fetch sequence number is assigned; the watermark is written ahead, R295. -/
def takeSeq (s : State) : Nat × State :=
  let n := s.nvq.seq
  let s1 := if n % 2 ^ 20 = 0 then onCst (fun c => { c with mark := (n + 2 ^ 20) % 2 ^ 32 }) s else s
  (n, onNvq (fun x => { x with seq := (n + 1) % 2 ^ 32 }) s1)

/-- Assign a tag to an entry that is fetched, or tunneled over the sideband: checks and classification. Answers the tag. -/
def assign (c qid : Nat) (e : Entry) (via : Option Bus) (s : State) : Nat × State :=
  let (seq, s1) := takeSeq s
  let k := freeTagFrom 0 s1.nvq.tags
  let t : Tag := { ctrl := c, qid, ent := e, seq, via, tenant := if qid = 0 then none else classify s c (entNsid e) }
  let s2 := setTag k t s1
  let n := s2.nvq.tags.length
  let s3 := onNvq (fun x => { x with tagHwm := max x.tagHwm n }) s2
  let s4 := if n = 65536 then raiseSrc 184 (evt .nvqEvt 0 s3) else s3
  match checkCmd s c qid e with
  | some (sc, dnr) => (k, outHit t.tenant (postDnr k sc dnr 0 0 (setTag k { t with uncharged := true } s4)))
  | none => (k, s4)

/-- Fetch the entry at a queue's head. -/
def fetchOne (c qid : Nat) (e : Entry) (s : State) : Nat × State :=
  assign c qid e none (modSq (qkey c qid) (fun q => { q with head := (q.head + 1) % q.size }) s)

/-- A tunneled admin command takes its tag, or waits for one (R28, R461). -/
def tunnelIn (b : Bus) (c : Nat) (e : Entry) (s : State) : State :=
  if tagsFree s 0 && s.nvq.tun.isEmpty then (assign c 0 e (some b) s).2 else onNvq (fun n => { n with tun := n.tun ++ [(b, c, e)] }) s

/-- Tunneled commands that wait take tags as they are freed. -/
def startTunnels (s : State) : State :=
  forEach s.nvq.tun (fun x s => if tagsFree s 0 then (assign x.2.1 0 x.2.2 (some x.1) (onNvq (fun n => { n with tun := n.tun.drop 1 }) s)).2 else s) s

/-- The second of a fused pair matches the first, R119. -/
def fusedMatch (s : State) (a b : Entry) : Bool :=
  entNsid a == entNsid b && slba a == slba b && nlb a == nlb b && decide (dataBytes s a ≤ 32768)

/-- Tie two fetched tags as a fused pair; a pair that does not match, or whose first failed its checks, ends by R119. -/
def tiePair (a b : Nat) (s : State) : State :=
  match tget s.nvq.tags a, tget s.nvq.tags b with
  | some x, some y =>
    let again (k : Nat) (t : Tag) (sc : Sc) (s : State) : State := post k sc 0 (setTag k { t with st := .adm } s)
    if !fusedMatch s x.ent y.ent then again b y .invalidField (again a x .invalidField s)
    else if x.st = .post then again b y .failedFused s
    else if y.st = .post then enterOvl a s
    else enterOvl b (setTag a { x with fused := some b, pair := true } (setTag b { y with fused := some a, pair := true } s))
  | _, _ => s

/-- The first of a fused pair. -/
def isFirst (qid : Nat) (e : Entry) : Bool := fuseOf e == 1 && opc e == 5 && qid != 0

/-- A fetched command with no fused first before it. A Write with FUSE 10b that follows no first command is answered as a first without its second
(DESIGN CHOICE, log entry 74: R119 speaks only of the first). -/
def alone (c qid k : Nat) (e : Entry) (s : State) : State :=
  if isFirst qid e then modSq (qkey c qid) (fun q => { q with half := some k }) s
  else if fuseOf e = 2 then postEarly k .missingFused s
  else enterOvl k s

/-- One entry of a queue that has its tag: the second of a pair, or a command of its own; a first whose next entry is no second ends (R119). -/
def pairUp (c qid k : Nat) (e : Entry) (half : Option Nat) (s : State) : State :=
  match half with
  | some j =>
    let s1 := modSq (qkey c qid) (fun q => { q with half := none }) s
    if fuseOf e = 2 ∧ opc e = 1 then outHit ((tget s1.nvq.tags k).bind (·.tenant)) (tiePair j k s1) else alone c qid k e (postEarly j .missingFused s1)
  | none => alone c qid k e s

/-- Fetch entries, at most `n`, of `present` that the queue holds. A fused first is fetched only when the entry after it is present. -/
def fetchList (c qid : Nat) : Nat → Nat → List Entry → State → State
  | 0, _, _, s => s
  | _ + 1, _, [], s => s
  | n + 1, present, e :: l, s =>
    if !tagsFree s qid then s
    else if isFirst qid e && decide (present < 2) then modSq (qkey c qid) (fun q => { q with lone := true }) s
    else
      let half := (sqAt s (qkey c qid)).bind (·.half)
      let x := fetchOne c qid e s
      fetchList c qid n (present - 1) l (pairUp c qid x.1 e half x.2)

/-- A queue from which a fetch can be made now. -/
def canFetch (s : State) (c qid : Nat) : Bool :=
  let x := ctrlAt s c
  x.en && x.rdy && !x.shn && s.sys.mode.serving && seqUp s 1 && !s.sys.fetchStop && tagsFree s qid &&
    !(qid != 0 && (s.pwr.shut || ctrlAtLimit s c)) &&
    match sqAt s (qkey c qid) with
    | some q => q.head != q.tail && !q.stopped && !q.retry && !q.lone
    | none => false

/-- Queues of a controller that can be fetched. -/
def fetchable (s : State) (c : Nat) : List (Nat × Sq) :=
  ((s.nvq.sqs.filter fun e => e.1 / 65536 == c).map fun e => (e.1 % 65536, e.2)).filter fun e => canFetch s c e.1

/-! ## Arbitration, R109, R137 -/

/-- The first number after `last` in a rising list, or its first. -/
def nextAfter (last : Nat) (l : List Nat) : Option Nat := (l.find? fun k => decide (last < k)).or l.head?

/-- Class of a queue within its controller under CC.AMS: one class under round robin; under weighted round robin the admin queue 0, urgent queues 1,
then the high, medium and low classes 2 to 4. -/
def queueClass (s : State) (c qid : Nat) (q : Sq) : Nat :=
  if (ctrlAt s c).ams = 0 then 0 else if qid = 0 then 0 else q.prio % 4 + 1

/-- Weight of a weighted class in commands, from the Arbitration feature, whose fields are one less. -/
def classWeight (x : Ctrl) (k : Nat) : Nat := nfld (tgetD x.feats 1 0) (24 - 8 * (k - 2)) 8 + 1

/-- The class that is served: the admin queue and urgent queues first; of the weighted classes the highest with commands left in the round, or with
none left the highest (PRESUMED: the weights are credits in commands, as in the NVMe base specification; log entry 48). -/
def servedClass (s : State) (c : Nat) : Nat :=
  let cs := (fetchable s c).map fun e => queueClass s c e.1 e.2
  match cs.find? (· == 0), cs.find? (· == 1) with
  | some _, _ => 0
  | none, some _ => 1
  | none, none => (([2, 3, 4].find? fun k => cs.contains k && decide (0 < (ctrlAt s c).credits.getD (k - 2) 0)).or ([2, 3, 4].find? cs.contains)).getD 2

/-- The queue that has its turn: in the class served, the one served last while its burst lasts, else the next in number. -/
def queueTurn (s : State) (c qid : Nat) (_ : Sq) : Bool :=
  let x := ctrlAt s c
  let k := servedClass s c
  let peers := ((fetchable s c).filter fun e => queueClass s c e.1 e.2 == k).map (·.1)
  let last := tgetD x.turns k 0
  if decide (0 < x.burst) && last == x.lastQ && peers.contains last then qid == last else nextAfter last peers == some qid

/-- The tenant whose commands a controller's are for the choice between controllers. -/
def ctrlTenant (s : State) (c : Nat) : Nat :=
  (if bitOf (reg s .qosCfg) 0 then (tget s.qos.bindC c).filter fun t => (tntAt s t).en else none).getD unasgNo

/-- Controllers with an I/O queue to fetch. -/
def wantCtrls (s : State) : List Nat := (tkeys s.nvq.ctrls).filter fun c => (fetchable s c).any fun e => e.1 != 0

/-- The tenants of controllers, rising. -/
def tntsOf (s : State) (cs : List Nat) : List Nat := cs.foldl (fun l c => insNat (ctrlTenant s c) l) []

/-- The controller QOS chooses for the next I/O fetch, R137: of the partner-facing link first; else of the tenant that deficit round robin serves;
among several the next in number (DESIGN CHOICE, log entry 48). -/
def ctrlTurn (s : State) (c : Nat) : Bool :=
  let cs := wantCtrls s
  match cs.filter fun c => isPface s (ctrlLink s c) with
  | [] => match qosPick s (tntsOf s cs) with
    | some t => nextAfter s.nvq.lastCtl (cs.filter fun c => ctrlTenant s c == t) == some c
    | none => false
  | ps => nextAfter s.nvq.lastCtl ps == some c

/-- A choice between controllers is served. -/
def serveCtrl (c : Nat) (s : State) : State :=
  let s1 := if isPface s (ctrlLink s c) then s else qosServe (ctrlTenant s c) (tntsOf s (wantCtrls s)) s
  onNvq (fun n => { n with lastCtl := c }) s1

/-- NVQ_CFG.FETCH_MAX, 1 to 8. -/
def fetchMax (s : State) : Nat :=
  let v := rfld s .nvqCfg 0 4
  if v = 0 ∨ 8 < v then 8 else v

/-- The Arbitration Burst of a controller: 2^AB commands, 7 no limit. -/
def arbBurst (x : Ctrl) : Nat :=
  let ab := tgetD x.feats 1 0 % 8
  if ab = 7 then 65536 else 2 ^ ab

/-- A turn is charged: the burst and, in a weighted class, the class's commands of the round; a round with none left begins anew. A queue from which
nothing could be taken has had its turn. -/
def chargeTurn (qid k got burst : Nat) (x : Ctrl) : Ctrl :=
  let cr := if 2 ≤ k ∧ x.credits.getD (k - 2) 0 = 0 then [2, 3, 4].map (classWeight x) else x.credits
  { x with lastQ := qid, burst := if got = 0 then 0 else burst - got, turns := tset x.turns k qid,
           credits := if 2 ≤ k then setAt cr (k - 2) (cr.getD (k - 2) 0 - got) else x.credits }

/-- A queue's turn: entries are fetched, as many as FETCH_MAX, the entries present and the burst allow; a spilled context sets SPILL. -/
def fetchFrom (c qid : Nat) (es : List Entry) (s : State) : State :=
  let x := ctrlAt s c
  match sqAt s (qkey c qid) with
  | none => s
  | some q =>
    let burst := if x.lastQ = qid ∧ 0 < x.burst then x.burst else arbBurst x
    let present := (q.tail + q.size - q.head) % q.size
    let s1 := if qid ≠ 0 ∧ !q.hot then evt .nvqEvt 1 s else s
    let s2 := if qid ≠ 0 then serveCtrl c s1 else s1
    let s3 := fetchList c qid (min (fetchMax s) (min present burst)) present (es.take present) s2
    let got := match sqAt s3 (qkey c qid) with
      | some q' => (q'.head + q.size - q.head) % q.size
      | none => 0
    let s4 := modCtrl c (chargeTurn qid (queueClass s c qid q) got burst) s3
    if qid ≠ 0 then makeHot (qkey c qid) s4 else s4

/-- SUBMISSION_FETCH, R109 to R112: a queue that has its turn is read. -/
def execSubmissionFetch (ctrl qid : Nat) (r : FetchResult) (s : State) : Res :=
  match sqAt s (qkey ctrl qid) with
  | none => .next s
  | some q =>
    if !canFetch s ctrl qid || !queueTurn s ctrl qid q || (qid != 0 && !ctrlTurn s ctrl) then .next s
    else match r with
      | .entries es => .next (fetchFrom ctrl qid es s)
      | .failed => .next (modSq (qkey ctrl qid) (fun q => { q with retry := true }) s)

/-- A queue enters fetch-stopped, R112: an Error Information entry, the event, SQ_STOP's record and source 182. -/
def stopQueue (c qid : Nat) (sc : Sc) (s : State) : State :=
  let s2 := modSq (qkey c qid) (fun q => { q with stopped := true }) s
  let s3 := logErr c { sqid := qid, cid := 0xFFFF, status := sc } s2
  let s4 := onNvq (fun n => { n with sqStop := n.sqStop.or (some (c, qid)) }) (sendAen c .persistentInternal s3)
  raiseSrc 182 (evt .nvqEvt 5 s4)

/-- FETCH_RETRY, R112: the read of a failed fetch is repeated once; a second failure stops the queue. -/
def execFetchRetry (ctrl qid : Nat) (r : FetchResult) (s : State) : Res :=
  match sqAt s (qkey ctrl qid) with
  | none => .next s
  | some q =>
    if !q.retry || !s.sys.mode.serving then .next s
    else
      let s1 := modSq (qkey ctrl qid) (fun q => { q with retry := false }) s
      match r with
      | .entries es => .next (if canFetch s1 ctrl qid then fetchFrom ctrl qid es s1 else s1)
      | .failed => .next (stopQueue ctrl qid .dataTransfer s1)

/-! ## Admission, R111, R114, R115, R119, R136 -/

/-- A write-class command whose data is not yet wholly in a well and that has not ended. -/
def unplaced (t : Tag) : Bool := isIo t && writeLike t.ent && !t.placed && t.st != .post

/-- R114, R115: writes that hold a read-class command back. -/
def readHeld (s : State) (t : Tag) : Bool :=
  s.nvq.tags.any fun e => unplaced e.2 && newer t.seq e.2.seq && entNsid e.2.ent == entNsid t.ent &&
    (e.2.untracked || entsMeet e.2.ent t.ent)

/-- R119: a fused pair that has not ended holds every later command that overlaps it. -/
def pairHeld (s : State) (t : Tag) : Bool :=
  s.nvq.tags.any fun e => e.2.pair && e.2.st != .post && newer t.seq e.2.seq && entsMeet e.2.ent t.ent

/-- Well space a write-class command needs, in bytes. -/
def wellNeed (s : State) (e : Entry) : Nat := 4096 * (List.range 4).foldl (fun a d => a + grantNeed s e d) 0

/-- R18: there is room for a command's data in the write wells, counting admitted data not yet placed; a command larger than the
limit goes alone. Nothing is admitted while the parity accumulators or the buffers of the WRITE or PARITY class have reached their limit, nor
while a WRITE allocation of an HPC ingress requester waits (R319). -/
def wellRoom (s : State) (t : Tag) : Bool :=
  let held := wellBytes s + s.nvq.tags.foldl (fun a e => if unplaced e.2 && e.2.st != .adm then a + wellNeed s e.2.ent else a) 0
  wellNeed s t.ent == 0 || !(s.wel.waits.any fun w => decide (w.rq < 4)) && decide (accBytes s < lim19 s 12) &&
    decide (clsBytes s 0 < lim19 s 48) && decide (clsBytes s 1 < lim19 s 12) && (held == 0 || decide (held + wellNeed s t.ent ≤ writeLimit s))

/-- The IUs that a write-class command changes only in part; a deallocation leaves them as they are. -/
def partIus (s : State) (t : Tag) : List Nat := match nsAt s (entNsid t.ent) with
  | none => []
  | some n => if opc t.ent = 9 then [] else (lbaRanges t.ent).flatMap fun r =>
    let a := iuSpan n.fmt r.1 r.2
    let w := wholeIus n.fmt r.1 r.2
    (upFrom a.1 a.2).filter fun iu => !(decide (w.1 ≤ iu) && decide (iu < w.1 + w.2))

/-- A write that covers an IU in part is merged with what the IU holds (R188), so it waits until every earlier write of that IU has placed its data
(DEDUCED from R116: else the earlier one's LBAs would be lost). -/
def mergeHeld (s : State) (t : Tag) : Bool :=
  isIo t && writeLike t.ent && match partIus s t with
    | [] => false
    | ps => s.nvq.tags.any fun e => unplaced e.2 && newer t.seq e.2.seq && entNsid e.2.ent == entNsid t.ent && match nsAt s (entNsid t.ent) with
      | some n => (lbaRanges e.2.ent).any fun r => let x := iuSpan n.fmt r.1 r.2
          ps.any fun iu => decide (x.1 ≤ iu) && decide (iu < x.1 + x.2)
      | none => false

/-- R136: with `n` more commands the tenant's count stays within OUT_MAX. -/
def outRoom (s : State) (t : Tag) (n : Nat) : Bool := match t.tenant with
  | some k => decide (outCount s k + n ≤ (tntAt s k).outMax)
  | none => true

/-- Ordering holds are clear and QOS, the grant and the wells admit. -/
def admissible (s : State) (t : Tag) : Bool :=
  if !isIo t then true
  else
    outRoom s t 1 && !pairHeld s t && !mergeHeld s t &&
      (if readClass t.ent then !readHeld s t else true) && (if writeLike t.ent then t.granted && wellRoom s t else true)

/-- A command moves to RUN: QOS debits its tenant's deficit by its data, OUT_HIT and source 188 follow a tenant that reaches its
limit, and its Host DMA context starts. -/
def run1 (k : Nat) (s : State) : State :=
  match tget s.nvq.tags k with
  | none => s
  | some t =>
    let n := if isIo t then dataBytes s t.ent else 0
    let s1 := setTag k { t with st := .run, debited := n } s
    startDma k (outHit t.tenant (if isIo t then debit t.tenant n s1 else s1))

/-- The first of a fused pair waits for its second to be fetched (R119). -/
def waitsHalf (s : State) (k : Nat) (t : Tag) : Bool := (sqAt s (qkey t.ctrl t.qid)).any fun q => q.half == some k

/-- ADMIT_TO_RUN, R111. A fused pair is admitted by its Compare, once both may run and its one detector entry is held. -/
def execAdmitToRun (tag : Nat) (s : State) : Res :=
  match tget s.nvq.tags tag with
  | none => .next s
  | some t =>
    if t.st ≠ .adm ∨ !engines s ∨ waitsHalf s tag t ∨ !admissible s t then .next s
    else match t.fused with
      | none => .next (run1 tag s)
      | some o => match tget s.nvq.tags o with
        | none => .next (run1 tag s)
        | some u =>
          if u.st = .post then .next (run1 tag s)
          else if opc t.ent ≠ 5 ∨ u.st ≠ .adm ∨ !u.granted ∨ !wellRoom s u ∨ !outRoom s t 2 ∨ mergeHeld s u then .next s
          else
            let s1 := if s.nvq.ovl.any fun x => x.tag == some o then s else enterOvl o s
            if s1.nvq.ovl.any fun x => x.tag == some o then .next (run1 o (run1 tag s1)) else .next s

/-! ## Completion, R123, R135 -/

/-- A completion is held by its tenant's IOPS maximum. -/
def meterHeld (s : State) (t : Tag) : Bool := match t.tenant with
  | some k => (tntAt s k).ioMax != 0 && decide ((tntAt s k).mIoMax < ioUnit)
  | none => false

/-- The completion queue of a tag. -/
def cqOf (s : State) (t : Tag) : Option Nat := (sqAt s (qkey t.ctrl t.qid)).map fun q => qkey t.ctrl q.cqid

/-- Free a tag after its completion: entries whose data is not in a well leave the detector. -/
def freeTag (k : Nat) (s : State) : State :=
  let s1 := eraseTag k s
  let s2 := match s1.nvq.ovlFullTill with
    | some q => if s1.nvq.tags.any fun e => newer q e.2.seq || e.2.seq == q then s1 else onNvq (fun n => { n with ovlFullTill := none }) s1
    | none => s1
  afterFree s2

/-- The NVMe-MI response of a tunneled admin command: its completion words and status. -/
def tunnelReply (t : Tag) : List Nat :=
  [0x84, 0x90, 0, 0, 0, 0, 0, 0] ++ (wordBytes [lo32 t.dw0, lo32 t.dw1]).map (·.toNat) ++ [if t.status = .success then 0 else 1]

/-- The interrupt of a completion, Table 5-6: at once, but for an I/O queue's vector for which coalescing is on (features 08h and 09h), once the
completions since its last interrupt pass the aggregation threshold; METER_TICK sends it once the aggregation time has passed (PRESUMED: the fields of
the NVMe base specification, log entry 44). -/
def raiseMsix (c qid iv : Nat) (s : State) : State :=
  let x := ctrlAt s c
  let f := tgetD x.feats 8 0
  if qid = 0 || nfld f 8 8 == 0 || nfld (tgetD x.feats (0x90000 + iv) 0) 16 1 == 1 then emit (.msix c iv) s
  else
    let a := tgetD x.aggr iv (0, s.pwr.tb)
    if nfld f 0 8 ≤ a.1 then emit (.msix c iv) (modCtrl c (fun x => { x with aggr := terase x.aggr iv }) s)
    else modCtrl c (fun x => { x with aggr := tset x.aggr iv (a.1 + 1, a.2) }) s

/-- COMPLETION_POST, R123, R130, R135: the completion entry is written, in the order of POST among completions that no meter holds;
one operation is charged, unless it failed its checks or was aborted in ADMIT (R129), the deficit is settled, and the tag is freed. A tunneled command is answered on its bus (R458). -/
def execCompletionPost (tag : Nat) (s : State) : Res :=
  match tget s.nvq.tags tag with
  | none => .next s
  | some t => match t.via, cqOf s t with
    | some b, _ =>
      if t.st ≠ .post ∨ !engines s then .next s
      else .next (startTunnels (freeTag tag (emit (.sideband (some b) (tunnelReply t)) s)))
    | none, none => .next s
    | none, some ck => match tget s.nvq.cqs ck with
      | none => .next s
      | some q =>
        let full := (q.tail + 1) % q.size == q.head
        let earlier := s.nvq.tags.any fun e => e.2.st == .post && cqOf s e.2 == some ck && decide (e.2.postSeq < t.postSeq) && !meterHeld s e.2
        if t.st ≠ .post ∨ full ∨ earlier ∨ meterHeld s t ∨ !engines s then .next s
        else
          let head := ((sqAt s (qkey t.ctrl t.qid)).map (·.head)).getD 0
          let s1 := emit (.completion t.ctrl (ck % 65536) (cidOf t.ent) t.qid head t.status t.dnr t.dw0 t.dw1) s
          let q1 : Cq := { q with tail := (q.tail + 1) % q.size, phase := if q.tail + 1 = q.size then !q.phase else q.phase }
          let s2 := onNvq (fun n => { n with cqs := tset n.cqs ck q1 }) s1
          let s3 := if q.ien then raiseMsix t.ctrl t.qid q.iv s2 else s2
          let s4 := if isIo t && !t.uncharged then debit t.tenant ((t.moved : Int) - (t.debited : Int)) (chargeOps t.tenant 1 s3) else s3
          .next (startTunnels (freeTag tag (returnResv tag s4)))

/-- HELD_AEN_DELIVERY, R40: one held critical-warning bit that is still set and enabled is sent to a controller with a request
outstanding; bits no longer set are given up. -/
def execHeldAenDelivery (ctrl : Nat) (s : State) : Res :=
  let x := ctrlAt s ctrl
  let live := x.heldWarn &&& critWarn s
  let go := live &&& aenConfig x
  if !x.en || !x.rdy || x.aers.isEmpty || go = 0 || !engines s then .next s
  else
    let b := ((List.range 8).find? fun i => go.testBit i).getD 0
    .next (sendAen ctrl .smart (modCtrl ctrl (fun x => { x with heldWarn := live - 2 ^ b }) s))

end Sys2Proof.Machine
end

