-- ==== Sys2Proof/Machine/NvmeAdmin.lean ====
section
/-! DEFINITION. Admin commands of Table 5-1: queues, Identify, Abort, features, event requests, namespaces (R102, R191, R192),
virtualization (R105), Format NVM (R192, R437) and Device Self-test (R396). -/

namespace Sys2Proof.Machine

/-! ## Running an admin command -/

/-- Host address of a byte of a transfer, and bytes left in its segment. -/
def hostAddr : List (Nat × Nat) → Nat → Option (Nat × Nat)
  | [], _ => none
  | (a, n) :: l, off => if off < n then some (a + off, n - off) else hostAddr l (off - n)

/-- Bytes of the TLP that begins at a host address with `left` bytes of its segment, R97. -/
def tlpBytes (mps a left : Nat) : Nat := min left (min (512 - a % 512) (max 1 mps))

/-- TLPs of one run of bytes `p` to `q` of a transfer, split by R97; `fuel` bounds their number. -/
def sendRun (segs : List (Nat × Nat)) (mps ctrl : Nat) (ep : Bool) : Nat → Nat → Nat → State → State
  | 0, _, _, s => s
  | fuel + 1, p, q, s =>
    if q ≤ p then s
    else match hostAddr segs p with
      | none => s
      | some (a, left) =>
        let n := min (q - p) (tlpBytes mps a left)
        sendRun segs mps ctrl ep fuel (p + n) q (emit (.tlp ctrl a n ep) s)

/-- A context is not waiting to be resumed. -/
def CtxSt.free : CtxSt → Bool
  | .idle | .running => true
  | .txWait | .pgQueued | .pgWait | .mpWait | .resume => false

/-- Bytes of a command's transfer. -/
def xferBytes (t : Tag) : Nat := t.ent.segs.foldl (fun a x => a + x.2) 0

/-- The bytes `p` to `q` of an admin command's data are sent to the host. -/
def sendAdmin (t : Tag) (p q : Nat) (s : State) : State := sendRun t.ent.segs (fnAt s t.ctrl).mps t.ctrl false (q - p) p q s

/-- An admin command in RUN with an opcode takes effect. One that returns data and succeeds sends it as far as its pages translate, and takes a TX fault
at the first that does not, to go on from there; one that takes data takes effect once all its pages translate (R152, R158, R166). Opcodes with bits
1:0 = 10b return data, but for Get Features, whose features of Table 5-1 have their value in the completion. -/
def admin (k op : Nat) (eff : Tag → State → State) (s : State) : State :=
  match tget s.nvq.tags k with
  | none => s
  | some t =>
    if t.st ≠ .run || t.qid != 0 || opc t.ent != op || !engines s || !seqUp s 1 || !t.dma.st.free then s
    else
      let r := eff t s
      let sends := op % 4 == 2 && op != 0x0A
      if sends && !((tget r.nvq.tags k).any fun x => x.st == .post && x.status == .success) then r
      else match missAt s t t.dma.prog with
        | some m => txFault k m (onlyIf sends (sendAdmin t t.dma.prog m.1) s)
        | none => if sends then eff t (sendAdmin t t.dma.prog (xferBytes t) s) else r

/-- Data returned to the host, and success. -/
def answer (k what : Nat) (vals : List Nat) (s : State) : State := post k .success 0 (emit (.info k what vals) s)

/-! ## Queues -/

/-- I/O queue allocation of a controller, R104: submission, completion. -/
def queueAlloc (s : State) (c : Nat) : Nat × Nat :=
  let d := vqRes s c - 1
  (ctrlAt s c).numQ.getD (d, d)

/-- CREATE_IO_COMPLETION_QUEUE, R104, Table 5-1. -/
def execCreateIoCompletionQueue (tag : Nat) (s : State) : Res :=
  .next (admin tag 0x05 (fun t s =>
    let qid := fld (cdw t.ent 10) 0 16
    let n := fld (cdw t.ent 10) 16 16 + 1
    let iv := fld (cdw t.ent 11) 16 16
    if qid = 0 || decide ((queueAlloc s t.ctrl).2 < qid) || decide (16384 ≤ (ioCqs s).length) || thas s.nvq.cqs (qkey t.ctrl qid) then
      post tag .invalidQid 0 s
    else if n < 2 ∨ (ctrlAt s t.ctrl).cap.mqes < n - 1 then post tag .invalidQueueSize 0 s
    else if !bitOf (cdw t.ent 11) 0 then post tag .invalidField 0 s
    else if viRes s t.ctrl ≤ iv then post tag .invalidVector 0 s
    else
      let q : Cq := { size := n, iv, ien := bitOf (cdw t.ent 11) 1 }
      post tag .success 0 (onNvq (fun x => { x with cqs := tset x.cqs (qkey t.ctrl qid) q }) s)) s)

/-- CREATE_IO_SUBMISSION_QUEUE, R104, Table 5-1. -/
def execCreateIoSubmissionQueue (tag : Nat) (s : State) : Res :=
  .next (admin tag 0x01 (fun t s =>
    let qid := fld (cdw t.ent 10) 0 16
    let n := fld (cdw t.ent 10) 16 16 + 1
    let cq := fld (cdw t.ent 11) 16 16
    if qid = 0 || decide ((queueAlloc s t.ctrl).1 < qid) || decide (16384 ≤ (ioSqs s).length) || thas s.nvq.sqs (qkey t.ctrl qid) then
      post tag .invalidQid 0 s
    else if n < 2 ∨ (ctrlAt s t.ctrl).cap.mqes < n - 1 then post tag .invalidQueueSize 0 s
    else if !bitOf (cdw t.ent 11) 0 then post tag .invalidField 0 s
    else if cq = 0 || !thas s.nvq.cqs (qkey t.ctrl cq) then post tag .completionQueueInvalid 0 s
    else
      let q : Sq := { size := n, cqid := cq, prio := fld (cdw t.ent 11) 1 2 }
      post tag .success 0 (onNvq (fun x => { x with sqs := tset x.sqs (qkey t.ctrl qid) q }) s)) s)

/-- DELETE_IO_SUBMISSION_QUEUE: the queue goes, and its commands end (DESIGN CHOICE: without a completion). -/
def execDeleteIoSubmissionQueue (tag : Nat) (s : State) : Res :=
  .next (admin tag 0x00 (fun t s =>
    let qid := fld (cdw t.ent 10) 0 16
    if qid = 0 || !thas s.nvq.sqs (qkey t.ctrl qid) then post tag .invalidQid 0 s
    else
      let s1 := endCmds (fun x => x.ctrl == t.ctrl && x.qid == qid) s
      post tag .success 0 (onNvq (fun x => { x with sqs := terase x.sqs (qkey t.ctrl qid) }) s1)) s)

/-- DELETE_IO_COMPLETION_QUEUE: refused while a submission queue posts to it. -/
def execDeleteIoCompletionQueue (tag : Nat) (s : State) : Res :=
  .next (admin tag 0x04 (fun t s =>
    let qid := fld (cdw t.ent 10) 0 16
    if qid = 0 || !thas s.nvq.cqs (qkey t.ctrl qid) then post tag .invalidQid 0 s
    else if s.nvq.sqs.any fun e => e.1 / 65536 == t.ctrl && e.2.cqid == qid then post tag .invalidQDeletion 0 s
    else post tag .success 0 (onNvq (fun x => { x with cqs := terase x.cqs (qkey t.ctrl qid) }) s)) s)

/-! ## Identify -/

/-- Flexible resources of a PF, Table 5-5; the PF of a partner-facing link has its private ones only (R105). -/
def vqFrt (s : State) (pf : Nat) : Nat := if isPface s (ctrlLink s pf) then 0 else 4284
def viFrt (s : State) (pf : Nat) : Nat := if isPface s (ctrlLink s pf) then 0 else 16128

/-- Namespaces above `lo` that pass a test. -/
def nsList (s : State) (lo : Nat) (p : Nat → Ns → Bool) : List Nat :=
  (s.fte.nss.filter fun e => e.2.live && decide (lo < e.1) && p e.1 e.2).map (·.1)

/-- The LBA formats of Table 5-4: data size as a power of two, and metadata bytes. -/
def lbaFormats : List Nat := (List.range 8).flatMap fun f => [if f % 4 = 0 then 9 else 12, metaBytes f]

/-- Identify Namespace values the manual gives: NSZE, NCAP, format, PI, NMIC, DLFEAT, whether metadata is an extended LBA, NLBAF and the LBA formats
(R102, R103, R189). -/
def nsValues (n : Ns) : List Nat := [n.size, n.size, n.fmt, n.pi, b2n (!n.mirror), 8, b2n n.mset, 7] ++ lbaFormats

/-- R387: a power state descriptor: MP in 0.01 W, non-operational, ENLAT and EXLAT in microseconds. -/
def psDesc (s : State) (n : Nat) : List Nat :=
  let a := s.prof.psPower.getD n 0
  if n < 21 then [100 * (32 - n) + a, 0, 0, 0] else [a, 1, 1000, 1000]

/-- Identify Controller values the manual gives, in this order: CNTLID, MDTS, SQES, CQES, NN, ACL, AERL, FUSES, VWC, NPSS
(Table 5-3, R387), ONCS, SGLS, RTD3E (Table 5-3), FRMW, MTFA, FWUG (R415, R417), SANICAP (R448: CES, BES, NDI, NODMMAS 10b), EDSTT,
VIDS, then the 22 power state descriptors. -/
def ctrlValues (s : State) (c : Nat) : List Nat :=
  [c, 9, 0x66, 0x44, 1024, 15, 7, 1, 0, 21, 0x8F, 2, 50000, 0x14, 1, 1, 0xA0000003, s.prof.edstt, s.prof.vid, s.prof.svid] ++
    (List.range 22).flatMap (psDesc s)

/-- IDENTIFY, R100, Table 5-1: the structures named there; other CNS values are invalid. -/
def execIdentify (tag : Nat) (s : State) : Res :=
  .next (admin tag 0x06 (fun t s =>
    let cns := fld (cdw t.ent 10) 0 8
    let ns := entNsid t.ent
    let ctrl := fld (cdw t.ent 10) 16 16
    let pf := ctrlOf (portOf t.ctrl) 0
    let ok (l : List Nat) : State := answer tag (0x600 + cns) l s
    match cns with
    | 0x00 => match nsAt s ns with
      | some n => ok (if n.att.contains t.ctrl then nsValues n else [])
      | none => post tag .invalidNs 0 s
    | 0x01 => ok (ctrlValues s t.ctrl)
    | 0x02 => ok ((nsList s ns fun _ n => n.att.contains t.ctrl).take 1024)
    | 0x03 => match nsAt s ns with
      | some n => ok [ns, n.inst]
      | none => post tag .invalidNs 0 s
    | 0x10 => ok ((nsList s ns fun _ _ => true).take 1024)
    | 0x11 => match nsAt s ns with
      | some n => ok (nsValues n)
      | none => post tag .invalidNs 0 s
    | 0x12 => match nsAt s ns with
      | some n => ok (n.att.filter fun c => decide (ctrl ≤ c))
      | none => post tag .invalidNs 0 s
    | 0x13 => ok ((tkeys s.nvq.ctrls).filter fun c => decide (ctrl ≤ c))
    | 0x14 => ok [pf, 65, vqFrt s pf, 129, 2048, viFrt s pf, 64, (ctrlAt s pf).vqFlex, (ctrlAt s pf).viFlex]
    | 0x15 => ok (((tkeys s.nvq.ctrls).filter fun c => portOf c == portOf t.ctrl && !isPf c && decide (ctrl ≤ c)).flatMap fun c =>
        [c, b2n (ctrlAt s c).online, vqRes s c, viRes s c])
    | _ => post tag .invalidField 0 s) s)

/-! ## Abort and event requests -/

/-- ABORT, R124: only a target in ADMIT is aborted; DW0 bit 0 says that nothing was. At most 16 are outstanding (Table 5-3). -/
def execAbort (tag : Nat) (s : State) : Res :=
  .next (admin tag 0x08 (fun t s =>
    let sq := fld (cdw t.ent 10) 0 16
    let cid := fld (cdw t.ent 10) 16 16
    let out := (s.nvq.tags.filter fun e => e.2.ctrl == t.ctrl && e.2.qid == 0 && opc e.2.ent == 0x08 && e.2.st != .post).length
    if 16 < out then post tag .abortLimit 0 s
    else match s.nvq.tags.find? fun e => e.2.ctrl == t.ctrl && e.2.qid == sq && cidOf e.2.ent == cid && e.2.st == .adm with
      | some (k, x) =>
        post tag .success 0 (postEarly k .abortRequested (setTag k { x with uncharged := true } s))
      | none => post tag .success 1 s) s)

/-- ASYNCHRONOUS_EVENT_REQUEST, R40, Table 5-1: at most 8 per controller; a waiting event completes it at once. -/
def execAsynchronousEventRequest (tag : Nat) (s : State) : Res :=
  .next (admin tag 0x0C (fun t s =>
    let x := ctrlAt s t.ctrl
    if x.aers.contains tag then s
    else if 8 ≤ x.aers.length then post tag .aerLimit 0 s
    else match x.events with
      | a :: l => post tag .success a.dw0 (setCtrl t.ctrl { x with events := l } s)
      | [] => setCtrl t.ctrl { x with aers := x.aers ++ [tag] } s) s)

/-! ## Features, Table 5-1 -/

/-- Key under which a feature's value is held: thresholds and vectors have one each. -/
def featKey (e : Entry) : Nat :=
  let fid := fld (cdw e 10) 0 8
  if fid = 4 then 0x400 + fld (cdw e 11) 20 2 else if fid = 9 then 0x90000 + fld (cdw e 11) 0 16 else fid

/-- Supported features. -/
def featIds : List Nat := [0x01, 0x02, 0x04, 0x07, 0x08, 0x09, 0x0B]

/-- Number of Queues as a completion word: completion queues [31:16], submission queues [15:0], each less one. -/
def numQDw (a : Nat × Nat) : Nat := (a.1 - 1) + 65536 * (a.2 - 1)

/-- SET_FEATURES, R100, R104, R387: other features, and saving, give Invalid Field in Command. -/
def execSetFeatures (tag : Nat) (s : State) : Res :=
  .next (admin tag 0x09 (fun t s =>
    let fid := fld (cdw t.ent 10) 0 8
    let w := cdw t.ent 11
    let x := ctrlAt s t.ctrl
    let store (s : State) : State := modCtrl t.ctrl (fun x => { x with feats := tset x.feats (featKey t.ent) w.toNat }) s
    if !featIds.contains fid || bitOf (cdw t.ent 10) 31 then post tag .invalidField 0 s
    else if fid = 2 then
      if 21 < fld w 0 5 then post tag .invalidField 0 s
      else post tag .success 0 (rescale (setCtrl t.ctrl { x with ps := fld w 0 5 } s))
    else if fid = 4 then (if fld w 16 4 ≠ 0 ∨ 1 < fld w 20 2 then post tag .invalidField 0 s else post tag .success 0 (store s))
    else if fid = 7 then
      if fld w 0 16 = 0xFFFF ∨ fld w 16 16 = 0xFFFF then post tag .invalidField 0 s
      else
        let lim := vqRes s t.ctrl - 1
        let a := (min lim (fld w 0 16 + 1), min lim (fld w 16 16 + 1))
        post tag .success (numQDw a) (setCtrl t.ctrl { x with numQ := some a } s)
    else if fid = 9 then (if viRes s t.ctrl ≤ fld w 0 16 then post tag .invalidField 0 s else post tag .success 0 (store s))
    else post tag .success 0 (store s)) s)

/-- GET_FEATURES: current (or, for SEL 001b, default) values. -/
def execGetFeatures (tag : Nat) (s : State) : Res :=
  .next (admin tag 0x0A (fun t s =>
    let fid := fld (cdw t.ent 10) 0 8
    let dflt := fld (cdw t.ent 10) 8 3 == 1
    let x := ctrlAt s t.ctrl
    if !featIds.contains fid then post tag .invalidField 0 s
    else if fid = 7 then post tag .success (numQDw (queueAlloc s t.ctrl)) s
    else if fid = 2 then post tag .success (if dflt then 0 else x.ps) s
    else post tag .success (if dflt then 0 else tgetD x.feats (featKey t.ent) 0) s) s)

/-! ## Placement of namespaces, R191, R32 -/

/-- Domains that take data, in order of decreasing unallocated capacity, lowest number first among equals. -/
def insDom (avail : Nat → Nat) (d : Nat) : List Nat → List Nat
  | [] => [d]
  | e :: l => if avail e < avail d then d :: e :: l else e :: insDom avail d l

def domOrder (s : State) (avail : Nat → Nat) : List Nat :=
  ((List.range 4).filter fun d => domSt s d != .offline && !(domDies s d).isEmpty).foldl (fun l d => insDom avail d l) []

/-- Fill domains in order; each segment but the last is a whole number of map pages. -/
def fillDoms (avail : Nat → Nat) (u : Nat) : List Nat → Nat → Nat → Option (List (Nat × Nat × Nat))
  | [], _, _ => none
  | d :: l, first, left =>
    let cap := avail d / u
    if left ≤ cap then some [(d, first, left)]
    else
      let n := cap / iusPerPage * iusPerPage
      if n = 0 then fillDoms avail u l first left else (fillDoms avail u l (first + n) (left - n)).map fun r => (d, first, n) :: r

/-- Segments of a namespace of `n` IUs of `u` units, from IU `first` on. -/
def placeNs (s : State) (avail : Nat → Nat) (u first n : Nat) : Option (List (Nat × Nat × Nat)) := fillDoms avail u (domOrder s avail) first n

/-- A domain no namespace has data in, being offline, is laid out afresh over its surviving dies, R32. -/
def relayout (d : Nat) (s : State) : State :=
  let used := (tvals s.fte.nss).any fun n => n.live && n.segs.any fun g => g.1 == d
  if domSt s d ≠ .offline || used then s
  else
    let s1 := forEach (tkeys s.fch.dies) (fun k s => if dieDom k = d && (dieAt s k).failed then modDie k (fun x => { x with retired := true }) s else s) s
    let mine (a : Nat) : Bool := dieDom (a / 2 ^ 27) == d
    let s2 := onDre (fun x => { x with stripes := tfilter x.stripes fun k _ => k / 2 ^ 32 != d }) s1
    let s3 := onFte (fun f => { f with nand := tfilter f.nand fun a _ => !mine a, prog := tfilter f.prog fun a _ => !mine a,
                                       wait := f.wait.filter fun w => w.1 != d, victims := f.victims.filter fun v => v.dom != d,
                                       first := f.first.filter fun x => x.1 != d }) s2
    let s4 := forEach (domBlks s3 d) (fun x s => if x.2.2.good && x.2.2.st != .free && x.2.2.st != .doubt then doubtBlk x.1 x.2.1 s else s) s3
    let s5 := modDom d (fun x => { x with exposed := [], total := 0, lost := 0, lostCw := [] })
      (onFte (fun f => { f with capD := tset f.capD d (layCapD s4 d) }) s4)
    if (domDies s5 d).length < domW s5 d ∨ domW s5 d = 0 then s5
    else mediaChange s5 0x06 0 (gcLevels (modDom d (fun x => { x with st := .inService }) s5))

/-- After a change of allocation: offline domains that are empty are laid out afresh, and R202 is followed. -/
def afterAlloc (s : State) : State := checkSpare (forN 4 relayout s)

/-- Tell the controllers a namespace is attached to that it changed. -/
def tellChanged (ns : Nat) (cs : List Nat) (s : State) : State :=
  forEach cs (fun c s => sendAen c .nsChanged
    (modCtrl c (fun x => { x with changedNs := if x.changedNs.contains ns then x.changedNs else x.changedNs ++ [ns] }) s)) s

/-! ## Namespaces, R102, R192 -/

/-- Drop the contents held for a namespace: its map, pages, records and log entries. -/
def dropContents (ns : Nat) (s : State) : State :=
  let s1 := onFte (fun f => { f with map := tfilter f.map fun k _ => k / 2 ^ 40 != ns, uncSrc := tfilter f.uncSrc fun k _ => k / 2 ^ 40 != ns,
                                     dir := tfilter f.dir fun k _ => k / 2 ^ 32 != ns, foldSeq := tfilter f.foldSeq fun k _ => k / 2 ^ 32 != ns,
                                     cached := f.cached.filter fun k => k / 2 ^ 32 != ns, refd := f.refd.filter fun k => k / 2 ^ 32 != ns,
                                     root := tfilter f.root fun k _ => k * 512 / 2 ^ 32 != ns, dirSaved := tfilter f.dirSaved fun k _ => k / 2 ^ 32 != ns, idx := f.idx.filter fun r => r.ns != ns,
                                     rng := f.rng.filter fun r => r.ns != ns, bad := f.bad.filter fun b => b.ns != ns,
                                     reloc := f.reloc.filter fun x => x.1 != ns }) s
  onCst (fun c => { c with log := c.log.filter fun d => d.ns != ns || d.kind == .block }) s1

/-- Delete one namespace: NSDEL, its pair and binding go, its capacity returns. -/
def deleteNs (ns : Nat) (s : State) : State :=
  match nsAt s ns with
  | none => s
  | some n =>
    let s1 := sweepOvl (dropContents ns s)
    let s2 := onFte (fun f => { f with nss := tset f.nss ns { n with live := false, att := [], segs := [] } }) s1
    let s3 := onQos (fun q => { q with bindN := terase q.bindN ns }) s2
    let s4 := match tget s3.dre.pairs ns with
      | some p => endOpt p.op 0x0003 [lo32 p.copied] s3
      | none => s3
    let s5 := onDre (fun d => { d with pairs := terase d.pairs ns, dirty := d.dirty.filter fun k => k / 2 ^ 20 != ns,
                                       active := d.active.filter fun k => k / 2 ^ 20 != ns }) s4
    tellChanged ns n.att (rescale (appendDelta { kind := .nsdel, ns, inst := n.inst } s5))

/-- A format index, or a protection information type for it, that Table 5-4 does not offer. -/
def badFormat (f pi : Nat) : Bool := decide (7 < f) || decide (3 < pi) || (metaBytes f == 0 && pi != 0)

/-- Create a namespace, R102: the checks after those of Table 5-7 in their order. `fmt` is the LBA format index in bits 3:0, the metadata setting in
bit 4 and the protection information type in bits 10:8. A format that Table 5-4 does not offer is answered Invalid Format between checks 2 and 3 (DESIGN
CHOICE, log entry 74: R102's order has no place for it). The NSID is the lowest free one (DESIGN CHOICE, log entry 46). -/
def createNs (tag nsze ncap fmt : Nat) (t : Tag) (s : State) : State :=
  let f := fmt % 16
  let u := iuUnits f
  let k := lbasPerIu f
  match (upFrom 1 1024).find? fun i => (nsAt s i).isNone with
  | none => post tag .nsIdUnavailable 0 s
  | some ns =>
    if badFormat f (fmt / 256 % 8) then post tag .invalidFormat 0 s
    else if ncap ≠ nsze ∨ nsze % k ≠ 0 then post tag .invalidField 0 s
    else if unalloc s < nsze / k * u then post tag .insufficientCapacity 0 s
    else match placeNs s (unallocD s) u 0 (nsze / k) with
      | none => post tag .insufficientCapacity 0 s
      | some segs =>
        let inst := match tget s.fte.nss ns with
          | some o => (o.inst + 1) % 65536
          | none => 0
        let n : Ns := { inst, size := nsze, fmt := f, pi := fmt / 256 % 8, mset := fmt.testBit 4, segs, live := true,
                        mirror := isPface s (ctrlLink s t.ctrl) }
        post tag .success ns (afterAlloc (onFte (fun x => { x with nss := tset x.nss ns n }) (dropContents ns s)))

/-- NAMESPACE_MANAGEMENT, R102, R191, R192: SEL 0 creates, 1 deletes (FFFFFFFFh: every namespace); a delete waits in RUN while the log takes no delta
(R180). -/
def execNamespaceManagement (tag nsze ncap fmt : Nat) (s : State) : Res :=
  .next (admin tag 0x0D (fun t s =>
    let ns := entNsid t.ent
    match fld (cdw t.ent 10) 0 4 with
    | 0 => createNs tag nsze ncap fmt t s
    | 1 =>
      let l := if ns = 0xFFFFFFFF then tkeys s.fte.nss else [ns]
      if ns ≠ 0xFFFFFFFF && (nsAt s ns).isNone then post tag .invalidNs 0 s
      else if logWaits s then fullLog s
      else post tag .success 0 (afterAlloc (forEach l deleteNs s))
    | _ => post tag .invalidField 0 s) s)

/-- NAMESPACE_ATTACHMENT, R102: SEL 0 attaches, 1 detaches; a mirror store belongs to the partner-facing controller alone. -/
def execNamespaceAttachment (tag : Nat) (ctrls : List Nat) (s : State) : Res :=
  .next (admin tag 0x15 (fun t s =>
    let ns := entNsid t.ent
    match nsAt s ns with
    | none => post tag .invalidNs 0 s
    | some n =>
      let sel := fld (cdw t.ent 10) 0 4
      if ctrls.any fun c => !thas s.nvq.ctrls c then post tag .invalidCtrlId 0 s
      else if sel = 0 then
        if ctrls.any fun c => n.mirror != isPface s (ctrlLink s c) then post tag .nsPrivate 0 s
        else if ctrls.any n.att.contains then post tag .nsAttached 0 s
        else post tag .success 0 (tellChanged ns ctrls (onFte (fun x => { x with nss := tset x.nss ns { n with att := n.att ++ ctrls } }) s))
      else if sel = 1 then
        if ctrls.any fun c => !n.att.contains c then post tag .nsNotAttached 0 s
        else post tag .success 0 (tellChanged ns ctrls
          (onFte (fun x => { x with nss := tset x.nss ns { n with att := n.att.filter fun c => !ctrls.contains c } }) s))
      else post tag .invalidField 0 s) s)

/-! ## Virtualization, R105 -/

/-- Flexible resources of a kind that a controller has, or will have from its next Controller Reset. -/
def flexHeld (rt : Nat) (x : Ctrl) : Nat :=
  if rt = 0 then max x.vqFlex ((x.flexNext.map (·.1)).getD 0) else max x.viFlex ((x.flexNext.map (·.2)).getD 0)

/-- Flexible resources of a PF's port that are not taken. -/
def flexLeft (s : State) (pf rt : Nat) : Nat :=
  let used := s.nvq.ctrls.foldl (fun a e => if portOf e.1 = portOf pf then a + flexHeld rt e.2 else a) 0
  (if rt = 0 then vqFrt s (ctrlOf (portOf pf) 0) else viFrt s (ctrlOf (portOf pf) 0)) - used

/-- VIRTUALIZATION_MANAGEMENT, Table 5-5; controller identifiers are controller indexes (PRESUMED). DW0 counts the resources
changed. Going offline gives a VF's flexible resources back (PRESUMED, as NVMe states). -/
def execVirtualizationManagement (tag : Nat) (s : State) : Res :=
  .next (admin tag 0x1C (fun t s =>
    let w := cdw t.ent 10
    let rt := fld w 8 3
    let c := fld w 16 16
    let nr := fld (cdw t.ent 11) 0 16
    let x := ctrlAt s c
    let mine := thas s.nvq.ctrls c && portOf c == portOf t.ctrl && !isPf c
    match fld w 0 4 with
    | 1 =>
      if c ≠ t.ctrl ∨ !isPf c then post tag .invalidCtrlId 0 s
      else if 1 < rt then post tag .invalidResourceId 0 s
      else
        let cur := x.flexNext.getD (x.vqFlex, x.viFlex)
        let own := flexHeld rt x
        if (rt = 0 ∧ 4032 < nr) ∨ flexLeft s c rt + own < nr then post tag .invalidResourceNum 0 s
        else post tag .success nr (setCtrl c { x with flexNext := some (if rt = 0 then (nr, cur.2) else (cur.1, nr)) } s)
    | 7 =>
      if !mine then post tag .invalidCtrlId 0 s
      else post tag .success 0 (modCtrl c (fun y => { y with online := false, vqFlex := 0, viFlex := 0 }) (resetCtrl c s))
    | 8 =>
      if !mine then post tag .invalidCtrlId 0 s
      else if 1 < rt then post tag .invalidResourceId 0 s
      else if x.online then post tag .invalidSecondaryState 0 s
      else
        let own := if rt = 0 then x.vqFlex else x.viFlex
        if (if rt = 0 then 129 else 64) < nr ∨ flexLeft s c rt + own < nr then post tag .invalidResourceNum 0 s
        else post tag .success nr (setCtrl c (if rt = 0 then { x with vqFlex := nr } else { x with viFlex := nr }) s)
    | 9 =>
      if !mine then post tag .invalidCtrlId 0 s
      else if x.vqFlex < 2 ∨ x.viFlex < 1 ∨ !(fnAt s (ctrlOf (portOf c) 0)).vfEnable then post tag .invalidSecondaryState 0 s
      else post tag .success 0 (setCtrl c { x with online := true } s)
    | _ => post tag .invalidField 0 s) s)

/-! ## Format NVM, R192, R437 -/

/-- Segments of a format: rescaled to the new IU size, with those in offline domains placed afresh by R191. -/
def reSegs (s : State) (old new : Nat) : List (Nat × Nat × Nat) → (Nat → Nat) → Nat → Option (List (Nat × Nat × Nat))
  | [], _, _ => some []
  | (d, _, c) :: l, avail, first =>
    let n := c * old / new
    if domSt s d = .offline then
      match placeNs s avail new first n with
      | none => none
      | some g => (reSegs s old new l (fun e => avail e - (g.filter fun x => x.1 == e).foldl (fun a x => a + x.2.2 * new) 0) (first + n)).map (g ++ ·)
    else (reSegs s old new l avail (first + n)).map ((d, first, n) :: ·)

/-- Free slot of the range table. -/
def freeRng (s : State) : Option Nat := (List.range 1024).find? fun i => !(s.fte.rng.any fun r => r.slot == i)

/-- Set every IU of a namespace to UNMAPPED as of a version. -/
def unmapAll (ns slot ver : Nat) (n : Ns) (s : State) : State :=
  let last := n.segs.foldl (fun a g => max a (g.2.1 + g.2.2)) 0
  let r : RangeRec := { slot, ns, inst := n.inst, lo := 0, hi := last - 1, kind := .unmapped, ver }
  let s1 := onFte (fun f => { f with map := tfilter f.map fun k _ => k / 2 ^ 40 != ns, uncSrc := tfilter f.uncSrc fun k _ => k / 2 ^ 40 != ns,
                                     bad := f.bad.filter fun b => b.ns != ns, rng := f.rng ++ [r] }) s
  appendDelta { kind := .range, ns, key := slot, inst := n.inst, ver } s1

/-- FORMAT_NVM, R103, R192, R437: the range record and the new format; SES 001b and 010b also increment KGEN. With the range table full, or while the log
takes no delta, the command waits in RUN (R183, R180). -/
def execFormatNvm (tag : Nat) (s : State) : Res :=
  .next (admin tag 0x80 (fun t s =>
    let w := cdw t.ent 10
    let f := fld w 0 4
    let ns := entNsid t.ent
    match nsAt s ns with
    | none => post tag .invalidNs 0 s
    | some n =>
      if 2 < fld w 9 3 then post tag .invalidField 0 s
      else if badFormat f (fld w 5 3) then post tag .invalidFormat 0 s
      else if logWaits s then fullLog s
      else match reSegs s (iuUnits n.fmt) (iuUnits f) n.segs (unallocD s) 0, freeRng s with
        | none, _ => post tag .insufficientCapacity 0 s
        | some _, none => evt .fteEvt 2 s
        | some segs, some slot =>
          let size := segs.foldl (fun a g => a + g.2.2) 0 * lbasPerIu f
          let n1 : Ns := { n with segs, size, fmt := f, pi := fld w 5 3, mset := bitOf w 4, kgen := if fld w 9 3 = 0 then n.kgen else (n.kgen + 1) % 65536 }
          let s1 := unmapAll ns slot t.seq n (onFte (fun x => { x with idx := x.idx.filter fun r => r.ns != ns || newer r.ver t.seq }) s)
          post tag .success 0 (afterAlloc (tellChanged ns n.att (onFte (fun x => { x with nss := tset x.nss ns n1 }) (sweepOvl s1))))) s)

/-! ## Device Self-test, R396 -/

/-- DEVICE_SELF_TEST: STC 1 short, 2 extended, Fh abort. One test runs at a time. -/
def execDeviceSelfTest (tag : Nat) (s : State) : Res :=
  .next (admin tag 0x14 (fun t s =>
    let stc := fld (cdw t.ent 10) 0 4
    if stc = 0xF then post tag .success 0 (endSelfTest 1 0 s)
    else if stc ≠ 1 ∧ stc ≠ 2 then post tag .invalidField 0 s
    else if s.pwr.selfTest.isSome then post tag .selfTestInProgress 0 s
    else post tag .success 0 (onPwr (fun p => { p with selfTest := some (t.ctrl, stc == 2) }) s)) s)

/-- SELF_TEST_COMPLETE: the checks end; `fail` names the failed item by die or structure number. A failed check gives 7h and raises
source 338. -/
def execSelfTestComplete (fail : SelfTestFail) (s : State) : Res :=
  if s.pwr.selfTest.isNone ∨ !engines s then .next s
  else match fail with
    | none => .next (endSelfTest 0 0 s)
    | some i => .next (raiseSrc 338 (endSelfTest 7 i s))

end Sys2Proof.Machine
end

