-- ==== Sys2Proof/Machine/NvmeIo.lean ====
section
/-! DEFINITION. I/O commands of Table 5-2: the read path (R24, R96, R97, R184, R337, R341), the write path (R25, R188, R187, Table
8-5), ranges (R183, R190), mirroring of write-like commands (R283, R284) and the fused pair (R119). -/

namespace Sys2Proof.Machine

/-! ## Content of an IU -/

/-- An LBA of an UNMAPPED or ZERO entry, Table 8-2: data bytes 0, every metadata byte 0xFF. -/
def blankLba (fmt : Nat) : Nat := 2 ^ (8 * lbaBytes fmt) * (2 ^ (8 * metaBytes fmt) - 1)

/-- The key of a namespace, R435: media root, INST, KGEN. -/
def nsKey (s : State) (n : Ns) : Nat × Nat × Nat := (s.sec.root, n.inst, n.kgen)

/-- The LBAs of an IU's content: an LBA is poisoned where its 4 KiB sector holds poison (R96), `more` naming the sectors whose
codeword is poisoned; content under another key decrypts to unrelated bytes (R435), its metadata in clear. -/
def bodyLbas (s : State) (n : Ns) (b : IuData) (more : Nat → Bool) : List LbaGot :=
  let k := perSector n.fmt
  let m := 2 ^ (8 * lbaBytes n.fmt)
  (List.range (lbasPerIu n.fmt)).map fun i =>
    let v := b.data.getD i (blankLba n.fmt)
    if more (i / k) || (List.range k).any fun j => b.psn.getD (i / k * k + j) false then .psn
    else if n.mirror || b.key == nsKey s n then .ok v
    else .ok (Config.freeData (64 * s.free + i) % m + m * (v / m))

/-- LBAs of an IU on the bad-LBA list as a partial record. -/
def badMask (s : State) (ns iu : Nat) : Nat := ((s.fte.bad.find? fun b => b.ns == ns && b.iu == iu).map (·.map)).getD 0

/-- The 4 KiB parts of an IU that a span of LBAs touches. -/
def partsOf (fmt lba n iu : Nat) : List Nat :=
  (List.range (iuUnits fmt)).filter fun p => spansMeet (iu * lbasPerIu fmt + p * perSector fmt, perSector fmt) (lba, n)

/-- Where an IU's content came from: a write well, NAND, or a special value of its map entry (Table 8-2). -/
inductive IuFrom where
  | well | nand | special
deriving DecidableEq, Repr

/-- What a lookup of an IU brings a command (R184, Table 8-2), and from where; none while a codeword it needs has not been decoded. -/
def iuGot (s : State) (t : Tag) (ns : Nat) (n : Ns) (iu : Nat) (parts : List Nat) : Option (List LbaGot × IuFrom) :=
  let bm := badMask s ns iu
  let mark (l : List LbaGot) : List LbaGot := l.mapIdx fun i x => if bm.testBit i then .bad else x
  match lookup s ns iu with
  | .well b => some (mark (bodyLbas s n b fun _ => false), .well)
  | .entry e =>
    if e = mapUnc then some (List.replicate (lbasPerIu n.fmt) .bad, .special)
    else if mapSpecial e then some (mark (List.replicate (lbasPerIu n.fmt) (.ok (blankLba n.fmt))), .special)
    else if parts.all fun p => t.got.any fun g => g.1 == e + p then
      let gone (p : Nat) : Bool := parts.contains p && (!thas s.fte.nand (e + p) || t.got.any fun g => g.1 == e + p && g.2)
      let body := ((tget s.fte.nand (e + parts.headD 0)).map (·.body)).getD { data := [] }
      some (mark (bodyLbas s n body gone), .nand)
    else none

/-- Queue reads of the codewords of an IU that a command needs, has not got and is not reading. -/
def readIu (k ns iu : Nat) (parts : List Nat) (s : State) : State :=
  match tget s.nvq.tags k, lookup s ns iu with
  | some t, .entry e =>
    if mapSpecial e then s
    else forEach ((parts.map (e + ·)).filter fun a => !(t.got.any fun g => g.1 == a) && !t.want.contains a)
      (fun a s => readCw a (.host k) (modTag k (fun x => { x with want := x.want ++ [a] }) s)) s
  | _, _ => s

/-- Look up IUs in order until one reaches a map page that is not cached (R155). An IU served from its well needs no page (R184). -/
def lookups (k : Nat) (e : Entry) (ns : Nat) (n : Ns) : List Nat → State → State
  | [], s => s
  | iu :: l, s =>
    let (ok, s1) := if (liveRec s ns iu).isSome then (true, s) else wantPage ns (iu / iusPerPage) s
    if ok then
      let s2 := modTag k (fun t => { t with lkp := { t.lkp with st := .running, prog := iu + 1 } }) s1
      lookups k e ns n l (prefetch ns iu (readIu k ns iu (partsOf n.fmt (slba e) (nlb e) iu) s2))
    else mpFault k iu s1

/-- The map lookup context of a read-class command goes on from its progress point; IUs that moved since are read at their new
place. -/
def lookAll (k : Nat) (t : Tag) (n : Ns) (s : State) : State :=
  let e := t.ent
  let ns := entNsid e
  let sp := iuSpan n.fmt (slba e) (nlb e)
  let start := if t.lkp.st = .idle then sp.1 else t.lkp.prog
  let s1 := forEach (upFrom sp.1 (start - sp.1)) (fun iu s => readIu k ns iu (partsOf n.fmt (slba e) (nlb e) iu) s) s
  if t.lkp.st.free then lookups k e ns n (upFrom start (sp.1 + sp.2 - start)) s1 else s1

/-- An I/O command in RUN or SUSPENDED with an opcode is worked on (R153: a context that does not wait goes on). -/
def io (k op : Nat) (eff : Tag → Ns → State → State) (s : State) : State :=
  match tget s.nvq.tags k with
  | none => s
  | some t =>
    if !(t.st == .run || t.st == .suspended) || !isIo t || opc t.ent != op || !engines s then s
    else match nsAt s (entNsid t.ent) with
      | none => post k .invalidNs 0 s
      | some n => eff t n s

/-! ## Charging -/

/-- Return reserved bytes to a maximum meter. -/
def giveBack (tnt : Option Nat) (bytes : Nat) (s : State) : State :=
  match tnt with
  | none => s
  | some j => modTnt j (fun x => { x with mBwMax := min (x.mBwMax + bytes * bwUnit) (max x.mBwMax (bwMaxDepth x)) }) s

/-- Bytes of a command have moved: `c` of them are charged, `u` are not (R129, R130); reservations of blocks not charged return. -/
def chargeMoved (k c u : Nat) (s : State) : State :=
  match tget s.nvq.tags k with
  | none => s
  | some t =>
    let r := min t.reserved (c + u)
    let s1 := setTag k { t with reserved := t.reserved - r, moved := t.moved + c + u } s
    giveBack t.tenant (r - min r c) (chargeData t.tenant c (min r c) s1)

/-! ## Engines a read passes -/

/-- The LBAs of some 4 KiB parts of an IU are poisoned; those on the bad-LBA list stay on it. -/
def psnParts (n : Ns) (ps : List Nat) (l : List LbaGot) : List LbaGot :=
  l.mapIdx fun i x => if x = .bad ∨ !ps.contains (i / perSector n.fmt) then x else .psn

/-- The parts of an IU whose seal failed at egress are read again, once, from ladder step 1 (Table 14-2). -/
def readAgain (k iu : Nat) (t : Tag) (ps : List Nat) (s : State) : State :=
  let m := mapAt s (entNsid t.ent) iu
  let mine (a : Nat) : Bool := ps.any fun p => a == m + p
  readIu k (entNsid t.ent) iu ps
    (modTag k (fun x => { x with got := x.got.filter fun g => !mine g.1, want := x.want.filter fun a => !mine a, again := x.again ++ ps.map (m + ·) }) s)

/-- One IU passes HPC and SEC with an outcome for its parts (Table 14-2, R341, Table 14-6); none: parts of it are read again. -/
def passIu (k iu : Nat) (t : Tag) (n : Ns) (ls : List LbaGot) (nand : Bool) (o : IuOutcome) (s : State) : Option (List LbaGot) × State :=
  match o with
  | .clean => (some ls, s)
  | .poisoned ps => (some (psnParts n ps ls), s)
  | .sealBad ps =>
    let s1 := forEach ps (fun _ s => sealFail s) s
    let fresh := ps.filter fun p => nand && !t.again.contains (mapAt s (entNsid t.ent) iu + p)
    if fresh.isEmpty then (some (psnParts n ps ls), s1) else (none, readAgain k iu t fresh s1)
  | .piBad p f =>
    let e : ErrEntry := { sqid := t.qid, cid := cidOf t.ent, status := .unrecoveredRead, vendor := f }
    (some (psnParts n [p] ls), logErr t.ctrl e (raiseSrc 314 (evt .mprEvt 8 s)))
  | .aesBad ps => (some (psnParts n ps ls), raiseSrc 302 (evt .mprEvt 5 s))

/-- What one IU brings a read: the sector delivered in part goes on as it was looked up (R117); else a lookup, whose stored content passes HPC and
SEC. Special values have no codeword and no checks (Table 8-2). -/
def seeIu (k iu : Nat) (t : Tag) (n : Ns) (o : IuOutcome) (s : State) : Option (List LbaGot) × State :=
  let parts := partsOf n.fmt (slba t.ent) (nlb t.ent) iu
  match t.cut with
  | some (c, ls, _) => if c = iu then (some ls, s) else match iuGot s t (entNsid t.ent) n iu parts with
    | none => (none, s)
    | some (ls, .special) => (some ls, s)
    | some (ls, w) => passIu k iu t n ls (w == .nand) o s
  | none => match iuGot s t (entNsid t.ent) n iu parts with
    | none => (none, s)
    | some (ls, .special) => (some ls, s)
    | some (ls, w) => passIu k iu t n ls (w == .nand) o s

/-- The LBAs that the IUs of a list bring, in order, up to the first IU that is not there yet. -/
def gather (k : Nat) (t : Tag) (n : Ns) (outs : List IuOutcome) (first : Nat) : List Nat → State → List LbaGot × State
  | [], s => ([], s)
  | iu :: l, s =>
    if t.lkp.prog ≤ iu then ([], s)
    else match seeIu k iu t n (outs.getD (iu - first) .clean) s with
      | (none, s1) => ([], s1)
      | (some ls, s1) =>
        let x := gather k t n outs first l s1
        (ls ++ x.1, x.2)

/-! ## Egress, R96, R97 -/

/-- Kinds of runs: 0 clean, 1 poisoned, 2 not sent. -/
def runKind : LbaGot → Nat
  | .ok _ => 0 | .psn => 1 | .bad => 2

/-- Runs of equal kind of the bytes `p` to `q`, from the LBAs that begin with LBA `i` of the command: kind, first byte, end. -/
def runsOf (lb p q : Nat) : Nat → List LbaGot → List (Nat × Nat × Nat)
  | _, [] => []
  | i, x :: l =>
    let a := max p (i * lb)
    let b := min q ((i + 1) * lb)
    if b ≤ a then runsOf lb p q (i + 1) l
    else match runsOf lb p q (i + 1) l with
      | (k, c, d) :: r => if k = runKind x ∧ c = b then (k, a, d) :: r else (runKind x, a, b) :: (k, c, d) :: r
      | [] => [(runKind x, a, b)]

/-- Value of an LBA as the host receives it: without metadata that HPC stripped. -/
def hostVal (e : Entry) (n : Ns) (v : Nat) : Nat := if pract e && n.pi != 0 then v % 2 ^ (8 * lbaBytes n.fmt) else v

/-- The last byte, from `p` to `q`, at which a run can be left without cutting a TLP short (R97); `fuel` bounds the TLPs. -/
def tlpEnd (segs : List (Nat × Nat)) (mps : Nat) : Nat → Nat → Nat → Nat
  | 0, p, _ => p
  | fuel + 1, p, q => match hostAddr segs p with
    | none => p
    | some (a, left) => if p + tlpBytes mps a left ≤ q then tlpEnd segs mps fuel (p + tlpBytes mps a left) q else p

/-- How far the bytes `p` to `q` of a read can be sent now: to `q` at the end of the transfer, else as far as no TLP of the last run is cut short. -/
def sendEnd (t : Tag) (mps xb total p q : Nat) (ls : List LbaGot) : Nat :=
  if total ≤ q then q
  else match (runsOf xb p q (p / xb) ls).getLast? with
    | some (_, c, d) => if d = q then tlpEnd t.ent.segs mps (q - c) c q else q
    | none => p

/-- Send the runs of bytes `p` to `q` of a transfer whose LBAs of `lb` bytes begin with LBA `p / lb`: poisoned ones with EP = 1, or not at all where
`hold` withholds them; those on the bad-LBA list are not sent. -/
def sendRuns (segs : List (Nat × Nat)) (c mps lb : Nat) (hold : Bool) (p q : Nat) (ls : List LbaGot) (s : State) : State :=
  forEach (runsOf lb p q (p / lb) ls) (fun r s =>
    if r.1 = 2 || (r.1 == 1 && hold) then s else sendRun segs mps c (r.1 == 1) (r.2.2 - r.2.1) r.2.1 r.2.2 s) s

/-- Send the bytes `p` to `q` of a read and the metadata of the LBAs they complete; `ls` begins with the LBA of byte `p`. LBAs whose last byte is sent
are delivered: a poisoned one, where it is sent, as bytes of 0 (R96). -/
def sendRead (k : Nat) (t : Tag) (n : Ns) (p q : Nat) (ls : List LbaGot) (s : State) : State :=
  let xb := xferLba n t.ent
  let mb := sepMeta n t.ent
  let port := ctrlLink s t.ctrl
  let mps := (fnAt s t.ctrl).mps
  let hold := bitOf (reg s .hpcPortCtl port) 1
  let full := ls.take (q / xb - p / xb)
  let s1 := sendRuns t.ent.segs t.ctrl mps xb hold p q ls s
  let s2 := if mb = 0 then s1 else sendRuns [(mptr t.ent, nlb t.ent * mb)] t.ctrl mps mb hold (p / xb * mb) (q / xb * mb) full s1
  let s3 := forN full.length (fun i s => match full[i]? with
    | some (.ok v) => emit (.data k (slba t.ent + p / xb + i) [hostVal t.ent n v]) s
    | some .psn => if hold then s else emit (.data k (slba t.ent + p / xb + i) [0]) s
    | _ => s) s2
  if ls.contains .psn then orReg .hpcPortEvt port (bitW 4) s3 else s3

/-- Charged and uncharged bytes of delivered LBAs. -/
def okBytes (lb : Nat) (ls : List LbaGot) : Nat := lb * (ls.filter fun x => runKind x == 0).length
def noBytes (lb : Nat) (ls : List LbaGot) : Nat := lb * (ls.filter fun x => runKind x != 0).length

/-- How far the transfer of a command may go now: its gated blocks (R134) and its translated pages (R158), and the page that stops
it. -/
def moveLimit (s : State) (t : Tag) (n : Ns) : Nat × Option Miss :=
  let lb := lbaBytes n.fmt
  let xb := xferLba n t.ent
  let gate := t.moved + mayMove s t
  let lim := if xb = lb then gate else gate / lb * xb
  match missAt s t t.dma.prog with
  | some m => (min lim m.1, some m)
  | none => (lim, none)

/-- The LBAs available to a command from its progress point up to a limit, from the first LBA of the IU that holds the point on; that IU; and how far
they reach. -/
def ready (k : Nat) (t : Tag) (n : Ns) (outs : List IuOutcome) (lim : Nat) (s : State) : List LbaGot × Nat × Nat × State :=
  let xb := xferLba n t.ent
  let c := lbasPerIu n.fmt
  let lba0 := slba t.ent
  let p := t.dma.prog
  let a := (lba0 + p / xb) / c
  if lim ≤ p then ([], a, p, s)
  else
    let b := (lba0 + (lim - 1) / xb) / c
    let x := gather k t n outs (iuSpan n.fmt lba0 (nlb t.ent)).1 (upFrom a (b + 1 - a)) s
    let m := x.1.length - (lba0 + p / xb - a * c)
    (x.1, a, max p (min lim ((p / xb + m) * xb)), x.2)

/-- The LBAs of `ready`'s list for the bytes `p` to `q`. -/
def readyLbas (t : Tag) (n : Ns) (raw : List LbaGot) (a p q : Nat) : List LbaGot :=
  let xb := xferLba n t.ent
  (raw.drop (slba t.ent + p / xb - a * lbasPerIu n.fmt)).take (ceilDiv q xb - p / xb)

/-- R117: where a transfer stops at byte `q` inside a 4 KiB sector, the IU that holds it as it was looked up. -/
def cutIu (t : Tag) (n : Ns) (raw : List LbaGot) (a q : Nat) : Option (Nat × List LbaGot × Bool) :=
  let xb := xferLba n t.ent
  let c := lbasPerIu n.fmt
  let lba := slba t.ent + q / xb
  let ls := (raw.drop ((lba / c - a) * c)).take c
  if (lba % perSector n.fmt = 0 ∧ q % xb = 0) ∨ nlb t.ent * xb ≤ q ∨ ls.isEmpty then none else some (lba / c, ls, true)

/-- READ's egress: what is ready is sent, charged and recorded; at the end the command enters POST, at a page that does not
translate it takes a TX fault. -/
def egress (k : Nat) (outs : List IuOutcome) (t : Tag) (n : Ns) (s : State) : State :=
  let lb := lbaBytes n.fmt
  let xb := xferLba n t.ent
  let total := nlb t.ent * xb
  let lim := moveLimit s t n
  let (raw, a, q, s1) := ready k t n outs lim.1 s
  let p := t.dma.prog
  let q1 := sendEnd t (fnAt s t.ctrl).mps xb total p q (readyLbas t n raw a p q)
  let ls := readyLbas t n raw a p q1
  let s2 := if p < q1 then sendRead k t n p q1 ls s1 else s1
  let full := ls.take (q1 / xb - p / xb)
  let s3 := chargeMoved k (okBytes lb full) (noBytes lb full) s2
  let psn := ls.any fun x => runKind x != 0
  let s4 := modTag k (fun x => { x with psn := x.psn || psn, cut := if p < q1 then cutIu t n raw a q1 else x.cut }) s3
  if total ≤ q1 then post k (if t.psn || psn then .unrecoveredRead else .success) 0 s4
  else match lim.2 with
    | some m => if m.1 ≤ q then txFault k (q1, m.2) s4 else progress k q1 s4
    | none => progress k q1 s4

/-- READ, R24: the lookup context goes on, and what has been decoded is delivered. -/
def execRead (tag : Nat) (outcomes : List IuOutcome) (s : State) : Res :=
  .next (io tag 2 (fun t n s =>
    let s1 := lookAll tag t n s
    match tget s1.nvq.tags tag with
    | some t1 => if t1.dma.st.free then egress tag outcomes t1 n s1 else s1
    | none => s1) s)

/-- VERIFY: every LBA is read and checked, none is sent; its data is charged when it enters POST (Table 6-2). -/
def execVerify (tag : Nat) (outcomes : List IuOutcome) (s : State) : Res :=
  .next (io tag 0x0C (fun t n s =>
    let s1 := lookAll tag t n s
    match tget s1.nvq.tags tag with
    | none => s1
    | some t1 =>
      let sp := iuSpan n.fmt (slba t1.ent) (nlb t1.ent)
      let all := upFrom sp.1 sp.2
      let there (iu : Nat) : Bool := decide (iu < t1.lkp.prog) &&
        (iuGot s1 t1 (entNsid t1.ent) n iu (partsOf n.fmt (slba t1.ent) (nlb t1.ent) iu)).isSome
      if t1.lkp.st ≠ .running || !all.all there then s1
      else
        let (ls, s2) := gather tag t1 n outcomes sp.1 all s1
        let mine := (ls.drop (slba t1.ent - sp.1 * lbasPerIu n.fmt)).take (nlb t1.ent)
        if mine.length < nlb t1.ent then s2
        else post tag (if mine.any fun x => runKind x != 0 then .unrecoveredRead else .success) 0 s2) s)

/-! ## Compare -/

/-- The first LBA that does not compare: how many LBAs compared before it, and the status it gives. -/
def firstDiff (e : Entry) (n : Ns) : List LbaGot → List Nat → Option (Nat × Sc)
  | [], _ => none
  | .ok v :: l, ds => if hostVal e n v = ds.headD 0 then (firstDiff e n l ds.tail).map fun r => (r.1 + 1, r.2) else some (0, .compareFailure)
  | _ :: _, _ => some (0, .unrecoveredRead)

/-- A Compare goes on: blocks received and ready are compared and charged. Answers the status it ends with, if it ends. `data` is
the host's data from the command's first LBA. -/
def cmpStep (k : Nat) (outs : List IuOutcome) (data : List Nat) (t : Tag) (n : Ns) (s : State) : State × Option Sc :=
  let lb := lbaBytes n.fmt
  let xb := xferLba n t.ent
  let lim := moveLimit s t n
  let (raw, a, q, s1) := ready k t n outs lim.1 s
  let p := t.dma.prog
  let full := (readyLbas t n raw a p q).take (q / xb - p / xb)
  match firstDiff t.ent n full (data.drop (p / xb)) with
  | some (i, .compareFailure) => (chargeMoved k (lb * (i + 1)) 0 s1, some .compareFailure)
  | some (i, sc) => (chargeMoved k (lb * i) 0 s1, some sc)
  | none =>
    let s2 := chargeMoved k (lb * full.length) 0 s1
    let s3 := modTag k (fun x => { x with cut := if p < q then cutIu t n raw a q else x.cut }) s2
    if nlb t.ent * xb ≤ q then (s3, some .success)
    else match lim.2 with
      | some m => if m.1 ≤ q then (txFault k (q, m.2) s3, none) else (progress k q s3, none)
      | none => (progress k q s3, none)

/-- The steps of a Compare in RUN. -/
def cmpEff (k : Nat) (outs : List IuOutcome) (data : List Nat) (t : Tag) (n : Ns) (s : State) : State × Option Sc :=
  let s1 := lookAll k t n s
  match tget s1.nvq.tags k with
  | some t1 => if t1.dma.st.free then cmpStep k outs data t1 n s1 else (s1, none)
  | none => (s1, none)

/-- COMPARE, for a command that is not the first of a fused pair. -/
def execCompare (tag : Nat) (outcomes : List IuOutcome) (data : List Nat) (s : State) : Res :=
  .next (io tag 5 (fun t n s =>
    if t.fused.isSome then s
    else match cmpEff tag outcomes data t n s with
      | (s1, some sc) => post tag sc 0 s1
      | (s1, none) => s1) s)

/-! ## Write path -/

/-- The bytes a mirror command moves: a Write's LBAs in stored form as they lie in their wells, a deallocation's ranges (R283, R17). -/
def mirrorData (s : State) (t : Tag) (n : Ns) : List Byte :=
  let c := lbasPerIu n.fmt
  let lba (i : Nat) : List Byte := match (recsOf s (entNsid t.ent) (i / c)).find? fun r => r.ver == t.seq with
    | some r =>
      let v := r.body.data.getD (i % c) 0
      leBytes (lbaBytes n.fmt) (storedLba n r.body.key i v) ++ leBytes (metaBytes n.fmt) (v / 2 ^ (8 * lbaBytes n.fmt))
    | none => []
  if opc t.ent = 1 then (upFrom (slba t.ent) (nlb t.ent)).flatMap lba
  else if opc t.ent = 9 then t.ent.ranges.flatMap fun r => leBytes 4 0 ++ leBytes 4 r.2 ++ leBytes 8 r.1
  else []

/-- The mirror command's submission entry: the same command for the partner's namespace, a fused pair's Write as a plain Write, its identifier the tag
and its data one SGL Data Block at a bus address of the inbound window. -/
def mirrorEntry (k : Nat) (t : Tag) (partner bus bytes : Nat) : List Byte :=
  wordBytes ([pack [(0, 8, opc t.ent), (14, 2, 1), (16, 16, k)], lo32 partner, 0, 0, 0, 0, lo32 bus, hi32 bus, lo32 bytes, 0] ++
    [cdw t.ent 10, cdw t.ent 11, cdw t.ent 12, cdw t.ent 13, cdw t.ent 14, cdw t.ent 15])

/-- The twin's entry and data are put into the inbound window (R91, R283), at places the manual does not give: they are free values. -/
def fillWindow (k : Nat) (t : Tag) (n : Ns) (partner : Nat) (s : State) : State :=
  let d := mirrorData s t n
  let a := freeBelow s (2 ^ 32 - d.length)
  let s1 := drawn s
  let e := freeBelow s1 (2 ^ 32 - 64)
  onHpc (fun h => { h with window := mwrite 0 (mwrite 0 h.window a d) e (mirrorEntry k t partner (2 ^ 32 + a) d.length) }) (drawn s1)

/-- The local work of a write-like command is done: mirrored where its namespace is paired (R283, R284), else it enters POST. A sector whose seal fails
before the copy (`mirOk` false) is sent poisoned, and the granules are dirty (Table 14-2). -/
def localDone (k : Nat) (mirOk : Bool) (s : State) : State :=
  match tget s.nvq.tags k with
  | none => s
  | some t =>
    let ns := entNsid t.ent
    match tget s.dre.pairs ns, nsAt s ns with
    | some p, some n =>
      if s.dre.lost || !twinUp s then post k .success 0 (dirtyGrans (entGrans s t.ent) s)
      else
        let s0 := onlyIf (!mirOk) (fun s => dirtyGrans (entGrans s t.ent) (sealFail s)) s
        let s1 := activeGrans (entGrans s t.ent) (setTag k { t with localDone := true, mirWait := true } s0)
        emit (.mirror (ns % Config.mirrorQueues + 1) k) (fillWindow k t n p.partner s1)
    | _, _ => post k .success 0 s

/-- All data of a command is in wells, or its records are durable (Table 8-5). -/
def allPlaced (k : Nat) (mirOk : Bool) (s : State) : State :=
  let s1 := modTag k (fun t => { t with placed := true }) s
  closeDue (localDone k mirOk
    (sweepOvl (onNvq (fun n => { n with ovl := n.ovl.map fun o => if o.tag = some k then { o with inWell := true } else o }) s1)))

/-- A command's records are in the log: it goes on once they are durable (Table 8-5), which with no bank in service takes their log shadow (R293). -/
def recsDone (k : Nat) (s : State) : State :=
  if logDurable s then allPlaced k true s else modTag k (fun t => { t with recs := some s.cst.logSeq }) s

/-- A command that waits for its records to be durable. -/
def recsWait (k q : Nat) (s : State) : State := if !shadowOnly s || decide (q ≤ s.cst.shadow) then allPlaced k true s else s

/-- IUs of a span that a command covers in part only. -/
def partialIus (fmt lba n : Nat) : List Nat :=
  let sp := iuSpan fmt lba n
  let w := wholeIus fmt lba n
  (upFrom sp.1 sp.2).filter fun iu => !(decide (w.1 ≤ iu) && decide (iu < w.1 + w.2))

/-- Mask of the LBAs of an IU that a span covers. -/
def coverMask (fmt lba n iu : Nat) : Nat :=
  let k := lbasPerIu fmt
  (List.range k).foldl (fun a i => if lba ≤ iu * k + i ∧ iu * k + i < lba + n then a + 2 ^ i else a) 0

/-- The old content of an IU to be merged (R188) is made ready: its page as an engine step, its codewords by reads. -/
def mergeIu (k : Nat) (ns : Nat) (n : Ns) (iu : Nat) (s : State) : State :=
  let x := if (liveRec s ns iu).isSome then (true, s) else engRun { ns, iu, step := 3, frees := true } s
  if x.1 then readIu k ns iu (List.range (iuUnits n.fmt)) x.2 else x.2

/-- The old content of an IU, once it is there. -/
def oldIu (s : State) (k ns : Nat) (n : Ns) (iu : Nat) : Option (List LbaGot) :=
  if (liveRec s ns iu).isNone && !pageCached s ns (iu / iusPerPage) then none
  else match tget s.nvq.tags k with
    | some t => (iuGot s t ns n iu (List.range (iuUnits n.fmt))).map (·.1)
    | none => none

/-- The content of an IU once a command's LBAs are merged into its old content: poisoned LBAs stay poisoned, LBAs on the bad-LBA
list take the content of Table 8-2 (R188). `bad` names LBAs of the command whose lines came into the well poisoned (Table 14-4). -/
def mergedBody (s : State) (n : Ns) (lba cnt iu : Nat) (old : List LbaGot) (val : Nat → Nat) (bad : List Nat) : IuData :=
  let k := lbasPerIu n.fmt
  let mine (i : Nat) : Bool := decide (lba ≤ iu * k + i) && decide (iu * k + i < lba + cnt)
  { data := (List.range k).map fun i => if mine i then val (iu * k + i - lba) else match old.getD i .bad with
      | .ok v => v
      | .psn | .bad => blankLba n.fmt,
    psn := (List.range k).map fun i => if mine i then bad.contains (iu * k + i - lba) else old.getD i .bad == .psn,
    key := nsKey s n }

/-- An IU enters a write well with its seals (R182, R335): its index record, its place in a stripe's stream, and its LBAs leave the bad-LBA list. An IU
that was UNC keeps its other LBAs on the list as a partial record. Where a newer change of the IU is held the list stays as that left it (R185). -/
def placeIu (k : Nat) (t : Tag) (n : Ns) (iu cover : Nat) (body0 : IuData) (s : State) : State :=
  let ns := entNsid t.ent
  let body := sealIu ns n iu body0
  let r : WellRec := { ns, inst := n.inst, iu, ver := t.seq, body, tag := some k }
  let left := iuMask n.fmt - cover
  let s1 := if !beatsAll s ns iu t.seq then s
    else if lookup s ns iu = .entry mapUnc ∧ left ≠ 0 then
      onFte (fun f => { f with bad := f.bad ++ [{ ns, iu, map := left, src := tgetD f.uncSrc (iuKey ns iu) 1 }] }) s
    else clearBad ns iu cover s
  place (iuDom s1 ns iu) 0 { kind := .host, ns, inst := n.inst, iu, ver := t.seq, body, poison := iuUnits n.fmt == 1 && body.psn.any id }
    (onFte (fun f => { f with idx := f.idx ++ [r] }) s1)

/-- Place the merged IUs of a span, each with its old content. -/
def placeMerges (k : Nat) (t : Tag) (n : Ns) (lba cnt : Nat) (val : Nat → Nat) (bad : List Nat) (olds : List (Nat × List LbaGot)) (s : State) : State :=
  forEach olds (fun o s => placeIu k t n o.1 (coverMask n.fmt lba cnt o.1) (mergedBody s n lba cnt o.1 o.2 val bad) s) s

/-- The merges of a span: each partial IU with its old content, where all of it is there. -/
def oldIus (s : State) (k ns : Nat) (n : Ns) (l : List Nat) : Option (List (Nat × List LbaGot)) :=
  l.foldr (fun iu a => match a, oldIu s k ns n iu with
    | some r, some o => some ((iu, o) :: r)
    | _, _ => none) (some [])

/-- Partial records that merges of IUs set UNC would need (R188, R190). -/
def uncMerges (s : State) (ns : Nat) (l : List Nat) : Nat := (l.filter fun iu => lookup s ns iu == .entry mapUnc).length

/-- A failure that ingress found (R341, Table 14-6, Table 4-7, R122): the command's changes are dropped, and the blocks not charged give back their
reservations. -/
def ingressFail (k : Nat) (ing : Ingress) (s : State) : State :=
  match ing with
  | .ok | .parity _ => s
  | .guard => post k .guardCheck 0 (returnResv k s)
  | .appTag => post k .appTagCheck 0 (returnResv k s)
  | .refTag => post k .refTagCheck 0 (returnResv k s)
  | .aesTwice => post k .internalError 0 (returnResv k (raiseSrc 302 (evt .mprEvt 5 s)))
  | .lostTlp | .listFail => post k .dataTransfer 0 (returnResv k s)

/-- What ingress found stands: protection information is checked where the namespace has it (R340). -/
def ingressBad (n : Ns) : Ingress → Bool
  | .ok | .parity _ => false
  | .guard | .appTag | .refTag => n.pi != 0
  | .aesTwice | .lostTlp | .listFail => true

/-- LBAs of a write, counted from its first, that beat parity errors poisoned (Table 14-4). -/
def ingressLbas : Ingress → List Nat
  | .parity l => l
  | .ok | .guard | .appTag | .refTag | .aesTwice | .lostTlp | .listFail => []

/-- The merges of a command are made ready; once they are, its IUs are placed. With no partial record left for a merge of an UNC IU
the command completes with Capacity Exceeded (DESIGN CHOICE). -/
def mergeAndPlace (k : Nat) (t : Tag) (n : Ns) (val : Nat → Nat) (bad whole : List Nat) (rest : State → State) (s : State) : State :=
  let e := t.ent
  let ns := entNsid e
  let l := partialIus n.fmt (slba e) (nlb e)
  let s1 := forEach l (mergeIu k ns n) s
  match oldIus s1 k ns n l with
  | none => s1
  | some olds =>
    if 4096 < s1.fte.bad.length + uncMerges s1 ns l then post k .capacityExceeded 0 s1
    else
      let s2 := placeMerges k t n (slba e) (nlb e) val bad olds s1
      let c := lbasPerIu n.fmt
      let s3 := forEach whole (fun iu s =>
        let body : IuData := { data := (List.range c).map fun i => val (iu * c + i - slba e),
                               psn := if bad.isEmpty then [] else (List.range c).map fun i => bad.contains (iu * c + i - slba e), key := nsKey s n }
        placeIu k t n iu (iuMask n.fmt) body s) s2
      rest s3

/-- The steps of a Write in RUN: data arrives as far as blocks and pages let it, is charged (R130), and once all of it is there it is
merged and placed. Data with protection information is charged once all of it has passed its check, since a check that fails leaves every block of the
command uncharged (R341, DEDUCED). -/
def writeEff (k : Nat) (ing : Ingress) (mirOk : Bool) (data : List Nat) (t : Tag) (n : Ns) (s : State) : State :=
  let lb := lbaBytes n.fmt
  let xb := xferLba n t.ent
  let total := nlb t.ent * xb
  if t.placed || t.mirWait || !t.dma.st.free then s
  else if ingressBad n ing then ingressFail k ing s
  else
    let lim := moveLimit s t n
    let q := max t.dma.prog lim.1
    let s1 := if n.pi ≠ 0 ∧ q < total then s else chargeMoved k (lb * (q / xb) - t.moved) 0 s
    let s2 := modTag k (fun x => { x with dma := { x.dma with st := .running, prog := q } }) s1
    if total ≤ q then
      let w := wholeIus n.fmt (slba t.ent) (nlb t.ent)
      mergeAndPlace k t n (fun i => data.getD i 0) (ingressLbas ing) (upFrom w.1 w.2) (allPlaced k mirOk) s2
    else match lim.2 with
      | some m => if m.1 ≤ q then txFault k (q, m.2) s2 else progress k q s2
      | none => progress k q s2

/-- A fused Write may go on: its Compare has passed. -/
def pairPassed (s : State) (k : Nat) (t : Tag) : Bool := match t.fused with
  | none => true
  | some o => match tget s.nvq.tags o with
    | some c => c.st == .post || c.fused != some k
    | none => true

/-- WRITE, R25, R187: `data` is the command's LBA data from its first LBA; `mirOk`: the seals hold as its sectors leave for the twin. -/
def execWrite (tag : Nat) (ing : Ingress) (mirOk : Bool) (data : List Nat) (s : State) : Res :=
  .next (io tag 1 (fun t n s => if pairPassed s tag t then writeEff tag ing mirOk data t n s else s) s)

/-- FUSED_COMPARE_AND_WRITE, R119, on the tag of the Compare: once it passes, the Write goes on. -/
def execFusedCompareAndWrite (tag : Nat) (outcomes : List IuOutcome) (mirOk : Bool) (expect data : List Nat) (s : State) : Res :=
  .next (io tag 5 (fun t n s => match t.fused with
    | none => s
    | some o => match cmpEff tag outcomes expect t n s with
      | (s1, some .success) => io o 1 (fun u n s => writeEff o .ok mirOk data u n s) (post tag .success 0 s1)
      | (s1, some sc) => post tag sc 0 s1
      | (s1, none) => s1) s)

/-! ## Ranges, R183 -/

/-- Apply a range record to the committed map: entries of IUs with no newer pending or retained version take the value. -/
def applyRange (ns lo n ver v src : Nat) (s : State) : State :=
  forEach (upFrom lo n) (fun iu s =>
    if !beatsAll s ns iu ver then s
    else
      let s1 := setMap ns iu v s
      onFte (fun f => { f with bad := f.bad.filter fun b => !(b.ns == ns && b.iu == iu),
                               uncSrc := if v = mapUnc then tset f.uncSrc (iuKey ns iu) src else terase f.uncSrc (iuKey ns iu) }) s1) s

/-- Value of a range record's kind. -/
def rangeVal : RangeKind → Nat
  | .unmapped => mapUnmapped | .zero => mapZero | .unc => mapUnc

/-- Set a span of whole IUs: a range record and its delta (R183). -/
def setRange (ns : Nat) (n : Ns) (kind : RangeKind) (ver lo cnt : Nat) (s : State) : State :=
  match cnt, freeRng s with
  | 0, _ => s
  | _, none => s
  | _, some slot =>
    let r : RangeRec := { slot, ns, inst := n.inst, lo, hi := lo + cnt - 1, kind, ver }
    let s1 := applyRange ns lo cnt ver (rangeVal kind) 1 s
    appendDelta { kind := .range, ns, key := slot, inst := n.inst, ver } (onFte (fun f => { f with rng := f.rng ++ [r] }) s1)

/-- Range records a command needs, and whether the table and the log take them; else RANGE_FULL or LOG_FULL is set and the command
waits in RUN (R183, R180). -/
def withRanges (need : Nat) (go : State → State) (s : State) : State :=
  if need = 0 then go s
  else if 1024 < s.fte.rng.length + need then evt .fteEvt 2 s
  else if logWaits s then fullLog s
  else go s

/-- A write-like command that changes the map by records has work left: `eff` does it; once its records are in the log it waits for them to be durable. -/
def recordIo (k op : Nat) (eff : Tag → Ns → State → State) (s : State) : State :=
  io k op (fun t n s => if t.placed || t.mirWait then s else match t.recs with
    | some q => recsWait k q s
    | none => eff t n s) s

/-- WRITE_ZEROES, R187: whole IUs by a range record ZERO, parts by merges with zero data; its data is charged when it enters POST. -/
def execWriteZeroes (tag : Nat) (ing : Ingress) (s : State) : Res :=
  .next (recordIo tag 8 (fun t n s =>
    let e := t.ent
    let w := wholeIus n.fmt (slba e) (nlb e)
    if ingressBad n ing then ingressFail tag ing s
    else withRanges (min 1 w.2) (mergeAndPlace tag t n (fun _ => blankLba n.fmt) [] [] (fun s =>
      let s1 := setRange (entNsid e) n .zero t.seq w.1 w.2 s
      if w.2 = 0 then allPlaced tag true s1 else recsDone tag s1)) s) s)

/-- LBAs of a part of an IU go on the bad-LBA list by Write Uncorrectable, as a partial record; not where a newer change of the IU is held, whose
content they have (R116), nor where the IU is UNC already. -/
def markPart (ns ver : Nat) (iu mask : Nat) (s : State) : State :=
  if !beatsAll s ns iu ver || ((liveRec s ns iu).isNone && mapAt s ns iu == mapUnc) then s
  else onFte (fun f => { f with bad := (f.bad.filter fun b => !(b.ns == ns && b.iu == iu)) ++ [{ ns, iu, map := mask ||| badMask s ns iu, src := 1 }] }) s

/-- A part that leaves no LBA of its IU off the bad-LBA list: the IU becomes UNC (R190). -/
def partWhole (s : State) (ns : Nat) (n : Ns) (e : Entry) (iu : Nat) : Bool :=
  (coverMask n.fmt (slba e) (nlb e) iu ||| badMask s ns iu) &&& iuMask n.fmt == iuMask n.fmt

/-- WRITE_UNCORRECTABLE, R190: whole IUs, and parts that make an IU whole, by range records UNC, other parts by partial records; with none free it
completes with Capacity Exceeded and changes nothing. -/
def execWriteUncorrectable (tag : Nat) (s : State) : Res :=
  .next (recordIo tag 4 (fun t n s =>
    let e := t.ent
    let ns := entNsid e
    let w := wholeIus n.fmt (slba e) (nlb e)
    let ps := partialIus n.fmt (slba e) (nlb e)
    let full := ps.filter (partWhole s ns n e)
    let parts := ps.filter fun iu => !partWhole s ns n e iu
    let fresh := (parts.filter fun iu => badMask s ns iu == 0 && !((liveRec s ns iu).isNone && mapAt s ns iu == mapUnc)).length
    if 4096 < s.fte.bad.length + fresh then post tag .capacityExceeded 0 s
    else withRanges (min 1 w.2 + full.length) (fun s =>
      let s1 := forEach parts (fun iu s => markPart ns t.seq iu (coverMask n.fmt (slba e) (nlb e) iu) s) s
      let s2 := forEach full (fun iu s => setRange ns n .unc t.seq iu 1 s) s1
      recsDone tag (setRange ns n .unc t.seq w.1 w.2 s2)) s) s)

/-- DATASET_MANAGEMENT, R187, R189: with AD = 0 it completes at once; each range's whole IUs become UNMAPPED. -/
def execDatasetManagement (tag : Nat) (s : State) : Res := onSeq 3 s <|
  .next (recordIo tag 9 (fun t n s =>
    let e := t.ent
    let ws := (e.ranges.map fun r => wholeIus n.fmt r.1 r.2).filter fun w => decide (0 < w.2)
    if !dsmAd e then post tag .success 0 s
    else withRanges ws.length (fun s => recsDone tag (forEach ws (fun w s => setRange (entNsid e) n .unmapped t.seq w.1 w.2 s) s)) s) s)

/-! ## Flush -/

/-- Write-class commands a Flush covers that still hold it back, R118. -/
def flushHeld (s : State) (t : Tag) : Bool :=
  let l := namedNs s t.ctrl (entNsid t.ent)
  s.nvq.tags.any fun e => unplaced e.2 && newer t.seq e.2.seq && l.contains (entNsid e.2.ent)

/-- FLUSH, R118: it completes once every covered command has its data in a well, or has ended. -/
def execFlush (tag : Nat) (s : State) : Res :=
  match tget s.nvq.tags tag with
  | none => .next s
  | some t =>
    if t.st ≠ .run || !isIo t || opc t.ent != 0 || !engines s || flushHeld s t then .next s
    else .next (post tag .success 0 s)

end Sys2Proof.Machine
end

