-- ==== Sys2Proof/Machine/HostPorts.lean ====
section
/-! DEFINITION. Host ports (R74 to R99): links, resets and loss of link, configuration requests, received errors, the twin link and
its inbound window, and ATS invalidations (R80, R159). -/

namespace Sys2Proof.Machine

/-! ## Links -/

def modPort (n : Nat) (f : Port → Port) (s : State) : State := onHpc (fun h => { h with ports := tupd h.ports n {} f }) s
def modFn (c : Nat) (f : Fn → Fn) (s : State) : State := onHpc (fun h => { h with fns := tupd h.fns c {} f }) s

/-- A port governs a link: it is the link's lowest-numbered member (R75). -/
def governs (s : State) (n : Nat) : Bool := decide (n < 4) && linkOf s n == n

/-- An AER error is recorded for a function, R98: its status bit, and the header of the first error logged. -/
def aerLog (c : Nat) (e : AerErr) (hdr : List Word) (s : State) : State :=
  modFn c (fun f => { f with aer := if f.aer.contains e then f.aer else f.aer ++ [e],
                             aerHdr := f.aerHdr.or (if hdr.isEmpty then none else some (e, hdr)) }) s

/-- The function an error concerns: that of the command it took data from, else the one given. -/
def aerFn (s : State) (tag : Option Nat) (c : Nat) : Nat := ((tag.bind (tget s.nvq.tags)).map (·.ctrl)).getD c

/-- Lanes of the link a port governs. -/
def laneCount (s : State) (n : Nat) : Nat := 4 * (members s n).length

/-- The port in the PR role. -/
def prPort (s : State) : Option Nat := (List.range 4).find? fun n => isPr s n && governs s n

/-- PR_HOLD of a PR port. -/
def prHold (s : State) (n : Nat) : Bool := bitOf (reg s .hpcPortCtl n) 0

/-- Device power: link events reach the ports, R95, R39. -/
def portsLive (s : State) : Bool := s.sys.mode != .holdup && s.sys.mode != .dormant

/-- Controllers of a link. -/
def linkCtrls (s : State) (l : Nat) : List Nat := (tkeys s.nvq.ctrls).filter fun c => ctrlLink s c == l

/-! ## Resets of functions, Tables 3-13, 4-6 -/

/-- The BAR2 function was reset: every ring is reset and disabled, and replies to its requests are discarded (Table 3-13). -/
def camPathReset (s : State) : State :=
  onCam (fun c => { muteReqs (fun r => decide (r.src < 4)) c with
                    rings := [], ops := tmap c.ops (fun _ o => if o.src < 4 then { o with discard := true } else o) }) s

/-- Functions are reset: their commands end, their controllers and configuration are reset, their translations and page requests
go (R93, R94, R162, R168). `sticky`: the AER sticky bits are kept (Table 4-6). -/
def resetFns (cs : List Nat) (sticky : Bool) (s : State) : State :=
  let s1 := forEach cs resetCtrl s
  let reset (f : Tbl Fn) : Tbl Fn :=
    if sticky then tmap f fun c x => if cs.contains c then { aer := x.aer, aerHdr := x.aerHdr } else x else tfilter f fun c _ => !cs.contains c
  let s2 := onHpc (fun h => { h with fns := reset h.fns }) s1
  let s3 := dropReqs (fun r => cs.contains r.ctrl) (onXlt (fun x =>
    { x with atc := x.atc.filter fun a => !cs.contains a.ctrl, prgs := x.prgs.filter fun g => !cs.contains g.ctrl }) s2)
  let s4 := if cs.contains (ctrlOf (mgmtLink s) 0) then camPathReset s3 else s3
  let s5 := if cs.any fun c => isPface s (ctrlLink s c) && isPf c then onHpc (fun h => { h with pfState := 1 }) s4 else s4
  checkShut none (rescale s5)

/-- All functions of a link are reset; keys and AER sticky state by Table 4-6; `bits` are the event bits. -/
def resetLink (n : Nat) (perst : Bool) (st bits : Nat) (s : State) : State :=
  let s1 := resetFns (linkCtrls s n) (!perst) s
  let s2 := modPort n (fun p =>
    { p with up := false, st, width := 0, rate := 0, flit := false, cfgReady := false, ptmOut := false, perst := perst || p.perst,
             ideInsecure := if perst then [] else (p.ideInsecure ++ p.ideKeys).eraseDups, ideKeys := if perst then [] else p.ideKeys }) s1
  orReg .hpcPortEvt n (BitVec.ofNat 32 bits) s2

/-- The partner is lost on the PR link, R92: TWIN becomes 101b, source 174. With twin mode off (R77) there is no partner to lose. -/
def twinLost (s : State) : State :=
  if s.hpc.twin = 0 then s else raiseSrc 174 (partnerLost (onHpc (fun h => { h with twin := 5, partner := {} }) s))

/-- PERST_N_ASSERTED, R75, R93: only the ball of a link's lowest member on an EP link counts; HOLDUP and DORMANT take the level
alone. -/
def execPerstNAsserted (port : Nat) (s : State) : Res :=
  if !governs s port || isPr s port || (portAt s port).perst then .next s
  else if !portsLive s then .next (modPort port (fun p => { p with perst := true }) s)
  else .next (resetLink port true 0 (2 + b2n (portAt s port).up) s)

/-- A chip reset out of DORMANT is due, R33: RST_CAUSE 0x2. -/
def wakeDormant (s : State) : State := onSys (fun y => { y with resetDue := true, holdupCause := 2 }) s

/-- PERST_N_DEASSERTED, R95: link training starts once the ports are released; in DORMANT it wakes the device (R39). -/
def execPerstNDeasserted (port : Nat) (s : State) : Res :=
  if !governs s port || isPr s port || !(portAt s port).perst then .next s
  else
    let s1 := modPort port (fun p => { p with perst := false }) s
    if s.sys.mode = .dormant then .next (wakeDormant s1)
    else if s.sys.mode = .holdup then .next s1
    else .next (modPort port (fun p => { p with st := if s.hpc.released then 1 else 0 }) s1)

/-- HOT_RESET, Table 4-6. -/
def execHotReset (port : Nat) (s : State) : Res :=
  if !governs s port || isPr s port || !(portAt s port).up || !portsLive s then .next s
  else .next (resetLink port false 8 0 s)

/-- LINK_DOWN, Table 4-6, R92: link down from L0. On the PR link the partner is lost. -/
def execLinkDown (port : Nat) (s : State) : Res :=
  if !governs s port || !(portAt s port).up || !portsLive s then .next s
  else
    let s1 := resetLink port false 0 1 s
    .next (if isPr s port then twinLost s1 else s1)

/-- LINK_UP, R78, R90: a link reaches L0 at a width and rate it supports; Flit mode is required at 64 GT/s. -/
def execLinkUp (port width rate : Nat) (flit : Bool) (s : State) : Res :=
  let p := portAt s port
  let ok := governs s port && portsLive s && s.hpc.released && !p.up && !p.perst && decide (p.st ≠ 7) && !(isPr s port && prHold s port) &&
    [1, 2, 4, 8, 16].contains width && decide (width ≤ laneCount s port) && decide (1 ≤ rate) && decide (rate ≤ 6) && (rate != 6 || flit)
  if !ok then .next s
  else .next (modPort port (fun p => { p with up := true, st := 3, width, rate, flit }) s)

/-- FLR_PF, Table 4-6: the PF and all its VFs. -/
def execFlrPf (ctrl : Nat) (s : State) : Res :=
  if !isPf ctrl || !thas s.nvq.ctrls ctrl || !portsLive s then .next s
  else .next (resetFns ((tkeys s.nvq.ctrls).filter fun c => portOf c == portOf ctrl) false (wake s))

/-- FLR_VF, Table 4-6. -/
def execFlrVf (ctrl : Nat) (s : State) : Res :=
  if isPf ctrl || !thas s.nvq.ctrls ctrl || !portsLive s then .next s else .next (resetFns [ctrl] false (wake s))

/-! ## Configuration space, R79, R83, R84, R86, R87, R95, R156, R162 -/

/-- A function is there, R83: a PF of an EP link, or a VF of one whose VF Enable is set, up to NumVFs. -/
def fnThere (s : State) (c : Nat) : Bool :=
  thas s.nvq.ctrls c && (isPf c || ((fnAt s (ctrlOf (portOf c) 0)).vfEnable && decide (fnOf c ≤ (fnAt s (ctrlOf (portOf c) 0)).numVfs)))

/-- The BARs of a PF and their bytes, Table 4-4; BAR2 on the management PF only (R66, R85). A VF has none of its own. -/
def barSizes (s : State) (c : Nat) : List (Nat × Nat) :=
  if !isPf c then [] else [(0, 2 ^ 18)] ++ (if c = mgmtPf s then [(2, 2 ^ 27)] else []) ++ [(4, 2 ^ 16)]

/-- A PF with VFs: TotalVFs is 252, and 0 on a partner-facing link (R83). -/
def totalVfs (s : State) (c : Nat) : Nat := if isPf c && !isPface s (ctrlLink s c) then 252 else 0

/-- The VF BARs of a PF and their bytes per VF, Table 4-4. -/
def vfBarSizes (s : State) (c : Nat) : List (Nat × Nat) := if totalVfs s c = 0 then [] else [(0, 2 ^ 16), (4, 2 ^ 13)]

/-- Function 0 of a link. -/
def isFn0 (s : State) (c : Nat) : Bool := isPf c && ctrlLink s c == portOf c

/-- The capabilities of a function, Table 4-2. -/
def capsOf (s : State) (c : Nat) : List CfgCap :=
  [.powerMgmt, .msix, .ats, .pri, .aer] ++ (if isPf c then [.acs, .ari, .vsec] else []) ++
    (if totalVfs s c ≠ 0 then [.sriov] else []) ++ (if isFn0 s c then [.l1Substates, .margining, .ptmRequester, .ide, .doe, .ltr] else [])

/-- A function's configuration space. First VF Offset is that of Table 4-3; MSI-X has 2,048 vectors in a PF and 64 in a VF; the VSEC of
every PF has ID 0x0780 and revision 1, SYS_CHIP_ID, and bit 0 set on a partner-facing link. -/
def cfgSpace (s : State) (c : Nat) : CfgSpace :=
  let f := fnAt s c
  let at' (t : Tbl Nat) (l : List (Nat × Nat)) := l.map fun x => (x.1, x.2, tgetD t x.1 0)
  { vid := s.prof.vid, did := if isPf c then s.prof.did else s.prof.vfDid, svid := s.prof.svid, sid := s.prof.sid, classCode := 0x010802,
    bars := at' f.bars (barSizes s c), vfBars := at' f.vfBars (vfBarSizes s c), vfDid := if isPf c then s.prof.vfDid else 0,
    totalVfs := totalVfs s c, firstVf := if totalVfs s c = 0 then 0 else (members s (ctrlLink s c)).length + 251 * (portOf c - ctrlLink s c),
    vfStride := if totalVfs s c = 0 then 0 else 1, vfPages := if totalVfs s c = 0 then [] else [4096, 65536],
    msix := if isPf c then 2048 else 64, msixTable := (4, 0), msixPba := (4, if isPf c then 0x8000 else 0x1000),
    vsec := if isPf c then some (0x0780, 1, regValue s .sysChipId 0, if isPface s (ctrlLink s c) then 1 else 0) else none,
    caps := capsOf s c, maxPayload := 512, maxRead := 4096, tags := 2048, priCapacity := 1024, atsQueue := 32, set := f }

/-- The bus address of a BAR of a function: a PF's own, or a VF's share of its PF's VF BAR, R84. -/
def barAddr (s : State) (c k : Nat) : Option Nat :=
  let f := fnAt s (ctrlOf (portOf c) 0)
  if isPf c then ((barSizes s c).find? fun x => x.1 == k).map fun x => tgetD (fnAt s c).bars x.1 0
  else ((vfBarSizes s (ctrlOf (portOf c) 0)).find? fun x => x.1 == k).map fun x =>
    tgetD f.vfBars x.1 0 + (fnOf c - 1) * max x.2 (if f.vfPage64 then 65536 else 4096)

/-- The effect of a configuration write. -/
def configure (c : Nat) (op : ConfigOp) (s : State) : State :=
  match op with
  | .read => s
  | .vfEnable on =>
    if !isPf c || isPface s (ctrlLink s c) then s
    else
      let vfs := (tkeys s.nvq.ctrls).filter fun v => portOf v == portOf c && !isPf v
      let s1 := modFn c (fun f => { f with vfEnable := on }) s
      if on then forEach vfs (fun v s => if (ctrlAt s v).en && !(ctrlAt s v).rdy && s.sys.mode != .boot && canReady s v then makeReady v s else s) s1
      else resetFns vfs false s1
  | .atsEnable on =>
    let s1 := modFn c (fun f => { f with atsEn := on }) s
    if on then s1 else atsOff c (onXlt (fun x => { x with atc := x.atc.filter fun a => a.ctrl != c }) s1)
  | .priEnable on =>
    if on then modFn c (fun f => { f with priEn := true, priStopped := f.priFail && f.priStopped }) s
    else stopPri c (modFn c (fun f => { f with priEn := false }) s)
  | .priAlloc n => modFn c (fun f => { f with priAlloc := min n 1024 }) s
  | .maxPayload n => if [128, 256, 512].contains n then modFn c (fun f => { f with mps := n }) s else s
  | .ptmEnable on => if isFn0 s c then modFn c (fun f => { f with ptmEn := on }) s else s
  | .numVfs n => if totalVfs s c = 0 ∨ (fnAt s c).vfEnable then s else modFn c (fun f => { f with numVfs := min n 252 }) s
  | .vfPage64 on => if totalVfs s c = 0 ∨ (fnAt s c).vfEnable then s else modFn c (fun f => { f with vfPage64 := on }) s
  | .priReset => if (fnAt s c).priEn then s else resetPri c s
  | .maxRead n => if [128, 256, 512, 1024, 2048, 4096].contains n then modFn c (fun f => { f with mrrs := n }) s else s
  | .attrs ro ido ns => modFn c (fun f => { f with ro, ido, noSnoop := ns }) s
  | .d3hot on => modFn c (fun f => { f with d3hot := on }) s
  | .bar k a => match (barSizes s c).find? fun x => x.1 == k with
    | some x => modFn c (fun f => { f with bars := tset f.bars k (a % 2 ^ 64 / x.2 * x.2) }) s
    | none => s
  | .vfBar k a => match (vfBarSizes s c).find? fun x => x.1 == k with
    | some x => modFn c (fun f => { f with vfBars := tset f.vfBars k (a % 2 ^ 64 / x.2 * x.2) }) s
    | none => s
  | .msix en mask => modFn c (fun f => { f with msixEn := en, msixMask := mask }) s
  | .ecrc gen chk => modFn c (fun f => { f with ecrcGen := gen, ecrcChk := chk }) s
  | .acs w => if isPf c then modFn c (fun f => { f with acs := w }) s else s
  | .ltr on => if isFn0 s c then modFn c (fun f => { f with ltrEn := on }) s else s
  | .aspm a b d => modFn c (fun f => { f with aspmL1 := a, aspmL11 := b, aspmL12 := d }) s
  | .aerClear es => modFn c (fun f => { f with aer := f.aer.filter fun e => !es.contains e,
                                               aerHdr := if f.aerHdr.any fun h => es.contains h.1 then none else f.aerHdr }) s

/-- CONFIG_REQUEST, R95: answered with Request Retry Status until configuration space is ready; `ready` says whether it is by now. A
request to a function that is not there gets Unsupported Request (PRESUMED, the PCIe base specification). In STANDPIPE island 6 answers it,
and it wakes the device (R377). -/
def execConfigRequest (ctrl : Nat) (op : ConfigOp) (ready : Bool) (s : State) : Res :=
  let n := ctrlLink s ctrl
  if isPr s n || !(portAt s n).up || !portsLive s then .next s
  else if !(portAt s n).cfgReady && !ready then .next (emit (.cfgReply ctrl .retry) s)
  else
    let s1 := modPort n (fun p => { p with cfgReady := true }) s
    if !fnThere s ctrl then .next (emit (.cfgReply ctrl .unsupported) s1)
    else .next (wake (configure ctrl op (emit (.cfgReply ctrl (.done (if op = .read then some (cfgSpace s ctrl) else none))) s1)))

/-! ## Received errors, R81, R98 -/

/-- A command loses data it needed: Data Transfer Error. -/
def loseData (tag : Option Nat) (s : State) : State :=
  match tag with
  | none => s
  | some k => match tget s.nvq.tags k with
    | none => s
    | some t => if t.st = .run ∨ t.st = .suspended then post k .dataTransfer 0 (returnResv k s) else s

/-- A port whose link is up receives something. -/
def receives (s : State) (n : Nat) : Bool := governs s n && (portAt s n).up && portsLive s

/-- IDE_CHECK_FAIL, R81: the TLP is dropped, its stream goes Insecure, IDE Check Failed is recorded in AER of function 0, which holds the IDE
capability, and a command that lost data completes with Data Transfer Error; source 170 + port. -/
def execIdeCheckFail (port stream : Nat) (tag : Option Nat) (hdr : List Word) (s : State) : Res :=
  if !receives s port then .next s
  else
    let s1 := aerLog (ctrlOf port 0) .ideCheck hdr (modPort port (fun p =>
      { p with ideInsecure := if p.ideInsecure.contains stream then p.ideInsecure else p.ideInsecure ++ [stream] }) s)
    .next (loseData tag (raiseSrc (170 + port) (orReg .hpcPortEvt port (bitW 6) s1)))

/-- RECEIVED_ERROR_TLP, Table 4-7, R98. Errors of a submission entry read come with SUBMISSION_FETCH and FETCH_RETRY; those of a PRP or
SGL read name the command (R122). A poisoned TLP is an AER error of the function it concerns; a completion with UR or CA is none of the
requester's (PRESUMED, the PCIe base specification). A TLP that fails its ECRC is discarded where the function's ECRC check is enabled. -/
def execReceivedErrorTlp (port : Nat) (e : ErrTlp) (fn : Nat) (tag : Option Nat) (hdr : List Word) (s : State) : Res :=
  let c := aerFn s tag fn
  if !receives s port || (e == .ecrc && !(fnAt s c).ecrcChk) then .next s
  else
    let bit (b : Nat) (s : State) : State := orReg .hpcPortEvt port (bitW b) s
    let s1 := wake s
    match e with
    | .epDataRead | .epFetch => .next (loseData tag (bit 5 (aerLog c .poisonedTlp hdr s1)))
    | .urFetch | .caFetch => .next (loseData tag (bit 5 s1))
    | .epBarWrite => .next (bit 5 (aerLog c .poisonedTlp hdr s1))
    | .ecrc => .next (loseData tag (raiseSrc 176 (bit 2 (aerLog c .ecrc hdr s1))))

/-- COMPLETION_TIMEOUT, Table 4-7, R92: a device read request is abandoned; on the PR link the partner is lost. -/
def execCompletionTimeout (port : Nat) (tag : Option Nat) (s : State) : Res :=
  if !receives s port then .next s
  else
    let s1 := if isPr s port then s else aerLog (aerFn s tag (ctrlOf port 0)) .completionTimeout [] s
    let s2 := loseData tag (raiseSrc 177 (orReg .hpcPortEvt port (bitW 3) s1))
    .next (if isPr s port then twinLost s2 else s2)

/-! ## The twin link, R88 to R92 -/

/-- INBOUND_WINDOW_REQUEST, R91: the 4 GiB window at bus address 2^32 serves the partner's PF; anything else gets Unsupported
Request and does not reach memory. -/
def execInboundWindowRequest (fromPartner : Bool) (addr : Nat) (r : WindowReq) (s : State) : Res :=
  match prPort s with
  | none => .next s
  | some n =>
    if !receives s n then .next s
    else
      let len := match r with
        | .read b => b
        | .write d => d.length
      if !fromPartner || addr < 2 ^ 32 || 2 ^ 33 < addr + len then .next (emit (.windowReply none) s)
      else match r with
        | .read b => .next (emit (.windowReply (some (mread 0 s.hpc.window (addr - 2 ^ 32) b))) s)
        | .write d => .next (onHpc (fun h => { h with window := mwrite 0 h.window (addr - 2 ^ 32) d }) s)

/-- PR_PERST_RELEASE, Table 4-5 stage 2: the partner's PERST_N is deasserted and the link trains. -/
def execPrPerstRelease (s : State) : Res :=
  match prPort s with
  | none => .next s
  | some n =>
    if s.hpc.twin ≠ 1 ∨ !s.hpc.released ∨ prHold s n ∨ !portsLive s then .next s
    else .next (emit (.prPerst false) (modPort n (fun p => { p with perst := false, st := 1 }) (onHpc (fun h => { h with twin := 2 }) s)))

/-- The partner's VSEC passes R88's check: the chip identity is this device's, and bit 0 says the link is partner-facing. -/
def vsecOk (s : State) (chipId : Word) (pface : Bool) : Bool := chipId == regValue s .sysChipId 0 && pface

/-- Table 4-5 stage 3: a bus number, BAR addresses and Bus Master Enable; the values are the device's own (free values). -/
def enumerate (s : State) : State :=
  { onHpc (fun h => { h with partner := { h.partner with
      bus := some (freeBelow s 256), bars := [Config.freeNat (s.free + 1), Config.freeNat (s.free + 2)], bme := true } }) s
    with free := s.free + 3 }

/-- TWIN_CONFIG_START, Table 4-5 stages 3 to 5, R88: with the PR link up the partner's VSEC is checked, the partner is enumerated, and its
identity authenticated; once it is ready the admin queue and the mirror queues are created and mirroring is active. A partner that fails
authentication is taken as lost (DEDUCED). IDE is on from the authenticated session where the profile requires it. -/
def execTwinConfigStart (chipId : Word) (pface authOk rdy : Bool) (s : State) : Res :=
  match prPort s with
  | none => .next s
  | some n =>
    if (s.hpc.twin ≠ 2 ∧ s.hpc.twin ≠ 3) ∨ !receives s n then .next s
    else if !vsecOk s chipId pface then
      let s1 := modPort n (fun p => { p with up := false, st := 7, cfgReady := false }) s
      .next (twinLost (orReg .hpcPortEvt n (bitW 0) s1))
    else if !authOk then .next (twinLost (raiseSrc 306 (evt .secEvt 1 s)))
    else
      let s0 := if s.hpc.partner.bus.isSome then s else enumerate s
      let s1 := if s.prof.ideTwin then modPort n (fun p => { p with ideKeys := [0], ideInsecure := [] }) s0 else s0
      if !rdy then .next (onHpc (fun h => { h with twin := 3 }) s1)
      else .next (onDre (fun d => { d with lost := false }) (onHpc (fun h =>
        { h with twin := 4, partner := { h.partner with adminQ := true, mirrorQs := Config.mirrorQueues } }) s1))

/-- TWIN_PARTNER_LOST, R92. -/
def execTwinPartnerLost (s : State) : Res :=
  match prPort s with
  | none => .next s
  | some _ => if s.hpc.twin = 0 ∨ s.hpc.twin = 5 ∨ !portsLive s then .next s else .next (twinLost s)

/-- TWIN_RETRY, R92: bring-up starts again from stage 1, unless PR_HOLD is 1. -/
def execTwinRetry (s : State) : Res :=
  match prPort s with
  | none => .next s
  | some n =>
    if s.hpc.twin ≠ 5 ∨ prHold s n ∨ !portsLive s then .next s
    else .next (emit (.prPerst true) (modPort n (fun p =>
      { p with up := false, st := 0, width := 0, rate := 0, flit := false, cfgReady := false, perst := true }) (onHpc (fun h => { h with twin := 1 }) s)))

/-! ## ATS invalidation, R80, R159 -/

/-- ATS_INVALIDATE_REQUEST: the entries go, outstanding Translation Requests that cover a page of the span are marked to be sent again, and the
Invalidation Completion is sent (a transfer is whole within its command, so no translated request is outstanding). Contexts in use of the span
translate again before their next byte moves. -/
def execAtsInvalidateRequest (port rid page pages : Nat) (s : State) : Res :=
  if !receives s port || isPr s port then .next s
  else
    let c := ctrlAtRid s port rid
    let hit (r : XReq) : Bool := r.ctrl == c && !r.wait && spansMeet (r.page, r.pages) (page, pages)
    let s1 := onXlt (fun x => { x with reqs := tmap x.reqs fun _ r => if hit r then { r with stale := true } else r }) (atcDropSpan c page pages s)
    .next (wake (emit (.invalDone c page pages) (askAgain c s1)))

end Sys2Proof.Machine
end

