-- ==== Sys2Proof/Machine/Rings.lean ====
section
/-! DEFINITION. Cament (R46 to R73): ring pairs, slot flags, the C0h and sideband paths, and the system opcodes of Table 3-15 that do
not end another operation. -/

namespace Sys2Proof.Machine

/-! ## Ring entries -/

/-- OWN of the entry at a window address. -/
def ownAt (s : State) (a : Nat) : Bool := bitOf (memWord s a) 31

/-- Write OWN of the entry at a window address. -/
def setOwn (a : Nat) (on : Bool) (s : State) : State :=
  let w := memWord s a
  memStore a (leBytes 4 (if on then w ||| bitW 31 else w &&& ~~~bitW 31).toNat) s

/-- Ring initialisation, R51. -/
def initRing (p : Nat) (s : State) : State :=
  let r := ringAt s p
  forN r.n (fun i s => setOwn (rplAddr p i) true (setOwn (reqAddr p i) false s))
    (setRing p { r with head := 0, rplNext := 0, tail := 0, reserved := 0 } s)

/-- A ring is disabled (R51): requests taken from it get no further reply. -/
def stopRing (p : Nat) (s : State) : State :=
  onCam (fun c => { muteReqs (fun r => r.src == p) c with
                           ops := tmap c.ops fun _ o => if o.src = p then { o with discard := true } else o })
    (modRing p (fun r => { r with en := false }) s)

/-- A write of SYS_CAM_RCFG, R51, Tables 3-7, 3-8c. -/
def writeRcfg (p : Nat) (v : Word) (s : State) : State :=
  let r0 := ringAt s p
  let r1 := { r0 with vec := fld v 16 11, irqEn := bitOf v 8,
                      size := if r0.en || ringActive s p then r0.size else fld v 4 4 }
  let s1 := setRing p r1 s
  if bitOf v 0 && !r0.en then
    if 6 ≤ r1.size ∧ r1.size ≤ 12 then initRing p (setRing p { r1 with en := true } s1)
    else setRing p { r1 with cfgErr := true } s1
  else if !bitOf v 0 && r0.en then stopRing p s1
  else s1

/-- The window answers an access through a function: BAR2 is on the management PF alone (R50, R66, R85), and it does not answer while the
ports' islands are OFF, in HOLDUP and DORMANT (Table 16-1). -/
def barUp (s : State) (fn : Nat) : Bool := fn == mgmtPf s && s.sys.mode != .dormant && s.sys.mode != .holdup

/-- SYS_CAM_RCFG. -/
def execSysCamRcfg (fn p : Nat) (v : Word) (s : State) : Res := .next (if !barUp s fn || decide (4 ≤ p) then s else writeRcfg p v (wake s))

/-- A write of SYS_CAM_RDB, R53, Table 3-8c. -/
def writeRdb (p : Nat) (v : Word) (s : State) : State :=
  let r := ringAt s p
  if !r.en then s
  else
    let t := fld v 0 12
    if r.n ≤ t then setRing p { r with dbErr := true } s else setRing p { r with tail := t } s

/-- SYS_CAM_RDB. A doorbell wakes the device (R69), as every TLP does (R377). -/
def execSysCamRdb (fn p : Nat) (v : Word) (s : State) : Res := .next (if !barUp s fn || decide (4 ≤ p) then s else writeRdb p v (wake s))

/-- Reply entries with OWN = 1 counted consecutively from RPL_NEXT, R54. -/
def replyRun (s : State) (p : Nat) (r : Ring) : Nat → Nat
  | 0 => 0
  | n + 1 => if ownAt s (rplAddr p ((r.rplNext + (r.n - n - 1)) % r.n)) then 1 + replyRun s p r n else 0

/-- Reply space for a request, R54. -/
def replyRoom (s : State) (p : Nat) (r : Ring) (q : CamReq) : Bool :=
  decide (r.reserved + (if rqNotify q then 2 else 1) ≤ replyRun s p r r.n)

/-- The request entry at REQ_HEAD. -/
def headReq (s : State) (p : Nat) : CamReq :=
  { src := p, words := leWords 16 (mread 0 s.cam.mem (reqAddr p (ringAt s p).head) 64) }

/-- Rings are served. -/
def ringsServed (s : State) : Bool := (s.sys.mode.serving || s.sys.mode == .boot) && !s.sys.fetchStop

/-- Take the entry at REQ_HEAD: OWN = 0, reply space reserved (R53, R54). -/
def takeEntry (p : Nat) (q : CamReq) (s : State) : State :=
  setOwn (reqAddr p (ringAt s p).head) false (modRing p (fun r => { r with
    head := (r.head + 1) % r.n, reserved := r.reserved + (if rqNotify q then 2 else 1) }) s)

/-- A request that has arrived joins those of its source that wait; at their front, one that fails a check of 1 to 4 is answered at once
(R56, R64). -/
def arrive (q : CamReq) (s : State) : State :=
  let s1 := onCam (fun c => if q.src = 8 then { c with side := c.side ++ [q] } else { c with queue := c.queue ++ [q] }) s
  refuseFront q.src (srcQueue s1 q.src).length s1

/-- REQUEST_TAKEN, R53, R54: the entry at REQ_HEAD is taken if reply space is free; an entry with OWN = 0 stops the taking until
the next doorbell. -/
def execRequestTaken (p : Nat) (s : State) : Res := onSeq 0 s <|
  let r := ringAt s p
  .next (
    if !ringsServed s || !r.en || r.head == r.tail then s
    else if !ownAt s (reqAddr p r.head) then setRing p { r with ownErr := true, tail := r.head } s
    else
      let q := headReq s p
      if !replyRoom s p r q then s else arrive q (takeEntry p q s))

/-- REPLY_STALL_TIMEOUT, R54: a request in the doorbell range has waited 100 ms for reply space. -/
def execReplyStallTimeout (p : Nat) (s : State) : Res :=
  let r := ringAt s p
  .next (
    if !ringsServed s || !r.en || r.head == r.tail || !ownAt s (reqAddr p r.head) || replyRoom s p r (headReq s p) then s
    else setRing p { r with rplStall := true } s)

/-! ## The window outside the registers, R46, R47, R52, R59, R60 -/

/-- The request entry of an enabled ring that holds a window address, if its OWN drops host writes (R52). -/
def dropsWrite (s : State) (a : Nat) : Bool :=
  let p := (a - 0x01000000) / 0x00200000
  let o := (a - 0x01000000) % 0x00200000
  let r := ringAt s p
  r.en && decide (o < 64 * r.n) && ownAt s (a / 64 * 64)

/-- An address of the ring area that holds a byte: request entries or reply entries. -/
def ringByte (a : Nat) : Bool :=
  let o := (a - 0x01000000) % 0x00200000
  decide (0x01000000 ≤ a) && decide (a < 0x01800000) && (decide (o < 0x40000) || (decide (0x100000 ≤ o) && decide (o < 0x120000)))

/-- An address of trough data that holds a byte. -/
def troughByte (s : State) (a : Nat) : Bool :=
  decide (0x02000000 ≤ a) && decide (a < 0x06000000) && (decide (0x05F00000 ≤ a) || s.cam.dramTrough)

/-- A host write of bytes to ring area or trough, in one TLP: the entry's OWN before the write decides; everything else drops it. Data of a
held slot is unspecified for the holding request alone (R60): the slot holds the bytes written (DESIGN CHOICE, log entry 13). -/
def hostBytes (a : Nat) (bs : List Byte) (s : State) : State :=
  onCam (fun c => { c with mem := (bs.zipIdx).foldl (fun m x =>
    if (ringByte (a + x.2) && !dropsWrite s (a + x.2)) || troughByte s (a + x.2) then mput 0 m (a + x.2) x.1 else m) c.mem }) s

/-- A byte of the window outside the registers, as it reads. -/
def windowByte (s : State) (a : Nat) : Byte :=
  if ringByte a || troughByte s a then mget 0 s.cam.mem a
  else if 0x01800000 ≤ a ∧ a < 0x01810000 then
    BitVec.ofNat 8 ((slotFlag s ((a - 0x01800000) / 4)).toNat / 256 ^ (a % 4))
  else 0

/-- RING_ENTRY_WRITE, R52, R46: bytes written by one TLP to the ring area or the trough. -/
def execRingEntryWrite (fn addr : Nat) (bytes : List Byte) (s : State) : Res :=
  if 2 ^ 27 < addr + bytes.length then .fault (.noSuchAddress addr)
  else .next (if barUp s fn then hostBytes addr bytes (wake s) else s)

/-- A host write of a slot flag word: OWN and LEN; dropped while HELD, and for an unusable slot. -/
def writeFlag (k : Nat) (v : Word) (s : State) : State :=
  if bitOf (slotFlag s k) 30 || (decide (k < sideSlot) && !s.cam.dramTrough) then s else setFlag k (v &&& 0x80001FFF) s

/-- SLOT_FLAG_WRITE, R59, R60: only aligned 32-bit writes count. -/
def execSlotFlagWrite (fn addr size : Nat) (v : Word) (s : State) : Res :=
  if 2 ^ 27 < addr + size then .fault (.noSuchAddress addr)
  else .next (
    if barUp s fn && size == 4 && addr % 4 == 0 && decide (0x01800000 ≤ addr) && decide (addr < 0x01810000) then
      writeFlag ((addr - 0x01800000) / 4) v (wake s)
    else s)

/-! ## C0h and the sideband -/

/-- CAMENT_PACKET, R67: a C0h command in RUN brings its request; it completes with the reply. -/
def execCamentPacket (tag : Nat) (s : State) : Res :=
  .next (admin tag 0xC0 (fun t s =>
    if (s.cam.queue ++ s.cam.gate.map (·.req)).any fun r => r.tag == some tag then s
    else arrive { src := 4 + portOf t.ctrl, words := ((t.ent.dw.drop 10).take 6) ++ ((t.ent.dw.drop 2).take 2), tag := some tag } s) s)

/-- Message type of a message. -/
def msgType (m : Msg) : Nat := (m.bytes.headD 0).toNat % 128

/-- The oldest whole message of a bus and type. -/
def msgOf (s : State) (b : Bus) (ty : Nat) : Option Msg := s.sbm.msgs.find? fun m => m.whole && m.bus == b && msgType m == ty

/-- Remove a message. -/
def dropMsg (m : Msg) (s : State) : State := onSbm (fun b => { b with msgs := b.msgs.erase m }) s

/-- The bus is enabled, R455. -/
def busOn (s : State) (b : Bus) : Bool := bitOf (reg s .sbmCfg) (match b with | .i3c => 1 | .smbus => 0)

/-- A message that is being carried out leaves the held ones; one that came in a single packet need not have been held. -/
def takeMsg (b : Bus) (ty : Nat) (s : State) : State := match msgOf s b ty with
  | some m => dropMsg m s
  | none => s

/-- SBM takes messages: not in HOLDUP, where new messages are dropped, nor in DORMANT (Table 19-4) or during its entry (R498), and once its island is ON: a transfer to a
gated island waits for ISLAND_WAKE_ON_ACCESS (R371). -/
def sideTakes (s : State) (b : Bus) : Bool := busOn s b && islOn s 35 && s.sys.mode != .holdup && s.sys.mode != .dormant &&
  s.sys.modeReq != some .dormant

/-- The request a vendor-defined message holds, R68, R457: after type 7Fh with IC = 0 the enterprise number 0x0000D8A7, most significant
byte first, the packet of 8 × LEN bytes, then the payload. -/
def camMessage (b : Bus) (m : Msg) : Option CamReq :=
  if m.bytes.take 5 ≠ camHeader.map (BitVec.ofNat 8) then none
  else
    let body := m.bytes.drop 5
    let n := 8 * (body.getD 2 0).toNat
    some { src := 8, words := leWords 16 (body.take n), payload := body.drop n, bus := some b }

/-- CAMENT_MCTP_MESSAGE, R68, R457: the oldest whole vendor-defined message of a bus is taken, and the request it holds joins those that
wait while MCTP_EN is 1. -/
def execCamentMctpMessage (b : Bus) (s : State) : Res := onSeq 0 s <|
  .next (if !sideTakes s b then s else match msgOf s b 0x7F with
    | none => s
    | some m => match camMessage b m with
      | none => dropMsg m s
      | some q => if bitOf (reg s .sysCamCtl) 9 then wake (arrive q (dropMsg m s)) else dropMsg m s)

/-! ## System opcodes -/

/-- NOP. -/
def execNop (src : Nat) (s : State) : Res := .next (serveRead src 0x0100 (fun _ _ => (0, [])) s)

/-- DEVICE_INFO. -/
def execDeviceInfo (src : Nat) (s : State) : Res :=
  .next (serveRead src 0x0101 (fun s _ => (0, [0x00400401, 16384, 16128, regValue s .sysChipId 0, regValue s .sysCamSts 0])) s)

/-- OP_QUERY; progress is not reported. -/
def execOpQuery (src : Nat) (s : State) : Res :=
  .next (serveRead src 0x0102 (fun s r => match tget s.cam.ops (fld (rqW r 2) 0 6) with
    | none => (0x0103, [])
    | some o => (0, [pack [(16, 16, o.status), (8, 8, 0xFF), (0, 1, b2n (o.st == .complete))],
        pack [(16, 16, o.opcode), (0, 16, o.tag)]] ++ o.detail.take 4)) s)

/-- CHIP_RESET, R72. -/
def execChipReset (src : Nat) (s : State) : Res :=
  .next (serve src 0x0104 (fun _ => false)
    (fun _ r => if rqW r 2 = 0xA5A5 then none else some (badField 2 (rqW r 2 ^^^ 0xA5A5))) (fun _ _ s => (askReset 4 s, {})) s)

/-- The slots TROUGH_RELEASE names. -/
def releaseNames (r : CamReq) : List Nat := upFrom (fld (rqW r 2) 0 14) (fld (rqW r 2) 16 14 + 1)

/-- TROUGH_RELEASE, R72; a slot that does not exist, or that R47 makes unusable while DRAM_TROUGH is 0, is refused with 0x000A. -/
def execTroughRelease (src : Nat) (s : State) : Res :=
  .next (serve src 0x0105 (fun _ => false)
    (fun s r => ((releaseNames r).find? fun k => !(decide (k < slotCount) && (decide (sideSlot ≤ k) || s.cam.dramTrough))).map fun k =>
      (0x000A, [lo32 k])) (fun r _ s =>
    let ks := releaseNames r
    let free := ks.filter fun k => !bitOf (slotFlag s k) 30
    (forEach free (fun k s => setFlag k (slotFlag s k &&& 0x7FFFFFFF) s) s,
      { detail := [lo32 free.length, lo32 (ks.length - free.length)] })) s)

/-- TROUGH_CHECK. -/
def execTroughCheck (src : Nat) (s : State) : Res :=
  .next (serve src 0x0106 (fun _ => false) (fun _ _ => none) (fun r _ s => (s, { detail := [crc32c (slotData s r)] })) s)

/-- Check 9 of TROUGH_PUT and TROUGH_GET: a sideband slot the requester holds. -/
def sideSlotCheck (s : State) (r : CamReq) : Option (Nat × List Word) :=
  let k := fld (rqW r 2) 0 14
  if k < sideSlot then some (badField 2 0x3FFF) else if bitOf (slotFlag s k) 31 then some (0x0008, [lo32 k]) else none

/-- TROUGH_PUT, R72. The detail of its 0x000B is the payload's length (DESIGN CHOICE, log entry 13: Table 3-12's "sum of LEN, or capacity" has
none for a payload). -/
def execTroughPut (src : Nat) (s : State) : Res :=
  .next (serve src 0x0120 (fun _ => false)
    (fun s r =>
      let n := fld (rqW r 2) 16 13
      if 4096 < n then some (badField 2 0x1FFF0000)
      else (sideSlotCheck s r).or (if r.payload.length = n then none else some (0x000B, [lo32 r.payload.length])))
    (fun r _ s =>
      let k := fld (rqW r 2) 0 14
      let s1 := memStore (slotAddr k) r.payload s
      let s2 := if bitOf (rqW r 2) 31 then setFlag k (pack [(31, 1, 1), (0, 13, r.payload.length)]) s1 else s1
      (s2, { detail := [slotFlag s2 k] })) s)

/-- TROUGH_GET. -/
def execTroughGet (src : Nat) (s : State) : Res :=
  .next (serve src 0x0121 (fun _ => false) sideSlotCheck (fun r _ s =>
    let k := fld (rqW r 2) 0 14
    (s, { detail := [slotFlag s k], data := mread 0 s.cam.mem (slotAddr k) (flagLen (slotFlag s k)) })) s)

/-- MODE_GET, Table 2-8. -/
def execModeGet (src : Nat) (s : State) : Res :=
  .next (serveRead src 0x0110 (fun s _ => (0, [modeSts s, bootSts s, lo32 s.sys.chgTime, hi32 s.sys.chgTime])) s)

end Sys2Proof.Machine
end

