-- ==== Sys2Proof/Machine/Wel.lean ====
section
/-! DEFINITION. The buffer wells (R315 to R324): pools, quotas, shared buffers and their opcodes. A buffer is named by the key
2^20 × pool + index. Pools lie in well space in the order of their numbers (DESIGN CHOICE: R315 does not say where). -/

namespace Sys2Proof.Machine

/-- Class of a requester, Table 13-2: 0 WRITE, 1 PARITY, 2 GENERAL; none for an ID not listed. -/
def rqClass (r : Nat) : Option Nat :=
  if r < 4 ∨ r = 10 then some 0
  else if r = 8 then some 1
  else if r < 15 ∨ (16 ≤ r ∧ r < 28) then some 2
  else none

/-- Buffers of a pool in the configuration of WEL_CFG, Table 13-1. -/
def poolSize (s : State) (p : Nat) : Nat :=
  if bitOf (reg s .welCfg) 0 then rfld s .welPoolCfg (8 * p) 8 * 2 ^ 20 / bufBytes p else if p = 1 then 16384 else 0

/-- The pools are built, R315, R318: every buffer free, lowest index on top. -/
def buildPools (s : State) : State :=
  onWel (fun w => { w with built := true, stop := false, bufs := [], waits := [], attWait := [],
                           pools := (List.range 4).map fun p => (p, { total := poolSize s p, low := poolSize s p }) }) s

/-- Where a pool begins in well space. -/
def poolBase (s : State) (p : Nat) : Nat := (List.range p).foldl (fun a q => a + (poolAt s q).total * bufBytes q) 0

/-- First byte of a buffer in well space. -/
def bufBase (s : State) (b : Nat) : Nat := poolBase s (b / 2 ^ 20) + b % 2 ^ 20 * bufBytes (b / 2 ^ 20)

/-- The buffer that holds a well address. -/
def bufAtAddr (s : State) (a : Nat) : Option Nat :=
  ((List.range 4).find? fun p => decide (poolBase s p ≤ a) && decide (a < poolBase s p + (poolAt s p).total * bufBytes p)).map
    fun p => 2 ^ 20 * p + (a - poolBase s p) / bufBytes p

/-- A well address lies in a FREE buffer. -/
def welFreeAt (s : State) (a : Nat) : Bool := match bufAtAddr s a with
  | some b => !thas s.wel.bufs b
  | none => false

def poolPresent (s : State) (p : Nat) : Bool := decide (0 < (poolAt s p).total)

/-- The pool R316 serves a size from, before fallback: the smallest present pool whose buffers are large enough. -/
def basePool (s : State) (size : Nat) : Option Nat :=
  if bitOf (reg s .welCfg) 0 then (List.range 4).find? fun p => poolPresent s p && decide (size ≤ bufBytes p)
  else if poolPresent s 1 then some 1 else none

/-- The pool an allocation takes its buffer from: by fallback the next larger present pool, where its own has no free buffer. -/
def chosenPool (s : State) (p : Nat) : Nat :=
  if poolFree (poolAt s p) = 0 ∧ p < 3 ∧ bitOf (reg s .welCfg) 0 ∧ bitOf (reg s .welCfg) (4 + p) then
    ((List.range 4).find? fun q => decide (p < q) && poolPresent s q).getD p
  else p

/-- Buffers an allocation takes: a chain in the uniform configuration. -/
def bufsOf (s : State) (size : Nat) : Nat := if bitOf (reg s .welCfg) 0 then 1 else max 1 (ceilDiv size 4096)

/-- LIMIT and RESERVE of a requester in bytes, Table 13-12. -/
def rqLimit (s : State) (r : Nat) : Nat :=
  let l := fld (reg s .welRqCfg r) 16 11
  65536 * (if l = 0 ∨ 1024 < l then 1024 else l)
def rqReserve (s : State) (r : Nat) : Nat := 65536 * fld (reg s .welRqCfg r) 0 10

/-- GENERAL capacity held in a pool, in bytes. -/
def generalIn (s : State) (p : Nat) : Nat :=
  s.wel.bufs.foldl (fun a e => if e.2.cls = 2 && e.1 / 2 ^ 20 == p then a + bufBytes p else a) 0

/-- Condition 1 of R320: buffers are free. -/
def cond1 (s : State) (w : Wait) : Bool := decide (bufsOf s w.size ≤ poolFree (poolAt s (chosenPool s w.pool)))

/-- Bytes an allocation takes. -/
def takes (s : State) (w : Wait) : Nat := bufsOf s w.size * bufBytes (chosenPool s w.pool)

/-- Condition 2. -/
def cond2 (s : State) (w : Wait) : Bool := decide (rqBytes s w.rq + takes s w ≤ rqLimit s w.rq)

/-- The class limit of R319. -/
def classFits (s : State) (w : Wait) : Bool := match rqClass w.rq with
  | some 0 => decide (clsBytes s 0 + takes s w ≤ lim19 s 48)
  | some 1 => decide (clsBytes s 1 + takes s w ≤ lim19 s 12)
  | _ => true

/-- Condition 3: the class limit and, for WRITE and PARITY, the pool's floor less the GENERAL capacity it holds. -/
def cond3 (s : State) (w : Wait) : Bool :=
  let p := chosenPool s w.pool
  classFits s w && (rqClass w.rq == some 2 ||
    decide (65536 * rfld s .welFloor (8 * p) 8 - generalIn s p + takes s w ≤ poolFree (poolAt s p) * bufBytes p))

/-- Condition 4: the reserves of the other requesters. -/
def cond4 (s : State) (w : Wait) : Bool :=
  decide (rqBytes s w.rq < rqReserve s w.rq) ||
    decide (((List.range 64).foldl (fun a r => if r = w.rq then a else a + (rqReserve s r - rqBytes s r)) 0) + takes s w ≤ welFree s)

/-- R320 allows an allocation. -/
def mayAlloc (s : State) (w : Wait) : Bool := cond1 s w && cond2 s w && cond3 s w && cond4 s w

/-- A waiting allocation does not hold back later ones: only condition 2 or 3 fails (R321). -/
def passedOver (s : State) (w : Wait) : Bool := cond1 s w && cond4 s w

/-- Pop the top index of a pool's stack, R318. -/
def popBuf (p : Nat) (s : State) : Nat × State :=
  let x := poolAt s p
  let (i, y) := match x.ret with
    | i :: l => (i, { x with ret := l })
    | [] => (x.fresh, { x with fresh := x.fresh + 1 })
  (i, onWel (fun w => { w with pools := tset w.pools p { y with low := min y.low (poolFree y) } }) s)

/-- Push an index; the side records and poison marks of the buffer are cleared (R317, R318). -/
def pushBuf (b : Nat) (s : State) : State :=
  onWel (fun w => { w with bufs := terase w.bufs b, pools := tupd w.pools (b / 2 ^ 20) {} fun x =>
    { x with ret := b % 2 ^ 20 :: x.ret } }) s

/-- Take the buffers of an allocation: FREE to HELD, Table 13-3. Fallback is counted at the pool that had no buffer. -/
def takeBufs (w : Wait) (s : State) : State :=
  let p := chosenPool s w.pool
  let cls := (rqClass w.rq).getD 2
  let s1 := forN (bufsOf s w.size) (fun _ s =>
    let (i, s1) := popBuf p s
    onWel (fun x => { x with bufs := tset x.bufs (2 ^ 20 * p + i) { owner := w.rq, holders := [w.rq], cls } }) s1) s
  let s2 := onWel (fun x => { x with pools := tupd x.pools p {} fun y => { y with allocs := y.allocs + 1 } }) s1
  if p = w.pool then s2
  else evt .welEvt 1 (onWel (fun x => { x with pools := tupd x.pools w.pool {} fun y => { y with fallbacks := y.fallbacks + 1 } }) s2)

/-- A refused operation on a buffer: its event bit and the well-misuse source, R322. -/
def badBuf (bit : Nat) (s : State) : State := raiseSrc 282 (evt .welEvt bit s)

/-- Allocation runs: pools built, not in HOLDUP (R324). -/
def welRuns (s : State) : Bool := s.wel.built && !s.wel.stop

/-- ALLOCATE, R316, R319 to R321. -/
def execAllocate (rq size : Nat) (s : State) : Res :=
  .next (
    if !welRuns s then s
    else if (rqClass rq).isNone then badBuf 4 s
    else match basePool s (max 1 size) with
      | none => s
      | some p =>
        if 65536 < size then s
        else
          let w : Wait := { pool := p, rq, size := max 1 size }
          if mayAlloc s w && (s.wel.waits.filter fun x => x.pool == p).all fun x => passedOver s x && !mayAlloc s x then takeBufs w s
          else
            let s1 := evt .welEvt 0 (onWel (fun x => { x with waits := x.waits ++ [w] }) s)
            if classFits s w then s1 else if rqClass rq = some 0 then evt .welEvt 2 s1 else evt .welEvt 3 s1)

/-- The waiting allocation of a pool that is served next, R321. -/
def nextWait (s : State) (p : Nat) : List Wait → Option Wait
  | [] => none
  | w :: l =>
    if w.pool ≠ p then nextWait s p l
    else if mayAlloc s w then some w
    else if passedOver s w then nextWait s p l
    else none

/-- ALLOCATION_WAIT_SERVED, R321: the oldest waiting request of a pool that R320 allows takes its buffer. -/
def execAllocationWaitServed (pool : Nat) (s : State) : Res :=
  .next (if !welRuns s then s else match nextWait s pool s.wel.waits with
    | none => s
    | some w => takeBufs w (onWel (fun x => { x with waits := x.waits.erase w }) s))

/-- ALLOCATION_WAIT_TIMEOUT, R359: an allocation has waited 100 ms: source 285. -/
def execAllocationWaitTimeout (rq : Nat) (s : State) : Res :=
  .next (if s.wel.waits.any fun w => w.rq == rq then raiseSrc 285 s else s)

/-- FREE, Table 13-3. -/
def execFree (rq buf : Nat) (s : State) : Res :=
  .next (
    if !s.wel.built then s
    else if (rqClass rq).isNone then badBuf 4 s
    else match tget s.wel.bufs buf with
      | none => badBuf 5 s
      | some b =>
        if b.owner ≠ rq then badBuf 4 s
        else if b.pend then s
        else if b.holders.length ≤ 1 then pushBuf buf s
        else onWel (fun w => { w with bufs := tset w.bufs buf { b with pend := true, holders := b.holders.erase rq } }) s)

/-- A holder joins a buffer; a 16th waits (R322). -/
def joinBuf (rq buf : Nat) (b : Buf) (s : State) : State :=
  if 15 ≤ b.holders.length then evt .welEvt 6 (onWel (fun w => { w with attWait := w.attWait ++ [(rq, buf)] }) s)
  else onWel (fun w => { w with bufs := tset w.bufs buf { b with holders := b.holders ++ [rq] } }) s

/-- ATTACH, Table 13-3. -/
def execAttach (rq buf : Nat) (s : State) : Res :=
  .next (
    if !s.wel.built then s
    else if (rqClass rq).isNone then badBuf 4 s
    else match tget s.wel.bufs buf with
      | none => badBuf 4 s
      | some b => if b.pend || b.holders.contains rq then s else joinBuf rq buf b s)

/-- The oldest waiting attach of a buffer goes on once a holder has detached. -/
def nextAttach (buf : Nat) (s : State) : State :=
  match s.wel.attWait.find? fun x => x.2 == buf, tget s.wel.bufs buf with
  | some x, some b =>
    if b.pend then onWel (fun w => { w with attWait := w.attWait.erase x }) s
    else joinBuf x.1 buf b (onWel (fun w => { w with attWait := w.attWait.erase x }) s)
  | some _, none => onWel (fun w => { w with attWait := w.attWait.filter fun y => y.2 != buf }) s
  | none, _ => s

/-- DETACH, Table 13-3. -/
def execDetach (rq buf : Nat) (s : State) : Res :=
  .next (
    if !s.wel.built then s
    else if (rqClass rq).isNone then badBuf 4 s
    else match tget s.wel.bufs buf with
      | none => badBuf 4 s
      | some b =>
        if !b.holders.contains rq then badBuf 4 s
        else if b.pend then
          if b.holders.length ≤ 1 then nextAttach buf (pushBuf buf s)
          else onWel (fun w => { w with bufs := tset w.bufs buf { b with holders := b.holders.erase rq } }) s
        else if b.owner = rq then s
        else nextAttach buf (onWel (fun w => { w with bufs := tset w.bufs buf { b with holders := b.holders.erase rq } }) s))

/-- HANDOVER, Table 13-3: release ownership and the charge move; the receiver takes the giver's place among the holders, unless it
is a holder already (DEDUCED: the table gives no change of the holder count). -/
def execHandover (rq buf rcv : Nat) (s : State) : Res :=
  .next (
    if !s.wel.built then s
    else if (rqClass rq).isNone || (rqClass rcv).isNone then badBuf 4 s
    else match tget s.wel.bufs buf with
      | none => s
      | some b =>
        if !b.holders.contains rq then badBuf 4 s
        else if b.pend ∨ b.owner ≠ rq then s
        else
          let hs := if b.holders.contains rcv then b.holders else b.holders.map fun h => if h = rq then rcv else h
          onWel (fun w => { w with bufs := tset w.bufs buf { b with owner := rcv, holders := hs } }) s)

/-- UNALLOCATED_ACCESS, R323: an access to a line in a FREE buffer: nothing is written; UNALLOC and source 283. -/
def execUnallocatedAccess (addr : Nat) (s : State) : Res :=
  .next (if s.wel.built && welFreeAt s addr then raiseSrc 283 (evt .welEvt 7 s) else s)

/-- WEL_INFO. -/
def execWelInfo (src : Nat) (s : State) : Res :=
  .next (serveRead src 0x0700 (fun s _ => (0, [reg s .welCfg, reg s .welPoolCfg, reg s .welFloor, regValue s .welClsSts 0,
    regValue s .pmpBusy 0])) s)

/-- POOL_STATUS. -/
def execPoolStatus (src : Nat) (s : State) : Res :=
  .next (serve src 0x0701 (fun _ => false) (fun s r => if poolPresent s (rqTgt r) then none else some (0x0700, []))
    (fun r _ s => (s, { detail := [regValue s .welPoolSts (rqTgt r), regValue s .welPoolTot (rqTgt r),
      lo32 (poolAt s (rqTgt r)).allocs, lo32 (poolAt s (rqTgt r)).fallbacks] })) s)

/-- RQ_STATUS. -/
def execRqStatus (src : Nat) (s : State) : Res :=
  .next (serveRead src 0x0702 (fun s r => (0, [reg s .welRqCfg (rqTgt r), regValue s .welRqSts (rqTgt r)])) s)

end Sys2Proof.Machine
end

