-- ==== Sys2Proof/Machine/Pmp.lean ====
section
/-! DEFINITION. The pumps (R325 to R332): runs of bursts between the spaces of Table 13-4. -/

namespace Sys2Proof.Machine

def setPump (k : Nat) (p : Pump) (s : State) : State := onPmp (fun x => { x with ch := tset x.ch k p }) s

/-- PMP_STS.ERR codes, Table 13-16. -/
def burstCode : BurstErr → Nat
  | .parity => 1 | .response => 2 | .busy => 3 | .poison => 8

/-- Spaces and addresses of a channel's image, R326. -/
def srcSp (ctl : Word) : Nat := fld ctl 12 3
def dstSp (ctl : Word) : Nat := fld ctl 16 3
def srcAddr (p : Pump) : Nat := p.src.toNat + 2 ^ 32 * fld p.ctl 20 4
def dstAddr (p : Pump) : Nat := p.dst.toNat + 2 ^ 32 * fld p.ctl 24 4

/-- Bytes of a space, Table 13-4; none: not defined. -/
def spaceSize (s : State) : Nat → Option Nat
  | 0 => some 0x4000000
  | 1 => some (s.drm.size * 2 ^ 30)
  | 2 => some 0x2000000
  | 3 => some 0x4000000
  | 4 => some 0x4000000
  | _ => none

/-- A range lies inside its space; trough slots 0–16,127 only while DRAM_TROUGH is 1. -/
def rangeIn (s : State) (sp a n : Nat) : Bool :=
  decide (a + n ≤ (spaceSize s sp).getD 0) && (sp != 4 || s.cam.dramTrough || decide (0x3F00000 ≤ a))

/-! ## Bursts, R328 -/

/-- Bursts of a run. -/
def burstCount (p : Pump) : Nat := (dstAddr p + p.cnt - 1) / 256 - dstAddr p / 256 + 1

/-- First byte of a burst within the run. -/
def burstOff (p : Pump) (i : Nat) : Nat := if i = 0 then 0 else min p.cnt ((dstAddr p / 256 + i) * 256 - dstAddr p)

/-- Bytes of a burst. -/
def burstLen (p : Pump) (i : Nat) : Nat := burstOff p (i + 1) - burstOff p i

/-- Bursts of a run that are outstanding: issued, not acknowledged, and not waiting for their retry. -/
def outstanding (p : Pump) : Nat :=
  ((List.range p.issued).filter fun j => decide (p.done ≤ burstOff p j) && !p.acked.contains j && !p.failed.contains j).length

/-- A run has bursts still to be issued; one that stops issues none. -/
def burstsLeft (p : Pump) : Bool := p.busy && p.stopping.isNone && decide (p.issued < burstCount p)

/-- PMP_CTL.PRIO. -/
def pumpPrio (p : Pump) : Nat := fld p.ctl 28 2

/-- A channel issues as far as its 8 outstanding bursts go; one of lower priority moves only when no channel of higher priority has a burst left
to issue. -/
def issuePump (k : Nat) (s : State) : State :=
  let p := pumpAt s k
  if !burstsLeft p || (List.range 16).any (fun j => burstsLeft (pumpAt s j) && decide (pumpPrio p < pumpPrio (pumpAt s j))) then s
  else setPump k { p with issued := min (burstCount p) (p.issued + (8 - outstanding p)) } s

/-- The arbiter's burst slots: channels of the highest priority first. -/
def pumpSlots (s : State) : State :=
  forEach [3, 2, 1, 0] (fun pr s => forN 16 (fun k s => if pumpPrio (pumpAt s k) = pr then issuePump k s else s) s) s

/-! ## Runs, R327 -/

/-- The checks of Table 13-5 on the registers of channel `k`: ERR of the first that fails. -/
def runErr (s : State) (k : Nat) (p : Pump) : Option Nat :=
  let a := srcSp p.ctl
  let b := dstSp p.ctl
  let mgmtOnly := decide (12 ≤ k)
  if mgmtOnly && s.sec.lock then some 7
  else if 5 ≤ a ∨ (b ≠ 0 ∧ b ≠ 1 ∧ b ≠ 4) ∨ (mgmtOnly ∧ (a < 2 ∨ b < 2)) then some 4
  else if p.src.toNat % 4 ≠ 0 ∨ p.dst.toNat % 4 ≠ 0 ∨ p.cnt % 4 ≠ 0 ∨ p.cnt = 0 then some 6
  else if !rangeIn s a (srcAddr p) p.cnt || !rangeIn s b (dstAddr p) p.cnt then some 4
  else if a = b ∧ spansMeet (srcAddr p, p.cnt) (dstAddr p, p.cnt) then some 5
  else none

/-- PMP_EVT: END bit k, HALT bit 16 + k. -/
def pmpEvent (bit : Nat) (s : State) : State := evt .pmpEvt bit s

/-- A write of PMP_CTL with GO = 1, R327. -/
def startRun (k : Nat) (ctl : Word) (op : Option Nat) (s : State) : State :=
  let p := pumpAt s k
  if p.busy then s
  else
    let p1 := { p with ctl := ctl &&& 0x3FF77000, op }
    match runErr s k p1 with
    | some e => pmpEvent k (setPump k { p1 with err := e, done := 0, op := none } s)
    | none => pumpSlots (setPump k { p1 with
        busy := true, halt := false, aborted := false, ok := false, err := 0, retries := 0, done := 0, issued := 0,
        acked := [], failed := [], tries := [], stopping := none } s)

/-- The pumps' island runs. -/
def pumpUp (s : State) : Bool := islOn s 28 && (s.sys.mode.serving || s.sys.mode == .boot)

/-- Bytes of the event log region, Table 12-1: the entry with SEQ n lies in slot (n − 1) mod 32,768 (DEDUCED). -/
def cisternByte (s : State) (a : Nat) : Option Byte :=
  if 0x700000 ≤ a ∧ a < 0x800000 then
    match s.cst.events.find? fun e => (e.seq - 1) % 32768 == (a - 0x700000) / 32 with
    | some e => some ((wordBytes [lo32 e.seq, hi32 e.seq, lo32 e.time, hi32 e.time, pack [(24, 1, b2n e.est), (0, 16, e.code)],
        e.old, e.new, e.cause]).getD (a % 32) 0)
    | none => none
  else none

/-- A byte of the wellhead store: 0xFF where nothing has been programmed since the block's erase. -/
def storeByte (s : State) (a : Nat) : Byte :=
  let b := tgetD s.whs.blks (a / 0x40000) {}
  if a % 0x40000 / 512 < b.next then Config.storeByte b.gen a else 0xFF

/-- Execute-only ranges, R406: the boot code and the text of the image in each slot. -/
def execOnly (s : State) (a : Nat) : Bool :=
  let slot (base k : Nat) : Bool := match (tgetD s.upd.slots k {}).img with
    | some i => decide (base + 4096 ≤ a) && decide (a < base + 4096 + i.textLen)
    | none => false
  decide (a < 0x100000) || slot 0x100000 1 || slot 0x1900000 2

/-- A program or erase pulse runs in the wellhead store, R407. -/
def pulsing (s : State) : Bool := s.whs.op == 1 || s.whs.op == 2

/-- A data read of an execute-only range, R406. -/
def xoRead (s : State) : State := raiseSrc 349 (evt .whsEvt 0 s)

/-- Whether a byte of a space is poisoned: wells and DRAM. -/
def psnAt (s : State) (sp a : Nat) : Bool :=
  if sp = 0 then match bufAtAddr s a with
    | some b => ((tget s.wel.bufs b).map fun x => x.psn.contains (a / 64)).getD false
    | none => false
  else sp == 1 && s.mpr.dramPsn.contains (a / 64)

/-- A byte of a source space; the cistern's regions other than the event log have no byte image in this model: a free value. -/
def srcByte (s : State) (sp a i : Nat) : Byte :=
  if sp = 0 then mget 0 s.wel.mem a
  else if sp = 1 then mget 0 s.pmp.dram a
  else if sp = 2 then (cisternByte s a).getD (Config.freeByte (s.free + i))
  else if sp = 3 then (if execOnly s a then 0 else storeByte s a)
  else mget 0 s.cam.mem (0x02000000 + a)

/-- Store bytes to a destination space. -/
def dstStore (sp a : Nat) (bs : List Byte) (s : State) : State :=
  if sp = 0 then onWel (fun w => { w with mem := mwrite 0 w.mem a bs }) s
  else if sp = 1 then onPmp (fun p => { p with dram := mwrite 0 p.dram a bs }) s
  else memStore (0x02000000 + a) bs s

/-- Mark a destination line poisoned. -/
def markPsn (sp a : Nat) (s : State) : State :=
  if sp = 0 then match bufAtAddr s a with
    | some b => onWel (fun w => { w with bufs := tmod w.bufs b fun x =>
        { x with psn := if x.psn.contains (a / 64) then x.psn else x.psn ++ [a / 64] } }) s
    | none => s
  else if sp = 1 then onMpr (fun m => { m with dramPsn := if m.dramPsn.contains (a / 64) then m.dramPsn else m.dramPsn ++ [a / 64] }) s
  else s

/-- The bytes of a burst that are poisoned at the source. -/
def burstPsn (s : State) (p : Pump) (i : Nat) : List Nat :=
  (upFrom (burstOff p i) (burstLen p i)).filter fun o => psnAt s (srcSp p.ctl) (srcAddr p + o)

/-- A burst meets no bus error: no line in a FREE buffer (R323), a bank in service for the cistern, no pulse in the wellhead store, no poison toward the trough
(R329). -/
def burstClean (s : State) (p : Pump) (i : Nat) : Bool :=
  let os := upFrom (burstOff p i) (burstLen p i)
  !(srcSp p.ctl == 0 && os.any fun o => welFreeAt s (srcAddr p + o)) && !(dstSp p.ctl == 0 && os.any fun o => welFreeAt s (dstAddr p + o)) &&
    !(srcSp p.ctl == 2 && shadowOnly s) && !(srcSp p.ctl == 3 && pulsing s) && (dstSp p.ctl != 4 || (burstPsn s p i).isEmpty)

/-- A burst is outstanding: issued, neither acknowledged nor waiting for its retry. -/
def burstOpen (p : Pump) (i : Nat) : Bool :=
  p.busy && decide (i < p.issued) && !p.acked.contains i && !p.failed.contains i && decide (p.done ≤ burstOff p i)

/-- Burst number of a byte offset that begins one. -/
def burstAt (p : Pump) (o : Nat) : Nat := if o = 0 then 0 else (dstAddr p + o) / 256 - dstAddr p / 256

/-- PMP_DONE moves over the acknowledged prefix; `fuel` bounds the bursts. -/
def ackPrefix : Nat → Pump → Pump
  | 0, p => p
  | fuel + 1, p =>
    let i := burstAt p p.done
    if p.acked.contains i then ackPrefix fuel { p with done := burstOff p (i + 1), acked := p.acked.erase i } else p

/-- The final reply of a PUMP_START run, R332. -/
def endPump (k status : Nat) (s : State) : State :=
  let p := pumpAt s k
  setPump k { pumpAt s k with op := none }
    (endOpt p.op status (if status = 3 then [] else [pumpStsW p, lo32 p.done]) s)

/-- Destination bytes beyond PMP_DONE are unspecified after a halt or an abort (R330). -/
def losePast (p : Pump) (s : State) : State :=
  let n := p.cnt - p.done
  let s1 := dstStore (dstSp p.ctl) (dstAddr p + p.done) ((upFrom s.free n).map Config.freeByte) s
  { s1 with free := s1.free + n }

/-- A channel has halted, R330. -/
def haltNow (k err : Nat) (s : State) : State :=
  let p := pumpAt s k
  let s1 := losePast p (setPump k { p with busy := false, halt := true, err, acked := [], failed := [], tries := [], stopping := none } s)
  pumpSlots (endPump k 0x0703 (raiseSrc (286 + k) (pmpEvent (16 + k) s1)))

/-- A run has been aborted, R331: as a halt, with ABORTED set and HALT and ERR 0; END tells the end of the run (DEDUCED), and a PUMP_START
run ends with 0x0003. -/
def abortNow (k : Nat) (s : State) : State :=
  let p := pumpAt s k
  let s1 := losePast p (setPump k { p with busy := false, aborted := true, acked := [], failed := [], tries := [], stopping := none } s)
  pumpSlots (endPump k 3 (pmpEvent k s1))

/-- A run that stops ends when no burst is outstanding. -/
def endStop (k : Nat) (s : State) : State :=
  let p := pumpAt s k
  match p.stopping with
  | some e => if outstanding p ≠ 0 then s else if e = 0 then abortNow k s else haltNow k e s
  | none => s

/-- A burst of a channel has failed for good, R330: no further burst is issued, and the channel halts when its outstanding bursts have ended, with the
code of the last failure. A run that is being aborted stays so. -/
def haltPump (k idx err : Nat) (s : State) : State :=
  let p := pumpAt s k
  endStop k (pumpSlots (setPump k { p with failed := p.failed ++ [idx], stopping := some (if p.stopping = some 0 then 0 else err) } s))

/-- A run is aborted, R331: it stops in the same way as a halt. -/
def abortPump (k : Nat) (s : State) : State :=
  let p := pumpAt s k
  if !p.busy || p.stopping.isSome then s else endStop k (pumpSlots (setPump k { p with stopping := some 0 } s))

/-- PMP_ABORT, R331. -/
def execPmpAbort (ch : Nat) (s : State) : Res := .next (if pumpUp s then abortPump ch s else s)

/-- BURST_ACK, R328, R329: a burst's bytes are in the destination, with their poison marks; the last one ends the run (R331). -/
def execBurstAck (ch idx : Nat) (s : State) : Res :=
  let p := pumpAt s ch
  .next (
    if !pumpUp s || !burstOpen p idx || !burstClean s p idx then s
    else
      let n := burstLen p idx
      let o := burstOff p idx
      let bs := (List.range n).map fun i => srcByte s (srcSp p.ctl) (srcAddr p + o + i) i
      let s1 := dstStore (dstSp p.ctl) (dstAddr p + o) bs (if srcSp p.ctl = 2 then { s with free := s.free + n } else s)
      let s2 := forEach (burstPsn s p idx) (fun x s => markPsn (dstSp p.ctl) (dstAddr p + x) s) s1
      let s3 := if srcSp p.ctl == 3 && (upFrom (srcAddr p + o) n).any (execOnly s) then xoRead s2 else s2
      let p1 := ackPrefix (burstCount p) { p with acked := p.acked ++ [idx] }
      if p.stopping.isSome then endStop ch (setPump ch p1 s3)
      else if p1.done < p.cnt then pumpSlots (setPump ch p1 s3)
      else pumpSlots (endPump ch 0 (pmpEvent ch (setPump ch { p1 with busy := false, ok := true } s3))))

/-- A burst reads or writes a line in a FREE buffer. -/
def burstFree (s : State) (p : Pump) (i : Nat) : Bool :=
  (upFrom (burstOff p i) (burstLen p i)).any fun o =>
    (srcSp p.ctl == 0 && welFreeAt s (srcAddr p + o)) || (dstSp p.ctl == 0 && welFreeAt s (dstAddr p + o))

/-- BURST_ERROR, R329, R330: a burst meets a bus error and waits for its retry; after its last retry, or for poison toward the
trough, the channel halts. An error response for a line in a FREE buffer sets UNALLOC (R323). -/
def execBurstError (ch idx : Nat) (e : BurstErr) (s : State) : Res :=
  let p := pumpAt s ch
  let mark (s1 : State) : State := if e = .response && burstFree s p idx then raiseSrc 283 (evt .welEvt 7 s1) else s1
  .next (
    if !pumpUp s || !burstOpen p idx || (e == .poison && (dstSp p.ctl != 4 || (burstPsn s p idx).isEmpty)) ||
        (e == .busy && srcSp p.ctl != 3) then s
    else if e = .poison ∨ p.stopping.isSome ∨ fld p.retry 0 3 ≤ tgetD p.tries idx 0 then haltPump ch idx (burstCode e) (mark s)
    else pumpSlots (setPump ch { p with failed := p.failed ++ [idx] } (mark s)))

/-- BURST_RETRY, R330: after PMP_RETRY.WAIT the whole burst is issued again. -/
def execBurstRetry (ch idx : Nat) (s : State) : Res :=
  let p := pumpAt s ch
  .next (
    if !pumpUp s || !p.busy || p.stopping.isSome || !p.failed.contains idx then s
    else setPump ch { p with failed := p.failed.erase idx, retries := p.retries + 1, tries := tupd p.tries idx 0 (· + 1) } s)

/-! ## Registers and opcodes -/

/-- A host write of a management channel's register, R325, R331: ignored for channels 0 to 11, and while the channel is BUSY but for
ABORT. ABORT has nothing to stop on an idle channel, where the other fields are stored; with GO it starts nothing (DEDUCED, log entry 38). -/
def writePump (k : Nat) (r : RegId) (v : Word) (s : State) : State :=
  let p := pumpAt s k
  if k < 12 then s
  else if p.busy then (if r = .pmpCtl ∧ bitOf v 30 then abortPump k s else s)
  else match r with
    | .pmpSrc => setPump k { p with src := v } s
    | .pmpDst => setPump k { p with dst := v } s
    | .pmpCnt => setPump k { p with cnt := fld v 0 28 } s
    | .pmpRetry => setPump k { p with retry := v &&& 0x0000FF07 } s
    | .pmpCtl => if bitOf v 31 && !bitOf v 30 then startRun k v none s else setPump k { p with ctl := v &&& 0x3FF77000 } s
    | _ => s

/-- PMP_GO, R325, R327. A control sequencer's channel is given its own source, destination and count with GO; a management channel
runs with what its registers hold. -/
def execPmpGo (ch : Nat) (ctl src dst : Word) (cnt : Nat) (s : State) : Res :=
  .next (
    if !pumpUp s || decide (16 ≤ ch) then s
    else if 12 ≤ ch then writePump ch .pmpCtl (ctl ||| 0x80000000) s
    else if bitOf ctl 30 || (pumpAt s ch).busy then s
    else startRun ch ctl none (setPump ch { pumpAt s ch with src, dst, cnt := cnt % 2 ^ 28 } s))

/-- The channel image a PUMP_START request loads. -/
def pumpOf (s : State) (r : CamReq) : Pump :=
  { pumpAt s (rqTgt r) with src := rqW r 2, dst := rqW r 3, cnt := fld (rqW r 4) 0 28, ctl := rqW r 5 &&& 0x3FF77000 }

/-- A trough address of a sideband request lies in the sideband slots, R332. -/
def sideTroughOk (r : CamReq) (p : Pump) : Bool :=
  let ok (sp a : Nat) := sp != 4 || (decide (0x3F00000 ≤ a) && decide (a + p.cnt ≤ 0x4000000))
  r.src != 8 || (ok (srcSp p.ctl) (srcAddr p) && ok (dstSp p.ctl) (dstAddr p))

/-- PUMP_START, R332: a long operation. -/
def execPumpStart (src : Nat) (s : State) : Res :=
  .next (serve src 0x0710 (fun _ => true)
    (fun s r =>
      let p := pumpOf s r
      if rqW r 5 &&& 0xC0000000 ≠ 0 then some (badField 5 (rqW r 5 &&& 0xC0000000))
      else if (pumpAt s (rqTgt r)).busy then some (0x0701, [])
      else match runErr s (rqTgt r) p with
        | some e => some (0x0702, [lo32 e])
        | none => if sideTroughOk r p then none else some (0x0702, [4]))
    (fun r h s => (startRun (rqTgt r) (rqW r 5) (some h) (setPump (rqTgt r) (pumpOf s r) s), {})) s)

/-- PUMP_STATUS. -/
def execPumpStatus (src : Nat) (s : State) : Res :=
  .next (serveRead src 0x0711 (fun s r => (0, [regValue s .pmpSts (rqTgt r), regValue s .pmpDone (rqTgt r),
    regValue s .pmpCtl (rqTgt r)])) s)

end Sys2Proof.Machine
end

