-- ==== Sys2Proof/Machine/Upd.lean ====
section
/-! DEFINITION. The wellhead store and firmware update (R404 to R432): pulses and suspends, staging, commits, warm activation, trial
and fallback, profiles, and NVM Subsystem Reset. -/

namespace Sys2Proof.Machine

/-! ## Images and profiles -/

def slotAt (s : State) (k : Nat) : Slot := tgetD s.upd.slots k {}
def setSlot (k : Nat) (x : Slot) (s : State) : State := onUpd (fun u => { u with slots := tset u.slots k x }) s

/-- Change the slot directory: a new record of the next generation, R414. -/
def putDir (f : Upd → Upd) (s : State) : State := onUpd (fun u => { f u with dirGen := u.dirGen + 1 }) s

/-- A signature fails, R440. -/
def sigFail (s : State) : State := raiseSrc 305 (evt .secEvt 0 s)

/-- The part of R413 that a commit checks: header and CRC, R418. -/
def headerOk (i : Image) : Bool := i.magicOk && i.partOk && i.crcOk && decide (i.textLen ≤ 6 * 2 ^ 20)

/-- An image verifies, R413. -/
def imageOk (s : State) (i : Image) : Bool :=
  headerOk i && i.signOk && decide (s.sec.svn ≤ i.svn) && (i.cstFmt == s.cst.layout || i.cstFmt == s.cst.layout + 1)

/-- The value a profile loads into a register repeat; the reset value where it gives none. -/
def profReg (p : Profile) (r : RegId) (i : Nat := 0) : Word :=
  ((p.regs.find? fun x => x.1 == (regDef r).addrOf i).map (·.2)).getD (regDef r).reset

/-- The limits of this manual on a profile's wells: R315 (shares sum to 64 MiB), R319 (floors of at least 4 MiB, none for an absent
pool), R320 (reserves of at most 32 MiB). -/
def profWells (p : Profile) : Bool :=
  let sized := bitOf (profReg p .welCfg) 0
  let share (q : Nat) := fld (profReg p .welPoolCfg) (8 * q) 8
  let flr (q : Nat) := fld (profReg p .welFloor) (8 * q) 8
  let sum (f : Nat → Nat) (n : Nat) := (List.range n).foldl (fun a q => a + f q) 0
  (!sized || sum share 4 == 64) && decide (64 ≤ sum flr 4) &&
    ((List.range 4).all fun q => flr q == 0 || (if sized then share q != 0 else q == 1)) &&
    decide (sum (fun r => fld (profReg p .welRqCfg r) 0 10) 64 ≤ 512)

/-- R74 to R76: a configuration of Table 4-1; the PR role on HP3 as a x4 link or on HP2+HP3 as a x8 link; at most one partner-facing link,
neither the PR link nor the x16 link. A profile may name a x8 PR link by bit 2 alone or by bits 2 and 3 of ROLE, and HPC_CFG reports what it
names (DESIGN CHOICE, log entry 53). -/
def profPorts (p : Profile) : Bool :=
  let own (n : Nat) : Bool := match p.merge with
    | 1 => n != 1
    | 2 => n != 3
    | 3 => n == 0 || n == 2
    | 4 => n == 0
    | _ => true
  decide (p.merge ≤ 4) && decide (p.timePort < 4) &&
    (p.role == 0 || (decide (p.merge ≤ 1) && p.role == 8) || ((p.merge == 2 || p.merge == 3) && (p.role == 4 || p.role == 12))) &&
    (p.pface == 0 || (p.merge != 4 && (List.range 4).any fun n => p.pface == 2 ^ n && own n && !p.role.testBit n))

/-- Codeword bytes N of a code rate, Table 10-2. -/
def rateBytes (i : Nat) : Nat := ([4432, 4512, 4592, 4640, 4720, 4800] : List Nat).getD i 65536

/-- The program sequence programs every page group of a native block (R216). -/
def profSeq (p : Profile) : Bool := p.seq.all (fun g => decide (g < p.steps)) && (List.range p.steps).all fun g => p.seq == [] || p.seq.contains g

/-- R206, R230, R238: interface, the steps of its rate ladder from the profile's rate down, planes, page size, erase suspend and trainings within Table 9-1, 1 to 4 native code rates, every assigned rate
usable, and as many frames on a plane page in SLC mode as R173 counts (DEDUCED, log entry 31: R238 gives every plane page Q frames). -/
def profNand (p : Profile) : Bool :=
  decide (1 ≤ p.planes) && decide (p.planes ≤ 4) && decide (p.pageMain ≤ 16384) && p.suspSeq && p.trainings.all (fun t => decide (t < 4)) &&
    profSeq p && p.qSlc == p.q &&
  (p.iface == 1 || p.iface == 2) && !p.rates.isEmpty && p.rates.isSuffixOf (if p.iface = 1 then [16, 12, 8] else [48, 36, 24]) &&
    p.dies.all (fun d => decide (d < 512)) && !p.rateBands.isEmpty && decide (p.rateBands.length ≤ 4) &&
    decide (p.qSlc * (rateBytes p.rateSlc + 16) ≤ p.pageBytes) &&
    p.rateBands.all fun b => decide (p.q * (rateBytes b.2 + 16) ≤ p.pageBytes)

/-- R266: widths of 8 to 32 and at least W + 1 fitted dies in every domain. -/
def profDomains (p : Profile) : Bool :=
  (List.range 4).all fun d =>
    let w := p.width.getD d 16
    decide (8 ≤ w) && decide (w ≤ 32) && decide (w + 1 ≤ (p.dies.filter fun k => dieDom k == d).length)

/-- R303: a spill block holds the ceil(64 ÷ S) spill pages of a die, S = 4 × Q_SLC. -/
def profSpill (p : Profile) : Bool := decide (0 < p.qSlc) && decide (ceilDiv 64 (4 * p.qSlc) ≤ p.slcSteps)

/-- R391, R394: no cost above MIN_POOL, MIN_POOL at most 1,200, and a hold-up pool for one PROGRAM of the costliest kind on every
fitted die. -/
def profPower (p : Profile) : Bool :=
  let pool := fld (profReg p .pwrCfg) 0 16
  let costs (k : Nat) := (p.tokens.filter fun e => e.1 / 8 == k).map (·.2)
  decide (pool ≤ 1200) && p.tokens.all (fun e => decide (e.2 ≤ min 255 pool)) &&
    decide ((costs 2).foldl max 0 * p.dies.length ≤ p.holdupPool)

/-- A profile keeps this manual's limits, R430. -/
def profLimits (p : Profile) : Bool := profWells p && profPorts p && profNand p && profDomains p && profSpill p && profPower p

/-- A profile verifies, R430, R439. -/
def profileOk (s : State) (p : Profile) : Bool :=
  p.signOk && (p.keyIndex == 1 || (p.keyIndex == 0 && !s.sec.revoked0)) && decide (p.bytes ≤ 4 * 2 ^ 20) && profLimits p

/-! ## Pulses, R405 to R411 -/

/-- First block of a slot, and its blocks. -/
def slotBlock (k : Nat) : Nat := match k with | 1 => 4 | 2 => 100 | 3 => 196 | _ => 212
def slotBlocks (k : Nat) : Nat := if k ≤ 2 then 96 else 16

def modWBlk (b : Nat) (f : WBlk → WBlk) (s : State) : State := onWhs (fun w => { w with blks := tupd w.blks b {} f }) s

/-- Remove a wellhead block's erase-in-doubt entry. -/
def clearDoubt (b : Nat) (s : State) : State := onCst (fun c => { c with doubt := c.doubt.filter fun d => !(d.1 == 512 && d.2.1 == b) }) s

/-- No new pulse starts: brown-out, HOLDUP (R411). -/
def pulseHeld (s : State) : Bool := s.whs.brown || s.sys.mode == .holdup || s.sys.mode == .dormant

/-- Start the next pulse of the running job: an erase, once its erase-in-doubt entry is durable (R410), or the next page; with no page left to
program in the slot the program is refused (R409). -/
def nextPulse (s : State) : State :=
  match s.upd.job with
  | none => s
  | some j =>
    if s.whs.op ≠ 0 || pulseHeld s then s
    else if 0 < s.whs.eraseLeft then
      if shadowOnly s then s
      else
        let b := slotBlock j.slot + slotBlocks j.slot - s.whs.eraseLeft
        let ec := (tgetD s.whs.blks b {}).ec + 1
        onWhs (fun w => { w with op := 2, block := b, page := 0, susp := 0, runT := s.pwr.tb })
          (modWBlk b (fun x => { x with ec }) (onCst (fun c => { c with doubt := c.doubt ++ [(512, b, ec)] }) (clearDoubt b s)))
    else if 0 < s.whs.progLeft then
      match (upFrom (slotBlock j.slot) (slotBlocks j.slot)).find? fun b => decide ((tgetD s.whs.blks b {}).next < 512) with
      | some b => onWhs (fun w => { w with op := 1, block := b, page := (tgetD w.blks b {}).next }) s
      | none => evt .whsEvt 2 s
    else s

/-- A job begins: its slot is erased and programmed page by page. -/
def startJob (j : UpdJob) (pages : Nat) (s : State) : State :=
  nextPulse (onWhs (fun w => { w with eraseLeft := slotBlocks j.slot, progLeft := pages })
    (putDir (fun u => { u with job := some j, slots := tset u.slots j.slot {} }) s))

/-- A job ends with an NVMe status or a Cament result. -/
def endJob (j : UpdJob) (sc : Sc) (status : Nat) (detail : State → List Word) (s : State) : State :=
  let s1 := onUpd (fun u => { u with job := none }) (onWhs (fun w => { w with eraseLeft := 0, progLeft := 0 }) s)
  let s2 := match j.tag with | some t => post t sc 0 s1 | none => s1
  endOpt j.op status (detail s2) s2

/-- UPD_STS as a reply word. -/
def updW (s : State) : List Word := [regValue s .updSts 0]

/-- The last page of a job has verified (R418, R430). -/
def finishJob (j : UpdJob) (s : State) : State :=
  if j.kind = 1 then
    match j.prof with
    | none => endJob j .success 0x0201 (fun _ => []) s
    | some p =>
      if profileOk s p then
        let s1 := putDir (fun u => { u with slots := tset u.slots j.slot { st := 2, prof := some p } }) s
        let s2 := if p.keyIndex = 1 ∧ p.revoke0 then onSec (fun x => { x with revoked0 := true }) s1 else s1
        endJob j .success 0 (fun _ => [lo32 p.format]) s2
      else endJob j .success 0x0201 (fun _ => []) (if profileOk s { p with signOk := true, keyIndex := 1 } then sigFail s else s)
  else
    let s1 := putDir (fun u => { u with slots := tset u.slots j.slot { st := 1, img := j.img } }) s
    let s2 := if j.act = 1 then putDir (fun u => { u with nextImg := j.slot, st := 1 }) s1 else s1
    endJob j .success 0 updW s2

/-- A pulse of a job failed: FAIL, source 343; the job is abandoned. -/
def failJob (s : State) : State :=
  let s1 := raiseSrc 343 (evt .whsEvt 4 s)
  match s1.upd.job with
  | none => s1
  | some j =>
    if j.kind = 1 then endJob j .internalError 0x0201 (fun _ => []) s1
    else endJob j .internalError 0x0020 (fun s => [lo32 (s.cst.evSeq - 1)]) (logGroup 0x0A s1)

/-- WHS_OPERATION_COMPLETE, R405, R409: a pulse ends and is verified; the next one starts. -/
def execWhsOperationComplete (ok : Bool) (s : State) : Res := onSeq 10 s <|
  .next (
    if !pulsing s || s.sys.mode == .dormant then s
    else
      let b := s.whs.block
      let idle (s : State) := onWhs (fun w => { w with op := 0 }) s
      if !ok then failJob (idle s)
      else if s.whs.op = 2 then
        nextPulse (onWhs (fun w => { w with eraseLeft := w.eraseLeft - 1 })
          (modWBlk b (fun x => { x with next := 0 }) (clearDoubt b (idle s))))
      else
        let s1 := modWBlk b (fun x => { x with next := x.next + 1, gen := if x.next = 0 then s.free else x.gen }) (drawn (idle s))
        let s2 := onWhs (fun w => { w with progLeft := w.progLeft - 1 }) s1
        if s2.whs.progLeft = 0 then match s2.upd.job with
          | some j => finishJob j s2
          | none => s2
        else nextPulse s2)

/-- Something waits to read the store: WHS_READ, or a pump that met the busy answer. -/
def storeWanted (s : State) : Bool := !s.whs.readWait.isEmpty || (tvals s.pmp.ch).any fun p => p.busy && srcSp p.ctl == 3 && !p.failed.isEmpty

/-- WHS_SUSPEND_DUE, R408: a read waits and the erase has run 1 ms since it started or last resumed. -/
def execWhsSuspendDue (s : State) : Res :=
  let m := rfld s .whsCfg 0 4
  .next (
    if s.whs.op ≠ 2 ∨ !storeWanted s ∨ m ≤ s.whs.susp ∨ s.pwr.tb < s.whs.runT + 1000000 ∨ s.sys.mode = .dormant then s
    else
      let s1 := onWhs (fun w => { w with op := 3, susp := w.susp + 1, suspT := s.pwr.tb }) s
      if s1.whs.susp = m then evt .whsEvt 1 s1 else s1)

/-- WHS_RESUME, R408: nothing waits, or 20 ms have passed since the suspension. -/
def execWhsResume (s : State) : Res :=
  .next (
    if s.whs.op ≠ 3 || pulseHeld s || (storeWanted s && decide (s.pwr.tb < s.whs.suspT + 20000000)) then s
    else onWhs (fun w => { w with op := 2, runT := s.pwr.tb }) s)

/-- An erase pulse is ended at its current sub-pulse (R411): its block stays on the erase-in-doubt list. -/
def endErasePulse (s : State) : State := if s.whs.op = 2 ∨ s.whs.op = 3 then onWhs (fun w => { w with op := 0 }) s else s

/-- BROWNOUT, R411. -/
def execBrownout (s : State) : Res :=
  .next (if s.whs.brown ∨ s.sys.mode = .dormant then s
    else raiseSrc 344 (evt .whsEvt 3 (endErasePulse (onWhs (fun w => { w with brown := true }) s))))

/-- BROWNOUT_RECOVERY, R411: 10 ms after the supply has recovered pulses resume, except in HOLDUP. -/
def execBrownoutRecovery (s : State) : Res :=
  .next (if !s.whs.brown ∨ s.sys.mode = .dormant then s else nextPulse (onWhs (fun w => { w with brown := false }) s))

/-- EXECUTE_ONLY_READ, R406. -/
def execExecuteOnlyRead (addr : Nat) (s : State) : Res := .next (if execOnly s addr && s.sys.mode != .dormant then xoRead s else s)

/-! ## Refusals, Table 17-6 -/

/-- The device mode refuses (Table 2-3); a held boot serves what leaves the hold (R43, R429). -/
def modeRefuses (s : State) (prof : Bool) : Bool := match s.sys.mode with
  | .boot => !(s.sys.hold && (if prof then s.sys.holdWhy == 1 || s.sys.holdWhy == 2 else s.sys.holdWhy == 6))
  | .degraded | .sanitize | .holdup | .standpipe | .dormant => true
  | .operational | .writeProtected | .offline | .factory => false

/-- Reasons 0x1 to 0x7, in the order of the table. -/
def refusal17 (s : State) (prof : Bool) : Option Nat :=
  if modeRefuses s prof then some 1
  else if s.sec.lock then some 5
  else if anyDom s .rebuilding then some 2
  else if sanOpen s then some 3
  else if !s.pwr.huRdy then some 4
  else if s.upd.st = 3 || s.upd.job.isSome then some 6
  else if shadowOnly s then some 7
  else none

/-- A profile format lies in an image's range, R431. -/
def fmtIn (i : Image) (p : Profile) : Bool := decide (i.prfMin ≤ p.format) && decide (p.format ≤ i.prfMax)

/-- The active profile slot, 3 or 4, and the other. -/
def actPrfSlot (s : State) : Nat := 2 + s.upd.actPrf

/-- Whether an image has a profile to run with: the active one, or a verified one in the other slot (R431). -/
def profileFor (s : State) (i : Image) : Bool :=
  ((slotAt s (actPrfSlot s)).prof.any (fmtIn i)) ||
    ((slotAt s (7 - actPrfSlot s)).st == 2 && (slotAt s (7 - actPrfSlot s)).prof.any (fmtIn i))

/-- What R423, R431 and R446 ask of an image at its commit. -/
def imageBarred (s : State) (i : Image) : Bool :=
  let h := ((slotAt s s.upd.actImg).img.map (·.hndFmt)).getD 1
  decide (h + 1 < i.hndFmt) || decide (i.svn < s.sec.svn) || !profileFor s i

/-- Reason 0x8 for a slot, an action and the image it concerns. -/
def reason8 (s : State) (slot ca : Nat) (i : Option Image) : Bool :=
  slot == s.upd.actImg || (s.upd.trial != 0 && slot == s.upd.prevImg) ||
    (decide (2 ≤ ca) && (slotAt s slot).st != 1 && (slotAt s slot).st != 2) || i.any (imageBarred s)

/-- Why a commit is refused, R419; `img` is the staged image's header. -/
def commitRefusal (s : State) (who slot ca : Nat) (img : Image) : Option Nat :=
  (refusal17 s false).or (
    if reason8 s slot ca (if ca < 2 then some img else (slotAt s slot).img) then some 8
    else if ca < 2 ∧ s.upd.owner.isSome ∧ s.upd.owner ≠ some who then some 9
    else none)

/-- The slot a commit names: 0 is the one that is not active, for actions 000b and 001b. -/
def commitSlot (s : State) (fs ca : Nat) : Nat := if fs = 0 ∧ ca < 2 then 3 - s.upd.actImg else fs

/-- Staged bytes and the end of the last fragment. -/
def stagedBytes (s : State) : Nat := s.upd.frags.foldl (fun a f => a + f.2) 0
def stagedEnd (s : State) : Nat := s.upd.frags.foldl (fun a f => max a (f.1 + f.2)) 0

/-- Fragments overlap. -/
def fragsOverlap : List (Nat × Nat) → Bool
  | [] => false
  | f :: l => l.any (spansMeet f) || fragsOverlap l

/-- What R418 finds in the staged image. -/
def stagedCheck (s : State) (img : Image) : Option Sc :=
  if s.upd.frags.isEmpty then some .invalidFwImage
  else if fragsOverlap s.upd.frags then some .overlappingRange
  else if stagedBytes s ≠ stagedEnd s || !headerOk img then some .invalidFwImage
  else none

/-- Release the staging buffer, R415. -/
def unstage (s : State) : State := onUpd (fun u => { u with owner := none, frags := [] }) s

/-- A commit that was not refused (Table 17-5): `j` says who waits for it. -/
def commit (slot ca : Nat) (img : Image) (j : UpdJob) (s : State) : State :=
  if ca < 2 then
    let pages := ceilDiv (stagedEnd s) 512
    match stagedCheck s img with
    | some sc => unstage (endJob j sc 0x0A10 (fun _ => []) s)
    | none => startJob { j with kind := 0, slot, act := ca, img := some img } pages (unstage s)
  else if ca = 2 then endJob j .success 0 updW (putDir (fun u => { u with nextImg := slot, st := 1 }) s)
  else onUpd (fun u => { u with st := 2, job := some { j with kind := 2, slot, act := 3 } }) s

/-! ## NVMe commands -/

/-- A command is refused by Table 17-6: Firmware Activation Prohibited, with the reason in its Error Information entry; DNR is 1 for reasons 0x5 and
0x8 (Table 5-19). -/
def prohibit (k : Nat) (t : Tag) (why : Nat) (s : State) : State :=
  postDnr k .fwProhibited (why == 5 || why == 8) 0 0 (logErr t.ctrl { sqid := 0, cid := cidOf t.ent, status := .fwProhibited, vendor := why }
    (onUpd (fun u => { u with reason := why }) s))

/-- FIRMWARE_COMMIT, R417 to R419. `img` is the header of the staged image. -/
def execFirmwareCommit (tag : Nat) (img : Image) (s : State) : Res :=
  .next (admin tag 0x10 (fun t s =>
    let fs := fld (cdw t.ent 10) 0 3
    let ca := fld (cdw t.ent 10) 3 3
    if s.upd.job.any fun j => j.tag == some tag then s
    else if 3 < ca then post tag .invalidField 0 s
    else if 2 < fs ∨ (fs = 0 ∧ 2 ≤ ca) then post tag .invalidFwSlot 0 s
    else match commitRefusal s t.ctrl (commitSlot s fs ca) ca img with
      | some w => prohibit tag t w s
      | none => commit (commitSlot s fs ca) ca img { kind := 0, slot := 0, tag := some tag } s) s)

/-- Take a fragment into the staging buffer, evicting pages of the map cache when the buffer is first claimed. -/
def stage (who off n : Nat) (s : State) : State :=
  let s1 := onUpd (fun u => { u with owner := some who, frags := u.frags ++ [(off, n)] }) s
  fitCache s1

/-- FIRMWARE_IMAGE_DOWNLOAD, R415. -/
def execFirmwareImageDownload (tag : Nat) (s : State) : Res :=
  .next (admin tag 0x11 (fun t s =>
    let n := 4 * ((cdw t.ent 10).toNat + 1)
    let off := 4 * (cdw t.ent 11).toNat
    if n % 4096 ≠ 0 ∨ off % 4096 ≠ 0 ∨ 24 * 2 ^ 20 < off + n then post tag .invalidField 0 s
    else match refusal17 s false with
      | some w => prohibit tag t w s
      | none =>
        if s.upd.owner.isSome ∧ s.upd.owner ≠ some t.ctrl then post tag .sequenceError 0 s
        else post tag .success 0 (stage t.ctrl off n s)) s)

/-- STAGING_TIMEOUT, R415: 10 minutes without a fragment. -/
def execStagingTimeout (s : State) : Res := .next (if s.upd.owner.isSome then unstage s else s)

/-! ## Warm activation, trial and fallback -/

/-- An image fails R413 at its boot: VERIFY_FAIL and source 345, and the signature's own report. -/
def verifyFails (i : Option Image) (s : State) : State :=
  let s1 := raiseSrc 345 (evt .updEvt 1 s)
  if i.any fun x => !x.signOk then sigFail s1 else s1

/-- Steps 3 to 5 of Table 17-7: CSTS.PP is set and cleared, the notice is sent, ladder steps 3 and 4 restart at step 2 (R422), and
the measurement of the running image is taken again (R442). -/
def switchBanks (s : State) : State :=
  let s1 := sendAll .fwActivationStarting s
  let s2 := forEach s1.sre.ladders (fun l s => if l.step = 3 ∨ l.step = 4 then restartAt2 l.cw s else s) s1
  drawn (onSec (fun x => { x with measures := Config.freeNat s2.free :: x.measures.take 2 }) s2)

/-- TRIAL_S as it acts. -/
def trialLen (s : State) : Nat := max 10 (min 60 (rfld s .updCfg 0 6))

/-- The directory and the profile after a switch to a slot (step 6, R431). -/
def activate (slot : Nat) (i : Image) (s : State) : State :=
  let keep := (slotAt s (actPrfSlot s)).prof.any (fmtIn i)
  let other := (slotAt s (7 - actPrfSlot s)).prof
  let s1 := putDir (fun u =>
    { u with prevImg := u.actImg, actImg := slot, trial := slot, tries := 0, nextImg := if u.nextImg = slot then 0 else u.nextImg,
             st := 3, trialS := trialLen s, switchT := s.pwr.tb, prevPrf := u.actPrf,
             actPrf := if keep then u.actPrf else 3 - u.actPrf, prfPend := u.prfPend || !keep }) s
  evt .updEvt 0 (if keep then s1 else match other with | some p => { s1 with prof := p } | none => s1)

/-- WARM_ACTIVATION_SWITCH, R421, R422: the image has been loaded and its boot checked (`verifyOk`: nothing but R413 failed); with
the sequencers' pumps idle the banks are switched. -/
def execWarmActivationSwitch (verifyOk : Bool) (s : State) : Res := onSeq 10 s <|
  .next (match s.upd.job with
    | none => s
    | some j =>
      if j.kind ≠ 2 || !s.sys.mode.serving || (List.range 12).any fun k => (pumpAt s k).busy then s
      else
        let i := (slotAt s j.slot).img
        if verifyOk && i.any (imageOk s) then
          endJob j .success 0 updW (activate j.slot (i.getD {}) (switchBanks s))
        else
          let s1 := verifyFails i (putDir (fun u =>
            { u with st := 0, nextImg := if u.nextImg = j.slot then 0 else u.nextImg,
                     slots := tset u.slots j.slot { slotAt s j.slot with st := 3 } }) s)
          endJob j .invalidFwImage 0x0A11 (fun _ => []) s1)

/-- The trial ends with the old image running, R426: the trial slot is failed and the previous slot active; the profile goes back
with it. A fallback takes a telemetry capture (R463). -/
def fallBack (s : State) : State :=
  let k := s.upd.trial
  let back := s.upd.actPrf ≠ s.upd.prevPrf
  let s1 := putDir (fun u =>
    { u with actImg := u.prevImg, trial := 0, tries := 0, st := 0, actPrf := u.prevPrf, prfPend := u.prfPend && !back,
             slots := tset u.slots k { slotAt s k with st := 3 } }) (switchBanks s)
  let s2 := if back then match (slotAt s (2 + s.upd.prevPrf)).prof with | some p => { s1 with prof := p } | none => s1 else s1
  ctrlCapture (raiseSrc 346 (evt .updEvt 3 s2))

/-- TRIAL_TIMER_EXPIRY, R426. -/
def execTrialTimerExpiry (s : State) : Res := .next (if s.upd.st = 3 && s.sys.mode.serving then fallBack s else s)

/-- REVERSE_HANDOVER_TIMEOUT, R426: the fallback of a trial whose new image cannot write its part of the reverse handover within
1 ms: islands 40 to 42 are reset and the old image restarted, or else the chip is reset with RST_CAUSE 0x5. -/
def execReverseHandoverTimeout (restartOk : Bool) (s : State) : Res :=
  .next (
    if s.upd.st ≠ 3 || !s.sys.mode.serving then s
    else
      let s1 := forEach [40, 41, 42] holdIsland (fallBack s)
      if restartOk then s1 else askReset 5 s1)

/-- UPD_CONFIRM, R424, R425: CS10 confirms the trial at least 1 s after the switch. -/
def execUpdConfirm (key : Word) (s : State) : Res := onSeq 10 s <|
  .next (
    if s.upd.st != 3 || key ≠ 0xC0F1 || decide (s.pwr.tb < s.upd.switchT + 1000000000) || !s.sys.mode.serving then s
    else
      let k := s.upd.trial
      let fmt := ((slotAt s k).img.map (·.cstFmt)).getD s.cst.layout
      let s1 := putDir (fun u => { u with trial := 0, tries := 0, st := 0, slots := tset u.slots k { slotAt s k with st := 2 } }) s
      let s2 := if fmt = s.cst.layout then s1 else onCst (fun c => { c with layout := fmt, gen := c.gen + 1 }) s1
      evt .updEvt 2 s2)

/-- Controllers that an NVM Subsystem Reset touches: those on EP links that are not partner-facing. -/
def subsysReset (s : State) : State :=
  let s1 := forEach ((tkeys s.nvq.ctrls).filter (hostCtrl s)) (fun c s => modCtrl c (fun x => { x with nssro := true }) (resetCtrl c s)) s
  let s2 := forN 4 (fun n s => if hostLink s n && (portAt s n).up then
    modPort n (fun p => { p with up := false, st := 1, width := 0, rate := 0, flit := false, cfgReady := false, ptmOut := false }) s
    else s) s1
  checkShut none (rescale s2)

/-- A pending activation that falls due, R420: it starts, or is deferred. -/
def dueActivation (s : State) : State :=
  if s.upd.nextImg = 0 then s
  else match (match refusal17 s false with
      | some 6 => some 6
      | some w => some w
      | none => if reason8 s s.upd.nextImg 2 (slotAt s s.upd.nextImg).img then some 8 else none) with
    | some 6 => s
    | some _ => evt .updEvt 4 s
    | none => onUpd (fun u => { u with st := 2, job := some { kind := 2, nssr := true, slot := u.nextImg, act := 3 } }) s

/-- NVM_SUBSYSTEM_RESET, R125, R420, R421: written on a PF. -/
def execNvmSubsystemReset (ctrl : Nat) (s : State) : Res :=
  .next (if !isPf ctrl || !thas s.nvq.ctrls ctrl || !doorbellsUp s then s else dueActivation (subsysReset (wake s)))

/-! ## Cament opcodes, Table 17-16 -/

/-- Cament status of a refusal reason, with its detail (Table 3-12). -/
def refusalStatus (s : State) (prof : Bool) (w : Nat) : Nat × List Word :=
  if w = 1 then (0x0010, [modeSts s]) else if w = 5 then (0x0011, []) else (if prof then 0x0210 + w else 0x0A00 + w, [])

/-- PROFILE_INFO. -/
def execProfileInfo (src : Nat) (s : State) : Res :=
  .next (serveRead src 0x0200 (fun s r =>
    let x := slotAt s (3 + rqTgt r)
    (0, [lo32 x.st, lo32 ((x.prof.map (·.format)).getD 0), lo32 ((x.prof.map (·.bytes)).getD 0)])) s)

/-- PROFILE_WRITE, R419, R430: a long operation; `p` is the profile the trough carries. -/
def execProfileWrite (src : Nat) (p : Profile) (s : State) : Res :=
  .next (serve src 0x0201 (fun _ => true)
    (fun s r =>
      if 4 * 2 ^ 20 < dscBytes r then some (badField 3 0x07FFFFFF)
      else ((refusal17 s true).or (if rqTgt r + 1 = s.upd.actPrf then some 8 else none)).map (refusalStatus s true))
    (fun r h s =>
      (startJob { kind := 1, slot := 3 + rqTgt r, prof := some { p with bytes := dscBytes r }, op := some h }
        (max 1 (ceilDiv (dscBytes r) 512)) s, {})) s)

/-- UPD_INFO. -/
def execUpdInfo (src : Nat) (s : State) : Res :=
  .next (serveRead src 0x0A00 (fun s _ => (0, [regValue s .updSts 0, regValue s .whsSts 0, reg s .updCfg])) s)

/-- Source number of a Cament source as owner of the staging buffer. -/
def camOwner (src : Nat) : Nat := 2000 + src

/-- IMAGE_STAGE, R416. -/
def execImageStage (src : Nat) (s : State) : Res :=
  .next (serve src 0x0A01 (fun _ => false)
    (fun s r =>
      let x := (4096 * fld (rqW r 4) 0 13, dscBytes r)
      match refusal17 s false with
      | some w => some (refusalStatus s false w)
      | none =>
        if s.upd.owner.isSome ∧ s.upd.owner ≠ some (camOwner src) then some (0x0A09, [])
        else if 24 * 2 ^ 20 < x.1 + x.2 ∨ s.upd.frags.any (spansMeet x) then some (0x0A12, [])
        else none)
    (fun r _ s =>
      let s1 := stage (camOwner src) (4096 * fld (rqW r 4) 0 13) (dscBytes r) s
      (s1, { detail := [lo32 (stagedBytes s1)] })) s)

/-- IMAGE_COMMIT, R417 to R419: a long operation; `img` is the header of the staged image. -/
def execImageCommit (src : Nat) (img : Image) (s : State) : Res :=
  .next (serve src 0x0A0A (fun _ => true)
    (fun s r =>
      let ca := fld (rqW r 2) 0 3
      let k := commitSlot s (rqTgt r) ca
      if 3 < ca then some (badField 2 4)
      else if rqTgt r = 0 ∧ 2 ≤ ca then some (0x0007, [2])
      else match commitRefusal s (camOwner src) k ca img with
        | some w => some (refusalStatus s false w)
        | none => if ca < 2 ∧ (stagedCheck s img).isSome then some (0x0A10, []) else none)
    (fun r h s =>
      let ca := fld (rqW r 2) 0 3
      (commit (commitSlot s (rqTgt r) ca) ca img { kind := 0, slot := 0, op := some h } s, {})) s)

/-- STAGE_DISCARD. -/
def execStageDiscard (src : Nat) (s : State) : Res :=
  .next (serve src 0x0A0B (fun _ => false)
    (fun s _ => if s.upd.owner.isSome ∧ s.upd.owner ≠ some (camOwner src) then some (0x0A09, []) else none)
    (fun _ _ s => (unstage s, { detail := [lo32 (stagedBytes s)] })) s)

/-- SLOT_INFO. -/
def execSlotInfo (src : Nat) (s : State) : Res :=
  .next (serveRead src 0x0A0C (fun s r =>
    let x := slotAt s (rqTgt r)
    let i := x.img.getD { cstFmt := 0, hndFmt := 0 }
    (0, [lo32 x.st, lo32 i.rev, hi32 i.rev, lo32 i.svn, pack [(16, 16, i.hndFmt), (0, 16, i.cstFmt)]])) s)

/-- WHS_READ is next for a source. -/
def whsReadNext (s : State) (src : Nat) : Bool := (nextReq s src).any fun r => rqOp r == 0x0A0D

/-- WHS_READ, R406, R407: while a pulse runs the request waits and retries. -/
def execWhsRead (src : Nat) (s : State) : Res :=
  .next (
    if pulsing s && whsReadNext s src then
      onWhs (fun w => { w with readWait := if w.readWait.contains src then w.readWait else w.readWait ++ [src] }) s
    else
      serve src 0x0A0D (fun _ => false)
        (fun _ r => if 2 ^ 26 < fld (rqW r 4) 0 26 + dscBytes r then some (badField 4 0x03FFFFFF) else none)
        (fun r _ s =>
          let as := upFrom (fld (rqW r 4) 0 26) (dscBytes r)
          let s1 := if as.any (execOnly s) then xoRead s else s
          (s1, { detail := [lo32 (dscBytes r)], data := as.map fun a => if execOnly s a then 0 else storeByte s a }))
        (onWhs (fun w => { w with readWait := w.readWait.erase src }) s))

/-- WHS_READ_BUSY_TIMEOUT, R407: a WHS_READ has waited 1 s. -/
def execWhsReadBusyTimeout (src : Nat) (s : State) : Res :=
  .next (
    if !pulsing s || !s.whs.readWait.contains src || !whsReadNext s src then s
    else serve src 0x0A0D (fun _ => false) (fun _ _ => some (0x0A20, [])) (fun _ _ s => (s, {}))
      (onWhs (fun w => { w with readWait := w.readWait.erase src }) s))

end Sys2Proof.Machine
end

