-- ==== Sys2Proof/Machine/Mpr.lean ====
section
/-! DEFINITION. Memory integrity (R334 to R354): errors of memory words and lines, merge buffers, soft repair, patrol scrub. Memory
classes are those of Table 14-7: 0 wells, 1 engine SRAM, 2 sequencer SRAM, 3 DRAM, 4 wellhead store, 5 cistern (the macro is the
bank), 6 NAND. -/

namespace Sys2Proof.Machine

/-- Row of a word: 512 rows of 16 words in a macro (the manual gives this for the wells; PRESUMED for the other SRAM), the 64-byte
line itself in DRAM (R351). -/
def rowOf (cls loc : Nat) : Nat := if cls = 3 then loc else loc % 8192 / 16

/-- MPR_LAST_ERR and MPR_ERR_LOC take an error's place (Table 14-11); the cistern and NAND have registers of their own. -/
def noteErr (ue : Bool) (cls mac loc : Nat) (s : State) : State :=
  if 5 ≤ cls then s
  else onMpr (fun m => { m with lastValid := true, lastUe := ue, lastCls := cls, lastMac := if 3 ≤ cls then 0 else mac % 2048, lastLoc := loc,
                                ce := if ue then m.ce else tupd m.ce cls 0 (· + 1), ue := if ue then tupd m.ue cls 0 (· + 1) else m.ue }) s

/-! ## Soft repair, R349 to R351 -/

/-- Spare rows a macro has left. -/
def sparesLeft (s : State) (cls mac : Nat) : Nat :=
  2 - ((s.mpr.hard ++ s.mpr.soft).filter fun r => r.cls == cls && r.mac == mac && r.kind != 2).length

/-- A repair that cannot be made: REP_FULL and source 315. -/
def repairFull (s : State) : State := raiseSrc 315 (evt .mprEvt 4 s)

/-- A row is soft-repaired: an SRAM row at once, a DRAM row by an entry that takes effect at the next chip reset. -/
def softRepair (cls mac loc : Nat) (s : State) : State :=
  let row := rowOf cls loc
  if !bitOf (reg s .mprCfg) 0 ∨ 4 ≤ cls then s
  else if s.mpr.soft.any fun r => r.cls == cls && (if cls = 3 then r.line == loc else r.mac == mac && r.row == row) then s
  else if 64 ≤ s.mpr.soft.length ∨ (cls < 3 ∧ sparesLeft s cls mac = 0) then repairFull s
  else
    let r : Repair := { kind := if cls = 3 then 2 else 1, cls, mac, row := if cls = 3 then 0 else row, line := if cls = 3 then loc else 0 }
    let s1 := onMpr (fun m => { m with soft := m.soft ++ [r], track := m.track.filter fun t => !(t.cls == cls && t.mac == mac && t.row == row) }) s
    if cls = 3 then evt .drmEvt 3 s1 else raiseSrc 324 (evt .mprEvt 3 s1)

/-- REP_THR as it acts. -/
def repThr (s : State) : Nat := orOne (rfld s .mprCfg 4 4)

/-- The tracking table takes a corrected error, R350: 32 rows, the one with the oldest first error replaced. -/
def trackErr (cls mac loc : Nat) (s : State) : State :=
  let row := rowOf cls loc
  let mine (t : Track) : Bool := t.cls == cls && t.mac == mac && t.row == row
  let l := if s.mpr.track.any mine then s.mpr.track.map fun t => if mine t then { t with count := t.count + 1 } else t
    else (if 32 ≤ s.mpr.track.length then s.mpr.track.drop 1 else s.mpr.track) ++ [({ cls := cls, mac := mac, row := row, first := s.pwr.tb } : Track)]
  let s1 := onMpr (fun m => { m with track := l }) s
  if (l.find? mine).any fun t => decide (repThr s ≤ t.count) then softRepair cls mac loc s1 else s1

/-- A corrected error, R334: counted, recorded and tracked. -/
def correctedErr (cls mac loc : Nat) (s : State) : State :=
  if cls = 5 then onCst (fun c => { c with banks := tupd c.banks mac {} fun b => { b with corr := b.corr + 1 } }) s
  else
    let s1 := evt .mprEvt 0 (noteErr false cls mac loc s)
    if cls < 4 then trackErr cls mac loc s1 else s1

/-! ## Uncorrectable errors, R339, Table 14-3 -/

/-- Mark the LBAs of the 4 KiB sector of a live well record poisoned. -/
def psnRecord (d : Option (Nat × Nat × Nat)) (s : State) : State :=
  match d with
  | none => s
  | some (ns, iu, lba) => onFte (fun f => { f with idx := f.idx.map fun r =>
      if r.ns = ns ∧ r.iu = iu ∧ r.live then
        { r with body := { r.body with psn := (List.range r.body.data.length).map fun i => r.body.psn.getD i false || i == lba } }
      else r }) s

/-- The sideband request that waits and holds slot `k` is torn: it is refused in its turn. -/
def tearSide (k : Nat) (s : State) : State :=
  let tear (r : CamReq) : CamReq := if rqTrough r && decide (rqFirst r ≤ k) && decide (k < rqFirst r + rqCount r) then { r with torn := true } else r
  let s1 := onCam (fun c => { c with side := c.side.map tear }) s
  refuseFront 8 s1.cam.side.length s1

/-- What an uncorrectable error does at the place where it lies. -/
def ueEffect (w : UeWhere) (s : State) : State :=
  match w with
  | .corrected | .other => s
  | .wellLine a d => psnRecord d (raiseSrc (278 + a / 2 ^ 24 % 4) (markPsn 0 a s))
  | .sideRecord b d =>
    psnRecord d (raiseSrc 284 (onWel (fun x => { x with bufs := tmod x.bufs b fun y =>
      { y with psn := upFrom (bufBase s b / 64) (bufBytes (b / 2 ^ 20) / 64) } }) s))
  | .dramLine a => markPsn 1 a s
  | .mapCache ns page _ =>
    askMapPage ns page (raiseSrc 198 (evt .mprEvt 9 (uncache ns page s)))
  | .dirEntry => raiseSrc 199 s
  | .blkEntry die block => blkMod die block (fun b => { b with ue := true }) s
  | .tagEntry k cqOk => raiseSrc 178 (if cqOk then post k .internalError 0 s else endCmd k s)
  | .queueCtx c q sp => raiseSrc (if sp then 185 else 179) (stopQueue c q .internalError s)
  | .ovlEntry => raiseSrc 180 (onNvq (fun n => { n with ovlFullTill := if n.tags.isEmpty then none else some (n.seq - 1) }) s)
  | .atcEntry i => raiseSrc 190 (onXlt (fun x => { x with atc := x.atc.eraseIdx i }) s)
  | .ringEntry p =>
    let r := ringAt s p
    if !r.en || r.head == r.tail || !replyRoom s p r (headReq s p) then s
    else arrive { headReq s p with torn := true } (takeEntry p (headReq s p) s)
  | .sideSlot k => tearSide k s

/-- An error found by a read, R334, R339. A mismatch of a map cache entry's check bits is not an error of the line (R347). In the
cistern the word is taken from the other bank, and a word that stays uncorrectable takes the bank out of service (R291). -/
def readErr (cls mac loc : Nat) (stuck : Bool) (w : UeWhere) (s : State) : State :=
  match w with
  | .corrected => correctedErr cls mac loc s
  | .mapCache _ _ false | .dirEntry | .blkEntry _ _ => ueEffect w s
  | _ =>
    if cls = 5 then
      let s1 := onCst (fun c => { c with banks := tupd c.banks mac {} fun b => { b with unc := b.unc + 1 } }) s
      if stuck then bankFail mac s1 else s1
    else
      let s1 := raiseSrc (317 + cls) (evt .mprEvt 1 (noteErr true cls mac loc s))
      let s2 := ueEffect w (onlyIf (cls == 3) (fun s => raiseSrc (358 + loc % 4) (evt .drmEvt 0 s)) s1)
      if stuck then softRepair cls mac loc s2 else s2

/-- The memories are powered. -/
def mprUp (s : State) : Bool := s.sys.mode.serving || s.sys.mode == .boot

/-- UNCORRECTABLE_READ: `stuck` says that the word stays uncorrectable after it is rewritten. -/
def execUncorrectableRead (cls mac loc : Nat) (stuck : Bool) (w : UeWhere) (s : State) : Res :=
  .next (if mprUp s && decide (cls < 6) && (cls != 5 || decide (mac < 2)) then readErr cls mac loc stuck w s else s)

/-! ## Merge buffers, Table 14-5, R344, R345. Memories: 0 to 3 well banks, 4 packet SRAM, 8 to 11 DRAM channels, 64 + i the engine
and sequencer SRAM of island i -/

/-- Merge buffers of a memory. -/
def mergeBufs (mem : Nat) : Nat := if mem < 4 then 16 else if mem = 4 then 32 else if 8 ≤ mem ∧ mem < 12 then 64 else 8

/-- A narrow write whose old word is uncorrectable: the merged word's line is poisoned. -/
def mergeUe (mem word : Nat) (s : State) : State :=
  if mem < 4 then readErr 0 ((mem * 2 ^ 21 + word) / 8192) (mem * 2 ^ 21 + word) false (.wellLine (mem * 2 ^ 24 + 8 * word) none) s
  else if 8 ≤ mem ∧ mem < 12 then readErr 3 0 (4 * word + (mem - 8)) false (.dramLine (64 * (4 * word + (mem - 8)))) s
  else readErr 1 0 word false .other s

/-- NARROW_WRITE: the write joins the buffer that holds its word, takes a free one, or waits. -/
def execNarrowWrite (mem word : Nat) (oldUe : Bool) (s : State) : Res :=
  let m : MergeW := { mem, word }
  .next (
    if !mprUp s then s
    else if s.mpr.merges.contains m then s
    else
      let s1 := if (s.mpr.merges.filter fun x => x.mem == mem).length < mergeBufs mem then onMpr (fun x => { x with merges := x.merges ++ [m] }) s
        else onMpr (fun x => { x with mwait := x.mwait ++ [m] }) s
      if oldUe then mergeUe mem word s1 else s1)

/-- MERGE_BUFFER_FREE: the oldest buffer of a memory is written back; the oldest waiting write of that memory takes its place. -/
def execMergeBufferFree (mem : Nat) (s : State) : Res :=
  .next (
    if !mprUp s then s
    else match s.mpr.merges.find? fun x => x.mem == mem with
      | none => s
      | some b =>
        let left := s.mpr.merges.erase b
        match s.mpr.mwait.find? fun x => x.mem == mem with
        | none => onMpr (fun x => { x with merges := left }) s
        | some w => onMpr (fun x => { x with merges := left ++ [w], mwait := (x.mwait.erase w).filter (· != w) }) s)

/-- TRACKING_ENTRY_EXPIRY, R350: 24 h after an entry's first error. -/
def execTrackingEntryExpiry (cls mac row : Nat) (s : State) : Res :=
  .next (onMpr (fun m => { m with track := m.track.filter fun t =>
    !(t.cls == cls && t.mac == mac && t.row == row && decide (t.first + dayNs ≤ s.pwr.tb)) }) s)

/-! ## Patrol scrub, R352, R353 -/

/-- A pass of NAND: codewords that ended at step 4 or 5 are relocated; one that ended at step 6 is left, with event 0x0811 and source
316. Corrected entries give the codeword and its step. Rebuilding domains are skipped. In OFFLINE the surviving dies are read (Table 2-3); an
offline domain opens no stripe, so nothing is relocated there. -/
def scrubNand (corrected : List (Nat × Nat)) (bad : List (Nat × Nat × UeWhere)) (s : State) : State :=
  let here (cw : Nat) : Bool := domSt s (dieDom (cwDie cw)) == .inService
  let read (cw : Nat) : Bool := here cw || (s.sys.mode == .offline && (dieAt s (cwDie cw)).present && !(dieAt s (cwDie cw)).failed)
  let s1 := forEach (corrected.filter fun x => here x.1 && (x.2 == 4 || x.2 == 5)) (fun x s => relocate x.1 s) s
  forEach (bad.filter fun x => read x.1) (fun x s => raiseSrc 316 (logOpen 0x0811 s)) s1

/-- The words a pass of a memory class found: corrected (macro, place), uncorrectable (macro, place, structure). -/
def scrubMem (cls : Nat) (corrected : List (Nat × Nat)) (bad : List (Nat × Nat × UeWhere)) (s : State) : State :=
  forEach bad (fun x s => readErr cls x.1 x.2.1 false x.2.2 s) (forEach corrected (fun x s => correctedErr cls x.1 x.2 s) s)

/-- SCRUB_PASS: a pass of a class ends, one that CS11 scheduled while SCRUB_EN is 1 or one that SCRUB_NOW began. -/
def execScrubPass (cls : Nat) (corrected : List (Nat × Nat)) (bad : List (Nat × Nat × UeWhere)) (s : State) : Res := onSeq 11 s <|
  .next (
    if !engines s || sanOpen s || decide (7 ≤ cls) || !(bitOf (reg s .mprCfg) 1 || s.mpr.scrub.contains cls) then s
    else
      let s1 := if cls = 6 then scrubNand corrected bad s else scrubMem cls corrected bad s
      let s2 := endOpt (tget s1.mpr.scrubOp cls) 0 [lo32 corrected.length, lo32 bad.length] s1
      onMpr (fun m => { m with scrub := m.scrub.filter (· != cls), scrubOp := terase m.scrubOp cls }) s2)

/-! ## Opcodes, Table 14-13 -/

/-- MPR_INFO. -/
def execMprInfo (src : Nat) (s : State) : Res :=
  .next (serveRead src 0x0880 (fun s _ => (0, [reg s .mprCfg, regValue s .mprSts 0, regValue s .mprLastErr 0, regValue s .mprErrLoc 0])) s)

/-- ECC_COUNTS. -/
def execEccCounts (src : Nat) (s : State) : Res :=
  .next (serveRead src 0x0881 (fun s r =>
    (0, [regValue s .mprCeCnt (rqTgt r), lo32 (s.mpr.soft.filter fun x => x.cls == rqTgt r).length])) s)

/-- REPAIR_LIST. -/
def execRepairList (src : Nat) (s : State) : Res :=
  .next (serve src 0x0882 (fun _ => false) (fun _ r => bytesOk r 8) (fun r _ s =>
    let recs := (s.mpr.hard ++ s.mpr.soft).map fun x => [pack [(30, 2, x.kind), (27, 3, x.cls), (16, 11, x.mac), (0, 16, x.row)], lo32 x.line]
    let (k, o, bs) := listOut r 8 recs
    (s, { detail := [lo32 k, lo32 o], data := bs })) s)

/-- SCRUB_NOW: a long operation that SCRUB_PASS ends. -/
def execScrubNow (src : Nat) (s : State) : Res :=
  .next (serve src 0x0883 (fun _ => true) (fun s r => if s.mpr.scrub.contains (rqTgt r) then some (0x0880, []) else none)
    (fun r h s => (onMpr (fun m => { m with scrub := m.scrub ++ [rqTgt r], scrubOp := tset m.scrubOp (rqTgt r) h }) s, {})) s)

end Sys2Proof.Machine
end

