-- ==== Sys2Proof/Machine/Flt.lean ====
section
/-! DEFINITION. The fault collector (R356 to R369, R497): rail codes, escalation, island resets, latches, FAULT_N and injection. -/

namespace Sys2Proof.Machine

/-! ## What follows a latch -/

/-- Sources latched in `s` that were not in `s0`. -/
def newLatches (s0 s : State) : List Nat := (tkeys s.flt.srcs).filter fun i => (srcAt s i).latched && !(srcAt s0 i).latched

/-- A bank whose island raised a fault leaves service, R291. -/
def bankFaults (l : List Nat) (s : State) : State :=
  let hit (b : Nat) : Bool := l.any fun i => srcTable i == some (43 + b)
  onlyIf (hit 1) (bankFail 1) (onlyIf (hit 0) (bankFail 0) s)

/-- A trial fails, R424, R426: a source 138 to 161 has latched, or an island 40 to 42 has been reset. -/
def trialHurt (s0 s : State) : Bool :=
  s.upd.st == 3 && ((newLatches s0 s).any (fun i => decide (138 ≤ i) && decide (i ≤ 161)) ||
    [40, 41, 42].any fun i => s.flt.blk.contains i && !s0.flt.blk.contains i)

/-- What other chapters do once sources have latched between `s0` and `s`: the cistern's banks, the trial, MPR_EVT.PSN_NMT for a
sequencer that read poisoned data (Table 14-4), and the bus errors of SBM_EVT. -/
def afterFaults (s0 s : State) : State :=
  let l := newLatches s0 s
  let s1 := if l.any fun i => decide (150 ≤ i) && decide (i ≤ 161) then evt .mprEvt 2 s else s
  let s2 := bankFaults l (onlyIf (l.contains 351) (evt .sbmEvt 1) (onlyIf (l.contains 350) (evt .sbmEvt 0) s1))
  if trialHurt s0 s2 then fallBack s2 else s2

/-- FLT runs in every mode but DORMANT. -/
def fltUp (s : State) : Bool := s.sys.mode != .dormant

/-- Source 365: a channel's refresh interval is shortened for temperature. The source does not say which channel: it is a free value, as
is a step of the interval from nominal. -/
def derate (s : State) : State :=
  let ch := freeBelow s 4
  let c := drmChAt s ch
  let ref := if c.ref = 0 then 1 + freeBelow (drawn s) 2 else 2
  evt .drmEvt 5 (onDrm (fun d => { d with chs := tset d.chs ch { c with ref, derates := sat 16 (c.derates + 1) } }) (drawn (drawn s)))

/-- FAULT_RAIL_CODE, R356: a source's rails have shown a code in `samples` successive samples; 2 are needed for asserted or clear and
4 for a wire fault. -/
def execFaultRailCode (src : Nat) (p n : Bool) (samples : Nat) (s : State) : Res :=
  .next (
    if !fltUp s || decide (384 ≤ src) || decide (samples < (if p == n then 4 else 2)) || !drives s src then s
    else
      let u := afterFaults s (takeRails src p n s)
      if src = 365 ∧ (newLatches s u).contains 365 then derate u else u)

/-- NMT_ESCALATION, R361, R363: the sequencer has not entered its trap within 100 µs; its island is reset, and the entry 0x0801 holds the FLT_LAST
value of the latch that escalated, with CAUSE bit 0 set. -/
def execNmtEscalation (src : Nat) (s : State) : Res :=
  let isl := 40 + srcSeq src / 4
  .next (
    if !s.flt.nmt.contains src || !(s.sys.mode.serving || s.sys.mode == .boot) || s.flt.blk.contains isl then s
    else
      let s1 := onFlt (fun f => { f with nmt := f.nmt.filter fun i => 40 + srcSeq i / 4 != isl }) s
      afterFaults s (logEvent 0x0801 (lo32 src) (srcAt s src).lastW 1 (holdIsland isl (evt .fltEvt 4 s1))))

/-! ## Island resets, Table 15-4 -/

/-- An operation of a die whose FCH group was reset: an erase is handled as one open at a reset, anything else times out. -/
def groupOp (die : Nat) (o : Dop) (s : State) : State :=
  if !(dieAt s die).queue.any (fun x => x.id == o.id) then s
  else if o.kind = .erase then (if o.st = .array ∨ o.st = .suspended then reissueErase die o s else s)
  else timedOut die o (freeEntry die o (endRefs die o s))

/-- A die of a reset FCH group: its operations end and it is reset. -/
def groupDie (die : Nat) (s : State) : State :=
  let d := dieAt s die
  if !d.present || d.failed then s
  else modDie die (fun d => { d with resetting := true }) (forEach d.queue (groupOp die) s)

/-- An FCH group, islands 11 to 18: the dies of its four channels, and retraining of the channels. -/
def resetFchGroup (g : Nat) (s : State) : State :=
  forEach (upFrom (4 * g) 4) (fun c s =>
    let s1 := forN 16 (fun k s => groupDie (dieNo c k) s) s
    if (chanAt s1 c).up then askRetrain { ch := c } s1 else s1) s

/-- An SRE group, islands 19 to 22: frames in decode are discarded and their reads start again at ladder step 1. -/
def resetSreGroup (g : Nat) (s : State) : State :=
  forEach s.sre.ladders (fun l s =>
    if (l.framed ∨ 0 < l.found) ∧ l.step < 5 ∧ chanOf (cwDie l.cw) / 8 = g then
      queueSenses l.cw 1 (setLadder l.cw (fun x => { x with tries := 0, best := 0, frame := 0 }) s)
    else s) s

/-- A control sequencer island, 40 to 42: the interrupts that waited for it are delivered (R361), and CS06, in island 41, restarts ladder steps 2 to 4
at step 2. The rest of the work resumes from
the state that the engines hold. -/
def resetSeqIsland (isl : Nat) (s : State) : State :=
  let mine (x : Nat × Nat × Nat) : Bool := 40 + srcSeq x.1 / 4 == isl
  let s0 := onFlt (fun f => { f with nmt := f.nmt.filter (fun i => 40 + srcSeq i / 4 != isl), intWait := f.intWait.filter fun x => !mine x }) s
  let s1 := forEach (s.flt.intWait.filter mine) (fun x s => reportSrc x.1 x.2.1 x.2.2 s) s0
  if isl ≠ 41 then s1
  else forEach s1.sre.ladders (fun l s =>
    if 2 ≤ l.step ∧ l.step ≤ 4 then restartAt2 l.cw s else s) s1

/-- WHS and UPD, island 34: the pulse in progress ends as under brown-out and the update operation with 0x0020. -/
def resetWhs (s : State) : State :=
  let s1 := endErasePulse (if s.whs.op = 1 then
      onWhs (fun w => { w with op := 0 }) (modWBlk s.whs.block (fun x => { x with next := x.next + 1, gen := if x.next = 0 then s.free else x.gen }) (drawn s))
    else s)
  match s1.upd.job with
  | none => s1
  | some j => endJob j .internalError 0x0020 (fun s => [lo32 (s.cst.evSeq - 1)])
      (onUpd (fun u => if j.kind = 2 then { u with st := if u.nextImg = 0 then 0 else 1 } else u) (logGroup 0x0A s1))

/-- The effect of an island reset. -/
def islandEffect (isl : Nat) (s : State) : State :=
  if 11 ≤ isl ∧ isl ≤ 18 then resetFchGroup (isl - 11) s
  else if 19 ≤ isl ∧ isl ≤ 22 then resetSreGroup (isl - 19) s
  else if isl = 28 then forN 16 (fun k s => if (pumpAt s k).busy then haltNow k 2 s else s) s
  else if isl = 30 then onMpr (fun m => { m with track := [], merges := [], mwait := [] }) s
  else if isl = 34 then resetWhs s
  else if isl = 35 then onSbm (fun b => { b with msgs := [] }) (onNvq (fun n => { n with tun := [] }) (onCam (fun c => { c with side := [], gate := c.gate.filter fun g => g.req.src != 8 }) s))
  else if 40 ≤ isl ∧ isl ≤ 42 then resetSeqIsland isl s
  else if isl = 43 ∨ isl = 44 then bankFail (isl - 43) s
  else s

/-! ## Latches and FAULT_N -/

/-- Clear a source's latch: no effect while its rails show asserted or a wire fault (R12, R363). -/
def clearLatch (i : Nat) (s : State) : State :=
  if (srcAt s i).live || !(srcAt s i).latched then s
  else onFlt (fun f => { f with srcs := tmod f.srcs i fun x => { x with latched := false }, nmt := f.nmt.filter (· != i) }) s

/-- FLT_LATCH_CLEAR: a W1C write of FLT_LATCH[w]. -/
def clearLatches (w : Nat) (mask : Word) (s : State) : State := forN 32 (fun b s => if bitOf mask b then clearLatch (32 * w + b) s else s) s

def execFltLatchClear (fn w : Nat) (mask : Word) (s : State) : Res :=
  .next (if !barUp s fn || decide (12 ≤ w) then s else clearLatches w mask (wake s))

/-- A source whose REACT includes PIN is latched. -/
def pinLatched (s : State) : Bool := s.flt.srcs.any fun e => e.2.latched && (srcReact s e.1).testBit 4

/-- FAULT_N is released, R364: event 0x0803. -/
def releasePin (s : State) : State :=
  if pinLatched s || !s.pins.faultN then s else logOpen 0x0803 (onPins (fun p => { p with faultN := false }) s)

/-- FLT_PIN_CLR. -/
def execFltPinClr (fn : Nat) (key : Word) (s : State) : Res := .next (if barUp s fn && key == 0x5AA5 then releasePin (wake s) else s)

/-! ## Injection, R367 -/

def injGo (v : Word) : Bool := bitOf v 31
def injSrc (v : Word) : Nat := fld v 0 9
def injMode (v : Word) : Nat := fld v 24 2
def injDur (v : Word) : Nat := fld v 16 8

/-- An image that starts nothing. -/
def injBad (v : Word) : Bool := decide (384 ≤ injSrc v) || injMode v == 3

/-- An injection ends: the rails of the source it drives return to clear. -/
def stopInj (s : State) : State :=
  match s.flt.injRun with
  | none => s
  | some r => takeRails r.1 false true (onFlt (fun f => { f with inj := f.inj &&& 0x7FFFFFFF, injRun := none }) s)

/-- A write of FLT_INJ: in FACTORY only. While an injection runs a write with GO = 1 is ignored; one with GO = 0 stores its other fields, and
ends a run whose DUR was 0. -/
def writeInj (v : Word) (s : State) : State :=
  let img := v &&& 0x83FF01FF
  let store (w : Word) (s : State) : State := onFlt (fun f => { f with inj := w }) s
  if s.sys.mode ≠ .factory then s
  else if injGo s.flt.inj then
    (if injGo v then s
     else if s.flt.injRun.any (·.2) then store (img ||| 0x80000000) s
     else store (img &&& 0x7FFFFFFF) (stopInj s))
  else if injGo v ∧ !injBad v then
    let rails : Bool × Bool := match injMode v with | 0 => (true, false) | 1 => (false, false) | _ => (true, true)
    let s1 := logOpen 0x0804 (onFlt (fun f => { f with inj := img, injRun := some (injSrc v, injDur v != 0) }) s)
    if drives s1 (injSrc v) then afterFaults s1 (takeRails (injSrc v) rails.1 rails.2 s1) else s1
  else store (img &&& 0x7FFFFFFF) s

/-- FLT_INJ. -/
def execFltInj (fn : Nat) (v : Word) (s : State) : Res := .next (if barUp s fn then writeInj v (wake s) else s)

/-- INJECTION_END: DUR µs have passed. -/
def execInjectionEnd (s : State) : Res :=
  .next (if s.sys.mode = .factory ∧ s.flt.injRun.any (·.2) then stopInj s else s)

/-! ## Opcodes, Table 15-14 -/

/-- Rails and latch of a source as a reply word. -/
def railsW (x : Src) : Word := pack [(2, 1, b2n x.latched), (1, 1, b2n x.p), (0, 1, b2n x.n)]

/-- FLT_INFO. -/
def execFltInfo (src : Nat) (s : State) : Res :=
  .next (serveRead src 0x0800 (fun s _ => (0, [regValue s .fltSts 0, reg s .fltEvt, regValue s .fltLast 0])) s)

/-- SRC_STATUS. -/
def execSrcStatus (src : Nat) (s : State) : Res :=
  .next (serveRead src 0x0801 (fun s r => (0, [srcCfg s (rqTgt r), railsW (srcAt s (rqTgt r))])) s)

/-- SRC_CLEAR. -/
def execSrcClear (src : Nat) (s : State) : Res :=
  .next (serve src 0x0802 (fun _ => false) (fun s r => if (srcAt s (rqTgt r)).live then some (0x0801, []) else none)
    (fun r _ s =>
      let s1 := clearLatch (rqTgt r) s
      (s1, { detail := [pack [(2, 1, b2n (srcAt s1 (rqTgt r)).latched)]] })) s)

/-- FAULT_LIST: one record per latched source. -/
def execFaultList (src : Nat) (s : State) : Res :=
  .next (serve src 0x0803 (fun _ => false) (fun _ r => bytesOk r 8) (fun r _ s =>
    let recs := (s.flt.srcs.filter fun e => e.2.latched).map fun e =>
      [(srcCfg s e.1 &&& 0x007FFFFF) ||| pack [(23, 9, e.1)], pack [(1, 1, b2n e.2.p), (0, 1, b2n e.2.n)]]
    let (k, o, bs) := listOut r 8 recs
    (s, { detail := [lo32 k, lo32 o], data := bs })) s)

/-- FAULT_INJECT: the image is written to FLT_INJ. -/
def execFaultInject (src : Nat) (s : State) : Res :=
  .next (serve src 0x0804 (fun _ => false)
    (fun _ r => if injGo (rqW r 2) && injBad (rqW r 2) then
        some (badField 2 (if 384 ≤ injSrc (rqW r 2) then 0x000001FF else 0x03000000)) else none)
    (fun r _ s => let s1 := writeInj (rqW r 2) s
      (s1, { detail := [s1.flt.inj] })) s)

/-- PIN_RELEASE. -/
def execPinRelease (src : Nat) (s : State) : Res :=
  .next (serve src 0x0805 (fun _ => false) (fun s _ => if pinLatched s then some (0x0802, []) else none)
    (fun _ _ s => let s1 := releasePin s
      (s1, { detail := [regValue s1 .fltSts 0] })) s)

end Sys2Proof.Machine
end

