-- ==== Sys2Proof/Machine/Sec.lean ====
section
/-! DEFINITION. Security and sanitize (R433 to R454): entropy, key schedules, SPDM, the owner credential and lock, and the phases of a
sanitize. -/

namespace Sys2Proof.Machine

/-! ## Entropy and keys -/

/-- A change of the security record, R447: the next generation, in the cistern and in a new directory record. -/
def putSec (f : Sec → Sec) (s : State) : State := putDir id (onSec (fun x => { f x with sgen := x.sgen + 1 }) s)

/-- Phase 1 begins: a new media root is drawn and written as pending; without entropy the draw waits (R434, R449). -/
def drawRoot (s : State) : State :=
  if s.sec.entropyOk then putSec (fun x => { x with rootPend := true, entWait := false }) s
  else onSec (fun x => { x with rootPend := false, entWait := true }) s

/-- SEC is powered and clocked. -/
def secUp (s : State) : Bool := s.sys.mode.serving || s.sys.mode == .boot

/-- ENTROPY_FAILURE, R434. -/
def execEntropyFailure (s : State) : Res :=
  .next (if !secUp s then s else raiseSrc 309 (evt .secEvt 5 (onSec (fun x => { x with entropyOk := false }) s)))

/-- ENTROPY_SOURCE_PASS, R434: what waited for a random value goes on. -/
def execEntropySourcePass (s : State) : Res :=
  .next (
    if !secUp s then s
    else
      let s1 := onSec (fun x => { x with entropyOk := true }) s
      if s1.sec.entWait then drawRoot s1 else s1)

/-- KEY_SCHEDULE_MISMATCH, R436: source 303; the schedule is derived again before another block, so no data changes. -/
def execKeyScheduleMismatch (ns : Nat) (s : State) : Res :=
  .next (if secUp s && (nsAt s ns).isSome then raiseSrc 303 s else s)

/-! ## SPDM, R441 to R443 -/

/-- What an SPDM request answers, and its effect: 0 a response, 1 ERROR UnsupportedRequest, 2 another ERROR. `port` is the link of the
request, for IDE_KM. -/
def spdmAct (port : Option Nat) (r : SpdmReq) (s : State) : Nat × State :=
  match r with
  | .supported | .getMeasurements => (0, s)
  | .unsupported => (1, s)
  | .keyExchange ok =>
    if !ok then (2, raiseSrc 306 (evt .secEvt 1 s))
    else if 8 ≤ s.sec.sessions then (2, s)
    else (0, onSec (fun x => { x with sessions := x.sessions + 1 }) s)
  | .endSession => if s.sec.sessions = 0 then (2, s) else (0, onSec (fun x => { x with sessions := x.sessions - 1 }) s)
  | .ideKeys ks => match port with
    | some n => if s.sec.sessions = 0 then (2, s) else (0, modPort n (fun p =>
        { p with ideKeys := (p.ideKeys ++ ks.filter (· ≤ 8)).eraseDups, ideInsecure := p.ideInsecure.filter fun k => !ks.contains k }) s)
    | none => (1, s)

/-- A session's key exchange draws random values and waits for the entropy source. -/
def spdmWaits (s : State) (r : SpdmReq) : Bool := !s.sec.entropyOk && (match r with | .keyExchange _ => true | _ => false)

/-- SPDM_REQUEST: 0 to 3 DOE of function 0 of port n, 4 and 5 an MCTP message of type 05h that came by I3C or SMBus. In STANDPIPE
either wakes the device first. -/
def execSpdmRequest (bus : Nat) (r : SpdmReq) (s : State) : Res := onSeq 10 s <|
  let b : Bus := if bus = 4 then .i3c else .smbus
  .next (
    if bus < 4 && (isPr s (linkOf s bus) || linkOf s bus != bus || !(portAt s bus).up) || (4 ≤ bus && !sideTakes s b) then s
    else if s.sys.mode = .standpipe then wake s
    else if !secUp s || spdmWaits s r then s
    else
      let (k, s1) := spdmAct (if bus < 4 then some bus else none) r (if bus < 4 then s else takeMsg b 5 s)
      emit (.spdm k) s1)

/-- SECURITY_SEND, R443: protocol 00h, or an SPDM request under protocol E8h. -/
def execSecuritySend (tag : Nat) (req : SpdmReq) (s : State) : Res :=
  .next (admin tag 0x81 (fun t s =>
    let p := fld (cdw t.ent 10) 24 8
    if p = 0 then post tag .success 0 s
    else if p ≠ 0xE8 then post tag .invalidField 0 s
    else if spdmWaits s req then s
    else
      let (k, s1) := spdmAct (some (ctrlLink s t.ctrl)) (match req with | .ideKeys _ => .unsupported | r => r) s
      post tag .success 0 (modCtrl t.ctrl (fun c => { c with secResp := some k }) s1)) s)

/-- SECURITY_RECEIVE, R443: protocol 00h lists the protocols; E8h returns the response held. -/
def execSecurityReceive (tag : Nat) (s : State) : Res :=
  .next (admin tag 0x82 (fun t s =>
    let p := fld (cdw t.ent 10) 24 8
    if p = 0 then answer tag 0x82 [0x00, 0xE8] s
    else if p ≠ 0xE8 then post tag .invalidField 0 s
    else answer tag 0x82 (match (ctrlAt s t.ctrl).secResp with | some k => [k] | none => [])
      (modCtrl t.ctrl (fun c => { c with secResp := none }) s)) s)

/-! ## Owner credential and lock, R444 to R446 -/

/-- SEC_INFO. -/
def execSecInfo (src : Nat) (s : State) : Res :=
  .next (serveRead src 0x0B00 (fun s _ => (0, [regValue s .secSts 0, regValue s .secSvnFloor 0, regValue s .secSanDone 0,
    regValue s .secSanTotal 0])) s)

/-- OWNER_CHALLENGE: a fresh nonce, for which the request waits while the entropy source fails; refused after 8 failures, with a reason in D0 that the
group leaves undefined (a free value, log entry 59). -/
def execOwnerChallenge (src : Nat) (s : State) : Res :=
  .next (
    if !s.sec.entropyOk && (nextReq s src).any (fun r => rqOp r == 0x0B01) then s
    else serve src 0x0B01 (fun _ => false) (fun s _ => if s.sec.lockout then some (0x0012, [Config.busyReason s.sec.nonceCnt]) else none)
      (fun _ _ s =>
        let n := Config.freeNat s.free % 2 ^ 128
        let s1 := drawn (onSec (fun x => { x with nonce := some n, nonceCnt := x.nonceCnt + 1 }) s)
        (s1, { detail := [lo32 n, hi32 n, lo32 (n / 2 ^ 64), lo32 (n / 2 ^ 96), lo32 s1.sec.nonceCnt] })) s)

/-- NONCE_EXPIRY: 60 s after the nonce was issued. -/
def execNonceExpiry (s : State) : Res := .next (onSec (fun x => { x with nonce := none }) s)

/-- CHALLENGE_LOCKOUT_END: 60 s after the eighth failure. -/
def execChallengeLockoutEnd (s : State) : Res :=
  .next (if s.sec.lockout then onSec (fun x => { x with lockout := false, fails := 0 }) s else s)

/-- A signature of a signed request fails: OWN_FAIL, source 307, and after 8 in succession the refusal of OWNER_CHALLENGE. -/
def signFail (s : State) : State :=
  raiseSrc 307 (evt .secEvt 2 (onSec (fun x => { x with fails := x.fails + 1, lockout := x.lockout || decide (8 ≤ x.fails + 1) }) s))

/-- BYTES of a signed request are P + 96, once its slots pass their own checks (R444). -/
def signedBytes (p : Nat) (s : State) (r : CamReq) : Option (Nat × List Word) :=
  if rqTrough r ∧ (slotCheck s r 1).isNone ∧ dscBytes r ≠ p + 96 then some (0x000B, [lo32 (dscBytes r)]) else none

/-- 0x0006 for a parameter of a signed request: the word of the parameter bytes in which it lies, and the lowest offending bit (DESIGN CHOICE, log
entry 59: Table 3-12's word index is of a packet's words). -/
def badParam (bits : Nat) : Option (Nat × List Word) := if bits = 0 then none else some (badField 0 (BitVec.ofNat 32 bits))

/-- A signed request: the nonce (spent by the request), the parameters, the owner or its absence, then the signature. -/
def signedReq (p : Nat) (src op : Nat) (sigOk : Bool) (params : List Byte → Option (Nat × List Word)) (owner : State → Option Nat) (late : State → List Byte → Option Nat)
    (eff : List Byte → State → State × List Word) (s : State) : State :=
  serve src op (fun _ => false) (signedBytes p)
    (fun r _ s =>
      let bs := (slotData s r).take p
      match params bs with
      | some e => (s, { status := e.1, detail := e.2 })
      | none =>
        if s.sec.nonce.isNone then (s, { status := 0x0B00 })
        else
          let s1 := onSec (fun x => { x with nonce := none }) s
          match owner s1 with
          | some e => (s1, { status := e })
          | none =>
            if !sigOk then (signFail s1, { status := 0x0B01 })
            else
              let s2 := onSec (fun x => { x with fails := 0 }) s1
              match late s2 bs with
              | some e => (s2, { status := e })
              | none => let (s3, d) := eff bs s2
                (s3, { detail := d })) s

/-- The owner must exist. -/
def needOwner (s : State) : Option Nat := if s.sec.owner.isSome then none else some 0x0B03

/-- OWNER_SET: signed by the key it carries. -/
def execOwnerSet (src : Nat) (sigOk : SigOk) (s : State) : Res :=
  .next (signedReq 97 src 0x0B02 sigOk (fun bs => badParam ((bs.headD 0).toNat ^^^ 4)) (fun _ => none)
    (fun s _ => if s.sec.owner.isSome then some 0x0B02 else none)
    (fun bs s => let s1 := evt .secEvt 3 (putSec (fun x => { x with owner := some (leNat bs) }) s)
      (s1, [regValue s1 .secSts 0])) s)

/-- OWNER_LOCK. -/
def execOwnerLock (src : Nat) (sigOk : SigOk) (s : State) : Res :=
  .next (signedReq 4 src 0x0B03 sigOk (fun bs => badParam (leNat bs / 2 * 2)) needOwner (fun _ _ => none)
    (fun bs s =>
      let on := leNat bs == 1
      let s1 := putSec (fun x => { x with lock := on }) s
      let s2 := if on == s.sec.lock then s1 else evt .secEvt 3 s1
      (s2, [regValue s2 .secSts 0])) s)

/-- OWNER_RELEASE. -/
def execOwnerRelease (src : Nat) (sigOk : SigOk) (s : State) : Res :=
  .next (signedReq 0 src 0x0B04 sigOk (fun _ => none) needOwner (fun _ _ => none)
    (fun _ s => let s1 := evt .secEvt 3 (putSec (fun x => { x with owner := none, lock := false }) s)
      (s1, [regValue s1 .secSts 0])) s)

/-- SVN of the active image, if it is confirmed. -/
def activeSvn (s : State) : Option Nat :=
  let x := slotAt s s.upd.actImg
  if x.st = 2 then x.img.map (·.svn) else none

/-- SVN_RAISE, R446. -/
def execSvnRaise (src : Nat) (sigOk : SigOk) (s : State) : Res :=
  .next (signedReq 4 src 0x0B05 sigOk (fun _ => none) needOwner
    (fun s bs => if s.sec.svn < leNat bs ∧ (activeSvn s).any (fun v => decide (leNat bs ≤ v)) then none else some 0x0B04)
    (fun bs s => (putSec (fun x => { x with svn := leNat bs }) s, [lo32 s.sec.svn])) s)

/-! ## Sanitize, R448 to R452 -/

def onSan (f : SanRec → SanRec) (s : State) : State := onCst (fun c => { c with san := c.san.map f }) s

/-- Commands in ADMIT that a mode no longer permits fail (Table 18-3, phase 0). -/
def failAdmit (s : State) : State :=
  forEach (tkeys s.nvq.tags) (fun k s => match tget s.nvq.tags k with
    | some t => if t.st = .adm then match check4 s t.ctrl (isIo t) t.ent with
        | some (sc, dnr) => postDnr k sc dnr 0 0 s
        | none => s
      else s
    | none => s) s

/-- Wells, accumulators, the well index and open stripes are discarded, not programmed. -/
def discardWells (s : State) : State :=
  let early (o : Dop) : Bool := o.kind == .program && (o.st == .queued || o.st == .tokenWait)
  let s1 := forEach s.fch.dies (fun d s => forEach ((d.2.queue ++ d.2.wait).filter early) dropTokens s) s
  let s2 := onFch (fun f => { f with dies := tmap f.dies fun _ d =>
    { d with queue := d.queue.filter fun o => !early o, wait := d.wait.filter fun o => !early o } }) s1
  let s3 := forEach (tkeys s2.fch.dies) drainQ s2
  let s4 := onFte (fun f => { f with idx := [], wait := [], prog := [], reloc := [] }) s3
  let s5 := forEach s4.dre.stripes (fun e s =>
    if e.2.st = .opened ∨ e.2.st = .unprotected then closeBlks e.2 s else s) s4
  let s6 := onDre (fun d => { d with recon := [], want := [], got := [], stripes := tmap d.stripes fun _ t =>
    if t.st = .opened ∨ t.st = .unprotected then { t with st := .closed, accs := [], part := true, closeT := s.pwr.tb } else { t with accs := [] } }) s5
  afterFree (onNvq (fun n => { n with ovl := n.ovl.filter fun o => o.tag.isSome }) s6)

/-- Phase 2: directory, log, range table, victim records, bad-LBA list and journal are cleared, every block that holds data is CLOSED
with nothing valid in it, and every mirror granule is dirty. -/
def clearMap (s : State) : State :=
  let s1 := onFte (fun f => { f with
    dir := [], dirSaved := [], root := [], map := [], foldSeq := [], cached := [], refd := [], rng := [], victims := [], first := [], bad := [], uncSrc := [], reloc := [],
    blks := tmap f.blks fun _ b => if b.st = .victim ∨ b.st = .opened then { b with st := .closed } else b }) s
  let s2 := onCst (fun c => { c with log := [], due := [], ckpt := c.ckpt.map fun k => { k with map := [] } }) s1
  let s3 := onDre (fun d => { d with doms := tmap d.doms fun _ x => { x with exposed := [], lostCw := [] },
                                     stripes := tmap d.stripes fun _ t => { t with repl := none, bare := [] } }) s2
  forEach s.dre.pairs (fun p s => match nsAt s p.1 with
    | some n => dirtyGrans ((List.range (nsGranules n)).map (granKey p.1)) s
    | none => s) s3

/-- Rebuilds that a sanitize stopped end: the domains return to service with the failed dies retired (R36). -/
def endRebuilds (s : State) : State :=
  forN 4 (fun d s =>
    if domSt s d ≠ .rebuilding then s
    else modDom d (fun x => { x with st := .inService, exposed := [], scanned := false, lostCw := [] })
      (modDie (domAt s d).rdie (fun x => { x with retired := true }) s)) s

/-- The record is closed: the mode is derived again. -/
def closeSan (result : Nat) (s : State) : State :=
  mediaChange s 0x0A 0 (endRebuilds (onSec (fun x => { x with sanLog := result }) (onCst (fun c => { c with san := none }) s)))

/-- SANITIZE is accepted: the record opens. -/
def openSan (act : Nat) (ause : Bool) (cdw10 : Word) (s : State) : State :=
  let s1 := onSec (fun x => { x with scdw := cdw10.toNat, sanLog := 0 }) (onCst (fun c => { c with san := some { act, ause } }) s)
  failAdmit (mediaChange s 9 0 (endSelfTest 9 0 s1))

/-- The modes of Table 2-2 from which a sanitize is accepted. -/
def sanMode (s : State) : Bool := match s.sys.mode with
  | .operational | .degraded | .writeProtected | .offline => true
  | .sanitize => sanFailedNow s
  | .boot | .holdup | .standpipe | .dormant | .factory => false

/-- SANITIZE, R448, R451: Block Erase, Crypto Erase, or Exit Failure Mode. A warm activation in LOADING delays it. -/
def execSanitize (tag : Nat) (s : State) : Res :=
  .next (admin tag 0x84 (fun t s =>
    let w := cdw t.ent 10
    let act := fld w 0 3
    if s.upd.st = 2 then s
    else if sanOpen s ∧ !sanFailedNow s then post tag .sanitizeInProgress 0 s
    else if bitOf w 9 ∨ (act ≠ 1 ∧ act ≠ 2 ∧ act ≠ 4) ∨ !sanMode s then post tag .invalidField 0 s
    else if act = 1 then
      match s.cst.san with
      | none => post tag .success 0 s
      | some r =>
        if !r.ause then post tag .sanitizeFailed 0 s
        else post tag .success 0 (closeSan 0 (clearMap (discardWells s)))
    else post tag .success 0 (openSan (if act = 2 then 1 else 2) (bitOf w 3) w s)) s)

/-- SANITIZE_QUIESCE_TIMEOUT, Table 18-3: 2 s after acceptance the I/O commands that still run are ended. -/
def execSanitizeQuiesceTimeout (s : State) : Res :=
  .next (match s.cst.san with
    | some r => if r.phase = 0 ∧ !r.failed ∧ s.sys.mode = .sanitize then endCmds isIo s else s
    | none => s)

/-- The record cannot be made durable, R451. -/
def failSan (s : State) : State := onSec (fun x => { x with sanLog := 3 }) (onSan (fun r => { r with failed := true }) s)

/-- Phase 3 begins: every in-service die erases its first block. -/
def beginErase (s : State) : State :=
  let s1 := onDre (fun d => { d with stripes := tmap d.stripes fun _ t => if t.stream = 2 then t else { t with st := .collected } })
    (onSan (fun r => { r with phase := 3, cursors := [], done := 0, left := [] }) s)
  forEach (okDies s1) sanErase (sanTotal s1)

/-- Phase 4 begins: block table and SRE state go to fresh MAP blocks and a checkpoint is taken; Block Erase then erases the MAP blocks
that phase 3 left out. -/
def beginFinish (s : State) : State :=
  let old := (okDies s).flatMap fun d => ((List.range s.prof.blocksPerDie).filter (holdsState s d)).map fun b => (d, b)
  let block := (s.cst.san.map (·.act)).getD 0 == 1
  let s1 := if block then onDre (fun d => { d with stripes := tmap d.stripes fun _ t => { t with st := .collected } })
      (onFte (fun f => { f with blks := tmap f.blks fun _ b => if b.st = .opened ∧ b.stream = 2 then { b with st := .closed } else b }) s) else s
  let s2 := takeCkpt (place (mapDom s1) 2 { kind := .shadow s1.cst.logSeq, body := { data := [] } } s1)
  let s3 := onSan (fun r => { r with phase := 4, left := if block then old else [] }) s2
  if block then forEach old (fun x s => doubtBlk x.1 x.2 s) s3 else s3

/-- SANITIZE_PHASE_DONE, Table 18-3: the work of the phase is done and the next phase is made durable. `rootWritten` says whether the
record could be written; it always can while a bank is in service (R451). -/
def execSanitizePhaseDone (rootWritten : Bool) (s : State) : Res := onSeq 10 s <|
  .next (match s.cst.san with
    | none => s
    | some r =>
      if r.failed ∨ s.sys.mode ≠ .sanitize then s
      else
        let ready : Bool := match r.phase with
          | 0 => !(s.nvq.tags.any fun e => isIo e.2)
          | 1 => s.sec.rootPend
          | 3 => (okDies s).all fun d => decide (s.prof.blocksPerDie ≤ tgetD r.cursors d 0)
          | 4 => r.left.isEmpty
          | _ => true
        if !ready then s
        else if !rootWritten && shadowOnly s then failSan s
        else match r.phase with
          | 0 => drawRoot (onSan (fun r => { r with phase := 1 }) (discardWells s))
          | 1 =>
            let s1 := putSec (fun x => { x with root := x.root + 1, rootPend := false }) s
            let s2 := onFte (fun f => { f with nss := tmap f.nss fun _ n => { n with kgen := 0 } }) s1
            evt .secEvt 4 (onSan (fun r => { r with phase := 2 }) s2)
          | 2 => if r.act = 1 then beginErase (clearMap s) else beginFinish (clearMap s)
          | 3 => beginFinish s
          | _ => closeSan 1 s)

end Sys2Proof.Machine
end

