-- ==== Sys2Proof/Machine/Sbm.lean ====
section
/-! DEFINITION. Sideband management (R455 to R465): MCTP assembly, control messages, NVMe-MI, sensors, telemetry and the log pages. -/

namespace Sys2Proof.Machine

/-! ## Assembly, R456 -/

/-- A message is dropped in assembly: ASM_ERR, source 352. -/
def asmError (s : State) : State := raiseSrc 352 (evt .sbmEvt 2 s)

/-- The message in assembly of a bus and tag. -/
def openMsg (s : State) (b : Bus) (tag : Nat) : Option Msg := s.sbm.msgs.find? fun m => !m.whole && m.bus == b && m.tag == tag

/-- MCTP control commands of Table 19-2, by DSP0236's codes (PRESUMED). -/
def ctlCommands : List Nat := [1, 2, 3, 4, 5, 6]

/-- Admin commands that may be tunneled, Table 19-3. -/
def tunnelOps : List Nat := [0x06, 0x02, 0x0A, 0x09, 0x11, 0x10, 0x14, 0x80, 0x84, 0x81, 0x82, 0x0D, 0x15]

/-- An NVMe-MI response: type 04h with IC = 1, the kind of message, the status, the data, and the CRC-32C MIC. -/
def miFrame (status : Nat) (data : List Nat) : List Nat :=
  let b := [0x84, 0x88, 0, 0, status, 0, 0, 0] ++ data
  b ++ (leBytes 4 (crc32c (b.map (BitVec.ofNat 8))).toNat).map (·.toNat)

/-- A tunneled admin command enters the named controller's admin queue at fetch (R458, R461). Field places are those of the NVMe-MI
specification (PRESUMED). -/
def tunnel (b : Bus) (m : Msg) (s : State) : State :=
  let c := leNat ((m.bytes.drop 6).take 2)
  let dw (o : Nat) : Word := BitVec.ofNat 32 (leNat ((m.bytes.drop o).take 4))
  let op := (m.bytes.getD 4 0).toNat
  if !tunnelOps.contains op then emit (.sideband (some b) (miFrame 3 [])) s
  else if !(ctrlAt s c).rdy || !s.sys.mode.serving then emit (.sideband (some b) (miFrame 2 [])) s
  else
    tunnelIn b c { dw := [BitVec.ofNat 32 op, dw 8, dw 12, dw 16, dw 20, dw 24, 0, 0, 0, 0, dw 44, dw 48, dw 52, dw 56, dw 60, dw 64] } s

/-- An NVMe-MI message has IC = 1 and its CRC-32C MIC holds (Table 19-2). -/
def micOk (m : Msg) : Bool :=
  let n := m.bytes.length - 4
  m.bytes.headD 0 == 0x84 && decide (4 ≤ m.bytes.length) && leNat (m.bytes.drop n) == (crc32c (m.bytes.take n)).toNat

/-- A whole message that needs no further command: a type or a command that is not supported, a tunneled admin command, or an NVMe-MI message
without its MIC, which is dropped (PRESUMED, the NVMe-MI specification). A message of a type that is not supported is dropped, a control command is
answered with unsupported command (PRESUMED, DSP0236). -/
def wholeMsg (b : Bus) (m : Msg) (s : State) : State :=
  let ty := msgType m
  let op := (m.bytes.getD 4 0).toNat
  let kind := (m.bytes.getD 1 0).toNat / 8 % 16
  if ty = 0 then
    (if ctlCommands.contains (m.bytes.getD 2 0).toNat then s
     else emit (.sideband (some b) [0, 0, (m.bytes.getD 2 0).toNat, 5]) (dropMsg m s))
  else if ty = 4 then
    (if !micOk m then dropMsg m s
     else if kind = 2 then tunnel b m (dropMsg m s)
     else if kind = 1 ∧ op < 8 then s
     else emit (.sideband (some b) (miFrame 3 [])) (dropMsg m s))
  else if ty = 5 ∨ ty = 0x7F then s
  else dropMsg m s

/-- A packet joins a message: too long, and the message is dropped; with EOM it is whole. -/
def joinMsg (b : Bus) (m : Msg) (p : MctpPacket) (s : State) : State :=
  let m1 : Msg := { m with bytes := m.bytes ++ p.bytes, seq := p.seq, whole := p.eom }
  let s1 := dropMsg m s
  if 4224 < m1.bytes.length then asmError s1
  else
    let s2 := onSbm (fun x => { x with msgs := x.msgs ++ [m1] }) s1
    if p.eom then wholeMsg b m1 s2 else s2

/-- A packet with SOM opens a message; one still in assembly with its tag is dropped. -/
def firstPacket (b : Bus) (p : MctpPacket) (s : State) : State :=
  let s1 := match openMsg s b p.tag with
    | some m => asmError (dropMsg m s)
    | none => s
  if 8 ≤ s1.sbm.msgs.length then evt .sbmEvt 7 s1
  else joinMsg b { bus := b, tag := p.tag, seq := p.seq, bytes := [] } p (wake s1)

/-- MCTP_PACKET_RECEIVED. -/
def execMctpPacketReceived (b : Bus) (p : MctpPacket) (s : State) : Res :=
  .next (
    if !sideTakes s b then s
    else if b = .smbus ∧ !p.pecOk then raiseSrc 355 (evt .sbmEvt 4 s)
    else if p.som then firstPacket b p s
    else match openMsg s b p.tag with
      | none => asmError s
      | some m => if p.seq = (m.seq + 1) % 4 then joinMsg b m p s else asmError (dropMsg m s))

/-- MCTP_ASSEMBLY_TIMEOUT: the oldest message in assembly of a bus has waited 100 ms for its EOM. -/
def execMctpAssemblyTimeout (b : Bus) (s : State) : Res :=
  .next (match s.sbm.msgs.find? fun m => !m.whole && m.bus == b with
    | some m => asmError (dropMsg m s)
    | none => s)

/-! ## Control messages, Table 19-2 -/

/-- Carry out a message of a bus and answer it; in STANDPIPE it wakes the device first (Table 19-4). The oldest whole message of its type that is
held must be the one carried out (`this`); one that came in a single packet need not have been held. -/
def answerMsg (b : Bus) (ty : Nat) (this : Msg → Bool) (act : State → State × List Nat) (s : State) : State :=
  if !sideTakes s b || !seqUp s 11 || (msgOf s b ty).any fun m => !this m then s
  else if s.sys.mode = .standpipe then wake s
  else
    let (s1, body) := act (takeMsg b ty s)
    emit (.sideband (some b) body) s1

/-- A message is a control command of a code, with some bytes of data (DSP0236, PRESUMED: the code at byte 2, its data from byte 3). -/
def ctlIs (code : Nat) (data : List (Nat × Nat)) (m : Msg) : Bool :=
  (m.bytes.getD 2 0).toNat == code && data.all fun x => (m.bytes.getD x.1 0).toNat == x.2

/-- A control response: message type, instance, command, completion code, data (DSP0236, PRESUMED). -/
def ctlBody (cmd code : Nat) (data : List Nat) : List Nat := [0, 0, cmd, code] ++ data

def eidOf (s : State) (b : Bus) : Nat := match b with | .i3c => s.sbm.i3cEid | .smbus => s.sbm.smbEid

/-- SET_ENDPOINT_ID: 0 and FFh are no endpoint IDs. -/
def execSetEndpointId (b : Bus) (eid : Nat) (s : State) : Res :=
  .next (answerMsg b 0 (ctlIs 1 [(4, eid)]) (fun s =>
    if eid = 0 ∨ 255 ≤ eid then (s, ctlBody 1 2 [])
    else (onSbm (fun x => match b with | .i3c => { x with i3cEid := eid } | .smbus => { x with smbEid := eid }) s, ctlBody 1 0 [0, eid, 0])) s)

/-- GET_ENDPOINT_ID. -/
def execGetEndpointId (b : Bus) (s : State) : Res := .next (answerMsg b 0 (ctlIs 2 []) (fun s => (s, ctlBody 2 0 [eidOf s b, 0, 0])) s)

/-- GET_ENDPOINT_UUID. -/
def execGetEndpointUuid (b : Bus) (s : State) : Res :=
  .next (answerMsg b 0 (ctlIs 3 []) (fun s => (s, ctlBody 3 0 ((leBytes 16 Config.uuid).map (·.toNat)))) s)

/-- GET_MCTP_VERSION_SUPPORT: 1.3. -/
def execGetMctpVersionSupport (b : Bus) (s : State) : Res := .next (answerMsg b 0 (ctlIs 4 []) (fun s => (s, ctlBody 4 0 [1, 0xF1, 0xF3, 0xFF, 0])) s)

/-- GET_MESSAGE_TYPE_SUPPORT: 04h, 05h and 7Fh beside control. -/
def execGetMessageTypeSupport (b : Bus) (s : State) : Res := .next (answerMsg b 0 (ctlIs 5 []) (fun s => (s, ctlBody 5 0 [3, 0x04, 0x05, 0x7F])) s)

/-- GET_VENDOR_DEFINED_MESSAGE_SUPPORT, R457: the enterprise number, most significant byte first, and version 0x0001. -/
def execGetVendorDefinedMessageSupport (b : Bus) (s : State) : Res :=
  .next (answerMsg b 0 (ctlIs 6 []) (fun s => (s, ctlBody 6 0 [0xFF, 1, 0x00, 0x00, 0xD8, 0xA7, 0x00, 0x01])) s)

/-- DYNAMIC_ADDRESS_ASSIGNMENT, Table 19-1: ENTDAA, or SETDASA where SBM_CFG.I3C_SADDR is not 0. -/
def execDynamicAddressAssignment (setdasa : Bool) (addr : Nat) (s : State) : Res :=
  .next (
    if !busOn s .i3c || !islOn s 35 || s.sys.mode == .dormant || s.sbm.daValid || (setdasa && rfld s .sbmCfg 8 7 == 0) then s
    else onSbm (fun x => { x with daddr := addr % 128, daValid := true }) s)

/-- SIDEBAND_BUS_RESET, R461: a bus reset, or I3C RSTACT; `storm`: the seventeenth within 1 s. -/
def execSidebandBusReset (b : Bus) (storm : Bool) (s : State) : Res :=
  .next (
    if s.sys.mode = .dormant then s
    else
      let s1 := onSbm (fun x => { x with msgs := x.msgs.filter (·.bus != b) })
        (onNvq (fun n => { n with tun := n.tun.filter fun x => x.1 != b })
          (onCam (fun c => { c with side := c.side.filter fun r => r.bus != some b }) s))
      if storm then raiseSrc 356 (evt .sbmEvt 5 s1) else s1)

/-! ## NVMe-MI, R458, R459 -/

/-- An MI command carried out: status and data. Data structures, health and configuration values follow the NVMe-MI specification's
order (PRESUMED); what the manual states of them is exact. -/
inductive MiOp where
  | readDs (typ : Nat) | health | ctrlHealth (c : Nat) | cfgGet (id : Nat) | cfgSet (id value : Nat) | vpdRead (off len : Nat) | vpdWrite
  | reset
deriving DecidableEq, Repr

/-- The device is ready, R459. -/
def miReady (s : State) : Bool := s.sys.mode != .boot && s.sys.mode != .holdup

/-- Health values: composite temperature, Percentage Used, critical warning. -/
def healthVals (s : State) : List Nat := [twos 8 s.pwr.temp, pctUsed s, critWarn s]

/-- A sideband Cament request that waits ends with 0x0021 at an MI Reset (R461). -/
def endSide (s : State) : State :=
  forEach s.cam.side (fun r s => answerReq r 0x0021 [modeSts s] [] s) (onCam (fun c => { c with side := [] }) s)

/-- Carry out an MI command (CCS is taken as ready, boot held, and SYS_MODE_STS with the mode and the domain states: the manual says that they are
mapped and not how, DESIGN CHOICE, log entry 61): the state, the status (0 success, 2 internal error, 4 invalid parameter) and the data. -/
def miAct (op : MiOp) (s : State) : State × Nat × List Nat :=
  match op with
  | .readDs t =>
    if t = 0 then (s, 0, [3, 1, 2])
    else if t = 1 then (s, 0, [64, 0])
    else if t = 2 then (s, 0, tkeys s.nvq.ctrls)
    else if t = 3 then (s, 0, [(tkeys s.nvq.ctrls).length])
    else if t = 4 then (s, 0, [0, 1, 2, 3, 4, 5, 6, 7])
    else (s, 4, [])
  | .health => (s, 0, b2n (miReady s) :: b2n s.sys.hold :: (modeSts s).toNat :: healthVals s)
  | .ctrlHealth c =>
    if !thas s.nvq.ctrls c then (s, 4, [])
    else if !(ctrlAt s c).rdy then (s, 2, [])
    else (s, 0, c :: (cstsOf s c).toNat :: healthVals s ++ [availSpare s])
  | .cfgGet id => if id = 1 then (s, 0, [s.sbm.freq]) else if id = 3 then (s, 0, [64]) else (s, 4, [])
  | .cfgSet id v =>
    if id = 1 ∧ 1 ≤ v ∧ v ≤ 3 then (onSbm (fun x => { x with freq := v }) s, 0, [])
    else if id = 3 ∧ v = 64 then (s, 0, []) else (s, 4, [])
  | .vpdRead off len => if off + len ≤ 1024 then (s, 0, (upFrom off len).map fun i => (s.prof.vpd.getD i 0).toNat) else (s, 4, [])
  | .vpdWrite => (s, 4, [])
  | .reset => (if s.sys.mode.serving then dueActivation (subsysReset (endSide s)) else s, 0, [])

/-- The MI command of opcode and management words (PRESUMED). -/
def miOf (op : Nat) (m0 m1 : Word) : Option MiOp :=
  match op with
  | 0 => some (.readDs (fld m0 24 8))
  | 1 => some .health
  | 2 => some (.ctrlHealth (fld m0 0 16))
  | 3 => some (.cfgSet (fld m0 0 8) (if fld m0 0 8 = 1 then fld m0 8 4 else fld m1 0 16))
  | 4 => some (.cfgGet (fld m0 0 8))
  | 5 => some (.vpdRead (fld m0 0 16) (fld m1 0 16))
  | 6 => some .vpdWrite
  | 7 => some .reset
  | _ => none

/-- A message is an MI command: its opcode at byte 4, its management words at bytes 8 and 12. -/
def miIs (op : MiOp) (m : Msg) : Bool :=
  let w (o : Nat) : Word := BitVec.ofNat 32 (leNat ((m.bytes.drop o).take 4))
  (m.bytes.getD 1 0).toNat / 8 % 16 == 1 && miOf (m.bytes.getD 4 0).toNat (w 8) (w 12) == some op

/-- An MI command that came by MCTP. -/
def miMsg (b : Bus) (op : MiOp) (s : State) : State :=
  answerMsg b 4 (miIs op) (fun s => let (s1, st, d) := miAct op s
    (s1, miFrame st d)) s

/-- READ_NVME_MI_DATA_STRUCTURE. -/
def execReadNvmeMiDataStructure (b : Bus) (typ : Nat) (s : State) : Res := .next (miMsg b (.readDs typ) s)
/-- NVM_SUBSYSTEM_HEALTH_STATUS_POLL, R459. -/
def execNvmSubsystemHealthStatusPoll (b : Bus) (s : State) : Res := .next (miMsg b .health s)
/-- CONTROLLER_HEALTH_STATUS_POLL, R459: Internal Error while CSTS.RDY is 0. -/
def execControllerHealthStatusPoll (b : Bus) (ctrl : Nat) (s : State) : Res := .next (miMsg b (.ctrlHealth ctrl) s)
/-- CONFIGURATION_GET. -/
def execConfigurationGet (b : Bus) (id : Nat) (s : State) : Res := .next (miMsg b (.cfgGet id) s)
/-- CONFIGURATION_SET: 01h the SMBus frequency, 03h a transmission unit of 64 bytes only. -/
def execConfigurationSet (b : Bus) (id value : Nat) (s : State) : Res := .next (miMsg b (.cfgSet id value) s)
/-- VPD_READ: 1 KiB from the profile. -/
def execVpdRead (b : Bus) (off len : Nat) (s : State) : Res := .next (miMsg b (.vpdRead off len) s)
/-- VPD_WRITE: Invalid Parameter. -/
def execVpdWrite (b : Bus) (s : State) : Res := .next (miMsg b .vpdWrite s)
/-- MI_RESET: as an NVM Subsystem Reset; a waiting sideband Cament request ends with 0x0021. -/
def execMiReset (b : Bus) (s : State) : Res := .next (miMsg b .reset s)

/-- BASIC_MANAGEMENT_READ, R459, R460: status flags, SMART warnings, composite temperature and percentage used. -/
def execBasicManagementRead (s : State) : Res :=
  .next (
    if !busOn s .smbus || !bitOf (reg s .sbmCfg) 31 || s.sys.mode == .dormant then s
    else emit (.sideband (some .smbus) [6, 64 * b2n (!miReady s) + 32, 255 - critWarn s, twos 8 s.pwr.temp, pctUsed s, 0, 0]) s)

/-- NVME_MI_SEND: the commands that bring no data back. The NVMe-MI status stands in DW0; an opcode that is not supported answers
Invalid Command Opcode there. -/
def execNvmeMiSend (tag : Nat) (s : State) : Res :=
  .next (admin tag 0x1D (fun t s =>
    let op := fld (cdw t.ent 11) 0 8
    match (if op = 3 ∨ op = 6 ∨ op = 7 then miOf op (cdw t.ent 12) (cdw t.ent 13) else none) with
    | none => post tag .success 3 s
    | some .reset => (miAct .reset (post tag .success 0 s)).1
    | some x => let (s1, st, _) := miAct x s
      post tag .success st s1) s)

/-- NVME_MI_RECEIVE: the commands that return data. -/
def execNvmeMiReceive (tag : Nat) (s : State) : Res :=
  .next (admin tag 0x1E (fun t s =>
    let op := fld (cdw t.ent 11) 0 8
    match (if op = 3 ∨ op = 6 ∨ op = 7 then none else miOf op (cdw t.ent 12) (cdw t.ent 13)) with
    | none => post tag .success 3 s
    | some x => let (s1, st, d) := miAct x s
      post tag .success st (emit (.info tag 0x1E d) s1)) s)

/-! ## Sensors, R462 -/

/-- A conversion that failed or was discarded; the third in succession fails the site. -/
def badConversion (site : Nat) (s : State) : State :=
  let x := sensAt s site
  let s1 := onSbm (fun b => { b with sens := tset b.sens site { x with bad := x.bad + 1, good := 0, fail := x.fail || decide (2 ≤ x.bad) } }) s
  if !x.fail ∧ 2 ≤ x.bad then raiseSrc 353 (evt .sbmEvt 3 s1) else s1

/-- SENSOR_CONVERSION: `none` is a conversion that failed. -/
def execSensorConversion (site : Nat) (reading : Option Int) (s : State) : Res :=
  .next (
    if decide (18 ≤ site) || !islOn s 35 || s.sys.mode == .dormant then s
    else match reading with
      | none => badConversion site s
      | some t =>
        if t < -60 ∨ 135 < t then badConversion site (raiseSrc 357 (evt .sbmEvt 6 s))
        else
          let x := sensAt s site
          let y : Sens := { valid := true, temp := t, peak := some (match x.peak with | some p => max p t | none => t), bad := 0,
                            good := x.good + 1, fail := x.fail && decide (x.good + 1 < 100) }
          onSbm (fun b => { b with sens := tset b.sens site y }) s)

/-! ## Telemetry, R463, Table 19-5 -/

/-- A byte of the header (NVMe's layout, PRESUMED): the log page, the last blocks of the areas, the generation numbers. -/
def telHead (s : State) (page : Nat) (c : Option Capture) (a : Nat) : Nat :=
  let last (k v : Nat) : Nat := if c.isSome then v / 256 ^ k % 256 else 0
  if a = 0 then page
  else if a = 8 ∨ a = 9 then last (a - 8) 8
  else if a = 10 ∨ a = 11 then last (a - 10) 2056
  else if a = 12 ∨ a = 13 then last (a - 12) 2312
  else if a = 381 then s.sbm.hostGen
  else if a = 382 then b2n s.sbm.ctrlCap.isSome
  else if a = 383 then s.sbm.ctrlGen
  else 0

/-- A byte of a telemetry log page. -/
def telByte (s : State) (page : Nat) (c : Option Capture) (a : Nat) : Byte :=
  let wordAt (ws : List Word) (i : Nat) : Byte := (leBytes 4 (ws.getD (i / 4) 0).toNat).getD (i % 4) 0
  if a < 512 then BitVec.ofNat 8 (telHead s page c a)
  else match c with
    | none => 0
    | some x =>
      if a < 512 * 9 then wordAt x.area1 (a - 512)
      else if a < 512 * 2057 then
        match x.events[(a - 512 * 9) / 32]? with
        | some e => wordAt (eventWords e) ((a - 512 * 9) % 32)
        | none => 0
      else
        let o := a - 512 * 2057
        wordAt (((x.area3.find? fun d => d.1 == o / 256).map (·.2)).getD []) (o % 256)

/-- A host-initiated capture. -/
def hostCapture (s : State) : State :=
  let g := (s.sbm.hostGen + 1) % 256
  onSbm (fun b => { b with hostCap := some (captureOf s g), hostGen := g }) s

/-- Reading the last block of controller-initiated data. -/
def readCtrlCap (upto : Nat) (s : State) : State :=
  if upto < 512 * 2313 then s else onSbm (fun b => { b with ctrlCap := b.ctrlCap.map fun c => { c with wasRead := true } }) s

/-- TEL_INFO. -/
def execTelInfo (src : Nat) (s : State) : Res :=
  .next (serveRead src 0x0C00 (fun s _ => (0, [reg s .sbmCfg, regValue s .sbmSts 0,
    pack [(16, 1, b2n s.sbm.ctrlCap.isSome), (8, 8, s.sbm.ctrlGen), (0, 8, s.sbm.hostGen)]])) s)

/-- Failed sites. -/
def failedSites (s : State) : Nat := ((List.range 18).filter fun i => (sensAt s i).fail).length

/-- SENSOR_READ. -/
def execSensorRead (src : Nat) (s : State) : Res :=
  .next (serveRead src 0x0C01 (fun s r =>
    if rqTgt r = 0xFFFF then (0, [pack [(8, 8, failedSites s), (0, 8, twos 8 s.pwr.temp)], regValue s .pwrSts 0])
    else if 18 ≤ rqTgt r then (0x0C00, [])
    else (0, [regValue s .sbmSens (rqTgt r)])) s)

/-- TEL_SNAPSHOT, R464: a long operation that LONG_OPERATION_END ends. -/
def execTelSnapshot (src : Nat) (s : State) : Res :=
  .next (serve src 0x0C02 (fun _ => true)
    (fun s r =>
      if rqTgt r = 1 ∧ s.sbm.ctrlCap.isNone then some (0x0C01, [])
      else if 2312 < fld (rqW r 4) 16 16 then some (0x0C02, []) else none)
    (fun r h s =>
      let s1 := if bitOf (rqW r 4) 0 then hostCapture s else s
      (onCam (fun c => { c with ops := tmod c.ops h fun o => { o with args := [fld (rqW r 4) 16 16, dscBytes r] } }) s1, {})) s)

/-- The end of TEL_SNAPSHOT: the blocks are written to its slots. -/
def endSnapshot (h : Nat) (o : LongOp) (s : State) : State :=
  let first := o.args.getD 0 0
  let n := min (o.args.getD 1 0 / 512) (2313 - first)
  let cap := if o.target = 0 then s.sbm.hostCap else s.sbm.ctrlCap
  let s1 := if o.target = 1 ∧ o.src < 8 then readCtrlCap (512 * (first + n)) s else s
  endOp h 0 [lo32 n, lo32 (if o.target = 0 then s.sbm.hostGen else s.sbm.ctrlGen)]
    ((upFrom (512 * first) (512 * n)).map (telByte s (if o.target = 0 then 7 else 8) cap)) s1

/-! ## Log pages, Table 5-1 -/

/-- Temperature in kelvin. -/
def kelvin (s : State) : Nat := (s.pwr.temp + 273).toNat

/-- Status of the last sanitize, R452: SPROG, SSTAT, SCDW10, ETBE, ETCE. -/
def sanLogVals (s : State) : List Nat :=
  let most := (okDies s).foldl (fun a d => max a ((List.range s.prof.blocksPerDie).filter fun b => (blkAt s d b).good).length) 0
  let (prog, stat) : Nat × Nat := match s.cst.san with
    | some r => if r.failed then (0xFFFF, 3) else (if r.act = 1 then min 65534 (65536 * r.done / max 1 r.total) else 0, 2)
    | none => (0xFFFF, s.sec.sanLog)
  [prog, stat, s.sec.scdw, ceilDiv (most * s.prof.tErase) 1000000 + 10, 10]

/-- Status Field of a status, without DNR: type and code of the NVMe base specification (PRESUMED, log entry 44). -/
def scCode : Sc → Nat
  | .success => 0 | .invalidOpcode => 0x01 | .invalidField => 0x02 | .dataTransfer => 0x04 | .internalError => 0x06
  | .abortRequested => 0x07 | .failedFused => 0x09 | .missingFused => 0x0A | .invalidNs => 0x0B | .sequenceError => 0x0C
  | .sglLength => 0x0F | .sglType => 0x11 | .prpOffset => 0x13 | .sanitizeFailed => 0x1C | .sanitizeInProgress => 0x1D
  | .writeProtected => 0x20 | .lbaRange => 0x80 | .capacityExceeded => 0x81 | .nsNotReady => 0x82
  | .completionQueueInvalid => 0x100 | .invalidQid => 0x101 | .invalidQueueSize => 0x102 | .abortLimit => 0x103
  | .aerLimit => 0x105 | .invalidFwSlot => 0x106 | .invalidFwImage => 0x107 | .invalidVector => 0x108
  | .invalidLogPage => 0x109 | .invalidFormat => 0x10A | .invalidQDeletion => 0x10C | .fwProhibited => 0x113
  | .overlappingRange => 0x114 | .insufficientCapacity => 0x115 | .nsIdUnavailable => 0x116 | .nsAttached => 0x118
  | .nsPrivate => 0x119 | .nsNotAttached => 0x11A | .selfTestInProgress => 0x11D | .invalidCtrlId => 0x11F
  | .invalidSecondaryState => 0x120 | .invalidResourceNum => 0x121 | .invalidResourceId => 0x122 | .invalidPi => 0x181
  | .unrecoveredRead => 0x281 | .guardCheck => 0x282 | .appTagCheck => 0x283 | .refTagCheck => 0x284 | .compareFailure => 0x285

/-- The values of a log page that is not telemetry. -/
def logVals (s : State) (c page : Nat) : List Nat :=
  let x := ctrlAt s c
  match page with
  | 0x01 => x.errLog.flatMap fun e => [e.sqid, e.cid, scCode e.status, e.vendor, e.csi]
  | 0x02 => [critWarn s, kelvin s, availSpare s, spareThresh s, pctUsed s]
  | 0x03 => [s.upd.actImg, s.upd.nextImg, ((slotAt s 1).img.map (·.rev)).getD 0, ((slotAt s 2).img.map (·.rev)).getD 0]
  | 0x04 => x.changedNs
  | 0x05 => adminOps ++ ioOps
  | 0x06 => (match s.pwr.selfTest with | some t => if t.2 then 2 else 1 | none => 0) :: s.pwr.stLog.flatMap fun e => [e.1, e.2]
  | 0x81 => sanLogVals s
  | 0xC0 => x.lastReply.map (·.toNat)
  | _ => []

/-- GET_LOG_PAGE. The changed-namespace list is cleared by its read unless the host retains the event. -/
def execGetLogPage (tag : Nat) (s : State) : Res :=
  .next (admin tag 0x02 (fun t s =>
    let w := cdw t.ent 10
    let page := fld w 0 8
    let off := (cdw t.ent 12).toNat + 2 ^ 32 * (cdw t.ent 13).toNat
    let n := 4 * (fld w 16 16 + 65536 * fld (cdw t.ent 11) 0 16 + 1)
    if page = 7 ∨ page = 8 then
      let s1 := if page = 7 ∧ bitOf w 8 then hostCapture s else s
      let cap := if page = 7 then s1.sbm.hostCap else s1.sbm.ctrlCap
      let s2 := if page = 8 then readCtrlCap (off + n) s1 else s1
      answer tag page ((upFrom off n).map fun a => (telByte s1 page cap a).toNat) s2
    else if !([0x01, 0x02, 0x03, 0x04, 0x05, 0x06, 0x81, 0xC0] : List Nat).contains page then post tag .invalidLogPage 0 s
    else
      let s1 := if page = 4 ∧ !bitOf w 15 then modCtrl t.ctrl (fun c => { c with changedNs := [] }) s else s
      answer tag page (logVals s t.ctrl page) s1) s)

end Sys2Proof.Machine
end

