-- ==== Sys2Proof/Machine/Power.lean ====
section
/-! DEFINITION. Power, clocks and time (R370 to R403): overvoltage and the charger, CAPV, the thermal limit, the token pool, island gating,
the RTC and its alarms, the time base, and the power opcodes. -/

namespace Sys2Proof.Machine

/-- PWR and the time base run: every mode but STANDPIPE and DORMANT (Table 16-1). -/
def pwrUp (s : State) : Bool := s.sys.mode != .standpipe && s.sys.mode != .dormant

/-- Island 0 drives CHG_EN, R399. -/
def driveChg (s : State) : State :=
  onPins (fun x => { x with chgEn := !(s.pwr.chgHold || s.pwr.chgOv || s.pwr.chgLock || s.sys.mode == .holdup) }) s

/-! ## Overvoltage, R400, R401 -/

/-- The last CAPV code exceeds PWR_HU_CFG.OVP_TH. -/
def capvOver (s : State) : Bool := decide (rfld s .pwrHuCfg 20 12 < s.pwr.capv)

/-- An overvoltage that begins within 60 s of CHG_EN's return sets the charger lock: in DORMANT the lock alone (R378). -/
def lockCharger (s : State) : State :=
  match s.pwr.chgHigh with
  | none => s
  | some t =>
    if t + 60000000000 < s.pwr.tb then s
    else
      let s1 := onPwr (fun p => { p with chgLock := true }) s
      if s.sys.mode = .dormant then s1 else raiseSrc 341 (logOpen 0x0905 (evt .pwrEvt 6 s1))

/-- An overvoltage begins, R400 step 1; in STANDPIPE it wakes the device, in DORMANT only CHG_EN acts. -/
def beginOv (s : State) : State :=
  if s.pwr.ovp then s
  else
    let s1 := driveChg (onPwr (fun p => { p with ovp := true, chgOv := true }) s)
    let s2 := if s.sys.mode = .dormant then s1 else raiseSrc 326 (logOpen 0x0903 (evt .pwrEvt 5 s1))
    wake (driveChg (lockCharger s2))

/-- OVERVOLTAGE_ONSET: OVP_N has been low for 1 µs, or the last code exceeds OVP_TH. -/
def execOvervoltageOnset (s : State) : Res :=
  .next (beginOv (if capvOver s then s else onPins (fun p => { p with ovpN := false }) s))

/-- Commands in ADMIT without a grant that WR_STOP fails. -/
def failUngranted (s : State) : State :=
  forEach (tkeys s.nvq.tags) (fun k s => match tget s.nvq.tags k with
    | some t => if t.st = .adm && isIo t && writeLike t.ent && !t.granted then postDnr k .nsNotReady false 0 0 s else s
    | none => s) s

/-- OVERVOLTAGE_PERSIST, R400 step 2. -/
def execOvervoltagePersist (s : State) : Res :=
  .next (
    if !s.pwr.ovp || s.pwr.wrStop || s.sys.mode == .dormant then s
    else raiseSrc 327 (failUngranted (onPwr (fun p => { p with wrStop := true }) s)))

/-- The overvoltage is over: OVP_N is high and the last code is within OVP_TH. -/
def endOv (s : State) : State := onPwr (fun p => { p with ovp := false }) (onPins (fun p => { p with ovpN := true }) s)

/-- WR_STOP_CLEAR, R400 step 3: absent for 100 ms. -/
def execWrStopClear (s : State) : Res :=
  .next (if !s.pwr.wrStop || capvOver s then s else onPwr (fun p => { p with wrStop := false }) (endOv s))

/-- CHG_EN returns high after an overvoltage: the time of R401's 60 s. -/
def chgBack (s : State) : State :=
  let s1 := driveChg s
  if s1.pins.chgEn && !s.pins.chgEn then onPwr (fun p => { p with chgHigh := some p.tb }) s1 else s1

/-- CHG_EN_RESTORE, R400 step 3: absent for 1 s. -/
def execChgEnRestore (s : State) : Res :=
  .next (if !s.pwr.chgOv || capvOver s then s else chgBack (onPwr (fun p => { p with chgOv := false, wrStop := false }) (endOv s)))

/-- CHG_EN_STARTUP_HOLD_END, R399. -/
def execChgEnStartupHoldEnd (s : State) : Res := .next (driveChg (onPwr (fun p => { p with chgHold := false }) s))

/-- PWR_HU_CFG.HU_READY. -/
def huReady (s : State) : Nat := rfld s .pwrHuCfg 8 12

/-- HU_RDY falls, or is found 0 when BOOT ends: source 328 and HU_LOW. -/
def huLow (s : State) : State := raiseSrc 328 (evt .pwrEvt 7 s)

/-- CAPV_CONVERSION, R398, R482: the level at CAPV in µV becomes the 12-bit code; HU_RDY with its hysteresis, and the overvoltage of R400 that a code can begin or end. -/
def execCapvConversion (uv : Nat) (s : State) : Res :=
  .next (
    if !pwrUp s then s
    else
      let c := capvCode uv
      let s1 := onPwr (fun p => { p with capv := c }) s
      let s2 :=
        if huReady s ≤ c then onPwr (fun p => { p with huRdy := true }) s1
        else if c + 16 < huReady s ∧ s.pwr.huRdy then huLow (onPwr (fun p => { p with huRdy := false }) s1)
        else s1
      if capvOver s2 then beginOv s2 else if s2.pins.ovpN then onPwr (fun p => { p with ovp := false }) s2 else s2)

/-! ## Islands, R371 to R374 -/

/-- The first-access islands of Table 16-1. -/
def fIsland (i : Nat) : Bool := ([23, 28, 30, 34, 35, 45] : List Nat).contains i

/-- Work in an F island that keeps it from being idle: a running pump, an update job or a wellhead operation. -/
def islBusy (s : State) (i : Nat) : Bool :=
  (i == 28 && s.pmp.ch.any fun e => e.2.busy) || ((i == 34 || i == 45) && (s.upd.job.isSome || s.whs.op != 0))

/-- IDLE_GATING. -/
def execIdleGating (isl : Nat) (s : State) : Res :=
  .next (
    if !s.sys.mode.serving || !fIsland isl || !islOn s isl || !bitOf (reg s .pwrCfg) 30 || islBusy s isl then s
    else isolate isl (onPwr (fun p => { p with isl := tset p.isl isl .retain }) s))

/-- The signature of an island differs, R374: cold reset, source 92 + i, SIG_FAIL and event 0x0901 with both signatures, which the manual
does not give (free). -/
def sigFailed (i : Nat) (s : State) : State :=
  let w (k : Nat) : Word := BitVec.ofNat 32 (Config.freeNat (s.free + k))
  raiseSrc (92 + i) (logEvent 0x0901 (w 0) (w 1) (lo32 i) (evt .pwrEvt 1 { s with free := s.free + 2 }))

/-- The signal recovery state of a group's dies is taken from the state pages of R253. -/
def restoreSre (g : Nat) (s : State) : State :=
  let mine (k : Nat) : Bool := chanOf k / 8 == g
  onSre (fun x => { x with dies := (tfilter s.cst.sreSaved fun k _ => mine k).foldl (fun t e => tset t e.1 e.2)
                                     (tfilter x.dies fun k _ => !mine k) }) s

/-- A tenant's meters refilled to their depths. -/
def refillAll (scaleBw scaleIo : Nat) (t : Tenant) : Tenant :=
  if !t.en then t
  else { t with mBwMax := bwMaxDepth t, mBwMin := bwMinDepth t scaleBw, mIoMax := ioMaxDepth t, mIoMin := ioMinDepth t scaleIo }

/-- A well bank has lost its content: its GENERAL buffers are FREE, and the sequencers that held them restart as for a reset of their islands. -/
def loseWells (bank : Nat) (s : State) : State :=
  let lost := s.wel.bufs.filter fun e => e.2.cls == 2 && bufBase s e.1 / 2 ^ 24 == bank
  let isl := ([40, 41, 42] : List Nat).filter fun i => lost.any fun e => e.2.holders.any fun h => decide (16 ≤ h) && 40 + (h - 16) / 4 == i
  forEach isl islandEffect (forEach lost (fun e s => pushBuf e.1 s) s)

/-- What an island loses and re-establishes after a mismatch, Table 16-3; islands it does not name as by a reset of the island. -/
def restoreIsland (i : Nat) (s : State) : State :=
  if i = 1 then camPathReset s
  else if i = 8 then onQos (fun q => { q with tnts := tmap q.tnts fun _ t => refillAll q.scaleBw q.scaleIo t }) s
  else if i = 9 then onXlt (fun x => { x with atc := [] }) s
  else if i = 10 then onFte (fun f => { f with cached := [], refd := [] }) s
  else if 11 ≤ i ∧ i ≤ 18 then forEach (upFrom (4 * (i - 11)) 4) (fun c s => if (chanAt s c).up then askRetrain { ch := c } s else s) s
  else if 19 ≤ i ∧ i ≤ 22 then restoreSre (i - 19) s
  else if 24 ≤ i ∧ i ≤ 27 then loseWells (i - 24) s
  else if i = 29 then
    onHpc (fun h => { h with ports := tmap h.ports fun _ p => { p with ideInsecure := (p.ideInsecure ++ p.ideKeys).eraseDups, ideKeys := [] } }) s
  else if i = 30 then onMpr (fun m => { m with track := [] }) s
  else if i = 28 ∨ i = 34 ∨ i = 35 ∨ 40 ≤ i ∧ i ≤ 42 then islandEffect i s
  else s

/-! ## RTC, alarms and the time base, R379 to R386 -/

/-- CRYSTAL_START, R479: VALID becomes 1 at the first crystal edge after island 0 leaves reset. -/
def execCrystalStart (s : State) : Res :=
  .next (if s.pwr.rtcStarted then s else onPwr (fun p => { p with rtcStarted := true, rtcValid := true }) s)

/-- CRYSTAL_STOP_DETECT, R379: checked while the 25 MHz oscillator runs. -/
def execCrystalStopDetect (s : State) : Res :=
  .next (if !pwrUp s then s else raiseSrc 334 (onPwr (fun p => { p with rtcValid := false }) s))

/-- ALARM_MATCH, R380: the RTC has reached an armed alarm's value. In DORMANT island 0 alone acts. -/
def execAlarmMatch (a : Nat) (s : State) : Res :=
  let x := alarmAt s a
  .next (
    if 4 ≤ a ∨ !x.en ∨ !s.pwr.rtcStarted ∨ x.val < s.pwr.rtc then s
    else
      let s1 := onPwr (fun p => { p with rtc := x.val, alarms := tset p.alarms a { x with en := false } }) s
      if s.sys.mode = .dormant then (if x.wake then wakeDormant s1 else s1)
      else
        let s2 := evt .pwrEvt (10 + a) s1
        if x.wake then wake s2 else s2)

/-- PTM_REQUEST, R82, R382: function 0 of an EP link asks, while the host has PTM enabled for it; on the PR link the partner asks, and the
device, its PTM Root, answers with its time base. -/
def execPtmRequest (port : Nat) (s : State) : Res :=
  .next (
    if !pwrUp s || s.sys.mode == .holdup || !governs s port || !(portAt s port).up then s
    else if isPr s port then emit (.ptmTime port s.pwr.tb) s
    else if !(fnAt s (ctrlOf port 0)).ptmEn then s
    else emit (.ptm port) (modPort port (fun p => { p with ptmOut := true }) s))

/-- PTM_EXCHANGE_COMPLETE, R82, R383, Table 16-6: the exchange of the link that TIME_PORT names corrects the time base; one of another link does
not steer it. A forward correction is one step, a backward one is slewed. While slewing, an exchange replaces the correction that remains
(DEDUCED: R382 corrects from each exchange, and Table 16-6 has no row for it). -/
def execPtmExchangeComplete (port hostTime : Nat) (s : State) : Res :=
  let h := hostTime % 2 ^ 64
  .next (
    if !pwrUp s || !(portAt s port).ptmOut then s
    else
      let s1 := modPort port (fun p => { p with ptmOut := false }) s
      if port ≠ linkOf s s.hpc.timePort then s1
      else onPwr (fun p =>
        if p.tb ≤ h then { p with tb := h, tbSt := .sync, slew := 0, bound := some 0 }
        else { p with tbSt := .slew, slew := p.tb - h, bound := some 0 }) s1)

/-- SLEW_ABSORBED: the counter has run at half rate until the correction was used up. -/
def execSlewAbsorbed (s : State) : Res :=
  .next (
    if s.pwr.tbSt ≠ .slew then s
    else onPwr (fun p => { p with tb := (p.tb + p.slew) % 2 ^ 64, slew := 0, tbSt := .sync, bound := some 0 }) s)

/-- PTM_LOST. -/
def execPtmLost (s : State) : Res :=
  .next (if s.pwr.tbSt ≠ .sync then s else raiseSrc 333 (evt .pwrEvt 8 (onPwr (fun p => { p with tbSt := .free }) s)))

/-- RATIO_WINDOW, R384: nanoseconds of the time base over 2^20 RTC cycles, in units of 2^-16 ns per cycle. -/
def execRatioWindow (ns : Nat) (s : State) : Res :=
  .next (if s.pwr.tbSt = .sync ∧ s.pwr.rtcValid then onPwr (fun p => { p with ratio := ns / 16 % 2 ^ 32 }) s else s)

/-- R386: the time base is rebuilt from the time pair when it is present and VALID is 1, else restarted at the higher of the time saved
with the last checkpoint and the newest event log entry. R385 gives the error bound, here in 10^-9 µs. -/
def rebuildTb (s : State) : State :=
  match s.pwr.pair, s.pwr.rtcValid with
  | some (t, r), true =>
    let el := (s.pwr.rtc + 2 ^ 48 - r) % 2 ^ 48 * s.pwr.ratio / 65536
    evt .pwrEvt 9 (onPwr (fun p => { p with tb := (t + el) % 2 ^ 64, tbSt := .estimated, slew := 0,
                                            bound := some (31000000000 + rfld s .pwrTimeCfg 0 8 * el) }) s)
  | _, _ =>
    let t := max s.cst.savedT (match s.cst.events.getLast? with | some e => e.time | none => 0)
    onPwr (fun p => { p with tb := t, tbSt := .free, slew := 0, bound := none }) s

/-- The time pair is latched in island 0, Table 16-6. -/
def latchPair (s : State) : State := onPwr (fun p => { p with pair := some (p.tb, p.rtc) }) s

/-! ## Thermal limit and the budget arbiter, R389 to R395 -/

/-- PWR_THERM fields as they act. -/
def tShut (s : State) : Int := min 125 (rfld s .pwrTherm 24 8)
def tThr (s : State) : Int := rfld s .pwrTherm 16 8
def slope (s : State) : Int := min 20 (orOne (rfld s .pwrTherm 8 5))

/-- The hottest site that is valid and not failed. -/
def hottest (s : State) : Option Int :=
  (List.range 18).foldl (fun a i =>
    let x := sensAt s i
    if x.valid && !x.fail then some (match a with | some t => max t x.temp | none => x.temp) else a) none

/-- Thermal limit of R389 at a temperature; 12 W while three or more sites are failed (R462). -/
def thermLimit (s : State) (t : Int) : Nat :=
  if 3 ≤ failedSites s then 12 else if t < tThr s then 32 else (max 12 (32 - slope s * (t - tThr s + 1))).toNat

/-- The Temperature Threshold feature of a controller is crossed between two composite temperatures, in kelvin: an over-temperature
threshold from below, an under-temperature one from above (NVMe base specification, PRESUMED). -/
def tempCrossed (c : Ctrl) (a b : Int) : Bool :=
  match tget c.feats 0x04 with
  | none => false
  | some v =>
    let k : Int := nfld v 0 16
    if nfld v 20 2 = 0 then decide (a < k) && decide (k ≤ b) else decide (k < a) && decide (b ≤ k)

/-- THERMAL_READ, R389: T, the thermal limit, THROTTLE and TSHUT. With no site in service T stays. -/
def execThermalRead (s : State) : Res := onSeq 9 s <|
  .next (
    if !pwrUp s then s
    else
      let t := (hottest s).getD s.pwr.temp
      let w := thermLimit s t
      let s1 := onPwr (fun p => { p with temp := t, thermW := w }) s
      let s2 := forEach (tkeys s1.nvq.ctrls) (fun c x =>
        if hostCtrl x c && tempCrossed (ctrlAt x c) (s.pwr.temp + 273) (t + 273) then sendAen c .temperatureThreshold x else x) s1
      let s3 := if w < 32 ∧ s.pwr.thermW = 32 then raiseSrc 331 (evt .pwrEvt 2 s2) else s2
      let s4 :=
        if tShut s ≤ t ∧ !s.pwr.shut then raiseSrc 332 (logOpen 0x0902 (evt .pwrEvt 3 (onPwr (fun p => { p with shut := true }) s3)))
        else if s.pwr.shut ∧ t ≤ tShut s - 5 then logOpen 0x0902 (onPwr (fun p => { p with shut := false }) s3)
        else s3
      rescale s4)

/-- The arbiter works from the cap: outside HOLDUP, where P is fixed (R394). -/
def arbiterUp (s : State) : Bool := pwrUp s && s.sys.mode != .holdup

/-- POOL_RECOMPUTE, R390. -/
def execPoolRecompute (ungoverned : Int) (s : State) : Res := onSeq 9 s <|
  .next (
    if !arbiterUp s then s
    else onPwr (fun p => { p with pool := max (rfld s .pwrCfg 0 16) ((100 * effCap s : Int) - ungoverned).toNat }) s)

/-- POWER_AVERAGE_CHECK, R395: a 1 ms average above 100 × C × 1.02 tokens. -/
def execPowerAverageCheck (avgTokens : Nat) (s : State) : Res := onSeq 9 s <|
  .next (if arbiterUp s && decide (102 * effCap s < avgTokens) then raiseSrc 335 (evt .pwrEvt 4 s) else s)

/-- RECALIBRATION_READ, R397: a sample read of one codeword of the bin, in the background class. -/
def execRecalibrationRead (die bin : Nat) (s : State) : Res :=
  .next (
    if !engines s || sanOpen s || !dieOk s die || decide (10 ≤ bin) then s
    else match (tkeys s.fte.nand).find? fun a =>
        decide (a / 2 ^ 27 = die) && binOf s die (cwBlk s.prof (a % 2 ^ 27)) == bin with
      | none => s
      | some a =>
        let o := readOp s a .recal
        queueReadOp (o.1, { o.2 with bg := true }) s)

/-! ## Packets, R402 -/

/-- PWR_INFO. -/
def execPwrInfo (src : Nat) (s : State) : Res :=
  .next (serveRead src 0x0900 (fun s _ => (0, [regValue s .pwrCfg 0, regValue s .pwrSts 0, regValue s .pwrTok 0, regValue s .pwrHuSts 0,
    regValue s .pwrTimeSts 0])) s)

/-- POWER_CAP_SET, R388. -/
def execPowerCapSet (src : Nat) (s : State) : Res :=
  .next (serve src 0x0901 (fun _ => false)
    (fun _ r =>
      let c := fld (rqW r 2) 0 6
      if rqW r 2 &&& 0xFFFFFFC0 ≠ 0 then some (badField 2 (rqW r 2 &&& 0xFFFFFFC0))
      else if c ≠ 0 ∧ (c < 12 ∨ 32 < c) then some (0x0900, []) else none)
    (fun r _ s => (rescale (onPwr (fun p => { p with mgmtCap := fld (rqW r 2) 0 6 }) s), { detail := [lo32 s.pwr.mgmtCap] })) s)

/-- TIME_GET. -/
def execTimeGet (src : Nat) (s : State) : Res :=
  .next (serveRead src 0x0902 (fun s _ => (0, [lo32 s.pwr.tb, hi32 s.pwr.tb, regValue s .pwrTimeSts 0, lo32 s.pwr.rtc,
    pack [(31, 1, b2n s.pwr.rtcValid), (0, 16, s.pwr.rtc / 2 ^ 32)]])) s)

/-- RTC_ALARM: PWR_ALARM_HI and PWR_ALARM_LO images. -/
def execRtcAlarm (src : Nat) (s : State) : Res :=
  .next (serve src 0x0903 (fun _ => false)
    (fun s r =>
      let hi := rqW r 2
      let v := fld hi 0 16 * 2 ^ 32 + (rqW r 3).toNat
      if hi &&& 0x3FFF0000 ≠ 0 then some (badField 2 (hi &&& 0x3FFF0000))
      else if 2 ≤ rqTgt r then some (0x0901, [])
      else if bitOf hi 31 ∧ v < s.pwr.rtc then some (0x0902, []) else none)
    (fun r _ s =>
      let hi := rqW r 2
      let x : Alarm := { val := fld hi 0 16 * 2 ^ 32 + (rqW r 3).toNat, en := bitOf hi 31, wake := bitOf hi 30 }
      (onPwr (fun p => { p with alarms := tset p.alarms (rqTgt r) x }) s, { detail := [alarmHiW (alarmAt s (rqTgt r))] })) s)

/-- CHARGER_CTL: clears the charger lock. -/
def execChargerCtl (src : Nat) (s : State) : Res :=
  .next (serve src 0x0904 (fun _ => false)
    (fun s _ => if s.pwr.ovp then some (0x0903, []) else if !s.pwr.chgLock then some (0x0904, []) else none)
    (fun _ _ s =>
      let s1 := chgBack (onPwr (fun p => { p with chgLock := false }) s)
      (s1, { detail := [pwrStsW s1] })) s)

end Sys2Proof.Machine
end

