-- ==== Sys2Proof/Machine/Hold.lean ====
section
/-! DEFINITION. Power loss and sleep: HOLDUP and the reset spill (R227, R228, R302 to R308, R478), STANDPIPE (R38, R374 to R377) and DORMANT
(R39, R378). -/

namespace Sys2Proof.Machine

/-! ## Programs brought to their end inside one command -/

/-- The next program of a die: one whose page is still to be reported, one in its array phase, or the first of a block in program order. -/
def nextProg (d : Die) : Option Dop :=
  d.queue.find? fun o => o.kind == .program && (o.st == .done || o.st == .array || firstOfBlk d o)

/-- A program of a die passes and its page is reported (R216, R218), every seal and accumulator being sound; one that the guard of R217 refuses is
placed again. Its token is taken and returned within the command (R215). -/
def programNow (die : Nat) (o : Dop) (s : State) : State :=
  if o.st = .done then passPage die o.block o.step [] s
  else if o.st = .queued && !orderOk s die o then refuseOp die o s
  else
    let s1 := blkMod die o.block (fun b =>
      let n := b.next + 1
      { b with next := n, bst := if seqLen s.prof b.stream ≤ n then .full else .opened }) (dropTokens o s)
    passPage die o.block o.step [] (modOp die o.id (fun x => { x with st := .done, held := 0 }) s1)

/-- Program steps that a die's blocks can take. -/
def dieSteps (p : Profile) : Nat := p.blocksPerDie * (seqLen p 0 + seqLen p 2)

/-- Programs of a die, at most `n`. -/
def runDie (die : Nat) : Nat → State → State
  | 0, s => s
  | n + 1, s => match nextProg (dieAt s die) with
    | none => s
    | some o => runDie die n (programNow die o s)

/-- Every program queued on the in-service dies passes, with those that follow from it; at most `n` rounds over the dies. -/
def runPrograms : Nat → State → State
  | 0, s => s
  | n + 1, s =>
    let ds := (okDies s).filter fun d => (nextProg (dieAt s d)).isSome
    if ds.isEmpty then s else runPrograms n (forEach ds (fun d s => runDie d (dieSteps s.prof) s) s)

/-- The write wells are programmed and the open stripes closed, to the end (R38, R126). -/
def finishPrograms (s : State) : State := runPrograms (512 * dieSteps s.prof) s

/-! ## Islands, Table 16-1 -/

/-- Islands take their states of a column of Table 16-1; the others are ON, but for those a BLK holds in reset. -/
def setIslands (l : List (Nat × IslSt)) (s : State) : State :=
  let held := tfilter s.pwr.isl fun _ x => x == .reset
  let go := l.filter fun e => !thas held e.1
  forEach (go.map (·.1)) isolate (onPwr (fun p => { p with isl := go.foldl (fun t e => tset t e.1 e.2) held }) s)

/-- Columns of Table 16-1. -/
def holdupIslands : List (Nat × IslSt) := (upFrom 2 8 ++ [28, 29] ++ upFrom 36 4).map (·, .off)
def standpipeIslands : List (Nat × IslSt) :=
  ([1] ++ upFrom 7 21 ++ [29, 30] ++ upFrom 36 7).map (·, .retain) ++ ([28, 33, 34, 43, 44, 45] : List Nat).map (·, .off)
def dormantIslands : List (Nat × IslSt) := (upFrom 1 45).map (·, .off)

/-- The RTC has counted while nothing showed how long: it is ahead by a free number of cycles. -/
def sleepRtc (s : State) : State :=
  if s.pwr.rtcStarted then drawn (onPwr (fun p => { p with rtc := (p.rtc + Config.freeNat s.free) % 2 ^ 48 }) s) else s

/-! ## HOLDUP entry -/

/-- FCH's actions on a die, R227, R228: a die with an erase or a READ in ARRAY is reset, which loses its erases and reads;
another keeps what is in its array phase and a suspended erase. Programs and erases that have ended are still reported. -/
def holdDie (die : Nat) (s : State) : State :=
  let d := dieAt s die
  let rst := d.queue.any fun o => o.st == .array && (o.kind == .read || o.kind == .erase)
  let keep (o : Dop) : Bool := o.st == .done || (!rst && (o.st == .array || o.st == .suspended))
  let s1 := forEach ((d.queue ++ d.wait).filter fun o => !keep o) (fun o s => endRefs die o (dropTokens o s)) s
  modDie die (fun d => { d with queue := (d.queue.filter keep).map fun o => { o with dueSusp := false, dueRes := false }, wait := [],
                                resetting := d.resetting || rst, runs := 0 }) s1

/-- A program runs in a die's array. -/
def progRuns (s : State) (die : Nat) : Bool := (dieAt s die).queue.any fun o => o.kind == .program && o.st == .array

/-- The spill set's host sectors, R303: live well records that no other change of their IU outranks, by codeword. -/
def spillHosts (s : State) : List (Nat → Spill) :=
  (s.fte.idx.filter fun r => r.live && beatsAll s r.ns r.iu r.ver).flatMap fun r =>
    (List.range (nsUnits s r.ns)).map fun k => fun d => .host r k d

/-- The spill set's accumulator codewords, R303. -/
def spillAccs (s : State) : List (Nat → Spill) :=
  s.dre.stripes.flatMap fun e => e.2.accs.flatMap fun a =>
    (List.range (stepCws s.prof e.2.stream)).map fun c => fun d => .acc (e.1 / 2 ^ 32) (e.1 % 2 ^ 32) a.step c a.members d

/-- The spill set, R303; nothing after phase 0 of a sanitize (R450). -/
def spillSet (s : State) : List (Nat → Spill) :=
  if s.cst.san.any fun r => r.phase != 0 then [] else spillHosts s ++ spillAccs s

/-- Codewords of a spill page, S. -/
def spillPage (p : Profile) : Nat := max 1 (4 * p.qSlc)

/-- The dies a spill set is dealt over, R303: the free ones, or every in-service die for a larger set. -/
def spillDies (s : State) (n : Nat) : List Nat :=
  let fr := (okDies s).filter fun d => !progRuns s d
  if fr.isEmpty ∨ 2 * spillPage s.prof * fr.length < n then okDies s else fr

/-- A spill entry's die. -/
def Spill.die : Spill → Nat
  | .host _ _ d => d
  | .acc _ _ _ _ _ d => d

/-- The spill entries dealt round robin in die order. -/
def dealSpill (l : List (Nat → Spill)) (dies : List Nat) : List Spill :=
  l.zipIdx.map fun e => e.1 (dies.getD (e.2 % max 1 dies.length) 0)

/-- Spill pages of a die, R303. -/
def pagesOf (p : Profile) (es : List Spill) (die : Nat) : Nat := ceilDiv (es.filter fun e => e.die == die).length (spillPage p)

/-- Every spill program has passed, R304: STATE 2. -/
def endSpill (s : State) : State :=
  onCst (fun c => { c with hold := { c.hold with st := 2, spillUs := sat 16 ((s.pwr.tb - c.hold.tPloss) / 1000) } }) s

/-- The spill plan is made and durable, R303, R304: STATE 1. With an empty set STATE 2 follows at once. -/
def planSpill (s : State) : State :=
  let l := spillSet s
  let dies := spillDies s l.length
  let es := dealSpill l dies
  let plan := (dies.map fun d => (d, pagesOf s.prof es d)).filter fun e => e.2 != 0
  let s1 := onCst (fun c => { c with spill := es, hold :=
    { st := 1, entries := es.length, tPloss := s.pwr.tb, fseq := (s.nvq.seq + 2 ^ 32 - 1) % 2 ^ 32, plan } }) s
  if plan.isEmpty then endSpill s1 else s1

/-- HOLDUP is entered with the cause of R41 and the RST_CAUSE of the chip reset that ends it: steps 1 to 4 of Table 12-6. From BOOT no
plan is written (R308). From STANDPIPE the time base is rebuilt first. -/
def enterHoldup (code cause : Nat) (s : State) : State :=
  let boot := s.sys.mode == .boot
  let s0 := if s.sys.mode = .standpipe then rebuildTb (sleepRtc s) else s
  let s1 := onSys (fun y => { y with modeReq := none, resetReq := none, wakeReq := false, fetchStop := false, holdupCause := cause })
    (enterMode .holdup code (latchPair s0))
  let s2 := forEach (tkeys s1.fch.dies) holdDie s1
  let s3 := onXlt (fun x => { x with eng := [], engWait := [], reads := [], waits := [] })
    (onDre (fun d => { d with recon := [], want := [], got := [] }) (onSre (fun x => { x with ladders := [] }) s2))
  let s4 := onPwr (fun p => { p with reqs := [], bgReqs := [], pool := s.prof.holdupPool }) s3
  let s5 := onPmp (fun x => { x with ch := tmap x.ch fun _ p => { p with busy := false, failed := [], op := none } })
    (onWel (fun w => { w with stop := true }) (onSbm (fun b => { b with msgs := [] }) s4))
  let s6 := driveChg (endSelfTest 8 0 (endErasePulse (setIslands holdupIslands s5)))
  if boot then s6 else planSpill s6

/-- HOLDUP can be entered: the device is powered, and neither in DORMANT nor in HOLDUP. -/
def mayHold (s : State) : Bool := s.sys.railsUp && s.sys.mode != .dormant && s.sys.mode != .holdup

/-- Power loss is taken: HOLDUP, or DORMANT's record (Table 2-2); HOLDUP itself takes no note of it (R307). -/
def powerLoss (s : State) : State :=
  if s.sys.mode = .dormant then onPwr (fun p => { p with plossRec := true }) s
  else if mayHold s then enterHoldup 0x0E 1 s else s

/-- PLOSS_N_ASSERTED, R302: PLOSS_N has been low for 1 µs. -/
def execPlossNAsserted (s : State) : Res := .next (powerLoss (onPins (fun p => { p with plossN := false }) s))

/-- PLOSS_N_SHORT_PULSE, R302: a shorter pulse is ignored; source 329. -/
def execPlossNShortPulse (s : State) : Res := .next (if !s.sys.railsUp then s else afterFaults s (raiseSrc 329 s))

/-- Source 330 of R478: the supplies fell before PLOSS_N. -/
def supplyLoss (s : State) : State := if mayHold s then raiseSrc 330 (powerLoss s) else powerLoss s

/-- PWRGD_LOW, R478: low for 1 µs while PLOSS_N is high; ignored in HOLDUP. -/
def execPwrgdLow (s : State) : Res :=
  .next (if !s.pins.plossN || s.sys.mode == .holdup then s else supplyLoss (onPins (fun p => { p with pwrgd := false }) s))

/-- RAIL_OUT_OF_RANGE, R476, R478: a monitor finds a rail at a level, µV, for 2 µs; ignored in HOLDUP. -/
def execRailOutOfRange (rail : Supply) (uv : Nat) (s : State) : Res :=
  .next (if s.sys.mode = .holdup || !monitored rail || railInRange s.prof.iface rail uv then s else supplyLoss s)

/-- RESET_SPILL_START, R307: a requested chip reset begins as HOLDUP, with its own cause. -/
def execResetSpillStart (s : State) : Res :=
  .next (match s.sys.resetReq with
    | none => s
    | some c => if mayHold s then enterHoldup 0x0F c s else s)

/-! ## The spill -/

/-- The spill block of a die: the one opened for this spill, else the erased block of its reserve with the lowest erase count. -/
def spillBlk (s : State) (die : Nat) : Option Nat :=
  ((List.range s.prof.blocksPerDie).find? fun b => let x := blkAt s die b
    x.st == .opened && x.stream == 3).or ((lowestEc (freeOn s die true)).map (·.1))

/-- A spill page is programmed into a block. -/
def spillInto (die block : Nat) (s : State) : State :=
  blkMod die block (fun b => { b with st := .opened, stream := 3, next := b.next + 1, rate := rateFor s.prof 3 b.ec,
                                      bst := if s.prof.slcSteps ≤ b.next + 1 then .full else .opened }) s

/-- SPILL_PROGRAM_PASS, R303, R304: a die's next spill page has passed; with the last one STATE 2 is durable. A die with a program in its
array starts none, and the token that the program holds must have fitted the pool of R394 (R215). -/
def execSpillProgramPass (die : Nat) (s : State) : Res :=
  .next (match tget s.cst.hold.plan die, spillBlk s die with
    | some k, some b =>
      if s.sys.mode ≠ .holdup ∨ s.cst.hold.st ≠ 1 ∨ !s.sys.railsUp ∨ progRuns s die ∨ s.pwr.pool < s.pwr.held + costOf s.prof 2 true 4 then s
      else
        let plan := if k ≤ 1 then terase s.cst.hold.plan die else tset s.cst.hold.plan die (k - 1)
        let s1 := onCst (fun c => { c with hold := { c.hold with plan } }) (spillInto die b s)
        if plan.isEmpty then endSpill s1 else s1
    | _, _ => s)

/-- The index entries whose pages have passed, R304: of each die with pages left, those of its first pages. -/
def passedSpill (p : Profile) (plan : List (Nat × Nat)) (es : List Spill) : List Spill :=
  let done (d : Nat) : Nat := match tget plan d with
    | none => es.length
    | some k => (pagesOf p es d - k) * spillPage p
  (es.zipIdx.filter fun e => decide (((es.take e.2).filter fun x => x.die == e.1.die).length < done e.1.die)).map (·.1)

/-- An array phase runs on some die. -/
def arrayRuns (s : State) : Bool := s.fch.dies.any fun e => e.2.present && !e.2.failed && (inArray e.2).isSome

/-- HOLDUP_COMPLETE, R34, step 8 of Table 12-6: with the supplies good the sequence has ended and a chip reset follows; with the supplies
gone the device stops, and index entries of pages that have not passed are not there (R304). -/
def execHoldupComplete (suppliesGood : Bool) (s : State) : Res :=
  .next (
    if s.sys.mode ≠ .holdup ∨ !s.sys.railsUp then s
    else if suppliesGood then
      if s.sys.resetDue ∨ s.cst.hold.plan ≠ [] ∨ arrayRuns s then s
      else onSys (fun y => { y with resetDue := true }) (logOpen 0x0604 s)
    else
      onCst (fun c => { c with spill := passedSpill s.prof c.hold.plan c.spill, hold := { c.hold with plan := [] } })
        (onSys (fun y => { y with railsUp := false, resetDue := false }) s))

/-! ## Idle conditions, R38, R498 -/

/-- The modes Table 2-2 permits STANDPIPE and DORMANT from. -/
def sleepMode (s : State) : Bool := match s.sys.mode with
  | .operational | .writeProtected | .offline => true
  | .boot | .degraded | .sanitize | .holdup | .standpipe | .dormant | .factory => false

/-- No command (but `mine`), Cament request or pump transfer outstanding, no rebuild or sanitize running; and no trial (R424). -/
def idleBut (mine : Option Nat) (s : State) : Bool :=
  (s.nvq.tags.all fun e => some e.1 == mine) && s.cam.queue.isEmpty && s.cam.side.isEmpty && s.cam.gate.isEmpty && opsRun s == 0 &&
    (s.pmp.ch.all fun e => !e.2.busy) && !anyDom s .rebuilding && !sanOpen s && s.upd.st != 3

/-- Every enabled controller is in the non-operational power state PS21 (R38, R387). -/
def allAsleep (s : State) : Bool :=
  (s.nvq.ctrls.any fun e => e.2.en) && s.nvq.ctrls.all fun e => !e.2.en || e.2.ps == 21

/-- An entry starts: fetch stops and the wells are programmed and the stripes closed. -/
def quiet (s : State) : State := finishPrograms (closeAll (onSys (fun y => { y with fetchStop := true }) s))

/-- Host work is served again, R375, R377: the hold of R126 ends unless every controller is shut down. -/
def serveAgain (s : State) : State :=
  let s1 := onSys (fun y => { y with fetchStop := false, modeReq := none, wakeReq := false }) s
  if allDown s1 then s1 else placeWaiting (onNvq (fun n => { n with shutHold := false }) s1)

/-! ## STANDPIPE -/

/-- Alarm 2 of CS11 for the next NAND pass, R353, R380; when it comes due is a free value. -/
def scrubAlarm (s : State) : State :=
  if bitOf (reg s .mprCfg) 1 then
    drawn (onPwr (fun p => { p with alarms := tset p.alarms 2 { val := freeBelow s (2 ^ 48), en := true, wake := true } }) s)
  else s

/-- The completion of the C0h command that carried the request is still to be posted (R498). -/
def carrierWaits (s : State) : Bool := s.nvq.tags.any fun e => !isIo e.2 && opc e.2.ent == 0xC0

/-- STANDPIPE_ENTRY, R375: by the power states of R38, while the device is idle; or requested, and then without a further idle test once the
completion of the command that carried the request is posted, whatever mode the device has come to meanwhile (R498). A wake event before it ends
it. The sleep images take map cache space, and the pumps' island is OFF and loses its registers. -/
def execStandpipeEntry (s : State) : Res := onSeq 9 s <|
  let asked := s.sys.modeReq == some .standpipe
  .next (
    if !s.sys.mode.serving then s
    else if asked && s.sys.wakeReq then serveAgain s
    else if !(if asked then !carrierWaits s else s.sys.modeReq.isNone && sleepMode s && idleBut none s && allAsleep s) then s
    else
      let s1 := latchPair (quiet s)
      let s2 := onNvq (fun n => { n with sqs := tmap n.sqs fun k q => { q with hot := k % 65536 == 0 } }) (endSelfTest 8 0 s1)
      let s3 := onDrm (fun d => { d with chs := tmap d.chs fun _ c => { c with selfRef := c.up } })
        (onPmp (fun x => { x with ch := [] }) (setIslands standpipeIslands (scrubAlarm s2)))
      fitCache (onSys (fun y => { y with modeReq := none, wakeReq := false }) (enterMode .standpipe 0x0B s3)))

/-- PWR_SP_CFG thresholds, Table 16-7h. -/
def spHi (s : State) : Int := signed 8 (rfld s .pwrSpCfg 16 8)
def spLo (s : State) : Int := signed 8 (rfld s .pwrSpCfg 8 8)

/-- Crossings of Table 16-4: 0 hot, 1 cold, 2 CAPV low, 3 CAPV high. -/
def spCross (s : State) (t : Int) (capv k : Nat) : Bool := match k with
  | 0 => decide (spHi s ≤ t)
  | 1 => decide (t ≤ spLo s)
  | 2 => decide (capv < huReady s)
  | _ => decide (rfld s .pwrHuCfg 20 12 < capv)

/-- A reading has returned inside a threshold by its hysteresis. -/
def spBack (s : State) (t : Int) (capv k : Nat) : Bool := match k with
  | 0 => decide (t ≤ spHi s - 2)
  | 1 => decide (spLo s + 2 ≤ t)
  | 2 => decide (huReady s + 16 ≤ capv)
  | _ => decide (capv + 16 ≤ rfld s .pwrHuCfg 20 12)

/-- STANDPIPE_SAMPLE, R376: a threshold that has caused a wake is not compared until its reading has come back. -/
def execStandpipeSample (temp : Int) (uv : Nat) (s : State) : Res :=
  let capv := capvCode uv
  .next (
    if s.sys.mode ≠ .standpipe then s
    else
      let kept := s.pwr.spMask.filter fun k => !spBack s temp capv k
      let new := (List.range 4).filter fun k => !s.pwr.spMask.contains k && spCross s temp capv k
      let s1 := onPwr (fun p => { p with spMask := kept ++ new }) s
      if new.isEmpty then s1 else wake (raiseSrc 336 (evt .pwrEvt 14 s1)))

/-- Channels whose temperature trigger holds are queued for retraining, R233. -/
def wakeTrain (s : State) : State :=
  forN 32 (fun c s => if (chanAt s c).up && decide (12 < ((chanAt s c).temp - (chanAt s c).trnTemp).natAbs) then askRetrain { ch := c } s else s) s

/-- The wake sequence, R377, Table 16-5: `rtcDelta` RTC cycles have passed since entry; the islands in `mismatch` failed the signature check of
R374 and are restored. -/
def standpipeWake (rtcDelta : Nat) (mismatch : List Nat) (s : State) : State :=
  let s1 := rebuildTb (onPwr (fun p => { p with rtc := if p.rtcStarted then (p.rtc + rtcDelta) % 2 ^ 48 else p.rtc }) s)
  let s2 := onDrm (fun d => { d with chs := tmap d.chs fun _ c => { c with selfRef := false } }) (setIslands [] s1)
  let bad := mismatch.eraseDups.filter fun i => standpipeIslands.contains (i, .retain)
  let s3 := wakeTrain (forEach bad (fun i s => sigFailed i (restoreIsland i s)) s2)
  serveAgain (evt .pwrEvt 0 (enterMode (deriveMode s3) 0x0C s3))

/-! ## DORMANT -/

/-- Links go down with the device's power; PERST_N of a PR port is driven low (R373, R378). -/
def portsOff (s : State) : State :=
  let s1 := onHpc (fun h => { h with ports := tmap h.ports fun _ p =>
    { p with up := false, st := 0, width := 0, rate := 0, flit := false, cfgReady := false, ptmOut := false } }) s
  match prPort s with
  | none => s1
  | some n => emit (.prPerst true) (modPort n (fun p => { p with perst := true }) s1)

/-- DORMANT_ENTRY, R39, R378, R498: the entry runs to its end, once the completion of the command that carried the request is posted, whatever mode
the device has come to meanwhile: the wells are programmed and the stripes closed, the time is saved, and every island but 0 goes OFF. -/
def execDormantEntry (s : State) : Res := onSeq 9 s <|
  .next (
    if !s.sys.mode.serving || s.sys.modeReq != some .dormant || carrierWaits s then s
    else
      let s1 := latchPair (endSelfTest 8 0 (quiet s))
      let s2 := onCst (fun c => { c with savedT := s1.pwr.tb }) s1
      let s3 := onSys (fun y => { y with modeReq := none, wakeReq := false }) (enterMode .dormant 0x0D s2)
      portsOff (setIslands dormantIslands s3))

/-- Every port in the EP role has PERST_N asserted, by the ball of its link's lowest member. -/
def allPerst (s : State) : Bool := (List.range 4).all fun n => !governs s n || isPr s n || (portAt s n).perst

/-- AUTO_DORMANT_TIMER, R39: PERST_N has been asserted on every EP port for 100 ms and the profile enables automatic dormancy, in a mode from which
Table 2-2 has the entry. -/
def execAutoDormantTimer (s : State) : Res :=
  .next (
    if !s.profOn || !s.prof.autoDormant || !sleepMode s || !allPerst s then s
    else onSys (fun y => { y with modeReq := some .dormant, fetchStop := true }) s)

end Sys2Proof.Machine
end

