-- ==== Sys2Proof/Machine/Boot.lean ====
section
/-! DEFINITION. Chip reset and BOOT: POWER_ON, CHIP_RESET_TO_BOOT and the boot steps of Table 2-10, among them image and profile choice
(R428 to R431), replay (R309, R310) and the open-stripe scan (R311); and PROFILE_SELECT. -/

namespace Sys2Proof.Machine

/-! ## Chip reset -/

/-- The directory as BOOT rebuilds it, R176 and step 2 of Table 12-9: the directory pages that the root table names, then the live DIR records of the
namespaces that exist. -/
def builtDir (f : Fte) (log : List Delta) : Tbl Nat :=
  let here (d : Delta) : Bool := d.kind == .dir && (tget f.nss d.ns).any fun n => n.live && n.inst == d.inst
  (log.filter here).foldl (fun t d => tset t (pageKey d.ns d.key) d.val) f.dirSaved

/-- What FTE keeps on NAND and in the cistern. -/
def keptFte (f : Fte) (log : List Delta) : Fte :=
  { nss := f.nss, map := f.map, dir := builtDir f log, root := f.root, dirSaved := f.dirSaved, foldSeq := f.foldSeq, rng := f.rng, bad := f.bad, uncSrc := f.uncSrc,
    blks := tmap f.blks fun _ b => { b with refs := 0 }, nand := f.nand, victims := f.victims, first := f.first, capD := f.capD, wp := f.wp }

/-- What DRE keeps: domain states, the stripe journal, pairs and granules. -/
def keptDre (d : Dre) : Dre :=
  { doms := d.doms, stripes := tmap d.stripes fun _ t =>
      { t with accs := [], repl := t.repl.map fun r => { r with given := match r.step with | some g => g + 1 | none => 0 } }, pairs := tmap d.pairs fun _ p => { p with op := none },
    dirty := d.dirty, active := d.active }

/-- The cistern after a chip reset: its contents are persistent (R289), its registers are not. -/
def keptCst (c : Cst) : Cst :=
  { c with banks := tmap c.banks fun _ b => { b with corr := 0, unc := 0 }, ckptOp := none, ckptBusy := false, scan := false, seqLatch := 0,
           huRes := 0, huCw := 0, huSpill := 0, huPlan := 0 }

/-- Island 0's part of PWR: the RTC, the alarms, the time pair, the ratio and the charger's conditions; and the self-test log. -/
def keptPwr (p : Pwr) : Pwr :=
  { rtc := p.rtc, rtcValid := p.rtcValid, rtcStarted := p.rtcStarted, rtcFrac := p.rtcFrac, ratio := p.ratio, alarms := p.alarms,
    pair := p.pair, plossRec := p.plossRec, chgHold := p.chgHold, chgOv := p.chgOv, chgLock := p.chgLock, chgHigh := p.chgHigh,
    ovp := p.ovp, stLog := p.stLog }

/-- What UPD and SEC keep in the slot directory, the slots and the security record. -/
def keptUpd (u : Upd) : Upd :=
  { st := b2n (u.nextImg != 0), slots := u.slots, actImg := u.actImg, nextImg := u.nextImg, trial := u.trial, tries := u.tries,
    prevImg := u.prevImg, actPrf := u.actPrf, nextPrf := u.nextPrf, prevPrf := u.prevPrf, dirGen := u.dirGen }
def keptSec (x : Sec) : Sec :=
  { root := x.root, rootPend := x.rootPend, sgen := x.sgen, owner := x.owner, lock := x.lock, svn := x.svn, measures := x.measures,
    revoked0 := x.revoked0, sanLog := x.sanLog, scdw := x.scdw, rooted := x.rooted }

/-- A chip reset with its RST_CAUSE, Table 2-2: the strap and the test fuse are sampled (R37), state that is not persistent takes its reset
value, fetch sequence numbers restart at the watermark (R295), the time base is rebuilt (R386), and BOOT begins. The ball of a PR port is an
input with a pull-down from then on, which holds the partner in reset (R89). -/
def chipReset (cause : Nat) (strap fuse : Bool) (s : State) : State :=
  let s1 : State :=
    { sys := { rstCause := cause, testArmed := strap && !fuse, tmIgn := strap && fuse },
      pins := { testmode := strap, fuseBlown := fuse, ovpN := s.pins.ovpN, faultN := s.pins.faultN },
      hpc := { ports := (List.range 4).map fun n => (n, { perst := (portAt s n).perst || isPr s n }) },
      nvq := { seq := s.cst.mark },
      fte := keptFte s.fte s.cst.log,
      fch := { dies := tmap (tfilter s.fch.dies fun _ d => d.failed || d.retired) fun _ d => { failed := d.failed, retired := d.retired } },
      sre := { dies := s.cst.sreSaved }, dre := keptDre s.dre, cst := keptCst s.cst,
      mpr := { soft := s.mpr.soft.map fun r => { r with kind := 2 } },
      pwr := keptPwr s.pwr, whs := { blks := s.whs.blks }, upd := keptUpd s.upd, sec := keptSec s.sec,
      sbm := { hostGen := s.sbm.hostGen, ctrlGen := s.sbm.ctrlGen },
      out := (if (prPort s).isSome then [Output.prPerst true] else []) ++ s.out, free := s.free, pending := s.pending }
  let s2 := driveChg (rebuildTb s1)
  onSys (fun y => { y with chgTime := s2.pwr.tb }) s2

/-- Island 0 loses its supply, R379, R364, R399, Table 16-7l: the RTC, the alarms, the time pair and the FAULT_N latch are lost, and CHG_EN is
held low. -/
def loseIsland0 (s : State) : State :=
  onPins (fun p => { p with faultN := false, ovpN := true }) (onPwr (fun p =>
    { p with rtc := 0, rtcValid := false, rtcStarted := false, rtcFrac := 0, alarms := [], ratio := 0x77359400, pair := none,
             plossRec := false, chgLock := false, chgOv := false, ovp := false, chgHold := true, chgHigh := none }) s)

/-- POWER_ON, R477: the rails are up and PWRGD is high; a power-on chip reset, RST_CAUSE 0x0. `island0Lost` says whether island 0 lost its
supply before (R478). -/
def execPowerOn (island0Lost strap fuse : Bool) (s : State) : Res :=
  .next (
    if s.sys.railsUp && s.sys.mode != .dormant && !(s.sys.mode == .boot && s.sys.step == 0) then s
    else
      let off := !s.sys.railsUp || s.sys.mode == .dormant
      chipReset 0 strap fuse (if island0Lost then loseIsland0 s else onlyIf off sleepRtc s))

/-- CHIP_RESET_TO_BOOT, R33, R34, R37: the chip reset that is due begins. The time pair is latched where the time base runs. -/
def execChipResetToBoot (strap fuse : Bool) (s : State) : Res :=
  .next (
    if !s.sys.resetDue || !s.sys.railsUp then s
    else chipReset s.sys.holdupCause strap fuse (if s.sys.mode = .dormant then sleepRtc s else latchPair s))

/-! ## Boot steps -/

/-- A boot step has completed. -/
def stepDone (n : Nat) (s : State) : State := onSys (fun y => { y with step := n }) s

/-- Boot is held, R43: HOLD and HOLD_WHY; STEP stays. -/
def holdBoot (why : Nat) (s : State) : State := onSys (fun y => { y with hold := true, holdWhy := why }) s

/-- Step 0x1, R349: the fuse-map repairs; a fuse map that fails its check raises source 323. -/
def bootFuses (repairs : List (Nat × Nat × Nat)) (mapOk : Bool) (s : State) : State :=
  let s1 := onMpr (fun m => { m with hard := repairs.map fun r => { kind := 0, cls := r.1, mac := r.2.1, row := r.2.2 } }) s
  stepDone 1 (if mapOk then s1 else raiseSrc 323 s1)

/-! ### Step 0x2: the image, R428, R429 -/

/-- The slot R428 chooses, with what it writes to the directory. -/
def chooseImage (s : State) : Nat × State :=
  let u := s.upd
  if u.trial ≠ 0 ∧ u.tries < 2 then (u.trial, putDir (fun u => { u with tries := u.tries + 1 }) s)
  else if u.trial ≠ 0 then
    (u.prevImg, putDir (fun u => { u with trial := 0, tries := 0, actImg := u.prevImg, actPrf := u.prevPrf })
      (setSlot u.trial { slotAt s u.trial with st := 3 } s))
  else if u.nextImg ≠ 0 then
    (u.nextImg, putDir (fun u => { u with prevImg := u.actImg, actImg := u.nextImg, trial := u.nextImg, tries := 1, nextImg := 0,
                                          prevPrf := u.actPrf }) s)
  else (u.actImg, s)

/-- A slot's image boots: it verifies, and R412's checks hold. -/
def imgBoots (ok : Nat → Bool) (s : State) (k : Nat) : Bool := ok k && (slotAt s k).img.any (imageOk s)

/-- An image fails R413 at boot: its slot is failed, and a trial of it ends. -/
def imgFails (k : Nat) (s : State) : State :=
  let x := slotAt s k
  let s1 := if x.img.isSome then verifyFails x.img (putDir id (setSlot k { x with st := 3 } s)) else s
  if s.upd.trial = k then putDir (fun u => { u with trial := 0, tries := 0, actImg := 3 - k, actPrf := u.prevPrf }) s1 else s1

/-- A slot boots, R428, R442: IMG_SLOT, its measurement, and the trial it is on. -/
def imgRuns (k : Nat) (s : State) : State :=
  let s1 := if s.upd.actImg = k then s else putDir (fun u => { u with actImg := k }) s
  let s2 := drawn (onSec (fun x => { x with measures := Config.freeNat s.free :: x.measures.take 2 }) s1)
  let s3 := onSys (fun y => { y with imgSlot := k - 1 }) s2
  onUpd (fun u => if u.trial = k then { u with st := 3, trialS := trialLen s, switchT := s.pwr.tb }
    else { u with st := b2n (u.nextImg != 0) }) s3

def bootImages (aOk bOk : Bool) (s : State) : State :=
  let ok (k : Nat) : Bool := if k = 1 then aOk else bOk
  let (k, s1) := chooseImage s
  if imgBoots ok s1 k then stepDone 2 (imgRuns k s1)
  else
    let s2 := imgFails k s1
    if imgBoots ok s2 (3 - k) then stepDone 2 (imgRuns (3 - k) s2) else holdBoot 6 (imgFails (3 - k) s2)

/-! ### Step 0x3: the cistern, R292, R349, R436 -/

/-- A bank's test. -/
def bankTest (b : Nat) (passed : Bool) (s : State) : State :=
  if passed then (if (bankAt s b).st = .inService then s else bankBack b s) else bankFail b s

/-- The entry of the BOOT entered, R41: OLD is the last value logged before the reset. -/
def logBoot (s : State) : State :=
  let new := modeSts (stepDone 3 s)
  onCst (fun c => { c with lastSts := new }) (logEvent 0x0101 s.cst.lastSts new (pack [(0, 8, 2)]) s)

/-- CST_HU_STS and CST_HU_TIME from the hold-up record, Table 12-15. -/
def loadHold (s : State) : State :=
  let h := s.cst.hold
  if h.st = 0 then s
  else onCst (fun c => { c with huRes := if h.st = 1 then 2 else 1, huCw := sat 16 c.spill.length, huSpill := h.spillUs, huPlan := h.planUs }) s

/-- The SRAM repairs of the boot record are applied in entry order, R349: an entry without a spare row is kept and not applied, and REP_FULL
is set. -/
def applyRepairs (s : State) : State :=
  forN s.mpr.soft.length (fun i s => match s.mpr.soft[i]? with
    | none => s
    | some r =>
      if r.cls = 3 then s
      else if sparesLeft s r.cls r.mac = 0 then repairFull s
      else onMpr (fun m => { m with soft := setAt m.soft i { r with kind := 1 } }) s) s

/-- The DRAM repairs of the boot record are applied, R351: each raises source 364; one that fails is kept, with DRM_EVT.PPR_FAIL and source 325. -/
def applyPpr (failed : List Nat) (s : State) : State :=
  forN s.mpr.soft.length (fun i s => match s.mpr.soft[i]? with
    | none => s
    | some r =>
      if r.cls ≠ 3 then s
      else if failed.contains r.line then raiseSrc 325 (evt .drmEvt 4 s)
      else raiseSrc 364 (onMpr (fun m => { m with soft := setAt m.soft i { r with kind := 1 } }) s)) s

def bootCistern (bank0 bank1 rootOk : Bool) (s : State) : State :=
  let s1 := bankTest 1 bank1 (bankTest 0 bank0 s)
  let s2 := if bank0 || bank1 then applyRepairs (loadHold (logBoot s1)) else s1
  if s2.sec.rooted && !rootOk then holdBoot 7 s2 else stepDone 3 s2

/-! ### Step 0x4: the profile, R74, R77, R315, R430, R431, R471, R472 -/

/-- The bits of an RWL register that a profile loads: not those a window write has set (R471), nor those already used (R472). -/
def loadMask (s : State) (r : RegId) (i : Nat) : Word :=
  let fixed : Word := match r with
    | .welCfg | .welPoolCfg | .welFloor | .welRqCfg => if s.wel.built then 0xFFFFFFFF else 0
    | .drmCfg => if s.drm.started then 0xFFFF else 0
    | _ => 0
  (regDef r).rwl &&& ~~~(tgetD s.ovr ((regDef r).addrOf i) 0) &&& ~~~fixed

/-- RWL fields take the profile's values. -/
def loadRegs (p : Profile) (s : State) : State :=
  forEach p.regs (fun e s => match regAt e.1 with
    | some (r, i) =>
      if r = .fltSrcCfg then s
      else
        let m := loadMask s r i
        setReg r i ((reg s r i &&& ~~~m) ||| (e.2 &&& m)) s
    | none => s) s

/-- The fault reaction table takes the profile's entries. -/
def loadReacts (p : Profile) (s : State) : State :=
  forEach p.reacts (fun e s =>
    let o := tgetD s.ovr ((regDef .fltSrcCfg).addrOf e.1) 0
    let w := (srcCfg s e.1 &&& o) ||| (pack [(8, 3, e.2.2), (0, 5, e.2.1)] &&& ~~~o)
    onFlt (fun f => { f with srcs := tupd f.srcs e.1 {} fun x => { x with react := some (fld w 0 5), aen := some (fld w 8 3) } }) s) s

/-- The controllers of the port configuration, R83, R105: each PF of a host-facing link with its 252 VFs, and the PF of a partner-facing
link. -/
def buildCtrls (p : Profile) (s : State) : Tbl Ctrl :=
  let fresh (c : Nat) : Ctrl := match p.vqInit.find? fun x => x.1 == c with
    | some x => { vqFlex := x.2.1, viFlex := x.2.2 }
    | none => {}
  (List.range 4).flatMap fun n =>
    let l := linkOf s n
    if isPr s l then []
    else if isPface s l then (if l = n then [(ctrlOf n 0, {})] else [])
    else (upFrom (ctrlOf n 0) 253).map fun c => (c, fresh c)

/-- The ports are released for link training in the configuration applied. -/
def releasePorts (p : Profile) (s : State) : State :=
  let s1 := onHpc (fun h => { h with released := true, pfState := b2n (h.pface != 0) }) (onNvq (fun n => { n with ctrls := buildCtrls p s }) s)
  let s2 := forN 4 (fun n s => if governs s n && !isPr s n && !(portAt s n).perst then modPort n (fun x => { x with st := 1 }) s else s) s1
  match prPort s2 with
  | none => s2
  | some n => emit (.prPerst true) (modPort n (fun x => { x with perst := true }) (onHpc (fun h => { h with twin := 1 }) s2))

/-- The initial resource assignments of a profile, R105, for controllers already there. -/
def giveFlex (p : Profile) (s : State) : State :=
  forEach p.vqInit (fun e s => modCtrl e.1 (fun x => { x with vqFlex := e.2.1, viFlex := e.2.2 }) s) s

/-- The port configuration of a profile, R74, R77. TIME_PORT counts as part of it: a profile that differs in TIME_PORT alone waits for the next
chip reset too (DESIGN CHOICE, log entry 53). CFG_PEND tells of the profile applied last. -/
def applyPorts (p : Profile) (s : State) : State :=
  if s.hpc.released then
    giveFlex p <| if s.hpc.merge = p.merge ∧ s.hpc.role = p.role ∧ s.hpc.pface = p.pface ∧ s.hpc.timePort = p.timePort then
      onHpc (fun h => { h with applied := true, cfgPend := false }) s
    else onHpc (fun h => { h with cfgPend := true, twin := 0 }) s
  else releasePorts p (onHpc (fun h => { h with merge := p.merge, role := p.role, pface := p.pface, timePort := p.timePort, applied := true }) s)

/-- A verified profile is applied; HPC_PORT_CTL.PSN_EGR is loaded with it (Table 4-8d). -/
def applyProfile (p : Profile) (s : State) : State :=
  let s1 := applyPorts p (loadReacts p (loadRegs p { s with prof := p, profOn := true }))
  let s2 := forN 4 (fun n s => setReg .hpcPortCtl n ((reg s .hpcPortCtl n &&& 1) ||| pack [(1, 1, nfld p.psnEgr n 1)]) s) s1
  let s3 := if s2.wel.built then s2 else buildPools s2
  onUpd (fun u => { u with trialS := trialLen s3 }) s3

/-- The image booted. -/
def bootedImg (s : State) : Image := ((slotAt s (s.sys.imgSlot + 1)).img).getD {}

/-- The profile of a slot can be used, R430, R431. -/
def prfBoots (s : State) (slot : Nat) : Bool :=
  (slotAt s (2 + slot)).st == 2 && (slotAt s (2 + slot)).prof.any fun p => profileOk s p && fmtIn (bootedImg s) p

/-- A profile slot becomes active and its profile is applied. -/
def useProfile (slot : Nat) (s : State) : State :=
  let s1 := if s.upd.actPrf = slot ∧ s.upd.nextPrf = 0 then s else putDir (fun u => { u with actPrf := slot, nextPrf := 0 }) s
  applyProfile (((slotAt s (2 + slot)).prof).getD {}) (onSys (fun y => { y with profSlot := slot - 1 }) s1)

/-- A slot that holds a profile and does not verify raises source 347. -/
def prfFails (slot : Nat) (s : State) : State := if (slotAt s (2 + slot)).prof.isSome then raiseSrc 347 s else s

def bootProfile (aOk bOk : Bool) (s : State) : State :=
  let ok (k : Nat) : Bool := (if k = 1 then aOk else bOk) && prfBoots s k
  let k := if s.upd.nextPrf = 0 then s.upd.actPrf else s.upd.nextPrf
  if ok k then stepDone 4 (useProfile k s)
  else
    let s1 := prfFails k s
    if ok (3 - k) then stepDone 4 (useProfile (3 - k) s1)
    else
      let s2 := prfFails (3 - k) s1
      holdBoot 1 (releasePorts {} s2)

/-! ### Step 0x5: DRAM, R47, R178, R351 -/

/-- DRAM is trained once after a chip reset, at most at the rate of DRM_CFG; its repairs are applied before. -/
def trainDram (ok : Bool) (gib rate : Nat) (ppr : List Nat) (s : State) : State :=
  let s1 := applyPpr ppr (onDrm (fun d => { d with started := true }) s)
  if ok then
    let t (c : Nat) : Int := signed 8 (Config.freeNat (s1.free + c) % 256)
    onCam (fun c => { c with dramTrough := true })
      (onDrm (fun d => { d with trained := true, size := gib, rate := min rate (min 8533 (rfld s .drmCfg 0 16)), chs := (List.range 4).map fun c => (c, { up := true, trnTemp := t c }) })
        { s1 with free := s1.free + 4 })
  else raiseSrc 362 (evt .drmEvt 1 s1)

/-- The sizes of R178. -/
def dramFits (s : State) : Bool := s.drm.trained && decide (8 ≤ s.drm.size) && decide (2 * 2 ^ 30 ≤ cacheBytes s dirMost)

def bootDram (ok : Bool) (gib rate : Nat) (ppr : List Nat) (s : State) : State :=
  let s1 := if s.drm.started then s else trainDram ok gib rate ppr s
  if dramFits s1 then stepDone 5 s1 else holdBoot 4 s1

/-! ### Step 0x6: the channels, R208, Table 9-7, R230 -/

/-- A block that the bad-block table in its die's header block marks is BAD, Table 9-5, and retired. -/
def markBadBlk (x : Nat × Nat) (s : State) : State :=
  if x.2 < s.prof.blocksPerDie ∧ (blkAt s x.1 x.2).st = .free then blkMod x.1 x.2 (fun b => { b with st := .retired, bst := .bad }) s else s

/-- A listed die after its reset and ID read; one that does not answer is failed. -/
def bringDie (silent : List Nat) (die : Nat) (s : State) : State :=
  let x := dieAt s die
  let gone := silent.contains die
  let d : Die := { present := !gone, failed := x.failed || gone, retired := x.retired, params := s.free }
  let s1 := drawn (onFch (fun f => { f with dies := tset f.dies die d, diesFailed := f.diesFailed + b2n (gone && !x.failed) }) s)
  if gone && !x.failed then raiseSrc 239 (evt .fchEvt 1 s1) else s1

/-- A channel's training ends at a rate of the profile's ladder with an eye that passes the acceptance test of R230, or it fails at every step. -/
def bringChan (ch : Nat) (t : ChTrain) (s : State) : State :=
  let ok := s.prof.rates.contains t.rate && decide (eyeMin s + 2 * eyeGuard s ≤ t.eye)
  let c : Chan := { up := ok, failed := !ok, iface := s.prof.iface, rate := if ok then t.rate else 0, eye := t.eye, trnTemp := t.temp,
                    temp := t.temp, lastTrn := s.pwr.tb }
  let s1 := modChan ch (fun _ => c) s
  if ok ∧ t.rate < s.prof.rates.headD 0 then raiseSrc (206 + ch) (evt .fchEvt 3 s1) else s1

/-- A domain not yet laid out takes its stripe width and its capacity. -/
def layDomain (d : Nat) (s : State) : State :=
  if (domAt s d).w ≠ 0 then s
  else
    let s1 := modDom d (fun x => { x with w := s.prof.width.getD d 0 }) s
    onFte (fun f => { f with capD := tset f.capD d (layCapD s1 d) }) s1

/-- A factory bad column of a die's header block is listed, R252. -/
def seedCol (x : Nat × Nat × Nat) (s : State) : State :=
  let d := sreDieAt s x.1
  if (d.cols.any fun c => c.plane == x.2.1 && c.col == x.2.2) || 64 ≤ (d.cols.filter fun c => c.plane == x.2.1).length then s
  else onSre (fun y => { y with dies := tset y.dies x.1 { d with cols := d.cols ++ [{ plane := x.2.1, col := x.2.2, kind := 0 }] } }) s

def bootNand (silent : List Nat) (mismatch : Bool) (trains : List ChTrain) (bad : List (Nat × Nat)) (cols : List (Nat × Nat × Nat)) (s : State) :
    State :=
  let read (die : Nat) : Bool := s.prof.dies.contains die && !silent.contains die
  let s0 := forEach (bad.filter fun x => read x.1) markBadBlk (forEach s.prof.dies (bringDie silent) s)
  let s1 := forEach (cols.filter fun x => read x.1) seedCol s0
  if mismatch then holdBoot 2 s1
  else
    let chs := ((s.prof.dies.map chanOf).eraseDups)
    let s2 := forEach chs (fun c s => bringChan c (trains.getD c { rate := 0, eye := 0, temp := 0 }) s) s1
    if chs.any fun c => (chanAt s2 c).failed then holdBoot 3 (raiseSrc 244 s2) else stepDone 6 (forN 4 layDomain s2)

end Sys2Proof.Machine
end

