-- ==== Sys2Proof/Machine/Replay.lean ====
section
/-! DEFINITION. Boot steps 0x7 to 0x9: replay of the cistern (R304, R309, R310), the open-stripe scan (R311), the resumption of what a reset
broke off (R285, R450, Table 8-6), and the end of BOOT (Table 2-2); with them BOOT_STEP_COMPLETE and PROFILE_SELECT. -/

namespace Sys2Proof.Machine

/-! ## Replay, R309, R310 -/

/-- The spill index entries that read back well; none where no hold-up has been recorded since the last replay. -/
def spillGood (bad : List Nat) (s : State) : List Spill :=
  if s.cst.hold.st = 0 then [] else (s.cst.spill.zipIdx.filter fun e => !bad.contains e.2).map (·.1)

/-- The record of a host entry. -/
def Spill.host? : Spill → Option WellRec
  | .host r _ _ => some r
  | .acc _ _ _ _ _ _ => none

/-- The host sectors' records that the entries name, of namespaces that still exist. -/
def spillRecs (l : List Spill) (s : State) : List WellRec :=
  (l.filterMap Spill.host?).eraseDups.filter fun r => (nsAt s r.ns).any fun n => n.inst == r.inst

/-- Every codeword of a record was read back. -/
def recWhole (good : List Spill) (s : State) (r : WellRec) : Bool :=
  (List.range (nsUnits s r.ns)).all fun k => good.any fun e => match e with
    | .host x j _ => x == r && j == k
    | .acc _ _ _ _ _ _ => false

/-- Step 4 of Table 12-9, R304: sectors that do not read back go to the bad-LBA list with source 4, once for each replay with SPILL_SHORT and
source 274; codewords without an entry are counted in an event of code 0x0607. -/
def readSpill (bad : List Nat) (s : State) : State :=
  if s.cst.hold.st = 0 then s
  else
    let good := spillGood bad s
    let lost := (spillRecs s.cst.spill s).filter fun r => !recWhole good s r
    let unlisted := if s.cst.hold.st = 1 then s.cst.hold.entries - s.cst.spill.length else 0
    let s1 := forEach lost (fun r s => markBad r.ns r.iu (iuMask (((nsAt s r.ns).map (·.fmt)).getD 0)) 4 s) s
    let s2 := if lost.isEmpty && unlisted == 0 then s1 else raiseSrc 274 (evt .cstEvt 4 s1)
    let s3 := if lost.isEmpty then s2 else logOpen 0x0605 s2
    if unlisted = 0 then s3
    else
      let w (k : Nat) : Word := BitVec.ofNat 32 (Config.freeNat (s3.free + k))
      raiseSrc 275 (logEvent 0x0607 (w 0) (w 1) (lo32 unlisted) { s3 with free := s3.free + 2 })

/-- The data members that the spilled codewords of an accumulator step name, one list for each codeword. -/
def accFound (good : List Spill) (d n step : Nat) : List (List Nat) :=
  good.filterMap fun e => match e with
    | .acc d' n' st _ ms _ => if d' = d ∧ n' = n ∧ st = step then some ms else none
    | .host _ _ _ => none

/-- A step whose parity replay programs, R310: its accumulator was read back whole, and the program of the step passed on every data member
that was given positions of it. -/
def stepSound (good : List Spill) (s : State) (d n : Nat) (t : Stripe) (step : Nat) : Bool :=
  let l := accFound good d n step
  l.length == stepCws s.prof t.stream && (l.headD []).all fun m => match t.members[m]? with
    | some (die, block) => decide (step < groupsDone s.prof t.stream (blkAt s die block).next)
    | none => false

/-- Steps of a stripe in which a position was given. -/
def stepsBegun (p : Profile) (t : Stripe) : Nat :=
  if t.fill = 0 then 0 else (t.fill - 1) / (max 1 (dataN t) * stepCws p t.stream) + 1

/-- A stripe found open is closed partially, R310, R272. -/
def closeFound (d n : Nat) (s : State) : State :=
  match stripeAt s d n with
  | none => s
  | some t =>
    let t1 := { t with part := true }
    finishStripe d n (evt .dreEvt 6 (closeBlks t1 (setStripe d n t1 s)))

/-- Valid IUs of a stripe from a step on. -/
def validFrom (s : State) (t : Stripe) (step : Nat) : List Nat :=
  (stripeValid s t).filter fun a => decide (step ≤ cwPos s.prof (a % 2 ^ 27) / max 1 (stepCws s.prof t.stream))

/-- The valid IUs of a stripe are moved through the GC stream, and the stripe is collected first. -/
def moveFound (d n : Nat) (l : List Nat) (s : State) : State := markFirst d n (forEach l (fun a s => copyIu a false s) s)

/-- R310 for a slot of KIND 0x1. -/
def completeStripe (good : List Spill) (d n : Nat) (s : State) : State :=
  match stripeAt s d n with
  | none => s
  | some t =>
    let first := match t.passed with | some x => x + 1 | none => 0
    let begun := stepsBegun s.prof t
    let stop := ((upFrom first (begun - first)).find? fun k => !stepSound good s d n t k).getD begun
    let steps := upFrom first (stop - first)
    let s1 := setStripe d n { t with accs := steps.map fun k => { step := k, members := (accFound good d n k).headD [], queued := true } } s
    let passed := match t.members[t.ppos]? with | some (die, block) => (blkAt s die block).next | none => 0
    let s2 := onlyIf (first < stop) (queueSteps t t.ppos passed (endAt s.prof t.stream stop)) s1
    let s3 := if stop < begun then moveFound d n (validFrom s t stop) s2 else s2
    closeFound d n s3

/-- Step 5 of Table 12-9: every slot of KIND 0x1, then every slot of KIND 0x3. -/
def replayStripes (good : List Spill) (s : State) : State :=
  let s1 := forEach (s.dre.stripes.filter fun e => e.2.st == .opened) (fun e s => completeStripe good (e.1 / 2 ^ 32) (e.1 % 2 ^ 32) s) s
  let s2 := forEach (s.dre.stripes.filter fun e => e.2.st == .unprotected) (fun e s =>
    moveFound (e.1 / 2 ^ 32) (e.1 % 2 ^ 32) (stripeValid s e.2) s) s1
  finishPrograms s2

/-- A spilled sector may commit: its version is newer than every live MAP and RANGE record of its IU. -/
def spillNewest (s : State) (r : WellRec) : Bool :=
  (s.cst.log.all fun d => !(d.kind == .map && d.ns == r.ns && d.inst == r.inst && d.key == r.iu && d.ver != 0) || newer r.ver d.ver) &&
    (rngOf s r.ns r.iu).all fun x => newer r.ver x.ver

/-- Step 6 of Table 12-9: the newest spilled sector of each IU that may commit goes through the HOST stream. -/
def commitSpill (good : List Spill) (s : State) : State :=
  let rs := (spillRecs good s).filter fun r => recWhole good s r && spillNewest s r
  let rs := rs.filter fun r => rs.all fun x => !(x.ns == r.ns && x.iu == r.iu) || x.ver == r.ver || newer r.ver x.ver
  let s1 := forEach rs (fun r s =>
    place (iuDom s r.ns r.iu) 0
      { kind := .host, ns := r.ns, inst := r.inst, iu := r.iu, ver := r.ver, body := r.body, poison := nsUnits s r.ns == 1 && r.body.psn.any id }
      (onFte (fun f => { f with idx := f.idx ++ [{ r with live := true, tag := none, pos := none }] }) s)) s
  let s2 := forEach (s1.dre.stripes.filter fun e => e.2.st == .opened && !e.2.part) (fun e s => closePartial (e.1 / 2 ^ 32) (e.1 % 2 ^ 32) s) s1
  finishPrograms s2

/-! ## The open-stripe scan, R311 -/

/-- The map of the newest checkpoint with the shadowed records after it, Table 12-10 step 2. -/
def scanMap (k : Ckpt) (s : State) : State :=
  let ds := s.cst.log.filter fun d => decide (k.pos ≤ d.seq) && decide (d.seq < s.cst.shadow)
  let kept (r : RangeRec) : Bool := !(s.cst.log.any fun d => d.kind == .range && d.key == r.slot && d.ns == r.ns && decide (s.cst.shadow ≤ d.seq))
  let s1 := onFte (fun f =>
    let f1 := { f with map := k.map, nss := k.nss, root := k.root, dirSaved := k.dirs, rng := f.rng.filter kept }
    { f1 with dir := builtDir f1 ds }) (onCst (fun c => { c with log := ds, san := k.san }) s)
  forEach ds (fun d s =>
    if d.kind = .map then (if (nsAt s d.ns).any (fun n => n.inst == d.inst) then setMap d.ns d.key d.val s else s)
    else if d.kind = .range then match s.fte.rng.find? fun r => r.slot == d.key && r.ns == d.ns with
      | some r => applyRange r.ns r.lo (r.hi - r.lo + 1) r.ver (rangeVal r.kind) 1 s
      | none => s
    else if d.kind = .nsdel then
      onFte (fun f => { f with nss := tmod f.nss d.ns fun n => { n with live := false, att := [], segs := [] },
                               map := tfilter f.map fun x _ => x / 2 ^ 40 != d.ns }) s
    else s) s1

/-- Addresses of a stripe's data codewords on NAND, in the order their positions were given. -/
def stripeCws (s : State) (t : Stripe) : List Nat :=
  (List.range (posCount s.prof t)).filterMap fun f =>
    let (step, m, o) := posAt s.prof t f
    match t.members[m]? with
    | some (die, block) =>
      let a := cwKey die (cwOf s.prof block (step * stepCws s.prof t.stream + o))
      if thas s.fte.nand a then some a else none
    | none => none

/-- A codeword begins a whole copy of an IU of a namespace that exists. -/
def wholeCopy (s : State) (a : Nat) (c : Cw) : Bool :=
  match nsAt s c.ns with
  | none => false
  | some n => n.inst == c.inst && (upFrom a (iuUnits n.fmt)).all fun x => (tget s.fte.nand x).any fun y =>
      y.ns == c.ns && y.inst == c.inst && y.iu == c.iu && y.ver == c.ver

/-- Table 12-10 step 5: copies that the recovered map does not name. Of HOST copies the one at the highest stripe number and position wins,
and wins over a GC copy, which is taken only where the map names its source. -/
def scanCopies (l : List (Nat × Stripe)) (s : State) : State :=
  let cws (gc : Bool) (e : Nat × Stripe) : List Nat := if (e.2.stream == 1) == gc && e.2.stream != 2 then stripeCws s e.2 else []
  let s1 := forEach (l.flatMap (cws true)) (fun a s => match tget s.fte.nand a with
    | some c =>
      let src := (tget s.fte.nand (mapAt s c.ns c.iu)).any fun x => x.ns == c.ns && x.inst == c.inst && x.iu == c.iu && x.ver == c.ver
      if wholeCopy s a c && src then setMap c.ns c.iu a s else s
    | none => s) s
  forEach (l.flatMap (cws false)) (fun a s => match tget s.fte.nand a with
    | some c => if wholeCopy s a c then setMap c.ns c.iu a s else s
    | none => s) s1

/-- Stripes by rising number, over all domains. -/
def insStripe (x : Nat × Stripe) : List (Nat × Stripe) → List (Nat × Stripe)
  | [] => [x]
  | y :: l => if x.1 % 2 ^ 32 ≤ y.1 % 2 ^ 32 then x :: y :: l else y :: insStripe x l

/-- Table 12-10: in place of steps 1 to 5 of Table 12-9. `relocated` stripes of the scan set have a parity step that does not match. -/
def openScan (k : Ckpt) (relocated : Nat) (s : State) : State :=
  let set := (s.dre.stripes.filter fun e => e.2.st == .opened || e.2.st == .unprotected ||
    (e.2.st == .closed && decide (k.time ≤ e.2.closeT))).foldr insStripe []
  let s0 := onCst (fun c => { c with scan := true, doubt := [], spill := [], events := [] }) s
  let s1 := scanCopies set (scanMap k s0)
  let s2 := forEach (set.filter fun e => e.2.st == .opened) (fun e s => closeFound (e.1 / 2 ^ 32) (e.1 % 2 ^ 32) s) s1
  let s3 := logOpen 0x0603 s2
  let s4 := if relocated = 0 then s3 else logOpen 0x0606 (raiseSrc 277 (evt .cstEvt 5 s3))
  let s5 := forEach (set.take relocated) (fun e s => moveFound (e.1 / 2 ^ 32) (e.1 % 2 ^ 32) (stripeValid s e.2) s) s4
  let s6 := forEach s5.dre.pairs (fun p s => match nsAt s p.1 with
    | some n => dirtyGrans ((List.range (nsGranules n)).map (granKey p.1)) s
    | none => s) s5
  let idle (d b : Nat) : Bool :=
    let x := blkAt s d b
    (x.st == .free || x.st == .victim || x.st == .doubt) && (validIus s6 d b).isEmpty
  forEach (okDies s6) (fun d s => forEach ((List.range s.prof.blocksPerDie).filter (idle d)) (fun b s => doubtBlk d b s) s) (finishPrograms s6)

/-- An SRE state page that cannot be read, R253: its dies start again from the initial loop values and their factory columns. -/
def loseSre (lost : List Nat) (s : State) : State :=
  onSre (fun x => { x with dies := tmap x.dies fun k d => if lost.contains k then { cols := d.cols.filter fun c => c.kind == 0 } else d }) s

/-- Step 0x7. -/
def bootReplay (bad : List Nat) (scanOk : Bool) (relocated : Nat) (s : State) : State :=
  if shadowOnly s then
    match s.cst.ckpt, scanOk with
    | some k, true => stepDone 7 (commitSpill [] (openScan k relocated s))
    | _, _ => holdBoot 5 s
  else
    let good := spillGood bad s
    stepDone 7 (commitSpill good (replayStripes good (readSpill bad s)))

/-! ## Step 0x8 -/

/-- An erase of a block is queued on its die. -/
def eraseQueued (s : State) (die block : Nat) : Bool :=
  ((dieAt s die).queue ++ (dieAt s die).wait).any fun o => o.kind == .erase && o.block == block

/-- Erase-in-doubt entries are erased again in full, their counts charged once more (Table 8-6, R410). -/
def redoErases (s : State) : State :=
  forEach s.cst.doubt (fun e s =>
    if e.1 < 512 then (if eraseQueued s e.1 e.2.1 then s else doubtBlk e.1 e.2.1 s)
    else clearDoubt e.2.1 (modWBlk e.2.1 (fun b => { b with ec := b.ec + 1, next := 0 }) s)) s

/-- The sanitize record, Table 18-4. -/
def resumeSan (s : State) : State :=
  match s.cst.san with
  | none => s
  | some r =>
    if r.failed then s
    else match r.phase with
      | 1 => drawRoot s
      | 3 => forEach (okDies s) sanErase s
      | 4 => beginFinish s
      | _ => s

/-- Spill blocks that were written enter DOUBT, Table 12-9 step 9. -/
def freeSpill (s : State) : State :=
  forEach (okDies s) (fun d s => forEach ((List.range s.prof.blocksPerDie).filter fun b =>
    let x := blkAt s d b
    x.stream == 3 && (x.st == .opened || x.st == .closed)) (fun b s => doubtBlk d b s) s) s

/-- Step 0x8: steps 7 to 9 of Table 12-9. -/
def bootResume (s : State) : State :=
  let s1 := onFte (fun f => { f with victims := f.victims.map fun v => { v with st := .scan, asked := [], got := [] } }) (redoErases s)
  let s2 := onDre (fun d => { d with active := [] }) (dirtyGrans s1.dre.active s1)
  stepDone 8 (onCst (fun c => { c with hold := { c.hold with st := 0 }, spill := [] }) (freeSpill (resumeSan s2)))

/-! ## Step 0x9 -/

/-- Enabled controllers become ready (Table 2-4), and a critical warning already set is held for each (R40). -/
def readyCtrls (s : State) : State :=
  forEach (tkeys s.nvq.ctrls) (fun c s => if (ctrlAt s c).en && canReady s c then makeReady c s else s) s

/-- Failed dies that DRE has not been told of, R208. -/
def untold (s : State) : List Nat :=
  (tkeys s.fch.dies).filter fun d => (dieAt s d).failed && !(dieAt s d).retired &&
    (domSt s (dieDom d) == .inService || (domSt s (dieDom d) == .rebuilding && (domAt s (dieDom d)).rdie != d))

/-- Step 0x9, Table 2-2: the boot lock, DRE_CFG.PRI_INIT, the controllers, the mode; then what waited for the end of BOOT (R50, R208, R398, R434, R463). -/
def bootFinish (s : State) : State :=
  let s0 := onDre (fun d => { d with pri := rfld s .dreCfg 0 2 }) (onSys (fun y => { y with locked := !y.testArmed }) (stepDone 9 s))
  let s1 := onHpc (fun h => { h with mgmtPort := rfld s .sysCamCtl 0 2 }) s0
  let s2 := enterMode (if s.sys.testArmed then .factory else deriveMode s) 0x01 (readyCtrls s1)
  let s3 := checkSpare (gcLevels (forEach (untold s2) (fun d s => dieLost 0x03 d s) s2))
  let s4 := if s3.pwr.huRdy then s3 else huLow s3
  let s5 := rescale (if s.sys.rstCause = 3 ∨ s.sys.rstCause = 5 then ctrlCapture s4 else s4)
  let s6 := if s5.sec.rooted || s5.sys.testArmed then s5
    else putSec (fun x => { x with root := x.root + 1, rootPend := false, rooted := true }) s5
  onNvq (fun n => { n with ctrls := tmap n.ctrls fun _ x => { x with heldWarn := critWarn s6 } }) s6

/-- BOOT_STEP_COMPLETE, R43, Table 2-10: the work of the next boot step ends, and its failure holds boot. While boot is held for HOLD_WHY 0x1
DRAM is trained once. -/
def execBootStepComplete (env : BootEnv) (s : State) : Res := onSeq 0 s <|
  let at' (n : Nat) : Bool := s.sys.mode == .boot && s.sys.railsUp && !s.sys.hold && s.sys.step + 1 == n
  .next (match env with
    | .fuses r ok => if at' 1 then bootFuses r ok s else s
    | .images a b => if at' 2 then bootImages a b s else s
    | .cistern a b r => if at' 3 then bootCistern a b r s else s
    | .profile a b => if at' 4 then bootProfile a b s else s
    | .dram ok g r f =>
      if at' 5 then bootDram ok g r f s
      else if s.sys.mode = .boot ∧ s.sys.railsUp ∧ s.sys.hold ∧ s.sys.holdWhy = 1 ∧ !s.drm.started then trainDram ok g r f s else s
    | .nand silent m ts bad cols => if at' 6 then bootNand silent m ts bad cols s else s
    | .replay bad ok k lost => if at' 7 then bootReplay bad ok k (loseSre lost s) else s
    | .resume => if at' 8 then bootResume s else s
    | .finish => if at' 9 then bootFinish s else s)

/-- PROFILE_SELECT, R430, R43: a verified slot is marked next at reset; while boot is held for HOLD_WHY 0x1 or 0x2 it is applied at once and
boot resumes at the held step. -/
def execProfileSelect (src : Nat) (s : State) : Res :=
  .next (serve src 0x0202 (fun _ => false)
    (fun s r =>
      let held := s.sys.mode == .boot && s.sys.hold && (s.sys.holdWhy == 1 || s.sys.holdWhy == 2)
      if (slotAt s (3 + rqTgt r)).st ≠ 2 ∨ (held ∧ !prfBoots s (1 + rqTgt r)) then some (0x0202, []) else none)
    (fun r _ s =>
      let slot := 1 + rqTgt r
      let s1 :=
        if s.sys.mode = .boot ∧ s.sys.hold ∧ (s.sys.holdWhy = 1 ∨ s.sys.holdWhy = 2) then
          onSys (fun y => { y with hold := false, holdWhy := 0, step := max 4 y.step }) (useProfile slot s)
        else putDir (fun u => { u with nextPrf := slot }) s
      (s1, { detail := updW s1 })) s)

end Sys2Proof.Machine
end

