-- ==== Sys2Proof/Machine/Window.lean ====
section
/-! DEFINITION. Register accesses through the window (R9, R11 to R13, R46, R466 to R472), and the Cament operations that end or begin other
work: LONG_OPERATION_END, OP_CANCEL (R72) and MODE_REQUEST (R498); and DRAM_RETRAIN (R474). -/

namespace Sys2Proof.Machine

/-! ## Islands that serve registers, R468 -/

/-- The islands that serve a register, Table 20-1; the registers of island 0 are those R468 lists. -/
def regIslands (r : RegId) (i : Nat) : List Nat := match r with
  | .hpcLnkSts | .hpcPortCtl | .hpcPortEvt => [2 + i]
  | .fchChSts | .fchChCnt => [11 + i / 4]
  | .fchDieqSts => [11 + i / 64]
  | .sreDieSts => [19 + i / 128]
  | .sreChFrame => [19 + i / 8]
  | .cstBankSts => [43 + i]
  | .pwrRtcLo | .pwrRtcHi | .pwrRatio | .pwrAlarmLo | .pwrAlarmHi => [0]
  | .pwrTbLo | .pwrTbHi | .pwrTimeSts => [33]
  | .drmChSts | .drmChCnt => [36 + i]
  | _ => ([[1], [6], [7], [8], [9], [10], upFrom 11 8, upFrom 19 4, [23], [43, 44], upFrom 24 4, [28], [29], [30], [31], [32], [34], [34],
      [35], upFrom 36 4] : List (List Nat)).getD ((regDef r).addr / 0x40000) []

/-- A register's island is ON, so that an access completes; where several serve a block, one of them (log entry 9). -/
def regServed (s : State) (r : RegId) (i : Nat) : Bool := (regIslands r i).any (islOn s)

/-- The words an access touches. -/
def accWords (addr size : Nat) : List Nat := (List.range ((addr % 4 + size + 3) / 4)).map fun i => addr / 4 * 4 + 4 * i

/-- The islands of every register an access touches serve it. -/
def accServed (s : State) (addr size : Nat) : Bool :=
  (accWords addr size).all fun a => match regAt a with
    | none => true
    | some (r, i) => regServed s r i

/-- An access touches a register that an island serves. -/
def accTouches (isl addr size : Nat) : Bool :=
  (accWords addr size).any fun a => match regAt a with
    | none => false
    | some (r, i) => (regIslands r i).contains isl

/-! ## Writes -/

/-- PR_HOLD becomes 1 on the PR port, Table 4-8d: the partner is held in reset and the link is down. -/
def holdPartner (n : Nat) (s : State) : State :=
  if prPort s ≠ some n ∨ !s.hpc.released ∨ s.hpc.twin = 0 then s
  else
    let s1 := emit (.prPerst true) (modPort n (fun p =>
      { p with up := false, st := 0, width := 0, rate := 0, flit := false, cfgReady := false, perst := true }) s)
    if s.hpc.twin = 1 ∨ s.hpc.twin = 5 then s1 else twinLost s1

/-- RWL bits of a register that no longer take a window write: all of them once locked, and those R472 names once used. -/
def fixedBits (s : State) (r : RegId) : Word :=
  if s.sys.locked then 0xFFFFFFFF
  else match r with
    | .welCfg | .welPoolCfg | .welFloor | .welRqCfg => if s.wel.built then 0xFFFFFFFF else 0
    | .drmCfg => if s.drm.started then 0xFFFF else 0
    | .sysCamCtl => if s.sys.step = 9 then 3 else 0
    | _ => 0

/-- The value of an RWL write's fields that limits refuse is the old one: PWR_CFG.MIN_POOL by R391, FTE_CFG's GC fields by Table 8-9. -/
def limited (s : State) (r : RegId) (old v : Word) : Word := match r with
  | .pwrCfg =>
    let n := fld v 0 16
    if 1200 < n ∨ n < (s.prof.tokens.map (·.2)).foldl max 0 then (v &&& 0xFFFF0000) ||| (old &&& 0xFFFF) else v
  | .fteCfg => if fld v 16 8 ≤ fld v 8 8 then old else v
  | _ => v

/-- A write by the access codes of a register's bits, Table 0-4; an RWL bit written is remembered as overriding the profile (R471). -/
def writeBits (r : RegId) (i : Nat) (v0 : Word) (s : State) : State :=
  let d := regDef r
  let old := reg s r i
  let v := limited s r old v0
  let m := d.rwl &&& ~~~(fixedBits s r)
  let new := ((((old &&& ~~~(d.rw ||| m)) ||| (v &&& (d.rw ||| m))) &&& ~~~(v &&& d.w1c)) ||| (v &&& d.w1s))
  let s1 := if new = old then s else setReg r i new s
  if m = 0 then s1 else { s1 with ovr := tupd s1.ovr (d.addrOf i) 0 (· ||| m) }

/-- A 32-bit write of a register. -/
def writeReg (r : RegId) (i : Nat) (v : Word) (s : State) : State := match r with
  | .sysCamRcfg => writeRcfg i v s
  | .sysCamRdb => writeRdb i v s
  | .sysCamRsts => modRing i (fun x => { x with
      ownErr := x.ownErr && !bitOf v 0, rplStall := x.rplStall && !bitOf v 1, cfgErr := x.cfgErr && !bitOf v 2,
      dbErr := x.dbErr && !bitOf v 3 }) s
  | .hpcPortCtl =>
    let s1 := writeBits r i v s
    if bitOf v 0 && !bitOf (reg s .hpcPortCtl i) 0 then holdPartner i s1 else s1
  | .fltLatch => clearLatches i v s
  | .fltPinClr => if v = 0x5AA5 then releasePin s else s
  | .fltInj => writeInj v s
  | .fltSrcCfg =>
    if s.sys.locked then s
    else onFlt (fun f => { f with srcs := tupd f.srcs i {} fun x => { x with react := some (fld v 0 5), aen := some (fld v 8 3) } })
      { s with ovr := tset s.ovr ((regDef r).addrOf i) (regDef r).rwl }
  | .pmpSrc | .pmpDst | .pmpCnt | .pmpCtl | .pmpRetry => writePump i r v s
  | .pwrAlarmLo =>
    if 2 ≤ i then s
    else onPwr (fun p => { p with alarms := tupd p.alarms i {} fun x => { x with val := x.val / 2 ^ 32 * 2 ^ 32 + v.toNat } }) s
  | .pwrAlarmHi =>
    if 2 ≤ i then s
    else onPwr (fun p => { p with alarms := tupd p.alarms i {} fun x =>
      { val := fld v 0 16 * 2 ^ 32 + x.val % 2 ^ 32, en := bitOf v 31, wake := bitOf v 30 } }) s
  | .updConfirm => s
  | _ => writeBits r i v s

/-- A 32-bit write at a word-aligned address of the register range. -/
def writeAt (a : Nat) (v : Word) (s : State) : State := match regAt a with
  | none => s
  | some (r, i) => writeReg r i v s

/-! ## Reads -/

/-- What a 32-bit window read of a register does besides returning its value: RC fields clear (R470) and an LO register latches its HI word
(R469). The low-water mark of a pool starts again at what is free now. -/
def readEffect (r : RegId) (i : Nat) (s : State) : State := match r with
  | .nvqHwm => onNvq (fun n => { n with tagHwm := 0, ovlHwm := 0 }) s
  | .nvqSqStop => onNvq (fun n => { n with sqStop := none }) s
  | .xltSuspHwm => onXlt (fun x => { x with hwm := 0 }) s
  | .welPoolLow => onWel (fun w => { w with pools := tmod w.pools i fun p => { p with low := poolFree p } }) s
  | .mprLastErr => onMpr (fun m => { m with lastValid := false }) s
  | .fltLast => onFlt (fun f => { f with lastValid := false }) s
  | .sbmSens => onSbm (fun b => { b with sens := tmod b.sens i fun x => { x with peak := none } }) s
  | .qosTntUnitsLo => modTnt i (fun t => { t with hiLatch := t.units / 2 ^ 32 % 2 ^ 32 }) s
  | .cstLogSeqLo => onCst (fun c => { c with seqLatch := c.logSeq / 2 ^ 32 % 2 ^ 32 }) s
  | .pwrRtcLo => onPwr (fun p => { p with rtcLatch := p.rtc / 2 ^ 32 % 2 ^ 16 }) s
  | .pwrTbLo => onPwr (fun p => { p with tbLatch := p.tb / 2 ^ 32 % 2 ^ 32 }) s
  | _ => s

/-- The value a register reads as at a word-aligned address: 0 where none is defined (R13, R466). -/
def valueAt (s : State) (a : Nat) : Word := match regAt a with
  | none => 0
  | some (r, i) => regValue s r i

/-- The effect of a 32-bit read at a word-aligned address. -/
def readAt (a : Nat) (s : State) : State := match regAt a with
  | none => s
  | some (r, i) => readEffect r i s

/-- A byte of the register range, as a narrow read returns it. -/
def regByte (s : State) (a : Nat) : Byte := BitVec.ofNat 8 ((valueAt s (a / 4 * 4)).toNat / 256 ^ (a % 4))

/-! ## Accesses, R9, R11, R46, R468 -/

/-- A write of registers takes effect: one or two 32-bit writes, the lower address first. -/
def doWrite (addr size value : Nat) (s : State) : State :=
  let s1 := writeAt addr (lo32 value) s
  if size = 8 then writeAt (addr + 4) (hi32 value) s1 else s1

/-- A read of registers takes effect; a narrow one returns the addressed bytes and has no other effect. -/
def doRead (addr size : Nat) (s : State) : State :=
  if addr % 4 = 0 ∧ size = 4 then readAt addr (emit (.regRead addr (valueAt s addr).toNat) s)
  else if addr % 4 = 0 ∧ size = 8 then
    let s1 := readAt addr s
    emit (.regRead addr ((valueAt s addr).toNat + 2 ^ 32 * (valueAt s1 (addr + 4)).toNat)) (readAt (addr + 4) s1)
  else emit (.regRead addr (leNat ((upFrom addr size).map (regByte s)))) s

/-- A held access takes effect. -/
def doHeld (x : HeldAcc) (s : State) : State := if x.write then doWrite x.addr x.size x.value s else doRead x.addr x.size s

/-- An access is offered, R468: it completes where its islands are ON and else waits, in the order offered (R22). -/
def offer (x : HeldAcc) (s : State) : State :=
  if accServed s x.addr x.size then doHeld x s else onHpc (fun h => { h with held := h.held ++ [x] }) s

/-- The accesses that wait are delivered, in the order offered, as far as their islands are ON again (R22, R468). -/
def deliver (s : State) : State := forEach s.hpc.held offer (onHpc (fun h => { h with held := [] }) s)

/-- REGISTER_WRITE, R9, R11, R13, R46: `size` bytes in one access, through the BAR2 of function `fn`. A narrow write of registers is dropped. -/
def execRegisterWrite (fn addr size value : Nat) (s : State) : Res :=
  if 2 ^ 27 < addr + size then .fault (.noSuchAddress addr)
  else .next (
    if !barUp s fn then s
    else if addr < 0x01000000 then
      (if addr % 4 ≠ 0 ∨ (size ≠ 4 ∧ size ≠ 8) then wake s else offer { write := true, addr, size, value } (wake s))
    else if 0x01800000 ≤ addr ∧ addr < 0x01810000 then
      (if size = 4 ∧ addr % 4 = 0 then writeFlag ((addr - 0x01800000) / 4) (lo32 value) (wake s) else wake s)
    else hostBytes addr (leBytes size value) (wake s))

/-- REGISTER_READ, R9, R11, R46, R469, R470. -/
def execRegisterRead (fn addr size : Nat) (s : State) : Res :=
  if 2 ^ 27 < addr + size then .fault (.noSuchAddress addr)
  else .next (
    if !barUp s fn then s
    else if addr < 0x01000000 then offer { write := false, addr, size } (wake s)
    else emit (.busRead addr ((upFrom addr size).map (windowByte (wake s)))) (wake s))

/-! ## Islands that return to service, R22, R23, R362, R371, R377, R468 -/

/-- ISLAND_WAKE_ON_ACCESS: an F island in RETAIN returns to ON for a transfer offered to it; its signature is checked first, and the accesses
that wait for it are delivered. -/
def execIslandWakeOnAccess (isl : Nat) (sigOk : Bool) (s : State) : Res :=
  .next (
    if !s.sys.mode.serving || !fIsland isl || islAt s isl != .retain then s
    else
      let s1 := onPwr (fun p => { p with isl := terase p.isl isl }) s
      deliver (if sigOk then s1 else sigFailed isl (restoreIsland isl s1)))

/-- ISLAND_RESET_COMPLETE, R362: the island is back in service, with the effects of Table 15-4; BLK_DONE; and the accesses that wait for it
are delivered. MPR is reset only after every merge buffer has drained. -/
def execIslandResetComplete (isl : Nat) (s : State) : Res :=
  .next (
    if !s.flt.blk.contains isl || !fltUp s || (isl == 30 && !(s.mpr.merges ++ s.mpr.mwait).isEmpty) then s
    else
      let s1 := onFlt (fun f => { f with blk := f.blk.filter (· != isl) }) (onPwr (fun p => { p with isl := terase p.isl isl }) s)
      deliver (evt .fltEvt 3 (islandEffect isl s1)))

/-- STANDPIPE_WAKE, R377, Table 16-5: the islands are ON again and the accesses that wait for them are delivered. -/
def execStandpipeWake (rtcDelta : Nat) (mismatch : List Nat) (s : State) : Res :=
  .next (if s.sys.mode ≠ .standpipe ∨ !s.sys.wakeReq then s else deliver (standpipeWake rtcDelta mismatch s))

/-- An access that has waited 4 ms is ended: a read returns all ones, a write is dropped. -/
def endAcc (x : HeldAcc) (s : State) : State := if x.write then s else emit (.regRead x.addr (2 ^ (8 * x.size) - 1)) s

/-- HANDSHAKE_TIMEOUT, R23, R468: the channel's source, of the island it leads to; the transfer stays pending. A window access that has waited
through one timeout of its island is ended at the next, which stands for its 4 ms (DESIGN CHOICE, log entry 9). -/
def execHandshakeTimeout (isl : Nat) (s : State) : Res :=
  .next (
    if 46 ≤ isl then s
    else
      let hit (x : HeldAcc) : Bool := accTouches isl x.addr x.size
      let s1 := afterFaults s (raiseSrc isl s)
      forEach (s.hpc.held.filter fun x => hit x && x.late) endAcc (onHpc (fun h =>
        { h with held := (h.held.filter fun x => !(hit x && x.late)).map fun x => if hit x then { x with late := true } else x }) s1))

/-! ## Long operations -/

/-- LONG_OPERATION_END, R57, of an operation that no other command ends: BANK_RETEST, whose bank returns to service with status 0 (R292), and
TEL_SNAPSHOT, which then has its blocks written. -/
def execLongOperationEnd (h status : Nat) (detail : List Word) (s : State) : Res :=
  .next (match tget s.cam.ops h with
    | none => s
    | some o =>
      if o.st = .complete ∨ s.sys.mode = .holdup ∨ s.sys.mode = .dormant then s
      else if o.opcode = 0x0603 then
        let s1 := if status = 0 then bankBack o.target s else s
        endOp h status (if status = 0 then [regValue s1 .cstSts 0] else detail) [] s1
      else if o.opcode = 0x0C02 then (if status = 0 then endSnapshot h o s else endOp h status detail [] s)
      else s)

/-- A running operation can be cancelled, R72 and the chapters' words. -/
def mayCancel (s : State) (h : Nat) (o : LongOp) : Bool :=
  o.opcode == 0x0304 || o.opcode == 0x0D04 || o.opcode == 0x0485 || o.opcode == 0x0710 || o.opcode == 0x0883 || o.opcode == 0x0C02 ||
    (o.opcode == 0x0403 && s.fch.trnQ.any fun r => r.op == some h)

/-- The work of a cancelled operation stops, and the operation ends with 0x0003. -/
def cancelOp (h : Nat) (o : LongOp) (s : State) : State :=
  if o.opcode = 0x0D04 then cancelTrace s
  else if o.opcode = 0x0710 then abortPump o.target s
  else
    let s1 :=
      if o.opcode = 0x0304 then onFte (fun f => { f with gc := tmap f.gc fun _ g => if g.op = some h then { g with mode := 0, op := none } else g }) s
      else if o.opcode = 0x0403 then onFch (fun f => { f with trnQ := f.trnQ.filter fun r => r.op != some h }) s
      else if o.opcode = 0x0485 then
        let own (r : Reader) : Bool := match r with | .probe k _ => k == h | _ => false
        onSre (fun x => { x with ladders := (x.ladders.map fun l => { l with readers := l.readers.filter fun r => !own r }).filter fun l =>
          !l.readers.isEmpty || (x.ladders.any fun y => y.cw == l.cw && y.readers.isEmpty) }) s
      else if o.opcode = 0x0883 then
        onMpr (fun m => { m with scrub := m.scrub.filter (· != o.target), scrubOp := terase m.scrubOp o.target }) s
      else s
    endOp h 0x0003 [] [] s1

/-- OP_CANCEL, R72. Bits of word 2 that Table 3-15 does not define must be 0 here and are ignored by the other system opcodes that have some
(DESIGN CHOICE, log entry 14). -/
def execOpCancel (src : Nat) (s : State) : Res :=
  let hd (r : CamReq) : Nat := fld (rqW r 2) 0 6
  .next (serve src 0x0103 (fun _ => false)
    (fun s r =>
      if rqW r 2 &&& 0xFFFFFFC0 ≠ 0 then some (badField 2 (rqW r 2 &&& 0xFFFFFFC0))
      else match tget s.cam.ops (hd r) with
        | none => some (0x0103, [])
        | some o =>
          if o.st = .complete then some (0x0105, [lo32 o.status])
          else if let some v := o.ended then some (0x0105, [lo32 v.1])
          else if mayCancel s (hd r) o then none else some (0x0104, []))
    (fun r _ s => ((match tget s.cam.ops (hd r) with
      | some o => cancelOp (hd r) o s
      | none => s), {})) s)

/-! ## MODE_REQUEST, R498 -/

/-- MODE_REQUEST. -/
def execModeRequest (src : Nat) (s : State) : Res :=
  let code (r : CamReq) : Nat := fld (rqW r 2) 0 4
  .next (serve src 0x0111 (fun _ => false)
    (fun s r =>
      if rqW r 2 &&& 0xFFFFFFF0 ≠ 0 then some (badField 2 (rqW r 2 &&& 0xFFFFFFF0))
      else if code r ≠ 1 ∧ code r ≠ 7 ∧ code r ≠ 8 then some (badField 2 1)
      else if code r = 1 then none
      else if !sleepMode s then some (0x0102, [])
      else if !idleBut r.tag s then some (0x0101, [])
      else none)
    (fun r _ s =>
      let s1 :=
        if code r = 1 then (if s.sys.modeReq = some .standpipe then serveAgain s else s)
        else onSys (fun y => { y with modeReq := some (if code r = 7 then .standpipe else .dormant), fetchStop := true, wakeReq := false }) s
      (s1, { detail := [modeSts s] })) s)

/-! ## DRAM_RETRAIN, R474 -/

/-- DRAM_RETRAIN: a channel whose temperature has moved by more than RTRN_C is retrained. -/
def execDramRetrain (ch : Nat) (temp : Int) (s : State) : Res :=
  let c := drmChAt s ch
  .next (
    if !c.up || c.selfRef || (temp - c.trnTemp).natAbs ≤ orOne (rfld s .drmCfg 24 8) || !(s.sys.mode.serving || s.sys.mode == .boot) then s
    else raiseSrc 363 (evt .drmEvt 2 (onDrm (fun d =>
      { d with chs := tset d.chs ch { c with trnTemp := temp, retrains := sat 16 (c.retrains + 1) } }) s)))

end Sys2Proof.Machine
end

