-- ==== Sys2Proof/Machine/Dispatch.lean ====
section
/-! DEFINITION. One arm per command: each calls that command's meaning. -/

namespace Sys2Proof.Machine

def exec (i : Instr) (s : State) : Host.Outcome State Fault Refusal :=
  match i with
  | .powerOn island0Lost strap fuse => Sys2Proof.Machine.execPowerOn island0Lost strap fuse s
  | .chipResetToBoot strap fuse => Sys2Proof.Machine.execChipResetToBoot strap fuse s
  | .bootStepComplete env => Sys2Proof.Machine.execBootStepComplete env s
  | .pwrgdLow => Sys2Proof.Machine.execPwrgdLow s
  | .railOutOfRange rail uv => Sys2Proof.Machine.execRailOutOfRange rail uv s
  | .plossNAsserted => Sys2Proof.Machine.execPlossNAsserted s
  | .plossNShortPulse => Sys2Proof.Machine.execPlossNShortPulse s
  | .spillProgramPass die => Sys2Proof.Machine.execSpillProgramPass die s
  | .holdupComplete suppliesGood => Sys2Proof.Machine.execHoldupComplete suppliesGood s
  | .resetSpillStart => Sys2Proof.Machine.execResetSpillStart s
  | .overvoltageOnset => Sys2Proof.Machine.execOvervoltageOnset s
  | .overvoltagePersist => Sys2Proof.Machine.execOvervoltagePersist s
  | .wrStopClear => Sys2Proof.Machine.execWrStopClear s
  | .chgEnRestore => Sys2Proof.Machine.execChgEnRestore s
  | .chgEnStartupHoldEnd => Sys2Proof.Machine.execChgEnStartupHoldEnd s
  | .capvConversion uv => Sys2Proof.Machine.execCapvConversion uv s
  | .standpipeEntry => Sys2Proof.Machine.execStandpipeEntry s
  | .standpipeSample temp uv => Sys2Proof.Machine.execStandpipeSample temp uv s
  | .standpipeWake rtcDelta mismatch => Sys2Proof.Machine.execStandpipeWake rtcDelta mismatch s
  | .dormantEntry => Sys2Proof.Machine.execDormantEntry s
  | .autoDormantTimer => Sys2Proof.Machine.execAutoDormantTimer s
  | .idleGating isl => Sys2Proof.Machine.execIdleGating isl s
  | .islandWakeOnAccess isl sigOk => Sys2Proof.Machine.execIslandWakeOnAccess isl sigOk s
  | .handshakeTimeout isl => Sys2Proof.Machine.execHandshakeTimeout isl s
  | .alarmMatch a => Sys2Proof.Machine.execAlarmMatch a s
  | .crystalStopDetect => Sys2Proof.Machine.execCrystalStopDetect s
  | .ptmRequest port => Sys2Proof.Machine.execPtmRequest port s
  | .ptmExchangeComplete port hostTime => Sys2Proof.Machine.execPtmExchangeComplete port hostTime s
  | .slewAbsorbed => Sys2Proof.Machine.execSlewAbsorbed s
  | .ptmLost => Sys2Proof.Machine.execPtmLost s
  | .ratioWindow ns => Sys2Proof.Machine.execRatioWindow ns s
  | .thermalRead => Sys2Proof.Machine.execThermalRead s
  | .poolRecompute ungoverned => Sys2Proof.Machine.execPoolRecompute ungoverned s
  | .tokenGrant die op => Sys2Proof.Machine.execTokenGrant die op s
  | .zk540Window => Sys2Proof.Machine.execZk540Window s
  | .powerAverageCheck avgTokens => Sys2Proof.Machine.execPowerAverageCheck avgTokens s
  | .selfTestComplete fail => Sys2Proof.Machine.execSelfTestComplete fail s
  | .recalibrationRead die bin => Sys2Proof.Machine.execRecalibrationRead die bin s
  | .perstNAsserted port => Sys2Proof.Machine.execPerstNAsserted port s
  | .perstNDeasserted port => Sys2Proof.Machine.execPerstNDeasserted port s
  | .hotReset port => Sys2Proof.Machine.execHotReset port s
  | .linkDown port => Sys2Proof.Machine.execLinkDown port s
  | .flrPf ctrl => Sys2Proof.Machine.execFlrPf ctrl s
  | .flrVf ctrl => Sys2Proof.Machine.execFlrVf ctrl s
  | .configRequest ctrl op ready => Sys2Proof.Machine.execConfigRequest ctrl op ready s
  | .ideCheckFail port stream tag hdr => Sys2Proof.Machine.execIdeCheckFail port stream tag hdr s
  | .receivedErrorTlp port e fn tag hdr => Sys2Proof.Machine.execReceivedErrorTlp port e fn tag hdr s
  | .completionTimeout port tag => Sys2Proof.Machine.execCompletionTimeout port tag s
  | .inboundWindowRequest fromPartner addr r => Sys2Proof.Machine.execInboundWindowRequest fromPartner addr r s
  | .prPerstRelease => Sys2Proof.Machine.execPrPerstRelease s
  | .twinConfigStart chipId pface authOk rdy => Sys2Proof.Machine.execTwinConfigStart chipId pface authOk rdy s
  | .twinPartnerLost => Sys2Proof.Machine.execTwinPartnerLost s
  | .twinRetry => Sys2Proof.Machine.execTwinRetry s
  | .atsInvalidateRequest port rid page pages => Sys2Proof.Machine.execAtsInvalidateRequest port rid page pages s
  | .controllerEnable ctrl ams mps asqs acqs => Sys2Proof.Machine.execControllerEnable ctrl ams mps asqs acqs s
  | .controllerReset ctrl => Sys2Proof.Machine.execControllerReset ctrl s
  | .shutdownNotification ctrl => Sys2Proof.Machine.execShutdownNotification ctrl s
  | .nvmSubsystemReset ctrl => Sys2Proof.Machine.execNvmSubsystemReset ctrl s
  | .sqTailDoorbell ctrl qid value => Sys2Proof.Machine.execSqTailDoorbell ctrl qid value s
  | .cqHeadDoorbell ctrl qid value => Sys2Proof.Machine.execCqHeadDoorbell ctrl qid value s
  | .submissionFetch ctrl qid r => Sys2Proof.Machine.execSubmissionFetch ctrl qid r s
  | .contextMadeHot ctrl qid => Sys2Proof.Machine.execContextMadeHot ctrl qid s
  | .fetchRetry ctrl qid r => Sys2Proof.Machine.execFetchRetry ctrl qid r s
  | .admitToRun tag => Sys2Proof.Machine.execAdmitToRun tag s
  | .completionPost tag => Sys2Proof.Machine.execCompletionPost tag s
  | .heldAenDelivery ctrl => Sys2Proof.Machine.execHeldAenDelivery ctrl s
  | .deleteIoSubmissionQueue tag => Sys2Proof.Machine.execDeleteIoSubmissionQueue tag s
  | .createIoSubmissionQueue tag => Sys2Proof.Machine.execCreateIoSubmissionQueue tag s
  | .getLogPage tag => Sys2Proof.Machine.execGetLogPage tag s
  | .deleteIoCompletionQueue tag => Sys2Proof.Machine.execDeleteIoCompletionQueue tag s
  | .createIoCompletionQueue tag => Sys2Proof.Machine.execCreateIoCompletionQueue tag s
  | .identify tag => Sys2Proof.Machine.execIdentify tag s
  | .abort tag => Sys2Proof.Machine.execAbort tag s
  | .setFeatures tag => Sys2Proof.Machine.execSetFeatures tag s
  | .getFeatures tag => Sys2Proof.Machine.execGetFeatures tag s
  | .asynchronousEventRequest tag => Sys2Proof.Machine.execAsynchronousEventRequest tag s
  | .namespaceManagement tag nsze ncap fmt => Sys2Proof.Machine.execNamespaceManagement tag nsze ncap fmt s
  | .firmwareCommit tag img => Sys2Proof.Machine.execFirmwareCommit tag img s
  | .firmwareImageDownload tag => Sys2Proof.Machine.execFirmwareImageDownload tag s
  | .deviceSelfTest tag => Sys2Proof.Machine.execDeviceSelfTest tag s
  | .namespaceAttachment tag ctrls => Sys2Proof.Machine.execNamespaceAttachment tag ctrls s
  | .virtualizationManagement tag => Sys2Proof.Machine.execVirtualizationManagement tag s
  | .nvmeMiSend tag => Sys2Proof.Machine.execNvmeMiSend tag s
  | .nvmeMiReceive tag => Sys2Proof.Machine.execNvmeMiReceive tag s
  | .formatNvm tag => Sys2Proof.Machine.execFormatNvm tag s
  | .securitySend tag req => Sys2Proof.Machine.execSecuritySend tag req s
  | .securityReceive tag => Sys2Proof.Machine.execSecurityReceive tag s
  | .sanitize tag => Sys2Proof.Machine.execSanitize tag s
  | .camentPacket tag => Sys2Proof.Machine.execCamentPacket tag s
  | .flush tag => Sys2Proof.Machine.execFlush tag s
  | .write tag ing mirOk data => Sys2Proof.Machine.execWrite tag ing mirOk data s
  | .read tag outcomes => Sys2Proof.Machine.execRead tag outcomes s
  | .writeUncorrectable tag => Sys2Proof.Machine.execWriteUncorrectable tag s
  | .compare tag outcomes data => Sys2Proof.Machine.execCompare tag outcomes data s
  | .fusedCompareAndWrite tag outcomes mirOk expect data => Sys2Proof.Machine.execFusedCompareAndWrite tag outcomes mirOk expect data s
  | .writeZeroes tag ing => Sys2Proof.Machine.execWriteZeroes tag ing s
  | .datasetManagement tag => Sys2Proof.Machine.execDatasetManagement tag s
  | .verify tag outcomes => Sys2Proof.Machine.execVerify tag outcomes s
  | .meterTick => Sys2Proof.Machine.execMeterTick s
  | .transferBlockStart tag => Sys2Proof.Machine.execTransferBlockStart tag s
  | .traceEnd => Sys2Proof.Machine.execTraceEnd s
  | .translationCompletion req a => Sys2Proof.Machine.execTranslationCompletion req a s
  | .translationRetry req => Sys2Proof.Machine.execTranslationRetry req s
  | .prgSend tag => Sys2Proof.Machine.execPrgSend tag s
  | .prgResponse ctrl prg a => Sys2Proof.Machine.execPrgResponse ctrl prg a s
  | .prgTimeout ctrl prg => Sys2Proof.Machine.execPrgTimeout ctrl prg s
  | .mapPageLoaded ns page readable => Sys2Proof.Machine.execMapPageLoaded ns page readable s
  | .contextResume id k => Sys2Proof.Machine.execContextResume id k s
  | .engineStepStart ns iu step idx frees => Sys2Proof.Machine.execEngineStepStart ns iu step idx frees s
  | .pagePassed die block step bad accMis => Sys2Proof.Machine.execPagePassed die block step bad accMis s
  | .mapFold => Sys2Proof.Machine.execMapFold s
  | .logCompaction => Sys2Proof.Machine.execLogCompaction s
  | .rangeRecordFold slot => Sys2Proof.Machine.execRangeRecordFold slot s
  | .writeGrant tag => Sys2Proof.Machine.execWriteGrant tag s
  | .gcSelect dom => Sys2Proof.Machine.execGcSelect dom s
  | .gcScan dom stripe outcomes => Sys2Proof.Machine.execGcScan dom stripe outcomes s
  | .gcDrain dom stripe => Sys2Proof.Machine.execGcDrain dom stripe s
  | .erasePass die block => Sys2Proof.Machine.execErasePass die block s
  | .eraseFailure die block => Sys2Proof.Machine.execEraseFailure die block s
  | .programFailure die block step => Sys2Proof.Machine.execProgramFailure die block step s
  | .dieEntryChosen die => Sys2Proof.Machine.execDieEntryChosen die s
  | .busTransferGrant ch die => Sys2Proof.Machine.execBusTransferGrant ch die s
  | .dieReadyPoll die => Sys2Proof.Machine.execDieReadyPoll die s
  | .arrayOverrun die => Sys2Proof.Machine.execArrayOverrun die s
  | .suspendDue die => Sys2Proof.Machine.execSuspendDue die s
  | .eraseSuspendDone die => Sys2Proof.Machine.execEraseSuspendDone die s
  | .resumeDue die => Sys2Proof.Machine.execResumeDue die s
  | .readAroundOffer die op => Sys2Proof.Machine.execReadAroundOffer die op s
  | .channelTempSample ch temp => Sys2Proof.Machine.execChannelTempSample ch temp s
  | .marginCheck ch eye => Sys2Proof.Machine.execMarginCheck ch eye s
  | .retrainQueueServed => Sys2Proof.Machine.execRetrainQueueServed s
  | .retrainComplete r => Sys2Proof.Machine.execRetrainComplete r s
  | .frameReceived ch cw m => Sys2Proof.Machine.execFrameReceived ch cw m s
  | .decodeResult cw step d => Sys2Proof.Machine.execDecodeResult cw step d s
  | .candidateExpiry die plane col => Sys2Proof.Machine.execCandidateExpiry die plane col s
  | .loopWindowUpdate die bin => Sys2Proof.Machine.execLoopWindowUpdate die bin s
  | .sreStatePageWrite => Sys2Proof.Machine.execSreStatePageWrite s
  | .reconstructionDone cw sealOk partner => Sys2Proof.Machine.execReconstructionDone cw sealOk partner s
  | .stripeIdleClose dom stripe => Sys2Proof.Machine.execStripeIdleClose dom stripe s
  | .rebuildStripeStep dom stripe sealBad accMis => Sys2Proof.Machine.execRebuildStripeStep dom stripe sealBad accMis s
  | .rebuildMapScan dom => Sys2Proof.Machine.execRebuildMapScan dom s
  | .mirrorCompletion tag => Sys2Proof.Machine.execMirrorCompletion tag s
  | .mirrorTimeout tag => Sys2Proof.Machine.execMirrorTimeout tag s
  | .granuleInactive ns gran => Sys2Proof.Machine.execGranuleInactive ns gran s
  | .resyncChunkComplete ns gran last sealOk => Sys2Proof.Machine.execResyncChunkComplete ns gran last sealOk s
  | .checkpoint ok => Sys2Proof.Machine.execCheckpoint ok s
  | .allocate rq size => Sys2Proof.Machine.execAllocate rq size s
  | .allocationWaitServed pool => Sys2Proof.Machine.execAllocationWaitServed pool s
  | .allocationWaitTimeout rq => Sys2Proof.Machine.execAllocationWaitTimeout rq s
  | .free rq buf => Sys2Proof.Machine.execFree rq buf s
  | .attach rq buf => Sys2Proof.Machine.execAttach rq buf s
  | .detach rq buf => Sys2Proof.Machine.execDetach rq buf s
  | .handover rq buf rcv => Sys2Proof.Machine.execHandover rq buf rcv s
  | .unallocatedAccess addr => Sys2Proof.Machine.execUnallocatedAccess addr s
  | .pmpGo ch ctl src dst cnt => Sys2Proof.Machine.execPmpGo ch ctl src dst cnt s
  | .pmpAbort ch => Sys2Proof.Machine.execPmpAbort ch s
  | .burstAck ch idx => Sys2Proof.Machine.execBurstAck ch idx s
  | .burstError ch idx e => Sys2Proof.Machine.execBurstError ch idx e s
  | .burstRetry ch idx => Sys2Proof.Machine.execBurstRetry ch idx s
  | .uncorrectableRead cls mac loc stuck w => Sys2Proof.Machine.execUncorrectableRead cls mac loc stuck w s
  | .narrowWrite mem word oldUe => Sys2Proof.Machine.execNarrowWrite mem word oldUe s
  | .mergeBufferFree mem => Sys2Proof.Machine.execMergeBufferFree mem s
  | .trackingEntryExpiry cls mac row => Sys2Proof.Machine.execTrackingEntryExpiry cls mac row s
  | .scrubPass cls corrected bad => Sys2Proof.Machine.execScrubPass cls corrected bad s
  | .faultRailCode src p n samples => Sys2Proof.Machine.execFaultRailCode src p n samples s
  | .nmtEscalation src => Sys2Proof.Machine.execNmtEscalation src s
  | .islandResetComplete isl => Sys2Proof.Machine.execIslandResetComplete isl s
  | .fltLatchClear fn w mask => Sys2Proof.Machine.execFltLatchClear fn w mask s
  | .fltPinClr fn key => Sys2Proof.Machine.execFltPinClr fn key s
  | .fltInj fn v => Sys2Proof.Machine.execFltInj fn v s
  | .injectionEnd => Sys2Proof.Machine.execInjectionEnd s
  | .stagingTimeout => Sys2Proof.Machine.execStagingTimeout s
  | .warmActivationSwitch verifyOk => Sys2Proof.Machine.execWarmActivationSwitch verifyOk s
  | .updConfirm key => Sys2Proof.Machine.execUpdConfirm key s
  | .trialTimerExpiry => Sys2Proof.Machine.execTrialTimerExpiry s
  | .reverseHandoverTimeout restartOk => Sys2Proof.Machine.execReverseHandoverTimeout restartOk s
  | .whsOperationComplete ok => Sys2Proof.Machine.execWhsOperationComplete ok s
  | .whsSuspendDue => Sys2Proof.Machine.execWhsSuspendDue s
  | .whsResume => Sys2Proof.Machine.execWhsResume s
  | .executeOnlyRead addr => Sys2Proof.Machine.execExecuteOnlyRead addr s
  | .brownout => Sys2Proof.Machine.execBrownout s
  | .brownoutRecovery => Sys2Proof.Machine.execBrownoutRecovery s
  | .entropyFailure => Sys2Proof.Machine.execEntropyFailure s
  | .keyScheduleMismatch ns => Sys2Proof.Machine.execKeyScheduleMismatch ns s
  | .spdmRequest bus r => Sys2Proof.Machine.execSpdmRequest bus r s
  | .sanitizePhaseDone rootWritten => Sys2Proof.Machine.execSanitizePhaseDone rootWritten s
  | .sanitizeQuiesceTimeout => Sys2Proof.Machine.execSanitizeQuiesceTimeout s
  | .nonceExpiry => Sys2Proof.Machine.execNonceExpiry s
  | .challengeLockoutEnd => Sys2Proof.Machine.execChallengeLockoutEnd s
  | .mctpPacketReceived b p => Sys2Proof.Machine.execMctpPacketReceived b p s
  | .mctpAssemblyTimeout b => Sys2Proof.Machine.execMctpAssemblyTimeout b s
  | .setEndpointId b eid => Sys2Proof.Machine.execSetEndpointId b eid s
  | .getEndpointId b => Sys2Proof.Machine.execGetEndpointId b s
  | .getEndpointUuid b => Sys2Proof.Machine.execGetEndpointUuid b s
  | .getMctpVersionSupport b => Sys2Proof.Machine.execGetMctpVersionSupport b s
  | .getMessageTypeSupport b => Sys2Proof.Machine.execGetMessageTypeSupport b s
  | .getVendorDefinedMessageSupport b => Sys2Proof.Machine.execGetVendorDefinedMessageSupport b s
  | .readNvmeMiDataStructure b typ => Sys2Proof.Machine.execReadNvmeMiDataStructure b typ s
  | .nvmSubsystemHealthStatusPoll b => Sys2Proof.Machine.execNvmSubsystemHealthStatusPoll b s
  | .controllerHealthStatusPoll b ctrl => Sys2Proof.Machine.execControllerHealthStatusPoll b ctrl s
  | .configurationGet b id => Sys2Proof.Machine.execConfigurationGet b id s
  | .configurationSet b id value => Sys2Proof.Machine.execConfigurationSet b id value s
  | .vpdRead b off len => Sys2Proof.Machine.execVpdRead b off len s
  | .vpdWrite b => Sys2Proof.Machine.execVpdWrite b s
  | .miReset b => Sys2Proof.Machine.execMiReset b s
  | .basicManagementRead => Sys2Proof.Machine.execBasicManagementRead s
  | .dynamicAddressAssignment setdasa addr => Sys2Proof.Machine.execDynamicAddressAssignment setdasa addr s
  | .sidebandBusReset b storm => Sys2Proof.Machine.execSidebandBusReset b storm s
  | .sensorConversion site reading => Sys2Proof.Machine.execSensorConversion site reading s
  | .dramRetrain ch temp => Sys2Proof.Machine.execDramRetrain ch temp s
  | .sysCamRcfg fn p v => Sys2Proof.Machine.execSysCamRcfg fn p v s
  | .sysCamRdb fn p v => Sys2Proof.Machine.execSysCamRdb fn p v s
  | .requestTaken p => Sys2Proof.Machine.execRequestTaken p s
  | .replyStallTimeout p => Sys2Proof.Machine.execReplyStallTimeout p s
  | .camentMctpMessage b => Sys2Proof.Machine.execCamentMctpMessage b s
  | .longOperationEnd h status detail => Sys2Proof.Machine.execLongOperationEnd h status detail s
  | .nop src => Sys2Proof.Machine.execNop src s
  | .deviceInfo src => Sys2Proof.Machine.execDeviceInfo src s
  | .opQuery src => Sys2Proof.Machine.execOpQuery src s
  | .opCancel src => Sys2Proof.Machine.execOpCancel src s
  | .chipReset src => Sys2Proof.Machine.execChipReset src s
  | .troughRelease src => Sys2Proof.Machine.execTroughRelease src s
  | .troughCheck src => Sys2Proof.Machine.execTroughCheck src s
  | .troughPut src => Sys2Proof.Machine.execTroughPut src s
  | .troughGet src => Sys2Proof.Machine.execTroughGet src s
  | .modeGet src => Sys2Proof.Machine.execModeGet src s
  | .modeRequest src => Sys2Proof.Machine.execModeRequest src s
  | .qosInfo src => Sys2Proof.Machine.execQosInfo src s
  | .tenantSet src => Sys2Proof.Machine.execTenantSet src s
  | .tenantGet src => Sys2Proof.Machine.execTenantGet src s
  | .tenantBind src => Sys2Proof.Machine.execTenantBind src s
  | .tenantTrace src => Sys2Proof.Machine.execTenantTrace src s
  | .xltInfo src => Sys2Proof.Machine.execXltInfo src s
  | .suspList src => Sys2Proof.Machine.execSuspList src s
  | .atcDrop src => Sys2Proof.Machine.execAtcDrop src s
  | .fteInfo src => Sys2Proof.Machine.execFteInfo src s
  | .domCapacity src => Sys2Proof.Machine.execDomCapacity src s
  | .blockInfo src => Sys2Proof.Machine.execBlockInfo src s
  | .nsPlacement src => Sys2Proof.Machine.execNsPlacement src s
  | .gcControl src => Sys2Proof.Machine.execGcControl src s
  | .badlbaList src => Sys2Proof.Machine.execBadlbaList src s
  | .fchInfo src => Sys2Proof.Machine.execFchInfo src s
  | .chStatus src => Sys2Proof.Machine.execChStatus src s
  | .dieStatus src => Sys2Proof.Machine.execDieStatus src s
  | .chRetrain src => Sys2Proof.Machine.execChRetrain src s
  | .dieParam src => Sys2Proof.Machine.execDieParam src s
  | .bstGet src => Sys2Proof.Machine.execBstGet src s
  | .sreInfo src => Sys2Proof.Machine.execSreInfo src s
  | .loopGet src => Sys2Proof.Machine.execLoopGet src s
  | .defectList src => Sys2Proof.Machine.execDefectList src s
  | .coldefAdd src => Sys2Proof.Machine.execColdefAdd src s
  | .loopReset src => Sys2Proof.Machine.execLoopReset src s
  | .ladderProbe src => Sys2Proof.Machine.execLadderProbe src s
  | .dreInfo src => Sys2Proof.Machine.execDreInfo src s
  | .domStatus src => Sys2Proof.Machine.execDomStatus src s
  | .rebuildCtl src => Sys2Proof.Machine.execRebuildCtl src s
  | .dieRetire src => Sys2Proof.Machine.execDieRetire src s
  | .stripeInfo src => Sys2Proof.Machine.execStripeInfo src s
  | .mirrorSet src storeOk => Sys2Proof.Machine.execMirrorSet src storeOk s
  | .mirrorStatus src => Sys2Proof.Machine.execMirrorStatus src s
  | .cstInfo src => Sys2Proof.Machine.execCstInfo src s
  | .eventRead src => Sys2Proof.Machine.execEventRead src s
  | .ckptNow src => Sys2Proof.Machine.execCkptNow src s
  | .bankRetest src => Sys2Proof.Machine.execBankRetest src s
  | .welInfo src => Sys2Proof.Machine.execWelInfo src s
  | .poolStatus src => Sys2Proof.Machine.execPoolStatus src s
  | .rqStatus src => Sys2Proof.Machine.execRqStatus src s
  | .pumpStart src => Sys2Proof.Machine.execPumpStart src s
  | .pumpStatus src => Sys2Proof.Machine.execPumpStatus src s
  | .mprInfo src => Sys2Proof.Machine.execMprInfo src s
  | .eccCounts src => Sys2Proof.Machine.execEccCounts src s
  | .repairList src => Sys2Proof.Machine.execRepairList src s
  | .scrubNow src => Sys2Proof.Machine.execScrubNow src s
  | .fltInfo src => Sys2Proof.Machine.execFltInfo src s
  | .srcStatus src => Sys2Proof.Machine.execSrcStatus src s
  | .srcClear src => Sys2Proof.Machine.execSrcClear src s
  | .faultList src => Sys2Proof.Machine.execFaultList src s
  | .faultInject src => Sys2Proof.Machine.execFaultInject src s
  | .pinRelease src => Sys2Proof.Machine.execPinRelease src s
  | .pwrInfo src => Sys2Proof.Machine.execPwrInfo src s
  | .powerCapSet src => Sys2Proof.Machine.execPowerCapSet src s
  | .timeGet src => Sys2Proof.Machine.execTimeGet src s
  | .rtcAlarm src => Sys2Proof.Machine.execRtcAlarm src s
  | .chargerCtl src => Sys2Proof.Machine.execChargerCtl src s
  | .profileInfo src => Sys2Proof.Machine.execProfileInfo src s
  | .profileWrite src p => Sys2Proof.Machine.execProfileWrite src p s
  | .profileSelect src => Sys2Proof.Machine.execProfileSelect src s
  | .updInfo src => Sys2Proof.Machine.execUpdInfo src s
  | .imageStage src => Sys2Proof.Machine.execImageStage src s
  | .imageCommit src img => Sys2Proof.Machine.execImageCommit src img s
  | .stageDiscard src => Sys2Proof.Machine.execStageDiscard src s
  | .slotInfo src => Sys2Proof.Machine.execSlotInfo src s
  | .whsRead src => Sys2Proof.Machine.execWhsRead src s
  | .secInfo src => Sys2Proof.Machine.execSecInfo src s
  | .ownerChallenge src => Sys2Proof.Machine.execOwnerChallenge src s
  | .ownerSet src sigOk => Sys2Proof.Machine.execOwnerSet src sigOk s
  | .ownerLock src sigOk => Sys2Proof.Machine.execOwnerLock src sigOk s
  | .ownerRelease src sigOk => Sys2Proof.Machine.execOwnerRelease src sigOk s
  | .svnRaise src sigOk => Sys2Proof.Machine.execSvnRaise src sigOk s
  | .telInfo src => Sys2Proof.Machine.execTelInfo src s
  | .sensorRead src => Sys2Proof.Machine.execSensorRead src s
  | .telSnapshot src => Sys2Proof.Machine.execTelSnapshot src s
  | .registerWrite fn addr size value => Sys2Proof.Machine.execRegisterWrite fn addr size value s
  | .registerRead fn addr size => Sys2Proof.Machine.execRegisterRead fn addr size s
  | .ringEntryWrite fn addr bytes => Sys2Proof.Machine.execRingEntryWrite fn addr bytes s
  | .slotFlagWrite fn addr size v => Sys2Proof.Machine.execSlotFlagWrite fn addr size v s
  | .linkUp port width rate flit => Sys2Proof.Machine.execLinkUp port width rate flit s
  | .crystalStart => Sys2Proof.Machine.execCrystalStart s
  | .dieResetReadyTimeout die => Sys2Proof.Machine.execDieResetReadyTimeout die s
  | .whsReadBusyTimeout src => Sys2Proof.Machine.execWhsReadBusyTimeout src s
  | .entropySourcePass => Sys2Proof.Machine.execEntropySourcePass s

end Sys2Proof.Machine
end

