-- ==== Sys2Proof/Safety.lean ====
section
/-! DEFINITION. The terms claims use: a command ends with a next state of which something holds; what a command changes and
nothing else; a Cament request that its opcode's meaning accepts; the memories' canonical form. -/

namespace Sys2Proof

open Machine

/-- A command completes from a state. -/
def Completes (c : Instr) (s : State) : Prop := ∃ t, exec c s = .next t

/-- `exec c s` answers a next state, and `P` holds of it. -/
def Ends (c : Instr) (s : State) (P : State → Prop) : Prop := ∃ t, exec c s = .next t ∧ P t

/-- `exec c s` answers the next state in which the accesses that wait are delivered last (R22, R468), from a state of which `P` holds. -/
def Delivers (c : Instr) (s : State) (P : State → Prop) : Prop := ∃ v, exec c s = .next (deliver v) ∧ P v

/-! ## Frames -/

/-- The fields of the state. -/
inductive Part where
  | sys | pins | regs | ovr | cam | hpc | nvq | qos | xlt | fte | fch | sre | dre | cst | wel | pmp | mpr | flt | pwr | whs
  | upd | sec | sbm | drm | prof | profOn | out | free | pending
deriving DecidableEq, Repr

/-- A field holds the same in two states. -/
def Part.same (s t : State) : Part → Prop
  | .sys => t.sys = s.sys
  | .pins => t.pins = s.pins
  | .regs => t.regs = s.regs
  | .ovr => t.ovr = s.ovr
  | .cam => t.cam = s.cam
  | .hpc => t.hpc = s.hpc
  | .nvq => t.nvq = s.nvq
  | .qos => t.qos = s.qos
  | .xlt => t.xlt = s.xlt
  | .fte => t.fte = s.fte
  | .fch => t.fch = s.fch
  | .sre => t.sre = s.sre
  | .dre => t.dre = s.dre
  | .cst => t.cst = s.cst
  | .wel => t.wel = s.wel
  | .pmp => t.pmp = s.pmp
  | .mpr => t.mpr = s.mpr
  | .flt => t.flt = s.flt
  | .pwr => t.pwr = s.pwr
  | .whs => t.whs = s.whs
  | .upd => t.upd = s.upd
  | .sec => t.sec = s.sec
  | .sbm => t.sbm = s.sbm
  | .drm => t.drm = s.drm
  | .prof => t.prof = s.prof
  | .profOn => t.profOn = s.profOn
  | .out => t.out = s.out
  | .free => t.free = s.free
  | .pending => t.pending = s.pending

/-- Nothing but the listed fields differs between two states. -/
structure OnlyChanges (l : List Part) (s t : State) : Prop where
  same : ∀ p, p ∉ l → p.same s t

/-- The window address of a register repeat. -/
def regA (r : RegId) (i : Nat := 0) : Nat := (regDef r).addrOf i

/-- Of the stored registers, only those at the listed window addresses differ. -/
structure OnlyRegs (l : List Nat) (s t : State) : Prop where
  same : ∀ a, a ∉ l → tget t.regs a = tget s.regs a

/-- The fields that the assertion of a fault source can change (R360 to R366). -/
def faultParts : List Part := [.sys, .pins, .regs, .nvq, .cst, .flt, .pwr, .sbm, .free]

/-- The latch of a fault source is set. -/
def Latched (i : Nat) (s : State) : Prop := (srcAt s i).latched = true

/-- What stays when a fault source asserts (R360 to R366): of the parts it can change, everything but island states, a chip reset or a wake
asked for, FAULT_N, new event log entries, FLT_EVT, asynchronous events of controllers with the requests they complete, and a telemetry
capture; a latch that is set stays set. -/
structure FaultKeeps (s t : State) : Prop where
  sys : t.sys = { s.sys with resetReq := t.sys.resetReq, wakeReq := t.sys.wakeReq }
  pins : t.pins = { s.pins with faultN := t.pins.faultN }
  pwr : t.pwr = { s.pwr with isl := t.pwr.isl }
  cst : t.cst = { s.cst with events := t.cst.events, evSeq := t.cst.evSeq }
  nvq : t.nvq = { s.nvq with ctrls := t.nvq.ctrls, tags := t.nvq.tags, postSeq := t.nvq.postSeq }
  sbm : t.sbm = { s.sbm with ctrlCap := t.sbm.ctrlCap, ctrlGen := t.sbm.ctrlGen }
  regs : OnlyRegs [regA .fltEvt] s t
  latched : ∀ j, Latched j s → Latched j t
  rest : OnlyChanges faultParts s t

/-- Source `i` has asserted from state `u`: it is latched, and what `FaultKeeps` names stays as `u` has it. -/
def RaisedFrom (i : Nat) (u t : State) : Prop := Latched i t ∧ FaultKeeps u t

/-- The listed fields hold the same in two states. -/
def Keeps (l : List Part) (s t : State) : Prop := ∀ p ∈ l, p.same s t

/-- The boot step whose work ends next is `n`. -/
def AtStep (n : Nat) (s : State) : Prop := s.sys.mode = .boot ∧ s.sys.railsUp = true ∧ s.sys.hold = false ∧ s.sys.step + 1 = n ∧
  seqUp s 0 = true

/-- An event bit of a register is set. -/
def EvtSet (r : RegId) (b : Nat) (s : State) : Prop := bitOf (reg s r) b = true

/-- HOLDUP has been entered from state `u` with the RST_CAUSE of the chip reset that ends it (Table 12-6): the mode and its event, no
request of a reset or a sleep, CHG_EN low, the token pool of the hold-up plan, no engine, ladder, reconstruction or pump run left, islands
off; and, but from BOOT, the plan of the spill set (R303, R304). NAND, map and records stay. -/
structure HoldupEntered (cause : Nat) (u t : State) : Prop where
  mode : t.sys.mode = .holdup ∧ t.sys.prevMode = u.sys.mode ∧ t.sys.holdupCause = cause ∧ t.sys.modeReq = none ∧ t.sys.resetReq = none
  event : EvtSet .sysModeEvt 6 t
  pins : t.pins = { u.pins with chgEn := false }
  pool : t.pwr.pool = u.prof.holdupPool ∧ t.pwr.reqs = [] ∧ t.pwr.bgReqs = []
  engines : t.xlt.eng = [] ∧ t.sre.ladders = [] ∧ t.dre.recon = [] ∧ t.wel.stop = true ∧ ∀ ch, (pumpAt t ch).busy = false
  islands : ∀ e ∈ holdupIslands, islAt t e.1 = .off ∨ islAt u e.1 = .reset
  plan : u.sys.mode ≠ .boot → t.cst.hold.entries = (spillSet u).length ∧ t.cst.hold.tPloss = t.pwr.tb ∧
    (spillSet u = [] → t.cst.hold.st = 2) ∧ (spillSet u ≠ [] → okDies u ≠ [] → t.cst.hold.st = 1 ∧ t.cst.hold.plan ≠ [])
  fte : t.fte = { u.fte with blks := t.fte.blks }
  records : t.dre.stripes = u.dre.stripes ∧ t.cst.log = u.cst.log ∧ t.cst.ckpt = u.cst.ckpt
  rest : OnlyChanges [.sys, .pins, .regs, .fte, .fch, .sre, .xlt, .dre, .cst, .wel, .pmp, .flt, .pwr, .whs, .sbm, .free] u t

/-- A submission queue stays, but for the first of a fused pair that it names. -/
def SqKept (k : Nat) (s t : State) : Prop :=
  (tget t.nvq.sqs k).map (fun q => { q with half := none }) = (tget s.nvq.sqs k).map fun q => { q with half := none }

/-- The controllers `cs` have been reset (R125): they are disabled, their queues and commands are gone, and the queues of other controllers
stay, but for a fused pair whose first has ended. -/
structure CtrlsReset (cs : List Nat) (s t : State) : Prop where
  ctrls : ∀ c ∈ cs, (ctrlAt t c).en = false ∧ (ctrlAt t c).rdy = false ∧ (ctrlAt t c).shn = false ∧ (ctrlAt t c).feats = [] ∧
    (ctrlAt t c).aers = []
  queues : ∀ k, k / 65536 ∈ cs → tget t.nvq.sqs k = none ∧ tget t.nvq.cqs k = none
  others : ∀ k, k / 65536 ∉ cs → SqKept k s t ∧ tget t.nvq.cqs k = tget s.nvq.cqs k
  tags : ∀ k x, tget t.nvq.tags k = some x → x.ctrl ∉ cs
  rest : Keeps [.ovr, .prof, .profOn, .sec, .whs, .mpr, .drm, .pending] s t

/-- The functions `cs` have been reset (R93, Table 4-6): their controllers, and their configuration and translations; the AER error status and
header log are kept where they are sticky. -/
structure FnsReset (sticky : Bool) (cs : List Nat) (s t : State) : Prop where
  ctrls : CtrlsReset cs s t
  fns : ∀ c ∈ cs, fnAt t c = if sticky then { aer := (fnAt s c).aer, aerHdr := (fnAt s c).aerHdr } else {}
  atc : ∀ a ∈ t.xlt.atc, a.ctrl ∉ cs

/-- A configuration write of a function is answered, and its settings are then `f`; nothing else changes but a wake asked for (R377). -/
def CfgSets (c : Nat) (rdy : Bool) (s : State) (op : ConfigOp) (f : Fn) : Prop := Ends (.configRequest c op rdy) s fun t =>
  t.out = .cfgReply c (.done none) :: s.out ∧ fnAt t c = f ∧ OnlyChanges [.hpc, .out, .sys] s t

/-- No controller's outstanding Asynchronous Event Requests hold the tag. -/
def NoAer (tag : Nat) (s : State) : Prop := ∀ c x, tget s.nvq.ctrls c = some x → tag ∉ x.aers

/-- No event completes the tag, and no fused Compare ends it: what happens to other commands leaves it alone. -/
def Alone (tag : Nat) (s : State) : Prop := NoAer tag s ∧ ∀ j y, tget s.nvq.tags j = some y → y.fused ≠ some tag

/-- The command of a tag has its completion prepared, with a status. -/
def Posted (tag : Nat) (sc : Sc) (s : State) : Prop := ∃ y, tget s.nvq.tags tag = some y ∧ y.st = .post ∧ y.status = sc

/-- The command of a tag has its completion prepared, with a status and a completion word 0. -/
def PostedDw (tag : Nat) (sc : Sc) (dw0 : Nat) (s : State) : Prop :=
  ∃ y, tget s.nvq.tags tag = some y ∧ y.st = .post ∧ y.status = sc ∧ y.dw0 = dw0

/-- The admin command of tag `k`, with opcode `op`, takes effect now: it is in RUN and its data pages translate. -/
structure AdminRuns (k op : Nat) (s : State) (t : Tag) : Prop where
  tag : tget s.nvq.tags k = some t
  run : t.st = .run ∧ t.qid = 0 ∧ opc t.ent = op
  up : s.sys.mode.serving = true ∧ seqUp s 1 = true
  free : t.dma.st.free = true ∧ missAt s t t.dma.prog = none

/-- The I/O command of tag `k`, with opcode `op`, on the namespace `n` is worked on now. -/
structure IoRuns (k op : Nat) (s : State) (t : Tag) (n : Ns) : Prop where
  tag : tget s.nvq.tags k = some t
  run : t.st = .run ∧ t.qid ≠ 0 ∧ opc t.ent = op
  up : s.sys.mode.serving = true
  ns : nsAt s (entNsid t.ent) = some n

/-- Nothing holds a command's transfer back: no address translation, no tenant, nothing moved yet, no context waiting, no fused pair. -/
structure Unheld (s : State) (t : Tag) : Prop where
  ats : (fnAt s t.ctrl).atsEn = false
  fresh : t.tenant = none ∧ t.moved = 0 ∧ t.reserved = 0 ∧ t.psn = false ∧ t.placed = false ∧ t.mirWait = false ∧ t.fused = none ∧
    t.recs = none ∧ t.cut = none
  dma : t.dma.st.free = true ∧ t.dma.prog = 0
  lkp : t.lkp.st = .idle

/-- The command names one LBA, in IU `iu` of `n` at place `i`, whose newest content is the well record `r`, without poison and under the
namespace's key. -/
structure OneLbaInWell (s : State) (t : Tag) (n : Ns) (iu i : Nat) (r : WellRec) : Prop where
  one : nlb t.ent = 1
  place : iu = slba t.ent / lbasPerIu n.fmt ∧ i = slba t.ent % lbasPerIu n.fmt
  newest : liveRec s (entNsid t.ent) iu = some r
  whole : r.body.psn = [] ∧ r.body.key = nsKey s n

/-! ## Cament -/

/-- The state once the request that a source starts next has left its queue. -/
def taken (src : Nat) (s : State) : State := popReq src s

/-- The request `r` that source `src` starts next carries opcode `op` and passes checks 5 to 8 and the slot checks of Table 3-11. -/
structure Accepted (src op : Nat) (s : State) (r : CamReq) : Prop where
  next : ∃ r0, nextReq s src = some r0 ∧ r = trimReq r0 ∧ rqOp r0 = op
  mode : (s.sys.mode.serving = true ∨ s.sys.mode = .boot) ∧ seqUp s 0 = true
  fits : ∃ d, opDef op = some d ∧ check57 (taken src s) r d = none ∧ d.lo ≤ rqTgt r ∧ rqTgt r ≤ d.hi ∧
    rqTrough r = (d.trough != 0) ∧
    (rqTrough r = true → rqW r 2 &&& 0xC000C000 = 0 ∧ rqW r 3 &&& 0xF8000000 = 0 ∧ slotCheck (taken src s) r d.trough = none)

/-- The answer of a request that needs no slots: its second reply entry is given up, and one reply is written, in its place among those of its
source (R56). -/
def replied (r : CamReq) (status : Nat) (detail : List Word) (s : State) : State := finish r status detail [] s

/-- The state in which a request with slots takes effect: they are held. -/
def slotsHeld (r : CamReq) (src : Nat) (s : State) : State := holdSlots (rqFirst r) (rqCount r) (taken src s)

/-- The reply of a request with outbound slots: they are filled in order, returned with their LEN, and the reply is written. -/
def repliedOut (r : CamReq) (status : Nat) (detail : List Word) (data : List Byte) (s : State) : State :=
  replied r status detail (returnSlots (rqFirst r) (rqCount r) (some data.length) (fillSlots (rqFirst r) data s))

/-- The reply of a request with inbound slots: they are returned as they are, and the reply is written. -/
def repliedIn (r : CamReq) (status : Nat) (detail : List Word) (s : State) : State :=
  replied r status detail (returnSlots (rqFirst r) (rqCount r) none s)

/-- The request `r` is answered with a status and its detail, from a state of which `P` holds. -/
def Answers (c : Instr) (s : State) (r : CamReq) (status : Nat) (detail : List Word) (P : State → Prop) : Prop :=
  ∃ v, exec c s = .next (replied r status detail v) ∧ P v

/-- The long operation of a request (R57), and the operations it completes behind (R56). -/
def opOf (src op : Nat) (r : CamReq) (outbound : Bool) (behind : List Nat) : LongOp :=
  { src, tag := rqTag r, opcode := op, target := rqTgt r, notify := rqNotify r, noIrq := rqNoIrq r, fence := rqFence r,
    outbound, rsv := rqNotify r, discard := r.mute, behind, slots := if rqTrough r then some (rqFirst r, rqCount r) else none }

/-- A long operation has begun under handle `h` (R57): the handle is taken and the first reply, status 0x0001, names it, with an
estimate that is a free value; requests behind it that fail a check of 1 to 4 are answered (R56). -/
def begun (src op h : Nat) (r : CamReq) (outbound : Bool) (s : State) : State :=
  let s1 := onCam (fun c => { c with ops := tset c.ops h (opOf src op r outbound (earlier s r)) }) s
  let s2 := replyTo r 0x0001 [pack [(16, 16, freeBelow s1 0x10000), (0, 6, h)]] [] false (drawn s1)
  refuseFront src (srcQueue s2 src).length s2

/-- The operation `o` under handle `h` completes behind no other, and no answer or operation waits for it (R56). -/
def EndsFirst (h : Nat) (o : LongOp) (s : State) : Prop :=
  (o.behind = [] ∧ o.ended = none) ∧ (∀ g ∈ s.cam.gate, g.behind ≠ [] ∧ h ∉ g.behind) ∧
    ∀ e ∈ s.cam.ops, h ∉ e.2.behind ∧ (e.2.behind = [] → e.2.ended = none)

/-- The opcode and the source of a command that is a Cament opcode row. -/
def camOp : Instr → Option (Nat × Nat)
  | .nop src => some (0x0100, src)
  | .deviceInfo src => some (0x0101, src)
  | .opQuery src => some (0x0102, src)
  | .opCancel src => some (0x0103, src)
  | .chipReset src => some (0x0104, src)
  | .troughRelease src => some (0x0105, src)
  | .troughCheck src => some (0x0106, src)
  | .modeGet src => some (0x0110, src)
  | .modeRequest src => some (0x0111, src)
  | .troughPut src => some (0x0120, src)
  | .troughGet src => some (0x0121, src)
  | .profileInfo src => some (0x0200, src)
  | .profileWrite src _ => some (0x0201, src)
  | .profileSelect src => some (0x0202, src)
  | .fteInfo src => some (0x0300, src)
  | .domCapacity src => some (0x0301, src)
  | .blockInfo src => some (0x0302, src)
  | .nsPlacement src => some (0x0303, src)
  | .gcControl src => some (0x0304, src)
  | .badlbaList src => some (0x0305, src)
  | .xltInfo src => some (0x0380, src)
  | .suspList src => some (0x0381, src)
  | .atcDrop src => some (0x0382, src)
  | .fchInfo src => some (0x0400, src)
  | .chStatus src => some (0x0401, src)
  | .dieStatus src => some (0x0402, src)
  | .chRetrain src => some (0x0403, src)
  | .dieParam src => some (0x0404, src)
  | .bstGet src => some (0x0405, src)
  | .sreInfo src => some (0x0480, src)
  | .loopGet src => some (0x0481, src)
  | .defectList src => some (0x0482, src)
  | .coldefAdd src => some (0x0483, src)
  | .loopReset src => some (0x0484, src)
  | .ladderProbe src => some (0x0485, src)
  | .dreInfo src => some (0x0500, src)
  | .domStatus src => some (0x0501, src)
  | .rebuildCtl src => some (0x0502, src)
  | .dieRetire src => some (0x0503, src)
  | .stripeInfo src => some (0x0504, src)
  | .mirrorSet src _ => some (0x0505, src)
  | .mirrorStatus src => some (0x0506, src)
  | .cstInfo src => some (0x0600, src)
  | .eventRead src => some (0x0601, src)
  | .ckptNow src => some (0x0602, src)
  | .bankRetest src => some (0x0603, src)
  | .welInfo src => some (0x0700, src)
  | .poolStatus src => some (0x0701, src)
  | .rqStatus src => some (0x0702, src)
  | .pumpStart src => some (0x0710, src)
  | .pumpStatus src => some (0x0711, src)
  | .fltInfo src => some (0x0800, src)
  | .srcStatus src => some (0x0801, src)
  | .srcClear src => some (0x0802, src)
  | .faultList src => some (0x0803, src)
  | .faultInject src => some (0x0804, src)
  | .pinRelease src => some (0x0805, src)
  | .mprInfo src => some (0x0880, src)
  | .eccCounts src => some (0x0881, src)
  | .repairList src => some (0x0882, src)
  | .scrubNow src => some (0x0883, src)
  | .pwrInfo src => some (0x0900, src)
  | .powerCapSet src => some (0x0901, src)
  | .timeGet src => some (0x0902, src)
  | .rtcAlarm src => some (0x0903, src)
  | .chargerCtl src => some (0x0904, src)
  | .updInfo src => some (0x0A00, src)
  | .imageStage src => some (0x0A01, src)
  | .imageCommit src _ => some (0x0A0A, src)
  | .stageDiscard src => some (0x0A0B, src)
  | .slotInfo src => some (0x0A0C, src)
  | .whsRead src => some (0x0A0D, src)
  | .secInfo src => some (0x0B00, src)
  | .ownerChallenge src => some (0x0B01, src)
  | .ownerSet src _ => some (0x0B02, src)
  | .ownerLock src _ => some (0x0B03, src)
  | .ownerRelease src _ => some (0x0B04, src)
  | .svnRaise src _ => some (0x0B05, src)
  | .telInfo src => some (0x0C00, src)
  | .sensorRead src => some (0x0C01, src)
  | .telSnapshot src => some (0x0C02, src)
  | .qosInfo src => some (0x0D00, src)
  | .tenantSet src => some (0x0D01, src)
  | .tenantGet src => some (0x0D02, src)
  | .tenantBind src => some (0x0D03, src)
  | .tenantTrace src => some (0x0D04, src)
  | _ => none

/-- A byte of a pump's destination space: wells, DRAM, or trough. -/
def spaceByte (sp a : Nat) (s : State) : Byte :=
  if sp = 0 then mget 0 s.wel.mem a else if sp = 1 then mget 0 s.pmp.dram a else mget 0 s.cam.mem (0x02000000 + a)

/-! ## Window accesses -/

/-- A command is no window access, or one within the 128 MiB window. -/
def inWindow : Instr → Bool
  | .registerWrite _ addr size _ => decide (addr + size ≤ 2 ^ 27)
  | .registerRead _ addr size => decide (addr + size ≤ 2 ^ 27)
  | .ringEntryWrite _ addr bytes => decide (addr + bytes.length ≤ 2 ^ 27)
  | .slotFlagWrite _ addr size _ => decide (addr + size ≤ 2 ^ 27)
  | _ => true

/-- A register whose writable bits are stored and have no further effect, and none of which is loaded by the profile. -/
def plainReg (r : RegId) : Bool :=
  (regDef r).rwl == 0 && (regDef r).w1s == 0 && (regDef r).wo == 0 &&
    !([.sysCamRcfg, .sysCamRdb, .sysCamRsts, .hpcPortCtl, .fltLatch, .fltPinClr, .fltInj, .pmpSrc, .pmpDst, .pmpCnt, .pmpCtl, .pmpRetry,
      .pwrAlarmLo, .pwrAlarmHi, .updConfirm] : List RegId).contains r

/-- A register whose writable bits are all RWL and that neither R472 nor a limit of its fields keeps from a write before the boot lock. -/
def freelyLoaded (r : RegId) : Bool :=
  (regDef r).rwl != 0 && (regDef r).rw == 0 && (regDef r).w1c == 0 && (regDef r).w1s == 0 && (regDef r).wo == 0 &&
    !([.welCfg, .welPoolCfg, .welFloor, .welRqCfg, .drmCfg, .sysCamCtl, .pwrCfg, .fteCfg, .fltSrcCfg] : List RegId).contains r

/-! ## Memories -/

/-- The byte memories hold their canonical form: the window's ring area and trough, the inbound window, well space and DRAM. -/
def MemsWf (s : State) : Prop :=
  memWf 0 s.cam.mem = true ∧ memWf 0 s.hpc.window = true ∧ memWf 0 s.wel.mem = true ∧ memWf 0 s.pmp.dram = true

end Sys2Proof
end

