-- ==== Sys2Proof/Certificates/Slice0/Obligations.lean ====
section
/-! DEFINITION. The statements for the provers: what the commands of the device do, family by family, and what every step keeps. -/

open Sys2Proof Sys2Proof.Machine

/-! ## The block: steps, totality, memories, registers -/

/-- One step carries out the command at the front of the queue with the queue's rest; on an empty queue the block idles (the model's
choice, log entry 1). -/
def Obligations.StepTakesFrontCommand : Prop :=
  (∀ (c : Instr) (rest : List Instr) (s : State), step { s with pending := c :: rest } = exec c { s with pending := rest }) ∧
  (∀ s : State, s.pending = [] → step s = .next s)

/-- Every command but a window access past the window's end answers a next state in every state; such an access stops (the window is
128 MiB by R46; the stop is the model's choice, log entry 2). -/
def Obligations.EveryCommandCompletes : Prop :=
  (∀ (c : Instr) (s : State), inWindow c = true → Completes c s) ∧
  (∀ (fn addr size value : Nat) (s : State), 2 ^ 27 < addr + size →
    exec (.registerWrite fn addr size value) s = .fault (.noSuchAddress addr) ∧
    exec (.registerRead fn addr size) s = .fault (.noSuchAddress addr)) ∧
  (∀ (fn addr : Nat) (bytes : List Byte) (s : State), 2 ^ 27 < addr + bytes.length →
    exec (.ringEntryWrite fn addr bytes) s = .fault (.noSuchAddress addr)) ∧
  (∀ (fn addr size : Nat) (v : Word) (s : State), 2 ^ 27 < addr + size →
    exec (.slotFlagWrite fn addr size v) s = .fault (.noSuchAddress addr))

/-- The four byte memories (the window's ring area and trough, the twin inbound window, well space, DRAM) keep their canonical form at
every step, from every state that has it. Choices of the model it rests on: log entry 5. -/
def Obligations.StepsKeepMemoryForm : Prop :=
  ∀ s t : State, MemsWf s → step s = .next t → MemsWf t

/-- What reset leaves: BOOT with no step completed, no ring enabled, no operation running, no command waiting, the memories in
canonical form, and the reset values of the tables in the registers they give one.
Choices of the model it rests on: log entries 3 and 5. -/
def Obligations.ResetState : Prop :=
  MemsWf State.reset ∧ State.reset.sys.mode = .boot ∧ State.reset.sys.step = 0 ∧ State.reset.pending = [] ∧ State.reset.out = [] ∧
  State.reset.cam.ops = [] ∧ State.reset.cam.queue = [] ∧ (∀ p, (ringAt State.reset p).en = false) ∧ (∀ k, slotFlag State.reset k = 0) ∧
  valueAt State.reset 0x0 = 0x078000B1 ∧ valueAt State.reset 0x10 = 0 ∧ valueAt State.reset 0x20 = 0 ∧
  valueAt State.reset 0x100 = 0x300 ∧ valueAt State.reset 0x80000 = 0x8 ∧ valueAt State.reset 0xC0000 = 0x100 ∧
  valueAt State.reset 0x100000 = 0x64800080 ∧ valueAt State.reset 0x140000 = 0x50080324 ∧ valueAt State.reset 0x180000 = 0x80A0843C ∧
  valueAt State.reset 0x1C0000 = 0x20281403 ∧ valueAt State.reset 0x200000 = 0x640A0001 ∧ valueAt State.reset 0x240000 = 0x0A3C ∧
  valueAt State.reset 0x280000 = 0 ∧ valueAt State.reset 0x2C1C14 = 0x1003

/-- R9, R11: an aligned 32-bit write of a register that is plain storage sets its RW bits, clears the W1C bits written 1 and leaves
every other bit; nothing else changes but the wake of R377. A narrow write changes no register. A 64-bit write at a 4-byte-aligned
address is two 32-bit writes, the lower address first. Where an island that serves the registers is not ON the write waits for it (R22,
R468); through a function other than the management one, and in HOLDUP and DORMANT, it does nothing (R50, R66).
Choices of the model it rests on: log entry 9. -/
def Obligations.RegisterWrites : Prop :=
  (∀ (r : RegId) (i fn addr value : Nat) (s : State), plainReg r = true → addr < 0x01000000 → addr % 4 = 0 → barUp s fn = true →
    regAt addr = some (r, i) → regServed (wake s) r i = true →
    Ends (.registerWrite fn addr 4 value) s fun t =>
      let d := regDef r
      let v : Word := lo32 value
      reg t r i = (reg s r i &&& ~~~(d.rw ||| d.w1c)) ||| (v &&& d.rw) ||| (reg s r i &&& d.w1c &&& ~~~v) ∧
      OnlyRegs [d.addrOf i] s t ∧ OnlyChanges [.regs, .sys] s t) ∧
  (∀ (fn addr size value : Nat) (s : State), addr < 0x01000000 → addr + size ≤ 2 ^ 27 → barUp s fn = true →
    addr % 4 ≠ 0 ∨ (size ≠ 4 ∧ size ≠ 8) → exec (.registerWrite fn addr size value) s = .next (wake s)) ∧
  (∀ (fn addr value : Nat) (s : State), addr < 0x00FFFFFC → addr % 4 = 0 → barUp s fn = true → accServed (wake s) addr 8 = true →
    exec (.registerWrite fn addr 8 value) s =
      .next (writeAt (addr + 4) (hi32 value) (writeAt addr (lo32 value) (wake s)))) ∧
  (∀ (fn addr size value : Nat) (s : State), addr < 0x01000000 → addr + size ≤ 2 ^ 27 → barUp s fn = true → addr % 4 = 0 →
    size = 4 ∨ size = 8 → accServed (wake s) addr size = false →
    Ends (.registerWrite fn addr size value) s fun t =>
      t.hpc = { (wake s).hpc with held := s.hpc.held ++ [{ write := true, addr, size, value }] } ∧ OnlyChanges [.hpc, .sys] s t) ∧
  (∀ (fn addr size value : Nat) (s : State), addr + size ≤ 2 ^ 27 → barUp s fn = false →
    exec (.registerWrite fn addr size value) s = .next s)

/-- R471: until the boot lock a write of an RWL register sets its RWL bits and is remembered as overriding the profile; once the boot
is locked it changes nothing. Stated for the RWL registers that no used value fixes (R472) and no limit of their fields bounds.
Choices of the model it rests on: log entry 10. -/
def Obligations.BootLockFixesRegisters : Prop :=
  (∀ (r : RegId) (i : Nat) (v : Word) (s : State), freelyLoaded r = true → s.sys.locked = false →
    reg (writeReg r i v s) r i = (reg s r i &&& ~~~(regDef r).rwl) ||| (v &&& (regDef r).rwl) ∧
    tgetD (writeReg r i v s).ovr ((regDef r).addrOf i) 0 = tgetD s.ovr ((regDef r).addrOf i) 0 ||| (regDef r).rwl ∧
    OnlyChanges [.regs, .ovr] s (writeReg r i v s)) ∧
  (∀ (r : RegId) (i : Nat) (v : Word) (s : State), freelyLoaded r = true → s.sys.locked = true → writeReg r i v s = s)

/-- R9, R13, R466, R469, R470: an aligned 32-bit read returns the register's value, and clears RC fields; a narrow read returns the
bytes and has no effect; an address at which no register is defined reads 0 and a read of it does nothing else. A read of QOS_TNT_UNITS_LO[t]
latches the high word into QOS_TNT_UNITS_HI[t], so that the two 32-bit reads of a 64-bit read return one value (R149). A read whose
island is not ON waits for it (R22, R468). Choices of the model it rests on: log entry 9. -/
def Obligations.RegisterReads : Prop :=
  (∀ (fn addr : Nat) (s : State), addr < 0x01000000 → addr % 4 = 0 → barUp s fn = true → s.sys.mode ≠ .standpipe →
    s.sys.modeReq ≠ some .standpipe → accServed s addr 4 = true →
    Ends (.registerRead fn addr 4) s fun t => t.out = .regRead addr (valueAt s addr).toNat :: s.out ∧
      t.regs = s.regs ∧ t.cam = s.cam ∧ t.sys = s.sys ∧ t.pins = s.pins ∧ t.fte = s.fte ∧ t.dre = s.dre) ∧
  (∀ (addr : Nat) (s : State), regAt addr = none → valueAt s addr = 0 ∧ readAt addr s = s) ∧
  (∀ (fn addr size : Nat) (s : State), addr < 0x01000000 → addr + size ≤ 2 ^ 27 → barUp s fn = true →
    addr % 4 ≠ 0 ∨ (size ≠ 4 ∧ size ≠ 8) → accServed (wake s) addr size = true →
    exec (.registerRead fn addr size) s =
      .next (emit (.regRead addr (leNat ((upFrom addr size).map (regByte (wake s))))) (wake s))) ∧
  (∀ (fn addr size : Nat) (s : State), addr < 0x01000000 → addr + size ≤ 2 ^ 27 → barUp s fn = true →
    accServed (wake s) addr size = false →
    Ends (.registerRead fn addr size) s fun t =>
      t.hpc = { (wake s).hpc with held := s.hpc.held ++ [{ write := false, addr, size }] } ∧ OnlyChanges [.hpc, .sys] s t) ∧
  (∀ s : State, let t := readAt 0x80024 s
    t.nvq.tagHwm = 0 ∧ t.nvq.ovlHwm = 0 ∧ OnlyChanges [.nvq] s t) ∧
  (∀ s : State, (readAt (regA .fltLast) s).flt.lastValid = false ∧ OnlyChanges [.flt] s (readAt (regA .fltLast) s)) ∧
  (∀ (k : Nat) (s : State), k < 1024 → (tget s.qos.tnts k).isSome = true →
      let t := readAt (regA .qosTntUnitsLo k) s
      (valueAt s (regA .qosTntUnitsLo k)).toNat + 2 ^ 32 * (valueAt t (regA .qosTntUnitsHi k)).toNat = (tntAt s k).units % 2 ^ 64 ∧
      (tntAt t k).units = (tntAt s k).units ∧ (tntAt t k).ops = (tntAt s k).ops ∧ OnlyChanges [.qos] s t)

/-! ## Cament: rings, slots, replies -/

/-- R51: what SYS_CAM_RCFG does: enabling with a valid SIZE starts the ring with OWN 0 in every request entry and OWN 1 in every reply
entry, and no other byte changes; an invalid SIZE sets CFG_ERR; clearing EN stops the taking and discards later replies. A doorbell of
an enabled ring sets TAIL; a value outside the ring sets DB_ERR and changes no index; that of a disabled ring does nothing (R53). -/
def Obligations.RingConfiguration : Prop :=
  (∀ (fn p : Nat) (v : Word) (s : State), barUp s fn = true → p < 4 → (ringAt s p).en = false → ringActive s p = false → bitOf v 0 = true →
    6 ≤ fld v 4 4 → fld v 4 4 ≤ 12 →
    Ends (.sysCamRcfg fn p v) s fun t =>
      (ringAt t p).en = true ∧ (ringAt t p).size = fld v 4 4 ∧ (ringAt t p).vec = fld v 16 11 ∧ (ringAt t p).irqEn = bitOf v 8 ∧
      (ringAt t p).head = 0 ∧ (ringAt t p).rplNext = 0 ∧
      (∀ i, i < 2 ^ fld v 4 4 → ownAt t (reqAddr p i) = false ∧ ownAt t (rplAddr p i) = true) ∧
      (∀ a, (∀ i, i < 2 ^ fld v 4 4 → (a < reqAddr p i ∨ reqAddr p i + 4 ≤ a) ∧ (a < rplAddr p i ∨ rplAddr p i + 4 ≤ a)) →
        mget 0 t.cam.mem a = mget 0 s.cam.mem a) ∧
      (∀ q, q ≠ p → ringAt t q = ringAt s q) ∧ OnlyChanges [.cam, .sys] s t) ∧
  (∀ (fn p : Nat) (v : Word) (s : State), barUp s fn = true → p < 4 → (ringAt s p).en = false → ringActive s p = false → bitOf v 0 = true →
    (fld v 4 4 < 6 ∨ 12 < fld v 4 4) →
    Ends (.sysCamRcfg fn p v) s fun t => (ringAt t p).en = false ∧ (ringAt t p).cfgErr = true ∧ t.cam.mem = s.cam.mem ∧
      OnlyChanges [.cam, .sys] s t) ∧
  (∀ (fn p : Nat) (v : Word) (s : State), barUp s fn = true → p < 4 → (ringAt s p).en = true → bitOf v 0 = false →
    Ends (.sysCamRcfg fn p v) s fun t => (ringAt t p).en = false ∧ (ringAt t p).size = (ringAt s p).size ∧ t.cam.mem = s.cam.mem ∧
      (∀ r ∈ t.cam.queue, r.src = p → r.mute = true) ∧ (∀ g ∈ t.cam.gate, g.req.src = p → g.req.mute = true) ∧
      (∀ h o, tget t.cam.ops h = some o → o.src = p → o.discard = true) ∧
      OnlyChanges [.cam, .sys] s t) ∧
  (∀ (fn p : Nat) (v : Word) (s : State), barUp s fn = true → p < 4 → (ringAt s p).en = true → fld v 0 12 < (ringAt s p).n →
    Ends (.sysCamRdb fn p v) s fun t => ringAt t p = { ringAt s p with tail := fld v 0 12 } ∧ t.cam.mem = s.cam.mem ∧
      (∀ q, q ≠ p → ringAt t q = ringAt s q) ∧ OnlyChanges [.cam, .sys] s t) ∧
  (∀ (fn p : Nat) (v : Word) (s : State), barUp s fn = true → p < 4 → (ringAt s p).en = true → (ringAt s p).n ≤ fld v 0 12 →
    Ends (.sysCamRdb fn p v) s fun t => ringAt t p = { ringAt s p with dbErr := true } ∧ OnlyChanges [.cam, .sys] s t) ∧
  (∀ (fn p : Nat) (v : Word) (s : State), barUp s fn = true → p < 4 → (ringAt s p).en = false → exec (.sysCamRdb fn p v) s = .next (wake s)) ∧
  (∀ (fn p : Nat) (v : Word) (s : State), barUp s fn = false →
    exec (.sysCamRcfg fn p v) s = .next s ∧ exec (.sysCamRdb fn p v) s = .next s)

/-- R53, R54: the entry at REQ_HEAD is taken if reply space is free for it: its OWN becomes 0, REQ_HEAD advances, reply space is
reserved, and the request joins those waiting; one that fails a check of 1 to 4 is answered once no earlier request of its ring waits
(R56). An entry with OWN 0 sets OWN_ERR and stops the taking;
without reply space nothing is taken, and after 100 ms of waiting RPL_STALL is set. Choices of the model it rests on: log entry 12. -/
def Obligations.RequestTaking : Prop :=
  (∀ (p : Nat) (s : State), p < 4 → seqUp s 0 = true → ringsServed s = true → (ringAt s p).en = true →
    (ringAt s p).head ≠ (ringAt s p).tail → ownAt s (reqAddr p (ringAt s p).head) = true →
    replyRoom s p (ringAt s p) (headReq s p) = true →
    ((s.cam.queue ++ [headReq s p]).find? fun r => r.src == p).all (fun r => check14 r == none) = true →
    Ends (.requestTaken p) s fun t =>
      t.cam.queue = s.cam.queue ++ [headReq s p] ∧ ownAt t (reqAddr p (ringAt s p).head) = false ∧
      ringAt t p = { ringAt s p with head := ((ringAt s p).head + 1) % (ringAt s p).n,
                                     reserved := (ringAt s p).reserved + (if rqNotify (headReq s p) then 2 else 1) } ∧
      (∀ a, a < reqAddr p (ringAt s p).head ∨ reqAddr p (ringAt s p).head + 4 ≤ a → mget 0 t.cam.mem a = mget 0 s.cam.mem a) ∧
      OnlyChanges [.cam] s t) ∧
  (∀ (p : Nat) (s : State) (x : Nat × List Word), p < 4 → seqUp s 0 = true → ringsServed s = true → (ringAt s p).en = true →
    (ringAt s p).head ≠ (ringAt s p).tail → ownAt s (reqAddr p (ringAt s p).head) = true →
    replyRoom s p (ringAt s p) (headReq s p) = true → check14 (headReq s p) = some x →
    s.cam.queue.any (fun r => r.src == p) = false →
    exec (.requestTaken p) s = .next (replied (headReq s p) x.1 x.2 (takeEntry p (headReq s p) s))) ∧
  (∀ (p : Nat) (s : State), p < 4 → seqUp s 0 = true → ringsServed s = true → (ringAt s p).en = true →
    (ringAt s p).head ≠ (ringAt s p).tail → ownAt s (reqAddr p (ringAt s p).head) = false →
    Ends (.requestTaken p) s fun t => ringAt t p = { ringAt s p with ownErr := true, tail := (ringAt s p).head } ∧
      t.cam.queue = s.cam.queue ∧ t.cam.mem = s.cam.mem ∧ OnlyChanges [.cam] s t) ∧
  (∀ (p : Nat) (s : State), p < 4 → ringsServed s = true → (ringAt s p).en = true → (ringAt s p).head ≠ (ringAt s p).tail →
    ownAt s (reqAddr p (ringAt s p).head) = true → replyRoom s p (ringAt s p) (headReq s p) = false →
    exec (.requestTaken p) s = .next s ∧
    Ends (.replyStallTimeout p) s fun t => ringAt t p = { ringAt s p with rplStall := true } ∧ t.cam.mem = s.cam.mem ∧
      t.cam.queue = s.cam.queue ∧ OnlyChanges [.cam] s t)

/-- R46, R52, R59, R60: a host write to the trough stores its bytes and no other byte; one to a request entry whose OWN is 1 in an enabled
ring is dropped; an aligned 32-bit write of a slot's flag word sets OWN and LEN unless the slot is HELD; a read returns the bytes.
Choices of the model it rests on: log entries 5 and 12. -/
def Obligations.WindowMemory : Prop :=
  (∀ (fn addr : Nat) (bytes : List Byte) (s : State), barUp s fn = true → 0x05F00000 ≤ addr → addr + bytes.length ≤ 0x06000000 →
    Ends (.ringEntryWrite fn addr bytes) s fun t => mread 0 t.cam.mem addr bytes.length = bytes ∧
      (∀ a, a < addr ∨ addr + bytes.length ≤ a → mget 0 t.cam.mem a = mget 0 s.cam.mem a) ∧ t.cam.rings = s.cam.rings ∧
      t.cam.queue = s.cam.queue ∧ t.cam.flags = s.cam.flags ∧ OnlyChanges [.cam, .sys] s t) ∧
  (∀ (fn p i : Nat) (bytes : List Byte) (s : State), barUp s fn = true → p < 4 → (ringAt s p).en = true → i < (ringAt s p).n →
    (ringAt s p).n ≤ 4096 → bytes.length ≤ 64 → ownAt s (reqAddr p i) = true →
    Ends (.ringEntryWrite fn (reqAddr p i) bytes) s fun t => t.cam.mem = s.cam.mem ∧ OnlyChanges [.cam, .sys] s t) ∧
  (∀ (fn k : Nat) (v : Word) (s : State), barUp s fn = true → sideSlot ≤ k → k < slotCount → bitOf (slotFlag s k) 30 = false →
    Ends (.slotFlagWrite fn (0x01800000 + 4 * k) 4 v) s fun t => slotFlag t k = v &&& 0x80001FFF ∧
      (∀ j, j ≠ k → slotFlag t j = slotFlag s j) ∧ t.cam.mem = s.cam.mem ∧ OnlyChanges [.cam, .sys] s t) ∧
  (∀ (fn k : Nat) (v : Word) (s : State), barUp s fn = true → k < slotCount → bitOf (slotFlag s k) 30 = true →
    exec (.slotFlagWrite fn (0x01800000 + 4 * k) 4 v) s = .next (wake s)) ∧
  (∀ (fn addr size : Nat) (s : State), barUp s fn = true → 0x05F00000 ≤ addr → addr + size ≤ 0x06000000 →
    exec (.registerRead fn addr size) s = .next (emit (.busRead addr (mread 0 s.cam.mem addr size)) (wake s)))

/-- R55, R67, R68: where a reply goes. On a ring: the entry at RPL_NEXT holds its eight words, RPL_NEXT advances, and with IRQ_EN the message follows
unless every reply since the last message had NO_IRQ. For C0h: the command completes with the reply's words 0 and 2 and log page C0h holds it. On the sideband: a message
with words and payload. In HOLDUP, and for a request whose path was lost, nothing. Choices of the model it rests on: log entry 12. -/
def Obligations.RepliesByPath : Prop :=
  (∀ (r : CamReq) (st : Nat) (d : List Word) (pl : List Byte) (fin : Bool) (s : State), s.sys.mode ≠ .holdup → r.mute = false →
    r.src < 4 → (ringAt s r.src).en = true → (ringAt s r.src).rplNext < 4096 →
    let x := ringAt s r.src
    let t := replyTo r st d pl fin s
    mread 0 t.cam.mem (rplAddr r.src x.rplNext) 32 = wordBytes (replyWords r st d fin) ∧
    (∀ a, a < rplAddr r.src x.rplNext ∨ rplAddr r.src x.rplNext + 32 ≤ a → mget 0 t.cam.mem a = mget 0 s.cam.mem a) ∧
    ringAt t r.src = { x with rplNext := (x.rplNext + 1) % x.n, reserved := x.reserved - 1,
                                owed := (x.owed || !rqNoIrq r) && !x.irqEn } ∧
    t.out = (if x.irqEn = true ∧ (x.owed = true ∨ rqNoIrq r = false) then [.ringMsix (mgmtPf s) r.src x.vec] else []) ++
      .reply r.src (replyWords r st d fin) [] :: s.out ∧
    OnlyChanges [.cam, .out] s t) ∧
  (∀ (r : CamReq) (st tag : Nat) (d : List Word) (x : Tag) (s : State), s.sys.mode ≠ .holdup → r.mute = false → 4 ≤ r.src →
    r.tag = some tag → tget s.nvq.tags tag = some x → x.st ≠ .post → opc x.ent = 0xC0 → (tget s.nvq.ctrls x.ctrl).isSome = true →
    let ws := replyWords r st d false
    let t := replyTo r st d [] false s
    (∃ y, tget t.nvq.tags tag = some y ∧ y.st = .post ∧ y.status = .success ∧ y.dw0 = (ws.getD 0 0).toNat ∧ y.dw1 = (ws.getD 2 0).toNat) ∧
    (ctrlAt t x.ctrl).lastReply = ws ∧ OnlyChanges [.nvq, .out] s t) ∧
  (∀ (r : CamReq) (st : Nat) (d : List Word) (pl : List Byte) (fin : Bool) (s : State), s.sys.mode ≠ .holdup → r.mute = false →
    4 ≤ r.src → r.tag = none →
    ∃ o, (replyTo r st d pl fin s).out = .sideband r.bus o :: .reply r.src (replyWords r st d fin) pl :: s.out ∧
      OnlyChanges [.out] s (replyTo r st d pl fin s)) ∧
  (∀ (r : CamReq) (st : Nat) (d : List Word) (pl : List Byte) (fin : Bool) (s : State), s.sys.mode = .holdup ∨ r.mute = true →
    replyTo r st d pl fin s = s)

/-- R64, Tables 3-11, 3-12: for every opcode, the checks in their order: a request whose group the mode does not permit is answered 0x0010
with SYS_MODE_STS, then one that the owner lock bars 0x0011, then one whose TAG a running long operation of its source holds 0x0014 with
the handle, then a TARGET out of range 0x0007 with the highest one, then a TROUGH flag that the opcode does not match 0x0006. A refused
request changes nothing but its reply, its place in the queue and, for PROFILE_WRITE, IMAGE_STAGE and IMAGE_COMMIT, UPD_STS.REASON.
Choices of the model it rests on: log entries 14 and 58. -/
def Obligations.RequestChecks : Prop :=
  ∀ (c : Instr) (op src : Nat) (s : State) (r0 : CamReq) (d : OpDef), camOp c = some (op, src) → nextReq s src = some r0 → rqOp r0 = op →
    1 ≤ rqLen r0 → opDef op = some d → s.sys.mode.serving = true ∨ s.sys.mode = .boot → seqUp s 0 = true →
    let r := trimReq r0
    let s0 := taken src s
    let because (n : Nat) : State :=
      if op = 0x0201 ∨ op = 0x0A01 ∨ op = 0x0A0A then { s0 with upd := { s0.upd with reason := n } } else s0
    (groupOk s op = false → exec c s = .next (replied r 0x0010 [modeSts s] (because 1))) ∧
    (groupOk s op = true → d.lock = true → s.sec.lock = true → exec c s = .next (replied r 0x0011 [] (because 5))) ∧
    (∀ h, groupOk s op = true → (d.lock = false ∨ s.sec.lock = false) → tagHolder s r.src (rqTag r) = some h →
      exec c s = .next (replied r 0x0014 [lo32 h] s0)) ∧
    (groupOk s op = true → (d.lock = false ∨ s.sec.lock = false) → tagHolder s r.src (rqTag r) = none →
      (rqTgt r < d.lo ∨ d.hi < rqTgt r → exec c s = .next (replied r 0x0007 [lo32 d.hi] s0)) ∧
      (d.lo ≤ rqTgt r → rqTgt r ≤ d.hi → rqTrough r ≠ (d.trough != 0) →
        exec c s = .next (replied r 0x0006 (badField 0 (bitW 26)).2 s0)))

/-- R56: a Cament opcode command carries out the oldest waiting request of its source and no other: where that request carries another
opcode, or the source has none, the state is unchanged. -/
def Obligations.OpcodesServeTheirRequest : Prop :=
  ∀ (c : Instr) (op src : Nat) (s : State), camOp c = some (op, src) →
    (nextReq s src = none → exec c s = .next s) ∧ (∀ r, nextReq s src = some r → rqOp r ≠ op → exec c s = .next s)

/-- Table 3-15: NOP, DEVICE_INFO, OP_QUERY and MODE_GET answer from the state and change nothing else.
Choices of the model it rests on: log entry 15. -/
def Obligations.SystemQueries : Prop :=
  ∀ (src : Nat) (s : State) (r : CamReq), let u := taken src s
    (Accepted src 0x0100 s r → exec (.nop src) s = .next (replied r 0 [] u)) ∧
    (Accepted src 0x0101 s r → exec (.deviceInfo src) s = .next (replied r 0 [0x00400401, 16384, 16128, 0x078000B1, camSts s] u)) ∧
    (Accepted src 0x0102 s r → tget s.cam.ops (fld (rqW r 2) 0 6) = none → exec (.opQuery src) s = .next (replied r 0x0103 [] u)) ∧
    (∀ o, Accepted src 0x0102 s r → tget s.cam.ops (fld (rqW r 2) 0 6) = some o →
      exec (.opQuery src) s = .next (replied r 0 ([pack [(16, 16, o.status), (8, 8, 0xFF), (0, 1, b2n (o.st == .complete))],
        pack [(16, 16, o.opcode), (0, 16, o.tag)]] ++ o.detail.take 4) u)) ∧
    (Accepted src 0x0110 s r → exec (.modeGet src) s =
      .next (replied r 0 [modeSts s, bootSts s, lo32 s.sys.chgTime, hi32 s.sys.chgTime] u))

/-- R57, R72: CHIP_RESET with its key asks for a chip reset with RST_CAUSE 0x4 and without it is refused; OP_CANCEL of a running cancellable
operation ends it with status 0x0003 (kept until the operations it completes behind have ended, R56), and is refused for a free handle, a complete operation and one that cannot be cancelled.
Choices of the model it rests on: log entries 14 and 15. -/
def Obligations.ResetAndCancel : Prop :=
  (∀ (src : Nat) (s : State) (r : CamReq), Accepted src 0x0104 s r → rqW r 2 = 0xA5A5 → s.sys.resetReq = none →
    Answers (.chipReset src) s r 0 [] fun v => v.sys.resetReq = some 4 ∧ OnlyChanges [.sys] (taken src s) v) ∧
  (∀ (src : Nat) (s : State) (r : CamReq), Accepted src 0x0104 s r → rqW r 2 ≠ 0xA5A5 →
    exec (.chipReset src) s = .next (replied r 0x0006 (badField 2 (rqW r 2 ^^^ 0xA5A5)).2 (taken src s))) ∧
  (∀ (src h : Nat) (s : State) (r : CamReq) (o : LongOp), Accepted src 0x0103 s r → rqW r 2 = BitVec.ofNat 32 h → h < 64 →
    tget s.cam.ops h = some o → o.st = .running → o.ended = none → mayCancel (taken src s) h o = true → o.opcode ≠ 0x0D04 →
    o.opcode ≠ 0x0710 →
    Answers (.opCancel src) s r 0 [] fun v => ∃ o', tget v.cam.ops h = some o' ∧
      (o.behind = [] → o'.st = .complete ∧ o'.status = 0x0003) ∧ (o.behind ≠ [] → o' = { o with ended := some (0x0003, [], []) })) ∧
  (∀ (src h : Nat) (s : State) (r : CamReq), Accepted src 0x0103 s r → rqW r 2 = BitVec.ofNat 32 h → h < 64 →
    (tget s.cam.ops h = none → exec (.opCancel src) s = .next (replied r 0x0103 [] (taken src s))) ∧
    (∀ o, tget s.cam.ops h = some o → o.st = .complete →
      exec (.opCancel src) s = .next (replied r 0x0105 [lo32 o.status] (taken src s))) ∧
    (∀ o x, tget s.cam.ops h = some o → o.st = .running → o.ended = some x →
      exec (.opCancel src) s = .next (replied r 0x0105 [lo32 x.1] (taken src s))) ∧
    (∀ o, tget s.cam.ops h = some o → o.st = .running → o.ended = none → mayCancel (taken src s) h o = false →
      exec (.opCancel src) s = .next (replied r 0x0104 [] (taken src s))))

/-- R56, R57, R63: a long operation that ends keeps its result under its handle, returns its slots, and with NOTIFY sends its FINAL reply;
one that completes behind an earlier operation keeps its result until that one has ended, and the answers that wait for it then follow.
LONG_OPERATION_END ends BANK_RETEST: with status 0 the bank returns to service. Choices of the model it rests on: log entry 15. -/
def Obligations.LongOperationsEnd : Prop :=
  (∀ (h st : Nat) (d : List Word) (s : State) (o : LongOp), tget s.cam.ops h = some o → o.st = .running → EndsFirst h o s →
    o.notify = false → o.slots = none → s.sys.mode ≠ .holdup →
    let t := endOp h st d [] s
    tget t.cam.ops h = some { o with st := .complete, status := st, detail := d, done := s.cam.opSeq, written := 0 } ∧
    (∀ k, k ≠ h → tget t.cam.ops k = tget s.cam.ops k) ∧ t.cam.mem = s.cam.mem ∧ OnlyChanges [.cam] s t) ∧
  (∀ (h st : Nat) (d : List Word) (s : State) (o : LongOp), tget s.cam.ops h = some o → o.st = .running → EndsFirst h o s →
    o.notify = true → o.discard = false → o.slots = none → s.sys.mode ≠ .holdup →
    ∃ v, endOp h st d [] s = replyTo (opReq o) st d [] true v ∧ OnlyChanges [.cam] s v) ∧
  (∀ (h st : Nat) (d : List Word) (s : State) (o : LongOp), tget s.cam.ops h = some o → o.st = .running → o.ended = none → o.behind ≠ [] →
    endOp h st d [] s = onCam (fun c => { c with ops := tset c.ops h { o with ended := some (st, d, []) } }) s) ∧
  (∀ (h st : Nat) (d : List Word) (g : Gated) (l : List Gated) (s : State) (o : LongOp), tget s.cam.ops h = some o → o.st = .running →
    s.cam.gate = g :: l → g.behind = [h] → EndsFirst h o { s with cam := { s.cam with gate := l } } → o.notify = false → o.slots = none →
    ∃ v, endOp h st d [] s = replyTo g.req g.status g.detail g.payload false v ∧ v.cam.gate = l ∧ OnlyChanges [.cam] s v) ∧
  (∀ (h st : Nat) (d : List Word) (s : State) (o : LongOp), tget s.cam.ops h = some o → o.st = .running → o.opcode = 0x0603 → st ≠ 0 →
    s.sys.mode ≠ .holdup → s.sys.mode ≠ .dormant → exec (.longOperationEnd h st d) s = .next (endOp h st d [] s)) ∧
  (∀ (h : Nat) (d : List Word) (s : State) (o : LongOp), tget s.cam.ops h = some o → o.st = .running → o.opcode = 0x0603 →
    s.sys.mode ≠ .holdup → s.sys.mode ≠ .dormant →
    exec (.longOperationEnd h 0 d) s =
      .next (endOp h 0 [regValue (bankBack o.target s) .cstSts 0] [] (bankBack o.target s)))

/-- R61 to R63, R72: the trough opcodes. TROUGH_RELEASE clears OWN of the named slots that are not HELD and counts both kinds; TROUGH_CHECK
answers the CRC-32C of the inbound data; TROUGH_PUT stores the payload in a free sideband slot and with its flag gives the slot over;
TROUGH_GET returns the slot's data. Choices of the model it rests on: log entry 13. -/
def Obligations.TroughOpcodes : Prop :=
  (∀ (src : Nat) (s : State) (r : CamReq), Accepted src 0x0105 s r → sideSlot ≤ fld (rqW r 2) 0 14 →
    fld (rqW r 2) 0 14 + fld (rqW r 2) 16 14 < slotCount →
    let ks := upFrom (fld (rqW r 2) 0 14) (fld (rqW r 2) 16 14 + 1)
    let free := ks.filter fun k => !bitOf (slotFlag s k) 30
    Answers (.troughRelease src) s r 0 [lo32 free.length, lo32 (ks.length - free.length)] fun v =>
      (∀ k ∈ free, slotFlag v k = slotFlag s k &&& 0x7FFFFFFF) ∧ (∀ k, k ∉ free → slotFlag v k = slotFlag s k) ∧
      v.cam.mem = s.cam.mem ∧ OnlyChanges [.cam] s v) ∧
  (∀ (src : Nat) (s : State) (r : CamReq), Accepted src 0x0106 s r →
    exec (.troughCheck src) s = .next (repliedIn r 0 [crc32c (slotData s r)] (slotsHeld r src s))) ∧
  (∀ (s : State) (r : CamReq), Accepted 8 0x0120 s r → sideSlot ≤ fld (rqW r 2) 0 14 → bitOf (slotFlag s (fld (rqW r 2) 0 14)) 31 = false →
    fld (rqW r 2) 16 13 = r.payload.length → r.payload.length ≤ 4096 → bitOf (rqW r 2) 31 = true →
    let k := fld (rqW r 2) 0 14
    Answers (.troughPut 8) s r 0 [pack [(31, 1, 1), (0, 13, r.payload.length)]] fun v =>
      mread 0 v.cam.mem (slotAddr k) r.payload.length = r.payload ∧
      (∀ a, a < slotAddr k ∨ slotAddr k + r.payload.length ≤ a → mget 0 v.cam.mem a = mget 0 s.cam.mem a) ∧
      slotFlag v k = pack [(31, 1, 1), (0, 13, r.payload.length)] ∧ OnlyChanges [.cam] s v) ∧
  (∀ (s : State) (r : CamReq), Accepted 8 0x0121 s r → sideSlot ≤ fld (rqW r 2) 0 14 → bitOf (slotFlag s (fld (rqW r 2) 0 14)) 31 = false →
    let k := fld (rqW r 2) 0 14
    exec (.troughGet 8) s = .next (replyTo r 0 [slotFlag s k] (mread 0 s.cam.mem (slotAddr k) (flagLen (slotFlag s k))) false
      (dropSecond r (taken 8 s))))

/-- R498: MODE_REQUEST for STANDPIPE or DORMANT is accepted in a mode Table 2-2 permits it from with nothing outstanding, stops fetch and leaves
the entry in progress; it is refused 0x0102 from another mode and 0x0101 with work outstanding; for OPERATIONAL it ends a STANDPIPE entry.
Choices of the model it rests on: log entries 14 and 24. -/
def Obligations.ModeRequests : Prop :=
  (∀ (src : Nat) (s : State) (r : CamReq), Accepted src 0x0111 s r → rqW r 2 = 7 ∨ rqW r 2 = 8 → sleepMode s = true →
    idleBut r.tag (taken src s) = true →
    Answers (.modeRequest src) s r 0 [modeSts s] fun v => v.sys.modeReq = some (if rqW r 2 = 7 then .standpipe else .dormant) ∧
      v.sys.fetchStop = true ∧ v.sys.wakeReq = false ∧ v.sys.mode = s.sys.mode ∧ OnlyChanges [.sys] (taken src s) v) ∧
  (∀ (src : Nat) (s : State) (r : CamReq), Accepted src 0x0111 s r → rqW r 2 = 7 ∨ rqW r 2 = 8 → sleepMode s = false →
    exec (.modeRequest src) s = .next (replied r 0x0102 [] (taken src s))) ∧
  (∀ (src : Nat) (s : State) (r : CamReq), Accepted src 0x0111 s r → rqW r 2 = 7 ∨ rqW r 2 = 8 → sleepMode s = true →
    idleBut r.tag (taken src s) = false → exec (.modeRequest src) s = .next (replied r 0x0101 [] (taken src s))) ∧
  (∀ (src : Nat) (s : State) (r : CamReq), Accepted src 0x0111 s r → rqW r 2 = 1 → s.sys.modeReq ≠ some .standpipe →
    exec (.modeRequest src) s = .next (replied r 0 [modeSts s] (taken src s)))

/-! ## Wells and pumps -/

/-- R316 to R321, R323: ALLOCATE gives a buffer of the chosen pool to its requester, or leaves the request waiting and sets WAIT; a waiting
request that R320 then allows takes its buffer; a requester not listed is refused as misuse; an access to a FREE buffer writes nothing.
Choices of the model it rests on: log entry 37. -/
def Obligations.WellAllocation : Prop :=
  (∀ (rq size p : Nat) (s : State), welRuns s = true → (rqClass rq).isSome = true → basePool s (max 1 size) = some p → size ≤ 65536 →
    mayAlloc s { pool := p, rq, size := max 1 size } = true → (∀ w ∈ s.wel.waits, w.pool ≠ p) →
    let q := chosenPool s p
    Ends (.allocate rq size) s fun t => poolFree (poolAt t q) = poolFree (poolAt s q) - bufsOf s (max 1 size) ∧
      (poolAt t q).allocs = (poolAt s q).allocs + 1 ∧ t.wel.waits = s.wel.waits ∧ (q ≠ p → EvtSet .welEvt 1 t) ∧
      (bitOf (reg s .welCfg) 0 = true → tget t.wel.bufs (2 ^ 20 * q + (popBuf q s).1) =
        some { owner := rq, holders := [rq], cls := (rqClass rq).getD 2 }) ∧
      t.wel.mem = s.wel.mem ∧ OnlyRegs [regA .welEvt] s t ∧ OnlyChanges [.wel, .regs] s t) ∧
  (∀ (rq size p : Nat) (s : State), welRuns s = true → (rqClass rq).isSome = true → basePool s (max 1 size) = some p → size ≤ 65536 →
    mayAlloc s { pool := p, rq, size := max 1 size } = false →
    Ends (.allocate rq size) s fun t => t.wel = { s.wel with waits := s.wel.waits ++ [{ pool := p, rq, size := max 1 size }] } ∧
      EvtSet .welEvt 0 t ∧ OnlyRegs [regA .welEvt] s t ∧ OnlyChanges [.wel, .regs] s t) ∧
  (∀ (rq size : Nat) (s : State), welRuns s = true → rqClass rq = none → s.sys.mode ≠ .dormant →
    Ends (.allocate rq size) s (RaisedFrom 282 (evt .welEvt 4 s))) ∧
  (∀ (pool : Nat) (w : Wait) (s : State), welRuns s = true → nextWait s pool s.wel.waits = some w →
    Ends (.allocationWaitServed pool) s fun t => t.wel.waits = s.wel.waits.erase w ∧
      poolFree (poolAt t (chosenPool s w.pool)) = poolFree (poolAt s (chosenPool s w.pool)) - bufsOf s w.size ∧
      OnlyChanges [.wel, .regs] s t) ∧
  (∀ (rq : Nat) (s : State), s.sys.mode ≠ .dormant → (∃ w ∈ s.wel.waits, w.rq = rq) →
    Ends (.allocationWaitTimeout rq) s (RaisedFrom 285 s)) ∧
  (∀ (addr : Nat) (s : State), s.wel.built = true → welFreeAt s addr = true → s.sys.mode ≠ .dormant →
    Ends (.unallocatedAccess addr) s (RaisedFrom 283 (evt .welEvt 7 s)))

/-- R322, Table 13-3: FREE, ATTACH, DETACH and HANDOVER of a buffer. Choices of the model it rests on: log entry 37. -/
def Obligations.WellBuffers : Prop :=
  (∀ (rq buf : Nat) (b : Buf) (s : State), s.wel.built = true → (rqClass rq).isSome = true → tget s.wel.bufs buf = some b → b.owner = rq →
    b.pend = false → b.holders = [rq] →
    Ends (.free rq buf) s fun t => tget t.wel.bufs buf = none ∧ (∀ k, k ≠ buf → tget t.wel.bufs k = tget s.wel.bufs k) ∧
      (poolAt t (buf / 2 ^ 20)).ret = buf % 2 ^ 20 :: (poolAt s (buf / 2 ^ 20)).ret ∧ t.wel.mem = s.wel.mem ∧ OnlyChanges [.wel] s t) ∧
  (∀ (rq buf : Nat) (b : Buf) (s : State), s.wel.built = true → (rqClass rq).isSome = true → tget s.wel.bufs buf = some b → b.owner = rq →
    b.pend = false → 1 < b.holders.length →
    Ends (.free rq buf) s fun t => tget t.wel.bufs buf = some { b with pend := true, holders := b.holders.erase rq } ∧
      (∀ k, k ≠ buf → tget t.wel.bufs k = tget s.wel.bufs k) ∧ t.wel.pools = s.wel.pools ∧ OnlyChanges [.wel] s t) ∧
  (∀ (rq buf : Nat) (s : State), s.wel.built = true → (rqClass rq).isSome = true → tget s.wel.bufs buf = none → s.sys.mode ≠ .dormant →
    Ends (.free rq buf) s (RaisedFrom 282 (evt .welEvt 5 s))) ∧
  (∀ (rq buf : Nat) (b : Buf) (s : State), s.wel.built = true → (rqClass rq).isSome = true → tget s.wel.bufs buf = some b → b.owner ≠ rq →
    s.sys.mode ≠ .dormant →
    Ends (.free rq buf) s (RaisedFrom 282 (evt .welEvt 4 s))) ∧
  (∀ (rq buf : Nat) (b : Buf) (s : State), s.wel.built = true → (rqClass rq).isSome = true → tget s.wel.bufs buf = some b →
    b.pend = false → rq ∉ b.holders → b.holders.length < 15 →
    Ends (.attach rq buf) s fun t => tget t.wel.bufs buf = some { b with holders := b.holders ++ [rq] } ∧
      (∀ k, k ≠ buf → tget t.wel.bufs k = tget s.wel.bufs k) ∧ OnlyChanges [.wel] s t) ∧
  (∀ (rq buf : Nat) (b : Buf) (s : State), s.wel.built = true → (rqClass rq).isSome = true → tget s.wel.bufs buf = some b →
    b.pend = false → rq ∉ b.holders → 15 ≤ b.holders.length →
    Ends (.attach rq buf) s fun t => t.wel = { s.wel with attWait := s.wel.attWait ++ [(rq, buf)] } ∧ EvtSet .welEvt 6 t ∧
      OnlyChanges [.wel, .regs] s t) ∧
  (∀ (rq buf : Nat) (b : Buf) (s : State), s.wel.built = true → (rqClass rq).isSome = true → tget s.wel.bufs buf = some b →
    rq ∈ b.holders → b.pend = true → b.holders.length = 1 → (∀ x ∈ s.wel.attWait, x.2 ≠ buf) →
    Ends (.detach rq buf) s fun t => tget t.wel.bufs buf = none ∧ (∀ k, k ≠ buf → tget t.wel.bufs k = tget s.wel.bufs k) ∧
      (poolAt t (buf / 2 ^ 20)).ret = buf % 2 ^ 20 :: (poolAt s (buf / 2 ^ 20)).ret ∧ OnlyChanges [.wel] s t) ∧
  (∀ (rq buf : Nat) (b : Buf) (s : State), s.wel.built = true → (rqClass rq).isSome = true → tget s.wel.bufs buf = some b →
    rq ∈ b.holders → b.pend = false → b.owner ≠ rq → (∀ x ∈ s.wel.attWait, x.2 ≠ buf) →
    Ends (.detach rq buf) s fun t => tget t.wel.bufs buf = some { b with holders := b.holders.erase rq } ∧
      (∀ k, k ≠ buf → tget t.wel.bufs k = tget s.wel.bufs k) ∧ OnlyChanges [.wel] s t) ∧
  (∀ (rq buf rcv : Nat) (b : Buf) (s : State), s.wel.built = true → (rqClass rq).isSome = true → (rqClass rcv).isSome = true →
    tget s.wel.bufs buf = some b → rq ∈ b.holders → b.pend = false → b.owner = rq → rcv ∉ b.holders →
    Ends (.handover rq buf rcv) s fun t =>
      tget t.wel.bufs buf = some { b with owner := rcv, holders := b.holders.map (fun h => if h = rq then rcv else h) } ∧
      (∀ k, k ≠ buf → tget t.wel.bufs k = tget s.wel.bufs k) ∧ t.wel.pools = s.wel.pools ∧ OnlyChanges [.wel] s t)

/-- R325 to R331: a pump run. GO with registers that pass the checks starts it; one that fails sets ERR and END; an acknowledged burst has
its bytes in the destination and no other byte changed there; a channel has at most 8 bursts outstanding; the last burst ends the run with OK and END; a burst error waits for
its retry, and after the last one halts the channel when no burst is outstanding; ABORT stops a run in the same way.
Choices of the model it rests on: log entry 38. -/
def Obligations.PumpRuns : Prop :=
  (∀ (ch : Nat) (ctl src dst : Word) (cnt : Nat) (s : State), pumpUp s = true → ch < 12 → bitOf ctl 30 = false →
    (pumpAt s ch).busy = false → cnt < 2 ^ 28 →
    let p : Pump := { pumpAt s ch with src, dst, cnt, ctl := ctl &&& 0x3FF77000, op := none }
    (runErr s ch p = none → Ends (.pmpGo ch ctl src dst cnt) s fun t =>
      pumpAt t ch = { p with busy := true, halt := false, aborted := false, ok := false, err := 0, retries := 0, done := 0, acked := [],
                             failed := [], tries := [], stopping := none, issued := (pumpAt t ch).issued } ∧
      ((∀ k, burstsLeft (pumpAt s k) = false) → (pumpAt t ch).issued = min (burstCount p) 8) ∧
      (∀ k, k ≠ ch → pumpAt t k = { pumpAt s k with issued := (pumpAt t k).issued }) ∧ t.pmp.dram = s.pmp.dram ∧
      OnlyChanges [.pmp] s t) ∧
    (∀ e, runErr s ch p = some e → Ends (.pmpGo ch ctl src dst cnt) s fun t =>
      pumpAt t ch = { p with err := e, done := 0 } ∧ EvtSet .pmpEvt ch t ∧ (∀ k, k ≠ ch → pumpAt t k = pumpAt s k) ∧
      OnlyRegs [regA .pmpEvt] s t ∧ OnlyChanges [.pmp, .regs] s t)) ∧
  (∀ (ch idx : Nat) (s : State), ch < 16 → pumpUp s = true → burstOpen (pumpAt s ch) idx = true → burstClean s (pumpAt s ch) idx = true →
    burstPsn s (pumpAt s ch) idx = [] → srcSp (pumpAt s ch).ctl < 2 → dstSp (pumpAt s ch).ctl < 2 →
    (pumpAt s ch).stopping = none →
    let p := pumpAt s ch
    let p1 := ackPrefix (burstCount p) { p with acked := p.acked ++ [idx] }
    p1.done < p.cnt →
    Ends (.burstAck ch idx) s fun t => pumpAt t ch = { p1 with issued := (pumpAt t ch).issued } ∧
      (∀ i, i < burstLen p idx → spaceByte (dstSp p.ctl) (dstAddr p + burstOff p idx + i) t =
        spaceByte (srcSp p.ctl) (srcAddr p + burstOff p idx + i) s) ∧
      (∀ a, a < dstAddr p + burstOff p idx ∨ dstAddr p + burstOff p idx + burstLen p idx ≤ a →
        spaceByte (dstSp p.ctl) a t = spaceByte (dstSp p.ctl) a s) ∧
      OnlyChanges [.pmp, .wel] s t) ∧
  (∀ (ch idx : Nat) (s : State), ch < 16 → pumpUp s = true → burstOpen (pumpAt s ch) idx = true → burstClean s (pumpAt s ch) idx = true →
    burstPsn s (pumpAt s ch) idx = [] → srcSp (pumpAt s ch).ctl < 2 → dstSp (pumpAt s ch).ctl < 2 → (pumpAt s ch).op = none →
    (pumpAt s ch).stopping = none →
    let p := pumpAt s ch
    let p1 := ackPrefix (burstCount p) { p with acked := p.acked ++ [idx] }
    p.cnt ≤ p1.done →
    Ends (.burstAck ch idx) s fun t => pumpAt t ch = { p1 with busy := false, ok := true, issued := (pumpAt t ch).issued } ∧ EvtSet .pmpEvt ch t ∧
      OnlyRegs [regA .pmpEvt] s t ∧ OnlyChanges [.pmp, .wel, .regs] s t) ∧
  (∀ (ch idx : Nat) (e : BurstErr) (s : State), pumpUp s = true → burstOpen (pumpAt s ch) idx = true → e = .parity ∨ e = .response →
    tgetD (pumpAt s ch).tries idx 0 < fld (pumpAt s ch).retry 0 3 → (e = .response → burstFree s (pumpAt s ch) idx = false) →
    (pumpAt s ch).stopping = none → Ends (.burstError ch idx e) s fun t =>
      pumpAt t ch = { pumpAt s ch with failed := (pumpAt s ch).failed ++ [idx], issued := (pumpAt t ch).issued } ∧
      t.pmp.dram = s.pmp.dram ∧ OnlyChanges [.pmp] s t) ∧
  (∀ (ch idx : Nat) (s : State), ch < 16 → pumpUp s = true → burstOpen (pumpAt s ch) idx = true →
    burstFree s (pumpAt s ch) idx = true → tgetD (pumpAt s ch).tries idx 0 < fld (pumpAt s ch).retry 0 3 →
    Ends (.burstError ch idx .response) s fun t => idx ∈ (pumpAt t ch).failed ∧ EvtSet .welEvt 7 t ∧ Latched 283 t) ∧
  (∀ (ch idx : Nat) (e : BurstErr) (s : State), ch < 16 → pumpUp s = true → burstOpen (pumpAt s ch) idx = true → e = .parity ∨ e = .response →
    fld (pumpAt s ch).retry 0 3 ≤ tgetD (pumpAt s ch).tries idx 0 → (pumpAt s ch).op = none → (pumpAt s ch).stopping ≠ some 0 →
    (outstanding (pumpAt s ch) ≤ 1 → Ends (.burstError ch idx e) s fun t => (pumpAt t ch).busy = false ∧ (pumpAt t ch).halt = true ∧
      (pumpAt t ch).err = burstCode e ∧ (pumpAt t ch).done = (pumpAt s ch).done ∧ EvtSet .pmpEvt (16 + ch) t ∧ Latched (286 + ch) t) ∧
    (1 < outstanding (pumpAt s ch) → (e = .response → burstFree s (pumpAt s ch) idx = false) → Ends (.burstError ch idx e) s fun t =>
      pumpAt t ch = { pumpAt s ch with failed := (pumpAt s ch).failed ++ [idx], stopping := some (burstCode e) } ∧ OnlyChanges [.pmp] s t)) ∧
  (∀ (ch idx e : Nat) (s : State), ch < 16 → pumpUp s = true → burstOpen (pumpAt s ch) idx = true → burstClean s (pumpAt s ch) idx = true →
    (pumpAt s ch).stopping = some e → outstanding (pumpAt s ch) = 1 → e ≠ 0 → (pumpAt s ch).op = none →
    let p := pumpAt s ch
    0 < p.cnt → p.issued ≤ burstCount p →
    Ends (.burstAck ch idx) s fun t => (pumpAt t ch).busy = false ∧ (pumpAt t ch).halt = true ∧ (pumpAt t ch).err = e ∧
      (pumpAt t ch).done = (ackPrefix (burstCount p) { p with acked := p.acked ++ [idx] }).done ∧ EvtSet .pmpEvt (16 + ch) t ∧
      Latched (286 + ch) t) ∧
  (∀ (ch idx : Nat) (s : State), pumpUp s = true → (pumpAt s ch).busy = true → idx ∈ (pumpAt s ch).failed → (pumpAt s ch).stopping = none →
    Ends (.burstRetry ch idx) s fun t => pumpAt t ch =
        { pumpAt s ch with failed := (pumpAt s ch).failed.erase idx, retries := (pumpAt s ch).retries + 1,
                           tries := tupd (pumpAt s ch).tries idx 0 (· + 1) } ∧ OnlyChanges [.pmp] s t) ∧
  (∀ (ch : Nat) (s : State), ch < 16 → pumpUp s = true → (pumpAt s ch).busy = true → (pumpAt s ch).op = none →
    (pumpAt s ch).stopping = none →
    (outstanding (pumpAt s ch) ≠ 0 → Ends (.pmpAbort ch) s fun t => pumpAt t ch = { pumpAt s ch with stopping := some 0 } ∧
      OnlyChanges [.pmp] s t) ∧
    (outstanding (pumpAt s ch) = 0 → Ends (.pmpAbort ch) s fun t => (pumpAt t ch).busy = false ∧ (pumpAt t ch).aborted = true ∧ (pumpAt t ch).halt = (pumpAt s ch).halt ∧
      EvtSet .pmpEvt ch t ∧ OnlyChanges [.pmp, .wel, .cam, .regs, .free] s t)) ∧
  (∀ (ch : Nat) (s : State), outstanding (pumpAt s ch) ≤ 8 → outstanding (pumpAt (pumpSlots s) ch) ≤ 8)

/-- R332 and the well and pump opcodes: the queries answer from the state; PUMP_START loads a management channel, starts it and begins a long
operation; it is refused while the channel is busy and where the registers would fail the checks of GO.
Choices of the model it rests on: log entries 37 and 38. -/
def Obligations.WellPumpOpcodes : Prop :=
  ∀ (src : Nat) (s : State) (r : CamReq), let u := taken src s
    (Accepted src 0x0700 s r → exec (.welInfo src) s =
      .next (replied r 0 [reg s .welCfg, reg s .welPoolCfg, reg s .welFloor, clsStsW s, regValue s .pmpBusy 0] u)) ∧
    (Accepted src 0x0701 s r → poolPresent s (rqTgt r) = true → exec (.poolStatus src) s =
      .next (replied r 0 [regValue s .welPoolSts (rqTgt r), regValue s .welPoolTot (rqTgt r), lo32 (poolAt s (rqTgt r)).allocs,
        lo32 (poolAt s (rqTgt r)).fallbacks] u)) ∧
    (Accepted src 0x0701 s r → poolPresent s (rqTgt r) = false → exec (.poolStatus src) s = .next (replied r 0x0700 [] u)) ∧
    (Accepted src 0x0702 s r → exec (.rqStatus src) s = .next (replied r 0 [reg s .welRqCfg (rqTgt r), rqStsW s (rqTgt r)] u)) ∧
    (Accepted src 0x0711 s r → exec (.pumpStatus src) s = .next (replied r 0 [pumpStsW (pumpAt s (rqTgt r)),
      lo32 (pumpAt s (rqTgt r)).done, pumpCtlW (pumpAt s (rqTgt r))] u)) ∧
    (Accepted src 0x0710 s r → rqW r 5 &&& 0xC0000000 = 0 → (pumpAt s (rqTgt r)).busy = true →
      exec (.pumpStart src) s = .next (replied r 0x0701 [] u)) ∧
    (∀ e, Accepted src 0x0710 s r → rqW r 5 &&& 0xC0000000 = 0 → (pumpAt s (rqTgt r)).busy = false →
      runErr u (rqTgt r) (pumpOf u r) = some e → exec (.pumpStart src) s = .next (replied r 0x0702 [lo32 e] u)) ∧
    (∀ h, Accepted src 0x0710 s r → rqW r 5 &&& 0xC0000000 = 0 → (pumpAt s (rqTgt r)).busy = false →
      runErr u (rqTgt r) (pumpOf u r) = none → sideTroughOk r (pumpOf u r) = true → pickHandle s = some h →
      Ends (.pumpStart src) s fun t => (pumpAt t (rqTgt r)).busy = true ∧ (pumpAt t (rqTgt r)).op = some h ∧
        (pumpAt t (rqTgt r)).src = rqW r 2 ∧ (pumpAt t (rqTgt r)).dst = rqW r 3 ∧ (pumpAt t (rqTgt r)).cnt = fld (rqW r 4) 0 28 ∧
        OnlyChanges [.pmp] (begun src 0x0710 h r false u) t ∧
        (∀ k, k ≠ rqTgt r → pumpAt t k = { pumpAt s k with issued := (pumpAt t k).issued })) ∧
    (Accepted src 0x0710 s r → rqW r 5 &&& 0xC0000000 = 0 → (pumpAt s (rqTgt r)).busy = false →
      runErr u (rqTgt r) (pumpOf u r) = none → sideTroughOk r (pumpOf u r) = false →
      exec (.pumpStart src) s = .next (replied r 0x0702 [4] u))

/-! ## Power, clocks and time -/

/-- R399 to R401, R482: an overvoltage begins with OVP_N or a CAPV code above OVP_TH: CHG_EN falls, OVP is set and source 326 asserts; persisting it
stops new writes, fails those without a grant with Namespace Not Ready and asserts source 327, whose PIN reaction is fixed; its absence
ends WR_STOP and then restores CHG_EN; one that begins within 60 s of that return sets the charger lock, which CHARGER_CTL clears.
Choices of the model it rests on: log entry 54. -/
def Obligations.OvervoltageAndCharger : Prop :=
  (∀ s : State, s.pwr.ovp = false → capvOver s = false → s.pwr.chgHigh = none → s.sys.mode ≠ .dormant →
    Ends .overvoltageOnset s fun t => t.pwr.ovp = true ∧ t.pwr.chgOv = true ∧ t.pins.chgEn = false ∧ t.pins.ovpN = false ∧
      EvtSet .pwrEvt 5 t ∧ Latched 326 t ∧ t.pwr.chgLock = s.pwr.chgLock ∧ t.pwr.wrStop = s.pwr.wrStop ∧
      OnlyRegs [regA .pwrEvt, regA .fltEvt] s t ∧ OnlyChanges faultParts s t) ∧
  (∀ (t0 : Nat) (s : State), s.pwr.ovp = false → capvOver s = false → s.pwr.chgHigh = some t0 → s.pwr.tb ≤ t0 + 60000000000 →
    s.sys.mode ≠ .dormant →
    Ends .overvoltageOnset s fun t => t.pwr.chgLock = true ∧ t.pins.chgEn = false ∧ EvtSet .pwrEvt 6 t ∧ Latched 341 t ∧ Latched 326 t ∧
      OnlyChanges faultParts s t) ∧
  (∀ s : State, s.pwr.ovp = true → s.pwr.wrStop = false → s.sys.mode ≠ .dormant →
    Ends .overvoltagePersist s fun t => t.pwr.wrStop = true ∧ Latched 327 t ∧
      ((srcAt s 327).latched = false → t.pins.faultN = true) ∧
      (∀ k x, tget s.nvq.tags k = some x → x.st = .adm → isIo x = true → writeLike x.ent = true → x.granted = false →
        ∃ y, tget t.nvq.tags k = some y ∧ y.st = .post ∧ y.status = .nsNotReady ∧ y.dnr = false) ∧
      OnlyChanges faultParts s t) ∧
  (∀ s : State, s.pwr.wrStop = true → capvOver s = false →
    exec .wrStopClear s = .next { s with pwr := { s.pwr with wrStop := false, ovp := false }, pins := { s.pins with ovpN := true } }) ∧
  (∀ s : State, s.pwr.chgOv = true → capvOver s = false →
    Ends .chgEnRestore s fun t => t.pwr.chgOv = false ∧ t.pwr.ovp = false ∧ t.pwr.wrStop = false ∧ t.pins.ovpN = true ∧
      t.pins.chgEn = !(s.pwr.chgHold || s.pwr.chgLock || s.sys.mode == .holdup) ∧
      (t.pins.chgEn = true → s.pins.chgEn = false → t.pwr.chgHigh = some s.pwr.tb) ∧ OnlyChanges [.pwr, .pins] s t) ∧
  (∀ s : State, Ends .chgEnStartupHoldEnd s fun t => t.pwr = { s.pwr with chgHold := false } ∧
      t.pins = { s.pins with chgEn := !(s.pwr.chgOv || s.pwr.chgLock || s.sys.mode == .holdup) } ∧ OnlyChanges [.pwr, .pins] s t) ∧
  (∀ (uv : Nat) (s : State), let code := min 4095 (uv * 4096 / 1200000)
    pwrUp s = true → code ≤ rfld s .pwrHuCfg 20 12 → huReady s ≤ code →
    Ends (.capvConversion uv) s fun t =>
      t.pwr = { s.pwr with capv := code, huRdy := true, ovp := if s.pins.ovpN = true then false else s.pwr.ovp } ∧
      OnlyChanges [.pwr] s t) ∧
  (∀ (uv : Nat) (s : State), let code := min 4095 (uv * 4096 / 1200000)
    pwrUp s = true → code ≤ rfld s .pwrHuCfg 20 12 → code + 16 < huReady s → s.pwr.huRdy = true →
    Ends (.capvConversion uv) s fun t => t.pwr.capv = code ∧ t.pwr.huRdy = false ∧ EvtSet .pwrEvt 7 t ∧ Latched 328 t ∧
      OnlyRegs [regA .pwrEvt, regA .fltEvt] s t ∧ OnlyChanges faultParts s t) ∧
  (∀ (uv : Nat) (s : State), let code := min 4095 (uv * 4096 / 1200000)
    pwrUp s = true → code ≤ rfld s .pwrHuCfg 20 12 → code < huReady s → huReady s ≤ code + 16 →
    Ends (.capvConversion uv) s fun t => t.pwr.huRdy = s.pwr.huRdy ∧ t.pwr.capv = code ∧ OnlyChanges [.pwr] s t) ∧
  (∀ (uv : Nat) (s : State), let code := min 4095 (uv * 4096 / 1200000)
    pwrUp s = true → rfld s .pwrHuCfg 20 12 < code → huReady s ≤ code → s.pwr.ovp = false → s.pwr.chgHigh = none →
    Ends (.capvConversion uv) s fun t => t.pwr.capv = code ∧ t.pwr.ovp = true ∧ t.pins.chgEn = false ∧ EvtSet .pwrEvt 5 t ∧ Latched 326 t ∧
      t.pins.ovpN = s.pins.ovpN ∧ OnlyChanges faultParts s t) ∧
  (∀ (src : Nat) (s : State) (r : CamReq), Accepted src 0x0904 s r → s.pwr.ovp = false → s.pwr.chgLock = true →
    ∃ v, v.pwr.chgLock = false ∧ v.pins.chgEn = (!(s.pwr.chgHold || s.pwr.chgOv)) ∧ OnlyChanges [.pwr, .pins] (taken src s) v ∧
      exec (.chargerCtl src) s = .next (replied r 0 [pwrStsW v] v)) ∧
  (∀ (src : Nat) (s : State) (r : CamReq), Accepted src 0x0904 s r →
    (s.pwr.ovp = true → exec (.chargerCtl src) s = .next (replied r 0x0903 [] (taken src s))) ∧
    (s.pwr.ovp = false → s.pwr.chgLock = false → exec (.chargerCtl src) s = .next (replied r 0x0904 [] (taken src s))))

/-- R383: a forward correction of the time base, from the link that TIME_PORT names, is one step; a backward one is absorbed by slewing, in which the counter advances 1 ns for
every 2 ns of time until the correction is used up. -/
def Obligations.TimeBaseCorrections : Prop :=
  (∀ (n h : Nat) (s : State), pwrUp s = true → n = linkOf s s.hpc.timePort → (portAt s n).ptmOut = true → s.pwr.tbSt ≠ .slew →
    h < 2 ^ 64 → s.pwr.tb ≤ h →
    Ends (.ptmExchangeComplete n h) s fun t => t.pwr = { s.pwr with tb := h, tbSt := .sync, slew := 0, bound := some 0 } ∧
      (portAt t n).ptmOut = false ∧ OnlyChanges [.pwr, .hpc] s t) ∧
  (∀ (n h : Nat) (s : State), pwrUp s = true → n = linkOf s s.hpc.timePort → (portAt s n).ptmOut = true → s.pwr.tbSt ≠ .slew →
    h < s.pwr.tb → h < 2 ^ 64 →
    Ends (.ptmExchangeComplete n h) s fun t => t.pwr = { s.pwr with tbSt := .slew, slew := s.pwr.tb - h, bound := some 0 } ∧
      (portAt t n).ptmOut = false ∧ OnlyChanges [.pwr, .hpc] s t) ∧
  (∀ (ns : Nat) (s : State), s.pwr.tbSt = .slew → ns / 2 ≤ s.pwr.slew → ns % 2 = 0 →
    (advanceTb ns s).pwr = { s.pwr with tb := (s.pwr.tb + ns / 2) % 2 ^ 64, slew := s.pwr.slew - ns / 2 }) ∧
  (∀ s : State, s.pwr.tbSt = .slew → s.sys.mode = .boot → s.pwr.rtcValid = false → 32 ≤ s.pwr.slew →
    exec .meterTick s = .next { s with pwr := { s.pwr with tb := (s.pwr.tb + 32) % 2 ^ 64, slew := s.pwr.slew - 32 } })

/-- R384: while the state is SYNC the end of a window of 2^20 RTC cycles sets PWR_RATIO to the counted nanoseconds in units of 2^-16 ns per
cycle; in another state it sets nothing; the nominal value stands after reset, and island 0 keeps the ratio over a chip reset. -/
def Obligations.RtcRatio : Prop :=
  (∀ (ns : Nat) (s : State), s.pwr.tbSt = .sync → s.pwr.rtcValid = true → ns / 16 < 2 ^ 32 →
    exec (.ratioWindow ns) s = .next { s with pwr := { s.pwr with ratio := ns / 16 } }) ∧
  (∀ (ns : Nat) (s : State), s.pwr.tbSt ≠ .sync → exec (.ratioWindow ns) s = .next s) ∧
  State.reset.pwr.ratio = 0x77359400 ∧
  (∀ s : State, (regValue s .pwrRatio 0).toNat = s.pwr.ratio % 2 ^ 32) ∧
  (∀ (cause : Nat) (strap fuse : Bool) (s : State), (chipReset cause strap fuse s).pwr.ratio = s.pwr.ratio)

/-- R379 to R382, R385: the RTC's VALID, the alarms, and the PTM exchange that feeds the time base (every endpoint link asks, the PR link answers as root, and only the link of TIME_PORT
steers); one during
SLEW replaces the correction that remains, and the end of the correction advances the count by what it lacks and gives SYNC.
Choices of the model it rests on: log entries 8 and 55. -/
def Obligations.RtcAlarmsAndPtm : Prop :=
  (∀ s : State, s.pwr.rtcStarted = false →
    exec .crystalStart s = .next { s with pwr := { s.pwr with rtcStarted := true, rtcValid := true } }) ∧
  (∀ s : State, pwrUp s = true →
    Ends .crystalStopDetect s (RaisedFrom 334 { s with pwr := { s.pwr with rtcValid := false } })) ∧
  (∀ (a : Nat) (s : State), a < 4 → (alarmAt s a).en = true → s.pwr.rtcStarted = true → s.pwr.rtc ≤ (alarmAt s a).val →
    s.sys.mode ≠ .dormant →
    Ends (.alarmMatch a) s fun t => t.pwr.rtc = (alarmAt s a).val ∧ alarmAt t a = { alarmAt s a with en := false } ∧
      EvtSet .pwrEvt (10 + a) t ∧ (∀ b, b ≠ a → alarmAt t b = alarmAt s b) ∧
      ((alarmAt s a).wake = true → s.sys.mode = .standpipe → t.sys.wakeReq = true) ∧
      OnlyRegs [regA .pwrEvt] s t ∧ OnlyChanges [.pwr, .regs, .sys] s t) ∧
  (∀ (n : Nat) (s : State), pwrUp s = true → s.sys.mode ≠ .holdup → governs s n = true → (portAt s n).up = true →
    (isPr s n = false → (fnAt s (ctrlOf n 0)).ptmEn = true →
      Ends (.ptmRequest n) s fun t => t.out = .ptm n :: s.out ∧ (portAt t n).ptmOut = true ∧ OnlyChanges [.hpc, .out] s t) ∧
    (isPr s n = true → exec (.ptmRequest n) s = .next (emit (.ptmTime n s.pwr.tb) s))) ∧
  (∀ (n h : Nat) (s : State), pwrUp s = true → n ≠ linkOf s s.hpc.timePort → (portAt s n).ptmOut = true →
    Ends (.ptmExchangeComplete n h) s fun t => (portAt t n).ptmOut = false ∧ OnlyChanges [.hpc] s t) ∧
  (∀ s : State, s.pwr.tbSt = .sync → s.sys.mode ≠ .dormant →
    Ends .ptmLost s (RaisedFrom 333 (evt .pwrEvt 8 { s with pwr := { s.pwr with tbSt := .free } }))) ∧
  (∀ (n h : Nat) (s : State), pwrUp s = true → n = linkOf s s.hpc.timePort → (portAt s n).ptmOut = true → s.pwr.tbSt = .slew →
    h < 2 ^ 64 → h < s.pwr.tb →
    Ends (.ptmExchangeComplete n h) s fun t => t.pwr = { s.pwr with slew := s.pwr.tb - h, bound := some 0 } ∧
      (portAt t n).ptmOut = false ∧ OnlyChanges [.pwr, .hpc] s t) ∧
  (∀ s : State, s.pwr.tbSt = .slew →
    exec .slewAbsorbed s =
      .next { s with pwr := { s.pwr with tb := (s.pwr.tb + s.pwr.slew) % 2 ^ 64, slew := 0, tbSt := .sync, bound := some 0 } })

/-- R389 to R395, R397: the thermal limit and TSHUT follow the hottest site, the pool follows the cap, an average above the cap asserts source
335, and a recalibration read is queued in the background class. Choices of the model it rests on: log entry 57. -/
def Obligations.ThermalAndPool : Prop :=
  (∀ s : State, pwrUp s = true → seqUp s 9 = true →
    Ends .thermalRead s fun t => t.pwr.temp = (hottest s).getD s.pwr.temp ∧
      t.pwr.thermW = thermLimit s ((hottest s).getD s.pwr.temp) ∧
      (tShut s ≤ (hottest s).getD s.pwr.temp → t.pwr.shut = true) ∧
      ((hottest s).getD s.pwr.temp ≤ tShut s - 5 → t.pwr.shut = false) ∧
      (tShut s ≤ (hottest s).getD s.pwr.temp → s.pwr.shut = false → EvtSet .pwrEvt 3 t ∧ Latched 332 t) ∧
      (s.pwr.thermW = 32 → t.pwr.thermW < 32 → EvtSet .pwrEvt 2 t ∧ Latched 331 t) ∧ OnlyChanges (.qos :: faultParts) s t) ∧
  (∀ (u : Int) (s : State), arbiterUp s = true → seqUp s 9 = true →
    exec (.poolRecompute u) s =
      .next { s with pwr := { s.pwr with pool := max (rfld s .pwrCfg 0 16) ((100 * effCap s : Int) - u).toNat } }) ∧
  (∀ (avg : Nat) (s : State), arbiterUp s = true → seqUp s 9 = true →
    (102 * effCap s < avg → Ends (.powerAverageCheck avg) s (RaisedFrom 335 (evt .pwrEvt 4 s))) ∧
    (avg ≤ 102 * effCap s → exec (.powerAverageCheck avg) s = .next s)) ∧
  (∀ (die bin a : Nat) (s : State), engines s = true → sanOpen s = false → dieOk s die = true → bin < 10 →
    (tkeys s.fte.nand).find? (fun a => decide (a / 2 ^ 27 = die) && binOf s die (cwBlk s.prof (a % 2 ^ 27)) == bin) = some a →
    let o := (readOp s a .recal).2
    exec (.recalibrationRead die bin) s =
      .next (queueOp die { o with bg := true } (blkMod die o.block (fun b => { b with refs := b.refs + 1 }) s)))

/-- R23, R358, R371, R374: an idle F island enters RETAIN and its sources read clear; an access wakes it, and a signature that differs sets
SIG_FAIL and asserts source 92 + i; a transfer not acknowledged in 1 ms asserts its channel's source.
Choices of the model it rests on: log entries 9, 42 and 56. -/
def Obligations.IslandGating : Prop :=
  (∀ (i : Nat) (s : State), s.sys.mode.serving = true → fIsland i = true → islOn s i = true → bitOf (reg s .pwrCfg) 30 = true →
    islBusy s i = false →
    Ends (.idleGating i) s fun t => islAt t i = .retain ∧ (∀ j, j ≠ i → islAt t j = islAt s j) ∧
      (∀ j, srcHome j = some i → (srcAt t j).live = false ∧ (srcAt t j).latched = (srcAt s j).latched) ∧
      (∀ j, srcHome j ≠ some i → srcAt t j = srcAt s j) ∧ OnlyChanges [.pwr, .flt] s t) ∧
  (∀ (i : Nat) (s : State), bitOf (reg s .pwrCfg) 30 = false → exec (.idleGating i) s = .next s) ∧
  (∀ (i : Nat) (s : State), s.sys.mode.serving = true → fIsland i = true → islAt s i = .retain →
    Ends (.islandWakeOnAccess i true) s fun t => islAt t i = .on ∧ (∀ j, j ≠ i → islAt t j = islAt s j) ∧ OnlyChanges [.pwr] s t) ∧
  (∀ (i : Nat) (s : State), s.sys.mode.serving = true → fIsland i = true → islAt s i = .retain →
    Ends (.islandWakeOnAccess i false) s fun t => EvtSet .pwrEvt 1 t ∧ Latched (92 + i) t ∧ (i = 30 → t.mpr.track = []) ∧
      (i = 23 ∨ i = 30 ∨ i = 45 → OnlyChanges (.mpr :: faultParts) s t)) ∧
  (∀ (i : Nat) (s : State), i < 46 → s.upd.st ≠ 3 → i ≠ 43 → i ≠ 44 → s.sys.mode ≠ .dormant →
    Ends (.handshakeTimeout i) s (RaisedFrom i s)) ∧
  (∀ (i : Nat) (s : State), i = 43 ∨ i = 44 → s.sys.mode ≠ .dormant → (srcAt s i).latched = false →
    Ends (.handshakeTimeout i) s fun t => Latched i t ∧ (bankAt t (i - 43)).st = .failed)

/-- Table 16-8a: PWR_INFO and TIME_GET answer from the state; POWER_CAP_SET sets the management cap; RTC_ALARM arms an alarm and is refused for
one that is not the host's or a time already past. Choices of the model it rests on: log entry 14. -/
def Obligations.PowerOpcodes : Prop :=
  ∀ (src : Nat) (s : State) (r : CamReq), let u := taken src s
    (Accepted src 0x0900 s r → exec (.pwrInfo src) s = .next (replied r 0
      [reg s .pwrCfg, pwrStsW s, regValue s .pwrTok 0, huStsW s, timeStsW s] u)) ∧
    (Accepted src 0x0902 s r → exec (.timeGet src) s = .next (replied r 0 [lo32 s.pwr.tb, hi32 s.pwr.tb, timeStsW s, lo32 s.pwr.rtc,
      pack [(31, 1, b2n s.pwr.rtcValid), (0, 16, s.pwr.rtc / 2 ^ 32)]] u)) ∧
    (∀ c, Accepted src 0x0901 s r → rqW r 2 = BitVec.ofNat 32 c → c = 0 ∨ (12 ≤ c ∧ c ≤ 32) →
      Answers (.powerCapSet src) s r 0 [lo32 s.pwr.mgmtCap] fun v => v.pwr.mgmtCap = c ∧ OnlyChanges (.qos :: faultParts) u v) ∧
    (∀ c, Accepted src 0x0901 s r → rqW r 2 = BitVec.ofNat 32 c → c < 64 → c ≠ 0 → c < 12 ∨ 32 < c →
      exec (.powerCapSet src) s = .next (replied r 0x0900 [] u)) ∧
    (∀ val, Accepted src 0x0903 s r → rqTgt r < 2 → rqW r 2 &&& 0x3FFF0000 = 0 →
      val = fld (rqW r 2) 0 16 * 2 ^ 32 + (rqW r 3).toNat → (bitOf (rqW r 2) 31 = true → s.pwr.rtc ≤ val) →
      Answers (.rtcAlarm src) s r 0 [alarmHiW (alarmAt s (rqTgt r))] fun v =>
        alarmAt v (rqTgt r) = { val, en := bitOf (rqW r 2) 31, wake := bitOf (rqW r 2) 30 } ∧
        (∀ b, b ≠ rqTgt r → alarmAt v b = alarmAt s b) ∧ OnlyChanges [.pwr] u v) ∧
    (Accepted src 0x0903 s r → rqTgt r = 2 ∨ rqTgt r = 3 → rqW r 2 &&& 0x3FFF0000 = 0 →
      exec (.rtcAlarm src) s = .next (replied r 0x0901 [] u)) ∧
    (Accepted src 0x0903 s r → rqTgt r < 2 → rqW r 2 &&& 0x3FFF0000 = 0 → bitOf (rqW r 2) 31 = true →
      fld (rqW r 2) 0 16 * 2 ^ 32 + (rqW r 3).toNat < s.pwr.rtc → exec (.rtcAlarm src) s = .next (replied r 0x0902 [] u))

/-! ## Power loss, sleep, chip reset and BOOT -/

/-- R302 to R308, R478: power loss, early supply loss and a requested chip reset enter HOLDUP with the spill planned; each die's spill pages
pass in turn and the last one makes STATE 2; with the supplies good the sequence ends in a chip reset that is due, with the supplies gone
the device stops and the pages that have not passed are not there. Choices of the model it rests on: log entry 26. -/
def Obligations.PowerLossAndSpill : Prop :=
  (∀ s : State, mayHold s = true →
    Ends .plossNAsserted s (HoldupEntered 1 { s with pins := { s.pins with plossN := false } })) ∧
  (∀ s : State, s.sys.mode = .dormant →
    exec .plossNAsserted s = .next { s with pins := { s.pins with plossN := false }, pwr := { s.pwr with plossRec := true } }) ∧
  (∀ s : State, s.sys.mode = .holdup → exec .plossNAsserted s = .next { s with pins := { s.pins with plossN := false } }) ∧
  (∀ s : State, s.sys.railsUp = true → s.sys.mode ≠ .dormant → s.upd.st ≠ 3 → Ends .plossNShortPulse s (RaisedFrom 329 s)) ∧
  (∀ s : State, mayHold s = true → s.pins.plossN = true →
    ∃ v, HoldupEntered 1 { s with pins := { s.pins with pwrgd := false } } v ∧ Ends .pwrgdLow s (RaisedFrom 330 v)) ∧
  (∀ (x : Supply) (uv : Nat) (s : State), mayHold s = true → x ≠ .vddAon → x ≠ .vddIo → railInRange s.prof.iface x uv = false →
    ∃ v, HoldupEntered 1 s v ∧ Ends (.railOutOfRange x uv) s (RaisedFrom 330 v)) ∧
  (∀ (x : Supply) (uv : Nat) (s : State), s.sys.mode = .holdup ∨ x = .vddAon ∨ x = .vddIo ∨ railInRange s.prof.iface x uv = true →
    exec (.railOutOfRange x uv) s = .next s) ∧
  (∀ (c : Nat) (s : State), mayHold s = true → s.sys.resetReq = some c → Ends .resetSpillStart s (HoldupEntered c s)) ∧
  (∀ s : State, s.sys.resetReq = none → exec .resetSpillStart s = .next s) ∧
  (∀ (die k b : Nat) (s : State), s.sys.mode = .holdup → s.sys.railsUp = true → s.cst.hold.st = 1 → tget s.cst.hold.plan die = some k →
    spillBlk s die = some b → progRuns s die = false →
    Ends (.spillProgramPass die) s fun t =>
      (∀ j, j ≠ die → tget t.cst.hold.plan j = tget s.cst.hold.plan j) ∧
      (1 < k → tget t.cst.hold.plan die = some (k - 1)) ∧ (k ≤ 1 → tget t.cst.hold.plan die = none) ∧
      t.cst.hold.st = (if t.cst.hold.plan.isEmpty then 2 else 1) ∧
      (blkAt t die b).next = (blkAt s die b).next + 1 ∧ (blkAt t die b).st = .opened ∧ (blkAt t die b).stream = 3 ∧
      t.fte = { s.fte with blks := t.fte.blks } ∧ t.cst = { s.cst with hold := t.cst.hold } ∧ OnlyChanges [.cst, .fte] s t) ∧
  (∀ s : State, s.sys.mode = .holdup → s.sys.railsUp = true → s.sys.resetDue = false → s.cst.hold.plan = [] → arrayRuns s = false →
    Ends (.holdupComplete true) s fun t => t.sys = { s.sys with resetDue := true } ∧ t.cst.evSeq = s.cst.evSeq + 1 ∧
      (∃ e, t.cst.events.getLast? = some e ∧ e.code = 0x0604 ∧ e.seq = s.cst.evSeq) ∧ OnlyChanges [.sys, .cst, .free] s t) ∧
  (∀ s : State, s.sys.mode = .holdup → s.sys.railsUp = true →
    exec (.holdupComplete false) s = .next { s with
      sys := { s.sys with railsUp := false, resetDue := false }
      cst := { s.cst with spill := passedSpill s.prof s.cst.hold.plan s.cst.spill, hold := { s.cst.hold with plan := [] } } })

/-- R374 to R377: STANDPIPE. The entry latches the time pair, gates the islands, puts DRAM in self-refresh and takes the mode; a wake event
before it ends it; a sample past a threshold sets SP_WAKE, asserts source 336 and asks for a wake; the wake restores the islands and the
mode the media give, and an island whose signature fails has its source asserted. Choices of the model it rests on: log entry 24. -/
def Obligations.StandpipeCycle : Prop :=
  (∀ s : State, seqUp s 9 = true → s.sys.mode.serving = true →
    (s.sys.modeReq = some .standpipe ∧ s.sys.wakeReq = false ∧ carrierWaits s = false) ∨
      (s.sys.modeReq = none ∧ sleepMode s = true ∧ idleBut none s = true ∧ allAsleep s = true) →
    Ends .standpipeEntry s fun t =>
      t.sys.mode = .standpipe ∧ t.sys.modeReq = none ∧ t.sys.wakeReq = false ∧ t.sys.fetchStop = true ∧
      EvtSet .sysModeEvt 7 t ∧ t.pwr.pair = some (t.pwr.tb, t.pwr.rtc) ∧ t.pwr.selfTest = none ∧
      (∀ e ∈ standpipeIslands, islAt t e.1 = e.2 ∨ islAt t e.1 = .reset) ∧ t.pmp.ch = [] ∧
      (∀ c x, tget t.drm.chs c = some x → x.selfRef = x.up) ∧ Keeps [.ovr, .prof, .profOn, .upd, .sec, .whs, .mpr, .pending] s t) ∧
  (∀ s : State, seqUp s 9 = true → s.sys.mode.serving = true → s.sys.modeReq = some .standpipe → s.sys.wakeReq = true → s.fte.wait = [] →
    Ends .standpipeEntry s fun t => t.sys = { s.sys with fetchStop := false, modeReq := none, wakeReq := false } ∧
      OnlyChanges [.sys, .nvq] s t) ∧
  (∀ (temp : Int) (uv : Nat) (s : State), s.sys.mode = .standpipe →
    let capv := min 4095 (uv * 4096 / 1200000)
    let m := s.pwr.spMask.filter (fun k => !spBack s temp capv k) ++
      (List.range 4).filter (fun k => !s.pwr.spMask.contains k && spCross s temp capv k)
    let s1 := { s with pwr := { s.pwr with spMask := m } }
    ((∃ k, k < 4 ∧ k ∉ s.pwr.spMask ∧ spCross s temp capv k = true) →
      Ends (.standpipeSample temp uv) s fun t => t.sys.wakeReq = true ∧ RaisedFrom 336 (evt .pwrEvt 14 s1) t) ∧
    ((∀ k, k < 4 → k ∉ s.pwr.spMask → spCross s temp capv k = false) → exec (.standpipeSample temp uv) s = .next s1)) ∧
  (∀ (delta : Nat) (s : State), s.sys.mode = .standpipe → s.sys.wakeReq = true → s.fte.wait = [] →
    Ends (.standpipeWake delta []) s fun t =>
      t.sys.mode = deriveMode s ∧ t.sys.prevMode = .standpipe ∧ t.sys.modeReq = none ∧ t.sys.wakeReq = false ∧ t.sys.fetchStop = false ∧
      EvtSet .pwrEvt 0 t ∧ (s.pwr.rtcStarted = true → t.pwr.rtc = (s.pwr.rtc + delta) % 2 ^ 48) ∧ t.pwr.tbSt ≠ .sync ∧
      (∀ i, islAt t i = .on ∨ islAt s i = .reset) ∧ (∀ c x, tget t.drm.chs c = some x → x.selfRef = false) ∧
      OnlyChanges [.sys, .regs, .nvq, .fch, .cst, .flt, .pwr, .drm] s t) ∧
  (∀ (delta i : Nat) (s : State), s.sys.mode = .standpipe → s.sys.wakeReq = true → s.fte.wait = [] → (i, IslSt.retain) ∈ standpipeIslands →
    Ends (.standpipeWake delta [i]) s fun t => Latched (92 + i) t ∧ EvtSet .pwrEvt 0 t ∧ EvtSet .pwrEvt 1 t)

/-- R39, R378: DORMANT. The entry saves the time, powers every island but 0 down and takes the links down; automatic dormancy asks for it
after PERST_N on every endpoint port. Choices of the model it rests on: log entry 25. -/
def Obligations.DormantCycle : Prop :=
  (∀ s : State, seqUp s 9 = true → s.sys.mode.serving = true → s.sys.modeReq = some .dormant → carrierWaits s = false →
    Ends .dormantEntry s fun t =>
      t.sys.mode = .dormant ∧ t.sys.modeReq = none ∧ t.sys.fetchStop = true ∧ t.cst.savedT = t.pwr.tb ∧
      t.pwr.pair = some (t.pwr.tb, t.pwr.rtc) ∧ (∀ i, 1 ≤ i → i < 46 → islAt t i = .off ∨ islAt t i = .reset) ∧
      (∀ n p, tget t.hpc.ports n = some p → p.up = false) ∧ Keeps [.ovr, .prof, .profOn, .upd, .sec, .whs, .mpr, .pending] s t) ∧
  (∀ s : State, s.profOn = true → s.prof.autoDormant = true → sleepMode s = true → allPerst s = true →
    exec .autoDormantTimer s = .next { s with sys := { s.sys with modeReq := some .dormant, fetchStop := true } }) ∧
  (∀ s : State, s.profOn = false ∨ s.prof.autoDormant = false ∨ sleepMode s = false ∨ allPerst s = false → exec .autoDormantTimer s = .next s)

/-- R33, R37, R289, R295: a chip reset begins BOOT: rings, links, sessions and registers take their reset values (PWR_EVT alone can show an
event), the strap and the fuse are sampled, CHG_EN follows its conditions, and what is kept on NAND, in the cistern, in the security record
and by the RTC stays; the partner is held in reset (R89). Choices of the model it rests on: log entry 16. -/
def Obligations.ChipResets : Prop :=
  (∀ (cause : Nat) (strap fuse : Bool) (s : State), let t := chipReset cause strap fuse s
    t.sys.mode = .boot ∧ t.sys.step = 0 ∧ t.sys.hold = false ∧ t.sys.locked = false ∧ t.sys.rstCause = cause ∧
    t.sys.testArmed = (strap && !fuse) ∧ t.sys.tmIgn = (strap && fuse) ∧ t.sys.resetReq = none ∧ t.sys.resetDue = false ∧
    t.sys.railsUp = true ∧ t.cam = {} ∧ t.wel = {} ∧ t.pmp = {} ∧ t.qos = {} ∧ t.flt = {} ∧ t.drm = {} ∧ t.profOn = false ∧ t.ovr = [] ∧
    t.nvq = { seq := s.cst.mark } ∧ (∀ a, a ≠ regA .pwrEvt → tget t.regs a = none) ∧
    t.pins.chgEn = !(s.pwr.chgHold || s.pwr.chgOv || s.pwr.chgLock) ∧ t.pins.faultN = s.pins.faultN ∧
    t.fte.nss = s.fte.nss ∧ t.fte.map = s.fte.map ∧ t.fte.nand = s.fte.nand ∧ t.fte.rng = s.fte.rng ∧ t.fte.bad = s.fte.bad ∧
    t.fte.idx = [] ∧ t.fte.wp = s.fte.wp ∧ t.dre.doms = s.dre.doms ∧ (∀ d n, (stripeAt t d n).isSome = (stripeAt s d n).isSome) ∧
    t.cst.log = s.cst.log ∧ t.cst.ckpt = s.cst.ckpt ∧ t.cst.events = s.cst.events ∧ t.cst.evSeq = s.cst.evSeq ∧ t.cst.san = s.cst.san ∧
    t.cst.hold = s.cst.hold ∧ t.cst.spill = s.cst.spill ∧ t.sec.root = s.sec.root ∧ t.sec.lock = s.sec.lock ∧ t.sec.svn = s.sec.svn ∧
    t.sec.owner = s.sec.owner ∧ t.upd.slots = s.upd.slots ∧ t.upd.nextImg = s.upd.nextImg ∧ t.upd.trial = s.upd.trial ∧
    t.whs.blks = s.whs.blks ∧ t.pwr.rtc = s.pwr.rtc ∧ t.pwr.alarms = s.pwr.alarms ∧ t.pwr.ratio = s.pwr.ratio ∧
    t.out = (if (prPort s).isSome then [.prPerst true] else []) ++ s.out ∧ t.pending = s.pending) ∧
  (∀ (strap fuse : Bool) (s : State), s.sys.resetDue = true → s.sys.railsUp = true → s.sys.mode ≠ .dormant →
    exec (.chipResetToBoot strap fuse) s =
      .next (chipReset s.sys.holdupCause strap fuse { s with pwr := { s.pwr with pair := some (s.pwr.tb, s.pwr.rtc) } })) ∧
  (∀ (strap fuse : Bool) (s : State), s.sys.resetDue = false → exec (.chipResetToBoot strap fuse) s = .next s) ∧
  (∀ (strap fuse : Bool) (s : State), s.sys.railsUp = false →
    Ends (.powerOn true strap fuse) s fun t => t.sys.mode = .boot ∧ t.sys.rstCause = 0 ∧ t.pwr.rtc = 0 ∧ t.pwr.rtcValid = false ∧
      t.pwr.alarms = [] ∧ t.pwr.ratio = 0x77359400 ∧ t.pins.faultN = false ∧ t.pins.chgEn = false ∧ t.pwr.tbSt = .free ∧
      t.fte.map = s.fte.map ∧ t.cst.log = s.cst.log) ∧
  (∀ (strap fuse : Bool) (s : State), s.sys.railsUp = false → s.pwr.rtcStarted = false →
    exec (.powerOn false strap fuse) s = .next (chipReset 0 strap fuse s)) ∧
  (∀ (lost strap fuse : Bool) (s : State), s.sys.railsUp = true → s.sys.mode ≠ .dormant → s.sys.mode ≠ .boot →
    exec (.powerOn lost strap fuse) s = .next s)

/-- R43, Table 2-10, R349, R428, R292, R430, R178, R208, R309 to R311, R471: each boot step, with what it leaves and how its failure holds
boot. Choices of the model it rests on: log entries 17, 18, 22, 23, 27 and 73. -/
def Obligations.BootSteps : Prop :=
  (∀ (l : List (Nat × Nat × Nat)) (s : State), AtStep 1 s →
    exec (.bootStepComplete (.fuses l true)) s = .next { s with
      sys := { s.sys with step := 1 }
      mpr := { s.mpr with hard := l.map fun r => { kind := 0, cls := r.1, mac := r.2.1, row := r.2.2 } } } ∧
    Ends (.bootStepComplete (.fuses l false)) s fun t => t.sys.step = 1 ∧ Latched 323 t) ∧
  (∀ (a b : Bool) (s : State), AtStep 2 s → s.upd.trial = 0 → s.upd.nextImg = 0 →
    imgBoots (fun k => if k = 1 then a else b) s s.upd.actImg = true →
    Ends (.bootStepComplete (.images a b)) s fun t => t.sys = { s.sys with step := 2, imgSlot := s.upd.actImg - 1 } ∧
      t.upd.actImg = s.upd.actImg ∧ OnlyChanges [.sys, .upd, .sec, .free] s t) ∧
  (∀ (a b : Bool) (s : State), AtStep 2 s → s.upd.trial = 0 → s.upd.nextImg ≠ 0 →
    imgBoots (fun k => if k = 1 then a else b) s s.upd.nextImg = true →
    Ends (.bootStepComplete (.images a b)) s fun t => t.sys = { s.sys with step := 2, imgSlot := s.upd.nextImg - 1 } ∧
      t.upd.actImg = s.upd.nextImg ∧ t.upd.trial = s.upd.nextImg ∧ t.upd.tries = 1 ∧ t.upd.prevImg = s.upd.actImg ∧ t.upd.nextImg = 0 ∧
      t.upd.st = 3 ∧ OnlyChanges [.sys, .upd, .sec, .free] s t) ∧
  (∀ (a b : Bool) (s : State), AtStep 2 s → s.upd.trial ≠ 0 → 2 ≤ s.upd.tries → s.upd.prevImg ≠ s.upd.trial →
    imgBoots (fun k => if k = 1 then a else b) s s.upd.prevImg = true →
    Ends (.bootStepComplete (.images a b)) s fun t => t.sys = { s.sys with step := 2, imgSlot := s.upd.prevImg - 1 } ∧
      t.upd.actImg = s.upd.prevImg ∧ t.upd.actPrf = s.upd.prevPrf ∧ t.upd.trial = 0 ∧ (slotAt t s.upd.trial).st = 3) ∧
  (∀ (a b : Bool) (s : State), AtStep 2 s → (∀ k, imgBoots (fun k => if k = 1 then a else b) s k = false) →
    Ends (.bootStepComplete (.images a b)) s fun t => t.sys.hold = true ∧ t.sys.holdWhy = 6 ∧ t.sys.step = 1) ∧
  (∀ (root : Bool) (s : State), AtStep 3 s → (bankAt s 0).st = .inService → (bankAt s 1).st = .inService → s.mpr.soft = [] →
    Ends (.bootStepComplete (.cistern true true root)) s fun t =>
      (s.sec.rooted = false ∨ root = true → t.sys = { s.sys with step := 3 }) ∧
      (s.sec.rooted = true → root = false → t.sys = { s.sys with hold := true, holdWhy := 7 }) ∧
      (∃ e, t.cst.events.getLast? = some e ∧ e.code = 0x0101 ∧ e.old = s.cst.lastSts) ∧ t.cst.evSeq = s.cst.evSeq + 1 ∧
      (s.cst.hold.st = 1 → t.cst.huRes = 2) ∧ (s.cst.hold.st = 2 → t.cst.huRes = 1) ∧ OnlyChanges [.sys, .cst] s t) ∧
  (∀ (root : Bool) (s : State), AtStep 3 s → (bankAt s 0).st = .inService → (bankAt s 1).st = .inService →
    Ends (.bootStepComplete (.cistern false true root)) s fun t => (bankAt t 0).st = .failed ∧ (bankAt t 1).st = .inService ∧ Latched 270 t) ∧
  (∀ (a b : Bool) (s : State), AtStep 4 s → s.upd.nextPrf = 0 → s.upd.actPrf = 1 ∨ s.upd.actPrf = 2 →
    (if s.upd.actPrf = 1 then a else b) = true → prfBoots s s.upd.actPrf = true →
    Ends (.bootStepComplete (.profile a b)) s fun t => t.sys.step = 4 ∧ t.sys.profSlot = s.upd.actPrf - 1 ∧ t.sys.hold = false ∧
      t.profOn = true ∧ (slotAt s (2 + s.upd.actPrf)).prof = some t.prof ∧ t.upd.actPrf = s.upd.actPrf ∧ t.wel.built = true ∧
      (s.hpc.released = false → t.hpc.released = true ∧ t.hpc.merge = t.prof.merge ∧ t.hpc.role = t.prof.role ∧ t.hpc.applied = true) ∧
      Keeps [.cam, .qos, .xlt, .fte, .fch, .sre, .dre, .cst, .pmp, .mpr, .pwr, .whs, .sec, .sbm, .drm, .ovr, .free, .pending] s t) ∧
  (∀ (a b : Bool) (s : State), AtStep 4 s → prfBoots s 1 = false → prfBoots s 2 = false → s.upd.actPrf = 1 ∨ s.upd.actPrf = 2 →
    s.upd.nextPrf ≤ 2 →
    Ends (.bootStepComplete (.profile a b)) s fun t => t.sys.hold = true ∧ t.sys.holdWhy = 1 ∧ t.sys.step = 3 ∧ t.hpc.released = true) ∧
  (∀ (gib rate : Nat) (f : List Nat) (s : State), AtStep 5 s → s.drm.started = false →
    (dramFits (trainDram true gib rate f s) = true → Ends (.bootStepComplete (.dram true gib rate f)) s fun t =>
      t.sys.step = 5 ∧ t.drm.trained = true ∧ t.drm.size = gib ∧ t.drm.rate = min rate (min 8533 (rfld s .drmCfg 0 16)) ∧ t.cam = { s.cam with dramTrough := true } ∧
      (∀ r ∈ t.mpr.soft, r.cls = 3 → r.line ∉ f → r.kind = 1) ∧
      ∀ r ∈ s.mpr.soft, r.cls = 3 → (r.line ∈ f → r ∈ t.mpr.soft ∧ EvtSet .drmEvt 4 t ∧ Latched 325 t) ∧ (r.line ∉ f → Latched 364 t)) ∧
    (gib < 8 → Ends (.bootStepComplete (.dram true gib rate f)) s fun t => t.sys.hold = true ∧ t.sys.holdWhy = 4 ∧ t.sys.step = 4)) ∧
  (∀ (gib rate : Nat) (f : List Nat) (s : State), AtStep 5 s → s.drm.started = false → s.drm.trained = false →
    Ends (.bootStepComplete (.dram false gib rate f)) s fun t =>
      t.sys.hold = true ∧ t.sys.holdWhy = 4 ∧ t.sys.step = 4 ∧ Latched 362 t ∧ EvtSet .drmEvt 1 t) ∧
  (∀ (silent : List Nat) (ts : List ChTrain) (bad : List (Nat × Nat)) (cols : List (Nat × Nat × Nat)) (s : State), AtStep 6 s →
    let passes (x : ChTrain) : Bool := s.prof.rates.contains x.rate && decide (eyeMin s + 2 * eyeGuard s ≤ x.eye)
    let train (d : Nat) : ChTrain := ts.getD (chanOf d) { rate := 0, eye := 0, temp := 0 }
    Ends (.bootStepComplete (.nand silent true ts bad cols)) s (fun t => t.sys.hold = true ∧ t.sys.holdWhy = 2 ∧ t.sys.step = 5) ∧
    ((∀ d ∈ s.prof.dies, passes (train d) = true) →
      Ends (.bootStepComplete (.nand silent false ts bad cols)) s fun t => t.sys.step = 6 ∧ t.sys.hold = false ∧
        (∀ d ∈ s.prof.dies, d ∉ silent → (dieAt t d).present = true) ∧ (∀ d ∈ s.prof.dies, d ∈ silent → (dieAt t d).failed = true) ∧
        (∀ d ∈ s.prof.dies, (chanAt t (chanOf d)).up = true ∧ (chanAt t (chanOf d)).rate = (train d).rate) ∧
        (∀ x ∈ bad, x.1 ∈ s.prof.dies → x.1 ∉ silent → x.2 < s.prof.blocksPerDie → (blkAt s x.1 x.2).st = .free →
          (blkAt t x.1 x.2).st = .retired ∧ (blkAt t x.1 x.2).bst = .bad)) ∧
    ((∃ d ∈ s.prof.dies, passes (train d) = false) →
      Ends (.bootStepComplete (.nand silent false ts bad cols)) s fun t =>
        t.sys.hold = true ∧ t.sys.holdWhy = 3 ∧ t.sys.step = 5 ∧ Latched 244 t)) ∧
  (∀ (bad : List Nat) (ok : Bool) (k : Nat) (l : List Nat) (s : State), AtStep 7 s →
    (shadowOnly s = false → Ends (.bootStepComplete (.replay bad ok k l)) s fun t => t.sys.step = 7 ∧ t.sys.hold = false) ∧
    (shadowOnly s = true → s.cst.ckpt = none ∨ ok = false →
      Ends (.bootStepComplete (.replay bad ok k l)) s fun t => t.sys = { s.sys with hold := true, holdWhy := 5 } ∧
        Keeps [.fte, .dre, .cst, .cam, .hpc, .nvq, .ovr, .prof, .sec, .upd, .pending] s t)) ∧
  (∀ s : State, AtStep 8 s → Ends (.bootStepComplete .resume) s fun t =>
      t.sys.step = 8 ∧ t.cst.hold.st = 0 ∧ t.cst.spill = [] ∧ t.dre.active = []) ∧
  (∀ s : State, AtStep 9 s → Ends (.bootStepComplete .finish) s fun t =>
      t.sys.step = 9 ∧ t.sys.locked = (!s.sys.testArmed) ∧ (s.sys.testArmed = true → t.sys.mode = .factory ∧ EvtSet .sysModeEvt 9 t) ∧
      (s.sys.testArmed = false → t.sys.mode.derived = true ∧ EvtSet .sysModeEvt (deriveMode s).code t ∧ t.sec.rooted = true)) ∧
  (∀ (e : BootEnv) (s : State), s.sys.mode ≠ .boot ∨ s.sys.railsUp = false → exec (.bootStepComplete e) s = .next s)

/-! ## Host ports and the twin link -/

/-- R75, R93 to R95, Table 4-6: PERST_N, hot reset, link down and function resets take the functions they reach out of service and set the
port's events; a link trains to a width and rate it supports; PERST_N deasserted lets training start once the ports are released, and
wakes DORMANT. Choices of the model it rests on: log entry 53. -/
def Obligations.LinksAndResets : Prop :=
  (∀ (n : Nat) (s : State), governs s n = true → isPr s n = false → (portAt s n).perst = false → portsLive s = true →
    Ends (.perstNAsserted n) s fun t => FnsReset false (linkCtrls s n) s t ∧ (portAt t n).perst = true ∧ (portAt t n).up = false ∧
      (portAt t n).st = 0 ∧ (portAt t n).cfgReady = false ∧ (portAt t n).ideKeys = [] ∧ (portAt t n).ideInsecure = [] ∧
      bitOf (reg t .hpcPortEvt n) 1 = true ∧
      ((portAt s n).up = true → bitOf (reg t .hpcPortEvt n) 0 = true)) ∧
  (∀ (n : Nat) (s : State), isPr s n = true ∨ governs s n = false ∨ (portAt s n).perst = true → exec (.perstNAsserted n) s = .next s) ∧
  (∀ (n : Nat) (s : State), governs s n = true → isPr s n = false → (portAt s n).perst = true →
    (portsLive s = true → Ends (.perstNDeasserted n) s fun t =>
      portAt t n = { portAt s n with perst := false, st := if s.hpc.released then 1 else 0 } ∧ OnlyChanges [.hpc] s t) ∧
    (s.sys.mode = .dormant → Ends (.perstNDeasserted n) s fun t =>
      t.sys = { s.sys with resetDue := true, holdupCause := 2 } ∧ (portAt t n).perst = false ∧ OnlyChanges [.hpc, .sys] s t)) ∧
  (∀ (n : Nat) (s : State), governs s n = true → isPr s n = false → (portAt s n).up = true → portsLive s = true →
    (Ends (.hotReset n) s fun t => FnsReset true (linkCtrls s n) s t ∧ (portAt t n).up = false ∧ (portAt t n).st = 8 ∧
      (portAt t n).perst = (portAt s n).perst ∧ (portAt t n).ideKeys = (portAt s n).ideKeys ∧
      ∀ k ∈ (portAt s n).ideKeys, k ∈ (portAt t n).ideInsecure) ∧
    (Ends (.linkDown n) s fun t => FnsReset true (linkCtrls s n) s t ∧ (portAt t n).up = false ∧ (portAt t n).st = 0 ∧
      bitOf (reg t .hpcPortEvt n) 0 = true)) ∧
  (∀ (n : Nat) (s : State), governs s n = true → isPr s n = true → (portAt s n).up = true → portsLive s = true →
    s.hpc.twin ≠ 0 →
    Ends (.linkDown n) s fun t => t.hpc.twin = 5 ∧ Latched 174 t ∧ t.dre.lost = true ∧ (portAt t n).up = false) ∧
  (∀ (n w rate : Nat) (flit : Bool) (s : State), governs s n = true → portsLive s = true → s.hpc.released = true →
    (portAt s n).up = false → (portAt s n).perst = false → (portAt s n).st ≠ 7 → (isPr s n = true → prHold s n = false) →
    w ∈ ([1, 2, 4, 8, 16] : List Nat) → w ≤ laneCount s n → 1 ≤ rate → rate ≤ 6 → (rate = 6 → flit = true) →
    Ends (.linkUp n w rate flit) s fun t =>
      portAt t n = { portAt s n with up := true, st := 3, width := w, rate, flit } ∧
      (∀ m, m ≠ n → portAt t m = portAt s m) ∧ OnlyChanges [.hpc] s t) ∧
  (∀ (n w : Nat) (s : State), exec (.linkUp n w 6 false) s = .next s) ∧
  (∀ (c : Nat) (s : State), isPf c = true → thas s.nvq.ctrls c = true → portsLive s = true →
    Ends (.flrPf c) s (FnsReset false ((tkeys s.nvq.ctrls).filter fun x => portOf x == portOf c) s)) ∧
  (∀ (c : Nat) (s : State), isPf c = false → thas s.nvq.ctrls c = true → portsLive s = true →
    Ends (.flrVf c) s (FnsReset false [c] s))

/-- R79, R83, R84, R86, R87, R95, R98, R81, Table 4-7: configuration requests, and errors on a link: what they answer and set, the source they assert, and the Data
Transfer Error of the command that lost its data. Choices of the model it rests on: log entries 41 and 53. -/
def Obligations.ConfigurationAndLinkErrors : Prop :=
  (∀ (c : Nat) (op : ConfigOp) (rdy : Bool) (s : State), let n := ctrlLink s c
    isPr s n = false → (portAt s n).up = true → portsLive s = true →
    ((portAt s n).cfgReady = false → exec (.configRequest c op false) s = .next (emit (.cfgReply c .retry) s)) ∧
    ((portAt s n).cfgReady = true ∨ rdy = true → fnThere s c = false → Ends (.configRequest c op rdy) s fun t =>
      t.out = .cfgReply c .unsupported :: s.out ∧ portAt t n = { portAt s n with cfgReady := true } ∧ t.hpc.fns = s.hpc.fns ∧
      OnlyChanges [.hpc, .out] s t) ∧
    ((portAt s n).cfgReady = true ∨ rdy = true → fnThere s c = true →
      let f := fnAt s c
      (Ends (.configRequest c .read rdy) s fun t => t.out = .cfgReply c (.done (some (cfgSpace s c))) :: s.out ∧
        t.hpc.fns = s.hpc.fns ∧ OnlyChanges [.hpc, .out, .sys] s t) ∧
      CfgSets c rdy s (.atsEnable true) { f with atsEn := true } ∧
      CfgSets c rdy s (.priEnable true) { f with priEn := true, priStopped := f.priFail && f.priStopped } ∧
      (∀ k, k = 128 ∨ k = 256 ∨ k = 512 → CfgSets c rdy s (.maxPayload k) { f with mps := k }) ∧
      (∀ k, k = 128 ∨ k = 512 ∨ k = 4096 → CfgSets c rdy s (.maxRead k) { f with mrrs := k }) ∧
      (∀ k, CfgSets c rdy s (.priAlloc k) { f with priAlloc := min k 1024 }) ∧
      (∀ b, CfgSets c rdy s (.d3hot b) { f with d3hot := b } ∧ CfgSets c rdy s (.msix b true) { f with msixEn := b, msixMask := true } ∧
        CfgSets c rdy s (.ecrc b true) { f with ecrcGen := b, ecrcChk := true }) ∧
      (∀ x ∈ barSizes s c, ∀ k, Ends (.configRequest c (.bar x.1 k) rdy) s fun t =>
        tget (fnAt t c).bars x.1 = some (k % 2 ^ 64 / x.2 * x.2) ∧ OnlyChanges [.hpc, .out, .sys] s t) ∧
      (isPf c = true → isPface s n = false → Ends (.configRequest c (.vfEnable false) rdy) s
        (FnsReset false ((tkeys s.nvq.ctrls).filter fun v => portOf v == portOf c && !isPf v) s)))) ∧
  (∀ (n k : Nat) (hdr : List Word) (s : State), receives s n = true →
    let ins (p : Port) : Port := { p with ideInsecure := if p.ideInsecure.contains k then p.ideInsecure else p.ideInsecure ++ [k] }
    Ends (.ideCheckFail n k none hdr) s
      (RaisedFrom (170 + n) (orReg .hpcPortEvt n (bitW 6) (aerLog (ctrlOf n 0) .ideCheck hdr (modPort n ins s))))) ∧
  (∀ (n i k : Nat) (hdr : List Word) (x : Tag) (s : State), receives s n = true → tget s.nvq.tags k = some x →
    x.st = .run ∨ x.st = .suspended → NoAer k s → Ends (.ideCheckFail n i (some k) hdr) s (Posted k .dataTransfer)) ∧
  (∀ (n c : Nat) (e : ErrTlp) (hdr : List Word) (s : State), receives s n = true →
    (e = .epDataRead ∨ e = .epFetch ∨ e = .epBarWrite → Ends (.receivedErrorTlp n e c none hdr) s fun t =>
      bitOf (reg t .hpcPortEvt n) 5 = true ∧ .poisonedTlp ∈ (fnAt t c).aer ∧ t.hpc.ports = s.hpc.ports ∧ OnlyChanges [.hpc, .sys, .regs] s t) ∧
    (e = .urFetch ∨ e = .caFetch → Ends (.receivedErrorTlp n e c none hdr) s fun t =>
      bitOf (reg t .hpcPortEvt n) 5 = true ∧ OnlyChanges [.sys, .regs] s t)) ∧
  (∀ (n c : Nat) (hdr : List Word) (s : State), receives s n = true →
    ((fnAt s c).ecrcChk = true → Ends (.receivedErrorTlp n .ecrc c none hdr) s
      (RaisedFrom 176 (orReg .hpcPortEvt n (bitW 2) (aerLog c .ecrc hdr (wake s))))) ∧
    ((fnAt s c).ecrcChk = false → exec (.receivedErrorTlp n .ecrc c none hdr) s = .next s)) ∧
  (∀ (n c k : Nat) (e : ErrTlp) (hdr : List Word) (x : Tag) (s : State), receives s n = true → e ≠ .epBarWrite →
    tget s.nvq.tags k = some x → x.st = .run ∨ x.st = .suspended → NoAer k s → (e = .ecrc → (fnAt s x.ctrl).ecrcChk = true) →
    Ends (.receivedErrorTlp n e c (some k) hdr) s (Posted k .dataTransfer)) ∧
  (∀ (n : Nat) (s : State), receives s n = true → isPr s n = false →
    Ends (.completionTimeout n none) s (RaisedFrom 177
      (orReg .hpcPortEvt n (bitW 3) (aerLog (ctrlOf n 0) .completionTimeout [] s)))) ∧
  (∀ (n k : Nat) (x : Tag) (s : State), receives s n = true → isPr s n = false → tget s.nvq.tags k = some x →
    x.st = .run ∨ x.st = .suspended → NoAer k s → Ends (.completionTimeout n (some k)) s (Posted k .dataTransfer)) ∧
  (∀ (n k c : Nat) (e : ErrTlp) (hdr : List Word) (s : State), receives s n = false →
    exec (.ideCheckFail n k none hdr) s = .next s ∧ exec (.receivedErrorTlp n e c none hdr) s = .next s ∧
    exec (.completionTimeout n none) s = .next s)

/-- R88 to R92, R80, R159: the inbound window of the twin link reads and writes its 4 GiB and nothing else; the stages of bring-up; the
partner's loss and the retry; and an ATS invalidation drops the entries it names. Choices of the model it rests on: log entry 36. -/
def Obligations.TwinLink : Prop :=
  (∀ (n a : Nat) (bs : List Byte) (s : State), prPort s = some n → receives s n = true → a + bs.length ≤ 2 ^ 32 →
    Ends (.inboundWindowRequest true (2 ^ 32 + a) (.write bs)) s fun t => mread 0 t.hpc.window a bs.length = bs ∧
      (∀ x, x < a ∨ a + bs.length ≤ x → mget 0 t.hpc.window x = mget 0 s.hpc.window x) ∧ OnlyChanges [.hpc] s t) ∧
  (∀ (n a k : Nat) (s : State), prPort s = some n → receives s n = true → a + k ≤ 2 ^ 32 →
    exec (.inboundWindowRequest true (2 ^ 32 + a) (.read k)) s = .next (emit (.windowReply (some (mread 0 s.hpc.window a k))) s)) ∧
  (∀ (n addr : Nat) (partner : Bool) (r : WindowReq) (s : State), prPort s = some n → receives s n = true →
    partner = false ∨ addr < 2 ^ 32 → exec (.inboundWindowRequest partner addr r) s = .next (emit (.windowReply none) s)) ∧
  (∀ (n : Nat) (s : State), prPort s = some n → s.hpc.twin = 1 → s.hpc.released = true → prHold s n = false → portsLive s = true →
    Ends .prPerstRelease s fun t => t.hpc.twin = 2 ∧ portAt t n = { portAt s n with perst := false, st := 1 } ∧
      t.out = .prPerst false :: s.out ∧ OnlyChanges [.hpc, .out] s t) ∧
  (∀ (n : Nat) (s : State), prPort s = some n → s.hpc.twin = 2 ∨ s.hpc.twin = 3 → receives s n = true →
    let p : Port := if s.prof.ideTwin then { portAt s n with ideKeys := [0], ideInsecure := [] } else portAt s n
    let id := regValue s .sysChipId 0
    Ends (.twinConfigStart id true true true) s (fun t => t.hpc.twin = 4 ∧ t.dre = { s.dre with lost := false } ∧ portAt t n = p ∧
      t.hpc.partner.bus.isSome = true ∧ t.hpc.partner.adminQ = true ∧ t.hpc.partner.mirrorQs = Config.mirrorQueues ∧
      OnlyChanges [.hpc, .dre, .free] s t) ∧
    Ends (.twinConfigStart id true true false) s (fun t => t.hpc.twin = 3 ∧ portAt t n = p ∧ t.hpc.partner.bus.isSome = true ∧
      (s.hpc.partner.bus = none → t.hpc.partner.bme = true) ∧ OnlyChanges [.hpc, .free] s t) ∧
    (∀ rdy, Ends (.twinConfigStart id true false rdy) s fun t => t.hpc.twin = 5 ∧ Latched 306 t ∧ Latched 174 t ∧ t.dre.lost = true) ∧
    (∀ (w : Word) (pf auth rdy : Bool), w ≠ id ∨ pf = false → Ends (.twinConfigStart w pf auth rdy) s fun t =>
      t.hpc.twin = 5 ∧ (portAt t n).up = false ∧ (portAt t n).st = 7 ∧ Latched 174 t)) ∧
  (∀ (n : Nat) (s : State), prPort s = some n → s.hpc.twin ≠ 0 → s.hpc.twin ≠ 5 → portsLive s = true →
    Ends .twinPartnerLost s fun t => t.hpc.twin = 5 ∧ Latched 174 t ∧ t.dre.lost = true ∧
      (s.dre.lost = false → Latched 268 t ∧ EvtSet .dreEvt 8 t)) ∧
  (∀ (n : Nat) (s : State), prPort s = some n → s.hpc.twin = 5 → prHold s n = false → portsLive s = true →
    Ends .twinRetry s fun t => t.hpc.twin = 1 ∧ (portAt t n).up = false ∧ (portAt t n).perst = true ∧
      t.out = .prPerst true :: s.out ∧ OnlyChanges [.hpc, .out] s t) ∧
  (∀ s : State, prPort s = none → exec .prPerstRelease s = .next s ∧ exec .twinRetry s = .next s ∧ exec .twinPartnerLost s = .next s) ∧
  (∀ (n rid page pages : Nat) (s : State), receives s n = true → isPr s n = false →
    let c := ctrlAtRid s n rid
    Ends (.atsInvalidateRequest n rid page pages) s fun t =>
      t.out.head? = some (.invalDone c page pages) ∧
      t.xlt.atc = s.xlt.atc.filter (fun a => !(a.ctrl == c && spansMeet (a.page, a.pages) (page, pages))) ∧
      (∀ k r, tget s.xlt.reqs k = some r → k < s.xlt.nextReq → r.ctrl = c → r.wait = false →
        spansMeet (r.page, r.pages) (page, pages) = true → tget t.xlt.reqs k = some { r with stale := true }) ∧
      OnlyChanges [.nvq, .xlt, .out, .sys] s t)

/-! ## Faults -/

/-- R356 to R365, R497: rails that show asserted or a wire fault long enough latch the source, which then has the reactions of its set (in HOLDUP
PIN alone); an escalated sequencer's island is reset; an island reset that completes puts it back with its effects, and the accesses that wait for
the island are delivered; a latch clears unless its rails are live; FAULT_N is released with its key once no latched source holds it.
Choices of the model it rests on: log entries 41, 42, 43 and 73. -/
def Obligations.FaultCollection : Prop :=
  (∀ (i n : Nat) (s : State), s.sys.mode ≠ .dormant → i < 384 → 2 ≤ n → drives s i = true → s.upd.st ≠ 3 → srcTable i ≠ some 43 →
    srcTable i ≠ some 44 → (i < 150 ∨ 161 < i) → i ≠ 350 → i ≠ 351 → i ≠ 365 →
    Ends (.faultRailCode i true false n) s fun t => RaisedFrom i s t ∧
      ((srcAt s i).latched = false → EvtSet .fltEvt 1 t ∧ t.flt.lastValid = true ∧ fld t.flt.last 0 9 = i)) ∧
  (∀ (i n : Nat) (p : Bool) (s : State), s.sys.mode ≠ .dormant → i < 384 → 4 ≤ n → drives s i = true → s.upd.st ≠ 3 →
    srcTable i ≠ some 43 → srcTable i ≠ some 44 → (i < 150 ∨ 161 < i) → i ≠ 350 → i ≠ 351 → i ≠ 365 → (srcAt s i).wire = false →
    Ends (.faultRailCode i p p n) s fun t => RaisedFrom i s t ∧ EvtSet .fltEvt 2 t) ∧
  (∀ (i n : Nat) (s : State), s.sys.mode ≠ .dormant → i < 384 → 2 ≤ n → drives s i = true →
    exec (.faultRailCode i false true n) s =
      .next { s with flt := { s.flt with srcs := tset s.flt.srcs i { srcAt s i with p := false, n := true } } }) ∧
  (∀ (i n : Nat) (p q : Bool) (s : State), drives s i = false ∨ n < 2 ∨ (p = q ∧ n < 4) → exec (.faultRailCode i p q n) s = .next s) ∧
  (∀ (i n : Nat) (s : State), s.sys.mode ≠ .dormant → i < 384 → 2 ≤ n → drives s i = true → s.upd.st ≠ 3 → (srcAt s i).latched = false →
    let rs := srcReact s i
    let chp := rs.testBit 3 || (rs.testBit 2 && (srcIsland i).isNone)
    Ends (.faultRailCode i true false n) s fun t => Latched i t ∧
      (rs.testBit 4 = true → t.pins.faultN = true ∧ EvtSet .fltEvt 0 t) ∧
      (s.sys.mode ≠ .holdup → chp = true → t.sys.resetReq.isSome = true) ∧
      (s.sys.mode ≠ .holdup → chp = false → (rs.testBit 0 = true → i ∈ t.flt.ints) ∧
        (∀ k, rs.testBit 2 = true → srcIsland i = some k → islAt t k = .reset ∧ k ∈ t.flt.blk) ∧
        (rs.testBit 1 = true → rs.testBit 2 = false ∨ srcIsland i ≠ some (40 + srcSeq i / 4) → i ∈ t.flt.nmt)) ∧
      (s.sys.mode = .holdup → t.sys.resetReq = s.sys.resetReq ∧ t.flt.nmt = s.flt.nmt ∧ t.flt.blk = s.flt.blk)) ∧
  (∀ (i n : Nat) (s : State), s.sys.mode ≠ .dormant → 150 ≤ i → i ≤ 161 → 2 ≤ n → drives s i = true → (srcAt s i).latched = false →
    Ends (.faultRailCode i true false n) s fun t => Latched i t ∧ EvtSet .mprEvt 2 t) ∧
  (∀ (n : Nat) (s : State), s.sys.mode ≠ .dormant → 2 ≤ n → drives s 365 = true → (srcAt s 365).latched = false →
    Ends (.faultRailCode 365 true false n) s fun t => Latched 365 t ∧ EvtSet .drmEvt 5 t ∧ ∃ ch, ch < 4 ∧
      (drmChAt t ch).derates = sat 16 ((drmChAt s ch).derates + 1) ∧ ((drmChAt t ch).ref = 1 ∨ (drmChAt t ch).ref = 2) ∧
      ∀ c, c ≠ ch → drmChAt t c = drmChAt s c) ∧
  (∀ (i n : Nat) (s : State), s.sys.mode ≠ .dormant → i = 350 ∨ i = 351 → 2 ≤ n → drives s i = true → (srcAt s i).latched = false →
    Ends (.faultRailCode i true false n) s fun t => Latched i t ∧ EvtSet .sbmEvt (i - 350) t) ∧
  (∀ (i : Nat) (s : State), let isl := 40 + srcSeq i / 4
    i ∈ s.flt.nmt → s.sys.mode.serving = true ∨ s.sys.mode = .boot → isl ∉ s.flt.blk →
    Ends (.nmtEscalation i) s fun t => islAt t isl = .reset ∧ isl ∈ t.flt.blk ∧ EvtSet .fltEvt 4 t ∧
      (∃ e ∈ t.cst.events, e.code = 0x0801 ∧ e.seq = s.cst.evSeq ∧ e.old = lo32 i ∧ e.new = (srcAt s i).lastW ∧ e.cause = 1) ∧
      (s.upd.st ≠ 3 → i ∉ t.flt.nmt ∧ (∀ j, j ≠ isl → islAt t j = islAt s j) ∧ OnlyChanges [.regs, .flt, .pwr, .cst] s t)) ∧
  (∀ (i : Nat) (s : State), i ∈ s.flt.blk → s.sys.mode ≠ .dormant → i < 11 ∨ (22 < i ∧ i < 28) ∨ i = 29 ∨ (30 < i ∧ i < 34) ∨
      (35 < i ∧ i < 40) ∨ 44 < i →
    exec (.islandResetComplete i) s = .next (deliver (evt .fltEvt 3 { s with
      pwr := { s.pwr with isl := terase s.pwr.isl i }, flt := { s.flt with blk := s.flt.blk.filter (· != i) } }))) ∧
  (∀ (i : Nat) (s : State), i ∈ s.flt.blk → s.sys.mode ≠ .dormant → 11 ≤ i → i ≤ 44 → (i = 30 → s.mpr.merges ++ s.mpr.mwait = []) →
    Delivers (.islandResetComplete i) s fun t => EvtSet .fltEvt 3 t ∧
      (i ≤ 18 → ∀ d, chanOf d / 4 = i - 11 → d < 512 → (dieAt s d).present = true → (dieAt t d).failed = false → (dieAt t d).resetting = true) ∧
      (18 < i → i ≤ 22 → ∀ l ∈ s.sre.ladders, l.framed = true → l.step < 5 → chanOf (cwDie l.cw) / 8 = i - 19 →
        (t.sre.ladders.any fun m => m.cw == l.cw && m.step == 1) = true) ∧
      (i = 41 → ∀ l ∈ s.sre.ladders, 2 ≤ l.step → l.step ≤ 4 → (t.sre.ladders.any fun m => m.cw == l.cw &&
        m.step == if step2Tries s = 0 then 3 else 2) = true) ∧
      (i = 28 → ∀ k, k < 16 → (pumpAt t k).busy = false) ∧ (i = 30 → t.mpr.track = [] ∧ t.mpr.merges = []) ∧
      (i = 34 → t.whs.op ≠ 1 ∧ t.upd.job = none) ∧ (i = 35 → t.sbm.msgs = [] ∧ t.cam.side = []) ∧
      (40 ≤ i → i ≤ 42 → (∀ k ∈ t.flt.nmt, 40 + srcSeq k / 4 ≠ i) ∧ ∀ x ∈ t.flt.intWait, 40 + srcSeq x.1 / 4 ≠ i) ∧ (43 ≤ i → (bankAt t (i - 43)).st = .failed)) ∧
  (∀ s : State, s.mpr.merges ++ s.mpr.mwait ≠ [] → exec (.islandResetComplete 30) s = .next s) ∧
  (∀ (fn w : Nat) (m : Word) (s : State), barUp s fn = true → w < 12 →
    Ends (.fltLatchClear fn w m) s fun t =>
      (∀ b, b < 32 → bitOf m b = true →
        srcAt t (32 * w + b) = { srcAt s (32 * w + b) with latched := (srcAt s (32 * w + b)).latched && (srcAt s (32 * w + b)).live }) ∧
      (∀ i, i / 32 ≠ w ∨ bitOf m (i % 32) = false → srcAt t i = srcAt s i) ∧ OnlyChanges [.flt, .sys] s t) ∧
  (∀ (fn : Nat) (s : State), barUp s fn = true → pinLatched s = false → s.pins.faultN = true →
    Ends (.fltPinClr fn 0x5AA5) s fun t => t.pins = { s.pins with faultN := false } ∧
      (∃ e, t.cst.events.getLast? = some e ∧ e.code = 0x0803) ∧ OnlyChanges [.pins, .cst, .sys, .free] s t) ∧
  (∀ (fn : Nat) (s : State), barUp s fn = true → pinLatched s = true ∨ s.pins.faultN = false →
    exec (.fltPinClr fn 0x5AA5) s = .next (wake s)) ∧
  (∀ (fn w : Nat) (key m : Word) (s : State), (key ≠ 0x5AA5 → exec (.fltPinClr fn key) s = .next s) ∧
    (barUp s fn = false → exec (.fltPinClr fn key) s = .next s ∧ exec (.fltLatchClear fn w m) s = .next s))

/-- R367 and Table 15-14: a write of FLT_INJ acts in FACTORY alone: an injection drives the rails, so that the source latches, and its end
clears them; one that names no source or mode starts nothing, and a further GO is ignored; and the fault opcodes.
Choices of the model it rests on: log entry 43. -/
def Obligations.FaultInjectionAndOpcodes : Prop :=
  (∀ (fn : Nat) (v : Word) (s : State), s.sys.mode ≠ .factory →
    exec (.fltInj fn v) s = .next (if barUp s fn = true then wake s else s)) ∧
  (∀ (fn : Nat) (v : Word) (s : State), barUp s fn = true → s.sys.mode = .factory →
    let old := s.flt.inj
    let i := injSrc v
    let img := v &&& 0x83FF01FF
    (injGo old = false → injGo v = true → injBad v = false → Ends (.fltInj fn v) s fun t =>
      t.flt.inj = img ∧ t.flt.injRun = some (i, injDur v != 0) ∧ (∃ e ∈ t.cst.events, e.code = 0x0804) ∧
      (drives s i = true → Latched i t) ∧ (drives s i = false → t.flt.srcs = s.flt.srcs)) ∧
    (injGo old = false → injGo v = false ∨ injBad v = true → exec (.fltInj fn v) s =
      .next { wake s with flt := { s.flt with inj := img &&& 0x7FFFFFFF } }) ∧
    (injGo old = true → injGo v = true → exec (.fltInj fn v) s = .next (wake s)) ∧
    (injGo old = true → injGo v = false → s.flt.injRun.any (·.2) = true → exec (.fltInj fn v) s =
      .next { wake s with flt := { s.flt with inj := img ||| 0x80000000 } }) ∧
    (∀ k, injGo old = true → injGo v = false → s.flt.injRun = some (k, false) → k < 384 → Ends (.fltInj fn v) s fun t =>
      t.flt.inj = img &&& 0x7FFFFFFF ∧ t.flt.injRun = none ∧ srcAt t k = { srcAt s k with p := false, n := true } ∧
      (∀ j, j ≠ k → srcAt t j = srcAt s j) ∧ OnlyChanges [.flt, .sys] s t)) ∧
  (∀ (k : Nat) (s : State), s.sys.mode = .factory → s.flt.injRun = some (k, true) → k < 384 →
    Ends .injectionEnd s fun t => t.flt.inj = s.flt.inj &&& 0x7FFFFFFF ∧ t.flt.injRun = none ∧
      srcAt t k = { srcAt s k with p := false, n := true } ∧ (∀ j, j ≠ k → srcAt t j = srcAt s j) ∧ OnlyChanges [.flt] s t) ∧
  (∀ (src : Nat) (s : State) (r : CamReq), let u := taken src s
    (Accepted src 0x0800 s r → exec (.fltInfo src) s = .next (replied r 0 [regValue s .fltSts 0, reg s .fltEvt, regValue s .fltLast 0] u)) ∧
    (Accepted src 0x0801 s r → exec (.srcStatus src) s = .next (replied r 0 [srcCfg s (rqTgt r), railsW (srcAt s (rqTgt r))] u)) ∧
    (Accepted src 0x0802 s r → (srcAt s (rqTgt r)).live = true → exec (.srcClear src) s = .next (replied r 0x0801 [] u)) ∧
    (Accepted src 0x0802 s r → (srcAt s (rqTgt r)).live = false → Answers (.srcClear src) s r 0 [0] fun v =>
      (srcAt v (rqTgt r)).latched = false ∧ (∀ j, j ≠ rqTgt r → srcAt v j = srcAt s j) ∧ OnlyChanges [.flt] u v) ∧
    (Accepted src 0x0803 s r → bytesOk r 8 = none →
      let recs := (s.flt.srcs.filter fun e => e.2.latched).map fun e =>
        [(srcCfg s e.1 &&& 0x007FFFFF) ||| pack [(23, 9, e.1)], pack [(1, 1, b2n e.2.p), (0, 1, b2n e.2.n)]]
      let o := listOut r 8 recs
      exec (.faultList src) s = .next (repliedOut r 0 [lo32 o.1, lo32 o.2.1] o.2.2 (slotsHeld r src s))) ∧
    (Accepted src 0x0804 s r → injGo (rqW r 2) = false ∨ injBad (rqW r 2) = false →
      let v := writeInj (rqW r 2) u
      exec (.faultInject src) s = .next (replied r 0 [v.flt.inj] v)) ∧
    (Accepted src 0x0804 s r → injGo (rqW r 2) = true → 384 ≤ injSrc (rqW r 2) →
      exec (.faultInject src) s = .next (replied r 0x0006 (badField 2 0x000001FF).2 u)) ∧
    (Accepted src 0x0804 s r → injGo (rqW r 2) = true → injSrc (rqW r 2) < 384 → injMode (rqW r 2) = 3 →
      exec (.faultInject src) s = .next (replied r 0x0006 (badField 2 0x03000000).2 u)) ∧
    (Accepted src 0x0805 s r → pinLatched s = true → exec (.pinRelease src) s = .next (replied r 0x0802 [] u)) ∧
    (Accepted src 0x0805 s r → pinLatched s = false → s.pins.faultN = true →
      ∃ v, v.pins = { s.pins with faultN := false } ∧ OnlyChanges [.pins, .cst, .free] u v ∧
        exec (.pinRelease src) s = .next (replied r 0 [regValue v .fltSts 0] v)) ∧
    (Accepted src 0x0805 s r → pinLatched s = false → s.pins.faultN = false →
      exec (.pinRelease src) s = .next (replied r 0 [regValue u .fltSts 0] u)))

/-! ## NVMe: controllers, queues, the life of a command -/

/-- R125 to R127: enabling a controller gives it its admin queues and makes it ready (in BOOT, or with a page size that CAP does not offer, not
yet); a Controller Reset and an NVM Subsystem Reset take controllers down; a shutdown notification stops fetch and, when it completes the set of
R126 and no write has data left to place, every open stripe is being closed and none opens.
Choices of the model it rests on: log entries 66 and 74. -/
def Obligations.ControllerLifecycle : Prop :=
  (∀ (c ams mps asqs acqs : Nat) (x : Ctrl) (s : State), tget s.nvq.ctrls c = some x → x.en = false → s.fte.wait = [] →
    let fit := canReady (setCtrl c { x with mps } s) c
    (s.sys.mode.serving = true → fit = true → Ends (.controllerEnable c ams mps asqs acqs) s fun t =>
      ctrlAt t c = { x with en := true, rdy := true, shn := false, ams, mps } ∧
      tget t.nvq.sqs (qkey c 0) = some { size := asqs + 1, hot := true } ∧ tget t.nvq.cqs (qkey c 0) = some { size := acqs + 1 } ∧
      (∀ k, k ≠ qkey c 0 → tget t.nvq.sqs k = tget s.nvq.sqs k) ∧ (∀ d, d ≠ c → ctrlAt t d = ctrlAt s d) ∧ t.nvq.tags = s.nvq.tags ∧
      OnlyChanges [.nvq, .hpc, .sys] s t) ∧
    (s.sys.mode = .boot ∨ (s.sys.mode.serving = true ∧ fit = false) → Ends (.controllerEnable c ams mps asqs acqs) s fun t =>
      ctrlAt t c = { x with en := true, rdy := false, shn := false, ams, mps } ∧ OnlyChanges [.nvq, .hpc, .sys] s t)) ∧
  (∀ (c ams mps asqs acqs : Nat) (s : State), (ctrlAt s c).en = true → exec (.controllerEnable c ams mps asqs acqs) s = .next s) ∧
  (∀ (c : Nat) (s : State), (ctrlAt s c).en = true → s.sys.mode ≠ .holdup → s.sys.mode ≠ .dormant →
    Ends (.controllerReset c) s (CtrlsReset [c] s)) ∧
  (∀ (c : Nat) (s : State), (ctrlAt s c).en = false → exec (.controllerReset c) s = .next s) ∧
  (∀ (c : Nat) (s : State), isPf c = true → thas s.nvq.ctrls c = true → s.sys.mode.serving = true →
    Ends (.nvmSubsystemReset c) s fun t => CtrlsReset ((tkeys s.nvq.ctrls).filter (hostCtrl s)) s t ∧
      (∀ d ∈ (tkeys s.nvq.ctrls).filter (hostCtrl s), (ctrlAt t d).nssro = true) ∧ (∀ n, n < 4 → hostLink s n = true → (portAt t n).up = false)) ∧
  (∀ (c : Nat) (s : State), (ctrlAt s c).en = true → (ctrlAt s c).shn = false → s.sys.mode.serving = true →
    (allDown (modCtrl c (fun x => { x with shn := true }) s) = false → Ends (.shutdownNotification c) s fun t =>
      ctrlAt t c = { ctrlAt s c with shn := true } ∧ (∀ d, d ≠ c → ctrlAt t d = ctrlAt s d) ∧ t.nvq.tags = s.nvq.tags ∧
      OnlyChanges [.nvq, .sys] s t) ∧
    (allDown (modCtrl c (fun x => { x with shn := true }) s) = true → s.nvq.shutHold = false → s.nvq.shutDue = false →
      let busy := s.nvq.tags.any fun e => hostCtrl s e.2.ctrl && unplaced e.2
      (busy = true → Ends (.shutdownNotification c) s fun t => (ctrlAt t c).shn = true ∧ t.nvq.shutDue = true ∧
        t.nvq.shutLast = (if hostCtrl s c then some c else none) ∧ OnlyChanges [.nvq, .sys] s t) ∧
      (busy = false → Ends (.shutdownNotification c) s fun t => (ctrlAt t c).shn = true ∧ t.nvq.shutHold = true ∧ t.nvq.shutDue = false ∧
        t.nvq.shutLast = (if hostCtrl s c then some c else none) ∧
        ∀ k x, tget t.dre.stripes k = some x → x.st = .opened → x.part = true)))

/-- R106 to R108: a valid doorbell is captured; an invalid one sets its event and asserts source 183; a spilled active context becomes hot
once an entry is free. Choices of the model it rests on: log entries 42 and 74. -/
def Obligations.DoorbellsAndContexts : Prop :=
  (∀ (c qid v : Nat) (q : Sq) (s : State), thas s.nvq.ctrls c = true → doorbellsUp s = true → sqAt s (qkey c qid) = some q → v < q.size →
    Ends (.sqTailDoorbell c qid v) s fun t => (∃ q', sqAt t (qkey c qid) = some q' ∧ q'.tail = v ∧ q'.head = q.head ∧ q'.size = q.size ∧
        q'.stopped = q.stopped) ∧
      (∀ k, k ≠ qkey c qid → (sqAt t k).map (fun x => (x.tail, x.head, x.size)) = (sqAt s k).map fun x => (x.tail, x.head, x.size)) ∧
      t.nvq.tags = s.nvq.tags ∧ t.nvq.cqs = s.nvq.cqs ∧ OnlyChanges [.nvq, .sys] s t) ∧
  (∀ (c qid v : Nat) (s : State), thas s.nvq.ctrls c = true → doorbellsUp s = true →
    (sqAt s (qkey c qid) = none ∨ ∃ q, sqAt s (qkey c qid) = some q ∧ q.size ≤ v) →
    Ends (.sqTailDoorbell c qid v) s fun t => Latched 183 t ∧ EvtSet .nvqEvt 4 t ∧ t.nvq.sqs = s.nvq.sqs ∧ t.nvq.cqs = s.nvq.cqs) ∧
  (∀ (c qid v : Nat) (q : Cq) (s : State), thas s.nvq.ctrls c = true → doorbellsUp s = true → tget s.nvq.cqs (qkey c qid) = some q →
    v < q.size → (v + q.size - q.head) % q.size ≤ (q.tail + q.size - q.head) % q.size →
    Ends (.cqHeadDoorbell c qid v) s fun t => t.nvq = { s.nvq with cqs := tset s.nvq.cqs (qkey c qid) { q with head := v } } ∧
      OnlyChanges [.nvq, .sys] s t) ∧
  (∀ (c qid v : Nat) (s : State), thas s.nvq.ctrls c = true → doorbellsUp s = true → tget s.nvq.cqs (qkey c qid) = none →
    Ends (.cqHeadDoorbell c qid v) s fun t => Latched 183 t ∧ EvtSet .nvqEvt 4 t ∧ t.nvq.cqs = s.nvq.cqs) ∧
  (∀ (c qid v : Nat) (s : State), doorbellsUp s = false →
    exec (.sqTailDoorbell c qid v) s = .next s ∧ exec (.cqHeadDoorbell c qid v) s = .next s) ∧
  (∀ (c qid : Nat) (q : Sq) (s : State), sqAt s (qkey c qid) = some q → q.hot = false → qid ≠ 0 → sqActive s (qkey c qid) q = true →
    hotCount s < 4096 →
    Ends (.contextMadeHot c qid) s fun t => sqAt t (qkey c qid) = some { q with hot := true, used := s.nvq.useSeq } ∧
      (∀ k, k ≠ qkey c qid → sqAt t k = sqAt s k) ∧ OnlyChanges [.nvq] s t)

/-- R109 to R112, R121, R295: a fetched entry takes the lowest free tag and the next fetch sequence number, with its completion prepared at
once where a check of Table 5-7 fails; a failed read is repeated once and then stops the queue.
Choices of the model it rests on: log entries 45, 48 and 74. -/
def Obligations.SubmissionFetches : Prop :=
  (∀ (c qid : Nat) (e : Entry) (q : Sq) (s : State), sqAt s (qkey c qid) = some q → canFetch s c qid = true → queueTurn s c qid q = true →
    (qid ≠ 0 → ctrlTurn s c = true) → q.head < q.size → q.tail < q.size → q.half = none → fuseOf e = 0 → keysRise s.nvq.tags = true →
    s.nvq.tags.length < 65535 →
    let k := freeTagFrom 0 s.nvq.tags
    let tnt := if qid = 0 then none else classify s c (entNsid e)
    tget s.nvq.tags k = none ∧
    Ends (.submissionFetch c qid (.entries [e])) s fun t =>
      (NoAer k s → ∃ x, tget t.nvq.tags k = some x ∧ x.ctrl = c ∧ x.qid = qid ∧ x.ent = e ∧ x.seq = s.nvq.seq ∧ x.tenant = tnt ∧
        (checkCmd s c qid e = none → x.st = .adm) ∧
        (∀ sc dnr, checkCmd s c qid e = some (sc, dnr) → x.st = .post ∧ x.status = sc ∧ x.dnr = dnr)) ∧
      t.nvq.seq = (s.nvq.seq + 1) % 2 ^ 32 ∧
      (sqAt t (qkey c qid)).map (·.head) = some ((q.head + 1) % q.size) ∧ (qid ≠ 0 → q.hot = false → EvtSet .nvqEvt 1 t) ∧
      (tnt = none ∨ checkCmd s c qid e = none →
        (∀ j, j ≠ k → tget t.nvq.tags j = tget s.nvq.tags j) ∧ OnlyChanges [.nvq, .qos, .cst, .regs] s t) ∧
      OnlyChanges (.qos :: faultParts) s t) ∧
  (∀ (c qid : Nat) (q : Sq) (s : State), sqAt s (qkey c qid) = some q → canFetch s c qid = true → queueTurn s c qid q = true →
    (qid ≠ 0 → ctrlTurn s c = true) →
    Ends (.submissionFetch c qid .failed) s fun t => sqAt t (qkey c qid) = some { q with retry := true } ∧
      (∀ k, k ≠ qkey c qid → sqAt t k = sqAt s k) ∧ OnlyChanges [.nvq] s t) ∧
  (∀ (c qid : Nat) (r : FetchResult) (s : State), canFetch s c qid = false → exec (.submissionFetch c qid r) s = .next s) ∧
  (∀ (c qid : Nat) (q : Sq) (es : List Entry) (s : State), sqAt s (qkey c qid) = some q → q.retry = true → s.sys.mode.serving = true →
    let u := modSq (qkey c qid) (fun q => { q with retry := false }) s
    canFetch u c qid = true → exec (.fetchRetry c qid (.entries es)) s = .next (fetchFrom c qid es u)) ∧
  (∀ (c qid : Nat) (q : Sq) (s : State), sqAt s (qkey c qid) = some q → q.retry = true → s.sys.mode.serving = true →
    Ends (.fetchRetry c qid .failed) s fun t => sqAt t (qkey c qid) = some { q with retry := false, stopped := true } ∧
      EvtSet .nvqEvt 5 t ∧ Latched 182 t ∧ (s.nvq.sqStop = none → t.nvq.sqStop = some (c, qid)) ∧
      OnlyChanges faultParts s t)

/-- R111, R123, R40, Table 5-6: a command whose holds are clear moves to RUN; a completion once prepared keeps its status, is written to the
completion queue in order of preparation with the phase and the message, and frees the tag; a held critical warning is delivered with a
request. Choices of the model it rests on: log entries 44 and 48. -/
def Obligations.AdmissionAndCompletion : Prop :=
  (∀ (k dw : Nat) (sc : Sc) (x : Tag) (s : State), tget s.nvq.tags k = some x → x.st ≠ .post → x.fused = none →
    let t := post k sc dw s
    (∃ y, tget t.nvq.tags k = some y ∧ y.st = .post ∧ y.status = sc ∧ y.dnr = scDnr sc ∧ y.dw0 = dw ∧ y.ctrl = x.ctrl ∧ y.qid = x.qid ∧
      y.ent = x.ent ∧ y.postSeq = s.nvq.postSeq) ∧
    (∀ j, j ≠ k → tget t.nvq.tags j = tget s.nvq.tags j) ∧ OnlyChanges [.nvq, .qos] s t) ∧
  (∀ (k dw : Nat) (sc : Sc) (x : Tag) (s : State), tget s.nvq.tags k = some x → x.st = .post → post k sc dw s = s) ∧
  (∀ (k : Nat) (x : Tag) (s : State), tget s.nvq.tags k = some x → x.st = .adm → x.fused = none → s.sys.mode.serving = true →
    admissible s x = true → waitsHalf s k x = false → (fnAt s x.ctrl).atsEn = false →
    Ends (.admitToRun k) s fun t => (NoAer k s → ∃ y, tget t.nvq.tags k = some y ∧ y.st = .run ∧ y.ent = x.ent ∧ y.seq = x.seq) ∧
      (x.tenant = none → OnlyChanges [.nvq, .qos] s t ∧ ∀ j, j ≠ k → tget t.nvq.tags j = tget s.nvq.tags j)) ∧
  (∀ (k : Nat) (x : Tag) (s : State), tget s.nvq.tags k = some x → x.st ≠ .adm ∨ admissible s x = false ∨ waitsHalf s k x = true →
    exec (.admitToRun k) s = .next s) ∧
  (∀ (k ck : Nat) (x : Tag) (q : Cq) (s : State), tget s.nvq.tags k = some x → x.st = .post → x.via = none → cqOf s x = some ck →
    tget s.nvq.cqs ck = some q → (q.tail + 1) % q.size ≠ q.head → s.sys.mode.serving = true → meterHeld s x = false →
    (∀ e ∈ s.nvq.tags, e.2.st = .post → cqOf s e.2 = some ck → x.postSeq ≤ e.2.postSeq ∨ meterHeld s e.2 = true) →
    s.nvq.tun = [] → s.nvq.shutDue = false →
    let f := (ctrlAt s x.ctrl).feats
    let due := x.qid == 0 || nfld (tgetD f 8 0) 8 8 == 0 || nfld (tgetD f (0x90000 + q.iv) 0) 16 1 == 1 ||
      decide (nfld (tgetD f 8 0) 0 8 ≤ (tgetD (ctrlAt s x.ctrl).aggr q.iv (0, s.pwr.tb)).1)
    Ends (.completionPost k) s fun t =>
      t.out = (if q.ien && due then [.msix x.ctrl q.iv] else []) ++
        .completion x.ctrl (ck % 65536) (cidOf x.ent) x.qid (((sqAt s (qkey x.ctrl x.qid)).map (·.head)).getD 0) x.status x.dnr x.dw0 x.dw1 ::
          s.out ∧
      tget t.nvq.tags k = none ∧
      (∀ j, j ≠ k → tget t.nvq.tags j = (tget s.nvq.tags j).map fun y => if y.fused = some k then { y with fused := none } else y) ∧
      tget t.nvq.cqs ck =
        some { q with tail := (q.tail + 1) % q.size, phase := if q.tail + 1 = q.size then !q.phase else q.phase } ∧
      (∀ j, sqAt t j = (sqAt s j).map fun y => if y.half = some k then { y with half := none } else y) ∧
      (q.ien = true → due = false → tget (ctrlAt t x.ctrl).aggr q.iv =
        some ((tgetD (ctrlAt s x.ctrl).aggr q.iv (0, s.pwr.tb)).1 + 1, (tgetD (ctrlAt s x.ctrl).aggr q.iv (0, s.pwr.tb)).2)) ∧
      OnlyChanges [.nvq, .out, .fte, .qos, .upd] s t) ∧
  (∀ (k ck : Nat) (x : Tag) (q : Cq) (s : State), tget s.nvq.tags k = some x → x.via = none → cqOf s x = some ck →
    tget s.nvq.cqs ck = some q → (q.tail + 1) % q.size = q.head → exec (.completionPost k) s = .next s) ∧
  (∀ (c a : Nat) (y : Tag) (s : State), (ctrlAt s c).en = true → (ctrlAt s c).rdy = true → (ctrlAt s c).aers.head? = some a →
    tget s.nvq.tags a = some y → y.st ≠ .post → s.sys.mode.serving = true →
    (ctrlAt s c).heldWarn &&& critWarn s &&& aenConfig (ctrlAt s c) ≠ 0 →
    Ends (.heldAenDelivery c) s fun t => (ctrlAt t c).aers = (ctrlAt s c).aers.tail ∧ PostedDw a .success (Aen.dw0 .smart) t ∧
      (ctrlAt t c).heldWarn < (ctrlAt s c).heldWarn &&& critWarn s ∧ OnlyChanges [.nvq] s t)

/-- R104, Table 5-1: creating and deleting I/O queues, with the status of each refusal. Choices of the model it rests on: log entry 46. -/
def Obligations.IoQueueCommands : Prop :=
  (∀ (k : Nat) (t : Tag) (s : State), AdminRuns k 0x05 s t →
    let qid := fld (cdw t.ent 10) 0 16
    let n := fld (cdw t.ent 10) 16 16 + 1
    let iv := fld (cdw t.ent 11) 16 16
    let mqes := (ctrlAt s t.ctrl).cap.mqes
    let taken := qid = 0 ∨ (queueAlloc s t.ctrl).2 < qid ∨ 16384 ≤ (ioCqs s).length ∨ thas s.nvq.cqs (qkey t.ctrl qid) = true
    (taken → exec (.createIoCompletionQueue k) s = .next (post k .invalidQid 0 s)) ∧
    (¬taken → n < 2 ∨ mqes + 1 < n → exec (.createIoCompletionQueue k) s = .next (post k .invalidQueueSize 0 s)) ∧
    (¬taken → 2 ≤ n → n ≤ mqes + 1 → bitOf (cdw t.ent 11) 0 = true → viRes s t.ctrl ≤ iv →
      exec (.createIoCompletionQueue k) s = .next (post k .invalidVector 0 s)) ∧
    (¬taken → 2 ≤ n → n ≤ mqes + 1 → bitOf (cdw t.ent 11) 0 = true → iv < viRes s t.ctrl →
      exec (.createIoCompletionQueue k) s = .next (post k .success 0 { s with nvq := { s.nvq with
        cqs := tset s.nvq.cqs (qkey t.ctrl qid) { size := n, iv, ien := bitOf (cdw t.ent 11) 1 } } }))) ∧
  (∀ (k : Nat) (t : Tag) (s : State), AdminRuns k 0x01 s t →
    let qid := fld (cdw t.ent 10) 0 16
    let n := fld (cdw t.ent 10) 16 16 + 1
    let cq := fld (cdw t.ent 11) 16 16
    let mqes := (ctrlAt s t.ctrl).cap.mqes
    let taken := qid = 0 ∨ (queueAlloc s t.ctrl).1 < qid ∨ 16384 ≤ (ioSqs s).length ∨ thas s.nvq.sqs (qkey t.ctrl qid) = true
    (taken → exec (.createIoSubmissionQueue k) s = .next (post k .invalidQid 0 s)) ∧
    (¬taken → n < 2 ∨ mqes + 1 < n → exec (.createIoSubmissionQueue k) s = .next (post k .invalidQueueSize 0 s)) ∧
    (¬taken → 2 ≤ n → n ≤ mqes + 1 → bitOf (cdw t.ent 11) 0 = true → cq = 0 ∨ thas s.nvq.cqs (qkey t.ctrl cq) = false →
      exec (.createIoSubmissionQueue k) s = .next (post k .completionQueueInvalid 0 s)) ∧
    (¬taken → 2 ≤ n → n ≤ mqes + 1 → bitOf (cdw t.ent 11) 0 = true → cq ≠ 0 → thas s.nvq.cqs (qkey t.ctrl cq) = true →
      exec (.createIoSubmissionQueue k) s = .next (post k .success 0 { s with nvq := { s.nvq with
        sqs := tset s.nvq.sqs (qkey t.ctrl qid) { size := n, cqid := cq, prio := fld (cdw t.ent 11) 1 2 } } }))) ∧
  (∀ (k : Nat) (t : Tag) (s : State), AdminRuns k 0x00 s t →
    let qid := fld (cdw t.ent 10) 0 16
    (qid = 0 ∨ thas s.nvq.sqs (qkey t.ctrl qid) = false → exec (.deleteIoSubmissionQueue k) s = .next (post k .invalidQid 0 s)) ∧
    (qid ≠ 0 → thas s.nvq.sqs (qkey t.ctrl qid) = true → Ends (.deleteIoSubmissionQueue k) s fun u =>
      tget u.nvq.sqs (qkey t.ctrl qid) = none ∧ (∀ j, j ≠ qkey t.ctrl qid → SqKept j s u) ∧
      (∀ j x, tget u.nvq.tags j = some x → x.ctrl ≠ t.ctrl ∨ x.qid ≠ qid) ∧ Posted k .success u)) ∧
  (∀ (k : Nat) (t : Tag) (s : State), AdminRuns k 0x04 s t →
    let qid := fld (cdw t.ent 10) 0 16
    let used := s.nvq.sqs.any fun e => e.1 / 65536 == t.ctrl && e.2.cqid == qid
    (qid = 0 ∨ thas s.nvq.cqs (qkey t.ctrl qid) = false → exec (.deleteIoCompletionQueue k) s = .next (post k .invalidQid 0 s)) ∧
    (qid ≠ 0 → thas s.nvq.cqs (qkey t.ctrl qid) = true → used = true →
      exec (.deleteIoCompletionQueue k) s = .next (post k .invalidQDeletion 0 s)) ∧
    (qid ≠ 0 → thas s.nvq.cqs (qkey t.ctrl qid) = true → used = false →
      exec (.deleteIoCompletionQueue k) s =
        .next (post k .success 0 { s with nvq := { s.nvq with cqs := terase s.nvq.cqs (qkey t.ctrl qid) } })))

/-- R40, R100, R104, R124, R387, R396: Identify, Abort, Asynchronous Event Request, the features and the self-test.
Choices of the model it rests on: log entries 44 and 47. -/
def Obligations.AdminQueriesAndFeatures : Prop :=
  (∀ (k : Nat) (t : Tag) (s : State), AdminRuns k 0x06 s t →
    let cns := fld (cdw t.ent 10) 0 8
    let u := sendAdmin t t.dma.prog (xferBytes t) s
    (cns = 0x01 → exec (.identify k) s = .next (post k .success 0 (emit (.info k 0x601 (ctrlValues s t.ctrl)) u))) ∧
    (∀ n, cns = 0x00 → nsAt s (entNsid t.ent) = some n → exec (.identify k) s =
      .next (post k .success 0 (emit (.info k 0x600 (if n.att.contains t.ctrl then nsValues n else [])) u))) ∧
    (cns = 0x00 → nsAt s (entNsid t.ent) = none → exec (.identify k) s = .next (post k .invalidNs 0 s)) ∧
    (cns = 0x02 → exec (.identify k) s = .next (post k .success 0
      (emit (.info k 0x602 ((nsList s (entNsid t.ent) fun _ n => n.att.contains t.ctrl).take 1024)) u))) ∧
    (cns ∉ ([0x00, 0x01, 0x02, 0x03, 0x10, 0x11, 0x12, 0x13, 0x14, 0x15] : List Nat) →
      exec (.identify k) s = .next (post k .invalidField 0 s))) ∧
  (∀ (k : Nat) (t : Tag) (s : State), AdminRuns k 0x08 s t →
    (s.nvq.tags.filter fun e => e.2.ctrl == t.ctrl && e.2.qid == 0 && opc e.2.ent == 0x08 && e.2.st != .post).length ≤ 16 →
    let hit := s.nvq.tags.find? fun e => e.2.ctrl == t.ctrl && e.2.qid == fld (cdw t.ent 10) 0 16 &&
      cidOf e.2.ent == fld (cdw t.ent 10) 16 16 && e.2.st == .adm
    (hit = none → exec (.abort k) s = .next (post k .success 1 s)) ∧
    (∀ j x, hit = some (j, x) → exec (.abort k) s =
      .next (post k .success 0 (postEarly j .abortRequested (setTag j { x with uncharged := true } s))))) ∧
  (∀ (k : Nat) (t : Tag) (s : State), AdminRuns k 0x0C s t → k ∉ (ctrlAt s t.ctrl).aers →
    let x := ctrlAt s t.ctrl
    (8 ≤ x.aers.length → exec (.asynchronousEventRequest k) s = .next (post k .aerLimit 0 s)) ∧
    (x.aers.length < 8 → x.events = [] → exec (.asynchronousEventRequest k) s =
      .next { s with nvq := { s.nvq with ctrls := tset s.nvq.ctrls t.ctrl { x with aers := x.aers ++ [k] } } }) ∧
    (∀ a l, x.aers.length < 8 → x.events = a :: l → exec (.asynchronousEventRequest k) s =
      .next (post k .success (Aen.dw0 a) { s with nvq := { s.nvq with ctrls := tset s.nvq.ctrls t.ctrl { x with events := l } } }))) ∧
  (∀ (k : Nat) (t : Tag) (s : State), AdminRuns k 0x09 s t →
    let fid := fld (cdw t.ent 10) 0 8
    let w := cdw t.ent 11
    (fid ∉ featIds ∨ bitOf (cdw t.ent 10) 31 = true → exec (.setFeatures k) s = .next (post k .invalidField 0 s)) ∧
    (fid = 7 → bitOf (cdw t.ent 10) 31 = false → fld w 0 16 ≠ 0xFFFF → fld w 16 16 ≠ 0xFFFF →
      let lim := vqRes s t.ctrl - 1
      let a := (min lim (fld w 0 16 + 1), min lim (fld w 16 16 + 1))
      exec (.setFeatures k) s = .next (post k .success (numQDw a)
        { s with nvq := { s.nvq with ctrls := tset s.nvq.ctrls t.ctrl { ctrlAt s t.ctrl with numQ := some a } } })) ∧
    (fid = 2 → bitOf (cdw t.ent 10) 31 = false → fld w 0 5 ≤ 21 → NoAer k s → Ends (.setFeatures k) s fun u =>
      (ctrlAt u t.ctrl).ps = fld w 0 5 ∧ Posted k .success u) ∧
    (fid = 2 → bitOf (cdw t.ent 10) 31 = false → 21 < fld w 0 5 → exec (.setFeatures k) s = .next (post k .invalidField 0 s)) ∧
    (fid = 1 ∨ fid = 8 ∨ fid = 0x0B → bitOf (cdw t.ent 10) 31 = false → exec (.setFeatures k) s =
      .next (post k .success 0 (modCtrl t.ctrl (fun x => { x with feats := tset x.feats fid w.toNat }) s)))) ∧
  (∀ (k : Nat) (t : Tag) (s : State), AdminRuns k 0x0A s t →
    let fid := fld (cdw t.ent 10) 0 8
    (fid ∉ featIds → exec (.getFeatures k) s = .next (post k .invalidField 0 s)) ∧
    (fid = 7 → exec (.getFeatures k) s = .next (post k .success (numQDw (queueAlloc s t.ctrl)) s)) ∧
    (fid = 2 → fld (cdw t.ent 10) 8 3 ≠ 1 → exec (.getFeatures k) s = .next (post k .success (ctrlAt s t.ctrl).ps s)) ∧
    (fid = 1 ∨ fid = 8 ∨ fid = 0x0B → fld (cdw t.ent 10) 8 3 ≠ 1 → exec (.getFeatures k) s =
      .next (post k .success (tgetD (ctrlAt s t.ctrl).feats fid 0) s))) ∧
  (∀ (k : Nat) (t : Tag) (s : State), AdminRuns k 0x14 s t →
    let stc := fld (cdw t.ent 10) 0 4
    (stc = 1 ∨ stc = 2 → s.pwr.selfTest = none → exec (.deviceSelfTest k) s =
      .next (post k .success 0 { s with pwr := { s.pwr with selfTest := some (t.ctrl, stc == 2) } })) ∧
    (stc = 1 ∨ stc = 2 → s.pwr.selfTest.isSome = true → exec (.deviceSelfTest k) s = .next (post k .selfTestInProgress 0 s)) ∧
    (stc = 0xF → s.pwr.selfTest.isSome = true → exec (.deviceSelfTest k) s =
      .next (post k .success 0 { s with pwr := { s.pwr with selfTest := none, stLog := ((1, 0) :: s.pwr.stLog).take 20 } }))) ∧
  (∀ (i : Nat) (s : State), s.pwr.selfTest.isSome = true → s.sys.mode.serving = true →
    exec (.selfTestComplete none) s =
      .next { s with pwr := { s.pwr with selfTest := none, stLog := ((0, 0) :: s.pwr.stLog).take 20 } } ∧
    Ends (.selfTestComplete (some i)) s
      (RaisedFrom 338 { s with pwr := { s.pwr with selfTest := none, stLog := ((7, i) :: s.pwr.stLog).take 20 } }))

/-- R102, R103, R105, R180, R191, R192: namespaces are created, deleted, attached, detached and formatted; and the resources of virtualization.
Choices of the model it rests on: log entries 44, 46 and 74. -/
def Obligations.NamespaceCommands : Prop :=
  (∀ (k nsze ncap fmt ns : Nat) (t : Tag) (s : State), AdminRuns k 0x0D s t → fld (cdw t.ent 10) 0 4 = 0 →
    (upFrom 1 1024).find? (fun i => (nsAt s i).isNone) = some ns →
    let f := fmt % 16
    let pi := fmt / 256 % 8
    let bad := 7 < f ∨ 3 < pi ∨ (metaBytes f = 0 ∧ pi ≠ 0)
    (bad → exec (.namespaceManagement k nsze ncap fmt) s = .next (post k .invalidFormat 0 s)) ∧
    (¬bad → ncap ≠ nsze ∨ nsze % lbasPerIu f ≠ 0 → exec (.namespaceManagement k nsze ncap fmt) s = .next (post k .invalidField 0 s)) ∧
    (¬bad → ncap = nsze → nsze % lbasPerIu f = 0 → unalloc s < nsze / lbasPerIu f * iuUnits f →
      exec (.namespaceManagement k nsze ncap fmt) s = .next (post k .insufficientCapacity 0 s)) ∧
    (∀ segs, ¬bad → ncap = nsze → nsze % lbasPerIu f = 0 → nsze / lbasPerIu f * iuUnits f ≤ unalloc s →
      placeNs s (unallocD s) (iuUnits f) 0 (nsze / lbasPerIu f) = some segs → NoAer k s →
      Ends (.namespaceManagement k nsze ncap fmt) s fun u => PostedDw k .success ns u ∧
        (∃ n, nsAt u ns = some n ∧ n.size = nsze ∧ n.fmt = f ∧ n.pi = pi ∧ n.segs = segs ∧ n.att = []) ∧
        (∀ j, j ≠ ns → nsAt u j = nsAt s j))) ∧
  (∀ (k a b c : Nat) (t : Tag) (s : State), AdminRuns k 0x0D s t → fld (cdw t.ent 10) 0 4 = 1 → entNsid t.ent ≠ 0xFFFFFFFF →
    ((nsAt s (entNsid t.ent)).isNone = true → exec (.namespaceManagement k a b c) s = .next (post k .invalidNs 0 s)) ∧
    ((nsAt s (entNsid t.ent)).isSome = true → logWaits s = true → exec (.namespaceManagement k a b c) s = .next (fullLog s)) ∧
    ((nsAt s (entNsid t.ent)).isSome = true → logWaits s = false → NoAer k s → Ends (.namespaceManagement k a b c) s fun u =>
      nsAt u (entNsid t.ent) = none ∧ (∀ j, j ≠ entNsid t.ent → nsAt u j = nsAt s j) ∧
      (∀ x, x / 2 ^ 40 = entNsid t.ent → tget u.fte.map x = none) ∧ (∀ r ∈ u.fte.idx, r.ns ≠ entNsid t.ent) ∧ Posted k .success u)) ∧
  (∀ (k : Nat) (cs : List Nat) (n : Ns) (t : Tag) (s : State), AdminRuns k 0x15 s t → nsAt s (entNsid t.ent) = some n →
    (∀ c ∈ cs, thas s.nvq.ctrls c = true) →
    (fld (cdw t.ent 10) 0 4 = 0 → (∀ c ∈ cs, n.mirror = isPface s (ctrlLink s c)) → (∀ c ∈ cs, c ∉ n.att) → NoAer k s →
      Ends (.namespaceAttachment k cs) s fun u => nsAt u (entNsid t.ent) = some { n with att := n.att ++ cs } ∧ Posted k .success u ∧
        (∀ c ∈ cs, entNsid t.ent ∈ (ctrlAt u c).changedNs) ∧ OnlyChanges [.fte, .nvq] s u) ∧
    (fld (cdw t.ent 10) 0 4 = 0 → (∀ c ∈ cs, n.mirror = isPface s (ctrlLink s c)) → (∃ c ∈ cs, c ∈ n.att) →
      exec (.namespaceAttachment k cs) s = .next (post k .nsAttached 0 s)) ∧
    (fld (cdw t.ent 10) 0 4 = 1 → (∀ c ∈ cs, c ∈ n.att) → NoAer k s →
      Ends (.namespaceAttachment k cs) s fun u =>
        nsAt u (entNsid t.ent) = some { n with att := n.att.filter fun c => !cs.contains c } ∧ Posted k .success u ∧
        OnlyChanges [.fte, .nvq] s u) ∧
    (fld (cdw t.ent 10) 0 4 = 1 → (∃ c ∈ cs, c ∉ n.att) → exec (.namespaceAttachment k cs) s = .next (post k .nsNotAttached 0 s))) ∧
  (∀ (k : Nat) (t : Tag) (s : State), AdminRuns k 0x1C s t →
    let w := cdw t.ent 10
    let c := fld w 16 16
    let nr := fld (cdw t.ent 11) 0 16
    let x := ctrlAt s c
    let mine := thas s.nvq.ctrls c = true ∧ portOf c = portOf t.ctrl ∧ isPf c = false
    let cur := x.flexNext.getD (x.vqFlex, x.viFlex)
    (fld w 0 4 = 1 → c = t.ctrl → isPf c = true → fld w 8 3 = 0 → nr ≤ 4032 → nr ≤ flexLeft s c 0 + flexHeld 0 x →
      exec (.virtualizationManagement k) s = .next (post k .success nr (setCtrl c { x with flexNext := some (nr, cur.2) } s))) ∧
    (fld w 0 4 = 1 → c = t.ctrl → isPf c = true → fld w 8 3 ≤ 1 → isPface s (ctrlLink s c) = true → flexHeld (fld w 8 3) x < nr →
      exec (.virtualizationManagement k) s = .next (post k .invalidResourceNum 0 s)) ∧
    (fld w 0 4 = 8 → mine → fld w 8 3 = 0 → x.online = false → nr ≤ 129 → nr ≤ flexLeft s c 0 + x.vqFlex →
      exec (.virtualizationManagement k) s = .next (post k .success nr (setCtrl c { x with vqFlex := nr } s))) ∧
    (fld w 0 4 = 8 → mine → fld w 8 3 = 1 → x.online = false → nr ≤ 64 → nr ≤ flexLeft s c 1 + x.viFlex →
      exec (.virtualizationManagement k) s = .next (post k .success nr (setCtrl c { x with viFlex := nr } s))) ∧
    (fld w 0 4 = 8 → mine → fld w 8 3 ≤ 1 → x.online = true →
      exec (.virtualizationManagement k) s = .next (post k .invalidSecondaryState 0 s)) ∧
    (fld w 0 4 = 9 → mine → 2 ≤ x.vqFlex → 1 ≤ x.viFlex → (fnAt s (ctrlOf (portOf c) 0)).vfEnable = true →
      exec (.virtualizationManagement k) s = .next (post k .success 0 (setCtrl c { x with online := true } s))) ∧
    (fld w 0 4 = 8 ∨ fld w 0 4 = 9 → ¬mine → exec (.virtualizationManagement k) s = .next (post k .invalidCtrlId 0 s))) ∧
  (∀ (k : Nat) (n : Ns) (t : Tag) (s : State), AdminRuns k 0x80 s t → nsAt s (entNsid t.ent) = some n →
    let w := cdw t.ent 10
    (2 < fld w 9 3 → exec (.formatNvm k) s = .next (post k .invalidField 0 s)) ∧
    let bad := 7 < fld w 0 4 ∨ 3 < fld w 5 3 ∨ (metaBytes (fld w 0 4) = 0 ∧ fld w 5 3 ≠ 0)
    (fld w 9 3 ≤ 2 → bad → exec (.formatNvm k) s = .next (post k .invalidFormat 0 s)) ∧
    (∀ segs slot, fld w 9 3 ≤ 2 → ¬bad → logWaits s = false → reSegs s (iuUnits n.fmt) (iuUnits (fld w 0 4)) n.segs (unallocD s) 0 = some segs → freeRng s = some slot → NoAer k s →
      Ends (.formatNvm k) s fun u => Posted k .success u ∧ (∀ x, x / 2 ^ 40 = entNsid t.ent → tget u.fte.map x = none) ∧
        ∃ m, nsAt u (entNsid t.ent) = some m ∧ m.fmt = fld w 0 4 ∧ m.pi = fld w 5 3 ∧ m.segs = segs ∧ m.inst = n.inst ∧
          m.kgen = (if fld w 9 3 = 0 then n.kgen else (n.kgen + 1) % 65536)))

/-! ## NVMe: I/O commands, tenants -/

/-- R24, R25, R118, R119, R182, R188, R341, Table 14-10: a Read returns the newest content and completes, with Unrecovered Read Error where an
LBA is on the bad-LBA list; Verify and Compare judge it; a fused pair whose Compare fails ends both; a Write of whole IUs puts them in
write wells under its version and completes; a write that fails its checks changes no data; Flush completes once nothing it covers is
unplaced. Choices of the model it rests on: log entries 49, 50, 51 and 52. -/
def Obligations.ReadAndWritePath : Prop :=
  (∀ (k iu i : Nat) (t : Tag) (n : Ns) (r : WellRec) (s : State), IoRuns k 2 s t n → Unheld s t → OneLbaInWell s t n iu i r → NoAer k s →
    ((badMask s (entNsid t.ent) iu).testBit i = false → Ends (.read k []) s fun u => Posted k .success u ∧
      Output.data k (slba t.ent) [hostVal t.ent n (r.body.data.getD i (blankLba n.fmt))] ∈ u.out ∧ u.fte.idx = s.fte.idx ∧
      u.fte.map = s.fte.map ∧ u.fte.nand = s.fte.nand) ∧
    ((badMask s (entNsid t.ent) iu).testBit i = true → Ends (.read k []) s fun u => Posted k .unrecoveredRead u ∧
      ∀ a l, Output.data k a l ∈ u.out → Output.data k a l ∈ s.out)) ∧
  (∀ (k iu i : Nat) (t : Tag) (n : Ns) (r : WellRec) (s : State), IoRuns k 0x0C s t n → Unheld s t → OneLbaInWell s t n iu i r → NoAer k s →
    Ends (.verify k []) s fun u =>
      Posted k (if (badMask s (entNsid t.ent) iu).testBit i then .unrecoveredRead else .success) u ∧
      (∀ a l, Output.data k a l ∈ u.out → Output.data k a l ∈ s.out)) ∧
  (∀ (k iu i d : Nat) (t : Tag) (n : Ns) (r : WellRec) (s : State), IoRuns k 5 s t n → Unheld s t → OneLbaInWell s t n iu i r → NoAer k s →
    (badMask s (entNsid t.ent) iu).testBit i = false →
    Ends (.compare k [] [d]) s
      (Posted k (if hostVal t.ent n (r.body.data.getD i (blankLba n.fmt)) = d then .success else .compareFailure))) ∧
  (∀ (k iu i d o : Nat) (mirOk : Bool) (data : List Nat) (t x : Tag) (n : Ns) (r : WellRec) (s : State), IoRuns k 5 s t n →
    Unheld s { t with fused := none } → t.fused = some o → o ≠ k → tget s.nvq.tags o = some x → x.st ≠ .post → NoAer o s →
    OneLbaInWell s t n iu i r → NoAer k s → (badMask s (entNsid t.ent) iu).testBit i = false →
    let v := hostVal t.ent n (r.body.data.getD i (blankLba n.fmt))
    (v ≠ d → Ends (.fusedCompareAndWrite k [] mirOk [d] data) s fun u => Posted k .compareFailure u ∧ Posted o .failedFused u ∧
      u.fte.idx = s.fte.idx) ∧
    (v = d → ∃ u, Posted k .success u ∧ u.fte.idx = s.fte.idx ∧
      exec (.fusedCompareAndWrite k [] mirOk [d] data) s = .next (io o 1 (fun y m s => writeEff o .ok mirOk data y m s) u))) ∧
  (∀ (k : Nat) (mirOk : Bool) (data : List Nat) (t : Tag) (n : Ns) (s : State), IoRuns k 1 s t n → Unheld s t → partialIus n.fmt (slba t.ent) (nlb t.ent) = [] →
    thas s.dre.pairs (entNsid t.ent) = false → s.fte.bad.length ≤ 4096 → NoAer k s →
    Ends (.write k .ok mirOk data) s fun u => Posted k .success u ∧
      ∀ iu ∈ upFrom (wholeIus n.fmt (slba t.ent) (nlb t.ent)).1 (wholeIus n.fmt (slba t.ent) (nlb t.ent)).2,
        ∃ r ∈ u.fte.idx, r.ns = entNsid t.ent ∧ r.iu = iu ∧ r.ver = t.seq ∧ r.live = true ∧ r.body.key = nsKey s n ∧
          r.body.data = (List.range (lbasPerIu n.fmt)).map fun i => data.getD (iu * lbasPerIu n.fmt + i - slba t.ent) 0) ∧
  (∀ (k : Nat) (mirOk : Bool) (data : List Nat) (t : Tag) (n : Ns) (s : State), IoRuns k 1 s t n → Unheld s t → NoAer k s →
    (n.pi ≠ 0 → (Ends (.write k .guard mirOk data) s fun u => Posted k .guardCheck u ∧ OnlyChanges [.nvq] s u) ∧
      (Ends (.write k .appTag mirOk data) s fun u => Posted k .appTagCheck u ∧ OnlyChanges [.nvq] s u) ∧
      (Ends (.write k .refTag mirOk data) s fun u => Posted k .refTagCheck u ∧ OnlyChanges [.nvq] s u)) ∧
    (n.pi = 0 → ∀ g ∈ ([.guard, .appTag, .refTag] : List Ingress), exec (.write k g mirOk data) s = exec (.write k .ok mirOk data) s) ∧
    (Ends (.write k .lostTlp mirOk data) s fun u => Posted k .dataTransfer u ∧ OnlyChanges [.nvq] s u) ∧
    (Ends (.write k .aesTwice mirOk data) s fun u => Posted k .internalError u ∧ Latched 302 u ∧ EvtSet .mprEvt 5 u ∧ u.fte = s.fte)) ∧
  (∀ (k : Nat) (t : Tag) (s : State), tget s.nvq.tags k = some t → t.st = .run → t.qid ≠ 0 → opc t.ent = 0 → s.sys.mode.serving = true →
    (flushHeld s t = false → exec (.flush k) s = .next (post k .success 0 s)) ∧
    (flushHeld s t = true → exec (.flush k) s = .next s))

/-- R180, R183, R187, R189, R190, R293: Write Zeroes, Write Uncorrectable and Dataset Management of whole IUs make range records under the command's
version and complete, with no bank in service once the records' log shadow has passed; with the range table full they wait with RANGE_FULL set, with
the log full with LOG_FULL; Dataset Management without AD completes at once. Choices of the model it rests on: log entry 51. -/
def Obligations.RangeCommands : Prop :=
  (∀ (k : Nat) (t : Tag) (n : Ns) (s : State), IoRuns k 4 s t n → Unheld s t → NoAer k s → thas s.dre.pairs (entNsid t.ent) = false →
    partialIus n.fmt (slba t.ent) (nlb t.ent) = [] → s.fte.bad.length ≤ 4096 →
    let w := wholeIus n.fmt (slba t.ent) (nlb t.ent)
    0 < w.2 →
    (∀ slot, freeRng s = some slot → s.fte.rng.length < 1024 → logWaits s = false → shadowOnly s = false → Ends (.writeUncorrectable k) s fun u => Posted k .success u ∧
      { slot, ns := entNsid t.ent, inst := n.inst, lo := w.1, hi := w.1 + w.2 - 1, kind := .unc, ver := t.seq } ∈ u.fte.rng ∧
      (∀ iu ∈ upFrom w.1 w.2, beatsAll s (entNsid t.ent) iu t.seq = true → mapAt u (entNsid t.ent) iu = mapUnc)) ∧
    (s.fte.rng.length < 1024 → logWaits s = true → exec (.writeUncorrectable k) s = .next (fullLog s)) ∧
    (s.fte.rng.length < 1024 → (freeRng s).isSome = true → logWaits s = false → shadowOnly s = true → s.cst.shadow ≤ s.cst.logSeq →
      Ends (.writeUncorrectable k) s fun u => tget u.nvq.tags k = some { t with recs := some (s.cst.logSeq + 1) } ∧
        ∀ iu ∈ upFrom w.1 w.2, beatsAll s (entNsid t.ent) iu t.seq = true → mapAt u (entNsid t.ent) iu = mapUnc) ∧
    (1024 ≤ s.fte.rng.length → exec (.writeUncorrectable k) s = .next (evt .fteEvt 2 s))) ∧
  (∀ (k q : Nat) (t : Tag) (n : Ns) (s : State), IoRuns k 4 s t n → t.placed = false → t.mirWait = false → t.recs = some q →
    thas s.dre.pairs (entNsid t.ent) = false → NoAer k s →
    (shadowOnly s = true → s.cst.shadow < q → exec (.writeUncorrectable k) s = .next s) ∧
    (shadowOnly s = false ∨ q ≤ s.cst.shadow → Ends (.writeUncorrectable k) s (Posted k .success))) ∧
  (∀ (k : Nat) (t : Tag) (n : Ns) (s : State), IoRuns k 8 s t n → Unheld s t → NoAer k s → thas s.dre.pairs (entNsid t.ent) = false →
    partialIus n.fmt (slba t.ent) (nlb t.ent) = [] → s.fte.bad.length ≤ 4096 →
    let w := wholeIus n.fmt (slba t.ent) (nlb t.ent)
    0 < w.2 →
    (∀ slot, freeRng s = some slot → s.fte.rng.length < 1024 → logWaits s = false → shadowOnly s = false → Ends (.writeZeroes k .ok) s fun u => Posted k .success u ∧
      { slot, ns := entNsid t.ent, inst := n.inst, lo := w.1, hi := w.1 + w.2 - 1, kind := .zero, ver := t.seq } ∈ u.fte.rng ∧
      (∀ iu ∈ upFrom w.1 w.2, beatsAll s (entNsid t.ent) iu t.seq = true → mapAt u (entNsid t.ent) iu = mapZero)) ∧
    (1024 ≤ s.fte.rng.length → exec (.writeZeroes k .ok) s = .next (evt .fteEvt 2 s))) ∧
  (∀ (k : Nat) (t : Tag) (n : Ns) (s : State), IoRuns k 9 s t n → dsmAd t.ent = false → seqUp s 3 = true →
    t.placed = false → t.mirWait = false → t.recs = none → exec (.datasetManagement k) s = .next (post k .success 0 s)) ∧
  (∀ (k slot a b : Nat) (t : Tag) (n : Ns) (s : State), IoRuns k 9 s t n → Unheld s t → NoAer k s → dsmAd t.ent = true →
    t.ent.ranges = [(a, b)] → thas s.dre.pairs (entNsid t.ent) = false → freeRng s = some slot → logWaits s = false →
    s.fte.rng.length < 1024 → shadowOnly s = false → seqUp s 3 = true →
    let w := wholeIus n.fmt a b
    0 < w.2 → Ends (.datasetManagement k) s fun u => Posted k .success u ∧
      { slot, ns := entNsid t.ent, inst := n.inst, lo := w.1, hi := w.1 + w.2 - 1, kind := .unmapped, ver := t.seq } ∈ u.fte.rng ∧
      (∀ iu ∈ upFrom w.1 w.2, beatsAll s (entNsid t.ent) iu t.seq = true → mapAt u (entNsid t.ent) iu = mapUnmapped))

/-- R128, R132 to R134, R140, R146 to R148, Table 6-6: the meters' refill, the start of a transfer block, the end of a trace, and the tenant
opcodes. Choices of the model it rests on: log entries 8 and 48. -/
def Obligations.Tenants : Prop :=
  (∀ s : State, s.sys.mode.serving = true →
    Ends .meterTick s fun t => (∀ k x, tget s.qos.tnts k = some x → tget t.qos.tnts k = some (refill t.qos.scaleBw t.qos.scaleIo x)) ∧
      (s.pwr.tbSt = .sync → t.pwr.tb = (s.pwr.tb + 64) % 2 ^ 64) ∧ OnlyChanges (.qos :: .out :: faultParts) s t) ∧
  (∀ s : State, s.sys.mode = .standpipe ∨ s.sys.mode = .dormant → exec .meterTick s = .next s) ∧
  (∀ (k j : Nat) (x : Tag) (n : Ns) (s : State), tget s.nvq.tags k = some x → x.tenant = some j → nsAt s (entNsid x.ent) = some n →
    x.qid ≠ 0 → opc x.ent = 1 ∨ opc x.ent = 2 ∨ opc x.ent = 5 → x.st = .run ∨ x.st = .suspended → x.dma.st.waiting = false → gated s x = true →
    let b := blockBytes n.fmt
    let m : Int := (b * bwUnit : Nat)
    x.moved + x.reserved + b ≤ dataBytes s x.ent →
    (m ≤ (tntAt s j).mBwMax → Ends (.transferBlockStart k) s fun t =>
      tget t.nvq.tags k = some { x with blocks := x.blocks + 1, reserved := x.reserved + b } ∧
      tntAt t j = { tntAt s j with mBwMax := (tntAt s j).mBwMax - m } ∧ (∀ i, i ≠ j → tntAt t i = tntAt s i) ∧
      (∀ i, i ≠ k → tget t.nvq.tags i = tget s.nvq.tags i) ∧ OnlyChanges [.nvq, .qos] s t) ∧
    ((tntAt s j).mBwMax < m → exec (.transferBlockStart k) s = .next s)) ∧
  (∀ (x : Trace) (s : State), s.qos.trace = some x → x.start + 1000 * x.bins ≤ s.pwr.tb →
    exec .traceEnd s = .next (endOp x.handle 0 [lo32 x.start, hi32 x.start, lo32 x.bins] (traceBytes x x.bins)
      { (evt .qosEvt 2 s) with qos := { s.qos with trace := none } })) ∧
  (∀ (src : Nat) (s : State) (r : CamReq), let u := taken src s
    let k := rqTgt r
    (Accepted src 0x0D00 s r → exec (.qosInfo src) s = .next (replied r 0 [reg s .qosCfg, regValue s .qosSts 0, regValue s .qosCap 0,
      regValue s .qosSum 0, lo32 ((tvals s.qos.tnts).filter (·.en)).length] u)) ∧
    (∀ x, Accepted src 0x0D01 s r → tenantCheck u r = some x → exec (.tenantSet src) s = .next (replied r x.1 x.2 u)) ∧
    (Accepted src 0x0D01 s r → tenantCheck u r = none → ∃ v, exec (.tenantSet src) s =
        .next (replied r 0 [regValue v .qosSum 0, regValue v .qosSts 0] v) ∧
      (tntAt v k).bwMax = fld (rqW r 2) 16 16 ∧ (tntAt v k).bwMin = fld (rqW r 2) 0 16 ∧ (tntAt v k).ioMax = fld (rqW r 3) 16 16 ∧
      (tntAt v k).ioMin = fld (rqW r 3) 0 16 ∧ (tntAt v k).en = bitOf (rqW r 4) 31 ∧ (tntAt v k).weight = fld (rqW r 4) 0 8 ∧
      (tntAt v k).mBwMax ≤ bwMaxDepth (tntAt v k) ∧ (∀ j, j ≠ k → tntAt v j = tntAt s j) ∧ OnlyChanges (.qos :: faultParts) u v) ∧
    (Accepted src 0x0D02 s r → exec (.tenantGet src) s = .next (replied r 0 [regValue s .qosTntBw k, regValue s .qosTntIo k,
      regValue s .qosTntCtl k, pack [(16, 11, ((tvals s.qos.bindN).filter (· == k)).length),
        (0, 11, ((tvals s.qos.bindC).filter (· == k)).length)]] u)) ∧
    (∀ c, Accepted src 0x0D03 s r → k ≤ 1023 → rqW r 2 = BitVec.ofNat 32 c → c < 2048 → thas s.nvq.ctrls c = true →
      exec (.tenantBind src) s = .next (replied r 0 [lo32 ((tget s.qos.bindC c).getD 0xFFFF)]
        { u with qos := { s.qos with bindC := tset s.qos.bindC c k } })) ∧
    (∀ c, Accepted src 0x0D03 s r → k = 0xFFFF → rqW r 2 = BitVec.ofNat 32 c → c < 2048 → thas s.nvq.ctrls c = true →
      exec (.tenantBind src) s = .next (replied r 0 [lo32 ((tget s.qos.bindC c).getD 0xFFFF)]
        { u with qos := { s.qos with bindC := terase s.qos.bindC c } })) ∧
    (∀ c, Accepted src 0x0D03 s r → k ≤ 1023 → rqW r 2 = BitVec.ofNat 32 c → c < 2048 → thas s.nvq.ctrls c = false →
      exec (.tenantBind src) s = .next (replied r 0x0D03 [] u)) ∧
    (∀ h, Accepted src 0x0D04 s r → bytesOk r 4 = none → s.qos.trace = none → pickHandle s = some h →
      let b := begun src 0x0D04 h r true (slotsHeld r src s)
      let x : Trace := { tenant := k, handle := h, first := rqFirst r, count := rqCount r, bins := dscBytes r / 4,
                         start := (s.pwr.tb / 1000 + 1) * 1000 }
      exec (.tenantTrace src) s = .next { b with qos := { b.qos with trace := some x } }))

/-! ## Translation, flash translation -/

/-- R153 to R170, Tables 7-3 to 7-5: what an answer to a Translation Request, its retry, a page request group and its response or timeout do
to the contexts that wait; map pages that arrive; resumption; engine steps; and the translation opcodes.
Choices of the model it rests on: log entries 29 and 52. -/
def Obligations.TranslationAndFaults : Prop :=
  (∀ (req k pages : Nat) (r w : Bool) (q : XReq) (x : Tag) (s : State), tget s.xlt.reqs req = some q → q.wait = false → q.tag.isSome = true →
    q.stale = false → s.sys.mode.serving = true → tget s.nvq.tags k = some x → k ∈ reqTags s q → (if faultW x then w else r) = true →
    x.dma.page < q.page + min pages (2 ^ 18) → q.page ≤ x.dma.page →
    Ends (.translationCompletion req (.granted pages r w)) s fun t =>
      (Alone k s → ∃ y, tget t.nvq.tags k = some y ∧ y.dma.st = .resume ∧ y.dma.prog = x.dma.prog) ∧
      { ctrl := q.ctrl, page := q.page, pages := min pages (2 ^ 18), r, w } ∈ t.xlt.atc ∧
      (reqTags s q = [k] → OnlyChanges [.nvq, .xlt, .out] s t)) ∧
  (∀ (req k : Nat) (q : XReq) (x : Tag) (s : State), tget s.xlt.reqs req = some q → q.wait = false → q.tag.isSome = true → q.stale = false →
    s.sys.mode.serving = true → tget s.nvq.tags k = some x → reqTags s q = [k] → x.st = .suspended → req < s.xlt.nextReq →
    let sc : Sc := if x.psn then .unrecoveredRead else .dataTransfer
    ((fnAt s x.ctrl).priEn = true → (fnAt s x.ctrl).priStopped = false → x.dma.prgSent = false → NoAer k s →
      Ends (.translationCompletion req .denied) s fun t => (∃ y, tget t.nvq.tags k = some y ∧ y.dma = { x.dma with st := .pgQueued }) ∧
        t.xlt.cntPg = (s.xlt.cntPg + 1) % 2 ^ 32 ∧ (x.untracked = false ∨ x.placed = true → OnlyChanges [.nvq, .xlt, .out] s t)) ∧
    ((fnAt s x.ctrl).priEn = false → Alone k s →
      Ends (.translationCompletion req .denied) s fun t => Posted k sc t ∧ Latched 193 t ∧ EvtSet .xltEvt 1 t) ∧
    (q.again = false → Ends (.translationCompletion req .failed) s fun t => tget t.xlt.reqs req = some { q with wait := true } ∧
      tget t.nvq.tags k = some x ∧ OnlyChanges [.nvq, .xlt, .out] s t) ∧
    (q.again = true → Alone k s → Ends (.translationCompletion req .failed) s fun t =>
      Posted k sc t ∧ Latched 192 t ∧ EvtSet .xltEvt 0 t)) ∧
  (∀ (req : Nat) (a : XlatAnswer) (q : XReq) (s : State), tget s.xlt.reqs req = some q → q.wait = false → q.tag.isSome = true →
    q.stale = true → s.sys.mode.serving = true →
    exec (.translationCompletion req a) s = .next (emit (.xlatReq q.ctrl q.page q.pages)
      { s with xlt := { s.xlt with reqs := tset s.xlt.reqs req { q with stale := false } } })) ∧
  (∀ (req : Nat) (q : XReq) (s : State), tget s.xlt.reqs req = some q → q.wait = true → q.tag.isSome = true →
    reqRoom s (ctrlLink s q.ctrl) = true → s.sys.mode.serving = true →
    exec (.translationRetry req) s = .next (emit (.xlatReq q.ctrl q.page q.pages)
      { s with xlt := { s.xlt with reqs := tset s.xlt.reqs req { q with wait := false, again := true } } })) ∧
  (∀ (k : Nat) (x : Tag) (s : State), tget s.nvq.tags k = some x → x.dma.st = .pgQueued → s.sys.mode.serving = true → NoAer k s →
    let asked := s.xlt.prgs.find? fun g => g.ctrl == x.ctrl && g.w == faultW x && g.pages.contains x.dma.page
    (∀ g, asked = some g → Ends (.prgSend k) s fun t =>
      tget t.nvq.tags k = some { x with dma := { x.dma with st := .pgWait, prg := g.idx, prgSent := true } } ∧ t.out = s.out ∧ t.xlt.prgs = s.xlt.prgs) ∧
    (∀ i, asked = none → freePrg s x.ctrl = some i → fnRoom s x = true → linkRoom s x = true →
      firstTag s (fun y => y.dma.st == .pgQueued && ctrlLink s y.ctrl == ctrlLink s x.ctrl && (y.ctrl == x.ctrl || fnRoom s y)) = some k →
      Ends (.prgSend k) s fun t =>
        tget t.nvq.tags k = some { x with dma := { x.dma with st := .pgWait, prg := i, prgSent := true } } ∧
        t.xlt.prgs = s.xlt.prgs ++ [{ ctrl := x.ctrl, idx := i, pages := groupPages s x, w := faultW x }] ∧
        (∀ p ∈ groupPages s x, Output.pageReq x.ctrl p (faultW x) (decide ((groupPages s x).getLast? = some p)) i ∈ t.out) ∧
        t.out.length = s.out.length + (groupPages s x).length ∧ (x.untracked = false ∨ x.placed = true → OnlyChanges [.nvq, .xlt, .out] s t))) ∧
  (∀ (k ctrl prg : Nat) (x : Tag) (s : State), tget s.nvq.tags k = some x → k ∈ prgTags s ctrl prg → x.st = .suspended →
    s.sys.mode.serving = true → (s.xlt.prgs.any fun g => g.ctrl == ctrl && g.idx == prg) = true → Alone k s →
    let sc : Sc := if x.psn then .unrecoveredRead else .dataTransfer
    (Ends (.prgResponse ctrl prg .success) s fun t => (∃ y, tget t.nvq.tags k = some y ∧ y.dma = { x.dma with st := .txWait }) ∧
      (∀ g ∈ t.xlt.prgs, g ∈ s.xlt.prgs ∧ ¬(g.ctrl = ctrl ∧ g.idx = prg))) ∧
    (Ends (.prgResponse ctrl prg .invalid) s fun t => Posted k sc t ∧ Latched 193 t) ∧
    (Ends (.prgResponse ctrl prg .failure) s fun t => Posted k sc t ∧ (fnAt t ctrl).priFail = true ∧ (fnAt t ctrl).priStopped = true) ∧
    (rfld s .xltCfg 24 8 ≠ 0 → Ends (.prgTimeout ctrl prg) s fun t => Posted k sc t ∧ Latched 194 t ∧ EvtSet .xltEvt 2 t)) ∧
  (∀ (ctrl prg : Nat) (a : PrgAnswer) (s : State), (rfld s .xltCfg 24 8 = 0 → exec (.prgTimeout ctrl prg) s = .next s) ∧
    ((s.xlt.prgs.any fun g => g.ctrl == ctrl && g.idx == prg) = false → exec (.prgResponse ctrl prg a) s = .next s)) ∧
  (∀ (ns page : Nat) (s : State), (ns, page) ∈ s.xlt.reads → s.sys.mode.serving = true → seqUp s 2 = true → pageReadDone s ns page = true →
    (Ends (.mapPageLoaded ns page true) s fun t => (1 ≤ cachePages s → pageCached t ns page = true) ∧
      (∀ k x, tget s.nvq.tags k = some x → x.lkp.st = .mpWait → x.lkp.page = pageKey ns page → NoAer k s →
        ∃ y, tget t.nvq.tags k = some y ∧ y.lkp.st = .resume) ∧
      ∀ i e, tget s.xlt.eng i = some e → e.st = .mpWait → e.ns = ns → e.iu / iusPerPage = page →
        tget t.xlt.eng i = some { e with st := .resume }) ∧
    (Ends (.mapPageLoaded ns page false) s fun t => EvtSet .fteEvt 5 t ∧
      (logWaits s = false → s.cst.wr % 1024 + (lostIus s ns page).length < 1024 → ∀ iu ∈ lostIus s ns page, mapAt t ns iu = mapUnc))) ∧
  (∀ (k : Nat) (x : Tag) (s : State), tget s.nvq.tags k = some x → s.sys.mode.serving = true →
    (x.lkp.st = .resume → Ends (.contextResume k .lookup) s fun t =>
      (∃ y, tget t.nvq.tags k = some y ∧ y.lkp = { x.lkp with st := .running }) ∧ OnlyChanges [.nvq, .xlt] s t) ∧
    (x.dma.st = .resume → Ends (.contextResume k .dma) s fun t =>
      (∃ y, tget t.nvq.tags k = some y ∧ y.dma.st = .running ∧ y.dma.prog = x.dma.prog) ∧ OnlyChanges [.nvq, .xlt, .out] s t)) ∧
  (∀ (i : Nat) (e : EngCtx) (s : State), tget s.xlt.eng i = some e → e.st = .resume → s.sys.mode.serving = true → s.xlt.engWait = [] →
    Ends (.contextResume i .engine) s fun t => tget t.xlt.eng i = none ∧ OnlyChanges [.xlt] s t) ∧
  (∀ (ns iu step idx i : Nat) (frees : Bool) (s : State), let e : EngCtx := { ns, iu, step, idx, frees }
    s.sys.mode.serving = true → engHas s e = false → (List.range 1024).find? (fun i => !thas s.xlt.eng i) = some i →
    (pageCached s ns (iu / iusPerPage) = true → Ends (.engineStepStart ns iu step idx frees) s fun t =>
      t.xlt.eng = s.xlt.eng ∧ t.xlt.engWait = s.xlt.engWait ∧ t.xlt.cntMp = s.xlt.cntMp) ∧
    (pageCached s ns (iu / iusPerPage) = false → (tget s.fte.dir (pageKey ns (iu / iusPerPage))).isSome = true →
      Ends (.engineStepStart ns iu step idx frees) s fun t => tget t.xlt.eng i = some { e with st := .mpWait, since := s.pwr.tb } ∧
        t.xlt.cntMp = (s.xlt.cntMp + 1) % 2 ^ 32)) ∧
  (∀ (ns iu step idx : Nat) (frees : Bool) (s : State), let e : EngCtx := { ns, iu, step, idx, frees }
    s.sys.mode.serving = true → engHas s e = false → (∀ i, i < 1024 → thas s.xlt.eng i = true) →
    Ends (.engineStepStart ns iu step idx frees) s
      (RaisedFrom 197 (evt .xltEvt 5 { s with xlt := { s.xlt with engWait := s.xlt.engWait ++ [e] } }))) ∧
  (∀ (src : Nat) (s : State) (r : CamReq), let u := taken src s
    (Accepted src 0x0380 s r → exec (.xltInfo src) s = .next (replied r 0 [reg s .xltCfg, regValue s .xltSts 0, regValue s .xltAtcSts 0,
      regValue s .xltMapSts 0, regValue s .xltCntPg 0] u)) ∧
    (Accepted src 0x0381 s r → bytesOk r 16 = none →
      let o := listOut r 16 (suspAll s)
      exec (.suspList src) s = .next (repliedOut r 0 [lo32 o.1, lo32 o.2.1] o.2.2 (slotsHeld r src s))) ∧
    (Accepted src 0x0382 s r → linkOf s (rqTgt r) = rqTgt r → rqW r 2 = 0x80000000 →
      Answers (.atcDrop src) s r 0 [lo32 (s.xlt.atc.filter fun a => ctrlLink s a.ctrl == rqTgt r).length] fun v =>
        v.xlt.atc = (s.xlt.atc.filter fun a => !(ctrlLink s a.ctrl == rqTgt r)) ∧ OnlyChanges [.nvq, .xlt, .out] u v) ∧
    (Accepted src 0x0382 s r → linkOf s (rqTgt r) ≠ rqTgt r →
      exec (.atcDrop src) s = .next (replied r 0x0007 [lo32 (linkOf s 3)] u)))

/-- R180, R183, R185, R195 to R199, R201, R218, R219, R239, R348, Tables 8-6, 8-7, 8-17: programs that pass and fail, folding and compaction, grants,
garbage collection, erases, and the flash translation opcodes. Choices of the model it rests on: log entries 27, 28, 30 and 72. -/
def Obligations.FlashTranslation : Prop :=
  (∀ (die block step : Nat) (bad : List Nat) (o : Dop) (s : State), progEntry s die block step .done = some o →
    let st := (blkAt s die block).stream
    let per := stepCws s.prof st
    let lo := cwKey die (cwOf s.prof block (groupAt s.prof st step * per))
    (lastOf s.prof st step = false → Ends (.pagePassed die block step bad false) s fun t => t.fte.nand = s.fte.nand) ∧
    (lastOf s.prof st step = true → Ends (.pagePassed die block step bad false) s fun t =>
      (∀ e ∈ s.fte.prog, lo ≤ e.1 → e.1 < lo + per → ∃ c, tget t.fte.nand e.1 = some c ∧
        (st ≠ 2 → bad.contains (e.1 - lo) = true → c.poison = true ∧ Latched 313 t)) ∧
      (∀ a c r, s.fte.prog.filter (fun e => decide (lo ≤ e.1) && decide (e.1 < lo + per)) = [(a, c)] → c.kind = .host → c.part = 0 →
        iuCws s c = 1 → r ∈ recsOf s c.ns c.iu → r.live = true → r.ver = c.ver → beatsAll s c.ns c.iu c.ver = true →
        s.sys.mode ≠ .holdup → logWaits s = false → retained s < 4096 → mapAt t c.ns c.iu = a))) ∧
  (∀ (die block step : Nat) (bad : List Nat) (m : Bool) (s : State), progEntry s die block step .done = none →
    exec (.pagePassed die block step bad m) s = .next s) ∧
  (∀ (die block step : Nat) (bad : List Nat) (x : Stripe) (s u : State), (progEntry s die block step .done).isSome = true →
    exec (.pagePassed die block step bad false) s = .next u → stripeAt u (dieDom die) (blkAt s die block).stripe = some x →
    x.st = .opened → x.accs ≠ [] → u.sys.mode ≠ .dormant → Ends (.pagePassed die block step bad true) s fun t => EvtSet .mprEvt 6 t ∧ EvtSet .dreEvt 5 t ∧
      Latched 267 t ∧ ∃ y, stripeAt t (dieDom die) (blkAt s die block).stripe = some y ∧ y.st = .unprotected ∧ y.members = x.members) ∧
  (∀ (die block step : Nat) (o : Dop) (s : State), progEntry s die block step .array = some o →
    Ends (.programFailure die block step) s fun t => (blkAt t die block).st = .retired ∧ (blkAt t die block).bst = .bad ∧
      (dieAt t die).progFails = (dieAt s die).progFails + 1) ∧
  (∀ (ns page i : Nat) (s : State), foldDue s = true → s.sys.mode.serving = true → seqUp s 2 = true → foldPage s = some (ns, page) →
    let e : EngCtx := { ns, iu := iusPerPage * page }
    (folding s ns page = false → engHas s e = false → (List.range 1024).find? (fun i => !thas s.xlt.eng i) = some i →
      (pageCached s ns page = true ∨ tget s.fte.dir (pageKey ns page) = none → Ends .mapFold s fun t => folding t ns page = true) ∧
      (pageCached s ns page = false → (tget s.fte.dir (pageKey ns page)).isSome = true → Ends .mapFold s fun t =>
        tget t.xlt.eng i = some { e with st := .mpWait, since := s.pwr.tb })) ∧
    (folding s ns page = true → exec .mapFold s = .next s)) ∧
  (∀ (g : Nat) (s : State), foldDue s = true → s.sys.mode ≠ .holdup → seqUp s 8 = true → (s.cst.log.map (·.seg)).min? = some g → g < s.cst.wr / 1024 →
    (s.cst.log.filter fun d => d.seg == g).length < 128 → logFull s = false →
    Ends .logCompaction s fun t => (∀ d ∈ t.cst.log, d.seg ≠ g) ∧
      ∀ d ∈ s.cst.log, ∃ e ∈ t.cst.log, e.seq = d.seq ∧ e.kind = d.kind ∧ e.ns = d.ns ∧ e.key = d.key ∧ e.val = d.val) ∧
  (∀ (slot : Nat) (r : RangeRec) (s : State), s.sys.mode ≠ .holdup → r ∈ s.fte.rng → r.slot = slot → r.folded = false →
    Ends (.rangeRecordFold slot) s fun t => ∀ x ∈ t.fte.rng, x.slot = slot → x.folded = true) ∧
  (∀ (k : Nat) (x : Tag) (s : State), tget s.nvq.tags k = some x → x.st = .adm → x.qid ≠ 0 → writeLike x.ent = true → x.granted = false →
    s.sys.mode.serving = true → seqUp s 3 = true →
    (s.fte.wp = false ∨ s.sys.mode = .factory → (∀ d, d < 4 → grantNeed s x.ent d = 0 ∨
        (grantAhead s x d = false ∧ grantNeed s x.ent d + granted s d ≤ hostLeft s d + hostMay s d)) →
      exec (.writeGrant k) s = .next { s with nvq := { s.nvq with tags := tset s.nvq.tags k { x with granted := true } } }) ∧
    (s.fte.wp = true → s.sys.mode ≠ .factory → exec (.writeGrant k) s = .next s)) ∧
  (∀ (dom n : Nat) (v : Stripe) (s : State), dom < 4 → seqUp s 3 = true → gcMay (gcLevels s) dom = true → pickVictim (gcLevels s) dom = some n →
    stripeAt (gcLevels s) dom n = some v →
    Ends (.gcSelect dom) s fun t => isVictim t dom n = true ∧
      (∀ m ∈ v.members, (blkAt s m.1 m.2).st = .closed → (blkAt t m.1 m.2).st = .victim)) ∧
  (∀ (dom n : Nat) (outs : List IuOutcome) (v : Victim) (x : Stripe) (s : State),
    s.fte.victims.find? (fun v => v.dom == dom && v.stripe == n) = some v → stripeAt s dom n = some x →
    v.st = .selected ∨ v.st = .scan ∨ v.st = .copy → gcMay s dom = true → logDurable s = true → seqUp s 3 = true →
    let p := victimPart s x
    let e := engAll (scanSteps s p) s
    Ends (.gcScan dom n outs) s fun t => ∃ y ∈ t.fte.victims, y.dom = dom ∧ y.stripe = n ∧
      y.st = if e.1 = false then .scan else if (stripeValid e.2 p).isEmpty then .drain else .copy) ∧
  (∀ (dom n : Nat) (v : Victim) (x : Stripe) (s : State),
    s.fte.victims.find? (fun v => v.dom == dom && v.stripe == n) = some v → stripeAt s dom n = some x →
    v.st = .copy ∨ v.st = .drain ∨ v.st = .scan → drained s (victimPart s x) = true → s.sys.mode ≠ .holdup → sanOpen s = false →
    seqUp s 3 = true →
    Ends (.gcDrain dom n) s fun t => stripeAt t dom n = some { x with st := .collected, accs := [] } ∧
      (∀ m ∈ x.members, (blkAt s m.1 m.2).st = .victim → (blkAt t m.1 m.2).st = .doubt)) ∧
  (∀ (die block : Nat) (o : Dop) (s : State), eraseEntry s die block .done = some o → s.fte.wait = [] → sanOpen s = false →
    s.cst.wr % 1024 ≠ 1023 →
    Ends (.erasePass die block) s fun t => (blkAt t die block).st = .free ∧ (blkAt t die block).bst = .erased ∧
      (blkAt t die block).next = 0 ∧ (∀ a ∈ blkCws s die block, tget t.fte.nand a = none) ∧
      (∀ x ∈ t.cst.doubt, x.1 ≠ die ∨ x.2.1 ≠ block)) ∧
  (∀ (die block : Nat) (o : Dop) (s : State), eraseEntry s die block .array = some o → sanOpen s = false →
    Ends (.eraseFailure die block) s fun t => (blkAt t die block).st = .retired ∧ (blkAt t die block).bst = .bad ∧
      (dieAt t die).eraseFails = (dieAt s die).eraseFails + 1) ∧
  (∀ (src : Nat) (s : State) (r : CamReq), let u := taken src s
    let d := rqTgt r
    (Accepted src 0x0300 s r → exec (.fteInfo src) s = .next (replied r 0 [reg s .fteCfg, regValue s .fteSts 0, regValue s .fteMapcSts 0,
      regValue s .fteLogSts 0, regValue s .fteBadSts 0, regValue s .fteSpareCfg 0] u)) ∧
    (Accepted src 0x0301 s r → domSt s d ≠ .offline → exec (.domCapacity src) s = .next (replied r 0 [lo32 (goodD s d), lo32 (resD s d),
      lo32 (needD s d), lo32 (twos 32 (spareD s d)), lo32 s.prof.spareInit, lo32 (unallocD s d * 4096 / 2 ^ 30)] u)) ∧
    (Accepted src 0x0301 s r → domSt s d = .offline → exec (.domCapacity src) s = .next (replied r 0x0302 [] u)) ∧
    (∀ b, Accepted src 0x0302 s r → (dieAt s d).present = true → b = fld (rqW r 2) 0 16 → b < s.prof.blocksPerDie →
      exec (.blockInfo src) s = .next (replied r 0 [pack [(28, 4, blkCode (blkAt s d b).st), (0, 24, (blkAt s d b).ec)],
        lo32 ((blkCws s d b).filter (validCw s)).length, pack [(4, 2, dieDom d), (0, 2, (blkAt s d b).stream)],
        lo32 (blkAt s d b).refs] u)) ∧
    (∀ n, Accepted src 0x0303 s r → nsAt s d = some n → exec (.nsPlacement src) s =
      .next (replied r 0 (pack [(16, 16, n.inst), (0, 4, domBits fun e => n.segs.any fun g => g.1 == e)] ::
        (List.range 4).map fun e => lo32 (nsPagesIn n e)) u)) ∧
    (Accepted src 0x0303 s r → nsAt s d = none → exec (.nsPlacement src) s = .next (replied r 0x0301 [] u)) ∧
    (∀ m, Accepted src 0x0304 s r → m < 2 → rqW r 2 = BitVec.ofNat 32 m → domSt s d ≠ .offline → (gcAt s d).op = none →
      Answers (.gcControl src) s r 0 [lo32 (gcAt s d).mode] fun v => (gcAt v d).mode = m ∧ (gcAt v d).op = none ∧
        OnlyChanges (.fte :: faultParts) u v) ∧
    (∀ h n, Accepted src 0x0304 s r → rqW r 2 = pack [(8, 16, n), (0, 2, 2)] → n < 65536 → domSt s d ≠ .offline → (gcAt s d).op = none →
      freeBlks s d false < n * (domDies s d).length → pickHandle s = some h →
      Ends (.gcControl src) s fun t => (gcAt t d).mode = 2 ∧ (gcAt t d).target = n ∧ (gcAt t d).op = some h ∧
        tget t.cam.ops h = some (opOf src 0x0304 r false (earlier u r))) ∧
    (∀ h, Accepted src 0x0305 s r → bytesOk r 16 = none → (nsAt s d).isSome = true → pickHandle s = some h →
      let o := listOut r 16 (badRecs s d)
      exec (.badlbaList src) s = .next (endOp h 0 [lo32 o.1, lo32 o.2.1] o.2.2 (begun src 0x0305 h r true (slotsHeld r src s)))) ∧
    (Accepted src 0x0305 s r → bytesOk r 16 = none → (nsAt s d).isNone = true →
      exec (.badlbaList src) s = .next (replied r 0x0301 [] u)))

/-! ## Flash channels, signal recovery -/

/-- R208 to R235, R276, R390 to R393, Tables 9-3 to 9-8, 9-16: selection and the program-order guard, tokens, the ends and overruns of array
phases, bus transfers, erase suspend and resume, read-around, retraining, and the flash channel opcodes.
Choices of the model it rests on: log entry 32. -/
def Obligations.FlashChannels : Prop :=
  (∀ (die : Nat) (o : Dop) (s : State), let v := markLate (drainQ die s) die (fun o => o.st == .queued)
    (dieAt v die).present = true → (dieAt v die).failed = false → s.sys.mode.serving = true →
    zk540 s = false → arrayFree v (dieAt v die) = true → chooseOp v (dieAt v die) = some o →
    (orderOk v die o = true → o.kind = .read ∨ o.kind = .program ∨ o.kind = .erase →
      let rq : TokReq := { die, op := o.id, cost := opCost v o, energy := opCost v o * typical s.prof o.kind }
      Ends (.dieEntryChosen die) s fun t =>
        (∃ x ∈ (dieAt t die).queue, x.id = o.id ∧ x.st = if o.st = .suspended then .suspended else .tokenWait) ∧
        t.pwr.reqs = s.pwr.reqs ++ (if o.bg then [] else [rq]) ∧ t.pwr.bgReqs = s.pwr.bgReqs ++ (if o.bg then [rq] else []) ∧
        OnlyChanges [.fch, .pwr] s t) ∧
    (orderOk v die o = true → o.kind = .feature ∨ o.kind = .reset → Ends (.dieEntryChosen die) s fun t =>
      (∃ x ∈ (dieAt t die).queue, x.id = o.id ∧ x.st = .array) ∧ t.pwr.held = s.pwr.held ∧ OnlyChanges [.fch, .pwr] s t) ∧
    (orderOk v die o = false → Ends (.dieEntryChosen die) s fun t => Latched 238 t ∧ EvtSet .fchEvt 0 t ∧ t.fte.nand = s.fte.nand)) ∧
  (∀ (die op : Nat) (r : TokReq) (o : Dop) (s : State), s.sys.mode.serving = true → zk540 s = false →
    (s.pwr.reqs ++ s.pwr.bgReqs).head? = some r → r.die = die → r.op = op → busFree s die = true →
    (dieAt s die).queue.find? (fun o => o.id == op) = some o →
    (r.cost ≤ s.pwr.pool - s.pwr.held → (o.kind = .program → progFits s (dieAt s die) o = true) → Ends (.tokenGrant die op) s fun t =>
      (∃ x ∈ (dieAt t die).queue, x.id = op ∧ x.st = .array ∧ x.held = r.cost) ∧ t.pwr.held = s.pwr.held + r.cost ∧
      (∀ q ∈ t.pwr.reqs ++ t.pwr.bgReqs, q.op ≠ op) ∧ OnlyChanges [.fch, .pwr] s t) ∧
    (r.cost ≤ s.pwr.pool - s.pwr.held → o.kind = .program → progFits s (dieAt s die) o = false → Ends (.tokenGrant die op) s fun t =>
      (∃ x ∈ (dieAt t die).queue, x.id = op ∧ x.st = .queued ∧ x.late = true) ∧ t.pwr.held = s.pwr.held - o.held ∧
      (∀ q ∈ t.pwr.reqs ++ t.pwr.bgReqs, q.op ≠ op) ∧ OnlyChanges [.fch, .pwr] s t) ∧
    (¬ r.cost ≤ s.pwr.pool - s.pwr.held → exec (.tokenGrant die op) s = .next s)) ∧
  (∀ (die : Nat) (o : Dop) (s : State), s.sys.mode.serving = true → zk540 s = true → zkChoice s = some (die, o) → o ∈ (dieAt s die).queue →
    busFree s die = true →
    (orderOk s die o = true → (o.kind = .program → progFits s (dieAt s die) o = true) →
      Ends (.tokenGrant die o.id) s fun t => t.pwr.held = s.pwr.held + opCost s o ∧
        t.pwr.energy = s.pwr.energy - opCost s o * typical s.prof o.kind ∧
        (∃ x ∈ (dieAt t die).queue, x.id = o.id ∧ x.st = .array ∧ x.held = opCost s o) ∧ OnlyChanges [.fch, .pwr] s t) ∧
    (orderOk s die o = false → Ends (.tokenGrant die o.id) s fun t => Latched 238 t ∧ EvtSet .fchEvt 0 t ∧ t.fte.nand = s.fte.nand)) ∧
  (∀ (die op : Nat) (s : State), busFree s die = false → exec (.tokenGrant die op) s = .next s) ∧
  (∀ s : State,
    (zk540 s = true → exec .zk540Window s = .next { s with pwr := { s.pwr with energy := s.pwr.pool * 1000 } }) ∧
    (zk540 s = false → exec .zk540Window s = .next s)) ∧
  (∀ (die : Nat) (o : Dop) (s : State), (dieAt s die).present = true → (dieAt s die).failed = false →
    chanHeld s (chanOf die) = false → (dieAt s die).resetting = false → inArray (dieAt s die) = some o →
    (o.kind = .read → Ends (.dieReadyPoll die) s fun t => (∃ x ∈ (dieAt t die).queue, x.id = o.id ∧ x.st = .busOut ∧ x.since = s.pwr.tb) ∧
      t.pwr.held = s.pwr.held - o.held ∧ (dieAt t die).runs = 0 ∧ OnlyChanges [.fch, .pwr] s t) ∧
    (o.kind = .program → Ends (.dieReadyPoll die) s fun t =>
      (∃ x ∈ (dieAt t die).queue, x.id = o.id ∧ x.st = .done) ∧
      t.pwr.held = s.pwr.held - o.held ∧ (blkAt t die o.block).next = (blkAt s die o.block).next + 1 ∧ OnlyChanges [.fch, .fte, .pwr] s t) ∧
    (o.kind = .erase → Ends (.dieReadyPoll die) s fun t => (∃ x ∈ (dieAt t die).queue, x.id = o.id ∧ x.st = .done) ∧
      t.pwr.held = s.pwr.held - o.held ∧ OnlyChanges [.fch, .pwr] s t)) ∧
  (∀ (die : Nat) (s : State), (dieAt s die).present = true → (dieAt s die).failed = false → chanHeld s (chanOf die) = false →
    (dieAt s die).resetting = true → Ends (.dieReadyPoll die) s fun t =>
      dieAt t die = { dieAt s die with resetting := false } ∧ OnlyChanges [.fch] s t) ∧
  (∀ (ch die : Nat) (o : Dop) (s : State), s.sys.mode.serving = true → chanHeld s ch = false → oldestBus s ch = some (die, o) →
    (∀ x ∈ (dieAt s die).wait, x.id ≠ o.id) →
    Ends (.busTransferGrant ch die) s fun t => (∀ x ∈ (dieAt t die).queue, x.id ≠ o.id) ∧
      (o.use = .scrub ∨ o.use = .gc ∨ o.use = .rebuild ∨ (∃ k, o.use = .host k) ∨ (∃ n p, o.use = .mapPage n p ∨ o.use = .fold n p) →
        ∀ c ∈ o.cws, ∃ l ∈ t.sre.ladders, l.cw = c ∧ useReader o.use ∈ l.readers) ∧
      OnlyChanges [.fch, .fte, .sre, .pwr] s t) ∧
  (∀ (die : Nat) (o : Dop) (s : State), s.sys.mode.serving = true → (dieAt s die).present = true → (dieAt s die).failed = false →
    chanHeld s (chanOf die) = false → inArray (dieAt s die) = some o →
    Ends (.arrayOverrun die) s fun t => Latched 240 t ∧ EvtSet .fchEvt 6 t ∧ (dieAt t die).runs = (dieAt s die).runs + 1 ∧
      ((dieAt s die).runs < 2 → (dieAt t die).resetting = true ∧ (dieAt t die).failed = false) ∧
      (2 ≤ (dieAt s die).runs → (dieAt t die).failed = true ∧ Latched 239 t) ∧
      (o.kind = .program ∨ o.kind = .erase → (blkAt t die o.block).st = .retired ∧ (blkAt t die o.block).bst = .bad)) ∧
  (∀ (die : Nat) (s : State),
    ((dieAt s die).resetting = true → (dieAt s die).failed = false → s.sys.mode.serving = true →
      Ends (.dieResetReadyTimeout die) s fun t => (dieAt t die).failed = true ∧ (dieAt t die).queue = [] ∧ Latched 239 t ∧ EvtSet .fchEvt 1 t ∧
        t.fch.diesFailed = s.fch.diesFailed + 1) ∧
    ((dieAt s die).resetting = false → exec (.dieResetReadyTimeout die) s = .next s)) ∧
  (∀ (die : Nat) (o : Dop) (s : State), s.sys.mode.serving = true → inArray (dieAt s die) = some o → o.kind = .erase →
    readWaits (dieAt s die) = true →
    (o.susp < suspMax s → o.dueSusp = false → ersSeg s ≤ s.pwr.tb - o.arrT → Ends (.suspendDue die) s fun t =>
      (∃ x ∈ (dieAt t die).queue, x.id = o.id ∧ x.dueSusp = true ∧ x.susp = o.susp ∧ x.ran = o.ran + (s.pwr.tb - o.arrT)) ∧
      OnlyChanges [.fch] s t) ∧
    (o.susp < suspMax s → s.pwr.tb - o.arrT < ersSeg s → exec (.suspendDue die) s = .next s) ∧
    (0 < suspMax s → suspMax s ≤ o.susp → o.dueSusp = false → Ends (.suspendDue die) s fun t => Latched 241 t ∧ EvtSet .fchEvt 5 t ∧
      (∃ x ∈ (dieAt t die).queue, x.id = o.id ∧ x.st = .array)) ∧
    (suspMax s = 0 → exec (.suspendDue die) s = .next s)) ∧
  (∀ (die : Nat) (o : Dop) (s : State), inArray (dieAt s die) = some o → o.kind = .erase →
    (o.dueSusp = true → o.susp < suspMax s → Ends (.eraseSuspendDone die) s fun t =>
      (∃ x ∈ (dieAt t die).queue, x.id = o.id ∧ x.st = .suspended ∧ x.susp = o.susp + 1 ∧ x.suspT = s.pwr.tb ∧ x.held = 0) ∧
      t.pwr.held = s.pwr.held - o.held ∧ OnlyChanges [.fch, .pwr] s t) ∧
    (o.dueSusp = false → exec (.eraseSuspendDone die) s = .next s)) ∧
  (∀ (die : Nat) (o : Dop) (s : State), s.sys.mode.serving = true → suspOf (dieAt s die) = some o → inArray (dieAt s die) = none →
    (∀ x ∈ (dieAt s die).queue, x.st ≠ .tokenWait) →
    ((∀ x ∈ (dieAt s die).queue, x.st = .queued → isRead x.kind = false ∧ x.kind ≠ .program) ∨ o.suspT + esusMax s ≤ s.pwr.tb →
      Ends (.resumeDue die) s fun t => (∃ x ∈ (dieAt t die).queue, x.id = o.id ∧ x.dueRes = true) ∧ OnlyChanges [.fch] s t) ∧
    (readWaits (dieAt s die) = true → s.pwr.tb < o.suspT + esusMax s → exec (.resumeDue die) s = .next s)) ∧
  (∀ (die op w k : Nat) (o : Dop) (s : State), s.sys.mode.serving = true →
    (dieAt s die).queue.find? (fun o => o.id == op && o.kind == .read && o.st == .queued) = some o → o.use = .host k →
    expectedWait s die = some w → rfld s .fchCfg 12 8 ≠ 0 →
    (w ≤ rfld s .fchCfg 12 8 * 10 → exec (.readAroundOffer die op) s = .next s) ∧
    (rfld s .fchCfg 12 8 * 10 < w → (∀ x, inArray (dieAt s die) = some x → x.kind ≠ .erase) →
      ((∀ c ∈ o.cws, aroundOk s c = true) → Ends (.readAroundOffer die op) s fun t => EvtSet .fchEvt 7 t ∧
        (∀ c ∈ o.cws, c ∈ t.dre.recon ∧ ∃ l ∈ t.sre.ladders, l.cw = c ∧ l.step = 5 ∧ l.around = true ∧ .host k ∈ l.readers) ∧
        OnlyChanges [.fch, .fte, .sre, .dre, .pwr, .regs] s t) ∧
      ((∃ c ∈ o.cws, aroundOk s c = false) → exec (.readAroundOffer die op) s = .next s)) ∧
    (∀ x, rfld s .fchCfg 12 8 * 10 < w → inArray (dieAt s die) = some x → x.kind = .erase → 0 < suspMax s → suspMax s ≤ x.susp →
      x.dueSusp = false → Ends (.readAroundOffer die op) s fun t => Latched 241 t ∧ EvtSet .fchEvt 5 t ∧
        ((∀ c ∈ o.cws, aroundOk s c = true) → EvtSet .fchEvt 7 t))) ∧
  (∀ (ch : Nat) (temp : Int) (s : State), ch < 32 → s.sys.mode.serving = true → (chanAt s ch).up = true →
    Ends (.channelTempSample ch temp) s fun t => chanAt t ch = { chanAt s ch with temp } ∧
      (12 < (temp - (chanAt s ch).trnTemp).natAbs → ∃ x ∈ t.fch.trnQ, x.ch = ch) ∧
      ((temp - (chanAt s ch).trnTemp).natAbs ≤ 12 → t.fch.trnQ = s.fch.trnQ) ∧ OnlyChanges [.fch] s t) ∧
  (∀ (ch eye : Nat) (s : State), ch < 32 → s.sys.mode.serving = true → (chanAt s ch).up = true → chanHeld s ch = false →
    rfld s .fchCfg 0 8 ≠ 0 → seqUp s 4 = true →
    Ends (.marginCheck ch eye) s fun t => chanAt t ch = { chanAt s ch with eye } ∧
      (eye < eyeMin s + eyeGuard s → ∃ x ∈ t.fch.trnQ, x.ch = ch) ∧ (eyeMin s + eyeGuard s ≤ eye → t.fch.trnQ = s.fch.trnQ) ∧
      OnlyChanges [.fch] s t) ∧
  (∀ (r : Retrain) (s : State), s.sys.mode.serving = true → s.fch.trnNow = none → seqUp s 4 = true →
    (s.fch.trnQ.find? (·.frame) = some r ∨ (s.fch.trnQ.find? (·.frame) = none ∧ s.fch.trnQ.head? = some r) →
      Ends .retrainQueueServed s fun t => t.fch.trnNow = some { r with t0 := s.pwr.tb } ∧ t.fch.trnQ = s.fch.trnQ.filter (fun x => x.ch != r.ch) ∧
        (chanAt t r.ch).trn = true ∧ (∀ c, c ≠ r.ch → chanAt t c = chanAt s c) ∧ OnlyChanges [.fch] s t)) ∧
  (∀ (tr : ChTrain) (r : Retrain) (s : State), s.sys.mode.serving = true → s.fch.trnNow = some r → seqUp s 4 = true →
    let from0 := if r.rateReset then s.prof.rates.headD 0 else (chanAt s r.ch).rate
    let low := rateDown s.prof from0
    (eyeMin s + eyeGuard s ≤ tr.eye → r.op = none → Ends (.retrainComplete tr) s fun t => t.fch.trnNow = none ∧
      (chanAt t r.ch).trn = false ∧ (chanAt t r.ch).rate = from0 ∧ (chanAt t r.ch).eye = tr.eye ∧
      (chanAt t r.ch).retrains = (chanAt s r.ch).retrains + 1 ∧ EvtSet .fchEvt 2 t ∧
      ((∀ l ∈ s.sre.ladders, chanOf (cwDie l.cw) = r.ch → l.hold = false) → OnlyChanges [.fch, .regs] s t)) ∧
    (tr.eye < eyeMin s + eyeGuard s → low ≠ 0 → r.ch < 32 → Ends (.retrainComplete tr) s fun t => t.fch.trnNow = none ∧
      (chanAt t r.ch).rate = low ∧ (∃ x ∈ t.fch.trnQ, x.ch = r.ch) ∧ EvtSet .fchEvt 3 t ∧ Latched (206 + r.ch) t) ∧
    (tr.eye < eyeMin s + eyeGuard s → low = 0 → r.ch < 32 → Ends (.retrainComplete tr) s fun t =>
      (chanAt t r.ch).failed = true ∧ (chanAt t r.ch).up = false ∧ EvtSet .fchEvt 4 t ∧ Latched (206 + r.ch) t ∧
      (∀ k, k < 16 → (dieAt s (dieNo r.ch k)).present = true → (dieAt t (dieNo r.ch k)).failed = true))) ∧
  (∀ (src : Nat) (s : State) (r : CamReq), let u := taken src s
    let d := rqTgt r
    let b := fld (rqW r 2) 0 16
    (Accepted src 0x0400 s r → exec (.fchInfo src) s = .next (replied r 0 [reg s .fchCfg, reg s .fchCfg2, regValue s .fchSts 0,
      regValue s .fchChFail 0, lo32 (presentDies s)] u)) ∧
    (Accepted src 0x0401 s r → exec (.chStatus src) s = .next (replied r 0 [regValue s .fchChSts d, regValue s .fchChCnt d,
      pack ((List.range 16).map fun k => (k, 1, b2n (dieAt s (dieNo d k)).present)),
      lo32 ((s.pwr.tb - (chanAt s d).lastTrn) / 1000000000)] u)) ∧
    (Accepted src 0x0402 s r → (dieAt s d).present = true → exec (.dieStatus src) s = .next (replied r 0 [regValue s .fchDieqSts d,
      lo32 (dieAt s d).erases, lo32 (dieAt s d).progFails, lo32 (dieAt s d).eraseFails, lo32 (dieAt s d).overruns] u)) ∧
    (Accepted src 0x0402 s r → (dieAt s d).present = false → exec (.dieStatus src) s = .next (replied r 0x0400 [] u)) ∧
    (∀ h, Accepted src 0x0403 s r → rqW r 2 &&& 0xFFFFFFFE = 0 → (∀ x ∈ s.fch.trnQ, x.ch ≠ d) → (∀ x, s.fch.trnNow = some x → x.ch ≠ d) →
      (chanAt s d).failed = false → pickHandle s = some h →
      let v := begun src 0x0403 h r false u
      exec (.chRetrain src) s = .next { v with fch := { v.fch with
        trnQ := v.fch.trnQ ++ [{ ch := d, rateReset := bitOf (rqW r 2) 0, op := some h }] } }) ∧
    (Accepted src 0x0403 s r → rqW r 2 &&& 0xFFFFFFFE = 0 → (∃ x ∈ s.fch.trnQ, x.ch = d) →
      exec (.chRetrain src) s = .next (replied r 0x0401 [] u)) ∧
    (Accepted src 0x0403 s r → rqW r 2 &&& 0xFFFFFFFE = 0 → (∀ x ∈ s.fch.trnQ, x.ch ≠ d) → (∀ x, s.fch.trnNow = some x → x.ch ≠ d) →
      (chanAt s d).failed = true → exec (.chRetrain src) s = .next (replied r 0x0402 [] u)) ∧
    (Accepted src 0x0404 s r → (dieAt s d).present = true → 256 ≤ dscBytes r →
      exec (.dieParam src) s = .next (repliedOut r 0 [256] (paramBytes s d) (slotsHeld r src s))) ∧
    (Accepted src 0x0405 s r → (dieAt s d).present = true → b < s.prof.blocksPerDie → exec (.bstGet src) s =
      .next (replied r 0 [pack [(16, 12, (blkAt s d b).next), (0, 3, bstCode (blkAt s d b).bst)]] u)) ∧
    (Accepted src 0x0405 s r → (dieAt s d).present = false ∨ s.prof.blocksPerDie ≤ b →
      exec (.bstGet src) s = .next (replied r 0x0400 [] u)))

/-- R240 to R263, R496, Tables 10-4, 10-5, 10-14: frames found and lost, decodes that succeed or climb the ladder, candidates and tracking
windows, state pages, and the signal recovery opcodes. Choices of the model it rests on: log entries 31, 34 and 70. -/
def Obligations.SignalRecovery : Prop :=
  (∀ (ch cw : Nat) (m : Marks) (l : Ladder) (s : State), ladderOf s cw = some l → frameHere s l = true → chanOf (cwDie cw) = ch →
    ch < 32 → sreUp s ch = true → probeOnly l = false → s.sys.mode.serving = true →
    let last := decide (sensesIn l.step ≤ l.found + 1)
    let got (k : Nat) : Ladder := { l with found := l.found + 1, reread := false, frame := max l.frame k, framed := last }
    (leadAt s cw m = some 0 → l.lost = false ∨ last = false → Ends (.frameReceived ch cw m) s fun t =>
      ladderOf t cw = some (got 0) ∧ OnlyChanges [.sre] s t) ∧
    (leadAt s cw m = some 0 → l.lost = true → last = true → l.step = 3 → (dieAt s (cwDie cw)).failed = false →
      Ends (.frameReceived ch cw m) s fun t => (∃ x, ladderOf t cw = some x ∧ x.step = 4 ∧ x.readers = l.readers) ∧ EvtSet .sreEvt 3 t) ∧
    (∀ o, leadAt s cw m = some o → o ≠ 0 → l.lost = false ∨ last = false → backupAt s cw m = none ∨ backupAt s cw m = some o → Ends (.frameReceived ch cw m) s fun t =>
      ladderOf t cw = some (got 1) ∧ EvtSet .sreEvt 0 t ∧
      (tgetD t.sre.frames ch {}).realign = (tgetD s.sre.frames ch {}).realign + 1 ∧ (chanAt t ch).slips = (chanAt s ch).slips + 1) ∧
    (∀ o, leadAt s cw m = none → backupAt s cw m = some o → l.lost = false ∨ last = false → Ends (.frameReceived ch cw m) s fun t =>
      ladderOf t cw = some (got 2) ∧ EvtSet .sreEvt 1 t ∧
      (tgetD t.sre.frames ch {}).leadMiss = (tgetD s.sre.frames ch {}).leadMiss + 1 ∧ (chanAt t ch).slips = (chanAt s ch).slips + 1) ∧
    ((leadAt s cw m = none ∧ backupAt s cw m = none ∧ erasedFrame s cw m = false) ∨
      (∃ o b, leadAt s cw m = some o ∧ backupAt s cw m = some b ∧ o ≠ 0 ∧ b ≠ o) →
      Ends (.frameReceived ch cw m) s fun t => EvtSet .sreEvt 2 t ∧ Latched 258 t ∧ Latched (206 + ch) t ∧ (∃ x ∈ t.fch.trnQ, x.ch = ch) ∧
        (tgetD t.sre.frames ch {}).fail = (tgetD s.sre.frames ch {}).fail + 1 ∧
        (l.reread = false → ladderOf t cw = some { l with reread := true, hold := true }) ∧
        (l.reread = true → last = false → ladderOf t cw = some { l with found := l.found + 1, reread := false, lost := true }) ∧
        (l.reread = true → l.step = 3 → last = true → (dieAt s (cwDie cw)).failed = false →
          (∃ x, ladderOf t cw = some x ∧ x.step = 4 ∧ x.readers = l.readers) ∧ EvtSet .sreEvt 3 t)) ∧
    (leadAt s cw m = none → backupAt s cw m = none → erasedFrame s cw m = true → .stripe ∉ l.readers →
      Ends (.frameReceived ch cw m) s fun t => EvtSet .sreEvt 11 t ∧
        ladderOf t cw = some { l with step := 5 } ∧ cw ∈ t.dre.recon ∧ Latched 261 t)) ∧
  (∀ (cw h : Nat) (m : Marks) (s : State), h < 2 ^ 16 → popBits 16 h % 2 = 0 → h % 4 = cwPos s.prof (cw % 2 ^ 27) % max 1 s.prof.q →
    h / 4 % 8 = (blkAt s (cwDie cw) (cwBlock s cw)).rate →
    (∀ e, e < 2 ^ 48 → popBits 48 e ≤ markTol s → m.lead / 2 ^ 7 % 2 ^ 64 = h * 2 ^ 48 + Nat.xor syncWord e → leadAt s cw m = some 0) ∧
    (∀ e, e < 2 ^ 48 → popBits 48 e ≤ markTol s → m.backup / 2 ^ 7 % 2 ^ 64 = h * 2 ^ 48 + Nat.xor (2 ^ 48 - 1 - syncWord) e →
      backupAt s cw m = some 0)) ∧
  (∀ (cw step : Nat) (d : Decode) (l : Ladder) (s : State), ladderOf s cw = some l → l.step = step → l.framed = true → 0 < step → step ≤ 4 →
    inDecoder s l = true → sreUp s (chanOf (cwDie cw)) = true → probeOnly l = false → s.sys.mode.serving = true → step = 1 ∨ seqUp s 6 = true →
    (converges s step d = true → d.sealOk = true ∨ d.poison = true → Ends (.decodeResult cw step d) s fun t => ladderOf t cw = none ∧
      (2 ≤ step → l.around = false → (sreDieAt t (cwDie cw)).lastStep = step) ∧
      (∀ k x, .host k ∈ l.readers → tget s.nvq.tags k = some x →
        ∃ y, tget t.nvq.tags k = some y ∧ cw ∉ y.want ∧ (cw, d.poison) ∈ y.got)) ∧
    ((dieAt s (cwDie cw)).failed = false → converges s step d = false ∨ (d.sealOk = false ∧ d.poison = false) →
      step ≠ 2 ∨ step2Tries s ≤ l.tries + 1 →
      let next := if step = 1 ∧ step2Tries s ≠ 0 then 2 else if step = 1 then 3 else step + 1
      (next = 5 → .stripe ∉ l.readers) → Ends (.decodeResult cw step d) s fun t => (∃ m, ladderOf t cw = some m ∧ m.step = next ∧ m.framed = false ∧ m.readers = l.readers) ∧
        tgetD t.sre.stepCnt next 0 = (tgetD s.sre.stepCnt next 0 + 1) % 2 ^ 32 ∧
        (next = 4 → EvtSet .sreEvt 3 t) ∧ (next = 5 → EvtSet .sreEvt 4 t ∧ Latched 261 t ∧ cw ∈ t.dre.recon) ∧
        (converges s step d = true → EvtSet .sreEvt 6 t ∧ Latched 254 t)) ∧
    ((dieAt s (cwDie cw)).failed = false → converges s step d = false → step = 2 → l.tries + 1 < step2Tries s →
      Ends (.decodeResult cw step d) s fun t => ∃ m, ladderOf t cw = some m ∧ m.step = 2 ∧ m.tries = l.tries + 1)) ∧
  (∀ (die plane col : Nat) (c : Cand) (s : State),
    (sreDieAt s die).cands.find? (fun c => c.plane == plane && c.col == col) = some c → seqUp s 6 = true →
    (colSpan s ≤ tgetD (sreDieAt s die).cws plane 0 - c.start → c.hits < colHit s →
      Ends (.candidateExpiry die plane col) s fun t => sreDieAt t die = { sreDieAt s die with
          cands := (sreDieAt s die).cands.filter fun x => !(x.plane == plane && x.col == col) } ∧ OnlyChanges [.sre] s t) ∧
    (colHit s ≤ c.hits → exec (.candidateExpiry die plane col) s = .next s)) ∧
  (∀ (die bin : Nat) (s : State), bin ≤ 9 → s.sys.mode.serving = true → seqUp s 6 = true →
    let b := binAt s die bin
    let all := loopD b fun _ => true
    (loopWin s ≤ b.counted → Ends (.loopWindowUpdate die bin) s fun t =>
      let c := binAt t die bin
      c.counted = 0 ∧ c.sums = [] ∧ c.windows = b.windows + 1 ∧
      (all.2 < 32 → c.o = b.o ∧ c.s = b.s ∧ c.t = b.t ∧ c.tupd = b.tupd) ∧
      (32 ≤ all.2 → c.o = clampI 64 (b.o + stepSign all (0, 0) * s.prof.loopDir.getD 0 1) ∧ (c.o ≠ b.o → c.tupd = (chanAt s (chanOf die)).temp)) ∧
      (bin = 0 → c.s = b.s ∧ c.t = b.t) ∧ (b.o.natAbs < 64 → 64 ≤ c.o.natAbs → EvtSet .sreEvt 7 t ∧ Latched 257 t) ∧
      (∀ k, k ≠ bin → binAt t die k = binAt s die k)) ∧
    (b.counted < loopWin s → exec (.loopWindowUpdate die bin) s = .next s)) ∧
  (∀ s : State,
    (s.sys.mode ≠ .holdup → (∃ e ∈ s.sre.dies, e.2.dirty = true) → (s.sre.dies.map (·.1)).Nodup → Ends .sreStatePageWrite s fun t =>
      (∀ e ∈ t.sre.dies, e.2.dirty = false) ∧
      (∀ die x, tget s.sre.dies die = some x → ∃ y, tget t.cst.sreSaved die = some y ∧ y.cols = x.cols ∧ y.wls = x.wls ∧
        y.bins = x.bins.map fun b => (b.1, { b.2 with counted := 0, sums := [], windows := 0 })) ∧ t.sre.ladders = s.sre.ladders) ∧
    ((∀ e ∈ s.sre.dies, e.2.dirty = false) → exec .sreStatePageWrite s = .next s)) ∧
  (∀ (src : Nat) (s : State) (r : CamReq), let u := taken src s
    let d := rqTgt r
    let w := rqW r 2
    let c : Col := { plane := fld w 30 2, col := fld w 0 18, kind := 2 }
    let listed (x : Col) : Bool := x.plane == c.plane && x.col == c.col
    (Accepted src 0x0480 s r → exec (.sreInfo src) s = .next (replied r 0 [reg s .sreCfg, reg s .sreCfg2, regValue s .sreSts 0,
      regValue s .sreStepCnt 3, regValue s .sreStepCnt 4, regValue s .sreStepCnt 5] u)) ∧
    (∀ b, Accepted src 0x0481 s r → dieGone s d = false → b = fld w 0 4 → b ≤ 9 →
      let x := binAt s d b
      exec (.loopGet src) s = .next (replied r 0 [binW x, lo32 x.windows, lo32 ((List.range s.prof.blocksPerDie).filter fun k =>
        ((blkAt s d k).st == .opened || (blkAt s d k).st == .closed || (blkAt s d k).st == .victim) && binOf s d k == b).length] u)) ∧
    (Accepted src 0x0481 s r → dieGone s d = true → exec (.loopGet src) s = .next (replied r 0x0480 [] u)) ∧
    (Accepted src 0x0481 s r → dieGone s d = false → 9 < fld w 0 4 → exec (.loopGet src) s = .next (replied r 0x0481 [] u)) ∧
    (Accepted src 0x0482 s r → bytesOk r 8 = none → dieGone s d = false →
      let o := listOut r 8 (defectRecs (sreDieAt s d))
      exec (.defectList src) s = .next (repliedOut r 0 [lo32 o.1, lo32 o.2.1] o.2.2 (slotsHeld r src s))) ∧
    (Accepted src 0x0482 s r → bytesOk r 8 = none → dieGone s d = true → exec (.defectList src) s = .next (replied r 0x0480 [] u)) ∧
    (Accepted src 0x0483 s r → w &&& 0x3FFC0000 = 0 → dieGone s d = false → c.col < s.prof.pageBytes * 8 →
      ((∀ x ∈ (sreDieAt s d).cols, listed x = false) → ((sreDieAt s d).cols.filter fun x => x.plane == c.plane).length < 64 →
        ∃ v, exec (.coldefAdd src) s = .next (replied r 0 [regValue v .sreDieSts d] v) ∧ EvtSet .sreEvt 8 v ∧
          sreDieAt v d = { sreDieAt s d with cols := (sreDieAt s d).cols ++ [c], dirty := true } ∧ OnlyChanges [.sre, .regs] u v) ∧
      ((∀ x ∈ (sreDieAt s d).cols, listed x = false) → 64 ≤ ((sreDieAt s d).cols.filter fun x => x.plane == c.plane).length →
        Answers (.coldefAdd src) s r 0x0482 [] fun v => v.sre = s.sre ∧ EvtSet .sreEvt 10 v ∧ Latched 256 v) ∧
      ((∃ x ∈ (sreDieAt s d).cols, listed x = true) → exec (.coldefAdd src) s = .next (replied r 0 [regValue s .sreDieSts d] u))) ∧
    (Accepted src 0x0483 s r → w &&& 0x3FFC0000 = 0 → dieGone s d = false → s.prof.pageBytes * 8 ≤ c.col →
      exec (.coldefAdd src) s = .next (replied r 0x0483 [] u)) ∧
    (Accepted src 0x0484 s r → w &&& 0x7FFFFC00 = 0 → dieGone s d = false →
      ∃ v, exec (.loopReset src) s = .next (replied r 0 [regValue v .sreDieSts d] v) ∧ OnlyChanges [.sre] u v ∧
        (∀ b, b ≤ 9 → bitOf w b = true → (binAt v d b).o = (bin0 s.prof b).o ∧ (binAt v d b).s = (bin0 s.prof b).s ∧
          (binAt v d b).t = (bin0 s.prof b).t) ∧
        (∀ b, b ≤ 9 → bitOf w b = false → binAt v d b = binAt s d b) ∧
        (sreDieAt v d).cols = if bitOf w 31 then (sreDieAt s d).cols.filter fun x => x.kind != 1 else (sreDieAt s d).cols) ∧
    (Accepted src 0x0484 s r → w &&& 0x7FFFFC00 = 0 → dieGone s d = true → exec (.loopReset src) s = .next (replied r 0x0480 [] u)) ∧
    (∀ h top, Accepted src 0x0485 s r → w &&& 0xF8000000 = 0 → rqW r 3 = BitVec.ofNat 32 top → 0 < top → top ≤ 4 → dieGone s d = false →
      fld w 0 27 < s.prof.blocksPerDie * cwsPerBlk s.prof → pickHandle s = some h → (ladderOf s (cwKey d (fld w 0 27))).isNone = true →
      Ends (.ladderProbe src) s fun t => tget t.cam.ops h = some (opOf src 0x0485 r false (earlier u r)) ∧
        (∃ l, ladderOf t (cwKey d (fld w 0 27)) = some l ∧ l.readers = [.probe h top] ∧ l.step = 1) ∧
        0 < readsLeft t (cwKey d (fld w 0 27))))

/-! ## Die redundancy -/

/-- R272, R275, R277 to R287, Tables 11-2, 11-9: reconstructions, idle stripes, the steps of a rebuild and its map scan, mirror completions
and timeouts, resync, and the die redundancy opcodes. Choices of the model it rests on: log entries 35, 36 and 72. -/
def Obligations.DieRedundancy : Prop :=
  (∀ (cw : Nat) (ok p : Bool) (l : Ladder) (s : State), cw ∈ s.dre.recon.take 256 → ladderOf s cw = some l → islOn s 23 = true →
    s.sys.mode.serving = true → (∀ a ∈ reconReads s cw, a ∉ s.dre.want) →
    ((survOk s cw = true ∧ ok = true) ∨ (partnerCurrent s cw = true ∧ p = true) → Ends (.reconstructionDone cw ok p) s fun t =>
      cw ∉ t.dre.recon ∧ ladderOf t cw = none ∧
      ∀ k x, .host k ∈ l.readers → tget s.nvq.tags k = some x → ∃ y, tget t.nvq.tags k = some y ∧ cw ∉ y.want ∧
        (cw, ((tget s.fte.nand cw).map (·.poison)).getD false) ∈ y.got) ∧
    (survOk s cw = false ∨ ok = false → partnerCurrent s cw = false ∨ p = false → Ends (.reconstructionDone cw ok p) s fun t =>
      cw ∉ t.dre.recon ∧ ladderOf t cw = none ∧ EvtSet .dreEvt 7 t ∧ EvtSet .sreEvt 5 t ∧ Latched 265 t ∧ Latched 255 t ∧
      ∀ k x, .host k ∈ l.readers → tget s.nvq.tags k = some x → ∃ y, tget t.nvq.tags k = some y ∧ (cw, true) ∈ y.got ∧ y.psn = true) ∧
    (survOk s cw = true → ok = false → Ends (.reconstructionDone cw ok p) s fun t => EvtSet .mprEvt 7 t ∧ Latched 313 t)) ∧
  (∀ (cw : Nat) (ok p : Bool) (s : State), cw ∉ s.dre.recon ∨ (∃ a ∈ reconReads s cw, a ∈ s.dre.want) →
    exec (.reconstructionDone cw ok p) s = .next s) ∧
  (∀ (cw : Nat) (c : Cw) (n : Ns) (s : State), partnerCurrent s cw = true → tget s.fte.nand cw = some c → nsAt s c.ns = some n →
    let g := granKey c.ns (c.iu * lbasPerIu n.fmt * lbaBytes n.fmt / 2 ^ 30)
    thas s.dre.pairs c.ns = true ∧ s.dre.lost = false ∧ s.hpc.twin = 4 ∧ g ∉ s.dre.dirty ∧ g ∉ s.dre.active) ∧
  (∀ (dom n : Nat) (x : Stripe) (s : State), stripeAt s dom n = some x → s.sys.mode ≠ .holdup → seqUp s 7 = true →
    (x.st = .opened → x.part = false → Ends (.stripeIdleClose dom n) s fun t => EvtSet .dreEvt 6 t ∧
      (∃ y, stripeAt t dom n = some y ∧ y.part = true ∧ y.members = x.members ∧ ∀ a ∈ y.accs, a.queued = true) ∧
      ∀ m ∈ x.members, (blkAt t m.1 m.2).st ≠ .opened) ∧
    (x.st ≠ .opened ∨ x.part = true → exec (.stripeIdleClose dom n) s = .next s)) ∧
  (∀ (dom n : Nat) (x : Stripe) (s : State), stripeAt s dom n = some x → domSt s dom = .rebuilding → n ∈ (domAt s dom).exposed →
    s.sys.mode.serving = true → sanOpen s = false → x.st = .closed → seqUp s 7 = true →
    (x.repl = none → stripeValid s x = [] → Ends (.rebuildStripeStep dom n [] false) s fun t => n ∉ (domAt t dom).exposed ∧
      t.dre.stripes = s.dre.stripes ∧ OnlyChanges [.dre] s t) ∧
    (∀ lost k b held, x.repl = none → stripeValid s x ≠ [] → aheadOk s dom n = true → lostPos s x = some lost → replDie s dom x = some k →
      pickBlk s k x.stream = some (b, held) →
      0 < groupsDone s.prof x.stream (blkAt s (x.members.getD lost (0, 0)).1 (x.members.getD lost (0, 0)).2).next →
      Ends (.rebuildStripeStep dom n [] false) s fun t =>
        (∃ y, stripeAt t dom n = some y ∧ y.repl.map (fun r => (r.lost, r.die, r.block)) = some (lost, k, b)) ∧
        (blkAt t k b).st = .opened ∧ (held = true → EvtSet .fteEvt 1 t ∧ Latched 203 t)) ∧
    (∀ r, x.repl = some r → r.lost < x.members.length →
      (∀ o ∈ (dieAt s r.die).queue ++ (dieAt s r.die).wait, o.kind = .program → o.block ≠ r.block) →
      let m := x.members.getD r.lost (0, 0)
      let w := groupsDone s.prof x.stream (blkAt s m.1 m.2).next
      let k := match r.step with | none => 0 | some x => x + 1
      let reads := groupReads s x r.lost r.given
      let per := stepCws s.prof x.stream
      let lo := max (cutAt s.prof x.stream r.given) (blkAt s r.die r.block).next
      let hi := if r.given + 1 = w then endAt s.prof x.stream w else cutAt s.prof x.stream (r.given + 1)
      (w ≤ k → x.accMis = true → stripeValid s x ≠ [] → ∀ b, exec (.rebuildStripeStep dom n [] b) s = .next s) ∧
      (w ≤ k → x.accMis = false ∨ stripeValid s x = [] → Ends (.rebuildStripeStep dom n [] false) s fun t =>
        (∃ y, stripeAt t dom n = some y ∧ y.repl = none ∧ y.members = setAt x.members r.lost (r.die, r.block)) ∧
        n ∉ (domAt t dom).exposed ∧ (blkAt t r.die r.block).st = .closed) ∧
      (k < w → w ≤ r.given → ∀ b, exec (.rebuildStripeStep dom n [] b) s = .next s) ∧
      (k < w → r.given < w → (∃ a ∈ reads, ∀ g ∈ s.dre.got, g.1 ≠ a) → Ends (.rebuildStripeStep dom n [] false) s fun t =>
        (∀ a ∈ reads, a ∈ t.dre.want ∨ ∃ g ∈ t.dre.got, g.1 = a) ∧ OnlyChanges [.fch, .fte, .dre] s t) ∧
      (k < w → r.given < w → (∀ a ∈ reads, ∃ g ∈ s.dre.got, g.1 = a) →
        (r.lost = x.ppos → Ends (.rebuildStripeStep dom n [] true) s fun t => EvtSet .mprEvt 6 t) ∧
        ((dieAt s r.die).present = true → (dieAt s r.die).failed = false → Ends (.rebuildStripeStep dom n [] false) s fun t =>
          (∀ i, lo ≤ i → i < hi → ∃ o ∈ (dieAt t r.die).queue ++ (dieAt t r.die).wait, o.kind = .program ∧ o.block = r.block ∧
            o.step = i ∧ o.use = .rebuild)) ∧
        ((∀ a ∈ reads, (a, false) ∉ s.dre.got) → x.bare = [] → Ends (.rebuildStripeStep dom n [] false) s fun t =>
          (∀ pos, r.given * per ≤ pos → pos < (r.given + 1) * per →
            ∀ c, validCw s (cwKey m.1 (cwOf s.prof m.2 pos)) = true → tget s.fte.nand (cwKey m.1 (cwOf s.prof m.2 pos)) = some c →
              ∃ p, tget t.fte.prog (cwKey r.die (cwOf s.prof r.block pos)) = some p ∧ p.ns = c.ns ∧ p.iu = c.iu ∧ p.ver = c.ver ∧
                p.body = c.body ∧ p.poison = c.poison) ∧ OnlyChanges [.fch, .fte, .dre] s t) ∧
        (∀ pos u, (reads.filter fun a => s.dre.got.contains (a, false)).find? (fun a => cwPos s.prof (a % 2 ^ 27) == pos) = some u →
          r.given * per ≤ pos → pos < (r.given + 1) * per → Ends (.rebuildStripeStep dom n [] false) s fun t =>
            EvtSet .dreEvt 2 t ∧ Latched 264 t ∧ (domAt s dom).lost < (domAt t dom).lost)))) ∧
  (∀ (dom : Nat) (s : State), domSt s dom = .rebuilding → (domAt s dom).exposed = [] → s.sys.mode.serving = true → sanOpen s = false →
    seqUp s 7 = true →
    ((domAt s dom).lost = 0 ∨ (engAll (scanPages s dom) s).1 = true → Ends (.rebuildMapScan dom) s fun t =>
      domSt t dom = .inService ∧ EvtSet .dreEvt 1 t ∧
      ((dieAt s (domAt s dom).rdie).present = true → (dieAt t (domAt s dom).rdie).retired = true) ∧
      (0 < (domAt s dom).lost → logWaits s = false → ∀ e ∈ s.fte.map, ∀ n, nsAt s (e.1 / 2 ^ 40) = some n → mapSpecial e.2 = false →
        iuUnits n.fmt = 1 → e.2 ∈ (domAt s dom).lostCw →
          mapAt t (e.1 / 2 ^ 40) (e.1 % 2 ^ 40) = mapUnc ∧ tget t.fte.uncSrc e.1 = some 2)) ∧
    (0 < (domAt s dom).lost → (engAll (scanPages s dom) s).1 = false → Ends (.rebuildMapScan dom) s fun t =>
      domSt t dom = .rebuilding ∧ t.fte.map = s.fte.map)) ∧
  (∀ (dom : Nat) (s : State), (domAt s dom).exposed ≠ [] → exec (.rebuildMapScan dom) s = .next s) ∧
  (∀ (k : Nat) (x : Tag) (s : State), tget s.nvq.tags k = some x → x.mirWait = true →
    (s.dre.lost = false → x.localDone = true → x.st ≠ .post → Ends (.mirrorCompletion k) s fun t => Posted k .success t ∧ OnlyChanges [.nvq] s t) ∧
    (s.dre.lost = false → x.localDone = false → exec (.mirrorCompletion k) s =
      .next { s with nvq := { s.nvq with tags := tset s.nvq.tags k { x with mirWait := false } } }) ∧
    (s.dre.lost = true → exec (.mirrorCompletion k) s = .next s) ∧
    (s.dre.lost = false → s.sys.mode.serving = true → Ends (.mirrorTimeout k) s fun t => t.dre.lost = true ∧ EvtSet .dreEvt 8 t ∧
      Latched 268 t ∧ ∀ j y, tget s.nvq.tags j = some y → y.mirWait = true → (∀ g ∈ entGrans s y.ent, g ∈ t.dre.dirty) ∧
        ∃ z, tget t.nvq.tags j = some z ∧ z.mirWait = false ∧ (y.localDone = true → z.st = .post))) ∧
  (∀ (ns g : Nat) (s : State), seqUp s 7 = true →
    (granKey ns g ∈ s.dre.active → (∀ e ∈ s.nvq.tags, e.2.mirWait = true → granKey ns g ∉ entGrans s e.2.ent) →
      exec (.granuleInactive ns g) s = .next { s with dre := { s.dre with active := s.dre.active.filter (· != granKey ns g) } }) ∧
    (granKey ns g ∉ s.dre.active → exec (.granuleInactive ns g) s = .next s)) ∧
  (∀ (ns g : Nat) (p : Pair) (s : State), tget s.dre.pairs ns = some p → granKey ns g ∈ s.dre.dirty → twinUp s = true → s.dre.lost = false →
    seqUp s 7 = true →
    ((∃ j ∈ nsDirty s ns, j ≠ granKey ns g) → Ends (.resyncChunkComplete ns g true true) s fun t =>
      t.dre = { s.dre with dirty := s.dre.dirty.filter (· != granKey ns g), pairs := tset s.dre.pairs ns { p with copied := p.copied + 1 } } ∧
        OnlyChanges [.dre] s t) ∧
    ((∀ j ∈ nsDirty s ns, j = granKey ns g) → p.op = none → Ends (.resyncChunkComplete ns g true true) s fun t => EvtSet .dreEvt 9 t ∧
      granKey ns g ∉ t.dre.dirty ∧ nsDirty t ns = [] ∧ tget t.dre.pairs ns = some { p with copied := p.copied + 1 } ∧
      OnlyChanges [.dre, .regs] s t) ∧
    exec (.resyncChunkComplete ns g false true) s = .next s ∧
    (∀ b, s.sys.mode.serving = true → Ends (.resyncChunkComplete ns g b false) s fun t => EvtSet .mprEvt 7 t ∧ Latched 313 t ∧ t.dre.dirty = s.dre.dirty)) ∧
  (∀ (src : Nat) (s : State) (r : CamReq), let u := taken src s
    let d := rqTgt r
    let w := rqW r 2
    let est := if domSt s d = .rebuilding then freeBelow s (2 ^ 32) else 0
    (Accepted src 0x0500 s r → exec (.dreInfo src) s = .next (replied r 0 [reg s .dreCfg, regValue s .dreSts 0, regValue s .dreMirSts 0] u)) ∧
    (Accepted src 0x0501 s r → exec (.domStatus src) s = .next (replied r 0 [regValue s .dreDomCfg d, regValue s .dreDomRbld d,
      regValue s .dreDomExp d, regValue s .dreDomLost d, lo32 (survivorBytes s d / 2 ^ 30), lo32 est] (drawn u))) ∧
    (∀ p, Accepted src 0x0502 s r → w = BitVec.ofNat 32 p → p < 4 → exec (.rebuildCtl src) s =
      .next (replied r 0 [lo32 s.dre.pri] { u with dre := { s.dre with pri := p } })) ∧
    (Accepted src 0x0503 s r → w &&& 0xFFFFFFFE = 0 → dieOk s d = true → (s.fch.dies.map (·.1)).Nodup →
      domSt s (dieDom d) = .inService → domW s (dieDom d) < (domDies s (dieDom d)).length → sanOpen s = false →
      ∃ v, exec (.dieRetire src) s = .next (replied r 0 [lo32 DomState.rebuilding.code] v) ∧ dieOk v d = false ∧ (dieAt v d).queue = [] ∧
        domSt v (dieDom d) = .rebuilding ∧ (domAt v (dieDom d)).rdie = d ∧ EvtSet .dreEvt 0 v ∧ v.fch.diesFailed = s.fch.diesFailed) ∧
    (Accepted src 0x0503 s r → w = 0 → dieOk s d = true → retireOff s d = true →
      exec (.dieRetire src) s = .next (replied r 0x0501 [] u)) ∧
    (Accepted src 0x0503 s r → w &&& 0xFFFFFFFE = 0 → dieOk s d = false → exec (.dieRetire src) s = .next (replied r 0x0500 [] u)) ∧
    (∀ x, Accepted src 0x0504 s r → stripeAt s d w.toNat = some x → exec (.stripeInfo src) s =
      .next (replied r 0 [lo32 (stripeCode s d w.toNat x), pack [(16, 2, x.stream), (8, 8, x.ppos), (0, 8, x.members.length)],
        lo32 (stripeValid s x).length, pack (x.members.zipIdx.map fun m => (m.2, 1, b2n (!dieOk s m.1.1)))] u)) ∧
    (Accepted src 0x0504 s r → stripeAt s d w.toNat = none → exec (.stripeInfo src) s = .next (replied r 0x0502 [] u)) ∧
    (∀ h n, Accepted src 0x0505 s r → w &&& 0x7FFFF800 = 0 → bitOf w 31 = true → twinUp s = true → nsAt s d = some n →
      s.dre.pairs.length < 64 → tget s.dre.pairs d = none → pickHandle s = some h → Ends (.mirrorSet src true) s fun t =>
        tget t.cam.ops h = some (opOf src 0x0505 r false (earlier u r)) ∧ tget t.dre.pairs d = some { partner := fld w 0 11, op := some h } ∧
        ∀ g, g < nsGranules n → granKey d g ∈ t.dre.dirty) ∧
    (∀ ok, Accepted src 0x0505 s r → w &&& 0x7FFFF800 = 0 → bitOf w 31 = true → twinUp s = false →
      exec (.mirrorSet src ok) s = .next (replied r 0x0503 [] u)) ∧
    (Accepted src 0x0505 s r → w &&& 0x7FFFF800 = 0 → bitOf w 31 = true → twinUp s = true →
      exec (.mirrorSet src false) s = .next (replied r 0x0504 [] u)) ∧
    (∀ p ok, Accepted src 0x0505 s r → w &&& 0x7FFFF800 = 0 → bitOf w 31 = false → tget s.dre.pairs d = some p → p.op = none →
      Answers (.mirrorSet src ok) s r 0 [0] fun v => tget v.dre.pairs d = none ∧ nsDirty v d = [] ∧
        (∀ k, k ≠ d → tget v.dre.pairs k = tget s.dre.pairs k) ∧ OnlyChanges [.dre] u v) ∧
    (∀ p, Accepted src 0x0506 s r → tget s.dre.pairs d = some p →
      let total := ((nsAt s d).map nsGranules).getD 0
      let dirty := (nsDirty s d).length
      exec (.mirrorStatus src) s = .next (replied r 0 [pack [(16, 11, p.partner), (0, 2, if s.dre.lost then 2 else if dirty = 0 then 0 else 1)],
        lo32 dirty, lo32 total, lo32 (if total = 0 then 100 else 100 * (total - dirty) / total)] u)) ∧
    (Accepted src 0x0506 s r → tget s.dre.pairs d = none → exec (.mirrorStatus src) s = .next (replied r 0x0505 [] u)))

/-! ## Cistern, memory integrity -/

/-- R292, R299, R313, Table 12-18: checkpoints and the cistern opcodes. Choices of the model it rests on: log entries 15 and 28. -/
def Obligations.Cistern : Prop :=
  (∀ s : State, s.sys.mode.serving = true → seqUp s 8 = true →
    (s.cst.due = [] → Ends (.checkpoint true) s fun t => (∃ c, t.cst.ckpt = some c ∧ c.map = s.fte.map ∧ c.nss = s.fte.nss ∧
        c.time = s.pwr.tb ∧ c.root = t.fte.root ∧ c.dirs = t.fte.dirSaved ∧ c.san = t.cst.san ∧ c.pos = t.cst.logSeq) ∧
      (∀ d ∈ t.cst.log, d.kind ≠ .block) ∧ (∀ d ∈ s.cst.log, d.kind ≠ .block → d ∈ t.cst.log) ∧
      t.cst.ckptBusy = false ∧ t.cst.ckptOp = none) ∧
    Ends (.checkpoint false) s (RaisedFrom 273 (evt .cstEvt 6 s))) ∧
  (∀ (ok : Bool) (s : State), s.sys.mode.serving = false ∨ seqUp s 8 = false → exec (.checkpoint ok) s = .next s) ∧
  (∀ (src : Nat) (s : State) (r : CamReq), let u := taken src s
    let d := rqTgt r
    (Accepted src 0x0600 s r → exec (.cstInfo src) s = .next (replied r 0 [reg s .cstCfg, regValue s .cstSts 0, regValue s .cstHuSts 0,
      regValue s .cstHuTime 0, lo32 (s.cst.evSeq - 1), hi32 (s.cst.evSeq - 1)] u)) ∧
    (Accepted src 0x0601 s r → bytesOk r 32 = none →
      let es := s.cst.events.filter fun e => decide ((rqW r 4).toNat + 2 ^ 32 * (rqW r 5).toNat ≤ e.seq)
      let k := min es.length (dscBytes r / 32)
      exec (.eventRead src) s = .next (repliedOut r 0 [lo32 k, lo32 (if k = 0 then 0 else ((es.head?).map (·.seq)).getD 0)]
        (((es.map eventWords).take k).flatMap wordBytes) (slotsHeld r src s))) ∧
    (∀ h, Accepted src 0x0602 s r → s.cst.ckptBusy = false → pickHandle s = some h →
      let v := begun src 0x0602 h r false u
      exec (.ckptNow src) s = .next { v with cst := { v.cst with ckptBusy := true, ckptOp := some h } }) ∧
    (Accepted src 0x0602 s r → s.cst.ckptBusy = true → exec (.ckptNow src) s = .next (replied r 0x0601 [] u)) ∧
    (∀ h, Accepted src 0x0603 s r → (bankAt s d).st = .failed → (bankAt s (1 - d)).st = .inService → pickHandle s = some h →
      exec (.bankRetest src) s = .next (begun src 0x0603 h r false u)) ∧
    (Accepted src 0x0603 s r → (bankAt s d).st ≠ .failed → exec (.bankRetest src) s = .next (replied r 0x0602 [] u)) ∧
    (Accepted src 0x0603 s r → (bankAt s d).st = .failed → (bankAt s (1 - d)).st ≠ .inService →
      exec (.bankRetest src) s = .next (replied r 0x0603 [] u)))

/-- R291, R334, R339, R344 to R353, R474, Tables 14-3, 14-5, 14-11 to 14-13: errors that memory reads find, merge buffers, the tracking table,
scrub passes, DRAM retraining, and the memory protection opcodes. Choices of the model it rests on: log entries 39, 40 and 73. -/
def Obligations.MemoryIntegrity : Prop :=
  (∀ (cls mac loc : Nat) (stuck : Bool) (s : State), s.sys.mode.serving = true → cls < 5 →
    (Ends (.uncorrectableRead cls mac loc stuck .corrected) s fun t => tgetD t.mpr.ce cls 0 = tgetD s.mpr.ce cls 0 + 1 ∧ EvtSet .mprEvt 0 t ∧
      t.mpr.lastValid = true ∧ t.mpr.lastUe = false ∧ t.mpr.lastCls = cls ∧ t.mpr.lastLoc = loc ∧ t.mpr.ue = s.mpr.ue) ∧
    (∀ w : UeWhere, w ≠ .corrected → w ≠ .dirEntry → (∀ ns page, w ≠ .mapCache ns page false) → (∀ die b, w ≠ .blkEntry die b) →
      Ends (.uncorrectableRead cls mac loc stuck w) s fun t => tgetD t.mpr.ue cls 0 = tgetD s.mpr.ue cls 0 + 1 ∧ EvtSet .mprEvt 1 t ∧
        Latched (317 + cls) t ∧ t.mpr.lastValid = true ∧ t.mpr.lastUe = true ∧ t.mpr.lastCls = cls ∧ t.mpr.lastLoc = loc)) ∧
  (∀ (mac loc a ns iu lba : Nat) (r : WellRec) (s : State), s.sys.mode.serving = true → r ∈ s.fte.idx → r.ns = ns → r.iu = iu → r.live = true →
    lba < r.body.data.length →
    Ends (.uncorrectableRead 0 mac loc false (.wellLine a (some (ns, iu, lba)))) s fun t => Latched (278 + a / 2 ^ 24 % 4) t ∧
      ∃ x ∈ t.fte.idx, x.ns = ns ∧ x.iu = iu ∧ x.ver = r.ver ∧ x.body.data = r.body.data ∧ x.body.psn.getD lba false = true) ∧
  (∀ (mac loc a : Nat) (s : State), s.sys.mode.serving = true →
    Ends (.uncorrectableRead 3 mac loc false (.dramLine a)) s fun t => Latched (358 + loc % 4) t ∧ EvtSet .drmEvt 0 t ∧ a / 64 ∈ t.mpr.dramPsn) ∧
  (∀ (mac loc a : Nat) (s : State), s.sys.mode.serving = true → bitOf (reg s .mprCfg) 0 = true → s.mpr.soft.length < 64 →
    (∀ r ∈ s.mpr.soft, r.cls = 3 → r.line ≠ loc) → Ends (.uncorrectableRead 3 mac loc true (.dramLine a)) s fun t =>
      EvtSet .drmEvt 3 t ∧ { kind := 2, cls := 3, mac, row := 0, line := loc } ∈ t.mpr.soft) ∧
  (∀ (cls mac loc : Nat) (stuck : Bool) (s : State), s.sys.mode.serving = true → cls < 5 →
    Ends (.uncorrectableRead cls mac loc stuck .dirEntry) s (RaisedFrom 199 s) ∧
    (∀ die b, Ends (.uncorrectableRead cls mac loc stuck (.blkEntry die b)) s fun t => blkAt t die b = { blkAt s die b with ue := true } ∧
      OnlyChanges [.fte] s t)) ∧
  (∀ (mac loc : Nat) (s : State), s.sys.mode.serving = true → mac < 2 →
    (∀ stuck, Ends (.uncorrectableRead 5 mac loc stuck .corrected) s fun t =>
      bankAt t mac = { bankAt s mac with corr := (bankAt s mac).corr + 1 } ∧ OnlyChanges [.cst] s t) ∧
    (Ends (.uncorrectableRead 5 mac loc false .other) s fun t =>
      bankAt t mac = { bankAt s mac with unc := (bankAt s mac).unc + 1 } ∧ OnlyChanges [.cst] s t) ∧
    ((bankAt s mac).st ≠ .failed → Ends (.uncorrectableRead 5 mac loc true .other) s fun t => (bankAt t mac).st = .failed ∧
      EvtSet .cstEvt mac t ∧ Latched (270 + mac) t)) ∧
  (∀ (mem word : Nat) (s : State), s.sys.mode.serving = true →
    let m : MergeW := { mem, word }
    (m ∈ s.mpr.merges → exec (.narrowWrite mem word false) s = .next s) ∧
    (m ∉ s.mpr.merges → (s.mpr.merges.filter fun x => x.mem == mem).length < mergeBufs mem →
      exec (.narrowWrite mem word false) s = .next { s with mpr := { s.mpr with merges := s.mpr.merges ++ [m] } }) ∧
    (m ∉ s.mpr.merges → mergeBufs mem ≤ (s.mpr.merges.filter fun x => x.mem == mem).length →
      exec (.narrowWrite mem word false) s = .next { s with mpr := { s.mpr with mwait := s.mpr.mwait ++ [m] } }) ∧
    (m ∉ s.mpr.merges → mem < 4 → Ends (.narrowWrite mem word true) s fun t => Latched 317 t ∧
      Latched (278 + (mem * 2 ^ 24 + 8 * word) / 2 ^ 24 % 4) t ∧ EvtSet .mprEvt 1 t ∧
      ((s.mpr.merges.filter fun x => x.mem == mem).length < mergeBufs mem → m ∈ t.mpr.merges))) ∧
  (∀ (mem : Nat) (b : MergeW) (s : State), s.sys.mode.serving = true → s.mpr.merges.find? (fun x => x.mem == mem) = some b →
    ((∀ x ∈ s.mpr.mwait, x.mem ≠ mem) → exec (.mergeBufferFree mem) s =
      .next { s with mpr := { s.mpr with merges := s.mpr.merges.erase b } }) ∧
    (∀ w, s.mpr.mwait.find? (fun x => x.mem == mem) = some w → exec (.mergeBufferFree mem) s =
      .next { s with mpr := { s.mpr with merges := s.mpr.merges.erase b ++ [w], mwait := (s.mpr.mwait.erase w).filter (· != w) } })) ∧
  (∀ (cls mac row : Nat) (s : State), exec (.trackingEntryExpiry cls mac row) s =
    .next { s with mpr := { s.mpr with track := s.mpr.track.filter fun t => !(t.cls == cls && t.mac == mac && t.row == row &&
      decide (t.first + 24 * 3600 * 10 ^ 9 ≤ s.pwr.tb)) } }) ∧
  (∀ (cls : Nat) (s : State), s.sys.mode.serving = true → sanOpen s = false → cls < 7 → seqUp s 11 = true →
    (cls ∈ s.mpr.scrub → tget s.mpr.scrubOp cls = none → exec (.scrubPass cls [] []) s =
      .next { s with mpr := { s.mpr with scrub := s.mpr.scrub.filter (· != cls), scrubOp := terase s.mpr.scrubOp cls } }) ∧
    (∀ h, cls ∈ s.mpr.scrub → tget s.mpr.scrubOp cls = some h → exec (.scrubPass cls [] []) s =
      .next (let v := endOp h 0 [0, 0] [] s
        { v with mpr := { v.mpr with scrub := v.mpr.scrub.filter (· != cls), scrubOp := terase v.mpr.scrubOp cls } })) ∧
    (bitOf (reg s .mprCfg) 1 = false → cls ∉ s.mpr.scrub → ∀ cs bs, exec (.scrubPass cls cs bs) s = .next s)) ∧
  (∀ (cw loc : Nat) (w : UeWhere) (s : State), s.sys.mode.serving = true → sanOpen s = false → bitOf (reg s .mprCfg) 1 = true →
    seqUp s 11 = true →
    domSt s (dieDom (cwDie cw)) = .inService → Ends (.scrubPass 6 [] [(cw, loc, w)]) s fun t => Latched 316 t ∧
      ∃ e ∈ t.cst.events, e.seq = s.cst.evSeq ∧ e.code = 0x0811) ∧
  (∀ (ch : Nat) (temp : Int) (s : State), s.sys.mode.serving = true → (drmChAt s ch).up = true → (drmChAt s ch).selfRef = false →
    (orOne (rfld s .drmCfg 24 8) < (temp - (drmChAt s ch).trnTemp).natAbs → Ends (.dramRetrain ch temp) s fun t =>
      drmChAt t ch = { drmChAt s ch with trnTemp := temp, retrains := sat 16 ((drmChAt s ch).retrains + 1) } ∧ EvtSet .drmEvt 2 t ∧
      Latched 363 t) ∧
    ((temp - (drmChAt s ch).trnTemp).natAbs ≤ orOne (rfld s .drmCfg 24 8) → exec (.dramRetrain ch temp) s = .next s)) ∧
  (∀ (src : Nat) (s : State) (r : CamReq), let u := taken src s
    let d := rqTgt r
    (Accepted src 0x0880 s r → exec (.mprInfo src) s = .next (replied r 0 [reg s .mprCfg, regValue s .mprSts 0, regValue s .mprLastErr 0,
      regValue s .mprErrLoc 0] u)) ∧
    (Accepted src 0x0881 s r → exec (.eccCounts src) s = .next (replied r 0 [regValue s .mprCeCnt d,
      lo32 (s.mpr.soft.filter fun x => x.cls == d).length] u)) ∧
    (Accepted src 0x0882 s r → bytesOk r 8 = none →
      let o := listOut r 8 ((s.mpr.hard ++ s.mpr.soft).map fun x =>
        [pack [(30, 2, x.kind), (27, 3, x.cls), (16, 11, x.mac), (0, 16, x.row)], lo32 x.line])
      exec (.repairList src) s = .next (repliedOut r 0 [lo32 o.1, lo32 o.2.1] o.2.2 (slotsHeld r src s))) ∧
    (∀ h, Accepted src 0x0883 s r → d ∉ s.mpr.scrub → pickHandle s = some h →
      let v := begun src 0x0883 h r false u
      exec (.scrubNow src) s = .next { v with mpr := { v.mpr with scrub := v.mpr.scrub ++ [d], scrubOp := tset v.mpr.scrubOp d h } }) ∧
    (Accepted src 0x0883 s r → d ∈ s.mpr.scrub → exec (.scrubNow src) s = .next (replied r 0x0880 [] u)))

/-! ## Firmware update and wellhead store -/

/-- R405 to R411, R415 to R426, R430, R431, Tables 17-4 to 17-7: Firmware Commit and Image Download with their refusals, pulses of the wellhead
store, suspends, brown-outs, the warm switch, the trial and its ends. Choices of the model it rests on: log entries 18, 20 and 58. -/
def Obligations.FirmwareAndStore : Prop :=
  (∀ (k : Nat) (img : Image) (t : Tag) (s : State), AdminRuns k 0x10 s t → (∀ j, s.upd.job = some j → j.tag ≠ some k) →
    let fs := fld (cdw t.ent 10) 0 3
    let ca := fld (cdw t.ent 10) 3 3
    let slot := commitSlot s fs ca
    (3 < ca → Ends (.firmwareCommit k img) s fun u => Posted k .invalidField u ∧ OnlyChanges [.nvq] s u) ∧
    (ca ≤ 3 → 2 < fs ∨ (fs = 0 ∧ 2 ≤ ca) → Ends (.firmwareCommit k img) s fun u => Posted k .invalidFwSlot u ∧ OnlyChanges [.nvq] s u) ∧
    (ca ≤ 3 → fs ≤ 2 → fs ≠ 0 ∨ ca < 2 →
      (∀ w, commitRefusal s t.ctrl slot ca img = some w → thas s.nvq.ctrls t.ctrl = true → Ends (.firmwareCommit k img) s fun u =>
        Posted k .fwProhibited u ∧ u.upd = { s.upd with reason := w } ∧
        (∃ e l, (ctrlAt u t.ctrl).errLog = e :: l ∧ e.vendor = w ∧ e.status = .fwProhibited) ∧ OnlyChanges [.nvq, .upd] s u) ∧
      (commitRefusal s t.ctrl slot ca img = none →
        (ca < 2 → stagedCheck s img = none → Ends (.firmwareCommit k img) s fun u =>
          u.upd.job = some { kind := 0, slot, act := ca, img := some img, tag := some k } ∧ u.upd.owner = none ∧ u.upd.frags = [] ∧
          slotAt u slot = {} ∧ u.whs.eraseLeft = slotBlocks slot ∧ u.whs.progLeft = ceilDiv (stagedEnd s) 512 ∧
          (s.whs.op = 0 → s.whs.brown = false → u.whs.op = 2 ∧ u.whs.block = slotBlock slot) ∧ OnlyChanges [.upd, .whs, .cst] s u) ∧
        (∀ sc, ca < 2 → stagedCheck s img = some sc → Ends (.firmwareCommit k img) s fun u => Posted k sc u ∧ u.upd.owner = none ∧
          u.upd.slots = s.upd.slots) ∧
        (ca = 2 → Ends (.firmwareCommit k img) s fun u => Posted k .success u ∧ u.upd.nextImg = slot ∧ u.upd.st = 1 ∧
          u.upd.actImg = s.upd.actImg) ∧
        (ca = 3 → let j : UpdJob := { kind := 2, slot, act := 3, tag := some k }
          exec (.firmwareCommit k img) s = .next { s with upd := { s.upd with st := 2, job := some j } })))) ∧
  (∀ (k : Nat) (t : Tag) (s : State), AdminRuns k 0x11 s t →
    let n := 4 * ((cdw t.ent 10).toNat + 1)
    let off := 4 * (cdw t.ent 11).toNat
    (n % 4096 = 0 → off % 4096 = 0 → off + n ≤ 24 * 2 ^ 20 →
      (refusal17 s false = none → s.upd.owner = none ∨ s.upd.owner = some t.ctrl → Ends (.firmwareImageDownload k) s fun u =>
        Posted k .success u ∧ u.upd = { s.upd with owner := some t.ctrl, frags := s.upd.frags ++ [(off, n)] } ∧
        OnlyChanges [.nvq, .upd, .fte] s u) ∧
      (∀ o, refusal17 s false = none → s.upd.owner = some o → o ≠ t.ctrl → Ends (.firmwareImageDownload k) s fun u =>
        Posted k .sequenceError u ∧ OnlyChanges [.nvq] s u) ∧
      (∀ w, refusal17 s false = some w → Ends (.firmwareImageDownload k) s fun u => Posted k .fwProhibited u ∧
        u.upd = { s.upd with reason := w } ∧ OnlyChanges [.nvq, .upd] s u)) ∧
    (n % 4096 ≠ 0 ∨ off % 4096 ≠ 0 ∨ 24 * 2 ^ 20 < off + n → Ends (.firmwareImageDownload k) s fun u =>
      Posted k .invalidField u ∧ OnlyChanges [.nvq] s u)) ∧
  (∀ s : State,
    (s.upd.owner.isSome = true → exec .stagingTimeout s = .next { s with upd := { s.upd with owner := none, frags := [] } }) ∧
    (s.upd.owner = none → exec .stagingTimeout s = .next s)) ∧
  (∀ (j : UpdJob) (i : Image) (s : State), s.upd.job = some j → j.kind = 2 → s.sys.mode.serving = true →
    seqUp s 10 = true → (∀ p, p < 12 → (pumpAt s p).busy = false) → (slotAt s j.slot).img = some i →
    (imageOk s i = true → Ends (.warmActivationSwitch true) s fun u => u.upd.actImg = j.slot ∧ u.upd.prevImg = s.upd.actImg ∧
      u.upd.trial = j.slot ∧ u.upd.tries = 0 ∧ u.upd.st = 3 ∧ u.upd.job = none ∧ u.upd.switchT = s.pwr.tb ∧ u.upd.prevPrf = s.upd.actPrf ∧
      ((slotAt s (actPrfSlot s)).prof.any (fmtIn i) = true → u.upd.actPrf = s.upd.actPrf) ∧ EvtSet .updEvt 0 u ∧
      (∀ l ∈ u.sre.ladders, l.step ≠ 3 ∧ l.step ≠ 4) ∧
      (∀ k x, j.tag = some k → tget s.nvq.tags k = some x → x.st ≠ .post → NoAer k s → Posted k .success u)) ∧
    Ends (.warmActivationSwitch false) s fun u => u.upd.actImg = s.upd.actImg ∧ u.upd.st = 0 ∧ u.upd.job = none ∧
      slotAt u j.slot = { slotAt s j.slot with st := 3 } ∧ EvtSet .updEvt 1 u ∧ Latched 345 u ∧
      (∀ k x, j.tag = some k → tget s.nvq.tags k = some x → x.st ≠ .post → Alone k s → Posted k .invalidFwImage u)) ∧
  (∀ (ok : Bool) (s : State), s.upd.job = none ∨ s.sys.mode.serving = false ∨ (∃ p, p < 12 ∧ (pumpAt s p).busy = true) →
    exec (.warmActivationSwitch ok) s = .next s) ∧
  (∀ (i : Image) (s : State), s.upd.st = 3 → s.sys.mode.serving = true → (slotAt s s.upd.trial).img = some i →
    seqUp s 10 = true → s.upd.switchT + 1000000000 ≤ s.pwr.tb → Ends (.updConfirm 0xC0F1) s fun u => u.upd.trial = 0 ∧ u.upd.st = 0 ∧
      slotAt u s.upd.trial = { slotAt s s.upd.trial with st := 2 } ∧ u.cst.layout = i.cstFmt ∧ EvtSet .updEvt 2 u ∧
      OnlyChanges [.upd, .cst, .regs] s u) ∧
  (∀ (key : Word) (s : State), key ≠ 0xC0F1 ∨ s.upd.st ≠ 3 ∨ s.pwr.tb < s.upd.switchT + 1000000000 →
    exec (.updConfirm key) s = .next s) ∧
  (∀ s : State, s.upd.st = 3 → s.sys.mode.serving = true →
    (Ends .trialTimerExpiry s fun u => u.upd.actImg = s.upd.prevImg ∧ u.upd.actPrf = s.upd.prevPrf ∧ u.upd.trial = 0 ∧ u.upd.st = 0 ∧
      slotAt u s.upd.trial = { slotAt s s.upd.trial with st := 3 } ∧ EvtSet .updEvt 3 u ∧ Latched 346 u) ∧
    ∀ ok, Ends (.reverseHandoverTimeout ok) s fun u => u.upd.actImg = s.upd.prevImg ∧ u.upd.trial = 0 ∧ u.upd.st = 0 ∧ Latched 346 u ∧
      islAt u 40 = .reset ∧ islAt u 41 = .reset ∧ islAt u 42 = .reset ∧ (ok = false → u.sys.resetReq.isSome = true)) ∧
  (∀ s : State, s.upd.st ≠ 3 → exec .trialTimerExpiry s = .next s ∧ ∀ ok, exec (.reverseHandoverTimeout ok) s = .next s) ∧
  (∀ s : State, s.sys.mode ≠ .dormant → seqUp s 10 = true →
    (s.whs.op = 2 → Ends (.whsOperationComplete true) s fun u => (tgetD u.whs.blks s.whs.block {}).next = 0 ∧
      u.whs.eraseLeft = s.whs.eraseLeft - 1 ∧
      (∀ j, s.upd.job = some j → 2 ≤ s.whs.eraseLeft → s.whs.brown = false → s.sys.mode ≠ .holdup → shadowOnly s = false →
        u.whs.op = 2 ∧ u.whs.block = slotBlock j.slot + slotBlocks j.slot - (s.whs.eraseLeft - 1)) ∧ OnlyChanges [.whs, .cst] s u) ∧
    (s.whs.op = 1 → 2 ≤ s.whs.progLeft → Ends (.whsOperationComplete true) s fun u =>
      (tgetD u.whs.blks s.whs.block {}).next = (tgetD s.whs.blks s.whs.block {}).next + 1 ∧ u.whs.progLeft = s.whs.progLeft - 1) ∧
    (∀ j, s.whs.op = 1 → s.whs.progLeft = 1 → s.upd.job = some j → j.kind = 0 → Ends (.whsOperationComplete true) s fun u =>
      u.upd.job = none ∧ slotAt u j.slot = { st := 1, img := j.img } ∧ (j.act = 1 → u.upd.nextImg = j.slot ∧ u.upd.st = 1) ∧
      (∀ k x, j.tag = some k → tget s.nvq.tags k = some x → x.st ≠ .post → Posted k .success u)) ∧
    (∀ j p, s.whs.op = 1 → s.whs.progLeft = 1 → s.upd.job = some j → j.kind = 1 → j.prof = some p → profileOk s p = true →
      Ends (.whsOperationComplete true) s fun u => u.upd.job = none ∧ slotAt u j.slot = { st := 2, prof := some p } ∧
        u.prof = s.prof ∧ u.upd.actPrf = s.upd.actPrf) ∧
    (pulsing s = true → Ends (.whsOperationComplete false) s fun u => u.whs.op = 0 ∧ u.upd.job = none ∧ EvtSet .whsEvt 4 u ∧ Latched 343 u ∧
      u.upd.slots = s.upd.slots) ∧
    (pulsing s = false → ∀ ok, exec (.whsOperationComplete ok) s = .next s)) ∧
  (∀ s : State, s.sys.mode ≠ .dormant → s.whs.op = 2 → storeWanted s = true →
    (s.whs.susp < rfld s .whsCfg 0 4 → s.whs.runT + 1000000 ≤ s.pwr.tb → Ends .whsSuspendDue s fun u =>
      u.whs = { s.whs with op := 3, susp := s.whs.susp + 1, suspT := s.pwr.tb } ∧
      (s.whs.susp + 1 = rfld s .whsCfg 0 4 → EvtSet .whsEvt 1 u) ∧ OnlyChanges [.whs, .regs] s u) ∧
    (rfld s .whsCfg 0 4 ≤ s.whs.susp ∨ s.pwr.tb < s.whs.runT + 1000000 → exec .whsSuspendDue s = .next s)) ∧
  (∀ s : State,
    (s.whs.op = 3 → pulseHeld s = false → storeWanted s = false ∨ s.whs.suspT + 20000000 ≤ s.pwr.tb →
      exec .whsResume s = .next { s with whs := { s.whs with op := 2, runT := s.pwr.tb } }) ∧
    (s.whs.op ≠ 3 ∨ (storeWanted s = true ∧ s.pwr.tb < s.whs.suspT + 20000000) → exec .whsResume s = .next s)) ∧
  (∀ (a : Nat) (s : State),
    (execOnly s a = true → s.sys.mode ≠ .dormant → Ends (.executeOnlyRead a) s (RaisedFrom 349 (evt .whsEvt 0 s))) ∧
    (execOnly s a = false → exec (.executeOnlyRead a) s = .next s)) ∧
  (∀ s : State,
    (s.whs.brown = false → s.sys.mode ≠ .dormant → Ends .brownout s fun u => u.whs.brown = true ∧ (s.whs.op = 2 → u.whs.op = 0) ∧
      (s.whs.op = 1 → u.whs.op = 1) ∧ EvtSet .whsEvt 3 u ∧ Latched 344 u) ∧
    (s.whs.brown = true → s.sys.mode ≠ .dormant → s.upd.job = none →
      exec .brownoutRecovery s = .next { s with whs := { s.whs with brown := false } }) ∧
    (∀ j, s.whs.brown = true → s.sys.mode ≠ .dormant → s.sys.mode ≠ .holdup → s.upd.job = some j → s.whs.op = 0 → 0 < s.whs.eraseLeft →
      shadowOnly s = false → Ends .brownoutRecovery s fun u => u.whs.brown = false ∧ u.whs.op = 2 ∧
        u.whs.block = slotBlock j.slot + slotBlocks j.slot - s.whs.eraseLeft) ∧
    (s.whs.brown = false → exec .brownoutRecovery s = .next s))

/-- Tables 3-12, 17-6, 17-16: what the opcodes of profiles, images and the wellhead store answer and do, and a read of the store that waits for a
pulse too long. Choices of the model it rests on: log entries 19, 20 and 58. -/
def Obligations.UpdateOpcodes : Prop :=
  ∀ (src : Nat) (s : State) (r : CamReq), let u := taken src s
    let d := rqTgt r
    let w := rqW r 2
    let off := 4096 * fld (rqW r 4) 0 13
    let unqueued : State := { s with whs := { s.whs with readWait := s.whs.readWait.erase src } }
    let because (n : Nat) : State := { u with upd := { s.upd with reason := n } }
    (Accepted src 0x0200 s r → let x := slotAt s (3 + d)
      exec (.profileInfo src) s = .next (replied r 0 [lo32 x.st, lo32 ((x.prof.map (·.format)).getD 0),
        lo32 ((x.prof.map (·.bytes)).getD 0)] u)) ∧
    (∀ h p, Accepted src 0x0201 s r → dscBytes r ≤ 4 * 2 ^ 20 → refusal17 s true = none → d + 1 ≠ s.upd.actPrf → pickHandle s = some h →
      Ends (.profileWrite src p) s fun t => tget t.cam.ops h = some (opOf src 0x0201 r false (earlier u r)) ∧
        t.upd.job = some { kind := 1, slot := 3 + d, prof := some { p with bytes := dscBytes r }, op := some h } ∧
        slotAt t (3 + d) = {} ∧ t.whs.eraseLeft = slotBlocks (3 + d) ∧ t.prof = s.prof) ∧
    (∀ p x, Accepted src 0x0201 s r → dscBytes r ≤ 4 * 2 ^ 20 → refusal17 s true = some x →
      exec (.profileWrite src p) s = .next (replied r (refusalStatus s true x).1 (refusalStatus s true x).2 (because x))) ∧
    (∀ p, Accepted src 0x0201 s r → dscBytes r ≤ 4 * 2 ^ 20 → refusal17 s true = none → d + 1 = s.upd.actPrf →
      exec (.profileWrite src p) s = .next (replied r 0x0218 [] (because 8))) ∧
    (Accepted src 0x0202 s r → s.sys.mode ≠ .boot → (slotAt s (3 + d)).st = 2 →
      let v : State := { u with upd := { s.upd with nextPrf := 1 + d, dirGen := s.upd.dirGen + 1 } }
      exec (.profileSelect src) s = .next (replied r 0 (updW v) v)) ∧
    (Accepted src 0x0202 s r → s.sys.mode = .boot → s.sys.hold = true → s.sys.holdWhy = 1 ∨ s.sys.holdWhy = 2 → (slotAt s (3 + d)).st = 2 →
      prfBoots s (1 + d) = true → ∃ v, exec (.profileSelect src) s = .next (replied r 0 (updW v) v) ∧ v.sys.hold = false ∧
        v.sys.holdWhy = 0 ∧ v.sys.step = max 4 s.sys.step ∧ v.upd.actPrf = 1 + d) ∧
    (Accepted src 0x0202 s r → (slotAt s (3 + d)).st ≠ 2 → exec (.profileSelect src) s = .next (replied r 0x0202 [] u)) ∧
    (Accepted src 0x0A00 s r → exec (.updInfo src) s = .next (replied r 0 [regValue s .updSts 0, regValue s .whsSts 0, reg s .updCfg] u)) ∧
    (Accepted src 0x0A01 s r → refusal17 s false = none → s.upd.owner = none ∨ s.upd.owner = some (camOwner src) →
      off + dscBytes r ≤ 24 * 2 ^ 20 → (∀ f ∈ s.upd.frags, spansMeet (off, dscBytes r) f = false) →
      ∃ v, exec (.imageStage src) s = .next (repliedIn r 0 [lo32 (stagedBytes v)] v) ∧
        v.upd = { s.upd with owner := some (camOwner src), frags := s.upd.frags ++ [(off, dscBytes r)] } ∧
        OnlyChanges [.upd, .fte] (slotsHeld r src s) v) ∧
    (∀ x, Accepted src 0x0A01 s r → refusal17 s false = some x →
      exec (.imageStage src) s = .next (replied r (refusalStatus s false x).1 (refusalStatus s false x).2 (because x))) ∧
    (∀ o, Accepted src 0x0A01 s r → refusal17 s false = none → s.upd.owner = some o → o ≠ camOwner src →
      exec (.imageStage src) s = .next (replied r 0x0A09 [] (because 9))) ∧
    (∀ ca img x, Accepted src 0x0A0A s r → ca = fld w 0 3 → ca ≤ 3 → d ≠ 0 ∨ ca < 2 →
      commitRefusal s (camOwner src) (commitSlot s d ca) ca img = some x →
      exec (.imageCommit src img) s = .next (replied r (refusalStatus s false x).1 (refusalStatus s false x).2 (because x))) ∧
    (∀ h ca img, Accepted src 0x0A0A s r → ca = fld w 0 3 → d ≠ 0 ∨ ca < 2 → pickHandle s = some h →
      commitRefusal s (camOwner src) (commitSlot s d ca) ca img = none →
      (ca < 2 → stagedCheck s img = none → Ends (.imageCommit src img) s fun t => tget t.cam.ops h = some (opOf src 0x0A0A r false (earlier u r)) ∧
        t.upd.job = some { kind := 0, slot := commitSlot s d ca, act := ca, img := some img, op := some h } ∧ t.upd.owner = none ∧
        slotAt t (commitSlot s d ca) = {}) ∧
      (ca < 2 → (stagedCheck s img).isSome = true → exec (.imageCommit src img) s = .next (replied r 0x0A10 [] u)) ∧
      (ca = 2 → Ends (.imageCommit src img) s fun t => t.upd.nextImg = d ∧ t.upd.st = 1 ∧ t.upd.job = none ∧
        ∃ o, tget t.cam.ops h = some o ∧ o.st = .complete ∧ o.status = 0) ∧
      (ca = 3 → Ends (.imageCommit src img) s fun t => tget t.cam.ops h = some (opOf src 0x0A0A r false (earlier u r)) ∧ t.upd.st = 2 ∧
        t.upd.job = some { kind := 2, slot := d, act := 3, op := some h })) ∧
    (Accepted src 0x0A0B s r → s.upd.owner = none ∨ s.upd.owner = some (camOwner src) → exec (.stageDiscard src) s =
      .next (replied r 0 [lo32 (stagedBytes s)] { u with upd := { s.upd with owner := none, frags := [] } })) ∧
    (∀ o, Accepted src 0x0A0B s r → s.upd.owner = some o → o ≠ camOwner src → exec (.stageDiscard src) s = .next (replied r 0x0A09 [] u)) ∧
    (∀ i, Accepted src 0x0A0C s r → (slotAt s d).img = some i → exec (.slotInfo src) s = .next (replied r 0 [lo32 (slotAt s d).st,
      lo32 i.rev, hi32 i.rev, lo32 i.svn, pack [(16, 16, i.hndFmt), (0, 16, i.cstFmt)]] u)) ∧
    (Accepted src 0x0A0D s r → pulsing s = false → fld (rqW r 4) 0 26 + dscBytes r ≤ 2 ^ 26 →
      (∀ a ∈ upFrom (fld (rqW r 4) 0 26) (dscBytes r), execOnly s a = false) → exec (.whsRead src) s =
        .next (repliedOut r 0 [lo32 (dscBytes r)] ((upFrom (fld (rqW r 4) 0 26) (dscBytes r)).map (storeByte s))
          (slotsHeld r src unqueued))) ∧
    (Accepted src 0x0A0D s r → pulsing s = false → fld (rqW r 4) 0 26 + dscBytes r ≤ 2 ^ 26 →
      (∃ a ∈ upFrom (fld (rqW r 4) 0 26) (dscBytes r), execOnly s a = true) → ∃ v, exec (.whsRead src) s =
        .next (repliedOut r 0 [lo32 (dscBytes r)] ((upFrom (fld (rqW r 4) 0 26) (dscBytes r)).map
          fun a => if execOnly s a then 0 else storeByte s a) v) ∧ RaisedFrom 349 (evt .whsEvt 0 (slotsHeld r src unqueued)) v) ∧
    (Accepted src 0x0A0D s r → pulsing s = true → src ∉ s.whs.readWait → exec (.whsRead src) s =
      .next { s with whs := { s.whs with readWait := s.whs.readWait ++ [src] } }) ∧
    (Accepted src 0x0A0D s r → pulsing s = true → src ∈ s.whs.readWait → exec (.whsReadBusyTimeout src) s =
      .next (replied r 0x0A20 [] (taken src unqueued))) ∧
    (pulsing s = false → exec (.whsReadBusyTimeout src) s = .next s)

/-! ## Security, sanitize -/

/-- R434, R436, R440 to R452, Tables 18-1 to 18-3: entropy failures and passes, SPDM requests and Security Send and Receive, nonces and signed
requests, Sanitize with its phases and its end, and the security opcodes.
Choices of the model it rests on: log entries 47, 59 and 60. -/
def Obligations.SecurityAndSanitize : Prop :=
  (∀ s : State, s.sys.mode.serving = true →
    Ends .entropyFailure s (RaisedFrom 309 (evt .secEvt 5 { s with sec := { s.sec with entropyOk := false } })) ∧
    (s.sec.entWait = false → exec .entropySourcePass s = .next { s with sec := { s.sec with entropyOk := true } }) ∧
    (s.sec.entWait = true → Ends .entropySourcePass s fun t => t.sec.entropyOk = true ∧ t.sec.rootPend = true ∧ t.sec.entWait = false ∧
      t.sec.sgen = s.sec.sgen + 1 ∧ OnlyChanges [.sec, .upd] s t)) ∧
  (∀ (ns : Nat) (s : State), s.sys.mode.serving = true →
    ((nsAt s ns).isSome = true → Ends (.keyScheduleMismatch ns) s (RaisedFrom 303 s)) ∧
    ((nsAt s ns).isSome = false → exec (.keyScheduleMismatch ns) s = .next s)) ∧
  (∀ (bus : Nat) (s : State), bus < 4 → s.sys.mode.serving = true → isPr s bus = false → linkOf s bus = bus → (portAt s bus).up = true →
    seqUp s 10 = true →
    exec (.spdmRequest bus .supported) s = .next (emit (.spdm 0) s) ∧ exec (.spdmRequest bus .getMeasurements) s = .next (emit (.spdm 0) s) ∧
    exec (.spdmRequest bus .unsupported) s = .next (emit (.spdm 1) s) ∧
    (s.sec.entropyOk = true →
      (s.sec.sessions < 8 → exec (.spdmRequest bus (.keyExchange true)) s =
        .next (emit (.spdm 0) { s with sec := { s.sec with sessions := s.sec.sessions + 1 } })) ∧
      (8 ≤ s.sec.sessions → exec (.spdmRequest bus (.keyExchange true)) s = .next (emit (.spdm 2) s)) ∧
      Ends (.spdmRequest bus (.keyExchange false)) s fun t => t.out.head? = some (.spdm 2) ∧ EvtSet .secEvt 1 t ∧ Latched 306 t ∧
        t.sec = s.sec) ∧
    (0 < s.sec.sessions → exec (.spdmRequest bus .endSession) s =
        .next (emit (.spdm 0) { s with sec := { s.sec with sessions := s.sec.sessions - 1 } }) ∧
      ∀ ks, Ends (.spdmRequest bus (.ideKeys ks)) s fun t => (∀ k ∈ ks, k ≤ 8 → k ∈ (portAt t bus).ideKeys) ∧
        (∀ k ∈ (portAt s bus).ideKeys, k ∈ (portAt t bus).ideKeys) ∧ (∀ k ∈ ks, k ∉ (portAt t bus).ideInsecure) ∧
        (∀ k ∈ (portAt s bus).ideInsecure, k ∉ ks → k ∈ (portAt t bus).ideInsecure) ∧ t.out.head? = some (.spdm 0)) ∧
    (s.sec.sessions = 0 → exec (.spdmRequest bus .endSession) s = .next (emit (.spdm 2) s) ∧
      ∀ ks, exec (.spdmRequest bus (.ideKeys ks)) s = .next (emit (.spdm 2) s))) ∧
  (∀ s : State, s.sys.mode.serving = true → seqUp s 10 = true →
    (sideTakes s .i3c = true → exec (.spdmRequest 4 .supported) s = .next (emit (.spdm 0) (takeMsg .i3c 5 s))) ∧
    (sideTakes s .smbus = true → exec (.spdmRequest 5 .supported) s = .next (emit (.spdm 0) (takeMsg .smbus 5 s)))) ∧
  (∀ (k : Nat) (x : Tag) (s : State), AdminRuns k 0x81 s x → thas s.nvq.ctrls x.ctrl = true →
    (∀ q, fld (cdw x.ent 10) 24 8 = 0 → exec (.securitySend k q) s = .next (post k .success 0 s)) ∧
    (∀ q, fld (cdw x.ent 10) 24 8 ≠ 0 → fld (cdw x.ent 10) 24 8 ≠ 0xE8 → exec (.securitySend k q) s = .next (post k .invalidField 0 s)) ∧
    (fld (cdw x.ent 10) 24 8 = 0xE8 →
      (Ends (.securitySend k .supported) s fun t => Posted k .success t ∧ (ctrlAt t x.ctrl).secResp = some 0 ∧ OnlyChanges [.nvq] s t) ∧
      (∀ ks, Ends (.securitySend k (.ideKeys ks)) s fun t => Posted k .success t ∧ (ctrlAt t x.ctrl).secResp = some 1 ∧ OnlyChanges [.nvq] s t) ∧
      (s.sec.entropyOk = true → s.sec.sessions < 8 → Ends (.securitySend k (.keyExchange true)) s fun t => Posted k .success t ∧
        (ctrlAt t x.ctrl).secResp = some 0 ∧ t.sec = { s.sec with sessions := s.sec.sessions + 1 } ∧ OnlyChanges [.nvq, .sec] s t))) ∧
  (∀ (k : Nat) (x : Tag) (s : State), AdminRuns k 0x82 s x → thas s.nvq.ctrls x.ctrl = true →
    let u := sendAdmin x x.dma.prog (xferBytes x) s
    (fld (cdw x.ent 10) 24 8 = 0 → Ends (.securityReceive k) s fun t => Posted k .success t ∧
      t.out = .info k 0x82 [0x00, 0xE8] :: u.out ∧ OnlyChanges [.nvq, .out] s t) ∧
    (∀ v, fld (cdw x.ent 10) 24 8 = 0xE8 → (ctrlAt s x.ctrl).secResp = some v → Ends (.securityReceive k) s fun t => Posted k .success t ∧
      t.out = .info k 0x82 [v] :: u.out ∧ (ctrlAt t x.ctrl).secResp = none ∧ OnlyChanges [.nvq, .out] s t) ∧
    (fld (cdw x.ent 10) 24 8 ≠ 0 → fld (cdw x.ent 10) 24 8 ≠ 0xE8 → exec (.securityReceive k) s = .next (post k .invalidField 0 s))) ∧
  (∀ s : State, exec .nonceExpiry s = .next { s with sec := { s.sec with nonce := none } } ∧
    (s.sec.lockout = true → exec .challengeLockoutEnd s = .next { s with sec := { s.sec with lockout := false, fails := 0 } }) ∧
    (s.sec.lockout = false → exec .challengeLockoutEnd s = .next s)) ∧
  (∀ (k : Nat) (x : Tag) (s : State), AdminRuns k 0x84 s x → s.upd.st ≠ 2 → Alone k s →
    let w := cdw x.ent 10
    let act := fld w 0 3
    (sanOpen s = false ∨ sanFailedNow s = true → bitOf w 9 = false → act = 2 ∨ act = 4 → sanMode s = true →
      Ends (.sanitize k) s fun t => Posted k .success t ∧ t.sys.mode = .sanitize ∧ t.sec.sanLog = 0 ∧ t.sec.scdw = w.toNat ∧
        t.cst.san = some { act := if act = 2 then 1 else 2, ause := bitOf w 3 } ∧ t.fte.map = s.fte.map ∧ t.fte.nand = s.fte.nand) ∧
    (sanOpen s = true → sanFailedNow s = false → exec (.sanitize k) s = .next (post k .sanitizeInProgress 0 s)) ∧
    (sanOpen s = false ∨ sanFailedNow s = true → bitOf w 9 = true ∨ (act ≠ 1 ∧ act ≠ 2 ∧ act ≠ 4) ∨ sanMode s = false →
      exec (.sanitize k) s = .next (post k .invalidField 0 s)) ∧
    (s.cst.san = none → bitOf w 9 = false → act = 1 → sanMode s = true → exec (.sanitize k) s = .next (post k .success 0 s)) ∧
    (∀ r, s.cst.san = some r → r.failed = true → bitOf w 9 = false → act = 1 → sanMode s = true →
      (r.ause = true → Ends (.sanitize k) s fun t => Posted k .success t ∧ t.cst.san = none ∧ t.fte.map = [] ∧ t.fte.idx = []) ∧
      (r.ause = false → exec (.sanitize k) s = .next (post k .sanitizeFailed 0 s)))) ∧
  (∀ (r : SanRec) (w : Bool) (s : State), s.cst.san = some r → r.failed = false → s.sys.mode = .sanitize → w = true ∨ shadowOnly s = false →
    seqUp s 10 = true →
    (r.phase = 0 → (∀ e ∈ s.nvq.tags, isIo e.2 = false) → Ends (.sanitizePhaseDone w) s fun t => (∃ q, t.cst.san = some q ∧ q.phase = 1) ∧
      t.fte.idx = [] ∧ t.fte.prog = [] ∧ (∀ e ∈ t.dre.stripes, e.2.st ≠ .opened) ∧
      (s.sec.entropyOk = true → t.sec.rootPend = true) ∧ (s.sec.entropyOk = false → t.sec.entWait = true ∧ t.sec.rootPend = false)) ∧
    (r.phase = 0 → (∃ e ∈ s.nvq.tags, isIo e.2 = true) → exec (.sanitizePhaseDone w) s = .next s) ∧
    (r.phase = 1 → s.sec.rootPend = true → Ends (.sanitizePhaseDone w) s fun t => (∃ q, t.cst.san = some q ∧ q.phase = 2) ∧
      t.sec.root = s.sec.root + 1 ∧ t.sec.rootPend = false ∧ EvtSet .secEvt 4 t ∧
      (∀ k n, tget t.fte.nss k = some n → n.kgen = 0) ∧ OnlyChanges [.sec, .fte, .upd, .cst, .regs] s t) ∧
    (r.phase = 1 → s.sec.rootPend = false → exec (.sanitizePhaseDone w) s = .next s) ∧
    (r.phase = 2 → Ends (.sanitizePhaseDone w) s fun t => (∃ q, t.cst.san = some q ∧ q.phase = if r.act = 1 then 3 else 4) ∧
      t.fte.map = [] ∧ t.fte.bad = [] ∧ t.fte.rng = []) ∧
    (r.phase = 3 → (∀ d ∈ okDies s, s.prof.blocksPerDie ≤ tgetD r.cursors d 0) → Ends (.sanitizePhaseDone w) s fun t =>
      ∃ q, t.cst.san = some q ∧ q.phase = 4) ∧
    (r.phase = 4 → r.left = [] → Ends (.sanitizePhaseDone w) s fun t => t.cst.san = none ∧ t.sec.sanLog = 1 ∧ t.sys.mode ≠ .sanitize)) ∧
  (∀ (r : SanRec) (s : State), s.cst.san = some r → r.failed = false → s.sys.mode = .sanitize → shadowOnly s = true → r.phase = 2 →
    seqUp s 10 = true →
    Ends (.sanitizePhaseDone false) s fun t => t.cst.san = some { r with failed := true } ∧ t.sec.sanLog = 3 ∧ OnlyChanges [.cst, .sec] s t) ∧
  (∀ (r : SanRec) (s : State), s.cst.san = some r → s.sys.mode = .sanitize →
    (r.phase = 0 → r.failed = false → Ends .sanitizeQuiesceTimeout s fun t =>
      (∀ k x, tget t.nvq.tags k = some x → isIo x = false) ∧
      ∀ k x, tget s.nvq.tags k = some x → isIo x = false → (tget t.nvq.tags k).isSome = true) ∧
    (r.phase ≠ 0 → exec .sanitizeQuiesceTimeout s = .next s)) ∧
  (∀ (src : Nat) (s : State) (r : CamReq), let u := taken src s
    let h := slotsHeld r src s
    let bs (n : Nat) := (slotData s r).take n
    (Accepted src 0x0B00 s r → exec (.secInfo src) s = .next (replied r 0 [regValue s .secSts 0, regValue s .secSvnFloor 0,
      regValue s .secSanDone 0, regValue s .secSanTotal 0] u)) ∧
    (Accepted src 0x0B01 s r → s.sec.entropyOk = true → s.sec.lockout = false →
      let n := Config.freeNat s.free % 2 ^ 128
      exec (.ownerChallenge src) s = .next (replied r 0 [lo32 n, hi32 n, lo32 (n / 2 ^ 64), lo32 (n / 2 ^ 96), lo32 (s.sec.nonceCnt + 1)]
        (drawn { u with sec := { s.sec with nonce := some n, nonceCnt := s.sec.nonceCnt + 1 } }))) ∧
    (Accepted src 0x0B01 s r → s.sec.entropyOk = true → s.sec.lockout = true → exec (.ownerChallenge src) s =
      .next (replied r 0x0012 [Config.busyReason s.sec.nonceCnt] u)) ∧
    (Accepted src 0x0B01 s r → s.sec.entropyOk = false → exec (.ownerChallenge src) s = .next s) ∧
    (Accepted src 0x0B02 s r → dscBytes r = 97 + 96 → (bs 97).headD 0 = 0x04 → s.sec.nonce.isSome = true →
      (s.sec.owner = none → ∃ v, exec (.ownerSet src true) s = .next (repliedIn r 0 [regValue v .secSts 0] v) ∧
        v.sec.owner = some (leNat (bs 97)) ∧ v.sec.nonce = none ∧ v.sec.fails = 0 ∧ v.sec.sgen = s.sec.sgen + 1 ∧ EvtSet .secEvt 3 v ∧
        OnlyChanges [.sec, .upd, .regs] h v) ∧
      (s.sec.owner.isSome = true → ∃ v, exec (.ownerSet src true) s = .next (repliedIn r 0x0B02 [] v) ∧ v.sec.owner = s.sec.owner ∧
        v.sec.nonce = none ∧ OnlyChanges [.sec] h v) ∧
      ∃ v, exec (.ownerSet src false) s = .next (repliedIn r 0x0B01 [] v) ∧ v.sec.owner = s.sec.owner ∧ v.sec.nonce = none ∧
        v.sec.fails = s.sec.fails + 1 ∧ (7 ≤ s.sec.fails → v.sec.lockout = true) ∧ EvtSet .secEvt 2 v ∧ Latched 307 v) ∧
    (∀ ok, Accepted src 0x0B02 s r → dscBytes r = 97 + 96 → (bs 97).headD 0 = 0x04 → s.sec.nonce = none →
      exec (.ownerSet src ok) s = .next (repliedIn r 0x0B00 [] h)) ∧
    (Accepted src 0x0B03 s r → dscBytes r = 4 + 96 → leNat (bs 4) < 2 → s.sec.nonce.isSome = true →
      (s.sec.owner.isSome = true → ∃ v, exec (.ownerLock src true) s = .next (repliedIn r 0 [regValue v .secSts 0] v) ∧
        v.sec.lock = (leNat (bs 4) == 1) ∧ v.sec.nonce = none ∧ v.sec.owner = s.sec.owner ∧
        (s.sec.lock ≠ (leNat (bs 4) == 1) → EvtSet .secEvt 3 v) ∧ OnlyChanges [.sec, .upd, .regs] h v) ∧
      (s.sec.owner = none → ∃ v, exec (.ownerLock src true) s = .next (repliedIn r 0x0B03 [] v) ∧ v.sec = { s.sec with nonce := none })) ∧
    (Accepted src 0x0B04 s r → dscBytes r = 96 → s.sec.nonce.isSome = true → s.sec.owner.isSome = true →
      ∃ v, exec (.ownerRelease src true) s = .next (repliedIn r 0 [regValue v .secSts 0] v) ∧ v.sec.owner = none ∧ v.sec.lock = false ∧
        v.sec.nonce = none ∧ EvtSet .secEvt 3 v ∧ OnlyChanges [.sec, .upd, .regs] h v) ∧
    (Accepted src 0x0B05 s r → dscBytes r = 4 + 96 → s.sec.nonce.isSome = true → s.sec.owner.isSome = true →
      (∀ a, s.sec.svn < leNat (bs 4) → activeSvn s = some a → leNat (bs 4) ≤ a →
        ∃ v, exec (.svnRaise src true) s = .next (repliedIn r 0 [lo32 s.sec.svn] v) ∧ v.sec.svn = leNat (bs 4) ∧ v.sec.nonce = none ∧
          OnlyChanges [.sec, .upd] h v) ∧
      (leNat (bs 4) ≤ s.sec.svn → ∃ v, exec (.svnRaise src true) s = .next (repliedIn r 0x0B04 [] v) ∧ v.sec.svn = s.sec.svn ∧
        v.sec.nonce = none)) ∧
    (∀ n ok, Accepted src 0x0B03 s r → dscBytes r = n → n ≠ 100 → exec (.ownerLock src ok) s = .next (replied r 0x000B [lo32 n] u)))

/-! ## Sideband, telemetry -/

/-- R67, R68, R455 to R465, R475, Tables 19-1 to 19-5: MCTP packets and messages, control commands, NVMe-MI commands by message and in band, the
Basic Management read, bus addresses and resets, Cament by C0h and MCTP, sensors, telemetry opcodes and Get Log Page. The byte layouts
that DSP0236 and the NVMe-MI specification give are the model's (PRESUMED). Choices of the model it rests on: log entry 61. -/
def Obligations.SidebandAndTelemetry : Prop :=
  (∀ (b : Bus) (p : MctpPacket) (s : State), sideTakes s b = true →
    (b = .smbus → p.pecOk = false → Ends (.mctpPacketReceived b p) s (RaisedFrom 355 (evt .sbmEvt 4 s))) ∧
    (p.pecOk = true → p.som = true → p.eom = false → openMsg s b p.tag = none → s.sbm.msgs.length < 8 → p.bytes.length ≤ 4224 →
      s.sys.mode.serving = true → s.sys.modeReq ≠ some .standpipe → Ends (.mctpPacketReceived b p) s fun t =>
        t.sbm.msgs.getLast? = some { bus := b, tag := p.tag, seq := p.seq, bytes := p.bytes, whole := false } ∧ OnlyChanges [.sbm] s t) ∧
    (p.pecOk = true → p.som = true → openMsg s b p.tag = none → 8 ≤ s.sbm.msgs.length →
      exec (.mctpPacketReceived b p) s = .next (evt .sbmEvt 7 s)) ∧
    (p.pecOk = true → p.som = false → openMsg s b p.tag = none →
      Ends (.mctpPacketReceived b p) s (RaisedFrom 352 (evt .sbmEvt 2 s))) ∧
    (∀ m, p.pecOk = true → p.som = false → openMsg s b p.tag = some m → p.seq = (m.seq + 1) % 4 → p.eom = false →
      (m.bytes ++ p.bytes).length ≤ 4224 → Ends (.mctpPacketReceived b p) s fun t =>
        t.sbm.msgs = s.sbm.msgs.erase m ++ [{ m with bytes := m.bytes ++ p.bytes, seq := p.seq, whole := false }] ∧ OnlyChanges [.sbm] s t) ∧
    (∀ m, p.pecOk = true → p.som = false → openMsg s b p.tag = some m → p.seq ≠ (m.seq + 1) % 4 → Ends (.mctpPacketReceived b p) s
      (RaisedFrom 352 (evt .sbmEvt 2 { s with sbm := { s.sbm with msgs := s.sbm.msgs.erase m } })))) ∧
  (∀ (b : Bus) (s : State), s.sys.mode.serving = true →
    (∀ m, s.sbm.msgs.find? (fun m => !m.whole && m.bus == b) = some m → Ends (.mctpAssemblyTimeout b) s
      (RaisedFrom 352 (evt .sbmEvt 2 { s with sbm := { s.sbm with msgs := s.sbm.msgs.erase m } }))) ∧
    ((∀ m ∈ s.sbm.msgs, m.bus = b → m.whole = true) → exec (.mctpAssemblyTimeout b) s = .next s)) ∧
  (∀ (b : Bus) (s : State), sideTakes s b = true → s.sys.mode ≠ .standpipe → seqUp s 11 = true →
    let u := takeMsg b 0 s
    let v := takeMsg b 4 s
    let say (l : List Nat) (t : State) : State := emit (.sideband (some b) l) t
    let ctl (code : Nat) (l : List (Nat × Nat)) : Bool := (msgOf s b 0).all (ctlIs code l)
    let mi (op : MiOp) : Bool := (msgOf s b 4).all (miIs op)
    (∀ e, 0 < e → e < 255 → ctl 1 [(4, e)] = true → Ends (.setEndpointId b e) s fun t => eidOf t b = e ∧
      t.out = .sideband (some b) (ctlBody 1 0 [0, e, 0]) :: s.out ∧ OnlyChanges [.sbm, .out] s t) ∧
    (∀ e, e = 0 ∨ 255 ≤ e → ctl 1 [(4, e)] = true → exec (.setEndpointId b e) s = .next (say (ctlBody 1 2 []) u)) ∧
    (∀ e, ctl 1 [(4, e)] = false → exec (.setEndpointId b e) s = .next s) ∧
    (ctl 2 [] = true → exec (.getEndpointId b) s = .next (say (ctlBody 2 0 [eidOf s b, 0, 0]) u)) ∧
    (ctl 2 [] = false → exec (.getEndpointId b) s = .next s) ∧
    (ctl 3 [] = true → exec (.getEndpointUuid b) s = .next (say (ctlBody 3 0 ((leBytes 16 Config.uuid).map (·.toNat))) u)) ∧
    (ctl 4 [] = true → exec (.getMctpVersionSupport b) s = .next (say (ctlBody 4 0 [1, 0xF1, 0xF3, 0xFF, 0]) u)) ∧
    (ctl 5 [] = true → exec (.getMessageTypeSupport b) s = .next (say (ctlBody 5 0 [3, 0x04, 0x05, 0x7F]) u)) ∧
    (ctl 6 [] = true → exec (.getVendorDefinedMessageSupport b) s =
      .next (say (ctlBody 6 0 [0xFF, 1, 0x00, 0x00, 0xD8, 0xA7, 0x00, 0x01]) u)) ∧
    (mi (.readDs 2) = true → exec (.readNvmeMiDataStructure b 2) s = .next (say (miFrame 0 (tkeys s.nvq.ctrls)) v)) ∧
    (mi (.readDs 2) = false → exec (.readNvmeMiDataStructure b 2) s = .next s) ∧
    (mi .health = true → exec (.nvmSubsystemHealthStatusPoll b) s =
      .next (say (miFrame 0 (b2n (miReady s) :: b2n s.sys.hold :: (modeSts s).toNat :: healthVals s)) v)) ∧
    (∀ c, mi (.ctrlHealth c) = true → thas s.nvq.ctrls c = true → (ctrlAt s c).rdy = true → exec (.controllerHealthStatusPoll b c) s =
      .next (say (miFrame 0 (c :: (cstsOf s c).toNat :: healthVals s ++ [availSpare s])) v)) ∧
    (∀ c, mi (.ctrlHealth c) = true → thas s.nvq.ctrls c = true → (ctrlAt s c).rdy = false →
      exec (.controllerHealthStatusPoll b c) s = .next (say (miFrame 2 []) v)) ∧
    (mi (.cfgGet 1) = true → exec (.configurationGet b 1) s = .next (say (miFrame 0 [s.sbm.freq]) v)) ∧
    (mi (.cfgGet 3) = true → exec (.configurationGet b 3) s = .next (say (miFrame 0 [64]) v)) ∧
    (∀ f, mi (.cfgSet 1 f) = true → 1 ≤ f → f ≤ 3 → Ends (.configurationSet b 1 f) s fun t => t.sbm.freq = f ∧
      t.out = .sideband (some b) (miFrame 0 []) :: s.out ∧ OnlyChanges [.sbm, .out] s t) ∧
    (mi (.cfgSet 3 64) = true → exec (.configurationSet b 3 64) s = .next (say (miFrame 0 []) v)) ∧
    (∀ x, mi (.cfgSet 3 x) = true → x ≠ 64 → exec (.configurationSet b 3 x) s = .next (say (miFrame 4 []) v)) ∧
    (∀ o n, mi (.vpdRead o n) = true → o + n ≤ 1024 → exec (.vpdRead b o n) s =
      .next (say (miFrame 0 ((upFrom o n).map fun i => (s.prof.vpd.getD i 0).toNat)) v)) ∧
    (∀ o n, mi (.vpdRead o n) = true → 1024 < o + n → exec (.vpdRead b o n) s = .next (say (miFrame 4 []) v)) ∧
    (mi .vpdWrite = true → exec (.vpdWrite b) s = .next (say (miFrame 4 []) v)) ∧
    (mi .reset = true → s.sys.mode.serving = true →
      exec (.miReset b) s = .next (say (miFrame 0 []) (dueActivation (subsysReset (endSide v)))))) ∧
  (∀ (b : Bus) (s : State), sideTakes s b = true → s.sys.mode = .standpipe → seqUp s 11 = true →
    ((msgOf s b 0).all (ctlIs 2 []) = true → exec (.getEndpointId b) s = .next (wake s)) ∧
    ((msgOf s b 4).all (miIs .health) = true → exec (.nvmSubsystemHealthStatusPoll b) s = .next (wake s))) ∧
  (∀ s : State,
    (busOn s .smbus = true → bitOf (reg s .sbmCfg) 31 = true → s.sys.mode ≠ .dormant → exec .basicManagementRead s =
      .next (emit (.sideband (some .smbus) [6, 64 * b2n (!miReady s) + 32, 255 - critWarn s, twos 8 s.pwr.temp, pctUsed s, 0, 0]) s)) ∧
    (bitOf (reg s .sbmCfg) 31 = false → exec .basicManagementRead s = .next s)) ∧
  (∀ (a : Nat) (s : State), busOn s .i3c = true → s.sys.mode ≠ .dormant → islOn s 35 = true → s.sbm.daValid = false → a < 128 →
    let t : State := { s with sbm := { s.sbm with daddr := a, daValid := true } }
    exec (.dynamicAddressAssignment false a) s = .next t ∧
    (rfld s .sbmCfg 8 7 ≠ 0 → exec (.dynamicAddressAssignment true a) s = .next t) ∧
    (rfld s .sbmCfg 8 7 = 0 → exec (.dynamicAddressAssignment true a) s = .next s)) ∧
  (∀ (b : Bus) (s : State), s.sys.mode ≠ .dormant →
    (Ends (.sidebandBusReset b false) s fun t => t.sbm = { s.sbm with msgs := s.sbm.msgs.filter (·.bus != b) } ∧
      t.cam.side = s.cam.side.filter (fun r => r.bus != some b) ∧ OnlyChanges [.sbm, .cam, .nvq] s t) ∧
    Ends (.sidebandBusReset b true) s fun t => t.sbm.msgs = s.sbm.msgs.filter (·.bus != b) ∧ EvtSet .sbmEvt 5 t ∧ Latched 356 t) ∧
  (∀ (site : Nat) (s : State), site < 18 → s.sys.mode ≠ .dormant → islOn s 35 = true →
    let x := sensAt s site
    let worse : Sens := { x with bad := x.bad + 1, good := 0, fail := x.fail || decide (2 ≤ x.bad) }
    let seen (v : Int) : Option Int := some (match x.peak with | some p => max p v | none => v)
    (∀ v : Int, -60 ≤ v → v ≤ 135 → Ends (.sensorConversion site (some v)) s fun t =>
      sensAt t site = ⟨true, x.fail && decide (x.good + 1 < 100), seen v, v, 0, x.good + 1⟩ ∧
      (∀ i, i ≠ site → sensAt t i = sensAt s i) ∧ OnlyChanges [.sbm] s t) ∧
    (∀ v : Int, v < -60 ∨ 135 < v → Ends (.sensorConversion site (some v)) s fun t => sensAt t site = worse ∧ EvtSet .sbmEvt 6 t ∧
      Latched 357 t) ∧
    Ends (.sensorConversion site none) s fun t => sensAt t site = worse ∧
      (x.fail = false → 2 ≤ x.bad → EvtSet .sbmEvt 3 t ∧ Latched 353 t)) ∧
  (∀ (b : Bus) (m : Msg) (s : State), sideTakes s b = true → seqUp s 0 = true → msgOf s b 0x7F = some m →
    (∀ q, camMessage b m = some q → bitOf (reg s .sysCamCtl) 9 = true → check14 q = none → (∀ r ∈ s.cam.side, check14 r = none) →
      s.sys.mode ≠ .standpipe → s.sys.modeReq ≠ some .standpipe → exec (.camentMctpMessage b) s =
        .next { dropMsg m s with cam := { s.cam with side := s.cam.side ++ [q] } }) ∧
    (∀ q, camMessage b m = some q → bitOf (reg s .sysCamCtl) 9 = false → exec (.camentMctpMessage b) s = .next (dropMsg m s)) ∧
    (camMessage b m = none → exec (.camentMctpMessage b) s = .next (dropMsg m s))) ∧
  (∀ (k : Nat) (x : Tag) (s : State), AdminRuns k 0xC0 s x → (∀ r ∈ s.cam.queue, r.tag ≠ some k) → (∀ g ∈ s.cam.gate, g.req.tag ≠ some k) →
    let q : CamReq := { src := 4 + portOf x.ctrl, words := (x.ent.dw.drop 10).take 6 ++ (x.ent.dw.drop 2).take 2, tag := some k }
    q.src ≠ 8 → check14 q = none → (∀ r ∈ s.cam.queue, r.src = q.src → check14 r = none) → exec (.camentPacket k) s = .next { s with cam := { s.cam with queue := s.cam.queue ++ [q] } }) ∧
  (∀ (k : Nat) (x : Tag) (s : State), AdminRuns k 0x02 s x →
    let u := sendAdmin x x.dma.prog (xferBytes x) s
    let w := cdw x.ent 10
    let page := fld w 0 8
    let off := (cdw x.ent 12).toNat + 2 ^ 32 * (cdw x.ent 13).toNat
    let n := 4 * (fld w 16 16 + 65536 * fld (cdw x.ent 11) 0 16 + 1)
    (page = 1 ∨ page = 2 ∨ page = 3 ∨ page = 5 ∨ page = 6 ∨ page = 0x81 ∨ page = 0xC0 ∨ (page = 4 ∧ bitOf w 15 = true) →
      exec (.getLogPage k) s = .next (answer k page (logVals s x.ctrl page) u)) ∧
    (page = 4 → bitOf w 15 = false → thas s.nvq.ctrls x.ctrl = true → Ends (.getLogPage k) s fun t => Posted k .success t ∧
      t.out = .info k 4 (ctrlAt s x.ctrl).changedNs :: u.out ∧ (ctrlAt t x.ctrl).changedNs = [] ∧ OnlyChanges [.nvq, .out] s t) ∧
    (page = 7 → bitOf w 8 = false → exec (.getLogPage k) s =
      .next (answer k 7 ((upFrom off n).map fun a => (telByte s 7 s.sbm.hostCap a).toNat) u)) ∧
    (page = 7 → bitOf w 8 = true → Ends (.getLogPage k) s fun t => Posted k .success t ∧ t.sbm.hostGen = (s.sbm.hostGen + 1) % 256 ∧
      t.sbm.hostCap = some (captureOf s ((s.sbm.hostGen + 1) % 256)) ∧ OnlyChanges [.nvq, .out, .sbm] s t) ∧
    (∀ c, page = 8 → s.sbm.ctrlCap = some c → Ends (.getLogPage k) s fun t => Posted k .success t ∧
      t.out = .info k 8 ((upFrom off n).map fun a => (telByte s 8 (some c) a).toNat) :: u.out ∧
      t.sbm.ctrlCap = (if off + n < 512 * 2313 then some c else some { c with wasRead := true }) ∧ OnlyChanges [.nvq, .out, .sbm] s t) ∧
    (page = 0 ∨ (8 < page ∧ page ≠ 0x81 ∧ page ≠ 0xC0) → exec (.getLogPage k) s = .next (post k .invalidLogPage 0 s))) ∧
  (∀ (k : Nat) (x : Tag) (s : State), AdminRuns k 0x1D s x →
    let op := fld (cdw x.ent 11) 0 8
    (∀ f, op = 3 → fld (cdw x.ent 12) 0 8 = 1 → f = fld (cdw x.ent 12) 8 4 → 1 ≤ f → f ≤ 3 →
      exec (.nvmeMiSend k) s = .next (post k .success 0 { s with sbm := { s.sbm with freq := f } })) ∧
    (op = 6 → exec (.nvmeMiSend k) s = .next (post k .success 4 s)) ∧
    (op = 7 → exec (.nvmeMiSend k) s = .next (dueActivation (subsysReset (endSide (post k .success 0 s))))) ∧
    (op ≠ 3 → op ≠ 6 → op ≠ 7 → exec (.nvmeMiSend k) s = .next (post k .success 3 s))) ∧
  (∀ (k : Nat) (x : Tag) (s : State), AdminRuns k 0x1E s x →
    let u := sendAdmin x x.dma.prog (xferBytes x) s
    let op := fld (cdw x.ent 11) 0 8
    (op = 1 → exec (.nvmeMiReceive k) s =
      .next (post k .success 0 (emit (.info k 0x1E (b2n (miReady s) :: b2n s.sys.hold :: (modeSts s).toNat :: healthVals s)) u))) ∧
    (op = 4 → fld (cdw x.ent 12) 0 8 = 1 → exec (.nvmeMiReceive k) s = .next (post k .success 0 (emit (.info k 0x1E [s.sbm.freq]) u))) ∧
    (op = 3 ∨ 5 < op → exec (.nvmeMiReceive k) s = .next (post k .success 3 u))) ∧
  (∀ (src : Nat) (s : State) (r : CamReq), let u := taken src s
    let d := rqTgt r
    (Accepted src 0x0C00 s r → exec (.telInfo src) s = .next (replied r 0 [reg s .sbmCfg, regValue s .sbmSts 0,
      pack [(16, 1, b2n s.sbm.ctrlCap.isSome), (8, 8, s.sbm.ctrlGen), (0, 8, s.sbm.hostGen)]] u)) ∧
    (Accepted src 0x0C01 s r → d < 18 → exec (.sensorRead src) s = .next (replied r 0 [regValue s .sbmSens d] u)) ∧
    (Accepted src 0x0C01 s r → d = 0xFFFF → exec (.sensorRead src) s =
      .next (replied r 0 [pack [(8, 8, failedSites s), (0, 8, twos 8 s.pwr.temp)], regValue s .pwrSts 0] u)) ∧
    (Accepted src 0x0C01 s r → 18 ≤ d → d ≠ 0xFFFF → exec (.sensorRead src) s = .next (replied r 0x0C00 [] u)) ∧
    (∀ h, Accepted src 0x0C02 s r → d = 0 ∨ s.sbm.ctrlCap.isSome = true → fld (rqW r 4) 16 16 ≤ 2312 → pickHandle s = some h →
      Ends (.telSnapshot src) s fun t => tget t.cam.ops h = some { opOf src 0x0C02 r true (earlier u r) with args := [fld (rqW r 4) 16 16, dscBytes r] } ∧
        (bitOf (rqW r 4) 0 = true → t.sbm.hostGen = (s.sbm.hostGen + 1) % 256 ∧ t.sbm.hostCap.isSome = true) ∧
        (bitOf (rqW r 4) 0 = false → t.sbm = s.sbm)) ∧
    (Accepted src 0x0C02 s r → d = 1 → s.sbm.ctrlCap = none → exec (.telSnapshot src) s = .next (replied r 0x0C01 [] u)))
end

