-- ==== Sys2Proof/Laws/State.lean ====
section
/-! SUPPORT. One lemma per field for each named update of the state, true by unfolding. -/

namespace Sys2Proof.Machine

variable (s : State)

@[simp] theorem onSys_sys (f : Sys → Sys) : (onSys f s).sys = f s.sys := rfl
@[simp] theorem onSys_pins (f : Sys → Sys) : (onSys f s).pins = s.pins := rfl
@[simp] theorem onSys_regs (f : Sys → Sys) : (onSys f s).regs = s.regs := rfl
@[simp] theorem onSys_ovr (f : Sys → Sys) : (onSys f s).ovr = s.ovr := rfl
@[simp] theorem onSys_cam (f : Sys → Sys) : (onSys f s).cam = s.cam := rfl
@[simp] theorem onSys_hpc (f : Sys → Sys) : (onSys f s).hpc = s.hpc := rfl
@[simp] theorem onSys_nvq (f : Sys → Sys) : (onSys f s).nvq = s.nvq := rfl
@[simp] theorem onSys_qos (f : Sys → Sys) : (onSys f s).qos = s.qos := rfl
@[simp] theorem onSys_xlt (f : Sys → Sys) : (onSys f s).xlt = s.xlt := rfl
@[simp] theorem onSys_fte (f : Sys → Sys) : (onSys f s).fte = s.fte := rfl
@[simp] theorem onSys_fch (f : Sys → Sys) : (onSys f s).fch = s.fch := rfl
@[simp] theorem onSys_sre (f : Sys → Sys) : (onSys f s).sre = s.sre := rfl
@[simp] theorem onSys_dre (f : Sys → Sys) : (onSys f s).dre = s.dre := rfl
@[simp] theorem onSys_cst (f : Sys → Sys) : (onSys f s).cst = s.cst := rfl
@[simp] theorem onSys_wel (f : Sys → Sys) : (onSys f s).wel = s.wel := rfl
@[simp] theorem onSys_pmp (f : Sys → Sys) : (onSys f s).pmp = s.pmp := rfl
@[simp] theorem onSys_mpr (f : Sys → Sys) : (onSys f s).mpr = s.mpr := rfl
@[simp] theorem onSys_flt (f : Sys → Sys) : (onSys f s).flt = s.flt := rfl
@[simp] theorem onSys_pwr (f : Sys → Sys) : (onSys f s).pwr = s.pwr := rfl
@[simp] theorem onSys_whs (f : Sys → Sys) : (onSys f s).whs = s.whs := rfl
@[simp] theorem onSys_upd (f : Sys → Sys) : (onSys f s).upd = s.upd := rfl
@[simp] theorem onSys_sec (f : Sys → Sys) : (onSys f s).sec = s.sec := rfl
@[simp] theorem onSys_sbm (f : Sys → Sys) : (onSys f s).sbm = s.sbm := rfl
@[simp] theorem onSys_drm (f : Sys → Sys) : (onSys f s).drm = s.drm := rfl
@[simp] theorem onSys_prof (f : Sys → Sys) : (onSys f s).prof = s.prof := rfl
@[simp] theorem onSys_profOn (f : Sys → Sys) : (onSys f s).profOn = s.profOn := rfl
@[simp] theorem onSys_out (f : Sys → Sys) : (onSys f s).out = s.out := rfl
@[simp] theorem onSys_free (f : Sys → Sys) : (onSys f s).free = s.free := rfl
@[simp] theorem onSys_pending (f : Sys → Sys) : (onSys f s).pending = s.pending := rfl

@[simp] theorem onPins_sys (f : Pins → Pins) : (onPins f s).sys = s.sys := rfl
@[simp] theorem onPins_pins (f : Pins → Pins) : (onPins f s).pins = f s.pins := rfl
@[simp] theorem onPins_regs (f : Pins → Pins) : (onPins f s).regs = s.regs := rfl
@[simp] theorem onPins_ovr (f : Pins → Pins) : (onPins f s).ovr = s.ovr := rfl
@[simp] theorem onPins_cam (f : Pins → Pins) : (onPins f s).cam = s.cam := rfl
@[simp] theorem onPins_hpc (f : Pins → Pins) : (onPins f s).hpc = s.hpc := rfl
@[simp] theorem onPins_nvq (f : Pins → Pins) : (onPins f s).nvq = s.nvq := rfl
@[simp] theorem onPins_qos (f : Pins → Pins) : (onPins f s).qos = s.qos := rfl
@[simp] theorem onPins_xlt (f : Pins → Pins) : (onPins f s).xlt = s.xlt := rfl
@[simp] theorem onPins_fte (f : Pins → Pins) : (onPins f s).fte = s.fte := rfl
@[simp] theorem onPins_fch (f : Pins → Pins) : (onPins f s).fch = s.fch := rfl
@[simp] theorem onPins_sre (f : Pins → Pins) : (onPins f s).sre = s.sre := rfl
@[simp] theorem onPins_dre (f : Pins → Pins) : (onPins f s).dre = s.dre := rfl
@[simp] theorem onPins_cst (f : Pins → Pins) : (onPins f s).cst = s.cst := rfl
@[simp] theorem onPins_wel (f : Pins → Pins) : (onPins f s).wel = s.wel := rfl
@[simp] theorem onPins_pmp (f : Pins → Pins) : (onPins f s).pmp = s.pmp := rfl
@[simp] theorem onPins_mpr (f : Pins → Pins) : (onPins f s).mpr = s.mpr := rfl
@[simp] theorem onPins_flt (f : Pins → Pins) : (onPins f s).flt = s.flt := rfl
@[simp] theorem onPins_pwr (f : Pins → Pins) : (onPins f s).pwr = s.pwr := rfl
@[simp] theorem onPins_whs (f : Pins → Pins) : (onPins f s).whs = s.whs := rfl
@[simp] theorem onPins_upd (f : Pins → Pins) : (onPins f s).upd = s.upd := rfl
@[simp] theorem onPins_sec (f : Pins → Pins) : (onPins f s).sec = s.sec := rfl
@[simp] theorem onPins_sbm (f : Pins → Pins) : (onPins f s).sbm = s.sbm := rfl
@[simp] theorem onPins_drm (f : Pins → Pins) : (onPins f s).drm = s.drm := rfl
@[simp] theorem onPins_prof (f : Pins → Pins) : (onPins f s).prof = s.prof := rfl
@[simp] theorem onPins_profOn (f : Pins → Pins) : (onPins f s).profOn = s.profOn := rfl
@[simp] theorem onPins_out (f : Pins → Pins) : (onPins f s).out = s.out := rfl
@[simp] theorem onPins_free (f : Pins → Pins) : (onPins f s).free = s.free := rfl
@[simp] theorem onPins_pending (f : Pins → Pins) : (onPins f s).pending = s.pending := rfl

@[simp] theorem onCam_sys (f : Cam → Cam) : (onCam f s).sys = s.sys := rfl
@[simp] theorem onCam_pins (f : Cam → Cam) : (onCam f s).pins = s.pins := rfl
@[simp] theorem onCam_regs (f : Cam → Cam) : (onCam f s).regs = s.regs := rfl
@[simp] theorem onCam_ovr (f : Cam → Cam) : (onCam f s).ovr = s.ovr := rfl
@[simp] theorem onCam_cam (f : Cam → Cam) : (onCam f s).cam = f s.cam := rfl
@[simp] theorem onCam_hpc (f : Cam → Cam) : (onCam f s).hpc = s.hpc := rfl
@[simp] theorem onCam_nvq (f : Cam → Cam) : (onCam f s).nvq = s.nvq := rfl
@[simp] theorem onCam_qos (f : Cam → Cam) : (onCam f s).qos = s.qos := rfl
@[simp] theorem onCam_xlt (f : Cam → Cam) : (onCam f s).xlt = s.xlt := rfl
@[simp] theorem onCam_fte (f : Cam → Cam) : (onCam f s).fte = s.fte := rfl
@[simp] theorem onCam_fch (f : Cam → Cam) : (onCam f s).fch = s.fch := rfl
@[simp] theorem onCam_sre (f : Cam → Cam) : (onCam f s).sre = s.sre := rfl
@[simp] theorem onCam_dre (f : Cam → Cam) : (onCam f s).dre = s.dre := rfl
@[simp] theorem onCam_cst (f : Cam → Cam) : (onCam f s).cst = s.cst := rfl
@[simp] theorem onCam_wel (f : Cam → Cam) : (onCam f s).wel = s.wel := rfl
@[simp] theorem onCam_pmp (f : Cam → Cam) : (onCam f s).pmp = s.pmp := rfl
@[simp] theorem onCam_mpr (f : Cam → Cam) : (onCam f s).mpr = s.mpr := rfl
@[simp] theorem onCam_flt (f : Cam → Cam) : (onCam f s).flt = s.flt := rfl
@[simp] theorem onCam_pwr (f : Cam → Cam) : (onCam f s).pwr = s.pwr := rfl
@[simp] theorem onCam_whs (f : Cam → Cam) : (onCam f s).whs = s.whs := rfl
@[simp] theorem onCam_upd (f : Cam → Cam) : (onCam f s).upd = s.upd := rfl
@[simp] theorem onCam_sec (f : Cam → Cam) : (onCam f s).sec = s.sec := rfl
@[simp] theorem onCam_sbm (f : Cam → Cam) : (onCam f s).sbm = s.sbm := rfl
@[simp] theorem onCam_drm (f : Cam → Cam) : (onCam f s).drm = s.drm := rfl
@[simp] theorem onCam_prof (f : Cam → Cam) : (onCam f s).prof = s.prof := rfl
@[simp] theorem onCam_profOn (f : Cam → Cam) : (onCam f s).profOn = s.profOn := rfl
@[simp] theorem onCam_out (f : Cam → Cam) : (onCam f s).out = s.out := rfl
@[simp] theorem onCam_free (f : Cam → Cam) : (onCam f s).free = s.free := rfl
@[simp] theorem onCam_pending (f : Cam → Cam) : (onCam f s).pending = s.pending := rfl

@[simp] theorem onHpc_sys (f : Hpc → Hpc) : (onHpc f s).sys = s.sys := rfl
@[simp] theorem onHpc_pins (f : Hpc → Hpc) : (onHpc f s).pins = s.pins := rfl
@[simp] theorem onHpc_regs (f : Hpc → Hpc) : (onHpc f s).regs = s.regs := rfl
@[simp] theorem onHpc_ovr (f : Hpc → Hpc) : (onHpc f s).ovr = s.ovr := rfl
@[simp] theorem onHpc_cam (f : Hpc → Hpc) : (onHpc f s).cam = s.cam := rfl
@[simp] theorem onHpc_hpc (f : Hpc → Hpc) : (onHpc f s).hpc = f s.hpc := rfl
@[simp] theorem onHpc_nvq (f : Hpc → Hpc) : (onHpc f s).nvq = s.nvq := rfl
@[simp] theorem onHpc_qos (f : Hpc → Hpc) : (onHpc f s).qos = s.qos := rfl
@[simp] theorem onHpc_xlt (f : Hpc → Hpc) : (onHpc f s).xlt = s.xlt := rfl
@[simp] theorem onHpc_fte (f : Hpc → Hpc) : (onHpc f s).fte = s.fte := rfl
@[simp] theorem onHpc_fch (f : Hpc → Hpc) : (onHpc f s).fch = s.fch := rfl
@[simp] theorem onHpc_sre (f : Hpc → Hpc) : (onHpc f s).sre = s.sre := rfl
@[simp] theorem onHpc_dre (f : Hpc → Hpc) : (onHpc f s).dre = s.dre := rfl
@[simp] theorem onHpc_cst (f : Hpc → Hpc) : (onHpc f s).cst = s.cst := rfl
@[simp] theorem onHpc_wel (f : Hpc → Hpc) : (onHpc f s).wel = s.wel := rfl
@[simp] theorem onHpc_pmp (f : Hpc → Hpc) : (onHpc f s).pmp = s.pmp := rfl
@[simp] theorem onHpc_mpr (f : Hpc → Hpc) : (onHpc f s).mpr = s.mpr := rfl
@[simp] theorem onHpc_flt (f : Hpc → Hpc) : (onHpc f s).flt = s.flt := rfl
@[simp] theorem onHpc_pwr (f : Hpc → Hpc) : (onHpc f s).pwr = s.pwr := rfl
@[simp] theorem onHpc_whs (f : Hpc → Hpc) : (onHpc f s).whs = s.whs := rfl
@[simp] theorem onHpc_upd (f : Hpc → Hpc) : (onHpc f s).upd = s.upd := rfl
@[simp] theorem onHpc_sec (f : Hpc → Hpc) : (onHpc f s).sec = s.sec := rfl
@[simp] theorem onHpc_sbm (f : Hpc → Hpc) : (onHpc f s).sbm = s.sbm := rfl
@[simp] theorem onHpc_drm (f : Hpc → Hpc) : (onHpc f s).drm = s.drm := rfl
@[simp] theorem onHpc_prof (f : Hpc → Hpc) : (onHpc f s).prof = s.prof := rfl
@[simp] theorem onHpc_profOn (f : Hpc → Hpc) : (onHpc f s).profOn = s.profOn := rfl
@[simp] theorem onHpc_out (f : Hpc → Hpc) : (onHpc f s).out = s.out := rfl
@[simp] theorem onHpc_free (f : Hpc → Hpc) : (onHpc f s).free = s.free := rfl
@[simp] theorem onHpc_pending (f : Hpc → Hpc) : (onHpc f s).pending = s.pending := rfl

@[simp] theorem onNvq_sys (f : Nvq → Nvq) : (onNvq f s).sys = s.sys := rfl
@[simp] theorem onNvq_pins (f : Nvq → Nvq) : (onNvq f s).pins = s.pins := rfl
@[simp] theorem onNvq_regs (f : Nvq → Nvq) : (onNvq f s).regs = s.regs := rfl
@[simp] theorem onNvq_ovr (f : Nvq → Nvq) : (onNvq f s).ovr = s.ovr := rfl
@[simp] theorem onNvq_cam (f : Nvq → Nvq) : (onNvq f s).cam = s.cam := rfl
@[simp] theorem onNvq_hpc (f : Nvq → Nvq) : (onNvq f s).hpc = s.hpc := rfl
@[simp] theorem onNvq_nvq (f : Nvq → Nvq) : (onNvq f s).nvq = f s.nvq := rfl
@[simp] theorem onNvq_qos (f : Nvq → Nvq) : (onNvq f s).qos = s.qos := rfl
@[simp] theorem onNvq_xlt (f : Nvq → Nvq) : (onNvq f s).xlt = s.xlt := rfl
@[simp] theorem onNvq_fte (f : Nvq → Nvq) : (onNvq f s).fte = s.fte := rfl
@[simp] theorem onNvq_fch (f : Nvq → Nvq) : (onNvq f s).fch = s.fch := rfl
@[simp] theorem onNvq_sre (f : Nvq → Nvq) : (onNvq f s).sre = s.sre := rfl
@[simp] theorem onNvq_dre (f : Nvq → Nvq) : (onNvq f s).dre = s.dre := rfl
@[simp] theorem onNvq_cst (f : Nvq → Nvq) : (onNvq f s).cst = s.cst := rfl
@[simp] theorem onNvq_wel (f : Nvq → Nvq) : (onNvq f s).wel = s.wel := rfl
@[simp] theorem onNvq_pmp (f : Nvq → Nvq) : (onNvq f s).pmp = s.pmp := rfl
@[simp] theorem onNvq_mpr (f : Nvq → Nvq) : (onNvq f s).mpr = s.mpr := rfl
@[simp] theorem onNvq_flt (f : Nvq → Nvq) : (onNvq f s).flt = s.flt := rfl
@[simp] theorem onNvq_pwr (f : Nvq → Nvq) : (onNvq f s).pwr = s.pwr := rfl
@[simp] theorem onNvq_whs (f : Nvq → Nvq) : (onNvq f s).whs = s.whs := rfl
@[simp] theorem onNvq_upd (f : Nvq → Nvq) : (onNvq f s).upd = s.upd := rfl
@[simp] theorem onNvq_sec (f : Nvq → Nvq) : (onNvq f s).sec = s.sec := rfl
@[simp] theorem onNvq_sbm (f : Nvq → Nvq) : (onNvq f s).sbm = s.sbm := rfl
@[simp] theorem onNvq_drm (f : Nvq → Nvq) : (onNvq f s).drm = s.drm := rfl
@[simp] theorem onNvq_prof (f : Nvq → Nvq) : (onNvq f s).prof = s.prof := rfl
@[simp] theorem onNvq_profOn (f : Nvq → Nvq) : (onNvq f s).profOn = s.profOn := rfl
@[simp] theorem onNvq_out (f : Nvq → Nvq) : (onNvq f s).out = s.out := rfl
@[simp] theorem onNvq_free (f : Nvq → Nvq) : (onNvq f s).free = s.free := rfl
@[simp] theorem onNvq_pending (f : Nvq → Nvq) : (onNvq f s).pending = s.pending := rfl

@[simp] theorem onQos_sys (f : Qos → Qos) : (onQos f s).sys = s.sys := rfl
@[simp] theorem onQos_pins (f : Qos → Qos) : (onQos f s).pins = s.pins := rfl
@[simp] theorem onQos_regs (f : Qos → Qos) : (onQos f s).regs = s.regs := rfl
@[simp] theorem onQos_ovr (f : Qos → Qos) : (onQos f s).ovr = s.ovr := rfl
@[simp] theorem onQos_cam (f : Qos → Qos) : (onQos f s).cam = s.cam := rfl
@[simp] theorem onQos_hpc (f : Qos → Qos) : (onQos f s).hpc = s.hpc := rfl
@[simp] theorem onQos_nvq (f : Qos → Qos) : (onQos f s).nvq = s.nvq := rfl
@[simp] theorem onQos_qos (f : Qos → Qos) : (onQos f s).qos = f s.qos := rfl
@[simp] theorem onQos_xlt (f : Qos → Qos) : (onQos f s).xlt = s.xlt := rfl
@[simp] theorem onQos_fte (f : Qos → Qos) : (onQos f s).fte = s.fte := rfl
@[simp] theorem onQos_fch (f : Qos → Qos) : (onQos f s).fch = s.fch := rfl
@[simp] theorem onQos_sre (f : Qos → Qos) : (onQos f s).sre = s.sre := rfl
@[simp] theorem onQos_dre (f : Qos → Qos) : (onQos f s).dre = s.dre := rfl
@[simp] theorem onQos_cst (f : Qos → Qos) : (onQos f s).cst = s.cst := rfl
@[simp] theorem onQos_wel (f : Qos → Qos) : (onQos f s).wel = s.wel := rfl
@[simp] theorem onQos_pmp (f : Qos → Qos) : (onQos f s).pmp = s.pmp := rfl
@[simp] theorem onQos_mpr (f : Qos → Qos) : (onQos f s).mpr = s.mpr := rfl
@[simp] theorem onQos_flt (f : Qos → Qos) : (onQos f s).flt = s.flt := rfl
@[simp] theorem onQos_pwr (f : Qos → Qos) : (onQos f s).pwr = s.pwr := rfl
@[simp] theorem onQos_whs (f : Qos → Qos) : (onQos f s).whs = s.whs := rfl
@[simp] theorem onQos_upd (f : Qos → Qos) : (onQos f s).upd = s.upd := rfl
@[simp] theorem onQos_sec (f : Qos → Qos) : (onQos f s).sec = s.sec := rfl
@[simp] theorem onQos_sbm (f : Qos → Qos) : (onQos f s).sbm = s.sbm := rfl
@[simp] theorem onQos_drm (f : Qos → Qos) : (onQos f s).drm = s.drm := rfl
@[simp] theorem onQos_prof (f : Qos → Qos) : (onQos f s).prof = s.prof := rfl
@[simp] theorem onQos_profOn (f : Qos → Qos) : (onQos f s).profOn = s.profOn := rfl
@[simp] theorem onQos_out (f : Qos → Qos) : (onQos f s).out = s.out := rfl
@[simp] theorem onQos_free (f : Qos → Qos) : (onQos f s).free = s.free := rfl
@[simp] theorem onQos_pending (f : Qos → Qos) : (onQos f s).pending = s.pending := rfl

@[simp] theorem onXlt_sys (f : Xlt → Xlt) : (onXlt f s).sys = s.sys := rfl
@[simp] theorem onXlt_pins (f : Xlt → Xlt) : (onXlt f s).pins = s.pins := rfl
@[simp] theorem onXlt_regs (f : Xlt → Xlt) : (onXlt f s).regs = s.regs := rfl
@[simp] theorem onXlt_ovr (f : Xlt → Xlt) : (onXlt f s).ovr = s.ovr := rfl
@[simp] theorem onXlt_cam (f : Xlt → Xlt) : (onXlt f s).cam = s.cam := rfl
@[simp] theorem onXlt_hpc (f : Xlt → Xlt) : (onXlt f s).hpc = s.hpc := rfl
@[simp] theorem onXlt_nvq (f : Xlt → Xlt) : (onXlt f s).nvq = s.nvq := rfl
@[simp] theorem onXlt_qos (f : Xlt → Xlt) : (onXlt f s).qos = s.qos := rfl
@[simp] theorem onXlt_xlt (f : Xlt → Xlt) : (onXlt f s).xlt = f s.xlt := rfl
@[simp] theorem onXlt_fte (f : Xlt → Xlt) : (onXlt f s).fte = s.fte := rfl
@[simp] theorem onXlt_fch (f : Xlt → Xlt) : (onXlt f s).fch = s.fch := rfl
@[simp] theorem onXlt_sre (f : Xlt → Xlt) : (onXlt f s).sre = s.sre := rfl
@[simp] theorem onXlt_dre (f : Xlt → Xlt) : (onXlt f s).dre = s.dre := rfl
@[simp] theorem onXlt_cst (f : Xlt → Xlt) : (onXlt f s).cst = s.cst := rfl
@[simp] theorem onXlt_wel (f : Xlt → Xlt) : (onXlt f s).wel = s.wel := rfl
@[simp] theorem onXlt_pmp (f : Xlt → Xlt) : (onXlt f s).pmp = s.pmp := rfl
@[simp] theorem onXlt_mpr (f : Xlt → Xlt) : (onXlt f s).mpr = s.mpr := rfl
@[simp] theorem onXlt_flt (f : Xlt → Xlt) : (onXlt f s).flt = s.flt := rfl
@[simp] theorem onXlt_pwr (f : Xlt → Xlt) : (onXlt f s).pwr = s.pwr := rfl
@[simp] theorem onXlt_whs (f : Xlt → Xlt) : (onXlt f s).whs = s.whs := rfl
@[simp] theorem onXlt_upd (f : Xlt → Xlt) : (onXlt f s).upd = s.upd := rfl
@[simp] theorem onXlt_sec (f : Xlt → Xlt) : (onXlt f s).sec = s.sec := rfl
@[simp] theorem onXlt_sbm (f : Xlt → Xlt) : (onXlt f s).sbm = s.sbm := rfl
@[simp] theorem onXlt_drm (f : Xlt → Xlt) : (onXlt f s).drm = s.drm := rfl
@[simp] theorem onXlt_prof (f : Xlt → Xlt) : (onXlt f s).prof = s.prof := rfl
@[simp] theorem onXlt_profOn (f : Xlt → Xlt) : (onXlt f s).profOn = s.profOn := rfl
@[simp] theorem onXlt_out (f : Xlt → Xlt) : (onXlt f s).out = s.out := rfl
@[simp] theorem onXlt_free (f : Xlt → Xlt) : (onXlt f s).free = s.free := rfl
@[simp] theorem onXlt_pending (f : Xlt → Xlt) : (onXlt f s).pending = s.pending := rfl

@[simp] theorem onFte_sys (f : Fte → Fte) : (onFte f s).sys = s.sys := rfl
@[simp] theorem onFte_pins (f : Fte → Fte) : (onFte f s).pins = s.pins := rfl
@[simp] theorem onFte_regs (f : Fte → Fte) : (onFte f s).regs = s.regs := rfl
@[simp] theorem onFte_ovr (f : Fte → Fte) : (onFte f s).ovr = s.ovr := rfl
@[simp] theorem onFte_cam (f : Fte → Fte) : (onFte f s).cam = s.cam := rfl
@[simp] theorem onFte_hpc (f : Fte → Fte) : (onFte f s).hpc = s.hpc := rfl
@[simp] theorem onFte_nvq (f : Fte → Fte) : (onFte f s).nvq = s.nvq := rfl
@[simp] theorem onFte_qos (f : Fte → Fte) : (onFte f s).qos = s.qos := rfl
@[simp] theorem onFte_xlt (f : Fte → Fte) : (onFte f s).xlt = s.xlt := rfl
@[simp] theorem onFte_fte (f : Fte → Fte) : (onFte f s).fte = f s.fte := rfl
@[simp] theorem onFte_fch (f : Fte → Fte) : (onFte f s).fch = s.fch := rfl
@[simp] theorem onFte_sre (f : Fte → Fte) : (onFte f s).sre = s.sre := rfl
@[simp] theorem onFte_dre (f : Fte → Fte) : (onFte f s).dre = s.dre := rfl
@[simp] theorem onFte_cst (f : Fte → Fte) : (onFte f s).cst = s.cst := rfl
@[simp] theorem onFte_wel (f : Fte → Fte) : (onFte f s).wel = s.wel := rfl
@[simp] theorem onFte_pmp (f : Fte → Fte) : (onFte f s).pmp = s.pmp := rfl
@[simp] theorem onFte_mpr (f : Fte → Fte) : (onFte f s).mpr = s.mpr := rfl
@[simp] theorem onFte_flt (f : Fte → Fte) : (onFte f s).flt = s.flt := rfl
@[simp] theorem onFte_pwr (f : Fte → Fte) : (onFte f s).pwr = s.pwr := rfl
@[simp] theorem onFte_whs (f : Fte → Fte) : (onFte f s).whs = s.whs := rfl
@[simp] theorem onFte_upd (f : Fte → Fte) : (onFte f s).upd = s.upd := rfl
@[simp] theorem onFte_sec (f : Fte → Fte) : (onFte f s).sec = s.sec := rfl
@[simp] theorem onFte_sbm (f : Fte → Fte) : (onFte f s).sbm = s.sbm := rfl
@[simp] theorem onFte_drm (f : Fte → Fte) : (onFte f s).drm = s.drm := rfl
@[simp] theorem onFte_prof (f : Fte → Fte) : (onFte f s).prof = s.prof := rfl
@[simp] theorem onFte_profOn (f : Fte → Fte) : (onFte f s).profOn = s.profOn := rfl
@[simp] theorem onFte_out (f : Fte → Fte) : (onFte f s).out = s.out := rfl
@[simp] theorem onFte_free (f : Fte → Fte) : (onFte f s).free = s.free := rfl
@[simp] theorem onFte_pending (f : Fte → Fte) : (onFte f s).pending = s.pending := rfl

@[simp] theorem onFch_sys (f : Fch → Fch) : (onFch f s).sys = s.sys := rfl
@[simp] theorem onFch_pins (f : Fch → Fch) : (onFch f s).pins = s.pins := rfl
@[simp] theorem onFch_regs (f : Fch → Fch) : (onFch f s).regs = s.regs := rfl
@[simp] theorem onFch_ovr (f : Fch → Fch) : (onFch f s).ovr = s.ovr := rfl
@[simp] theorem onFch_cam (f : Fch → Fch) : (onFch f s).cam = s.cam := rfl
@[simp] theorem onFch_hpc (f : Fch → Fch) : (onFch f s).hpc = s.hpc := rfl
@[simp] theorem onFch_nvq (f : Fch → Fch) : (onFch f s).nvq = s.nvq := rfl
@[simp] theorem onFch_qos (f : Fch → Fch) : (onFch f s).qos = s.qos := rfl
@[simp] theorem onFch_xlt (f : Fch → Fch) : (onFch f s).xlt = s.xlt := rfl
@[simp] theorem onFch_fte (f : Fch → Fch) : (onFch f s).fte = s.fte := rfl
@[simp] theorem onFch_fch (f : Fch → Fch) : (onFch f s).fch = f s.fch := rfl
@[simp] theorem onFch_sre (f : Fch → Fch) : (onFch f s).sre = s.sre := rfl
@[simp] theorem onFch_dre (f : Fch → Fch) : (onFch f s).dre = s.dre := rfl
@[simp] theorem onFch_cst (f : Fch → Fch) : (onFch f s).cst = s.cst := rfl
@[simp] theorem onFch_wel (f : Fch → Fch) : (onFch f s).wel = s.wel := rfl
@[simp] theorem onFch_pmp (f : Fch → Fch) : (onFch f s).pmp = s.pmp := rfl
@[simp] theorem onFch_mpr (f : Fch → Fch) : (onFch f s).mpr = s.mpr := rfl
@[simp] theorem onFch_flt (f : Fch → Fch) : (onFch f s).flt = s.flt := rfl
@[simp] theorem onFch_pwr (f : Fch → Fch) : (onFch f s).pwr = s.pwr := rfl
@[simp] theorem onFch_whs (f : Fch → Fch) : (onFch f s).whs = s.whs := rfl
@[simp] theorem onFch_upd (f : Fch → Fch) : (onFch f s).upd = s.upd := rfl
@[simp] theorem onFch_sec (f : Fch → Fch) : (onFch f s).sec = s.sec := rfl
@[simp] theorem onFch_sbm (f : Fch → Fch) : (onFch f s).sbm = s.sbm := rfl
@[simp] theorem onFch_drm (f : Fch → Fch) : (onFch f s).drm = s.drm := rfl
@[simp] theorem onFch_prof (f : Fch → Fch) : (onFch f s).prof = s.prof := rfl
@[simp] theorem onFch_profOn (f : Fch → Fch) : (onFch f s).profOn = s.profOn := rfl
@[simp] theorem onFch_out (f : Fch → Fch) : (onFch f s).out = s.out := rfl
@[simp] theorem onFch_free (f : Fch → Fch) : (onFch f s).free = s.free := rfl
@[simp] theorem onFch_pending (f : Fch → Fch) : (onFch f s).pending = s.pending := rfl

@[simp] theorem onSre_sys (f : Sre → Sre) : (onSre f s).sys = s.sys := rfl
@[simp] theorem onSre_pins (f : Sre → Sre) : (onSre f s).pins = s.pins := rfl
@[simp] theorem onSre_regs (f : Sre → Sre) : (onSre f s).regs = s.regs := rfl
@[simp] theorem onSre_ovr (f : Sre → Sre) : (onSre f s).ovr = s.ovr := rfl
@[simp] theorem onSre_cam (f : Sre → Sre) : (onSre f s).cam = s.cam := rfl
@[simp] theorem onSre_hpc (f : Sre → Sre) : (onSre f s).hpc = s.hpc := rfl
@[simp] theorem onSre_nvq (f : Sre → Sre) : (onSre f s).nvq = s.nvq := rfl
@[simp] theorem onSre_qos (f : Sre → Sre) : (onSre f s).qos = s.qos := rfl
@[simp] theorem onSre_xlt (f : Sre → Sre) : (onSre f s).xlt = s.xlt := rfl
@[simp] theorem onSre_fte (f : Sre → Sre) : (onSre f s).fte = s.fte := rfl
@[simp] theorem onSre_fch (f : Sre → Sre) : (onSre f s).fch = s.fch := rfl
@[simp] theorem onSre_sre (f : Sre → Sre) : (onSre f s).sre = f s.sre := rfl
@[simp] theorem onSre_dre (f : Sre → Sre) : (onSre f s).dre = s.dre := rfl
@[simp] theorem onSre_cst (f : Sre → Sre) : (onSre f s).cst = s.cst := rfl
@[simp] theorem onSre_wel (f : Sre → Sre) : (onSre f s).wel = s.wel := rfl
@[simp] theorem onSre_pmp (f : Sre → Sre) : (onSre f s).pmp = s.pmp := rfl
@[simp] theorem onSre_mpr (f : Sre → Sre) : (onSre f s).mpr = s.mpr := rfl
@[simp] theorem onSre_flt (f : Sre → Sre) : (onSre f s).flt = s.flt := rfl
@[simp] theorem onSre_pwr (f : Sre → Sre) : (onSre f s).pwr = s.pwr := rfl
@[simp] theorem onSre_whs (f : Sre → Sre) : (onSre f s).whs = s.whs := rfl
@[simp] theorem onSre_upd (f : Sre → Sre) : (onSre f s).upd = s.upd := rfl
@[simp] theorem onSre_sec (f : Sre → Sre) : (onSre f s).sec = s.sec := rfl
@[simp] theorem onSre_sbm (f : Sre → Sre) : (onSre f s).sbm = s.sbm := rfl
@[simp] theorem onSre_drm (f : Sre → Sre) : (onSre f s).drm = s.drm := rfl
@[simp] theorem onSre_prof (f : Sre → Sre) : (onSre f s).prof = s.prof := rfl
@[simp] theorem onSre_profOn (f : Sre → Sre) : (onSre f s).profOn = s.profOn := rfl
@[simp] theorem onSre_out (f : Sre → Sre) : (onSre f s).out = s.out := rfl
@[simp] theorem onSre_free (f : Sre → Sre) : (onSre f s).free = s.free := rfl
@[simp] theorem onSre_pending (f : Sre → Sre) : (onSre f s).pending = s.pending := rfl

@[simp] theorem onDre_sys (f : Dre → Dre) : (onDre f s).sys = s.sys := rfl
@[simp] theorem onDre_pins (f : Dre → Dre) : (onDre f s).pins = s.pins := rfl
@[simp] theorem onDre_regs (f : Dre → Dre) : (onDre f s).regs = s.regs := rfl
@[simp] theorem onDre_ovr (f : Dre → Dre) : (onDre f s).ovr = s.ovr := rfl
@[simp] theorem onDre_cam (f : Dre → Dre) : (onDre f s).cam = s.cam := rfl
@[simp] theorem onDre_hpc (f : Dre → Dre) : (onDre f s).hpc = s.hpc := rfl
@[simp] theorem onDre_nvq (f : Dre → Dre) : (onDre f s).nvq = s.nvq := rfl
@[simp] theorem onDre_qos (f : Dre → Dre) : (onDre f s).qos = s.qos := rfl
@[simp] theorem onDre_xlt (f : Dre → Dre) : (onDre f s).xlt = s.xlt := rfl
@[simp] theorem onDre_fte (f : Dre → Dre) : (onDre f s).fte = s.fte := rfl
@[simp] theorem onDre_fch (f : Dre → Dre) : (onDre f s).fch = s.fch := rfl
@[simp] theorem onDre_sre (f : Dre → Dre) : (onDre f s).sre = s.sre := rfl
@[simp] theorem onDre_dre (f : Dre → Dre) : (onDre f s).dre = f s.dre := rfl
@[simp] theorem onDre_cst (f : Dre → Dre) : (onDre f s).cst = s.cst := rfl
@[simp] theorem onDre_wel (f : Dre → Dre) : (onDre f s).wel = s.wel := rfl
@[simp] theorem onDre_pmp (f : Dre → Dre) : (onDre f s).pmp = s.pmp := rfl
@[simp] theorem onDre_mpr (f : Dre → Dre) : (onDre f s).mpr = s.mpr := rfl
@[simp] theorem onDre_flt (f : Dre → Dre) : (onDre f s).flt = s.flt := rfl
@[simp] theorem onDre_pwr (f : Dre → Dre) : (onDre f s).pwr = s.pwr := rfl
@[simp] theorem onDre_whs (f : Dre → Dre) : (onDre f s).whs = s.whs := rfl
@[simp] theorem onDre_upd (f : Dre → Dre) : (onDre f s).upd = s.upd := rfl
@[simp] theorem onDre_sec (f : Dre → Dre) : (onDre f s).sec = s.sec := rfl
@[simp] theorem onDre_sbm (f : Dre → Dre) : (onDre f s).sbm = s.sbm := rfl
@[simp] theorem onDre_drm (f : Dre → Dre) : (onDre f s).drm = s.drm := rfl
@[simp] theorem onDre_prof (f : Dre → Dre) : (onDre f s).prof = s.prof := rfl
@[simp] theorem onDre_profOn (f : Dre → Dre) : (onDre f s).profOn = s.profOn := rfl
@[simp] theorem onDre_out (f : Dre → Dre) : (onDre f s).out = s.out := rfl
@[simp] theorem onDre_free (f : Dre → Dre) : (onDre f s).free = s.free := rfl
@[simp] theorem onDre_pending (f : Dre → Dre) : (onDre f s).pending = s.pending := rfl

@[simp] theorem onCst_sys (f : Cst → Cst) : (onCst f s).sys = s.sys := rfl
@[simp] theorem onCst_pins (f : Cst → Cst) : (onCst f s).pins = s.pins := rfl
@[simp] theorem onCst_regs (f : Cst → Cst) : (onCst f s).regs = s.regs := rfl
@[simp] theorem onCst_ovr (f : Cst → Cst) : (onCst f s).ovr = s.ovr := rfl
@[simp] theorem onCst_cam (f : Cst → Cst) : (onCst f s).cam = s.cam := rfl
@[simp] theorem onCst_hpc (f : Cst → Cst) : (onCst f s).hpc = s.hpc := rfl
@[simp] theorem onCst_nvq (f : Cst → Cst) : (onCst f s).nvq = s.nvq := rfl
@[simp] theorem onCst_qos (f : Cst → Cst) : (onCst f s).qos = s.qos := rfl
@[simp] theorem onCst_xlt (f : Cst → Cst) : (onCst f s).xlt = s.xlt := rfl
@[simp] theorem onCst_fte (f : Cst → Cst) : (onCst f s).fte = s.fte := rfl
@[simp] theorem onCst_fch (f : Cst → Cst) : (onCst f s).fch = s.fch := rfl
@[simp] theorem onCst_sre (f : Cst → Cst) : (onCst f s).sre = s.sre := rfl
@[simp] theorem onCst_dre (f : Cst → Cst) : (onCst f s).dre = s.dre := rfl
@[simp] theorem onCst_cst (f : Cst → Cst) : (onCst f s).cst = f s.cst := rfl
@[simp] theorem onCst_wel (f : Cst → Cst) : (onCst f s).wel = s.wel := rfl
@[simp] theorem onCst_pmp (f : Cst → Cst) : (onCst f s).pmp = s.pmp := rfl
@[simp] theorem onCst_mpr (f : Cst → Cst) : (onCst f s).mpr = s.mpr := rfl
@[simp] theorem onCst_flt (f : Cst → Cst) : (onCst f s).flt = s.flt := rfl
@[simp] theorem onCst_pwr (f : Cst → Cst) : (onCst f s).pwr = s.pwr := rfl
@[simp] theorem onCst_whs (f : Cst → Cst) : (onCst f s).whs = s.whs := rfl
@[simp] theorem onCst_upd (f : Cst → Cst) : (onCst f s).upd = s.upd := rfl
@[simp] theorem onCst_sec (f : Cst → Cst) : (onCst f s).sec = s.sec := rfl
@[simp] theorem onCst_sbm (f : Cst → Cst) : (onCst f s).sbm = s.sbm := rfl
@[simp] theorem onCst_drm (f : Cst → Cst) : (onCst f s).drm = s.drm := rfl
@[simp] theorem onCst_prof (f : Cst → Cst) : (onCst f s).prof = s.prof := rfl
@[simp] theorem onCst_profOn (f : Cst → Cst) : (onCst f s).profOn = s.profOn := rfl
@[simp] theorem onCst_out (f : Cst → Cst) : (onCst f s).out = s.out := rfl
@[simp] theorem onCst_free (f : Cst → Cst) : (onCst f s).free = s.free := rfl
@[simp] theorem onCst_pending (f : Cst → Cst) : (onCst f s).pending = s.pending := rfl

@[simp] theorem onWel_sys (f : Wel → Wel) : (onWel f s).sys = s.sys := rfl
@[simp] theorem onWel_pins (f : Wel → Wel) : (onWel f s).pins = s.pins := rfl
@[simp] theorem onWel_regs (f : Wel → Wel) : (onWel f s).regs = s.regs := rfl
@[simp] theorem onWel_ovr (f : Wel → Wel) : (onWel f s).ovr = s.ovr := rfl
@[simp] theorem onWel_cam (f : Wel → Wel) : (onWel f s).cam = s.cam := rfl
@[simp] theorem onWel_hpc (f : Wel → Wel) : (onWel f s).hpc = s.hpc := rfl
@[simp] theorem onWel_nvq (f : Wel → Wel) : (onWel f s).nvq = s.nvq := rfl
@[simp] theorem onWel_qos (f : Wel → Wel) : (onWel f s).qos = s.qos := rfl
@[simp] theorem onWel_xlt (f : Wel → Wel) : (onWel f s).xlt = s.xlt := rfl
@[simp] theorem onWel_fte (f : Wel → Wel) : (onWel f s).fte = s.fte := rfl
@[simp] theorem onWel_fch (f : Wel → Wel) : (onWel f s).fch = s.fch := rfl
@[simp] theorem onWel_sre (f : Wel → Wel) : (onWel f s).sre = s.sre := rfl
@[simp] theorem onWel_dre (f : Wel → Wel) : (onWel f s).dre = s.dre := rfl
@[simp] theorem onWel_cst (f : Wel → Wel) : (onWel f s).cst = s.cst := rfl
@[simp] theorem onWel_wel (f : Wel → Wel) : (onWel f s).wel = f s.wel := rfl
@[simp] theorem onWel_pmp (f : Wel → Wel) : (onWel f s).pmp = s.pmp := rfl
@[simp] theorem onWel_mpr (f : Wel → Wel) : (onWel f s).mpr = s.mpr := rfl
@[simp] theorem onWel_flt (f : Wel → Wel) : (onWel f s).flt = s.flt := rfl
@[simp] theorem onWel_pwr (f : Wel → Wel) : (onWel f s).pwr = s.pwr := rfl
@[simp] theorem onWel_whs (f : Wel → Wel) : (onWel f s).whs = s.whs := rfl
@[simp] theorem onWel_upd (f : Wel → Wel) : (onWel f s).upd = s.upd := rfl
@[simp] theorem onWel_sec (f : Wel → Wel) : (onWel f s).sec = s.sec := rfl
@[simp] theorem onWel_sbm (f : Wel → Wel) : (onWel f s).sbm = s.sbm := rfl
@[simp] theorem onWel_drm (f : Wel → Wel) : (onWel f s).drm = s.drm := rfl
@[simp] theorem onWel_prof (f : Wel → Wel) : (onWel f s).prof = s.prof := rfl
@[simp] theorem onWel_profOn (f : Wel → Wel) : (onWel f s).profOn = s.profOn := rfl
@[simp] theorem onWel_out (f : Wel → Wel) : (onWel f s).out = s.out := rfl
@[simp] theorem onWel_free (f : Wel → Wel) : (onWel f s).free = s.free := rfl
@[simp] theorem onWel_pending (f : Wel → Wel) : (onWel f s).pending = s.pending := rfl

@[simp] theorem onPmp_sys (f : Pmp → Pmp) : (onPmp f s).sys = s.sys := rfl
@[simp] theorem onPmp_pins (f : Pmp → Pmp) : (onPmp f s).pins = s.pins := rfl
@[simp] theorem onPmp_regs (f : Pmp → Pmp) : (onPmp f s).regs = s.regs := rfl
@[simp] theorem onPmp_ovr (f : Pmp → Pmp) : (onPmp f s).ovr = s.ovr := rfl
@[simp] theorem onPmp_cam (f : Pmp → Pmp) : (onPmp f s).cam = s.cam := rfl
@[simp] theorem onPmp_hpc (f : Pmp → Pmp) : (onPmp f s).hpc = s.hpc := rfl
@[simp] theorem onPmp_nvq (f : Pmp → Pmp) : (onPmp f s).nvq = s.nvq := rfl
@[simp] theorem onPmp_qos (f : Pmp → Pmp) : (onPmp f s).qos = s.qos := rfl
@[simp] theorem onPmp_xlt (f : Pmp → Pmp) : (onPmp f s).xlt = s.xlt := rfl
@[simp] theorem onPmp_fte (f : Pmp → Pmp) : (onPmp f s).fte = s.fte := rfl
@[simp] theorem onPmp_fch (f : Pmp → Pmp) : (onPmp f s).fch = s.fch := rfl
@[simp] theorem onPmp_sre (f : Pmp → Pmp) : (onPmp f s).sre = s.sre := rfl
@[simp] theorem onPmp_dre (f : Pmp → Pmp) : (onPmp f s).dre = s.dre := rfl
@[simp] theorem onPmp_cst (f : Pmp → Pmp) : (onPmp f s).cst = s.cst := rfl
@[simp] theorem onPmp_wel (f : Pmp → Pmp) : (onPmp f s).wel = s.wel := rfl
@[simp] theorem onPmp_pmp (f : Pmp → Pmp) : (onPmp f s).pmp = f s.pmp := rfl
@[simp] theorem onPmp_mpr (f : Pmp → Pmp) : (onPmp f s).mpr = s.mpr := rfl
@[simp] theorem onPmp_flt (f : Pmp → Pmp) : (onPmp f s).flt = s.flt := rfl
@[simp] theorem onPmp_pwr (f : Pmp → Pmp) : (onPmp f s).pwr = s.pwr := rfl
@[simp] theorem onPmp_whs (f : Pmp → Pmp) : (onPmp f s).whs = s.whs := rfl
@[simp] theorem onPmp_upd (f : Pmp → Pmp) : (onPmp f s).upd = s.upd := rfl
@[simp] theorem onPmp_sec (f : Pmp → Pmp) : (onPmp f s).sec = s.sec := rfl
@[simp] theorem onPmp_sbm (f : Pmp → Pmp) : (onPmp f s).sbm = s.sbm := rfl
@[simp] theorem onPmp_drm (f : Pmp → Pmp) : (onPmp f s).drm = s.drm := rfl
@[simp] theorem onPmp_prof (f : Pmp → Pmp) : (onPmp f s).prof = s.prof := rfl
@[simp] theorem onPmp_profOn (f : Pmp → Pmp) : (onPmp f s).profOn = s.profOn := rfl
@[simp] theorem onPmp_out (f : Pmp → Pmp) : (onPmp f s).out = s.out := rfl
@[simp] theorem onPmp_free (f : Pmp → Pmp) : (onPmp f s).free = s.free := rfl
@[simp] theorem onPmp_pending (f : Pmp → Pmp) : (onPmp f s).pending = s.pending := rfl

@[simp] theorem onMpr_sys (f : Mpr → Mpr) : (onMpr f s).sys = s.sys := rfl
@[simp] theorem onMpr_pins (f : Mpr → Mpr) : (onMpr f s).pins = s.pins := rfl
@[simp] theorem onMpr_regs (f : Mpr → Mpr) : (onMpr f s).regs = s.regs := rfl
@[simp] theorem onMpr_ovr (f : Mpr → Mpr) : (onMpr f s).ovr = s.ovr := rfl
@[simp] theorem onMpr_cam (f : Mpr → Mpr) : (onMpr f s).cam = s.cam := rfl
@[simp] theorem onMpr_hpc (f : Mpr → Mpr) : (onMpr f s).hpc = s.hpc := rfl
@[simp] theorem onMpr_nvq (f : Mpr → Mpr) : (onMpr f s).nvq = s.nvq := rfl
@[simp] theorem onMpr_qos (f : Mpr → Mpr) : (onMpr f s).qos = s.qos := rfl
@[simp] theorem onMpr_xlt (f : Mpr → Mpr) : (onMpr f s).xlt = s.xlt := rfl
@[simp] theorem onMpr_fte (f : Mpr → Mpr) : (onMpr f s).fte = s.fte := rfl
@[simp] theorem onMpr_fch (f : Mpr → Mpr) : (onMpr f s).fch = s.fch := rfl
@[simp] theorem onMpr_sre (f : Mpr → Mpr) : (onMpr f s).sre = s.sre := rfl
@[simp] theorem onMpr_dre (f : Mpr → Mpr) : (onMpr f s).dre = s.dre := rfl
@[simp] theorem onMpr_cst (f : Mpr → Mpr) : (onMpr f s).cst = s.cst := rfl
@[simp] theorem onMpr_wel (f : Mpr → Mpr) : (onMpr f s).wel = s.wel := rfl
@[simp] theorem onMpr_pmp (f : Mpr → Mpr) : (onMpr f s).pmp = s.pmp := rfl
@[simp] theorem onMpr_mpr (f : Mpr → Mpr) : (onMpr f s).mpr = f s.mpr := rfl
@[simp] theorem onMpr_flt (f : Mpr → Mpr) : (onMpr f s).flt = s.flt := rfl
@[simp] theorem onMpr_pwr (f : Mpr → Mpr) : (onMpr f s).pwr = s.pwr := rfl
@[simp] theorem onMpr_whs (f : Mpr → Mpr) : (onMpr f s).whs = s.whs := rfl
@[simp] theorem onMpr_upd (f : Mpr → Mpr) : (onMpr f s).upd = s.upd := rfl
@[simp] theorem onMpr_sec (f : Mpr → Mpr) : (onMpr f s).sec = s.sec := rfl
@[simp] theorem onMpr_sbm (f : Mpr → Mpr) : (onMpr f s).sbm = s.sbm := rfl
@[simp] theorem onMpr_drm (f : Mpr → Mpr) : (onMpr f s).drm = s.drm := rfl
@[simp] theorem onMpr_prof (f : Mpr → Mpr) : (onMpr f s).prof = s.prof := rfl
@[simp] theorem onMpr_profOn (f : Mpr → Mpr) : (onMpr f s).profOn = s.profOn := rfl
@[simp] theorem onMpr_out (f : Mpr → Mpr) : (onMpr f s).out = s.out := rfl
@[simp] theorem onMpr_free (f : Mpr → Mpr) : (onMpr f s).free = s.free := rfl
@[simp] theorem onMpr_pending (f : Mpr → Mpr) : (onMpr f s).pending = s.pending := rfl

@[simp] theorem onFlt_sys (f : Flt → Flt) : (onFlt f s).sys = s.sys := rfl
@[simp] theorem onFlt_pins (f : Flt → Flt) : (onFlt f s).pins = s.pins := rfl
@[simp] theorem onFlt_regs (f : Flt → Flt) : (onFlt f s).regs = s.regs := rfl
@[simp] theorem onFlt_ovr (f : Flt → Flt) : (onFlt f s).ovr = s.ovr := rfl
@[simp] theorem onFlt_cam (f : Flt → Flt) : (onFlt f s).cam = s.cam := rfl
@[simp] theorem onFlt_hpc (f : Flt → Flt) : (onFlt f s).hpc = s.hpc := rfl
@[simp] theorem onFlt_nvq (f : Flt → Flt) : (onFlt f s).nvq = s.nvq := rfl
@[simp] theorem onFlt_qos (f : Flt → Flt) : (onFlt f s).qos = s.qos := rfl
@[simp] theorem onFlt_xlt (f : Flt → Flt) : (onFlt f s).xlt = s.xlt := rfl
@[simp] theorem onFlt_fte (f : Flt → Flt) : (onFlt f s).fte = s.fte := rfl
@[simp] theorem onFlt_fch (f : Flt → Flt) : (onFlt f s).fch = s.fch := rfl
@[simp] theorem onFlt_sre (f : Flt → Flt) : (onFlt f s).sre = s.sre := rfl
@[simp] theorem onFlt_dre (f : Flt → Flt) : (onFlt f s).dre = s.dre := rfl
@[simp] theorem onFlt_cst (f : Flt → Flt) : (onFlt f s).cst = s.cst := rfl
@[simp] theorem onFlt_wel (f : Flt → Flt) : (onFlt f s).wel = s.wel := rfl
@[simp] theorem onFlt_pmp (f : Flt → Flt) : (onFlt f s).pmp = s.pmp := rfl
@[simp] theorem onFlt_mpr (f : Flt → Flt) : (onFlt f s).mpr = s.mpr := rfl
@[simp] theorem onFlt_flt (f : Flt → Flt) : (onFlt f s).flt = f s.flt := rfl
@[simp] theorem onFlt_pwr (f : Flt → Flt) : (onFlt f s).pwr = s.pwr := rfl
@[simp] theorem onFlt_whs (f : Flt → Flt) : (onFlt f s).whs = s.whs := rfl
@[simp] theorem onFlt_upd (f : Flt → Flt) : (onFlt f s).upd = s.upd := rfl
@[simp] theorem onFlt_sec (f : Flt → Flt) : (onFlt f s).sec = s.sec := rfl
@[simp] theorem onFlt_sbm (f : Flt → Flt) : (onFlt f s).sbm = s.sbm := rfl
@[simp] theorem onFlt_drm (f : Flt → Flt) : (onFlt f s).drm = s.drm := rfl
@[simp] theorem onFlt_prof (f : Flt → Flt) : (onFlt f s).prof = s.prof := rfl
@[simp] theorem onFlt_profOn (f : Flt → Flt) : (onFlt f s).profOn = s.profOn := rfl
@[simp] theorem onFlt_out (f : Flt → Flt) : (onFlt f s).out = s.out := rfl
@[simp] theorem onFlt_free (f : Flt → Flt) : (onFlt f s).free = s.free := rfl
@[simp] theorem onFlt_pending (f : Flt → Flt) : (onFlt f s).pending = s.pending := rfl

@[simp] theorem onPwr_sys (f : Pwr → Pwr) : (onPwr f s).sys = s.sys := rfl
@[simp] theorem onPwr_pins (f : Pwr → Pwr) : (onPwr f s).pins = s.pins := rfl
@[simp] theorem onPwr_regs (f : Pwr → Pwr) : (onPwr f s).regs = s.regs := rfl
@[simp] theorem onPwr_ovr (f : Pwr → Pwr) : (onPwr f s).ovr = s.ovr := rfl
@[simp] theorem onPwr_cam (f : Pwr → Pwr) : (onPwr f s).cam = s.cam := rfl
@[simp] theorem onPwr_hpc (f : Pwr → Pwr) : (onPwr f s).hpc = s.hpc := rfl
@[simp] theorem onPwr_nvq (f : Pwr → Pwr) : (onPwr f s).nvq = s.nvq := rfl
@[simp] theorem onPwr_qos (f : Pwr → Pwr) : (onPwr f s).qos = s.qos := rfl
@[simp] theorem onPwr_xlt (f : Pwr → Pwr) : (onPwr f s).xlt = s.xlt := rfl
@[simp] theorem onPwr_fte (f : Pwr → Pwr) : (onPwr f s).fte = s.fte := rfl
@[simp] theorem onPwr_fch (f : Pwr → Pwr) : (onPwr f s).fch = s.fch := rfl
@[simp] theorem onPwr_sre (f : Pwr → Pwr) : (onPwr f s).sre = s.sre := rfl
@[simp] theorem onPwr_dre (f : Pwr → Pwr) : (onPwr f s).dre = s.dre := rfl
@[simp] theorem onPwr_cst (f : Pwr → Pwr) : (onPwr f s).cst = s.cst := rfl
@[simp] theorem onPwr_wel (f : Pwr → Pwr) : (onPwr f s).wel = s.wel := rfl
@[simp] theorem onPwr_pmp (f : Pwr → Pwr) : (onPwr f s).pmp = s.pmp := rfl
@[simp] theorem onPwr_mpr (f : Pwr → Pwr) : (onPwr f s).mpr = s.mpr := rfl
@[simp] theorem onPwr_flt (f : Pwr → Pwr) : (onPwr f s).flt = s.flt := rfl
@[simp] theorem onPwr_pwr (f : Pwr → Pwr) : (onPwr f s).pwr = f s.pwr := rfl
@[simp] theorem onPwr_whs (f : Pwr → Pwr) : (onPwr f s).whs = s.whs := rfl
@[simp] theorem onPwr_upd (f : Pwr → Pwr) : (onPwr f s).upd = s.upd := rfl
@[simp] theorem onPwr_sec (f : Pwr → Pwr) : (onPwr f s).sec = s.sec := rfl
@[simp] theorem onPwr_sbm (f : Pwr → Pwr) : (onPwr f s).sbm = s.sbm := rfl
@[simp] theorem onPwr_drm (f : Pwr → Pwr) : (onPwr f s).drm = s.drm := rfl
@[simp] theorem onPwr_prof (f : Pwr → Pwr) : (onPwr f s).prof = s.prof := rfl
@[simp] theorem onPwr_profOn (f : Pwr → Pwr) : (onPwr f s).profOn = s.profOn := rfl
@[simp] theorem onPwr_out (f : Pwr → Pwr) : (onPwr f s).out = s.out := rfl
@[simp] theorem onPwr_free (f : Pwr → Pwr) : (onPwr f s).free = s.free := rfl
@[simp] theorem onPwr_pending (f : Pwr → Pwr) : (onPwr f s).pending = s.pending := rfl

@[simp] theorem onWhs_sys (f : Whs → Whs) : (onWhs f s).sys = s.sys := rfl
@[simp] theorem onWhs_pins (f : Whs → Whs) : (onWhs f s).pins = s.pins := rfl
@[simp] theorem onWhs_regs (f : Whs → Whs) : (onWhs f s).regs = s.regs := rfl
@[simp] theorem onWhs_ovr (f : Whs → Whs) : (onWhs f s).ovr = s.ovr := rfl
@[simp] theorem onWhs_cam (f : Whs → Whs) : (onWhs f s).cam = s.cam := rfl
@[simp] theorem onWhs_hpc (f : Whs → Whs) : (onWhs f s).hpc = s.hpc := rfl
@[simp] theorem onWhs_nvq (f : Whs → Whs) : (onWhs f s).nvq = s.nvq := rfl
@[simp] theorem onWhs_qos (f : Whs → Whs) : (onWhs f s).qos = s.qos := rfl
@[simp] theorem onWhs_xlt (f : Whs → Whs) : (onWhs f s).xlt = s.xlt := rfl
@[simp] theorem onWhs_fte (f : Whs → Whs) : (onWhs f s).fte = s.fte := rfl
@[simp] theorem onWhs_fch (f : Whs → Whs) : (onWhs f s).fch = s.fch := rfl
@[simp] theorem onWhs_sre (f : Whs → Whs) : (onWhs f s).sre = s.sre := rfl
@[simp] theorem onWhs_dre (f : Whs → Whs) : (onWhs f s).dre = s.dre := rfl
@[simp] theorem onWhs_cst (f : Whs → Whs) : (onWhs f s).cst = s.cst := rfl
@[simp] theorem onWhs_wel (f : Whs → Whs) : (onWhs f s).wel = s.wel := rfl
@[simp] theorem onWhs_pmp (f : Whs → Whs) : (onWhs f s).pmp = s.pmp := rfl
@[simp] theorem onWhs_mpr (f : Whs → Whs) : (onWhs f s).mpr = s.mpr := rfl
@[simp] theorem onWhs_flt (f : Whs → Whs) : (onWhs f s).flt = s.flt := rfl
@[simp] theorem onWhs_pwr (f : Whs → Whs) : (onWhs f s).pwr = s.pwr := rfl
@[simp] theorem onWhs_whs (f : Whs → Whs) : (onWhs f s).whs = f s.whs := rfl
@[simp] theorem onWhs_upd (f : Whs → Whs) : (onWhs f s).upd = s.upd := rfl
@[simp] theorem onWhs_sec (f : Whs → Whs) : (onWhs f s).sec = s.sec := rfl
@[simp] theorem onWhs_sbm (f : Whs → Whs) : (onWhs f s).sbm = s.sbm := rfl
@[simp] theorem onWhs_drm (f : Whs → Whs) : (onWhs f s).drm = s.drm := rfl
@[simp] theorem onWhs_prof (f : Whs → Whs) : (onWhs f s).prof = s.prof := rfl
@[simp] theorem onWhs_profOn (f : Whs → Whs) : (onWhs f s).profOn = s.profOn := rfl
@[simp] theorem onWhs_out (f : Whs → Whs) : (onWhs f s).out = s.out := rfl
@[simp] theorem onWhs_free (f : Whs → Whs) : (onWhs f s).free = s.free := rfl
@[simp] theorem onWhs_pending (f : Whs → Whs) : (onWhs f s).pending = s.pending := rfl

@[simp] theorem onUpd_sys (f : Upd → Upd) : (onUpd f s).sys = s.sys := rfl
@[simp] theorem onUpd_pins (f : Upd → Upd) : (onUpd f s).pins = s.pins := rfl
@[simp] theorem onUpd_regs (f : Upd → Upd) : (onUpd f s).regs = s.regs := rfl
@[simp] theorem onUpd_ovr (f : Upd → Upd) : (onUpd f s).ovr = s.ovr := rfl
@[simp] theorem onUpd_cam (f : Upd → Upd) : (onUpd f s).cam = s.cam := rfl
@[simp] theorem onUpd_hpc (f : Upd → Upd) : (onUpd f s).hpc = s.hpc := rfl
@[simp] theorem onUpd_nvq (f : Upd → Upd) : (onUpd f s).nvq = s.nvq := rfl
@[simp] theorem onUpd_qos (f : Upd → Upd) : (onUpd f s).qos = s.qos := rfl
@[simp] theorem onUpd_xlt (f : Upd → Upd) : (onUpd f s).xlt = s.xlt := rfl
@[simp] theorem onUpd_fte (f : Upd → Upd) : (onUpd f s).fte = s.fte := rfl
@[simp] theorem onUpd_fch (f : Upd → Upd) : (onUpd f s).fch = s.fch := rfl
@[simp] theorem onUpd_sre (f : Upd → Upd) : (onUpd f s).sre = s.sre := rfl
@[simp] theorem onUpd_dre (f : Upd → Upd) : (onUpd f s).dre = s.dre := rfl
@[simp] theorem onUpd_cst (f : Upd → Upd) : (onUpd f s).cst = s.cst := rfl
@[simp] theorem onUpd_wel (f : Upd → Upd) : (onUpd f s).wel = s.wel := rfl
@[simp] theorem onUpd_pmp (f : Upd → Upd) : (onUpd f s).pmp = s.pmp := rfl
@[simp] theorem onUpd_mpr (f : Upd → Upd) : (onUpd f s).mpr = s.mpr := rfl
@[simp] theorem onUpd_flt (f : Upd → Upd) : (onUpd f s).flt = s.flt := rfl
@[simp] theorem onUpd_pwr (f : Upd → Upd) : (onUpd f s).pwr = s.pwr := rfl
@[simp] theorem onUpd_whs (f : Upd → Upd) : (onUpd f s).whs = s.whs := rfl
@[simp] theorem onUpd_upd (f : Upd → Upd) : (onUpd f s).upd = f s.upd := rfl
@[simp] theorem onUpd_sec (f : Upd → Upd) : (onUpd f s).sec = s.sec := rfl
@[simp] theorem onUpd_sbm (f : Upd → Upd) : (onUpd f s).sbm = s.sbm := rfl
@[simp] theorem onUpd_drm (f : Upd → Upd) : (onUpd f s).drm = s.drm := rfl
@[simp] theorem onUpd_prof (f : Upd → Upd) : (onUpd f s).prof = s.prof := rfl
@[simp] theorem onUpd_profOn (f : Upd → Upd) : (onUpd f s).profOn = s.profOn := rfl
@[simp] theorem onUpd_out (f : Upd → Upd) : (onUpd f s).out = s.out := rfl
@[simp] theorem onUpd_free (f : Upd → Upd) : (onUpd f s).free = s.free := rfl
@[simp] theorem onUpd_pending (f : Upd → Upd) : (onUpd f s).pending = s.pending := rfl

@[simp] theorem onSec_sys (f : Sec → Sec) : (onSec f s).sys = s.sys := rfl
@[simp] theorem onSec_pins (f : Sec → Sec) : (onSec f s).pins = s.pins := rfl
@[simp] theorem onSec_regs (f : Sec → Sec) : (onSec f s).regs = s.regs := rfl
@[simp] theorem onSec_ovr (f : Sec → Sec) : (onSec f s).ovr = s.ovr := rfl
@[simp] theorem onSec_cam (f : Sec → Sec) : (onSec f s).cam = s.cam := rfl
@[simp] theorem onSec_hpc (f : Sec → Sec) : (onSec f s).hpc = s.hpc := rfl
@[simp] theorem onSec_nvq (f : Sec → Sec) : (onSec f s).nvq = s.nvq := rfl
@[simp] theorem onSec_qos (f : Sec → Sec) : (onSec f s).qos = s.qos := rfl
@[simp] theorem onSec_xlt (f : Sec → Sec) : (onSec f s).xlt = s.xlt := rfl
@[simp] theorem onSec_fte (f : Sec → Sec) : (onSec f s).fte = s.fte := rfl
@[simp] theorem onSec_fch (f : Sec → Sec) : (onSec f s).fch = s.fch := rfl
@[simp] theorem onSec_sre (f : Sec → Sec) : (onSec f s).sre = s.sre := rfl
@[simp] theorem onSec_dre (f : Sec → Sec) : (onSec f s).dre = s.dre := rfl
@[simp] theorem onSec_cst (f : Sec → Sec) : (onSec f s).cst = s.cst := rfl
@[simp] theorem onSec_wel (f : Sec → Sec) : (onSec f s).wel = s.wel := rfl
@[simp] theorem onSec_pmp (f : Sec → Sec) : (onSec f s).pmp = s.pmp := rfl
@[simp] theorem onSec_mpr (f : Sec → Sec) : (onSec f s).mpr = s.mpr := rfl
@[simp] theorem onSec_flt (f : Sec → Sec) : (onSec f s).flt = s.flt := rfl
@[simp] theorem onSec_pwr (f : Sec → Sec) : (onSec f s).pwr = s.pwr := rfl
@[simp] theorem onSec_whs (f : Sec → Sec) : (onSec f s).whs = s.whs := rfl
@[simp] theorem onSec_upd (f : Sec → Sec) : (onSec f s).upd = s.upd := rfl
@[simp] theorem onSec_sec (f : Sec → Sec) : (onSec f s).sec = f s.sec := rfl
@[simp] theorem onSec_sbm (f : Sec → Sec) : (onSec f s).sbm = s.sbm := rfl
@[simp] theorem onSec_drm (f : Sec → Sec) : (onSec f s).drm = s.drm := rfl
@[simp] theorem onSec_prof (f : Sec → Sec) : (onSec f s).prof = s.prof := rfl
@[simp] theorem onSec_profOn (f : Sec → Sec) : (onSec f s).profOn = s.profOn := rfl
@[simp] theorem onSec_out (f : Sec → Sec) : (onSec f s).out = s.out := rfl
@[simp] theorem onSec_free (f : Sec → Sec) : (onSec f s).free = s.free := rfl
@[simp] theorem onSec_pending (f : Sec → Sec) : (onSec f s).pending = s.pending := rfl

@[simp] theorem onSbm_sys (f : Sbm → Sbm) : (onSbm f s).sys = s.sys := rfl
@[simp] theorem onSbm_pins (f : Sbm → Sbm) : (onSbm f s).pins = s.pins := rfl
@[simp] theorem onSbm_regs (f : Sbm → Sbm) : (onSbm f s).regs = s.regs := rfl
@[simp] theorem onSbm_ovr (f : Sbm → Sbm) : (onSbm f s).ovr = s.ovr := rfl
@[simp] theorem onSbm_cam (f : Sbm → Sbm) : (onSbm f s).cam = s.cam := rfl
@[simp] theorem onSbm_hpc (f : Sbm → Sbm) : (onSbm f s).hpc = s.hpc := rfl
@[simp] theorem onSbm_nvq (f : Sbm → Sbm) : (onSbm f s).nvq = s.nvq := rfl
@[simp] theorem onSbm_qos (f : Sbm → Sbm) : (onSbm f s).qos = s.qos := rfl
@[simp] theorem onSbm_xlt (f : Sbm → Sbm) : (onSbm f s).xlt = s.xlt := rfl
@[simp] theorem onSbm_fte (f : Sbm → Sbm) : (onSbm f s).fte = s.fte := rfl
@[simp] theorem onSbm_fch (f : Sbm → Sbm) : (onSbm f s).fch = s.fch := rfl
@[simp] theorem onSbm_sre (f : Sbm → Sbm) : (onSbm f s).sre = s.sre := rfl
@[simp] theorem onSbm_dre (f : Sbm → Sbm) : (onSbm f s).dre = s.dre := rfl
@[simp] theorem onSbm_cst (f : Sbm → Sbm) : (onSbm f s).cst = s.cst := rfl
@[simp] theorem onSbm_wel (f : Sbm → Sbm) : (onSbm f s).wel = s.wel := rfl
@[simp] theorem onSbm_pmp (f : Sbm → Sbm) : (onSbm f s).pmp = s.pmp := rfl
@[simp] theorem onSbm_mpr (f : Sbm → Sbm) : (onSbm f s).mpr = s.mpr := rfl
@[simp] theorem onSbm_flt (f : Sbm → Sbm) : (onSbm f s).flt = s.flt := rfl
@[simp] theorem onSbm_pwr (f : Sbm → Sbm) : (onSbm f s).pwr = s.pwr := rfl
@[simp] theorem onSbm_whs (f : Sbm → Sbm) : (onSbm f s).whs = s.whs := rfl
@[simp] theorem onSbm_upd (f : Sbm → Sbm) : (onSbm f s).upd = s.upd := rfl
@[simp] theorem onSbm_sec (f : Sbm → Sbm) : (onSbm f s).sec = s.sec := rfl
@[simp] theorem onSbm_sbm (f : Sbm → Sbm) : (onSbm f s).sbm = f s.sbm := rfl
@[simp] theorem onSbm_drm (f : Sbm → Sbm) : (onSbm f s).drm = s.drm := rfl
@[simp] theorem onSbm_prof (f : Sbm → Sbm) : (onSbm f s).prof = s.prof := rfl
@[simp] theorem onSbm_profOn (f : Sbm → Sbm) : (onSbm f s).profOn = s.profOn := rfl
@[simp] theorem onSbm_out (f : Sbm → Sbm) : (onSbm f s).out = s.out := rfl
@[simp] theorem onSbm_free (f : Sbm → Sbm) : (onSbm f s).free = s.free := rfl
@[simp] theorem onSbm_pending (f : Sbm → Sbm) : (onSbm f s).pending = s.pending := rfl

@[simp] theorem onDrm_sys (f : Drm → Drm) : (onDrm f s).sys = s.sys := rfl
@[simp] theorem onDrm_pins (f : Drm → Drm) : (onDrm f s).pins = s.pins := rfl
@[simp] theorem onDrm_regs (f : Drm → Drm) : (onDrm f s).regs = s.regs := rfl
@[simp] theorem onDrm_ovr (f : Drm → Drm) : (onDrm f s).ovr = s.ovr := rfl
@[simp] theorem onDrm_cam (f : Drm → Drm) : (onDrm f s).cam = s.cam := rfl
@[simp] theorem onDrm_hpc (f : Drm → Drm) : (onDrm f s).hpc = s.hpc := rfl
@[simp] theorem onDrm_nvq (f : Drm → Drm) : (onDrm f s).nvq = s.nvq := rfl
@[simp] theorem onDrm_qos (f : Drm → Drm) : (onDrm f s).qos = s.qos := rfl
@[simp] theorem onDrm_xlt (f : Drm → Drm) : (onDrm f s).xlt = s.xlt := rfl
@[simp] theorem onDrm_fte (f : Drm → Drm) : (onDrm f s).fte = s.fte := rfl
@[simp] theorem onDrm_fch (f : Drm → Drm) : (onDrm f s).fch = s.fch := rfl
@[simp] theorem onDrm_sre (f : Drm → Drm) : (onDrm f s).sre = s.sre := rfl
@[simp] theorem onDrm_dre (f : Drm → Drm) : (onDrm f s).dre = s.dre := rfl
@[simp] theorem onDrm_cst (f : Drm → Drm) : (onDrm f s).cst = s.cst := rfl
@[simp] theorem onDrm_wel (f : Drm → Drm) : (onDrm f s).wel = s.wel := rfl
@[simp] theorem onDrm_pmp (f : Drm → Drm) : (onDrm f s).pmp = s.pmp := rfl
@[simp] theorem onDrm_mpr (f : Drm → Drm) : (onDrm f s).mpr = s.mpr := rfl
@[simp] theorem onDrm_flt (f : Drm → Drm) : (onDrm f s).flt = s.flt := rfl
@[simp] theorem onDrm_pwr (f : Drm → Drm) : (onDrm f s).pwr = s.pwr := rfl
@[simp] theorem onDrm_whs (f : Drm → Drm) : (onDrm f s).whs = s.whs := rfl
@[simp] theorem onDrm_upd (f : Drm → Drm) : (onDrm f s).upd = s.upd := rfl
@[simp] theorem onDrm_sec (f : Drm → Drm) : (onDrm f s).sec = s.sec := rfl
@[simp] theorem onDrm_sbm (f : Drm → Drm) : (onDrm f s).sbm = s.sbm := rfl
@[simp] theorem onDrm_drm (f : Drm → Drm) : (onDrm f s).drm = f s.drm := rfl
@[simp] theorem onDrm_prof (f : Drm → Drm) : (onDrm f s).prof = s.prof := rfl
@[simp] theorem onDrm_profOn (f : Drm → Drm) : (onDrm f s).profOn = s.profOn := rfl
@[simp] theorem onDrm_out (f : Drm → Drm) : (onDrm f s).out = s.out := rfl
@[simp] theorem onDrm_free (f : Drm → Drm) : (onDrm f s).free = s.free := rfl
@[simp] theorem onDrm_pending (f : Drm → Drm) : (onDrm f s).pending = s.pending := rfl

@[simp] theorem emit_sys (o : Output) : (emit o s).sys = s.sys := rfl
@[simp] theorem emit_pins (o : Output) : (emit o s).pins = s.pins := rfl
@[simp] theorem emit_regs (o : Output) : (emit o s).regs = s.regs := rfl
@[simp] theorem emit_ovr (o : Output) : (emit o s).ovr = s.ovr := rfl
@[simp] theorem emit_cam (o : Output) : (emit o s).cam = s.cam := rfl
@[simp] theorem emit_hpc (o : Output) : (emit o s).hpc = s.hpc := rfl
@[simp] theorem emit_nvq (o : Output) : (emit o s).nvq = s.nvq := rfl
@[simp] theorem emit_qos (o : Output) : (emit o s).qos = s.qos := rfl
@[simp] theorem emit_xlt (o : Output) : (emit o s).xlt = s.xlt := rfl
@[simp] theorem emit_fte (o : Output) : (emit o s).fte = s.fte := rfl
@[simp] theorem emit_fch (o : Output) : (emit o s).fch = s.fch := rfl
@[simp] theorem emit_sre (o : Output) : (emit o s).sre = s.sre := rfl
@[simp] theorem emit_dre (o : Output) : (emit o s).dre = s.dre := rfl
@[simp] theorem emit_cst (o : Output) : (emit o s).cst = s.cst := rfl
@[simp] theorem emit_wel (o : Output) : (emit o s).wel = s.wel := rfl
@[simp] theorem emit_pmp (o : Output) : (emit o s).pmp = s.pmp := rfl
@[simp] theorem emit_mpr (o : Output) : (emit o s).mpr = s.mpr := rfl
@[simp] theorem emit_flt (o : Output) : (emit o s).flt = s.flt := rfl
@[simp] theorem emit_pwr (o : Output) : (emit o s).pwr = s.pwr := rfl
@[simp] theorem emit_whs (o : Output) : (emit o s).whs = s.whs := rfl
@[simp] theorem emit_upd (o : Output) : (emit o s).upd = s.upd := rfl
@[simp] theorem emit_sec (o : Output) : (emit o s).sec = s.sec := rfl
@[simp] theorem emit_sbm (o : Output) : (emit o s).sbm = s.sbm := rfl
@[simp] theorem emit_drm (o : Output) : (emit o s).drm = s.drm := rfl
@[simp] theorem emit_prof (o : Output) : (emit o s).prof = s.prof := rfl
@[simp] theorem emit_profOn (o : Output) : (emit o s).profOn = s.profOn := rfl
@[simp] theorem emit_out (o : Output) : (emit o s).out = o :: s.out := rfl
@[simp] theorem emit_free (o : Output) : (emit o s).free = s.free := rfl
@[simp] theorem emit_pending (o : Output) : (emit o s).pending = s.pending := rfl

@[simp] theorem drawn_sys : (drawn s).sys = s.sys := rfl
@[simp] theorem drawn_pins : (drawn s).pins = s.pins := rfl
@[simp] theorem drawn_regs : (drawn s).regs = s.regs := rfl
@[simp] theorem drawn_ovr : (drawn s).ovr = s.ovr := rfl
@[simp] theorem drawn_cam : (drawn s).cam = s.cam := rfl
@[simp] theorem drawn_hpc : (drawn s).hpc = s.hpc := rfl
@[simp] theorem drawn_nvq : (drawn s).nvq = s.nvq := rfl
@[simp] theorem drawn_qos : (drawn s).qos = s.qos := rfl
@[simp] theorem drawn_xlt : (drawn s).xlt = s.xlt := rfl
@[simp] theorem drawn_fte : (drawn s).fte = s.fte := rfl
@[simp] theorem drawn_fch : (drawn s).fch = s.fch := rfl
@[simp] theorem drawn_sre : (drawn s).sre = s.sre := rfl
@[simp] theorem drawn_dre : (drawn s).dre = s.dre := rfl
@[simp] theorem drawn_cst : (drawn s).cst = s.cst := rfl
@[simp] theorem drawn_wel : (drawn s).wel = s.wel := rfl
@[simp] theorem drawn_pmp : (drawn s).pmp = s.pmp := rfl
@[simp] theorem drawn_mpr : (drawn s).mpr = s.mpr := rfl
@[simp] theorem drawn_flt : (drawn s).flt = s.flt := rfl
@[simp] theorem drawn_pwr : (drawn s).pwr = s.pwr := rfl
@[simp] theorem drawn_whs : (drawn s).whs = s.whs := rfl
@[simp] theorem drawn_upd : (drawn s).upd = s.upd := rfl
@[simp] theorem drawn_sec : (drawn s).sec = s.sec := rfl
@[simp] theorem drawn_sbm : (drawn s).sbm = s.sbm := rfl
@[simp] theorem drawn_drm : (drawn s).drm = s.drm := rfl
@[simp] theorem drawn_prof : (drawn s).prof = s.prof := rfl
@[simp] theorem drawn_profOn : (drawn s).profOn = s.profOn := rfl
@[simp] theorem drawn_out : (drawn s).out = s.out := rfl
@[simp] theorem drawn_free : (drawn s).free = s.free + 1 := rfl
@[simp] theorem drawn_pending : (drawn s).pending = s.pending := rfl

@[simp] theorem setReg_sys (r : RegId) (i : Nat) (w : Word) : (setReg r i w s).sys = s.sys := rfl
@[simp] theorem setReg_pins (r : RegId) (i : Nat) (w : Word) : (setReg r i w s).pins = s.pins := rfl
@[simp] theorem setReg_regs (r : RegId) (i : Nat) (w : Word) : (setReg r i w s).regs = tset s.regs ((regDef r).addrOf i) w := rfl
@[simp] theorem setReg_ovr (r : RegId) (i : Nat) (w : Word) : (setReg r i w s).ovr = s.ovr := rfl
@[simp] theorem setReg_cam (r : RegId) (i : Nat) (w : Word) : (setReg r i w s).cam = s.cam := rfl
@[simp] theorem setReg_hpc (r : RegId) (i : Nat) (w : Word) : (setReg r i w s).hpc = s.hpc := rfl
@[simp] theorem setReg_nvq (r : RegId) (i : Nat) (w : Word) : (setReg r i w s).nvq = s.nvq := rfl
@[simp] theorem setReg_qos (r : RegId) (i : Nat) (w : Word) : (setReg r i w s).qos = s.qos := rfl
@[simp] theorem setReg_xlt (r : RegId) (i : Nat) (w : Word) : (setReg r i w s).xlt = s.xlt := rfl
@[simp] theorem setReg_fte (r : RegId) (i : Nat) (w : Word) : (setReg r i w s).fte = s.fte := rfl
@[simp] theorem setReg_fch (r : RegId) (i : Nat) (w : Word) : (setReg r i w s).fch = s.fch := rfl
@[simp] theorem setReg_sre (r : RegId) (i : Nat) (w : Word) : (setReg r i w s).sre = s.sre := rfl
@[simp] theorem setReg_dre (r : RegId) (i : Nat) (w : Word) : (setReg r i w s).dre = s.dre := rfl
@[simp] theorem setReg_cst (r : RegId) (i : Nat) (w : Word) : (setReg r i w s).cst = s.cst := rfl
@[simp] theorem setReg_wel (r : RegId) (i : Nat) (w : Word) : (setReg r i w s).wel = s.wel := rfl
@[simp] theorem setReg_pmp (r : RegId) (i : Nat) (w : Word) : (setReg r i w s).pmp = s.pmp := rfl
@[simp] theorem setReg_mpr (r : RegId) (i : Nat) (w : Word) : (setReg r i w s).mpr = s.mpr := rfl
@[simp] theorem setReg_flt (r : RegId) (i : Nat) (w : Word) : (setReg r i w s).flt = s.flt := rfl
@[simp] theorem setReg_pwr (r : RegId) (i : Nat) (w : Word) : (setReg r i w s).pwr = s.pwr := rfl
@[simp] theorem setReg_whs (r : RegId) (i : Nat) (w : Word) : (setReg r i w s).whs = s.whs := rfl
@[simp] theorem setReg_upd (r : RegId) (i : Nat) (w : Word) : (setReg r i w s).upd = s.upd := rfl
@[simp] theorem setReg_sec (r : RegId) (i : Nat) (w : Word) : (setReg r i w s).sec = s.sec := rfl
@[simp] theorem setReg_sbm (r : RegId) (i : Nat) (w : Word) : (setReg r i w s).sbm = s.sbm := rfl
@[simp] theorem setReg_drm (r : RegId) (i : Nat) (w : Word) : (setReg r i w s).drm = s.drm := rfl
@[simp] theorem setReg_prof (r : RegId) (i : Nat) (w : Word) : (setReg r i w s).prof = s.prof := rfl
@[simp] theorem setReg_profOn (r : RegId) (i : Nat) (w : Word) : (setReg r i w s).profOn = s.profOn := rfl
@[simp] theorem setReg_out (r : RegId) (i : Nat) (w : Word) : (setReg r i w s).out = s.out := rfl
@[simp] theorem setReg_free (r : RegId) (i : Nat) (w : Word) : (setReg r i w s).free = s.free := rfl
@[simp] theorem setReg_pending (r : RegId) (i : Nat) (w : Word) : (setReg r i w s).pending = s.pending := rfl

@[simp] theorem orReg_sys (r : RegId) (i : Nat) (m : Word) : (orReg r i m s).sys = s.sys := rfl
@[simp] theorem orReg_pins (r : RegId) (i : Nat) (m : Word) : (orReg r i m s).pins = s.pins := rfl
@[simp] theorem orReg_ovr (r : RegId) (i : Nat) (m : Word) : (orReg r i m s).ovr = s.ovr := rfl
@[simp] theorem orReg_cam (r : RegId) (i : Nat) (m : Word) : (orReg r i m s).cam = s.cam := rfl
@[simp] theorem orReg_hpc (r : RegId) (i : Nat) (m : Word) : (orReg r i m s).hpc = s.hpc := rfl
@[simp] theorem orReg_nvq (r : RegId) (i : Nat) (m : Word) : (orReg r i m s).nvq = s.nvq := rfl
@[simp] theorem orReg_qos (r : RegId) (i : Nat) (m : Word) : (orReg r i m s).qos = s.qos := rfl
@[simp] theorem orReg_xlt (r : RegId) (i : Nat) (m : Word) : (orReg r i m s).xlt = s.xlt := rfl
@[simp] theorem orReg_fte (r : RegId) (i : Nat) (m : Word) : (orReg r i m s).fte = s.fte := rfl
@[simp] theorem orReg_fch (r : RegId) (i : Nat) (m : Word) : (orReg r i m s).fch = s.fch := rfl
@[simp] theorem orReg_sre (r : RegId) (i : Nat) (m : Word) : (orReg r i m s).sre = s.sre := rfl
@[simp] theorem orReg_dre (r : RegId) (i : Nat) (m : Word) : (orReg r i m s).dre = s.dre := rfl
@[simp] theorem orReg_cst (r : RegId) (i : Nat) (m : Word) : (orReg r i m s).cst = s.cst := rfl
@[simp] theorem orReg_wel (r : RegId) (i : Nat) (m : Word) : (orReg r i m s).wel = s.wel := rfl
@[simp] theorem orReg_pmp (r : RegId) (i : Nat) (m : Word) : (orReg r i m s).pmp = s.pmp := rfl
@[simp] theorem orReg_mpr (r : RegId) (i : Nat) (m : Word) : (orReg r i m s).mpr = s.mpr := rfl
@[simp] theorem orReg_flt (r : RegId) (i : Nat) (m : Word) : (orReg r i m s).flt = s.flt := rfl
@[simp] theorem orReg_pwr (r : RegId) (i : Nat) (m : Word) : (orReg r i m s).pwr = s.pwr := rfl
@[simp] theorem orReg_whs (r : RegId) (i : Nat) (m : Word) : (orReg r i m s).whs = s.whs := rfl
@[simp] theorem orReg_upd (r : RegId) (i : Nat) (m : Word) : (orReg r i m s).upd = s.upd := rfl
@[simp] theorem orReg_sec (r : RegId) (i : Nat) (m : Word) : (orReg r i m s).sec = s.sec := rfl
@[simp] theorem orReg_sbm (r : RegId) (i : Nat) (m : Word) : (orReg r i m s).sbm = s.sbm := rfl
@[simp] theorem orReg_drm (r : RegId) (i : Nat) (m : Word) : (orReg r i m s).drm = s.drm := rfl
@[simp] theorem orReg_prof (r : RegId) (i : Nat) (m : Word) : (orReg r i m s).prof = s.prof := rfl
@[simp] theorem orReg_profOn (r : RegId) (i : Nat) (m : Word) : (orReg r i m s).profOn = s.profOn := rfl
@[simp] theorem orReg_out (r : RegId) (i : Nat) (m : Word) : (orReg r i m s).out = s.out := rfl
@[simp] theorem orReg_free (r : RegId) (i : Nat) (m : Word) : (orReg r i m s).free = s.free := rfl
@[simp] theorem orReg_pending (r : RegId) (i : Nat) (m : Word) : (orReg r i m s).pending = s.pending := rfl

@[simp] theorem evt_sys (r : RegId) (b : Nat) : (evt r b s).sys = s.sys := rfl
@[simp] theorem evt_pins (r : RegId) (b : Nat) : (evt r b s).pins = s.pins := rfl
@[simp] theorem evt_ovr (r : RegId) (b : Nat) : (evt r b s).ovr = s.ovr := rfl
@[simp] theorem evt_cam (r : RegId) (b : Nat) : (evt r b s).cam = s.cam := rfl
@[simp] theorem evt_hpc (r : RegId) (b : Nat) : (evt r b s).hpc = s.hpc := rfl
@[simp] theorem evt_nvq (r : RegId) (b : Nat) : (evt r b s).nvq = s.nvq := rfl
@[simp] theorem evt_qos (r : RegId) (b : Nat) : (evt r b s).qos = s.qos := rfl
@[simp] theorem evt_xlt (r : RegId) (b : Nat) : (evt r b s).xlt = s.xlt := rfl
@[simp] theorem evt_fte (r : RegId) (b : Nat) : (evt r b s).fte = s.fte := rfl
@[simp] theorem evt_fch (r : RegId) (b : Nat) : (evt r b s).fch = s.fch := rfl
@[simp] theorem evt_sre (r : RegId) (b : Nat) : (evt r b s).sre = s.sre := rfl
@[simp] theorem evt_dre (r : RegId) (b : Nat) : (evt r b s).dre = s.dre := rfl
@[simp] theorem evt_cst (r : RegId) (b : Nat) : (evt r b s).cst = s.cst := rfl
@[simp] theorem evt_wel (r : RegId) (b : Nat) : (evt r b s).wel = s.wel := rfl
@[simp] theorem evt_pmp (r : RegId) (b : Nat) : (evt r b s).pmp = s.pmp := rfl
@[simp] theorem evt_mpr (r : RegId) (b : Nat) : (evt r b s).mpr = s.mpr := rfl
@[simp] theorem evt_flt (r : RegId) (b : Nat) : (evt r b s).flt = s.flt := rfl
@[simp] theorem evt_pwr (r : RegId) (b : Nat) : (evt r b s).pwr = s.pwr := rfl
@[simp] theorem evt_whs (r : RegId) (b : Nat) : (evt r b s).whs = s.whs := rfl
@[simp] theorem evt_upd (r : RegId) (b : Nat) : (evt r b s).upd = s.upd := rfl
@[simp] theorem evt_sec (r : RegId) (b : Nat) : (evt r b s).sec = s.sec := rfl
@[simp] theorem evt_sbm (r : RegId) (b : Nat) : (evt r b s).sbm = s.sbm := rfl
@[simp] theorem evt_drm (r : RegId) (b : Nat) : (evt r b s).drm = s.drm := rfl
@[simp] theorem evt_prof (r : RegId) (b : Nat) : (evt r b s).prof = s.prof := rfl
@[simp] theorem evt_profOn (r : RegId) (b : Nat) : (evt r b s).profOn = s.profOn := rfl
@[simp] theorem evt_out (r : RegId) (b : Nat) : (evt r b s).out = s.out := rfl
@[simp] theorem evt_free (r : RegId) (b : Nat) : (evt r b s).free = s.free := rfl
@[simp] theorem evt_pending (r : RegId) (b : Nat) : (evt r b s).pending = s.pending := rfl

@[simp] theorem logEvent_sys (c : Nat) (o n k : Word) : (logEvent c o n k s).sys = s.sys := by simp [logEvent]
@[simp] theorem logEvent_pins (c : Nat) (o n k : Word) : (logEvent c o n k s).pins = s.pins := by simp [logEvent]
@[simp] theorem logEvent_regs (c : Nat) (o n k : Word) : (logEvent c o n k s).regs = s.regs := by simp [logEvent]
@[simp] theorem logEvent_ovr (c : Nat) (o n k : Word) : (logEvent c o n k s).ovr = s.ovr := by simp [logEvent]
@[simp] theorem logEvent_cam (c : Nat) (o n k : Word) : (logEvent c o n k s).cam = s.cam := by simp [logEvent]
@[simp] theorem logEvent_hpc (c : Nat) (o n k : Word) : (logEvent c o n k s).hpc = s.hpc := by simp [logEvent]
@[simp] theorem logEvent_nvq (c : Nat) (o n k : Word) : (logEvent c o n k s).nvq = s.nvq := by simp [logEvent]
@[simp] theorem logEvent_qos (c : Nat) (o n k : Word) : (logEvent c o n k s).qos = s.qos := by simp [logEvent]
@[simp] theorem logEvent_xlt (c : Nat) (o n k : Word) : (logEvent c o n k s).xlt = s.xlt := by simp [logEvent]
@[simp] theorem logEvent_fte (c : Nat) (o n k : Word) : (logEvent c o n k s).fte = s.fte := by simp [logEvent]
@[simp] theorem logEvent_fch (c : Nat) (o n k : Word) : (logEvent c o n k s).fch = s.fch := by simp [logEvent]
@[simp] theorem logEvent_sre (c : Nat) (o n k : Word) : (logEvent c o n k s).sre = s.sre := by simp [logEvent]
@[simp] theorem logEvent_dre (c : Nat) (o n k : Word) : (logEvent c o n k s).dre = s.dre := by simp [logEvent]
@[simp] theorem logEvent_wel (c : Nat) (o n k : Word) : (logEvent c o n k s).wel = s.wel := by simp [logEvent]
@[simp] theorem logEvent_pmp (c : Nat) (o n k : Word) : (logEvent c o n k s).pmp = s.pmp := by simp [logEvent]
@[simp] theorem logEvent_mpr (c : Nat) (o n k : Word) : (logEvent c o n k s).mpr = s.mpr := by simp [logEvent]
@[simp] theorem logEvent_flt (c : Nat) (o n k : Word) : (logEvent c o n k s).flt = s.flt := by simp [logEvent]
@[simp] theorem logEvent_pwr (c : Nat) (o n k : Word) : (logEvent c o n k s).pwr = s.pwr := by simp [logEvent]
@[simp] theorem logEvent_whs (c : Nat) (o n k : Word) : (logEvent c o n k s).whs = s.whs := by simp [logEvent]
@[simp] theorem logEvent_upd (c : Nat) (o n k : Word) : (logEvent c o n k s).upd = s.upd := by simp [logEvent]
@[simp] theorem logEvent_sec (c : Nat) (o n k : Word) : (logEvent c o n k s).sec = s.sec := by simp [logEvent]
@[simp] theorem logEvent_sbm (c : Nat) (o n k : Word) : (logEvent c o n k s).sbm = s.sbm := by simp [logEvent]
@[simp] theorem logEvent_drm (c : Nat) (o n k : Word) : (logEvent c o n k s).drm = s.drm := by simp [logEvent]
@[simp] theorem logEvent_prof (c : Nat) (o n k : Word) : (logEvent c o n k s).prof = s.prof := by simp [logEvent]
@[simp] theorem logEvent_profOn (c : Nat) (o n k : Word) : (logEvent c o n k s).profOn = s.profOn := by simp [logEvent]
@[simp] theorem logEvent_out (c : Nat) (o n k : Word) : (logEvent c o n k s).out = s.out := by simp [logEvent]
@[simp] theorem logEvent_free (c : Nat) (o n k : Word) : (logEvent c o n k s).free = s.free := by simp [logEvent]
@[simp] theorem logEvent_pending (c : Nat) (o n k : Word) : (logEvent c o n k s).pending = s.pending := by simp [logEvent]

end Sys2Proof.Machine
end

