-- ==== Sys2Proof/Laws/Tables.lean ====
section
/-! SUPPORT. The laws of sparse tables and byte memories: a read after a write to the same key gives the value written, a write leaves
every other key alone, and every memory operation keeps the canonical form. -/

namespace Sys2Proof.Machine

variable {α : Type}

@[simp] theorem tget_nil (k : Nat) : tget ([] : Tbl α) k = none := rfl

@[simp] theorem tget_tset_same (t : Tbl α) (k : Nat) (v : α) : tget (tset t k v) k = some v := by
  induction t with
  | nil => simp [tset, tget]
  | cons e t ih =>
    obtain ⟨j, w⟩ := e
    simp only [tset]
    split
    · simp [tget]
    · split <;> simp_all [tget]

theorem tget_tset_ne (t : Tbl α) {k a : Nat} (v : α) (h : a ≠ k) : tget (tset t k v) a = tget t a := by
  induction t with
  | nil => simp [tset, tget, Ne.symm h]
  | cons e t ih =>
    obtain ⟨j, w⟩ := e
    simp only [tset]
    split
    · simp [tget, Ne.symm h]
    · split
      · subst_vars; simp [tget, Ne.symm h]
      · simp [tget, ih]

theorem tget_tset (t : Tbl α) (k a : Nat) (v : α) : tget (tset t k v) a = if a = k then some v else tget t a := by
  split
  · subst_vars; simp
  · exact tget_tset_ne t v ‹_›

@[simp] theorem tget_terase_same (t : Tbl α) (k : Nat) : tget (terase t k) k = none := by
  induction t with
  | nil => rfl
  | cons e t ih =>
    obtain ⟨j, w⟩ := e
    simp only [terase]
    split <;> simp_all [tget]

theorem tget_terase_ne (t : Tbl α) {k a : Nat} (h : a ≠ k) : tget (terase t k) a = tget t a := by
  induction t with
  | nil => rfl
  | cons e t ih =>
    obtain ⟨j, w⟩ := e
    simp only [terase]
    split
    · subst_vars; simp [tget, ih, Ne.symm h]
    · simp [tget, ih]

@[simp] theorem tgetD_tset_same (t : Tbl α) (k : Nat) (v d : α) : tgetD (tset t k v) k d = v := by simp [tgetD]

theorem tgetD_tset_ne (t : Tbl α) {k a : Nat} (v d : α) (h : a ≠ k) : tgetD (tset t k v) a d = tgetD t a d := by
  simp [tgetD, tget_tset_ne t v h]

/-! ## Stored registers -/

@[simp] theorem reg_setReg (r : RegId) (i : Nat) (w : Word) (s : State) : reg (setReg r i w s) r i = w := by simp [reg]

@[simp] theorem reg_orReg (r : RegId) (i : Nat) (m : Word) (s : State) : reg (orReg r i m s) r i = reg s r i ||| m := by simp [orReg]

theorem evtSet_evt (r : RegId) (b : Nat) (hb : b < 32) (s : State) : EvtSet r b (evt r b s) := by
  simp [EvtSet, evt, bitOf, bitW, hb]

/-! ## The canonical form -/

theorem keysRise_cons (a : Nat) (v : α) (t : Tbl α) :
    keysRise ((a, v) :: t) = true ↔ keysRise t = true ∧ ∀ b w t', t = (b, w) :: t' → a < b := by
  cases t with
  | nil => simp [keysRise]
  | cons e t =>
    obtain ⟨b, w⟩ := e
    simp only [keysRise, Bool.and_eq_true, decide_eq_true_eq]
    constructor
    · rintro ⟨h1, h2⟩
      refine ⟨h2, ?_⟩
      rintro _ _ _ ⟨rfl, rfl⟩
      exact h1
    · rintro ⟨h1, h2⟩
      exact ⟨h2 b w t rfl, h1⟩

theorem tset_head (t : Tbl α) (k : Nat) (v : α) (b : Nat) (w : α) (t' : Tbl α) (h : tset t k v = (b, w) :: t') :
    b = k ∨ ∃ x u, t = (b, x) :: u := by
  cases t with
  | nil => simp [tset] at h; exact .inl h.1.1.symm
  | cons e t =>
    obtain ⟨j, x⟩ := e
    simp only [tset] at h
    split at h
    · simp at h; exact .inl h.1.1.symm
    · split at h <;> simp at h
      · exact .inl h.1.1.symm
      · exact .inr ⟨x, t, by rw [h.1.1]⟩

theorem keysRise_tset (t : Tbl α) (k : Nat) (v : α) (h : keysRise t = true) : keysRise (tset t k v) = true := by
  induction t with
  | nil => simp [tset, keysRise]
  | cons e t ih =>
    obtain ⟨j, w⟩ := e
    have hc := (keysRise_cons j w t).1 h
    simp only [tset]
    split
    · simp [keysRise, *]
    · split
      · subst_vars; exact (keysRise_cons _ _ _).2 hc
      · refine (keysRise_cons _ _ _).2 ⟨ih hc.1, ?_⟩
        intro b x u hb
        rcases tset_head t k v b x u hb with rfl | ⟨y, z, rfl⟩
        · omega
        · exact hc.2 _ _ _ rfl

theorem keysRise_lt (t : Tbl α) (a : Nat) (v : α) (h : keysRise ((a, v) :: t) = true) : ∀ e ∈ t, a < e.1 := by
  induction t generalizing a v with
  | nil => simp
  | cons e t ih =>
    obtain ⟨b, w⟩ := e
    have hc := (keysRise_cons a v _).1 h
    have hab := hc.2 b w t rfl
    intro x hx
    rcases List.mem_cons.1 hx with rfl | hx
    · exact hab
    · exact Nat.lt_trans hab (ih b w hc.1 x hx)

theorem keysRise_filter (t : Tbl α) (p : Nat × α → Bool) (h : keysRise t = true) : keysRise (t.filter p) = true := by
  induction t with
  | nil => rfl
  | cons e t ih =>
    obtain ⟨a, v⟩ := e
    have hc := (keysRise_cons a v t).1 h
    simp only [List.filter_cons]
    split
    · refine (keysRise_cons _ _ _).2 ⟨ih hc.1, ?_⟩
      intro b w u hb
      have : (b, w) ∈ t.filter p := by rw [hb]; simp
      exact keysRise_lt t a v h (b, w) (List.mem_filter.1 this).1
    · exact ih hc.1

theorem terase_eq (t : Tbl α) (k : Nat) : terase t k = t.filter fun e => decide (e.1 ≠ k) := by
  induction t with
  | nil => rfl
  | cons e t ih =>
    obtain ⟨j, w⟩ := e
    simp only [terase, List.filter_cons]
    split <;> simp_all

theorem keysRise_terase (t : Tbl α) (k : Nat) (h : keysRise t = true) : keysRise (terase t k) = true := by
  rw [terase_eq]; exact keysRise_filter t _ h

theorem mem_tset (t : Tbl α) (k : Nat) (v : α) (e : Nat × α) (h : e ∈ tset t k v) : e = (k, v) ∨ e ∈ t := by
  induction t with
  | nil => simpa [tset] using h
  | cons x t ih =>
    obtain ⟨j, w⟩ := x
    simp only [tset] at h
    split at h
    · simpa using h
    · split at h
      · rcases List.mem_cons.1 h with h | h <;> simp [h]
      · rcases List.mem_cons.1 h with h | h
        · simp [h]
        · rcases ih h with h | h <;> simp [h]

/-- A write keeps the canonical form. -/
theorem memWf_mput (d : Byte) (m : List Host.Cell) (a : Nat) (b : Byte) (h : memWf d m = true) : memWf d (mput d m a b) = true := by
  simp only [memWf, Bool.and_eq_true, List.all_eq_true] at h ⊢
  unfold mput
  split
  · refine ⟨keysRise_terase m a h.1, fun c hc => h.2 c ?_⟩
    rw [terase_eq] at hc
    exact (List.mem_filter.1 hc).1
  · refine ⟨keysRise_tset m a b h.1, fun c hc => ?_⟩
    rcases mem_tset m a b c hc with rfl | hc
    · simpa using ‹¬b = d›
    · exact h.2 c hc

theorem memWf_mwrite (d : Byte) (bs : List Byte) (m : List Host.Cell) (a : Nat) (h : memWf d m = true) :
    memWf d (mwrite d m a bs) = true := by
  induction bs generalizing m a with
  | nil => exact h
  | cons b bs ih => exact ih _ _ (memWf_mput d m a b h)

/-- A read after a write to the same address. -/
theorem mget_mput_same (d : Byte) (m : List Host.Cell) (a : Nat) (b : Byte) : mget d (mput d m a b) a = b := by
  unfold mget mput
  split <;> simp_all [tgetD]

/-- A write leaves every other address alone. -/
theorem mget_mput_ne (d : Byte) (m : List Host.Cell) {a c : Nat} (b : Byte) (h : c ≠ a) : mget d (mput d m a b) c = mget d m c := by
  unfold mget mput tgetD
  split
  · rw [tget_terase_ne m h]
  · rw [tget_tset_ne m b h]

theorem mget_mwrite_out (d : Byte) (bs : List Byte) (m : List Host.Cell) (a c : Nat) (h : c < a ∨ a + bs.length ≤ c) :
    mget d (mwrite d m a bs) c = mget d m c := by
  induction bs generalizing m a with
  | nil => rfl
  | cons b bs ih =>
    simp only [List.length_cons] at h
    have hc : c ≠ a := by omega
    simp only [mwrite]
    rw [ih _ _ (by omega), mget_mput_ne d m b hc]

/-- An empty memory has the canonical form. -/
theorem memWf_nil (d : Byte) : memWf d [] = true := rfl

end Sys2Proof.Machine
end

