-- ==== Sys2Proof/Laws/Frames.lean ====
section
/-! SUPPORT. Frames: how `OnlyChanges` composes, and what each shared operation can change. -/

namespace Sys2Proof

open Machine

theorem OnlyChanges.refl (l : List Part) (s : State) : OnlyChanges l s s := by
  constructor; intro p _; cases p <;> rfl

theorem OnlyChanges.trans {l : List Part} {s t u : State} (h : OnlyChanges l s t) (k : OnlyChanges l t u) : OnlyChanges l s u := by
  constructor
  intro p hp
  have a := h.same p hp
  have b := k.same p hp
  cases p <;> exact Eq.trans b a

theorem OnlyChanges.mono {l m : List Part} {s t : State} (h : OnlyChanges l s t) (k : ∀ p, p ∈ l → p ∈ m) : OnlyChanges m s t :=
  ⟨fun p hp => h.same p fun hl => hp (k p hl)⟩

/-- A list of parts is within another: closed by `decide`. -/
theorem OnlyChanges.wide {l : List Part} (m : List Part) {s t : State} (h : OnlyChanges l s t)
    (k : (l.all fun p => m.contains p) = true) : OnlyChanges m s t :=
  h.mono fun p hp => by simpa using (List.all_eq_true.1 k) p hp

theorem OnlyChanges.fold {α : Type} (l : List Part) (xs : List α) (f : State → α → State) (s : State)
    (h : ∀ x s, OnlyChanges l s (f s x)) : OnlyChanges l s (xs.foldl f s) := by
  induction xs generalizing s with
  | nil => exact .refl l s
  | cons x xs ih => exact (h x s).trans (ih (f s x))

theorem OnlyChanges.each {α : Type} (l : List Part) (xs : List α) (f : α → State → State) (s : State)
    (h : ∀ x s, OnlyChanges l s (f x s)) : OnlyChanges l s (forEach xs f s) :=
  OnlyChanges.fold l xs (fun s x => f x s) s h

theorem OnlyChanges.upto (l : List Part) (n : Nat) (f : Nat → State → State) (s : State)
    (h : ∀ x s, OnlyChanges l s (f x s)) : OnlyChanges l s (forN n f s) :=
  OnlyChanges.fold l _ (fun s x => f x s) s h

theorem OnlyChanges.cond {l : List Part} {s t u : State} {c : Prop} [Decidable c] (h : c → OnlyChanges l s t)
    (k : ¬c → OnlyChanges l s u) : OnlyChanges l s (if c then t else u) := by
  split
  · exact h ‹_›
  · exact k ‹_›

theorem onSys_only (f : Sys → Sys) (s : State) : OnlyChanges [.sys] s (onSys f s) := by constructor; intro p hp; cases p <;> simp_all [Part.same]
theorem onPins_only (f : Pins → Pins) (s : State) : OnlyChanges [.pins] s (onPins f s) := by constructor; intro p hp; cases p <;> simp_all [Part.same]
theorem onCam_only (f : Cam → Cam) (s : State) : OnlyChanges [.cam] s (onCam f s) := by constructor; intro p hp; cases p <;> simp_all [Part.same]
theorem onNvq_only (f : Nvq → Nvq) (s : State) : OnlyChanges [.nvq] s (onNvq f s) := by constructor; intro p hp; cases p <;> simp_all [Part.same]
theorem onQos_only (f : Qos → Qos) (s : State) : OnlyChanges [.qos] s (onQos f s) := by constructor; intro p hp; cases p <;> simp_all [Part.same]
theorem onPwr_only (f : Pwr → Pwr) (s : State) : OnlyChanges [.pwr] s (onPwr f s) := by constructor; intro p hp; cases p <;> simp_all [Part.same]
theorem onFlt_only (f : Flt → Flt) (s : State) : OnlyChanges [.flt] s (onFlt f s) := by constructor; intro p hp; cases p <;> simp_all [Part.same]
theorem emit_only (o : Output) (s : State) : OnlyChanges [.out] s (emit o s) := by constructor; intro p hp; cases p <;> simp_all [Part.same]
theorem drawn_only (s : State) : OnlyChanges [.free] s (drawn s) := by constructor; intro p hp; cases p <;> simp_all [Part.same]
theorem setReg_only (r : RegId) (i : Nat) (w : Word) (s : State) : OnlyChanges [.regs] s (setReg r i w s) := by
  constructor; intro p hp; cases p <;> simp_all [Part.same]
theorem orReg_only (r : RegId) (i : Nat) (m : Word) (s : State) : OnlyChanges [.regs] s (orReg r i m s) := setReg_only ..
theorem evt_only (r : RegId) (b : Nat) (s : State) : OnlyChanges [.regs] s (evt r b s) := orReg_only ..
theorem logEvent_only (c : Nat) (o n k : Word) (s : State) : OnlyChanges [.cst] s (logEvent c o n k s) := by
  constructor; intro p hp; cases p <;> simp_all [Part.same]
theorem logOpen_only (c : Nat) (s : State) : OnlyChanges [.cst, .free] s (logOpen c s) := by
  constructor; intro p hp; cases p <;> simp_all [Part.same, logOpen]

/-! ## Registers -/

theorem OnlyRegs.refl (l : List Nat) (s : State) : OnlyRegs l s s := ⟨fun _ _ => rfl⟩

theorem OnlyRegs.trans {l : List Nat} {s t u : State} (h : OnlyRegs l s t) (k : OnlyRegs l t u) : OnlyRegs l s u :=
  ⟨fun a ha => (k.same a ha).trans (h.same a ha)⟩

theorem OnlyRegs.of_eq {l : List Nat} {s t : State} (h : t.regs = s.regs) : OnlyRegs l s t := ⟨fun a _ => by rw [h]⟩

theorem setReg_onlyRegs (r : RegId) (i : Nat) (w : Word) (s : State) : OnlyRegs [regA r i] s (setReg r i w s) := by
  constructor; intro a ha
  exact tget_tset_ne _ _ (by simpa [regA] using ha)

theorem evt_onlyRegs (r : RegId) (b : Nat) (s : State) : OnlyRegs [regA r] s (evt r b s) := setReg_onlyRegs ..

/-! ## POST and asynchronous events -/

theorem setPost_only (t : Nat) (sc : Sc) (d : Bool) (a b : Nat) (m : Tag → Nat) (s : State) :
    OnlyChanges [.nvq] s (setPost t sc d a b m s) := by
  unfold setPost
  split
  · exact .refl _ _
  · split
    · exact .refl _ _
    · constructor; intro p hp; cases p <;> simp_all [Part.same]

theorem modTnt_only (k : Nat) (f : Tenant → Tenant) (s : State) : OnlyChanges [.qos] s (modTnt k f s) := onQos_only ..

theorem traceAdd_only (k u o : Nat) (s : State) : OnlyChanges [.qos] s (traceAdd k u o s) := by
  unfold traceAdd
  split
  · exact .refl _ _
  · refine .cond (fun _ => .refl _ _) fun _ => ?_
    refine .cond (fun _ => onQos_only ..) fun _ => .refl _ _

/-- A charge of data changes the meters and counters of the tenants alone. -/
theorem chargeData_only (k : Option Nat) (n r : Nat) (s : State) : OnlyChanges [.qos] s (chargeData k n r s) := by
  unfold chargeData
  split
  · exact .refl _ _
  · exact (modTnt_only ..).trans (traceAdd_only ..)

/-- Entering POST changes the tag's entry and, for a Verify or Write Zeroes that ran, its tenant's meters. -/
theorem enterPost_only (t : Nat) (sc : Sc) (d : Bool) (a b : Nat) (s : State) : OnlyChanges [.nvq, .qos] s (enterPost t sc d a b s) := by
  unfold enterPost
  split
  · exact .refl _ _
  · split
    · exact ((setPost_only ..).wide _ rfl).trans ((chargeData_only ..).wide _ rfl)
    · exact (setPost_only ..).wide _ rfl

theorem postDnr_only (t : Nat) (sc : Sc) (d : Bool) (a b : Nat) (s : State) : OnlyChanges [.nvq, .qos] s (postDnr t sc d a b s) := by
  unfold postDnr
  split
  · exact (enterPost_only ..).trans (enterPost_only ..)
  · exact enterPost_only ..

theorem post_only (t : Nat) (sc : Sc) (a : Nat) (s : State) : OnlyChanges [.nvq, .qos] s (post t sc a s) := postDnr_only ..

theorem setCtrl_only (c : Nat) (x : Ctrl) (s : State) : OnlyChanges [.nvq] s (setCtrl c x s) := by
  constructor; intro p hp; cases p <;> simp_all [Part.same, setCtrl]

theorem modCtrl_only (c : Nat) (f : Ctrl → Ctrl) (s : State) : OnlyChanges [.nvq] s (modCtrl c f s) := by
  constructor; intro p hp; cases p <;> simp_all [Part.same, modCtrl]

theorem sendAen_only (c : Nat) (a : Aen) (s : State) : OnlyChanges [.nvq] s (sendAen c a s) := by
  unfold sendAen
  split
  · exact .refl _ _
  · split
    · exact .refl _ _
    · split
      · exact setCtrl_only ..
      · exact (setCtrl_only ..).trans (setPost_only ..)

theorem sendAll_only (a : Aen) (s : State) : OnlyChanges [.nvq] s (sendAll a s) := by
  refine .each _ _ _ _ fun c s => ?_
  split
  · exact sendAen_only ..
  · exact .refl _ _

theorem ctrlCapture_only (s : State) : OnlyChanges [.nvq, .sbm] s (ctrlCapture s) := by
  unfold ctrlCapture
  refine .cond (fun _ => .refl _ _) fun _ => ?_
  refine OnlyChanges.trans ?_ ((sendAll_only ..).wide _ rfl)
  constructor; intro p hp; cases p <;> simp_all [Part.same]

/-! ## Fault sources -/

theorem wake_only (s : State) : OnlyChanges [.sys] s (wake s) := by
  unfold wake
  split
  · constructor; intro p hp; cases p <;> simp_all [Part.same]
  · exact .refl _ _

theorem askReset_only (c : Nat) (s : State) : OnlyChanges [.sys] s (askReset c s) := by
  unfold askReset
  split
  · exact .refl _ _
  · constructor; intro p hp; cases p <;> simp_all [Part.same]

theorem pinAssert_only (s : State) : OnlyChanges [.pins, .regs] s (pinAssert s) := by
  constructor; intro p hp; cases p <;> simp_all [Part.same, pinAssert]

theorem isolate_only (i : Nat) (s : State) : OnlyChanges [.flt] s (isolate i s) := by
  constructor; intro p hp; cases p <;> simp_all [Part.same, isolate]

theorem holdIsland_only (i : Nat) (s : State) : OnlyChanges [.flt, .pwr] s (holdIsland i s) := by
  refine OnlyChanges.trans ?_ ((isolate_only ..).wide _ rfl)
  constructor; intro p hp; cases p <;> simp_all [Part.same]

theorem reportSrc_only (i r q : Nat) (s : State) : OnlyChanges [.nvq] s (reportSrc i r q s) := by
  unfold reportSrc
  simp only
  split
  · refine OnlyChanges.trans (.each _ _ _ _ fun c s => ?_) (sendAll_only ..)
    split
    · exact modCtrl_only ..
    · exact .refl _ _
  · split
    · exact sendAll_only ..
    · split
      · exact sendAll_only ..
      · exact .refl _ _

theorem interrupt_only (i r q : Nat) (s : State) : OnlyChanges [.sys, .nvq, .flt] s (interrupt i r q s) := by
  have h1 : OnlyChanges [.sys, .nvq, .flt] s (wake { s with flt := { s.flt with ints := s.flt.ints ++ [i] } }) := by
    refine OnlyChanges.trans ?_ ((wake_only _).wide _ rfl)
    constructor; intro p hp; cases p <;> simp_all [Part.same]
  unfold interrupt
  simp only
  split
  · refine h1.trans ?_
    constructor; intro p hp; cases p <;> simp_all [Part.same]
  · exact h1.trans ((reportSrc_only ..).wide _ rfl)

theorem react_only (i r q : Nat) (s : State) :
    OnlyChanges [.sys, .pins, .regs, .nvq, .flt, .pwr, .sbm] s (react i r q s) := by
  unfold react
  have h1 : OnlyChanges [.sys, .pins, .regs, .nvq, .flt, .pwr, .sbm] s
      (if r.testBit 4 = true then ctrlCapture (pinAssert s) else s) := by
    split
    · exact ((pinAssert_only s).wide _ rfl).trans ((ctrlCapture_only _).wide _ rfl)
    · exact .refl _ _
  simp only
  split
  · exact h1
  · split
    · exact h1.trans ((askReset_only ..).wide _ rfl)
    · generalize (if r.testBit 4 = true then ctrlCapture (pinAssert s) else s) = s1 at h1 ⊢
      have h2 : OnlyChanges [.sys, .pins, .regs, .nvq, .flt, .pwr, .sbm] s1
          (if r.testBit 0 = true then interrupt i r q s1 else s1) := by
        split
        · exact (interrupt_only ..).wide _ rfl
        · exact .refl _ _
      generalize (if r.testBit 0 = true then interrupt i r q s1 else s1) = s2 at h2 ⊢
      have h3 : ∀ c : Bool, OnlyChanges [.sys, .pins, .regs, .nvq, .flt, .pwr, .sbm] s2
          (if c = true then { s2 with flt := { s2.flt with nmt := s2.flt.nmt ++ [i] } } else s2) := by
        intro c
        split
        · constructor; intro p hp; cases p <;> simp_all [Part.same]
        · exact .refl _ _
      refine (h1.trans h2).trans ?_
      split
      · exact (h3 _).trans ((holdIsland_only ..).wide _ rfl)
      · exact h3 _

theorem latchSrc_only (i : Nat) (p n : Bool) (s : State) :
    OnlyChanges [.sys, .pins, .regs, .nvq, .cst, .flt, .pwr, .sbm] s (latchSrc i p n s) := by
  unfold latchSrc
  refine OnlyChanges.trans ?_ (((logEvent_only ..).wide _ rfl).trans ((react_only ..).wide _ rfl))
  refine OnlyChanges.trans ?_ ((evt_only ..).wide _ rfl)
  constructor; intro p hp; cases p <;> simp_all [Part.same]

theorem takeRails_only (i : Nat) (p n : Bool) (s : State) : OnlyChanges faultParts s (takeRails i p n s) := by
  unfold takeRails
  split
  · exact .refl _ _
  · have h1 : OnlyChanges faultParts s { s with flt := { s.flt with srcs := tset s.flt.srcs i { srcAt s i with p, n } } } := by
      constructor; intro p hp; cases p <;> simp_all [Part.same, faultParts]
    simp only
    generalize { s with flt := { s.flt with srcs := tset s.flt.srcs i { srcAt s i with p, n } } } = s1 at h1 ⊢
    have h2 : ∀ c : Bool, OnlyChanges faultParts s1 (if c = true then logOpen 0x0802 (evt .fltEvt 2 s1) else s1) := by
      intro c
      split
      · exact ((evt_only ..).wide _ rfl).trans ((logOpen_only ..).wide _ rfl)
      · exact .refl _ _
    refine h1.trans ?_
    split
    · exact (h2 _).trans ((latchSrc_only ..).wide _ rfl)
    · exact h2 _

/-- Raising a fault source changes nothing but the parts that its reactions reach. -/
theorem raiseSrc_only (i : Nat) (s : State) : OnlyChanges faultParts s (raiseSrc i s) :=
  (takeRails_only ..).trans (takeRails_only ..)

theorem raiseAll_only (l : List Nat) (s : State) : OnlyChanges faultParts s (raiseAll l s) := .each _ _ _ _ fun i s => raiseSrc_only i s

end Sys2Proof
end

