-- ==== Sys2Proof/Laws/Faults.lean ====
section
/-! SUPPORT. What the assertion of a fault source keeps. -/

namespace Sys2Proof

open Machine

theorem FaultKeeps.refl (s : State) : FaultKeeps s s :=
  ⟨rfl, rfl, rfl, rfl, rfl, rfl, .refl _ _, fun _ h => h, .refl _ _⟩

theorem FaultKeeps.trans {s t u : State} (h : FaultKeeps s t) (k : FaultKeeps t u) : FaultKeeps s u := by
  constructor
  · rw [k.sys, h.sys]
  · rw [k.pins, h.pins]
  · rw [k.pwr, h.pwr]
  · rw [k.cst, h.cst]
  · rw [k.nvq, h.nvq]
  · rw [k.sbm, h.sbm]
  · exact h.regs.trans k.regs
  · exact fun j hj => k.latched j (h.latched j hj)
  · exact h.rest.trans k.rest

theorem FaultKeeps.each {α : Type} (xs : List α) (f : α → State → State) (s : State) (h : ∀ x s, FaultKeeps s (f x s)) :
    FaultKeeps s (forEach xs f s) := by
  unfold forEach
  induction xs generalizing s with
  | nil => exact .refl s
  | cons x xs ih => exact (h x s).trans (ih (f x s))

theorem FaultKeeps.cond {s t u : State} {c : Prop} [Decidable c] (h : c → FaultKeeps s t) (k : ¬c → FaultKeeps s u) :
    FaultKeeps s (if c then t else u) := by
  split
  · exact h ‹_›
  · exact k ‹_›

/-- A change of controllers, tags and the POST count alone. -/
theorem FaultKeeps.ofNvq (s : State) (n : Nvq) (k : n = { s.nvq with ctrls := n.ctrls, tags := n.tags, postSeq := n.postSeq }) :
    FaultKeeps s { s with nvq := n } :=
  ⟨rfl, rfl, rfl, rfl, k, rfl, ⟨fun _ _ => rfl⟩, fun _ h => h, ⟨fun p hp => by cases p <;> simp_all [Part.same, faultParts]⟩⟩

/-- A change of FLT alone that clears no latch. -/
theorem FaultKeeps.ofFlt (s : State) (f : Flt) (k : ∀ j, Latched j s → Latched j { s with flt := f }) : FaultKeeps s { s with flt := f } :=
  ⟨rfl, rfl, rfl, rfl, rfl, rfl, ⟨fun _ _ => rfl⟩, k, ⟨fun p hp => by cases p <;> simp_all [Part.same, faultParts]⟩⟩

theorem setPost_keeps (t : Nat) (sc : Sc) (d : Bool) (a b : Nat) (m : Tag → Nat) (s : State) : FaultKeeps s (setPost t sc d a b m s) := by
  unfold setPost
  split
  · exact .refl s
  · exact .cond (fun _ => .refl s) fun _ => .ofNvq _ _ rfl

theorem sendAen_keeps (c : Nat) (a : Aen) (s : State) : FaultKeeps s (sendAen c a s) := by
  unfold sendAen
  split
  · exact .refl s
  · refine .cond (fun _ => .refl s) fun _ => ?_
    split
    · exact .ofNvq _ _ rfl
    · exact FaultKeeps.trans (t := setCtrl _ _ s) (.ofNvq _ _ rfl) (setPost_keeps ..)

theorem sendAll_keeps (a : Aen) (s : State) : FaultKeeps s (sendAll a s) :=
  FaultKeeps.each _ _ _ fun _ s => .cond (fun _ => sendAen_keeps ..) fun _ => .refl s

theorem ctrlCapture_keeps (s : State) : FaultKeeps s (ctrlCapture s) := by
  unfold ctrlCapture
  refine .cond (fun _ => .refl s) fun _ => FaultKeeps.trans ?_ (sendAll_keeps ..)
  exact ⟨rfl, rfl, rfl, rfl, rfl, rfl, ⟨fun _ _ => rfl⟩, fun _ h => h,
    ⟨fun p hp => by cases p <;> simp_all [Part.same, faultParts]⟩⟩

theorem evtFlt_keeps (b : Nat) (s : State) : FaultKeeps s (evt .fltEvt b s) :=
  ⟨rfl, rfl, rfl, rfl, rfl, rfl, evt_onlyRegs .., fun _ h => h, (evt_only ..).wide _ rfl⟩

theorem pinAssert_keeps (s : State) : FaultKeeps s (pinAssert s) :=
  FaultKeeps.trans (t := { s with pins := { s.pins with faultN := true } }) ⟨rfl, rfl, rfl, rfl, rfl, rfl, ⟨fun _ _ => rfl⟩, fun _ h => h,
    ⟨fun p hp => by cases p <;> simp_all [Part.same, faultParts]⟩⟩ (evtFlt_keeps 0 _)

theorem wake_keeps (s : State) : FaultKeeps s (wake s) := by
  unfold wake
  refine .cond (fun _ => ?_) fun _ => .refl s
  exact ⟨rfl, rfl, rfl, rfl, rfl, rfl, ⟨fun _ _ => rfl⟩, fun _ h => h,
    ⟨fun p hp => by cases p <;> simp_all [Part.same, faultParts]⟩⟩

theorem askReset_keeps (c : Nat) (s : State) : FaultKeeps s (askReset c s) := by
  unfold askReset
  refine .cond (fun _ => .refl s) fun _ => ?_
  exact ⟨rfl, rfl, rfl, rfl, rfl, rfl, ⟨fun _ _ => rfl⟩, fun _ h => h,
    ⟨fun p hp => by cases p <;> simp_all [Part.same, faultParts]⟩⟩

theorem tget_tmap {α : Type} (t : Tbl α) (f : Nat → α → α) (k : Nat) : tget (tmap t f) k = (tget t k).map (f k) := by
  induction t with
  | nil => rfl
  | cons e t ih =>
    obtain ⟨j, v⟩ := e
    have : tmap ((j, v) :: t) f = (j, f j v) :: tmap t f := rfl
    rw [this]
    simp only [tget]
    split
    · subst_vars; rfl
    · exact ih

theorem isolate_keeps (i : Nat) (s : State) : FaultKeeps s (isolate i s) := by
  refine .ofFlt _ _ fun j hj => ?_
  revert hj
  simp only [Latched, srcAt, tgetD, tget_tmap]
  cases tget s.flt.srcs j with
  | none => simp
  | some x => simp only [Option.map_some, Option.getD_some]; split <;> simp

theorem holdIsland_keeps (i : Nat) (s : State) : FaultKeeps s (holdIsland i s) := by
  unfold holdIsland
  refine FaultKeeps.trans ?_ (isolate_keeps i _)
  exact ⟨rfl, rfl, rfl, rfl, rfl, rfl, ⟨fun _ _ => rfl⟩, fun _ h => h,
    ⟨fun p hp => by cases p <;> simp_all [Part.same, faultParts]⟩⟩

theorem reportSrc_keeps (i r q : Nat) (s : State) : FaultKeeps s (reportSrc i r q s) := by
  unfold reportSrc
  refine .cond (fun _ => ?_) fun _ => .cond (fun _ => sendAll_keeps ..) fun _ => .cond (fun _ => sendAll_keeps ..) fun _ => .refl s
  exact FaultKeeps.trans (.each _ _ _ fun c s => .cond (fun _ => .ofNvq _ _ rfl) fun _ => .refl s) (sendAll_keeps ..)

theorem interrupt_keeps (i r q : Nat) (s : State) : FaultKeeps s (interrupt i r q s) := by
  unfold interrupt
  have h1 : FaultKeeps s (wake { s with flt := { s.flt with ints := s.flt.ints ++ [i] } }) :=
    (FaultKeeps.ofFlt s { s.flt with ints := s.flt.ints ++ [i] } fun _ h => h).trans (wake_keeps _)
  exact .cond (fun _ => h1.trans (.ofFlt _ _ fun _ h => h)) fun _ => h1.trans (reportSrc_keeps ..)

theorem react_keeps (i r q : Nat) (s : State) : FaultKeeps s (react i r q s) := by
  unfold react
  have h1 : FaultKeeps s (if r.testBit 4 = true then ctrlCapture (pinAssert s) else s) :=
    .cond (fun _ => (pinAssert_keeps s).trans (ctrlCapture_keeps _)) fun _ => .refl s
  simp only
  refine .cond (fun _ => h1) fun _ => .cond (fun _ => h1.trans (askReset_keeps ..)) fun _ => h1.trans ?_
  generalize (if r.testBit 4 = true then ctrlCapture (pinAssert s) else s) = s1
  have h2 : FaultKeeps s1
      (if r.testBit 0 = true then interrupt i r q s1 else s1) :=
    .cond (fun _ => interrupt_keeps ..) fun _ => .refl s1
  refine h2.trans ?_
  generalize (if r.testBit 0 = true then interrupt i r q s1 else s1) = s2
  have h3 : ∀ c : Bool, FaultKeeps s2 (if c = true then { s2 with flt := { s2.flt with nmt := s2.flt.nmt ++ [i] } } else s2) :=
    fun c => .cond (fun _ => .ofFlt _ _ fun _ h => h) fun _ => .refl s2
  split
  · exact (h3 _).trans (holdIsland_keeps ..)
  · exact h3 _

theorem logEvent_keeps (c : Nat) (o n k : Word) (s : State) : FaultKeeps s (logEvent c o n k s) := by
  refine ⟨by simp, by simp, by simp, by simp [logEvent], by simp, by simp, ⟨fun a _ => by simp⟩, fun j h => ?_, (logEvent_only ..).wide _ rfl⟩
  simpa [Latched, srcAt] using h

theorem FaultKeeps.ofFree (s : State) (n : Nat) : FaultKeeps s { s with free := n } :=
  ⟨rfl, rfl, rfl, rfl, rfl, rfl, ⟨fun _ _ => rfl⟩, fun _ h => h,
    ⟨fun p hp => by cases p <;> simp_all [Part.same, faultParts]⟩⟩

theorem logOpen_keeps (c : Nat) (s : State) : FaultKeeps s (logOpen c s) := by
  exact FaultKeeps.trans (logEvent_keeps c (BitVec.ofNat 32 (Config.freeNat (s.free + 0))) (BitVec.ofNat 32 (Config.freeNat (s.free + 1)))
    (BitVec.ofNat 32 (Config.freeNat (s.free + 2))) s) (.ofFree _ (s.free + 3))

/-- A source's latch sets. -/
theorem latchSrc_latched (i : Nat) (p n : Bool) (s : State) : Latched i (latchSrc i p n s) ∧ FaultKeeps s (latchSrc i p n s) := by
  unfold latchSrc
  simp only
  generalize pack [(31, 1, 1), (16, 5, srcReact s i), (13, 1, b2n p), (12, 1, b2n n), (0, 9, i)] = w
  have h1 : FaultKeeps s { s with flt := { s.flt with srcs := tupd s.flt.srcs i {} (fun x => { x with latched := true, lastW := w }), last := w, lastValid := true } } := by
    refine .ofFlt _ _ fun j hj => ?_
    revert hj
    simp only [Latched, srcAt, tupd, tgetD, tget_tset]
    split <;> simp
  have h2 : Latched i { s with flt := { s.flt with srcs := tupd s.flt.srcs i {} (fun x => { x with latched := true, lastW := w }), last := w, lastValid := true } } := by
    simp [Latched, srcAt, tupd]
  generalize { s with flt := { s.flt with srcs := tupd s.flt.srcs i {} (fun x => { x with latched := true, lastW := w }), last := w, lastValid := true } } = s1
    at h1 h2 ⊢
  have h3 := (evtFlt_keeps 1 s1).trans ((logEvent_keeps 0x0801 (BitVec.ofNat 32 i) w 0 _).trans
    (react_keeps i (srcReact s i) (evt .fltEvt 1 s1).cst.evSeq _))
  exact ⟨h3.latched i h2, h1.trans h3⟩

theorem takeRails_keeps (i : Nat) (p n : Bool) (s : State) : FaultKeeps s (takeRails i p n s) := by
  unfold takeRails
  refine .cond (fun _ => .refl s) fun _ => ?_
  simp only
  have h1 : FaultKeeps s { s with flt := { s.flt with srcs := tset s.flt.srcs i { srcAt s i with p, n } } } := by
    refine .ofFlt _ _ fun j hj => ?_
    revert hj
    simp only [Latched, srcAt, tgetD, tget_tset]
    split <;> simp_all
  refine h1.trans ?_
  generalize { s with flt := { s.flt with srcs := tset s.flt.srcs i { srcAt s i with p, n } } } = s1
  have h2 : ∀ c : Bool, FaultKeeps s1 (if c = true then logOpen 0x0802 (evt .fltEvt 2 s1) else s1) :=
    fun c => .cond (fun _ => (evtFlt_keeps 2 s1).trans (logOpen_keeps ..)) fun _ => .refl s1
  split
  · exact (h2 _).trans (latchSrc_latched ..).2
  · exact h2 _

/-- An asserted code latches its source. -/
theorem takeRails_latched (i : Nat) (n : Bool) (s : State) (hi : i < 384) (hm : s.sys.mode ≠ .dormant) :
    Latched i (takeRails i true n s) := by
  unfold takeRails
  rw [if_neg (by simp only [not_or]; exact ⟨hm, by omega⟩)]
  simp only
  by_cases hl : (srcAt s i).latched = true
  · have h1 : Latched i { s with flt := { s.flt with srcs := tset s.flt.srcs i { srcAt s i with p := true, n } } } := by
      simp only [Latched, srcAt, tgetD_tset_same]; exact hl
    generalize { s with flt := { s.flt with srcs := tset s.flt.srcs i { srcAt s i with p := true, n } } } = s1 at h1
    have h2 : ∀ c : Bool, FaultKeeps s1 (if c = true then logOpen 0x0802 (evt .fltEvt 2 s1) else s1) :=
      fun c => .cond (fun _ => (evtFlt_keeps 2 s1).trans (logOpen_keeps ..)) fun _ => .refl s1
    rw [if_neg (by simp [hl])]
    exact (h2 _).latched i h1
  · rw [if_pos (by simp [hl])]
    exact (latchSrc_latched ..).1

/-- Raising a source below 384 outside DORMANT latches it and keeps what `FaultKeeps` names. -/
theorem raiseSrc_raised (i : Nat) (s : State) (hi : i < 384) (hm : s.sys.mode ≠ .dormant) : RaisedFrom i s (raiseSrc i s) := by
  have h1 := takeRails_latched i false s hi hm
  have h2 := takeRails_keeps i true false s
  have h3 := takeRails_keeps i false true (takeRails i true false s)
  exact ⟨h3.latched i h1, h2.trans h3⟩

theorem raiseSrc_keeps (i : Nat) (s : State) : FaultKeeps s (raiseSrc i s) := (takeRails_keeps ..).trans (takeRails_keeps ..)

/-- In DORMANT no source is taken. -/
theorem raiseSrc_dormant (i : Nat) (s : State) (h : s.sys.mode = .dormant) : raiseSrc i s = s := by
  unfold raiseSrc takeRails; simp [h]

end Sys2Proof
end

