-- ==== Sys2Proof/Tests/Slice0.lean ====
section
/-! SUPPORT. Tests of this model. First the small states the tests are built from; then the worked examples of the manual, checked
against the meanings; then an ill-formed command for each check of `Instr.wf`, which it refuses; then, for each statement of
Sys2Proof.Certificates.Slice0.Obligations, states and operands that meet the hypotheses of each of its clauses. -/

set_option Elab.async false

namespace Sys2Proof.Tests

open Sys2Proof Sys2Proof.Machine

/-! ## Small states -/

/-- An operational device with its profile, and nothing else. -/
def w0 : State := { sys := { mode := .operational }, profOn := true }

/-- A state with one more Cament request of a source waiting: its opcode, target, words from 2 on, flag bits of word 0, and the submission
entry that carried it. -/
def ask (src op tgt : Nat) (args : List Word) (s : State) (flags : Nat := 0) (tag : Option Nat := none) : State :=
  let r : CamReq :=
    { src, tag, bus := if src = 8 then some .i3c else none,
      words := [BitVec.ofNat 32 (op + 65536 * ((args.length + 3) / 2) + flags), BitVec.ofNat 32 (7 + 65536 * tgt)] ++ args }
  onCam (fun c => if src = 8 then { c with side := c.side ++ [r] } else { c with queue := c.queue ++ [r] }) s

/-- The request that a source starts next. -/
def qreq (s : State) (src : Nat) : CamReq := ((nextReq s src).map trimReq).getD { src, words := [] }

/-- A submission entry of opcode `op` on a namespace, with words 10 on. -/
def ent (op ns : Nat) (ws : List Word) : Entry :=
  { dw := [BitVec.ofNat 32 op, BitVec.ofNat 32 ns, 0, 0, 0, 0, 0, 0, 0, 0] ++ ws }

/-- A command in RUN. -/
def cmd (ctrl qid op ns : Nat) (ws : List Word) : Tag := { ctrl, qid, ent := ent op ns ws, seq := 0, st := .run }

/-- A command that is no command: what the tests read where a tag is free. -/
def tg0 : Tag := cmd 0 0 0 0 []

/-- A state with the commands of tags 0, 1, … in flight. -/
def flying (l : List Tag) (s : State) : State :=
  { s with nvq := { s.nvq with tags := (List.range l.length).zip l, ctrls := [(0, { en := true, rdy := true })] } }

/-- An operational device whose wells are in class mode, 1 MiB in each pool, with fallback. -/
def wells : State := buildPools { w0 with
  regs := [(regA .welCfg, 0x71), (regA .welPoolCfg, 0x01010101)], fch := { dies := (List.range 240).map fun d => (d, { present := true }) } }

/-- A device in BOOT whose step `n` ends next. -/
def bootAt (n : Nat) : State := { State.reset with sys := { step := n - 1 } }

/-- Ports released, port `n` with a link, controllers 0 and 1 enabled with a queue and a command each. -/
def linked (n : Nat) (s : State) : State :=
  let q : Sq := { size := 4, cqid := 1 }
  let p : Port := { up := true, st := 3, cfgReady := true, ideKeys := [0] }
  let atc : List Atc := [{ ctrl := 0, page := 4, pages := 1, r := true, w := true }, { ctrl := 253, page := 4, pages := 1, r := true, w := true }]
  let ks : List Nat := [1, 65536, 65536 * 253]
  let ctrls : Tbl Ctrl := [(0, { en := true, rdy := true }), (1, { en := true, rdy := true, aers := [1] }), (253, { en := true })]
  let s1 := flying [cmd 0 1 2 1 [], cmd 1 0 0x0C 0 []] s
  let s2 := onNvq (fun v => { v with ctrls, sqs := ks.map fun k => (k, q), cqs := ks.map fun k => (k, { size := 4 }) }) s1
  onXlt (fun x => { x with atc }) <| onHpc (fun h =>
    { h with released := true, applied := true, ports := [(n, p)], fns := [(0, { atsEn := true }), (1, { priEn := true })] }) s2

/-- A namespace of 1,024 LBAs of 512 bytes, attached to controller 0. -/
def ns1 : Ns := { size := 1024, fmt := 0, segs := [(0, 0, 128)], att := [0], live := true }

/-- A state with the I/O commands of tags 0, 1, … in flight on namespace 1, well records, and one die in each domain. -/
def ioAt (l : List Tag) (n : Ns := ns1) (idx : List WellRec := []) : State :=
  let s := flying l w0
  { s with fte := { nss := [(1, n)], idx, capD := [(0, 4096)] },
           fch := { dies := [0, 4, 8, 12].map fun d => (d, { present := true }) },
           dre := { doms := (List.range 4).map fun d => (d, { w := 2 }) } }

/-- The record of IU 1 that a Write of its eight LBAs left in the wells. -/
def rec1 : WellRec := { ns := 1, inst := 0, iu := 1, ver := 0, body := { data := [10, 11, 12, 13, 14, 15, 16, 17] } }

/-- A command waiting for host memory: its data context and the page it wants. -/
def waiting (c : Ctx) : Tag := { cmd 0 1 2 1 [0, 0, 0] with st := .suspended, dma := c, ent := { ent 2 1 [0, 0, 0] with segs := [(4096, 512)] } }

/-- A small geometry: blocks of two steps of four codewords. -/
def small : Profile := { blocksPerDie := 8, pages := 2, q := 1, qSlc := 1, steps := 2, slcSteps := 2, floor := 0, spareInit := 0, hyst := 0 }

/-- Three dies of domain 0 with a stripe over block 2 of each; `b` is the entry of die 0's block, and `ops` die 0's queue. -/
def flash (ops : List Dop) (b : Blk := { st := .opened, bst := .opened }) (t : Stripe := { stream := 0, members := [(0, 2), (1, 2), (2, 2)], ppos := 2 }) : State :=
  let s := ioAt []
  { s with prof := small,
           fch := { dies := [(0, { present := true, queue := ops }), (1, { present := true }), (2, { present := true })] },
           dre := { doms := [(0, { w := 3, next := 1 })], stripes := [(0, t)] },
           fte := { s.fte with blks := [(2, b), (65538, b), (131074, b)] } }

/-- An operation on block 2 of a die. -/
def dop (kind : DieKind) (st : DqSt) : Dop := { id := 5, kind, st, block := 2, held := 3, use := .stream }

/-- A codeword of block 2 of die 0 on the ladder, wanted by the read of tag 0. -/
def laddered (l : Ladder) (d : SreDie := {}) : State :=
  let s := flash []
  { s with sre := { ladders := [l], dies := [(0, d)] }, nvq := { s.nvq with tags := [(0, { cmd 0 1 2 1 [8, 0, 0] with want := [16] })] } }

/-- Domain 0 rebuilding after die 2 failed: the closed stripe 0 is exposed and die 3 is free; `r` is its replacement. -/
def rebuilding (r : Option Repl := none) (map : Tbl Nat := [(iuKey 1 1, 2 ^ 28 + 16)]) : State :=
  let b : Blk := { st := .closed, bst := .full, next := 2 }
  let s := flash [] b { stream := 0, members := [(0, 2), (1, 2), (2, 2)], ppos := 0, st := .closed, repl := r }
  { s with fch := { dies := [(0, { present := true }), (1, { present := true }), (2, { failed := true }), (3, { present := true })] },
           dre := { s.dre with doms := [(0, { w := 3, next := 1, st := .rebuilding, rdie := 2, exposed := [0], total := 1 })] },
           fte := { s.fte with map, nand := [(2 ^ 28 + 16, { ns := 1, inst := 0, iu := 1, body := rec1.body })] } }

/-- `rebuilding` with the survivors of the replacement's next step read, all but those in `bad` with success. -/
def surveyed (r : Repl) (bad : List Nat := []) : State :=
  let s := rebuilding (some r)
  let x : Stripe := { stream := 0, members := [(0, 2), (1, 2), (2, 2)], ppos := 0 }
  { s with dre := { s.dre with got := (groupReads s x r.lost r.given).map fun a => (a, !bad.contains a) } }

/-- A codeword on step 5 of the ladder with its reconstruction outstanding. -/
def recon : State := onDre (fun d => { d with recon := [16] }) (laddered { cw := 16, step := 5, readers := [.host 0] })

/-- A mirror pair of namespace 1 with dirty granules, and the twin link up. -/
def mirrored (p : Pair) (dirty : List Nat) : State :=
  { ioAt [] with hpc := { twin := 4 }, dre := { pairs := [(1, p)], dirty } }

/-- A mirrored write in flight. -/
def mirCmd (done : Bool) : Tag := { cmd 0 1 1 1 [8, 0, 7] with mirWait := true, localDone := done }

/-- A memory protection unit in some state. -/
def mprOf (m : Mpr) : State := { w0 with mpr := m }

/-- An update in some state: image slots A (active) and B, profile slots A and B, and an admin command of tag 0. -/
def updOf (l : List Tag) (f : Upd → Upd) : State :=
  let slots : Tbl Slot := [(1, { st := 2, img := some {} }), (2, { st := 1, img := some {} }), (3, { st := 2, prof := some {} }), (4, { st := 2, prof := some {} })]
  let s := flying l w0
  { s with upd := f { slots }, pwr := { huRdy := true } }

/-- An update whose programming of image slot B runs for the commit of tag 0. -/
def jobOf (w : Whs) (kind : Nat := 0) (op : Option Nat := none) (prof : Option Profile := none) : State :=
  { updOf [cmd 0 0 0x10 0 [0]] (fun u => { u with job := some { kind, slot := if kind = 1 then 4 else 2, act := 1, img := some {}, prof, tag := if kind = 1 then none else some 0, op } }) with whs := w }

/-- Update status TRIAL of image slot B, two seconds after the switch. -/
def trialOf : State :=
  let s := updOf [] fun u => { u with st := 3, trial := 2, actImg := 2, prevImg := 1, tries := 1 }
  { s with pwr := { s.pwr with tb := 2000000000 } }

/-- A state whose trough slot 16,128 is held, so that a request can name it. -/
def slot0 (s : State) : State := { s with cam := { s.cam with flags := [(16128, 0x80000000)] } }

/-- The same slot with a page of data in it. -/
def slot4k (s : State) : State := { s with cam := { s.cam with flags := [(16128, 0x80001000)] } }

/-- The slot with `n` bytes in it, the first of them `b`, and a credential state. -/
def signed (n : Nat) (b : Byte) (x : Sec) : State :=
  { w0 with cam := { flags := [(16128, BitVec.ofNat 32 (2 ^ 31 + n))], mem := if b = 0 then [] else [(slotAddr 16128, b)] },
            sec := x, upd := { slots := [(1, { st := 2, img := some { svn := 4 } })] } }

/-- A sanitize in some phase on the dies of `flash`. -/
def sanitizing (r : SanRec) : State :=
  { flash [] with sys := { mode := .sanitize }, cst := { san := some r } }

/-- A whole message of one byte, its type, held by a bus. -/
def held (b : Bus) (ty : Byte) (s : State) : State :=
  { s with sbm := { s.sbm with msgs := s.sbm.msgs ++ [{ bus := b, tag := 0, seq := 0, bytes := [ty], whole := true }] } }

/-- A whole message of a bus with its bytes. -/
def heldB (b : Bus) (bytes : List Byte) (s : State) : State :=
  { s with sbm := { s.sbm with msgs := s.sbm.msgs ++ [{ bus := b, tag := 0, seq := 0, bytes, whole := true }] } }

/-- A control command, and an MI command, in their message's bytes. -/
def ctlMsg (code data : Nat) : List Byte := [0, 0, BitVec.ofNat 8 code, 0, BitVec.ofNat 8 data]
def miBytes (op m0 m1 : Nat) : List Byte := [0x84, 0x08, 0, 0, BitVec.ofNat 8 op, 0, 0, 0] ++ leBytes 4 m0 ++ leBytes 4 m1

/-- A telemetry capture. -/
def cap1 : Capture := { gen := 3, area1 := [0x01020304], area3 := [(2, [9])] }
/-- Every step slot of the translation engine taken, up to `n`. -/
def engFull (n : Nat) : State := { w0 with xlt := { eng := (List.range n).map fun i => (i, { ns := 1, iu := 0 }) } }

/-! ## How hypotheses are shown -/

/-- The checks of `Accepted` as a Bool. -/
def acceptedB (src op : Nat) (s : State) (r : CamReq) : Bool :=
  match nextReq s src, opDef op with
  | some r0, some d => decide (r = trimReq r0 ∧ rqOp r0 = op ∧ ((s.sys.mode.serving = true ∨ s.sys.mode = .boot) ∧ seqUp s 0 = true) ∧
      check57 (taken src s) r d = none ∧ d.lo ≤ rqTgt r ∧ rqTgt r ≤ d.hi ∧ rqTrough r = (d.trough != 0) ∧
      (rqTrough r = true → rqW r 2 &&& 0xC000C000 = 0 ∧ rqW r 3 &&& 0xF8000000 = 0 ∧ slotCheck (taken src s) r d.trough = none))
  | _, _ => false

theorem accepted_of {src op : Nat} {s : State} {r : CamReq} (h : acceptedB src op s r = true) : Accepted src op s r := by
  unfold acceptedB at h
  split at h
  · next r0 d h0 h1 =>
    obtain ⟨a, b, c, e, f, g, i, j⟩ := of_decide_eq_true h
    exact ⟨⟨r0, h0, a, b⟩, c, ⟨d, h1, e, f, g, i, j⟩⟩
  · cases h

theorem adminRuns_of {k op : Nat} {s : State} {t : Tag} (h : tget s.nvq.tags k = some t ∧ (t.st = .run ∧ t.qid = 0 ∧ opc t.ent = op) ∧
    (s.sys.mode.serving = true ∧ seqUp s 1 = true) ∧ t.dma.st.free = true ∧ missAt s t t.dma.prog = none) : AdminRuns k op s t := ⟨h.1, h.2.1, h.2.2.1, h.2.2.2⟩

theorem ioRuns_of {k op : Nat} {s : State} {t : Tag} {n : Ns} (h : tget s.nvq.tags k = some t ∧ (t.st = .run ∧ t.qid ≠ 0 ∧ opc t.ent = op) ∧
    s.sys.mode.serving = true ∧ nsAt s (entNsid t.ent) = some n) : IoRuns k op s t n := ⟨h.1, h.2.1, h.2.2.1, h.2.2.2⟩

theorem unheld_of {s : State} {t : Tag} (h : (fnAt s t.ctrl).atsEn = false ∧ (t.tenant = none ∧ t.moved = 0 ∧ t.reserved = 0 ∧ t.psn = false ∧
    t.placed = false ∧ t.mirWait = false ∧ t.fused = none ∧ t.recs = none ∧ t.cut = none) ∧ (t.dma.st.free = true ∧ t.dma.prog = 0) ∧ t.lkp.st = .idle) : Unheld s t :=
  ⟨h.1, h.2.1, h.2.2.1, h.2.2.2⟩

theorem oneLba_of {s : State} {t : Tag} {n : Ns} {iu i : Nat} {r : WellRec} (h : nlb t.ent = 1 ∧ (iu = slba t.ent / lbasPerIu n.fmt ∧
    i = slba t.ent % lbasPerIu n.fmt) ∧ liveRec s (entNsid t.ent) iu = some r ∧ r.body.psn = [] ∧ r.body.key = nsKey s n) : OneLbaInWell s t n iu i r :=
  ⟨h.1, h.2.1, h.2.2.1, h.2.2.2⟩

theorem mem_of_tget {α : Type} {m : Tbl α} {k : Nat} {x : α} (h : tget m k = some x) : (k, x) ∈ m := by
  induction m with
  | nil => simp [tget] at h
  | cons e m ih =>
    obtain ⟨j, v⟩ := e
    simp only [tget] at h
    split at h
    · next hj => cases h; subst hj; exact List.mem_cons_self
    · exact List.mem_cons_of_mem _ (ih h)

theorem noAer_of {k : Nat} {s : State} (h : ∀ e ∈ s.nvq.ctrls, k ∉ e.2.aers) : NoAer k s := fun _ _ hx => h _ (mem_of_tget hx)

theorem alone_of {k : Nat} {s : State} (h : (∀ e ∈ s.nvq.ctrls, k ∉ e.2.aers) ∧ ∀ e ∈ s.nvq.tags, e.2.fused ≠ some k) : Alone k s :=
  ⟨noAer_of h.1, fun _ _ hx => h.2 _ (mem_of_tget hx)⟩

theorem some_of {α : Type} {p : α → Prop} [DecidablePred p] {o : Option α} (h : (o.all fun x => decide (p x)) = true) : ∀ x, o = some x → p x := by
  intro x hx
  subst hx
  exact of_decide_eq_true h

theorem below_of {n : Nat} {p : Nat → Prop} [DecidablePred p] (h : ((List.range n).all fun i => decide (p i)) = true) : ∀ i, i < n → p i :=
  fun i hi => of_decide_eq_true (List.all_eq_true.1 h i (List.mem_range.2 hi))

theorem thas_of_mem {α : Type} {m : Tbl α} {k : Nat} {x : α} (h : (k, x) ∈ m) : thas m k = true := by
  simp only [thas]
  induction m with
  | nil => cases h
  | cons e m ih =>
    obtain ⟨j, v⟩ := e
    simp only [tget]
    split
    · rfl
    · next hj =>
      rcases List.mem_cons.1 h with h | h
      · cases h; exact absurd rfl hj
      · exact ih h

theorem thas_range {α : Type} (n : Nat) (x : α) (i : Nat) (h : i < n) : thas ((List.range n).map fun i => (i, x)) i = true :=
  thas_of_mem (List.mem_map.2 ⟨i, List.mem_range.2 h, rfl⟩)

theorem engFull_has (n i : Nat) (h : i < n) : thas (engFull n).xlt.eng i = true := thas_range n _ i h

/-! ## The manual's worked examples -/

/-- The next state of an outcome; the state of the tests where it is none. -/
def nextOf (r : Res) : State := match r with | .next s => s | _ => w0

/-- Chapter 2: die 37 of RD1 fails on an OPERATIONAL device, then the spare pool crosses its floor. -/
theorem test_mode_example :
    modeSts { w0 with sys := { mode := .degraded, prevMode := .operational, chgCnt := 2 }, dre := { doms := [(1, { st := .rebuilding })] } } =
      0x02000412 ∧
    critWarn { w0 with fte := { wp := true }, dre := { doms := [(1, { st := .rebuilding })] } } = 0x0D := by decide +kernel

/-- Chapter 3: the buffer of slots 100 to 102 with 10,000 bytes; TROUGH_CHECK of it through ring 0, entry 7, slot 102 with flag `f`. -/
def troughExample (f : Word) : State :=
  ask 0 0x0106 0xFFFF [0x00020064, 0x2710] { w0 with cam := { dramTrough := true, flags := [(100, 0x80001000), (101, 0x80001000), (102, f)], rings := [(0, { vec := 3, irqEn := true, size := 8, en := true, head := 7, rplNext := 7, tail := 8, reserved := 1 })] } } 0x04000000

/-- Chapter 3: the slots are returned. -/
theorem test_trough_check_returns_slots :
    (nextOf (execTroughCheck 0 (troughExample 0x80000710))).cam.flags = [(100, 0x1000), (101, 0x1000), (102, 0x710)] := by decide +kernel

/-- Chapter 3: with slot 102 not handed over, the reply is 0x0001_0008 with D0 0x0000_0066, in entry 7 at 0x0110_00E0. -/
theorem test_trough_check_refused :
    [0x011000E0, 0x011000E2, 0x011000E8].map (fun a => (mread 0 (nextOf (execTroughCheck 0 (troughExample 0x710))).cam.mem a 1)) =
      [[8], [1], [0x66]] := by decide +kernel

/-- Chapter 6: the scales under a lowered cap. -/
theorem test_scale_example : scaleOf 22500 30000 = 768 ∧ scaleOf 16875 30000 = 576 := by decide

/-- Chapter 7: VF 3 of PF 0 on HP1 is controller 256; the record of its suspended read. -/
theorem test_susp_list_example : ctrlOf 1 3 = 256 ∧
    suspRecs { w0 with pwr := { w0.pwr with tb := 100000 } } 0x321
      { cmd 256 1 2 1 [] with dma := { st := .pgWait, prog := 16384, since := 35300, prg := 17 } } =
        [(35300, [0x20000321, 0x00004000, 0x00000040, 0x10030011])] := by decide +kernel

/-- Chapter 9: where FCH_DIEQ_STS[37] lies and what it reads during read C. -/
theorem test_die_queue_example : regAt 0x00183150 = some (.fchDieqSts, 37) ∧
    dieqW { present := true, queue := [{ dop .erase .suspended with susp := 3 }, { dop .read .array with id := 6 }] } = 0xB3210000 := by
  decide +kernel

/-- Chapter 11: die 37 belongs to RD1 and lies on CH02. -/
theorem test_die_place_example : dieDom 37 = 1 ∧ chanOf 37 = 2 := by decide

/-- Chapter 13: channel 13's burst 140 fails a fourth time. -/
theorem test_pump_halt_example :
    let s := nextOf (execBurstError 13 140 .parity { w0 with pmp := { ch := [(13, { src := 0x00700000, dst := 0x0012C000, cnt := 0x10000, ctl := 0x10042000, busy := true, retries := 3, issued := 141, tries := [(140, 3)], done := 35840 })] } })
    regValue s .pmpSts 13 = 0x41030000 := by decide +kernel

/-- Chapter 14: what a corrected error of well word 4,504,005 leaves in MPR_LAST_ERR and MPR_ERR_LOC. -/
theorem test_last_error_example :
    let s := nextOf (execUncorrectableRead 0 549 4504005 false .corrected w0)
    regValue s .mprLastErr 0 = 0x82250000 ∧ regValue s .mprErrLoc 0 = 0x0044B9C5 := by decide +kernel

/-- Chapter 15: the watchdog of CS06 latches. -/
theorem test_fault_latch_example :
    let s := nextOf (execFaultRailCode 144 true false 99 w0)
    regValue s .fltLast 0 = 0x80032090 ∧ regValue s .fltLatch 4 = 0x00010000 ∧ regValue s .fltAssert 4 = 0x00010000 := by decide +kernel

/-- Chapter 16: the time base after a STANDPIPE wake. -/
theorem test_time_rebuild_example :
    let s := rebuildTb { w0 with pwr := { w0.pwr with pair := some (5000000000000, 163840000), rtc := 165806080, rtcValid := true, ratio := 0x7734F7C1 } }
    s.pwr.tb = 5059998800030 ∧ regValue s .pwrTimeSts 0 = 0x80000727 := by decide +kernel

/-- Chapter 19: the reply to DIE_STATUS of an idle die. -/
theorem test_die_status_example :
    (nextOf (execDieStatus 8 (ask 8 0x0402 37 [] { w0 with fch := { dies := [(37, { present := true })] } }))).out.contains
      (.reply 8 [0x00050000, 0x04020007, 0x80000000, 0, 0, 0, 0, 0] []) = true := by decide +kernel

/-- Chapter 20: where words of a capture's area 1 lie. -/
theorem test_capture_words_example :
    let l := ((area1Regs.flatMap fun r => (List.range (regDef r).n).map fun i => ((regDef r).addrOf i, (0 : Word))).foldr insWord []).map (·.1)
    l.length = 156 ∧ l[83]? = some 0x340010 ∧ [90, 91, 92, 93, 105, 109, 117].map (fun i => (l[i]?).bind regAt) =
      [some (.fltSts, 0), some (.fltEvt, 0), some (.fltLast, 0), some (.fltAssert, 0), some (.fltLatch, 0), some (.fltLatch, 4),
       some (.pwrSts, 0)] := by decide +kernel

/-! ## Chapter 21 -/

/-- The manual's examples of the ball map: NF05_DQ3 is AU5, HP2_PERST_N is C37, DM2B_DQ5 is BT38. -/
theorem test_ball_examples : (rowName 35, ballAt 35 5) = ("AU", some (.sig "NF" 5 "DQ3")) ∧
    (rowName 3, ballAt 3 37) = ("C", some (.sig "HP" 2 "PERST_N")) ∧
    (rowName 53, ballAt 53 38) = ("BT", some (.sig "DMB" 2 "DQ5")) := by decide +kernel

/-- Rows A, J, L, AT and CA, and the corners of the array. -/
theorem test_ball_rows : [1, 9, 11, 34, 58].map rowName = ["A", "J", "L", "AT", "CA"] ∧ ballAt 1 1 = some .vss ∧
    ballAt 48 47 = some (.sig "NF" 31 "CE7_N") ∧ ballAt 11 43 = some (.rail .vddWhs) ∧ ballAt 59 1 = none := by decide +kernel

/-- The CAPV example of R482: the ready point, the full charge and the overvoltage point. -/
theorem test_capv_codes : [900000, 967100, 1050000, 2000000].map capvCode = [0xC00, 0xCE5, 0xE00, 4095] := by decide +kernel

/-- Table 21-1: the edges of VDD_HP's and of VDDQ_NAND's ranges. -/
theorem test_rail_edges : railInRange 2 .vddHp 735000 = true ∧ railInRange 2 .vddHp 734999 = false ∧ railInRange 1 .vddqNand 1260000 = true ∧
    railInRange 2 .vddqNand 630001 = false := by decide +kernel

/-! ## Ill-formed commands are refused -/

theorem test_wf_refuses_1 : List.all (α := Instr) [
    .spillProgramPass 512, .capvConversion 2100001, .standpipeSample 0 2100001, .idleGating 46, .islandWakeOnAccess 46 true,
    .handshakeTimeout 46, .alarmMatch 4, .ptmRequest 4, .ptmExchangeComplete 4 0, .tokenGrant 512 0, .recalibrationRead 512 0,
    .perstNAsserted 4, .perstNDeasserted 4, .hotReset 4, .linkDown 4, .flrPf 1012, .flrVf 1012, .configRequest 1012 .read true,
    .ideCheckFail 4 0 none [], .ideCheckFail 0 0 (some 65536) [], .receivedErrorTlp 4 .ecrc 0 none [],
    .receivedErrorTlp 0 .ecrc 1012 none [], .receivedErrorTlp 0 .ecrc 0 (some 65536) [], .completionTimeout 4 none,
    .completionTimeout 0 (some 65536), .atsInvalidateRequest 4 0 0 0, .controllerEnable 1012 0 0 0 0, .controllerReset 1012,
    .shutdownNotification 1012, .nvmSubsystemReset 1012] (fun i => !i.wf) = true := by decide +kernel

theorem test_wf_refuses_2 : List.all (α := Instr) [
    .sqTailDoorbell 1012 0 0, .sqTailDoorbell 0 65536 0, .sqTailDoorbell 0 0 4294967296, .cqHeadDoorbell 1012 0 0,
    .cqHeadDoorbell 0 65536 0, .cqHeadDoorbell 0 0 4294967296, .submissionFetch 1012 0 .failed, .submissionFetch 0 65536 .failed,
    .submissionFetch 0 0 (.entries [{ dw := [] }]), .contextMadeHot 1012 0, .contextMadeHot 0 65536, .fetchRetry 1012 0 .failed,
    .fetchRetry 0 65536 .failed, .fetchRetry 0 0 (.entries [{ dw := [] }]), .admitToRun 65536, .completionPost 65536,
    .heldAenDelivery 1012, .deleteIoSubmissionQueue 65536, .createIoSubmissionQueue 65536, .getLogPage 65536,
    .deleteIoCompletionQueue 65536, .createIoCompletionQueue 65536, .identify 65536, .abort 65536, .setFeatures 65536,
    .getFeatures 65536, .asynchronousEventRequest 65536, .namespaceManagement 65536 0 0 0, .firmwareCommit 65536 {},
    .firmwareImageDownload 65536] (fun i => !i.wf) = true := by decide +kernel

theorem test_wf_refuses_3 : List.all (α := Instr) [
    .deviceSelfTest 65536, .namespaceAttachment 65536 [], .virtualizationManagement 65536, .nvmeMiSend 65536, .nvmeMiReceive 65536,
    .formatNvm 65536, .securitySend 65536 .supported, .securityReceive 65536, .sanitize 65536, .camentPacket 65536, .flush 65536,
    .write 65536 .ok true [], .read 65536 [], .writeUncorrectable 65536, .compare 65536 [] [],
    .fusedCompareAndWrite 65536 [] true [] [], .writeZeroes 65536 .ok, .datasetManagement 65536, .verify 65536 [],
    .transferBlockStart 65536, .prgSend 65536, .prgResponse 1012 0 .success, .prgTimeout 1012 0, .pagePassed 512 0 0 [] true,
    .writeGrant 65536, .gcSelect 4, .gcScan 4 0 [], .gcDrain 4 0, .erasePass 512 0, .eraseFailure 512 0] (fun i => !i.wf) = true := by decide +kernel

theorem test_wf_refuses_4 : List.all (α := Instr) [
    .programFailure 512 0 0, .dieEntryChosen 512, .busTransferGrant 32 0, .busTransferGrant 0 512, .dieReadyPoll 512,
    .arrayOverrun 512, .suspendDue 512, .eraseSuspendDone 512, .resumeDue 512, .readAroundOffer 512 0, .channelTempSample 32 0,
    .marginCheck 32 0, .frameReceived 32 0 { lead := 0, backup := 0 }, .candidateExpiry 512 0 0, .loopWindowUpdate 512 0,
    .stripeIdleClose 4 0, .rebuildStripeStep 4 0 [] true, .rebuildMapScan 4, .mirrorCompletion 65536, .mirrorTimeout 65536,
    .allocate 64 0, .allocationWaitServed 4, .allocationWaitTimeout 64, .free 64 0, .attach 64 0, .detach 64 0, .handover 64 0 0,
    .pmpGo 16 0 0 0 0, .pmpAbort 16, .burstAck 16 0] (fun i => !i.wf) = true := by decide +kernel

theorem test_wf_refuses_5 : List.all (α := Instr) [
    .burstError 16 0 .parity, .burstRetry 16 0, .uncorrectableRead 6 0 0 true .other, .narrowWrite 128 0 true,
    .mergeBufferFree 128, .trackingEntryExpiry 5 0 0, .scrubPass 7 [] [], .faultRailCode 384 true true 0, .nmtEscalation 384,
    .islandResetComplete 46, .fltLatchClear 1012 0 0, .fltLatchClear 0 12 0, .fltPinClr 1012 0, .fltInj 1012 0,
    .spdmRequest 6 .supported, .setEndpointId .i3c 256, .controllerHealthStatusPoll .i3c 1012, .sensorConversion 18 none,
    .dramRetrain 4 0, .sysCamRcfg 1012 0 0, .sysCamRcfg 0 4 0, .sysCamRdb 1012 0 0, .sysCamRdb 0 4 0, .requestTaken 4,
    .replyStallTimeout 4, .longOperationEnd 64 0 [], .nop 9, .deviceInfo 9, .opQuery 9, .opCancel 9] (fun i => !i.wf) = true := by decide +kernel

theorem test_wf_refuses_6 : List.all (α := Instr) [
    .chipReset 9, .troughRelease 9, .troughCheck 9, .troughPut 9, .troughGet 9, .modeGet 9, .modeRequest 9, .qosInfo 9,
    .tenantSet 9, .tenantGet 9, .tenantBind 9, .tenantTrace 9, .xltInfo 9, .suspList 9, .atcDrop 9, .fteInfo 9, .domCapacity 9,
    .blockInfo 9, .nsPlacement 9, .gcControl 9, .badlbaList 9, .fchInfo 9, .chStatus 9, .dieStatus 9, .chRetrain 9, .dieParam 9,
    .bstGet 9, .sreInfo 9, .loopGet 9, .defectList 9] (fun i => !i.wf) = true := by decide +kernel

theorem test_wf_refuses_7 : List.all (α := Instr) [
    .coldefAdd 9, .loopReset 9, .ladderProbe 9, .dreInfo 9, .domStatus 9, .rebuildCtl 9, .dieRetire 9, .stripeInfo 9,
    .mirrorSet 9 true, .mirrorStatus 9, .cstInfo 9, .eventRead 9, .ckptNow 9, .bankRetest 9, .welInfo 9, .poolStatus 9,
    .rqStatus 9, .pumpStart 9, .pumpStatus 9, .mprInfo 9, .eccCounts 9, .repairList 9, .scrubNow 9, .fltInfo 9, .srcStatus 9,
    .srcClear 9, .faultList 9, .faultInject 9, .pinRelease 9, .pwrInfo 9] (fun i => !i.wf) = true := by decide +kernel

theorem test_wf_refuses_8 : List.all (α := Instr) [
    .powerCapSet 9, .timeGet 9, .rtcAlarm 9, .chargerCtl 9, .profileInfo 9, .profileWrite 9 {}, .profileSelect 9, .updInfo 9,
    .imageStage 9, .imageCommit 9 {}, .stageDiscard 9, .slotInfo 9, .whsRead 9, .secInfo 9, .ownerChallenge 9, .ownerSet 9 true,
    .ownerLock 9 true, .ownerRelease 9 true, .svnRaise 9 true, .telInfo 9, .sensorRead 9, .telSnapshot 9,
    .registerWrite 1012 0 0 0, .registerWrite 0 134217728 4 0, .registerWrite 0 0 3 0, .registerRead 1012 0 0,
    .registerRead 0 134217728 4, .registerRead 0 0 3, .ringEntryWrite 1012 0 [], .ringEntryWrite 0 134217728 []] (fun i => !i.wf) = true := by decide +kernel

theorem test_wf_refuses_9 : List.all (α := Instr) [
    .slotFlagWrite 1012 0 0 0, .slotFlagWrite 0 134217728 4 0, .slotFlagWrite 0 0 3 0, .linkUp 4 0 0 true,
    .dieResetReadyTimeout 512, .whsReadBusyTimeout 9] (fun i => !i.wf) = true := by decide +kernel

/-! ## The hypotheses of the statements are met -/

/-! `Obligations.StepTakesFrontCommand` -/

theorem test_met_StepTakesFrontCommand :
    ∃ (s : State), s.pending = [] :=
  ⟨w0, by decide +kernel⟩

/-! `Obligations.EveryCommandCompletes` -/

theorem test_met_EveryCommandCompletes :
    (∃ (c : Instr), inWindow c = true) ∧
    (∃ (addr : Nat) (size : Nat), 2 ^ 27 < addr + size) ∧
    (∃ (addr : Nat) (size : Nat), 2 ^ 27 < addr + size) ∧
    (∃ (addr : Nat) (bytes : List Byte), 2 ^ 27 < addr + bytes.length) ∧
    (∃ (addr : Nat) (size : Nat), 2 ^ 27 < addr + size) :=
  ⟨⟨.ringEntryWrite 0 (2 ^ 27 - 2) [1, 2], by decide +kernel⟩,
  ⟨2 ^ 27 - 3, 4, by decide +kernel⟩,
  ⟨2 ^ 27, 1, by decide +kernel⟩,
  ⟨2 ^ 27 - 1, [1, 2], by decide +kernel⟩,
  ⟨2 ^ 27 - 3, 4, by decide +kernel⟩⟩

/-! `Obligations.StepsKeepMemoryForm` -/

theorem test_met_StepsKeepMemoryForm :
    ∃ (s : State) (t : State), MemsWf s ∧ step s = .next t :=
  ⟨State.reset, State.reset, (by unfold MemsWf; decide +kernel), rfl⟩

/-! `Obligations.ResetState` -/

/-! `Obligations.RegisterWrites` -/

theorem test_met_RegisterWrites :
    (∃ (r : RegId) (i : Nat) (fn : Nat) (addr : Nat) (s : State), plainReg r = true ∧ addr < 0x01000000 ∧ addr % 4 = 0 ∧ barUp s fn =
      true ∧ regAt addr = some (r, i) ∧ regServed (wake s) r i = true) ∧
    (∃ (fn : Nat) (addr : Nat) (size : Nat) (s : State), addr < 0x01000000 ∧ addr + size ≤ 2 ^ 27 ∧ barUp s fn = true ∧ (addr % 4 ≠ 0 ∨
      (size ≠ 4 ∧ size ≠ 8))) ∧
    (∃ (fn : Nat) (addr : Nat) (s : State), addr < 0x00FFFFFC ∧ addr % 4 = 0 ∧ barUp s fn = true ∧ accServed (wake s) addr 8 = true) ∧
    (∃ (fn : Nat) (addr : Nat) (size : Nat) (s : State), addr < 0x01000000 ∧ addr + size ≤ 2 ^ 27 ∧ barUp s fn = true ∧ addr % 4 = 0 ∧
      (size = 4 ∨ size = 8) ∧ accServed (wake s) addr size = false) ∧
    (∃ (fn : Nat) (addr : Nat) (size : Nat) (s : State), addr + size ≤ 2 ^ 27 ∧ barUp s fn = false) :=
  ⟨⟨.hpcPortEvt, 1, 0, (regDef .hpcPortEvt).addrOf 1, { w0 with regs := [((regDef .hpcPortEvt).addrOf 1, 5)] }, by decide +kernel⟩,
  ⟨0, 0x00FFFFFE, 4, w0, by decide +kernel⟩,
  ⟨0, 0x00FFFFF8, w0, by decide +kernel⟩,
  ⟨0, regA .welCfg, 4, { w0 with pwr := { isl := (upFrom 24 4).map fun i => (i, IslSt.reset) } }, by decide +kernel⟩,
  ⟨0, 2 ^ 27 - 4, 4, { w0 with sys := { mode := .holdup } }, by decide +kernel⟩⟩

/-! `Obligations.BootLockFixesRegisters` -/

theorem test_met_BootLockFixesRegisters :
    (∃ (r : RegId) (s : State), freelyLoaded r = true ∧ s.sys.locked = false) ∧
    (∃ (r : RegId) (s : State), freelyLoaded r = true ∧ s.sys.locked = true) :=
  ⟨⟨.qosCfg, w0, by decide +kernel⟩,
  ⟨.sbmCfg, { w0 with sys := { mode := .operational, locked := true } }, by decide +kernel⟩⟩

/-! `Obligations.RegisterReads` -/

theorem test_met_RegisterReads :
    (∃ (fn : Nat) (addr : Nat) (s : State), addr < 0x01000000 ∧ addr % 4 = 0 ∧ barUp s fn = true ∧ s.sys.mode ≠ .standpipe ∧
      s.sys.modeReq ≠ some .standpipe ∧ accServed s addr 4 = true) ∧
    (∃ (addr : Nat), regAt addr = none) ∧
    (∃ (fn : Nat) (addr : Nat) (size : Nat) (s : State), addr < 0x01000000 ∧ addr + size ≤ 2 ^ 27 ∧ barUp s fn = true ∧ (addr % 4 ≠ 0 ∨
      (size ≠ 4 ∧ size ≠ 8)) ∧ accServed (wake s) addr size = true) ∧
    (∃ (fn : Nat) (addr : Nat) (size : Nat) (s : State), addr < 0x01000000 ∧ addr + size ≤ 2 ^ 27 ∧ barUp s fn = true ∧ accServed (wake
      s) addr size = false) ∧
    (∃ (k : Nat) (s : State), k < 1024 ∧ (tget s.qos.tnts k).isSome = true) :=
  ⟨⟨0, 0x00FFFFFC, w0, by decide +kernel⟩,
  ⟨4, by decide +kernel⟩,
  ⟨0, 0x00FFFFFF, 2, w0, by decide +kernel⟩,
  ⟨0, regA .welCfg, 4, { w0 with pwr := { isl := (upFrom 24 4).map fun i => (i, IslSt.reset) } }, by decide +kernel⟩,
  ⟨1023, { w0 with qos := { tnts := [(1023, { units := 2 ^ 40 + 5, ops := 3 })] } }, by decide +kernel⟩⟩

/-! `Obligations.RingConfiguration` -/

theorem test_met_RingConfiguration :
    (∃ (fn : Nat) (p : Nat) (v : Word) (s : State), barUp s fn = true ∧ p < 4 ∧ (ringAt s p).en = false ∧ ringActive s p = false ∧ bitOf
      v 0 = true ∧ 6 ≤ fld v 4 4 ∧ fld v 4 4 ≤ 12) ∧
    (∃ (fn : Nat) (p : Nat) (v : Word) (s : State), barUp s fn = true ∧ p < 4 ∧ (ringAt s p).en = false ∧ ringActive s p = false ∧ bitOf
      v 0 = true ∧ (fld v 4 4 < 6 ∨ 12 < fld v 4 4)) ∧
    (∃ (fn : Nat) (p : Nat) (v : Word) (s : State), barUp s fn = true ∧ p < 4 ∧ (ringAt s p).en = true ∧ bitOf v 0 = false) ∧
    (∃ (fn : Nat) (p : Nat) (v : Word) (s : State), barUp s fn = true ∧ p < 4 ∧ (ringAt s p).en = true ∧ fld v 0 12 < (ringAt s p).n) ∧
    (∃ (fn : Nat) (p : Nat) (v : Word) (s : State), barUp s fn = true ∧ p < 4 ∧ (ringAt s p).en = true ∧ (ringAt s p).n ≤ fld v 0 12) ∧
    (∃ (fn : Nat) (p : Nat) (s : State), barUp s fn = true ∧ p < 4 ∧ (ringAt s p).en = false) ∧
    (∃ (fn : Nat) (s : State), barUp s fn = false) ∧
    (∃ (fn : Nat) (s : State), barUp s fn = false) :=
  ⟨⟨0, 3, 0x07FF01C1, { w0 with cam := { mem := [(0x01600003, 0x80), (0x01600103, 0x80)] } }, by decide +kernel⟩,
  ⟨0, 0, 0x000000D1, w0, by decide +kernel⟩,
  ⟨0, 1, 0,
    { w0 with cam := { rings := [(1, { en := true, size := 6 })], queue := [{ src := 1, words := [] }], ops := [(5, { src := 1 })] } },
    by decide +kernel⟩,
  ⟨0, 3, 0x3F, { w0 with cam := { rings := [(3, { en := true, size := 6 })] } }, by decide +kernel⟩,
  ⟨0, 0, 0x40, { w0 with cam := { rings := [(0, { en := true, size := 6 })] } }, by decide +kernel⟩,
  ⟨0, 3, w0, by decide +kernel⟩,
  ⟨2, w0, by decide +kernel⟩,
  ⟨2, w0, by decide +kernel⟩⟩

/-! `Obligations.RequestTaking` -/

theorem test_met_RequestTaking :
    (∃ (p : Nat) (s : State), p < 4 ∧ seqUp s 0 = true ∧ ringsServed s = true ∧ (ringAt s p).en = true ∧ (ringAt s p).head ≠ (ringAt s
      p).tail ∧ ownAt s (reqAddr p (ringAt s p).head) = true ∧ replyRoom s p (ringAt s p) (headReq s p) = true ∧ ((s.cam.queue ++
      [headReq s p]).find? fun r => r.src == p).all (fun r => check14 r == none) = true) ∧
    (∃ (p : Nat) (s : State) (x : Nat × List Word), p < 4 ∧ seqUp s 0 = true ∧ ringsServed s = true ∧ (ringAt s p).en = true ∧ (ringAt s
      p).head ≠ (ringAt s p).tail ∧ ownAt s (reqAddr p (ringAt s p).head) = true ∧ replyRoom s p (ringAt s p) (headReq s p) = true ∧
      check14 (headReq s p) = some x ∧ s.cam.queue.any (fun r => r.src == p) = false) ∧
    (∃ (p : Nat) (s : State), p < 4 ∧ seqUp s 0 = true ∧ ringsServed s = true ∧ (ringAt s p).en = true ∧ (ringAt s p).head ≠ (ringAt s
      p).tail ∧ ownAt s (reqAddr p (ringAt s p).head) = false) ∧
    (∃ (p : Nat) (s : State), p < 4 ∧ ringsServed s = true ∧ (ringAt s p).en = true ∧ (ringAt s p).head ≠ (ringAt s p).tail ∧ ownAt s
      (reqAddr p (ringAt s p).head) = true ∧ replyRoom s p (ringAt s p) (headReq s p) = false) ∧
    (∃ (p : Nat) (s : State), p < 4 ∧ ringsServed s = true ∧ (ringAt s p).en = true ∧ (ringAt s p).head ≠ (ringAt s p).tail ∧ ownAt s
      (reqAddr p (ringAt s p).head) = true ∧ replyRoom s p (ringAt s p) (headReq s p) = false) :=
  ⟨⟨3,
    { w0 with cam := { rings := [(3, { en := true, size := 6, head := 63, irqEn := true })], mem := mwrite 0 (mwrite 0 [] (reqAddr 3 63) (wordBytes [0x82010100, 0xFFFF0007])) (rplAddr 3 0 + 3) [0x80] } },
    by decide +kernel⟩,
  ⟨0,
    { w0 with cam := { rings := [(0, { en := true, size := 6, tail := 1 })], mem := mwrite 0 (mwrite 0 [] (reqAddr 0 0) (wordBytes [0x80010102, 0xFFFF0007])) (rplAddr 0 0 + 3) [0x80] } },
    (check14 (headReq
    ({ w0 with cam := { rings := [(0, { en := true, size := 6, tail := 1 })], mem := mwrite 0 (mwrite 0 [] (reqAddr 0 0) (wordBytes [0x80010102, 0xFFFF0007])) (rplAddr 0 0 + 3) [0x80] } })
    0)).getD (0, []), by decide +kernel⟩,
  ⟨0, { w0 with cam := { rings := [(0, { en := true, size := 6, tail := 1 })] } }, by decide +kernel⟩,
  ⟨3,
    { w0 with cam := { rings := [(3, { en := true, size := 6, tail := 1 })], mem := mwrite 0 [] (reqAddr 3 0) (wordBytes [0x80010100, 0xFFFF0007]) } },
    by decide +kernel⟩,
  ⟨3,
    { w0 with cam := { rings := [(3, { en := true, size := 6, tail := 1 })], mem := mwrite 0 [] (reqAddr 3 0) (wordBytes [0x80010100, 0xFFFF0007]) } },
    by decide +kernel⟩⟩

/-! `Obligations.WindowMemory` -/

theorem test_met_WindowMemory :
    (∃ (fn : Nat) (addr : Nat) (bytes : List Byte) (s : State), barUp s fn = true ∧ 0x05F00000 ≤ addr ∧ addr + bytes.length ≤ 0x06000000)
      ∧
    (∃ (fn : Nat) (p : Nat) (i : Nat) (bytes : List Byte) (s : State), barUp s fn = true ∧ p < 4 ∧ (ringAt s p).en = true ∧ i < (ringAt s
      p).n ∧ (ringAt s p).n ≤ 4096 ∧ bytes.length ≤ 64 ∧ ownAt s (reqAddr p i) = true) ∧
    (∃ (fn : Nat) (k : Nat) (s : State), barUp s fn = true ∧ sideSlot ≤ k ∧ k < slotCount ∧ bitOf (slotFlag s k) 30 = false) ∧
    (∃ (fn : Nat) (k : Nat) (s : State), barUp s fn = true ∧ k < slotCount ∧ bitOf (slotFlag s k) 30 = true) ∧
    (∃ (fn : Nat) (addr : Nat) (size : Nat) (s : State), barUp s fn = true ∧ 0x05F00000 ≤ addr ∧ addr + size ≤ 0x06000000) :=
  ⟨⟨0, 0x05F00000, [1, 0, 255], w0, by decide +kernel⟩,
  ⟨0, 3, 63, List.replicate 64 7,
    { w0 with cam := { rings := [(3, { en := true, size := 6 })], mem := mwrite 0 [] (reqAddr 3 63 + 3) [0x80] } }, by decide +kernel⟩,
  ⟨0, sideSlot, w0, by decide +kernel⟩,
  ⟨0, slotCount - 1, { w0 with cam := { flags := [(slotCount - 1, 0xC0000000)] } }, by decide +kernel⟩,
  ⟨0, 0x05FFFFF8, 8, { w0 with cam := { mem := [(0x05FFFFFF, 9)] } }, by decide +kernel⟩⟩

/-! `Obligations.RepliesByPath` -/

theorem test_met_RepliesByPath :
    (∃ (r : CamReq) (s : State), s.sys.mode ≠ .holdup ∧ r.mute = false ∧ r.src < 4 ∧ (ringAt s r.src).en = true ∧ (ringAt s
      r.src).rplNext < 4096) ∧
    (∃ (r : CamReq) (s : State), let x := ringAt s r.src; ∃ a, s.sys.mode ≠ .holdup ∧ r.mute = false ∧ r.src < 4 ∧ (ringAt s r.src).en =
      true ∧ (ringAt s r.src).rplNext < 4096 ∧ (a < rplAddr r.src x.rplNext ∨ rplAddr r.src x.rplNext + 32 ≤ a)) ∧
    (∃ (r : CamReq) (s : State), s.sys.mode ≠ .holdup ∧ r.mute = false ∧ r.src < 4 ∧ (ringAt s r.src).en = true ∧ (ringAt s
      r.src).rplNext < 4096) ∧
    (∃ (r : CamReq) (s : State), s.sys.mode ≠ .holdup ∧ r.mute = false ∧ r.src < 4 ∧ (ringAt s r.src).en = true ∧ (ringAt s
      r.src).rplNext < 4096) ∧
    (∃ (r : CamReq) (s : State), s.sys.mode ≠ .holdup ∧ r.mute = false ∧ r.src < 4 ∧ (ringAt s r.src).en = true ∧ (ringAt s
      r.src).rplNext < 4096) ∧
    (∃ (r : CamReq) (tag : Nat) (x : Tag) (s : State), s.sys.mode ≠ .holdup ∧ r.mute = false ∧ 4 ≤ r.src ∧ r.tag = some tag ∧ tget
      s.nvq.tags tag = some x ∧ x.st ≠ .post ∧ opc x.ent = 0xC0 ∧ (tget s.nvq.ctrls x.ctrl).isSome = true) ∧
    (∃ (r : CamReq) (tag : Nat) (x : Tag) (s : State), s.sys.mode ≠ .holdup ∧ r.mute = false ∧ 4 ≤ r.src ∧ r.tag = some tag ∧ tget
      s.nvq.tags tag = some x ∧ x.st ≠ .post ∧ opc x.ent = 0xC0 ∧ (tget s.nvq.ctrls x.ctrl).isSome = true) ∧
    (∃ (r : CamReq) (tag : Nat) (x : Tag) (s : State), s.sys.mode ≠ .holdup ∧ r.mute = false ∧ 4 ≤ r.src ∧ r.tag = some tag ∧ tget
      s.nvq.tags tag = some x ∧ x.st ≠ .post ∧ opc x.ent = 0xC0 ∧ (tget s.nvq.ctrls x.ctrl).isSome = true) ∧
    (∃ (r : CamReq) (s : State), s.sys.mode ≠ .holdup ∧ r.mute = false ∧ 4 ≤ r.src ∧ r.tag = none) ∧
    (∃ (r : CamReq) (s : State), (s.sys.mode = .holdup ∨ r.mute = true)) :=
  ⟨⟨{ src := 3, words := [0x01010000, 0x00070001] },
    { w0 with cam := { rings := [(3, { en := true, size := 12, rplNext := 4095, reserved := 1, irqEn := true, vec := 2047 })] } },
    by decide +kernel⟩,
  ⟨{ src := 3, words := [0x01010000, 0x00070001] }, { w0 with cam := { rings := [(3, { en := true, size := 12, rplNext := 4095 })] } },
    rplAddr 3 4095 + 32, by decide +kernel⟩,
  ⟨{ src := 3, words := [0x01010000, 0x00070001] },
    { w0 with cam := { rings := [(3, { en := true, size := 12, rplNext := 4095, reserved := 1, irqEn := true, vec := 2047 })] } },
    by decide +kernel⟩,
  ⟨{ src := 3, words := [0x01010000, 0x00070001] },
    { w0 with cam := { rings := [(3, { en := true, size := 12, rplNext := 4095, reserved := 1, irqEn := true, vec := 2047 })] } },
    by decide +kernel⟩,
  ⟨{ src := 3, words := [0x01010000, 0x00070001] },
    { w0 with cam := { rings := [(3, { en := true, size := 12, rplNext := 4095, reserved := 1, irqEn := true, vec := 2047 })] } },
    by decide +kernel⟩,
  ⟨{ src := 7, words := [0x00010100, 0x00070001], tag := some 1 }, 1, (tget (flying [tg0, cmd 0 0 0xC0 0 []] w0).nvq.tags 1).getD tg0,
    flying [tg0, cmd 0 0 0xC0 0 []] w0, by decide +kernel⟩,
  ⟨{ src := 7, words := [0x00010100, 0x00070001], tag := some 1 }, 1, (tget (flying [tg0, cmd 0 0 0xC0 0 []] w0).nvq.tags 1).getD tg0,
    flying [tg0, cmd 0 0 0xC0 0 []] w0, by decide +kernel⟩,
  ⟨{ src := 7, words := [0x00010100, 0x00070001], tag := some 1 }, 1, (tget (flying [tg0, cmd 0 0 0xC0 0 []] w0).nvq.tags 1).getD tg0,
    flying [tg0, cmd 0 0 0xC0 0 []] w0, by decide +kernel⟩,
  ⟨{ src := 8, words := [0x00010100, 0x00070001], bus := some .smbus }, w0, by decide +kernel⟩,
  ⟨{ src := 0, words := [], mute := true }, w0, by decide +kernel⟩⟩

/-! `Obligations.RequestChecks` -/

theorem test_met_RequestChecks :
    (∃ (c : Instr) (op : Nat) (src : Nat) (s : State) (r0 : CamReq) (d : OpDef), camOp c = some (op, src) ∧ nextReq s src = some r0 ∧
      rqOp r0 = op ∧ 1 ≤ rqLen r0 ∧ opDef op = some d ∧ (s.sys.mode.serving = true ∨ s.sys.mode = .boot) ∧ seqUp s 0 = true ∧ groupOk s
      op = false) ∧
    (∃ (c : Instr) (op : Nat) (src : Nat) (s : State) (r0 : CamReq) (d : OpDef), camOp c = some (op, src) ∧ nextReq s src = some r0 ∧
      rqOp r0 = op ∧ 1 ≤ rqLen r0 ∧ opDef op = some d ∧ (s.sys.mode.serving = true ∨ s.sys.mode = .boot) ∧ seqUp s 0 = true ∧ groupOk s
      op = true ∧ d.lock = true ∧ s.sec.lock = true) ∧
    (∃ (c : Instr) (op : Nat) (src : Nat) (s : State) (r0 : CamReq) (d : OpDef), let r := trimReq r0; ∃ h, camOp c = some (op, src) ∧
      nextReq s src = some r0 ∧ rqOp r0 = op ∧ 1 ≤ rqLen r0 ∧ opDef op = some d ∧ (s.sys.mode.serving = true ∨ s.sys.mode = .boot) ∧
      seqUp s 0 = true ∧ groupOk s op = true ∧ (d.lock = false ∨ s.sec.lock = false) ∧ tagHolder s r.src (rqTag r) = some h) ∧
    (∃ (c : Instr) (op : Nat) (src : Nat) (s : State) (r0 : CamReq) (d : OpDef), let r := trimReq r0; camOp c = some (op, src) ∧ nextReq
      s src = some r0 ∧ rqOp r0 = op ∧ 1 ≤ rqLen r0 ∧ opDef op = some d ∧ (s.sys.mode.serving = true ∨ s.sys.mode = .boot) ∧ seqUp s 0 =
      true ∧ groupOk s op = true ∧ (d.lock = false ∨ s.sec.lock = false) ∧ tagHolder s r.src (rqTag r) = none ∧ (rqTgt r < d.lo ∨ d.hi <
      rqTgt r)) ∧
    (∃ (c : Instr) (op : Nat) (src : Nat) (s : State) (r0 : CamReq) (d : OpDef), let r := trimReq r0; camOp c = some (op, src) ∧ nextReq
      s src = some r0 ∧ rqOp r0 = op ∧ 1 ≤ rqLen r0 ∧ opDef op = some d ∧ (s.sys.mode.serving = true ∨ s.sys.mode = .boot) ∧ seqUp s 0 =
      true ∧ groupOk s op = true ∧ (d.lock = false ∨ s.sec.lock = false) ∧ tagHolder s r.src (rqTag r) = none ∧ d.lo ≤ rqTgt r ∧ rqTgt r
      ≤ d.hi ∧ rqTrough r ≠ (d.trough != 0)) :=
  ⟨⟨.fteInfo 8, 0x0300, 8, ask 8 0x0300 0xFFFF [] { w0 with sys := { mode := .sanitize } }, ((nextReq (ask 8 0x0300 0xFFFF []
    { w0 with sys := { mode := .sanitize } }) 8).getD { src := 8, words := [] }), { len := 1 }, by decide +kernel⟩,
  ⟨.imageCommit 3 {}, 0x0A0A, 3, ask 3 0x0A0A 0 [0, 0] { w0 with sec := { lock := true } }, ((nextReq (ask 3 0x0A0A 0 [0, 0]
    { w0 with sec := { lock := true } }) 3).getD { src := 3, words := [] }), { len := 2, lock := true, lo := 0, hi := 2 },
    by decide +kernel⟩,
  ⟨.nop 0, 0x0100, 0, ask 0 0x0100 0xFFFF [] { w0 with cam := { ops := [(63, { src := 0, tag := 7 })] } }, ((nextReq (ask 0 0x0100 0xFFFF
    [] { w0 with cam := { ops := [(63, { src := 0, tag := 7 })] } }) 0).getD { src := 0, words := [] }), { len := 1 }, 63,
    by decide +kernel⟩,
  ⟨.dieStatus 7, 0x0402, 7, ask 7 0x0402 512 [] w0, ((nextReq (ask 7 0x0402 512 [] w0) 7).getD { src := 7, words := [] }),
    { len := 1, lo := 0, hi := 511 }, by decide +kernel⟩,
  ⟨.faultList 8, 0x0803, 8, ask 8 0x0803 0xFFFF [0, 0] w0, ((nextReq (ask 8 0x0803 0xFFFF [0, 0] w0) 8).getD { src := 8, words := [] }),
    { len := 2, trough := 2 }, by decide +kernel⟩⟩

/-! `Obligations.OpcodesServeTheirRequest` -/

theorem test_met_OpcodesServeTheirRequest :
    (∃ (c : Instr) (op : Nat) (src : Nat) (s : State), camOp c = some (op, src) ∧ nextReq s src = none) ∧
    (∃ (c : Instr) (op : Nat) (src : Nat) (s : State), ∃ r, camOp c = some (op, src) ∧ nextReq s src = some r ∧ rqOp r ≠ op) :=
  ⟨⟨.nop 0, 0x0100, 0, w0, by decide +kernel⟩,
  ⟨.modeGet 8, 0x0110, 8, ask 8 0x0100 0xFFFF [] w0, (nextReq (ask 8 0x0100 0xFFFF [] w0) 8).getD { src := 8, words := [] },
    by decide +kernel⟩⟩

/-! `Obligations.SystemQueries` -/

theorem test_met_SystemQueries :
    (∃ (src : Nat) (s : State) (r : CamReq), Accepted src 0x0100 s r) ∧
    (∃ (src : Nat) (s : State) (r : CamReq), Accepted src 0x0101 s r) ∧
    (∃ (src : Nat) (s : State) (r : CamReq), Accepted src 0x0102 s r ∧ tget s.cam.ops (fld (rqW r 2) 0 6) = none) ∧
    (∃ (src : Nat) (s : State) (r : CamReq), ∃ o, Accepted src 0x0102 s r ∧ tget s.cam.ops (fld (rqW r 2) 0 6) = some o) ∧
    (∃ (src : Nat) (s : State) (r : CamReq), Accepted src 0x0110 s r) :=
  ⟨⟨0, ask 0 0x0100 0xFFFF [] w0, qreq (ask 0 0x0100 0xFFFF [] w0) 0, accepted_of (by decide +kernel)⟩,
  ⟨8, ask 8 0x0101 0xFFFF [] w0, qreq (ask 8 0x0101 0xFFFF [] w0) 8, accepted_of (by decide +kernel)⟩,
  ⟨4, ask 4 0x0102 0xFFFF [63, 0] w0, qreq (ask 4 0x0102 0xFFFF [63, 0] w0) 4, accepted_of (by decide +kernel), by decide +kernel⟩,
  ⟨4, ask 4 0x0102 0xFFFF [63, 0] { w0 with cam := { ops := [(63, { opcode := 0x0603, tag := 3, detail := [1, 2, 3, 4, 5] })] } }, qreq
    (ask 4 0x0102 0xFFFF [63, 0] { w0 with cam := { ops := [(63, { opcode := 0x0603, tag := 3, detail := [1, 2, 3, 4, 5] })] } }) 4,
    { opcode := 0x0603, tag := 3, detail := [1, 2, 3, 4, 5] }, accepted_of (by decide +kernel), by decide +kernel⟩,
  ⟨0, ask 0 0x0110 0xFFFF [] w0, qreq (ask 0 0x0110 0xFFFF [] w0) 0, accepted_of (by decide +kernel)⟩⟩

/-! `Obligations.ResetAndCancel` -/

theorem test_met_ResetAndCancel :
    (∃ (src : Nat) (s : State) (r : CamReq), Accepted src 0x0104 s r ∧ rqW r 2 = 0xA5A5 ∧ s.sys.resetReq = none) ∧
    (∃ (src : Nat) (s : State) (r : CamReq), Accepted src 0x0104 s r ∧ rqW r 2 ≠ 0xA5A5) ∧
    (∃ (src : Nat) (h : Nat) (s : State) (r : CamReq) (o : LongOp), Accepted src 0x0103 s r ∧ rqW r 2 = BitVec.ofNat 32 h ∧ h < 64 ∧ tget
      s.cam.ops h = some o ∧ o.st = .running ∧ o.ended = none ∧ mayCancel (taken src s) h o = true ∧ o.opcode ≠ 0x0D04 ∧ o.opcode ≠
      0x0710) ∧
    (∃ (src : Nat) (h : Nat) (s : State) (r : CamReq), Accepted src 0x0103 s r ∧ rqW r 2 = BitVec.ofNat 32 h ∧ h < 64 ∧ tget s.cam.ops h
      = none) ∧
    (∃ (src : Nat) (h : Nat) (s : State) (r : CamReq), ∃ o, Accepted src 0x0103 s r ∧ rqW r 2 = BitVec.ofNat 32 h ∧ h < 64 ∧ tget
      s.cam.ops h = some o ∧ o.st = .complete) ∧
    (∃ (src : Nat) (h : Nat) (s : State) (r : CamReq), ∃ o x, Accepted src 0x0103 s r ∧ rqW r 2 = BitVec.ofNat 32 h ∧ h < 64 ∧ tget
      s.cam.ops h = some o ∧ o.st = .running ∧ o.ended = some x) ∧
    (∃ (src : Nat) (h : Nat) (s : State) (r : CamReq), ∃ o, Accepted src 0x0103 s r ∧ rqW r 2 = BitVec.ofNat 32 h ∧ h < 64 ∧ tget
      s.cam.ops h = some o ∧ o.st = .running ∧ o.ended = none ∧ mayCancel (taken src s) h o = false) :=
  ⟨⟨3, ask 3 0x0104 0xFFFF [0xA5A5, 0] w0, qreq (ask 3 0x0104 0xFFFF [0xA5A5, 0] w0) 3, accepted_of (by decide +kernel),
    by decide +kernel⟩,
  ⟨3, ask 3 0x0104 0xFFFF [0xA5A4, 0] w0, qreq (ask 3 0x0104 0xFFFF [0xA5A4, 0] w0) 3, accepted_of (by decide +kernel),
    by decide +kernel⟩,
  ⟨0, 63, ask 0 0x0103 0xFFFF [63, 0] { w0 with cam := { ops := [(63, { opcode := 0x0883, tag := 3 })] } }, qreq (ask 0 0x0103 0xFFFF
    [63, 0] { w0 with cam := { ops := [(63, { opcode := 0x0883, tag := 3 })] } }) 0, { opcode := 0x0883, tag := 3 }, accepted_of
    (by decide +kernel), by decide +kernel⟩,
  ⟨0, 63, ask 0 0x0103 0xFFFF [63, 0] w0, qreq (ask 0 0x0103 0xFFFF [63, 0] w0) 0, accepted_of (by decide +kernel), by decide +kernel⟩,
  ⟨0, 63, ask 0 0x0103 0xFFFF [63, 0] { w0 with cam := { ops := [(63, { st := .complete, opcode := 0x0883, tag := 3, status := 3 })] } },
    qreq (ask 0 0x0103 0xFFFF [63, 0] { w0 with cam := { ops := [(63, { st := .complete, opcode := 0x0883, tag := 3, status := 3 })] } })
    0, { st := .complete, opcode := 0x0883, tag := 3, status := 3 }, accepted_of (by decide +kernel), by decide +kernel⟩,
  ⟨0, 63, ask 0 0x0103 0xFFFF [63, 0]
    { w0 with cam := { ops := [(2, {}), (63, { opcode := 0x0883, tag := 3, behind := [2], ended := some (3, [], []) })] } }, qreq (ask 0
    0x0103 0xFFFF [63, 0]
    { w0 with cam := { ops := [(2, {}), (63, { opcode := 0x0883, tag := 3, behind := [2], ended := some (3, [], []) })] } }) 0,
    { opcode := 0x0883, tag := 3, behind := [2], ended := some (3, [], []) }, (3, [], []), accepted_of (by decide +kernel),
    by decide +kernel⟩,
  ⟨0, 0, ask 0 0x0103 0xFFFF [0, 0] { w0 with cam := { ops := [(0, { opcode := 0x0603, tag := 3 })] } }, qreq (ask 0 0x0103 0xFFFF [0, 0]
    { w0 with cam := { ops := [(0, { opcode := 0x0603, tag := 3 })] } }) 0, { opcode := 0x0603, tag := 3 }, accepted_of
    (by decide +kernel), by decide +kernel⟩⟩

/-! `Obligations.LongOperationsEnd` -/

theorem test_met_LongOperationsEnd :
    (∃ (h : Nat) (s : State) (o : LongOp), tget s.cam.ops h = some o ∧ o.st = .running ∧ EndsFirst h o s ∧ o.notify = false ∧ o.slots =
      none ∧ s.sys.mode ≠ .holdup) ∧
    (∃ (h : Nat) (s : State) (o : LongOp), ∃ k, tget s.cam.ops h = some o ∧ o.st = .running ∧ EndsFirst h o s ∧ o.notify = false ∧
      o.slots = none ∧ s.sys.mode ≠ .holdup ∧ k ≠ h) ∧
    (∃ (h : Nat) (s : State) (o : LongOp), tget s.cam.ops h = some o ∧ o.st = .running ∧ EndsFirst h o s ∧ o.notify = false ∧ o.slots =
      none ∧ s.sys.mode ≠ .holdup) ∧
    (∃ (h : Nat) (s : State) (o : LongOp), tget s.cam.ops h = some o ∧ o.st = .running ∧ EndsFirst h o s ∧ o.notify = false ∧ o.slots =
      none ∧ s.sys.mode ≠ .holdup) ∧
    (∃ (h : Nat) (s : State) (o : LongOp), tget s.cam.ops h = some o ∧ o.st = .running ∧ EndsFirst h o s ∧ o.notify = true ∧ o.discard =
      false ∧ o.slots = none ∧ s.sys.mode ≠ .holdup) ∧
    (∃ (h : Nat) (s : State) (o : LongOp), tget s.cam.ops h = some o ∧ o.st = .running ∧ o.ended = none ∧ o.behind ≠ []) ∧
    (∃ (h : Nat) (g : Gated) (l : List Gated) (s : State) (o : LongOp), tget s.cam.ops h = some o ∧ o.st = .running ∧ s.cam.gate = g :: l
      ∧ g.behind = [h] ∧ EndsFirst h o { s with cam := { s.cam with gate := l } } ∧ o.notify = false ∧ o.slots = none) ∧
    (∃ (h : Nat) (st : Nat) (s : State) (o : LongOp), tget s.cam.ops h = some o ∧ o.st = .running ∧ o.opcode = 0x0603 ∧ st ≠ 0 ∧
      s.sys.mode ≠ .holdup ∧ s.sys.mode ≠ .dormant) ∧
    (∃ (h : Nat) (s : State) (o : LongOp), tget s.cam.ops h = some o ∧ o.st = .running ∧ o.opcode = 0x0603 ∧ s.sys.mode ≠ .holdup ∧
      s.sys.mode ≠ .dormant) :=
  ⟨⟨63, { w0 with cam := { opSeq := 4, ops := [(2, { src := 1 }), (63, { opcode := 0x0883, tag := 3 })] } },
    { opcode := 0x0883, tag := 3 }, by decide +kernel, by decide +kernel, (by unfold EndsFirst; decide +kernel), by decide +kernel⟩,
  ⟨63, { w0 with cam := { opSeq := 4, ops := [(2, { src := 1 }), (63, { opcode := 0x0883, tag := 3 })] } },
    { opcode := 0x0883, tag := 3 }, 2, by decide +kernel, by decide +kernel, (by unfold EndsFirst; decide +kernel), by decide +kernel⟩,
  ⟨63, { w0 with cam := { opSeq := 4, ops := [(2, { src := 1 }), (63, { opcode := 0x0883, tag := 3 })] } },
    { opcode := 0x0883, tag := 3 }, by decide +kernel, by decide +kernel, (by unfold EndsFirst; decide +kernel), by decide +kernel⟩,
  ⟨63, { w0 with cam := { opSeq := 4, ops := [(2, { src := 1 }), (63, { opcode := 0x0883, tag := 3 })] } },
    { opcode := 0x0883, tag := 3 }, by decide +kernel, by decide +kernel, (by unfold EndsFirst; decide +kernel), by decide +kernel⟩,
  ⟨0, { w0 with cam := { rings := [(0, { en := true, size := 6 })], ops := [(0, { notify := true })] } }, { notify := true },
    by decide +kernel, by decide +kernel, (by unfold EndsFirst; decide +kernel), by decide +kernel⟩,
  ⟨63, { w0 with cam := { ops := [(2, {}), (63, { opcode := 0x0883, behind := [2] })] } }, { opcode := 0x0883, behind := [2] },
    by decide +kernel⟩,
  ⟨2, { req := { src := 1, words := [] }, status := 0, behind := [2] }, {},
    { w0 with cam := { rings := [(1, { en := true, size := 6 })], gate := [{ req := { src := 1, words := [] }, status := 0, behind := [2] }], ops := [(2, { opcode := 0x0883 })] } },
    { opcode := 0x0883 }, by decide +kernel, by decide +kernel, by decide +kernel, by decide +kernel,
    (by unfold EndsFirst; decide +kernel), by decide +kernel⟩,
  ⟨1, 0x0601, { w0 with cam := { ops := [(1, { opcode := 0x0603, target := 1 })] } }, { opcode := 0x0603, target := 1 },
    by decide +kernel⟩,
  ⟨1, { w0 with cam := { ops := [(1, { opcode := 0x0603, target := 1 })] }, cst := { banks := [(1, { st := .failed })] } },
    { opcode := 0x0603, target := 1 }, by decide +kernel⟩⟩

/-! `Obligations.TroughOpcodes` -/

theorem test_met_TroughOpcodes :
    (∃ (src : Nat) (s : State) (r : CamReq), Accepted src 0x0105 s r ∧ sideSlot ≤ fld (rqW r 2) 0 14 ∧ fld (rqW r 2) 0 14 + fld (rqW r 2)
      16 14 < slotCount) ∧
    (∃ (src : Nat) (s : State) (r : CamReq), Accepted src 0x0106 s r) ∧
    (∃ (s : State) (r : CamReq), Accepted 8 0x0120 s r ∧ sideSlot ≤ fld (rqW r 2) 0 14 ∧ bitOf (slotFlag s (fld (rqW r 2) 0 14)) 31 =
      false ∧ fld (rqW r 2) 16 13 = r.payload.length ∧ r.payload.length ≤ 4096 ∧ bitOf (rqW r 2) 31 = true) ∧
    (∃ (s : State) (r : CamReq), Accepted 8 0x0121 s r ∧ sideSlot ≤ fld (rqW r 2) 0 14 ∧ bitOf (slotFlag s (fld (rqW r 2) 0 14)) 31 =
      false) :=
  ⟨⟨8, ask 8 0x0105 0xFFFF [0x00FE3F00, 0]
    { w0 with cam := { flags := [(16128, 0x80000010), (16129, 0xC0000010), (16382, 0x80001000)] } }, qreq (ask 8 0x0105 0xFFFF
    [0x00FE3F00, 0] { w0 with cam := { flags := [(16128, 0x80000010), (16129, 0xC0000010), (16382, 0x80001000)] } }) 8, accepted_of
    (by decide +kernel), by decide +kernel⟩,
  ⟨0, ask 0 0x0106 0xFFFF [0x00003F00, 4]
    { w0 with cam := { flags := [(16128, 0x80000004)], mem := mwrite 0 [] (slotAddr 16128) [1, 2, 3, 4] } } 0x04000000, qreq (ask 0
    0x0106 0xFFFF [0x00003F00, 4] { w0 with cam := { flags := [(16128, 0x80000004)], mem := mwrite 0 [] (slotAddr 16128) [1, 2, 3, 4] } }
    0x04000000) 0, accepted_of (by decide +kernel)⟩,
  ⟨{ w0 with cam := { side := [{ src := 8, words := [0x00020120, 0xFFFF0001, 0x80023FFF, 0], payload := [1, 2] }] } }, qreq
    ({ w0 with cam := { side := [{ src := 8, words := [0x00020120, 0xFFFF0001, 0x80023FFF, 0], payload := [1, 2] }] } }) 8, accepted_of
    (by decide +kernel), by decide +kernel⟩,
  ⟨ask 8 0x0121 0xFFFF [0x00003F00, 0] { w0 with cam := { flags := [(16128, 3)], mem := mwrite 0 [] (slotAddr 16128) [1, 2, 3, 4] } },
    qreq (ask 8 0x0121 0xFFFF [0x00003F00, 0]
    { w0 with cam := { flags := [(16128, 3)], mem := mwrite 0 [] (slotAddr 16128) [1, 2, 3, 4] } }) 8, accepted_of (by decide +kernel),
    by decide +kernel⟩⟩

/-! `Obligations.ModeRequests` -/

theorem test_met_ModeRequests :
    (∃ (src : Nat) (s : State) (r : CamReq), Accepted src 0x0111 s r ∧ (rqW r 2 = 7 ∨ rqW r 2 = 8) ∧ sleepMode s = true ∧ idleBut r.tag
      (taken src s) = true) ∧
    (∃ (src : Nat) (s : State) (r : CamReq), Accepted src 0x0111 s r ∧ (rqW r 2 = 7 ∨ rqW r 2 = 8) ∧ sleepMode s = false) ∧
    (∃ (src : Nat) (s : State) (r : CamReq), Accepted src 0x0111 s r ∧ (rqW r 2 = 7 ∨ rqW r 2 = 8) ∧ sleepMode s = true ∧ idleBut r.tag
      (taken src s) = false) ∧
    (∃ (src : Nat) (s : State) (r : CamReq), Accepted src 0x0111 s r ∧ rqW r 2 = 1 ∧ s.sys.modeReq ≠ some .standpipe) :=
  ⟨⟨8, ask 8 0x0111 0xFFFF [8, 0] { w0 with upd := { st := 0 } }, qreq (ask 8 0x0111 0xFFFF [8, 0] { w0 with upd := { st := 0 } }) 8,
    accepted_of (by decide +kernel), by decide +kernel⟩,
  ⟨0, ask 0 0x0111 0xFFFF [7, 0] { w0 with sys := { mode := .degraded } }, qreq (ask 0 0x0111 0xFFFF [7, 0]
    { w0 with sys := { mode := .degraded } }) 0, accepted_of (by decide +kernel), by decide +kernel⟩,
  ⟨0, ask 8 0x0110 0xFFFF [] (ask 0 0x0111 0xFFFF [7, 0] w0), qreq (ask 8 0x0110 0xFFFF [] (ask 0 0x0111 0xFFFF [7, 0] w0)) 0,
    accepted_of (by decide +kernel), by decide +kernel⟩,
  ⟨0, ask 0 0x0111 0xFFFF [1, 0] { w0 with sys := { mode := .operational, modeReq := some .dormant, fetchStop := true } }, qreq (ask 0
    0x0111 0xFFFF [1, 0] { w0 with sys := { mode := .operational, modeReq := some .dormant, fetchStop := true } }) 0, accepted_of
    (by decide +kernel), by decide +kernel⟩⟩

/-! `Obligations.WellAllocation` -/

theorem test_met_WellAllocation :
    (∃ (rq : Nat) (size : Nat) (p : Nat) (s : State), welRuns s = true ∧ (rqClass rq).isSome = true ∧ basePool s (max 1 size) = some p ∧
      size ≤ 65536 ∧ mayAlloc s { pool := p, rq, size := max 1 size } = true ∧ (∀ w ∈ s.wel.waits, w.pool ≠ p)) ∧
    (∃ (rq : Nat) (size : Nat) (p : Nat) (s : State), welRuns s = true ∧ (rqClass rq).isSome = true ∧ basePool s (max 1 size) = some p ∧
      size ≤ 65536 ∧ mayAlloc s { pool := p, rq, size := max 1 size } = false) ∧
    (∃ (rq : Nat) (s : State), welRuns s = true ∧ rqClass rq = none ∧ s.sys.mode ≠ .dormant) ∧
    (∃ (pool : Nat) (w : Wait) (s : State), welRuns s = true ∧ nextWait s pool s.wel.waits = some w) ∧
    (∃ (rq : Nat) (s : State), s.sys.mode ≠ .dormant ∧ (∃ w ∈ s.wel.waits, w.rq = rq)) ∧
    (∃ (addr : Nat) (s : State), s.wel.built = true ∧ welFreeAt s addr = true ∧ s.sys.mode ≠ .dormant) :=
  ⟨⟨8, 0, 0, wells, by decide +kernel⟩,
  ⟨0, 65536, 3, { wells with wel := { built := true, pools := [(3, { total := 1, fresh := 1 })] } }, by decide +kernel⟩,
  ⟨28, wells, by decide +kernel⟩,
  ⟨3, { pool := 3, rq := 0, size := 65536 }, { wells with wel := { wells.wel with waits := [{ pool := 3, rq := 0, size := 65536 }] } },
    by decide +kernel⟩,
  ⟨27, { w0 with wel := { waits := [{ pool := 3, rq := 27, size := 1 }] } }, by decide +kernel⟩,
  ⟨0, wells, by decide +kernel⟩⟩

/-! `Obligations.WellBuffers` -/

theorem test_met_WellBuffers :
    (∃ (rq : Nat) (buf : Nat) (b : Buf) (s : State), s.wel.built = true ∧ (rqClass rq).isSome = true ∧ tget s.wel.bufs buf = some b ∧
      b.owner = rq ∧ b.pend = false ∧ b.holders = [rq]) ∧
    (∃ (rq : Nat) (buf : Nat) (b : Buf) (s : State), s.wel.built = true ∧ (rqClass rq).isSome = true ∧ tget s.wel.bufs buf = some b ∧
      b.owner = rq ∧ b.pend = false ∧ 1 < b.holders.length) ∧
    (∃ (rq : Nat) (buf : Nat) (s : State), s.wel.built = true ∧ (rqClass rq).isSome = true ∧ tget s.wel.bufs buf = none ∧ s.sys.mode ≠
      .dormant) ∧
    (∃ (rq : Nat) (buf : Nat) (b : Buf) (s : State), s.wel.built = true ∧ (rqClass rq).isSome = true ∧ tget s.wel.bufs buf = some b ∧
      b.owner ≠ rq ∧ s.sys.mode ≠ .dormant) ∧
    (∃ (rq : Nat) (buf : Nat) (b : Buf) (s : State), s.wel.built = true ∧ (rqClass rq).isSome = true ∧ tget s.wel.bufs buf = some b ∧
      b.pend = false ∧ rq ∉ b.holders ∧ b.holders.length < 15) ∧
    (∃ (rq : Nat) (buf : Nat) (b : Buf) (s : State), s.wel.built = true ∧ (rqClass rq).isSome = true ∧ tget s.wel.bufs buf = some b ∧
      b.pend = false ∧ rq ∉ b.holders ∧ 15 ≤ b.holders.length) ∧
    (∃ (rq : Nat) (buf : Nat) (b : Buf) (s : State), s.wel.built = true ∧ (rqClass rq).isSome = true ∧ tget s.wel.bufs buf = some b ∧ rq
      ∈ b.holders ∧ b.pend = true ∧ b.holders.length = 1 ∧ (∀ x ∈ s.wel.attWait, x.2 ≠ buf)) ∧
    (∃ (rq : Nat) (buf : Nat) (b : Buf) (s : State), s.wel.built = true ∧ (rqClass rq).isSome = true ∧ tget s.wel.bufs buf = some b ∧ rq
      ∈ b.holders ∧ b.pend = false ∧ b.owner ≠ rq ∧ (∀ x ∈ s.wel.attWait, x.2 ≠ buf)) ∧
    (∃ (rq : Nat) (buf : Nat) (rcv : Nat) (b : Buf) (s : State), s.wel.built = true ∧ (rqClass rq).isSome = true ∧ (rqClass rcv).isSome =
      true ∧ tget s.wel.bufs buf = some b ∧ rq ∈ b.holders ∧ b.pend = false ∧ b.owner = rq ∧ rcv ∉ b.holders) :=
  ⟨⟨0, 2 ^ 20 + 5, { owner := 0, holders := [0], cls := 0 },
    { w0 with wel := { built := true, bufs := [(2 ^ 20 + 5, { owner := 0, holders := [0], cls := 0 })], pools := [(1, { total := 6, fresh := 6 })] } },
    by decide +kernel⟩,
  ⟨27, 0, { owner := 27, holders := [8, 27], cls := 2 },
    { w0 with wel := { built := true, bufs := [(0, { owner := 27, holders := [8, 27], cls := 2 })] } }, by decide +kernel⟩,
  ⟨10, 3, { w0 with wel := { built := true } }, by decide +kernel⟩,
  ⟨10, 0, { owner := 27, holders := [10, 27], cls := 2 },
    { w0 with wel := { built := true, bufs := [(0, { owner := 27, holders := [10, 27], cls := 2 })] } }, by decide +kernel⟩,
  ⟨14, 0, { owner := 0, holders := List.replicate 14 0, cls := 2 },
    { w0 with wel := { built := true, bufs := [(0, { owner := 0, holders := List.replicate 14 0, cls := 2 })] } }, by decide +kernel⟩,
  ⟨14, 0, { owner := 0, holders := List.replicate 15 0, cls := 2 },
    { w0 with wel := { built := true, bufs := [(0, { owner := 0, holders := List.replicate 15 0, cls := 2 })] } }, by decide +kernel⟩,
  ⟨8, 0, { owner := 27, holders := [8], cls := 2, pend := true },
    { w0 with wel := { built := true, bufs := [(0, { owner := 27, holders := [8], cls := 2, pend := true })] } }, by decide +kernel⟩,
  ⟨8, 0, { owner := 27, holders := [27, 8], cls := 2 },
    { w0 with wel := { built := true, bufs := [(0, { owner := 27, holders := [27, 8], cls := 2 })] } }, by decide +kernel⟩,
  ⟨0, 0, 8, { owner := 0, holders := [1, 0], cls := 0 },
    { w0 with wel := { built := true, bufs := [(0, { owner := 0, holders := [1, 0], cls := 0 })] } }, by decide +kernel⟩⟩

/-! `Obligations.PumpRuns` -/

theorem test_met_PumpRuns :
    (∃ (ch : Nat) (ctl : Word) (src : Word) (dst : Word) (cnt : Nat) (s : State),
      let p : Pump := { pumpAt s ch with src, dst, cnt, ctl := ctl &&& 0x3FF77000, op := none }; pumpUp s = true ∧ ch < 12 ∧ bitOf ctl 30
      = false ∧ (pumpAt s ch).busy = false ∧ cnt < 2 ^ 28 ∧ runErr s ch p = none) ∧
    (∃ (ch : Nat) (ctl : Word) (src : Word) (dst : Word) (cnt : Nat) (s : State),
      let p : Pump := { pumpAt s ch with src, dst, cnt, ctl := ctl &&& 0x3FF77000, op := none }; ∃ e, pumpUp s = true ∧ ch < 12 ∧ bitOf
      ctl 30 = false ∧ (pumpAt s ch).busy = false ∧ cnt < 2 ^ 28 ∧ runErr s ch p = some e) ∧
    (∃ (ch : Nat) (idx : Nat) (s : State), let p := pumpAt s ch; let p1 := ackPrefix (burstCount p) { p with acked := p.acked ++ [idx] };
      ch < 16 ∧ pumpUp s = true ∧ burstOpen (pumpAt s ch) idx = true ∧ burstClean s (pumpAt s ch) idx = true ∧ burstPsn s (pumpAt s ch)
      idx = [] ∧ srcSp (pumpAt s ch).ctl < 2 ∧ dstSp (pumpAt s ch).ctl < 2 ∧ (pumpAt s ch).stopping = none ∧ p1.done < p.cnt) ∧
    (∃ (ch : Nat) (idx : Nat) (s : State), let p := pumpAt s ch; let p1 := ackPrefix (burstCount p) { p with acked := p.acked ++ [idx] };
      ch < 16 ∧ pumpUp s = true ∧ burstOpen (pumpAt s ch) idx = true ∧ burstClean s (pumpAt s ch) idx = true ∧ burstPsn s (pumpAt s ch)
      idx = [] ∧ srcSp (pumpAt s ch).ctl < 2 ∧ dstSp (pumpAt s ch).ctl < 2 ∧ (pumpAt s ch).op = none ∧ (pumpAt s ch).stopping = none ∧
      p.cnt ≤ p1.done) ∧
    (∃ (ch : Nat) (idx : Nat) (e : BurstErr) (s : State), pumpUp s = true ∧ burstOpen (pumpAt s ch) idx = true ∧ (e = .parity ∨ e =
      .response) ∧ tgetD (pumpAt s ch).tries idx 0 < fld (pumpAt s ch).retry 0 3 ∧ (e = .response → burstFree s (pumpAt s ch) idx =
      false) ∧ (pumpAt s ch).stopping = none) ∧
    (∃ (ch : Nat) (idx : Nat) (s : State), ch < 16 ∧ pumpUp s = true ∧ burstOpen (pumpAt s ch) idx = true ∧ burstFree s (pumpAt s ch) idx
      = true ∧ tgetD (pumpAt s ch).tries idx 0 < fld (pumpAt s ch).retry 0 3) ∧
    (∃ (ch : Nat) (idx : Nat) (e : BurstErr) (s : State), ch < 16 ∧ pumpUp s = true ∧ burstOpen (pumpAt s ch) idx = true ∧ (e = .parity ∨
      e = .response) ∧ fld (pumpAt s ch).retry 0 3 ≤ tgetD (pumpAt s ch).tries idx 0 ∧ (pumpAt s ch).op = none ∧ (pumpAt s ch).stopping ≠
      some 0 ∧ outstanding (pumpAt s ch) ≤ 1) ∧
    (∃ (ch : Nat) (idx : Nat) (e : BurstErr) (s : State), ch < 16 ∧ pumpUp s = true ∧ burstOpen (pumpAt s ch) idx = true ∧ (e = .parity ∨
      e = .response) ∧ fld (pumpAt s ch).retry 0 3 ≤ tgetD (pumpAt s ch).tries idx 0 ∧ (pumpAt s ch).op = none ∧ (pumpAt s ch).stopping ≠
      some 0 ∧ 1 < outstanding (pumpAt s ch) ∧ (e = .response → burstFree s (pumpAt s ch) idx = false)) ∧
    (∃ (ch : Nat) (idx : Nat) (e : Nat) (s : State), let p := pumpAt s ch; ch < 16 ∧ pumpUp s = true ∧ burstOpen (pumpAt s ch) idx = true
      ∧ burstClean s (pumpAt s ch) idx = true ∧ (pumpAt s ch).stopping = some e ∧ outstanding (pumpAt s ch) = 1 ∧ e ≠ 0 ∧ (pumpAt s
      ch).op = none ∧ 0 < p.cnt ∧ p.issued ≤ burstCount p) ∧
    (∃ (ch : Nat) (idx : Nat) (s : State), pumpUp s = true ∧ (pumpAt s ch).busy = true ∧ idx ∈ (pumpAt s ch).failed ∧ (pumpAt s
      ch).stopping = none) ∧
    (∃ (ch : Nat) (s : State), ch < 16 ∧ pumpUp s = true ∧ (pumpAt s ch).busy = true ∧ (pumpAt s ch).op = none ∧ (pumpAt s ch).stopping =
      none ∧ outstanding (pumpAt s ch) ≠ 0) ∧
    (∃ (ch : Nat) (s : State), ch < 16 ∧ pumpUp s = true ∧ (pumpAt s ch).busy = true ∧ (pumpAt s ch).op = none ∧ (pumpAt s ch).stopping =
      none ∧ outstanding (pumpAt s ch) = 0) ∧
    (∃ (ch : Nat) (s : State), outstanding (pumpAt s ch) ≤ 8) :=
  ⟨⟨11, 0x00011000, 0, 0x10000000, 2 ^ 28 - 4, { w0 with drm := { size := 4 } }, by decide +kernel⟩,
  ⟨11, 0, 0, 0, 4, w0, 5, by decide +kernel⟩,
  ⟨0, 1,
    { w0 with wel := { mem := [(256, 7), (511, 9)] }, pmp := { ch := [(0, { src := 0, dst := 0x8000, cnt := 600, busy := true, issued := 2 })], dram := [(0x8100, 3)] } },
    by decide +kernel⟩,
  ⟨15, 0, { w0 with pmp := { ch := [(15, { src := 0, dst := 0x8000, cnt := 256, busy := true, issued := 1, ctl := 0x00001000 })] } },
    by decide +kernel⟩,
  ⟨2, 0, .response, { w0 with pmp := { ch := [(2, { dst := 0x8000, cnt := 256, busy := true, issued := 1, tries := [(0, 2)] })] } },
    by decide +kernel⟩,
  ⟨2, 0, { wells with pmp := { ch := [(2, { dst := 0x8000, cnt := 256, busy := true, issued := 1, tries := [(0, 2)] })] } },
    by decide +kernel⟩,
  ⟨15, 0, .parity, { w0 with pmp := { ch := [(15, { dst := 0x8000, cnt := 256, busy := true, issued := 1, tries := [(0, 3)] })] } },
    by decide +kernel⟩,
  ⟨15, 0, .parity, { w0 with pmp := { ch := [(15, { dst := 0x8000, cnt := 600, busy := true, issued := 3, tries := [(0, 3)] })] } },
    by decide +kernel⟩,
  ⟨2, 1, 4,
    { w0 with pmp := { ch := [(2, { dst := 0x8000, cnt := 600, busy := true, issued := 2, failed := [0], stopping := some 4 })] } },
    by decide +kernel⟩,
  ⟨2, 0, { w0 with pmp := { ch := [(2, { dst := 0x8000, cnt := 256, busy := true, issued := 1, failed := [0] })] } }, by decide +kernel⟩,
  ⟨15, { w0 with pmp := { ch := [(15, { dst := 0x8000, cnt := 256, busy := true, issued := 1 })] } }, by decide +kernel⟩,
  ⟨15, { w0 with pmp := { ch := [(15, { dst := 0x8000, cnt := 256, busy := true, issued := 1, failed := [0] })] } }, by decide +kernel⟩,
  ⟨3, { w0 with pmp := { ch := [(3, { dst := 0x8000, cnt := 4096, busy := true, issued := 9, done := 256, acked := [3] })] } },
    by decide +kernel⟩⟩

/-! `Obligations.WellPumpOpcodes` -/

theorem test_met_WellPumpOpcodes :
    (∃ (src : Nat) (s : State) (r : CamReq), Accepted src 0x0700 s r) ∧
    (∃ (src : Nat) (s : State) (r : CamReq), Accepted src 0x0701 s r ∧ poolPresent s (rqTgt r) = true) ∧
    (∃ (src : Nat) (s : State) (r : CamReq), Accepted src 0x0701 s r ∧ poolPresent s (rqTgt r) = false) ∧
    (∃ (src : Nat) (s : State) (r : CamReq), Accepted src 0x0702 s r) ∧
    (∃ (src : Nat) (s : State) (r : CamReq), Accepted src 0x0711 s r) ∧
    (∃ (src : Nat) (s : State) (r : CamReq), Accepted src 0x0710 s r ∧ rqW r 5 &&& 0xC0000000 = 0 ∧ (pumpAt s (rqTgt r)).busy = true) ∧
    (∃ (src : Nat) (s : State) (r : CamReq), let u := taken src s; ∃ e, Accepted src 0x0710 s r ∧ rqW r 5 &&& 0xC0000000 = 0 ∧ (pumpAt s
      (rqTgt r)).busy = false ∧ runErr u (rqTgt r) (pumpOf u r) = some e) ∧
    (∃ (src : Nat) (s : State) (r : CamReq), let u := taken src s; ∃ h, Accepted src 0x0710 s r ∧ rqW r 5 &&& 0xC0000000 = 0 ∧ (pumpAt s
      (rqTgt r)).busy = false ∧ runErr u (rqTgt r) (pumpOf u r) = none ∧ sideTroughOk r (pumpOf u r) = true ∧ pickHandle s = some h) ∧
    (∃ (src : Nat) (s : State) (r : CamReq), let u := taken src s; Accepted src 0x0710 s r ∧ rqW r 5 &&& 0xC0000000 = 0 ∧ (pumpAt s
      (rqTgt r)).busy = false ∧ runErr u (rqTgt r) (pumpOf u r) = none ∧ sideTroughOk r (pumpOf u r) = false) :=
  ⟨⟨0, ask 0 0x0700 0xFFFF [] w0, qreq (ask 0 0x0700 0xFFFF [] w0) 0, accepted_of (by decide +kernel)⟩,
  ⟨0, ask 0 0x0701 3 [] wells, qreq (ask 0 0x0701 3 [] wells) 0, accepted_of (by decide +kernel), by decide +kernel⟩,
  ⟨0, ask 0 0x0701 3 [] w0, qreq (ask 0 0x0701 3 [] w0) 0, accepted_of (by decide +kernel), by decide +kernel⟩,
  ⟨8, ask 8 0x0702 63 [] (buildPools w0), qreq (ask 8 0x0702 63 [] (buildPools w0)) 8, accepted_of (by decide +kernel)⟩,
  ⟨0, ask 0 0x0711 15 [] { w0 with pmp := { ch := [(15, { cnt := 8, busy := true })] } }, qreq (ask 0 0x0711 15 []
    { w0 with pmp := { ch := [(15, { cnt := 8, busy := true })] } }) 0, accepted_of (by decide +kernel)⟩,
  ⟨0, ask 0 0x0710 15 [0, 0, 256, 0x00042000] { w0 with pmp := { ch := [(15, { cnt := 8, busy := true })] } }, qreq (ask 0 0x0710 15 [0,
    0, 256, 0x00042000] { w0 with pmp := { ch := [(15, { cnt := 8, busy := true })] } }) 0, accepted_of (by decide +kernel),
    by decide +kernel⟩,
  ⟨0, ask 0 0x0710 12 [0, 0, 256, 0] w0, qreq (ask 0 0x0710 12 [0, 0, 256, 0] w0) 0, 4, accepted_of (by decide +kernel),
    by decide +kernel⟩,
  ⟨0, ask 0 0x0710 15 [0, 0x3F00000, 256, 0x00042000] w0, qreq (ask 0 0x0710 15 [0, 0x3F00000, 256, 0x00042000] w0) 0, 0, accepted_of
    (by decide +kernel), by decide +kernel⟩,
  ⟨8, ask 8 0x0710 15 [0, 0x3000000, 256, 0x00042000] { w0 with cam := { dramTrough := true } }, qreq (ask 8 0x0710 15 [0, 0x3000000,
    256, 0x00042000] { w0 with cam := { dramTrough := true } }) 8, accepted_of (by decide +kernel), by decide +kernel⟩⟩

/-! `Obligations.OvervoltageAndCharger` -/

theorem test_met_OvervoltageAndCharger :
    (∃ (s : State), s.pwr.ovp = false ∧ capvOver s = false ∧ s.pwr.chgHigh = none ∧ s.sys.mode ≠ .dormant) ∧
    (∃ (t0 : Nat) (s : State), s.pwr.ovp = false ∧ capvOver s = false ∧ s.pwr.chgHigh = some t0 ∧ s.pwr.tb ≤ t0 + 60000000000 ∧
      s.sys.mode ≠ .dormant) ∧
    (∃ (s : State), s.pwr.ovp = true ∧ s.pwr.wrStop = false ∧ s.sys.mode ≠ .dormant) ∧
    (∃ (s : State), s.pwr.wrStop = true ∧ capvOver s = false) ∧
    (∃ (s : State), s.pwr.chgOv = true ∧ capvOver s = false) ∧
    (∃ (uv : Nat) (s : State), let code := min 4095 (uv * 4096 / 1200000); pwrUp s = true ∧ code ≤ rfld s .pwrHuCfg 20 12 ∧ huReady s ≤
      code) ∧
    (∃ (uv : Nat) (s : State), let code := min 4095 (uv * 4096 / 1200000); pwrUp s = true ∧ code ≤ rfld s .pwrHuCfg 20 12 ∧ code + 16 <
      huReady s ∧ s.pwr.huRdy = true) ∧
    (∃ (uv : Nat) (s : State), let code := min 4095 (uv * 4096 / 1200000); pwrUp s = true ∧ code ≤ rfld s .pwrHuCfg 20 12 ∧ code <
      huReady s ∧ huReady s ≤ code + 16) ∧
    (∃ (uv : Nat) (s : State), let code := min 4095 (uv * 4096 / 1200000); pwrUp s = true ∧ rfld s .pwrHuCfg 20 12 < code ∧ huReady s ≤
      code ∧ s.pwr.ovp = false ∧ s.pwr.chgHigh = none) ∧
    (∃ (src : Nat) (s : State) (r : CamReq), Accepted src 0x0904 s r ∧ s.pwr.ovp = false ∧ s.pwr.chgLock = true) ∧
    (∃ (src : Nat) (s : State) (r : CamReq), Accepted src 0x0904 s r ∧ s.pwr.ovp = true) ∧
    (∃ (src : Nat) (s : State) (r : CamReq), Accepted src 0x0904 s r ∧ s.pwr.ovp = false ∧ s.pwr.chgLock = false) :=
  ⟨⟨{ w0 with pins := { chgEn := true }, pwr := { chgHold := false } }, by decide +kernel⟩,
  ⟨5, { w0 with pins := { chgEn := true }, pwr := { chgHold := false, chgHigh := some 5, tb := 60000000005 } }, by decide +kernel⟩,
  ⟨{ flying [{ cmd 0 1 1 1 [] with st := .adm }, cmd 0 1 1 1 []] w0 with pwr := { ovp := true } }, by decide +kernel⟩,
  ⟨{ w0 with pwr := { ovp := true, wrStop := true }, pins := { ovpN := false } }, by decide +kernel⟩,
  ⟨{ w0 with pwr := { ovp := true, wrStop := true, chgOv := true, chgHold := false, tb := 9 }, pins := { ovpN := false } },
    by decide +kernel⟩,
  ⟨1050000, w0, by decide +kernel⟩,
  ⟨895020, { w0 with pwr := { huRdy := true } }, by decide +kernel⟩,
  ⟨895313, { w0 with pwr := { huRdy := true } }, by decide +kernel⟩,
  ⟨1050293, { w0 with pins := { chgEn := true }, pwr := { chgHold := false } }, by decide +kernel⟩,
  ⟨0, ask 0 0x0904 0xFFFF [] { w0 with pwr := { chgLock := true, chgHold := false, tb := 7 } }, qreq (ask 0 0x0904 0xFFFF []
    { w0 with pwr := { chgLock := true, chgHold := false, tb := 7 } }) 0, accepted_of (by decide +kernel), by decide +kernel⟩,
  ⟨8, ask 8 0x0904 0xFFFF [] { w0 with pwr := { ovp := true, chgLock := true } }, qreq (ask 8 0x0904 0xFFFF []
    { w0 with pwr := { ovp := true, chgLock := true } }) 8, accepted_of (by decide +kernel), by decide +kernel⟩,
  ⟨8, ask 8 0x0904 0xFFFF [] w0, qreq (ask 8 0x0904 0xFFFF [] w0) 8, accepted_of (by decide +kernel), by decide +kernel⟩⟩

/-! `Obligations.TimeBaseCorrections` -/

theorem test_met_TimeBaseCorrections :
    (∃ (n : Nat) (h : Nat) (s : State), pwrUp s = true ∧ n = linkOf s s.hpc.timePort ∧ (portAt s n).ptmOut = true ∧ s.pwr.tbSt ≠ .slew ∧
      h < 2 ^ 64 ∧ s.pwr.tb ≤ h) ∧
    (∃ (n : Nat) (h : Nat) (s : State), pwrUp s = true ∧ n = linkOf s s.hpc.timePort ∧ (portAt s n).ptmOut = true ∧ s.pwr.tbSt ≠ .slew ∧
      h < s.pwr.tb ∧ h < 2 ^ 64) ∧
    (∃ (ns : Nat) (s : State), s.pwr.tbSt = .slew ∧ ns / 2 ≤ s.pwr.slew ∧ ns % 2 = 0) ∧
    (∃ (s : State), s.pwr.tbSt = .slew ∧ s.sys.mode = .boot ∧ s.pwr.rtcValid = false ∧ 32 ≤ s.pwr.slew) :=
  ⟨⟨0, 2 ^ 64 - 1, { w0 with hpc := { ports := [(0, { ptmOut := true })] }, pwr := { tb := 2 ^ 64 - 1 } }, by decide +kernel⟩,
  ⟨0, 4, { w0 with hpc := { ports := [(0, { ptmOut := true })] }, pwr := { tb := 5 } }, by decide +kernel⟩,
  ⟨64, { w0 with pwr := { tb := 2 ^ 64 - 1, tbSt := .slew, slew := 32 } }, by decide +kernel⟩,
  ⟨{ w0 with sys := {}, pwr := { tb := 5, tbSt := .slew, slew := 32 } }, by decide +kernel⟩⟩

/-! `Obligations.RtcRatio` -/

theorem test_met_RtcRatio :
    (∃ (ns : Nat) (s : State), s.pwr.tbSt = .sync ∧ s.pwr.rtcValid = true ∧ ns / 16 < 2 ^ 32) ∧
    (∃ (s : State), s.pwr.tbSt ≠ .sync) :=
  ⟨⟨16 * (2 ^ 32 - 1), { w0 with pwr := { tbSt := .sync, rtcValid := true } }, by decide +kernel⟩,
  ⟨{ w0 with pwr := { tbSt := .estimated, rtcValid := true } }, by decide +kernel⟩⟩

/-! `Obligations.RtcAlarmsAndPtm` -/

theorem test_met_RtcAlarmsAndPtm :
    (∃ (s : State), s.pwr.rtcStarted = false) ∧
    (∃ (s : State), pwrUp s = true) ∧
    (∃ (a : Nat) (s : State), a < 4 ∧ (alarmAt s a).en = true ∧ s.pwr.rtcStarted = true ∧ s.pwr.rtc ≤ (alarmAt s a).val ∧ s.sys.mode ≠
      .dormant) ∧
    (∃ (n : Nat) (s : State), pwrUp s = true ∧ s.sys.mode ≠ .holdup ∧ governs s n = true ∧ (portAt s n).up = true ∧ isPr s n = false ∧
      (fnAt s (ctrlOf n 0)).ptmEn = true) ∧
    (∃ (n : Nat) (s : State), pwrUp s = true ∧ s.sys.mode ≠ .holdup ∧ governs s n = true ∧ (portAt s n).up = true ∧ isPr s n = true) ∧
    (∃ (n : Nat) (s : State), pwrUp s = true ∧ n ≠ linkOf s s.hpc.timePort ∧ (portAt s n).ptmOut = true) ∧
    (∃ (s : State), s.pwr.tbSt = .sync ∧ s.sys.mode ≠ .dormant) ∧
    (∃ (n : Nat) (h : Nat) (s : State), pwrUp s = true ∧ n = linkOf s s.hpc.timePort ∧ (portAt s n).ptmOut = true ∧ s.pwr.tbSt = .slew ∧
      h < 2 ^ 64 ∧ h < s.pwr.tb) ∧
    (∃ (s : State), s.pwr.tbSt = .slew) :=
  ⟨⟨w0, by decide +kernel⟩,
  ⟨{ w0 with pwr := { rtcStarted := true, rtcValid := true } }, by decide +kernel⟩,
  ⟨3,
    { w0 with sys := { mode := .standpipe }, pwr := { rtcStarted := true, rtc := 9, alarms := [(3, { val := 9, en := true, wake := true })] } },
    by decide +kernel⟩,
  ⟨3, { w0 with hpc := { timePort := 3, ports := [(3, { up := true })], fns := [(759, { ptmEn := true })] } }, by decide +kernel⟩,
  ⟨3, { w0 with hpc := { role := 8, ports := [(3, { up := true })] } }, by decide +kernel⟩,
  ⟨3, { w0 with hpc := { ports := [(3, { ptmOut := true })] } }, by decide +kernel⟩,
  ⟨{ w0 with pwr := { tbSt := .sync } }, by decide +kernel⟩,
  ⟨0, 4, { w0 with hpc := { ports := [(0, { ptmOut := true })] }, pwr := { tb := 5, tbSt := .slew, slew := 3 } }, by decide +kernel⟩,
  ⟨{ w0 with pwr := { tb := 5, tbSt := .slew, slew := 1 } }, by decide +kernel⟩⟩

/-! `Obligations.ThermalAndPool` -/

theorem test_met_ThermalAndPool :
    (∃ (s : State), pwrUp s = true ∧ seqUp s 9 = true) ∧
    (∃ (s : State), arbiterUp s = true ∧ seqUp s 9 = true) ∧
    (∃ (avg : Nat) (s : State), arbiterUp s = true ∧ seqUp s 9 = true ∧ 102 * effCap s < avg) ∧
    (∃ (avg : Nat) (s : State), arbiterUp s = true ∧ seqUp s 9 = true ∧ avg ≤ 102 * effCap s) ∧
    (∃ (die : Nat) (bin : Nat) (a : Nat) (s : State), engines s = true ∧ sanOpen s = false ∧ dieOk s die = true ∧ bin < 10 ∧ (tkeys
      s.fte.nand).find? (fun a => decide (a / 2 ^ 27 = die) && binOf s die (cwBlk s.prof (a % 2 ^ 27)) == bin) = some a) :=
  ⟨⟨{ w0 with sbm := { sens := [(17, { valid := true, temp := 110 })] } }, by decide +kernel⟩,
  ⟨w0, by decide +kernel⟩,
  ⟨102 * 32 + 1, w0, by decide +kernel⟩,
  ⟨102 * 32, w0, by decide +kernel⟩,
  ⟨511, binOf w0 511 0, 2 ^ 27 * 511,
    { w0 with fch := { dies := [(511, { present := true })] }, fte := { nand := [(2 ^ 27 * 511, { ns := 1, inst := 0, iu := 0, body := { data := [] } })] } },
    by decide +kernel⟩⟩

/-! `Obligations.IslandGating` -/

theorem test_met_IslandGating :
    (∃ (i : Nat) (s : State), s.sys.mode.serving = true ∧ fIsland i = true ∧ islOn s i = true ∧ bitOf (reg s .pwrCfg) 30 = true ∧ islBusy
      s i = false) ∧
    (∃ (s : State), bitOf (reg s .pwrCfg) 30 = false) ∧
    (∃ (i : Nat) (s : State), s.sys.mode.serving = true ∧ fIsland i = true ∧ islAt s i = .retain) ∧
    (∃ (i : Nat) (s : State), s.sys.mode.serving = true ∧ fIsland i = true ∧ islAt s i = .retain) ∧
    (∃ (i : Nat) (s : State), i < 46 ∧ s.upd.st ≠ 3 ∧ i ≠ 43 ∧ i ≠ 44 ∧ s.sys.mode ≠ .dormant) ∧
    (∃ (i : Nat) (s : State), (i = 43 ∨ i = 44) ∧ s.sys.mode ≠ .dormant ∧ (srcAt s i).latched = false) :=
  ⟨⟨45, { w0 with regs := [(regA .pwrCfg, 0x40000400)] }, by decide +kernel⟩,
  ⟨{ w0 with regs := [(regA .pwrCfg, 0x00000400)] }, by decide +kernel⟩,
  ⟨23, { w0 with pwr := { isl := [(23, .retain)] } }, by decide +kernel⟩,
  ⟨30, { w0 with pwr := { isl := [(30, .retain)] }, mpr := { track := [{ cls := 0, mac := 0, row := 0 }] } }, by decide +kernel⟩,
  ⟨45, w0, by decide +kernel⟩,
  ⟨44, w0, by decide +kernel⟩⟩

/-! `Obligations.PowerOpcodes` -/

theorem test_met_PowerOpcodes :
    (∃ (src : Nat) (s : State) (r : CamReq), Accepted src 0x0900 s r) ∧
    (∃ (src : Nat) (s : State) (r : CamReq), Accepted src 0x0902 s r) ∧
    (∃ (src : Nat) (s : State) (r : CamReq), ∃ c, Accepted src 0x0901 s r ∧ rqW r 2 = BitVec.ofNat 32 c ∧ (c = 0 ∨ (12 ≤ c ∧ c ≤ 32))) ∧
    (∃ (src : Nat) (s : State) (r : CamReq), ∃ c, Accepted src 0x0901 s r ∧ rqW r 2 = BitVec.ofNat 32 c ∧ c < 64 ∧ c ≠ 0 ∧ (c < 12 ∨ 32 <
      c)) ∧
    (∃ (src : Nat) (s : State) (r : CamReq), ∃ val, Accepted src 0x0903 s r ∧ rqTgt r < 2 ∧ rqW r 2 &&& 0x3FFF0000 = 0 ∧ val = fld (rqW r
      2) 0 16 * 2 ^ 32 + (rqW r 3).toNat ∧ (bitOf (rqW r 2) 31 = true → s.pwr.rtc ≤ val)) ∧
    (∃ (src : Nat) (s : State) (r : CamReq), Accepted src 0x0903 s r ∧ (rqTgt r = 2 ∨ rqTgt r = 3) ∧ rqW r 2 &&& 0x3FFF0000 = 0) ∧
    (∃ (src : Nat) (s : State) (r : CamReq), Accepted src 0x0903 s r ∧ rqTgt r < 2 ∧ rqW r 2 &&& 0x3FFF0000 = 0 ∧ bitOf (rqW r 2) 31 =
      true ∧ fld (rqW r 2) 0 16 * 2 ^ 32 + (rqW r 3).toNat < s.pwr.rtc) :=
  ⟨⟨0, ask 0 0x0900 0xFFFF [] w0, qreq (ask 0 0x0900 0xFFFF [] w0) 0, accepted_of (by decide +kernel)⟩,
  ⟨0, ask 0 0x0902 0xFFFF [] { w0 with pwr := { rtc := 2 ^ 48 - 1, tb := 2 ^ 64 - 1, rtcValid := true } }, qreq (ask 0 0x0902 0xFFFF []
    { w0 with pwr := { rtc := 2 ^ 48 - 1, tb := 2 ^ 64 - 1, rtcValid := true } }) 0, accepted_of (by decide +kernel)⟩,
  ⟨0, ask 0 0x0901 0xFFFF [12, 0] w0, qreq (ask 0 0x0901 0xFFFF [12, 0] w0) 0, 12, accepted_of (by decide +kernel), by decide +kernel⟩,
  ⟨0, ask 0 0x0901 0xFFFF [33, 0] w0, qreq (ask 0 0x0901 0xFFFF [33, 0] w0) 0, 33, accepted_of (by decide +kernel), by decide +kernel⟩,
  ⟨0, ask 0 0x0903 1 [0xC000FFFF, 0xFFFFFFFF] { w0 with pwr := { rtc := 2 ^ 48 - 1 } }, qreq (ask 0 0x0903 1 [0xC000FFFF, 0xFFFFFFFF]
    { w0 with pwr := { rtc := 2 ^ 48 - 1 } }) 0, 2 ^ 48 - 1, accepted_of (by decide +kernel), by decide +kernel⟩,
  ⟨0, ask 0 0x0903 3 [0xC000FFFF, 0] w0, qreq (ask 0 0x0903 3 [0xC000FFFF, 0] w0) 0, accepted_of (by decide +kernel), by decide +kernel⟩,
  ⟨0, ask 0 0x0903 0 [0x80000000, 8] { w0 with pwr := { rtc := 9 } }, qreq (ask 0 0x0903 0 [0x80000000, 8]
    { w0 with pwr := { rtc := 9 } }) 0, accepted_of (by decide +kernel), by decide +kernel⟩⟩

/-! `Obligations.PowerLossAndSpill` -/

theorem test_met_PowerLossAndSpill :
    (∃ (s : State), mayHold s = true) ∧
    (∃ (s : State), s.sys.mode = .dormant) ∧
    (∃ (s : State), s.sys.mode = .holdup) ∧
    (∃ (s : State), s.sys.railsUp = true ∧ s.sys.mode ≠ .dormant ∧ s.upd.st ≠ 3) ∧
    (∃ (s : State), mayHold s = true ∧ s.pins.plossN = true) ∧
    (∃ (x : Supply) (uv : Nat) (s : State), mayHold s = true ∧ x ≠ .vddAon ∧ x ≠ .vddIo ∧ railInRange s.prof.iface x uv = false) ∧
    (∃ (x : Supply) (uv : Nat) (s : State), (s.sys.mode = .holdup ∨ x = .vddAon ∨ x = .vddIo ∨ railInRange s.prof.iface x uv = true)) ∧
    (∃ (c : Nat) (s : State), mayHold s = true ∧ s.sys.resetReq = some c) ∧
    (∃ (s : State), s.sys.resetReq = none) ∧
    (∃ (die : Nat) (k : Nat) (b : Nat) (s : State), s.sys.mode = .holdup ∧ s.sys.railsUp = true ∧ s.cst.hold.st = 1 ∧ tget
      s.cst.hold.plan die = some k ∧ spillBlk s die = some b ∧ progRuns s die = false) ∧
    (∃ (s : State), s.sys.mode = .holdup ∧ s.sys.railsUp = true ∧ s.sys.resetDue = false ∧ s.cst.hold.plan = [] ∧ arrayRuns s = false) ∧
    (∃ (s : State), s.sys.mode = .holdup ∧ s.sys.railsUp = true) :=
  ⟨⟨w0, by decide +kernel⟩,
  ⟨{ w0 with sys := { mode := .dormant } }, by decide +kernel⟩,
  ⟨{ w0 with sys := { mode := .holdup } }, by decide +kernel⟩,
  ⟨w0, by decide +kernel⟩,
  ⟨w0, by decide +kernel⟩,
  ⟨.vddqNand, 569999, w0, by decide +kernel⟩,
  ⟨.vddIo, 0, w0, by decide +kernel⟩,
  ⟨4, { w0 with sys := { mode := .operational, resetReq := some 4 } }, by decide +kernel⟩,
  ⟨w0, by decide +kernel⟩,
  ⟨511, 1, 0,
    { w0 with sys := { mode := .holdup }, fch := { dies := [(511, { present := true })] }, cst := { hold := { st := 1, plan := [(511, 1)] } } },
    by decide +kernel⟩,
  ⟨{ w0 with sys := { mode := .holdup } }, by decide +kernel⟩,
  ⟨{ w0 with sys := { mode := .holdup } }, by decide +kernel⟩⟩

/-! `Obligations.StandpipeCycle` -/

theorem test_met_StandpipeCycle :
    (∃ (s : State), seqUp s 9 = true ∧ s.sys.mode.serving = true ∧ ((s.sys.modeReq = some .standpipe ∧ s.sys.wakeReq = false ∧
      carrierWaits s = false) ∨ (s.sys.modeReq = none ∧ sleepMode s = true ∧ idleBut none s = true ∧ allAsleep s = true))) ∧
    (∃ (s : State), seqUp s 9 = true ∧ s.sys.mode.serving = true ∧ s.sys.modeReq = some .standpipe ∧ s.sys.wakeReq = true ∧ s.fte.wait =
      []) ∧
    (∃ (temp : Int) (uv : Nat) (s : State), let capv := min 4095 (uv * 4096 / 1200000); s.sys.mode = .standpipe ∧ (∃ k, k < 4 ∧ k ∉
      s.pwr.spMask ∧ spCross s temp capv k = true)) ∧
    (∃ (temp : Int) (uv : Nat) (s : State), let capv := min 4095 (uv * 4096 / 1200000); s.sys.mode = .standpipe ∧ (∀ k, k < 4 → k ∉
      s.pwr.spMask → spCross s temp capv k = false)) ∧
    (∃ (s : State), s.sys.mode = .standpipe ∧ s.sys.wakeReq = true ∧ s.fte.wait = []) ∧
    (∃ (i : Nat) (s : State), s.sys.mode = .standpipe ∧ s.sys.wakeReq = true ∧ s.fte.wait = [] ∧ (i, IslSt.retain) ∈ standpipeIslands) :=
  ⟨⟨{ w0 with sys := { mode := .operational, modeReq := some .standpipe, fetchStop := true }, drm := { chs := [(0, { up := true })] } },
    by decide +kernel⟩,
  ⟨{ w0 with sys := { mode := .operational, modeReq := some .standpipe, fetchStop := true, wakeReq := true } }, by decide +kernel⟩,
  ⟨spHi w0, 900000, { w0 with sys := { mode := .standpipe } }, by decide +kernel⟩,
  ⟨spHi w0 - 1, 900000, { w0 with sys := { mode := .standpipe } }, by decide +kernel⟩,
  ⟨{ w0 with sys := { mode := .standpipe, wakeReq := true, fetchStop := true }, pwr := { rtcStarted := true, rtcValid := true, pair := some (5, 0) } },
    by decide +kernel⟩,
  ⟨42, { w0 with sys := { mode := .standpipe, wakeReq := true, fetchStop := true } }, by decide +kernel⟩⟩

/-! `Obligations.DormantCycle` -/

theorem test_met_DormantCycle :
    (∃ (s : State), seqUp s 9 = true ∧ s.sys.mode.serving = true ∧ s.sys.modeReq = some .dormant ∧ carrierWaits s = false) ∧
    (∃ (s : State), s.profOn = true ∧ s.prof.autoDormant = true ∧ sleepMode s = true ∧ allPerst s = true) ∧
    (∃ (s : State), (s.profOn = false ∨ s.prof.autoDormant = false ∨ sleepMode s = false ∨ allPerst s = false)) :=
  ⟨⟨{ w0 with sys := { mode := .writeProtected, modeReq := some .dormant, fetchStop := true }, hpc := { ports := [(0, { up := true })] } },
    by decide +kernel⟩,
  ⟨{ w0 with prof := { autoDormant := true }, hpc := { ports := (List.range 4).map fun n => (n, { perst := true }) } },
    by decide +kernel⟩,
  ⟨w0, by decide +kernel⟩⟩

/-! `Obligations.ChipResets` -/

theorem test_met_ChipResets :
    (∃ a, a ≠ regA .pwrEvt) ∧
    (∃ (s : State), s.sys.resetDue = true ∧ s.sys.railsUp = true ∧ s.sys.mode ≠ .dormant) ∧
    (∃ (s : State), s.sys.resetDue = false) ∧
    (∃ (s : State), s.sys.railsUp = false) ∧
    (∃ (s : State), s.sys.railsUp = false ∧ s.pwr.rtcStarted = false) ∧
    (∃ (s : State), s.sys.railsUp = true ∧ s.sys.mode ≠ .dormant ∧ s.sys.mode ≠ .boot) :=
  ⟨⟨0, by decide +kernel⟩,
  ⟨{ w0 with sys := { mode := .holdup, resetDue := true, holdupCause := 4 }, pwr := { rtc := 4, tb := 9 } }, by decide +kernel⟩,
  ⟨w0, by decide +kernel⟩,
  ⟨{ w0 with sys := { mode := .holdup, railsUp := false } }, by decide +kernel⟩,
  ⟨{ w0 with sys := { mode := .holdup, railsUp := false } }, by decide +kernel⟩,
  ⟨w0, by decide +kernel⟩⟩

/-! `Obligations.BootSteps` -/

theorem test_met_BootSteps :
    (∃ (s : State), AtStep 1 s) ∧
    (∃ (s : State), AtStep 1 s) ∧
    (∃ (a : Bool) (b : Bool) (s : State), AtStep 2 s ∧ s.upd.trial = 0 ∧ s.upd.nextImg = 0 ∧ imgBoots (fun k => if k = 1 then a else b) s
      s.upd.actImg = true) ∧
    (∃ (a : Bool) (b : Bool) (s : State), AtStep 2 s ∧ s.upd.trial = 0 ∧ s.upd.nextImg ≠ 0 ∧ imgBoots (fun k => if k = 1 then a else b) s
      s.upd.nextImg = true) ∧
    (∃ (a : Bool) (b : Bool) (s : State), AtStep 2 s ∧ s.upd.trial ≠ 0 ∧ 2 ≤ s.upd.tries ∧ s.upd.prevImg ≠ s.upd.trial ∧ imgBoots (fun k
      => if k = 1 then a else b) s s.upd.prevImg = true) ∧
    (∃ (a : Bool) (b : Bool) (s : State), AtStep 2 s ∧ (∀ k, imgBoots (fun k => if k = 1 then a else b) s k = false)) ∧
    (∃ (s : State), AtStep 3 s ∧ (bankAt s 0).st = .inService ∧ (bankAt s 1).st = .inService ∧ s.mpr.soft = []) ∧
    (∃ (s : State), AtStep 3 s ∧ (bankAt s 0).st = .inService ∧ (bankAt s 1).st = .inService) ∧
    (∃ (a : Bool) (b : Bool) (s : State), AtStep 4 s ∧ s.upd.nextPrf = 0 ∧ (s.upd.actPrf = 1 ∨ s.upd.actPrf = 2) ∧ (if s.upd.actPrf = 1
      then a else b) = true ∧ prfBoots s s.upd.actPrf = true) ∧
    (∃ (s : State), AtStep 4 s ∧ prfBoots s 1 = false ∧ prfBoots s 2 = false ∧ (s.upd.actPrf = 1 ∨ s.upd.actPrf = 2) ∧ s.upd.nextPrf ≤ 2)
      ∧
    (∃ (gib : Nat) (rate : Nat) (f : List Nat) (s : State), AtStep 5 s ∧ s.drm.started = false ∧ dramFits (trainDram true gib rate f s) =
      true) ∧
    (∃ (gib : Nat) (s : State), AtStep 5 s ∧ s.drm.started = false ∧ gib < 8) ∧
    (∃ (s : State), AtStep 5 s ∧ s.drm.started = false ∧ s.drm.trained = false) ∧
    (∃ (s : State), AtStep 6 s) ∧
    (∃ (ts : List ChTrain) (s : State),
      let passes (x : ChTrain) : Bool := s.prof.rates.contains x.rate && decide (eyeMin s + 2 * eyeGuard s ≤ x.eye);
      let train (d : Nat) : ChTrain := ts.getD (chanOf d) { rate := 0, eye := 0, temp := 0 }; AtStep 6 s ∧ (∀ d ∈ s.prof.dies, passes
      (train d) = true)) ∧
    (∃ (ts : List ChTrain) (s : State),
      let passes (x : ChTrain) : Bool := s.prof.rates.contains x.rate && decide (eyeMin s + 2 * eyeGuard s ≤ x.eye);
      let train (d : Nat) : ChTrain := ts.getD (chanOf d) { rate := 0, eye := 0, temp := 0 }; AtStep 6 s ∧ (∃ d ∈ s.prof.dies, passes
      (train d) = false)) ∧
    (∃ (s : State), AtStep 7 s ∧ shadowOnly s = false) ∧
    (∃ (ok : Bool) (s : State), AtStep 7 s ∧ shadowOnly s = true ∧ (s.cst.ckpt = none ∨ ok = false)) ∧
    (∃ (s : State), AtStep 8 s) ∧
    (∃ (s : State), AtStep 9 s) ∧
    (∃ (s : State), (s.sys.mode ≠ .boot ∨ s.sys.railsUp = false)) :=
  ⟨⟨bootAt 1, (by unfold AtStep; decide +kernel)⟩,
  ⟨bootAt 1, (by unfold AtStep; decide +kernel)⟩,
  ⟨true, false, bootAt 2, (by unfold AtStep; decide +kernel), by decide +kernel⟩,
  ⟨false, true, { bootAt 2 with upd := { nextImg := 2, slots := [(2, { st := 2, img := some {} })] } },
    (by unfold AtStep; decide +kernel), by decide +kernel⟩,
  ⟨true, false, { bootAt 2 with upd := { trial := 2, tries := 2, prevImg := 1, slots := [(1, { st := 2, img := some {} })] } },
    (by unfold AtStep; decide +kernel), by decide +kernel⟩,
  ⟨false, false, bootAt 2, (by unfold AtStep; decide +kernel), (fun k => by rcases k with _ | _ | k <;> rfl)⟩,
  ⟨{ bootAt 3 with sec := { rooted := true } }, (by unfold AtStep; decide +kernel), by decide +kernel⟩,
  ⟨bootAt 3, (by unfold AtStep; decide +kernel), by decide +kernel⟩,
  ⟨true, false, bootAt 4, (by unfold AtStep; decide +kernel), by decide +kernel⟩,
  ⟨{ bootAt 4 with upd := {} }, (by unfold AtStep; decide +kernel), by decide +kernel⟩,
  ⟨8, 1, [9],
    { bootAt 5 with prof := {}, profOn := true, mpr := { soft := [{ kind := 2, cls := 3, mac := 0, row := 0, line := 7 }, { kind := 2, cls := 3, mac := 0, row := 0, line := 9 }] } },
    (by unfold AtStep; decide +kernel), by decide +kernel⟩,
  ⟨7, bootAt 5, (by unfold AtStep; decide +kernel), by decide +kernel⟩,
  ⟨bootAt 5, (by unfold AtStep; decide +kernel), by decide +kernel⟩,
  ⟨bootAt 6, (by unfold AtStep; decide +kernel)⟩,
  ⟨(List.range 32).map fun _ => { rate := 48, eye := 255, temp := 25 }, { bootAt 6 with prof := { dies := [0, 511], rates := [48] } },
    (by unfold AtStep; decide +kernel), by decide +kernel⟩,
  ⟨[{ rate := 0, eye := 0, temp := 0 }], { bootAt 6 with prof := { dies := [0] } }, (by unfold AtStep; decide +kernel),
    by decide +kernel⟩,
  ⟨bootAt 7, (by unfold AtStep; decide +kernel), by decide +kernel⟩,
  ⟨true, { bootAt 7 with cst := { banks := [(0, { st := .failed }), (1, { st := .failed })] } }, (by unfold AtStep; decide +kernel),
    by decide +kernel⟩,
  ⟨bootAt 8, (by unfold AtStep; decide +kernel)⟩,
  ⟨bootAt 9, (by unfold AtStep; decide +kernel)⟩,
  ⟨w0, by decide +kernel⟩⟩

/-! `Obligations.LinksAndResets` -/

theorem test_met_LinksAndResets :
    (∃ (n : Nat) (s : State), governs s n = true ∧ isPr s n = false ∧ (portAt s n).perst = false ∧ portsLive s = true) ∧
    (∃ (n : Nat) (s : State), (isPr s n = true ∨ governs s n = false ∨ (portAt s n).perst = true)) ∧
    (∃ (n : Nat) (s : State), governs s n = true ∧ isPr s n = false ∧ (portAt s n).perst = true ∧ portsLive s = true) ∧
    (∃ (n : Nat) (s : State), governs s n = true ∧ isPr s n = false ∧ (portAt s n).perst = true ∧ s.sys.mode = .dormant) ∧
    (∃ (n : Nat) (s : State), governs s n = true ∧ isPr s n = false ∧ (portAt s n).up = true ∧ portsLive s = true) ∧
    (∃ (n : Nat) (s : State), governs s n = true ∧ isPr s n = false ∧ (portAt s n).up = true ∧ portsLive s = true) ∧
    (∃ (n : Nat) (s : State), governs s n = true ∧ isPr s n = true ∧ (portAt s n).up = true ∧ portsLive s = true ∧ s.hpc.twin ≠ 0) ∧
    (∃ (n : Nat) (w : Nat) (rate : Nat) (flit : Bool) (s : State), governs s n = true ∧ portsLive s = true ∧ s.hpc.released = true ∧
      (portAt s n).up = false ∧ (portAt s n).perst = false ∧ (portAt s n).st ≠ 7 ∧ (isPr s n = true → prHold s n = false) ∧ w ∈ ([1, 2,
      4, 8, 16] : List Nat) ∧ w ≤ laneCount s n ∧ 1 ≤ rate ∧ rate ≤ 6 ∧ (rate = 6 → flit = true)) ∧
    (∃ (c : Nat) (s : State), isPf c = true ∧ thas s.nvq.ctrls c = true ∧ portsLive s = true) ∧
    (∃ (c : Nat) (s : State), isPf c = false ∧ thas s.nvq.ctrls c = true ∧ portsLive s = true) :=
  ⟨⟨0, linked 0 w0, by decide +kernel⟩,
  ⟨4, w0, by decide +kernel⟩,
  ⟨3, { w0 with hpc := { released := true, ports := [(3, { perst := true })] } }, by decide +kernel⟩,
  ⟨3, { w0 with sys := { mode := .dormant }, hpc := { ports := [(3, { perst := true })] } }, by decide +kernel⟩,
  ⟨0, linked 0 w0, by decide +kernel⟩,
  ⟨0, linked 0 w0, by decide +kernel⟩,
  ⟨3, { w0 with hpc := { role := 8, twin := 4, ports := [(3, { up := true })] } }, by decide +kernel⟩,
  ⟨2, 8, 6, true, { w0 with hpc := { merge := 2, released := true } }, by decide +kernel⟩,
  ⟨0, linked 0 w0, by decide +kernel⟩,
  ⟨1, linked 0 w0, by decide +kernel⟩⟩

/-! `Obligations.ConfigurationAndLinkErrors` -/

theorem test_met_ConfigurationAndLinkErrors :
    (∃ (c : Nat) (s : State), let n := ctrlLink s c; isPr s n = false ∧ (portAt s n).up = true ∧ portsLive s = true ∧ (portAt s
      n).cfgReady = false) ∧
    (∃ (c : Nat) (rdy : Bool) (s : State), let n := ctrlLink s c; isPr s n = false ∧ (portAt s n).up = true ∧ portsLive s = true ∧
      ((portAt s n).cfgReady = true ∨ rdy = true) ∧ fnThere s c = false) ∧
    (∃ (c : Nat) (rdy : Bool) (s : State), let n := ctrlLink s c; isPr s n = false ∧ (portAt s n).up = true ∧ portsLive s = true ∧
      ((portAt s n).cfgReady = true ∨ rdy = true) ∧ fnThere s c = true) ∧
    (∃ (c : Nat) (rdy : Bool) (s : State), let n := ctrlLink s c; isPr s n = false ∧ (portAt s n).up = true ∧ portsLive s = true ∧
      ((portAt s n).cfgReady = true ∨ rdy = true) ∧ fnThere s c = true) ∧
    (∃ (c : Nat) (rdy : Bool) (s : State), let n := ctrlLink s c; isPr s n = false ∧ (portAt s n).up = true ∧ portsLive s = true ∧
      ((portAt s n).cfgReady = true ∨ rdy = true) ∧ fnThere s c = true) ∧
    (∃ (c : Nat) (rdy : Bool) (s : State), let n := ctrlLink s c; ∃ k, isPr s n = false ∧ (portAt s n).up = true ∧ portsLive s = true ∧
      ((portAt s n).cfgReady = true ∨ rdy = true) ∧ fnThere s c = true ∧ (k = 128 ∨ k = 256 ∨ k = 512)) ∧
    (∃ (c : Nat) (rdy : Bool) (s : State), let n := ctrlLink s c; ∃ k, isPr s n = false ∧ (portAt s n).up = true ∧ portsLive s = true ∧
      ((portAt s n).cfgReady = true ∨ rdy = true) ∧ fnThere s c = true ∧ (k = 128 ∨ k = 512 ∨ k = 4096)) ∧
    (∃ (c : Nat) (rdy : Bool) (s : State), let n := ctrlLink s c; isPr s n = false ∧ (portAt s n).up = true ∧ portsLive s = true ∧
      ((portAt s n).cfgReady = true ∨ rdy = true) ∧ fnThere s c = true) ∧
    (∃ (c : Nat) (rdy : Bool) (s : State), let n := ctrlLink s c; isPr s n = false ∧ (portAt s n).up = true ∧ portsLive s = true ∧
      ((portAt s n).cfgReady = true ∨ rdy = true) ∧ fnThere s c = true) ∧
    (∃ (c : Nat) (rdy : Bool) (s : State), let n := ctrlLink s c; isPr s n = false ∧ (portAt s n).up = true ∧ portsLive s = true ∧
      ((portAt s n).cfgReady = true ∨ rdy = true) ∧ fnThere s c = true) ∧
    (∃ (c : Nat) (rdy : Bool) (s : State), let n := ctrlLink s c; isPr s n = false ∧ (portAt s n).up = true ∧ portsLive s = true ∧
      ((portAt s n).cfgReady = true ∨ rdy = true) ∧ fnThere s c = true ∧ isPf c = true ∧ isPface s n = false) ∧
    (∃ (n : Nat) (s : State), receives s n = true) ∧
    (∃ (n : Nat) (k : Nat) (x : Tag) (s : State), receives s n = true ∧ tget s.nvq.tags k = some x ∧ (x.st = .run ∨ x.st = .suspended) ∧
      NoAer k s) ∧
    (∃ (n : Nat) (e : ErrTlp) (s : State), receives s n = true ∧ (e = .epDataRead ∨ e = .epFetch ∨ e = .epBarWrite)) ∧
    (∃ (n : Nat) (e : ErrTlp) (s : State), receives s n = true ∧ (e = .urFetch ∨ e = .caFetch)) ∧
    (∃ (n : Nat) (c : Nat) (s : State), receives s n = true ∧ (fnAt s c).ecrcChk = true) ∧
    (∃ (n : Nat) (c : Nat) (s : State), receives s n = true ∧ (fnAt s c).ecrcChk = false) ∧
    (∃ (n : Nat) (k : Nat) (e : ErrTlp) (x : Tag) (s : State), receives s n = true ∧ e ≠ .epBarWrite ∧ tget s.nvq.tags k = some x ∧ (x.st
      = .run ∨ x.st = .suspended) ∧ NoAer k s ∧ (e = .ecrc → (fnAt s x.ctrl).ecrcChk = true)) ∧
    (∃ (n : Nat) (s : State), receives s n = true ∧ isPr s n = false) ∧
    (∃ (n : Nat) (k : Nat) (x : Tag) (s : State), receives s n = true ∧ isPr s n = false ∧ tget s.nvq.tags k = some x ∧ (x.st = .run ∨
      x.st = .suspended) ∧ NoAer k s) ∧
    (∃ (n : Nat) (s : State), receives s n = false) ∧
    (∃ (n : Nat) (s : State), receives s n = false) ∧
    (∃ (n : Nat) (s : State), receives s n = false) :=
  ⟨⟨759, { w0 with hpc := { ports := [(3, { up := true })] } }, by decide +kernel⟩,
  ⟨3, false, linked 0 w0, by decide +kernel⟩,
  ⟨253, true, linked 1 w0, by decide +kernel⟩,
  ⟨253, true, linked 1 w0, by decide +kernel⟩,
  ⟨253, true, linked 1 w0, by decide +kernel⟩,
  ⟨0, false, linked 0 w0, 512, by decide +kernel⟩,
  ⟨0, false, linked 0 w0, 4096, by decide +kernel⟩,
  ⟨0, false, linked 0 w0, by decide +kernel⟩,
  ⟨0, false, linked 0 w0, by decide +kernel⟩,
  ⟨0, false, linked 0 w0, by decide +kernel⟩,
  ⟨0, false, linked 0 w0, by decide +kernel⟩,
  ⟨3, linked 3 w0, by decide +kernel⟩,
  ⟨0, 0, (tget (linked 0 w0).nvq.tags 0).getD tg0, linked 0 w0, by decide +kernel, by decide +kernel, by decide +kernel, noAer_of
    (by decide +kernel)⟩,
  ⟨0, .epBarWrite, linked 0 w0, by decide +kernel⟩,
  ⟨0, .caFetch, linked 0 w0, by decide +kernel⟩,
  ⟨3, 759, onHpc (fun h => { h with fns := [(759, { ecrcChk := true })] }) (linked 3 w0), by decide +kernel⟩,
  ⟨3, 759, linked 3 w0, by decide +kernel⟩,
  ⟨0, 0, .urFetch, (tget (linked 0 w0).nvq.tags 0).getD tg0, linked 0 w0, by decide +kernel, by decide +kernel, by decide +kernel,
    by decide +kernel, noAer_of (by decide +kernel), by decide +kernel⟩,
  ⟨3, linked 3 w0, by decide +kernel⟩,
  ⟨0, 0, (tget (linked 0 w0).nvq.tags 0).getD tg0, linked 0 w0, by decide +kernel, by decide +kernel, by decide +kernel,
    by decide +kernel, noAer_of (by decide +kernel)⟩,
  ⟨4, w0, by decide +kernel⟩,
  ⟨4, w0, by decide +kernel⟩,
  ⟨4, w0, by decide +kernel⟩⟩

/-! `Obligations.TwinLink` -/

theorem test_met_TwinLink :
    (∃ (n : Nat) (a : Nat) (bs : List Byte) (s : State), prPort s = some n ∧ receives s n = true ∧ a + bs.length ≤ 2 ^ 32) ∧
    (∃ (n : Nat) (a : Nat) (k : Nat) (s : State), prPort s = some n ∧ receives s n = true ∧ a + k ≤ 2 ^ 32) ∧
    (∃ (n : Nat) (addr : Nat) (partner : Bool) (s : State), prPort s = some n ∧ receives s n = true ∧ (partner = false ∨ addr < 2 ^ 32))
      ∧
    (∃ (n : Nat) (s : State), prPort s = some n ∧ s.hpc.twin = 1 ∧ s.hpc.released = true ∧ prHold s n = false ∧ portsLive s = true) ∧
    (∃ (n : Nat) (s : State), prPort s = some n ∧ (s.hpc.twin = 2 ∨ s.hpc.twin = 3) ∧ receives s n = true) ∧
    (∃ (n : Nat) (s : State), prPort s = some n ∧ (s.hpc.twin = 2 ∨ s.hpc.twin = 3) ∧ receives s n = true) ∧
    (∃ (n : Nat) (s : State), prPort s = some n ∧ (s.hpc.twin = 2 ∨ s.hpc.twin = 3) ∧ receives s n = true) ∧
    (∃ (n : Nat) (s : State), let id := regValue s .sysChipId 0; ∃ (w : Word) (pf : Bool), prPort s = some n ∧ (s.hpc.twin = 2 ∨
      s.hpc.twin = 3) ∧ receives s n = true ∧ (w ≠ id ∨ pf = false)) ∧
    (∃ (n : Nat) (s : State), prPort s = some n ∧ s.hpc.twin ≠ 0 ∧ s.hpc.twin ≠ 5 ∧ portsLive s = true) ∧
    (∃ (n : Nat) (s : State), prPort s = some n ∧ s.hpc.twin = 5 ∧ prHold s n = false ∧ portsLive s = true) ∧
    (∃ (s : State), prPort s = none) ∧
    (∃ (s : State), prPort s = none) ∧
    (∃ (s : State), prPort s = none) ∧
    (∃ (n : Nat) (s : State), receives s n = true ∧ isPr s n = false) :=
  ⟨⟨3, 2 ^ 32 - 2, [1, 2], { w0 with hpc := { role := 8, twin := 4, ports := [(3, { up := true })], window := [(5, 1)] } },
    by decide +kernel⟩,
  ⟨3, 5, 2, { w0 with hpc := { role := 8, twin := 4, ports := [(3, { up := true })], window := [(5, 1)] } }, by decide +kernel⟩,
  ⟨3, 2 ^ 32 - 1, true, { w0 with hpc := { role := 8, twin := 4, ports := [(3, { up := true })] } }, by decide +kernel⟩,
  ⟨3, { w0 with hpc := { role := 8, twin := 1, released := true, ports := [(3, { perst := true })] } }, by decide +kernel⟩,
  ⟨3, { w0 with hpc := { role := 8, twin := 3, ports := [(3, { up := true })] }, dre := { lost := true } }, by decide +kernel⟩,
  ⟨3, { w0 with hpc := { role := 8, twin := 3, ports := [(3, { up := true })] }, dre := { lost := true } }, by decide +kernel⟩,
  ⟨3, { w0 with hpc := { role := 8, twin := 3, ports := [(3, { up := true })] }, dre := { lost := true } }, by decide +kernel⟩,
  ⟨3, { w0 with hpc := { role := 8, twin := 3, ports := [(3, { up := true })] }, dre := { lost := true } }, 0, true, by decide +kernel⟩,
  ⟨3, { w0 with hpc := { role := 8, twin := 4, ports := [(3, { up := true })] } }, by decide +kernel⟩,
  ⟨3, { w0 with hpc := { role := 8, twin := 5, ports := [(3, { up := true })] } }, by decide +kernel⟩,
  ⟨w0, by decide +kernel⟩,
  ⟨w0, by decide +kernel⟩,
  ⟨w0, by decide +kernel⟩,
  ⟨0, onXlt (fun x => { x with nextReq := 1, reqs := [(0, { tag := some 0, ctrl := 0, page := 3, pages := 2 })] }) (linked 0 w0),
    by decide +kernel⟩⟩

/-! `Obligations.FaultCollection` -/

theorem test_met_FaultCollection :
    (∃ (i : Nat) (n : Nat) (s : State), s.sys.mode ≠ .dormant ∧ i < 384 ∧ 2 ≤ n ∧ drives s i = true ∧ s.upd.st ≠ 3 ∧ srcTable i ≠ some 43
      ∧ srcTable i ≠ some 44 ∧ (i < 150 ∨ 161 < i) ∧ i ≠ 350 ∧ i ≠ 351 ∧ i ≠ 365) ∧
    (∃ (i : Nat) (n : Nat) (s : State), s.sys.mode ≠ .dormant ∧ i < 384 ∧ 4 ≤ n ∧ drives s i = true ∧ s.upd.st ≠ 3 ∧ srcTable i ≠ some 43
      ∧ srcTable i ≠ some 44 ∧ (i < 150 ∨ 161 < i) ∧ i ≠ 350 ∧ i ≠ 351 ∧ i ≠ 365 ∧ (srcAt s i).wire = false) ∧
    (∃ (i : Nat) (n : Nat) (s : State), s.sys.mode ≠ .dormant ∧ i < 384 ∧ 2 ≤ n ∧ drives s i = true) ∧
    (∃ (i : Nat) (n : Nat) (p : Bool) (q : Bool) (s : State), (drives s i = false ∨ n < 2 ∨ (p = q ∧ n < 4))) ∧
    (∃ (i : Nat) (n : Nat) (s : State), s.sys.mode ≠ .dormant ∧ i < 384 ∧ 2 ≤ n ∧ drives s i = true ∧ s.upd.st ≠ 3 ∧ (srcAt s i).latched
      = false) ∧
    (∃ (i : Nat) (n : Nat) (s : State), s.sys.mode ≠ .dormant ∧ 150 ≤ i ∧ i ≤ 161 ∧ 2 ≤ n ∧ drives s i = true ∧ (srcAt s i).latched =
      false) ∧
    (∃ (n : Nat) (s : State), s.sys.mode ≠ .dormant ∧ 2 ≤ n ∧ drives s 365 = true ∧ (srcAt s 365).latched = false) ∧
    (∃ (i : Nat) (n : Nat) (s : State), s.sys.mode ≠ .dormant ∧ (i = 350 ∨ i = 351) ∧ 2 ≤ n ∧ drives s i = true ∧ (srcAt s i).latched =
      false) ∧
    (∃ (i : Nat) (s : State), let isl := 40 + srcSeq i / 4; i ∈ s.flt.nmt ∧ (s.sys.mode.serving = true ∨ s.sys.mode = .boot) ∧ isl ∉
      s.flt.blk) ∧
    (∃ (i : Nat) (s : State), i ∈ s.flt.blk ∧ s.sys.mode ≠ .dormant ∧ (i < 11 ∨ (22 < i ∧ i < 28) ∨ i = 29 ∨ (30 < i ∧ i < 34) ∨ (35 < i
      ∧ i < 40) ∨ 44 < i)) ∧
    (∃ (i : Nat) (s : State), i ∈ s.flt.blk ∧ s.sys.mode ≠ .dormant ∧ 11 ≤ i ∧ i ≤ 44 ∧ (i = 30 → s.mpr.merges ++ s.mpr.mwait = [])) ∧
    (∃ (s : State), s.mpr.merges ++ s.mpr.mwait ≠ []) ∧
    (∃ (fn : Nat) (w : Nat) (s : State), barUp s fn = true ∧ w < 12) ∧
    (∃ (fn : Nat) (s : State), barUp s fn = true ∧ pinLatched s = false ∧ s.pins.faultN = true) ∧
    (∃ (fn : Nat) (s : State), barUp s fn = true ∧ (pinLatched s = true ∨ s.pins.faultN = false)) ∧
    (∃ (key : Word), key ≠ 0x5AA5) ∧
    (∃ (fn : Nat) (s : State), barUp s fn = false) ∧
    (∃ (fn : Nat) (s : State), barUp s fn = false) :=
  ⟨⟨383, 2, w0, by decide +kernel⟩,
  ⟨0, 4, w0, by decide +kernel⟩,
  ⟨383, 2, { w0 with flt := { srcs := [(383, { p := true, n := false, latched := true })] } }, by decide +kernel⟩,
  ⟨5, 3, true, true, w0, by decide +kernel⟩,
  ⟨377, 2, { w0 with flt := { srcs := [(377, { react := some 31 })] } }, by decide +kernel⟩,
  ⟨161, 2, w0, by decide +kernel⟩,
  ⟨2, w0, by decide +kernel⟩,
  ⟨351, 2, w0, by decide +kernel⟩,
  ⟨149, { w0 with flt := { nmt := [149] } }, by decide +kernel⟩,
  ⟨39, { w0 with flt := { blk := [39] }, pwr := { isl := [(39, .reset)] } }, by decide +kernel⟩,
  ⟨44, { w0 with flt := { blk := [44] }, pwr := { isl := [(44, .reset)] } }, by decide +kernel⟩,
  ⟨{ w0 with mpr := { mwait := [{ mem := 3, word := 0 }] } }, by decide +kernel⟩,
  ⟨0, 11,
    { w0 with flt := { srcs := [(352, { latched := true }), (353, { latched := true }), (383, { latched := true, p := true, n := false })] } },
    by decide +kernel⟩,
  ⟨0, { w0 with pins := { faultN := true } }, by decide +kernel⟩,
  ⟨0, { w0 with pins := { faultN := true }, flt := { srcs := [(5, { latched := true, react := some 31 })] } }, by decide +kernel⟩,
  ⟨0x5AA4, by decide +kernel⟩,
  ⟨3, w0, by decide +kernel⟩,
  ⟨3, w0, by decide +kernel⟩⟩

/-! `Obligations.FaultInjectionAndOpcodes` -/

theorem test_met_FaultInjectionAndOpcodes :
    (∃ (s : State), s.sys.mode ≠ .factory) ∧
    (∃ (fn : Nat) (v : Word) (s : State), let old := s.flt.inj; barUp s fn = true ∧ s.sys.mode = .factory ∧ injGo old = false ∧ injGo v =
      true ∧ injBad v = false) ∧
    (∃ (fn : Nat) (v : Word) (s : State), let old := s.flt.inj; barUp s fn = true ∧ s.sys.mode = .factory ∧ injGo old = false ∧ (injGo v
      = false ∨ injBad v = true)) ∧
    (∃ (fn : Nat) (v : Word) (s : State), let old := s.flt.inj; barUp s fn = true ∧ s.sys.mode = .factory ∧ injGo old = true ∧ injGo v =
      true) ∧
    (∃ (fn : Nat) (v : Word) (s : State), let old := s.flt.inj; barUp s fn = true ∧ s.sys.mode = .factory ∧ injGo old = true ∧ injGo v =
      false ∧ s.flt.injRun.any (·.2) = true) ∧
    (∃ (fn : Nat) (v : Word) (s : State), let old := s.flt.inj; ∃ k, barUp s fn = true ∧ s.sys.mode = .factory ∧ injGo old = true ∧ injGo
      v = false ∧ s.flt.injRun = some (k, false) ∧ k < 384) ∧
    (∃ (k : Nat) (s : State), s.sys.mode = .factory ∧ s.flt.injRun = some (k, true) ∧ k < 384) ∧
    (∃ (src : Nat) (s : State) (r : CamReq), Accepted src 0x0800 s r) ∧
    (∃ (src : Nat) (s : State) (r : CamReq), Accepted src 0x0801 s r) ∧
    (∃ (src : Nat) (s : State) (r : CamReq), Accepted src 0x0802 s r ∧ (srcAt s (rqTgt r)).live = true) ∧
    (∃ (src : Nat) (s : State) (r : CamReq), Accepted src 0x0802 s r ∧ (srcAt s (rqTgt r)).live = false) ∧
    (∃ (src : Nat) (s : State) (r : CamReq), Accepted src 0x0803 s r ∧ bytesOk r 8 = none) ∧
    (∃ (src : Nat) (s : State) (r : CamReq), Accepted src 0x0804 s r ∧ (injGo (rqW r 2) = false ∨ injBad (rqW r 2) = false)) ∧
    (∃ (src : Nat) (s : State) (r : CamReq), Accepted src 0x0804 s r ∧ injGo (rqW r 2) = true ∧ 384 ≤ injSrc (rqW r 2)) ∧
    (∃ (src : Nat) (s : State) (r : CamReq), Accepted src 0x0804 s r ∧ injGo (rqW r 2) = true ∧ injSrc (rqW r 2) < 384 ∧ injMode (rqW r
      2) = 3) ∧
    (∃ (src : Nat) (s : State) (r : CamReq), Accepted src 0x0805 s r ∧ pinLatched s = true) ∧
    (∃ (src : Nat) (s : State) (r : CamReq), Accepted src 0x0805 s r ∧ pinLatched s = false ∧ s.pins.faultN = true) ∧
    (∃ (src : Nat) (s : State) (r : CamReq), Accepted src 0x0805 s r ∧ pinLatched s = false ∧ s.pins.faultN = false) :=
  ⟨⟨w0, by decide +kernel⟩,
  ⟨0, 0x8100017F, { w0 with sys := { mode := .factory } }, by decide +kernel⟩,
  ⟨0, 0x8301017F, { w0 with sys := { mode := .factory } }, by decide +kernel⟩,
  ⟨0, 0x8301017F, { w0 with sys := { mode := .factory }, flt := { inj := 0x8201017F } }, by decide +kernel⟩,
  ⟨0, 0x0101017E, { w0 with sys := { mode := .factory }, flt := { inj := 0x8201017F, injRun := some (383, true) } }, by decide +kernel⟩,
  ⟨0, 0x0101017E,
    { w0 with sys := { mode := .factory }, flt := { inj := 0x8200017F, injRun := some (383, false), srcs := [(383, { p := true, n := true, latched := true })] } },
    383, by decide +kernel⟩,
  ⟨383,
    { w0 with sys := { mode := .factory }, flt := { inj := 0x8201017F, injRun := some (383, true), srcs := [(383, { p := true, n := false, latched := true })] } },
    by decide +kernel⟩,
  ⟨0, ask 0 0x0800 0xFFFF [] w0, qreq (ask 0 0x0800 0xFFFF [] w0) 0, accepted_of (by decide +kernel)⟩,
  ⟨8, ask 8 0x0801 383 [] w0, qreq (ask 8 0x0801 383 [] w0) 8, accepted_of (by decide +kernel)⟩,
  ⟨0, ask 0 0x0802 383 [] { w0 with flt := { srcs := [(383, { p := true, n := false, latched := true })] } }, qreq (ask 0 0x0802 383 []
    { w0 with flt := { srcs := [(383, { p := true, n := false, latched := true })] } }) 0, accepted_of (by decide +kernel),
    by decide +kernel⟩,
  ⟨0, ask 0 0x0802 383 [] { w0 with flt := { srcs := [(383, { latched := true })] } }, qreq (ask 0 0x0802 383 []
    { w0 with flt := { srcs := [(383, { latched := true })] } }) 0, accepted_of (by decide +kernel), by decide +kernel⟩,
  ⟨8, ask 8 0x0803 0xFFFF [0x00003F00, 8]
    { w0 with cam := { flags := [(16128, 0x80000000)] }, flt := { srcs := [(1, { latched := true }), (2, {}), (383, { latched := true })] } }
    0x04000000, qreq (ask 8 0x0803 0xFFFF [0x00003F00, 8]
    { w0 with cam := { flags := [(16128, 0x80000000)] }, flt := { srcs := [(1, { latched := true }), (2, {}), (383, { latched := true })] } }
    0x04000000) 8, accepted_of (by decide +kernel), by decide +kernel⟩,
  ⟨8, ask 8 0x0804 383 [0x0000017F, 0] { w0 with sys := { mode := .factory } }, qreq (ask 8 0x0804 383 [0x0000017F, 0]
    { w0 with sys := { mode := .factory } }) 8, accepted_of (by decide +kernel), by decide +kernel⟩,
  ⟨0, ask 0 0x0804 383 [0x80000180, 0] { w0 with sys := { mode := .factory } }, qreq (ask 0 0x0804 383 [0x80000180, 0]
    { w0 with sys := { mode := .factory } }) 0, accepted_of (by decide +kernel), by decide +kernel⟩,
  ⟨0, ask 0 0x0804 383 [0x8300017F, 0] { w0 with sys := { mode := .factory } }, qreq (ask 0 0x0804 383 [0x8300017F, 0]
    { w0 with sys := { mode := .factory } }) 0, accepted_of (by decide +kernel), by decide +kernel⟩,
  ⟨0, ask 0 0x0805 0xFFFF [] { w0 with pins := { faultN := true }, flt := { srcs := [(5, { latched := true, react := some 31 })] } },
    qreq (ask 0 0x0805 0xFFFF [] { w0 with pins := { faultN := true }, flt := { srcs := [(5, { latched := true, react := some 31 })] } })
    0, accepted_of (by decide +kernel), by decide +kernel⟩,
  ⟨0, ask 0 0x0805 0xFFFF [] { w0 with pins := { faultN := true } }, qreq (ask 0 0x0805 0xFFFF [] { w0 with pins := { faultN := true } })
    0, accepted_of (by decide +kernel), by decide +kernel⟩,
  ⟨0, ask 0 0x0805 0xFFFF [] w0, qreq (ask 0 0x0805 0xFFFF [] w0) 0, accepted_of (by decide +kernel), by decide +kernel⟩⟩

/-! `Obligations.ControllerLifecycle` -/

theorem test_met_ControllerLifecycle :
    (∃ (c : Nat) (mps : Nat) (x : Ctrl) (s : State), let fit := canReady (setCtrl c { x with mps } s) c; tget s.nvq.ctrls c = some x ∧
      x.en = false ∧ s.fte.wait = [] ∧ s.sys.mode.serving = true ∧ fit = true) ∧
    (∃ (c : Nat) (mps : Nat) (x : Ctrl) (s : State), let fit := canReady (setCtrl c { x with mps } s) c; tget s.nvq.ctrls c = some x ∧
      x.en = false ∧ s.fte.wait = [] ∧ (s.sys.mode = .boot ∨ (s.sys.mode.serving = true ∧ fit = false))) ∧
    (∃ (c : Nat) (s : State), (ctrlAt s c).en = true) ∧
    (∃ (c : Nat) (s : State), (ctrlAt s c).en = true ∧ s.sys.mode ≠ .holdup ∧ s.sys.mode ≠ .dormant) ∧
    (∃ (c : Nat) (s : State), (ctrlAt s c).en = false) ∧
    (∃ (c : Nat) (s : State), isPf c = true ∧ thas s.nvq.ctrls c = true ∧ s.sys.mode.serving = true) ∧
    (∃ (c : Nat) (s : State), (ctrlAt s c).en = true ∧ (ctrlAt s c).shn = false ∧ s.sys.mode.serving = true ∧ allDown (modCtrl c (fun x
      => { x with shn := true }) s) = false) ∧
    (∃ (c : Nat) (s : State), let busy := s.nvq.tags.any fun e => hostCtrl s e.2.ctrl && unplaced e.2; (ctrlAt s c).en = true ∧ (ctrlAt s
      c).shn = false ∧ s.sys.mode.serving = true ∧ allDown (modCtrl c (fun x => { x with shn := true }) s) = true ∧ s.nvq.shutHold =
      false ∧ s.nvq.shutDue = false ∧ busy = true) ∧
    (∃ (c : Nat) (s : State), let busy := s.nvq.tags.any fun e => hostCtrl s e.2.ctrl && unplaced e.2; (ctrlAt s c).en = true ∧ (ctrlAt s
      c).shn = false ∧ s.sys.mode.serving = true ∧ allDown (modCtrl c (fun x => { x with shn := true }) s) = true ∧ s.nvq.shutHold =
      false ∧ s.nvq.shutDue = false ∧ busy = false) :=
  ⟨⟨1, 0, { online := true, vqFlex := 2, viFlex := 1 },
    { w0 with hpc := { fns := [(0, { vfEnable := true })] }, nvq := { ctrls := [(1, { online := true, vqFlex := 2, viFlex := 1 })] } },
    by decide +kernel⟩,
  ⟨0, 5, {}, { w0 with nvq := { ctrls := [(0, {})] } }, by decide +kernel⟩,
  ⟨0, linked 0 w0, by decide +kernel⟩,
  ⟨0, linked 0 w0, by decide +kernel⟩,
  ⟨2, linked 0 w0, by decide +kernel⟩,
  ⟨0, linked 0 w0, by decide +kernel⟩,
  ⟨0, linked 0 w0, by decide +kernel⟩,
  ⟨0,
    { linked 0 w0 with nvq := { (linked 0 w0).nvq with ctrls := [(0, { en := true, rdy := true })], tags := [(0, cmd 0 1 1 1 [0, 0, 0])] } },
    by decide +kernel⟩,
  ⟨0, { flash [] with nvq := { ctrls := [(0, { en := true, rdy := true })] } }, by decide +kernel⟩⟩

/-! `Obligations.DoorbellsAndContexts` -/

theorem test_met_DoorbellsAndContexts :
    (∃ (c : Nat) (qid : Nat) (v : Nat) (q : Sq) (s : State), thas s.nvq.ctrls c = true ∧ doorbellsUp s = true ∧ sqAt s (qkey c qid) =
      some q ∧ v < q.size) ∧
    (∃ (c : Nat) (qid : Nat) (v : Nat) (s : State), thas s.nvq.ctrls c = true ∧ doorbellsUp s = true ∧ (sqAt s (qkey c qid) = none ∨ ∃ q,
      sqAt s (qkey c qid) = some q ∧ q.size ≤ v)) ∧
    (∃ (c : Nat) (qid : Nat) (v : Nat) (q : Cq) (s : State), thas s.nvq.ctrls c = true ∧ doorbellsUp s = true ∧ tget s.nvq.cqs (qkey c
      qid) = some q ∧ v < q.size ∧ (v + q.size - q.head) % q.size ≤ (q.tail + q.size - q.head) % q.size) ∧
    (∃ (c : Nat) (qid : Nat) (s : State), thas s.nvq.ctrls c = true ∧ doorbellsUp s = true ∧ tget s.nvq.cqs (qkey c qid) = none) ∧
    (∃ (s : State), doorbellsUp s = false) ∧
    (∃ (s : State), doorbellsUp s = false) ∧
    (∃ (c : Nat) (qid : Nat) (q : Sq) (s : State), sqAt s (qkey c qid) = some q ∧ q.hot = false ∧ qid ≠ 0 ∧ sqActive s (qkey c qid) q =
      true ∧ hotCount s < 4096) :=
  ⟨⟨0, 1, 3, { size := 4, cqid := 1 }, linked 0 w0, by decide +kernel⟩,
  ⟨0, 1, 4, linked 0 w0, by decide +kernel⟩,
  ⟨0, 1, 2, { size := 4, head := 3, tail := 2 },
    { linked 0 w0 with nvq := { (linked 0 w0).nvq with cqs := [(1, { size := 4, head := 3, tail := 2 })] } }, by decide +kernel⟩,
  ⟨0, 2, linked 0 w0, by decide +kernel⟩,
  ⟨{ w0 with sys := {} }, by decide +kernel⟩,
  ⟨{ w0 with sys := {} }, by decide +kernel⟩,
  ⟨0, 1, { size := 4, tail := 1 }, { linked 0 w0 with nvq := { (linked 0 w0).nvq with sqs := [(1, { size := 4, tail := 1 })] } },
    by decide +kernel⟩⟩

/-! `Obligations.SubmissionFetches` -/

theorem test_met_SubmissionFetches :
    (∃ (c : Nat) (qid : Nat) (e : Entry) (q : Sq) (s : State), sqAt s (qkey c qid) = some q ∧ canFetch s c qid = true ∧ queueTurn s c qid
      q = true ∧ (qid ≠ 0 → ctrlTurn s c = true) ∧ q.head < q.size ∧ q.tail < q.size ∧ q.half = none ∧ fuseOf e = 0 ∧ keysRise s.nvq.tags
      = true ∧ s.nvq.tags.length < 65535) ∧
    (∃ (c : Nat) (qid : Nat) (e : Entry) (q : Sq) (s : State), sqAt s (qkey c qid) = some q ∧ canFetch s c qid = true ∧ queueTurn s c qid
      q = true ∧ (qid ≠ 0 → ctrlTurn s c = true) ∧ q.head < q.size ∧ q.tail < q.size ∧ q.half = none ∧ fuseOf e = 0 ∧ keysRise s.nvq.tags
      = true ∧ s.nvq.tags.length < 65535) ∧
    (∃ (c : Nat) (qid : Nat) (q : Sq) (s : State), sqAt s (qkey c qid) = some q ∧ canFetch s c qid = true ∧ queueTurn s c qid q = true ∧
      (qid ≠ 0 → ctrlTurn s c = true)) ∧
    (∃ (c : Nat) (qid : Nat) (s : State), canFetch s c qid = false) ∧
    (∃ (c : Nat) (qid : Nat) (q : Sq) (s : State), let u := modSq (qkey c qid) (fun q => { q with retry := false }) s; sqAt s (qkey c
      qid) = some q ∧ q.retry = true ∧ s.sys.mode.serving = true ∧ canFetch u c qid = true) ∧
    (∃ (c : Nat) (qid : Nat) (q : Sq) (s : State), sqAt s (qkey c qid) = some q ∧ q.retry = true ∧ s.sys.mode.serving = true) :=
  ⟨⟨0, 1, ent 0x02 1 [0, 0, 0], { size := 4, head := 3, tail := 0, cqid := 1 },
    { linked 0 w0 with nvq := { (linked 0 w0).nvq with sqs := [(1, { size := 4, head := 3, tail := 0, cqid := 1 })] } },
    by decide +kernel⟩,
  ⟨0, 1, ent 0x02 1 [0, 0, 0], { size := 4, head := 3, tail := 0, cqid := 1 },
    { linked 0 w0 with nvq := { (linked 0 w0).nvq with sqs := [(1, { size := 4, head := 3, tail := 0, cqid := 1 })] } },
    by decide +kernel⟩,
  ⟨0, 1, { size := 4, head := 3, tail := 0, cqid := 1 },
    { linked 0 w0 with nvq := { (linked 0 w0).nvq with sqs := [(1, { size := 4, head := 3, tail := 0, cqid := 1 })] } },
    by decide +kernel⟩,
  ⟨0, 1, linked 0 w0, by decide +kernel⟩,
  ⟨0, 1, { size := 4, head := 3, tail := 0, retry := true },
    { linked 0 w0 with nvq := { (linked 0 w0).nvq with sqs := [(1, { size := 4, head := 3, tail := 0, retry := true })] } },
    by decide +kernel⟩,
  ⟨0, 1, { size := 4, head := 3, tail := 0, retry := true },
    { linked 0 w0 with nvq := { (linked 0 w0).nvq with sqs := [(1, { size := 4, head := 3, tail := 0, retry := true })] } },
    by decide +kernel⟩⟩

/-! `Obligations.AdmissionAndCompletion` -/

theorem test_met_AdmissionAndCompletion :
    (∃ (k : Nat) (x : Tag) (s : State), tget s.nvq.tags k = some x ∧ x.st ≠ .post ∧ x.fused = none) ∧
    (∃ (k : Nat) (x : Tag) (s : State), ∃ j, tget s.nvq.tags k = some x ∧ x.st ≠ .post ∧ x.fused = none ∧ j ≠ k) ∧
    (∃ (k : Nat) (x : Tag) (s : State), tget s.nvq.tags k = some x ∧ x.st ≠ .post ∧ x.fused = none) ∧
    (∃ (k : Nat) (x : Tag) (s : State), tget s.nvq.tags k = some x ∧ x.st = .post) ∧
    (∃ (k : Nat) (x : Tag) (s : State), tget s.nvq.tags k = some x ∧ x.st = .adm ∧ x.fused = none ∧ s.sys.mode.serving = true ∧
      admissible s x = true ∧ waitsHalf s k x = false ∧ (fnAt s x.ctrl).atsEn = false) ∧
    (∃ (k : Nat) (x : Tag) (s : State), tget s.nvq.tags k = some x ∧ (x.st ≠ .adm ∨ admissible s x = false ∨ waitsHalf s k x = true)) ∧
    (∃ (k : Nat) (ck : Nat) (x : Tag) (q : Cq) (s : State), tget s.nvq.tags k = some x ∧ x.st = .post ∧ x.via = none ∧ cqOf s x = some ck
      ∧ tget s.nvq.cqs ck = some q ∧ (q.tail + 1) % q.size ≠ q.head ∧ s.sys.mode.serving = true ∧ meterHeld s x = false ∧ (∀ e ∈
      s.nvq.tags, e.2.st = .post → cqOf s e.2 = some ck → x.postSeq ≤ e.2.postSeq ∨ meterHeld s e.2 = true) ∧ s.nvq.tun = [] ∧
      s.nvq.shutDue = false) ∧
    (∃ (k : Nat) (ck : Nat) (x : Tag) (q : Cq) (s : State), tget s.nvq.tags k = some x ∧ x.via = none ∧ cqOf s x = some ck ∧ tget
      s.nvq.cqs ck = some q ∧ (q.tail + 1) % q.size = q.head) ∧
    (∃ (c : Nat) (a : Nat) (y : Tag) (s : State), (ctrlAt s c).en = true ∧ (ctrlAt s c).rdy = true ∧ (ctrlAt s c).aers.head? = some a ∧
      tget s.nvq.tags a = some y ∧ y.st ≠ .post ∧ s.sys.mode.serving = true ∧ (ctrlAt s c).heldWarn &&& critWarn s &&& aenConfig (ctrlAt
      s c) ≠ 0) :=
  ⟨⟨1, (tget (linked 0 w0).nvq.tags 1).getD tg0, linked 0 w0, by decide +kernel⟩,
  ⟨1, (tget (linked 0 w0).nvq.tags 1).getD tg0, linked 0 w0, 0, by decide +kernel⟩,
  ⟨1, (tget (linked 0 w0).nvq.tags 1).getD tg0, linked 0 w0, by decide +kernel⟩,
  ⟨0, (tget (flying [{ cmd 0 0 6 0 [] with st := .post }] w0).nvq.tags 0).getD tg0, flying [{ cmd 0 0 6 0 [] with st := .post }] w0,
    by decide +kernel⟩,
  ⟨0, (tget (flying [{ cmd 0 1 2 1 [] with st := .adm }] w0).nvq.tags 0).getD tg0, flying [{ cmd 0 1 2 1 [] with st := .adm }] w0,
    by decide +kernel⟩,
  ⟨0, (tget (flying [cmd 0 1 2 1 []] w0).nvq.tags 0).getD tg0, flying [cmd 0 1 2 1 []] w0, by decide +kernel⟩,
  ⟨0, 1, (tget
    ({ linked 0 w0 with nvq := { (linked 0 w0).nvq with ctrls := [(0, { en := true, rdy := true, feats := [(8, 0x0102)] })], tags := [(0, { cmd 0 1 2 1 [] with st := .post, postSeq := 4 }), (1, { cmd 0 1 2 1 [] with st := .post, postSeq := 5 })], cqs := [(1, { size := 4, head := 1, tail := 3 })] } }).nvq.tags
    0).getD tg0, { size := 4, head := 1, tail := 3 },
    { linked 0 w0 with nvq := { (linked 0 w0).nvq with ctrls := [(0, { en := true, rdy := true, feats := [(8, 0x0102)] })], tags := [(0, { cmd 0 1 2 1 [] with st := .post, postSeq := 4 }), (1, { cmd 0 1 2 1 [] with st := .post, postSeq := 5 })], cqs := [(1, { size := 4, head := 1, tail := 3 })] } },
    by decide +kernel⟩,
  ⟨0, 1, (tget
    ({ linked 0 w0 with nvq := { (linked 0 w0).nvq with tags := [(0, { cmd 0 1 2 1 [] with st := .post })], cqs := [(1, { size := 4, head := 0, tail := 3 })] } }).nvq.tags
    0).getD tg0, { size := 4, head := 0, tail := 3 },
    { linked 0 w0 with nvq := { (linked 0 w0).nvq with tags := [(0, { cmd 0 1 2 1 [] with st := .post })], cqs := [(1, { size := 4, head := 0, tail := 3 })] } },
    by decide +kernel⟩,
  ⟨0, 1, (tget
    ({ flying [cmd 0 0 6 0 [], cmd 0 0 0x0C 0 []] w0 with fte := { wp := true }, nvq := { (flying [cmd 0 0 6 0 [], cmd 0 0 0x0C 0 []] w0).nvq with ctrls := [(0, { en := true, rdy := true, aers := [1], heldWarn := 9, feats := [(11, 255)] })] } }).nvq.tags
    1).getD tg0,
    { flying [cmd 0 0 6 0 [], cmd 0 0 0x0C 0 []] w0 with fte := { wp := true }, nvq := { (flying [cmd 0 0 6 0 [], cmd 0 0 0x0C 0 []] w0).nvq with ctrls := [(0, { en := true, rdy := true, aers := [1], heldWarn := 9, feats := [(11, 255)] })] } },
    by decide +kernel⟩⟩

/-! `Obligations.IoQueueCommands` -/

theorem test_met_IoQueueCommands :
    (∃ (k : Nat) (t : Tag) (s : State), let qid := fld (cdw t.ent 10) 0 16;
      let taken := qid = 0 ∨ (queueAlloc s t.ctrl).2 < qid ∨ 16384 ≤ (ioCqs s).length ∨ thas s.nvq.cqs (qkey t.ctrl qid) = true;
      AdminRuns k 0x05 s t ∧ taken) ∧
    (∃ (k : Nat) (t : Tag) (s : State), let qid := fld (cdw t.ent 10) 0 16; let n := fld (cdw t.ent 10) 16 16 + 1;
      let mqes := (ctrlAt s t.ctrl).cap.mqes;
      let taken := qid = 0 ∨ (queueAlloc s t.ctrl).2 < qid ∨ 16384 ≤ (ioCqs s).length ∨ thas s.nvq.cqs (qkey t.ctrl qid) = true;
      AdminRuns k 0x05 s t ∧ (¬taken) ∧ (n < 2 ∨ mqes + 1 < n)) ∧
    (∃ (k : Nat) (t : Tag) (s : State), let qid := fld (cdw t.ent 10) 0 16; let n := fld (cdw t.ent 10) 16 16 + 1;
      let iv := fld (cdw t.ent 11) 16 16; let mqes := (ctrlAt s t.ctrl).cap.mqes;
      let taken := qid = 0 ∨ (queueAlloc s t.ctrl).2 < qid ∨ 16384 ≤ (ioCqs s).length ∨ thas s.nvq.cqs (qkey t.ctrl qid) = true;
      AdminRuns k 0x05 s t ∧ (¬taken) ∧ 2 ≤ n ∧ n ≤ mqes + 1 ∧ bitOf (cdw t.ent 11) 0 = true ∧ viRes s t.ctrl ≤ iv) ∧
    (∃ (k : Nat) (t : Tag) (s : State), let qid := fld (cdw t.ent 10) 0 16; let n := fld (cdw t.ent 10) 16 16 + 1;
      let iv := fld (cdw t.ent 11) 16 16; let mqes := (ctrlAt s t.ctrl).cap.mqes;
      let taken := qid = 0 ∨ (queueAlloc s t.ctrl).2 < qid ∨ 16384 ≤ (ioCqs s).length ∨ thas s.nvq.cqs (qkey t.ctrl qid) = true;
      AdminRuns k 0x05 s t ∧ (¬taken) ∧ 2 ≤ n ∧ n ≤ mqes + 1 ∧ bitOf (cdw t.ent 11) 0 = true ∧ iv < viRes s t.ctrl) ∧
    (∃ (k : Nat) (t : Tag) (s : State), let qid := fld (cdw t.ent 10) 0 16;
      let taken := qid = 0 ∨ (queueAlloc s t.ctrl).1 < qid ∨ 16384 ≤ (ioSqs s).length ∨ thas s.nvq.sqs (qkey t.ctrl qid) = true;
      AdminRuns k 0x01 s t ∧ taken) ∧
    (∃ (k : Nat) (t : Tag) (s : State), let qid := fld (cdw t.ent 10) 0 16; let n := fld (cdw t.ent 10) 16 16 + 1;
      let mqes := (ctrlAt s t.ctrl).cap.mqes;
      let taken := qid = 0 ∨ (queueAlloc s t.ctrl).1 < qid ∨ 16384 ≤ (ioSqs s).length ∨ thas s.nvq.sqs (qkey t.ctrl qid) = true;
      AdminRuns k 0x01 s t ∧ (¬taken) ∧ (n < 2 ∨ mqes + 1 < n)) ∧
    (∃ (k : Nat) (t : Tag) (s : State), let qid := fld (cdw t.ent 10) 0 16; let n := fld (cdw t.ent 10) 16 16 + 1;
      let cq := fld (cdw t.ent 11) 16 16; let mqes := (ctrlAt s t.ctrl).cap.mqes;
      let taken := qid = 0 ∨ (queueAlloc s t.ctrl).1 < qid ∨ 16384 ≤ (ioSqs s).length ∨ thas s.nvq.sqs (qkey t.ctrl qid) = true;
      AdminRuns k 0x01 s t ∧ (¬taken) ∧ 2 ≤ n ∧ n ≤ mqes + 1 ∧ bitOf (cdw t.ent 11) 0 = true ∧ (cq = 0 ∨ thas s.nvq.cqs (qkey t.ctrl cq)
      = false)) ∧
    (∃ (k : Nat) (t : Tag) (s : State), let qid := fld (cdw t.ent 10) 0 16; let n := fld (cdw t.ent 10) 16 16 + 1;
      let cq := fld (cdw t.ent 11) 16 16; let mqes := (ctrlAt s t.ctrl).cap.mqes;
      let taken := qid = 0 ∨ (queueAlloc s t.ctrl).1 < qid ∨ 16384 ≤ (ioSqs s).length ∨ thas s.nvq.sqs (qkey t.ctrl qid) = true;
      AdminRuns k 0x01 s t ∧ (¬taken) ∧ 2 ≤ n ∧ n ≤ mqes + 1 ∧ bitOf (cdw t.ent 11) 0 = true ∧ cq ≠ 0 ∧ thas s.nvq.cqs (qkey t.ctrl cq) =
      true) ∧
    (∃ (k : Nat) (t : Tag) (s : State), let qid := fld (cdw t.ent 10) 0 16; AdminRuns k 0x00 s t ∧ (qid = 0 ∨ thas s.nvq.sqs (qkey t.ctrl
      qid) = false)) ∧
    (∃ (k : Nat) (t : Tag) (s : State), let qid := fld (cdw t.ent 10) 0 16; AdminRuns k 0x00 s t ∧ qid ≠ 0 ∧ thas s.nvq.sqs (qkey t.ctrl
      qid) = true) ∧
    (∃ (k : Nat) (t : Tag) (s : State), let qid := fld (cdw t.ent 10) 0 16; AdminRuns k 0x04 s t ∧ (qid = 0 ∨ thas s.nvq.cqs (qkey t.ctrl
      qid) = false)) ∧
    (∃ (k : Nat) (t : Tag) (s : State), let qid := fld (cdw t.ent 10) 0 16;
      let used := s.nvq.sqs.any fun e => e.1 / 65536 == t.ctrl && e.2.cqid == qid; AdminRuns k 0x04 s t ∧ qid ≠ 0 ∧ thas s.nvq.cqs (qkey
      t.ctrl qid) = true ∧ used = true) ∧
    (∃ (k : Nat) (t : Tag) (s : State), let qid := fld (cdw t.ent 10) 0 16;
      let used := s.nvq.sqs.any fun e => e.1 / 65536 == t.ctrl && e.2.cqid == qid; AdminRuns k 0x04 s t ∧ qid ≠ 0 ∧ thas s.nvq.cqs (qkey
      t.ctrl qid) = true ∧ used = false) :=
  ⟨⟨0, (tget (flying [cmd 0 0 0x05 0 [0x00010041, 0x00000001]] w0).nvq.tags 0).getD tg0, flying [cmd 0 0 0x05 0 [0x00010041, 0x00000001]]
    w0, adminRuns_of (by decide +kernel), by decide +kernel⟩,
  ⟨0, (tget (flying [cmd 0 0 0x05 0 [0x00000040, 0x00000001]] w0).nvq.tags 0).getD tg0, flying [cmd 0 0 0x05 0 [0x00000040, 0x00000001]]
    w0, adminRuns_of (by decide +kernel), by decide +kernel⟩,
  ⟨0, (tget (flying [cmd 0 0 0x05 0 [0x00010040, 0x08000001]] w0).nvq.tags 0).getD tg0, flying [cmd 0 0 0x05 0 [0x00010040, 0x08000001]]
    w0, adminRuns_of (by decide +kernel), by decide +kernel⟩,
  ⟨0, (tget (flying [cmd 0 0 0x05 0 [0xFFFF0040, 0x07FF0003]] w0).nvq.tags 0).getD tg0, flying [cmd 0 0 0x05 0 [0xFFFF0040, 0x07FF0003]]
    w0, adminRuns_of (by decide +kernel), by decide +kernel⟩,
  ⟨0, (tget (flying [cmd 0 0 0x01 0 [0x00010041, 0x00000001]] w0).nvq.tags 0).getD tg0, flying [cmd 0 0 0x01 0 [0x00010041, 0x00000001]]
    w0, adminRuns_of (by decide +kernel), by decide +kernel⟩,
  ⟨0, (tget (flying [cmd 0 0 0x01 0 [0x00000040, 0x00010001]] w0).nvq.tags 0).getD tg0, flying [cmd 0 0 0x01 0 [0x00000040, 0x00010001]]
    w0, adminRuns_of (by decide +kernel), by decide +kernel⟩,
  ⟨0, (tget (flying [cmd 0 0 0x01 0 [0x00010040, 0x00020001]] w0).nvq.tags 0).getD tg0, flying [cmd 0 0 0x01 0 [0x00010040, 0x00020001]]
    w0, adminRuns_of (by decide +kernel), by decide +kernel⟩,
  ⟨0, (tget (onNvq (fun n => { n with cqs := [(1, { size := 4 })] }) (flying [cmd 0 0 0x01 0 [0x00010040, 0x00010005]] w0)).nvq.tags
    0).getD tg0, onNvq (fun n => { n with cqs := [(1, { size := 4 })] }) (flying [cmd 0 0 0x01 0 [0x00010040, 0x00010005]] w0),
    adminRuns_of (by decide +kernel), by decide +kernel⟩,
  ⟨0, (tget (flying [cmd 0 0 0x00 0 [0x00000001, 0]] w0).nvq.tags 0).getD tg0, flying [cmd 0 0 0x00 0 [0x00000001, 0]] w0, adminRuns_of
    (by decide +kernel), by decide +kernel⟩,
  ⟨0, (tget (onNvq (fun n => { n with sqs := [(1, { size := 4 })] }) (flying [cmd 0 0 0x00 0 [0x00000001, 0], cmd 0 1 2 1 []]
    w0)).nvq.tags 0).getD tg0, onNvq (fun n => { n with sqs := [(1, { size := 4 })] }) (flying [cmd 0 0 0x00 0 [0x00000001, 0], cmd 0 1 2
    1 []] w0), adminRuns_of (by decide +kernel), by decide +kernel⟩,
  ⟨0, (tget (flying [cmd 0 0 0x04 0 [0x00000001, 0]] w0).nvq.tags 0).getD tg0, flying [cmd 0 0 0x04 0 [0x00000001, 0]] w0, adminRuns_of
    (by decide +kernel), by decide +kernel⟩,
  ⟨0, (tget (onNvq (fun n => { n with cqs := [(1, { size := 4 })], sqs := [(1, { size := 4, cqid := 1 })] }) (flying [cmd 0 0 0x04 0
    [0x00000001, 0]] w0)).nvq.tags 0).getD tg0, onNvq (fun n =>
    { n with cqs := [(1, { size := 4 })], sqs := [(1, { size := 4, cqid := 1 })] }) (flying [cmd 0 0 0x04 0 [0x00000001, 0]] w0),
    adminRuns_of (by decide +kernel), by decide +kernel⟩,
  ⟨0, (tget (onNvq (fun n => { n with cqs := [(1, { size := 4 })] }) (flying [cmd 0 0 0x04 0 [0x00000001, 0]] w0)).nvq.tags 0).getD tg0,
    onNvq (fun n => { n with cqs := [(1, { size := 4 })] }) (flying [cmd 0 0 0x04 0 [0x00000001, 0]] w0), adminRuns_of
    (by decide +kernel), by decide +kernel⟩⟩

/-! `Obligations.AdminQueriesAndFeatures` -/

theorem test_met_AdminQueriesAndFeatures :
    (∃ (k : Nat) (t : Tag) (s : State), let cns := fld (cdw t.ent 10) 0 8; AdminRuns k 0x06 s t ∧ cns = 0x01) ∧
    (∃ (k : Nat) (t : Tag) (s : State), let cns := fld (cdw t.ent 10) 0 8; ∃ n, AdminRuns k 0x06 s t ∧ cns = 0x00 ∧ nsAt s (entNsid
      t.ent) = some n) ∧
    (∃ (k : Nat) (t : Tag) (s : State), let cns := fld (cdw t.ent 10) 0 8; AdminRuns k 0x06 s t ∧ cns = 0x00 ∧ nsAt s (entNsid t.ent) =
      none) ∧
    (∃ (k : Nat) (t : Tag) (s : State), let cns := fld (cdw t.ent 10) 0 8; AdminRuns k 0x06 s t ∧ cns = 0x02) ∧
    (∃ (k : Nat) (t : Tag) (s : State), let cns := fld (cdw t.ent 10) 0 8; AdminRuns k 0x06 s t ∧ cns ∉ ([0x00, 0x01, 0x02, 0x03, 0x10,
      0x11, 0x12, 0x13, 0x14, 0x15] : List Nat)) ∧
    (∃ (k : Nat) (t : Tag) (s : State),
      let hit := s.nvq.tags.find? fun e => e.2.ctrl == t.ctrl && e.2.qid == fld (cdw t.ent 10) 0 16 && cidOf e.2.ent == fld (cdw t.ent 10) 16 16 && e.2.st == .adm;
      AdminRuns k 0x08 s t ∧ (s.nvq.tags.filter fun e => e.2.ctrl == t.ctrl && e.2.qid == 0 && opc e.2.ent == 0x08 && e.2.st !=
      .post).length ≤ 16 ∧ hit = none) ∧
    (∃ (k : Nat) (t : Tag) (s : State),
      let hit := s.nvq.tags.find? fun e => e.2.ctrl == t.ctrl && e.2.qid == fld (cdw t.ent 10) 0 16 && cidOf e.2.ent == fld (cdw t.ent 10) 16 16 && e.2.st == .adm;
      ∃ j x, AdminRuns k 0x08 s t ∧ (s.nvq.tags.filter fun e => e.2.ctrl == t.ctrl && e.2.qid == 0 && opc e.2.ent == 0x08 && e.2.st !=
      .post).length ≤ 16 ∧ hit = some (j, x)) ∧
    (∃ (k : Nat) (t : Tag) (s : State), let x := ctrlAt s t.ctrl; AdminRuns k 0x0C s t ∧ k ∉ (ctrlAt s t.ctrl).aers ∧ 8 ≤ x.aers.length)
      ∧
    (∃ (k : Nat) (t : Tag) (s : State), let x := ctrlAt s t.ctrl; AdminRuns k 0x0C s t ∧ k ∉ (ctrlAt s t.ctrl).aers ∧ x.aers.length < 8 ∧
      x.events = []) ∧
    (∃ (k : Nat) (t : Tag) (s : State), let x := ctrlAt s t.ctrl; ∃ a l, AdminRuns k 0x0C s t ∧ k ∉ (ctrlAt s t.ctrl).aers ∧
      x.aers.length < 8 ∧ x.events = a :: l) ∧
    (∃ (k : Nat) (t : Tag) (s : State), let fid := fld (cdw t.ent 10) 0 8; AdminRuns k 0x09 s t ∧ (fid ∉ featIds ∨ bitOf (cdw t.ent 10)
      31 = true)) ∧
    (∃ (k : Nat) (t : Tag) (s : State), let fid := fld (cdw t.ent 10) 0 8; let w := cdw t.ent 11; AdminRuns k 0x09 s t ∧ fid = 7 ∧ bitOf
      (cdw t.ent 10) 31 = false ∧ fld w 0 16 ≠ 0xFFFF ∧ fld w 16 16 ≠ 0xFFFF) ∧
    (∃ (k : Nat) (t : Tag) (s : State), let fid := fld (cdw t.ent 10) 0 8; let w := cdw t.ent 11; AdminRuns k 0x09 s t ∧ fid = 2 ∧ bitOf
      (cdw t.ent 10) 31 = false ∧ fld w 0 5 ≤ 21 ∧ NoAer k s) ∧
    (∃ (k : Nat) (t : Tag) (s : State), let fid := fld (cdw t.ent 10) 0 8; let w := cdw t.ent 11; AdminRuns k 0x09 s t ∧ fid = 2 ∧ bitOf
      (cdw t.ent 10) 31 = false ∧ 21 < fld w 0 5) ∧
    (∃ (k : Nat) (t : Tag) (s : State), let fid := fld (cdw t.ent 10) 0 8; AdminRuns k 0x09 s t ∧ (fid = 1 ∨ fid = 8 ∨ fid = 0x0B) ∧
      bitOf (cdw t.ent 10) 31 = false) ∧
    (∃ (k : Nat) (t : Tag) (s : State), let fid := fld (cdw t.ent 10) 0 8; AdminRuns k 0x0A s t ∧ fid ∉ featIds) ∧
    (∃ (k : Nat) (t : Tag) (s : State), let fid := fld (cdw t.ent 10) 0 8; AdminRuns k 0x0A s t ∧ fid = 7) ∧
    (∃ (k : Nat) (t : Tag) (s : State), let fid := fld (cdw t.ent 10) 0 8; AdminRuns k 0x0A s t ∧ fid = 2 ∧ fld (cdw t.ent 10) 8 3 ≠ 1) ∧
    (∃ (k : Nat) (t : Tag) (s : State), let fid := fld (cdw t.ent 10) 0 8; AdminRuns k 0x0A s t ∧ (fid = 1 ∨ fid = 8 ∨ fid = 0x0B) ∧ fld
      (cdw t.ent 10) 8 3 ≠ 1) ∧
    (∃ (k : Nat) (t : Tag) (s : State), let stc := fld (cdw t.ent 10) 0 4; AdminRuns k 0x14 s t ∧ (stc = 1 ∨ stc = 2) ∧ s.pwr.selfTest =
      none) ∧
    (∃ (k : Nat) (t : Tag) (s : State), let stc := fld (cdw t.ent 10) 0 4; AdminRuns k 0x14 s t ∧ (stc = 1 ∨ stc = 2) ∧
      s.pwr.selfTest.isSome = true) ∧
    (∃ (k : Nat) (t : Tag) (s : State), let stc := fld (cdw t.ent 10) 0 4; AdminRuns k 0x14 s t ∧ stc = 0xF ∧ s.pwr.selfTest.isSome =
      true) ∧
    (∃ (s : State), s.pwr.selfTest.isSome = true ∧ s.sys.mode.serving = true) ∧
    (∃ (s : State), s.pwr.selfTest.isSome = true ∧ s.sys.mode.serving = true) :=
  ⟨⟨0, (tget (flying [{ cmd 0 0 0x06 0 [1] with ent := { ent 0x06 0 [1] with segs := [(4096, 4096)] } }] w0).nvq.tags 0).getD tg0, flying
    [{ cmd 0 0 0x06 0 [1] with ent := { ent 0x06 0 [1] with segs := [(4096, 4096)] } }] w0, adminRuns_of (by decide +kernel),
    by decide +kernel⟩,
  ⟨0, (tget ({ flying [cmd 0 0 0x06 1 [0]] w0 with fte := { nss := [(1, { live := true, size := 8, att := [0] })] } }).nvq.tags 0).getD
    tg0, { flying [cmd 0 0 0x06 1 [0]] w0 with fte := { nss := [(1, { live := true, size := 8, att := [0] })] } },
    { live := true, size := 8, att := [0] }, adminRuns_of (by decide +kernel), by decide +kernel⟩,
  ⟨0, (tget (flying [cmd 0 0 0x06 1 [0]] w0).nvq.tags 0).getD tg0, flying [cmd 0 0 0x06 1 [0]] w0, adminRuns_of (by decide +kernel),
    by decide +kernel⟩,
  ⟨0, (tget ({ flying [cmd 0 0 0x06 0 [2]] w0 with fte := { nss := [(1, { live := true, size := 8, att := [0] })] } }).nvq.tags 0).getD
    tg0, { flying [cmd 0 0 0x06 0 [2]] w0 with fte := { nss := [(1, { live := true, size := 8, att := [0] })] } }, adminRuns_of
    (by decide +kernel), by decide +kernel⟩,
  ⟨0, (tget (flying [cmd 0 0 0x06 1 [0x16]] w0).nvq.tags 0).getD tg0, flying [cmd 0 0 0x06 1 [0x16]] w0, adminRuns_of
    (by decide +kernel), by decide +kernel⟩,
  ⟨0, (tget (flying [cmd 0 0 0x08 0 [0x00050001]] w0).nvq.tags 0).getD tg0, flying [cmd 0 0 0x08 0 [0x00050001]] w0, adminRuns_of
    (by decide +kernel), by decide +kernel⟩,
  ⟨0, (tget (flying [cmd 0 0 0x08 0 [0x00050001], { ctrl := 0, qid := 1, ent := { dw := [0x00050001] }, seq := 0 }] w0).nvq.tags 0).getD
    tg0, flying [cmd 0 0 0x08 0 [0x00050001], { ctrl := 0, qid := 1, ent := { dw := [0x00050001] }, seq := 0 }] w0, 1,
    { ctrl := 0, qid := 1, ent := { dw := [0x00050001] }, seq := 0 }, adminRuns_of (by decide +kernel), by decide +kernel⟩,
  ⟨0, (tget (onNvq (fun n => { n with ctrls := [(0, { aers := upFrom 10 8 })] }) (flying [cmd 0 0 0x0C 0 []] w0)).nvq.tags 0).getD tg0,
    onNvq (fun n => { n with ctrls := [(0, { aers := upFrom 10 8 })] }) (flying [cmd 0 0 0x0C 0 []] w0), adminRuns_of
    (by decide +kernel), by decide +kernel⟩,
  ⟨0, (tget (onNvq (fun n => { n with ctrls := [(0, { aers := upFrom 10 7 })] }) (flying [cmd 0 0 0x0C 0 []] w0)).nvq.tags 0).getD tg0,
    onNvq (fun n => { n with ctrls := [(0, { aers := upFrom 10 7 })] }) (flying [cmd 0 0 0x0C 0 []] w0), adminRuns_of
    (by decide +kernel), by decide +kernel⟩,
  ⟨0, (tget (onNvq (fun n => { n with ctrls := [(0, { events := [.nsChanged, .smart] })] }) (flying [cmd 0 0 0x0C 0 []] w0)).nvq.tags
    0).getD tg0, onNvq (fun n => { n with ctrls := [(0, { events := [.nsChanged, .smart] })] }) (flying [cmd 0 0 0x0C 0 []] w0),
    .nsChanged, [.smart], adminRuns_of (by decide +kernel), by decide +kernel⟩,
  ⟨0, (tget (flying [cmd 0 0 0x09 0 [0x80000002, 0]] w0).nvq.tags 0).getD tg0, flying [cmd 0 0 0x09 0 [0x80000002, 0]] w0, adminRuns_of
    (by decide +kernel), by decide +kernel⟩,
  ⟨0, (tget (flying [cmd 0 0 0x09 0 [7, 0xFFFE0003]] w0).nvq.tags 0).getD tg0, flying [cmd 0 0 0x09 0 [7, 0xFFFE0003]] w0, adminRuns_of
    (by decide +kernel), by decide +kernel⟩,
  ⟨0, (tget (flying [cmd 0 0 0x09 0 [2, 21]] w0).nvq.tags 0).getD tg0, flying [cmd 0 0 0x09 0 [2, 21]] w0, adminRuns_of
    (by decide +kernel), by decide +kernel, by decide +kernel, by decide +kernel, noAer_of (by decide +kernel)⟩,
  ⟨0, (tget (flying [cmd 0 0 0x09 0 [2, 22]] w0).nvq.tags 0).getD tg0, flying [cmd 0 0 0x09 0 [2, 22]] w0, adminRuns_of
    (by decide +kernel), by decide +kernel⟩,
  ⟨0, (tget (flying [cmd 0 0 0x09 0 [0x0B, 0xFFFFFFFF]] w0).nvq.tags 0).getD tg0, flying [cmd 0 0 0x09 0 [0x0B, 0xFFFFFFFF]] w0,
    adminRuns_of (by decide +kernel), by decide +kernel⟩,
  ⟨0, (tget (flying [cmd 0 0 0x0A 0 [3]] w0).nvq.tags 0).getD tg0, flying [cmd 0 0 0x0A 0 [3]] w0, adminRuns_of (by decide +kernel),
    by decide +kernel⟩,
  ⟨0, (tget (flying [cmd 0 0 0x0A 0 [7]] w0).nvq.tags 0).getD tg0, flying [cmd 0 0 0x0A 0 [7]] w0, adminRuns_of (by decide +kernel),
    by decide +kernel⟩,
  ⟨0, (tget (flying [cmd 0 0 0x0A 0 [2]] w0).nvq.tags 0).getD tg0, flying [cmd 0 0 0x0A 0 [2]] w0, adminRuns_of (by decide +kernel),
    by decide +kernel⟩,
  ⟨0, (tget (flying [cmd 0 0 0x0A 0 [8]] w0).nvq.tags 0).getD tg0, flying [cmd 0 0 0x0A 0 [8]] w0, adminRuns_of (by decide +kernel),
    by decide +kernel⟩,
  ⟨0, (tget (flying [cmd 0 0 0x14 0 [2]] w0).nvq.tags 0).getD tg0, flying [cmd 0 0 0x14 0 [2]] w0, adminRuns_of (by decide +kernel),
    by decide +kernel⟩,
  ⟨0, (tget ({ flying [cmd 0 0 0x14 0 [1]] w0 with pwr := { selfTest := some (1, true) } }).nvq.tags 0).getD tg0,
    { flying [cmd 0 0 0x14 0 [1]] w0 with pwr := { selfTest := some (1, true) } }, adminRuns_of (by decide +kernel), by decide +kernel⟩,
  ⟨0, (tget ({ flying [cmd 0 0 0x14 0 [0xF]] w0 with pwr := { selfTest := some (1, true) } }).nvq.tags 0).getD tg0,
    { flying [cmd 0 0 0x14 0 [0xF]] w0 with pwr := { selfTest := some (1, true) } }, adminRuns_of (by decide +kernel),
    by decide +kernel⟩,
  ⟨{ w0 with pwr := { selfTest := some (1, true) } }, by decide +kernel⟩,
  ⟨{ w0 with pwr := { selfTest := some (1, true) } }, by decide +kernel⟩⟩

/-! `Obligations.NamespaceCommands` -/

theorem test_met_NamespaceCommands :
    (∃ (k : Nat) (fmt : Nat) (ns : Nat) (t : Tag) (s : State), let f := fmt % 16; let pi := fmt / 256 % 8;
      let bad := 7 < f ∨ 3 < pi ∨ (metaBytes f = 0 ∧ pi ≠ 0); AdminRuns k 0x0D s t ∧ fld (cdw t.ent 10) 0 4 = 0 ∧ (upFrom 1 1024).find?
      (fun i => (nsAt s i).isNone) = some ns ∧ bad) ∧
    (∃ (k : Nat) (nsze : Nat) (ncap : Nat) (fmt : Nat) (ns : Nat) (t : Tag) (s : State), let f := fmt % 16; let pi := fmt / 256 % 8;
      let bad := 7 < f ∨ 3 < pi ∨ (metaBytes f = 0 ∧ pi ≠ 0); AdminRuns k 0x0D s t ∧ fld (cdw t.ent 10) 0 4 = 0 ∧ (upFrom 1 1024).find?
      (fun i => (nsAt s i).isNone) = some ns ∧ (¬bad) ∧ (ncap ≠ nsze ∨ nsze % lbasPerIu f ≠ 0)) ∧
    (∃ (k : Nat) (nsze : Nat) (ncap : Nat) (fmt : Nat) (ns : Nat) (t : Tag) (s : State), let f := fmt % 16; let pi := fmt / 256 % 8;
      let bad := 7 < f ∨ 3 < pi ∨ (metaBytes f = 0 ∧ pi ≠ 0); AdminRuns k 0x0D s t ∧ fld (cdw t.ent 10) 0 4 = 0 ∧ (upFrom 1 1024).find?
      (fun i => (nsAt s i).isNone) = some ns ∧ (¬bad) ∧ ncap = nsze ∧ nsze % lbasPerIu f = 0 ∧ unalloc s < nsze / lbasPerIu f * iuUnits
      f) ∧
    (∃ (k : Nat) (nsze : Nat) (ncap : Nat) (fmt : Nat) (ns : Nat) (t : Tag) (s : State), let f := fmt % 16; let pi := fmt / 256 % 8;
      let bad := 7 < f ∨ 3 < pi ∨ (metaBytes f = 0 ∧ pi ≠ 0); ∃ segs, AdminRuns k 0x0D s t ∧ fld (cdw t.ent 10) 0 4 = 0 ∧ (upFrom 1
      1024).find? (fun i => (nsAt s i).isNone) = some ns ∧ (¬bad) ∧ ncap = nsze ∧ nsze % lbasPerIu f = 0 ∧ nsze / lbasPerIu f * iuUnits f
      ≤ unalloc s ∧ placeNs s (unallocD s) (iuUnits f) 0 (nsze / lbasPerIu f) = some segs ∧ NoAer k s) ∧
    (∃ (k : Nat) (t : Tag) (s : State), AdminRuns k 0x0D s t ∧ fld (cdw t.ent 10) 0 4 = 1 ∧ entNsid t.ent ≠ 0xFFFFFFFF ∧ (nsAt s (entNsid
      t.ent)).isNone = true) ∧
    (∃ (k : Nat) (t : Tag) (s : State), AdminRuns k 0x0D s t ∧ fld (cdw t.ent 10) 0 4 = 1 ∧ entNsid t.ent ≠ 0xFFFFFFFF ∧ (nsAt s (entNsid
      t.ent)).isSome = true ∧ logWaits s = true) ∧
    (∃ (k : Nat) (t : Tag) (s : State), AdminRuns k 0x0D s t ∧ fld (cdw t.ent 10) 0 4 = 1 ∧ entNsid t.ent ≠ 0xFFFFFFFF ∧ (nsAt s (entNsid
      t.ent)).isSome = true ∧ logWaits s = false ∧ NoAer k s) ∧
    (∃ (k : Nat) (cs : List Nat) (n : Ns) (t : Tag) (s : State), AdminRuns k 0x15 s t ∧ nsAt s (entNsid t.ent) = some n ∧ (∀ c ∈ cs, thas
      s.nvq.ctrls c = true) ∧ fld (cdw t.ent 10) 0 4 = 0 ∧ (∀ c ∈ cs, n.mirror = isPface s (ctrlLink s c)) ∧ (∀ c ∈ cs, c ∉ n.att) ∧
      NoAer k s) ∧
    (∃ (k : Nat) (cs : List Nat) (n : Ns) (t : Tag) (s : State), AdminRuns k 0x15 s t ∧ nsAt s (entNsid t.ent) = some n ∧ (∀ c ∈ cs, thas
      s.nvq.ctrls c = true) ∧ fld (cdw t.ent 10) 0 4 = 0 ∧ (∀ c ∈ cs, n.mirror = isPface s (ctrlLink s c)) ∧ (∃ c ∈ cs, c ∈ n.att)) ∧
    (∃ (k : Nat) (cs : List Nat) (n : Ns) (t : Tag) (s : State), AdminRuns k 0x15 s t ∧ nsAt s (entNsid t.ent) = some n ∧ (∀ c ∈ cs, thas
      s.nvq.ctrls c = true) ∧ fld (cdw t.ent 10) 0 4 = 1 ∧ (∀ c ∈ cs, c ∈ n.att) ∧ NoAer k s) ∧
    (∃ (k : Nat) (cs : List Nat) (n : Ns) (t : Tag) (s : State), AdminRuns k 0x15 s t ∧ nsAt s (entNsid t.ent) = some n ∧ (∀ c ∈ cs, thas
      s.nvq.ctrls c = true) ∧ fld (cdw t.ent 10) 0 4 = 1 ∧ (∃ c ∈ cs, c ∉ n.att)) ∧
    (∃ (k : Nat) (t : Tag) (s : State), let w := cdw t.ent 10; let c := fld w 16 16; let nr := fld (cdw t.ent 11) 0 16;
      let x := ctrlAt s c; AdminRuns k 0x1C s t ∧ fld w 0 4 = 1 ∧ c = t.ctrl ∧ isPf c = true ∧ fld w 8 3 = 0 ∧ nr ≤ 4032 ∧ nr ≤ flexLeft
      s c 0 + flexHeld 0 x) ∧
    (∃ (k : Nat) (t : Tag) (s : State), let w := cdw t.ent 10; let c := fld w 16 16; let nr := fld (cdw t.ent 11) 0 16;
      let x := ctrlAt s c; AdminRuns k 0x1C s t ∧ fld w 0 4 = 1 ∧ c = t.ctrl ∧ isPf c = true ∧ fld w 8 3 ≤ 1 ∧ isPface s (ctrlLink s c) =
      true ∧ flexHeld (fld w 8 3) x < nr) ∧
    (∃ (k : Nat) (t : Tag) (s : State), let w := cdw t.ent 10; let c := fld w 16 16; let nr := fld (cdw t.ent 11) 0 16;
      let x := ctrlAt s c; let mine := thas s.nvq.ctrls c = true ∧ portOf c = portOf t.ctrl ∧ isPf c = false; AdminRuns k 0x1C s t ∧ fld
      w 0 4 = 8 ∧ mine ∧ fld w 8 3 = 0 ∧ x.online = false ∧ nr ≤ 129 ∧ nr ≤ flexLeft s c 0 + x.vqFlex) ∧
    (∃ (k : Nat) (t : Tag) (s : State), let w := cdw t.ent 10; let c := fld w 16 16; let nr := fld (cdw t.ent 11) 0 16;
      let x := ctrlAt s c; let mine := thas s.nvq.ctrls c = true ∧ portOf c = portOf t.ctrl ∧ isPf c = false; AdminRuns k 0x1C s t ∧ fld
      w 0 4 = 8 ∧ mine ∧ fld w 8 3 = 1 ∧ x.online = false ∧ nr ≤ 64 ∧ nr ≤ flexLeft s c 1 + x.viFlex) ∧
    (∃ (k : Nat) (t : Tag) (s : State), let w := cdw t.ent 10; let c := fld w 16 16; let x := ctrlAt s c;
      let mine := thas s.nvq.ctrls c = true ∧ portOf c = portOf t.ctrl ∧ isPf c = false; AdminRuns k 0x1C s t ∧ fld w 0 4 = 8 ∧ mine ∧
      fld w 8 3 ≤ 1 ∧ x.online = true) ∧
    (∃ (k : Nat) (t : Tag) (s : State), let w := cdw t.ent 10; let c := fld w 16 16; let x := ctrlAt s c;
      let mine := thas s.nvq.ctrls c = true ∧ portOf c = portOf t.ctrl ∧ isPf c = false; AdminRuns k 0x1C s t ∧ fld w 0 4 = 9 ∧ mine ∧ 2
      ≤ x.vqFlex ∧ 1 ≤ x.viFlex ∧ (fnAt s (ctrlOf (portOf c) 0)).vfEnable = true) ∧
    (∃ (k : Nat) (t : Tag) (s : State), let w := cdw t.ent 10; let c := fld w 16 16; let mine := thas s.nvq.ctrls c = true ∧ portOf c = portOf t.ctrl ∧ isPf c = false;
      AdminRuns k 0x1C s t ∧ (fld w 0 4 = 8 ∨ fld w 0 4 = 9) ∧ (¬mine)) ∧
    (∃ (k : Nat) (n : Ns) (t : Tag) (s : State), let w := cdw t.ent 10; AdminRuns k 0x80 s t ∧ nsAt s (entNsid t.ent) = some n ∧ 2 < fld
      w 9 3) ∧
    (∃ (k : Nat) (n : Ns) (t : Tag) (s : State), let w := cdw t.ent 10;
      let bad := 7 < fld w 0 4 ∨ 3 < fld w 5 3 ∨ (metaBytes (fld w 0 4) = 0 ∧ fld w 5 3 ≠ 0); AdminRuns k 0x80 s t ∧ nsAt s (entNsid
      t.ent) = some n ∧ fld w 9 3 ≤ 2 ∧ bad) ∧
    (∃ (k : Nat) (n : Ns) (t : Tag) (s : State), let w := cdw t.ent 10;
      let bad := 7 < fld w 0 4 ∨ 3 < fld w 5 3 ∨ (metaBytes (fld w 0 4) = 0 ∧ fld w 5 3 ≠ 0); ∃ segs slot, AdminRuns k 0x80 s t ∧ nsAt s
      (entNsid t.ent) = some n ∧ fld w 9 3 ≤ 2 ∧ (¬bad) ∧ logWaits s = false ∧ reSegs s (iuUnits n.fmt) (iuUnits (fld w 0 4)) n.segs
      (unallocD s) 0 = some segs ∧ freeRng s = some slot ∧ NoAer k s) :=
  ⟨⟨0, 15, 1, (tget (flying [cmd 0 0 0x0D 0 [0]] w0).nvq.tags 0).getD tg0, flying [cmd 0 0 0x0D 0 [0]] w0, adminRuns_of
    (by decide +kernel), by decide +kernel⟩,
  ⟨0, 9, 9, 0, 1, (tget (flying [cmd 0 0 0x0D 0 [0]] w0).nvq.tags 0).getD tg0, flying [cmd 0 0 0x0D 0 [0]] w0, adminRuns_of
    (by decide +kernel), by decide +kernel⟩,
  ⟨0, 8, 8, 0, 1, (tget (flying [cmd 0 0 0x0D 0 [0]] w0).nvq.tags 0).getD tg0, flying [cmd 0 0 0x0D 0 [0]] w0, adminRuns_of
    (by decide +kernel), by decide +kernel⟩,
  ⟨0, 31744, 31744, 16, 2, (tget (ioAt [cmd 0 0 0x0D 0 [0]]).nvq.tags 0).getD tg0, ioAt [cmd 0 0 0x0D 0 [0]], [(0, 0, 3968)],
    adminRuns_of (by decide +kernel), by decide +kernel, by decide +kernel, by decide +kernel, by decide +kernel, by decide +kernel,
    by decide +kernel, by decide +kernel, noAer_of (by decide +kernel)⟩,
  ⟨0, (tget (flying [cmd 0 0 0x0D 1024 [1]] w0).nvq.tags 0).getD tg0, flying [cmd 0 0 0x0D 1024 [1]] w0, adminRuns_of
    (by decide +kernel), by decide +kernel⟩,
  ⟨0, (tget ({ ioAt [cmd 0 0 0x0D 1 [1]] with cst := { due := [{ kind := .nsdel, ns := 1 }] } }).nvq.tags 0).getD tg0,
    { ioAt [cmd 0 0 0x0D 1 [1]] with cst := { due := [{ kind := .nsdel, ns := 1 }] } }, adminRuns_of (by decide +kernel),
    by decide +kernel⟩,
  ⟨0, (tget (ioAt [cmd 0 0 0x0D 1 [1]] ns1 [rec1]).nvq.tags 0).getD tg0, ioAt [cmd 0 0 0x0D 1 [1]] ns1 [rec1], adminRuns_of
    (by decide +kernel), by decide +kernel, by decide +kernel, by decide +kernel, by decide +kernel, noAer_of (by decide +kernel)⟩,
  ⟨0, [1, 253], ns1, (tget (onNvq (fun ns1 =>
    { ns1 with ctrls := [(0, { en := true }), (1, { en := true, rdy := true, aers := [5] }), (253, {})] }) (ioAt [cmd 0 0 0x15 1
    [0]])).nvq.tags 0).getD tg0, onNvq (fun ns1 =>
    { ns1 with ctrls := [(0, { en := true }), (1, { en := true, rdy := true, aers := [5] }), (253, {})] }) (ioAt [cmd 0 0 0x15 1 [0]]),
    adminRuns_of (by decide +kernel), by decide +kernel, by decide +kernel, by decide +kernel, by decide +kernel, by decide +kernel,
    noAer_of (by decide +kernel)⟩,
  ⟨0, [0], ns1, (tget (ioAt [cmd 0 0 0x15 1 [0]]).nvq.tags 0).getD tg0, ioAt [cmd 0 0 0x15 1 [0]], adminRuns_of (by decide +kernel),
    by decide +kernel⟩,
  ⟨0, [0], ns1, (tget (ioAt [cmd 0 0 0x15 1 [1]]).nvq.tags 0).getD tg0, ioAt [cmd 0 0 0x15 1 [1]], adminRuns_of (by decide +kernel),
    by decide +kernel, by decide +kernel, by decide +kernel, by decide +kernel, noAer_of (by decide +kernel)⟩,
  ⟨0, [1], ns1, (tget (onNvq (fun ns1 => { ns1 with ctrls := [(1, {})] }) (ioAt [cmd 0 0 0x15 1 [1]])).nvq.tags 0).getD tg0, onNvq (fun
    ns1 => { ns1 with ctrls := [(1, {})] }) (ioAt [cmd 0 0 0x15 1 [1]]), adminRuns_of (by decide +kernel), by decide +kernel⟩,
  ⟨0, (tget (onNvq (fun n => { n with ctrls := [(0, { vqFlex := 5 })] }) (flying [cmd 0 0 0x1C 0 [0x00000001, 4032]] w0)).nvq.tags
    0).getD tg0, onNvq (fun n => { n with ctrls := [(0, { vqFlex := 5 })] }) (flying [cmd 0 0 0x1C 0 [0x00000001, 4032]] w0),
    adminRuns_of (by decide +kernel), by decide +kernel⟩,
  ⟨0, (tget
    ({ onNvq (fun n => { n with ctrls := [(0, {})] }) (flying [cmd 0 0 0x1C 0 [0x00000101, 1]] w0) with hpc := { pface := 1 } }).nvq.tags
    0).getD tg0,
    { onNvq (fun n => { n with ctrls := [(0, {})] }) (flying [cmd 0 0 0x1C 0 [0x00000101, 1]] w0) with hpc := { pface := 1 } },
    adminRuns_of (by decide +kernel), by decide +kernel⟩,
  ⟨0, (tget (onNvq (fun n => { n with ctrls := [(0, {}), (1, {})] }) (flying [cmd 0 0 0x1C 0 [0x00010008, 129]] w0)).nvq.tags 0).getD
    tg0, onNvq (fun n => { n with ctrls := [(0, {}), (1, {})] }) (flying [cmd 0 0 0x1C 0 [0x00010008, 129]] w0), adminRuns_of
    (by decide +kernel), by decide +kernel⟩,
  ⟨0, (tget (onNvq (fun n => { n with ctrls := [(0, {}), (1, {})] }) (flying [cmd 0 0 0x1C 0 [0x00010108, 64]] w0)).nvq.tags 0).getD tg0,
    onNvq (fun n => { n with ctrls := [(0, {}), (1, {})] }) (flying [cmd 0 0 0x1C 0 [0x00010108, 64]] w0), adminRuns_of
    (by decide +kernel), by decide +kernel⟩,
  ⟨0, (tget (onNvq (fun n => { n with ctrls := [(0, {}), (1, { online := true })] }) (flying [cmd 0 0 0x1C 0 [0x00010008, 129]]
    w0)).nvq.tags 0).getD tg0, onNvq (fun n => { n with ctrls := [(0, {}), (1, { online := true })] }) (flying [cmd 0 0 0x1C 0
    [0x00010008, 129]] w0), adminRuns_of (by decide +kernel), by decide +kernel⟩,
  ⟨0, (tget
    ({ onNvq (fun n => { n with ctrls := [(0, {}), (1, { vqFlex := 2, viFlex := 1 })] }) (flying [cmd 0 0 0x1C 0 [0x00010009, 0]] w0) with hpc := { fns := [(0, { vfEnable := true })] } }).nvq.tags
    0).getD tg0,
    { onNvq (fun n => { n with ctrls := [(0, {}), (1, { vqFlex := 2, viFlex := 1 })] }) (flying [cmd 0 0 0x1C 0 [0x00010009, 0]] w0) with hpc := { fns := [(0, { vfEnable := true })] } },
    adminRuns_of (by decide +kernel), by decide +kernel⟩,
  ⟨0, (tget (flying [cmd 0 0 0x1C 0 [0x00010009, 0]] w0).nvq.tags 0).getD tg0, flying [cmd 0 0 0x1C 0 [0x00010009, 0]] w0, adminRuns_of
    (by decide +kernel), by decide +kernel⟩,
  ⟨0, ns1, (tget (ioAt [cmd 0 0 0x80 1 [0x600]]).nvq.tags 0).getD tg0, ioAt [cmd 0 0 0x80 1 [0x600]], adminRuns_of (by decide +kernel),
    by decide +kernel⟩,
  ⟨0, ns1, (tget (ioAt [cmd 0 0 0x80 1 [0x408]]).nvq.tags 0).getD tg0, ioAt [cmd 0 0 0x80 1 [0x408]], adminRuns_of (by decide +kernel),
    by decide +kernel⟩,
  ⟨0, ns1, (tget (ioAt [cmd 0 0 0x80 1 [0x227]] ns1 [rec1]).nvq.tags 0).getD tg0, ioAt [cmd 0 0 0x80 1 [0x227]] ns1 [rec1], [(0, 0, 32)],
    0, adminRuns_of (by decide +kernel), by decide +kernel, by decide +kernel, by decide +kernel, by decide +kernel, by decide +kernel,
    by decide +kernel, noAer_of (by decide +kernel)⟩⟩

/-! `Obligations.ReadAndWritePath` -/

theorem test_met_ReadAndWritePath :
    (∃ (k : Nat) (iu : Nat) (i : Nat) (t : Tag) (n : Ns) (r : WellRec) (s : State), IoRuns k 2 s t n ∧ Unheld s t ∧ OneLbaInWell s t n iu
      i r ∧ NoAer k s ∧ (badMask s (entNsid t.ent) iu).testBit i = false) ∧
    (∃ (k : Nat) (iu : Nat) (i : Nat) (t : Tag) (n : Ns) (r : WellRec) (s : State), IoRuns k 2 s t n ∧ Unheld s t ∧ OneLbaInWell s t n iu
      i r ∧ NoAer k s ∧ (badMask s (entNsid t.ent) iu).testBit i = true) ∧
    (∃ (k : Nat) (iu : Nat) (i : Nat) (t : Tag) (n : Ns) (r : WellRec) (s : State), IoRuns k 0x0C s t n ∧ Unheld s t ∧ OneLbaInWell s t n
      iu i r ∧ NoAer k s) ∧
    (∃ (k : Nat) (iu : Nat) (i : Nat) (t : Tag) (n : Ns) (r : WellRec) (s : State), IoRuns k 5 s t n ∧ Unheld s t ∧ OneLbaInWell s t n iu
      i r ∧ NoAer k s ∧ (badMask s (entNsid t.ent) iu).testBit i = false) ∧
    (∃ (k : Nat) (iu : Nat) (i : Nat) (d : Nat) (o : Nat) (t : Tag) (x : Tag) (n : Ns) (r : WellRec) (s : State),
      let v := hostVal t.ent n (r.body.data.getD i (blankLba n.fmt)); IoRuns k 5 s t n ∧ Unheld s { t with fused := none } ∧ t.fused =
      some o ∧ o ≠ k ∧ tget s.nvq.tags o = some x ∧ x.st ≠ .post ∧ NoAer o s ∧ OneLbaInWell s t n iu i r ∧ NoAer k s ∧ (badMask s
      (entNsid t.ent) iu).testBit i = false ∧ v ≠ d) ∧
    (∃ (k : Nat) (iu : Nat) (i : Nat) (d : Nat) (o : Nat) (t : Tag) (x : Tag) (n : Ns) (r : WellRec) (s : State),
      let v := hostVal t.ent n (r.body.data.getD i (blankLba n.fmt)); IoRuns k 5 s t n ∧ Unheld s { t with fused := none } ∧ t.fused =
      some o ∧ o ≠ k ∧ tget s.nvq.tags o = some x ∧ x.st ≠ .post ∧ NoAer o s ∧ OneLbaInWell s t n iu i r ∧ NoAer k s ∧ (badMask s
      (entNsid t.ent) iu).testBit i = false ∧ v = d) ∧
    (∃ (k : Nat) (t : Tag) (n : Ns) (s : State), IoRuns k 1 s t n ∧ Unheld s t ∧ partialIus n.fmt (slba t.ent) (nlb t.ent) = [] ∧ thas
      s.dre.pairs (entNsid t.ent) = false ∧ s.fte.bad.length ≤ 4096 ∧ NoAer k s) ∧
    (∃ (k : Nat) (t : Tag) (n : Ns) (s : State), IoRuns k 1 s t n ∧ Unheld s t ∧ NoAer k s ∧ n.pi ≠ 0) ∧
    (∃ (k : Nat) (t : Tag) (n : Ns) (s : State), IoRuns k 1 s t n ∧ Unheld s t ∧ NoAer k s ∧ n.pi ≠ 0) ∧
    (∃ (k : Nat) (t : Tag) (n : Ns) (s : State), IoRuns k 1 s t n ∧ Unheld s t ∧ NoAer k s ∧ n.pi ≠ 0) ∧
    (∃ (k : Nat) (t : Tag) (n : Ns) (s : State), IoRuns k 1 s t n ∧ Unheld s t ∧ NoAer k s ∧ n.pi = 0) ∧
    (∃ (k : Nat) (t : Tag) (n : Ns) (s : State), IoRuns k 1 s t n ∧ Unheld s t ∧ NoAer k s) ∧
    (∃ (k : Nat) (t : Tag) (n : Ns) (s : State), IoRuns k 1 s t n ∧ Unheld s t ∧ NoAer k s) ∧
    (∃ (k : Nat) (t : Tag) (s : State), tget s.nvq.tags k = some t ∧ t.st = .run ∧ t.qid ≠ 0 ∧ opc t.ent = 0 ∧ s.sys.mode.serving = true
      ∧ flushHeld s t = false) ∧
    (∃ (k : Nat) (t : Tag) (s : State), tget s.nvq.tags k = some t ∧ t.st = .run ∧ t.qid ≠ 0 ∧ opc t.ent = 0 ∧ s.sys.mode.serving = true
      ∧ flushHeld s t = true) :=
  ⟨⟨0, 1, 7, (tget (ioAt [cmd 0 1 2 1 [15, 0, 0]] ns1 [rec1]).nvq.tags 0).getD tg0, ns1, rec1, ioAt [cmd 0 1 2 1 [15, 0, 0]] ns1 [rec1],
    ioRuns_of (by decide +kernel), unheld_of (by decide +kernel), oneLba_of (by decide +kernel), noAer_of (by decide +kernel),
    by decide +kernel⟩,
  ⟨0, 1, 7, (tget (onFte (fun f => { f with bad := [{ ns := 1, iu := 1, map := 128, src := 1 }] }) (ioAt [cmd 0 1 2 1 [15, 0, 0]] ns1
    [rec1])).nvq.tags 0).getD tg0, ns1, rec1, onFte (fun f => { f with bad := [{ ns := 1, iu := 1, map := 128, src := 1 }] }) (ioAt [cmd
    0 1 2 1 [15, 0, 0]] ns1 [rec1]), ioRuns_of (by decide +kernel), unheld_of (by decide +kernel), oneLba_of (by decide +kernel),
    noAer_of (by decide +kernel), by decide +kernel⟩,
  ⟨0, 1, 0, (tget (ioAt [cmd 0 1 0x0C 1 [8, 0, 0]] ns1 [rec1]).nvq.tags 0).getD tg0, ns1, rec1, ioAt [cmd 0 1 0x0C 1 [8, 0, 0]] ns1
    [rec1], ioRuns_of (by decide +kernel), unheld_of (by decide +kernel), oneLba_of (by decide +kernel), noAer_of (by decide +kernel)⟩,
  ⟨0, 1, 0, (tget (ioAt [cmd 0 1 5 1 [8, 0, 0]] ns1 [rec1]).nvq.tags 0).getD tg0, ns1, rec1, ioAt [cmd 0 1 5 1 [8, 0, 0]] ns1 [rec1],
    ioRuns_of (by decide +kernel), unheld_of (by decide +kernel), oneLba_of (by decide +kernel), noAer_of (by decide +kernel),
    by decide +kernel⟩,
  ⟨0, 1, 0, 9, 1, (tget (ioAt [{ cmd 0 1 5 1 [8, 0, 0] with fused := some 1 }, { cmd 0 1 1 1 [8, 0, 0] with fused := some 0 }] ns1
    [rec1]).nvq.tags 0).getD tg0, { cmd 0 1 1 1 [8, 0, 0] with fused := some 0 }, ns1, rec1, ioAt
    [{ cmd 0 1 5 1 [8, 0, 0] with fused := some 1 }, { cmd 0 1 1 1 [8, 0, 0] with fused := some 0 }] ns1 [rec1], ioRuns_of
    (by decide +kernel), unheld_of (by decide +kernel), by decide +kernel, by decide +kernel, by decide +kernel, by decide +kernel,
    noAer_of (by decide +kernel), oneLba_of (by decide +kernel), noAer_of (by decide +kernel), by decide +kernel⟩,
  ⟨0, 1, 0, 10, 1, (tget (ioAt [{ cmd 0 1 5 1 [8, 0, 0] with fused := some 1 }, { cmd 0 1 1 1 [8, 0, 0] with fused := some 0 }] ns1
    [rec1]).nvq.tags 0).getD tg0, { cmd 0 1 1 1 [8, 0, 0] with fused := some 0 }, ns1, rec1, ioAt
    [{ cmd 0 1 5 1 [8, 0, 0] with fused := some 1 }, { cmd 0 1 1 1 [8, 0, 0] with fused := some 0 }] ns1 [rec1], ioRuns_of
    (by decide +kernel), unheld_of (by decide +kernel), by decide +kernel, by decide +kernel, by decide +kernel, by decide +kernel,
    noAer_of (by decide +kernel), oneLba_of (by decide +kernel), noAer_of (by decide +kernel), by decide +kernel⟩,
  ⟨0, (tget (ioAt [{ cmd 0 1 1 1 [8, 0, 15] with seq := 5 }] ns1 [rec1]).nvq.tags 0).getD tg0, ns1, ioAt
    [{ cmd 0 1 1 1 [8, 0, 15] with seq := 5 }] ns1 [rec1], ioRuns_of (by decide +kernel), unheld_of (by decide +kernel),
    by decide +kernel, by decide +kernel, by decide +kernel, noAer_of (by decide +kernel)⟩,
  ⟨0, (tget (ioAt [{ cmd 0 1 1 1 [8, 0, 0] with seq := 5 }] { ns1 with pi := 1 } [rec1]).nvq.tags 0).getD tg0, { ns1 with pi := 1 }, ioAt
    [{ cmd 0 1 1 1 [8, 0, 0] with seq := 5 }] { ns1 with pi := 1 } [rec1], ioRuns_of (by decide +kernel), unheld_of (by decide +kernel),
    noAer_of (by decide +kernel), by decide +kernel⟩,
  ⟨0, (tget (ioAt [{ cmd 0 1 1 1 [8, 0, 0] with seq := 5 }] { ns1 with pi := 1 } [rec1]).nvq.tags 0).getD tg0, { ns1 with pi := 1 }, ioAt
    [{ cmd 0 1 1 1 [8, 0, 0] with seq := 5 }] { ns1 with pi := 1 } [rec1], ioRuns_of (by decide +kernel), unheld_of (by decide +kernel),
    noAer_of (by decide +kernel), by decide +kernel⟩,
  ⟨0, (tget (ioAt [{ cmd 0 1 1 1 [8, 0, 0] with seq := 5 }] { ns1 with pi := 1 } [rec1]).nvq.tags 0).getD tg0, { ns1 with pi := 1 }, ioAt
    [{ cmd 0 1 1 1 [8, 0, 0] with seq := 5 }] { ns1 with pi := 1 } [rec1], ioRuns_of (by decide +kernel), unheld_of (by decide +kernel),
    noAer_of (by decide +kernel), by decide +kernel⟩,
  ⟨0, (tget (ioAt [{ cmd 0 1 1 1 [8, 0, 0] with seq := 5 }] ns1 [rec1]).nvq.tags 0).getD tg0, ns1, ioAt
    [{ cmd 0 1 1 1 [8, 0, 0] with seq := 5 }] ns1 [rec1], ioRuns_of (by decide +kernel), unheld_of (by decide +kernel), noAer_of
    (by decide +kernel), by decide +kernel⟩,
  ⟨0, (tget (ioAt [{ cmd 0 1 1 1 [8, 0, 0] with seq := 5 }] ns1 [rec1]).nvq.tags 0).getD tg0, ns1, ioAt
    [{ cmd 0 1 1 1 [8, 0, 0] with seq := 5 }] ns1 [rec1], ioRuns_of (by decide +kernel), unheld_of (by decide +kernel), noAer_of
    (by decide +kernel)⟩,
  ⟨0, (tget (ioAt [{ cmd 0 1 1 1 [8, 0, 0] with seq := 5 }] ns1 [rec1]).nvq.tags 0).getD tg0, ns1, ioAt
    [{ cmd 0 1 1 1 [8, 0, 0] with seq := 5 }] ns1 [rec1], ioRuns_of (by decide +kernel), unheld_of (by decide +kernel), noAer_of
    (by decide +kernel)⟩,
  ⟨0, (tget (ioAt [{ cmd 0 1 0 1 [] with seq := 5 }, { cmd 0 1 1 1 [8, 0, 0] with seq := 6 }]).nvq.tags 0).getD tg0, ioAt
    [{ cmd 0 1 0 1 [] with seq := 5 }, { cmd 0 1 1 1 [8, 0, 0] with seq := 6 }], by decide +kernel⟩,
  ⟨0, (tget (ioAt [{ cmd 0 1 0 1 [] with seq := 5 }, { cmd 0 1 1 1 [8, 0, 0] with seq := 4 }]).nvq.tags 0).getD tg0, ioAt
    [{ cmd 0 1 0 1 [] with seq := 5 }, { cmd 0 1 1 1 [8, 0, 0] with seq := 4 }], by decide +kernel⟩⟩

/-! `Obligations.RangeCommands` -/

theorem test_met_RangeCommands :
    (∃ (k : Nat) (t : Tag) (n : Ns) (s : State), let w := wholeIus n.fmt (slba t.ent) (nlb t.ent); ∃ slot, IoRuns k 4 s t n ∧ Unheld s t
      ∧ NoAer k s ∧ thas s.dre.pairs (entNsid t.ent) = false ∧ partialIus n.fmt (slba t.ent) (nlb t.ent) = [] ∧ s.fte.bad.length ≤ 4096 ∧
      0 < w.2 ∧ freeRng s = some slot ∧ s.fte.rng.length < 1024 ∧ logWaits s = false ∧ shadowOnly s = false) ∧
    (∃ (k : Nat) (t : Tag) (n : Ns) (s : State), let w := wholeIus n.fmt (slba t.ent) (nlb t.ent); IoRuns k 4 s t n ∧ Unheld s t ∧ NoAer
      k s ∧ thas s.dre.pairs (entNsid t.ent) = false ∧ partialIus n.fmt (slba t.ent) (nlb t.ent) = [] ∧ s.fte.bad.length ≤ 4096 ∧ 0 < w.2
      ∧ s.fte.rng.length < 1024 ∧ logWaits s = true) ∧
    (∃ (k : Nat) (t : Tag) (n : Ns) (s : State), let w := wholeIus n.fmt (slba t.ent) (nlb t.ent); IoRuns k 4 s t n ∧ Unheld s t ∧ NoAer
      k s ∧ thas s.dre.pairs (entNsid t.ent) = false ∧ partialIus n.fmt (slba t.ent) (nlb t.ent) = [] ∧ s.fte.bad.length ≤ 4096 ∧ 0 < w.2
      ∧ s.fte.rng.length < 1024 ∧ (freeRng s).isSome = true ∧ logWaits s = false ∧ shadowOnly s = true ∧ s.cst.shadow ≤ s.cst.logSeq) ∧
    (∃ (k : Nat) (t : Tag) (n : Ns) (s : State), let w := wholeIus n.fmt (slba t.ent) (nlb t.ent); IoRuns k 4 s t n ∧ Unheld s t ∧ NoAer
      k s ∧ thas s.dre.pairs (entNsid t.ent) = false ∧ partialIus n.fmt (slba t.ent) (nlb t.ent) = [] ∧ s.fte.bad.length ≤ 4096 ∧ 0 < w.2
      ∧ 1024 ≤ s.fte.rng.length) ∧
    (∃ (k : Nat) (q : Nat) (t : Tag) (n : Ns) (s : State), IoRuns k 4 s t n ∧ t.placed = false ∧ t.mirWait = false ∧ t.recs = some q ∧
      thas s.dre.pairs (entNsid t.ent) = false ∧ NoAer k s ∧ shadowOnly s = true ∧ s.cst.shadow < q) ∧
    (∃ (k : Nat) (q : Nat) (t : Tag) (n : Ns) (s : State), IoRuns k 4 s t n ∧ t.placed = false ∧ t.mirWait = false ∧ t.recs = some q ∧
      thas s.dre.pairs (entNsid t.ent) = false ∧ NoAer k s ∧ (shadowOnly s = false ∨ q ≤ s.cst.shadow)) ∧
    (∃ (k : Nat) (t : Tag) (n : Ns) (s : State), let w := wholeIus n.fmt (slba t.ent) (nlb t.ent); ∃ slot, IoRuns k 8 s t n ∧ Unheld s t
      ∧ NoAer k s ∧ thas s.dre.pairs (entNsid t.ent) = false ∧ partialIus n.fmt (slba t.ent) (nlb t.ent) = [] ∧ s.fte.bad.length ≤ 4096 ∧
      0 < w.2 ∧ freeRng s = some slot ∧ s.fte.rng.length < 1024 ∧ logWaits s = false ∧ shadowOnly s = false) ∧
    (∃ (k : Nat) (t : Tag) (n : Ns) (s : State), let w := wholeIus n.fmt (slba t.ent) (nlb t.ent); IoRuns k 8 s t n ∧ Unheld s t ∧ NoAer
      k s ∧ thas s.dre.pairs (entNsid t.ent) = false ∧ partialIus n.fmt (slba t.ent) (nlb t.ent) = [] ∧ s.fte.bad.length ≤ 4096 ∧ 0 < w.2
      ∧ 1024 ≤ s.fte.rng.length) ∧
    (∃ (k : Nat) (t : Tag) (n : Ns) (s : State), IoRuns k 9 s t n ∧ dsmAd t.ent = false ∧ seqUp s 3 = true ∧ t.placed = false ∧ t.mirWait
      = false ∧ t.recs = none) ∧
    (∃ (k : Nat) (slot : Nat) (a : Nat) (b : Nat) (t : Tag) (n : Ns) (s : State), let w := wholeIus n.fmt a b; IoRuns k 9 s t n ∧ Unheld
      s t ∧ NoAer k s ∧ dsmAd t.ent = true ∧ t.ent.ranges = [(a, b)] ∧ thas s.dre.pairs (entNsid t.ent) = false ∧ freeRng s = some slot ∧
      logWaits s = false ∧ s.fte.rng.length < 1024 ∧ shadowOnly s = false ∧ seqUp s 3 = true ∧ 0 < w.2) :=
  ⟨⟨0, (tget (ioAt [{ cmd 0 1 4 1 [1016, 0, 7] with seq := 5 }] ns1 [rec1]).nvq.tags 0).getD tg0, ns1, ioAt
    [{ cmd 0 1 4 1 [1016, 0, 7] with seq := 5 }] ns1 [rec1], 0, ioRuns_of (by decide +kernel), unheld_of (by decide +kernel), noAer_of
    (by decide +kernel), by decide +kernel⟩,
  ⟨0, (tget ({ ioAt [{ cmd 0 1 4 1 [1016, 0, 7] with seq := 5 }] with cst := { due := [{ kind := .nsdel, ns := 1 }] } }).nvq.tags 0).getD
    tg0, ns1, { ioAt [{ cmd 0 1 4 1 [1016, 0, 7] with seq := 5 }] with cst := { due := [{ kind := .nsdel, ns := 1 }] } }, ioRuns_of
    (by decide +kernel), unheld_of (by decide +kernel), noAer_of (by decide +kernel), by decide +kernel⟩,
  ⟨0, (tget
    ({ ioAt [{ cmd 0 1 4 1 [1016, 0, 7] with seq := 5 }] with cst := { banks := [(0, { st := .failed }), (1, { st := .failed })] } }).nvq.tags
    0).getD tg0, ns1,
    { ioAt [{ cmd 0 1 4 1 [1016, 0, 7] with seq := 5 }] with cst := { banks := [(0, { st := .failed }), (1, { st := .failed })] } },
    ioRuns_of (by decide +kernel), unheld_of (by decide +kernel), noAer_of (by decide +kernel), by decide +kernel⟩,
  ⟨0, (tget (onFte (fun f =>
    { f with rng := (List.range 1024).map fun i => { slot := i, ns := 1, inst := 0, lo := 1, hi := 1, kind := .unc, ver := 1 } }) (ioAt
    [{ cmd 0 1 4 1 [1016, 0, 7] with seq := 5 }])).nvq.tags 0).getD tg0, ns1, onFte (fun f =>
    { f with rng := (List.range 1024).map fun i => { slot := i, ns := 1, inst := 0, lo := 1, hi := 1, kind := .unc, ver := 1 } }) (ioAt
    [{ cmd 0 1 4 1 [1016, 0, 7] with seq := 5 }]), ioRuns_of (by decide +kernel), unheld_of (by decide +kernel), noAer_of
    (by decide +kernel), by decide +kernel⟩,
  ⟨0, 3, (tget
    ({ ioAt [{ cmd 0 1 4 1 [1016, 0, 7] with seq := 5, recs := some 3 }] with cst := { shadow := 2, banks := [(0, { st := .failed }), (1, { st := .failed })] } }).nvq.tags
    0).getD tg0, ns1,
    { ioAt [{ cmd 0 1 4 1 [1016, 0, 7] with seq := 5, recs := some 3 }] with cst := { shadow := 2, banks := [(0, { st := .failed }), (1, { st := .failed })] } },
    ioRuns_of (by decide +kernel), by decide +kernel, by decide +kernel, by decide +kernel, by decide +kernel, noAer_of
    (by decide +kernel), by decide +kernel⟩,
  ⟨0, 3, (tget
    ({ ioAt [{ cmd 0 1 4 1 [1016, 0, 7] with seq := 5, recs := some 3 }] with cst := { shadow := 3, banks := [(0, { st := .failed }), (1, { st := .failed })] } }).nvq.tags
    0).getD tg0, ns1,
    { ioAt [{ cmd 0 1 4 1 [1016, 0, 7] with seq := 5, recs := some 3 }] with cst := { shadow := 3, banks := [(0, { st := .failed }), (1, { st := .failed })] } },
    ioRuns_of (by decide +kernel), by decide +kernel, by decide +kernel, by decide +kernel, by decide +kernel, noAer_of
    (by decide +kernel), by decide +kernel⟩,
  ⟨0, (tget (onFte (fun f => { f with rng := [{ slot := 0, ns := 1, inst := 0, lo := 1, hi := 1, kind := .unc, ver := 1 }] }) (ioAt
    [{ cmd 0 1 8 1 [8, 0, 15] with seq := 5 }] ns1 [rec1])).nvq.tags 0).getD tg0, ns1, onFte (fun f =>
    { f with rng := [{ slot := 0, ns := 1, inst := 0, lo := 1, hi := 1, kind := .unc, ver := 1 }] }) (ioAt
    [{ cmd 0 1 8 1 [8, 0, 15] with seq := 5 }] ns1 [rec1]), 1, ioRuns_of (by decide +kernel), unheld_of (by decide +kernel), noAer_of
    (by decide +kernel), by decide +kernel⟩,
  ⟨0, (tget (onFte (fun f =>
    { f with rng := (List.range 1024).map fun i => { slot := i, ns := 1, inst := 0, lo := 1, hi := 1, kind := .unc, ver := 1 } }) (ioAt
    [{ cmd 0 1 8 1 [8, 0, 7] with seq := 5 }])).nvq.tags 0).getD tg0, ns1, onFte (fun f =>
    { f with rng := (List.range 1024).map fun i => { slot := i, ns := 1, inst := 0, lo := 1, hi := 1, kind := .unc, ver := 1 } }) (ioAt
    [{ cmd 0 1 8 1 [8, 0, 7] with seq := 5 }]), ioRuns_of (by decide +kernel), unheld_of (by decide +kernel), noAer_of
    (by decide +kernel), by decide +kernel⟩,
  ⟨0, (tget (ioAt [cmd 0 1 9 1 [0, 3, 0]]).nvq.tags 0).getD tg0, ns1, ioAt [cmd 0 1 9 1 [0, 3, 0]], ioRuns_of (by decide +kernel),
    by decide +kernel⟩,
  ⟨0, 0, 4, 24, (tget (ioAt [{ cmd 0 1 9 1 [0, 4, 0] with seq := 5, ent := { ent 9 1 [0, 4, 0] with ranges := [(4, 24)] } }] ns1
    [rec1]).nvq.tags 0).getD tg0, ns1, ioAt
    [{ cmd 0 1 9 1 [0, 4, 0] with seq := 5, ent := { ent 9 1 [0, 4, 0] with ranges := [(4, 24)] } }] ns1 [rec1], ioRuns_of
    (by decide +kernel), unheld_of (by decide +kernel), noAer_of (by decide +kernel), by decide +kernel⟩⟩

/-! `Obligations.Tenants` -/

theorem test_met_Tenants :
    (∃ (s : State), s.sys.mode.serving = true) ∧
    (∃ (s : State), (s.sys.mode = .standpipe ∨ s.sys.mode = .dormant)) ∧
    (∃ (k : Nat) (j : Nat) (x : Tag) (n : Ns) (s : State), let b := blockBytes n.fmt; let m : Int := (b * bwUnit : Nat); tget s.nvq.tags
      k = some x ∧ x.tenant = some j ∧ nsAt s (entNsid x.ent) = some n ∧ x.qid ≠ 0 ∧ (opc x.ent = 1 ∨ opc x.ent = 2 ∨ opc x.ent = 5) ∧
      (x.st = .run ∨ x.st = .suspended) ∧ x.dma.st.waiting = false ∧ gated s x = true ∧ x.moved + x.reserved + b ≤ dataBytes s x.ent ∧ m
      ≤ (tntAt s j).mBwMax) ∧
    (∃ (k : Nat) (j : Nat) (x : Tag) (n : Ns) (s : State), let b := blockBytes n.fmt; let m : Int := (b * bwUnit : Nat); tget s.nvq.tags
      k = some x ∧ x.tenant = some j ∧ nsAt s (entNsid x.ent) = some n ∧ x.qid ≠ 0 ∧ (opc x.ent = 1 ∨ opc x.ent = 2 ∨ opc x.ent = 5) ∧
      (x.st = .run ∨ x.st = .suspended) ∧ x.dma.st.waiting = false ∧ gated s x = true ∧ x.moved + x.reserved + b ≤ dataBytes s x.ent ∧
      (tntAt s j).mBwMax < m) ∧
    (∃ (x : Trace) (s : State), s.qos.trace = some x ∧ x.start + 1000 * x.bins ≤ s.pwr.tb) ∧
    (∃ (src : Nat) (s : State) (r : CamReq), Accepted src 0x0D00 s r) ∧
    (∃ (src : Nat) (s : State) (r : CamReq), let u := taken src s; ∃ x, Accepted src 0x0D01 s r ∧ tenantCheck u r = some x) ∧
    (∃ (src : Nat) (s : State) (r : CamReq), let u := taken src s; Accepted src 0x0D01 s r ∧ tenantCheck u r = none) ∧
    (∃ (src : Nat) (s : State) (r : CamReq), Accepted src 0x0D02 s r) ∧
    (∃ (src : Nat) (s : State) (r : CamReq), let k := rqTgt r; ∃ c, Accepted src 0x0D03 s r ∧ k ≤ 1023 ∧ rqW r 2 = BitVec.ofNat 32 c ∧ c
      < 2048 ∧ thas s.nvq.ctrls c = true) ∧
    (∃ (src : Nat) (s : State) (r : CamReq), let k := rqTgt r; ∃ c, Accepted src 0x0D03 s r ∧ k = 0xFFFF ∧ rqW r 2 = BitVec.ofNat 32 c ∧
      c < 2048 ∧ thas s.nvq.ctrls c = true) ∧
    (∃ (src : Nat) (s : State) (r : CamReq), let k := rqTgt r; ∃ c, Accepted src 0x0D03 s r ∧ k ≤ 1023 ∧ rqW r 2 = BitVec.ofNat 32 c ∧ c
      < 2048 ∧ thas s.nvq.ctrls c = false) ∧
    (∃ (src : Nat) (s : State) (r : CamReq), ∃ h, Accepted src 0x0D04 s r ∧ bytesOk r 4 = none ∧ s.qos.trace = none ∧ pickHandle s = some
      h) :=
  ⟨⟨{ w0 with qos := { tnts := [(5, { en := true, bwMax := 100, bwMin := 10, ioMax := 9, ioMin := 3 })] }, pwr := { tbSt := .sync, tb := 2 ^ 64 - 64 } },
    by decide +kernel⟩,
  ⟨{ w0 with sys := { mode := .dormant } }, by decide +kernel⟩,
  ⟨0, 1023, (tget
    ({ ioAt [{ cmd 0 1 1 1 [8, 0, 127] with tenant := some 1023 }] with regs := [(regA .qosCfg, 1)], qos := { tnts := [(1023, { en := true, bwMax := 100, mBwMax := 65536 * bwUnit })] } }).nvq.tags
    0).getD tg0, ns1,
    { ioAt [{ cmd 0 1 1 1 [8, 0, 127] with tenant := some 1023 }] with regs := [(regA .qosCfg, 1)], qos := { tnts := [(1023, { en := true, bwMax := 100, mBwMax := 65536 * bwUnit })] } },
    by decide +kernel⟩,
  ⟨0, 1023, (tget
    ({ ioAt [{ cmd 0 1 1 1 [8, 0, 127] with tenant := some 1023 }] with regs := [(regA .qosCfg, 1)], qos := { tnts := [(1023, { en := true, bwMax := 100, mBwMax := 0 })] } }).nvq.tags
    0).getD tg0, ns1,
    { ioAt [{ cmd 0 1 1 1 [8, 0, 127] with tenant := some 1023 }] with regs := [(regA .qosCfg, 1)], qos := { tnts := [(1023, { en := true, bwMax := 100, mBwMax := 0 })] } },
    by decide +kernel⟩,
  ⟨{ tenant := 1, handle := 3, first := 0, count := 1, bins := 2, start := 1000 },
    { w0 with cam := { ops := [(3, { opcode := 0x0D04 })] }, qos := { trace := some { tenant := 1, handle := 3, first := 0, count := 1, bins := 2, start := 1000 } }, pwr := { tb := 3000 } },
    by decide +kernel⟩,
  ⟨0, ask 0 0x0D00 0xFFFF [] w0, qreq (ask 0 0x0D00 0xFFFF [] w0) 0, accepted_of (by decide +kernel)⟩,
  ⟨0, ask 0 0x0D01 1023 [0x00010002, 0, 0x80000001, 0] w0, qreq (ask 0 0x0D01 1023 [0x00010002, 0, 0x80000001, 0] w0) 0, (tenantCheck
    (taken 0 (ask 0 0x0D01 1023 [0x00010002, 0, 0x80000001, 0] w0)) (qreq (ask 0 0x0D01 1023 [0x00010002, 0, 0x80000001, 0] w0) 0)).getD
    (0, []), accepted_of (by decide +kernel), by decide +kernel⟩,
  ⟨0, ask 0 0x0D01 1023 [0x00020001, 0, 0x800000FF, 0] { w0 with prof := { capTable := [(32, 9, 9)] } }, qreq (ask 0 0x0D01 1023
    [0x00020001, 0, 0x800000FF, 0] { w0 with prof := { capTable := [(32, 9, 9)] } }) 0, accepted_of (by decide +kernel),
    by decide +kernel⟩,
  ⟨8, ask 8 0x0D02 1023 [] w0, qreq (ask 8 0x0D02 1023 [] w0) 8, accepted_of (by decide +kernel)⟩,
  ⟨0, ask 0 0x0D03 1023 [1011, 0] (onNvq (fun n => { n with ctrls := [(1011, {})] }) w0), qreq (ask 0 0x0D03 1023 [1011, 0] (onNvq (fun n
    => { n with ctrls := [(1011, {})] }) w0)) 0, 1011, accepted_of (by decide +kernel), by decide +kernel⟩,
  ⟨0, ask 0 0x0D03 0xFFFF [0, 0] { onNvq (fun n => { n with ctrls := [(0, {})] }) w0 with qos := { bindC := [(0, 7)] } }, qreq (ask 0
    0x0D03 0xFFFF [0, 0] { onNvq (fun n => { n with ctrls := [(0, {})] }) w0 with qos := { bindC := [(0, 7)] } }) 0, 0, accepted_of
    (by decide +kernel), by decide +kernel⟩,
  ⟨0, ask 0 0x0D03 0 [1012, 0] w0, qreq (ask 0 0x0D03 0 [1012, 0] w0) 0, 1012, accepted_of (by decide +kernel), by decide +kernel⟩,
  ⟨0, ask 0 0x0D04 1023 [0x00003F00, 4] { w0 with cam := { flags := [(16128, 0x80000000)] }, pwr := { tb := 1999 } } 0x04000000, qreq
    (ask 0 0x0D04 1023 [0x00003F00, 4] { w0 with cam := { flags := [(16128, 0x80000000)] }, pwr := { tb := 1999 } } 0x04000000) 0, 0,
    accepted_of (by decide +kernel), by decide +kernel⟩⟩

/-! `Obligations.TranslationAndFaults` -/

theorem test_met_TranslationAndFaults :
    (∃ (req : Nat) (k : Nat) (pages : Nat) (r : Bool) (w : Bool) (q : XReq) (x : Tag) (s : State), tget s.xlt.reqs req = some q ∧ q.wait
      = false ∧ q.tag.isSome = true ∧ q.stale = false ∧ s.sys.mode.serving = true ∧ tget s.nvq.tags k = some x ∧ k ∈ reqTags s q ∧ (if
      faultW x then w else r) = true ∧ x.dma.page < q.page + min pages (2 ^ 18) ∧ q.page ≤ x.dma.page) ∧
    (∃ (req : Nat) (k : Nat) (q : XReq) (x : Tag) (s : State), tget s.xlt.reqs req = some q ∧ q.wait = false ∧ q.tag.isSome = true ∧
      q.stale = false ∧ s.sys.mode.serving = true ∧ tget s.nvq.tags k = some x ∧ reqTags s q = [k] ∧ x.st = .suspended ∧ req <
      s.xlt.nextReq ∧ (fnAt s x.ctrl).priEn = true ∧ (fnAt s x.ctrl).priStopped = false ∧ x.dma.prgSent = false ∧ NoAer k s) ∧
    (∃ (req : Nat) (k : Nat) (q : XReq) (x : Tag) (s : State), tget s.xlt.reqs req = some q ∧ q.wait = false ∧ q.tag.isSome = true ∧
      q.stale = false ∧ s.sys.mode.serving = true ∧ tget s.nvq.tags k = some x ∧ reqTags s q = [k] ∧ x.st = .suspended ∧ req <
      s.xlt.nextReq ∧ (fnAt s x.ctrl).priEn = false ∧ Alone k s) ∧
    (∃ (req : Nat) (k : Nat) (q : XReq) (x : Tag) (s : State), tget s.xlt.reqs req = some q ∧ q.wait = false ∧ q.tag.isSome = true ∧
      q.stale = false ∧ s.sys.mode.serving = true ∧ tget s.nvq.tags k = some x ∧ reqTags s q = [k] ∧ x.st = .suspended ∧ req <
      s.xlt.nextReq ∧ q.again = false) ∧
    (∃ (req : Nat) (k : Nat) (q : XReq) (x : Tag) (s : State), tget s.xlt.reqs req = some q ∧ q.wait = false ∧ q.tag.isSome = true ∧
      q.stale = false ∧ s.sys.mode.serving = true ∧ tget s.nvq.tags k = some x ∧ reqTags s q = [k] ∧ x.st = .suspended ∧ req <
      s.xlt.nextReq ∧ q.again = true ∧ Alone k s) ∧
    (∃ (req : Nat) (q : XReq) (s : State), tget s.xlt.reqs req = some q ∧ q.wait = false ∧ q.tag.isSome = true ∧ q.stale = true ∧
      s.sys.mode.serving = true) ∧
    (∃ (req : Nat) (q : XReq) (s : State), tget s.xlt.reqs req = some q ∧ q.wait = true ∧ q.tag.isSome = true ∧ reqRoom s (ctrlLink s
      q.ctrl) = true ∧ s.sys.mode.serving = true) ∧
    (∃ (k : Nat) (x : Tag) (s : State),
      let asked := s.xlt.prgs.find? fun g => g.ctrl == x.ctrl && g.w == faultW x && g.pages.contains x.dma.page; ∃ g, tget s.nvq.tags k =
      some x ∧ x.dma.st = .pgQueued ∧ s.sys.mode.serving = true ∧ NoAer k s ∧ asked = some g) ∧
    (∃ (k : Nat) (x : Tag) (s : State),
      let asked := s.xlt.prgs.find? fun g => g.ctrl == x.ctrl && g.w == faultW x && g.pages.contains x.dma.page; ∃ i, tget s.nvq.tags k =
      some x ∧ x.dma.st = .pgQueued ∧ s.sys.mode.serving = true ∧ NoAer k s ∧ asked = none ∧ freePrg s x.ctrl = some i ∧ fnRoom s x =
      true ∧ linkRoom s x = true ∧ firstTag s (fun y => y.dma.st == .pgQueued && ctrlLink s y.ctrl == ctrlLink s x.ctrl && (y.ctrl ==
      x.ctrl || fnRoom s y)) = some k) ∧
    (∃ (k : Nat) (ctrl : Nat) (prg : Nat) (x : Tag) (s : State), tget s.nvq.tags k = some x ∧ k ∈ prgTags s ctrl prg ∧ x.st = .suspended
      ∧ s.sys.mode.serving = true ∧ (s.xlt.prgs.any fun g => g.ctrl == ctrl && g.idx == prg) = true ∧ Alone k s) ∧
    (∃ (k : Nat) (ctrl : Nat) (prg : Nat) (x : Tag) (s : State), tget s.nvq.tags k = some x ∧ k ∈ prgTags s ctrl prg ∧ x.st = .suspended
      ∧ s.sys.mode.serving = true ∧ (s.xlt.prgs.any fun g => g.ctrl == ctrl && g.idx == prg) = true ∧ Alone k s) ∧
    (∃ (k : Nat) (ctrl : Nat) (prg : Nat) (x : Tag) (s : State), tget s.nvq.tags k = some x ∧ k ∈ prgTags s ctrl prg ∧ x.st = .suspended
      ∧ s.sys.mode.serving = true ∧ (s.xlt.prgs.any fun g => g.ctrl == ctrl && g.idx == prg) = true ∧ Alone k s) ∧
    (∃ (k : Nat) (ctrl : Nat) (prg : Nat) (x : Tag) (s : State), tget s.nvq.tags k = some x ∧ k ∈ prgTags s ctrl prg ∧ x.st = .suspended
      ∧ s.sys.mode.serving = true ∧ (s.xlt.prgs.any fun g => g.ctrl == ctrl && g.idx == prg) = true ∧ Alone k s ∧ rfld s .xltCfg 24 8 ≠
      0) ∧
    (∃ (s : State), rfld s .xltCfg 24 8 = 0) ∧
    (∃ (ctrl : Nat) (prg : Nat) (s : State), (s.xlt.prgs.any fun g => g.ctrl == ctrl && g.idx == prg) = false) ∧
    (∃ (ns : Nat) (page : Nat) (s : State), (ns, page) ∈ s.xlt.reads ∧ s.sys.mode.serving = true ∧ seqUp s 2 = true ∧ pageReadDone s ns
      page = true) ∧
    (∃ (ns : Nat) (page : Nat) (s : State), (ns, page) ∈ s.xlt.reads ∧ s.sys.mode.serving = true ∧ seqUp s 2 = true ∧ pageReadDone s ns
      page = true) ∧
    (∃ (k : Nat) (x : Tag) (s : State), tget s.nvq.tags k = some x ∧ s.sys.mode.serving = true ∧ x.lkp.st = .resume) ∧
    (∃ (k : Nat) (x : Tag) (s : State), tget s.nvq.tags k = some x ∧ s.sys.mode.serving = true ∧ x.dma.st = .resume) ∧
    (∃ (i : Nat) (e : EngCtx) (s : State), tget s.xlt.eng i = some e ∧ e.st = .resume ∧ s.sys.mode.serving = true ∧ s.xlt.engWait = []) ∧
    (∃ (ns : Nat) (iu : Nat) (step : Nat) (idx : Nat) (i : Nat) (frees : Bool) (s : State),
      let e : EngCtx := { ns, iu, step, idx, frees }; s.sys.mode.serving = true ∧ engHas s e = false ∧ (List.range 1024).find? (fun i =>
      !thas s.xlt.eng i) = some i ∧ pageCached s ns (iu / iusPerPage) = true) ∧
    (∃ (ns : Nat) (iu : Nat) (step : Nat) (idx : Nat) (i : Nat) (frees : Bool) (s : State),
      let e : EngCtx := { ns, iu, step, idx, frees }; s.sys.mode.serving = true ∧ engHas s e = false ∧ (List.range 1024).find? (fun i =>
      !thas s.xlt.eng i) = some i ∧ pageCached s ns (iu / iusPerPage) = false ∧ (tget s.fte.dir (pageKey ns (iu / iusPerPage))).isSome =
      true) ∧
    (∃ (ns : Nat) (iu : Nat) (step : Nat) (idx : Nat) (frees : Bool) (s : State), let e : EngCtx := { ns, iu, step, idx, frees };
      s.sys.mode.serving = true ∧ engHas s e = false ∧ (∀ i, i < 1024 → thas s.xlt.eng i = true)) ∧
    (∃ (src : Nat) (s : State) (r : CamReq), Accepted src 0x0380 s r) ∧
    (∃ (src : Nat) (s : State) (r : CamReq), Accepted src 0x0381 s r ∧ bytesOk r 16 = none) ∧
    (∃ (src : Nat) (s : State) (r : CamReq), Accepted src 0x0382 s r ∧ linkOf s (rqTgt r) = rqTgt r ∧ rqW r 2 = 0x80000000) ∧
    (∃ (src : Nat) (s : State) (r : CamReq), Accepted src 0x0382 s r ∧ linkOf s (rqTgt r) ≠ rqTgt r) :=
  ⟨⟨4, 0, 2 ^ 20, false, true, { tag := some 0, ctrl := 0, page := 1, pages := 1 }, (tget
    ({ flying [waiting { st := .txWait, page := 1 }] w0 with xlt := { reqs := [(4, { tag := some 0, ctrl := 0, page := 1, pages := 1 })], nextReq := 5 }, hpc := { fns := [(0, { atsEn := true })] } }).nvq.tags
    0).getD tg0,
    { flying [waiting { st := .txWait, page := 1 }] w0 with xlt := { reqs := [(4, { tag := some 0, ctrl := 0, page := 1, pages := 1 })], nextReq := 5 }, hpc := { fns := [(0, { atsEn := true })] } },
    by decide +kernel⟩,
  ⟨4, 0, { tag := some 0, ctrl := 0, page := 1, pages := 1 }, (tget
    ({ flying [waiting { st := .txWait, page := 1 }] w0 with xlt := { reqs := [(4, { tag := some 0, ctrl := 0, page := 1, pages := 1 })], nextReq := 5 }, hpc := { fns := [(0, { atsEn := true, priEn := true })] } }).nvq.tags
    0).getD tg0,
    { flying [waiting { st := .txWait, page := 1 }] w0 with xlt := { reqs := [(4, { tag := some 0, ctrl := 0, page := 1, pages := 1 })], nextReq := 5 }, hpc := { fns := [(0, { atsEn := true, priEn := true })] } },
    by decide +kernel, by decide +kernel, by decide +kernel, by decide +kernel, by decide +kernel, by decide +kernel, by decide +kernel,
    by decide +kernel, by decide +kernel, by decide +kernel, by decide +kernel, by decide +kernel, noAer_of (by decide +kernel)⟩,
  ⟨4, 0, { tag := some 0, ctrl := 0, page := 1, pages := 1 }, (tget
    ({ flying [waiting { st := .txWait, page := 1 }] w0 with xlt := { reqs := [(4, { tag := some 0, ctrl := 0, page := 1, pages := 1 })], nextReq := 5 } }).nvq.tags
    0).getD tg0,
    { flying [waiting { st := .txWait, page := 1 }] w0 with xlt := { reqs := [(4, { tag := some 0, ctrl := 0, page := 1, pages := 1 })], nextReq := 5 } },
    by decide +kernel, by decide +kernel, by decide +kernel, by decide +kernel, by decide +kernel, by decide +kernel, by decide +kernel,
    by decide +kernel, by decide +kernel, by decide +kernel, alone_of (by decide +kernel)⟩,
  ⟨4, 0, { tag := some 0, ctrl := 0, page := 1, pages := 1 }, (tget
    ({ flying [waiting { st := .txWait, page := 1 }] w0 with xlt := { reqs := [(4, { tag := some 0, ctrl := 0, page := 1, pages := 1 })], nextReq := 5 } }).nvq.tags
    0).getD tg0,
    { flying [waiting { st := .txWait, page := 1 }] w0 with xlt := { reqs := [(4, { tag := some 0, ctrl := 0, page := 1, pages := 1 })], nextReq := 5 } },
    by decide +kernel⟩,
  ⟨4, 0, { tag := some 0, ctrl := 0, page := 1, pages := 1, again := true }, (tget
    ({ flying [waiting { st := .txWait, page := 1 }] w0 with xlt := { reqs := [(4, { tag := some 0, ctrl := 0, page := 1, pages := 1, again := true })], nextReq := 5 } }).nvq.tags
    0).getD tg0,
    { flying [waiting { st := .txWait, page := 1 }] w0 with xlt := { reqs := [(4, { tag := some 0, ctrl := 0, page := 1, pages := 1, again := true })], nextReq := 5 } },
    by decide +kernel, by decide +kernel, by decide +kernel, by decide +kernel, by decide +kernel, by decide +kernel, by decide +kernel,
    by decide +kernel, by decide +kernel, by decide +kernel, alone_of (by decide +kernel)⟩,
  ⟨4, { tag := some 0, ctrl := 0, page := 1, pages := 1, stale := true },
    { flying [waiting { st := .txWait, page := 1 }] w0 with xlt := { reqs := [(4, { tag := some 0, ctrl := 0, page := 1, pages := 1, stale := true })], nextReq := 5 } },
    by decide +kernel⟩,
  ⟨4, { tag := some 0, ctrl := 0, page := 1, pages := 1, wait := true },
    { flying [waiting { st := .txWait, page := 1 }] w0 with xlt := { reqs := [(4, { tag := some 0, ctrl := 0, page := 1, pages := 1, wait := true })], nextReq := 5 } },
    by decide +kernel⟩,
  ⟨0, (tget
    ({ flying [waiting { st := .pgQueued, page := 1 }] w0 with xlt := { prgs := [{ ctrl := 0, idx := 511, pages := [0, 1], w := true }] } }).nvq.tags
    0).getD tg0,
    { flying [waiting { st := .pgQueued, page := 1 }] w0 with xlt := { prgs := [{ ctrl := 0, idx := 511, pages := [0, 1], w := true }] } },
    { ctrl := 0, idx := 511, pages := [0, 1], w := true }, by decide +kernel, by decide +kernel, by decide +kernel, noAer_of
    (by decide +kernel), by decide +kernel⟩,
  ⟨0, (tget
    ({ flying [{ waiting { st := .pgQueued, page := 1 } with ent := { ent 2 1 [0, 0, 0] with segs := [(4096, 8192)] } }] w0 with hpc := { fns := [(0, { priAlloc := 2 })] } }).nvq.tags
    0).getD tg0,
    { flying [{ waiting { st := .pgQueued, page := 1 } with ent := { ent 2 1 [0, 0, 0] with segs := [(4096, 8192)] } }] w0 with hpc := { fns := [(0, { priAlloc := 2 })] } },
    0, by decide +kernel, by decide +kernel, by decide +kernel, noAer_of (by decide +kernel), by decide +kernel⟩,
  ⟨0, 0, 511, (tget
    ({ flying [waiting { st := .pgWait, page := 1, prg := 511 }] w0 with xlt := { prgs := [{ ctrl := 0, idx := 511, pages := [1], w := true }] }, regs := [(regA .xltCfg, 0x80800080)] }).nvq.tags
    0).getD tg0,
    { flying [waiting { st := .pgWait, page := 1, prg := 511 }] w0 with xlt := { prgs := [{ ctrl := 0, idx := 511, pages := [1], w := true }] }, regs := [(regA .xltCfg, 0x80800080)] },
    by decide +kernel, by decide +kernel, by decide +kernel, by decide +kernel, by decide +kernel, alone_of (by decide +kernel)⟩,
  ⟨0, 0, 511, (tget
    ({ flying [waiting { st := .pgWait, page := 1, prg := 511 }] w0 with xlt := { prgs := [{ ctrl := 0, idx := 511, pages := [1], w := true }] }, regs := [(regA .xltCfg, 0x80800080)] }).nvq.tags
    0).getD tg0,
    { flying [waiting { st := .pgWait, page := 1, prg := 511 }] w0 with xlt := { prgs := [{ ctrl := 0, idx := 511, pages := [1], w := true }] }, regs := [(regA .xltCfg, 0x80800080)] },
    by decide +kernel, by decide +kernel, by decide +kernel, by decide +kernel, by decide +kernel, alone_of (by decide +kernel)⟩,
  ⟨0, 0, 511, (tget
    ({ flying [waiting { st := .pgWait, page := 1, prg := 511 }] w0 with xlt := { prgs := [{ ctrl := 0, idx := 511, pages := [1], w := true }] }, regs := [(regA .xltCfg, 0x80800080)] }).nvq.tags
    0).getD tg0,
    { flying [waiting { st := .pgWait, page := 1, prg := 511 }] w0 with xlt := { prgs := [{ ctrl := 0, idx := 511, pages := [1], w := true }] }, regs := [(regA .xltCfg, 0x80800080)] },
    by decide +kernel, by decide +kernel, by decide +kernel, by decide +kernel, by decide +kernel, alone_of (by decide +kernel)⟩,
  ⟨0, 0, 511, (tget
    ({ flying [waiting { st := .pgWait, page := 1, prg := 511 }] w0 with xlt := { prgs := [{ ctrl := 0, idx := 511, pages := [1], w := true }] }, regs := [(regA .xltCfg, 0x80800080)] }).nvq.tags
    0).getD tg0,
    { flying [waiting { st := .pgWait, page := 1, prg := 511 }] w0 with xlt := { prgs := [{ ctrl := 0, idx := 511, pages := [1], w := true }] }, regs := [(regA .xltCfg, 0x80800080)] },
    by decide +kernel, by decide +kernel, by decide +kernel, by decide +kernel, by decide +kernel, alone_of (by decide +kernel),
    by decide +kernel⟩,
  ⟨{ flying [waiting { st := .pgWait, page := 1, prg := 511 }] w0 with regs := [(regA .xltCfg, 0x00800080)] }, by decide +kernel⟩,
  ⟨0, 0, flying [waiting { st := .pgWait, page := 1, prg := 511 }] w0, by decide +kernel⟩,
  ⟨1, 0,
    { ioAt [{ cmd 0 1 2 1 [8, 0, 0] with st := .suspended, lkp := { st := .mpWait, page := pageKey 1 0 } }] with xlt := { reads := [(1, 0)], eng := [(3, { ns := 1, iu := 0, st := .mpWait })] }, drm := { size := 8 } },
    by decide +kernel⟩,
  ⟨1, 0,
    { ioAt [{ cmd 0 1 2 1 [8, 0, 0] with st := .suspended, lkp := { st := .mpWait, page := pageKey 1 0 } }] with xlt := { reads := [(1, 0)], eng := [(3, { ns := 1, iu := 0, st := .mpWait })] }, drm := { size := 8 } },
    by decide +kernel⟩,
  ⟨0, (tget (flying [{ cmd 0 1 2 1 [8, 0, 0] with st := .suspended, lkp := { st := .resume } }] w0).nvq.tags 0).getD tg0, flying
    [{ cmd 0 1 2 1 [8, 0, 0] with st := .suspended, lkp := { st := .resume } }] w0, by decide +kernel⟩,
  ⟨0, (tget (flying [waiting { st := .resume, page := 1 }] w0).nvq.tags 0).getD tg0, flying [waiting { st := .resume, page := 1 }] w0,
    by decide +kernel⟩,
  ⟨1023, { ns := 1, iu := 0, st := .resume }, { w0 with xlt := { eng := [(1023, { ns := 1, iu := 0, st := .resume })] } },
    by decide +kernel⟩,
  ⟨1, 895, 0, 0, 0, false, { w0 with fte := { cached := [pageKey 1 0] } }, by decide +kernel⟩,
  ⟨1, 896, 0, 0, 0, false, { w0 with fte := { dir := [(pageKey 1 1, 5)] } }, by decide +kernel⟩,
  ⟨0, 0, 0, 0, false, engFull 1024, by decide +kernel, by decide +kernel, engFull_has 1024⟩,
  ⟨0, ask 0 0x0380 0xFFFF [] w0, qreq (ask 0 0x0380 0xFFFF [] w0) 0, accepted_of (by decide +kernel)⟩,
  ⟨8, ask 8 0x0381 0xFFFF [0x00003F00, 32]
    { flying [waiting { st := .pgWait, page := 1 }] w0 with cam := { flags := [(16128, 0x80000000)] } } 0x04000000, qreq (ask 8 0x0381
    0xFFFF [0x00003F00, 32] { flying [waiting { st := .pgWait, page := 1 }] w0 with cam := { flags := [(16128, 0x80000000)] } }
    0x04000000) 8, accepted_of (by decide +kernel), by decide +kernel⟩,
  ⟨0, ask 0 0x0382 0 [0x80000000, 0] (linked 0 w0), qreq (ask 0 0x0382 0 [0x80000000, 0] (linked 0 w0)) 0, accepted_of
    (by decide +kernel), by decide +kernel⟩,
  ⟨0, ask 0 0x0382 3 [0x80000000, 0] { w0 with hpc := { merge := 2 } }, qreq (ask 0 0x0382 3 [0x80000000, 0]
    { w0 with hpc := { merge := 2 } }) 0, accepted_of (by decide +kernel), by decide +kernel⟩⟩

/-! `Obligations.FlashTranslation` -/

theorem test_met_FlashTranslation :
    (∃ (die : Nat) (block : Nat) (step : Nat) (o : Dop) (s : State), let st := (blkAt s die block).stream; progEntry s die block step
      .done = some o ∧ lastOf s.prof st step = false) ∧
    (∃ (die : Nat) (block : Nat) (step : Nat) (o : Dop) (s : State), let st := (blkAt s die block).stream; progEntry s die block step
      .done = some o ∧ lastOf s.prof st step = true) ∧
    (∃ (die : Nat) (block : Nat) (step : Nat) (s : State), progEntry s die block step .done = none) ∧
    (∃ (die : Nat) (block : Nat) (step : Nat) (bad : List Nat) (x : Stripe) (s : State) (u : State), (progEntry s die block step
      .done).isSome = true ∧ exec (.pagePassed die block step bad false) s = .next u ∧ stripeAt u (dieDom die) (blkAt s die block).stripe
      = some x ∧ x.st = .opened ∧ x.accs ≠ [] ∧ u.sys.mode ≠ .dormant) ∧
    (∃ (die : Nat) (block : Nat) (step : Nat) (o : Dop) (s : State), progEntry s die block step .array = some o) ∧
    (∃ (ns : Nat) (page : Nat) (i : Nat) (s : State), let e : EngCtx := { ns, iu := iusPerPage * page }; foldDue s = true ∧
      s.sys.mode.serving = true ∧ seqUp s 2 = true ∧ foldPage s = some (ns, page) ∧ folding s ns page = false ∧ engHas s e = false ∧
      (List.range 1024).find? (fun i => !thas s.xlt.eng i) = some i ∧ (pageCached s ns page = true ∨ tget s.fte.dir (pageKey ns page) =
      none)) ∧
    (∃ (ns : Nat) (page : Nat) (i : Nat) (s : State), let e : EngCtx := { ns, iu := iusPerPage * page }; foldDue s = true ∧
      s.sys.mode.serving = true ∧ seqUp s 2 = true ∧ foldPage s = some (ns, page) ∧ folding s ns page = false ∧ engHas s e = false ∧
      (List.range 1024).find? (fun i => !thas s.xlt.eng i) = some i ∧ pageCached s ns page = false ∧ (tget s.fte.dir (pageKey ns
      page)).isSome = true) ∧
    (∃ (ns : Nat) (page : Nat) (s : State), foldDue s = true ∧ s.sys.mode.serving = true ∧ seqUp s 2 = true ∧ foldPage s = some (ns,
      page) ∧ folding s ns page = true) ∧
    (∃ (g : Nat) (s : State), foldDue s = true ∧ s.sys.mode ≠ .holdup ∧ seqUp s 8 = true ∧ (s.cst.log.map (·.seg)).min? = some g ∧ g <
      s.cst.wr / 1024 ∧ (s.cst.log.filter fun d => d.seg == g).length < 128 ∧ logFull s = false) ∧
    (∃ (slot : Nat) (r : RangeRec) (s : State), s.sys.mode ≠ .holdup ∧ r ∈ s.fte.rng ∧ r.slot = slot ∧ r.folded = false) ∧
    (∃ (k : Nat) (x : Tag) (s : State), tget s.nvq.tags k = some x ∧ x.st = .adm ∧ x.qid ≠ 0 ∧ writeLike x.ent = true ∧ x.granted = false
      ∧ s.sys.mode.serving = true ∧ seqUp s 3 = true ∧ (s.fte.wp = false ∨ s.sys.mode = .factory) ∧ (∀ d, d < 4 → grantNeed s x.ent d = 0
      ∨ (grantAhead s x d = false ∧ grantNeed s x.ent d + granted s d ≤ hostLeft s d + hostMay s d))) ∧
    (∃ (k : Nat) (x : Tag) (s : State), tget s.nvq.tags k = some x ∧ x.st = .adm ∧ x.qid ≠ 0 ∧ writeLike x.ent = true ∧ x.granted = false
      ∧ s.sys.mode.serving = true ∧ seqUp s 3 = true ∧ s.fte.wp = true ∧ s.sys.mode ≠ .factory) ∧
    (∃ (dom : Nat) (n : Nat) (v : Stripe) (s : State), dom < 4 ∧ seqUp s 3 = true ∧ gcMay (gcLevels s) dom = true ∧ pickVictim (gcLevels
      s) dom = some n ∧ stripeAt (gcLevels s) dom n = some v) ∧
    (∃ (dom : Nat) (n : Nat) (v : Victim) (x : Stripe) (s : State), s.fte.victims.find? (fun v => v.dom == dom && v.stripe == n) = some v
      ∧ stripeAt s dom n = some x ∧ (v.st = .selected ∨ v.st = .scan ∨ v.st = .copy) ∧ gcMay s dom = true ∧ logDurable s = true ∧ seqUp s
      3 = true) ∧
    (∃ (dom : Nat) (n : Nat) (v : Victim) (x : Stripe) (s : State), s.fte.victims.find? (fun v => v.dom == dom && v.stripe == n) = some v
      ∧ stripeAt s dom n = some x ∧ (v.st = .copy ∨ v.st = .drain ∨ v.st = .scan) ∧ drained s (victimPart s x) = true ∧ s.sys.mode ≠
      .holdup ∧ sanOpen s = false ∧ seqUp s 3 = true) ∧
    (∃ (die : Nat) (block : Nat) (o : Dop) (s : State), eraseEntry s die block .done = some o ∧ s.fte.wait = [] ∧ sanOpen s = false ∧
      s.cst.wr % 1024 ≠ 1023) ∧
    (∃ (die : Nat) (block : Nat) (o : Dop) (s : State), eraseEntry s die block .array = some o ∧ sanOpen s = false) ∧
    (∃ (src : Nat) (s : State) (r : CamReq), Accepted src 0x0300 s r) ∧
    (∃ (src : Nat) (s : State) (r : CamReq), let d := rqTgt r; Accepted src 0x0301 s r ∧ domSt s d ≠ .offline) ∧
    (∃ (src : Nat) (s : State) (r : CamReq), let d := rqTgt r; Accepted src 0x0301 s r ∧ domSt s d = .offline) ∧
    (∃ (src : Nat) (s : State) (r : CamReq), let d := rqTgt r; ∃ b, Accepted src 0x0302 s r ∧ (dieAt s d).present = true ∧ b = fld (rqW r
      2) 0 16 ∧ b < s.prof.blocksPerDie) ∧
    (∃ (src : Nat) (s : State) (r : CamReq), let d := rqTgt r; ∃ n, Accepted src 0x0303 s r ∧ nsAt s d = some n) ∧
    (∃ (src : Nat) (s : State) (r : CamReq), let d := rqTgt r; Accepted src 0x0303 s r ∧ nsAt s d = none) ∧
    (∃ (src : Nat) (s : State) (r : CamReq), let d := rqTgt r; ∃ m, Accepted src 0x0304 s r ∧ m < 2 ∧ rqW r 2 = BitVec.ofNat 32 m ∧ domSt
      s d ≠ .offline ∧ (gcAt s d).op = none) ∧
    (∃ (src : Nat) (s : State) (r : CamReq), let d := rqTgt r; ∃ h n, Accepted src 0x0304 s r ∧ rqW r 2 = pack [(8, 16, n), (0, 2, 2)] ∧
      n < 65536 ∧ domSt s d ≠ .offline ∧ (gcAt s d).op = none ∧ freeBlks s d false < n * (domDies s d).length ∧ pickHandle s = some h) ∧
    (∃ (src : Nat) (s : State) (r : CamReq), let d := rqTgt r; ∃ h, Accepted src 0x0305 s r ∧ bytesOk r 16 = none ∧ (nsAt s d).isSome =
      true ∧ pickHandle s = some h) ∧
    (∃ (src : Nat) (s : State) (r : CamReq), let d := rqTgt r; Accepted src 0x0305 s r ∧ bytesOk r 16 = none ∧ (nsAt s d).isNone = true) :=
  ⟨⟨0, 2, 0, (progEntry ({ flash [dop .program .done] with prof := { small with seq := [0, 1, 0, 1] } }) 0 2 0 .done).getD
    { id := 0, kind := .read }, { flash [dop .program .done] with prof := { small with seq := [0, 1, 0, 1] } }, by decide +kernel⟩,
  ⟨0, 2, 0, (progEntry (let s0 := flash [dop .program .done];
    { s0 with fte := { s0.fte with idx := [rec1], prog := [(16, { kind := .host, ns := 1, iu := 1, body := rec1.body })] } }) 0 2 0
    .done).getD { id := 0, kind := .read }, (let s0 := flash [dop .program .done];
    { s0 with fte := { s0.fte with idx := [rec1], prog := [(16, { kind := .host, ns := 1, iu := 1, body := rec1.body })] } }),
    by decide +kernel⟩,
  ⟨0, 2, 1, flash [dop .program .done], by decide +kernel⟩,
  ⟨0, 2, 0, [], { stream := 0, members := [(0, 2), (1, 2), (2, 2)], ppos := 2, accs := [{ step := 0, members := [0] }], fill := 1 },
    flash [dop .program .done] { st := .opened, bst := .opened }
    { stream := 0, members := [(0, 2), (1, 2), (2, 2)], ppos := 2, accs := [{ step := 0, members := [0] }], fill := 1 }, passPage 0 2 0
    [] (flash [dop .program .done] { st := .opened, bst := .opened }
    { stream := 0, members := [(0, 2), (1, 2), (2, 2)], ppos := 2, accs := [{ step := 0, members := [0] }], fill := 1 }),
    by decide +kernel, rfl, by decide +kernel⟩,
  ⟨0, 2, 0, (progEntry (flash [dop .program .array]) 0 2 0 .array).getD { id := 0, kind := .read }, flash [dop .program .array],
    by decide +kernel⟩,
  ⟨1, 0, 0, { flash [] with regs := [(regA .fteCfg, 0)], cst := { log := [{ kind := .map, ns := 1, key := 5 }], logSeq := 1, wr := 1 } },
    by decide +kernel⟩,
  ⟨1, 0, 0,
    { flash [] with regs := [(regA .fteCfg, 0)], fte := { dir := [(pageKey 1 0, 5)] }, cst := { log := [{ kind := .map, ns := 1, key := 5 }], logSeq := 1, wr := 1 } },
    by decide +kernel⟩,
  ⟨1, 0, (let s0 := flash [];
    { s0 with regs := [(regA .fteCfg, 0)], cst := { log := [{ kind := .map, ns := 1, key := 5 }], logSeq := 1, wr := 1 }, fte := { s0.fte with prog := [(16, { kind := .mapPage 0 1, ns := 1, body := { data := [] } })] } }),
    by decide +kernel⟩,
  ⟨0,
    { flash [] with regs := [(regA .fteCfg, 0)], cst := { log := [{ kind := .map, ns := 1, key := 5 }, { kind := .block, key := 7, seq := 1024, seg := 1 }], logSeq := 1025, wr := 1025 } },
    by decide +kernel⟩,
  ⟨1023, { slot := 1023, ns := 1, inst := 0, lo := 0, hi := 9, kind := .zero, ver := 1 }, (let s0 := flash [];
    { s0 with fte := { s0.fte with rng := [{ slot := 1023, ns := 1, inst := 0, lo := 0, hi := 9, kind := .zero, ver := 1 }] } }),
    by decide +kernel⟩,
  ⟨0, (tget (let s0 := flash []; { s0 with nvq := { s0.nvq with tags := [(0, { cmd 0 1 1 1 [8, 0, 7] with st := .adm })] } }).nvq.tags
    0).getD tg0, (let s0 := flash []; { s0 with nvq := { s0.nvq with tags := [(0, { cmd 0 1 1 1 [8, 0, 7] with st := .adm })] } }),
    by decide +kernel⟩,
  ⟨0, (tget (let s0 := flash [];
    { s0 with nvq := { s0.nvq with tags := [(0, { cmd 0 1 1 1 [8, 0, 7] with st := .adm })] }, fte := { s0.fte with wp := true } }).nvq.tags
    0).getD tg0, (let s0 := flash [];
    { s0 with nvq := { s0.nvq with tags := [(0, { cmd 0 1 1 1 [8, 0, 7] with st := .adm })] }, fte := { s0.fte with wp := true } }),
    by decide +kernel⟩,
  ⟨0, 0, { stream := 0, members := [(0, 2), (1, 2), (2, 2)], ppos := 2, st := .closed },
    (let s0 := flash [] { st := .closed, bst := .full } { stream := 0, members := [(0, 2), (1, 2), (2, 2)], ppos := 2, st := .closed };
    { s0 with fte := { s0.fte with first := [(0, 0)] } }), by decide +kernel⟩,
  ⟨0, 0, { dom := 0, stripe := 0 }, { stream := 0, members := [(0, 2), (1, 2), (2, 2)], ppos := 2, st := .closed },
    (let s0 := flash [] { st := .victim, bst := .full } { stream := 0, members := [(0, 2), (1, 2), (2, 2)], ppos := 2, st := .closed };
    { s0 with fte := { s0.fte with victims := [{ dom := 0, stripe := 0 }], map := [(iuKey 1 1, 16)], nand := [(16, { ns := 1, inst := 0, iu := 1, body := rec1.body })] } }),
    by decide +kernel⟩,
  ⟨0, 0, { dom := 0, stripe := 0, st := .drain }, { stream := 0, members := [(0, 2), (1, 2), (2, 2)], ppos := 2, st := .closed },
    (let s0 := flash [] { st := .victim, bst := .full } { stream := 0, members := [(0, 2), (1, 2), (2, 2)], ppos := 2, st := .closed };
    { s0 with fte := { s0.fte with victims := [{ dom := 0, stripe := 0, st := .drain }] } }), by decide +kernel⟩,
  ⟨0, 2, (eraseEntry (let s0 := flash [dop .erase .done] { st := .doubt, bst := .doubt, next := 2 };
    { s0 with cst := { doubt := [(0, 2, 1)], wr := 1022 }, fte := { s0.fte with nand := [(16, { ns := 1, inst := 0, iu := 1, body := rec1.body })] } })
    0 2 .done).getD { id := 0, kind := .read }, (let s0 := flash [dop .erase .done] { st := .doubt, bst := .doubt, next := 2 };
    { s0 with cst := { doubt := [(0, 2, 1)], wr := 1022 }, fte := { s0.fte with nand := [(16, { ns := 1, inst := 0, iu := 1, body := rec1.body })] } }),
    by decide +kernel⟩,
  ⟨0, 2, (eraseEntry (flash [dop .erase .array] { st := .doubt, bst := .doubt, next := 2 }) 0 2 .array).getD { id := 0, kind := .read },
    flash [dop .erase .array] { st := .doubt, bst := .doubt, next := 2 }, by decide +kernel⟩,
  ⟨0, ask 0 0x0300 0xFFFF [] w0, qreq (ask 0 0x0300 0xFFFF [] w0) 0, accepted_of (by decide +kernel)⟩,
  ⟨8, ask 8 0x0301 3 [] w0, qreq (ask 8 0x0301 3 [] w0) 8, accepted_of (by decide +kernel), by decide +kernel⟩,
  ⟨0, ask 0 0x0301 3 [] { w0 with dre := { doms := [(3, { st := .offline })] } }, qreq (ask 0 0x0301 3 []
    { w0 with dre := { doms := [(3, { st := .offline })] } }) 0, accepted_of (by decide +kernel), by decide +kernel⟩,
  ⟨0, ask 0 0x0302 0 [2] (flash []), qreq (ask 0 0x0302 0 [2] (flash [])) 0, 2, accepted_of (by decide +kernel), by decide +kernel⟩,
  ⟨0, ask 0 0x0303 1 [] (flash []), qreq (ask 0 0x0303 1 [] (flash [])) 0, ns1, accepted_of (by decide +kernel), by decide +kernel⟩,
  ⟨0, ask 0 0x0303 2 [] (flash []), qreq (ask 0 0x0303 2 [] (flash [])) 0, accepted_of (by decide +kernel), by decide +kernel⟩,
  ⟨0, ask 0 0x0304 3 [1] w0, qreq (ask 0 0x0304 3 [1] w0) 0, 1, accepted_of (by decide +kernel), by decide +kernel⟩,
  ⟨0, ask 0 0x0304 0 [pack [(8, 16, 65535), (0, 2, 2)]] (flash []), qreq (ask 0 0x0304 0 [pack [(8, 16, 65535), (0, 2, 2)]] (flash []))
    0, 0, 65535, accepted_of (by decide +kernel), by decide +kernel⟩,
  ⟨0, ask 0 0x0305 1 [0x00003F00, 32] { flash [] with cam := { flags := [(16128, 0x80000000)] } } 0x04000000, qreq (ask 0 0x0305 1
    [0x00003F00, 32] { flash [] with cam := { flags := [(16128, 0x80000000)] } } 0x04000000) 0, 0, accepted_of (by decide +kernel),
    by decide +kernel⟩,
  ⟨0, ask 0 0x0305 2 [0x00003F00, 32] { flash [] with cam := { flags := [(16128, 0x80000000)] } } 0x04000000, qreq (ask 0 0x0305 2
    [0x00003F00, 32] { flash [] with cam := { flags := [(16128, 0x80000000)] } } 0x04000000) 0, accepted_of (by decide +kernel),
    by decide +kernel⟩⟩

/-! `Obligations.FlashChannels` -/

theorem test_met_FlashChannels_1 :
    (∃ (die : Nat) (o : Dop) (s : State), let v := markLate (drainQ die s) die (fun o => o.st == .queued); (dieAt v die).present = true ∧
      (dieAt v die).failed = false ∧ s.sys.mode.serving = true ∧ zk540 s = false ∧ arrayFree v (dieAt v die) = true ∧ chooseOp v (dieAt v
      die) = some o ∧ orderOk v die o = true ∧ (o.kind = .read ∨ o.kind = .program ∨ o.kind = .erase)) ∧
    (∃ (die : Nat) (o : Dop) (s : State), let v := markLate (drainQ die s) die (fun o => o.st == .queued); (dieAt v die).present = true ∧
      (dieAt v die).failed = false ∧ s.sys.mode.serving = true ∧ zk540 s = false ∧ arrayFree v (dieAt v die) = true ∧ chooseOp v (dieAt v
      die) = some o ∧ orderOk v die o = true ∧ (o.kind = .feature ∨ o.kind = .reset)) ∧
    (∃ (die : Nat) (o : Dop) (s : State), let v := markLate (drainQ die s) die (fun o => o.st == .queued); (dieAt v die).present = true ∧
      (dieAt v die).failed = false ∧ s.sys.mode.serving = true ∧ zk540 s = false ∧ arrayFree v (dieAt v die) = true ∧ chooseOp v (dieAt v
      die) = some o ∧ orderOk v die o = false) ∧
    (∃ (die : Nat) (op : Nat) (r : TokReq) (o : Dop) (s : State), s.sys.mode.serving = true ∧ zk540 s = false ∧ (s.pwr.reqs ++
      s.pwr.bgReqs).head? = some r ∧ r.die = die ∧ r.op = op ∧ busFree s die = true ∧ (dieAt s die).queue.find? (fun o => o.id == op) =
      some o ∧ r.cost ≤ s.pwr.pool - s.pwr.held ∧ (o.kind = .program → progFits s (dieAt s die) o = true)) ∧
    (∃ (die : Nat) (op : Nat) (r : TokReq) (o : Dop) (s : State), s.sys.mode.serving = true ∧ zk540 s = false ∧ (s.pwr.reqs ++
      s.pwr.bgReqs).head? = some r ∧ r.die = die ∧ r.op = op ∧ busFree s die = true ∧ (dieAt s die).queue.find? (fun o => o.id == op) =
      some o ∧ r.cost ≤ s.pwr.pool - s.pwr.held ∧ o.kind = .program ∧ progFits s (dieAt s die) o = false) ∧
    (∃ (die : Nat) (op : Nat) (r : TokReq) (o : Dop) (s : State), s.sys.mode.serving = true ∧ zk540 s = false ∧ (s.pwr.reqs ++
      s.pwr.bgReqs).head? = some r ∧ r.die = die ∧ r.op = op ∧ busFree s die = true ∧ (dieAt s die).queue.find? (fun o => o.id == op) =
      some o ∧ (¬ r.cost ≤ s.pwr.pool - s.pwr.held)) ∧
    (∃ (die : Nat) (o : Dop) (s : State), s.sys.mode.serving = true ∧ zk540 s = true ∧ zkChoice s = some (die, o) ∧ o ∈ (dieAt s
      die).queue ∧ busFree s die = true ∧ orderOk s die o = true ∧ (o.kind = .program → progFits s (dieAt s die) o = true)) ∧
    (∃ (die : Nat) (o : Dop) (s : State), s.sys.mode.serving = true ∧ zk540 s = true ∧ zkChoice s = some (die, o) ∧ o ∈ (dieAt s
      die).queue ∧ busFree s die = true ∧ orderOk s die o = false) ∧
    (∃ (die : Nat) (s : State), busFree s die = false) ∧
    (∃ (s : State), zk540 s = true) ∧
    (∃ (s : State), zk540 s = false) ∧
    (∃ (die : Nat) (o : Dop) (s : State), (dieAt s die).present = true ∧ (dieAt s die).failed = false ∧ chanHeld s (chanOf die) = false ∧
      (dieAt s die).resetting = false ∧ inArray (dieAt s die) = some o ∧ o.kind = .read) ∧
    (∃ (die : Nat) (o : Dop) (s : State), (dieAt s die).present = true ∧ (dieAt s die).failed = false ∧ chanHeld s (chanOf die) = false ∧
      (dieAt s die).resetting = false ∧ inArray (dieAt s die) = some o ∧ o.kind = .program) ∧
    (∃ (die : Nat) (o : Dop) (s : State), (dieAt s die).present = true ∧ (dieAt s die).failed = false ∧ chanHeld s (chanOf die) = false ∧
      (dieAt s die).resetting = false ∧ inArray (dieAt s die) = some o ∧ o.kind = .erase) ∧
    (∃ (die : Nat) (s : State), (dieAt s die).present = true ∧ (dieAt s die).failed = false ∧ chanHeld s (chanOf die) = false ∧ (dieAt s
      die).resetting = true) ∧
    (∃ (ch : Nat) (die : Nat) (o : Dop) (s : State), s.sys.mode.serving = true ∧ chanHeld s ch = false ∧ oldestBus s ch = some (die, o) ∧
      (∀ x ∈ (dieAt s die).wait, x.id ≠ o.id)) ∧
    (∃ (die : Nat) (o : Dop) (s : State), s.sys.mode.serving = true ∧ (dieAt s die).present = true ∧ (dieAt s die).failed = false ∧
      chanHeld s (chanOf die) = false ∧ inArray (dieAt s die) = some o) ∧
    (∃ (die : Nat) (s : State), (dieAt s die).resetting = true ∧ (dieAt s die).failed = false ∧ s.sys.mode.serving = true) ∧
    (∃ (die : Nat) (s : State), (dieAt s die).resetting = false) ∧
    (∃ (die : Nat) (o : Dop) (s : State), s.sys.mode.serving = true ∧ inArray (dieAt s die) = some o ∧ o.kind = .erase ∧ readWaits (dieAt
      s die) = true ∧ o.susp < suspMax s ∧ o.dueSusp = false ∧ ersSeg s ≤ s.pwr.tb - o.arrT) ∧
    (∃ (die : Nat) (o : Dop) (s : State), s.sys.mode.serving = true ∧ inArray (dieAt s die) = some o ∧ o.kind = .erase ∧ readWaits (dieAt
      s die) = true ∧ o.susp < suspMax s ∧ s.pwr.tb - o.arrT < ersSeg s) ∧
    (∃ (die : Nat) (o : Dop) (s : State), s.sys.mode.serving = true ∧ inArray (dieAt s die) = some o ∧ o.kind = .erase ∧ readWaits (dieAt
      s die) = true ∧ 0 < suspMax s ∧ suspMax s ≤ o.susp ∧ o.dueSusp = false) ∧
    (∃ (die : Nat) (o : Dop) (s : State), s.sys.mode.serving = true ∧ inArray (dieAt s die) = some o ∧ o.kind = .erase ∧ readWaits (dieAt
      s die) = true ∧ suspMax s = 0) ∧
    (∃ (die : Nat) (o : Dop) (s : State), inArray (dieAt s die) = some o ∧ o.kind = .erase ∧ o.dueSusp = true ∧ o.susp < suspMax s) ∧
    (∃ (die : Nat) (o : Dop) (s : State), inArray (dieAt s die) = some o ∧ o.kind = .erase ∧ o.dueSusp = false) ∧
    (∃ (die : Nat) (o : Dop) (s : State), s.sys.mode.serving = true ∧ suspOf (dieAt s die) = some o ∧ inArray (dieAt s die) = none ∧ (∀ x
      ∈ (dieAt s die).queue, x.st ≠ .tokenWait) ∧ ((∀ x ∈ (dieAt s die).queue, x.st = .queued → isRead x.kind = false ∧ x.kind ≠
      .program) ∨ o.suspT + esusMax s ≤ s.pwr.tb)) ∧
    (∃ (die : Nat) (o : Dop) (s : State), s.sys.mode.serving = true ∧ suspOf (dieAt s die) = some o ∧ inArray (dieAt s die) = none ∧ (∀ x
      ∈ (dieAt s die).queue, x.st ≠ .tokenWait) ∧ readWaits (dieAt s die) = true ∧ s.pwr.tb < o.suspT + esusMax s) ∧
    (∃ (die : Nat) (op : Nat) (w : Nat) (k : Nat) (o : Dop) (s : State), s.sys.mode.serving = true ∧ (dieAt s die).queue.find? (fun o =>
      o.id == op && o.kind == .read && o.st == .queued) = some o ∧ o.use = .host k ∧ expectedWait s die = some w ∧ rfld s .fchCfg 12 8 ≠
      0 ∧ w ≤ rfld s .fchCfg 12 8 * 10) ∧
    (∃ (die : Nat) (op : Nat) (w : Nat) (k : Nat) (o : Dop) (s : State), s.sys.mode.serving = true ∧ (dieAt s die).queue.find? (fun o =>
      o.id == op && o.kind == .read && o.st == .queued) = some o ∧ o.use = .host k ∧ expectedWait s die = some w ∧ rfld s .fchCfg 12 8 ≠
      0 ∧ rfld s .fchCfg 12 8 * 10 < w ∧ (∀ x, inArray (dieAt s die) = some x → x.kind ≠ .erase) ∧ (∀ c ∈ o.cws, aroundOk s c = true)) ∧
    (∃ (die : Nat) (op : Nat) (w : Nat) (k : Nat) (o : Dop) (s : State), s.sys.mode.serving = true ∧ (dieAt s die).queue.find? (fun o =>
      o.id == op && o.kind == .read && o.st == .queued) = some o ∧ o.use = .host k ∧ expectedWait s die = some w ∧ rfld s .fchCfg 12 8 ≠
      0 ∧ rfld s .fchCfg 12 8 * 10 < w ∧ (∀ x, inArray (dieAt s die) = some x → x.kind ≠ .erase) ∧ (∃ c ∈ o.cws, aroundOk s c = false)) :=
  ⟨⟨0, { dop .program .queued with planes := 4 }, flash [{ dop .program .queued with planes := 4 }], by decide +kernel⟩,
  ⟨0, { dop .feature .queued with passed := 0 }, flash [dop .feature .queued], by decide +kernel⟩,
  ⟨0, { dop .program .queued with step := 1 }, flash [{ dop .program .queued with step := 1 }], by decide +kernel⟩,
  ⟨0, 5, (((let s0 := flash [{ dop .program .tokenWait with planes := 4 }];
    { s0 with pwr := { reqs := [{ die := 0, op := 5, cost := 12 }], pool := 12 } }).pwr.reqs ++
    (let s0 := flash [{ dop .program .tokenWait with planes := 4 }];
    { s0 with pwr := { reqs := [{ die := 0, op := 5, cost := 12 }], pool := 12 } }).pwr.bgReqs).head?).getD
    { die := 0, op := 0, cost := 0 }, ((dieAt (let s0 := flash [{ dop .program .tokenWait with planes := 4 }];
    { s0 with pwr := { reqs := [{ die := 0, op := 5, cost := 12 }], pool := 12 } }) 0).queue.find? (fun o => o.id == 5)).getD
    { id := 0, kind := .read }, (let s0 := flash [{ dop .program .tokenWait with planes := 4 }];
    { s0 with pwr := { reqs := [{ die := 0, op := 5, cost := 12 }], pool := 12 } }), by decide +kernel⟩,
  ⟨0, 6,
    ((({ flash [dop .erase .suspended, { dop .program .tokenWait with id := 6 }] with pwr := { reqs := [{ die := 0, op := 6, cost := 12 }], pool := 12 } , regs := [(regA .fchCfg2, 0x01000000)], prof := { (flash []).prof with maxProg := 200000 } }).pwr.reqs
    ++
    ({ flash [dop .erase .suspended, { dop .program .tokenWait with id := 6 }] with pwr := { reqs := [{ die := 0, op := 6, cost := 12 }], pool := 12 } , regs := [(regA .fchCfg2, 0x01000000)], prof := { (flash []).prof with maxProg := 200000 } }).pwr.bgReqs).head?).getD
    { die := 0, op := 0, cost := 0 }, ((dieAt
    ({ flash [dop .erase .suspended, { dop .program .tokenWait with id := 6 }] with pwr := { reqs := [{ die := 0, op := 6, cost := 12 }], pool := 12 } , regs := [(regA .fchCfg2, 0x01000000)], prof := { (flash []).prof with maxProg := 200000 } })
    0).queue.find? (fun o => o.id == 6)).getD { id := 0, kind := .read },
    { flash [dop .erase .suspended, { dop .program .tokenWait with id := 6 }] with pwr := { reqs := [{ die := 0, op := 6, cost := 12 }], pool := 12 } , regs := [(regA .fchCfg2, 0x01000000)], prof := { (flash []).prof with maxProg := 200000 } },
    by decide +kernel⟩,
  ⟨0, 5, ((({ flash [dop .program .tokenWait] with pwr := { reqs := [{ die := 0, op := 5, cost := 13 }], pool := 12 } }).pwr.reqs ++
    ({ flash [dop .program .tokenWait] with pwr := { reqs := [{ die := 0, op := 5, cost := 13 }], pool := 12 } }).pwr.bgReqs).head?).getD
    { die := 0, op := 0, cost := 0 }, ((dieAt
    ({ flash [dop .program .tokenWait] with pwr := { reqs := [{ die := 0, op := 5, cost := 13 }], pool := 12 } }) 0).queue.find? (fun o
    => o.id == 5)).getD { id := 0, kind := .read },
    { flash [dop .program .tokenWait] with pwr := { reqs := [{ die := 0, op := 5, cost := 13 }], pool := 12 } }, by decide +kernel⟩,
  ⟨0, { dop .program .queued with planes := 4 },
    { flash [{ dop .program .queued with planes := 4 }] with regs := [(regA .pwrCfg, 0x80000000)], pwr := { pool := 12 } },
    by decide +kernel⟩,
  ⟨0, { dop .program .queued with step := 1 },
    { flash [{ dop .program .queued with step := 1 }] with regs := [(regA .pwrCfg, 0x80000000)], pwr := { pool := 12, energy := 1000000 } },
    by decide +kernel⟩,
  ⟨3, onFch (fun f => { f with chans := [(chanOf 3, { up := true, trn := true })] }) w0, by decide +kernel⟩,
  ⟨{ w0 with regs := [(regA .pwrCfg, 0x80000000)] }, by decide +kernel⟩,
  ⟨{ w0 with pwr := { energy := 5 } }, by decide +kernel⟩,
  ⟨0, (inArray (dieAt ({ flash [dop .read .array] with pwr := { held := 3 } }) 0)).getD { id := 0, kind := .read },
    { flash [dop .read .array] with pwr := { held := 3 } }, by decide +kernel⟩,
  ⟨0, (inArray (dieAt ({ flash [dop .program .array] with pwr := { held := 3 } }) 0)).getD { id := 0, kind := .read },
    { flash [dop .program .array] with pwr := { held := 3 } }, by decide +kernel⟩,
  ⟨0, (inArray (dieAt ({ flash [dop .erase .array] with pwr := { held := 3 } }) 0)).getD { id := 0, kind := .read },
    { flash [dop .erase .array] with pwr := { held := 3 } }, by decide +kernel⟩,
  ⟨0, { w0 with fch := { dies := [(0, { present := true, resetting := true })] } }, by decide +kernel⟩,
  ⟨0, 0, { dop .read .busOut with use := .host 65535, cws := [16, 17] }, flash
    [{ dop .read .busOut with use := .host 65535, cws := [16, 17] }], by decide +kernel⟩,
  ⟨0, (inArray (dieAt (flash [dop .program .array]) 0)).getD { id := 0, kind := .read }, flash [dop .program .array], by decide +kernel⟩,
  ⟨0, { w0 with fch := { dies := [(0, { present := true, resetting := true })] } }, by decide +kernel⟩,
  ⟨511, w0, by decide +kernel⟩,
  ⟨0, (inArray (dieAt (let s0 := flash [dop .erase .array, { dop .read .queued with id := 6 }];
    { s0 with regs := [(regA .fchCfg, 0x10200000)], pwr := { s0.pwr with tb := 20000 } }) 0)).getD { id := 0, kind := .read },
    (let s0 := flash [dop .erase .array, { dop .read .queued with id := 6 }];
    { s0 with regs := [(regA .fchCfg, 0x10200000)], pwr := { s0.pwr with tb := 20000 } }), by decide +kernel⟩,
  ⟨0, (inArray (dieAt (let s0 := flash [dop .erase .array, { dop .read .queued with id := 6 }];
    { s0 with regs := [(regA .fchCfg, 0x10200000)], pwr := { s0.pwr with tb := 19999 } }) 0)).getD { id := 0, kind := .read },
    (let s0 := flash [dop .erase .array, { dop .read .queued with id := 6 }];
    { s0 with regs := [(regA .fchCfg, 0x10200000)], pwr := { s0.pwr with tb := 19999 } }), by decide +kernel⟩,
  ⟨0, (inArray (dieAt
    ({ flash [{ dop .erase .array with susp := 1 }, { dop .read .queued with id := 6 }] with regs := [(regA .fchCfg, 0x10000000)] })
    0)).getD { id := 0, kind := .read },
    { flash [{ dop .erase .array with susp := 1 }, { dop .read .queued with id := 6 }] with regs := [(regA .fchCfg, 0x10000000)] },
    by decide +kernel⟩,
  ⟨0, (inArray (dieAt ({ flash [dop .erase .array, { dop .read .queued with id := 6 }] with regs := [(regA .fchCfg, 0)] }) 0)).getD
    { id := 0, kind := .read }, { flash [dop .erase .array, { dop .read .queued with id := 6 }] with regs := [(regA .fchCfg, 0)] },
    by decide +kernel⟩,
  ⟨0, (inArray (dieAt ({ flash [{ dop .erase .array with dueSusp := true }] with regs := [(regA .fchCfg, 0x10000000)] }) 0)).getD
    { id := 0, kind := .read }, { flash [{ dop .erase .array with dueSusp := true }] with regs := [(regA .fchCfg, 0x10000000)] },
    by decide +kernel⟩,
  ⟨0, (inArray (dieAt (flash [dop .erase .array]) 0)).getD { id := 0, kind := .read }, flash [dop .erase .array], by decide +kernel⟩,
  ⟨0, (suspOf (dieAt (flash [dop .erase .suspended]) 0)).getD { id := 0, kind := .read }, flash [dop .erase .suspended],
    by decide +kernel⟩,
  ⟨0, (suspOf (dieAt (flash [dop .erase .suspended, { dop .read .queued with id := 6 }]) 0)).getD { id := 0, kind := .read }, flash [dop
    .erase .suspended, { dop .read .queued with id := 6 }], by decide +kernel⟩,
  ⟨0, 6, (expectedWait (let s0 := flash [dop .program .array, { dop .read .queued with id := 6, use := .host 7, cws := [16] }];
    { s0 with regs := [(regA .fchCfg, 0x000FF000)] }) 0).getD 0, 7, ((dieAt
    (let s0 := flash [dop .program .array, { dop .read .queued with id := 6, use := .host 7, cws := [16] }];
    { s0 with regs := [(regA .fchCfg, 0x000FF000)] }) 0).queue.find? (fun o => o.id == 6 && o.kind == .read && o.st == .queued)).getD
    { id := 0, kind := .read }, (let s0 := flash [dop .program .array, { dop .read .queued with id := 6, use := .host 7, cws := [16] }];
    { s0 with regs := [(regA .fchCfg, 0x000FF000)] }), by decide +kernel⟩,
  ⟨0, 6, (expectedWait
    (let s0 := flash [dop .program .array, { dop .read .queued with id := 6, use := .host 7, cws := [16] }] { st := .closed, stripe := 0, bst := .full } { stream := 0, members := [(0, 2), (1, 2), (2, 2)], ppos := 2, st := .closed };
    { s0 with regs := [(regA .fchCfg, 0x00001000)] }) 0).getD 0, 7, ((dieAt
    (let s0 := flash [dop .program .array, { dop .read .queued with id := 6, use := .host 7, cws := [16] }] { st := .closed, stripe := 0, bst := .full } { stream := 0, members := [(0, 2), (1, 2), (2, 2)], ppos := 2, st := .closed };
    { s0 with regs := [(regA .fchCfg, 0x00001000)] }) 0).queue.find? (fun o => o.id == 6 && o.kind == .read && o.st == .queued)).getD
    { id := 0, kind := .read },
    (let s0 := flash [dop .program .array, { dop .read .queued with id := 6, use := .host 7, cws := [16] }] { st := .closed, stripe := 0, bst := .full } { stream := 0, members := [(0, 2), (1, 2), (2, 2)], ppos := 2, st := .closed };
    { s0 with regs := [(regA .fchCfg, 0x00001000)] }), by decide +kernel, by decide +kernel, by decide +kernel, by decide +kernel,
    by decide +kernel, by decide +kernel, some_of (by decide +kernel), by decide +kernel⟩,
  ⟨0, 6, (expectedWait (let s0 := flash [dop .program .array, { dop .read .queued with id := 6, use := .host 7, cws := [16] }];
    { s0 with regs := [(regA .fchCfg, 0x00001000)] }) 0).getD 0, 7, ((dieAt
    (let s0 := flash [dop .program .array, { dop .read .queued with id := 6, use := .host 7, cws := [16] }];
    { s0 with regs := [(regA .fchCfg, 0x00001000)] }) 0).queue.find? (fun o => o.id == 6 && o.kind == .read && o.st == .queued)).getD
    { id := 0, kind := .read }, (let s0 := flash [dop .program .array, { dop .read .queued with id := 6, use := .host 7, cws := [16] }];
    { s0 with regs := [(regA .fchCfg, 0x00001000)] }), by decide +kernel, by decide +kernel, by decide +kernel, by decide +kernel,
    by decide +kernel, by decide +kernel, some_of (by decide +kernel), by decide +kernel⟩⟩

theorem test_met_FlashChannels_2 :
    (∃ (die : Nat) (op : Nat) (w : Nat) (k : Nat) (o : Dop) (s : State), ∃ x, s.sys.mode.serving = true ∧ (dieAt s die).queue.find? (fun
      o => o.id == op && o.kind == .read && o.st == .queued) = some o ∧ o.use = .host k ∧ expectedWait s die = some w ∧ rfld s .fchCfg 12
      8 ≠ 0 ∧ rfld s .fchCfg 12 8 * 10 < w ∧ inArray (dieAt s die) = some x ∧ x.kind = .erase ∧ 0 < suspMax s ∧ suspMax s ≤ x.susp ∧
      x.dueSusp = false) ∧
    (∃ (ch : Nat) (s : State), ch < 32 ∧ s.sys.mode.serving = true ∧ (chanAt s ch).up = true) ∧
    (∃ (ch : Nat) (s : State), ch < 32 ∧ s.sys.mode.serving = true ∧ (chanAt s ch).up = true ∧ chanHeld s ch = false ∧ rfld s .fchCfg 0 8
      ≠ 0 ∧ seqUp s 4 = true) ∧
    (∃ (r : Retrain) (s : State), s.sys.mode.serving = true ∧ s.fch.trnNow = none ∧ seqUp s 4 = true ∧ (s.fch.trnQ.find? (·.frame) = some
      r ∨ (s.fch.trnQ.find? (·.frame) = none ∧ s.fch.trnQ.head? = some r))) ∧
    (∃ (tr : ChTrain) (r : Retrain) (s : State), s.sys.mode.serving = true ∧ s.fch.trnNow = some r ∧ seqUp s 4 = true ∧ eyeMin s +
      eyeGuard s ≤ tr.eye ∧ r.op = none) ∧
    (∃ (tr : ChTrain) (r : Retrain) (s : State), let from0 := if r.rateReset then s.prof.rates.headD 0 else (chanAt s r.ch).rate;
      let low := rateDown s.prof from0; s.sys.mode.serving = true ∧ s.fch.trnNow = some r ∧ seqUp s 4 = true ∧ tr.eye < eyeMin s +
      eyeGuard s ∧ low ≠ 0 ∧ r.ch < 32) ∧
    (∃ (tr : ChTrain) (r : Retrain) (s : State), let from0 := if r.rateReset then s.prof.rates.headD 0 else (chanAt s r.ch).rate;
      let low := rateDown s.prof from0; s.sys.mode.serving = true ∧ s.fch.trnNow = some r ∧ seqUp s 4 = true ∧ tr.eye < eyeMin s +
      eyeGuard s ∧ low = 0 ∧ r.ch < 32) ∧
    (∃ (src : Nat) (s : State) (r : CamReq), Accepted src 0x0400 s r) ∧
    (∃ (src : Nat) (s : State) (r : CamReq), Accepted src 0x0401 s r) ∧
    (∃ (src : Nat) (s : State) (r : CamReq), let d := rqTgt r; Accepted src 0x0402 s r ∧ (dieAt s d).present = true) ∧
    (∃ (src : Nat) (s : State) (r : CamReq), let d := rqTgt r; Accepted src 0x0402 s r ∧ (dieAt s d).present = false) ∧
    (∃ (src : Nat) (s : State) (r : CamReq), let d := rqTgt r; ∃ h, Accepted src 0x0403 s r ∧ rqW r 2 &&& 0xFFFFFFFE = 0 ∧ (∀ x ∈
      s.fch.trnQ, x.ch ≠ d) ∧ (∀ x, s.fch.trnNow = some x → x.ch ≠ d) ∧ (chanAt s d).failed = false ∧ pickHandle s = some h) ∧
    (∃ (src : Nat) (s : State) (r : CamReq), let d := rqTgt r; Accepted src 0x0403 s r ∧ rqW r 2 &&& 0xFFFFFFFE = 0 ∧ (∃ x ∈ s.fch.trnQ,
      x.ch = d)) ∧
    (∃ (src : Nat) (s : State) (r : CamReq), let d := rqTgt r; Accepted src 0x0403 s r ∧ rqW r 2 &&& 0xFFFFFFFE = 0 ∧ (∀ x ∈ s.fch.trnQ,
      x.ch ≠ d) ∧ (∀ x, s.fch.trnNow = some x → x.ch ≠ d) ∧ (chanAt s d).failed = true) ∧
    (∃ (src : Nat) (s : State) (r : CamReq), let d := rqTgt r; Accepted src 0x0404 s r ∧ (dieAt s d).present = true ∧ 256 ≤ dscBytes r) ∧
    (∃ (src : Nat) (s : State) (r : CamReq), let d := rqTgt r; let b := fld (rqW r 2) 0 16; Accepted src 0x0405 s r ∧ (dieAt s d).present
      = true ∧ b < s.prof.blocksPerDie) ∧
    (∃ (src : Nat) (s : State) (r : CamReq), let d := rqTgt r; let b := fld (rqW r 2) 0 16; Accepted src 0x0405 s r ∧ ((dieAt s
      d).present = false ∨ s.prof.blocksPerDie ≤ b)) :=
  ⟨⟨0, 6, (expectedWait
    (let s0 := flash [{ dop .erase .array with susp := 1 }, { dop .read .queued with id := 6, use := .host 7, cws := [16] }];
    { s0 with regs := [(regA .fchCfg, 0x10001000)] }) 0).getD 0, 7, ((dieAt
    (let s0 := flash [{ dop .erase .array with susp := 1 }, { dop .read .queued with id := 6, use := .host 7, cws := [16] }];
    { s0 with regs := [(regA .fchCfg, 0x10001000)] }) 0).queue.find? (fun o => o.id == 6 && o.kind == .read && o.st == .queued)).getD
    { id := 0, kind := .read },
    (let s0 := flash [{ dop .erase .array with susp := 1 }, { dop .read .queued with id := 6, use := .host 7, cws := [16] }];
    { s0 with regs := [(regA .fchCfg, 0x10001000)] }), { dop .erase .array with susp := 1 }, by decide +kernel⟩,
  ⟨31, onFch (fun f => { f with chans := [(31, { up := true })] }) w0, by decide +kernel⟩,
  ⟨31, { onFch (fun f => { f with chans := [(31, { up := true })] }) w0 with regs := [(regA .fchCfg, 1), (regA .fchCfg2, 0x00060000)] },
    by decide +kernel⟩,
  ⟨{ ch := 3, frame := true }, onFch (fun f => { f with trnQ := [{ ch := 1 }, { ch := 3, frame := true }] }) w0, by decide +kernel⟩,
  ⟨{ rate := 48, temp := 5, eye := 255 }, { ch := 3 }, onFch (fun f =>
    { f with trnNow := some { ch := 3 }, chans := [(3, { up := true, trn := true, rate := 48 })] }) w0, by decide +kernel⟩,
  ⟨{ rate := 48, temp := 5, eye := 0 }, { ch := 31 },
    { onFch (fun f => { f with trnNow := some { ch := 31 }, chans := [(31, { up := true, trn := true, rate := 48 })] }) w0 with regs := [(regA .fchCfg2, 0x00060000)] },
    by decide +kernel⟩,
  ⟨{ rate := 48, temp := 5, eye := 0 }, { ch := 0 }, (let s0 := flash [dop .read .array]; onFch (fun f =>
    { f with trnNow := some { ch := 0 }, chans := [(0, { up := true, trn := true, rate := 24 })] }) s0), by decide +kernel⟩,
  ⟨0, ask 0 0x0400 0xFFFF [] w0, qreq (ask 0 0x0400 0xFFFF [] w0) 0, accepted_of (by decide +kernel)⟩,
  ⟨0, ask 0 0x0401 31 [] w0, qreq (ask 0 0x0401 31 [] w0) 0, accepted_of (by decide +kernel)⟩,
  ⟨0, ask 0 0x0402 0 [] (flash []), qreq (ask 0 0x0402 0 [] (flash [])) 0, accepted_of (by decide +kernel), by decide +kernel⟩,
  ⟨0, ask 0 0x0402 511 [] (flash []), qreq (ask 0 0x0402 511 [] (flash [])) 0, accepted_of (by decide +kernel), by decide +kernel⟩,
  ⟨0, ask 0 0x0403 31 [1] w0, qreq (ask 0 0x0403 31 [1] w0) 0, 0, accepted_of (by decide +kernel), by decide +kernel, by decide +kernel,
    some_of (by decide +kernel), by decide +kernel⟩,
  ⟨0, ask 0 0x0403 31 [1] (onFch (fun f => { f with trnQ := [{ ch := 31 }] }) w0), qreq (ask 0 0x0403 31 [1] (onFch (fun f =>
    { f with trnQ := [{ ch := 31 }] }) w0)) 0, accepted_of (by decide +kernel), by decide +kernel⟩,
  ⟨0, ask 0 0x0403 31 [1] (onFch (fun f => { f with chans := [(31, { failed := true })] }) w0), qreq (ask 0 0x0403 31 [1] (onFch (fun f
    => { f with chans := [(31, { failed := true })] }) w0)) 0, accepted_of (by decide +kernel), by decide +kernel, by decide +kernel,
    some_of (by decide +kernel), by decide +kernel⟩,
  ⟨0, ask 0 0x0404 0 [0x00003F00, 256] { flash [] with cam := { flags := [(16128, 0x80000000)] } } 0x04000000, qreq (ask 0 0x0404 0
    [0x00003F00, 256] { flash [] with cam := { flags := [(16128, 0x80000000)] } } 0x04000000) 0, accepted_of (by decide +kernel),
    by decide +kernel⟩,
  ⟨0, ask 0 0x0405 0 [7] (flash []), qreq (ask 0 0x0405 0 [7] (flash [])) 0, accepted_of (by decide +kernel), by decide +kernel⟩,
  ⟨0, ask 0 0x0405 0 [8] (flash []), qreq (ask 0 0x0405 0 [8] (flash [])) 0, accepted_of (by decide +kernel), by decide +kernel⟩⟩

/-! `Obligations.SignalRecovery` -/

theorem test_met_SignalRecovery :
    (∃ (ch : Nat) (cw : Nat) (m : Marks) (l : Ladder) (s : State), let last := decide (sensesIn l.step ≤ l.found + 1); ladderOf s cw =
      some l ∧ frameHere s l = true ∧ chanOf (cwDie cw) = ch ∧ ch < 32 ∧ sreUp s ch = true ∧ probeOnly l = false ∧ s.sys.mode.serving =
      true ∧ leadAt s cw m = some 0 ∧ (l.lost = false ∨ last = false)) ∧
    (∃ (ch : Nat) (cw : Nat) (m : Marks) (l : Ladder) (s : State), let last := decide (sensesIn l.step ≤ l.found + 1); ladderOf s cw =
      some l ∧ frameHere s l = true ∧ chanOf (cwDie cw) = ch ∧ ch < 32 ∧ sreUp s ch = true ∧ probeOnly l = false ∧ s.sys.mode.serving =
      true ∧ leadAt s cw m = some 0 ∧ l.lost = true ∧ last = true ∧ l.step = 3 ∧ (dieAt s (cwDie cw)).failed = false) ∧
    (∃ (ch : Nat) (cw : Nat) (m : Marks) (l : Ladder) (s : State), let last := decide (sensesIn l.step ≤ l.found + 1); ∃ o, ladderOf s cw
      = some l ∧ frameHere s l = true ∧ chanOf (cwDie cw) = ch ∧ ch < 32 ∧ sreUp s ch = true ∧ probeOnly l = false ∧ s.sys.mode.serving =
      true ∧ leadAt s cw m = some o ∧ o ≠ 0 ∧ (l.lost = false ∨ last = false) ∧ (backupAt s cw m = none ∨ backupAt s cw m = some o)) ∧
    (∃ (ch : Nat) (cw : Nat) (m : Marks) (l : Ladder) (s : State), let last := decide (sensesIn l.step ≤ l.found + 1); ∃ o, ladderOf s cw
      = some l ∧ frameHere s l = true ∧ chanOf (cwDie cw) = ch ∧ ch < 32 ∧ sreUp s ch = true ∧ probeOnly l = false ∧ s.sys.mode.serving =
      true ∧ leadAt s cw m = none ∧ backupAt s cw m = some o ∧ (l.lost = false ∨ last = false)) ∧
    (∃ (ch : Nat) (cw : Nat) (m : Marks) (l : Ladder) (s : State), ladderOf s cw = some l ∧ frameHere s l = true ∧ chanOf (cwDie cw) = ch
      ∧ ch < 32 ∧ sreUp s ch = true ∧ probeOnly l = false ∧ s.sys.mode.serving = true ∧ ((leadAt s cw m = none ∧ backupAt s cw m = none ∧
      erasedFrame s cw m = false) ∨ (∃ o b, leadAt s cw m = some o ∧ backupAt s cw m = some b ∧ o ≠ 0 ∧ b ≠ o))) ∧
    (∃ (ch : Nat) (cw : Nat) (m : Marks) (l : Ladder) (s : State), ladderOf s cw = some l ∧ frameHere s l = true ∧ chanOf (cwDie cw) = ch
      ∧ ch < 32 ∧ sreUp s ch = true ∧ probeOnly l = false ∧ s.sys.mode.serving = true ∧ leadAt s cw m = none ∧ backupAt s cw m = none ∧
      erasedFrame s cw m = true ∧ .stripe ∉ l.readers) ∧
    (∃ (cw : Nat) (h : Nat) (m : Marks) (s : State), ∃ e, h < 2 ^ 16 ∧ popBits 16 h % 2 = 0 ∧ h % 4 = cwPos s.prof (cw % 2 ^ 27) % max 1
      s.prof.q ∧ h / 4 % 8 = (blkAt s (cwDie cw) (cwBlock s cw)).rate ∧ e < 2 ^ 48 ∧ popBits 48 e ≤ markTol s ∧ m.lead / 2 ^ 7 % 2 ^ 64 =
      h * 2 ^ 48 + Nat.xor syncWord e) ∧
    (∃ (cw : Nat) (h : Nat) (m : Marks) (s : State), ∃ e, h < 2 ^ 16 ∧ popBits 16 h % 2 = 0 ∧ h % 4 = cwPos s.prof (cw % 2 ^ 27) % max 1
      s.prof.q ∧ h / 4 % 8 = (blkAt s (cwDie cw) (cwBlock s cw)).rate ∧ e < 2 ^ 48 ∧ popBits 48 e ≤ markTol s ∧ m.backup / 2 ^ 7 % 2 ^ 64
      = h * 2 ^ 48 + Nat.xor (2 ^ 48 - 1 - syncWord) e) ∧
    (∃ (cw : Nat) (step : Nat) (d : Decode) (l : Ladder) (s : State), ladderOf s cw = some l ∧ l.step = step ∧ l.framed = true ∧ 0 < step
      ∧ step ≤ 4 ∧ inDecoder s l = true ∧ sreUp s (chanOf (cwDie cw)) = true ∧ probeOnly l = false ∧ s.sys.mode.serving = true ∧ (step =
      1 ∨ seqUp s 6 = true) ∧ converges s step d = true ∧ (d.sealOk = true ∨ d.poison = true)) ∧
    (∃ (cw : Nat) (step : Nat) (d : Decode) (l : Ladder) (s : State), let next := if step = 1 ∧ step2Tries s ≠ 0 then 2 else if step = 1 then 3 else step + 1;
      ladderOf s cw = some l ∧ l.step = step ∧ l.framed = true ∧ 0 < step ∧ step ≤ 4 ∧ inDecoder s l = true ∧ sreUp s (chanOf (cwDie cw))
      = true ∧ probeOnly l = false ∧ s.sys.mode.serving = true ∧ (step = 1 ∨ seqUp s 6 = true) ∧ (dieAt s (cwDie cw)).failed = false ∧
      (converges s step d = false ∨ (d.sealOk = false ∧ d.poison = false)) ∧ (step ≠ 2 ∨ step2Tries s ≤ l.tries + 1) ∧ (next = 5 →
      .stripe ∉ l.readers)) ∧
    (∃ (cw : Nat) (step : Nat) (d : Decode) (l : Ladder) (s : State), ladderOf s cw = some l ∧ l.step = step ∧ l.framed = true ∧ 0 < step
      ∧ step ≤ 4 ∧ inDecoder s l = true ∧ sreUp s (chanOf (cwDie cw)) = true ∧ probeOnly l = false ∧ s.sys.mode.serving = true ∧ (step =
      1 ∨ seqUp s 6 = true) ∧ (dieAt s (cwDie cw)).failed = false ∧ converges s step d = false ∧ step = 2 ∧ l.tries + 1 < step2Tries s) ∧
    (∃ (die : Nat) (plane : Nat) (col : Nat) (c : Cand) (s : State), (sreDieAt s die).cands.find? (fun c => c.plane == plane && c.col ==
      col) = some c ∧ seqUp s 6 = true ∧ colSpan s ≤ tgetD (sreDieAt s die).cws plane 0 - c.start ∧ c.hits < colHit s) ∧
    (∃ (die : Nat) (plane : Nat) (col : Nat) (c : Cand) (s : State), (sreDieAt s die).cands.find? (fun c => c.plane == plane && c.col ==
      col) = some c ∧ seqUp s 6 = true ∧ colHit s ≤ c.hits) ∧
    (∃ (die : Nat) (bin : Nat) (s : State), let b := binAt s die bin; bin ≤ 9 ∧ s.sys.mode.serving = true ∧ seqUp s 6 = true ∧ loopWin s
      ≤ b.counted) ∧
    (∃ (die : Nat) (bin : Nat) (s : State), let b := binAt s die bin; bin ≤ 9 ∧ s.sys.mode.serving = true ∧ seqUp s 6 = true ∧ b.counted
      < loopWin s) ∧
    (∃ (s : State), s.sys.mode ≠ .holdup ∧ (∃ e ∈ s.sre.dies, e.2.dirty = true) ∧ (s.sre.dies.map (·.1)).Nodup) ∧
    (∃ (s : State), (∀ e ∈ s.sre.dies, e.2.dirty = false)) ∧
    (∃ (src : Nat) (s : State) (r : CamReq), Accepted src 0x0480 s r) ∧
    (∃ (src : Nat) (s : State) (r : CamReq), let d := rqTgt r; let w := rqW r 2; ∃ b, Accepted src 0x0481 s r ∧ dieGone s d = false ∧ b =
      fld w 0 4 ∧ b ≤ 9) ∧
    (∃ (src : Nat) (s : State) (r : CamReq), let d := rqTgt r; Accepted src 0x0481 s r ∧ dieGone s d = true) ∧
    (∃ (src : Nat) (s : State) (r : CamReq), let d := rqTgt r; let w := rqW r 2; Accepted src 0x0481 s r ∧ dieGone s d = false ∧ 9 < fld
      w 0 4) ∧
    (∃ (src : Nat) (s : State) (r : CamReq), let d := rqTgt r; Accepted src 0x0482 s r ∧ bytesOk r 8 = none ∧ dieGone s d = false) ∧
    (∃ (src : Nat) (s : State) (r : CamReq), let d := rqTgt r; Accepted src 0x0482 s r ∧ bytesOk r 8 = none ∧ dieGone s d = true) ∧
    (∃ (src : Nat) (s : State) (r : CamReq), let d := rqTgt r; let w := rqW r 2;
      let c : Col := { plane := fld w 30 2, col := fld w 0 18, kind := 2 };
      let listed (x : Col) : Bool := x.plane == c.plane && x.col == c.col; Accepted src 0x0483 s r ∧ w &&& 0x3FFC0000 = 0 ∧ dieGone s d =
      false ∧ c.col < s.prof.pageBytes * 8 ∧ (∀ x ∈ (sreDieAt s d).cols, listed x = false) ∧ ((sreDieAt s d).cols.filter fun x => x.plane
      == c.plane).length < 64) ∧
    (∃ (src : Nat) (s : State) (r : CamReq), let d := rqTgt r; let w := rqW r 2;
      let c : Col := { plane := fld w 30 2, col := fld w 0 18, kind := 2 };
      let listed (x : Col) : Bool := x.plane == c.plane && x.col == c.col; Accepted src 0x0483 s r ∧ w &&& 0x3FFC0000 = 0 ∧ dieGone s d =
      false ∧ c.col < s.prof.pageBytes * 8 ∧ (∀ x ∈ (sreDieAt s d).cols, listed x = false) ∧ 64 ≤ ((sreDieAt s d).cols.filter fun x =>
      x.plane == c.plane).length) ∧
    (∃ (src : Nat) (s : State) (r : CamReq), let d := rqTgt r; let w := rqW r 2;
      let c : Col := { plane := fld w 30 2, col := fld w 0 18, kind := 2 };
      let listed (x : Col) : Bool := x.plane == c.plane && x.col == c.col; Accepted src 0x0483 s r ∧ w &&& 0x3FFC0000 = 0 ∧ dieGone s d =
      false ∧ c.col < s.prof.pageBytes * 8 ∧ (∃ x ∈ (sreDieAt s d).cols, listed x = true)) ∧
    (∃ (src : Nat) (s : State) (r : CamReq), let d := rqTgt r; let w := rqW r 2;
      let c : Col := { plane := fld w 30 2, col := fld w 0 18, kind := 2 }; Accepted src 0x0483 s r ∧ w &&& 0x3FFC0000 = 0 ∧ dieGone s d
      = false ∧ s.prof.pageBytes * 8 ≤ c.col) ∧
    (∃ (src : Nat) (s : State) (r : CamReq), let d := rqTgt r; let w := rqW r 2; Accepted src 0x0484 s r ∧ w &&& 0x7FFFFC00 = 0 ∧ dieGone
      s d = false) ∧
    (∃ (src : Nat) (s : State) (r : CamReq), let d := rqTgt r; let w := rqW r 2; Accepted src 0x0484 s r ∧ w &&& 0x7FFFFC00 = 0 ∧ dieGone
      s d = true) ∧
    (∃ (src : Nat) (s : State) (r : CamReq), let d := rqTgt r; let w := rqW r 2; ∃ h top, Accepted src 0x0485 s r ∧ w &&& 0xF8000000 = 0
      ∧ rqW r 3 = BitVec.ofNat 32 top ∧ 0 < top ∧ top ≤ 4 ∧ dieGone s d = false ∧ fld w 0 27 < s.prof.blocksPerDie * cwsPerBlk s.prof ∧
      pickHandle s = some h ∧ (ladderOf s (cwKey d (fld w 0 27))).isNone = true) :=
  ⟨⟨0, 16, { lead := (0x8008 * 2 ^ 48 + syncWord) * 2 ^ 7, backup := (0x8008 * 2 ^ 48 + (2 ^ 48 - 1 - syncWord)) * 2 ^ 10 }, (ladderOf
    (laddered { cw := 16, readers := [.host 0] }) 16).getD { cw := 0 }, laddered { cw := 16, readers := [.host 0] }, by decide +kernel⟩,
  ⟨0, 16, { lead := (0x8008 * 2 ^ 48 + syncWord) * 2 ^ 7, backup := 0 }, (ladderOf (laddered
    { cw := 16, step := 3, found := 1, lost := true, readers := [.host 0] }) 16).getD { cw := 0 }, laddered
    { cw := 16, step := 3, found := 1, lost := true, readers := [.host 0] }, by decide +kernel⟩,
  ⟨0, 16, { lead := (0x8008 * 2 ^ 48 + syncWord), backup := 0 }, (ladderOf (laddered { cw := 16, readers := [.host 0] }) 16).getD
    { cw := 0 }, laddered { cw := 16, readers := [.host 0] }, -7, by decide +kernel⟩,
  ⟨0, 16, { lead := 0, backup := (0x8008 * 2 ^ 48 + (2 ^ 48 - 1 - syncWord)) * 2 ^ 14 }, (ladderOf (laddered
    { cw := 16, readers := [.host 0] }) 16).getD { cw := 0 }, laddered { cw := 16, readers := [.host 0] }, 7, by decide +kernel⟩,
  ⟨0, 16, { lead := 0, backup := 0, zeros := 10000 }, (ladderOf (laddered { cw := 16, readers := [.host 0] }) 16).getD { cw := 0 },
    laddered { cw := 16, readers := [.host 0] }, by decide +kernel, by decide +kernel, by decide +kernel, by decide +kernel,
    by decide +kernel, by decide +kernel, by decide +kernel, Or.inl (by decide +kernel)⟩,
  ⟨0, 16, { lead := 2 ^ 78 - 1, backup := 2 ^ 78 - 1, zeros := 554 }, (ladderOf (laddered { cw := 16, readers := [.host 0] }) 16).getD
    { cw := 0 }, laddered { cw := 16, readers := [.host 0] }, by decide +kernel⟩,
  ⟨16, 0x8008, { lead := (0x8008 * 2 ^ 48 + Nat.xor syncWord 0x800000000001) * 2 ^ 7, backup := 0 },
    { laddered { cw := 16, readers := [.host 0] } with regs := [(regA .sreCfg2, 2)] }, 0x800000000001, by decide +kernel⟩,
  ⟨16, 0x8008, { lead := 0, backup := (0x8008 * 2 ^ 48 + Nat.xor (2 ^ 48 - 1 - syncWord) 0xFF) * 2 ^ 7 },
    { laddered { cw := 16, readers := [.host 0] } with regs := [(regA .sreCfg2, 15)] }, 0xFF, by decide +kernel⟩,
  ⟨16, 4, { converged := true, sealOk := true }, (ladderOf (laddered { cw := 16, step := 4, framed := true, readers := [.host 0] })
    16).getD { cw := 0 }, laddered { cw := 16, step := 4, framed := true, readers := [.host 0] }, by decide +kernel⟩,
  ⟨16, 1, { sealOk := false }, (ladderOf
    ({ laddered { cw := 16, framed := true, readers := [.host 0] } with regs := [(regA .sreCfg, 0)] }) 16).getD { cw := 0 },
    { laddered { cw := 16, framed := true, readers := [.host 0] } with regs := [(regA .sreCfg, 0)] }, by decide +kernel⟩,
  ⟨16, 2, { converged := false }, (ladderOf
    ({ laddered { cw := 16, step := 2, framed := true, readers := [.host 0] } with regs := [(regA .sreCfg, 0x20000000)] }) 16).getD
    { cw := 0 }, { laddered { cw := 16, step := 2, framed := true, readers := [.host 0] } with regs := [(regA .sreCfg, 0x20000000)] },
    by decide +kernel⟩,
  ⟨0, 3, 9, ((sreDieAt
    ({ laddered { cw := 16 } { cands := [{ plane := 3, col := 9 }], cws := [(3, 256)] } with regs := [(regA .sreCfg2, 0x00020100)] })
    0).cands.find? (fun c => c.plane == 3 && c.col == 9)).getD { plane := 0, col := 0 },
    { laddered { cw := 16 } { cands := [{ plane := 3, col := 9 }], cws := [(3, 256)] } with regs := [(regA .sreCfg2, 0x00020100)] },
    by decide +kernel⟩,
  ⟨0, 3, 9, ((sreDieAt
    ({ laddered { cw := 16 } { cands := [{ plane := 3, col := 9, hits := 2 }], cws := [(3, 256)] } with regs := [(regA .sreCfg2, 0x00020100)] })
    0).cands.find? (fun c => c.plane == 3 && c.col == 9)).getD { plane := 0, col := 0 },
    { laddered { cw := 16 } { cands := [{ plane := 3, col := 9, hits := 2 }], cws := [(3, 256)] } with regs := [(regA .sreCfg2, 0x00020100)] },
    by decide +kernel⟩,
  ⟨0, 9,
    { laddered { cw := 16 } { bins := [(9, { o := 63, counted := 1, sums := [(0, 40, 0)] })] } with regs := [(regA .sreCfg2, 0x01000000)] },
    by decide +kernel⟩,
  ⟨0, 0, w0, by decide +kernel⟩,
  ⟨laddered { cw := 16 } { bins := [(9, { o := 63 })], cols := [{ plane := 1, col := 5, kind := 2 }], dirty := true },
    by decide +kernel⟩,
  ⟨laddered { cw := 16 }, by decide +kernel⟩,
  ⟨0, ask 0 0x0480 0xFFFF [] w0, qreq (ask 0 0x0480 0xFFFF [] w0) 0, accepted_of (by decide +kernel)⟩,
  ⟨8, ask 8 0x0481 0 [9] (flash []), qreq (ask 8 0x0481 0 [9] (flash [])) 8, 9, accepted_of (by decide +kernel), by decide +kernel⟩,
  ⟨0, ask 0 0x0481 511 [9] (flash []), qreq (ask 0 0x0481 511 [9] (flash [])) 0, accepted_of (by decide +kernel), by decide +kernel⟩,
  ⟨0, ask 0 0x0481 0 [10] (flash []), qreq (ask 0 0x0481 0 [10] (flash [])) 0, accepted_of (by decide +kernel), by decide +kernel⟩,
  ⟨0, ask 0 0x0482 0 [0x00003F00, 16]
    { laddered { cw := 16 } { cols := [{ plane := 1, col := 5, kind := 2 }] } with cam := { flags := [(16128, 0x80000000)] } }
    0x04000000, qreq (ask 0 0x0482 0 [0x00003F00, 16]
    { laddered { cw := 16 } { cols := [{ plane := 1, col := 5, kind := 2 }] } with cam := { flags := [(16128, 0x80000000)] } }
    0x04000000) 0, accepted_of (by decide +kernel), by decide +kernel⟩,
  ⟨0, ask 0 0x0482 511 [0x00003F00, 16] { flash [] with cam := { flags := [(16128, 0x80000000)] } } 0x04000000, qreq (ask 0 0x0482 511
    [0x00003F00, 16] { flash [] with cam := { flags := [(16128, 0x80000000)] } } 0x04000000) 0, accepted_of (by decide +kernel),
    by decide +kernel⟩,
  ⟨0, ask 0 0x0483 0 [0xC0020000] (flash []), qreq (ask 0 0x0483 0 [0xC0020000] (flash [])) 0, accepted_of (by decide +kernel),
    by decide +kernel⟩,
  ⟨0, ask 0 0x0483 0 [0x80000002] (laddered { cw := 16 }
    { cols := (List.range 64).map fun i => { plane := 2, col := 100 + i, kind := 1 } }), qreq (ask 0 0x0483 0 [0x80000002] (laddered
    { cw := 16 } { cols := (List.range 64).map fun i => { plane := 2, col := 100 + i, kind := 1 } })) 0, accepted_of (by decide +kernel),
    by decide +kernel⟩,
  ⟨0, ask 0 0x0483 0 [0x80000002] (laddered { cw := 16 } { cols := [{ plane := 2, col := 2, kind := 1 }] }), qreq (ask 0 0x0483 0
    [0x80000002] (laddered { cw := 16 } { cols := [{ plane := 2, col := 2, kind := 1 }] })) 0, accepted_of (by decide +kernel),
    by decide +kernel⟩,
  ⟨0, ask 0 0x0483 0 [148736] (flash []), qreq (ask 0 0x0483 0 [148736] (flash [])) 0, accepted_of (by decide +kernel),
    by decide +kernel⟩,
  ⟨0, ask 0 0x0484 0 [0x80000200] (laddered { cw := 16 }
    { bins := [(9, { o := 63 }), (8, { o := 5 })], cols := [{ plane := 2, col := 2, kind := 1 }] }), qreq (ask 0 0x0484 0 [0x80000200]
    (laddered { cw := 16 } { bins := [(9, { o := 63 }), (8, { o := 5 })], cols := [{ plane := 2, col := 2, kind := 1 }] })) 0,
    accepted_of (by decide +kernel), by decide +kernel⟩,
  ⟨0, ask 0 0x0484 511 [0x80000200] (flash []), qreq (ask 0 0x0484 511 [0x80000200] (flash [])) 0, accepted_of (by decide +kernel),
    by decide +kernel⟩,
  ⟨0, ask 0 0x0485 0 [63, 4] (flash []), qreq (ask 0 0x0485 0 [63, 4] (flash [])) 0, 0, 4, accepted_of (by decide +kernel),
    by decide +kernel⟩⟩

/-! `Obligations.DieRedundancy` -/

theorem test_met_DieRedundancy_1 :
    (∃ (cw : Nat) (ok : Bool) (p : Bool) (l : Ladder) (s : State), cw ∈ s.dre.recon.take 256 ∧ ladderOf s cw = some l ∧ islOn s 23 = true
      ∧ s.sys.mode.serving = true ∧ (∀ a ∈ reconReads s cw, a ∉ s.dre.want) ∧ ((survOk s cw = true ∧ ok = true) ∨ (partnerCurrent s cw =
      true ∧ p = true))) ∧
    (∃ (cw : Nat) (ok : Bool) (p : Bool) (l : Ladder) (s : State), cw ∈ s.dre.recon.take 256 ∧ ladderOf s cw = some l ∧ islOn s 23 = true
      ∧ s.sys.mode.serving = true ∧ (∀ a ∈ reconReads s cw, a ∉ s.dre.want) ∧ (survOk s cw = false ∨ ok = false) ∧ (partnerCurrent s cw =
      false ∨ p = false)) ∧
    (∃ (cw : Nat) (ok : Bool) (l : Ladder) (s : State), cw ∈ s.dre.recon.take 256 ∧ ladderOf s cw = some l ∧ islOn s 23 = true ∧
      s.sys.mode.serving = true ∧ (∀ a ∈ reconReads s cw, a ∉ s.dre.want) ∧ survOk s cw = true ∧ ok = false) ∧
    (∃ (cw : Nat) (s : State), (cw ∉ s.dre.recon ∨ (∃ a ∈ reconReads s cw, a ∈ s.dre.want))) ∧
    (∃ (cw : Nat) (c : Cw) (n : Ns) (s : State), partnerCurrent s cw = true ∧ tget s.fte.nand cw = some c ∧ nsAt s c.ns = some n) ∧
    (∃ (dom : Nat) (n : Nat) (x : Stripe) (s : State), stripeAt s dom n = some x ∧ s.sys.mode ≠ .holdup ∧ seqUp s 7 = true ∧ x.st =
      .opened ∧ x.part = false) ∧
    (∃ (dom : Nat) (n : Nat) (x : Stripe) (s : State), stripeAt s dom n = some x ∧ s.sys.mode ≠ .holdup ∧ seqUp s 7 = true ∧ (x.st ≠
      .opened ∨ x.part = true)) ∧
    (∃ (dom : Nat) (n : Nat) (x : Stripe) (s : State), stripeAt s dom n = some x ∧ domSt s dom = .rebuilding ∧ n ∈ (domAt s dom).exposed
      ∧ s.sys.mode.serving = true ∧ sanOpen s = false ∧ x.st = .closed ∧ seqUp s 7 = true ∧ x.repl = none ∧ stripeValid s x = []) ∧
    (∃ (dom : Nat) (n : Nat) (x : Stripe) (s : State), ∃ lost k b held, stripeAt s dom n = some x ∧ domSt s dom = .rebuilding ∧ n ∈
      (domAt s dom).exposed ∧ s.sys.mode.serving = true ∧ sanOpen s = false ∧ x.st = .closed ∧ seqUp s 7 = true ∧ x.repl = none ∧
      stripeValid s x ≠ [] ∧ aheadOk s dom n = true ∧ lostPos s x = some lost ∧ replDie s dom x = some k ∧ pickBlk s k x.stream = some
      (b, held) ∧ 0 < groupsDone s.prof x.stream (blkAt s (x.members.getD lost (0, 0)).1 (x.members.getD lost (0, 0)).2).next) ∧
    (∃ (dom : Nat) (n : Nat) (x : Stripe) (s : State), ∃ r, let m := x.members.getD r.lost (0, 0);
      let w := groupsDone s.prof x.stream (blkAt s m.1 m.2).next; let k := match r.step with | none => 0 | some x => x + 1; stripeAt s
      dom n = some x ∧ domSt s dom = .rebuilding ∧ n ∈ (domAt s dom).exposed ∧ s.sys.mode.serving = true ∧ sanOpen s = false ∧ x.st =
      .closed ∧ seqUp s 7 = true ∧ x.repl = some r ∧ r.lost < x.members.length ∧ (∀ o ∈ (dieAt s r.die).queue ++ (dieAt s r.die).wait,
      o.kind = .program → o.block ≠ r.block) ∧ w ≤ k ∧ x.accMis = true ∧ stripeValid s x ≠ []) ∧
    (∃ (dom : Nat) (n : Nat) (x : Stripe) (s : State), ∃ r, let m := x.members.getD r.lost (0, 0);
      let w := groupsDone s.prof x.stream (blkAt s m.1 m.2).next; let k := match r.step with | none => 0 | some x => x + 1; stripeAt s
      dom n = some x ∧ domSt s dom = .rebuilding ∧ n ∈ (domAt s dom).exposed ∧ s.sys.mode.serving = true ∧ sanOpen s = false ∧ x.st =
      .closed ∧ seqUp s 7 = true ∧ x.repl = some r ∧ r.lost < x.members.length ∧ (∀ o ∈ (dieAt s r.die).queue ++ (dieAt s r.die).wait,
      o.kind = .program → o.block ≠ r.block) ∧ w ≤ k ∧ (x.accMis = false ∨ stripeValid s x = [])) ∧
    (∃ (dom : Nat) (n : Nat) (x : Stripe) (s : State), ∃ r, let m := x.members.getD r.lost (0, 0);
      let w := groupsDone s.prof x.stream (blkAt s m.1 m.2).next; let k := match r.step with | none => 0 | some x => x + 1; stripeAt s
      dom n = some x ∧ domSt s dom = .rebuilding ∧ n ∈ (domAt s dom).exposed ∧ s.sys.mode.serving = true ∧ sanOpen s = false ∧ x.st =
      .closed ∧ seqUp s 7 = true ∧ x.repl = some r ∧ r.lost < x.members.length ∧ (∀ o ∈ (dieAt s r.die).queue ++ (dieAt s r.die).wait,
      o.kind = .program → o.block ≠ r.block) ∧ k < w ∧ w ≤ r.given) ∧
    (∃ (dom : Nat) (n : Nat) (x : Stripe) (s : State), ∃ r, let m := x.members.getD r.lost (0, 0);
      let w := groupsDone s.prof x.stream (blkAt s m.1 m.2).next; let k := match r.step with | none => 0 | some x => x + 1;
      let reads := groupReads s x r.lost r.given; stripeAt s dom n = some x ∧ domSt s dom = .rebuilding ∧ n ∈ (domAt s dom).exposed ∧
      s.sys.mode.serving = true ∧ sanOpen s = false ∧ x.st = .closed ∧ seqUp s 7 = true ∧ x.repl = some r ∧ r.lost < x.members.length ∧
      (∀ o ∈ (dieAt s r.die).queue ++ (dieAt s r.die).wait, o.kind = .program → o.block ≠ r.block) ∧ k < w ∧ r.given < w ∧ (∃ a ∈ reads,
      ∀ g ∈ s.dre.got, g.1 ≠ a)) ∧
    (∃ (dom : Nat) (n : Nat) (x : Stripe) (s : State), ∃ r, let m := x.members.getD r.lost (0, 0);
      let w := groupsDone s.prof x.stream (blkAt s m.1 m.2).next; let k := match r.step with | none => 0 | some x => x + 1;
      let reads := groupReads s x r.lost r.given; stripeAt s dom n = some x ∧ domSt s dom = .rebuilding ∧ n ∈ (domAt s dom).exposed ∧
      s.sys.mode.serving = true ∧ sanOpen s = false ∧ x.st = .closed ∧ seqUp s 7 = true ∧ x.repl = some r ∧ r.lost < x.members.length ∧
      (∀ o ∈ (dieAt s r.die).queue ++ (dieAt s r.die).wait, o.kind = .program → o.block ≠ r.block) ∧ k < w ∧ r.given < w ∧ (∀ a ∈ reads,
      ∃ g ∈ s.dre.got, g.1 = a) ∧ r.lost = x.ppos) ∧
    (∃ (dom : Nat) (n : Nat) (x : Stripe) (s : State), ∃ r, let m := x.members.getD r.lost (0, 0);
      let w := groupsDone s.prof x.stream (blkAt s m.1 m.2).next; let k := match r.step with | none => 0 | some x => x + 1;
      let reads := groupReads s x r.lost r.given; stripeAt s dom n = some x ∧ domSt s dom = .rebuilding ∧ n ∈ (domAt s dom).exposed ∧
      s.sys.mode.serving = true ∧ sanOpen s = false ∧ x.st = .closed ∧ seqUp s 7 = true ∧ x.repl = some r ∧ r.lost < x.members.length ∧
      (∀ o ∈ (dieAt s r.die).queue ++ (dieAt s r.die).wait, o.kind = .program → o.block ≠ r.block) ∧ k < w ∧ r.given < w ∧ (∀ a ∈ reads,
      ∃ g ∈ s.dre.got, g.1 = a) ∧ (dieAt s r.die).present = true ∧ (dieAt s r.die).failed = false) ∧
    (∃ (dom : Nat) (n : Nat) (x : Stripe) (s : State), ∃ r, let m := x.members.getD r.lost (0, 0);
      let w := groupsDone s.prof x.stream (blkAt s m.1 m.2).next; let k := match r.step with | none => 0 | some x => x + 1;
      let reads := groupReads s x r.lost r.given; stripeAt s dom n = some x ∧ domSt s dom = .rebuilding ∧ n ∈ (domAt s dom).exposed ∧
      s.sys.mode.serving = true ∧ sanOpen s = false ∧ x.st = .closed ∧ seqUp s 7 = true ∧ x.repl = some r ∧ r.lost < x.members.length ∧
      (∀ o ∈ (dieAt s r.die).queue ++ (dieAt s r.die).wait, o.kind = .program → o.block ≠ r.block) ∧ k < w ∧ r.given < w ∧ (∀ a ∈ reads,
      ∃ g ∈ s.dre.got, g.1 = a) ∧ (∀ a ∈ reads, (a, false) ∉ s.dre.got) ∧ x.bare = []) ∧
    (∃ (dom : Nat) (n : Nat) (x : Stripe) (s : State), ∃ r, let m := x.members.getD r.lost (0, 0);
      let w := groupsDone s.prof x.stream (blkAt s m.1 m.2).next; let k := match r.step with | none => 0 | some x => x + 1;
      let reads := groupReads s x r.lost r.given; let per := stepCws s.prof x.stream; ∃ pos u, stripeAt s dom n = some x ∧ domSt s dom =
      .rebuilding ∧ n ∈ (domAt s dom).exposed ∧ s.sys.mode.serving = true ∧ sanOpen s = false ∧ x.st = .closed ∧ seqUp s 7 = true ∧
      x.repl = some r ∧ r.lost < x.members.length ∧ (∀ o ∈ (dieAt s r.die).queue ++ (dieAt s r.die).wait, o.kind = .program → o.block ≠
      r.block) ∧ k < w ∧ r.given < w ∧ (∀ a ∈ reads, ∃ g ∈ s.dre.got, g.1 = a) ∧ (reads.filter fun a => s.dre.got.contains (a,
      false)).find? (fun a => cwPos s.prof (a % 2 ^ 27) == pos) = some u ∧ r.given * per ≤ pos ∧ pos < (r.given + 1) * per) ∧
    (∃ (dom : Nat) (s : State), domSt s dom = .rebuilding ∧ (domAt s dom).exposed = [] ∧ s.sys.mode.serving = true ∧ sanOpen s = false ∧
      seqUp s 7 = true ∧ ((domAt s dom).lost = 0 ∨ (engAll (scanPages s dom) s).1 = true)) ∧
    (∃ (dom : Nat) (s : State), domSt s dom = .rebuilding ∧ (domAt s dom).exposed = [] ∧ s.sys.mode.serving = true ∧ sanOpen s = false ∧
      seqUp s 7 = true ∧ 0 < (domAt s dom).lost ∧ (engAll (scanPages s dom) s).1 = false) ∧
    (∃ (dom : Nat) (s : State), (domAt s dom).exposed ≠ []) ∧
    (∃ (k : Nat) (x : Tag) (s : State), tget s.nvq.tags k = some x ∧ x.mirWait = true ∧ s.dre.lost = false ∧ x.localDone = true ∧ x.st ≠
      .post) ∧
    (∃ (k : Nat) (x : Tag) (s : State), tget s.nvq.tags k = some x ∧ x.mirWait = true ∧ s.dre.lost = false ∧ x.localDone = false) ∧
    (∃ (k : Nat) (x : Tag) (s : State), tget s.nvq.tags k = some x ∧ x.mirWait = true ∧ s.dre.lost = true) ∧
    (∃ (k : Nat) (x : Tag) (s : State), tget s.nvq.tags k = some x ∧ x.mirWait = true ∧ s.dre.lost = false ∧ s.sys.mode.serving = true) ∧
    (∃ (ns : Nat) (g : Nat) (s : State), seqUp s 7 = true ∧ granKey ns g ∈ s.dre.active ∧ (∀ e ∈ s.nvq.tags, e.2.mirWait = true → granKey
      ns g ∉ entGrans s e.2.ent)) ∧
    (∃ (ns : Nat) (g : Nat) (s : State), seqUp s 7 = true ∧ granKey ns g ∉ s.dre.active) ∧
    (∃ (ns : Nat) (g : Nat) (p : Pair) (s : State), tget s.dre.pairs ns = some p ∧ granKey ns g ∈ s.dre.dirty ∧ twinUp s = true ∧
      s.dre.lost = false ∧ seqUp s 7 = true ∧ (∃ j ∈ nsDirty s ns, j ≠ granKey ns g)) ∧
    (∃ (ns : Nat) (g : Nat) (p : Pair) (s : State), tget s.dre.pairs ns = some p ∧ granKey ns g ∈ s.dre.dirty ∧ twinUp s = true ∧
      s.dre.lost = false ∧ seqUp s 7 = true ∧ (∀ j ∈ nsDirty s ns, j = granKey ns g) ∧ p.op = none) ∧
    (∃ (ns : Nat) (g : Nat) (p : Pair) (s : State), tget s.dre.pairs ns = some p ∧ granKey ns g ∈ s.dre.dirty ∧ twinUp s = true ∧
      s.dre.lost = false ∧ seqUp s 7 = true) ∧
    (∃ (ns : Nat) (g : Nat) (p : Pair) (s : State), tget s.dre.pairs ns = some p ∧ granKey ns g ∈ s.dre.dirty ∧ twinUp s = true ∧
      s.dre.lost = false ∧ seqUp s 7 = true ∧ s.sys.mode.serving = true) :=
  ⟨⟨16, true, false, (ladderOf (let s0 := recon; { s0 with dre := { s0.dre with got := (reconReads s0 16).map fun a => (a, true) } })
    16).getD { cw := 0 }, (let s0 := recon; { s0 with dre := { s0.dre with got := (reconReads s0 16).map fun a => (a, true) } }),
    by decide +kernel⟩,
  ⟨16, false, false, (ladderOf recon 16).getD { cw := 0 }, recon, by decide +kernel⟩,
  ⟨16, false, (ladderOf (let s0 := recon; { s0 with dre := { s0.dre with got := (reconReads s0 16).map fun a => (a, true) } }) 16).getD
    { cw := 0 }, (let s0 := recon; { s0 with dre := { s0.dre with got := (reconReads s0 16).map fun a => (a, true) } }),
    by decide +kernel⟩,
  ⟨17, recon, by decide +kernel⟩,
  ⟨16, { ns := 1, inst := 0, iu := 0, body := rec1.body }, ns1, (let s0 := recon;
    { s0 with hpc := { twin := 4 }, dre := { s0.dre with pairs := [(1, { partner := 5 })] }, fte := { s0.fte with nand := [(16, { ns := 1, inst := 0, iu := 0, body := rec1.body })] } }),
    by decide +kernel⟩,
  ⟨0, 0, (stripeAt (flash []) 0 0).getD { stream := 0, members := [], ppos := 0 }, flash [], by decide +kernel⟩,
  ⟨0, 0, (stripeAt (onDre (fun d => { d with stripes := tmod d.stripes 0 fun y => { y with part := true } }) (flash [])) 0 0).getD
    { stream := 0, members := [], ppos := 0 }, onDre (fun d => { d with stripes := tmod d.stripes 0 fun y => { y with part := true } })
    (flash []), by decide +kernel⟩,
  ⟨0, 0, (stripeAt (rebuilding none []) 0 0).getD { stream := 0, members := [], ppos := 0 }, rebuilding none [], by decide +kernel⟩,
  ⟨0, 0, (stripeAt rebuilding 0 0).getD { stream := 0, members := [], ppos := 0 }, rebuilding, 2, 3, 2, false, by decide +kernel⟩,
  ⟨0, 0, (stripeAt (onDre (fun d => { d with stripes := tmod d.stripes 0 fun y => { y with accMis := true } }) (rebuilding (some
    { lost := 2, die := 3, block := 1, step := some 1 }))) 0 0).getD { stream := 0, members := [], ppos := 0 }, onDre (fun d =>
    { d with stripes := tmod d.stripes 0 fun y => { y with accMis := true } }) (rebuilding (some
    { lost := 2, die := 3, block := 1, step := some 1 })), { lost := 2, die := 3, block := 1, step := some 1 }, by decide +kernel⟩,
  ⟨0, 0, (stripeAt (rebuilding (some { lost := 2, die := 3, block := 1, step := some 1 })) 0 0).getD
    { stream := 0, members := [], ppos := 0 }, rebuilding (some { lost := 2, die := 3, block := 1, step := some 1 }),
    { lost := 2, die := 3, block := 1, step := some 1 }, by decide +kernel⟩,
  ⟨0, 0, (stripeAt (rebuilding (some { lost := 2, die := 3, block := 1, step := none, given := 2 })) 0 0).getD
    { stream := 0, members := [], ppos := 0 }, rebuilding (some { lost := 2, die := 3, block := 1, step := none, given := 2 }),
    { lost := 2, die := 3, block := 1, step := none, given := 2 }, by decide +kernel⟩,
  ⟨0, 0, (stripeAt (rebuilding (some { lost := 2, die := 3, block := 1, step := none })) 0 0).getD
    { stream := 0, members := [], ppos := 0 }, rebuilding (some { lost := 2, die := 3, block := 1, step := none }),
    { lost := 2, die := 3, block := 1, step := none }, by decide +kernel⟩,
  ⟨0, 0, (stripeAt (surveyed { lost := 0, die := 3, block := 1, step := none }) 0 0).getD { stream := 0, members := [], ppos := 0 },
    surveyed { lost := 0, die := 3, block := 1, step := none }, { lost := 0, die := 3, block := 1, step := none }, by decide +kernel⟩,
  ⟨0, 0, (stripeAt (surveyed { lost := 2, die := 3, block := 1, step := none }) 0 0).getD { stream := 0, members := [], ppos := 0 },
    surveyed { lost := 2, die := 3, block := 1, step := none }, { lost := 2, die := 3, block := 1, step := none }, by decide +kernel⟩,
  ⟨0, 0, (stripeAt (surveyed { lost := 2, die := 3, block := 1, step := none }) 0 0).getD { stream := 0, members := [], ppos := 0 },
    surveyed { lost := 2, die := 3, block := 1, step := none }, { lost := 2, die := 3, block := 1, step := none }, by decide +kernel⟩,
  ⟨0, 0, (stripeAt (surveyed { lost := 2, die := 3, block := 1, step := none } [16]) 0 0).getD { stream := 0, members := [], ppos := 0 },
    surveyed { lost := 2, die := 3, block := 1, step := none } [16], { lost := 2, die := 3, block := 1, step := none }, 0, 16,
    by decide +kernel⟩,
  ⟨0, (let s0 := rebuilding;
    { s0 with dre := { s0.dre with doms := [(0, { w := 3, st := .rebuilding, rdie := 2, lost := 1, lostCw := [2 ^ 28 + 16] })] } }),
    by decide +kernel⟩,
  ⟨0, (let s0 := rebuilding;
    { s0 with dre := { s0.dre with doms := [(0, { w := 3, st := .rebuilding, rdie := 2, lost := 1, lostCw := [2 ^ 28 + 16] })] }, fte := { s0.fte with dir := [(pageKey 1 0, 2 ^ 27 + 20)] } }),
    by decide +kernel⟩,
  ⟨0, rebuilding, by decide +kernel⟩,
  ⟨0, (tget (ioAt [mirCmd true]).nvq.tags 0).getD tg0, ioAt [mirCmd true], by decide +kernel⟩,
  ⟨0, (tget (ioAt [mirCmd false]).nvq.tags 0).getD tg0, ioAt [mirCmd false], by decide +kernel⟩,
  ⟨0, (tget ({ ioAt [mirCmd true] with dre := { lost := true } }).nvq.tags 0).getD tg0,
    { ioAt [mirCmd true] with dre := { lost := true } }, by decide +kernel⟩,
  ⟨0, (tget (ioAt [mirCmd true]).nvq.tags 0).getD tg0, ioAt [mirCmd true], by decide +kernel⟩,
  ⟨1, 0, { ioAt [] with dre := { active := [granKey 1 0] } }, by decide +kernel⟩,
  ⟨1, 0, ioAt [], by decide +kernel⟩,
  ⟨1, 0, (tget (mirrored { partner := 5 } [granKey 1 0, granKey 1 1]).dre.pairs 1).getD { partner := 0 }, mirrored { partner := 5 }
    [granKey 1 0, granKey 1 1], by decide +kernel⟩,
  ⟨1, 0, (tget (mirrored { partner := 5 } [granKey 1 0, granKey 2 1]).dre.pairs 1).getD { partner := 0 }, mirrored { partner := 5 }
    [granKey 1 0, granKey 2 1], by decide +kernel⟩,
  ⟨1, 0, (tget (mirrored { partner := 5 } [granKey 1 0]).dre.pairs 1).getD { partner := 0 }, mirrored { partner := 5 } [granKey 1 0],
    by decide +kernel⟩,
  ⟨1, 0, (tget (mirrored { partner := 5 } [granKey 1 0]).dre.pairs 1).getD { partner := 0 }, mirrored { partner := 5 } [granKey 1 0],
    by decide +kernel⟩⟩

theorem test_met_DieRedundancy_2 :
    (∃ (src : Nat) (s : State) (r : CamReq), Accepted src 0x0500 s r) ∧
    (∃ (src : Nat) (s : State) (r : CamReq), Accepted src 0x0501 s r) ∧
    (∃ (src : Nat) (s : State) (r : CamReq), let w := rqW r 2; ∃ p, Accepted src 0x0502 s r ∧ w = BitVec.ofNat 32 p ∧ p < 4) ∧
    (∃ (src : Nat) (s : State) (r : CamReq), let d := rqTgt r; let w := rqW r 2; Accepted src 0x0503 s r ∧ w &&& 0xFFFFFFFE = 0 ∧ dieOk s
      d = true ∧ (s.fch.dies.map (·.1)).Nodup ∧ domSt s (dieDom d) = .inService ∧ domW s (dieDom d) < (domDies s (dieDom d)).length ∧
      sanOpen s = false) ∧
    (∃ (src : Nat) (s : State) (r : CamReq), let d := rqTgt r; let w := rqW r 2; Accepted src 0x0503 s r ∧ w = 0 ∧ dieOk s d = true ∧
      retireOff s d = true) ∧
    (∃ (src : Nat) (s : State) (r : CamReq), let d := rqTgt r; let w := rqW r 2; Accepted src 0x0503 s r ∧ w &&& 0xFFFFFFFE = 0 ∧ dieOk s
      d = false) ∧
    (∃ (src : Nat) (s : State) (r : CamReq), let d := rqTgt r; let w := rqW r 2; ∃ x, Accepted src 0x0504 s r ∧ stripeAt s d w.toNat =
      some x) ∧
    (∃ (src : Nat) (s : State) (r : CamReq), let d := rqTgt r; let w := rqW r 2; Accepted src 0x0504 s r ∧ stripeAt s d w.toNat = none) ∧
    (∃ (src : Nat) (s : State) (r : CamReq), let d := rqTgt r; let w := rqW r 2; ∃ h n, Accepted src 0x0505 s r ∧ w &&& 0x7FFFF800 = 0 ∧
      bitOf w 31 = true ∧ twinUp s = true ∧ nsAt s d = some n ∧ s.dre.pairs.length < 64 ∧ tget s.dre.pairs d = none ∧ pickHandle s = some
      h) ∧
    (∃ (src : Nat) (s : State) (r : CamReq), let w := rqW r 2; Accepted src 0x0505 s r ∧ w &&& 0x7FFFF800 = 0 ∧ bitOf w 31 = true ∧
      twinUp s = false) ∧
    (∃ (src : Nat) (s : State) (r : CamReq), let w := rqW r 2; Accepted src 0x0505 s r ∧ w &&& 0x7FFFF800 = 0 ∧ bitOf w 31 = true ∧
      twinUp s = true) ∧
    (∃ (src : Nat) (s : State) (r : CamReq), let d := rqTgt r; let w := rqW r 2; ∃ p, Accepted src 0x0505 s r ∧ w &&& 0x7FFFF800 = 0 ∧
      bitOf w 31 = false ∧ tget s.dre.pairs d = some p ∧ p.op = none) ∧
    (∃ (src : Nat) (s : State) (r : CamReq), let d := rqTgt r; ∃ p, Accepted src 0x0506 s r ∧ tget s.dre.pairs d = some p) ∧
    (∃ (src : Nat) (s : State) (r : CamReq), let d := rqTgt r; Accepted src 0x0506 s r ∧ tget s.dre.pairs d = none) :=
  ⟨⟨0, ask 0 0x0500 0xFFFF [] w0, qreq (ask 0 0x0500 0xFFFF [] w0) 0, accepted_of (by decide +kernel)⟩,
  ⟨0, ask 0 0x0501 0 [] rebuilding, qreq (ask 0 0x0501 0 [] rebuilding) 0, accepted_of (by decide +kernel)⟩,
  ⟨0, ask 0 0x0502 0xFFFF [3] w0, qreq (ask 0 0x0502 0xFFFF [3] w0) 0, 3, accepted_of (by decide +kernel), by decide +kernel⟩,
  ⟨0, ask 0 0x0503 2 [0] (onFch (fun f => { f with dies := f.dies ++ [(3, { present := true })] }) (flash [])), qreq (ask 0 0x0503 2 [0]
    (onFch (fun f => { f with dies := f.dies ++ [(3, { present := true })] }) (flash []))) 0, accepted_of (by decide +kernel),
    by decide +kernel⟩,
  ⟨0, ask 0 0x0503 2 [0] (flash []), qreq (ask 0 0x0503 2 [0] (flash [])) 0, accepted_of (by decide +kernel), by decide +kernel⟩,
  ⟨0, ask 0 0x0503 2 [1] rebuilding, qreq (ask 0 0x0503 2 [1] rebuilding) 0, accepted_of (by decide +kernel), by decide +kernel⟩,
  ⟨0, ask 0 0x0504 0 [0] rebuilding, qreq (ask 0 0x0504 0 [0] rebuilding) 0,
    { stream := 0, members := [(0, 2), (1, 2), (2, 2)], ppos := 0, st := .closed }, accepted_of (by decide +kernel), by decide +kernel⟩,
  ⟨0, ask 0 0x0504 0 [1] rebuilding, qreq (ask 0 0x0504 0 [1] rebuilding) 0, accepted_of (by decide +kernel), by decide +kernel⟩,
  ⟨0, ask 0 0x0505 1 [0x80000400] { ioAt [] with hpc := { twin := 4 } }, qreq (ask 0 0x0505 1 [0x80000400]
    { ioAt [] with hpc := { twin := 4 } }) 0, 0, ns1, accepted_of (by decide +kernel), by decide +kernel⟩,
  ⟨0, ask 0 0x0505 1 [0x80000400] (ioAt []), qreq (ask 0 0x0505 1 [0x80000400] (ioAt [])) 0, accepted_of (by decide +kernel),
    by decide +kernel⟩,
  ⟨0, ask 0 0x0505 1 [0x80000400] { ioAt [] with hpc := { twin := 4 } }, qreq (ask 0 0x0505 1 [0x80000400]
    { ioAt [] with hpc := { twin := 4 } }) 0, accepted_of (by decide +kernel), by decide +kernel⟩,
  ⟨0, ask 0 0x0505 1 [5] (mirrored { partner := 5 } [granKey 1 0]), qreq (ask 0 0x0505 1 [5] (mirrored { partner := 5 } [granKey 1 0]))
    0, { partner := 5 }, accepted_of (by decide +kernel), by decide +kernel⟩,
  ⟨0, ask 0 0x0506 1 [] (mirrored { partner := 5 } [granKey 1 0]), qreq (ask 0 0x0506 1 [] (mirrored { partner := 5 } [granKey 1 0])) 0,
    { partner := 5 }, accepted_of (by decide +kernel), by decide +kernel⟩,
  ⟨0, ask 0 0x0506 2 [] (mirrored { partner := 5 } [granKey 1 0]), qreq (ask 0 0x0506 2 [] (mirrored { partner := 5 } [granKey 1 0])) 0,
    accepted_of (by decide +kernel), by decide +kernel⟩⟩

/-! `Obligations.Cistern` -/

theorem test_met_Cistern :
    (∃ (s : State), s.sys.mode.serving = true ∧ seqUp s 8 = true ∧ s.cst.due = []) ∧
    (∃ (s : State), s.sys.mode.serving = true ∧ seqUp s 8 = true) ∧
    (∃ (s : State), (s.sys.mode.serving = false ∨ seqUp s 8 = false)) ∧
    (∃ (src : Nat) (s : State) (r : CamReq), Accepted src 0x0600 s r) ∧
    (∃ (src : Nat) (s : State) (r : CamReq), Accepted src 0x0601 s r ∧ bytesOk r 32 = none) ∧
    (∃ (src : Nat) (s : State) (r : CamReq), ∃ h, Accepted src 0x0602 s r ∧ s.cst.ckptBusy = false ∧ pickHandle s = some h) ∧
    (∃ (src : Nat) (s : State) (r : CamReq), Accepted src 0x0602 s r ∧ s.cst.ckptBusy = true) ∧
    (∃ (src : Nat) (s : State) (r : CamReq), let d := rqTgt r; ∃ h, Accepted src 0x0603 s r ∧ (bankAt s d).st = .failed ∧ (bankAt s (1 -
      d)).st = .inService ∧ pickHandle s = some h) ∧
    (∃ (src : Nat) (s : State) (r : CamReq), let d := rqTgt r; Accepted src 0x0603 s r ∧ (bankAt s d).st ≠ .failed) ∧
    (∃ (src : Nat) (s : State) (r : CamReq), let d := rqTgt r; Accepted src 0x0603 s r ∧ (bankAt s d).st = .failed ∧ (bankAt s (1 -
      d)).st ≠ .inService) :=
  ⟨⟨(let s0 := flash [];
    { s0 with cst := { log := [{ kind := .map, ns := 1, key := 5 }, { kind := .block, key := 5, seq := 1 }], logSeq := 2, wr := 2 } }),
    by decide +kernel⟩,
  ⟨w0, by decide +kernel⟩,
  ⟨{ w0 with sys := { mode := .holdup } }, by decide +kernel⟩,
  ⟨0, ask 0 0x0600 0xFFFF [] w0, qreq (ask 0 0x0600 0xFFFF [] w0) 0, accepted_of (by decide +kernel)⟩,
  ⟨0, ask 0 0x0601 0xFFFF [0x00003F00, 64, 5, 0]
    { w0 with cam := { flags := [(16128, 0x80000000)] }, cst := { events := [{ seq := 4, time := 0, est := false, code := 1, old := 0, new := 0, cause := 0 }, { seq := 5, time := 0, est := false, code := 2, old := 0, new := 0, cause := 0 }], evSeq := 6 } }
    0x04000000, qreq (ask 0 0x0601 0xFFFF [0x00003F00, 64, 5, 0]
    { w0 with cam := { flags := [(16128, 0x80000000)] }, cst := { events := [{ seq := 4, time := 0, est := false, code := 1, old := 0, new := 0, cause := 0 }, { seq := 5, time := 0, est := false, code := 2, old := 0, new := 0, cause := 0 }], evSeq := 6 } }
    0x04000000) 0, accepted_of (by decide +kernel), by decide +kernel⟩,
  ⟨0, ask 0 0x0602 0xFFFF [] w0, qreq (ask 0 0x0602 0xFFFF [] w0) 0, 0, accepted_of (by decide +kernel), by decide +kernel⟩,
  ⟨0, ask 0 0x0602 0xFFFF [] { w0 with cst := { ckptBusy := true } }, qreq (ask 0 0x0602 0xFFFF []
    { w0 with cst := { ckptBusy := true } }) 0, accepted_of (by decide +kernel), by decide +kernel⟩,
  ⟨0, ask 0 0x0603 1 [] { w0 with cst := { banks := [(1, { st := .failed })] } }, qreq (ask 0 0x0603 1 []
    { w0 with cst := { banks := [(1, { st := .failed })] } }) 0, 0, accepted_of (by decide +kernel), by decide +kernel⟩,
  ⟨0, ask 0 0x0603 1 [] w0, qreq (ask 0 0x0603 1 [] w0) 0, accepted_of (by decide +kernel), by decide +kernel⟩,
  ⟨0, ask 0 0x0603 0 [] { w0 with cst := { banks := [(0, { st := .failed }), (1, { st := .failed })] } }, qreq (ask 0 0x0603 0 []
    { w0 with cst := { banks := [(0, { st := .failed }), (1, { st := .failed })] } }) 0, accepted_of (by decide +kernel),
    by decide +kernel⟩⟩

/-! `Obligations.MemoryIntegrity` -/

theorem test_met_MemoryIntegrity :
    (∃ (cls : Nat) (s : State), s.sys.mode.serving = true ∧ cls < 5) ∧
    (∃ (cls : Nat) (s : State), ∃ (w : UeWhere), s.sys.mode.serving = true ∧ cls < 5 ∧ w ≠ .corrected ∧ w ≠ .dirEntry ∧ (∀ ns page, w ≠
      .mapCache ns page false) ∧ (∀ die b, w ≠ .blkEntry die b)) ∧
    (∃ (ns : Nat) (iu : Nat) (lba : Nat) (r : WellRec) (s : State), s.sys.mode.serving = true ∧ r ∈ s.fte.idx ∧ r.ns = ns ∧ r.iu = iu ∧
      r.live = true ∧ lba < r.body.data.length) ∧
    (∃ (s : State), s.sys.mode.serving = true) ∧
    (∃ (loc : Nat) (s : State), s.sys.mode.serving = true ∧ bitOf (reg s .mprCfg) 0 = true ∧ s.mpr.soft.length < 64 ∧ (∀ r ∈ s.mpr.soft,
      r.cls = 3 → r.line ≠ loc)) ∧
    (∃ (cls : Nat) (s : State), s.sys.mode.serving = true ∧ cls < 5) ∧
    (∃ (cls : Nat) (s : State), s.sys.mode.serving = true ∧ cls < 5) ∧
    (∃ (mac : Nat) (s : State), s.sys.mode.serving = true ∧ mac < 2) ∧
    (∃ (mac : Nat) (s : State), s.sys.mode.serving = true ∧ mac < 2) ∧
    (∃ (mac : Nat) (s : State), s.sys.mode.serving = true ∧ mac < 2 ∧ (bankAt s mac).st ≠ .failed) ∧
    (∃ (mem : Nat) (word : Nat) (s : State), let m : MergeW := { mem, word }; s.sys.mode.serving = true ∧ m ∈ s.mpr.merges) ∧
    (∃ (mem : Nat) (word : Nat) (s : State), let m : MergeW := { mem, word }; s.sys.mode.serving = true ∧ m ∉ s.mpr.merges ∧
      (s.mpr.merges.filter fun x => x.mem == mem).length < mergeBufs mem) ∧
    (∃ (mem : Nat) (word : Nat) (s : State), let m : MergeW := { mem, word }; s.sys.mode.serving = true ∧ m ∉ s.mpr.merges ∧ mergeBufs
      mem ≤ (s.mpr.merges.filter fun x => x.mem == mem).length) ∧
    (∃ (mem : Nat) (word : Nat) (s : State), let m : MergeW := { mem, word }; s.sys.mode.serving = true ∧ m ∉ s.mpr.merges ∧ mem < 4) ∧
    (∃ (mem : Nat) (b : MergeW) (s : State), s.sys.mode.serving = true ∧ s.mpr.merges.find? (fun x => x.mem == mem) = some b ∧ (∀ x ∈
      s.mpr.mwait, x.mem ≠ mem)) ∧
    (∃ (mem : Nat) (b : MergeW) (s : State), ∃ w, s.sys.mode.serving = true ∧ s.mpr.merges.find? (fun x => x.mem == mem) = some b ∧
      s.mpr.mwait.find? (fun x => x.mem == mem) = some w) ∧
    (∃ (cls : Nat) (s : State), s.sys.mode.serving = true ∧ sanOpen s = false ∧ cls < 7 ∧ seqUp s 11 = true ∧ cls ∈ s.mpr.scrub ∧ tget
      s.mpr.scrubOp cls = none) ∧
    (∃ (cls : Nat) (s : State), ∃ h, s.sys.mode.serving = true ∧ sanOpen s = false ∧ cls < 7 ∧ seqUp s 11 = true ∧ cls ∈ s.mpr.scrub ∧
      tget s.mpr.scrubOp cls = some h) ∧
    (∃ (cls : Nat) (s : State), s.sys.mode.serving = true ∧ sanOpen s = false ∧ cls < 7 ∧ seqUp s 11 = true ∧ bitOf (reg s .mprCfg) 1 =
      false ∧ cls ∉ s.mpr.scrub) ∧
    (∃ (cw : Nat) (s : State), s.sys.mode.serving = true ∧ sanOpen s = false ∧ bitOf (reg s .mprCfg) 1 = true ∧ seqUp s 11 = true ∧ domSt
      s (dieDom (cwDie cw)) = .inService) ∧
    (∃ (ch : Nat) (temp : Int) (s : State), s.sys.mode.serving = true ∧ (drmChAt s ch).up = true ∧ (drmChAt s ch).selfRef = false ∧ orOne
      (rfld s .drmCfg 24 8) < (temp - (drmChAt s ch).trnTemp).natAbs) ∧
    (∃ (ch : Nat) (temp : Int) (s : State), s.sys.mode.serving = true ∧ (drmChAt s ch).up = true ∧ (drmChAt s ch).selfRef = false ∧ (temp
      - (drmChAt s ch).trnTemp).natAbs ≤ orOne (rfld s .drmCfg 24 8)) ∧
    (∃ (src : Nat) (s : State) (r : CamReq), Accepted src 0x0880 s r) ∧
    (∃ (src : Nat) (s : State) (r : CamReq), Accepted src 0x0881 s r) ∧
    (∃ (src : Nat) (s : State) (r : CamReq), Accepted src 0x0882 s r ∧ bytesOk r 8 = none) ∧
    (∃ (src : Nat) (s : State) (r : CamReq), let d := rqTgt r; ∃ h, Accepted src 0x0883 s r ∧ d ∉ s.mpr.scrub ∧ pickHandle s = some h) ∧
    (∃ (src : Nat) (s : State) (r : CamReq), let d := rqTgt r; Accepted src 0x0883 s r ∧ d ∈ s.mpr.scrub) :=
  ⟨⟨4, w0, by decide +kernel⟩,
  ⟨4, w0, .other, by decide +kernel, by decide +kernel, by decide +kernel, by decide +kernel, nofun, nofun⟩,
  ⟨1, 1, 7, rec1, ioAt [] ns1 [rec1], by decide +kernel⟩,
  ⟨w0, by decide +kernel⟩,
  ⟨77, { w0 with regs := [(regA .mprCfg, 3)] }, by decide +kernel⟩,
  ⟨1, w0, by decide +kernel⟩,
  ⟨3, flash [], by decide +kernel⟩,
  ⟨1, w0, by decide +kernel⟩,
  ⟨1, w0, by decide +kernel⟩,
  ⟨1, w0, by decide +kernel⟩,
  ⟨4, 9, mprOf { merges := [{ mem := 4, word := 9 }] }, by decide +kernel⟩,
  ⟨11, 9, w0, by decide +kernel⟩,
  ⟨64, 9, mprOf { merges := (List.range 8).map fun i => { mem := 64, word := 100 + i } }, by decide +kernel⟩,
  ⟨3, 9, w0, by decide +kernel⟩,
  ⟨4, { mem := 4, word := 9 }, mprOf { merges := [{ mem := 4, word := 9 }] }, by decide +kernel⟩,
  ⟨4, { mem := 4, word := 9 }, mprOf
    { merges := [{ mem := 4, word := 9 }], mwait := [{ mem := 5, word := 1 }, { mem := 4, word := 5 }] }, { mem := 4, word := 5 },
    by decide +kernel⟩,
  ⟨6, mprOf { scrub := [6, 2] }, by decide +kernel⟩,
  ⟨0, { mprOf { scrub := [0], scrubOp := [(0, 5)] } with cam := { ops := [(5, { opcode := 0x0883 })] } }, 5, by decide +kernel⟩,
  ⟨0, { w0 with regs := [(regA .mprCfg, 0)] }, by decide +kernel⟩,
  ⟨16, { flash [] with regs := [(regA .mprCfg, 2)] }, by decide +kernel⟩,
  ⟨3, -40, { w0 with drm := { chs := [(3, { up := true, trnTemp := 30 })] } }, by decide +kernel⟩,
  ⟨3, 30, { w0 with drm := { chs := [(3, { up := true, trnTemp := 30 })] } }, by decide +kernel⟩,
  ⟨0, ask 0 0x0880 0xFFFF [] w0, qreq (ask 0 0x0880 0xFFFF [] w0) 0, accepted_of (by decide +kernel)⟩,
  ⟨0, ask 0 0x0881 4 [] w0, qreq (ask 0 0x0881 4 [] w0) 0, accepted_of (by decide +kernel)⟩,
  ⟨0, ask 0 0x0882 0xFFFF [0x00003F00, 8]
    { mprOf { soft := [{ kind := 1, cls := 1, mac := 2, row := 3 }] } with cam := { flags := [(16128, 0x80000000)] } } 0x04000000, qreq
    (ask 0 0x0882 0xFFFF [0x00003F00, 8]
    { mprOf { soft := [{ kind := 1, cls := 1, mac := 2, row := 3 }] } with cam := { flags := [(16128, 0x80000000)] } } 0x04000000) 0,
    accepted_of (by decide +kernel), by decide +kernel⟩,
  ⟨0, ask 0 0x0883 6 [] w0, qreq (ask 0 0x0883 6 [] w0) 0, 0, accepted_of (by decide +kernel), by decide +kernel⟩,
  ⟨0, ask 0 0x0883 6 [] (mprOf { scrub := [6] }), qreq (ask 0 0x0883 6 [] (mprOf { scrub := [6] })) 0, accepted_of (by decide +kernel),
    by decide +kernel⟩⟩

/-! `Obligations.FirmwareAndStore` -/

theorem test_met_FirmwareAndStore_1 :
    (∃ (k : Nat) (t : Tag) (s : State), let ca := fld (cdw t.ent 10) 3 3; AdminRuns k 0x10 s t ∧ (∀ j, s.upd.job = some j → j.tag ≠ some
      k) ∧ 3 < ca) ∧
    (∃ (k : Nat) (t : Tag) (s : State), let fs := fld (cdw t.ent 10) 0 3; let ca := fld (cdw t.ent 10) 3 3; AdminRuns k 0x10 s t ∧ (∀ j,
      s.upd.job = some j → j.tag ≠ some k) ∧ ca ≤ 3 ∧ (2 < fs ∨ (fs = 0 ∧ 2 ≤ ca))) ∧
    (∃ (k : Nat) (img : Image) (t : Tag) (s : State), let fs := fld (cdw t.ent 10) 0 3; let ca := fld (cdw t.ent 10) 3 3;
      let slot := commitSlot s fs ca; ∃ w, AdminRuns k 0x10 s t ∧ (∀ j, s.upd.job = some j → j.tag ≠ some k) ∧ ca ≤ 3 ∧ fs ≤ 2 ∧ (fs ≠ 0
      ∨ ca < 2) ∧ commitRefusal s t.ctrl slot ca img = some w ∧ thas s.nvq.ctrls t.ctrl = true) ∧
    (∃ (k : Nat) (img : Image) (t : Tag) (s : State), let fs := fld (cdw t.ent 10) 0 3; let ca := fld (cdw t.ent 10) 3 3;
      let slot := commitSlot s fs ca; AdminRuns k 0x10 s t ∧ (∀ j, s.upd.job = some j → j.tag ≠ some k) ∧ ca ≤ 3 ∧ fs ≤ 2 ∧ (fs ≠ 0 ∨ ca
      < 2) ∧ commitRefusal s t.ctrl slot ca img = none ∧ ca < 2 ∧ stagedCheck s img = none) ∧
    (∃ (k : Nat) (img : Image) (t : Tag) (s : State), let fs := fld (cdw t.ent 10) 0 3; let ca := fld (cdw t.ent 10) 3 3;
      let slot := commitSlot s fs ca; ∃ sc, AdminRuns k 0x10 s t ∧ (∀ j, s.upd.job = some j → j.tag ≠ some k) ∧ ca ≤ 3 ∧ fs ≤ 2 ∧ (fs ≠ 0
      ∨ ca < 2) ∧ commitRefusal s t.ctrl slot ca img = none ∧ ca < 2 ∧ stagedCheck s img = some sc) ∧
    (∃ (k : Nat) (img : Image) (t : Tag) (s : State), let fs := fld (cdw t.ent 10) 0 3; let ca := fld (cdw t.ent 10) 3 3;
      let slot := commitSlot s fs ca; AdminRuns k 0x10 s t ∧ (∀ j, s.upd.job = some j → j.tag ≠ some k) ∧ ca ≤ 3 ∧ fs ≤ 2 ∧ (fs ≠ 0 ∨ ca
      < 2) ∧ commitRefusal s t.ctrl slot ca img = none ∧ ca = 2) ∧
    (∃ (k : Nat) (img : Image) (t : Tag) (s : State), let fs := fld (cdw t.ent 10) 0 3; let ca := fld (cdw t.ent 10) 3 3;
      let slot := commitSlot s fs ca; let j : UpdJob := { kind := 2, slot, act := 3, tag := some k }; AdminRuns k 0x10 s t ∧ (∀ j,
      s.upd.job = some j → j.tag ≠ some k) ∧ ca ≤ 3 ∧ fs ≤ 2 ∧ (fs ≠ 0 ∨ ca < 2) ∧ commitRefusal s t.ctrl slot ca img = none ∧ ca = 3) ∧
    (∃ (k : Nat) (t : Tag) (s : State), let n := 4 * ((cdw t.ent 10).toNat + 1); let off := 4 * (cdw t.ent 11).toNat; AdminRuns k 0x11 s
      t ∧ n % 4096 = 0 ∧ off % 4096 = 0 ∧ off + n ≤ 24 * 2 ^ 20 ∧ refusal17 s false = none ∧ (s.upd.owner = none ∨ s.upd.owner = some
      t.ctrl)) ∧
    (∃ (k : Nat) (t : Tag) (s : State), let n := 4 * ((cdw t.ent 10).toNat + 1); let off := 4 * (cdw t.ent 11).toNat; ∃ o, AdminRuns k
      0x11 s t ∧ n % 4096 = 0 ∧ off % 4096 = 0 ∧ off + n ≤ 24 * 2 ^ 20 ∧ refusal17 s false = none ∧ s.upd.owner = some o ∧ o ≠ t.ctrl) ∧
    (∃ (k : Nat) (t : Tag) (s : State), let n := 4 * ((cdw t.ent 10).toNat + 1); let off := 4 * (cdw t.ent 11).toNat; ∃ w, AdminRuns k
      0x11 s t ∧ n % 4096 = 0 ∧ off % 4096 = 0 ∧ off + n ≤ 24 * 2 ^ 20 ∧ refusal17 s false = some w) ∧
    (∃ (k : Nat) (t : Tag) (s : State), let n := 4 * ((cdw t.ent 10).toNat + 1); let off := 4 * (cdw t.ent 11).toNat; AdminRuns k 0x11 s
      t ∧ (n % 4096 ≠ 0 ∨ off % 4096 ≠ 0 ∨ 24 * 2 ^ 20 < off + n)) ∧
    (∃ (s : State), s.upd.owner.isSome = true) ∧
    (∃ (s : State), s.upd.owner = none) ∧
    (∃ (j : UpdJob) (i : Image) (s : State), s.upd.job = some j ∧ j.kind = 2 ∧ s.sys.mode.serving = true ∧ seqUp s 10 = true ∧ (∀ p, p <
      12 → (pumpAt s p).busy = false) ∧ (slotAt s j.slot).img = some i ∧ imageOk s i = true) ∧
    (∃ (j : UpdJob) (i : Image) (s : State), s.upd.job = some j ∧ j.kind = 2 ∧ s.sys.mode.serving = true ∧ seqUp s 10 = true ∧ (∀ p, p <
      12 → (pumpAt s p).busy = false) ∧ (slotAt s j.slot).img = some i) ∧
    (∃ (s : State), (s.upd.job = none ∨ s.sys.mode.serving = false ∨ (∃ p, p < 12 ∧ (pumpAt s p).busy = true))) ∧
    (∃ (i : Image) (s : State), s.upd.st = 3 ∧ s.sys.mode.serving = true ∧ (slotAt s s.upd.trial).img = some i ∧ seqUp s 10 = true ∧
      s.upd.switchT + 1000000000 ≤ s.pwr.tb) ∧
    (∃ (key : Word) (s : State), (key ≠ 0xC0F1 ∨ s.upd.st ≠ 3 ∨ s.pwr.tb < s.upd.switchT + 1000000000)) ∧
    (∃ (s : State), s.upd.st = 3 ∧ s.sys.mode.serving = true) ∧
    (∃ (s : State), s.upd.st = 3 ∧ s.sys.mode.serving = true) ∧
    (∃ (s : State), s.upd.st ≠ 3) ∧
    (∃ (s : State), s.upd.st ≠ 3) ∧
    (∃ (s : State), s.sys.mode ≠ .dormant ∧ seqUp s 10 = true ∧ s.whs.op = 2) ∧
    (∃ (s : State), s.sys.mode ≠ .dormant ∧ seqUp s 10 = true ∧ s.whs.op = 1 ∧ 2 ≤ s.whs.progLeft) ∧
    (∃ (s : State), ∃ j, s.sys.mode ≠ .dormant ∧ seqUp s 10 = true ∧ s.whs.op = 1 ∧ s.whs.progLeft = 1 ∧ s.upd.job = some j ∧ j.kind = 0)
      ∧
    (∃ (s : State), ∃ j p, s.sys.mode ≠ .dormant ∧ seqUp s 10 = true ∧ s.whs.op = 1 ∧ s.whs.progLeft = 1 ∧ s.upd.job = some j ∧ j.kind =
      1 ∧ j.prof = some p ∧ profileOk s p = true) ∧
    (∃ (s : State), s.sys.mode ≠ .dormant ∧ seqUp s 10 = true ∧ pulsing s = true) ∧
    (∃ (s : State), s.sys.mode ≠ .dormant ∧ seqUp s 10 = true ∧ pulsing s = false) ∧
    (∃ (s : State), s.sys.mode ≠ .dormant ∧ s.whs.op = 2 ∧ storeWanted s = true ∧ s.whs.susp < rfld s .whsCfg 0 4 ∧ s.whs.runT + 1000000
      ≤ s.pwr.tb) ∧
    (∃ (s : State), s.sys.mode ≠ .dormant ∧ s.whs.op = 2 ∧ storeWanted s = true ∧ (rfld s .whsCfg 0 4 ≤ s.whs.susp ∨ s.pwr.tb <
      s.whs.runT + 1000000)) :=
  ⟨⟨0, (tget (updOf [cmd 0 0 0x10 0 [32]] id).nvq.tags 0).getD tg0, updOf [cmd 0 0 0x10 0 [32]] id, adminRuns_of (by decide +kernel),
    some_of (by decide +kernel), by decide +kernel⟩,
  ⟨0, (tget (updOf [cmd 0 0 0x10 0 [16]] id).nvq.tags 0).getD tg0, updOf [cmd 0 0 0x10 0 [16]] id, adminRuns_of (by decide +kernel),
    some_of (by decide +kernel), by decide +kernel⟩,
  ⟨0, {}, (tget (updOf [cmd 0 0 0x10 0 [1]] id).nvq.tags 0).getD tg0, updOf [cmd 0 0 0x10 0 [1]] id, 8, adminRuns_of (by decide +kernel),
    some_of (by decide +kernel), by decide +kernel⟩,
  ⟨0, {}, (tget (updOf [cmd 0 0 0x10 0 [8]] fun u => { u with owner := some 0, frags := [(0, 4096)] }).nvq.tags 0).getD tg0, updOf [cmd 0
    0 0x10 0 [8]] fun u => { u with owner := some 0, frags := [(0, 4096)] }, adminRuns_of (by decide +kernel), some_of
    (by decide +kernel), by decide +kernel⟩,
  ⟨0, {}, (tget (updOf [cmd 0 0 0x10 0 [8]] fun u => { u with owner := some 0, frags := [(0, 4096), (0, 8192)] }).nvq.tags 0).getD tg0,
    updOf [cmd 0 0 0x10 0 [8]] fun u => { u with owner := some 0, frags := [(0, 4096), (0, 8192)] }, .overlappingRange, adminRuns_of
    (by decide +kernel), some_of (by decide +kernel), by decide +kernel⟩,
  ⟨0, {}, (tget (updOf [cmd 0 0 0x10 0 [18]] id).nvq.tags 0).getD tg0, updOf [cmd 0 0 0x10 0 [18]] id, adminRuns_of (by decide +kernel),
    some_of (by decide +kernel), by decide +kernel⟩,
  ⟨0, {}, (tget (updOf [cmd 0 0 0x10 0 [26]] id).nvq.tags 0).getD tg0, updOf [cmd 0 0 0x10 0 [26]] id, adminRuns_of (by decide +kernel),
    some_of (by decide +kernel), by decide +kernel⟩,
  ⟨0, (tget (updOf [cmd 0 0 0x11 0 [1023, 0x5FFC00]] id).nvq.tags 0).getD tg0, updOf [cmd 0 0 0x11 0 [1023, 0x5FFC00]] id, adminRuns_of
    (by decide +kernel), by decide +kernel⟩,
  ⟨0, (tget (updOf [cmd 0 0 0x11 0 [1023, 0]] fun u => { u with owner := some 2008, frags := [(0, 4096)] }).nvq.tags 0).getD tg0, updOf
    [cmd 0 0 0x11 0 [1023, 0]] fun u => { u with owner := some 2008, frags := [(0, 4096)] }, 2008, adminRuns_of (by decide +kernel),
    by decide +kernel⟩,
  ⟨0, (tget (updOf [cmd 0 0 0x11 0 [1023, 0]] fun u => { u with st := 3 }).nvq.tags 0).getD tg0, updOf [cmd 0 0 0x11 0 [1023, 0]] fun u
    => { u with st := 3 }, 6, adminRuns_of (by decide +kernel), by decide +kernel⟩,
  ⟨0, (tget (updOf [cmd 0 0 0x11 0 [1022, 0]] id).nvq.tags 0).getD tg0, updOf [cmd 0 0 0x11 0 [1022, 0]] id, adminRuns_of
    (by decide +kernel), by decide +kernel⟩,
  ⟨updOf [] fun u => { u with owner := some 0, frags := [(0, 4096)] }, by decide +kernel⟩,
  ⟨w0, by decide +kernel⟩,
  ⟨{ kind := 2, slot := 2, act := 3, tag := some 0 }, {}, updOf [cmd 0 0 0x10 0 [0]] fun u =>
    { u with st := 2, job := some { kind := 2, slot := 2, act := 3, tag := some 0 } }, by decide +kernel⟩,
  ⟨{ kind := 2, slot := 2, act := 3, tag := some 0 }, {}, updOf [cmd 0 0 0x10 0 [0]] fun u =>
    { u with st := 2, job := some { kind := 2, slot := 2, act := 3, tag := some 0 } }, by decide +kernel⟩,
  ⟨w0, by decide +kernel⟩,
  ⟨{}, trialOf, by decide +kernel⟩,
  ⟨0xC0F0, trialOf, by decide +kernel⟩,
  ⟨trialOf, by decide +kernel⟩,
  ⟨trialOf, by decide +kernel⟩,
  ⟨w0, by decide +kernel⟩,
  ⟨w0, by decide +kernel⟩,
  ⟨jobOf { op := 2, block := 100, eraseLeft := 96, progLeft := 3 }, by decide +kernel⟩,
  ⟨jobOf { op := 1, block := 100, progLeft := 2 }, by decide +kernel⟩,
  ⟨jobOf { op := 1, block := 100, progLeft := 1 }, { kind := 0, slot := 2, act := 1, img := some {}, tag := some 0 }, by decide +kernel⟩,
  ⟨jobOf { op := 1, block := 212, progLeft := 1 } 1 none (some { q := 3, qSlc := 3, tokens := [], slcSteps := 8 }),
    { kind := 1, slot := 4, act := 1, img := some {}, prof := some { q := 3, qSlc := 3, tokens := [], slcSteps := 8 } },
    { q := 3, qSlc := 3, tokens := [], slcSteps := 8 }, by decide +kernel⟩,
  ⟨jobOf { op := 1, block := 100, progLeft := 1 }, by decide +kernel⟩,
  ⟨w0, by decide +kernel⟩,
  ⟨{ w0 with regs := [(regA .whsCfg, 1)], pwr := { tb := 1000000 }, whs := { op := 2, readWait := [0] } }, by decide +kernel⟩,
  ⟨{ w0 with regs := [(regA .whsCfg, 1)], whs := { op := 2, readWait := [0], susp := 1 } }, by decide +kernel⟩⟩

theorem test_met_FirmwareAndStore_2 :
    (∃ (s : State), s.whs.op = 3 ∧ pulseHeld s = false ∧ (storeWanted s = false ∨ s.whs.suspT + 20000000 ≤ s.pwr.tb)) ∧
    (∃ (s : State), (s.whs.op ≠ 3 ∨ (storeWanted s = true ∧ s.pwr.tb < s.whs.suspT + 20000000))) ∧
    (∃ (a : Nat) (s : State), execOnly s a = true ∧ s.sys.mode ≠ .dormant) ∧
    (∃ (a : Nat) (s : State), execOnly s a = false) ∧
    (∃ (s : State), s.whs.brown = false ∧ s.sys.mode ≠ .dormant) ∧
    (∃ (s : State), s.whs.brown = true ∧ s.sys.mode ≠ .dormant ∧ s.upd.job = none) ∧
    (∃ (s : State), ∃ j, s.whs.brown = true ∧ s.sys.mode ≠ .dormant ∧ s.sys.mode ≠ .holdup ∧ s.upd.job = some j ∧ s.whs.op = 0 ∧ 0 <
      s.whs.eraseLeft ∧ shadowOnly s = false) ∧
    (∃ (s : State), s.whs.brown = false) :=
  ⟨⟨{ w0 with pwr := { tb := 20000007 }, whs := { op := 3, readWait := [0], suspT := 7 } }, by decide +kernel⟩,
  ⟨w0, by decide +kernel⟩,
  ⟨262144, { w0 with whs := {} }, by decide +kernel⟩,
  ⟨67108863, w0, by decide +kernel⟩,
  ⟨{ w0 with whs := { op := 2 } }, by decide +kernel⟩,
  ⟨{ w0 with whs := { brown := true } }, by decide +kernel⟩,
  ⟨jobOf { brown := true, eraseLeft := 5, progLeft := 3 }, { kind := 0, slot := 2, act := 1, img := some {}, tag := some 0 },
    by decide +kernel⟩,
  ⟨w0, by decide +kernel⟩⟩

/-! `Obligations.UpdateOpcodes` -/

theorem test_met_UpdateOpcodes :
    (∃ (src : Nat) (s : State) (r : CamReq), Accepted src 0x0200 s r) ∧
    (∃ (src : Nat) (s : State) (r : CamReq), let d := rqTgt r; ∃ h, Accepted src 0x0201 s r ∧ dscBytes r ≤ 4 * 2 ^ 20 ∧ refusal17 s true
      = none ∧ d + 1 ≠ s.upd.actPrf ∧ pickHandle s = some h) ∧
    (∃ (src : Nat) (s : State) (r : CamReq), ∃ x, Accepted src 0x0201 s r ∧ dscBytes r ≤ 4 * 2 ^ 20 ∧ refusal17 s true = some x) ∧
    (∃ (src : Nat) (s : State) (r : CamReq), let d := rqTgt r; Accepted src 0x0201 s r ∧ dscBytes r ≤ 4 * 2 ^ 20 ∧ refusal17 s true =
      none ∧ d + 1 = s.upd.actPrf) ∧
    (∃ (src : Nat) (s : State) (r : CamReq), let d := rqTgt r; Accepted src 0x0202 s r ∧ s.sys.mode ≠ .boot ∧ (slotAt s (3 + d)).st = 2)
      ∧
    (∃ (src : Nat) (s : State) (r : CamReq), let d := rqTgt r; Accepted src 0x0202 s r ∧ s.sys.mode = .boot ∧ s.sys.hold = true ∧
      (s.sys.holdWhy = 1 ∨ s.sys.holdWhy = 2) ∧ (slotAt s (3 + d)).st = 2 ∧ prfBoots s (1 + d) = true) ∧
    (∃ (src : Nat) (s : State) (r : CamReq), let d := rqTgt r; Accepted src 0x0202 s r ∧ (slotAt s (3 + d)).st ≠ 2) ∧
    (∃ (src : Nat) (s : State) (r : CamReq), Accepted src 0x0A00 s r) ∧
    (∃ (src : Nat) (s : State) (r : CamReq), let off := 4096 * fld (rqW r 4) 0 13; Accepted src 0x0A01 s r ∧ refusal17 s false = none ∧
      (s.upd.owner = none ∨ s.upd.owner = some (camOwner src)) ∧ off + dscBytes r ≤ 24 * 2 ^ 20 ∧ (∀ f ∈ s.upd.frags, spansMeet (off,
      dscBytes r) f = false)) ∧
    (∃ (src : Nat) (s : State) (r : CamReq), ∃ x, Accepted src 0x0A01 s r ∧ refusal17 s false = some x) ∧
    (∃ (src : Nat) (s : State) (r : CamReq), ∃ o, Accepted src 0x0A01 s r ∧ refusal17 s false = none ∧ s.upd.owner = some o ∧ o ≠
      camOwner src) ∧
    (∃ (src : Nat) (s : State) (r : CamReq), let d := rqTgt r; let w := rqW r 2; ∃ ca img x, Accepted src 0x0A0A s r ∧ ca = fld w 0 3 ∧
      ca ≤ 3 ∧ (d ≠ 0 ∨ ca < 2) ∧ commitRefusal s (camOwner src) (commitSlot s d ca) ca img = some x) ∧
    (∃ (src : Nat) (s : State) (r : CamReq), let d := rqTgt r; let w := rqW r 2; ∃ h ca img, Accepted src 0x0A0A s r ∧ ca = fld w 0 3 ∧
      (d ≠ 0 ∨ ca < 2) ∧ pickHandle s = some h ∧ commitRefusal s (camOwner src) (commitSlot s d ca) ca img = none ∧ ca < 2 ∧ stagedCheck
      s img = none) ∧
    (∃ (src : Nat) (s : State) (r : CamReq), let d := rqTgt r; let w := rqW r 2; ∃ h ca img, Accepted src 0x0A0A s r ∧ ca = fld w 0 3 ∧
      (d ≠ 0 ∨ ca < 2) ∧ pickHandle s = some h ∧ commitRefusal s (camOwner src) (commitSlot s d ca) ca img = none ∧ ca < 2 ∧ (stagedCheck
      s img).isSome = true) ∧
    (∃ (src : Nat) (s : State) (r : CamReq), let d := rqTgt r; let w := rqW r 2; ∃ h ca img, Accepted src 0x0A0A s r ∧ ca = fld w 0 3 ∧
      (d ≠ 0 ∨ ca < 2) ∧ pickHandle s = some h ∧ commitRefusal s (camOwner src) (commitSlot s d ca) ca img = none ∧ ca = 2) ∧
    (∃ (src : Nat) (s : State) (r : CamReq), let d := rqTgt r; let w := rqW r 2; ∃ h ca img, Accepted src 0x0A0A s r ∧ ca = fld w 0 3 ∧
      (d ≠ 0 ∨ ca < 2) ∧ pickHandle s = some h ∧ commitRefusal s (camOwner src) (commitSlot s d ca) ca img = none ∧ ca = 3) ∧
    (∃ (src : Nat) (s : State) (r : CamReq), Accepted src 0x0A0B s r ∧ (s.upd.owner = none ∨ s.upd.owner = some (camOwner src))) ∧
    (∃ (src : Nat) (s : State) (r : CamReq), ∃ o, Accepted src 0x0A0B s r ∧ s.upd.owner = some o ∧ o ≠ camOwner src) ∧
    (∃ (src : Nat) (s : State) (r : CamReq), let d := rqTgt r; ∃ i, Accepted src 0x0A0C s r ∧ (slotAt s d).img = some i) ∧
    (∃ (src : Nat) (s : State) (r : CamReq), Accepted src 0x0A0D s r ∧ pulsing s = false ∧ fld (rqW r 4) 0 26 + dscBytes r ≤ 2 ^ 26 ∧ (∀
      a ∈ upFrom (fld (rqW r 4) 0 26) (dscBytes r), execOnly s a = false)) ∧
    (∃ (src : Nat) (s : State) (r : CamReq), Accepted src 0x0A0D s r ∧ pulsing s = false ∧ fld (rqW r 4) 0 26 + dscBytes r ≤ 2 ^ 26 ∧ (∃
      a ∈ upFrom (fld (rqW r 4) 0 26) (dscBytes r), execOnly s a = true)) ∧
    (∃ (src : Nat) (s : State) (r : CamReq), Accepted src 0x0A0D s r ∧ pulsing s = true ∧ src ∉ s.whs.readWait) ∧
    (∃ (src : Nat) (s : State) (r : CamReq), Accepted src 0x0A0D s r ∧ pulsing s = true ∧ src ∈ s.whs.readWait) ∧
    (∃ (s : State), pulsing s = false) :=
  ⟨⟨0, ask 0 0x0200 1 [] (updOf [] id), qreq (ask 0 0x0200 1 [] (updOf [] id)) 0, accepted_of (by decide +kernel)⟩,
  ⟨0, ask 0 0x0201 1 [0x00003F00, 4096] (slot4k (updOf [] id)) 0x04000000, qreq (ask 0 0x0201 1 [0x00003F00, 4096] (slot4k (updOf [] id))
    0x04000000) 0, 0, accepted_of (by decide +kernel), by decide +kernel⟩,
  ⟨0, ask 0 0x0201 1 [0x00003F00, 4096] (slot4k w0) 0x04000000, qreq (ask 0 0x0201 1 [0x00003F00, 4096] (slot4k w0) 0x04000000) 0, 4,
    accepted_of (by decide +kernel), by decide +kernel⟩,
  ⟨0, ask 0 0x0201 0 [0x00003F00, 4096] (slot4k (updOf [] fun u => { u with actPrf := 1 })) 0x04000000, qreq (ask 0 0x0201 0 [0x00003F00,
    4096] (slot4k (updOf [] fun u => { u with actPrf := 1 })) 0x04000000) 0, accepted_of (by decide +kernel), by decide +kernel⟩,
  ⟨0, ask 0 0x0202 1 [] (updOf [] id), qreq (ask 0 0x0202 1 [] (updOf [] id)) 0, accepted_of (by decide +kernel), by decide +kernel⟩,
  ⟨8, ask 8 0x0202 1 [] { updOf [] id with sys := { hold := true, holdWhy := 2, step := 3 } }, qreq (ask 8 0x0202 1 []
    { updOf [] id with sys := { hold := true, holdWhy := 2, step := 3 } }) 8, accepted_of (by decide +kernel), by decide +kernel⟩,
  ⟨0, ask 0 0x0202 1 [] w0, qreq (ask 0 0x0202 1 [] w0) 0, accepted_of (by decide +kernel), by decide +kernel⟩,
  ⟨0, ask 0 0x0A00 0xFFFF [] w0, qreq (ask 0 0x0A00 0xFFFF [] w0) 0, accepted_of (by decide +kernel)⟩,
  ⟨0, ask 0 0x0A01 0xFFFF [0x00003F00, 4096, 0x17FF, 0] (slot4k (updOf [] id)) 0x04000000, qreq (ask 0 0x0A01 0xFFFF [0x00003F00, 4096,
    0x17FF, 0] (slot4k (updOf [] id)) 0x04000000) 0, accepted_of (by decide +kernel), by decide +kernel⟩,
  ⟨0, ask 0 0x0A01 0xFFFF [0x00003F00, 4096, 0x17FF, 0] (slot4k (updOf [] fun u => { u with st := 3 })) 0x04000000, qreq (ask 0 0x0A01
    0xFFFF [0x00003F00, 4096, 0x17FF, 0] (slot4k (updOf [] fun u => { u with st := 3 })) 0x04000000) 0, 6, accepted_of
    (by decide +kernel), by decide +kernel⟩,
  ⟨0, ask 0 0x0A01 0xFFFF [0x00003F00, 4096, 0x17FF, 0] (slot4k (updOf [] fun u => { u with owner := some 0 })) 0x04000000, qreq (ask 0
    0x0A01 0xFFFF [0x00003F00, 4096, 0x17FF, 0] (slot4k (updOf [] fun u => { u with owner := some 0 })) 0x04000000) 0, 0, accepted_of
    (by decide +kernel), by decide +kernel⟩,
  ⟨0, ask 0 0x0A0A 1 [3] (updOf [] id), qreq (ask 0 0x0A0A 1 [3] (updOf [] id)) 0, 3, {}, 8, accepted_of (by decide +kernel),
    by decide +kernel⟩,
  ⟨0, ask 0 0x0A0A 0 [1] (updOf [] fun u => { u with owner := some 2000, frags := [(0, 4096)] }), qreq (ask 0 0x0A0A 0 [1] (updOf [] fun
    u => { u with owner := some 2000, frags := [(0, 4096)] })) 0, 0, 1, {}, accepted_of (by decide +kernel), by decide +kernel⟩,
  ⟨0, ask 0 0x0A0A 0 [1] (updOf [] fun u => { u with owner := some 2000, frags := [(4096, 4096)] }), qreq (ask 0 0x0A0A 0 [1] (updOf []
    fun u => { u with owner := some 2000, frags := [(4096, 4096)] })) 0, 0, 1, {}, accepted_of (by decide +kernel), by decide +kernel⟩,
  ⟨0, ask 0 0x0A0A 2 [2] (updOf [] id), qreq (ask 0 0x0A0A 2 [2] (updOf [] id)) 0, 0, 2, {}, accepted_of (by decide +kernel),
    by decide +kernel⟩,
  ⟨0, ask 0 0x0A0A 2 [3] (updOf [] id), qreq (ask 0 0x0A0A 2 [3] (updOf [] id)) 0, 0, 3, {}, accepted_of (by decide +kernel),
    by decide +kernel⟩,
  ⟨0, ask 0 0x0A0B 0xFFFF [] (updOf [] fun u => { u with owner := some 2000, frags := [(0, 4096)] }), qreq (ask 0 0x0A0B 0xFFFF [] (updOf
    [] fun u => { u with owner := some 2000, frags := [(0, 4096)] })) 0, accepted_of (by decide +kernel), by decide +kernel⟩,
  ⟨0, ask 0 0x0A0B 0xFFFF [] (updOf [] fun u => { u with owner := some 0, frags := [(0, 4096)] }), qreq (ask 0 0x0A0B 0xFFFF [] (updOf []
    fun u => { u with owner := some 0, frags := [(0, 4096)] })) 0, 0, accepted_of (by decide +kernel), by decide +kernel⟩,
  ⟨0, ask 0 0x0A0C 2 [] (updOf [] id), qreq (ask 0 0x0A0C 2 [] (updOf [] id)) 0, {}, accepted_of (by decide +kernel), by decide +kernel⟩,
  ⟨0, ask 0 0x0A0D 0xFFFF [0x00003F00, 4, 0x03FFFFFC] (slot0 w0) 0x04000000, qreq (ask 0 0x0A0D 0xFFFF [0x00003F00, 4, 0x03FFFFFC] (slot0
    w0) 0x04000000) 0, accepted_of (by decide +kernel), by decide +kernel⟩,
  ⟨0, ask 0 0x0A0D 0xFFFF [0x00003F00, 4, 0x000FFFFE] (slot0 w0) 0x04000000, qreq (ask 0 0x0A0D 0xFFFF [0x00003F00, 4, 0x000FFFFE] (slot0
    w0) 0x04000000) 0, accepted_of (by decide +kernel), by decide +kernel⟩,
  ⟨0, ask 0 0x0A0D 0xFFFF [0x00003F00, 4, 0x03FFFFFC] (slot0 { w0 with whs := { op := 2 } }) 0x04000000, qreq (ask 0 0x0A0D 0xFFFF
    [0x00003F00, 4, 0x03FFFFFC] (slot0 { w0 with whs := { op := 2 } }) 0x04000000) 0, accepted_of (by decide +kernel),
    by decide +kernel⟩,
  ⟨0, ask 0 0x0A0D 0xFFFF [0x00003F00, 4, 0x03FFFFFC] (slot0 { w0 with whs := { op := 2, readWait := [0] } }) 0x04000000, qreq (ask 0
    0x0A0D 0xFFFF [0x00003F00, 4, 0x03FFFFFC] (slot0 { w0 with whs := { op := 2, readWait := [0] } }) 0x04000000) 0, accepted_of
    (by decide +kernel), by decide +kernel⟩,
  ⟨w0, by decide +kernel⟩⟩

/-! `Obligations.SecurityAndSanitize` -/

theorem test_met_SecurityAndSanitize_1 :
    (∃ (s : State), s.sys.mode.serving = true) ∧
    (∃ (s : State), s.sys.mode.serving = true ∧ s.sec.entWait = false) ∧
    (∃ (s : State), s.sys.mode.serving = true ∧ s.sec.entWait = true) ∧
    (∃ (ns : Nat) (s : State), s.sys.mode.serving = true ∧ (nsAt s ns).isSome = true) ∧
    (∃ (ns : Nat) (s : State), s.sys.mode.serving = true ∧ (nsAt s ns).isSome = false) ∧
    (∃ (bus : Nat) (s : State), bus < 4 ∧ s.sys.mode.serving = true ∧ isPr s bus = false ∧ linkOf s bus = bus ∧ (portAt s bus).up = true
      ∧ seqUp s 10 = true) ∧
    (∃ (bus : Nat) (s : State), bus < 4 ∧ s.sys.mode.serving = true ∧ isPr s bus = false ∧ linkOf s bus = bus ∧ (portAt s bus).up = true
      ∧ seqUp s 10 = true) ∧
    (∃ (bus : Nat) (s : State), bus < 4 ∧ s.sys.mode.serving = true ∧ isPr s bus = false ∧ linkOf s bus = bus ∧ (portAt s bus).up = true
      ∧ seqUp s 10 = true) ∧
    (∃ (bus : Nat) (s : State), bus < 4 ∧ s.sys.mode.serving = true ∧ isPr s bus = false ∧ linkOf s bus = bus ∧ (portAt s bus).up = true
      ∧ seqUp s 10 = true ∧ s.sec.entropyOk = true ∧ s.sec.sessions < 8) ∧
    (∃ (bus : Nat) (s : State), bus < 4 ∧ s.sys.mode.serving = true ∧ isPr s bus = false ∧ linkOf s bus = bus ∧ (portAt s bus).up = true
      ∧ seqUp s 10 = true ∧ s.sec.entropyOk = true ∧ 8 ≤ s.sec.sessions) ∧
    (∃ (bus : Nat) (s : State), bus < 4 ∧ s.sys.mode.serving = true ∧ isPr s bus = false ∧ linkOf s bus = bus ∧ (portAt s bus).up = true
      ∧ seqUp s 10 = true ∧ s.sec.entropyOk = true) ∧
    (∃ (bus : Nat) (s : State), bus < 4 ∧ s.sys.mode.serving = true ∧ isPr s bus = false ∧ linkOf s bus = bus ∧ (portAt s bus).up = true
      ∧ seqUp s 10 = true ∧ 0 < s.sec.sessions) ∧
    (∃ (bus : Nat) (s : State), bus < 4 ∧ s.sys.mode.serving = true ∧ isPr s bus = false ∧ linkOf s bus = bus ∧ (portAt s bus).up = true
      ∧ seqUp s 10 = true ∧ 0 < s.sec.sessions) ∧
    (∃ (bus : Nat) (s : State), bus < 4 ∧ s.sys.mode.serving = true ∧ isPr s bus = false ∧ linkOf s bus = bus ∧ (portAt s bus).up = true
      ∧ seqUp s 10 = true ∧ s.sec.sessions = 0) ∧
    (∃ (bus : Nat) (s : State), bus < 4 ∧ s.sys.mode.serving = true ∧ isPr s bus = false ∧ linkOf s bus = bus ∧ (portAt s bus).up = true
      ∧ seqUp s 10 = true ∧ s.sec.sessions = 0) ∧
    (∃ (s : State), s.sys.mode.serving = true ∧ seqUp s 10 = true ∧ sideTakes s .i3c = true) ∧
    (∃ (s : State), s.sys.mode.serving = true ∧ seqUp s 10 = true ∧ sideTakes s .smbus = true) ∧
    (∃ (k : Nat) (x : Tag) (s : State), AdminRuns k 0x81 s x ∧ thas s.nvq.ctrls x.ctrl = true ∧ fld (cdw x.ent 10) 24 8 = 0) ∧
    (∃ (k : Nat) (x : Tag) (s : State), AdminRuns k 0x81 s x ∧ thas s.nvq.ctrls x.ctrl = true ∧ fld (cdw x.ent 10) 24 8 ≠ 0 ∧ fld (cdw
      x.ent 10) 24 8 ≠ 0xE8) ∧
    (∃ (k : Nat) (x : Tag) (s : State), AdminRuns k 0x81 s x ∧ thas s.nvq.ctrls x.ctrl = true ∧ fld (cdw x.ent 10) 24 8 = 0xE8) ∧
    (∃ (k : Nat) (x : Tag) (s : State), AdminRuns k 0x81 s x ∧ thas s.nvq.ctrls x.ctrl = true ∧ fld (cdw x.ent 10) 24 8 = 0xE8) ∧
    (∃ (k : Nat) (x : Tag) (s : State), AdminRuns k 0x81 s x ∧ thas s.nvq.ctrls x.ctrl = true ∧ fld (cdw x.ent 10) 24 8 = 0xE8 ∧
      s.sec.entropyOk = true ∧ s.sec.sessions < 8) ∧
    (∃ (k : Nat) (x : Tag) (s : State), AdminRuns k 0x82 s x ∧ thas s.nvq.ctrls x.ctrl = true ∧ fld (cdw x.ent 10) 24 8 = 0) ∧
    (∃ (k : Nat) (x : Tag) (s : State), ∃ v, AdminRuns k 0x82 s x ∧ thas s.nvq.ctrls x.ctrl = true ∧ fld (cdw x.ent 10) 24 8 = 0xE8 ∧
      (ctrlAt s x.ctrl).secResp = some v) ∧
    (∃ (k : Nat) (x : Tag) (s : State), AdminRuns k 0x82 s x ∧ thas s.nvq.ctrls x.ctrl = true ∧ fld (cdw x.ent 10) 24 8 ≠ 0 ∧ fld (cdw
      x.ent 10) 24 8 ≠ 0xE8) ∧
    (∃ (s : State), s.sec.lockout = true) ∧
    (∃ (s : State), s.sec.lockout = false) ∧
    (∃ (k : Nat) (x : Tag) (s : State), let w := cdw x.ent 10; let act := fld w 0 3; AdminRuns k 0x84 s x ∧ s.upd.st ≠ 2 ∧ Alone k s ∧
      (sanOpen s = false ∨ sanFailedNow s = true) ∧ bitOf w 9 = false ∧ (act = 2 ∨ act = 4) ∧ sanMode s = true) ∧
    (∃ (k : Nat) (x : Tag) (s : State), AdminRuns k 0x84 s x ∧ s.upd.st ≠ 2 ∧ Alone k s ∧ sanOpen s = true ∧ sanFailedNow s = false) ∧
    (∃ (k : Nat) (x : Tag) (s : State), let w := cdw x.ent 10; let act := fld w 0 3; AdminRuns k 0x84 s x ∧ s.upd.st ≠ 2 ∧ Alone k s ∧
      (sanOpen s = false ∨ sanFailedNow s = true) ∧ (bitOf w 9 = true ∨ (act ≠ 1 ∧ act ≠ 2 ∧ act ≠ 4) ∨ sanMode s = false)) :=
  ⟨⟨w0, by decide +kernel⟩,
  ⟨{ w0 with sec := { entropyOk := false } }, by decide +kernel⟩,
  ⟨{ w0 with sec := { entropyOk := false, entWait := true } }, by decide +kernel⟩,
  ⟨1, ioAt [], by decide +kernel⟩,
  ⟨2, ioAt [], by decide +kernel⟩,
  ⟨3, linked 3 w0, by decide +kernel⟩,
  ⟨3, linked 3 w0, by decide +kernel⟩,
  ⟨3, linked 3 w0, by decide +kernel⟩,
  ⟨3, { linked 3 w0 with sec := { sessions := 7 } }, by decide +kernel⟩,
  ⟨3, { linked 3 w0 with sec := { sessions := 8 } }, by decide +kernel⟩,
  ⟨3, linked 3 w0, by decide +kernel⟩,
  ⟨3, { linked 3 w0 with sec := { sessions := 1 } }, by decide +kernel⟩,
  ⟨0, { linked 0 w0 with sec := { sessions := 1 } }, by decide +kernel⟩,
  ⟨0, linked 0 w0, by decide +kernel⟩,
  ⟨0, linked 0 w0, by decide +kernel⟩,
  ⟨{ w0 with sbm := { daValid := true, msgs := [{ bus := .i3c, tag := 0, seq := 0, bytes := [5], whole := true }] } },
    by decide +kernel⟩,
  ⟨{ w0 with sbm := { msgs := [{ bus := .smbus, tag := 0, seq := 0, bytes := [5], whole := true }] } }, by decide +kernel⟩,
  ⟨0, (tget (flying [cmd 0 0 0x81 0 [0]] w0).nvq.tags 0).getD tg0, flying [cmd 0 0 0x81 0 [0]] w0, adminRuns_of (by decide +kernel),
    by decide +kernel⟩,
  ⟨0, (tget (flying [cmd 0 0 0x81 0 [0xE7000000]] w0).nvq.tags 0).getD tg0, flying [cmd 0 0 0x81 0 [0xE7000000]] w0, adminRuns_of
    (by decide +kernel), by decide +kernel⟩,
  ⟨0, (tget (flying [cmd 0 0 0x81 0 [0xE8000000]] w0).nvq.tags 0).getD tg0, flying [cmd 0 0 0x81 0 [0xE8000000]] w0, adminRuns_of
    (by decide +kernel), by decide +kernel⟩,
  ⟨0, (tget (flying [cmd 0 0 0x81 0 [0xE8000000]] w0).nvq.tags 0).getD tg0, flying [cmd 0 0 0x81 0 [0xE8000000]] w0, adminRuns_of
    (by decide +kernel), by decide +kernel⟩,
  ⟨0, (tget ({ flying [cmd 0 0 0x81 0 [0xE8000000]] w0 with sec := { sessions := 7 } }).nvq.tags 0).getD tg0,
    { flying [cmd 0 0 0x81 0 [0xE8000000]] w0 with sec := { sessions := 7 } }, adminRuns_of (by decide +kernel), by decide +kernel⟩,
  ⟨0, (tget (flying [cmd 0 0 0x82 0 [0]] w0).nvq.tags 0).getD tg0, flying [cmd 0 0 0x82 0 [0]] w0, adminRuns_of (by decide +kernel),
    by decide +kernel⟩,
  ⟨0, (tget (onNvq (fun q => { q with ctrls := [(0, { en := true, rdy := true, secResp := some 1 })] }) (flying [cmd 0 0 0x82 0
    [0xE8000000]] w0)).nvq.tags 0).getD tg0, onNvq (fun q => { q with ctrls := [(0, { en := true, rdy := true, secResp := some 1 })] })
    (flying [cmd 0 0 0x82 0 [0xE8000000]] w0), 1, adminRuns_of (by decide +kernel), by decide +kernel⟩,
  ⟨0, (tget (flying [cmd 0 0 0x82 0 [0xFF000000]] w0).nvq.tags 0).getD tg0, flying [cmd 0 0 0x82 0 [0xFF000000]] w0, adminRuns_of
    (by decide +kernel), by decide +kernel⟩,
  ⟨{ w0 with sec := { fails := 8, lockout := true } }, by decide +kernel⟩,
  ⟨w0, by decide +kernel⟩,
  ⟨0, (tget (flying [cmd 0 0 0x84 0 [12]] w0).nvq.tags 0).getD tg0, flying [cmd 0 0 0x84 0 [12]] w0, adminRuns_of (by decide +kernel),
    by decide +kernel, alone_of (by decide +kernel), by decide +kernel⟩,
  ⟨0, (tget
    ({ flying [cmd 0 0 0x84 0 [2]] w0 with sys := { mode := .sanitize }, cst := { san := some { act := 1, ause := false } } }).nvq.tags
    0).getD tg0,
    { flying [cmd 0 0 0x84 0 [2]] w0 with sys := { mode := .sanitize }, cst := { san := some { act := 1, ause := false } } },
    adminRuns_of (by decide +kernel), by decide +kernel, alone_of (by decide +kernel), by decide +kernel⟩,
  ⟨0, (tget (flying [cmd 0 0 0x84 0 [0x202]] w0).nvq.tags 0).getD tg0, flying [cmd 0 0 0x84 0 [0x202]] w0, adminRuns_of
    (by decide +kernel), by decide +kernel, alone_of (by decide +kernel), by decide +kernel⟩⟩

theorem test_met_SecurityAndSanitize_2 :
    (∃ (k : Nat) (x : Tag) (s : State), let w := cdw x.ent 10; let act := fld w 0 3; AdminRuns k 0x84 s x ∧ s.upd.st ≠ 2 ∧ Alone k s ∧
      s.cst.san = none ∧ bitOf w 9 = false ∧ act = 1 ∧ sanMode s = true) ∧
    (∃ (k : Nat) (x : Tag) (s : State), let w := cdw x.ent 10; let act := fld w 0 3; ∃ r, AdminRuns k 0x84 s x ∧ s.upd.st ≠ 2 ∧ Alone k s
      ∧ s.cst.san = some r ∧ r.failed = true ∧ bitOf w 9 = false ∧ act = 1 ∧ sanMode s = true ∧ r.ause = true) ∧
    (∃ (k : Nat) (x : Tag) (s : State), let w := cdw x.ent 10; let act := fld w 0 3; ∃ r, AdminRuns k 0x84 s x ∧ s.upd.st ≠ 2 ∧ Alone k s
      ∧ s.cst.san = some r ∧ r.failed = true ∧ bitOf w 9 = false ∧ act = 1 ∧ sanMode s = true ∧ r.ause = false) ∧
    (∃ (r : SanRec) (w : Bool) (s : State), s.cst.san = some r ∧ r.failed = false ∧ s.sys.mode = .sanitize ∧ (w = true ∨ shadowOnly s =
      false) ∧ seqUp s 10 = true ∧ r.phase = 0 ∧ (∀ e ∈ s.nvq.tags, isIo e.2 = false)) ∧
    (∃ (r : SanRec) (w : Bool) (s : State), s.cst.san = some r ∧ r.failed = false ∧ s.sys.mode = .sanitize ∧ (w = true ∨ shadowOnly s =
      false) ∧ seqUp s 10 = true ∧ r.phase = 0 ∧ (∃ e ∈ s.nvq.tags, isIo e.2 = true)) ∧
    (∃ (r : SanRec) (w : Bool) (s : State), s.cst.san = some r ∧ r.failed = false ∧ s.sys.mode = .sanitize ∧ (w = true ∨ shadowOnly s =
      false) ∧ seqUp s 10 = true ∧ r.phase = 1 ∧ s.sec.rootPend = true) ∧
    (∃ (r : SanRec) (w : Bool) (s : State), s.cst.san = some r ∧ r.failed = false ∧ s.sys.mode = .sanitize ∧ (w = true ∨ shadowOnly s =
      false) ∧ seqUp s 10 = true ∧ r.phase = 1 ∧ s.sec.rootPend = false) ∧
    (∃ (r : SanRec) (w : Bool) (s : State), s.cst.san = some r ∧ r.failed = false ∧ s.sys.mode = .sanitize ∧ (w = true ∨ shadowOnly s =
      false) ∧ seqUp s 10 = true ∧ r.phase = 2) ∧
    (∃ (r : SanRec) (w : Bool) (s : State), s.cst.san = some r ∧ r.failed = false ∧ s.sys.mode = .sanitize ∧ (w = true ∨ shadowOnly s =
      false) ∧ seqUp s 10 = true ∧ r.phase = 3 ∧ (∀ d ∈ okDies s, s.prof.blocksPerDie ≤ tgetD r.cursors d 0)) ∧
    (∃ (r : SanRec) (w : Bool) (s : State), s.cst.san = some r ∧ r.failed = false ∧ s.sys.mode = .sanitize ∧ (w = true ∨ shadowOnly s =
      false) ∧ seqUp s 10 = true ∧ r.phase = 4 ∧ r.left = []) ∧
    (∃ (r : SanRec) (s : State), s.cst.san = some r ∧ r.failed = false ∧ s.sys.mode = .sanitize ∧ shadowOnly s = true ∧ r.phase = 2 ∧
      seqUp s 10 = true) ∧
    (∃ (r : SanRec) (s : State), s.cst.san = some r ∧ s.sys.mode = .sanitize ∧ r.phase = 0 ∧ r.failed = false) ∧
    (∃ (r : SanRec) (s : State), s.cst.san = some r ∧ s.sys.mode = .sanitize ∧ r.phase ≠ 0) ∧
    (∃ (src : Nat) (s : State) (r : CamReq), Accepted src 0x0B00 s r) ∧
    (∃ (src : Nat) (s : State) (r : CamReq), Accepted src 0x0B01 s r ∧ s.sec.entropyOk = true ∧ s.sec.lockout = false) ∧
    (∃ (src : Nat) (s : State) (r : CamReq), Accepted src 0x0B01 s r ∧ s.sec.entropyOk = true ∧ s.sec.lockout = true) ∧
    (∃ (src : Nat) (s : State) (r : CamReq), Accepted src 0x0B01 s r ∧ s.sec.entropyOk = false) ∧
    (∃ (src : Nat) (s : State) (r : CamReq), let bs (n : Nat) := (slotData s r).take n; Accepted src 0x0B02 s r ∧ dscBytes r = 97 + 96 ∧
      (bs 97).headD 0 = 0x04 ∧ s.sec.nonce.isSome = true ∧ s.sec.owner = none) ∧
    (∃ (src : Nat) (s : State) (r : CamReq), let bs (n : Nat) := (slotData s r).take n; Accepted src 0x0B02 s r ∧ dscBytes r = 97 + 96 ∧
      (bs 97).headD 0 = 0x04 ∧ s.sec.nonce.isSome = true ∧ s.sec.owner.isSome = true) ∧
    (∃ (src : Nat) (s : State) (r : CamReq), let bs (n : Nat) := (slotData s r).take n; Accepted src 0x0B02 s r ∧ dscBytes r = 97 + 96 ∧
      (bs 97).headD 0 = 0x04 ∧ s.sec.nonce.isSome = true) ∧
    (∃ (src : Nat) (s : State) (r : CamReq), let bs (n : Nat) := (slotData s r).take n; Accepted src 0x0B02 s r ∧ dscBytes r = 97 + 96 ∧
      (bs 97).headD 0 = 0x04 ∧ s.sec.nonce = none) ∧
    (∃ (src : Nat) (s : State) (r : CamReq), let bs (n : Nat) := (slotData s r).take n; Accepted src 0x0B03 s r ∧ dscBytes r = 4 + 96 ∧
      leNat (bs 4) < 2 ∧ s.sec.nonce.isSome = true ∧ s.sec.owner.isSome = true) ∧
    (∃ (src : Nat) (s : State) (r : CamReq), let bs (n : Nat) := (slotData s r).take n; Accepted src 0x0B03 s r ∧ dscBytes r = 4 + 96 ∧
      leNat (bs 4) < 2 ∧ s.sec.nonce.isSome = true ∧ s.sec.owner = none) ∧
    (∃ (src : Nat) (s : State) (r : CamReq), Accepted src 0x0B04 s r ∧ dscBytes r = 96 ∧ s.sec.nonce.isSome = true ∧ s.sec.owner.isSome =
      true) ∧
    (∃ (src : Nat) (s : State) (r : CamReq), let bs (n : Nat) := (slotData s r).take n; ∃ a, Accepted src 0x0B05 s r ∧ dscBytes r = 4 +
      96 ∧ s.sec.nonce.isSome = true ∧ s.sec.owner.isSome = true ∧ s.sec.svn < leNat (bs 4) ∧ activeSvn s = some a ∧ leNat (bs 4) ≤ a) ∧
    (∃ (src : Nat) (s : State) (r : CamReq), let bs (n : Nat) := (slotData s r).take n; Accepted src 0x0B05 s r ∧ dscBytes r = 4 + 96 ∧
      s.sec.nonce.isSome = true ∧ s.sec.owner.isSome = true ∧ leNat (bs 4) ≤ s.sec.svn) ∧
    (∃ (src : Nat) (s : State) (r : CamReq), ∃ n, Accepted src 0x0B03 s r ∧ dscBytes r = n ∧ n ≠ 100) :=
  ⟨⟨0, (tget (flying [cmd 0 0 0x84 0 [1]] w0).nvq.tags 0).getD tg0, flying [cmd 0 0 0x84 0 [1]] w0, adminRuns_of (by decide +kernel),
    by decide +kernel, alone_of (by decide +kernel), by decide +kernel⟩,
  ⟨0, (tget
    ({ flying [cmd 0 0 0x84 0 [1]] w0 with sys := { mode := .sanitize }, cst := { san := some { act := 1, ause := true, failed := true } } }).nvq.tags
    0).getD tg0,
    { flying [cmd 0 0 0x84 0 [1]] w0 with sys := { mode := .sanitize }, cst := { san := some { act := 1, ause := true, failed := true } } },
    { act := 1, ause := true, failed := true }, adminRuns_of (by decide +kernel), by decide +kernel, alone_of (by decide +kernel),
    by decide +kernel⟩,
  ⟨0, (tget
    ({ flying [cmd 0 0 0x84 0 [1]] w0 with sys := { mode := .sanitize }, cst := { san := some { act := 1, ause := false, failed := true } } }).nvq.tags
    0).getD tg0,
    { flying [cmd 0 0 0x84 0 [1]] w0 with sys := { mode := .sanitize }, cst := { san := some { act := 1, ause := false, failed := true } } },
    { act := 1, ause := false, failed := true }, adminRuns_of (by decide +kernel), by decide +kernel, alone_of (by decide +kernel),
    by decide +kernel⟩,
  ⟨{ act := 1, ause := false }, true, sanitizing { act := 1, ause := false }, by decide +kernel⟩,
  ⟨{ act := 1, ause := false }, true, (let s0 := sanitizing { act := 1, ause := false };
    { s0 with nvq := { s0.nvq with tags := [(0, cmd 0 1 2 1 [])] } }), by decide +kernel⟩,
  ⟨{ act := 1, ause := false, phase := 1 }, true,
    { sanitizing { act := 1, ause := false, phase := 1 } with sec := { rootPend := true } }, by decide +kernel⟩,
  ⟨{ act := 1, ause := false, phase := 1 }, true, sanitizing { act := 1, ause := false, phase := 1 }, by decide +kernel⟩,
  ⟨{ act := 1, ause := false, phase := 2 }, true, sanitizing { act := 1, ause := false, phase := 2 }, by decide +kernel⟩,
  ⟨{ act := 1, ause := false, phase := 3, cursors := [(0, 8), (1, 8), (2, 8)] }, true, sanitizing
    { act := 1, ause := false, phase := 3, cursors := [(0, 8), (1, 8), (2, 8)] }, by decide +kernel⟩,
  ⟨{ act := 2, ause := false, phase := 4 }, true, sanitizing { act := 2, ause := false, phase := 4 }, by decide +kernel⟩,
  ⟨{ act := 2, ause := false, phase := 2 }, (let s0 := sanitizing { act := 2, ause := false, phase := 2 };
    { s0 with cst := { s0.cst with banks := [(0, { st := .failed }), (1, { st := .failed })] } }), by decide +kernel⟩,
  ⟨{ act := 1, ause := false }, (let s0 := sanitizing { act := 1, ause := false };
    { s0 with nvq := { s0.nvq with tags := [(0, cmd 0 1 2 1 []), (1, cmd 0 0 2 0 [])] } }), by decide +kernel⟩,
  ⟨{ act := 1, ause := false, phase := 1 }, sanitizing { act := 1, ause := false, phase := 1 }, by decide +kernel⟩,
  ⟨0, ask 0 0x0B00 0xFFFF [] w0, qreq (ask 0 0x0B00 0xFFFF [] w0) 0, accepted_of (by decide +kernel)⟩,
  ⟨0, ask 0 0x0B01 0xFFFF [] w0, qreq (ask 0 0x0B01 0xFFFF [] w0) 0, accepted_of (by decide +kernel), by decide +kernel⟩,
  ⟨0, ask 0 0x0B01 0xFFFF [] { w0 with sec := { lockout := true } }, qreq (ask 0 0x0B01 0xFFFF [] { w0 with sec := { lockout := true } })
    0, accepted_of (by decide +kernel), by decide +kernel⟩,
  ⟨0, ask 0 0x0B01 0xFFFF [] { w0 with sec := { entropyOk := false } }, qreq (ask 0 0x0B01 0xFFFF []
    { w0 with sec := { entropyOk := false } }) 0, accepted_of (by decide +kernel), by decide +kernel⟩,
  ⟨0, ask 0 0x0B02 0xFFFF [0x00003F00, 193] (signed 193 4 { nonce := some 9 }) 0x04000000, qreq (ask 0 0x0B02 0xFFFF [0x00003F00, 193]
    (signed 193 4 { nonce := some 9 }) 0x04000000) 0, accepted_of (by decide +kernel), by decide +kernel⟩,
  ⟨0, ask 0 0x0B02 0xFFFF [0x00003F00, 193] (signed 193 4 { nonce := some 9, owner := some 7 }) 0x04000000, qreq (ask 0 0x0B02 0xFFFF
    [0x00003F00, 193] (signed 193 4 { nonce := some 9, owner := some 7 }) 0x04000000) 0, accepted_of (by decide +kernel),
    by decide +kernel⟩,
  ⟨0, ask 0 0x0B02 0xFFFF [0x00003F00, 193] (signed 193 4 { nonce := some 9, fails := 7 }) 0x04000000, qreq (ask 0 0x0B02 0xFFFF
    [0x00003F00, 193] (signed 193 4 { nonce := some 9, fails := 7 }) 0x04000000) 0, accepted_of (by decide +kernel), by decide +kernel⟩,
  ⟨0, ask 0 0x0B02 0xFFFF [0x00003F00, 193] (signed 193 4 {}) 0x04000000, qreq (ask 0 0x0B02 0xFFFF [0x00003F00, 193] (signed 193 4 {})
    0x04000000) 0, accepted_of (by decide +kernel), by decide +kernel⟩,
  ⟨0, ask 0 0x0B03 0xFFFF [0x00003F00, 100] (signed 100 1 { nonce := some 9, owner := some 7 }) 0x04000000, qreq (ask 0 0x0B03 0xFFFF
    [0x00003F00, 100] (signed 100 1 { nonce := some 9, owner := some 7 }) 0x04000000) 0, accepted_of (by decide +kernel),
    by decide +kernel⟩,
  ⟨0, ask 0 0x0B03 0xFFFF [0x00003F00, 100] (signed 100 1 { nonce := some 9 }) 0x04000000, qreq (ask 0 0x0B03 0xFFFF [0x00003F00, 100]
    (signed 100 1 { nonce := some 9 }) 0x04000000) 0, accepted_of (by decide +kernel), by decide +kernel⟩,
  ⟨0, ask 0 0x0B04 0xFFFF [0x00003F00, 96] (signed 96 1 { nonce := some 9, owner := some 7, lock := true }) 0x04000000, qreq (ask 0
    0x0B04 0xFFFF [0x00003F00, 96] (signed 96 1 { nonce := some 9, owner := some 7, lock := true }) 0x04000000) 0, accepted_of
    (by decide +kernel), by decide +kernel⟩,
  ⟨0, ask 0 0x0B05 0xFFFF [0x00003F00, 100] (signed 100 4 { nonce := some 9, owner := some 7 }) 0x04000000, qreq (ask 0 0x0B05 0xFFFF
    [0x00003F00, 100] (signed 100 4 { nonce := some 9, owner := some 7 }) 0x04000000) 0, 4, accepted_of (by decide +kernel),
    by decide +kernel⟩,
  ⟨0, ask 0 0x0B05 0xFFFF [0x00003F00, 100] (signed 100 4 { nonce := some 9, owner := some 7, svn := 4 }) 0x04000000, qreq (ask 0 0x0B05
    0xFFFF [0x00003F00, 100] (signed 100 4 { nonce := some 9, owner := some 7, svn := 4 }) 0x04000000) 0, accepted_of
    (by decide +kernel), by decide +kernel⟩,
  ⟨0, ask 0 0x0B03 0xFFFF [0x00003F00, 101] (signed 101 1 {}) 0x04000000, qreq (ask 0 0x0B03 0xFFFF [0x00003F00, 101] (signed 101 1 {})
    0x04000000) 0, 101, accepted_of (by decide +kernel), by decide +kernel⟩⟩

/-! `Obligations.SidebandAndTelemetry` -/

theorem test_met_SidebandAndTelemetry_1 :
    (∃ (b : Bus) (p : MctpPacket) (s : State), sideTakes s b = true ∧ b = .smbus ∧ p.pecOk = false) ∧
    (∃ (b : Bus) (p : MctpPacket) (s : State), sideTakes s b = true ∧ p.pecOk = true ∧ p.som = true ∧ p.eom = false ∧ openMsg s b p.tag =
      none ∧ s.sbm.msgs.length < 8 ∧ p.bytes.length ≤ 4224 ∧ s.sys.mode.serving = true ∧ s.sys.modeReq ≠ some .standpipe) ∧
    (∃ (b : Bus) (p : MctpPacket) (s : State), sideTakes s b = true ∧ p.pecOk = true ∧ p.som = true ∧ openMsg s b p.tag = none ∧ 8 ≤
      s.sbm.msgs.length) ∧
    (∃ (b : Bus) (p : MctpPacket) (s : State), sideTakes s b = true ∧ p.pecOk = true ∧ p.som = false ∧ openMsg s b p.tag = none) ∧
    (∃ (b : Bus) (p : MctpPacket) (s : State), ∃ m, sideTakes s b = true ∧ p.pecOk = true ∧ p.som = false ∧ openMsg s b p.tag = some m ∧
      p.seq = (m.seq + 1) % 4 ∧ p.eom = false ∧ (m.bytes ++ p.bytes).length ≤ 4224) ∧
    (∃ (b : Bus) (p : MctpPacket) (s : State), ∃ m, sideTakes s b = true ∧ p.pecOk = true ∧ p.som = false ∧ openMsg s b p.tag = some m ∧
      p.seq ≠ (m.seq + 1) % 4) ∧
    (∃ (b : Bus) (s : State), ∃ m, s.sys.mode.serving = true ∧ s.sbm.msgs.find? (fun m => !m.whole && m.bus == b) = some m) ∧
    (∃ (b : Bus) (s : State), s.sys.mode.serving = true ∧ (∀ m ∈ s.sbm.msgs, m.bus = b → m.whole = true)) ∧
    (∃ (b : Bus) (s : State), let ctl (code : Nat) (l : List (Nat × Nat)) : Bool := (msgOf s b 0).all (ctlIs code l); ∃ e, sideTakes s b
      = true ∧ s.sys.mode ≠ .standpipe ∧ seqUp s 11 = true ∧ 0 < e ∧ e < 255 ∧ ctl 1 [(4, e)] = true) ∧
    (∃ (b : Bus) (s : State), let ctl (code : Nat) (l : List (Nat × Nat)) : Bool := (msgOf s b 0).all (ctlIs code l); ∃ e, sideTakes s b
      = true ∧ s.sys.mode ≠ .standpipe ∧ seqUp s 11 = true ∧ (e = 0 ∨ 255 ≤ e) ∧ ctl 1 [(4, e)] = true) ∧
    (∃ (b : Bus) (s : State), let ctl (code : Nat) (l : List (Nat × Nat)) : Bool := (msgOf s b 0).all (ctlIs code l); ∃ e, sideTakes s b
      = true ∧ s.sys.mode ≠ .standpipe ∧ seqUp s 11 = true ∧ ctl 1 [(4, e)] = false) ∧
    (∃ (b : Bus) (s : State), let ctl (code : Nat) (l : List (Nat × Nat)) : Bool := (msgOf s b 0).all (ctlIs code l); sideTakes s b =
      true ∧ s.sys.mode ≠ .standpipe ∧ seqUp s 11 = true ∧ ctl 2 [] = true) ∧
    (∃ (b : Bus) (s : State), let ctl (code : Nat) (l : List (Nat × Nat)) : Bool := (msgOf s b 0).all (ctlIs code l); sideTakes s b =
      true ∧ s.sys.mode ≠ .standpipe ∧ seqUp s 11 = true ∧ ctl 2 [] = false) ∧
    (∃ (b : Bus) (s : State), let ctl (code : Nat) (l : List (Nat × Nat)) : Bool := (msgOf s b 0).all (ctlIs code l); sideTakes s b =
      true ∧ s.sys.mode ≠ .standpipe ∧ seqUp s 11 = true ∧ ctl 3 [] = true) ∧
    (∃ (b : Bus) (s : State), let ctl (code : Nat) (l : List (Nat × Nat)) : Bool := (msgOf s b 0).all (ctlIs code l); sideTakes s b =
      true ∧ s.sys.mode ≠ .standpipe ∧ seqUp s 11 = true ∧ ctl 4 [] = true) ∧
    (∃ (b : Bus) (s : State), let ctl (code : Nat) (l : List (Nat × Nat)) : Bool := (msgOf s b 0).all (ctlIs code l); sideTakes s b =
      true ∧ s.sys.mode ≠ .standpipe ∧ seqUp s 11 = true ∧ ctl 5 [] = true) ∧
    (∃ (b : Bus) (s : State), let ctl (code : Nat) (l : List (Nat × Nat)) : Bool := (msgOf s b 0).all (ctlIs code l); sideTakes s b =
      true ∧ s.sys.mode ≠ .standpipe ∧ seqUp s 11 = true ∧ ctl 6 [] = true) ∧
    (∃ (b : Bus) (s : State), let mi (op : MiOp) : Bool := (msgOf s b 4).all (miIs op); sideTakes s b = true ∧ s.sys.mode ≠ .standpipe ∧
      seqUp s 11 = true ∧ mi (.readDs 2) = true) ∧
    (∃ (b : Bus) (s : State), let mi (op : MiOp) : Bool := (msgOf s b 4).all (miIs op); sideTakes s b = true ∧ s.sys.mode ≠ .standpipe ∧
      seqUp s 11 = true ∧ mi (.readDs 2) = false) ∧
    (∃ (b : Bus) (s : State), let mi (op : MiOp) : Bool := (msgOf s b 4).all (miIs op); sideTakes s b = true ∧ s.sys.mode ≠ .standpipe ∧
      seqUp s 11 = true ∧ mi .health = true) ∧
    (∃ (b : Bus) (s : State), let mi (op : MiOp) : Bool := (msgOf s b 4).all (miIs op); ∃ c, sideTakes s b = true ∧ s.sys.mode ≠
      .standpipe ∧ seqUp s 11 = true ∧ mi (.ctrlHealth c) = true ∧ thas s.nvq.ctrls c = true ∧ (ctrlAt s c).rdy = true) ∧
    (∃ (b : Bus) (s : State), let mi (op : MiOp) : Bool := (msgOf s b 4).all (miIs op); ∃ c, sideTakes s b = true ∧ s.sys.mode ≠
      .standpipe ∧ seqUp s 11 = true ∧ mi (.ctrlHealth c) = true ∧ thas s.nvq.ctrls c = true ∧ (ctrlAt s c).rdy = false) ∧
    (∃ (b : Bus) (s : State), let mi (op : MiOp) : Bool := (msgOf s b 4).all (miIs op); sideTakes s b = true ∧ s.sys.mode ≠ .standpipe ∧
      seqUp s 11 = true ∧ mi (.cfgGet 1) = true) ∧
    (∃ (b : Bus) (s : State), let mi (op : MiOp) : Bool := (msgOf s b 4).all (miIs op); sideTakes s b = true ∧ s.sys.mode ≠ .standpipe ∧
      seqUp s 11 = true ∧ mi (.cfgGet 3) = true) ∧
    (∃ (b : Bus) (s : State), let mi (op : MiOp) : Bool := (msgOf s b 4).all (miIs op); ∃ f, sideTakes s b = true ∧ s.sys.mode ≠
      .standpipe ∧ seqUp s 11 = true ∧ mi (.cfgSet 1 f) = true ∧ 1 ≤ f ∧ f ≤ 3) ∧
    (∃ (b : Bus) (s : State), let mi (op : MiOp) : Bool := (msgOf s b 4).all (miIs op); sideTakes s b = true ∧ s.sys.mode ≠ .standpipe ∧
      seqUp s 11 = true ∧ mi (.cfgSet 3 64) = true) ∧
    (∃ (b : Bus) (s : State), let mi (op : MiOp) : Bool := (msgOf s b 4).all (miIs op); ∃ x, sideTakes s b = true ∧ s.sys.mode ≠
      .standpipe ∧ seqUp s 11 = true ∧ mi (.cfgSet 3 x) = true ∧ x ≠ 64) ∧
    (∃ (b : Bus) (s : State), let mi (op : MiOp) : Bool := (msgOf s b 4).all (miIs op); ∃ o n, sideTakes s b = true ∧ s.sys.mode ≠
      .standpipe ∧ seqUp s 11 = true ∧ mi (.vpdRead o n) = true ∧ o + n ≤ 1024) ∧
    (∃ (b : Bus) (s : State), let mi (op : MiOp) : Bool := (msgOf s b 4).all (miIs op); ∃ o n, sideTakes s b = true ∧ s.sys.mode ≠
      .standpipe ∧ seqUp s 11 = true ∧ mi (.vpdRead o n) = true ∧ 1024 < o + n) ∧
    (∃ (b : Bus) (s : State), let mi (op : MiOp) : Bool := (msgOf s b 4).all (miIs op); sideTakes s b = true ∧ s.sys.mode ≠ .standpipe ∧
      seqUp s 11 = true ∧ mi .vpdWrite = true) :=
  ⟨⟨.smbus, { som := true, eom := true, seq := 0, tag := 0, bytes := [], pecOk := false }, w0, by decide +kernel⟩,
  ⟨.i3c, { som := true, eom := false, seq := 3, tag := 7, bytes := [5, 1], pecOk := true }, w0, by decide +kernel⟩,
  ⟨.i3c, { som := true, eom := false, seq := 3, tag := 7, bytes := [5, 1], pecOk := true },
    { w0 with sbm := { msgs := (List.range 8).map fun i => { bus := .smbus, tag := i, seq := 0, bytes := [5] } } }, by decide +kernel⟩,
  ⟨.i3c, { som := false, eom := false, seq := 3, tag := 7, bytes := [5, 1], pecOk := true }, w0, by decide +kernel⟩,
  ⟨.i3c, { som := false, eom := false, seq := 0, tag := 7, bytes := [9], pecOk := true },
    { w0 with sbm := { msgs := [{ bus := .i3c, tag := 7, seq := 3, bytes := [5] }] } },
    { bus := .i3c, tag := 7, seq := 3, bytes := [5] }, by decide +kernel⟩,
  ⟨.i3c, { som := false, eom := false, seq := 3, tag := 7, bytes := [9], pecOk := true },
    { w0 with sbm := { msgs := [{ bus := .i3c, tag := 7, seq := 3, bytes := [5] }] } },
    { bus := .i3c, tag := 7, seq := 3, bytes := [5] }, by decide +kernel⟩,
  ⟨.i3c, { w0 with sbm := { msgs := [{ bus := .i3c, tag := 7, seq := 3, bytes := [5] }] } },
    { bus := .i3c, tag := 7, seq := 3, bytes := [5] }, by decide +kernel⟩,
  ⟨.i3c, held .i3c 5 w0, by decide +kernel⟩,
  ⟨.smbus, heldB .smbus (ctlMsg 1 254) w0, 254, by decide +kernel⟩,
  ⟨.i3c, heldB .i3c (ctlMsg 1 255) w0, 255, by decide +kernel⟩,
  ⟨.i3c, heldB .i3c (ctlMsg 1 8) w0, 9, by decide +kernel⟩,
  ⟨.i3c, heldB .i3c (ctlMsg 2 0) w0, by decide +kernel⟩,
  ⟨.smbus, heldB .smbus (ctlMsg 3 0) w0, by decide +kernel⟩,
  ⟨.i3c, heldB .i3c (ctlMsg 3 0) w0, by decide +kernel⟩,
  ⟨.i3c, heldB .i3c (ctlMsg 4 0) w0, by decide +kernel⟩,
  ⟨.i3c, heldB .i3c (ctlMsg 5 0) w0, by decide +kernel⟩,
  ⟨.i3c, heldB .i3c (ctlMsg 6 0) w0, by decide +kernel⟩,
  ⟨.i3c, heldB .i3c (miBytes 0 0x02000000 0) (linked 0 w0), by decide +kernel⟩,
  ⟨.i3c, heldB .i3c (miBytes 0 0x01000000 0) w0, by decide +kernel⟩,
  ⟨.smbus, heldB .smbus (miBytes 1 0 0) w0, by decide +kernel⟩,
  ⟨.smbus, heldB .smbus (miBytes 2 0 0) (linked 0 w0), 0, by decide +kernel⟩,
  ⟨.smbus, heldB .smbus (miBytes 2 253 0) (linked 0 w0), 253, by decide +kernel⟩,
  ⟨.i3c, heldB .i3c (miBytes 4 1 0) w0, by decide +kernel⟩,
  ⟨.i3c, heldB .i3c (miBytes 4 3 0) w0, by decide +kernel⟩,
  ⟨.i3c, heldB .i3c (miBytes 3 0x301 0) w0, 3, by decide +kernel⟩,
  ⟨.i3c, heldB .i3c (miBytes 3 3 64) w0, by decide +kernel⟩,
  ⟨.i3c, heldB .i3c (miBytes 3 3 65) w0, 65, by decide +kernel⟩,
  ⟨.i3c, heldB .i3c (miBytes 5 1020 4) w0, 1020, 4, by decide +kernel⟩,
  ⟨.i3c, heldB .i3c (miBytes 5 1020 5) w0, 1020, 5, by decide +kernel⟩,
  ⟨.i3c, heldB .i3c (miBytes 6 0 0) w0, by decide +kernel⟩⟩

theorem test_met_SidebandAndTelemetry_2 :
    (∃ (b : Bus) (s : State), let mi (op : MiOp) : Bool := (msgOf s b 4).all (miIs op); sideTakes s b = true ∧ s.sys.mode ≠ .standpipe ∧
      seqUp s 11 = true ∧ mi .reset = true ∧ s.sys.mode.serving = true) ∧
    (∃ (b : Bus) (s : State), sideTakes s b = true ∧ s.sys.mode = .standpipe ∧ seqUp s 11 = true ∧ (msgOf s b 0).all (ctlIs 2 []) = true)
      ∧
    (∃ (b : Bus) (s : State), sideTakes s b = true ∧ s.sys.mode = .standpipe ∧ seqUp s 11 = true ∧ (msgOf s b 4).all (miIs .health) =
      true) ∧
    (∃ (s : State), busOn s .smbus = true ∧ bitOf (reg s .sbmCfg) 31 = true ∧ s.sys.mode ≠ .dormant) ∧
    (∃ (s : State), bitOf (reg s .sbmCfg) 31 = false) ∧
    (∃ (a : Nat) (s : State), busOn s .i3c = true ∧ s.sys.mode ≠ .dormant ∧ islOn s 35 = true ∧ s.sbm.daValid = false ∧ a < 128) ∧
    (∃ (a : Nat) (s : State), busOn s .i3c = true ∧ s.sys.mode ≠ .dormant ∧ islOn s 35 = true ∧ s.sbm.daValid = false ∧ a < 128 ∧ rfld s
      .sbmCfg 8 7 ≠ 0) ∧
    (∃ (a : Nat) (s : State), busOn s .i3c = true ∧ s.sys.mode ≠ .dormant ∧ islOn s 35 = true ∧ s.sbm.daValid = false ∧ a < 128 ∧ rfld s
      .sbmCfg 8 7 = 0) ∧
    (∃ (s : State), s.sys.mode ≠ .dormant) ∧
    (∃ (s : State), s.sys.mode ≠ .dormant) ∧
    (∃ (site : Nat) (s : State), ∃ (v : Int), site < 18 ∧ s.sys.mode ≠ .dormant ∧ islOn s 35 = true ∧ -60 ≤ v ∧ v ≤ 135) ∧
    (∃ (site : Nat) (s : State), ∃ (v : Int), site < 18 ∧ s.sys.mode ≠ .dormant ∧ islOn s 35 = true ∧ (v < -60 ∨ 135 < v)) ∧
    (∃ (site : Nat) (s : State), site < 18 ∧ s.sys.mode ≠ .dormant ∧ islOn s 35 = true) ∧
    (∃ (b : Bus) (m : Msg) (s : State), ∃ q, sideTakes s b = true ∧ seqUp s 0 = true ∧ msgOf s b 0x7F = some m ∧ camMessage b m = some q
      ∧ bitOf (reg s .sysCamCtl) 9 = true ∧ check14 q = none ∧ (∀ r ∈ s.cam.side, check14 r = none) ∧ s.sys.mode ≠ .standpipe ∧
      s.sys.modeReq ≠ some .standpipe) ∧
    (∃ (b : Bus) (m : Msg) (s : State), ∃ q, sideTakes s b = true ∧ seqUp s 0 = true ∧ msgOf s b 0x7F = some m ∧ camMessage b m = some q
      ∧ bitOf (reg s .sysCamCtl) 9 = false) ∧
    (∃ (b : Bus) (m : Msg) (s : State), sideTakes s b = true ∧ seqUp s 0 = true ∧ msgOf s b 0x7F = some m ∧ camMessage b m = none) ∧
    (∃ (k : Nat) (x : Tag) (s : State),
      let q : CamReq := { src := 4 + portOf x.ctrl, words := (x.ent.dw.drop 10).take 6 ++ (x.ent.dw.drop 2).take 2, tag := some k };
      AdminRuns k 0xC0 s x ∧ (∀ r ∈ s.cam.queue, r.tag ≠ some k) ∧ (∀ g ∈ s.cam.gate, g.req.tag ≠ some k) ∧ q.src ≠ 8 ∧ check14 q = none
      ∧ (∀ r ∈ s.cam.queue, r.src = q.src → check14 r = none)) ∧
    (∃ (k : Nat) (x : Tag) (s : State), let w := cdw x.ent 10; let page := fld w 0 8; AdminRuns k 0x02 s x ∧ (page = 1 ∨ page = 2 ∨ page
      = 3 ∨ page = 5 ∨ page = 6 ∨ page = 0x81 ∨ page = 0xC0 ∨ (page = 4 ∧ bitOf w 15 = true))) ∧
    (∃ (k : Nat) (x : Tag) (s : State), let w := cdw x.ent 10; let page := fld w 0 8; AdminRuns k 0x02 s x ∧ page = 4 ∧ bitOf w 15 =
      false ∧ thas s.nvq.ctrls x.ctrl = true) ∧
    (∃ (k : Nat) (x : Tag) (s : State), let w := cdw x.ent 10; let page := fld w 0 8; AdminRuns k 0x02 s x ∧ page = 7 ∧ bitOf w 8 =
      false) ∧
    (∃ (k : Nat) (x : Tag) (s : State), let w := cdw x.ent 10; let page := fld w 0 8; AdminRuns k 0x02 s x ∧ page = 7 ∧ bitOf w 8 = true)
      ∧
    (∃ (k : Nat) (x : Tag) (s : State), let w := cdw x.ent 10; let page := fld w 0 8; ∃ c, AdminRuns k 0x02 s x ∧ page = 8 ∧
      s.sbm.ctrlCap = some c) ∧
    (∃ (k : Nat) (x : Tag) (s : State), let w := cdw x.ent 10; let page := fld w 0 8; AdminRuns k 0x02 s x ∧ (page = 0 ∨ (8 < page ∧ page
      ≠ 0x81 ∧ page ≠ 0xC0))) ∧
    (∃ (k : Nat) (x : Tag) (s : State), let op := fld (cdw x.ent 11) 0 8; ∃ f, AdminRuns k 0x1D s x ∧ op = 3 ∧ fld (cdw x.ent 12) 0 8 = 1
      ∧ f = fld (cdw x.ent 12) 8 4 ∧ 1 ≤ f ∧ f ≤ 3) ∧
    (∃ (k : Nat) (x : Tag) (s : State), let op := fld (cdw x.ent 11) 0 8; AdminRuns k 0x1D s x ∧ op = 6) ∧
    (∃ (k : Nat) (x : Tag) (s : State), let op := fld (cdw x.ent 11) 0 8; AdminRuns k 0x1D s x ∧ op = 7) ∧
    (∃ (k : Nat) (x : Tag) (s : State), let op := fld (cdw x.ent 11) 0 8; AdminRuns k 0x1D s x ∧ op ≠ 3 ∧ op ≠ 6 ∧ op ≠ 7) ∧
    (∃ (k : Nat) (x : Tag) (s : State), let op := fld (cdw x.ent 11) 0 8; AdminRuns k 0x1E s x ∧ op = 1) ∧
    (∃ (k : Nat) (x : Tag) (s : State), let op := fld (cdw x.ent 11) 0 8; AdminRuns k 0x1E s x ∧ op = 4 ∧ fld (cdw x.ent 12) 0 8 = 1) ∧
    (∃ (k : Nat) (x : Tag) (s : State), let op := fld (cdw x.ent 11) 0 8; AdminRuns k 0x1E s x ∧ (op = 3 ∨ 5 < op)) :=
  ⟨⟨.i3c, heldB .i3c (miBytes 7 0 0) (linked 0 w0), by decide +kernel⟩,
  ⟨.i3c, heldB .i3c (ctlMsg 2 0) { w0 with sys := { mode := .standpipe } }, by decide +kernel⟩,
  ⟨.smbus, heldB .smbus (miBytes 1 0 0) { w0 with sys := { mode := .standpipe } }, by decide +kernel⟩,
  ⟨{ w0 with regs := [(regA .sbmCfg, 0x80000001)] }, by decide +kernel⟩,
  ⟨{ w0 with regs := [(regA .sbmCfg, 1)] }, by decide +kernel⟩,
  ⟨127, { w0 with regs := [(regA .sbmCfg, 0x2)] }, by decide +kernel⟩,
  ⟨127, { w0 with regs := [(regA .sbmCfg, 0x102)] }, by decide +kernel⟩,
  ⟨127, { w0 with regs := [(regA .sbmCfg, 0x2)] }, by decide +kernel⟩,
  ⟨ask 8 0x0100 0xFFFF [] (held .smbus 5 (held .i3c 5 w0)), by decide +kernel⟩,
  ⟨ask 8 0x0100 0xFFFF [] (held .smbus 5 (held .i3c 5 w0)), by decide +kernel⟩,
  ⟨17, { w0 with sbm := { sens := [(17, { fail := true, bad := 5, good := 99, peak := some 200 })] } }, 135, by decide +kernel⟩,
  ⟨17, { w0 with sbm := { sens := [(17, { valid := true })] } }, 136, by decide +kernel⟩,
  ⟨0, { w0 with sbm := { sens := [(0, { bad := 2 })] } }, by decide +kernel⟩,
  ⟨.i3c, { bus := .i3c, tag := 0, seq := 0, whole := true, bytes := [0x7F, 0, 0, 0xD8, 0xA7, 0, 1, 1, 0, 0, 0, 0xFF, 0xFF] }, heldB .i3c
    [0x7F, 0, 0, 0xD8, 0xA7, 0, 1, 1, 0, 0, 0, 0xFF, 0xFF] { w0 with regs := [(regA .sysCamCtl, 0x200)] },
    { src := 8, words := [0x00010100, 0xFFFF0000] ++ List.replicate 14 0, payload := [], bus := some .i3c }, by decide +kernel⟩,
  ⟨.i3c, { bus := .i3c, tag := 0, seq := 0, whole := true, bytes := [0x7F, 0, 0, 0xD8, 0xA7, 0, 1, 1, 0, 0, 0, 0xFF, 0xFF] }, heldB .i3c
    [0x7F, 0, 0, 0xD8, 0xA7, 0, 1, 1, 0, 0, 0, 0xFF, 0xFF] { w0 with regs := [(regA .sysCamCtl, 0)] },
    { src := 8, words := [0x00010100, 0xFFFF0000] ++ List.replicate 14 0, payload := [], bus := some .i3c }, by decide +kernel⟩,
  ⟨.i3c, { bus := .i3c, tag := 0, seq := 0, whole := true, bytes := [0x7F, 0, 0, 0, 1, 0, 1, 1, 0, 0, 0, 0xFF, 0xFF] }, heldB .i3c [0x7F,
    0, 0, 0, 1, 0, 1, 1, 0, 0, 0, 0xFF, 0xFF] { w0 with regs := [(regA .sysCamCtl, 0x200)] }, by decide +kernel⟩,
  ⟨0, (tget (flying [cmd 253 0 0xC0 0 [0x00010100, 0xFFFF0000, 0, 0, 0, 0]] w0).nvq.tags 0).getD tg0, flying [cmd 253 0 0xC0 0
    [0x00010100, 0xFFFF0000, 0, 0, 0, 0]] w0, adminRuns_of (by decide +kernel), by decide +kernel⟩,
  ⟨0, (tget (flying [cmd 0 0 2 0 [0x81]] w0).nvq.tags 0).getD tg0, flying [cmd 0 0 2 0 [0x81]] w0, adminRuns_of (by decide +kernel),
    by decide +kernel⟩,
  ⟨0, (tget (onNvq (fun v => { v with ctrls := [(0, { en := true, changedNs := [3] })] }) (flying [cmd 0 0 2 0 [4]] w0)).nvq.tags 0).getD
    tg0, onNvq (fun v => { v with ctrls := [(0, { en := true, changedNs := [3] })] }) (flying [cmd 0 0 2 0 [4]] w0), adminRuns_of
    (by decide +kernel), by decide +kernel⟩,
  ⟨0, (tget (flying [cmd 0 0 2 0 [0x00010007, 0, 508]] w0).nvq.tags 0).getD tg0, flying [cmd 0 0 2 0 [0x00010007, 0, 508]] w0,
    adminRuns_of (by decide +kernel), by decide +kernel⟩,
  ⟨0, (tget (flying [cmd 0 0 2 0 [0x00010107, 0, 0]] w0).nvq.tags 0).getD tg0, flying [cmd 0 0 2 0 [0x00010107, 0, 0]] w0, adminRuns_of
    (by decide +kernel), by decide +kernel⟩,
  ⟨0, (tget ({ flying [cmd 0 0 2 0 [0x00010008, 0, 1184248]] w0 with sbm := { ctrlCap := some cap1 } }).nvq.tags 0).getD tg0,
    { flying [cmd 0 0 2 0 [0x00010008, 0, 1184248]] w0 with sbm := { ctrlCap := some cap1 } }, cap1, adminRuns_of (by decide +kernel),
    by decide +kernel⟩,
  ⟨0, (tget (flying [cmd 0 0 2 0 [9]] w0).nvq.tags 0).getD tg0, flying [cmd 0 0 2 0 [9]] w0, adminRuns_of (by decide +kernel),
    by decide +kernel⟩,
  ⟨0, (tget (flying [cmd 0 0 0x1D 0 [0, 3, 0x301]] w0).nvq.tags 0).getD tg0, flying [cmd 0 0 0x1D 0 [0, 3, 0x301]] w0, 3, adminRuns_of
    (by decide +kernel), by decide +kernel⟩,
  ⟨0, (tget (flying [cmd 0 0 0x1D 0 [0, 6, 0]] w0).nvq.tags 0).getD tg0, flying [cmd 0 0 0x1D 0 [0, 6, 0]] w0, adminRuns_of
    (by decide +kernel), by decide +kernel⟩,
  ⟨0, (tget (flying [cmd 0 0 0x1D 0 [0, 7, 0]] w0).nvq.tags 0).getD tg0, flying [cmd 0 0 0x1D 0 [0, 7, 0]] w0, adminRuns_of
    (by decide +kernel), by decide +kernel⟩,
  ⟨0, (tget (flying [cmd 0 0 0x1D 0 [0, 8, 0]] w0).nvq.tags 0).getD tg0, flying [cmd 0 0 0x1D 0 [0, 8, 0]] w0, adminRuns_of
    (by decide +kernel), by decide +kernel⟩,
  ⟨0, (tget (flying [cmd 0 0 0x1E 0 [0, 1, 0]] w0).nvq.tags 0).getD tg0, flying [cmd 0 0 0x1E 0 [0, 1, 0]] w0, adminRuns_of
    (by decide +kernel), by decide +kernel⟩,
  ⟨0, (tget (flying [cmd 0 0 0x1E 0 [0, 4, 1]] w0).nvq.tags 0).getD tg0, flying [cmd 0 0 0x1E 0 [0, 4, 1]] w0, adminRuns_of
    (by decide +kernel), by decide +kernel⟩,
  ⟨0, (tget (flying [cmd 0 0 0x1E 0 [0, 6, 1]] w0).nvq.tags 0).getD tg0, flying [cmd 0 0 0x1E 0 [0, 6, 1]] w0, adminRuns_of
    (by decide +kernel), by decide +kernel⟩⟩

theorem test_met_SidebandAndTelemetry_3 :
    (∃ (src : Nat) (s : State) (r : CamReq), Accepted src 0x0C00 s r) ∧
    (∃ (src : Nat) (s : State) (r : CamReq), let d := rqTgt r; Accepted src 0x0C01 s r ∧ d < 18) ∧
    (∃ (src : Nat) (s : State) (r : CamReq), let d := rqTgt r; Accepted src 0x0C01 s r ∧ d = 0xFFFF) ∧
    (∃ (src : Nat) (s : State) (r : CamReq), let d := rqTgt r; Accepted src 0x0C01 s r ∧ 18 ≤ d ∧ d ≠ 0xFFFF) ∧
    (∃ (src : Nat) (s : State) (r : CamReq), let d := rqTgt r; ∃ h, Accepted src 0x0C02 s r ∧ (d = 0 ∨ s.sbm.ctrlCap.isSome = true) ∧ fld
      (rqW r 4) 16 16 ≤ 2312 ∧ pickHandle s = some h) ∧
    (∃ (src : Nat) (s : State) (r : CamReq), let d := rqTgt r; Accepted src 0x0C02 s r ∧ d = 1 ∧ s.sbm.ctrlCap = none) :=
  ⟨⟨0, ask 0 0x0C00 0xFFFF [] w0, qreq (ask 0 0x0C00 0xFFFF [] w0) 0, accepted_of (by decide +kernel)⟩,
  ⟨0, ask 0 0x0C01 17 [] w0, qreq (ask 0 0x0C01 17 [] w0) 0, accepted_of (by decide +kernel), by decide +kernel⟩,
  ⟨0, ask 0 0x0C01 0xFFFF [] w0, qreq (ask 0 0x0C01 0xFFFF [] w0) 0, accepted_of (by decide +kernel), by decide +kernel⟩,
  ⟨0, ask 0 0x0C01 18 [] w0, qreq (ask 0 0x0C01 18 [] w0) 0, accepted_of (by decide +kernel), by decide +kernel⟩,
  ⟨0, ask 0 0x0C02 1 [0x00003F00, 512, 0x09080001] (slot0 { w0 with sbm := { ctrlCap := some cap1 } }) 0x04000000, qreq (ask 0 0x0C02 1
    [0x00003F00, 512, 0x09080001] (slot0 { w0 with sbm := { ctrlCap := some cap1 } }) 0x04000000) 0, 0, accepted_of (by decide +kernel),
    by decide +kernel⟩,
  ⟨0, ask 0 0x0C02 1 [0x00003F00, 512, 0] (slot0 w0) 0x04000000, qreq (ask 0 0x0C02 1 [0x00003F00, 512, 0] (slot0 w0) 0x04000000) 0,
    accepted_of (by decide +kernel), by decide +kernel⟩⟩

end Sys2Proof.Tests
end

namespace Sys2Proof

open Machine

/-! The queue, and the writes of plain registers (R9, R11): which of an access's rules applies, and what the masks of a register do. -/

/-! ## Steps -/

theorem step_of_pending_cons {s : State} {c : Instr} {rest : List Instr} (h : s.pending = c :: rest) :
    step s = exec c { s with pending := rest } := by
  simp only [step, h]

theorem step_of_pending_nil {s : State} (h : s.pending = []) : step s = .next s := by
  simp only [step, h]

/-- Settles O1: both clauses are the two cases of the queue. -/
theorem stepTakesFrontCommand : Obligations.StepTakesFrontCommand :=
  ⟨fun _ _ _ => step_of_pending_cons rfl, fun _ => step_of_pending_nil⟩

/-! ## Frames that the shared layer does not have -/

theorem onHpc_only (f : Hpc → Hpc) (s : State) : OnlyChanges [.hpc] s (onHpc f s) := by
  constructor; intro p hp; cases p <;> simp_all [Part.same]
theorem onXlt_only (f : Xlt → Xlt) (s : State) : OnlyChanges [.xlt] s (onXlt f s) := by
  constructor; intro p hp; cases p <;> simp_all [Part.same]
theorem onWel_only (f : Wel → Wel) (s : State) : OnlyChanges [.wel] s (onWel f s) := by
  constructor; intro p hp; cases p <;> simp_all [Part.same]
theorem onMpr_only (f : Mpr → Mpr) (s : State) : OnlyChanges [.mpr] s (onMpr f s) := by
  constructor; intro p hp; cases p <;> simp_all [Part.same]
theorem onSbm_only (f : Sbm → Sbm) (s : State) : OnlyChanges [.sbm] s (onSbm f s) := by
  constructor; intro p hp; cases p <;> simp_all [Part.same]
theorem onCst_only (f : Cst → Cst) (s : State) : OnlyChanges [.cst] s (onCst f s) := by
  constructor; intro p hp; cases p <;> simp_all [Part.same]

/-! ## The wake of R377 -/

/-- Outside STANDPIPE, and where it is not asked for, an access wakes nothing. -/
theorem wake_eq_self {s : State} (hm : s.sys.mode ≠ .standpipe) (hr : s.sys.modeReq ≠ some .standpipe) : wake s = s :=
  if_neg (not_or.2 ⟨hm, hr⟩)

theorem wake_hpc (s : State) : (wake s).hpc = s.hpc := (wake_only s).same .hpc (by decide)

theorem wake_regs (s : State) : (wake s).regs = s.regs := (wake_only s).same .regs (by decide)

theorem reg_wake (s : State) (r : RegId) (i : Nat) : reg (wake s) r i = reg s r i := by
  simp only [reg, wake_regs]

/-! ## Accesses of the register range -/

/-- R46: an access within the window through another function than the management one does nothing; so does one in HOLDUP and DORMANT. -/
theorem exec_registerWrite_of_barDown {fn addr size value : Nat} {s : State} (hw : addr + size ≤ 2 ^ 27) (hb : barUp s fn = false) :
    exec (.registerWrite fn addr size value) s = .next s := by
  simp only [exec, execRegisterWrite, Nat.not_lt.2 hw, hb, Bool.not_false, if_true, if_false]

/-- A write of the register range that is narrow or not aligned is dropped. -/
theorem exec_registerWrite_of_narrow {fn addr size value : Nat} {s : State} (ha : addr < 0x01000000) (hw : addr + size ≤ 2 ^ 27)
    (hb : barUp s fn = true) (hn : addr % 4 ≠ 0 ∨ (size ≠ 4 ∧ size ≠ 8)) :
    exec (.registerWrite fn addr size value) s = .next (wake s) := by
  simp only [exec, execRegisterWrite, Nat.not_lt.2 hw, hb, ha, hn, Bool.not_true, Bool.false_eq_true, if_true, if_false]

/-- An aligned write of one or two registers is offered to their islands. -/
theorem exec_registerWrite_of_aligned {fn addr size value : Nat} {s : State} (ha : addr < 0x01000000) (hw : addr + size ≤ 2 ^ 27)
    (hb : barUp s fn = true) (h4 : addr % 4 = 0) (hs : size = 4 ∨ size = 8) :
    exec (.registerWrite fn addr size value) s = .next (offer { write := true, addr, size, value } (wake s)) := by
  have hn : ¬(addr % 4 ≠ 0 ∨ (size ≠ 4 ∧ size ≠ 8)) := by omega
  simp only [exec, execRegisterWrite, Nat.not_lt.2 hw, hb, ha, hn, Bool.not_true, Bool.false_eq_true, if_true, if_false]

/-- A read of the register range is offered to the islands of its registers. -/
theorem exec_registerRead_of_reg {fn addr size : Nat} {s : State} (ha : addr < 0x01000000) (hw : addr + size ≤ 2 ^ 27)
    (hb : barUp s fn = true) :
    exec (.registerRead fn addr size) s = .next (offer { write := false, addr, size } (wake s)) := by
  simp only [exec, execRegisterRead, Nat.not_lt.2 hw, hb, ha, Bool.not_true, Bool.false_eq_true, if_true, if_false]

theorem offer_of_served {x : HeldAcc} {s : State} (h : accServed s x.addr x.size = true) : offer x s = doHeld x s := if_pos h

theorem offer_of_not_served {x : HeldAcc} {s : State} (h : accServed s x.addr x.size = false) :
    offer x s = onHpc (fun p => { p with held := p.held ++ [x] }) s := if_neg (by simp [h])

/-- An access that waits joins those that wait, and nothing else changes but the wake. -/
theorem offer_wake_held {x : HeldAcc} {s : State} (h : accServed (wake s) x.addr x.size = false) :
    (offer x (wake s)).hpc = { (wake s).hpc with held := s.hpc.held ++ [x] } ∧ OnlyChanges [.hpc, .sys] s (offer x (wake s)) := by
  rw [offer_of_not_served h]
  exact ⟨by rw [onHpc_hpc, wake_hpc], ((wake_only s).wide _ rfl).trans ((onHpc_only ..).wide _ rfl)⟩

/-- A 32-bit access touches one word. -/
theorem accWords_of_word {addr : Nat} (h : addr % 4 = 0) : accWords addr 4 = [addr] := by
  have h1 : (addr % 4 + 4 + 3) / 4 = 1 := by omega
  have h2 : addr / 4 * 4 = addr := by omega
  simp [accWords, h1, h2, List.range_succ]

theorem accServed_of_regAt {s : State} {addr i : Nat} {r : RegId} (h4 : addr % 4 = 0) (hr : regAt addr = some (r, i)) :
    accServed s addr 4 = regServed s r i := by
  simp [accServed, accWords_of_word h4, hr]

/-! ## Writes of plain registers -/

/-- What a write of `v` leaves in a register that held `old`: its RW bits are set, the W1C bits written 1 are cleared, Table 0-4. -/
def plainWrite (d : RegDef) (old v : Word) : Word :=
  (old &&& ~~~(d.rw ||| d.w1c)) ||| (v &&& d.rw) ||| (old &&& d.w1c &&& ~~~v)

/-- No bit of a register is both RW and W1C. -/
theorem regDef_rw_and_w1c (r : RegId) : (regDef r).rw &&& (regDef r).w1c = 0 := by
  cases r <;> rfl

/-- A register that is plain storage has no bits but RW, W1C and read-only ones. -/
theorem regDef_of_plainReg {r : RegId} (h : plainReg r = true) : (regDef r).rwl = 0 ∧ (regDef r).w1s = 0 := by
  simp only [plainReg, Bool.and_eq_true, beq_iff_eq] at h
  obtain ⟨⟨⟨hl, hs⟩, _⟩, _⟩ := h
  exact ⟨hl, hs⟩

/-- A write of a plain register acts by the access codes of its bits alone. -/
theorem writeReg_of_plainReg {r : RegId} (h : plainReg r = true) (i : Nat) (v : Word) (s : State) :
    writeReg r i v s = writeBits r i v s := by
  unfold writeReg
  split
  case h_17 => rfl
  all_goals exact absurd h (by decide)

theorem limited_of_plainReg {r : RegId} (h : plainReg r = true) (s : State) (old v : Word) : limited s r old v = v := by
  unfold limited
  split
  · exact absurd h (by decide)
  · exact absurd h (by decide)
  · rfl

/-- The masks of `writeBits` and `plainWrite` agree where no bit is both RW and W1C. -/
theorem maskedWrite_eq_plainWrite {d : RegDef} (h : d.rw &&& d.w1c = 0) (old v : Word) :
    ((old &&& ~~~d.rw) ||| (v &&& d.rw)) &&& ~~~(v &&& d.w1c) = plainWrite d old v := by
  ext j hj
  have hd : (d.rw[j] && d.w1c[j]) = false := by simp [← BitVec.getElem_and, h]
  simp only [plainWrite, BitVec.getElem_and, BitVec.getElem_or, BitVec.getElem_not]
  cases hr : d.rw[j] <;> cases hc : d.w1c[j] <;> simp_all

theorem writeBits_of_plainReg {r : RegId} (h : plainReg r = true) (i : Nat) (v : Word) (s : State) :
    writeBits r i v s = if plainWrite (regDef r) (reg s r i) v = reg s r i then s
      else setReg r i (plainWrite (regDef r) (reg s r i) v) s := by
  obtain ⟨hl, hs⟩ := regDef_of_plainReg h
  simp [writeBits, hl, hs, limited_of_plainReg h, maskedWrite_eq_plainWrite (regDef_rw_and_w1c r)]

theorem reg_writeReg_of_plainReg {r : RegId} (h : plainReg r = true) (i : Nat) (v : Word) (s : State) :
    reg (writeReg r i v s) r i = plainWrite (regDef r) (reg s r i) v := by
  rw [writeReg_of_plainReg h, writeBits_of_plainReg h]
  split
  · exact Eq.symm ‹_›
  · exact reg_setReg ..

theorem writeReg_onlyRegs_of_plainReg {r : RegId} (h : plainReg r = true) (i : Nat) (v : Word) (s : State) :
    OnlyRegs [regA r i] s (writeReg r i v s) := by
  rw [writeReg_of_plainReg h, writeBits_of_plainReg h]
  split
  · exact .refl _ _
  · exact setReg_onlyRegs ..

theorem writeReg_only_of_plainReg {r : RegId} (h : plainReg r = true) (i : Nat) (v : Word) (s : State) :
    OnlyChanges [.regs] s (writeReg r i v s) := by
  rw [writeReg_of_plainReg h, writeBits_of_plainReg h]
  exact .cond (fun _ => .refl _ _) fun _ => setReg_only ..

theorem writeAt_of_regAt {a i : Nat} {r : RegId} (h : regAt a = some (r, i)) (v : Word) (s : State) :
    writeAt a v s = writeReg r i v s := by
  simp only [writeAt, h]

/-- An aligned 32-bit write of a register in service is carried out. -/
theorem exec_registerWrite_of_regAt {fn addr value i : Nat} {r : RegId} {s : State} (ha : addr < 0x01000000) (h4 : addr % 4 = 0)
    (hb : barUp s fn = true) (hr : regAt addr = some (r, i)) (hs : regServed (wake s) r i = true) :
    exec (.registerWrite fn addr 4 value) s = .next (writeReg r i (lo32 value) (wake s)) := by
  rw [exec_registerWrite_of_aligned ha (by omega) hb h4 (.inl rfl),
    offer_of_served (by rw [accServed_of_regAt h4 hr, hs])]
  simp [doHeld, doWrite, writeAt_of_regAt hr]

/-- A 64-bit write of registers in service is two 32-bit writes, the lower address first. -/
theorem exec_registerWrite_wide {fn addr value : Nat} {s : State} (ha : addr < 0x00FFFFFC) (h4 : addr % 4 = 0)
    (hb : barUp s fn = true) (hs : accServed (wake s) addr 8 = true) :
    exec (.registerWrite fn addr 8 value) s = .next (writeAt (addr + 4) (hi32 value) (writeAt addr (lo32 value) (wake s))) := by
  rw [exec_registerWrite_of_aligned (by omega) (by omega) hb h4 (.inr rfl), offer_of_served hs]
  rfl

/-- Settles O5: a write is dropped, carried out or held by the accesses' rules; one that is carried out acts by the masks of the
register's bits. -/
theorem registerWrites : Obligations.RegisterWrites := by
  unfold Obligations.RegisterWrites
  refine ⟨?_, fun _ _ _ _ _ => exec_registerWrite_of_narrow, fun _ _ _ _ => exec_registerWrite_wide, ?_,
    fun _ _ _ _ _ => exec_registerWrite_of_barDown⟩
  · intro r i fn addr value s hp ha h4 hb hr hs
    refine ⟨_, exec_registerWrite_of_regAt ha h4 hb hr hs, ?_, ?_, ?_⟩
    · rw [reg_writeReg_of_plainReg hp, reg_wake]
      rfl
    · exact (OnlyRegs.of_eq (wake_regs s)).trans (writeReg_onlyRegs_of_plainReg hp ..)
    · exact ((wake_only s).wide _ rfl).trans ((writeReg_only_of_plainReg hp ..).wide _ rfl)
  · intro fn addr size value s ha hw hb h4 hs hn
    exact ⟨_, exec_registerWrite_of_aligned ha hw hb h4 hs, offer_wake_held hn⟩

end Sys2Proof

namespace Sys2Proof

open Machine

/-! The reads of registers (R9, R13, R469, R470): where a register is found, and what a read clears or latches. -/

/-! ## Registers by address -/

theorem findReg_of_instAt_none {a : Nat} {r : RegId} (rs : List RegId) (h : (regDef r).instAt a = none) :
    findReg a (r :: rs) = findReg a rs := by
  simp only [findReg, h]

theorem findReg_of_instAt_some {a i : Nat} {r : RegId} (rs : List RegId) (h : (regDef r).instAt a = some i) :
    findReg a (r :: rs) = some (r, i) := by
  simp only [findReg, h]

/-- A search passes over registers that are not at the address. -/
theorem findReg_append_of_none {a : Nat} (l rs : List RegId) (h : ∀ r ∈ l, (regDef r).instAt a = none) :
    findReg a (l ++ rs) = findReg a rs := by
  induction l with
  | nil => rfl
  | cons r l ih =>
    rw [List.cons_append, findReg_of_instAt_none _ (h r List.mem_cons_self)]
    exact ih fun x hx => h x (List.mem_cons_of_mem r hx)

/-- No repeat of a register with one stride lies past its last one. -/
theorem RegDef.instAt_none_of_above {d : RegDef} {a : Nat} (h2 : d.n2 = 1) (h : d.addr + d.stride * d.n < a) : d.instAt a = none := by
  have hlow : ¬a < d.addr := by omega
  have hne : ¬a = d.addr := by omega
  have hfar : ¬((a - d.addr) % d.stride = 0 ∧ (a - d.addr) / d.stride < d.n) := by
    rintro ⟨hm, hq⟩
    have hdm := Nat.div_add_mod (a - d.addr) d.stride
    have hle := Nat.mul_le_mul_left d.stride hq.le
    omega
  simp [RegDef.instAt, h2, hlow, hne, hfar]

/-- Whether a register repeats with the stride of the tenants' registers, at another offset than `r` and not after it. -/
def besideTenantReg (r x : RegId) : Bool :=
  (regDef x).n2 == 1 && (regDef x).n != 1 && (regDef x).stride == 0x20 && decide ((regDef x).addr ≤ (regDef r).addr) &&
    ((regDef r).addr - (regDef x).addr) % 0x20 != 0

/-- A register beside `r` has no repeat at an address of `r`. -/
theorem instAt_none_of_beside {r x : RegId} {k : Nat} (h : besideTenantReg r x = true) :
    (regDef x).instAt ((regDef r).addr + 0x20 * k) = none := by
  simp only [besideTenantReg, Bool.and_eq_true, beq_iff_eq, bne_iff_ne, decide_eq_true_eq] at h
  obtain ⟨⟨⟨⟨h2, hn⟩, hs⟩, hle⟩, hm⟩ := h
  have hoff : ((regDef r).addr + 0x20 * k - (regDef x).addr) % 0x20 ≠ 0 := by omega
  simp [RegDef.instAt, h2, hn, hs, hoff]

/-- Repeat `i` of a register is at its address. -/
theorem RegDef.instAt_addrOf {d : RegDef} {i : Nat} (h2 : d.n2 = 1) (hn : d.n ≠ 1) (hs : 0 < d.stride) (hi : i < d.n) :
    d.instAt (d.addrOf i) = some i := by
  simp [RegDef.instAt, RegDef.addrOf, h2, hn, hi, Nat.mul_div_cancel_left i hs]

/-- The search for an address of the tenants' registers begins at those. -/
theorem regAt_of_tenant {a : Nat} (h : 0xC1000 ≤ a) : regAt a = findReg a (regIds.drop 28) := by
  have hbelow : ∀ r ∈ regIds.take 28, (regDef r).n2 = 1 ∧ (regDef r).addr + (regDef r).stride * (regDef r).n < 0xC1000 := by
    decide
  rw [regAt, ← List.take_append_drop 28 regIds, findReg_append_of_none]
  · rw [List.take_append_drop]
  · intro r hr
    obtain ⟨h2, hr⟩ := hbelow r hr
    exact RegDef.instAt_none_of_above h2 (by omega)

/-- A register of the tenants is found at the addresses of its 1024 repeats. -/
theorem regAt_of_tenantReg {r : RegId} {k : Nat} (before rest : List RegId) (hl : regIds.drop 28 = before ++ r :: rest)
    (hd : (regDef r).n2 = 1 ∧ (regDef r).n = 1024 ∧ (regDef r).stride = 0x20 ∧ 0xC1000 ≤ (regDef r).addr)
    (hb : ∀ x ∈ before, besideTenantReg r x = true) (hk : k < 1024) : regAt (regA r k) = some (r, k) := by
  obtain ⟨h2, hn, hs, hlow⟩ := hd
  have ha : regA r k = (regDef r).addr + 0x20 * k := by simp [regA, RegDef.addrOf, h2, hs]
  rw [regAt_of_tenant (by omega), hl, findReg_append_of_none]
  · exact findReg_of_instAt_some _ (RegDef.instAt_addrOf h2 (by omega) (by omega) (by omega))
  · intro x hx
    rw [ha]
    exact instAt_none_of_beside (hb x hx)

theorem regAt_qosTntUnitsLo {k : Nat} (hk : k < 1024) : regAt (regA .qosTntUnitsLo k) = some (.qosTntUnitsLo, k) :=
  regAt_of_tenantReg [.qosTntBw, .qosTntIo, .qosTntCtl] (regIds.drop 32) rfl (by decide) (by decide) hk

theorem regAt_qosTntUnitsHi {k : Nat} (hk : k < 1024) : regAt (regA .qosTntUnitsHi k) = some (.qosTntUnitsHi, k) :=
  regAt_of_tenantReg [.qosTntBw, .qosTntIo, .qosTntCtl, .qosTntUnitsLo] (regIds.drop 33) rfl (by decide) (by decide) hk

theorem regAt_nvqHwm : regAt 0x80024 = some (.nvqHwm, 0) := rfl

theorem regAt_fltLast : regAt (regA .fltLast) = some (.fltLast, 0) := rfl

/-! ## Reads -/

theorem valueAt_of_regAt {a i : Nat} {r : RegId} (h : regAt a = some (r, i)) (s : State) : valueAt s a = regValue s r i := by
  simp only [valueAt, h]

theorem readAt_of_regAt {a i : Nat} {r : RegId} (h : regAt a = some (r, i)) (s : State) : readAt a s = readEffect r i s := by
  simp only [readAt, h]

/-- R13, R466: an address at which no register is defined reads as 0 and a read of it does nothing. -/
theorem readAt_of_regAt_none {a : Nat} (h : regAt a = none) (s : State) : valueAt s a = 0 ∧ readAt a s = s := by
  simp only [valueAt, readAt, h, and_self]

/-- The subsystems with a register that a read clears or latches (R469, R470). -/
def readParts : List Part := [.nvq, .xlt, .wel, .mpr, .flt, .sbm, .qos, .cst, .pwr]

theorem readEffect_only (r : RegId) (i : Nat) (s : State) : OnlyChanges readParts s (readEffect r i s) := by
  unfold readEffect
  split
  · exact (onNvq_only ..).wide _ rfl
  · exact (onNvq_only ..).wide _ rfl
  · exact (onXlt_only ..).wide _ rfl
  · exact (onWel_only ..).wide _ rfl
  · exact (onMpr_only ..).wide _ rfl
  · exact (onFlt_only ..).wide _ rfl
  · exact (onSbm_only ..).wide _ rfl
  · exact (modTnt_only ..).wide _ rfl
  · exact (onCst_only ..).wide _ rfl
  · exact (onPwr_only ..).wide _ rfl
  · exact (onPwr_only ..).wide _ rfl
  · exact .refl _ _

theorem readAt_only (a : Nat) (s : State) : OnlyChanges readParts s (readAt a s) := by
  unfold readAt
  split
  · exact .refl _ _
  · exact readEffect_only ..

/-- An aligned 32-bit read returns the register's value, then has its effect. -/
theorem doRead_word {a : Nat} (h4 : a % 4 = 0) (s : State) : doRead a 4 s = readAt a (emit (.regRead a (valueAt s a).toNat) s) :=
  if_pos ⟨h4, rfl⟩

/-- A narrow read returns the bytes it addresses. -/
theorem doRead_narrow {a size : Nat} (hn : a % 4 ≠ 0 ∨ (size ≠ 4 ∧ size ≠ 8)) (s : State) :
    doRead a size s = emit (.regRead a (leNat ((upFrom a size).map (regByte s)))) s := by
  rw [doRead, if_neg (by omega), if_neg (by omega)]

/-- Where STANDPIPE is neither the mode nor asked for, an aligned 32-bit read of registers in service returns and has its effect. -/
theorem exec_registerRead_word {fn addr : Nat} {s : State} (ha : addr < 0x01000000) (h4 : addr % 4 = 0) (hb : barUp s fn = true)
    (hm : s.sys.mode ≠ .standpipe) (hr : s.sys.modeReq ≠ some .standpipe) (hs : accServed s addr 4 = true) :
    exec (.registerRead fn addr 4) s = .next (readAt addr (emit (.regRead addr (valueAt s addr).toNat) s)) := by
  rw [exec_registerRead_of_reg ha (by omega) hb, wake_eq_self hm hr, offer_of_served hs, ← doRead_word h4]
  rfl

theorem exec_registerRead_narrow {fn addr size : Nat} {s : State} (ha : addr < 0x01000000) (hw : addr + size ≤ 2 ^ 27)
    (hb : barUp s fn = true) (hn : addr % 4 ≠ 0 ∨ (size ≠ 4 ∧ size ≠ 8)) (hs : accServed (wake s) addr size = true) :
    exec (.registerRead fn addr size) s =
      .next (emit (.regRead addr (leNat ((upFrom addr size).map (regByte (wake s))))) (wake s)) := by
  rw [exec_registerRead_of_reg ha hw hb, offer_of_served hs, ← doRead_narrow hn]
  rfl

/-- R470: a read of NVQ_HWM clears both marks. -/
theorem readAt_nvqHwm (s : State) : readAt 0x80024 s = onNvq (fun n => { n with tagHwm := 0, ovlHwm := 0 }) s :=
  readAt_of_regAt regAt_nvqHwm s

/-- R470: a read of FLT_LAST clears its VALID bit. -/
theorem readAt_fltLast (s : State) : readAt (regA .fltLast) s = onFlt (fun f => { f with lastValid := false }) s :=
  readAt_of_regAt regAt_fltLast s

/-- R149, R469: a read of QOS_TNT_UNITS_LO[k] latches the high word of the count. -/
theorem readAt_qosTntUnitsLo {k : Nat} (hk : k < 1024) (s : State) :
    readAt (regA .qosTntUnitsLo k) s = modTnt k (fun t => { t with hiLatch := t.units / 2 ^ 32 % 2 ^ 32 }) s :=
  readAt_of_regAt (regAt_qosTntUnitsLo hk) s

theorem tntAt_modTnt (k : Nat) (f : Tenant → Tenant) (s : State) : tntAt (modTnt k f s) k = f (tntAt s k) :=
  tgetD_tset_same ..

/-- The halves of a 64-bit count, as two 32-bit words, make the count. -/
theorem lo32_toNat_add_hi32_toNat (n : Nat) :
    (lo32 n).toNat + 2 ^ 32 * (lo32 (n / 2 ^ 32 % 2 ^ 32)).toNat = n % 2 ^ 64 := by
  simp only [lo32, BitVec.toNat_ofNat]
  omega

/-- Settles O7: a read is carried out or held by the accesses' rules; one that is carried out clears or latches in the subsystem that
keeps the register. -/
theorem registerReads : Obligations.RegisterReads := by
  unfold Obligations.RegisterReads
  refine ⟨?_, fun _ s h => readAt_of_regAt_none h s, fun _ _ _ _ => exec_registerRead_narrow, ?_, ?_, ?_, ?_⟩
  · intro fn addr s ha h4 hb hm hr hs
    have h := readAt_only addr (emit (.regRead addr (valueAt s addr).toNat) s)
    exact ⟨_, exec_registerRead_word ha h4 hb hm hr hs, h.same .out (by decide), h.same .regs (by decide), h.same .cam (by decide),
      h.same .sys (by decide), h.same .pins (by decide), h.same .fte (by decide), h.same .dre (by decide)⟩
  · intro fn addr size s ha hw hb hn
    exact ⟨_, exec_registerRead_of_reg ha hw hb, offer_wake_held hn⟩
  · intro s
    rw [readAt_nvqHwm]
    exact ⟨rfl, rfl, onNvq_only ..⟩
  · intro s
    rw [readAt_fltLast]
    exact ⟨rfl, onFlt_only ..⟩
  · intro k s hk _
    simp only [readAt_qosTntUnitsLo hk, valueAt_of_regAt (regAt_qosTntUnitsLo hk), valueAt_of_regAt (regAt_qosTntUnitsHi hk), regValue,
      tntAt_modTnt]
    exact ⟨lo32_toNat_add_hi32_toNat _, trivial, trivial, modTnt_only ..⟩

end Sys2Proof

namespace Sys2Proof

open Machine

/-! Totality: every command within the window answers a next state. -/

/-! ## Totality of the commands -/

/-- A meaning answers a next state. -/
def IsNext (r : Res) : Prop := ∃ t, r = .next t

theorem IsNext.next {t : State} : IsNext (.next t) := ⟨t, rfl⟩

theorem IsNext.ite {c : Prop} [Decidable c] {a b : Res} (ha : IsNext a) (hb : IsNext b) : IsNext (if c then a else b) := by
  split
  · exact ha
  · exact hb

theorem IsNext.ite_neg {c : Prop} [Decidable c] {a b : Res} (hc : ¬c) (hb : IsNext b) : IsNext (if c then a else b) := by
  rwa [if_neg hc]

/-- What waits for a sequencer answers a next state: where the sequencer is not up nothing changes. -/
theorem IsNext.onSeq {k : Nat} {s : State} {r : Res} (h : IsNext r) : IsNext (onSeq k s r) := .ite h .next

/-! ### Power -/

theorem execTokenGrant_isNext (die op : Nat) (s : State) : IsNext (execTokenGrant die op s) := by
  unfold execTokenGrant
  refine .ite .next (.ite ?_ ?_)
  · split
    · exact .next
    · exact .ite (.ite .next .next) .next
  · extract_lets rq
    clear_value rq
    cases rq with
    | none => exact .next
    | some r =>
      dsimp only
      split
      · exact .next
      · exact .ite .next .next

theorem execSelfTestComplete_isNext (fail : SelfTestFail) (s : State) : IsNext (execSelfTestComplete fail s) := by
  unfold execSelfTestComplete
  refine .ite .next ?_
  split <;> exact .next

/-! ### Host ports and the twin link -/

theorem execReceivedErrorTlp_isNext (port : Nat) (e : ErrTlp) (fn : Nat) (tag : Option Nat) (hdr : List Word) (s : State) :
    IsNext (execReceivedErrorTlp port e fn tag hdr s) := by
  unfold execReceivedErrorTlp
  refine .ite .next ?_
  extract_lets
  split <;> exact .next

theorem execInboundWindowRequest_isNext (fromPartner : Bool) (addr : Nat) (r : WindowReq) (s : State) :
    IsNext (execInboundWindowRequest fromPartner addr r s) := by
  unfold execInboundWindowRequest
  split
  · exact .next
  · refine .ite .next (.ite .next ?_)
    split <;> exact .next

theorem execPrPerstRelease_isNext (s : State) : IsNext (execPrPerstRelease s) := by
  unfold execPrPerstRelease
  split
  · exact .next
  · exact .ite .next .next

theorem execTwinConfigStart_isNext (chipId : Word) (pface authOk rdy : Bool) (s : State) :
    IsNext (execTwinConfigStart chipId pface authOk rdy s) := by
  unfold execTwinConfigStart
  split
  · exact .next
  · exact .ite .next (.ite .next (.ite .next (.ite .next .next)))

theorem execTwinPartnerLost_isNext (s : State) : IsNext (execTwinPartnerLost s) := by
  unfold execTwinPartnerLost
  split
  · exact .next
  · exact .ite .next .next

theorem execTwinRetry_isNext (s : State) : IsNext (execTwinRetry s) := by
  unfold execTwinRetry
  split
  · exact .next
  · exact .ite .next .next

/-! ### NVMe queueing -/

theorem execControllerEnable_isNext (ctrl ams mps asqs acqs : Nat) (s : State) :
    IsNext (execControllerEnable ctrl ams mps asqs acqs s) := by
  unfold execControllerEnable
  split
  · exact .next
  · exact .ite .next .next

theorem execSqTailDoorbell_isNext (ctrl qid value : Nat) (s : State) : IsNext (execSqTailDoorbell ctrl qid value s) := by
  unfold execSqTailDoorbell
  refine .ite .next ?_
  split
  · exact .next
  · exact .ite .next .next

theorem execCqHeadDoorbell_isNext (ctrl qid value : Nat) (s : State) : IsNext (execCqHeadDoorbell ctrl qid value s) := by
  unfold execCqHeadDoorbell
  refine .ite .next ?_
  split
  · exact .next
  · exact .ite .next .next

theorem execSubmissionFetch_isNext (ctrl qid : Nat) (r : FetchResult) (s : State) : IsNext (execSubmissionFetch ctrl qid r s) := by
  unfold execSubmissionFetch
  split
  · exact .next
  · refine .ite .next ?_
    split <;> exact .next

theorem execContextMadeHot_isNext (ctrl qid : Nat) (s : State) : IsNext (execContextMadeHot ctrl qid s) := by
  unfold execContextMadeHot
  split
  · exact .next
  · exact .ite .next .next

theorem execFetchRetry_isNext (ctrl qid : Nat) (r : FetchResult) (s : State) : IsNext (execFetchRetry ctrl qid r s) := by
  unfold execFetchRetry
  split
  · exact .next
  · refine .ite .next ?_
    extract_lets
    split <;> exact .next

theorem execAdmitToRun_isNext (tag : Nat) (s : State) : IsNext (execAdmitToRun tag s) := by
  unfold execAdmitToRun
  split
  · exact .next
  · refine .ite .next ?_
    split
    · exact .next
    · split
      · exact .next
      · exact .ite .next (.ite .next (.ite .next .next))

theorem execCompletionPost_isNext (tag : Nat) (s : State) : IsNext (execCompletionPost tag s) := by
  unfold execCompletionPost
  split
  · exact .next
  · split
    · exact .ite .next .next
    · exact .next
    · split
      · exact .next
      · exact .ite .next .next

theorem execFlush_isNext (tag : Nat) (s : State) : IsNext (execFlush tag s) := by
  unfold execFlush
  split
  · exact .next
  · exact .ite .next .next

/-! ### Tenants -/

theorem execTransferBlockStart_isNext (tag : Nat) (s : State) : IsNext (execTransferBlockStart tag s) := by
  unfold execTransferBlockStart
  split
  · exact .next
  · split
    · exact .ite .next .next
    · exact .next

theorem execTraceEnd_isNext (s : State) : IsNext (execTraceEnd s) := by
  unfold execTraceEnd
  split
  · exact .next
  · exact .ite .next .next

/-! ### Translation -/

theorem execTranslationCompletion_isNext (req : Nat) (a : XlatAnswer) (s : State) : IsNext (execTranslationCompletion req a s) := by
  unfold execTranslationCompletion
  split
  · exact .next
  · refine .ite .next (.ite .next (.ite .next ?_))
    split
    · exact .next
    · exact .next
    · exact .ite .next .next

theorem execTranslationRetry_isNext (req : Nat) (s : State) : IsNext (execTranslationRetry req s) := by
  unfold execTranslationRetry
  split
  · exact .next
  · exact .ite .next (.ite .next (.ite .next .next))

theorem execPrgSend_isNext (tag : Nat) (s : State) : IsNext (execPrgSend tag s) := by
  unfold execPrgSend
  split
  · exact .next
  · refine .ite .next ?_
    split
    · exact .next
    · split
      · exact .next
      · exact .ite .next .next

theorem execPrgResponse_isNext (ctrl prg : Nat) (a : PrgAnswer) (s : State) : IsNext (execPrgResponse ctrl prg a s) := by
  unfold execPrgResponse
  refine .ite .next ?_
  extract_lets
  split <;> exact .next

theorem execContextResume_isNext (id : Nat) (k : CtxKind) (s : State) : IsNext (execContextResume id k s) := by
  unfold execContextResume
  refine .ite .next ?_
  split
  · split
    · exact .ite .next .next
    · exact .next
  · split
    · exact .ite .next .next
    · exact .next
  · split
    · exact .ite .next .next
    · exact .next

/-! ### Flash translation -/

theorem execMapFold_isNext (s : State) : IsNext (execMapFold s) := by
  unfold execMapFold
  refine .onSeq (.ite .next ?_)
  split
  · exact .next
  · exact .ite .next .next

theorem execLogCompaction_isNext (s : State) : IsNext (execLogCompaction s) := by
  unfold execLogCompaction
  refine .onSeq (.ite .next ?_)
  split
  · exact .next
  · exact .ite .next .next

theorem execRangeRecordFold_isNext (slot : Nat) (s : State) : IsNext (execRangeRecordFold slot s) := by
  unfold execRangeRecordFold
  refine .ite .next ?_
  split <;> exact .next

theorem execWriteGrant_isNext (tag : Nat) (s : State) : IsNext (execWriteGrant tag s) := by
  unfold execWriteGrant
  refine .onSeq ?_
  split
  · exact .next
  · exact .ite .next .next

theorem execGcSelect_isNext (dom : Nat) (s0 : State) : IsNext (execGcSelect dom s0) := by
  unfold execGcSelect
  refine .onSeq (.ite .next ?_)
  split
  · exact .next
  · split <;> exact .next

theorem execGcScan_isNext (dom stripe : Nat) (outcomes : List IuOutcome) (s : State) : IsNext (execGcScan dom stripe outcomes s) := by
  unfold execGcScan
  refine .onSeq ?_
  split
  · exact .ite (.ite .next .next) .next
  · exact .next

theorem execGcDrain_isNext (dom stripe : Nat) (s : State) : IsNext (execGcDrain dom stripe s) := by
  unfold execGcDrain
  refine .onSeq ?_
  split
  · exact .ite .next .next
  · exact .next

theorem execErasePass_isNext (die block : Nat) (s : State) : IsNext (execErasePass die block s) := by
  unfold execErasePass
  split <;> exact .next

theorem execEraseFailure_isNext (die block : Nat) (s : State) : IsNext (execEraseFailure die block s) := by
  unfold execEraseFailure
  split <;> exact .next

theorem execProgramFailure_isNext (die block step : Nat) (s : State) : IsNext (execProgramFailure die block step s) := by
  unfold execProgramFailure
  split <;> exact .next

/-! ### Flash channels -/

theorem execDieEntryChosen_isNext (die : Nat) (s0 : State) : IsNext (execDieEntryChosen die s0) := by
  unfold execDieEntryChosen
  refine .ite .next ?_
  split
  · exact .next
  · exact .ite .next (.ite .next .next)

theorem execBusTransferGrant_isNext (ch die : Nat) (s : State) : IsNext (execBusTransferGrant ch die s) := by
  unfold execBusTransferGrant
  refine .ite .next ?_
  split
  · exact .next
  · refine .ite .next ?_
    extract_lets
    split <;> exact .next

theorem execDieReadyPoll_isNext (die : Nat) (s : State) : IsNext (execDieReadyPoll die s) := by
  unfold execDieReadyPoll
  refine .ite .next (.ite .next ?_)
  split
  · exact .next
  · extract_lets
    split <;> exact .next

theorem execArrayOverrun_isNext (die : Nat) (s : State) : IsNext (execArrayOverrun die s) := by
  unfold execArrayOverrun
  refine .ite .next ?_
  split <;> exact .next

theorem execSuspendDue_isNext (die : Nat) (s : State) : IsNext (execSuspendDue die s) := by
  unfold execSuspendDue
  extract_lets
  split
  · exact .next
  · exact .ite .next (.ite .next (.ite .next .next))

theorem execEraseSuspendDone_isNext (die : Nat) (s : State) : IsNext (execEraseSuspendDone die s) := by
  unfold execEraseSuspendDone
  split
  · exact .next
  · exact .ite .next .next

theorem execResumeDue_isNext (die : Nat) (s : State) : IsNext (execResumeDue die s) := by
  unfold execResumeDue
  extract_lets
  split
  · exact .next
  · exact .ite .next (.ite .next .next)

theorem execReadAroundOffer_isNext (die op : Nat) (s : State) : IsNext (execReadAroundOffer die op s) := by
  unfold execReadAroundOffer
  extract_lets
  split
  · exact .next
  · exact .ite .next (.ite .next .next)

theorem execRetrainQueueServed_isNext (s : State) : IsNext (execRetrainQueueServed s) := by
  unfold execRetrainQueueServed
  refine .onSeq (.ite .next ?_)
  split <;> exact .next

theorem execRetrainComplete_isNext (t : ChTrain) (s : State) : IsNext (execRetrainComplete t s) := by
  unfold execRetrainComplete
  refine .onSeq ?_
  split
  · exact .next
  · exact .ite .next (.ite .next .next)

/-! ### Signal recovery -/

theorem execFrameReceived_isNext (ch cw : Nat) (m : Marks) (s : State) : IsNext (execFrameReceived ch cw m s) := by
  unfold execFrameReceived
  split
  · exact .next
  · refine .ite .next ?_
    extract_lets
    split
    · exact .ite .next (.ite .next (.ite .next .next))
    · exact .ite .next .next
    · exact .ite .next (.ite .next .next)

theorem execDecodeResult_isNext (cw step : Nat) (d : Decode) (s : State) : IsNext (execDecodeResult cw step d s) := by
  unfold execDecodeResult
  split
  · exact .next
  · exact .ite .next (.ite (.ite .next .next) (.ite .next .next))

theorem execCandidateExpiry_isNext (die plane col : Nat) (s : State) : IsNext (execCandidateExpiry die plane col s) := by
  unfold execCandidateExpiry
  refine .onSeq ?_
  extract_lets
  split
  · exact .next
  · exact .ite .next .next

/-! ### Die redundancy -/

theorem execReconstructionDone_isNext (cw : Nat) (sealOk partner : Bool) (s : State) :
    IsNext (execReconstructionDone cw sealOk partner s) := by
  unfold execReconstructionDone
  refine .ite .next ?_
  extract_lets
  split
  · exact .next
  · exact .ite .next .next

theorem execRebuildStripeStep_isNext (dom stripe : Nat) (sealBad : List Nat) (accMis : Bool) (s : State) :
    IsNext (execRebuildStripeStep dom stripe sealBad accMis s) := by
  unfold execRebuildStripeStep
  refine .onSeq ?_
  split
  · exact .next
  · refine .ite .next (.ite .next (.ite .next ?_))
    extract_lets
    split
    · exact .next
    · split
      · exact .next
      · exact .ite .next (.ite (.ite .next .next) (.ite .next (.ite .next .next)))

theorem execMirrorCompletion_isNext (tag : Nat) (s : State) : IsNext (execMirrorCompletion tag s) := by
  unfold execMirrorCompletion
  split
  · exact .next
  · exact .ite .next .next

theorem execMirrorTimeout_isNext (tag : Nat) (s : State) : IsNext (execMirrorTimeout tag s) := by
  unfold execMirrorTimeout
  split
  · exact .next
  · exact .ite .next .next

theorem execResyncChunkComplete_isNext (ns gran : Nat) (last sealOk : Bool) (s0 : State) :
    IsNext (execResyncChunkComplete ns gran last sealOk s0) := by
  unfold execResyncChunkComplete
  refine .onSeq ?_
  extract_lets
  split
  · exact .next
  · exact .ite .next (.ite .next .next)

/-! ### The dispatch -/

/-- Every command answers a next state but a window access past the window's end: the commands without a lemma of their own have at most
a guard, and the window accesses fault on nothing but their address. -/
theorem exec_isNext (c : Instr) (s : State) (hw : inWindow c = true) : IsNext (exec c s) := by
  cases c with
  | registerWrite | registerRead | ringEntryWrite | slotFlagWrite =>
    exact .ite_neg (Nat.not_lt.2 (of_decide_eq_true hw)) .next
  | bootStepComplete | standpipeEntry | dormantEntry | thermalRead | poolRecompute | powerAverageCheck | datasetManagement | scrubPass |
    warmActivationSwitch | updConfirm | whsOperationComplete | spdmRequest | sanitizePhaseDone | requestTaken | camentMctpMessage =>
    exact .onSeq .next
  | zk540Window | hotReset | linkDown | flrPf | flrVf | ideCheckFail | completionTimeout | atsInvalidateRequest | controllerReset |
    shutdownNotification | heldAenDelivery | meterTick | prgTimeout | engineStepStart | channelTempSample | sreStatePageWrite | linkUp |
    dieResetReadyTimeout => exact .ite .next .next
  | marginCheck | loopWindowUpdate | stripeIdleClose | granuleInactive => exact .onSeq (.ite .next .next)
  | perstNAsserted => exact .ite .next (.ite .next .next)
  | mapPageLoaded | rebuildMapScan | checkpoint => exact .onSeq (.ite .next (.ite .next .next))
  | perstNDeasserted | configRequest => exact .ite .next (.ite .next (.ite .next .next))
  | tokenGrant => exact execTokenGrant_isNext ..
  | selfTestComplete => exact execSelfTestComplete_isNext ..
  | receivedErrorTlp => exact execReceivedErrorTlp_isNext ..
  | inboundWindowRequest => exact execInboundWindowRequest_isNext ..
  | prPerstRelease => exact execPrPerstRelease_isNext ..
  | twinConfigStart => exact execTwinConfigStart_isNext ..
  | twinPartnerLost => exact execTwinPartnerLost_isNext ..
  | twinRetry => exact execTwinRetry_isNext ..
  | controllerEnable => exact execControllerEnable_isNext ..
  | sqTailDoorbell => exact execSqTailDoorbell_isNext ..
  | cqHeadDoorbell => exact execCqHeadDoorbell_isNext ..
  | submissionFetch => exact execSubmissionFetch_isNext ..
  | contextMadeHot => exact execContextMadeHot_isNext ..
  | fetchRetry => exact execFetchRetry_isNext ..
  | admitToRun => exact execAdmitToRun_isNext ..
  | completionPost => exact execCompletionPost_isNext ..
  | flush => exact execFlush_isNext ..
  | transferBlockStart => exact execTransferBlockStart_isNext ..
  | traceEnd => exact execTraceEnd_isNext ..
  | translationCompletion => exact execTranslationCompletion_isNext ..
  | translationRetry => exact execTranslationRetry_isNext ..
  | prgSend => exact execPrgSend_isNext ..
  | prgResponse => exact execPrgResponse_isNext ..
  | contextResume => exact execContextResume_isNext ..
  | mapFold => exact execMapFold_isNext ..
  | logCompaction => exact execLogCompaction_isNext ..
  | rangeRecordFold => exact execRangeRecordFold_isNext ..
  | writeGrant => exact execWriteGrant_isNext ..
  | gcSelect dom => exact execGcSelect_isNext dom s
  | gcScan => exact execGcScan_isNext ..
  | gcDrain => exact execGcDrain_isNext ..
  | erasePass => exact execErasePass_isNext ..
  | eraseFailure => exact execEraseFailure_isNext ..
  | programFailure => exact execProgramFailure_isNext ..
  | dieEntryChosen => exact execDieEntryChosen_isNext ..
  | busTransferGrant => exact execBusTransferGrant_isNext ..
  | dieReadyPoll => exact execDieReadyPoll_isNext ..
  | arrayOverrun => exact execArrayOverrun_isNext ..
  | suspendDue => exact execSuspendDue_isNext ..
  | eraseSuspendDone => exact execEraseSuspendDone_isNext ..
  | resumeDue => exact execResumeDue_isNext ..
  | readAroundOffer => exact execReadAroundOffer_isNext ..
  | retrainQueueServed => exact execRetrainQueueServed_isNext ..
  | retrainComplete => exact execRetrainComplete_isNext ..
  | frameReceived => exact execFrameReceived_isNext ..
  | decodeResult => exact execDecodeResult_isNext ..
  | candidateExpiry => exact execCandidateExpiry_isNext ..
  | reconstructionDone => exact execReconstructionDone_isNext ..
  | rebuildStripeStep => exact execRebuildStripeStep_isNext ..
  | mirrorCompletion => exact execMirrorCompletion_isNext ..
  | mirrorTimeout => exact execMirrorTimeout_isNext ..
  | resyncChunkComplete => exact execResyncChunkComplete_isNext ..
  | _ => exact .next

/-- Settles O2: totality by the dispatch, and the address check of the four window accesses. -/
theorem everyCommandCompletes : Obligations.EveryCommandCompletes :=
  ⟨exec_isNext, fun _ _ _ _ _ h => ⟨if_pos h, if_pos h⟩, fun _ _ _ _ h => if_pos h, fun _ _ _ _ _ h => if_pos h⟩

end Sys2Proof

namespace Sys2Proof

open Machine

/-! What the device's own work keeps: which commands an asynchronous event can complete, and what reads of flash and of map pages, stripes and
programs leave alone (R163, R182, R193, R210, R366). -/

/-! ## Commands that no asynchronous event completes -/

/-- Every command that is no outstanding Asynchronous Event Request keeps its tag entry, and becomes none. -/
structure CmdsKept (s t : State) : Prop where
  kept : ∀ j, NoAer j s → NoAer j t ∧ tget t.nvq.tags j = tget s.nvq.tags j

theorem CmdsKept.refl (s : State) : CmdsKept s s := ⟨fun _ h => ⟨h, rfl⟩⟩

theorem CmdsKept.trans {s t u : State} (h : CmdsKept s t) (k : CmdsKept t u) : CmdsKept s u := by
  constructor
  intro j hj
  obtain ⟨h1, h2⟩ := h.kept j hj
  obtain ⟨k1, k2⟩ := k.kept j h1
  exact ⟨k1, k2.trans h2⟩

theorem CmdsKept.of_nvq {s t : State} (h : t.nvq = s.nvq) : CmdsKept s t :=
  ⟨fun j hj => by simpa only [NoAer, h, and_true] using hj⟩

theorem CmdsKept.each {α : Type} (xs : List α) (f : α → State → State) (s : State) (h : ∀ x s, CmdsKept s (f x s)) :
    CmdsKept s (forEach xs f s) := by
  unfold forEach
  induction xs generalizing s with
  | nil => exact .refl s
  | cons x xs ih => exact (h x s).trans (ih (f x s))

theorem CmdsKept.cond {s t u : State} {c : Prop} [Decidable c] (h : c → CmdsKept s t) (k : ¬c → CmdsKept s u) :
    CmdsKept s (if c then t else u) := by
  split
  · exact h ‹_›
  · exact k ‹_›

theorem NoAer.setCtrl {j c : Nat} {x : Ctrl} {s : State} (h : NoAer j s) (hx : j ∉ x.aers) : NoAer j (setCtrl c x s) := by
  intro d y hy
  simp only [Machine.setCtrl, tget_tset] at hy
  split at hy
  · cases hy; exact hx
  · exact h d y hy

theorem setPost_ctrls (t : Nat) (sc : Sc) (d : Bool) (a b : Nat) (m : Tag → Nat) (s : State) :
    (setPost t sc d a b m s).nvq.ctrls = s.nvq.ctrls := by
  unfold setPost
  split
  · rfl
  · split <;> rfl

theorem tget_setPost_ne {j t : Nat} (h : j ≠ t) (sc : Sc) (d : Bool) (a b : Nat) (m : Tag → Nat) (s : State) :
    tget (setPost t sc d a b m s).nvq.tags j = tget s.nvq.tags j := by
  unfold setPost
  split
  · rfl
  · split
    · rfl
    · exact tget_tset_ne _ _ h

theorem sendAen_cmds (c : Nat) (a : Aen) (s : State) : CmdsKept s (sendAen c a s) := by
  unfold sendAen
  split
  · exact .refl s
  · rename_i x hx
    refine .cond (fun _ => .refl s) fun _ => ⟨fun j hj => ?_⟩
    have haers := hj c x hx
    split
    · exact ⟨hj.setCtrl haers, rfl⟩
    · rename_i t ts hts
      rw [hts, List.mem_cons, not_or] at haers
      refine ⟨?_, tget_setPost_ne haers.1 ..⟩
      simpa only [NoAer, setPost_ctrls] using hj.setCtrl (x := { x with aers := ts }) haers.2

theorem sendAll_cmds (a : Aen) (s : State) : CmdsKept s (sendAll a s) :=
  .each _ _ _ fun _ s => .cond (fun _ => sendAen_cmds ..) fun _ => .refl s

theorem logErr_cmds (c : Nat) (e : ErrEntry) (s : State) : CmdsKept s (logErr c e s) := by
  refine ⟨fun j hj => ⟨fun d y hy => ?_, rfl⟩⟩
  simp only [logErr, modCtrl, tmod] at hy
  split at hy
  · rename_i x hx
    rw [tget_tset] at hy
    split at hy
    · cases hy; exact hj c x hx
    · exact hj d y hy
  · exact hj d y hy

theorem ctrlCapture_cmds (s : State) : CmdsKept s (ctrlCapture s) := by
  unfold ctrlCapture
  refine .cond (fun _ => .refl s) fun _ => .trans ?_ (sendAll_cmds ..)
  exact .of_nvq rfl

theorem reportSrc_cmds (i r q : Nat) (s : State) : CmdsKept s (reportSrc i r q s) := by
  unfold reportSrc
  refine .cond (fun _ => ?_) fun _ => .cond (fun _ => sendAll_cmds ..) fun _ => .cond (fun _ => sendAll_cmds ..) fun _ => .refl s
  exact .trans (.each _ _ _ fun _ s => .cond (fun _ => logErr_cmds ..) fun _ => .refl s) (sendAll_cmds ..)

theorem interrupt_cmds (i r q : Nat) (s : State) : CmdsKept s (interrupt i r q s) := by
  unfold interrupt
  have hw : CmdsKept s (wake { s with flt := { s.flt with ints := s.flt.ints ++ [i] } }) := .of_nvq ((wake_only _).same .nvq (by decide))
  exact .cond (fun _ => hw.trans (.of_nvq rfl)) fun _ => hw.trans (reportSrc_cmds ..)

theorem react_cmds (i r q : Nat) (s : State) : CmdsKept s (react i r q s) := by
  unfold react
  extract_lets pin s1 isl chp blk s2 _ s3
  have h1 : CmdsKept s s1 := .cond (fun _ => .trans (.of_nvq ((pinAssert_only s).same .nvq (by decide))) (ctrlCapture_cmds _)) fun _ => .refl s
  have h2 : CmdsKept s1 s2 := .cond (fun _ => interrupt_cmds ..) fun _ => .refl s1
  have h3 : CmdsKept s2 s3 := .cond (fun _ => .of_nvq rfl) fun _ => .refl s2
  refine .cond (fun _ => h1) fun _ => .cond (fun _ => h1.trans (.of_nvq ((askReset_only ..).same .nvq (by decide)))) fun _ => ?_
  refine ((h1.trans h2).trans h3).trans ?_
  clear_value s3 blk isl
  split
  · exact .of_nvq ((holdIsland_only ..).same .nvq (by decide))
  · exact .refl _

theorem latchSrc_cmds (i : Nat) (p n : Bool) (s : State) : CmdsKept s (latchSrc i p n s) := by
  refine .trans ?_ (react_cmds ..)
  exact .of_nvq rfl

theorem takeRails_cmds (i : Nat) (p n : Bool) (s : State) : CmdsKept s (takeRails i p n s) := by
  unfold takeRails
  extract_lets x wasWire _ s1 s2
  have h : CmdsKept s s2 := by
    unfold s2
    split
    · exact .of_nvq rfl
    · exact .of_nvq rfl
  exact .cond (fun _ => .refl s) fun _ => .cond (fun _ => h.trans (latchSrc_cmds ..)) fun _ => h

/-- A fault source that asserts completes no command but Asynchronous Event Requests (R366). -/
theorem raiseSrc_cmds (i : Nat) (s : State) : CmdsKept s (raiseSrc i s) := (takeRails_cmds ..).trans (takeRails_cmds ..)

/-! ## What background work keeps -/

/-- The parts that flash reads, map reads, stripes and programs reach, with the faults they raise. -/
def backgroundParts : List Part := [.fte, .dre, .xlt, .fch, .sre, .qos] ++ faultParts

/-- Those of them that hold neither commands nor content. -/
def quietParts : List Part := [.xlt, .fch, .sre, .qos, .sys, .pins, .regs, .cst, .flt, .pwr, .sbm, .free]

/-- What the device's work behind a command keeps: commands, the content of every IU (well index, map, ranges, bad-LBA list, NAND), namespaces,
mirrors, and all that no background work reaches. -/
structure BackgroundKeeps (s t : State) : Prop where
  parts : OnlyChanges backgroundParts s t
  cmds : CmdsKept s t
  fte : t.fte = { s.fte with blks := t.fte.blks, prog := t.fte.prog, wait := t.fte.wait, gc := t.fte.gc }
  dre : t.dre = { s.dre with doms := t.dre.doms, stripes := t.dre.stripes, recon := t.dre.recon, want := t.dre.want, got := t.dre.got }

theorem BackgroundKeeps.refl (s : State) : BackgroundKeeps s s := ⟨.refl _ _, .refl s, rfl, rfl⟩

theorem BackgroundKeeps.trans {s t u : State} (h : BackgroundKeeps s t) (k : BackgroundKeeps t u) : BackgroundKeeps s u :=
  ⟨h.parts.trans k.parts, h.cmds.trans k.cmds, by rw [k.fte, h.fte], by rw [k.dre, h.dre]⟩

theorem BackgroundKeeps.each {α : Type} (xs : List α) (f : α → State → State) (s : State) (h : ∀ x s, BackgroundKeeps s (f x s)) :
    BackgroundKeeps s (forEach xs f s) := by
  unfold forEach
  induction xs generalizing s with
  | nil => exact .refl s
  | cons x xs ih => exact (h x s).trans (ih (f x s))

theorem BackgroundKeeps.upto (n : Nat) (f : Nat → State → State) (s : State) (h : ∀ x s, BackgroundKeeps s (f x s)) :
    BackgroundKeeps s (forN n f s) := .each _ _ _ h

theorem BackgroundKeeps.cond {s t u : State} {c : Prop} [Decidable c] (h : c → BackgroundKeeps s t) (k : ¬c → BackgroundKeeps s u) :
    BackgroundKeeps s (if c then t else u) := by
  split
  · exact h ‹_›
  · exact k ‹_›

theorem BackgroundKeeps.of_quiet {s t : State} (h : OnlyChanges quietParts s t) : BackgroundKeeps s t :=
  ⟨h.wide _ rfl, .of_nvq (h.same .nvq (by decide)), by rw [h.same .fte (by decide)], by rw [h.same .dre (by decide)]⟩

/-- The hypothesis is proved by `rfl` for an update of the named fields. -/
theorem onFte_background (f : Fte → Fte) (s : State)
    (h : f s.fte = { s.fte with blks := (f s.fte).blks, prog := (f s.fte).prog, wait := (f s.fte).wait, gc := (f s.fte).gc }) :
    BackgroundKeeps s (onFte f s) :=
  ⟨⟨fun p hp => by cases p <;> simp_all [Part.same, backgroundParts, faultParts]⟩, .of_nvq rfl, h, rfl⟩

/-- The hypothesis is proved by `rfl` for an update of the named fields. -/
theorem onDre_background (f : Dre → Dre) (s : State)
    (h : f s.dre = { s.dre with doms := (f s.dre).doms, stripes := (f s.dre).stripes, recon := (f s.dre).recon,
                                want := (f s.dre).want, got := (f s.dre).got }) :
    BackgroundKeeps s (onDre f s) :=
  ⟨⟨fun p hp => by cases p <;> simp_all [Part.same, backgroundParts, faultParts]⟩, .of_nvq rfl, rfl, h⟩

theorem onXlt_background (f : Xlt → Xlt) (s : State) : BackgroundKeeps s (onXlt f s) := .of_quiet ((onXlt_only ..).wide _ rfl)

theorem onCst_background (f : Cst → Cst) (s : State) : BackgroundKeeps s (onCst f s) := .of_quiet ((onCst_only ..).wide _ rfl)

theorem evt_background (r : RegId) (b : Nat) (s : State) : BackgroundKeeps s (evt r b s) := .of_quiet ((evt_only ..).wide _ rfl)

theorem onSre_background (f : Sre → Sre) (s : State) : BackgroundKeeps s (onSre f s) :=
  .of_quiet ⟨fun p hp => by cases p <;> simp_all [Part.same, quietParts]⟩

theorem onFch_background (f : Fch → Fch) (s : State) : BackgroundKeeps s (onFch f s) :=
  .of_quiet ⟨fun p hp => by cases p <;> simp_all [Part.same, quietParts]⟩

theorem modDie_background (die : Nat) (f : Die → Die) (s : State) : BackgroundKeeps s (modDie die f s) := onFch_background ..

theorem modDom_background (d : Nat) (f : Dom → Dom) (s : State) : BackgroundKeeps s (modDom d f s) := onDre_background _ _ rfl

theorem setStripe_background (d n : Nat) (t : Stripe) (s : State) : BackgroundKeeps s (setStripe d n t s) := onDre_background _ _ rfl

theorem blkMod_background (die b : Nat) (f : Blk → Blk) (s : State) : BackgroundKeeps s (blkMod die b f s) :=
  onFte_background (fun x => { x with blks := tset x.blks (blkKey die b) (f (blkAt s die b)) }) s rfl

theorem raiseSrc_background (i : Nat) (s : State) : BackgroundKeeps s (raiseSrc i s) :=
  have h := raiseSrc_only i s
  ⟨h.wide _ rfl, raiseSrc_cmds i s, by rw [h.same .fte (by decide)], by rw [h.same .dre (by decide)]⟩

/-! ### Die queues -/

theorem debit_only (k : Option Nat) (b : Int) (s : State) : OnlyChanges [.qos] s (debit k b s) := by
  unfold debit
  split
  · exact onQos_only ..
  · exact modTnt_only ..

theorem giveQuanta_only (n t : Nat) (s : State) : OnlyChanges [.qos] s (giveQuanta n t s) := debit_only ..

theorem qosServe_only (t : Nat) (ts : List Nat) (s : State) : OnlyChanges [.qos] s (qosServe t ts s) := by
  unfold qosServe drrServe
  extract_lets last n l before after
  refine .trans (.cond (fun _ => .refl _ _) fun _ => ?_) (onQos_only ..)
  exact .trans (.trans (giveQuanta_only ..) (.each _ _ _ _ fun _ _ => giveQuanta_only ..)) (.each _ _ _ _ fun _ _ => giveQuanta_only ..)

theorem enterQueue_background (die : Nat) (o : Dop) (s : State) : BackgroundKeeps s (enterQueue die o s) := by
  unfold enterQueue
  extract_lets ts s1
  refine .trans ?_ (modDie_background ..)
  unfold s1
  split
  · exact .cond (fun _ => .refl s) fun _ => .of_quiet ((qosServe_only ..).wide _ rfl)
  · exact .refl s

theorem drainN_background (n die : Nat) (s : State) : BackgroundKeeps s (drainN n die s) := by
  induction n generalizing s with
  | zero => exact .refl s
  | succ n ih =>
    unfold drainN
    split
    · exact .refl s
    · exact (enterQueue_background ..).trans (ih _)

theorem queueOp_background (die : Nat) (o : Dop) (s : State) : BackgroundKeeps s (queueOp die o s) :=
  .cond (fun _ => .refl s) fun _ => .trans ((onFch_background ..).trans (modDie_background ..)) (drainN_background ..)

/-! ### Reads of codewords -/

theorem queueRead_background (a : Nat) (use : DopFor) (s : State) : BackgroundKeeps s (queueRead a use s) :=
  .cond (fun _ => modDie_background ..) fun _ => (blkMod_background ..).trans (queueOp_background ..)

theorem toLadder_background (cw : Nat) (r : Reader) (n : Nat) (s : State) : BackgroundKeeps s (toLadder cw r n s) :=
  .cond (fun _ => onSre_background ..) fun _ => onSre_background ..

theorem survGot_background (a : Nat) (ok : Bool) (s : State) : BackgroundKeeps s (survGot a ok s) :=
  .cond (fun _ => onDre_background _ _ rfl) fun _ => .refl s

theorem askSurv_background (a : Nat) (s : State) : BackgroundKeeps s (askSurv a s) := by
  refine .cond (fun _ => .refl s) fun _ => ?_
  have h : BackgroundKeeps s (onDre (fun d => { d with want := d.want ++ [a] }) s) := onDre_background _ _ rfl
  exact .cond (fun _ => h.trans (survGot_background ..)) fun _ => h.trans (queueRead_background ..)

theorem toRecon_background (cw : Nat) (s : State) : BackgroundKeeps s (toRecon cw s) :=
  .cond (fun _ => .refl s) fun _ => .trans (onDre_background _ _ rfl) (.each _ _ _ fun _ _ => askSurv_background ..)

theorem dropSurv_background (cw : Nat) (s : State) : BackgroundKeeps s (dropSurv cw s) :=
  .cond (fun _ => .trans (onSre_background ..) (survGot_background ..)) fun _ => .refl s

theorem enterStep5_background (cw : Nat) (s : State) : BackgroundKeeps s (enterStep5 cw s) :=
  .cond (fun _ => (dropSurv_background cw s).trans <| (onSre_background ..).trans <| (evt_background ..).trans <|
    (raiseSrc_background ..).trans (toRecon_background ..)) fun _ => dropSurv_background cw s

theorem readCw_background (a : Nat) (use : DopFor) (s : State) : BackgroundKeeps s (readCw a use s) :=
  .cond (fun _ => queueRead_background ..) fun _ => .cond (fun _ => toLadder_background ..) fun _ =>
    (toLadder_background ..).trans (enterStep5_background ..)

/-! ### Reads of map pages -/

theorem startReadsN_background (n : Nat) (s : State) : BackgroundKeeps s (startReadsN n s) := by
  induction n generalizing s with
  | zero => exact .refl s
  | succ n ih =>
    unfold startReadsN
    refine .cond (fun _ => .refl s) fun _ => ?_
    split
    · exact .refl s
    · refine .trans ?_ (ih _)
      split
      · exact (onXlt_background ..).trans (readCw_background ..)
      · exact onXlt_background ..

theorem askMapPage_background (ns page : Nat) (s : State) : BackgroundKeeps s (askMapPage ns page s) :=
  .cond (fun _ => .refl s) fun _ => (onXlt_background ..).trans (startReadsN_background ..)

/-- R179: a prefetch reads a map page and changes no content. -/
theorem prefetch_background (ns iu : Nat) (s : State) : BackgroundKeeps s (prefetch ns iu s) :=
  .cond (fun _ => .refl s) fun _ => askMapPage_background ..

/-! ### Stripes -/

theorem fullLog_background (s : State) : BackgroundKeeps s (fullLog s) := (evt_background ..).trans (raiseSrc_background ..)

/-- R296: a delta that is no MAP record changes the log alone. -/
theorem appendDelta_background {d : Delta} (h : d.kind ≠ .map) (s : State) : BackgroundKeeps s (appendDelta d s) :=
  .cond (fun _ => (onCst_background ..).trans (fullLog_background _)) fun _ => by
    rw [writeDelta, if_neg h]
    exact onCst_background ..

theorem blkDelta_background (die b : Nat) (s : State) : BackgroundKeeps s (blkDelta die b s) := appendDelta_background (by simp) s

theorem takeBlk_background (die b stream stripe pos : Nat) (s : State) : BackgroundKeeps s (takeBlk die b stream stripe pos s) :=
  (blkMod_background ..).trans (blkDelta_background ..)

theorem gcLevels_background (s : State) : BackgroundKeeps s (gcLevels s) :=
  .upto _ _ _ fun d s => by
    extract_lets urg want act fresh s1
    have h1 : BackgroundKeeps s s1 := onFte_background _ _ rfl
    exact .cond (fun _ => h1.trans ((evt_background ..).trans (raiseSrc_background ..))) fun _ => h1

theorem openStripe_background (d stream : Nat) (s : State) : BackgroundKeeps s (openStripe d stream s) := by
  unfold openStripe
  refine .cond (fun _ => .refl s) fun _ => ?_
  split
  · exact .refl s
  · rename_i n ms _
    extract_lets held s1 t s2 s3
    have h1 : BackgroundKeeps s s1 := .upto _ _ _ fun j s => by
      split
      · exact takeBlk_background ..
      · exact .refl s
    have h2 : BackgroundKeeps s s2 := h1.trans ((setStripe_background ..).trans (modDom_background ..))
    have h3 : BackgroundKeeps s s3 := .cond (fun _ => h2.trans (onFte_background _ _ rfl)) fun _ => h2
    exact .trans (.cond (fun _ => h3.trans ((evt_background ..).trans (raiseSrc_background ..))) fun _ => h3) (gcLevels_background _)

theorem queueSteps_background (t : Stripe) (m lo hi : Nat) (s : State) : BackgroundKeeps s (queueSteps t m lo hi s) := by
  unfold queueSteps
  split
  · exact .each _ _ _ fun _ _ => queueOp_background ..
  · exact .refl s

theorem gavePos_background (d n : Nat) (s : State) : BackgroundKeeps s (gavePos d n s) := by
  unfold gavePos
  split
  · exact .refl s
  · extract_lets per fill parity
    split
    extract_lets accs0 accs s1 s2
    have h1 : BackgroundKeeps s s1 := setStripe_background ..
    have h2 : BackgroundKeeps s s2 := .cond (fun _ => h1.trans (queueSteps_background ..)) fun _ => h1
    exact .cond (fun _ => h2.trans (queueSteps_background ..)) fun _ => h2

theorem giveCw_background (d n : Nat) (c : Prog) (s : State) : BackgroundKeeps s (giveCw d n c s) := by
  unfold giveCw
  split
  · exact .refl s
  · split
    split
    · exact .refl s
    · exact .trans (onFte_background _ _ rfl) (gavePos_background ..)

theorem giveIu_background (d n u : Nat) (c : Prog) (s : State) : BackgroundKeeps s (giveIu d n u c s) := by
  unfold giveIu
  split
  · exact .refl s
  · exact .trans (.upto _ _ _ fun _ _ => gavePos_background ..) (.upto _ _ _ fun _ _ => giveCw_background ..)

/-- R193, R196: what is placed takes positions or waits for a stripe; no content changes before its program passes. -/
theorem place_background (d stream : Nat) (c : Prog) (s : State) : BackgroundKeeps s (place d stream c s) := by
  unfold place
  extract_lets u s1
  have h1 : BackgroundKeeps s s1 := openStripe_background ..
  split
  · exact giveIu_background ..
  · split
    · exact h1.trans (giveIu_background ..)
    · exact h1.trans (onFte_background _ _ rfl)

theorem closeBlks_background (t : Stripe) (s : State) : BackgroundKeeps s (closeBlks t s) :=
  .each _ _ _ fun _ s => .cond (fun _ => (blkMod_background ..).trans (blkDelta_background ..)) fun _ => .refl s

theorem finishStripe_background (d n : Nat) (s : State) : BackgroundKeeps s (finishStripe d n s) := by
  unfold finishStripe
  split
  · exact .refl s
  · exact .cond (fun _ => (setStripe_background ..).trans (closeBlks_background ..)) fun _ => .refl s

theorem flushMember_background (t : Stripe) (m : Nat) (s : State) : BackgroundKeeps s (flushMember t m s) := by
  unfold flushMember
  split
  · exact .refl s
  · exact queueSteps_background ..

theorem closePartial_background (d n : Nat) (s : State) : BackgroundKeeps s (closePartial d n s) := by
  unfold closePartial
  split
  · exact .refl s
  · rename_i t _
    refine .cond (fun _ => .refl s) fun _ => ?_
    have h : BackgroundKeeps s (flushMember t t.ppos (forEach (dataMembers t) (flushMember t) s)) :=
      .trans (.each _ _ _ fun _ _ => flushMember_background ..) (flushMember_background ..)
    exact h.trans <| (setStripe_background ..).trans <| (closeBlks_background ..).trans <| (evt_background ..).trans (finishStripe_background ..)

theorem placeWaiting_background (s : State) : BackgroundKeeps s (placeWaiting s) := by
  refine .trans (t := onFte (fun f => { f with wait := [] }) s) (onFte_background _ _ rfl) ?_
  exact .each _ _ _ fun _ _ => place_background ..

theorem closeAll_background (s : State) : BackgroundKeeps s (closeAll s) := by
  unfold closeAll
  extract_lets s1 s2
  have h1 : BackgroundKeeps s s1 := placeWaiting_background s
  have h2 : BackgroundKeeps s1 s2 := .each _ _ _ fun _ _ => closePartial_background ..
  refine (h1.trans h2).trans ?_
  exact ⟨⟨fun p hp => by cases p <;> simp_all [Part.same, backgroundParts, faultParts]⟩, ⟨fun _ h => ⟨h, rfl⟩⟩, rfl, rfl⟩

/-- R126: the programming of a shutdown changes no content and no command. -/
theorem closeDue_background (s : State) : BackgroundKeeps s (closeDue s) :=
  .cond (fun _ => closeAll_background s) fun _ => .refl s

end Sys2Proof

namespace Sys2Proof

open Machine

/-! The read and write path (R24, R25, R118, R119, R182, R188, R341): completions, the move of a command whose transfer nothing holds back, and
Read, Verify, Compare, Write and Flush. -/

/-! ## Completions -/

theorem failedPair_of_unpaired {k : Nat} {t : Tag} {s : State} (ht : tget s.nvq.tags k = some t) (hf : t.fused = none) (sc : Sc) :
    failedPair k sc s = none := by
  simp only [failedPair, ht, hf, ite_self]

/-- R119: a Compare of a pair that ends with an error names its Write. -/
theorem failedPair_of_compare {k o : Nat} {t : Tag} {sc : Sc} {s : State} (ht : tget s.nvq.tags k = some t) (hst : t.st ≠ .post)
    (hop : opc t.ent = 5) (hf : t.fused = some o) (hsc : sc ≠ .success) : failedPair k sc s = some o := by
  have hop' : (t.ent.dw.getD 0 0).toNat % 256 = 5 := by simpa [opc, cdw, fld, nfld] using hop
  simp only [failedPair, ht, hsc, hst, hop', hf, ne_eq, not_false_eq_true, and_self, if_true]

theorem enterPost_nvq (k : Nat) (sc : Sc) (d : Bool) (a b : Nat) (s : State) :
    ∃ m, (enterPost k sc d a b s).nvq = (setPost k sc d a b m s).nvq := by
  unfold enterPost
  split
  · rename_i h
    exact ⟨fun _ => 0, by simp only [setPost, h]⟩
  · split
    · exact ⟨_, (chargeData_only ..).same .nvq (by decide)⟩
    · exact ⟨_, rfl⟩

theorem enterPost_ctrls (k : Nat) (sc : Sc) (d : Bool) (a b : Nat) (s : State) : (enterPost k sc d a b s).nvq.ctrls = s.nvq.ctrls := by
  obtain ⟨m, h⟩ := enterPost_nvq k sc d a b s
  rw [h, setPost_ctrls]

theorem tget_enterPost_ne {j k : Nat} (h : j ≠ k) (sc : Sc) (d : Bool) (a b : Nat) (s : State) :
    tget (enterPost k sc d a b s).nvq.tags j = tget s.nvq.tags j := by
  obtain ⟨m, hm⟩ := enterPost_nvq k sc d a b s
  rw [hm, tget_setPost_ne h]

theorem enterPost_posted {k : Nat} {t : Tag} {s : State} (ht : tget s.nvq.tags k = some t) (hst : t.st ≠ .post) (sc : Sc) (d : Bool)
    (a b : Nat) : Posted k sc (enterPost k sc d a b s) := by
  obtain ⟨m, hm⟩ := enterPost_nvq k sc d a b s
  simp only [Posted, hm, setPost, ht, hst, if_false]
  exact ⟨_, tget_tset_same .., rfl, rfl⟩

theorem Posted.of_tag {k : Nat} {sc : Sc} {s u : State} (h : Posted k sc s) (ht : tget u.nvq.tags k = tget s.nvq.tags k) : Posted k sc u := by
  simpa only [Posted, ht] using h

/-- A completion that is prepared stays, whatever else ends. -/
theorem Posted.enterPost {k : Nat} {sc : Sc} {s : State} (h : Posted k sc s) (o : Nat) (sc' : Sc) (d : Bool) (a b : Nat) :
    Posted k sc (enterPost o sc' d a b s) := by
  by_cases ho : k = o
  · subst ho
    obtain ⟨y, hy, hst, -⟩ := id h
    obtain ⟨m, hm⟩ := enterPost_nvq k sc' d a b s
    exact h.of_tag (by simp only [hm, setPost, hy, hst, if_true])
  · exact h.of_tag (tget_enterPost_ne ho ..)

theorem post_ctrls (k : Nat) (sc : Sc) (dw : Nat) (s : State) : (post k sc dw s).nvq.ctrls = s.nvq.ctrls := by
  unfold post postDnr
  split
  · rw [enterPost_ctrls, enterPost_ctrls]
  · rw [enterPost_ctrls]

theorem post_posted {k : Nat} {t : Tag} {s : State} (ht : tget s.nvq.tags k = some t) (hst : t.st ≠ .post) (sc : Sc) (dw : Nat) :
    Posted k sc (post k sc dw s) := by
  unfold post postDnr
  split
  · exact (enterPost_posted ht hst ..).enterPost ..
  · exact enterPost_posted ht hst ..

/-- R119: with a Compare of a pair that fails, its Write ends with Failed Fused Command. -/
theorem post_failsPair {k o : Nat} {t x : Tag} {sc : Sc} {s : State} (ht : tget s.nvq.tags k = some t) (hst : t.st ≠ .post)
    (hop : opc t.ent = 5) (hf : t.fused = some o) (hsc : sc ≠ .success) (ho : o ≠ k) (hx : tget s.nvq.tags o = some x)
    (hxst : x.st ≠ .post) (dw : Nat) : Posted o .failedFused (post k sc dw s) := by
  simp only [post, postDnr, failedPair_of_compare ht hst hop hf hsc]
  exact enterPost_posted ((tget_enterPost_ne ho ..).trans hx) hxst ..

/-- A command of no pair whose data is not charged at its completion changes its tag alone. -/
theorem post_only_nvq {k : Nat} {t : Tag} {s : State} (ht : tget s.nvq.tags k = some t) (hf : t.fused = none) (h8 : opc t.ent ≠ 8)
    (h12 : opc t.ent ≠ 12) (sc : Sc) (dw : Nat) : OnlyChanges [.nvq] s (post k sc dw s) := by
  have h : post k sc dw s = setPost k sc (scDnr sc) dw 0 (·.moved) s := by
    simp [post, postDnr, failedPair_of_unpaired ht hf, enterPost, ht, h8, h12]
  rw [h]
  exact setPost_only ..

/-! ## The tag of a command at work -/

theorem tget_setTag_same (k : Nat) (t : Tag) (s : State) : tget (setTag k t s).nvq.tags k = some t := tget_tset_same ..

theorem tget_modTag_same {k : Nat} {t : Tag} {s : State} (h : tget s.nvq.tags k = some t) (f : Tag → Tag) :
    tget (modTag k f s).nvq.tags k = some (f t) := by
  simp only [modTag, onNvq, tmod, h, tget_tset_same]

theorem tget_modTag_ne {j k : Nat} (h : j ≠ k) (f : Tag → Tag) (s : State) : tget (modTag k f s).nvq.tags j = tget s.nvq.tags j := by
  simp only [modTag, onNvq, tmod]
  split
  · exact tget_tset_ne _ _ h
  · rfl

theorem modTag_only (k : Nat) (f : Tag → Tag) (s : State) : OnlyChanges [.nvq] s (modTag k f s) := onNvq_only ..

theorem setTag_only (k : Nat) (t : Tag) (s : State) : OnlyChanges [.nvq] s (setTag k t s) := onNvq_only ..

/-- The command of tag `k` keeps its state, its entry and its pair, and every other command that is no Asynchronous Event Request
keeps its tag entry. -/
structure CmdGoesOn (k : Nat) (s u : State) : Prop where
  others : ∀ j, j ≠ k → NoAer j s → NoAer j u ∧ tget u.nvq.tags j = tget s.nvq.tags j
  own : NoAer k s → NoAer k u ∧ ∀ t, tget s.nvq.tags k = some t →
    ∃ y, tget u.nvq.tags k = some y ∧ y.st = t.st ∧ y.ent = t.ent ∧ y.fused = t.fused

theorem CmdGoesOn.trans {k : Nat} {s u v : State} (h : CmdGoesOn k s u) (g : CmdGoesOn k u v) : CmdGoesOn k s v := by
  constructor
  · intro j hj ha
    obtain ⟨hu, htu⟩ := h.others j hj ha
    obtain ⟨hv, htv⟩ := g.others j hj hu
    exact ⟨hv, htv.trans htu⟩
  · intro ha
    obtain ⟨hu, htu⟩ := h.own ha
    obtain ⟨hv, htv⟩ := g.own hu
    refine ⟨hv, fun t ht => ?_⟩
    obtain ⟨y, hy, hst, hent, hf⟩ := htu t ht
    obtain ⟨z, hz, hst', hent', hf'⟩ := htv y hy
    exact ⟨z, hz, hst'.trans hst, hent'.trans hent, hf'.trans hf⟩

theorem CmdsKept.goesOn {s u : State} (h : CmdsKept s u) (k : Nat) : CmdGoesOn k s u where
  others j _ ha := h.kept j ha
  own ha := by
    obtain ⟨hu, hk⟩ := h.kept k ha
    exact ⟨hu, fun t ht => ⟨t, hk.trans ht, rfl, rfl, rfl⟩⟩

theorem setTag_goesOn {k : Nat} {t t' : Tag} {s : State} (ht : tget s.nvq.tags k = some t) (hst : t'.st = t.st) (hent : t'.ent = t.ent)
    (hf : t'.fused = t.fused) : CmdGoesOn k s (setTag k t' s) where
  others _ hj ha := ⟨ha, tget_tset_ne _ _ hj⟩
  own ha := by
    refine ⟨ha, fun x hx => ⟨t', tget_setTag_same .., ?_⟩⟩
    obtain rfl : t = x := Option.some.inj (ht.symm.trans hx)
    exact ⟨hst, hent, hf⟩

theorem modTag_goesOn {f : Tag → Tag} (hf : ∀ t, (f t).st = t.st ∧ (f t).ent = t.ent ∧ (f t).fused = t.fused) (k : Nat) (s : State) :
    CmdGoesOn k s (modTag k f s) where
  others _ hj ha := ⟨ha, tget_modTag_ne hj ..⟩
  own ha := ⟨ha, fun t ht => ⟨f t, tget_modTag_same ht f, hf t⟩⟩

/-- The data of a command of no tenant is charged to none: its tag alone counts it (R129). -/
theorem chargeMoved_of_untenanted {k : Nat} {t : Tag} {s : State} (ht : tget s.nvq.tags k = some t) (hn : t.tenant = none) (c u : Nat) :
    chargeMoved k c u s = setTag k { t with reserved := t.reserved - min t.reserved (c + u), moved := t.moved + c + u } s := by
  simp only [chargeMoved, ht, hn, giveBack, chargeData]

theorem io_of_runs {k op : Nat} {t : Tag} {n : Ns} {s : State} (h : IoRuns k op s t n) (eff : Tag → Ns → State → State) :
    io k op eff s = eff t n s := by
  obtain ⟨hst, hq, ho⟩ := h.run
  simp [io, h.tag, hst, isIo, hq, ho, engines, h.up, h.ns]

/-! ## A transfer that nothing holds back -/

/-- Nothing stops a Write, Read, Compare or Verify, and none of its data has moved: no translation (R158), no tenant (R134). -/
structure MovesFreely (s : State) (t : Tag) (n : Ns) : Prop where
  ats : (fnAt s t.ctrl).atsEn = false
  tenant : t.tenant = none
  moved : t.moved = 0
  prog : t.dma.prog = 0
  ns : nsAt s (entNsid t.ent) = some n
  op : opc t.ent ∈ [1, 2, 5, 12]

theorem lbaBytes_pos (fmt : Nat) : 0 < lbaBytes fmt := by
  unfold lbaBytes
  split <;> decide

theorem xferLba_pos (n : Ns) (e : Entry) : 0 < xferLba n e := Nat.add_pos_left (lbaBytes_pos _) _

theorem lbasPerIu_pos (fmt : Nat) : 0 < lbasPerIu fmt := by
  unfold lbasPerIu iuUnits lbaBytes
  split <;> split <;> decide

theorem missAt_of_no_ats {s : State} {t : Tag} (h : (fnAt s t.ctrl).atsEn = false) (p : Nat) : missAt s t p = none := by
  have hit (page : Nat) (w : Bool) : atcHit s t.ctrl page w = true := by simp only [atcHit, h, Bool.not_false, Bool.true_or]
  have hl : missList s t p = none := by simp [missList, hit]
  have hd : missData s t p = none := by simp [missData, hit]
  have hm : missMeta s t p = none := by
    unfold missMeta
    split
    · simp [hit]
    · rfl
  simp only [missAt, hl, hd, hm, firstMiss, Option.or_none]

/-- The whole transfer may move. -/
theorem moveLimit_of_movesFreely {s : State} {t : Tag} {n : Ns} (h : MovesFreely s t n) :
    moveLimit s t n = (nlb t.ent * xferLba n t.ent, none) := by
  have hbytes : dataBytes s t.ent = nlb t.ent * lbaBytes n.fmt := by
    have ho : opc t.ent = 1 ∨ opc t.ent = 2 ∨ opc t.ent = 5 ∨ opc t.ent = 8 ∨ opc t.ent = 12 := by
      have := h.op
      simp only [List.mem_cons, List.not_mem_nil, or_false] at this
      omega
    simp only [dataBytes, h.ns, ho, if_true]
  have hgate : t.moved + mayMove s t = nlb t.ent * lbaBytes n.fmt := by
    simp [mayMove, gated, h.tenant, h.moved, hbytes]
  simp only [moveLimit, missAt_of_no_ats h.ats, hgate, Nat.mul_div_cancel _ (lbaBytes_pos n.fmt)]
  split
  · rename_i he
    rw [he]
  · rfl

/-! ## One LBA in a well -/

theorem lookup_of_liveRec {s : State} {ns iu : Nat} {r : WellRec} (h : liveRec s ns iu = some r) : lookup s ns iu = .well r.body := by
  simp only [lookup, h]

/-- The LBAs that a well record brings, marked by the bad-LBA list (R190). -/
def wellLbas (s : State) (ns : Nat) (n : Ns) (iu : Nat) (b : IuData) : List LbaGot :=
  (bodyLbas s n b fun _ => false).mapIdx fun i x => if (badMask s ns iu).testBit i then .bad else x

theorem iuGot_of_liveRec {s : State} {ns iu : Nat} {r : WellRec} (h : liveRec s ns iu = some r) (t : Tag) (n : Ns) (ps : List Nat) :
    iuGot s t ns n iu ps = some (wellLbas s ns n iu r.body, .well) := by
  simp only [iuGot, lookup_of_liveRec h]
  rfl

theorem length_wellLbas (s : State) (ns : Nat) (n : Ns) (iu : Nat) (b : IuData) : (wellLbas s ns n iu b).length = lbasPerIu n.fmt := by
  simp [wellLbas, bodyLbas]

/-- What an LBA of content without poison, under its namespace's key, comes back as. -/
def cleanLba (s : State) (ns : Nat) (n : Ns) (iu i : Nat) (b : IuData) : LbaGot :=
  if (badMask s ns iu).testBit i then .bad else .ok (b.data.getD i (blankLba n.fmt))

theorem getElem?_wellLbas {s : State} {n : Ns} {b : IuData} {i : Nat} (hp : b.psn = []) (hk : b.key = nsKey s n)
    (hi : i < lbasPerIu n.fmt) (ns iu : Nat) : (wellLbas s ns n iu b)[i]? = some (cleanLba s ns n iu i b) := by
  simp [wellLbas, bodyLbas, cleanLba, hp, hk, hi]

/-- The context of a command's map lookup once it has passed an IU. -/
def lookedUp (iu : Nat) (t : Tag) : Tag := { t with lkp := { t.lkp with st := .running, prog := iu + 1 } }

theorem iuSpan_of_one (fmt lba : Nat) : iuSpan fmt lba 1 = (lba / lbasPerIu fmt, 1) := by
  simp [iuSpan]

theorem upFrom_one (lo : Nat) : upFrom lo 1 = [lo] := rfl

theorem forEach_upFrom_zero (lo : Nat) (f : Nat → State → State) (s : State) : forEach (upFrom lo 0) f s = s := rfl

/-- R184: the lookup of an LBA in a well needs no map page; the next page may be prefetched (R179). -/
theorem lookAll_of_well {k iu i : Nat} {t : Tag} {n : Ns} {r : WellRec} {s : State} (hidle : t.lkp.st = .idle)
    (hone : OneLbaInWell s t n iu i r) : lookAll k t n s = prefetch (entNsid t.ent) iu (modTag k (lookedUp iu) s) := by
  have hrec : liveRec (modTag k (lookedUp iu) s) (entNsid t.ent) iu = some r := hone.newest
  have hread (ps : List Nat) : readIu k (entNsid t.ent) iu ps (modTag k (lookedUp iu) s) = modTag k (lookedUp iu) s := by
    simp [readIu, lookup_of_liveRec hrec]
  simp only [lookAll, hone.one, iuSpan_of_one, ← hone.place.1, hidle, if_true, Nat.sub_self, Nat.add_sub_cancel_left, upFrom_one,
    forEach_upFrom_zero, CtxSt.free, lookups, hone.newest, Option.isSome_some]
  exact congrArg (prefetch (entNsid t.ent) iu) (hread _)

/-- The command of tag `k` has looked up its one LBA and can move it. -/
structure LbaReady (k iu i : Nat) (t : Tag) (n : Ns) (r : WellRec) (s : State) : Prop where
  tag : tget s.nvq.tags k = some t
  noAer : NoAer k s
  move : MovesFreely s t n
  free : t.dma.st.free = true
  cut : t.cut = none
  psn : t.psn = false
  running : t.lkp.st = .running ∧ t.lkp.prog = iu + 1
  lba : OneLbaInWell s t n iu i r

/-- What the lookup of a read-class command leaves, whether or not it is the first of a pair. -/
structure AfterLookup (k iu i : Nat) (t : Tag) (n : Ns) (r : WellRec) (s u : State) : Prop where
  ready : LbaReady k iu i (lookedUp iu t) n r u
  cmd : CmdGoesOn k s u
  out : u.out = s.out
  fte : u.fte.idx = s.fte.idx ∧ u.fte.map = s.fte.map ∧ u.fte.nand = s.fte.nand
  bad : badMask u (entNsid t.ent) iu = badMask s (entNsid t.ent) iu

theorem BackgroundKeeps.content {s u : State} (h : BackgroundKeeps s u) :
    u.fte.idx = s.fte.idx ∧ u.fte.map = s.fte.map ∧ u.fte.nand = s.fte.nand := by
  rw [h.fte]
  exact ⟨rfl, rfl, rfl⟩

theorem BackgroundKeeps.nsAt {s u : State} (h : BackgroundKeeps s u) (ns : Nat) : nsAt u ns = nsAt s ns := by
  simp only [Machine.nsAt]
  rw [h.fte]

theorem BackgroundKeeps.liveRec {s u : State} (h : BackgroundKeeps s u) (ns iu : Nat) : liveRec u ns iu = liveRec s ns iu := by
  simp only [Machine.liveRec, recsOf, rngOf]
  rw [h.fte]

theorem BackgroundKeeps.badMask {s u : State} (h : BackgroundKeeps s u) (ns iu : Nat) : badMask u ns iu = badMask s ns iu := by
  simp only [Machine.badMask]
  rw [h.fte]

theorem BackgroundKeeps.fnAt {s u : State} (h : BackgroundKeeps s u) (c : Nat) : fnAt u c = fnAt s c := by
  simp only [Machine.fnAt]
  rw [show u.hpc = s.hpc from h.parts.same .hpc (by decide)]

theorem BackgroundKeeps.nsKey {s u : State} (h : BackgroundKeeps s u) (n : Ns) : nsKey u n = nsKey s n := by
  simp only [Machine.nsKey]
  rw [show u.sec = s.sec from h.parts.same .sec (by decide)]

theorem afterLookup {k iu i : Nat} {t : Tag} {n : Ns} {r : WellRec} {s : State} (ht : tget s.nvq.tags k = some t) (ha : NoAer k s)
    (hm : MovesFreely s t n) (hu : Unheld s { t with fused := none }) (hone : OneLbaInWell s t n iu i r) :
    AfterLookup k iu i t n r s (lookAll k t n s) := by
  obtain ⟨-, -, -, hpsn, -, -, -, -, hcut⟩ := hu.fresh
  have hidle : t.lkp.st = .idle := hu.lkp
  rw [lookAll_of_well hidle hone]
  have hb := prefetch_background (entNsid t.ent) iu (modTag k (lookedUp iu) s)
  generalize prefetch (entNsid t.ent) iu (modTag k (lookedUp iu) s) = u at hb
  have ha' : NoAer k (modTag k (lookedUp iu) s) := ha
  obtain ⟨hau, htu⟩ := hb.cmds.kept k ha'
  exact {
    ready := {
      tag := htu.trans (tget_modTag_same ht _)
      noAer := hau
      move := ⟨(congrArg Fn.atsEn (hb.fnAt t.ctrl)).trans hm.ats, hm.tenant, hm.moved, hm.prog, (hb.nsAt _).trans hm.ns, hm.op⟩
      free := hu.dma.1
      cut := hcut
      psn := hpsn
      running := ⟨rfl, rfl⟩
      lba := ⟨hone.one, hone.place, (hb.liveRec _ _).trans hone.newest, hone.whole.1, hone.whole.2.trans (hb.nsKey n).symm⟩ }
    cmd := (modTag_goesOn (f := lookedUp iu) (fun _ => ⟨rfl, rfl, rfl⟩) k s).trans (hb.cmds.goesOn k)
    out := hb.parts.same .out (by decide)
    fte := hb.content
    bad := hb.badMask _ _ }

theorem take_one_drop {α : Type} {l : List α} {i : Nat} {x : α} (h : l[i]? = some x) : (l.drop i).take 1 = [x] := by
  rw [List.take_one, List.head?_drop, h]
  rfl

section
variable {k iu i : Nat} {t : Tag} {n : Ns} {r : WellRec} {s : State} (h : LbaReady k iu i t n r s)
include h

theorem LbaReady.slba_sub : slba t.ent - iu * lbasPerIu n.fmt = i := by
  obtain ⟨hiu, hi⟩ := h.lba.place
  have := Nat.div_add_mod' (slba t.ent) (lbasPerIu n.fmt)
  rw [← hiu, ← hi] at this
  omega

theorem LbaReady.lt : i < lbasPerIu n.fmt := by
  rw [h.lba.place.2]
  exact Nat.mod_lt _ (lbasPerIu_pos _)

theorem LbaReady.moveLimit_eq : moveLimit s t n = (xferLba n t.ent, none) := by
  rw [moveLimit_of_movesFreely h.move, h.lba.one, Nat.one_mul]

/-- The LBA comes from its well as it lies there. -/
theorem LbaReady.gather_eq (first : Nat) : gather k t n [] first [iu] s = (wellLbas s (entNsid t.ent) n iu r.body, s) := by
  have hprog : ¬t.lkp.prog ≤ iu := by rw [h.running.2]; omega
  simp [gather, hprog, seeIu, h.cut, iuGot_of_liveRec h.lba.newest, passIu]

theorem LbaReady.taken_eq : ((wellLbas s (entNsid t.ent) n iu r.body).drop (slba t.ent - iu * lbasPerIu n.fmt)).take 1 =
    [cleanLba s (entNsid t.ent) n iu i r.body] := by
  rw [h.slba_sub]
  exact take_one_drop (getElem?_wellLbas h.lba.whole.1 h.lba.whole.2 h.lt ..)

theorem LbaReady.ready_eq :
    ready k t n [] (xferLba n t.ent) s = (wellLbas s (entNsid t.ent) n iu r.body, iu, xferLba n t.ent, s) := by
  have hx := xferLba_pos n t.ent
  have hlast : (xferLba n t.ent - 1) / xferLba n t.ent = 0 := Nat.div_eq_of_lt (by omega)
  have hlen : 1 ≤ lbasPerIu n.fmt - i := by have := h.lt; omega
  have hfit : xferLba n t.ent ≤ (lbasPerIu n.fmt - i) * xferLba n t.ent := Nat.le_mul_of_pos_left _ hlen
  simp only [ready, h.move.prog, Nat.zero_div, Nat.add_zero, ← h.lba.place.1, hlast, Nat.add_sub_cancel_left, upFrom_one,
    h.gather_eq, length_wellLbas, h.slba_sub, Nat.zero_add, Nat.zero_max, Nat.min_eq_left hfit]
  rw [if_neg (by omega)]

theorem LbaReady.readyLbas_eq : readyLbas t n (wellLbas s (entNsid t.ent) n iu r.body) iu 0 (xferLba n t.ent) =
    [cleanLba s (entNsid t.ent) n iu i r.body] := by
  have hx := xferLba_pos n t.ent
  have hc : ceilDiv (xferLba n t.ent) (xferLba n t.ent) = 1 := by
    have : xferLba n t.ent + xferLba n t.ent - 1 = xferLba n t.ent + (xferLba n t.ent - 1) := by omega
    rw [ceilDiv, this, Nat.add_div_left _ hx, Nat.div_eq_of_lt (by omega)]
  simp only [readyLbas, Nat.zero_div, Nat.add_zero, hc, Nat.sub_zero, h.taken_eq]

end

/-! ## Data sent to the host -/

/-- Every delivery of LBA data that the second state records is one that the first records. -/
def NoDataSent (s u : State) : Prop := ∀ k a l, Output.data k a l ∈ u.out → Output.data k a l ∈ s.out

theorem NoDataSent.of_out {s u : State} (h : u.out = s.out) : NoDataSent s u := fun _ _ _ hm => h ▸ hm

theorem NoDataSent.trans {s u v : State} (h : NoDataSent s u) (g : NoDataSent u v) : NoDataSent s v :=
  fun k a l hm => h k a l (g k a l hm)

/-- The TLPs of a transfer deliver no LBA by themselves. -/
structure SendsTlps (s u : State) : Prop where
  only : OnlyChanges [.out] s u
  noData : NoDataSent s u

theorem SendsTlps.refl (s : State) : SendsTlps s s := ⟨.refl _ _, .of_out rfl⟩

theorem SendsTlps.trans {s u v : State} (h : SendsTlps s u) (g : SendsTlps u v) : SendsTlps s v :=
  ⟨h.only.trans g.only, h.noData.trans g.noData⟩

theorem sendRun_tlps (segs : List (Nat × Nat)) (mps c : Nat) (ep : Bool) (fuel p q : Nat) (s : State) :
    SendsTlps s (sendRun segs mps c ep fuel p q s) := by
  induction fuel generalizing p s with
  | zero => exact .refl s
  | succ fuel ih =>
    unfold sendRun
    split
    · exact .refl s
    · split
      · exact .refl s
      · refine .trans ⟨emit_only .., fun k a l hm => ?_⟩ (ih ..)
        simpa using hm

theorem sendRuns_tlps (segs : List (Nat × Nat)) (c mps lb : Nat) (hold : Bool) (p q : Nat) (ls : List LbaGot) (s : State) :
    SendsTlps s (sendRuns segs c mps lb hold p q ls s) := by
  unfold sendRuns forEach
  generalize runsOf lb p q (p / lb) ls = l
  induction l generalizing s with
  | nil => exact .refl s
  | cons r l ih =>
    refine .trans ?_ (ih _)
    dsimp only
    split
    · exact .refl s
    · exact sendRun_tlps ..

/-- The delivery of a command's first LBA, none where it is on the bad-LBA list (R24, R190). -/
def deliverLba (k : Nat) (t : Tag) (n : Ns) : LbaGot → State → State
  | .ok v, s => emit (.data k (slba t.ent) [hostVal t.ent n v]) s
  | .psn, s | .bad, s => s

/-- An LBA that is not poisoned is sent by TLPs, then delivered. -/
theorem sendRead_one (k : Nat) (t : Tag) (n : Ns) {x : LbaGot} (hx : x ≠ .psn) (s : State) :
    ∃ u, SendsTlps s u ∧ sendRead k t n 0 (xferLba n t.ent) [x] s = deliverLba k t n x u := by
  unfold sendRead
  extract_lets xb mb port mps hold full s1 s2 s3
  have hfull : full = [x] := by
    simp only [full, xb, Nat.zero_div, Nat.sub_zero, Nat.div_self (xferLba_pos n t.ent), List.take_succ_cons, List.take_zero]
  have h2 : SendsTlps s s2 := by
    refine (sendRuns_tlps ..).trans (u := s1) ?_
    unfold s2
    split
    · exact .refl s1
    · exact sendRuns_tlps ..
  have h3 : s3 = deliverLba k t n x s2 := by
    unfold s3
    rw [hfull]
    cases x with
    | ok v => simp [forN, deliverLba]
    | psn => exact absurd rfl hx
    | bad => rfl
  rw [if_neg (by simpa using hx.symm)]
  exact ⟨s2, h2, h3⟩

theorem deliverLba_only (k : Nat) (t : Tag) (n : Ns) (x : LbaGot) (s : State) : OnlyChanges [.out] s (deliverLba k t n x s) := by
  cases x with
  | ok v => exact emit_only ..
  | psn => exact .refl _ _
  | bad => exact .refl _ _

/-! ## Read -/

theorem cleanLba_ne_psn (s : State) (ns : Nat) (n : Ns) (iu i : Nat) (b : IuData) : cleanLba s ns n iu i b ≠ .psn := by
  unfold cleanLba
  split <;> simp

theorem chargeMoved_goesOn {k : Nat} {t : Tag} {s : State} (ht : tget s.nvq.tags k = some t) (hn : t.tenant = none) (c u : Nat) :
    CmdGoesOn k s (chargeMoved k c u s) := by
  rw [chargeMoved_of_untenanted ht hn]
  exact setTag_goesOn ht rfl rfl rfl

theorem chargeMoved_only_nvq {k : Nat} {t : Tag} {s : State} (ht : tget s.nvq.tags k = some t) (hn : t.tenant = none) (c u : Nat) :
    OnlyChanges [.nvq] s (chargeMoved k c u s) := by
  rw [chargeMoved_of_untenanted ht hn]
  exact setTag_only ..

theorem sendEnd_of_whole {t : Tag} {mps xb total p q : Nat} (h : total ≤ q) (ls : List LbaGot) : sendEnd t mps xb total p q ls = q :=
  if_pos h

/-- The egress of one LBA: it is sent, delivered and charged, and the Read ends (R24). -/
theorem LbaReady.egress_eq {k iu i : Nat} {t : Tag} {n : Ns} {r : WellRec} {s : State} (h : LbaReady k iu i t n r s) :
    ∃ u v, SendsTlps s u ∧ OnlyChanges [.nvq] (deliverLba k t n (cleanLba s (entNsid t.ent) n iu i r.body) u) v ∧ CmdGoesOn k s v ∧
      egress k [] t n s = post k (if runKind (cleanLba s (entNsid t.ent) n iu i r.body) != 0 then .unrecoveredRead else .success) 0 v := by
  have hx := xferLba_pos n t.ent
  obtain ⟨u, hu, hsend⟩ := sendRead_one k t n (cleanLba_ne_psn s (entNsid t.ent) n iu i r.body) s
  have hd := deliverLba_only k t n (cleanLba s (entNsid t.ent) n iu i r.body) u
  have hnvq : (deliverLba k t n (cleanLba s (entNsid t.ent) n iu i r.body) u).nvq = s.nvq := (hu.only.trans hd).same .nvq (by decide)
  have ht : tget (deliverLba k t n (cleanLba s (entNsid t.ent) n iu i r.body) u).nvq.tags k = some t := by rw [hnvq, h.tag]
  unfold egress
  simp only [h.moveLimit_eq, h.ready_eq, h.move.prog, h.readyLbas_eq, h.lba.one, Nat.one_mul, sendEnd_of_whole (Nat.le_refl _), hx,
    if_true, Nat.le_refl, h.psn, Bool.false_or, List.any_cons, List.any_nil, Bool.or_false, hsend]
  exact ⟨u, _, hu, (chargeMoved_only_nvq ht h.move.tenant _ _).trans (modTag_only ..),
    ((CmdsKept.of_nvq hnvq).goesOn k).trans ((chargeMoved_goesOn ht h.move.tenant _ _).trans (modTag_goesOn (by simp) k _)), rfl⟩

theorem IoRuns.movesFreely {k op : Nat} {s : State} {t : Tag} {n : Ns} (h : IoRuns k op s t n) (hu : Unheld s { t with fused := none })
    (hop : op ∈ [1, 2, 5, 12]) : MovesFreely s t n := by
  obtain ⟨htenant, hmoved, -⟩ := hu.fresh
  obtain ⟨-, -, ho⟩ := h.run
  exact ⟨hu.ats, htenant, hmoved, hu.dma.2, h.ns, by rwa [ho]⟩

theorem Unheld.fused_none {s : State} {t : Tag} (h : Unheld s t) : t.fused = none := h.fresh.2.2.2.2.2.2.1

theorem Unheld.alone {s : State} {t : Tag} (h : Unheld s t) : Unheld s { t with fused := none } := by
  have ht : { t with fused := none } = t := by rw [← h.fused_none]
  rwa [ht]

theorem IoRuns.st_ne_post {k op : Nat} {s : State} {t : Tag} {n : Ns} (h : IoRuns k op s t n) : t.st ≠ .post := by
  simp [h.run.1]

theorem exec_read_of_ready {k iu i : Nat} {t t1 : Tag} {n : Ns} {r : WellRec} {s : State} (hr : IoRuns k 2 s t n)
    (h : LbaReady k iu i t1 n r (lookAll k t n s)) (outs : List IuOutcome) :
    exec (.read k outs) s = .next (egress k outs t1 n (lookAll k t n s)) := by
  change Host.Outcome.next _ = _
  rw [io_of_runs hr]
  simp only [h.tag, h.free, if_true]

/-- R24: a Read of one LBA in a well. -/
theorem read_oneLba {k iu i : Nat} {t : Tag} {n : Ns} {r : WellRec} {s : State} (hr : IoRuns k 2 s t n) (hu : Unheld s t)
    (hone : OneLbaInWell s t n iu i r) (ha : NoAer k s) :
    ((badMask s (entNsid t.ent) iu).testBit i = false → Ends (.read k []) s fun u => Posted k .success u ∧
      Output.data k (slba t.ent) [hostVal t.ent n (r.body.data.getD i (blankLba n.fmt))] ∈ u.out ∧ u.fte.idx = s.fte.idx ∧
      u.fte.map = s.fte.map ∧ u.fte.nand = s.fte.nand) ∧
    ((badMask s (entNsid t.ent) iu).testBit i = true → Ends (.read k []) s fun u => Posted k .unrecoveredRead u ∧
      ∀ a l, Output.data k a l ∈ u.out → Output.data k a l ∈ s.out) := by
  have hl := afterLookup hr.tag ha (hr.movesFreely hu.alone (by simp)) hu.alone hone
  have hexec := exec_read_of_ready hr hl.ready []
  generalize lookAll k t n s = s1 at hl hexec
  obtain ⟨u, v, hu1, hv, hcmd, he⟩ := hl.ready.egress_eq
  rw [he] at hexec
  have hclean : cleanLba s1 (entNsid (lookedUp iu t).ent) n iu i r.body = cleanLba s (entNsid t.ent) n iu i r.body := by
    simp only [cleanLba, lookedUp, hl.bad]
  rw [hclean] at hexec hv
  obtain ⟨y, hy, hst, -, -⟩ := ((hl.cmd.trans hcmd).own ha).2 t hr.tag
  have hpost (sc : Sc) : Posted k sc (post k sc 0 v) := post_posted hy (by rw [hst]; exact hr.st_ne_post) ..
  have hsame (sc : Sc) : OnlyChanges [.nvq, .qos] (deliverLba k (lookedUp iu t) n (cleanLba s (entNsid t.ent) n iu i r.body) u)
      (post k sc 0 v) := (hv.wide _ rfl).trans (post_only ..)
  constructor
  · intro hb
    have hc : cleanLba s (entNsid t.ent) n iu i r.body = .ok (r.body.data.getD i (blankLba n.fmt)) := by
      rw [cleanLba, hb, if_neg (by decide)]
    rw [hc] at hexec hsame
    change exec (.read k []) s = .next (post k .success 0 v) at hexec
    have hfte : (post k .success 0 v).fte = s1.fte := ((hsame _).same .fte (by decide)).trans (hu1.only.same .fte (by decide))
    refine ⟨_, hexec, hpost _, ?_, ?_⟩
    · rw [show (post k .success 0 v).out = _ from (hsame _).same .out (by decide)]
      exact List.mem_cons_self
    · rw [hfte]
      exact hl.fte
  · intro hb
    have hc : cleanLba s (entNsid t.ent) n iu i r.body = .bad := by rw [cleanLba, hb, if_pos rfl]
    rw [hc] at hexec hsame
    change exec (.read k []) s = .next (post k .unrecoveredRead 0 v) at hexec
    refine ⟨_, hexec, hpost _, fun a l hm => ?_⟩
    rw [show (post k .unrecoveredRead 0 v).out = u.out from (hsame _).same .out (by decide)] at hm
    rw [← hl.out]
    exact hu1.noData k a l hm

/-! ## Verify -/

theorem exec_verify_of_ready {k iu i : Nat} {t t1 : Tag} {n : Ns} {r : WellRec} {s : State} (hr : IoRuns k 0x0C s t n)
    (h : LbaReady k iu i t1 n r (lookAll k t n s)) : exec (.verify k []) s =
      .next (post k (if runKind (cleanLba (lookAll k t n s) (entNsid t1.ent) n iu i r.body) != 0 then .unrecoveredRead else .success) 0
        (lookAll k t n s)) := by
  change Host.Outcome.next _ = _
  rw [io_of_runs hr]
  generalize lookAll k t n s = s1 at h
  simp [h.tag, h.lba.one, iuSpan_of_one, ← h.lba.place.1, upFrom_one, h.running, iuGot_of_liveRec h.lba.newest, h.gather_eq, h.taken_eq]

/-- R24: Verify of one LBA in a well judges it and delivers nothing. -/
theorem verify_oneLba {k iu i : Nat} {t : Tag} {n : Ns} {r : WellRec} {s : State} (hr : IoRuns k 0x0C s t n) (hu : Unheld s t)
    (hone : OneLbaInWell s t n iu i r) (ha : NoAer k s) : Ends (.verify k []) s fun u =>
      Posted k (if (badMask s (entNsid t.ent) iu).testBit i then .unrecoveredRead else .success) u ∧
      (∀ a l, Output.data k a l ∈ u.out → Output.data k a l ∈ s.out) := by
  have hl := afterLookup hr.tag ha (hr.movesFreely hu.alone (by simp)) hu.alone hone
  have hexec := exec_verify_of_ready hr hl.ready
  generalize lookAll k t n s = s1 at hl hexec
  have hsc : (if runKind (cleanLba s1 (entNsid (lookedUp iu t).ent) n iu i r.body) != 0 then Sc.unrecoveredRead else .success) =
      if (badMask s (entNsid t.ent) iu).testBit i then .unrecoveredRead else .success := by
    simp only [cleanLba, lookedUp, hl.bad]
    split <;> rfl
  rw [hsc] at hexec
  obtain ⟨y, hy, hst, -, -⟩ := (hl.cmd.own ha).2 t hr.tag
  refine ⟨_, hexec, post_posted hy (by rw [hst]; exact hr.st_ne_post) _ 0, fun a l hm => ?_⟩
  rwa [show (post k _ 0 s1).out = s.out from ((post_only k _ 0 s1).same .out (by decide)).trans hl.out] at hm

/-! ## Compare -/

/-- What a Compare of one LBA with the host's data `d` ends with. -/
def compareSc (t : Tag) (n : Ns) (d v : Nat) : Sc := if hostVal t.ent n v = d then .success else .compareFailure

theorem LbaReady.cmpStep_eq {k iu i : Nat} {t : Tag} {n : Ns} {r : WellRec} {s : State} (h : LbaReady k iu i t n r s)
    (hb : (badMask s (entNsid t.ent) iu).testBit i = false) (d : Nat) :
    ∃ v, cmpStep k [] [d] t n s = (v, some (compareSc t n d (r.body.data.getD i (blankLba n.fmt)))) ∧ CmdGoesOn k s v ∧
      OnlyChanges [.nvq] s v := by
  have hx := xferLba_pos n t.ent
  have hc : cleanLba s (entNsid t.ent) n iu i r.body = .ok (r.body.data.getD i (blankLba n.fmt)) := by
    rw [cleanLba, hb, if_neg (by decide)]
  have hfull : [LbaGot.ok (r.body.data.getD i (blankLba n.fmt))].take (xferLba n t.ent / xferLba n t.ent - 0) =
      [.ok (r.body.data.getD i (blankLba n.fmt))] := by
    rw [Nat.div_self hx]
    rfl
  unfold cmpStep compareSc
  simp only [h.moveLimit_eq, h.ready_eq, h.move.prog, h.readyLbas_eq, hc, Nat.zero_div, hfull, List.drop_zero, firstDiff, List.headD_cons]
  by_cases hd : hostVal t.ent n (r.body.data.getD i (blankLba n.fmt)) = d
  · simp only [hd, if_true, Option.map_none, h.lba.one, Nat.one_mul, Nat.le_refl]
    exact ⟨_, rfl, (chargeMoved_goesOn h.tag h.move.tenant _ _).trans (modTag_goesOn (by simp) k _),
      (chargeMoved_only_nvq h.tag h.move.tenant _ _).trans (modTag_only ..)⟩
  · simp only [hd, if_false]
    exact ⟨_, rfl, chargeMoved_goesOn h.tag h.move.tenant _ _, chargeMoved_only_nvq h.tag h.move.tenant _ _⟩

/-- R119: the Compare of one LBA in a well, whether or not it is the first of a pair. -/
theorem cmpEff_oneLba {k iu i : Nat} {t : Tag} {n : Ns} {r : WellRec} {s : State} (hr : IoRuns k 5 s t n)
    (hu : Unheld s { t with fused := none }) (hone : OneLbaInWell s t n iu i r) (ha : NoAer k s)
    (hb : (badMask s (entNsid t.ent) iu).testBit i = false) (d : Nat) :
    ∃ v, cmpEff k [] [d] t n s = (v, some (compareSc t n d (r.body.data.getD i (blankLba n.fmt)))) ∧ CmdGoesOn k s v ∧
      v.fte.idx = s.fte.idx := by
  have hl := afterLookup hr.tag ha (hr.movesFreely hu (by simp)) hu hone
  unfold cmpEff
  generalize lookAll k t n s = s1 at hl
  obtain ⟨v, hv, hcmd, honly⟩ := hl.ready.cmpStep_eq (by rw [← hb, ← hl.bad]; rfl) d
  have hfte : v.fte = s1.fte := honly.same .fte (by decide)
  refine ⟨v, ?_, hl.cmd.trans hcmd, by rw [hfte, hl.fte.1]⟩
  simp only [hl.ready.tag, hl.ready.free, if_true, hv]
  rfl

theorem compare_oneLba {k iu i d : Nat} {t : Tag} {n : Ns} {r : WellRec} {s : State} (hr : IoRuns k 5 s t n) (hu : Unheld s t)
    (hone : OneLbaInWell s t n iu i r) (ha : NoAer k s) (hb : (badMask s (entNsid t.ent) iu).testBit i = false) :
    Ends (.compare k [] [d]) s (Posted k (compareSc t n d (r.body.data.getD i (blankLba n.fmt)))) := by
  obtain ⟨v, hv, hcmd, -⟩ := cmpEff_oneLba hr hu.alone hone ha hb d
  obtain ⟨y, hy, hst, -, -⟩ := (hcmd.own ha).2 t hr.tag
  refine ⟨_, ?_, post_posted hy (by rw [hst]; exact hr.st_ne_post) _ 0⟩
  change Host.Outcome.next _ = _
  rw [io_of_runs hr]
  simp only [hu.fused_none, Option.isSome_none, Bool.false_eq_true, if_false, hv]

/-! ### The fused pair -/

theorem exec_fused_of_cmpEff {k o : Nat} {t : Tag} {n : Ns} {s v : State} {sc : Sc} {mirOk : Bool} {expect data : List Nat}
    (hr : IoRuns k 5 s t n) (hf : t.fused = some o) (hv : cmpEff k [] expect t n s = (v, some sc)) :
    exec (.fusedCompareAndWrite k [] mirOk expect data) s = .next (if sc = .success then
      io o 1 (fun y m s => writeEff o .ok mirOk data y m s) (post k .success 0 v) else post k sc 0 v) := by
  change Host.Outcome.next _ = _
  rw [io_of_runs hr]
  simp only [hf, hv]
  split <;> simp_all

theorem fused_oneLba {k iu i d o : Nat} {mirOk : Bool} {data : List Nat} {t x : Tag} {n : Ns} {r : WellRec} {s : State}
    (hr : IoRuns k 5 s t n) (hu : Unheld s { t with fused := none }) (hf : t.fused = some o) (ho : o ≠ k)
    (hx : tget s.nvq.tags o = some x) (hxst : x.st ≠ .post) (hao : NoAer o s) (hone : OneLbaInWell s t n iu i r) (ha : NoAer k s)
    (hb : (badMask s (entNsid t.ent) iu).testBit i = false) :
    let v := hostVal t.ent n (r.body.data.getD i (blankLba n.fmt))
    (v ≠ d → Ends (.fusedCompareAndWrite k [] mirOk [d] data) s fun u => Posted k .compareFailure u ∧ Posted o .failedFused u ∧
      u.fte.idx = s.fte.idx) ∧
    (v = d → ∃ u, Posted k .success u ∧ u.fte.idx = s.fte.idx ∧
      exec (.fusedCompareAndWrite k [] mirOk [d] data) s = .next (io o 1 (fun y m s => writeEff o .ok mirOk data y m s) u)) := by
  obtain ⟨u, hv, hcmd, hidx⟩ := cmpEff_oneLba hr hu hone ha hb d
  obtain ⟨y, hy, hst, hent, hpair⟩ := (hcmd.own ha).2 t hr.tag
  have hexec := exec_fused_of_cmpEff (mirOk := mirOk) (data := data) hr hf hv
  have hyst : y.st ≠ .post := by rw [hst]; exact hr.st_ne_post
  have hfte (sc : Sc) : (post k sc 0 u).fte.idx = s.fte.idx := by
    rw [show (post k sc 0 u).fte = u.fte from (post_only k sc 0 u).same .fte (by decide), hidx]
  constructor
  · intro hne
    rw [compareSc, if_neg hne, if_neg (by decide)] at hexec
    have hyop : opc y.ent = 5 := by rw [hent]; exact hr.run.2.2
    exact ⟨_, hexec, post_posted hy hyst _ 0,
      post_failsPair hy hyst hyop (hpair.trans hf) (by decide) ho ((hcmd.others o ho hao).2.trans hx) hxst 0, hfte _⟩
  · intro he
    rw [compareSc, if_pos he, if_pos rfl] at hexec
    exact ⟨_, post_posted hy hyst _ 0, hfte _, hexec⟩

/-! ## Placing the IUs of a Write -/

/-- What the placing of IUs keeps: commands, mirrors, keys, and every record that the well index has. -/
structure PlacesOn (s u : State) : Prop where
  cmds : CmdsKept s u
  pairs : u.dre.pairs = s.dre.pairs
  sec : u.sec = s.sec
  idx : ∀ r ∈ s.fte.idx, r ∈ u.fte.idx

theorem PlacesOn.refl (s : State) : PlacesOn s s := ⟨.refl s, rfl, rfl, fun _ h => h⟩

theorem PlacesOn.trans {s u v : State} (h : PlacesOn s u) (g : PlacesOn u v) : PlacesOn s v :=
  ⟨h.cmds.trans g.cmds, g.pairs.trans h.pairs, g.sec.trans h.sec, fun r hr => g.idx r (h.idx r hr)⟩

theorem BackgroundKeeps.placesOn {s u : State} (h : BackgroundKeeps s u) : PlacesOn s u :=
  ⟨h.cmds, by rw [h.dre], h.parts.same .sec (by decide), fun _ hr => by rwa [h.content.1]⟩

/-- What an element's turn does holds from the state it meets, and the turns around it only place on. -/
theorem forEach_placesOn {α : Type} {f : α → State → State} (hf : ∀ x s, PlacesOn s (f x s)) (l : List α) (s : State) :
    PlacesOn s (forEach l f s) ∧ ∀ x ∈ l, ∃ v, PlacesOn s v ∧ PlacesOn (f x v) (forEach l f s) := by
  unfold forEach
  induction l generalizing s with
  | nil => exact ⟨.refl s, nofun⟩
  | cons y l ih =>
    obtain ⟨hall, heach⟩ := ih (f y s)
    refine ⟨(hf y s).trans hall, fun x hx => ?_⟩
    obtain rfl | hx := List.mem_cons.1 hx
    · exact ⟨s, .refl s, hall⟩
    · obtain ⟨v, hv, hfin⟩ := heach x hx
      exact ⟨v, (hf y s).trans hv, hfin⟩

/-- R182, R185: an IU enters a write well under the version of its command. -/
theorem placeIu_places (k : Nat) (t : Tag) (n : Ns) (iu cover : Nat) (b : IuData) (s : State) :
    PlacesOn s (placeIu k t n iu cover b s) ∧
    { ns := entNsid t.ent, inst := n.inst, iu, ver := t.seq, body := sealIu (entNsid t.ent) n iu b, tag := some k } ∈
      (placeIu k t n iu cover b s).fte.idx := by
  unfold placeIu
  extract_lets ns body r left s1
  have h1 : PlacesOn s s1 ∧ s1.fte.idx = s.fte.idx := by
    unfold s1
    split
    · exact ⟨.refl s, rfl⟩
    · split
      · exact ⟨⟨.of_nvq rfl, rfl, rfl, fun _ h => h⟩, rfl⟩
      · exact ⟨⟨.of_nvq rfl, rfl, rfl, fun _ h => h⟩, rfl⟩
  have h2 : PlacesOn s1 (onFte (fun f => { f with idx := f.idx ++ [r] }) s1) :=
    ⟨.of_nvq rfl, rfl, rfl, fun _ h => List.mem_append_left _ h⟩
  have h3 := fun c => (place_background (iuDom s1 ns iu) 0 c (onFte (fun f => { f with idx := f.idx ++ [r] }) s1)).placesOn
  exact ⟨(h1.1.trans h2).trans (h3 _), (h3 _).idx r (List.mem_append_right _ List.mem_cons_self)⟩

/-! ## The end of a Write -/

/-- R25: a command of a namespace without a mirror enters POST once its local work is done. -/
theorem localDone_of_unpaired {k : Nat} {t : Tag} {s : State} (ht : tget s.nvq.tags k = some t)
    (hp : thas s.dre.pairs (entNsid t.ent) = false) (mirOk : Bool) : localDone k mirOk s = post k .success 0 s := by
  have hp' : tget s.dre.pairs (entNsid t.ent) = none := by simpa [thas] using hp
  simp only [localDone, ht, hp']

theorem allPlaced_posted {k : Nat} {t : Tag} {s : State} (ht : tget s.nvq.tags k = some t) (hst : t.st ≠ .post)
    (hp : thas s.dre.pairs (entNsid t.ent) = false) (ha : NoAer k s) (mirOk : Bool) :
    Posted k .success (allPlaced k mirOk s) ∧ (allPlaced k mirOk s).fte.idx = s.fte.idx := by
  unfold allPlaced
  extract_lets s1
  generalize hs2 : sweepOvl (onNvq _ s1) = s2
  obtain ⟨htag, hfte, hdre, hctrls⟩ : tget s2.nvq.tags k = some { t with placed := true } ∧ s2.fte = s.fte ∧ s2.dre = s.dre ∧
      s2.nvq.ctrls = s.nvq.ctrls := by
    rw [← hs2]
    exact ⟨tget_modTag_same ht _, rfl, rfl, rfl⟩
  rw [localDone_of_unpaired htag (by rw [hdre]; exact hp)]
  have hb := closeDue_background (post k .success 0 s2)
  have hna : NoAer k (post k .success 0 s2) := by simpa only [NoAer, post_ctrls, hctrls] using ha
  refine ⟨(post_posted htag hst .success 0).of_tag (hb.cmds.kept k hna).2, ?_⟩
  rw [hb.content.1, show (post k .success 0 s2).fte = s2.fte from (post_only ..).same .fte (by decide), hfte]

/-! ## Write -/

theorem pairPassed_of_unpaired {t : Tag} (h : t.fused = none) (s : State) (k : Nat) : pairPassed s k t = true := by
  simp only [pairPassed, h]

theorem exec_write_of_unheld {k : Nat} {t : Tag} {n : Ns} {s : State} (hr : IoRuns k 1 s t n) (hu : Unheld s t) (ing : Ingress)
    (mirOk : Bool) (data : List Nat) : exec (.write k ing mirOk data) s = .next (writeEff k ing mirOk data t n s) := by
  change Host.Outcome.next _ = _
  rw [io_of_runs hr]
  simp only [pairPassed_of_unpaired hu.fused_none, if_true]

/-- Nothing of an unheld Write is placed yet, and its data can arrive. -/
theorem Unheld.writes {s : State} {t : Tag} (h : Unheld s t) : (t.placed || t.mirWait || !t.dma.st.free) = false := by
  obtain ⟨-, -, -, -, hplaced, hmir, -⟩ := h.fresh
  simp only [hplaced, hmir, h.dma.1, Bool.or_self, Bool.not_true]

/-- The content that a whole IU of a Write takes from the host's data (R182). -/
def wholeBody (s : State) (t : Tag) (n : Ns) (data : List Nat) (iu : Nat) : IuData :=
  { data := (List.range (lbasPerIu n.fmt)).map fun i => data.getD (iu * lbasPerIu n.fmt + i - slba t.ent) 0, key := nsKey s n }

/-- Without a partial IU nothing is merged (R188): each whole IU is placed. -/
theorem mergeAndPlace_of_whole {k : Nat} {t : Tag} {n : Ns} {s : State} (hw : partialIus n.fmt (slba t.ent) (nlb t.ent) = [])
    (hbad : s.fte.bad.length ≤ 4096) (data : List Nat) (whole : List Nat) (rest : State → State) :
    mergeAndPlace k t n (fun i => data.getD i 0) [] whole rest s =
      rest (forEach whole (fun iu s => placeIu k t n iu (iuMask n.fmt) (wholeBody s t n data iu) s) s) := by
  simp only [mergeAndPlace, hw]
  change (if 4096 < s.fte.bad.length + 0 then _ else _) = _
  rw [if_neg (by omega)]
  rfl

/-- A Write of whole IUs: its data is there at once, and each IU is placed (R25). -/
theorem writeEff_of_whole {k : Nat} {t : Tag} {n : Ns} {s : State} (hr : IoRuns k 1 s t n) (hu : Unheld s t)
    (hw : partialIus n.fmt (slba t.ent) (nlb t.ent) = []) (hbad : s.fte.bad.length ≤ 4096) (mirOk : Bool) (data : List Nat) :
    ∃ u, CmdGoesOn k s u ∧ OnlyChanges [.nvq] s u ∧ writeEff k .ok mirOk data t n s = allPlaced k mirOk
      (forEach (upFrom (wholeIus n.fmt (slba t.ent) (nlb t.ent)).1 (wholeIus n.fmt (slba t.ent) (nlb t.ent)).2)
        (fun iu s => placeIu k t n iu (iuMask n.fmt) (wholeBody s t n data iu) s) u) := by
  have hm := hr.movesFreely hu.alone (by simp)
  unfold writeEff
  simp only [hu.writes, ingressBad, Bool.false_eq_true, if_false, moveLimit_of_movesFreely hm, hm.prog, Nat.zero_max, Nat.lt_irrefl,
    and_false, Nat.le_refl, if_true]
  generalize lbaBytes n.fmt * _ - t.moved = c
  have hcharge := chargeMoved_only_nvq hr.tag hm.tenant c 0
  have hfte : (chargeMoved k c 0 s).fte = s.fte := hcharge.same .fte (by decide)
  refine ⟨_, ?_, ?_, mergeAndPlace_of_whole hw ?_ data _ _⟩
  · exact (chargeMoved_goesOn hr.tag hm.tenant c 0).trans (modTag_goesOn (by simp) k _)
  · exact hcharge.trans (modTag_only ..)
  · change (chargeMoved k c 0 s).fte.bad.length ≤ 4096
    rwa [hfte]

/-- R25, R182: a Write of whole IUs puts them in write wells under its version and completes. -/
theorem write_wholeIus {k : Nat} {t : Tag} {n : Ns} {s : State} (hr : IoRuns k 1 s t n) (hu : Unheld s t)
    (hw : partialIus n.fmt (slba t.ent) (nlb t.ent) = []) (hp : thas s.dre.pairs (entNsid t.ent) = false)
    (hbad : s.fte.bad.length ≤ 4096) (ha : NoAer k s) (mirOk : Bool) (data : List Nat) :
    Ends (.write k .ok mirOk data) s fun u => Posted k .success u ∧
      ∀ iu ∈ upFrom (wholeIus n.fmt (slba t.ent) (nlb t.ent)).1 (wholeIus n.fmt (slba t.ent) (nlb t.ent)).2,
        ∃ r ∈ u.fte.idx, r.ns = entNsid t.ent ∧ r.iu = iu ∧ r.ver = t.seq ∧ r.live = true ∧ r.body.key = nsKey s n ∧
          r.body.data = (List.range (lbasPerIu n.fmt)).map fun i => data.getD (iu * lbasPerIu n.fmt + i - slba t.ent) 0 := by
  obtain ⟨v, hcmd, honly, hwrite⟩ := writeEff_of_whole hr hu hw hbad mirOk data
  refine ⟨_, exec_write_of_unheld hr hu .ok mirOk data, ?_⟩
  rw [hwrite]
  obtain ⟨hall, heach⟩ := forEach_placesOn
    (fun iu s => (placeIu_places k t n iu (iuMask n.fmt) (wholeBody s t n data iu) s).1)
    (upFrom (wholeIus n.fmt (slba t.ent) (nlb t.ent)).1 (wholeIus n.fmt (slba t.ent) (nlb t.ent)).2) v
  obtain ⟨hav, hown⟩ := hcmd.own ha
  obtain ⟨y, hy, hst, hent, -⟩ := hown t hr.tag
  obtain ⟨haw, htw⟩ := hall.cmds.kept k hav
  have hpairs : v.dre = s.dre := honly.same .dre (by decide)
  obtain ⟨hpost, hidx⟩ := allPlaced_posted (htw.trans hy) (by rw [hst]; exact hr.st_ne_post)
    (by rw [hent, hall.pairs, hpairs]; exact hp) haw mirOk
  refine ⟨hpost, fun iu hiu => ?_⟩
  obtain ⟨x, hx, hfin⟩ := heach iu hiu
  have hin := hfin.idx _ (placeIu_places k t n iu (iuMask n.fmt) (wholeBody x t n data iu) x).2
  have hsec : x.sec = s.sec := hx.sec.trans (honly.same .sec (by decide))
  rw [hidx]
  exact ⟨_, hin, rfl, rfl, rfl, rfl, by simp only [sealIu, wholeBody, nsKey, hsec], rfl⟩

/-! ### Writes that ingress fails -/

theorem returnResv_of_untenanted {k : Nat} {t : Tag} {s : State} (ht : tget s.nvq.tags k = some t) (hn : t.tenant = none) :
    returnResv k s = setTag k { t with reserved := 0 } s := by
  simp only [returnResv, ht, hn]

/-- A Write that ends after its reservations are returned changes its tag alone (R341). -/
theorem post_returnResv {k : Nat} {t : Tag} {s : State} (ht : tget s.nvq.tags k = some t) (hst : t.st ≠ .post) (hop : opc t.ent = 1)
    (hn : t.tenant = none) (hf : t.fused = none) (sc : Sc) :
    Posted k sc (post k sc 0 (returnResv k s)) ∧ OnlyChanges [.nvq] s (post k sc 0 (returnResv k s)) := by
  rw [returnResv_of_untenanted ht hn]
  have ht' := tget_setTag_same k { t with reserved := 0 } s
  exact ⟨post_posted ht' hst sc 0, (setTag_only ..).trans
    (post_only_nvq ht' hf (by simp only [hop]; decide) (by simp only [hop]; decide) sc 0)⟩

theorem writeEff_of_ingressBad {k : Nat} {t : Tag} {n : Ns} {s : State} (hu : Unheld s t) {ing : Ingress} (hi : ingressBad n ing = true)
    (mirOk : Bool) (data : List Nat) : writeEff k ing mirOk data t n s = ingressFail k ing s := by
  simp only [writeEff, hu.writes, hi, Bool.false_eq_true, if_false, if_true]

theorem exec_write_of_ingressBad {k : Nat} {t : Tag} {n : Ns} {s : State} (hr : IoRuns k 1 s t n) (hu : Unheld s t) {ing : Ingress}
    (hi : ingressBad n ing = true) (mirOk : Bool) (data : List Nat) : exec (.write k ing mirOk data) s = .next (ingressFail k ing s) := by
  rw [exec_write_of_unheld hr hu, writeEff_of_ingressBad hu hi]

/-- R341, Table 14-10: a check of ingress that fails ends the Write, and changes no data. -/
theorem write_fails {k : Nat} {t : Tag} {n : Ns} {s : State} (hr : IoRuns k 1 s t n) (hu : Unheld s t) {ing : Ingress}
    (hi : ingressBad n ing = true) {sc : Sc} (hsc : ingressFail k ing s = post k sc 0 (returnResv k s)) (mirOk : Bool)
    (data : List Nat) : Ends (.write k ing mirOk data) s fun u => Posted k sc u ∧ OnlyChanges [.nvq] s u := by
  obtain ⟨htenant, -⟩ := hu.fresh
  refine ⟨_, (exec_write_of_ingressBad hr hu hi mirOk data).trans (congrArg _ hsc), ?_⟩
  exact post_returnResv hr.tag hr.st_ne_post hr.run.2.2 htenant hu.fused_none sc

/-- R340: without protection information its checks find nothing. -/
theorem exec_write_of_unprotected {k : Nat} {t : Tag} {n : Ns} {s : State} (hr : IoRuns k 1 s t n) (hu : Unheld s t) (hpi : n.pi = 0)
    {g : Ingress} (hg : g ∈ ([.guard, .appTag, .refTag] : List Ingress)) (mirOk : Bool) (data : List Nat) :
    exec (.write k g mirOk data) s = exec (.write k .ok mirOk data) s := by
  have hb : ingressBad n g = ingressBad n .ok ∧ ingressLbas g = ingressLbas .ok := by
    simp only [List.mem_cons, List.not_mem_nil, or_false] at hg
    obtain rfl | rfl | rfl := hg
    all_goals exact ⟨by simp only [ingressBad, hpi, bne_self_eq_false], rfl⟩
  rw [exec_write_of_unheld hr hu, exec_write_of_unheld hr hu]
  simp only [writeEff, hb]
  rfl

theorem Latched.of_flt {i : Nat} {s u : State} (h : Latched i s) (hf : u.flt = s.flt) : Latched i u := by
  simpa only [Latched, srcAt, hf] using h

theorem EvtSet.of_reg {r : RegId} {b : Nat} {s u : State} (h : EvtSet r b s) (hr : tget u.regs (regA r) = tget s.regs (regA r)) :
    EvtSet r b u := by
  have hreg : reg u r = reg s r := congrArg (·.getD (regDef r).reset) hr
  simpa only [EvtSet, hreg] using h

/-- Table 14-10: an AES self-compare that fails twice ends the Write with Internal Error and source 302. -/
theorem write_aesTwice {k : Nat} {t : Tag} {n : Ns} {s : State} (hr : IoRuns k 1 s t n) (hu : Unheld s t) (ha : NoAer k s)
    (mirOk : Bool) (data : List Nat) :
    Ends (.write k .aesTwice mirOk data) s fun u => Posted k .internalError u ∧ Latched 302 u ∧ EvtSet .mprEvt 5 u ∧ u.fte = s.fte := by
  have hexec : exec (.write k .aesTwice mirOk data) s =
      .next (post k .internalError 0 (returnResv k (raiseSrc 302 (evt .mprEvt 5 s)))) :=
    exec_write_of_ingressBad hr hu rfl mirOk data
  have hmode : s.sys.mode ≠ .dormant := fun h => by simpa [h, Mode.serving] using hr.up
  obtain ⟨hlatched, hkeeps⟩ := raiseSrc_raised 302 (evt .mprEvt 5 s) (by decide) hmode
  have hevt : EvtSet .mprEvt 5 (raiseSrc 302 (evt .mprEvt 5 s)) :=
    (evtSet_evt .mprEvt 5 (by decide) s).of_reg (hkeeps.regs.same _ (by decide))
  have htag : tget (raiseSrc 302 (evt .mprEvt 5 s)).nvq.tags k = some t := ((raiseSrc_cmds 302 (evt .mprEvt 5 s)).kept k ha).2.trans hr.tag
  have hfte : (raiseSrc 302 (evt .mprEvt 5 s)).fte = s.fte := (raiseSrc_only ..).same .fte (by decide)
  obtain ⟨htenant, -⟩ := hu.fresh
  obtain ⟨hpost, honly⟩ := post_returnResv htag hr.st_ne_post hr.run.2.2 htenant hu.fused_none .internalError
  exact ⟨_, hexec, hpost, hlatched.of_flt (honly.same .flt (by decide)),
    hevt.of_reg (congrArg (tget · _) (honly.same .regs (by decide))), (honly.same .fte (by decide)).trans hfte⟩

/-! ## Flush -/

theorem exec_flush_of_runs {k : Nat} {t : Tag} {s : State} (ht : tget s.nvq.tags k = some t) (hst : t.st = .run) (hq : t.qid ≠ 0)
    (hop : opc t.ent = 0) (hm : s.sys.mode.serving = true) :
    exec (.flush k) s = if flushHeld s t then .next s else .next (post k .success 0 s) := by
  change execFlush k s = _
  simp [execFlush, ht, hst, isIo, hq, hop, engines, hm]

/-- Settles O47: the read path of one LBA in a well, the Compare of a pair, the placing of whole IUs, and what ingress and Flush answer. -/
theorem readAndWritePath : Obligations.ReadAndWritePath := by
  unfold Obligations.ReadAndWritePath
  refine ⟨?_, ?_, ?_, ?_, ?_, ?_, ?_⟩
  · exact fun k iu i t n r s hr hu hone ha => read_oneLba hr hu hone ha
  · exact fun k iu i t n r s hr hu hone ha => verify_oneLba hr hu hone ha
  · exact fun k iu i d t n r s hr hu hone ha hb => compare_oneLba hr hu hone ha hb
  · exact fun k iu i d o mirOk data t x n r s hr hu hf ho hx hxst hao hone ha hb => fused_oneLba hr hu hf ho hx hxst hao hone ha hb
  · exact fun k mirOk data t n s hr hu hw hp hbad ha => write_wholeIus hr hu hw hp hbad ha mirOk data
  · intro k mirOk data t n s hr hu ha
    refine ⟨fun hpi => ?_, fun hpi g hg => exec_write_of_unprotected hr hu hpi hg mirOk data,
      write_fails hr hu rfl rfl mirOk data, write_aesTwice hr hu ha mirOk data⟩
    have hchecked : (n.pi != 0) = true := by simpa using hpi
    exact ⟨write_fails (ing := .guard) hr hu hchecked rfl mirOk data, write_fails (ing := .appTag) hr hu hchecked rfl mirOk data,
      write_fails (ing := .refTag) hr hu hchecked rfl mirOk data⟩
  · intro k t s ht hst hq hop hm
    rw [exec_flush_of_runs ht hst hq hop hm]
    exact ⟨fun h => by rw [h]; rfl, fun h => by rw [h]; rfl⟩

end Sys2Proof

namespace Sys2Proof

open Machine

/-! Reset and chip reset (R33, R37, R89, R289, R295): the values a reset leaves, and what a chip reset keeps. -/

/-! ## The state after reset -/

/-- The first registers of SYS, HPC and QOS after reset, Tables 20-2 to 20-5. -/
theorem valueAt_reset_low : valueAt State.reset 0x0 = 0x078000B1 ∧ valueAt State.reset 0x10 = 0 ∧ valueAt State.reset 0x20 = 0 ∧
    valueAt State.reset 0x100 = 0x300 ∧ valueAt State.reset 0x80000 = 0x8 ∧ valueAt State.reset 0xC0000 = 0x100 := by decide +kernel

/-- The configuration registers of the blocks above QOS after reset. -/
theorem valueAt_reset_high : valueAt State.reset 0x100000 = 0x64800080 ∧ valueAt State.reset 0x140000 = 0x50080324 ∧
    valueAt State.reset 0x180000 = 0x80A0843C ∧ valueAt State.reset 0x1C0000 = 0x20281403 ∧ valueAt State.reset 0x200000 = 0x640A0001 ∧
    valueAt State.reset 0x240000 = 0x0A3C ∧ valueAt State.reset 0x280000 = 0 ∧ valueAt State.reset 0x2C1C14 = 0x1003 := by decide +kernel

theorem slotFlag_reset (k : Nat) : slotFlag State.reset k = 0 := ite_self (0 : Word)

/-- The reset state is in BOOT, with nothing waiting and nothing begun. -/
theorem reset_idle : State.reset.sys.mode = .boot ∧ State.reset.sys.step = 0 ∧ State.reset.pending = [] ∧ State.reset.out = [] ∧
    State.reset.cam.ops = [] ∧ State.reset.cam.queue = [] ∧ ∀ p, (ringAt State.reset p).en = false :=
  ⟨rfl, rfl, rfl, rfl, rfl, rfl, fun _ => rfl⟩

theorem memsWf_reset : MemsWf State.reset := ⟨memWf_nil 0, memWf_nil 0, memWf_nil 0, memWf_nil 0⟩

/-- Settles O4: every field of the reset state is a constant. -/
theorem resetState : Obligations.ResetState := by
  unfold Obligations.ResetState
  obtain ⟨hmode, hstep, hpending, hout, hops, hqueue, hrings⟩ := reset_idle
  obtain ⟨v0, v1, v2, v3, v4, v5⟩ := valueAt_reset_low
  obtain ⟨v6, v7, v8, v9, v10, v11, v12, v13⟩ := valueAt_reset_high
  exact ⟨memsWf_reset, hmode, hstep, hpending, hout, hops, hqueue, hrings, slotFlag_reset, v0, v1, v2, v3, v4, v5, v6, v7, v8, v9, v10,
    v11, v12, v13⟩

/-! ## The time base after a reset -/

/-- A time base that is estimated again from the RTC, with its event, changes the time base and PWR_EVT alone. -/
theorem estimateTb_shape (s : State) (t : Nat) (b : Option Nat) : ∃ tb tbSt slew bound regs,
    evt .pwrEvt 9 (onPwr (fun p => { p with tb := t, tbSt := .estimated, slew := 0, bound := b }) s) =
      { s with pwr := { s.pwr with tb, tbSt, slew, bound }, regs } ∧ ∀ a, a ≠ regA .pwrEvt → tget regs a = tget s.regs a :=
  ⟨t, .estimated, 0, b, _, rfl, fun _ ha => tget_tset_ne _ _ ha⟩

/-- R386: rebuilding the time base changes the time base and PWR_EVT alone. -/
theorem rebuildTb_shape (s : State) : ∃ tb tbSt slew bound regs, rebuildTb s =
    { s with pwr := { s.pwr with tb, tbSt, slew, bound }, regs } ∧ ∀ a, a ≠ regA .pwrEvt → tget regs a = tget s.regs a := by
  unfold rebuildTb
  split
  · exact estimateTb_shape s _ _
  · exact ⟨_, _, _, _, _, rfl, fun _ _ => rfl⟩

/-- R386: with no time pair the time base runs free. -/
theorem rebuildTb_of_no_pair {s : State} (h : s.pwr.pair = none) : (rebuildTb s).pwr.tbSt = .free := by
  simp only [rebuildTb, h, onPwr_pwr]

/-! ## Chip reset -/

theorem isSome_stripeAt_keptDre {s t : State} (h : t.dre = keptDre s.dre) (d n : Nat) :
    (stripeAt t d n).isSome = (stripeAt s d n).isSome := by
  simp only [stripeAt, h, keptDre, tget_tmap, Option.isSome_map]

/-- R33, R37, R289, R295: what a chip reset resets and keeps. -/
theorem chipReset_keeps (cause : Nat) (strap fuse : Bool) (s : State) : let t := chipReset cause strap fuse s
    t.sys.mode = .boot ∧ t.sys.step = 0 ∧ t.sys.hold = false ∧ t.sys.locked = false ∧ t.sys.rstCause = cause ∧
    t.sys.testArmed = (strap && !fuse) ∧ t.sys.tmIgn = (strap && fuse) ∧ t.sys.resetReq = none ∧ t.sys.resetDue = false ∧
    t.sys.railsUp = true ∧ t.cam = {} ∧ t.wel = {} ∧ t.pmp = {} ∧ t.qos = {} ∧ t.flt = {} ∧ t.drm = {} ∧ t.profOn = false ∧ t.ovr = [] ∧
    t.nvq = { seq := s.cst.mark } ∧ (∀ a, a ≠ regA .pwrEvt → tget t.regs a = none) ∧
    t.pins.chgEn = !(s.pwr.chgHold || s.pwr.chgOv || s.pwr.chgLock) ∧ t.pins.faultN = s.pins.faultN ∧
    t.fte.nss = s.fte.nss ∧ t.fte.map = s.fte.map ∧ t.fte.nand = s.fte.nand ∧ t.fte.rng = s.fte.rng ∧ t.fte.bad = s.fte.bad ∧
    t.fte.idx = [] ∧ t.fte.wp = s.fte.wp ∧ t.dre.doms = s.dre.doms ∧ (∀ d n, (stripeAt t d n).isSome = (stripeAt s d n).isSome) ∧
    t.cst.log = s.cst.log ∧ t.cst.ckpt = s.cst.ckpt ∧ t.cst.events = s.cst.events ∧ t.cst.evSeq = s.cst.evSeq ∧ t.cst.san = s.cst.san ∧
    t.cst.hold = s.cst.hold ∧ t.cst.spill = s.cst.spill ∧ t.sec.root = s.sec.root ∧ t.sec.lock = s.sec.lock ∧ t.sec.svn = s.sec.svn ∧
    t.sec.owner = s.sec.owner ∧ t.upd.slots = s.upd.slots ∧ t.upd.nextImg = s.upd.nextImg ∧ t.upd.trial = s.upd.trial ∧
    t.whs.blks = s.whs.blks ∧ t.pwr.rtc = s.pwr.rtc ∧ t.pwr.alarms = s.pwr.alarms ∧ t.pwr.ratio = s.pwr.ratio ∧
    t.out = (if (prPort s).isSome then [.prPerst true] else []) ++ s.out ∧ t.pending = s.pending := by
  unfold chipReset
  extract_lets s1 s2 t
  obtain ⟨_, _, _, _, regs, h, hregs⟩ := rebuildTb_shape s1
  have hs2 : s2 = driveChg _ := congrArg driveChg h
  clear_value s2
  subst hs2
  refine ⟨rfl, rfl, rfl, rfl, rfl, rfl, rfl, rfl, rfl, rfl, rfl, rfl, rfl, rfl, rfl, rfl, rfl, rfl, rfl, hregs, ?_, rfl, rfl, rfl, rfl, rfl,
    rfl, rfl, rfl, rfl, isSome_stripeAt_keptDre rfl, rfl, rfl, rfl, rfl, rfl, rfl, rfl, rfl, rfl, rfl, rfl, rfl, rfl, rfl, rfl, rfl, rfl,
    rfl, rfl, rfl⟩
  exact congrArg (!·) (Bool.or_false _)

/-- A chip reset leaves the time base as its rebuilding does, and its CHG_EN and faults by the conditions and the pin that island 0 kept. -/
theorem chipReset_of_no_pair {s : State} (h : s.pwr.pair = none) (cause : Nat) (strap fuse : Bool) :
    (chipReset cause strap fuse s).pwr.tbSt = .free := rebuildTb_of_no_pair h

/-! ## What begins a chip reset -/

theorem exec_chipResetToBoot_of_due {s : State} (hd : s.sys.resetDue = true) (hr : s.sys.railsUp = true) (hm : s.sys.mode ≠ .dormant)
    (strap fuse : Bool) : exec (.chipResetToBoot strap fuse) s =
      .next (chipReset s.sys.holdupCause strap fuse { s with pwr := { s.pwr with pair := some (s.pwr.tb, s.pwr.rtc) } }) := by
  simp only [exec, execChipResetToBoot, hd, hr, hm, Bool.not_true, Bool.or_self, Bool.false_eq_true, if_false, latchPair, onPwr]

theorem exec_chipResetToBoot_of_not_due {s : State} (hd : s.sys.resetDue = false) (strap fuse : Bool) :
    exec (.chipResetToBoot strap fuse) s = .next s := by
  simp only [exec, execChipResetToBoot, hd, Bool.not_false, Bool.true_or, if_true]

/-- R477: with the rails down POWER_ON is a chip reset, after island 0's loss or after the time the RTC counted. -/
theorem exec_powerOn_of_rails_down {s : State} (h : s.sys.railsUp = false) (lost strap fuse : Bool) :
    exec (.powerOn lost strap fuse) s = .next (chipReset 0 strap fuse (if lost then loseIsland0 s else sleepRtc s)) := by
  simp [exec, execPowerOn, h, onlyIf]

theorem exec_powerOn_of_running {s : State} (hr : s.sys.railsUp = true) (hd : s.sys.mode ≠ .dormant) (hb : s.sys.mode ≠ .boot)
    (lost strap fuse : Bool) : exec (.powerOn lost strap fuse) s = .next s := by
  simp [exec, execPowerOn, hr, hd, hb]

theorem sleepRtc_of_not_started {s : State} (h : s.pwr.rtcStarted = false) : sleepRtc s = s := by
  simp [sleepRtc, h]

/-- R379, R399: after island 0's loss a power-on leaves RTC, alarms and the FAULT_N latch lost and CHG_EN low. -/
theorem powerOn_of_island0_lost {s : State} (h : s.sys.railsUp = false) (strap fuse : Bool) :
    Ends (.powerOn true strap fuse) s fun t => t.sys.mode = .boot ∧ t.sys.rstCause = 0 ∧ t.pwr.rtc = 0 ∧ t.pwr.rtcValid = false ∧
      t.pwr.alarms = [] ∧ t.pwr.ratio = 0x77359400 ∧ t.pins.faultN = false ∧ t.pins.chgEn = false ∧ t.pwr.tbSt = .free ∧
      t.fte.map = s.fte.map ∧ t.cst.log = s.cst.log :=
  ⟨_, exec_powerOn_of_rails_down h true strap fuse, rfl, rfl, rfl, rfl, rfl, rfl, rfl, rfl, chipReset_of_no_pair rfl 0 strap fuse, rfl, rfl⟩

/-- Settles O33: `chipReset` is a record of what is kept, and its causes choose the state it begins from. -/
theorem chipResets : Obligations.ChipResets := by
  refine ⟨chipReset_keeps, fun strap fuse s hd hr hm => exec_chipResetToBoot_of_due hd hr hm strap fuse,
    fun strap fuse s hd => exec_chipResetToBoot_of_not_due hd strap fuse, fun strap fuse s h => powerOn_of_island0_lost h strap fuse, ?_,
    fun lost strap fuse s hr hd hb => exec_powerOn_of_running hr hd hb lost strap fuse⟩
  intro strap fuse s h hn
  rw [exec_powerOn_of_rails_down h, if_neg Bool.false_ne_true, sleepRtc_of_not_started hn]

end Sys2Proof

namespace Sys2Proof

open Machine

/-! Admin queries, features and the self-test (R40, R100, R104, R124, R387, R396). -/

/-! ## An admin command that takes effect -/

theorem AdminRuns.st_ne_post {k op : Nat} {s : State} {t : Tag} (h : AdminRuns k op s t) : t.st ≠ .post := by
  rw [h.run.1]; decide

/-- Whether an opcode returns data through the transfer: bits 1:0 are 10b, and it is not Get Features. -/
def sendsData (op : Nat) : Bool := op % 4 == 2 && op != 0x0A

/-- An admin command without a transfer to the host takes effect at once. -/
theorem admin_of_noData {k op : Nat} {s : State} {t : Tag} (h : AdminRuns k op s t) (hop : sendsData op = false)
    (eff : Tag → State → State) : admin k op eff s = eff t s := by
  obtain ⟨hst, hq, ho⟩ := h.run
  obtain ⟨hm, hseq⟩ := h.up
  obtain ⟨hdma, hmiss⟩ := h.free
  have hop' : (op % 4 == 2 && op != 0x0A) = false := hop
  simp [admin, h.tag, hst, hq, ho, engines, hm, hseq, hdma, hmiss, hop']

/-- An admin command that returns data and would end without success ends so, and sends nothing. -/
theorem admin_of_refused {k op : Nat} {s : State} {t : Tag} (h : AdminRuns k op s t) (hop : sendsData op = true)
    {eff : Tag → State → State} {sc : Sc} (hp : Posted k sc (eff t s)) (hsc : sc ≠ .success) : admin k op eff s = eff t s := by
  obtain ⟨hst, hq, ho⟩ := h.run
  obtain ⟨hm, hseq⟩ := h.up
  obtain ⟨y, hy, hyst, hysc⟩ := hp
  have hop' : (op % 4 == 2 && op != 0x0A) = true := hop
  simp [admin, h.tag, hst, hq, ho, engines, hm, hseq, h.free.1, hop', hy, hysc, hsc]

/-- An admin command that returns data and succeeds takes effect once its data is sent. -/
theorem admin_of_sent {k op : Nat} {s : State} {t : Tag} (h : AdminRuns k op s t) (hop : sendsData op = true)
    {eff : Tag → State → State} (hp : Posted k .success (eff t s)) :
    admin k op eff s = eff t (sendAdmin t t.dma.prog (xferBytes t) s) := by
  obtain ⟨hst, hq, ho⟩ := h.run
  obtain ⟨hm, hseq⟩ := h.up
  obtain ⟨hdma, hmiss⟩ := h.free
  obtain ⟨y, hy, hyst, hysc⟩ := hp
  have hop' : (op % 4 == 2 && op != 0x0A) = true := hop
  simp [admin, h.tag, hst, hq, ho, engines, hm, hseq, hdma, hmiss, hop', hy, hyst, hysc]

theorem answer_posted {k : Nat} {t : Tag} {s : State} (ht : tget s.nvq.tags k = some t) (hst : t.st ≠ .post) (what : Nat)
    (vals : List Nat) : Posted k .success (answer k what vals s) :=
  post_posted (s := emit (.info k what vals) s) ht hst .success 0

/-- Sending an admin command's data is visible, and changes nothing else. -/
theorem sendAdmin_only (t : Tag) (p q : Nat) (s : State) : OnlyChanges [.out] s (sendAdmin t p q s) := (sendRun_tlps ..).only

/-! ## Identify -/

section Identify

variable {s u : State} (h : OnlyChanges [.out] s u)
include h

theorem ctrlValues_of_outOnly (c : Nat) : ctrlValues u c = ctrlValues s c := by
  have hprof : u.prof = s.prof := h.same .prof (by decide)
  have hdesc : psDesc u = psDesc s := by funext n; simp only [psDesc, hprof]
  simp only [ctrlValues, hprof, hdesc]

theorem nsAt_of_outOnly (n : Nat) : nsAt u n = nsAt s n := by
  have hfte : u.fte = s.fte := h.same .fte (by decide)
  simp only [nsAt, hfte]

theorem nsList_of_outOnly (lo : Nat) (p : Nat → Ns → Bool) : nsList u lo p = nsList s lo p := by
  have hfte : u.fte = s.fte := h.same .fte (by decide)
  simp only [nsList, hfte]

end Identify

/-- R100, Table 5-1: what Identify does, by its CNS. -/
theorem exec_identify_byCns (k : Nat) (s : State) : ∃ eff : Tag → State → State, exec (.identify k) s = .next (admin k 0x06 eff s) ∧
    (∀ t u, fld (cdw t.ent 10) 0 8 = 0x01 → eff t u = answer k 0x601 (ctrlValues u t.ctrl) u) ∧
    (∀ t u n, fld (cdw t.ent 10) 0 8 = 0x00 → nsAt u (entNsid t.ent) = some n →
      eff t u = answer k 0x600 (if n.att.contains t.ctrl then nsValues n else []) u) ∧
    (∀ t u, fld (cdw t.ent 10) 0 8 = 0x00 → nsAt u (entNsid t.ent) = none → eff t u = post k .invalidNs 0 u) ∧
    (∀ t u, fld (cdw t.ent 10) 0 8 = 0x02 →
      eff t u = answer k 0x602 ((nsList u (entNsid t.ent) fun _ n => n.att.contains t.ctrl).take 1024) u) ∧
    (∀ t u, fld (cdw t.ent 10) 0 8 ∉ ([0x00, 0x01, 0x02, 0x03, 0x10, 0x11, 0x12, 0x13, 0x14, 0x15] : List Nat) →
      eff t u = post k .invalidField 0 u) := by
  refine ⟨_, rfl, fun t u hc => ?_, fun t u n hc hn => ?_, fun t u hc hn => ?_, fun t u hc => ?_, fun t u hc => ?_⟩
  · simp only [hc]
  · simp only [hc, hn]
  · simp only [hc, hn]
  · simp only [hc]
  · dsimp only
    split
    case h_11 => rfl
    all_goals
      rename_i hcns
      exact absurd (by simp [hcns]) hc

/-- Identify sends its structure, and its completion follows. -/
theorem identify_of_sent {k : Nat} {t : Tag} {s : State} {eff : Tag → State → State} (h : AdminRuns k 0x06 s t) {what : Nat}
    {vals : State → List Nat} (he : ∀ u, OnlyChanges [.out] s u → eff t u = answer k what (vals u) u)
    (hv : ∀ u, OnlyChanges [.out] s u → vals u = vals s) :
    admin k 0x06 eff s = post k .success 0 (emit (.info k what (vals s)) (sendAdmin t t.dma.prog (xferBytes t) s)) := by
  have hu := sendAdmin_only t t.dma.prog (xferBytes t) s
  have hp : Posted k .success (eff t s) := he s (.refl _ _) ▸ answer_posted h.tag h.st_ne_post ..
  rw [admin_of_sent h rfl hp, he _ hu, hv _ hu, answer]

/-- R100, Table 5-1: Identify returns the structure its CNS names, or is refused. -/
theorem exec_identify {k : Nat} {t : Tag} {s : State} (h : AdminRuns k 0x06 s t) :
    let cns := fld (cdw t.ent 10) 0 8
    let u := sendAdmin t t.dma.prog (xferBytes t) s
    (cns = 0x01 → exec (.identify k) s = .next (post k .success 0 (emit (.info k 0x601 (ctrlValues s t.ctrl)) u))) ∧
    (∀ n, cns = 0x00 → nsAt s (entNsid t.ent) = some n → exec (.identify k) s =
      .next (post k .success 0 (emit (.info k 0x600 (if n.att.contains t.ctrl then nsValues n else [])) u))) ∧
    (cns = 0x00 → nsAt s (entNsid t.ent) = none → exec (.identify k) s = .next (post k .invalidNs 0 s)) ∧
    (cns = 0x02 → exec (.identify k) s = .next (post k .success 0
      (emit (.info k 0x602 ((nsList s (entNsid t.ent) fun _ n => n.att.contains t.ctrl).take 1024)) u))) ∧
    (cns ∉ ([0x00, 0x01, 0x02, 0x03, 0x10, 0x11, 0x12, 0x13, 0x14, 0x15] : List Nat) →
      exec (.identify k) s = .next (post k .invalidField 0 s)) := by
  obtain ⟨eff, he, hctrl, hns, hnoNs, hlist, hother⟩ := exec_identify_byCns k s
  have hpost : ∀ sc, Posted k sc (post k sc 0 s) := fun sc => post_posted h.tag h.st_ne_post sc 0
  rw [he]
  refine ⟨fun hc => congrArg Host.Outcome.next ?_, fun n hc hn => congrArg Host.Outcome.next ?_, fun hc hn => congrArg Host.Outcome.next ?_,
    fun hc => congrArg Host.Outcome.next ?_,
    fun hc => congrArg Host.Outcome.next ?_⟩
  · exact identify_of_sent h (fun u _ => hctrl t u hc) fun u hu => ctrlValues_of_outOnly hu _
  · exact identify_of_sent h (vals := fun _ => if n.att.contains t.ctrl then nsValues n else [])
      (fun u hu => hns t u n hc ((nsAt_of_outOnly hu _).trans hn)) fun _ _ => rfl
  · rw [admin_of_refused h rfl (hnoNs t s hc hn ▸ hpost .invalidNs) (by decide), hnoNs t s hc hn]
  · exact identify_of_sent h (fun u _ => hlist t u hc) fun u hu => congrArg _ (nsList_of_outOnly hu _ _)
  · rw [admin_of_refused h rfl (hother t s hc ▸ hpost .invalidField) (by decide), hother t s hc]

/-! ## Abort and event requests -/

/-- R124: a command in ADMIT is aborted; DW0 bit 0 says that none was. -/
theorem exec_abort {k : Nat} {t : Tag} {s : State} (h : AdminRuns k 0x08 s t)
    (hn : (s.nvq.tags.filter fun e => e.2.ctrl == t.ctrl && e.2.qid == 0 && opc e.2.ent == 0x08 && e.2.st != .post).length ≤ 16) :
    let hit := s.nvq.tags.find? fun e => e.2.ctrl == t.ctrl && e.2.qid == fld (cdw t.ent 10) 0 16 &&
      cidOf e.2.ent == fld (cdw t.ent 10) 16 16 && e.2.st == .adm
    (hit = none → exec (.abort k) s = .next (post k .success 1 s)) ∧
    (∀ j x, hit = some (j, x) → exec (.abort k) s =
      .next (post k .success 0 (postEarly j .abortRequested (setTag j { x with uncharged := true } s)))) := by
  intro hit
  refine ⟨fun hh => congrArg Host.Outcome.next ?_, fun j x hh => congrArg Host.Outcome.next ?_⟩
  · rw [admin_of_noData h rfl, if_neg (Nat.not_lt.2 hn)]
    simp only [show List.find? _ s.nvq.tags = none from hh]
  · rw [admin_of_noData h rfl, if_neg (Nat.not_lt.2 hn)]
    simp only [show List.find? _ s.nvq.tags = some (j, x) from hh]

/-- R40: an event request is refused past 8, waits, or is completed at once by an event that waits. -/
theorem exec_asynchronousEventRequest {k : Nat} {t : Tag} {s : State} (h : AdminRuns k 0x0C s t) (hk : k ∉ (ctrlAt s t.ctrl).aers) :
    let x := ctrlAt s t.ctrl
    (8 ≤ x.aers.length → exec (.asynchronousEventRequest k) s = .next (post k .aerLimit 0 s)) ∧
    (x.aers.length < 8 → x.events = [] → exec (.asynchronousEventRequest k) s =
      .next { s with nvq := { s.nvq with ctrls := tset s.nvq.ctrls t.ctrl { x with aers := x.aers ++ [k] } } }) ∧
    (∀ a l, x.aers.length < 8 → x.events = a :: l → exec (.asynchronousEventRequest k) s =
      .next (post k .success (Aen.dw0 a) { s with nvq := { s.nvq with ctrls := tset s.nvq.ctrls t.ctrl { x with events := l } } })) := by
  have hc : (ctrlAt s t.ctrl).aers.contains k = false := by simpa using hk
  refine ⟨fun h8 => congrArg Host.Outcome.next ?_, fun h8 he => congrArg Host.Outcome.next ?_, fun a l h8 he => congrArg Host.Outcome.next ?_⟩
  · rw [admin_of_noData h rfl]
    simp only [hc, Bool.false_eq_true, if_false, if_pos h8]
  · rw [admin_of_noData h rfl]
    simp only [hc, Bool.false_eq_true, if_false, if_neg (Nat.not_le.2 h8), he]
    rfl
  · rw [admin_of_noData h rfl]
    simp only [hc, Bool.false_eq_true, if_false, if_neg (Nat.not_le.2 h8), he]
    rfl

/-! ## Power states of controllers -/

/-- Every controller keeps its power state. -/
structure PsKept (s t : State) : Prop where
  ps : ∀ c, (ctrlAt t c).ps = (ctrlAt s c).ps

theorem PsKept.refl (s : State) : PsKept s s := ⟨fun _ => rfl⟩

theorem PsKept.trans {s t u : State} (h : PsKept s t) (k : PsKept t u) : PsKept s u := ⟨fun c => (k.ps c).trans (h.ps c)⟩

theorem PsKept.of_ctrls {s t : State} (h : t.nvq.ctrls = s.nvq.ctrls) : PsKept s t := ⟨fun c => by simp only [ctrlAt, h]⟩

theorem PsKept.of_only {l : List Part} {s t : State} (h : OnlyChanges l s t) (hl : Part.nvq ∉ l) : PsKept s t :=
  .of_ctrls (congrArg Nvq.ctrls (h.same .nvq hl))

theorem PsKept.each {α : Type} (xs : List α) (f : α → State → State) (s : State) (h : ∀ x s, PsKept s (f x s)) :
    PsKept s (forEach xs f s) := by
  unfold forEach
  induction xs generalizing s with
  | nil => exact .refl s
  | cons x xs ih => exact (h x s).trans (ih (f x s))

theorem PsKept.cond {s t u : State} {c : Prop} [Decidable c] (h : c → PsKept s t) (k : ¬c → PsKept s u) :
    PsKept s (if c then t else u) := by
  split
  · exact h ‹_›
  · exact k ‹_›

theorem ctrlAt_of_tget {c : Nat} {x : Ctrl} {s : State} (h : tget s.nvq.ctrls c = some x) : ctrlAt s c = x := by
  simp only [ctrlAt, tgetD, h, Option.getD_some]

theorem ctrlAt_setCtrl (c : Nat) (x : Ctrl) (s : State) (d : Nat) :
    ctrlAt (setCtrl c x s) d = if d = c then x else ctrlAt s d := by
  simp only [ctrlAt, setCtrl, tgetD, tget_tset]
  split <;> rfl

theorem setCtrl_ps {c : Nat} {x : Ctrl} {s : State} (h : x.ps = (ctrlAt s c).ps) : PsKept s (setCtrl c x s) := by
  refine ⟨fun d => ?_⟩
  rw [ctrlAt_setCtrl]
  split
  · rename_i hd; rw [h, hd]
  · rfl

theorem sendAen_ps (c : Nat) (a : Aen) (s : State) : PsKept s (sendAen c a s) := by
  unfold sendAen
  split
  · exact .refl s
  · rename_i x hx
    have hps : x.ps = (ctrlAt s c).ps := by rw [ctrlAt_of_tget hx]
    refine .cond (fun _ => .refl s) fun _ => ?_
    split
    · exact setCtrl_ps hps
    · rename_i ts _
      exact .trans (t := setCtrl c { x with aers := ts } s) (setCtrl_ps hps) (.of_ctrls (setPost_ctrls ..))

theorem sendAll_ps (a : Aen) (s : State) : PsKept s (sendAll a s) :=
  .each _ _ _ fun _ s => .cond (fun _ => sendAen_ps ..) fun _ => .refl s

theorem logErr_ps (c : Nat) (e : ErrEntry) (s : State) : PsKept s (logErr c e s) := by
  unfold logErr modCtrl tmod
  split
  · rename_i x hx
    exact setCtrl_ps (by rw [ctrlAt_of_tget hx])
  · exact .of_ctrls rfl

theorem ctrlCapture_ps (s : State) : PsKept s (ctrlCapture s) := by
  unfold ctrlCapture
  refine .cond (fun _ => .refl s) fun _ => .trans ?_ (sendAll_ps ..)
  exact .of_ctrls rfl

theorem reportSrc_ps (i r q : Nat) (s : State) : PsKept s (reportSrc i r q s) := by
  unfold reportSrc
  refine .cond (fun _ => ?_) fun _ => .cond (fun _ => sendAll_ps ..) fun _ => .cond (fun _ => sendAll_ps ..) fun _ => .refl s
  exact .trans (.each _ _ _ fun _ s => .cond (fun _ => logErr_ps ..) fun _ => .refl s) (sendAll_ps ..)

theorem interrupt_ps (i r q : Nat) (s : State) : PsKept s (interrupt i r q s) := by
  unfold interrupt
  have hw : PsKept s (wake { s with flt := { s.flt with ints := s.flt.ints ++ [i] } }) :=
    .of_ctrls (congrArg Nvq.ctrls ((wake_only _).same .nvq (by decide)))
  exact .cond (fun _ => hw.trans (.of_ctrls rfl)) fun _ => hw.trans (reportSrc_ps ..)

theorem react_ps (i r q : Nat) (s : State) : PsKept s (react i r q s) := by
  unfold react
  extract_lets pin s1 isl chp blk s2 _ s3
  have h1 : PsKept s s1 := .cond (fun _ => .trans (.of_only (pinAssert_only s) (by decide)) (ctrlCapture_ps _)) fun _ => .refl s
  have h2 : PsKept s1 s2 := .cond (fun _ => interrupt_ps ..) fun _ => .refl s1
  have h3 : PsKept s2 s3 := .cond (fun _ => .of_ctrls rfl) fun _ => .refl s2
  refine .cond (fun _ => h1) fun _ => .cond (fun _ => h1.trans (.of_only (askReset_only ..) (by decide))) fun _ => ?_
  refine ((h1.trans h2).trans h3).trans ?_
  clear_value s3 blk isl
  split
  · exact .of_only (holdIsland_only ..) (by decide)
  · exact .refl _

theorem latchSrc_ps (i : Nat) (p n : Bool) (s : State) : PsKept s (latchSrc i p n s) := by
  refine .trans ?_ (react_ps ..)
  exact .of_ctrls rfl

theorem takeRails_ps (i : Nat) (p n : Bool) (s : State) : PsKept s (takeRails i p n s) := by
  unfold takeRails
  extract_lets x wasWire _ s1 s2
  have h : PsKept s s2 := by
    unfold s2
    split
    · exact .of_ctrls rfl
    · exact .of_ctrls rfl
  exact .cond (fun _ => .refl s) fun _ => .cond (fun _ => h.trans (latchSrc_ps ..)) fun _ => h

/-- A fault source that asserts changes no power state. -/
theorem raiseSrc_ps (i : Nat) (s : State) : PsKept s (raiseSrc i s) := (takeRails_ps ..).trans (takeRails_ps ..)

/-- What R139's recomputation of capacity and scales can do: it changes QOS with an event and a log entry, and can raise source 187. -/
theorem rescale_cases (s : State) : ∃ u, OnlyChanges [.qos, .regs, .cst, .free] s u ∧ (rescale s = u ∨ rescale s = raiseSrc 187 u) := by
  unfold rescale
  split
  · exact ⟨s, .refl _ _, .inl rfl⟩
  · dsimp only
    split
    · exact ⟨_, (onQos_only ..).wide _ rfl, .inl rfl⟩
    · have hlog (u : State) : OnlyChanges [.qos, .regs, .cst, .free] u (logGroup 0x0D (evt .qosEvt 0 u)) :=
        ((evt_only ..).wide _ rfl).trans ((logOpen_only ..).wide _ rfl)
      split
      · refine ⟨_, ?_, .inr rfl⟩
        exact .trans ((onQos_only ..).wide _ rfl) (hlog _)
      · refine ⟨_, ?_, .inl rfl⟩
        exact .trans ((onQos_only ..).wide _ rfl) (hlog _)

theorem rescale_ps (s : State) : PsKept s (rescale s) := by
  obtain ⟨u, hu, h | h⟩ := rescale_cases s <;> rw [h]
  · exact .of_only hu (by decide)
  · exact .trans (.of_only hu (by decide)) (raiseSrc_ps ..)

theorem rescale_cmds (s : State) : CmdsKept s (rescale s) := by
  obtain ⟨u, hu, h | h⟩ := rescale_cases s <;> rw [h]
  · exact .of_nvq (hu.same .nvq (by decide))
  · exact .trans (.of_nvq (hu.same .nvq (by decide))) (raiseSrc_cmds ..)

/-! ## Features -/

/-- Features with one value have it under their own number. -/
theorem featKey_of_single {e : Entry} (h4 : fld (cdw e 10) 0 8 ≠ 4) (h9 : fld (cdw e 10) 0 8 ≠ 9) : featKey e = fld (cdw e 10) 0 8 := by
  simp only [featKey, if_neg h4, if_neg h9]

theorem featIds_contains_of_single {fid : Nat} (h : fid = 1 ∨ fid = 8 ∨ fid = 0x0B) : featIds.contains fid = true := by
  rcases h with rfl | rfl | rfl <;> rfl

/-- Set Features of a power state that exists stores it, rescales and succeeds (R139, R387). -/
theorem setFeatures_powerState {k : Nat} {t : Tag} {s : State} (h : AdminRuns k 0x09 s t) (hf : fld (cdw t.ent 10) 0 8 = 2)
    (hsv : bitOf (cdw t.ent 10) 31 = false) (hw : fld (cdw t.ent 11) 0 5 ≤ 21) (ha : NoAer k s) :
    Ends (.setFeatures k) s fun u => (ctrlAt u t.ctrl).ps = fld (cdw t.ent 11) 0 5 ∧ Posted k .success u := by
  let x := ctrlAt s t.ctrl
  let s1 := setCtrl t.ctrl { x with ps := fld (cdw t.ent 11) 0 5 } s
  have he : exec (.setFeatures k) s = .next (post k .success 0 (rescale s1)) := by
    refine congrArg Host.Outcome.next ?_
    rw [admin_of_noData h rfl]
    simp only [hf, hsv, show featIds.contains 2 = true from rfl, Bool.not_true, Bool.or_self, Bool.false_eq_true, if_false, if_true,
      if_neg (Nat.not_lt.2 hw)]
    rfl
  have ha1 : NoAer k s1 := ha.setCtrl (by
    intro hk
    unfold x ctrlAt tgetD at hk
    cases hx : tget s.nvq.ctrls t.ctrl with
    | none => simp [hx] at hk
    | some y => exact ha _ y hx (by simpa [hx] using hk))
  have htag : tget (rescale s1).nvq.tags k = some t := ((rescale_cmds s1).kept k ha1).2.trans h.tag
  refine ⟨_, he, ?_, post_posted htag h.st_ne_post ..⟩
  have hps : (ctrlAt s1 t.ctrl).ps = fld (cdw t.ent 11) 0 5 := by rw [ctrlAt_setCtrl, if_pos rfl]
  rw [← hps, ← (rescale_ps s1).ps]
  exact (PsKept.of_ctrls (post_ctrls ..)).ps t.ctrl

theorem exec_setFeatures {k : Nat} {t : Tag} {s : State} (h : AdminRuns k 0x09 s t) :
    let fid := fld (cdw t.ent 10) 0 8
    let w := cdw t.ent 11
    (fid ∉ featIds ∨ bitOf (cdw t.ent 10) 31 = true → exec (.setFeatures k) s = .next (post k .invalidField 0 s)) ∧
    (fid = 7 → bitOf (cdw t.ent 10) 31 = false → fld w 0 16 ≠ 0xFFFF → fld w 16 16 ≠ 0xFFFF →
      let lim := vqRes s t.ctrl - 1
      let a := (min lim (fld w 0 16 + 1), min lim (fld w 16 16 + 1))
      exec (.setFeatures k) s = .next (post k .success (numQDw a)
        { s with nvq := { s.nvq with ctrls := tset s.nvq.ctrls t.ctrl { ctrlAt s t.ctrl with numQ := some a } } })) ∧
    (fid = 2 → bitOf (cdw t.ent 10) 31 = false → fld w 0 5 ≤ 21 → NoAer k s → Ends (.setFeatures k) s fun u =>
      (ctrlAt u t.ctrl).ps = fld w 0 5 ∧ Posted k .success u) ∧
    (fid = 2 → bitOf (cdw t.ent 10) 31 = false → 21 < fld w 0 5 → exec (.setFeatures k) s = .next (post k .invalidField 0 s)) ∧
    (fid = 1 ∨ fid = 8 ∨ fid = 0x0B → bitOf (cdw t.ent 10) 31 = false → exec (.setFeatures k) s =
      .next (post k .success 0 (modCtrl t.ctrl (fun x => { x with feats := tset x.feats fid w.toNat }) s))) := by
  intro fid w
  refine ⟨fun hbad => congrArg Host.Outcome.next ?_, fun hf hsv h0 h1 => congrArg Host.Outcome.next ?_,
    fun hf hsv hw ha => setFeatures_powerState h hf hsv hw ha, fun hf hsv hw => congrArg Host.Outcome.next ?_,
    fun hf hsv => congrArg Host.Outcome.next ?_⟩
  · rw [admin_of_noData h rfl, if_pos]
    rcases hbad with hb | hb
    · simp [show ¬fld (cdw t.ent 10) 0 8 ∈ featIds from hb]
    · simp [hb]
  · rw [admin_of_noData h rfl]
    have hq : ¬(fld (cdw t.ent 11) 0 16 = 0xFFFF ∨ fld (cdw t.ent 11) 16 16 = 0xFFFF) := not_or.2 ⟨h0, h1⟩
    simp only [show fld (cdw t.ent 10) 0 8 = 7 from hf, hsv, show featIds.contains 7 = true from rfl, Bool.not_true, Bool.or_self,
      Bool.false_eq_true, if_false, if_neg hq, if_true, Nat.reduceEqDiff]
    rfl
  · rw [admin_of_noData h rfl]
    simp only [show fld (cdw t.ent 10) 0 8 = 2 from hf, hsv, show featIds.contains 2 = true from rfl, Bool.not_true, Bool.or_self,
      Bool.false_eq_true, if_false, if_true, if_pos (show 21 < fld (cdw t.ent 11) 0 5 from hw)]
  · have hne : fid ≠ 2 ∧ fid ≠ 4 ∧ fid ≠ 7 ∧ fid ≠ 9 := by omega
    obtain ⟨h2, h4, h7, h9⟩ := hne
    rw [admin_of_noData h rfl, if_neg (by simpa [hsv] using featIds_contains_of_single hf), if_neg h2, if_neg h4, if_neg h7, if_neg h9,
      featKey_of_single h4 h9]

theorem exec_getFeatures {k : Nat} {t : Tag} {s : State} (h : AdminRuns k 0x0A s t) :
    let fid := fld (cdw t.ent 10) 0 8
    (fid ∉ featIds → exec (.getFeatures k) s = .next (post k .invalidField 0 s)) ∧
    (fid = 7 → exec (.getFeatures k) s = .next (post k .success (numQDw (queueAlloc s t.ctrl)) s)) ∧
    (fid = 2 → fld (cdw t.ent 10) 8 3 ≠ 1 → exec (.getFeatures k) s = .next (post k .success (ctrlAt s t.ctrl).ps s)) ∧
    (fid = 1 ∨ fid = 8 ∨ fid = 0x0B → fld (cdw t.ent 10) 8 3 ≠ 1 → exec (.getFeatures k) s =
      .next (post k .success (tgetD (ctrlAt s t.ctrl).feats fid 0) s)) := by
  intro fid
  refine ⟨fun hf => congrArg Host.Outcome.next ?_, fun hf => congrArg Host.Outcome.next ?_,
    fun hf hd => congrArg Host.Outcome.next ?_, fun hf hd => congrArg Host.Outcome.next ?_⟩
  · rw [admin_of_noData h rfl, if_pos (by simpa using hf)]
  · have hin : featIds.contains fid = true := by rw [hf]; rfl
    rw [admin_of_noData h rfl, if_neg (by simp only [show featIds.contains (fld (cdw t.ent 10) 0 8) = true from hin]; decide), if_pos hf]
  · have hin : featIds.contains fid = true := by rw [hf]; rfl
    have h7 : fid ≠ 7 := by omega
    rw [admin_of_noData h rfl, if_neg (by simp only [show featIds.contains (fld (cdw t.ent 10) 0 8) = true from hin]; decide), if_neg h7,
      if_pos hf, if_neg (by simpa using hd)]
  · have hne : fid ≠ 2 ∧ fid ≠ 4 ∧ fid ≠ 7 ∧ fid ≠ 9 := by omega
    obtain ⟨h2, h4, h7, h9⟩ := hne
    rw [admin_of_noData h rfl, if_neg (by simpa using featIds_contains_of_single hf), if_neg h7, if_neg h2, if_neg (by simpa using hd),
      featKey_of_single h4 h9]

/-! ## Device Self-test -/

theorem endSelfTest_of_running {s : State} (h : s.pwr.selfTest.isSome = true) (code item : Nat) :
    endSelfTest code item s = { s with pwr := { s.pwr with selfTest := none, stLog := ((code, item) :: s.pwr.stLog).take 20 } } := by
  rw [endSelfTest, if_neg (by simpa [Option.isSome_iff_ne_none] using h), onPwr]

theorem exec_deviceSelfTest {k : Nat} {t : Tag} {s : State} (h : AdminRuns k 0x14 s t) :
    let stc := fld (cdw t.ent 10) 0 4
    (stc = 1 ∨ stc = 2 → s.pwr.selfTest = none → exec (.deviceSelfTest k) s =
      .next (post k .success 0 { s with pwr := { s.pwr with selfTest := some (t.ctrl, stc == 2) } })) ∧
    (stc = 1 ∨ stc = 2 → s.pwr.selfTest.isSome = true → exec (.deviceSelfTest k) s = .next (post k .selfTestInProgress 0 s)) ∧
    (stc = 0xF → s.pwr.selfTest.isSome = true → exec (.deviceSelfTest k) s =
      .next (post k .success 0 { s with pwr := { s.pwr with selfTest := none, stLog := ((1, 0) :: s.pwr.stLog).take 20 } })) := by
  intro stc
  refine ⟨fun hs hn => congrArg Host.Outcome.next ?_, fun hs hr => congrArg Host.Outcome.next ?_,
    fun hs hr => congrArg Host.Outcome.next ?_⟩
  · have hF : stc ≠ 0xF := by omega
    have h12 : ¬(stc ≠ 1 ∧ stc ≠ 2) := by omega
    rw [admin_of_noData h rfl, if_neg hF, if_neg h12, if_neg (by simp [hn]), onPwr]
  · have hF : stc ≠ 0xF := by omega
    have h12 : ¬(stc ≠ 1 ∧ stc ≠ 2) := by omega
    rw [admin_of_noData h rfl, if_neg hF, if_neg h12, if_pos hr]
  · rw [admin_of_noData h rfl, if_pos hs, endSelfTest_of_running hr]

/-- R396: a running self-test ends with its result, a failed item with source 338. -/
theorem exec_selfTestComplete {s : State} (h : s.pwr.selfTest.isSome = true) (hm : s.sys.mode.serving = true) (i : Nat) :
    exec (.selfTestComplete none) s =
      .next { s with pwr := { s.pwr with selfTest := none, stLog := ((0, 0) :: s.pwr.stLog).take 20 } } ∧
    Ends (.selfTestComplete (some i)) s
      (RaisedFrom 338 { s with pwr := { s.pwr with selfTest := none, stLog := ((7, i) :: s.pwr.stLog).take 20 } }) := by
  have hgo : ¬(s.pwr.selfTest.isNone = true ∨ (!engines s) = true) := by
    simp [engines, hm, Option.isSome_iff_ne_none.1 h]
  have hd : s.sys.mode ≠ .dormant := by
    intro h0; rw [h0] at hm; exact absurd hm (by decide)
  constructor
  · simp only [exec, execSelfTestComplete, if_neg hgo, endSelfTest_of_running h]
  · refine ⟨raiseSrc 338 (endSelfTest 7 i s), by simp only [exec, execSelfTestComplete, if_neg hgo], ?_⟩
    rw [endSelfTest_of_running h]
    exact raiseSrc_raised 338 _ (by decide) hd

/-- Settles O45, command by command. -/
theorem adminQueriesAndFeatures : Obligations.AdminQueriesAndFeatures :=
  ⟨fun _ _ _ h => exec_identify h, fun _ _ _ h hn => exec_abort h hn, fun _ _ _ h hk => exec_asynchronousEventRequest h hk,
    fun _ _ _ h => exec_setFeatures h, fun _ _ _ h => exec_getFeatures h, fun _ _ _ h => exec_deviceSelfTest h,
    fun i _ h hm => exec_selfTestComplete h hm i⟩

end Sys2Proof

namespace Sys2Proof

open Machine

/-! What the device's work on NAND keeps of mode and boot (R30, R43): placing, programming, committing, reconstructing and erasing raise fault
sources, and touch SYS no further. -/

/-! ## Mode events -/

theorem regA_ne_sysModeEvt (q : RegId) (h : q ≠ .sysModeEvt) : regA .sysModeEvt ≠ regA q := by
  cases q with
  | sysModeEvt => exact absurd rfl h
  | _ => decide

theorem EvtSet.of_onlyRegs {r : RegId} {b : Nat} {l : List Nat} {s t : State} (h : EvtSet r b s) (hr : OnlyRegs l s t) (hl : regA r ∉ l) :
    EvtSet r b t := h.of_reg (hr.same _ hl)

theorem bitOf_or (a b : Word) (i : Nat) : bitOf (a ||| b) i = (bitOf a i || bitOf b i) := BitVec.getLsbD_or ..

/-- A mode event stays set when an event is set (R12). -/
theorem EvtSet.evt {b : Nat} {s : State} (h : EvtSet .sysModeEvt b s) (q : RegId) (i : Nat) : EvtSet .sysModeEvt b (evt q i s) := by
  by_cases hq : q = .sysModeEvt
  · subst hq
    unfold EvtSet Machine.evt at *
    rw [reg_orReg, bitOf_or, h, Bool.true_or]
  · exact h.of_onlyRegs (evt_onlyRegs q i s) (by simpa using regA_ne_sysModeEvt q hq)

/-- Every mode event stays set. -/
structure ModeEvtsKept (s t : State) : Prop where
  kept : ∀ b, EvtSet .sysModeEvt b s → EvtSet .sysModeEvt b t

theorem ModeEvtsKept.of_regs {s t : State} (h : t.regs = s.regs) : ModeEvtsKept s t :=
  ⟨fun _ hb => hb.of_reg (by rw [h])⟩

/-! ## Work on NAND -/

/-- What the device's work on NAND keeps: the parts it does not reach; SYS but for a chip reset or a wake that a fault source asks for; the mode
events; and the granules that mirror commands in progress hold. -/
structure WorkKeeps (s t : State) : Prop where
  parts : OnlyChanges backgroundParts s t
  sys : t.sys = { s.sys with resetReq := t.sys.resetReq, wakeReq := t.sys.wakeReq }
  events : ModeEvtsKept s t
  active : t.dre.active = s.dre.active

theorem WorkKeeps.refl (s : State) : WorkKeeps s s := ⟨.refl _ _, rfl, ⟨fun _ h => h⟩, rfl⟩

theorem WorkKeeps.trans {s t u : State} (h : WorkKeeps s t) (k : WorkKeeps t u) : WorkKeeps s u :=
  ⟨h.parts.trans k.parts, by rw [k.sys, h.sys], ⟨fun b hb => k.events.kept b (h.events.kept b hb)⟩, k.active.trans h.active⟩

theorem WorkKeeps.each {α : Type} (xs : List α) (f : α → State → State) (s : State) (h : ∀ x s, WorkKeeps s (f x s)) :
    WorkKeeps s (forEach xs f s) := by
  unfold forEach
  induction xs generalizing s with
  | nil => exact .refl s
  | cons x xs ih => exact (h x s).trans (ih (f x s))

theorem WorkKeeps.upto (n : Nat) (f : Nat → State → State) (s : State) (h : ∀ x s, WorkKeeps s (f x s)) :
    WorkKeeps s (forN n f s) := .each _ _ _ h

theorem WorkKeeps.cond {s t u : State} {c : Prop} [Decidable c] (h : c → WorkKeeps s t) (k : ¬c → WorkKeeps s u) :
    WorkKeeps s (if c then t else u) := by
  split
  · exact h ‹_›
  · exact k ‹_›

theorem WorkKeeps.onlyIf {s : State} {f : State → State} (c : Bool) (h : WorkKeeps s (f s)) : WorkKeeps s (onlyIf c f s) :=
  .cond (fun _ => h) fun _ => .refl s

/-- The parts that work on NAND can change in any way. -/
def workParts : List Part := [.fte, .xlt, .fch, .sre, .qos, .nvq, .cst, .flt, .pwr, .sbm, .pins, .free]

theorem WorkKeeps.of_only {s t : State} (h : OnlyChanges workParts s t) : WorkKeeps s t :=
  ⟨h.wide _ rfl, by rw [h.same .sys (by decide)], .of_regs (h.same .regs (by decide)), by rw [h.same .dre (by decide)]⟩

theorem onFte_work (f : Fte → Fte) (s : State) : WorkKeeps s (onFte f s) :=
  .of_only ⟨fun p hp => by cases p <;> simp_all [Part.same, workParts]⟩
theorem onXlt_work (f : Xlt → Xlt) (s : State) : WorkKeeps s (onXlt f s) := .of_only ((onXlt_only ..).wide _ rfl)
theorem onFch_work (f : Fch → Fch) (s : State) : WorkKeeps s (onFch f s) :=
  .of_only ⟨fun p hp => by cases p <;> simp_all [Part.same, workParts]⟩
theorem onSre_work (f : Sre → Sre) (s : State) : WorkKeeps s (onSre f s) :=
  .of_only ⟨fun p hp => by cases p <;> simp_all [Part.same, workParts]⟩
theorem onNvq_work (f : Nvq → Nvq) (s : State) : WorkKeeps s (onNvq f s) := .of_only ((onNvq_only ..).wide _ rfl)
theorem onCst_work (f : Cst → Cst) (s : State) : WorkKeeps s (onCst f s) := .of_only ((onCst_only ..).wide _ rfl)
theorem onPwr_work (f : Pwr → Pwr) (s : State) : WorkKeeps s (onPwr f s) := .of_only ((onPwr_only ..).wide _ rfl)
theorem blkMod_work (die b : Nat) (f : Blk → Blk) (s : State) : WorkKeeps s (blkMod die b f s) :=
  onFte_work (fun x => { x with blks := tset x.blks (blkKey die b) (f (blkAt s die b)) }) s
theorem modDie_work (die : Nat) (f : Die → Die) (s : State) : WorkKeeps s (modDie die f s) := onFch_work ..
theorem logOpen_work (c : Nat) (s : State) : WorkKeeps s (logOpen c s) := .of_only ((logOpen_only ..).wide _ rfl)

/-- The hypothesis is proved by `rfl` for an update of other fields. -/
theorem onDre_work (f : Dre → Dre) (s : State) (h : (f s.dre).active = s.dre.active) : WorkKeeps s (onDre f s) :=
  ⟨⟨fun p hp => by cases p <;> simp_all [Part.same, backgroundParts, faultParts]⟩, rfl, .of_regs rfl, h⟩

theorem modDom_work (d : Nat) (f : Dom → Dom) (s : State) : WorkKeeps s (modDom d f s) := onDre_work _ _ rfl
theorem setStripe_work (d n : Nat) (t : Stripe) (s : State) : WorkKeeps s (setStripe d n t s) := onDre_work _ _ rfl
theorem modStripe_work (d n : Nat) (f : Stripe → Stripe) (s : State) : WorkKeeps s (modStripe d n f s) := onDre_work _ _ rfl

theorem evt_work (r : RegId) (b : Nat) (s : State) : WorkKeeps s (evt r b s) :=
  ⟨(evt_only ..).wide _ rfl, rfl, ⟨fun _ h => h.evt r b⟩, rfl⟩

theorem FaultKeeps.work {s t : State} (h : FaultKeeps s t) : WorkKeeps s t :=
  ⟨h.rest.wide _ rfl, h.sys, ⟨fun _ hb => hb.of_onlyRegs h.regs (by decide)⟩, by rw [h.rest.same .dre (by decide)]⟩

theorem raiseSrc_work (i : Nat) (s : State) : WorkKeeps s (raiseSrc i s) := (raiseSrc_keeps i s).work

/-- An event with its source. -/
theorem raiseEvt_work (i : Nat) (r : RegId) (b : Nat) (s : State) : WorkKeeps s (raiseSrc i (evt r b s)) :=
  (evt_work ..).trans (raiseSrc_work ..)

/-! ### Die queues -/

theorem enterQueue_work (die : Nat) (o : Dop) (s : State) : WorkKeeps s (enterQueue die o s) := by
  unfold enterQueue
  extract_lets ts s1
  refine .trans ?_ (modDie_work ..)
  unfold s1
  split
  · exact .cond (fun _ => .refl s) fun _ => .of_only ((qosServe_only ..).wide _ rfl)
  · exact .refl s

theorem drainN_work (n die : Nat) (s : State) : WorkKeeps s (drainN n die s) := by
  induction n generalizing s with
  | zero => exact .refl s
  | succ n ih =>
    unfold drainN
    split
    · exact .refl s
    · exact (enterQueue_work ..).trans (ih _)

theorem queueOp_work (die : Nat) (o : Dop) (s : State) : WorkKeeps s (queueOp die o s) :=
  .cond (fun _ => .refl s) fun _ => .trans ((onFch_work ..).trans (modDie_work ..)) (drainN_work ..)

theorem dropTokens_work (o : Dop) (s : State) : WorkKeeps s (dropTokens o s) := onPwr_work ..

theorem freeEntry_work (die : Nat) (o : Dop) (s : State) : WorkKeeps s (freeEntry die o s) :=
  .trans ((dropTokens_work o s).trans (modDie_work ..)) (drainN_work ..)

theorem withdraw_work (die b : Nat) (s : State) : WorkKeeps s (withdraw die b s) :=
  .trans (.trans (.each _ _ _ dropTokens_work) (modDie_work ..)) (drainN_work ..)

/-! ### Reads of codewords -/

theorem queueRead_work (a : Nat) (use : DopFor) (s : State) : WorkKeeps s (queueRead a use s) :=
  .cond (fun _ => modDie_work ..) fun _ => (blkMod_work ..).trans (queueOp_work ..)

theorem toLadder_work (cw : Nat) (r : Reader) (n : Nat) (s : State) : WorkKeeps s (toLadder cw r n s) :=
  .cond (fun _ => onSre_work ..) fun _ => onSre_work ..

theorem survGot_work (a : Nat) (ok : Bool) (s : State) : WorkKeeps s (survGot a ok s) :=
  .cond (fun _ => onDre_work _ _ rfl) fun _ => .refl s

theorem askSurv_work (a : Nat) (s : State) : WorkKeeps s (askSurv a s) := by
  refine .cond (fun _ => .refl s) fun _ => ?_
  have h : WorkKeeps s (onDre (fun d => { d with want := d.want ++ [a] }) s) := onDre_work _ _ rfl
  exact .cond (fun _ => h.trans (survGot_work ..)) fun _ => h.trans (queueRead_work ..)

theorem toRecon_work (cw : Nat) (s : State) : WorkKeeps s (toRecon cw s) :=
  .cond (fun _ => .refl s) fun _ => .trans (onDre_work _ _ rfl) (.each _ _ _ fun _ _ => askSurv_work ..)

theorem dropSurv_work (cw : Nat) (s : State) : WorkKeeps s (dropSurv cw s) :=
  .cond (fun _ => .trans (onSre_work ..) (survGot_work ..)) fun _ => .refl s

theorem enterStep5_work (cw : Nat) (s : State) : WorkKeeps s (enterStep5 cw s) :=
  .cond (fun _ => (dropSurv_work cw s).trans ((onSre_work ..).trans ((raiseEvt_work ..).trans (toRecon_work ..))))
    fun _ => dropSurv_work cw s

theorem readCw_work (a : Nat) (use : DopFor) (s : State) : WorkKeeps s (readCw a use s) :=
  .cond (fun _ => queueRead_work ..) fun _ => .cond (fun _ => toLadder_work ..) fun _ => (toLadder_work ..).trans (enterStep5_work ..)

/-! ### Map pages -/

theorem startReadsN_work (n : Nat) (s : State) : WorkKeeps s (startReadsN n s) := by
  induction n generalizing s with
  | zero => exact .refl s
  | succ n ih =>
    unfold startReadsN
    refine .cond (fun _ => .refl s) fun _ => ?_
    split
    · exact .refl s
    · refine .trans ?_ (ih _)
      split
      · exact (onXlt_work ..).trans (readCw_work ..)
      · exact onXlt_work ..

theorem askMapPage_work (ns page : Nat) (s : State) : WorkKeeps s (askMapPage ns page s) :=
  .cond (fun _ => .refl s) fun _ => (onXlt_work ..).trans (startReadsN_work ..)

theorem prefetch_work (ns iu : Nat) (s : State) : WorkKeeps s (prefetch ns iu s) :=
  .cond (fun _ => .refl s) fun _ => askMapPage_work ..

theorem trimCache_work (n : Nat) (s : State) : WorkKeeps s (trimCache n s) := by
  unfold trimCache
  exact onFte_work ..

theorem cachePage_work (ns page : Nat) (s : State) : WorkKeeps s (cachePage ns page s) :=
  .cond (fun _ => .refl s) fun _ => .cond (fun _ => .refl s) fun _ => (trimCache_work ..).trans (onFte_work ..)

theorem wantPage_work (ns page : Nat) (s : State) : WorkKeeps s (wantPage ns page s).2 := by
  unfold wantPage
  split
  · dsimp only
    exact onFte_work ..
  · split
    · exact cachePage_work ..
    · exact .refl s

theorem engRun_work (e : EngCtx) (s : State) : WorkKeeps s (engRun e s).2 := by
  have hwant := wantPage_work e.ns (e.iu / iusPerPage) s
  unfold engRun
  split
  · exact .refl s
  · split
    · exact (onXlt_work ..).trans (raiseEvt_work ..)
    · generalize wantPage e.ns (e.iu / iusPerPage) s = x at hwant
      obtain ⟨ok, s1⟩ := x
      dsimp only at hwant ⊢
      split
      · exact hwant.trans (prefetch_work ..)
      · exact hwant.trans ((onXlt_work ..).trans (askMapPage_work ..))

/-! ### Deltas -/

theorem fullLog_work (s : State) : WorkKeeps s (fullLog s) := raiseEvt_work ..

theorem setMap_work (ns iu v : Nat) (s : State) : WorkKeeps s (setMap ns iu v s) := onFte_work ..

theorem writeDelta_work (d : Delta) (s : State) : WorkKeeps s (writeDelta d s) :=
  .cond (fun _ => (onCst_work ..).trans (setMap_work ..)) fun _ => onCst_work ..

theorem appendDelta_work (d : Delta) (s : State) : WorkKeeps s (appendDelta d s) :=
  .cond (fun _ => (onCst_work ..).trans (fullLog_work _)) fun _ => writeDelta_work ..

theorem blkDelta_work (die b : Nat) (s : State) : WorkKeeps s (blkDelta die b s) := appendDelta_work ..

theorem drainDue_work (n : Nat) (s : State) : WorkKeeps s (drainDue n s) := by
  induction n generalizing s with
  | zero => exact .refl s
  | succ n ih =>
    unfold drainDue
    refine .cond (fun _ => .refl s) fun _ => ?_
    split
    · exact .refl s
    · exact (onCst_work ..).trans ((writeDelta_work ..).trans (ih _))

/-! ### Stripes -/

theorem takeBlk_work (die b stream stripe pos : Nat) (s : State) : WorkKeeps s (takeBlk die b stream stripe pos s) :=
  (blkMod_work ..).trans (blkDelta_work ..)

theorem gcLevels_work (s : State) : WorkKeeps s (gcLevels s) :=
  .upto _ _ _ fun _ _ => .cond (fun _ => (onFte_work ..).trans (raiseEvt_work ..)) fun _ => onFte_work ..

theorem openStripe_work (d stream : Nat) (s : State) : WorkKeeps s (openStripe d stream s) := by
  unfold openStripe
  refine .cond (fun _ => .refl s) fun _ => ?_
  split
  · exact .refl s
  · rename_i n ms _
    extract_lets held s1 t s2 s3
    have h1 : WorkKeeps s s1 := .upto _ _ _ fun j s => by
      split
      · exact takeBlk_work ..
      · exact .refl s
    have h2 : WorkKeeps s s2 := h1.trans ((setStripe_work ..).trans (modDom_work ..))
    have h3 : WorkKeeps s s3 := .cond (fun _ => h2.trans (onFte_work ..)) fun _ => h2
    exact .trans (.cond (fun _ => h3.trans (raiseEvt_work ..)) fun _ => h3) (gcLevels_work _)

theorem queueSteps_work (t : Stripe) (m lo hi : Nat) (s : State) : WorkKeeps s (queueSteps t m lo hi s) := by
  unfold queueSteps
  split
  · exact .each _ _ _ fun _ _ => queueOp_work ..
  · exact .refl s

theorem gavePos_work (d n : Nat) (s : State) : WorkKeeps s (gavePos d n s) := by
  unfold gavePos
  split
  · exact .refl s
  · extract_lets per fill parity
    split
    extract_lets accs0 accs s1 s2
    have h1 : WorkKeeps s s1 := setStripe_work ..
    have h2 : WorkKeeps s s2 := .cond (fun _ => h1.trans (queueSteps_work ..)) fun _ => h1
    exact .cond (fun _ => h2.trans (queueSteps_work ..)) fun _ => h2

theorem giveCw_work (d n : Nat) (c : Prog) (s : State) : WorkKeeps s (giveCw d n c s) := by
  unfold giveCw
  split
  · exact .refl s
  · split
    split
    · exact .refl s
    · exact .trans (onFte_work ..) (gavePos_work ..)

theorem giveIu_work (d n u : Nat) (c : Prog) (s : State) : WorkKeeps s (giveIu d n u c s) := by
  unfold giveIu
  split
  · exact .refl s
  · exact .trans (.upto _ _ _ fun _ _ => gavePos_work ..) (.upto _ _ _ fun _ _ => giveCw_work ..)

/-- R193, R196: what is placed takes positions or waits for a stripe. -/
theorem place_work (d stream : Nat) (c : Prog) (s : State) : WorkKeeps s (place d stream c s) := by
  unfold place
  extract_lets u s1
  have h1 : WorkKeeps s s1 := openStripe_work ..
  split
  · exact giveIu_work ..
  · split
    · exact h1.trans (giveIu_work ..)
    · exact h1.trans (onFte_work ..)

theorem placeWaiting_work (s : State) : WorkKeeps s (placeWaiting s) :=
  (onFte_work (fun f => { f with wait := [] }) s).trans (.each _ _ _ fun _ _ => place_work ..)

theorem placeAgain_work (l : Tbl Prog) (s : State) : WorkKeeps s (placeAgain l s) :=
  .trans (onFte_work ..) (.each _ _ _ fun _ s => .cond (fun _ => place_work ..) fun _ => .refl s)

theorem markFirst_work (d n : Nat) (s : State) : WorkKeeps s (markFirst d n s) := onFte_work ..

theorem closeBlks_work (t : Stripe) (s : State) : WorkKeeps s (closeBlks t s) :=
  .each _ _ _ fun _ s => .cond (fun _ => (blkMod_work ..).trans (blkDelta_work ..)) fun _ => .refl s

theorem finishStripe_work (d n : Nat) (s : State) : WorkKeeps s (finishStripe d n s) := by
  unfold finishStripe
  split
  · exact .refl s
  · exact .cond (fun _ => (setStripe_work ..).trans (closeBlks_work ..)) fun _ => .refl s

theorem flushMember_work (t : Stripe) (m : Nat) (s : State) : WorkKeeps s (flushMember t m s) := by
  unfold flushMember
  split
  · exact .refl s
  · exact queueSteps_work ..

theorem flushData_work (t : Stripe) (s : State) : WorkKeeps s (forEach (dataMembers t) (flushMember t) s) :=
  .each _ _ _ fun _ _ => flushMember_work ..

theorem closePartial_work (d n : Nat) (s : State) : WorkKeeps s (closePartial d n s) := by
  unfold closePartial
  split
  · exact .refl s
  · refine .cond (fun _ => .refl s) fun _ => ?_
    exact .trans ((flushData_work ..).trans (flushMember_work ..)) <|
      (setStripe_work ..).trans <| (closeBlks_work ..).trans <| (evt_work ..).trans (finishStripe_work ..)

theorem parityLoss_work (d n : Nat) (s : State) : WorkKeeps s (parityLoss d n s) := by
  unfold parityLoss
  split
  · exact .refl s
  · rename_i t _
    refine .cond (fun _ => .refl s) fun _ => ?_
    extract_lets s1 s2 t1
    have h1 : WorkKeeps s s1 := flushData_work ..
    have h2 : WorkKeeps s1 s2 := by
      unfold s2
      split
      · exact withdraw_work ..
      · exact .refl s1
    exact (h1.trans h2).trans <| (setStripe_work ..).trans <| (closeBlks_work ..).trans <| (markFirst_work ..).trans (raiseEvt_work ..)

theorem closeAll_work (s : State) : WorkKeeps s (closeAll s) := by
  unfold closeAll
  extract_lets s1 s2
  have h2 : WorkKeeps s1 s2 := .each _ _ _ fun _ _ => closePartial_work ..
  exact (placeWaiting_work s).trans (h2.trans (onNvq_work ..))

/-! ### Commits -/

theorem shadowFull_work (s0 s : State) : WorkKeeps s (shadowFull s0 s) := .cond (fun _ => .refl s) fun _ => place_work ..

theorem commitRec_work (r : WellRec) (a : Nat) (s : State) : WorkKeeps s (commitRec r a s) :=
  .cond (fun _ => .refl s) fun _ => .cond (fun _ => onFte_work ..) fun _ => .cond (fun _ => fullLog_work s) fun _ =>
    .cond (fun _ => evt_work ..) fun _ => (appendDelta_work ..).trans (onFte_work ..)

theorem commitMove_work (ns inst iu src a ver : Nat) (s : State) : WorkKeeps s (commitMove ns inst iu src a ver s) :=
  .cond (fun _ => appendDelta_work ..) fun _ => .refl s

theorem commitPage_work (ns inst page fold a : Nat) (s : State) : WorkKeeps s (commitPage ns inst page fold a s) := by
  unfold commitPage
  extract_lets s1 s2
  exact (writeDelta_work ..).trans ((onFte_work _ s1).trans (onCst_work _ s2))

theorem commitPageMove_work (ns inst page src a : Nat) (s : State) : WorkKeeps s (commitPageMove ns inst page src a s) :=
  .cond (fun _ => (writeDelta_work ..).trans (onFte_work ..)) fun _ => .refl s

theorem commitDirMove_work (no src a : Nat) (s : State) : WorkKeeps s (commitDirMove no src a s) :=
  .cond (fun _ => onFte_work ..) fun _ => .refl s

/-- R185, R186: a codeword that has passed takes effect by its kind. -/
theorem commitCw_work (a : Nat) (c : Prog) (s : State) : WorkKeeps s (commitCw a c s) := by
  unfold commitCw
  extract_lets u base done
  have hdone (s : State) : WorkKeeps s (done s) := onFte_work ..
  clear_value done
  refine .cond (fun _ => .refl s) fun _ => ?_
  split
  · rename_i s1 _ _ _
    have h1 : WorkKeeps s s1 := (hdone s).trans (onFte_work ..)
    clear_value s1
    split
    · exact h1.trans (commitRec_work ..)
    · exact h1
  · exact .cond (fun _ => fullLog_work s) fun _ => (commitMove_work ..).trans (hdone _)
  · exact .trans (.onlyIf _ (commitPage_work ..)) (hdone _)
  · exact (commitPageMove_work ..).trans (hdone _)
  · exact (commitDirMove_work ..).trans (hdone _)
  · exact .trans ((onFte_work ..).trans (onCst_work ..)) (hdone _)
  · exact (onCst_work ..).trans (hdone _)

theorem commitWaiting_work (s : State) : WorkKeeps s (commitWaiting s) :=
  .trans (.each _ _ _ fun _ _ => commitRec_work ..) (.each _ _ _ fun _ s => .cond (fun _ => commitCw_work ..) fun _ => .refl s)

theorem afterCommit_work (s0 s : State) : WorkKeeps s (afterCommit s0 s) :=
  (drainDue_work ..).trans <| (commitWaiting_work _).trans <| (onFte_work ..).trans <| (onNvq_work ..).trans <|
    (shadowFull_work ..).trans (placeWaiting_work _)

/-! ### Programs -/

theorem sealFail_work (s : State) : WorkKeeps s (sealFail s) := (evt_work ..).trans ((logOpen_work ..).trans (raiseSrc_work ..))

theorem passGroup_work (die b g : Nat) (bad : List Nat) (s : State) : WorkKeeps s (passGroup die b g bad s) :=
  .trans ((onFte_work ..).trans (.each _ _ _ fun _ _ => sealFail_work _)) (.each _ _ _ fun _ _ => commitCw_work ..)

theorem memberPassed_work (die b g : Nat) (s : State) : WorkKeeps s (memberPassed die b g s) := by
  unfold memberPassed
  extract_lets d x
  split
  · exact .cond (fun _ => (modStripe_work ..).trans (finishStripe_work ..)) fun _ => .cond (fun _ => modStripe_work ..) fun _ => .refl s
  · exact .refl s

theorem passPage_work (die b step : Nat) (bad : List Nat) (s : State) : WorkKeeps s (passPage die b step bad s) := by
  unfold passPage
  split
  · exact .refl s
  · extract_lets x g last s1 s2
    have h1 : WorkKeeps s s1 := (freeEntry_work ..).trans (.onlyIf _ (passGroup_work ..))
    have h2 : WorkKeeps s s2 := .cond (fun _ => h1.trans ((blkMod_work ..).trans (blkDelta_work ..))) fun _ => h1
    exact h2.trans (.trans (.onlyIf _ (memberPassed_work ..)) (afterCommit_work ..))

theorem refuseOp_work (die : Nat) (o : Dop) (s : State) : WorkKeeps s (refuseOp die o s) := by
  unfold refuseOp
  extract_lets s1
  have h1 : WorkKeeps s s1 := (freeEntry_work ..).trans ((raiseEvt_work ..).trans (blkMod_work ..))
  exact .cond (fun _ => h1.trans (placeAgain_work ..)) fun _ => h1

theorem programNow_work (die : Nat) (o : Dop) (s : State) : WorkKeeps s (programNow die o s) :=
  .cond (fun _ => passPage_work ..) fun _ => .cond (fun _ => refuseOp_work ..) fun _ =>
    (dropTokens_work o s).trans ((blkMod_work ..).trans ((modDie_work ..).trans (passPage_work ..)))

theorem runDie_work (die n : Nat) (s : State) : WorkKeeps s (runDie die n s) := by
  induction n generalizing s with
  | zero => exact .refl s
  | succ n ih =>
    unfold runDie
    split
    · exact .refl s
    · exact (programNow_work ..).trans (ih _)

theorem runPrograms_work (n : Nat) (s : State) : WorkKeeps s (runPrograms n s) := by
  induction n generalizing s with
  | zero => exact .refl s
  | succ n ih => exact .cond (fun _ => .refl s) fun _ => .trans (.each _ _ _ fun _ _ => runDie_work ..) (ih _)

/-- R38, R126: the write wells are programmed to the end. -/
theorem finishPrograms_work (s : State) : WorkKeeps s (finishPrograms s) := runPrograms_work ..

end Sys2Proof

namespace Sys2Proof

open Machine

/-! DORMANT (R39, R378): what the entry saves and powers down, and automatic dormancy. -/

/-! ## Frames -/

theorem Keeps.of_only {k l : List Part} {s t : State} (h : OnlyChanges l s t) (hk : (k.all fun p => !l.contains p) = true) : Keeps k s t :=
  fun p hp => h.same p (by simpa using List.all_eq_true.1 hk p hp)

theorem moveMode_only (m : Mode) (s : State) : OnlyChanges [.sys, .regs] s (moveMode m s) := by
  refine .cond (fun _ => .refl _ _) fun _ => .trans ?_ ((orReg_only ..).wide _ rfl)
  constructor; intro p hp; cases p <;> simp_all [Part.same]

theorem logMode_only (s0 : State) (c d : Nat) (s : State) : OnlyChanges [.cst] s (logMode s0 c d s) := by
  unfold logMode
  extract_lets s1
  have h1 : OnlyChanges [.cst] s s1 := logEvent_only ..
  clear_value s1
  exact h1.trans (onCst_only (fun c => { c with lastSts := modeSts s1 }) s1)

theorem enterMode_only (m : Mode) (c : Nat) (s : State) : OnlyChanges [.sys, .regs, .cst] s (enterMode m c s) :=
  ((moveMode_only m s).wide _ rfl).trans ((logMode_only ..).wide _ rfl)

theorem enterMode_sys (m : Mode) (c : Nat) (s : State) : (enterMode m c s).sys = (moveMode m s).sys := (logMode_only ..).same .sys (by decide)

/-- R42: a mode entered is the mode; of SYS nothing else changes but what Table 2-8 reports of the change. -/
theorem moveMode_sys (m : Mode) (s : State) : (moveMode m s).sys = { s.sys with
    mode := m, prevMode := (moveMode m s).sys.prevMode, chgCnt := (moveMode m s).sys.chgCnt, chgTime := (moveMode m s).sys.chgTime } := by
  unfold moveMode
  split
  · rename_i h; rw [h]
  · rfl

/-- The saved time, whatever is written to the event log. -/
theorem savedT_of_events (l : List Event) (n : Nat) (s : State) :
    { s with cst := { s.cst with events := l, evSeq := n } }.cst.savedT = s.cst.savedT := rfl

theorem savedT_of_lastSts (w : Word) (s : State) : { s with cst := { s.cst with lastSts := w } }.cst.savedT = s.cst.savedT := rfl

theorem logEvent_savedT (c : Nat) (o n u : Word) (s : State) : (logEvent c o n u s).cst.savedT = s.cst.savedT := savedT_of_events ..

theorem logMode_savedT (s0 : State) (c d : Nat) (s : State) : (logMode s0 c d s).cst.savedT = s.cst.savedT := by
  unfold logMode
  exact (savedT_of_lastSts _ _).trans (logEvent_savedT ..)

theorem enterMode_savedT (m : Mode) (c : Nat) (s : State) : (enterMode m c s).cst.savedT = s.cst.savedT := by
  rw [enterMode, logMode_savedT, (moveMode_only m s).same .cst (by decide)]

theorem endSelfTest_only (c i : Nat) (s : State) : OnlyChanges [.pwr] s (endSelfTest c i s) :=
  .cond (fun _ => .refl _ _) fun _ => onPwr_only ..

/-! ## Islands -/

theorem tget_tfilter_passes {α : Type} {t : Tbl α} {p : Nat → α → Bool} {k : Nat} {v : α} (h : tget (tfilter t p) k = some v) :
    p k v = true := by
  have hm : (k, v) ∈ tfilter t p := Tests.mem_of_tget h
  exact (List.mem_filter.1 hm).2

/-- A list of entries that agree at a key puts their value there, or holds none for the key. -/
theorem tget_foldl_tset {α : Type} {i : Nat} {x : α} (l : List (Nat × α)) (t : Tbl α) (h : ∀ e ∈ l, e.1 = i → e.2 = x) :
    tget (l.foldl (fun t e => tset t e.1 e.2) t) i = some x ∨
      (tget (l.foldl (fun t e => tset t e.1 e.2) t) i = tget t i ∧ ∀ e ∈ l, e.1 ≠ i) := by
  induction l generalizing t with
  | nil => exact .inr ⟨rfl, by simp⟩
  | cons e l ih =>
    rw [List.foldl_cons]
    rcases ih (tset t e.1 e.2) (fun y hy => h y (List.mem_cons_of_mem e hy)) with hx | ⟨ht, hl⟩
    · exact .inl hx
    · rw [ht, tget_tset]
      split
      · rename_i hi
        exact .inl (congrArg some (h e List.mem_cons_self hi.symm))
      · rename_i hi
        refine .inr ⟨rfl, fun y hy => ?_⟩
        rcases List.mem_cons.1 hy with rfl | hy
        · exact Ne.symm hi
        · exact hl y hy

theorem isolateAll_only (l : List Nat) (s : State) : OnlyChanges [.flt] s (forEach l isolate s) := .each _ _ _ _ isolate_only

theorem setIslands_only (l : List (Nat × IslSt)) (s : State) : OnlyChanges [.pwr, .flt] s (setIslands l s) :=
  ((onPwr_only ..).wide _ rfl).trans ((isolateAll_only ..).wide _ rfl)

theorem setIslands_pwr (l : List (Nat × IslSt)) (s : State) :
    (setIslands l s).pwr = { s.pwr with isl := (setIslands l s).pwr.isl } := by
  unfold setIslands
  extract_lets held go
  rw [(isolateAll_only ..).same .pwr (by decide)]
  rfl

/-- Table 16-1: an island takes its state of the column, unless a BLK holds it in reset. -/
theorem islAt_setIslands {l : List (Nat × IslSt)} {i : Nat} {x : IslSt} (hi : (i, x) ∈ l) (hx : ∀ e ∈ l, e.1 = i → e.2 = x) (s : State) :
    islAt (setIslands l s) i = x ∨ islAt (setIslands l s) i = .reset := by
  unfold setIslands
  extract_lets held go
  simp only [islAt, tgetD]
  rw [(isolateAll_only ..).same .pwr (by decide)]
  simp only [onPwr_pwr]
  rcases tget_foldl_tset go held (fun e he => hx e (List.mem_filter.1 he).1) with h | ⟨h, hgo⟩
  · exact .inl (by rw [h, Option.getD_some])
  · cases hh : tget held i with
    | none =>
      have hmem : (i, x) ∈ go := List.mem_filter.2 ⟨hi, by simp [thas, hh]⟩
      exact absurd rfl (hgo _ hmem)
    | some v =>
      rw [h, hh, Option.getD_some]
      exact .inr (by simpa using tget_tfilter_passes hh)

theorem mem_dormantIslands {i : Nat} (h1 : 1 ≤ i) (h2 : i < 46) : (i, .off) ∈ dormantIslands := by
  refine List.mem_map.2 ⟨i, ?_, rfl⟩
  exact List.mem_map.2 ⟨i - 1, List.mem_range.2 (by omega), by omega⟩

theorem dormantIslands_off : ∀ e ∈ dormantIslands, e.2 = IslSt.off := by decide

/-! ## Ports -/

theorem portsOff_only (s : State) : OnlyChanges [.hpc, .out] s (portsOff s) := by
  have h (f : Hpc → Hpc) : OnlyChanges [.hpc, .out] s (onHpc f s) := (onHpc_only ..).wide _ rfl
  unfold portsOff
  extract_lets s1
  split
  · exact h _
  · exact (h _).trans (((onHpc_only ..).wide _ rfl).trans ((emit_only ..).wide _ rfl))

/-- A table whose every entry passes still passes after an entry is changed by a function that keeps the test. -/
theorem tupd_passes {α : Type} {t : Tbl α} {p : α → Prop} {d : α} {f : α → α} (ht : ∀ n x, tget t n = some x → p x) (hd : p d)
    (hf : ∀ x, p x → p (f x)) (k : Nat) : ∀ n x, tget (tupd t k d f) n = some x → p x := by
  intro n x hx
  rw [tupd, tget_tset] at hx
  split at hx
  · cases hx
    refine hf _ ?_
    rw [tgetD]
    cases hk : tget t k with
    | none => exact hd
    | some y => exact ht k y hk
  · exact ht n x hx

/-- R373: every link is down once the device's power is. -/
theorem portsOff_down (s : State) : ∀ n p, tget (portsOff s).hpc.ports n = some p → p.up = false := by
  have h1 : ∀ n p, tget (tmap s.hpc.ports fun _ (p : Port) =>
      { p with up := false, st := 0, width := 0, rate := 0, flit := false, cfgReady := false, ptmOut := false }) n = some p →
      p.up = false := by
    intro n p hp
    rw [tget_tmap] at hp
    obtain ⟨q, _, rfl⟩ := Option.map_eq_some_iff.1 hp
    rfl
  unfold portsOff
  extract_lets s1
  split
  · exact h1
  · exact tupd_passes (p := fun p : Port => p.up = false) (f := fun p => { p with perst := true }) h1 rfl (fun _ h => h) _

/-! ## The entry -/

/-- The time saved on NAND, with the pair of counters that a power-up resumes from. -/
def timeSaved (s : State) : State := onCst (fun c => { c with savedT := (latchPair s).pwr.tb }) (latchPair s)

theorem timeSaved_times (s : State) : (timeSaved s).cst.savedT = (timeSaved s).pwr.tb ∧
    (timeSaved s).pwr.pair = some ((timeSaved s).pwr.tb, (timeSaved s).pwr.rtc) := ⟨rfl, rfl⟩

theorem timeSaved_work (s : State) : WorkKeeps s (timeSaved s) :=
  (onPwr_work (fun p => { p with pair := some (p.tb, p.rtc) }) s).trans (onCst_work (fun c => { c with savedT := (latchPair s).pwr.tb }) _)

/-- The state at the end of the entry's work: wells and stripes programmed, the time saved. -/
def dormantSaved (s : State) : State := timeSaved (endSelfTest 8 0 (quiet s))

theorem quiet_work (s : State) : WorkKeeps (onSys (fun y => { y with fetchStop := true }) s) (quiet s) :=
  (closeAll_work _).trans (finishPrograms_work _)

theorem dormantSaved_work (s : State) : WorkKeeps (onSys (fun y => { y with fetchStop := true }) s) (dormantSaved s) := by
  have ht : WorkKeeps (quiet s) (endSelfTest 8 0 (quiet s)) := .of_only ((endSelfTest_only 8 0 _).wide _ rfl)
  exact (quiet_work s).trans (ht.trans (timeSaved_work _))

/-- DORMANT entered, with its request answered. -/
def dormantIn (s : State) : State := onSys (fun y => { y with modeReq := none, wakeReq := false }) (enterMode .dormant 0x0D s)

theorem dormantIn_only (s : State) : OnlyChanges [.sys, .regs, .cst] s (dormantIn s) :=
  (enterMode_only ..).trans ((onSys_only ..).wide _ rfl)

theorem dormantIn_sys (s : State) : (dormantIn s).sys.mode = .dormant ∧ (dormantIn s).sys.modeReq = none ∧
    (dormantIn s).sys.fetchStop = s.sys.fetchStop := by
  rw [dormantIn, onSys_sys, enterMode_sys, moveMode_sys]
  exact ⟨rfl, rfl, rfl⟩

theorem dormantIn_savedT (s : State) : (dormantIn s).cst.savedT = s.cst.savedT := by
  rw [dormantIn, onSys_cst, enterMode_savedT]

/-- Islands 1 to 45 powered down, and the links with them. -/
def dormantDown (s : State) : State := portsOff (setIslands dormantIslands s)

theorem dormantDown_only (s : State) : OnlyChanges [.pwr, .flt, .hpc, .out] s (dormantDown s) :=
  ((setIslands_only ..).wide _ rfl).trans ((portsOff_only _).wide _ rfl)

theorem dormantDown_pwr (s : State) : (dormantDown s).pwr = (setIslands dormantIslands s).pwr := (portsOff_only _).same .pwr (by decide)

theorem dormantDown_times (s : State) : (dormantDown s).pwr.tb = s.pwr.tb ∧ (dormantDown s).pwr.rtc = s.pwr.rtc ∧
    (dormantDown s).pwr.pair = s.pwr.pair := by
  rw [dormantDown_pwr, setIslands_pwr]
  exact ⟨rfl, rfl, rfl⟩

theorem islAt_dormantDown {i : Nat} (h1 : 1 ≤ i) (h2 : i < 46) (s : State) :
    islAt (dormantDown s) i = .off ∨ islAt (dormantDown s) i = .reset := by
  have hp : islAt (dormantDown s) i = islAt (setIslands dormantIslands s) i := by simp only [islAt, dormantDown_pwr]
  rw [hp]
  exact islAt_setIslands (mem_dormantIslands h1 h2) (fun e he _ => dormantIslands_off e he) s

theorem exec_dormantEntry_of_asked {s : State} (hq : seqUp s 9 = true) (hm : s.sys.mode.serving = true) (hr : s.sys.modeReq = some .dormant)
    (hc : carrierWaits s = false) : exec .dormantEntry s = .next (dormantDown (dormantIn (dormantSaved s))) := by
  simp [exec, execDormantEntry, onSeq, hq, hm, hr, hc, dormantSaved, timeSaved, dormantDown, dormantIn]

theorem dormantEntry_only (s : State) :
    OnlyChanges (.hpc :: .out :: backgroundParts) s (dormantDown (dormantIn (dormantSaved s))) := by
  have h1 : OnlyChanges (.hpc :: .out :: backgroundParts) s (dormantSaved s) :=
    ((onSys_only ..).wide _ rfl).trans ((dormantSaved_work s).parts.wide _ rfl)
  exact h1.trans (((dormantIn_only _).wide _ rfl).trans ((dormantDown_only _).wide _ rfl))

/-- R39, R378: what the entry to DORMANT leaves. -/
theorem dormantEntry_ends {s : State} (hq : seqUp s 9 = true) (hm : s.sys.mode.serving = true) (hr : s.sys.modeReq = some .dormant)
    (hc : carrierWaits s = false) : Ends .dormantEntry s fun t =>
      t.sys.mode = .dormant ∧ t.sys.modeReq = none ∧ t.sys.fetchStop = true ∧ t.cst.savedT = t.pwr.tb ∧
      t.pwr.pair = some (t.pwr.tb, t.pwr.rtc) ∧ (∀ i, 1 ≤ i → i < 46 → islAt t i = .off ∨ islAt t i = .reset) ∧
      (∀ n p, tget t.hpc.ports n = some p → p.up = false) ∧ Keeps [.ovr, .prof, .profOn, .upd, .sec, .whs, .mpr, .pending] s t := by
  refine ⟨_, exec_dormantEntry_of_asked hq hm hr hc, ?_⟩
  have honly := dormantEntry_only s
  have hfetch : (dormantSaved s).sys.fetchStop = true := by rw [(dormantSaved_work s).sys, onSys_sys]
  obtain ⟨hsaved, hpair⟩ : (dormantSaved s).cst.savedT = (dormantSaved s).pwr.tb ∧ (dormantSaved s).pwr.pair =
      some ((dormantSaved s).pwr.tb, (dormantSaved s).pwr.rtc) := timeSaved_times _
  generalize dormantSaved s = s2 at honly hfetch hsaved hpair
  obtain ⟨hmode, hreq, hstop⟩ := dormantIn_sys s2
  have hcst := dormantIn_savedT s2
  have hpwr : (dormantIn s2).pwr = s2.pwr := (dormantIn_only s2).same .pwr (by decide)
  generalize dormantIn s2 = s3 at honly hmode hreq hstop hcst hpwr
  have hsys : (dormantDown s3).sys = s3.sys := (dormantDown_only s3).same .sys (by decide)
  have hcstD : (dormantDown s3).cst = s3.cst := (dormantDown_only s3).same .cst (by decide)
  obtain ⟨htb, hrtc, hpairD⟩ := dormantDown_times s3
  refine ⟨by rw [hsys, hmode], by rw [hsys, hreq], by rw [hsys, hstop, hfetch], ?_, ?_, fun i h1 h2 => islAt_dormantDown h1 h2 s3,
    portsOff_down _, .of_only honly rfl⟩
  · rw [hcstD, hcst, htb, hpwr, hsaved]
  · rw [hpairD, htb, hrtc, hpwr, hpair]

/-! ## Automatic dormancy -/

theorem exec_autoDormantTimer_of_allPerst {s : State} (hp : s.profOn = true) (ha : s.prof.autoDormant = true) (hm : sleepMode s = true)
    (hn : allPerst s = true) : exec .autoDormantTimer s =
      .next { s with sys := { s.sys with modeReq := some .dormant, fetchStop := true } } := by
  simp [exec, execAutoDormantTimer, hp, ha, hm, hn, onSys]

theorem exec_autoDormantTimer_of_not {s : State}
    (h : s.profOn = false ∨ s.prof.autoDormant = false ∨ sleepMode s = false ∨ allPerst s = false) :
    exec .autoDormantTimer s = .next s := by
  rcases h with h | h | h | h <;> simp [exec, execAutoDormantTimer, h]

/-- Settles O32: the entry's work touches neither SYS nor the parts that stay, and its islands and ports follow their tables. -/
theorem dormantCycle : Obligations.DormantCycle :=
  ⟨fun _ hq hm hr hc => dormantEntry_ends hq hm hr hc, fun _ hp ha hm hn => exec_autoDormantTimer_of_allPerst hp ha hm hn,
    fun _ h => exec_autoDormantTimer_of_not h⟩

end Sys2Proof

namespace Sys2Proof

open Machine

/-! BOOT (R43, Table 2-10): the step whose work ends; the fuse map (R349) and the image (R428). -/

/-! ## The step that ends -/

/-- The boot step whose work the environment reports, Table 2-10. -/
def bootStepNo : BootEnv → Nat
  | .fuses .. => 1
  | .images .. => 2
  | .cistern .. => 3
  | .profile .. => 4
  | .dram .. => 5
  | .nand .. => 6
  | .replay .. => 7
  | .resume => 8
  | .finish => 9

/-- What the work of the step leaves. -/
def bootStepWork (s : State) : BootEnv → State
  | .fuses r ok => bootFuses r ok s
  | .images a b => bootImages a b s
  | .cistern a b r => bootCistern a b r s
  | .profile a b => bootProfile a b s
  | .dram ok g r f => bootDram ok g r f s
  | .nand silent m ts bad cols => bootNand silent m ts bad cols s
  | .replay bad ok k lost => bootReplay bad ok k (loseSre lost s)
  | .resume => bootResume s
  | .finish => bootFinish s

theorem exec_bootStep_of_atStep {e : BootEnv} {s : State} (h : AtStep (bootStepNo e) s) :
    exec (.bootStepComplete e) s = .next (bootStepWork s e) := by
  obtain ⟨hm, hr, hh, hs, hq⟩ := h
  have hat : (s.sys.mode == .boot && s.sys.railsUp && !s.sys.hold && s.sys.step + 1 == bootStepNo e) = true := by simp [hm, hr, hh, hs]
  refine (if_pos hq).trans (congrArg Host.Outcome.next ?_)
  cases e <;> exact if_pos hat

theorem ends_bootStep {e : BootEnv} {s : State} {P : State → Prop} (h : AtStep (bootStepNo e) s) (hp : P (bootStepWork s e)) :
    Ends (.bootStepComplete e) s P := ⟨_, exec_bootStep_of_atStep h, hp⟩

/-! Each step by the name of its work. -/

section
variable {s : State} {P : State → Prop}

theorem ends_fuses {l : List (Nat × Nat × Nat)} {ok : Bool} (h : AtStep 1 s) (hp : P (bootFuses l ok s)) :
    Ends (.bootStepComplete (.fuses l ok)) s P := ends_bootStep (e := .fuses l ok) h hp

theorem ends_images {a b : Bool} (h : AtStep 2 s) (hp : P (bootImages a b s)) : Ends (.bootStepComplete (.images a b)) s P :=
  ends_bootStep (e := .images a b) h hp

theorem ends_cistern {a b r : Bool} (h : AtStep 3 s) (hp : P (bootCistern a b r s)) : Ends (.bootStepComplete (.cistern a b r)) s P :=
  ends_bootStep (e := .cistern a b r) h hp

theorem ends_profile {a b : Bool} (h : AtStep 4 s) (hp : P (bootProfile a b s)) : Ends (.bootStepComplete (.profile a b)) s P :=
  ends_bootStep (e := .profile a b) h hp

theorem ends_dram {ok : Bool} {g r : Nat} {f : List Nat} (h : AtStep 5 s) (hp : P (bootDram ok g r f s)) :
    Ends (.bootStepComplete (.dram ok g r f)) s P := ends_bootStep (e := .dram ok g r f) h hp

theorem ends_nand {silent : List Nat} {m : Bool} {ts : List ChTrain} {bad : List (Nat × Nat)} {cols : List (Nat × Nat × Nat)}
    (h : AtStep 6 s) (hp : P (bootNand silent m ts bad cols s)) : Ends (.bootStepComplete (.nand silent m ts bad cols)) s P :=
  ends_bootStep (e := .nand silent m ts bad cols) h hp

theorem ends_replay {bad : List Nat} {ok : Bool} {k : Nat} {lost : List Nat} (h : AtStep 7 s)
    (hp : P (bootReplay bad ok k (loseSre lost s))) : Ends (.bootStepComplete (.replay bad ok k lost)) s P :=
  ends_bootStep (e := .replay bad ok k lost) h hp

theorem ends_resume (h : AtStep 8 s) (hp : P (bootResume s)) : Ends (.bootStepComplete .resume) s P := ends_bootStep (e := .resume) h hp

theorem ends_finish (h : AtStep 9 s) (hp : P (bootFinish s)) : Ends (.bootStepComplete .finish) s P := ends_bootStep (e := .finish) h hp

end

theorem AtStep.mode {n : Nat} {s : State} (h : AtStep n s) : s.sys.mode = .boot := by
  obtain ⟨hm, _⟩ := h
  exact hm

theorem AtStep.notHeld {n : Nat} {s : State} (h : AtStep n s) : s.sys.hold = false := by
  obtain ⟨_, _, hh, _⟩ := h
  exact hh

theorem AtStep.before {n : Nat} {s : State} (h : AtStep (n + 1) s) : s.sys.step = n := by
  obtain ⟨_, _, _, hs, _⟩ := h
  omega

/-- Outside BOOT, or without power, no boot step ends. -/
theorem exec_bootStep_of_not_boot {s : State} (h : s.sys.mode ≠ .boot ∨ s.sys.railsUp = false) (e : BootEnv) :
    exec (.bootStepComplete e) s = .next s := by
  have hn (n : Nat) : ¬(s.sys.mode == .boot && s.sys.railsUp && !s.sys.hold && s.sys.step + 1 == n) = true := by
    rcases h with h | h <;> simp [h]
  have hd : ¬(s.sys.mode = .boot ∧ s.sys.railsUp ∧ s.sys.hold ∧ s.sys.holdWhy = 1 ∧ !s.drm.started) := by
    rcases h with h | h <;> simp [h]
  have hwork : execBootStepComplete e s = onSeq 0 s (.next s) := by
    refine congrArg (fun t => onSeq 0 s (.next t)) ?_
    cases e with
    | dram => exact (if_neg (hn 5)).trans (if_neg hd)
    | _ => exact if_neg (hn _)
  exact hwork.trans (ite_self _)

/-! ## Step 0x1 -/

theorem fuses_ok (l : List (Nat × Nat × Nat)) (s : State) : bootFuses l true s = { s with
    sys := { s.sys with step := 1 }
    mpr := { s.mpr with hard := l.map fun r => { kind := 0, cls := r.1, mac := r.2.1, row := r.2.2 } } } := rfl

theorem fuses_fail (l : List (Nat × Nat × Nat)) {s : State} (hm : s.sys.mode = .boot) :
    (bootFuses l false s).sys.step = 1 ∧ Latched 323 (bootFuses l false s) :=
  ⟨rfl, (raiseSrc_raised 323 _ (by decide) (by simp [hm])).1⟩

/-! ## Step 0x2 -/

/-- What decides which images boot stays, and SYS but for a chip reset or a wake asked for. -/
structure ImgsKept (s t : State) : Prop where
  img : ∀ k, (slotAt t k).img = (slotAt s k).img
  sec : t.sec = s.sec
  layout : t.cst.layout = s.cst.layout
  sys : t.sys = { s.sys with resetReq := t.sys.resetReq, wakeReq := t.sys.wakeReq }

theorem ImgsKept.refl (s : State) : ImgsKept s s := ⟨fun _ => rfl, rfl, rfl, rfl⟩

theorem ImgsKept.trans {s t u : State} (h : ImgsKept s t) (k : ImgsKept t u) : ImgsKept s u :=
  ⟨fun i => (k.img i).trans (h.img i), k.sec.trans h.sec, k.layout.trans h.layout, by rw [k.sys, h.sys]⟩

theorem FaultKeeps.imgs {s t : State} (h : FaultKeeps s t) : ImgsKept s t :=
  ⟨fun k => by rw [slotAt, slotAt, h.rest.same .upd (by decide)], h.rest.same .sec (by decide), by rw [h.cst], h.sys⟩

theorem evt_imgs (r : RegId) (b : Nat) (s : State) : ImgsKept s (evt r b s) := ⟨fun _ => rfl, rfl, rfl, rfl⟩

/-- The directory can change in any way that leaves the slots. -/
theorem putDir_imgs {f : Upd → Upd} (s : State) (h : (f s.upd).slots = s.upd.slots) : ImgsKept s (putDir f s) :=
  ⟨fun k => by simp only [slotAt, putDir, onUpd_upd, h], rfl, rfl, rfl⟩

theorem slotAt_setSlot (k j : Nat) (x : Slot) (s : State) : slotAt (setSlot k x s) j = if j = k then x else slotAt s j := by
  simp only [slotAt, setSlot, onUpd_upd, tgetD, tget_tset]
  split <;> rfl

theorem setSlot_imgs {k : Nat} {x : Slot} (s : State) (h : x.img = (slotAt s k).img) : ImgsKept s (setSlot k x s) := by
  refine ⟨fun j => ?_, rfl, rfl, rfl⟩
  rw [slotAt_setSlot]
  split
  · rename_i hj
    rw [hj, h]
  · rfl

theorem verifyFails_imgs (i : Option Image) (s : State) : ImgsKept s (verifyFails i s) := by
  unfold verifyFails
  extract_lets s1
  have h1 : ImgsKept s s1 := (evt_imgs .updEvt 1 s).trans (raiseSrc_keeps ..).imgs
  split
  · exact h1.trans ((evt_imgs .secEvt 0 s1).trans (raiseSrc_keeps ..).imgs)
  · exact h1

theorem imgFails_imgs (k : Nat) (s : State) : ImgsKept s (imgFails k s) := by
  unfold imgFails
  extract_lets x s1
  have h1 : ImgsKept s s1 := by
    unfold s1
    split
    · have hslot : ImgsKept s (setSlot k { x with st := 3 } s) := setSlot_imgs s rfl
      have hdir : ImgsKept (setSlot k { x with st := 3 } s) (putDir id (setSlot k { x with st := 3 } s)) := putDir_imgs _ rfl
      exact (hslot.trans hdir).trans (verifyFails_imgs ..)
    · exact .refl s
  clear_value s1
  split
  · exact h1.trans (putDir_imgs _ rfl)
  · exact h1

theorem chooseImage_imgs (s : State) : ImgsKept s (chooseImage s).2 := by
  unfold chooseImage
  extract_lets u
  have hslot : ImgsKept s (setSlot u.trial { slotAt s u.trial with st := 3 } s) := setSlot_imgs s rfl
  split
  · exact putDir_imgs (f := fun u => { u with tries := u.tries + 1 }) s rfl
  · split
    · exact hslot.trans (putDir_imgs (f := fun v => { v with trial := 0, tries := 0, actImg := u.prevImg, actPrf := u.prevPrf }) _ rfl)
    · split
      · exact putDir_imgs (f := fun u => { u with prevImg := u.actImg, actImg := u.nextImg, trial := u.nextImg, tries := 1, nextImg := 0,
                                                  prevPrf := u.actPrf }) s rfl
      · exact .refl s

theorem imgBoots_of_kept {s t : State} (h : ImgsKept s t) (ok : Nat → Bool) (k : Nat) : imgBoots ok t k = imgBoots ok s k := by
  have hok : imageOk t = imageOk s := funext fun i => by simp only [imageOk, h.sec, h.layout]
  simp only [imgBoots, h.img, hok]

/-- R428: a chosen slot whose image boots runs. -/
theorem bootImages_of_boots {a b : Bool} {s : State}
    (h : imgBoots (fun k => if k = 1 then a else b) s (chooseImage s).1 = true) :
    bootImages a b s = stepDone 2 (imgRuns (chooseImage s).1 (chooseImage s).2) :=
  if_pos ((imgBoots_of_kept (chooseImage_imgs s) _ _).trans h)

/-- R43: with no image that boots, boot is held. -/
theorem bootImages_held {a b : Bool} {s : State} (h : ∀ k, imgBoots (fun k => if k = 1 then a else b) s k = false) :
    (bootImages a b s).sys.hold = true ∧ (bootImages a b s).sys.holdWhy = 6 ∧ (bootImages a b s).sys.step = s.sys.step := by
  have h1 := chooseImage_imgs s
  have h2 := h1.trans (imgFails_imgs (chooseImage s).1 _)
  have h3 := h2.trans (imgFails_imgs (3 - (chooseImage s).1) _)
  have hb : bootImages a b s = holdBoot 6 (imgFails (3 - (chooseImage s).1) (imgFails (chooseImage s).1 (chooseImage s).2)) := by
    have hk := (imgBoots_of_kept h1 _ (chooseImage s).1).trans (h _)
    have hk' := (imgBoots_of_kept h2 _ (3 - (chooseImage s).1)).trans (h _)
    exact (if_neg (ne_true_of_eq_false hk)).trans (if_neg (ne_true_of_eq_false hk'))
  rw [hb]
  exact ⟨rfl, rfl, by rw [holdBoot, onSys_sys, h3.sys]⟩

theorem imgRuns_sys (k : Nat) (s : State) : (stepDone 2 (imgRuns k s)).sys = { s.sys with step := 2, imgSlot := k - 1 } := by
  unfold imgRuns
  extract_lets s1 s2 s3
  have h1 : s1.sys = s.sys := by
    unfold s1
    split <;> rfl
  have h3 : s3.sys = { s1.sys with imgSlot := k - 1 } := rfl
  rw [stepDone, onSys_sys, onUpd_sys, h3, h1]

theorem onUpd_only (f : Upd → Upd) (s : State) : OnlyChanges [.upd] s (onUpd f s) := by
  constructor; intro p hp; cases p <;> simp_all [Part.same]

theorem onSec_only (f : Sec → Sec) (s : State) : OnlyChanges [.sec] s (onSec f s) := by
  constructor; intro p hp; cases p <;> simp_all [Part.same]

theorem imgRuns_only (k : Nat) (s : State) : OnlyChanges [.sys, .upd, .sec, .free] s (stepDone 2 (imgRuns k s)) := by
  unfold imgRuns
  extract_lets s1 s2 s3
  have h1 : OnlyChanges [.sys, .upd, .sec, .free] s s1 := .cond (fun _ => .refl _ _) fun _ => (onUpd_only ..).wide _ rfl
  have h2 : OnlyChanges [.sys, .upd, .sec, .free] s1 s2 := ((onSec_only ..).wide _ rfl).trans ((drawn_only _).wide _ rfl)
  have h3 : OnlyChanges [.sys, .upd, .sec, .free] s2 s3 := (onSys_only ..).wide _ rfl
  exact h1.trans (h2.trans (h3.trans (((onUpd_only ..).wide _ rfl).trans ((onSys_only ..).wide _ rfl))))

/-- The directory as a slot that is active runs: only the state of a trial changes. -/
theorem imgRuns_upd {k : Nat} {s : State} (h : s.upd.actImg = k) : ∃ trialS switchT, (stepDone 2 (imgRuns k s)).upd =
    if s.upd.trial = k then { s.upd with st := 3, trialS, switchT } else { s.upd with st := b2n (s.upd.nextImg != 0) } := by
  unfold imgRuns
  rw [if_pos h]
  exact ⟨_, _, rfl⟩

/-- R428: with neither a trial nor a next image, the active slot boots. -/
theorem images_active {a b : Bool} {s : State} (ht : s.upd.trial = 0) (hn : s.upd.nextImg = 0)
    (h : imgBoots (fun k => if k = 1 then a else b) s s.upd.actImg = true) :
    (bootImages a b s).sys = { s.sys with step := 2, imgSlot := s.upd.actImg - 1 } ∧ (bootImages a b s).upd.actImg = s.upd.actImg ∧
      OnlyChanges [.sys, .upd, .sec, .free] s (bootImages a b s) := by
  have hc : chooseImage s = (s.upd.actImg, s) := by simp [chooseImage, ht, hn]
  have hb : bootImages a b s = stepDone 2 (imgRuns s.upd.actImg s) := by
    rw [bootImages_of_boots (by rw [hc]; exact h), hc]
  obtain ⟨x, y, hu⟩ := imgRuns_upd (s := s) rfl
  rw [hb]
  refine ⟨imgRuns_sys .., ?_, imgRuns_only ..⟩
  rw [hu]
  split <;> rfl

/-- R428: with no trial, the slot marked next boots, and its trial begins. -/
theorem images_next {a b : Bool} {s : State} (ht : s.upd.trial = 0) (hn : s.upd.nextImg ≠ 0)
    (h : imgBoots (fun k => if k = 1 then a else b) s s.upd.nextImg = true) :
    let t := bootImages a b s
    t.sys = { s.sys with step := 2, imgSlot := s.upd.nextImg - 1 } ∧ t.upd.actImg = s.upd.nextImg ∧ t.upd.trial = s.upd.nextImg ∧
      t.upd.tries = 1 ∧ t.upd.prevImg = s.upd.actImg ∧ t.upd.nextImg = 0 ∧ t.upd.st = 3 ∧ OnlyChanges [.sys, .upd, .sec, .free] s t := by
  intro t
  let s1 := putDir (fun u => { u with prevImg := u.actImg, actImg := u.nextImg, trial := u.nextImg, tries := 1, nextImg := 0,
                                      prevPrf := u.actPrf }) s
  have hc : chooseImage s = (s.upd.nextImg, s1) := by simp [chooseImage, ht, hn, s1]
  have hb : t = stepDone 2 (imgRuns s.upd.nextImg s1) := by
    unfold t
    rw [bootImages_of_boots (by rw [hc]; exact h), hc]
  have ha : s1.upd.actImg = s.upd.nextImg := rfl
  obtain ⟨x, y, hu⟩ := imgRuns_upd ha
  have htrial : s1.upd.trial = s.upd.nextImg := rfl
  rw [if_pos htrial] at hu
  rw [hb, hu]
  exact ⟨imgRuns_sys .., rfl, rfl, rfl, rfl, rfl, rfl, ((onUpd_only ..).wide _ rfl).trans (imgRuns_only ..)⟩

/-- R428, R429: a trial that has booted twice fails, and the slot before it boots again. -/
theorem images_fallback {a b : Bool} {s : State} (ht : s.upd.trial ≠ 0) (h2 : 2 ≤ s.upd.tries)
    (h : imgBoots (fun k => if k = 1 then a else b) s s.upd.prevImg = true) :
    let t := bootImages a b s
    t.sys = { s.sys with step := 2, imgSlot := s.upd.prevImg - 1 } ∧ t.upd.actImg = s.upd.prevImg ∧ t.upd.actPrf = s.upd.prevPrf ∧
      t.upd.trial = 0 ∧ (slotAt t s.upd.trial).st = 3 := by
  intro t
  let s0 := setSlot s.upd.trial { slotAt s s.upd.trial with st := 3 } s
  let s1 := putDir (fun u => { u with trial := 0, tries := 0, actImg := s.upd.prevImg, actPrf := s.upd.prevPrf }) s0
  have hlt : ¬(s.upd.trial ≠ 0 ∧ s.upd.tries < 2) := by omega
  have hc : chooseImage s = (s.upd.prevImg, s1) := (if_neg hlt).trans (if_pos ht)
  have hb : t = stepDone 2 (imgRuns s.upd.prevImg s1) := by
    unfold t
    rw [bootImages_of_boots (by rw [hc]; exact h), hc]
  have ha : s1.upd.actImg = s.upd.prevImg := rfl
  obtain ⟨x, y, hu⟩ := imgRuns_upd ha
  have hst : (slotAt s0 s.upd.trial).st = 3 := by rw [slotAt_setSlot, if_pos rfl]
  have hslots : t.upd.slots = s0.upd.slots ∧ t.upd.actImg = s.upd.prevImg ∧ t.upd.actPrf = s.upd.prevPrf ∧ t.upd.trial = 0 := by
    rw [hb, hu]
    split <;> exact ⟨rfl, rfl, rfl, rfl⟩
  obtain ⟨hslots, hact, hprf, htrial⟩ := hslots
  refine ⟨hb ▸ imgRuns_sys .., hact, hprf, htrial, ?_⟩
  rw [slotAt, hslots]
  exact hst

end Sys2Proof

namespace Sys2Proof

open Machine

/-! BOOT: the cistern (R292, R349, R41) and the profile (R430, R74). -/

theorem stepDone_only (n : Nat) (s : State) : OnlyChanges [.sys] s (stepDone n s) := onSys_only ..
theorem holdBoot_only (w : Nat) (s : State) : OnlyChanges [.sys] s (holdBoot w s) := onSys_only ..

/-! ## Step 0x3 -/

/-- A log of at least one entry keeps the one added last. -/
theorem getLast?_drop_append {α : Type} (l : List α) (e : α) {n : Nat} (hn : 0 < n) :
    ((l ++ [e]).drop ((l ++ [e]).length - n)).getLast? = some e := by
  have hlen : ¬(l ++ [e]).length ≤ (l ++ [e]).length - n := by
    have h : (l ++ [e]).length = l.length + 1 := by simp
    omega
  rw [List.getLast?_drop, if_neg hlen, List.getLast?_concat]

/-- The event log keeps `m` entries; the one added takes its sequence number. -/
def addEvent (m : Nat) (e : Event) (s : State) : State :=
  { s with cst := { s.cst with events := (s.cst.events ++ [e]).drop ((s.cst.events ++ [e]).length - m), evSeq := s.cst.evSeq + 1 } }

/-- R41: the BOOT entered is logged with the value `w` of the mode status, which is then the last one logged. -/
def bootLogged (m : Nat) (e : Event) (w : Word) (s : State) : State := onCst (fun c => { c with lastSts := w }) (addEvent m e s)

theorem bootLogged_only (m : Nat) (e : Event) (w : Word) (s : State) : OnlyChanges [.cst] s (bootLogged m e w s) := by
  constructor; intro p hp; cases p <;> simp_all [Part.same, bootLogged, addEvent]

theorem bootLogged_last {m : Nat} (hm : 0 < m) (e : Event) (w : Word) (s : State) :
    (bootLogged m e w s).cst.events.getLast? = some e ∧ (bootLogged m e w s).cst.evSeq = s.cst.evSeq + 1 :=
  ⟨getLast?_drop_append _ _ hm, rfl⟩

theorem bootLogged_kept (m : Nat) (e : Event) (w : Word) (s : State) :
    (bootLogged m e w s).cst.hold = s.cst.hold ∧ (bootLogged m e w s).cst.banks = s.cst.banks := ⟨rfl, rfl⟩

theorem logEvent_eq (c : Nat) (o n k : Word) (s : State) : ∃ e, logEvent c o n k s = addEvent 32768 e s ∧ e.code = c ∧ e.old = o :=
  ⟨{ seq := s.cst.evSeq, time := s.pwr.tb, est := s.pwr.tbSt != .sync, code := c, old := o, new := n, cause := k }, by
    simp only [logEvent, addEvent], rfl, rfl⟩

theorem logBoot_eq (s : State) : ∃ e w, logBoot s = bootLogged 32768 e w s ∧ e.code = 0x0101 ∧ e.old = s.cst.lastSts := by
  unfold logBoot
  extract_lets w
  obtain ⟨e, he, hcode, hold⟩ := logEvent_eq 0x0101 s.cst.lastSts w (pack [(0, 8, 2)]) s
  exact ⟨e, w, by rw [he, bootLogged], hcode, hold⟩

theorem logBoot_only (s : State) : OnlyChanges [.cst] s (logBoot s) := by
  obtain ⟨e, w, h, _⟩ := logBoot_eq s
  rw [h]
  exact bootLogged_only ..

/-- R41: the BOOT entered is the last event, with the value logged last as its OLD. -/
theorem logBoot_event (s : State) :
    (∃ e, (logBoot s).cst.events.getLast? = some e ∧ e.code = 0x0101 ∧ e.old = s.cst.lastSts) ∧
      (logBoot s).cst.evSeq = s.cst.evSeq + 1 := by
  obtain ⟨e, w, h, hcode, hold⟩ := logBoot_eq s
  obtain ⟨hlast, hseq⟩ := bootLogged_last (m := 32768) (by decide) e w s
  rw [h]
  exact ⟨⟨e, hlast, hcode, hold⟩, hseq⟩

theorem logBoot_kept (s : State) : (logBoot s).cst.hold = s.cst.hold ∧ (logBoot s).cst.banks = s.cst.banks := by
  obtain ⟨e, w, h, _⟩ := logBoot_eq s
  rw [h]
  exact bootLogged_kept ..

theorem loadHold_only (s : State) : OnlyChanges [.cst] s (loadHold s) := .cond (fun _ => .refl _ _) fun _ => onCst_only ..

theorem loadHold_kept (s : State) : (loadHold s).cst.events = s.cst.events ∧ (loadHold s).cst.evSeq = s.cst.evSeq ∧
    (loadHold s).cst.banks = s.cst.banks := by
  unfold loadHold
  extract_lets h
  split <;> exact ⟨rfl, rfl, rfl⟩

/-- Table 12-15: the result of a hold-up recorded. -/
theorem loadHold_huRes {s : State} (h : s.cst.hold.st ≠ 0) : (loadHold s).cst.huRes = if s.cst.hold.st = 1 then 2 else 1 := by
  unfold loadHold
  rw [if_neg h]
  rfl

theorem applyRepairs_of_none {s : State} (h : s.mpr.soft = []) : applyRepairs s = s := by
  unfold applyRepairs
  rw [h]
  rfl

theorem bankTest_inService {b : Nat} {s : State} (h : (bankAt s b).st = .inService) : bankTest b true s = s := if_pos h

/-- R41, R292: a cistern with both banks good and no repairs. -/
theorem bootCistern_good (root : Bool) {s : State} (h0 : (bankAt s 0).st = .inService) (h1 : (bankAt s 1).st = .inService)
    (hs : s.mpr.soft = []) : bootCistern true true root s =
      if s.sec.rooted && !root then holdBoot 7 (loadHold (logBoot s)) else stepDone 3 (loadHold (logBoot s)) := by
  have hl : OnlyChanges [.cst] s (loadHold (logBoot s)) := (logBoot_only s).trans (loadHold_only _)
  have hm : (loadHold (logBoot s)).mpr = s.mpr := hl.same .mpr (by decide)
  have hrec : (loadHold (logBoot s)).sec = s.sec := hl.same .sec (by decide)
  have hrep : applyRepairs (loadHold (logBoot s)) = loadHold (logBoot s) := applyRepairs_of_none ((congrArg Mpr.soft hm).trans hs)
  simp only [bootCistern, bankTest_inService h0, bankTest_inService h1, Bool.or_self, if_true, hrep, hrec]

/-- Table 2-10, step 3: what a good cistern leaves. -/
theorem cistern_good (root : Bool) {s : State} (h0 : (bankAt s 0).st = .inService) (h1 : (bankAt s 1).st = .inService)
    (hs : s.mpr.soft = []) : let t := bootCistern true true root s
    (s.sec.rooted = false ∨ root = true → t.sys = { s.sys with step := 3 }) ∧
      (s.sec.rooted = true → root = false → t.sys = { s.sys with hold := true, holdWhy := 7 }) ∧
      (∃ e, t.cst.events.getLast? = some e ∧ e.code = 0x0101 ∧ e.old = s.cst.lastSts) ∧ t.cst.evSeq = s.cst.evSeq + 1 ∧
      (s.cst.hold.st = 1 → t.cst.huRes = 2) ∧ (s.cst.hold.st = 2 → t.cst.huRes = 1) ∧ OnlyChanges [.sys, .cst] s t := by
  intro t
  have ht : t = _ := bootCistern_good root h0 h1 hs
  have hl : OnlyChanges [.cst] s (loadHold (logBoot s)) := (logBoot_only s).trans (loadHold_only _)
  have hsys : (loadHold (logBoot s)).sys = s.sys := hl.same .sys (by decide)
  obtain ⟨hevents, hevSeq, _⟩ := loadHold_kept (logBoot s)
  obtain ⟨hlast, hseq⟩ := logBoot_event s
  have hres := loadHold_huRes (s := logBoot s)
  rw [(logBoot_kept s).1] at hres
  rw [← hevents] at hlast
  rw [← hevSeq] at hseq
  generalize loadHold (logBoot s) = u at ht hl hsys hlast hseq hres
  have hcst : t.cst = u.cst := by
    rw [ht]
    split <;> rfl
  refine ⟨fun h => ?_, fun h k => ?_, by rw [hcst]; exact hlast, by rw [hcst, hseq], fun h => ?_, fun h => ?_, ?_⟩
  · have hc : ¬(s.sec.rooted && !root) = true := by rcases h with h | h <;> simp [h]
    rw [ht, if_neg hc, stepDone, onSys_sys, hsys]
  · rw [ht, if_pos (by simp [h, k]), holdBoot, onSys_sys, hsys]
  · rw [hcst, hres (by omega), if_pos h]
  · rw [hcst, hres (by omega), if_neg (by omega)]
  · rw [ht]
    exact (hl.wide _ rfl).trans (.cond (fun _ => (holdBoot_only ..).wide _ rfl) fun _ => (stepDone_only ..).wide _ rfl)

/-- The banks stay, and every latch that is set. -/
structure BanksKept (s t : State) : Prop where
  banks : t.cst.banks = s.cst.banks
  latched : ∀ j, Latched j s → Latched j t

theorem BanksKept.refl (s : State) : BanksKept s s := ⟨rfl, fun _ h => h⟩

theorem BanksKept.trans {s t u : State} (h : BanksKept s t) (k : BanksKept t u) : BanksKept s u :=
  ⟨k.banks.trans h.banks, fun j hj => k.latched j (h.latched j hj)⟩

theorem FaultKeeps.banks {s t : State} (h : FaultKeeps s t) : BanksKept s t := ⟨by rw [h.cst], h.latched⟩

theorem BanksKept.of_cst {s t : State} (hc : t.cst.banks = s.cst.banks) (hf : t.flt = s.flt) : BanksKept s t :=
  ⟨hc, fun _ h => h.of_flt hf⟩

theorem onSys_banks (f : Sys → Sys) (s : State) : BanksKept s (onSys f s) := .of_cst rfl rfl

theorem BanksKept.upto (n : Nat) (f : Nat → State → State) (s : State) (h : ∀ i s, BanksKept s (f i s)) : BanksKept s (forN n f s) := by
  unfold forN
  generalize List.range n = l
  induction l generalizing s with
  | nil => exact .refl s
  | cons i l ih => exact (h i s).trans (ih (f i s))

theorem repairFull_banks (s : State) : BanksKept s (repairFull s) :=
  BanksKept.trans (t := evt .mprEvt 4 s) (.of_cst rfl rfl) (raiseSrc_keeps ..).banks

theorem applyRepairs_banks (s : State) : BanksKept s (applyRepairs s) := by
  refine .upto _ _ _ fun i s => ?_
  split
  · exact .refl s
  · split
    · exact .refl s
    · split
      · exact repairFull_banks s
      · exact .of_cst rfl rfl

theorem bankAt_of_banks {s t : State} (h : t.cst.banks = s.cst.banks) (b : Nat) : bankAt t b = bankAt s b := by
  simp only [bankAt, h]

/-- Bank 0 taken from service, with bank 1 in service. -/
def bank0Out (s : State) : State :=
  logOpen 0x0601 (evt .cstEvt 0 (onCst (fun c => { c with banks := tupd c.banks 0 {} fun x => { x with st := .failed } }) s))

theorem bank0Out_banks (s : State) : (bankAt (bank0Out s) 0).st = .failed ∧ bankAt (bank0Out s) 1 = bankAt s 1 := by
  have hb : (bank0Out s).cst.banks = tupd s.cst.banks 0 {} fun x => { x with st := .failed } := (logOpen_keeps ..).banks.banks
  simp only [bankAt, hb, tupd]
  exact ⟨by rw [tgetD_tset_same], tgetD_tset_ne _ _ _ (by decide)⟩

/-- R291, R293: bank 0 leaves service, and bank 1 goes on alone. -/
theorem bankFail_zero {s : State} (hm : s.sys.mode = .boot) (h0 : (bankAt s 0).st = .inService) (h1 : (bankAt s 1).st = .inService) :
    (bankAt (bankFail 0 s) 0).st = .failed ∧ (bankAt (bankFail 0 s) 1).st = .inService ∧ Latched 270 (bankFail 0 s) := by
  obtain ⟨hf, hk⟩ := bank0Out_banks s
  have hmode : (bank0Out s).sys.mode ≠ .dormant := by
    have h : (bank0Out s).sys = s.sys :=
      ((logOpen_only 0x0601 _).same .sys (by decide)).trans rfl
    rw [h, hm]
    decide
  obtain ⟨hl, hkeep⟩ := raiseSrc_raised 270 _ (by decide) hmode
  have hbank := bankAt_of_banks hkeep.banks.banks
  have hsh : ¬shadowOnly (raiseSrc 270 (bank0Out s)) = true := by simp [shadowOnly, hbank, hk, h1]
  have he : bankFail 0 s = raiseSrc 270 (bank0Out s) := (if_neg (by simp [h0])).trans (if_neg hsh)
  rw [he, hbank, hbank, hk]
  exact ⟨hf, h1, hl⟩

/-- R292: step 3 with bank 0 failing its test. -/
theorem cistern_bank0 (root : Bool) {s : State} (hm : s.sys.mode = .boot) (h0 : (bankAt s 0).st = .inService)
    (h1 : (bankAt s 1).st = .inService) : let t := bootCistern false true root s
    (bankAt t 0).st = .failed ∧ (bankAt t 1).st = .inService ∧ Latched 270 t := by
  intro t
  obtain ⟨hf, hk, hl⟩ := bankFail_zero hm h0 h1
  have hlog : BanksKept (bankFail 0 s) (logBoot (bankFail 0 s)) :=
    .of_cst (logBoot_kept _).2 ((logBoot_only _).same .flt (by decide))
  obtain ⟨_, _, hbanks⟩ := loadHold_kept (logBoot (bankFail 0 s))
  have hload : BanksKept (logBoot (bankFail 0 s)) (loadHold (logBoot (bankFail 0 s))) :=
    .of_cst hbanks ((loadHold_only _).same .flt (by decide))
  have hrep := (hlog.trans hload).trans (applyRepairs_banks _)
  have ht : BanksKept (bankFail 0 s) t := by
    have htest : bankTest 1 true (bankTest 0 false s) = bankFail 0 s := bankTest_inService hk
    simp only [t, bootCistern, htest, Bool.false_or, if_true]
    split
    · exact hrep.trans (onSys_banks ..)
    · exact hrep.trans (onSys_banks ..)
  rw [bankAt_of_banks ht.banks, bankAt_of_banks ht.banks]
  exact ⟨hf, hk, ht.latched _ hl⟩

end Sys2Proof

namespace Sys2Proof

open Machine

/-! BOOT: the profile (R74, R77, R315, R430, R431). -/

theorem modPort_only (n : Nat) (f : Port → Port) (s : State) : OnlyChanges [.hpc] s (modPort n f s) := onHpc_only ..

theorem loadRegs_only (p : Profile) (s : State) : OnlyChanges [.regs] s (loadRegs p s) := by
  refine .each _ _ _ _ fun e s => ?_
  split
  · exact .cond (fun _ => .refl _ _) fun _ => setReg_only ..
  · exact .refl _ _

theorem loadReacts_only (p : Profile) (s : State) : OnlyChanges [.flt] s (loadReacts p s) := .each _ _ _ _ fun _ _ => onFlt_only ..

/-- Training starts on the ports that govern a link. -/
theorem startTraining_only (s : State) : OnlyChanges [.hpc] s
    (forN 4 (fun n s => if governs s n && !isPr s n && !(portAt s n).perst then modPort n (fun x => { x with st := 1 }) s else s) s) :=
  .upto _ _ _ _ fun _ _ => .cond (fun _ => modPort_only ..) fun _ => .refl _ _

theorem releasePorts_only (p : Profile) (s : State) : OnlyChanges [.hpc, .nvq, .out] s (releasePorts p s) := by
  unfold releasePorts
  extract_lets s1 s2
  have h1 : OnlyChanges [.hpc, .nvq, .out] s s1 := ((onNvq_only ..).wide _ rfl).trans ((onHpc_only ..).wide _ rfl)
  have h2 : OnlyChanges [.hpc, .nvq, .out] s1 s2 := (startTraining_only s1).wide _ rfl
  clear_value s1 s2
  split
  · exact h1.trans h2
  · rename_i n _
    have h3 : OnlyChanges [.hpc] s2 (modPort n (fun x => { x with perst := true }) (onHpc (fun h => { h with twin := 1 }) s2)) :=
      (onHpc_only ..).trans (modPort_only ..)
    exact h1.trans (h2.trans ((h3.wide _ rfl).trans ((emit_only ..).wide _ rfl)))

/-- The port configuration stays; the ports are released. -/
structure PortsSet (s t : State) : Prop where
  merge : t.hpc.merge = s.hpc.merge
  role : t.hpc.role = s.hpc.role
  applied : t.hpc.applied = s.hpc.applied
  released : t.hpc.released = s.hpc.released

theorem PortsSet.refl (s : State) : PortsSet s s := ⟨rfl, rfl, rfl, rfl⟩

theorem PortsSet.trans {s t u : State} (h : PortsSet s t) (k : PortsSet t u) : PortsSet s u :=
  ⟨k.merge.trans h.merge, k.role.trans h.role, k.applied.trans h.applied, k.released.trans h.released⟩

theorem modPort_ports (n : Nat) (f : Port → Port) (s : State) : PortsSet s (modPort n f s) := ⟨rfl, rfl, rfl, rfl⟩

theorem PortsSet.upto (n : Nat) (f : Nat → State → State) (s : State) (h : ∀ i s, PortsSet s (f i s)) : PortsSet s (forN n f s) := by
  unfold forN
  generalize List.range n = l
  induction l generalizing s with
  | nil => exact .refl s
  | cons i l ih => exact (h i s).trans (ih (f i s))

theorem startTraining_ports (s : State) : PortsSet s
    (forN 4 (fun n s => if governs s n && !isPr s n && !(portAt s n).perst then modPort n (fun x => { x with st := 1 }) s else s) s) := by
  refine .upto _ _ _ fun n s => ?_
  split
  · exact modPort_ports ..
  · exact .refl s

/-- R43, R77: the ports are released in the configuration applied. -/
theorem releasePorts_set (p : Profile) (s : State) : (releasePorts p s).hpc.merge = s.hpc.merge ∧ (releasePorts p s).hpc.role = s.hpc.role ∧
    (releasePorts p s).hpc.applied = s.hpc.applied ∧ (releasePorts p s).hpc.released = true := by
  unfold releasePorts
  extract_lets s1 s2
  have h1 : s1.hpc.merge = s.hpc.merge ∧ s1.hpc.role = s.hpc.role ∧ s1.hpc.applied = s.hpc.applied ∧ s1.hpc.released = true :=
    ⟨rfl, rfl, rfl, rfl⟩
  have h2 : PortsSet s1 s2 := startTraining_ports s1
  clear_value s1 s2
  obtain ⟨hm, hr, ha, hrel⟩ := h1
  split
  · exact ⟨h2.merge.trans hm, h2.role.trans hr, h2.applied.trans ha, h2.released.trans hrel⟩
  · exact ⟨h2.merge.trans hm, h2.role.trans hr, h2.applied.trans ha, h2.released.trans hrel⟩

theorem giveFlex_only (p : Profile) (s : State) : OnlyChanges [.nvq] s (giveFlex p s) := .each _ _ _ _ fun _ _ => modCtrl_only ..

theorem applyPorts_only (p : Profile) (s : State) : OnlyChanges [.hpc, .nvq, .out] s (applyPorts p s) := by
  unfold applyPorts
  refine .cond (fun _ => .trans ?_ ((giveFlex_only ..).wide _ rfl)) fun _ => .trans ((onHpc_only ..).wide _ rfl) (releasePorts_only ..)
  exact .cond (fun _ => (onHpc_only ..).wide _ rfl) fun _ => (onHpc_only ..).wide _ rfl

/-- R74: where the ports are not released yet, they are released in the profile's configuration. -/
theorem applyPorts_releases (p : Profile) {s : State} (h : s.hpc.released = false) : (applyPorts p s).hpc.merge = p.merge ∧
    (applyPorts p s).hpc.role = p.role ∧ (applyPorts p s).hpc.applied = true ∧ (applyPorts p s).hpc.released = true := by
  unfold applyPorts
  rw [if_neg (by simp [h])]
  exact releasePorts_set p _

/-- A profile's registers, reactions and ports, before its pools. -/
def profileLoaded (p : Profile) (s : State) : State :=
  forN 4 (fun n s => setReg .hpcPortCtl n ((reg s .hpcPortCtl n &&& 1) ||| pack [(1, 1, nfld p.psnEgr n 1)]) s)
    (applyPorts p (loadReacts p (loadRegs p { s with prof := p, profOn := true })))

theorem applyProfile_eq (p : Profile) (s : State) : ∃ trialS, applyProfile p s = onUpd (fun u => { u with trialS })
    (if (profileLoaded p s).wel.built then profileLoaded p s else buildPools (profileLoaded p s)) := ⟨_, rfl⟩

theorem profileOn_only (p : Profile) (s : State) : OnlyChanges [.prof, .profOn] s { s with prof := p, profOn := true } := by
  constructor; intro q hq; cases q <;> simp_all [Part.same]

/-- The parts that a profile sets, but for the profile itself. -/
def profileParts : List Part := [.regs, .flt, .hpc, .nvq, .out]

theorem profileLoaded_only (p : Profile) (s : State) : OnlyChanges profileParts { s with prof := p, profOn := true } (profileLoaded p s) := by
  have hload : OnlyChanges profileParts { s with prof := p, profOn := true } (loadReacts p (loadRegs p { s with prof := p, profOn := true })) :=
    ((loadRegs_only ..).wide _ rfl).trans ((loadReacts_only ..).wide _ rfl)
  have hports := (applyPorts_only p (loadReacts p (loadRegs p { s with prof := p, profOn := true }))).wide profileParts rfl
  exact (hload.trans hports).trans (.upto _ _ _ _ fun _ _ => (setReg_only ..).wide _ rfl)

theorem profileLoaded_hpc (p : Profile) (s : State) : (profileLoaded p s).hpc =
    (applyPorts p (loadReacts p (loadRegs p { s with prof := p, profOn := true }))).hpc :=
  (OnlyChanges.upto [.regs] _ _ _ fun _ _ => setReg_only ..).same .hpc (by decide)

/-- R74: a profile that is loaded where the ports are not released yet. -/
theorem profileLoaded_releases (p : Profile) {s : State} (h : s.hpc.released = false) : (profileLoaded p s).hpc.merge = p.merge ∧
    (profileLoaded p s).hpc.role = p.role ∧ (profileLoaded p s).hpc.applied = true ∧ (profileLoaded p s).hpc.released = true := by
  have hload : OnlyChanges [.regs, .flt] { s with prof := p, profOn := true } (loadReacts p (loadRegs p { s with prof := p, profOn := true })) :=
    ((loadRegs_only ..).wide _ rfl).trans ((loadReacts_only ..).wide _ rfl)
  have hh : (loadReacts p (loadRegs p { s with prof := p, profOn := true })).hpc = s.hpc := hload.same .hpc (by decide)
  rw [profileLoaded_hpc]
  exact applyPorts_releases p (by rw [hh, h])

/-- R315, R430: what an applied profile leaves, of the parts it sets. -/
theorem applyProfile_sets (p : Profile) (s : State) : let t := applyProfile p s
    t.prof = p ∧ t.profOn = true ∧ t.wel.built = true ∧ t.upd.actPrf = s.upd.actPrf ∧ t.hpc = (profileLoaded p s).hpc ∧
      OnlyChanges (.prof :: .profOn :: .wel :: .upd :: profileParts) s t := by
  intro t
  obtain ⟨trialS, ht⟩ := applyProfile_eq p s
  have honly := profileLoaded_only p s
  have hprof : (profileLoaded p s).prof = p := honly.same .prof (by decide)
  have hon : (profileLoaded p s).profOn = true := honly.same .profOn (by decide)
  have hupd : (profileLoaded p s).upd = s.upd := honly.same .upd (by decide)
  have hs : OnlyChanges (.prof :: .profOn :: .wel :: .upd :: profileParts) s (profileLoaded p s) :=
    ((profileOn_only p s).wide _ rfl).trans (honly.wide _ rfl)
  generalize profileLoaded p s = u at ht hprof hon hupd hs ⊢
  rw [show t = _ from ht]
  split
  · rename_i hb
    exact ⟨hprof, hon, hb, by rw [← hupd]; rfl, rfl, hs.trans ((onUpd_only ..).wide _ rfl)⟩
  · exact ⟨hprof, hon, rfl, by rw [← hupd]; rfl, rfl, hs.trans (((onWel_only ..).wide _ rfl).trans ((onUpd_only ..).wide _ rfl))⟩

/-- R430: the active profile, where no other is marked next, is applied. -/
theorem bootProfile_active {a b : Bool} {s : State} (hn : s.upd.nextPrf = 0)
    (hv : (if s.upd.actPrf = 1 then a else b) = true) (hp : prfBoots s s.upd.actPrf = true) :
    bootProfile a b s = stepDone 4 (applyProfile (((slotAt s (2 + s.upd.actPrf)).prof).getD {})
      (onSys (fun y => { y with profSlot := s.upd.actPrf - 1 }) s)) := by
  simp [bootProfile, hn, hv, hp, useProfile]

theorem prof_of_prfBoots {s : State} {k : Nat} (h : prfBoots s k = true) : ∃ p, (slotAt s (2 + k)).prof = some p := by
  unfold prfBoots at h
  cases hp : (slotAt s (2 + k)).prof with
  | none => simp [hp] at h
  | some p => exact ⟨p, rfl⟩

/-- Table 2-10, step 4: what the active profile leaves. -/
theorem profile_active {a b : Bool} {s : State} (hh : s.sys.hold = false) (hn : s.upd.nextPrf = 0)
    (hv : (if s.upd.actPrf = 1 then a else b) = true) (hp : prfBoots s s.upd.actPrf = true) : let t := bootProfile a b s
    t.sys.step = 4 ∧ t.sys.profSlot = s.upd.actPrf - 1 ∧ t.sys.hold = false ∧
      t.profOn = true ∧ (slotAt s (2 + s.upd.actPrf)).prof = some t.prof ∧ t.upd.actPrf = s.upd.actPrf ∧ t.wel.built = true ∧
      (s.hpc.released = false → t.hpc.released = true ∧ t.hpc.merge = t.prof.merge ∧ t.hpc.role = t.prof.role ∧ t.hpc.applied = true) ∧
      Keeps [.cam, .qos, .xlt, .fte, .fch, .sre, .dre, .cst, .pmp, .mpr, .pwr, .whs, .sec, .sbm, .drm, .ovr, .free, .pending] s t := by
  intro t
  obtain ⟨p, hslot⟩ := prof_of_prfBoots hp
  have ht : t = stepDone 4 (applyProfile p (onSys (fun y => { y with profSlot := s.upd.actPrf - 1 }) s)) := by
    unfold t
    rw [bootProfile_active hn hv hp, hslot, Option.getD_some]
  obtain ⟨hprof, hon, hbuilt, hact, hhpc, honly⟩ := applyProfile_sets p (onSys (fun y => { y with profSlot := s.upd.actPrf - 1 }) s)
  have hrel := profileLoaded_releases p (s := onSys (fun y => { y with profSlot := s.upd.actPrf - 1 }) s)
  generalize applyProfile p (onSys (fun y => { y with profSlot := s.upd.actPrf - 1 }) s) = u at ht hprof hon hbuilt hact hhpc honly
  have hsys : u.sys = { s.sys with profSlot := s.upd.actPrf - 1 } := honly.same .sys (by decide)
  have hall : OnlyChanges (.sys :: .prof :: .profOn :: .wel :: .upd :: profileParts) s t := by
    rw [ht]
    exact ((onSys_only ..).wide _ rfl).trans ((honly.wide _ rfl).trans ((stepDone_only ..).wide _ rfl))
  have htprof : t.prof = p := by rw [ht]; exact hprof
  refine ⟨by rw [ht]; rfl, ?_, ?_, by rw [ht]; exact hon, by rw [hslot, htprof], by rw [ht]; exact hact, by rw [ht]; exact hbuilt, fun h => ?_,
    .of_only hall rfl⟩
  · rw [ht, stepDone, onSys_sys, hsys]
  · rw [ht, stepDone, onSys_sys, hsys]
    exact hh
  · obtain ⟨hm, hr, ha, hrel⟩ := hrel h
    have hth : t.hpc = _ := (congrArg State.hpc ht).trans hhpc
    rw [hth, htprof]
    exact ⟨hrel, hm, hr, ha⟩

theorem prfFails_keeps (k : Nat) (s : State) : FaultKeeps s (prfFails k s) := .cond (fun _ => raiseSrc_keeps ..) fun _ => .refl s

/-- R43: with no profile that boots, boot is held, with the ports released in the configuration of no profile. -/
theorem bootProfile_held {a b : Bool} {s : State} (h1 : prfBoots s 1 = false) (h2 : prfBoots s 2 = false)
    (ha : s.upd.actPrf = 1 ∨ s.upd.actPrf = 2) (hn : s.upd.nextPrf ≤ 2) : ∃ u, FaultKeeps s u ∧
      bootProfile a b s = holdBoot 1 (releasePorts {} u) := by
  have hslot : ∀ k, k = 1 ∨ k = 2 → prfBoots s k = false := fun k hk => by
    rcases hk with rfl | rfl
    · exact h1
    · exact h2
  unfold bootProfile
  extract_lets ok k s1 s2
  have hk : k = 1 ∨ k = 2 := by
    unfold k
    split <;> omega
  have hk' : 3 - k = 1 ∨ 3 - k = 2 := by omega
  have hok (j : Nat) (hj : j = 1 ∨ j = 2) : ¬ok j = true := by simp [ok, hslot j hj]
  rw [if_neg (hok k hk), if_neg (hok (3 - k) hk')]
  exact ⟨s2, (prfFails_keeps k s).trans (prfFails_keeps (3 - k) s1), rfl⟩

/-- Table 2-10, step 4: what boot held without a profile leaves. -/
theorem profile_held {a b : Bool} {s : State} (h1 : prfBoots s 1 = false) (h2 : prfBoots s 2 = false)
    (ha : s.upd.actPrf = 1 ∨ s.upd.actPrf = 2) (hn : s.upd.nextPrf ≤ 2) : let t := bootProfile a b s
    t.sys.hold = true ∧ t.sys.holdWhy = 1 ∧ t.sys.step = s.sys.step ∧ t.hpc.released = true := by
  intro t
  obtain ⟨u, hu, ht⟩ := bootProfile_held (a := a) (b := b) h1 h2 ha hn
  have hsys : (releasePorts {} u).sys = u.sys := (releasePorts_only {} u).same .sys (by decide)
  obtain ⟨_, _, _, hrel⟩ := releasePorts_set {} u
  rw [show t = _ from ht]
  generalize releasePorts {} u = v at hsys hrel
  exact ⟨rfl, rfl, by rw [holdBoot, onSys_sys, hsys, hu.sys], hrel⟩

end Sys2Proof

namespace Sys2Proof

open Machine

/-! BOOT: DRAM (R47, R178, R351). -/

theorem setAt_eq_set {α : Type} (l : List α) (i : Nat) (v : α) : setAt l i v = l.set i v := by
  induction l generalizing i with
  | nil => rfl
  | cons x l ih =>
    cases i with
    | zero => rfl
    | succ i => rw [setAt, ih, List.set_cons_succ]

theorem forN_succ {σ : Type} (n : Nat) (f : Nat → σ → σ) (s : σ) : forN (n + 1) f s = f n (forN n f s) := by
  rw [forN, List.range_succ, List.foldl_append]
  rfl

/-! ## Post-package repairs -/

/-- What the repairs keep: SYS but for a chip reset or a wake asked for, the latches, and DRM_EVT.PPR_FAIL. -/
structure PprKeeps (s t : State) : Prop where
  sys : t.sys = { s.sys with resetReq := t.sys.resetReq, wakeReq := t.sys.wakeReq }
  latched : ∀ j, Latched j s → Latched j t
  event : EvtSet .drmEvt 4 s → EvtSet .drmEvt 4 t
  rest : OnlyChanges (.mpr :: faultParts) s t

theorem PprKeeps.refl (s : State) : PprKeeps s s := ⟨rfl, fun _ h => h, fun h => h, .refl _ _⟩

theorem PprKeeps.trans {s t u : State} (h : PprKeeps s t) (k : PprKeeps t u) : PprKeeps s u :=
  ⟨by rw [k.sys, h.sys], fun j hj => k.latched j (h.latched j hj), fun he => k.event (h.event he), h.rest.trans k.rest⟩

theorem FaultKeeps.ppr {s t : State} (h : FaultKeeps s t) : PprKeeps s t :=
  ⟨h.sys, h.latched, fun he => he.of_onlyRegs h.regs (by decide), h.rest.wide _ rfl⟩

theorem onMpr_ppr (f : Mpr → Mpr) (s : State) : PprKeeps s (onMpr f s) :=
  ⟨rfl, fun _ h => h.of_flt rfl, fun h => h.of_reg rfl, (onMpr_only ..).wide _ rfl⟩

theorem evtPpr_ppr (s : State) : PprKeeps s (evt .drmEvt 4 s) :=
  ⟨rfl, fun _ h => h.of_flt rfl, fun _ => evtSet_evt _ _ (by decide) s, (evt_only ..).wide _ rfl⟩

/-- A repair as BOOT leaves it: a DRAM row whose line is repaired takes effect. -/
def pprDone (failed : List Nat) (r : Repair) : Repair :=
  if r.cls ≠ 3 then r else if failed.contains r.line then r else { r with kind := 1 }

/-- One repair of the boot record. -/
def pprStep (failed : List Nat) (i : Nat) (s : State) : State := match s.mpr.soft[i]? with
  | none => s
  | some r =>
    if r.cls ≠ 3 then s
    else if failed.contains r.line then raiseSrc 325 (evt .drmEvt 4 s)
    else raiseSrc 364 (onMpr (fun m => { m with soft := setAt m.soft i { r with kind := 1 } }) s)

theorem applyPpr_eq (failed : List Nat) (s : State) : applyPpr failed s = forN s.mpr.soft.length (pprStep failed) s := by
  unfold applyPpr pprStep
  rfl

/-- R351: a repair that fails raises its event and source 325. -/
theorem pprStep_fails (s : State) : let t := raiseSrc 325 (evt .drmEvt 4 s)
    PprKeeps s t ∧ t.mpr = s.mpr ∧ (s.sys.mode ≠ .dormant → EvtSet .drmEvt 4 t ∧ Latched 325 t) := by
  intro t
  have hevt : EvtSet .drmEvt 4 (evt .drmEvt 4 s) := evtSet_evt _ _ (by decide) s
  have hmpr : (evt .drmEvt 4 s).mpr = s.mpr := evt_mpr ..
  have hsys : (evt .drmEvt 4 s).sys = s.sys := evt_sys ..
  have hppr := evtPpr_ppr s
  unfold t
  generalize evt .drmEvt 4 s = u at hevt hmpr hsys hppr
  have hraise := raiseSrc_keeps 325 u
  refine ⟨hppr.trans hraise.ppr, (hraise.rest.same .mpr (by decide)).trans hmpr, fun hm => ⟨hraise.ppr.event hevt, ?_⟩⟩
  exact (raiseSrc_raised 325 u (by decide) (hsys ▸ hm)).1

/-- R351: a repair that takes effect raises source 364. -/
theorem pprStep_takes (l : List Repair) (s : State) : let t := raiseSrc 364 (onMpr (fun m => { m with soft := l }) s)
    PprKeeps s t ∧ t.mpr.soft = l ∧ (s.sys.mode ≠ .dormant → Latched 364 t) := by
  intro t
  have hmpr : (onMpr (fun m => { m with soft := l }) s).mpr.soft = l := rfl
  have hsys : (onMpr (fun m => { m with soft := l }) s).sys = s.sys := onMpr_sys ..
  have hppr := onMpr_ppr (fun m => { m with soft := l }) s
  unfold t
  generalize onMpr (fun m => { m with soft := l }) s = u at hmpr hsys hppr
  have hraise := raiseSrc_keeps 364 u
  refine ⟨hppr.trans hraise.ppr, by rw [hraise.rest.same .mpr (by decide), hmpr], fun hm => ?_⟩
  exact (raiseSrc_raised 364 u (by decide) (hsys ▸ hm)).1

/-- R351: what one repair of the boot record does. -/
theorem pprStep_of_some {failed : List Nat} {i : Nat} {s : State} {r : Repair} (h : s.mpr.soft[i]? = some r) : PprKeeps s (pprStep failed i s) ∧
    (pprStep failed i s).mpr.soft = s.mpr.soft.set i (pprDone failed r) ∧
    (r.cls = 3 → s.sys.mode ≠ .dormant → (r.line ∈ failed → EvtSet .drmEvt 4 (pprStep failed i s) ∧ Latched 325 (pprStep failed i s)) ∧
      (r.line ∉ failed → Latched 364 (pprStep failed i s))) := by
  have hsame : s.mpr.soft.set i r = s.mpr.soft := by
    obtain ⟨hi, rfl⟩ := List.getElem?_eq_some_iff.1 h
    exact List.set_getElem_self hi
  have hstep : pprStep failed i s = if r.cls ≠ 3 then s
      else if failed.contains r.line then raiseSrc 325 (evt .drmEvt 4 s)
      else raiseSrc 364 (onMpr (fun m => { m with soft := setAt m.soft i { r with kind := 1 } }) s) := by
    unfold pprStep
    rw [h]
  by_cases hc : r.cls ≠ 3
  · rw [hstep, if_pos hc, pprDone, if_pos hc, hsame]
    exact ⟨.refl s, rfl, fun h => absurd h hc⟩
  · rw [if_neg hc] at hstep
    by_cases hf : failed.contains r.line = true
    · have hmem : r.line ∈ failed := by simpa using hf
      obtain ⟨hppr, hmpr, hrep⟩ := pprStep_fails s
      rw [hstep, if_pos hf, pprDone, if_neg hc, if_pos hf, hsame]
      exact ⟨hppr, congrArg Mpr.soft hmpr, fun _ hm => ⟨fun _ => hrep hm, fun hn => absurd hmem hn⟩⟩
    · have hmem : r.line ∉ failed := by simpa using hf
      obtain ⟨hppr, hsoft, hrep⟩ := pprStep_takes (s.mpr.soft.set i { r with kind := 1 }) s
      have hset : onMpr (fun m => { m with soft := setAt m.soft i { r with kind := 1 } }) s =
          onMpr (fun m => { m with soft := s.mpr.soft.set i { r with kind := 1 } }) s := by rw [onMpr, onMpr, setAt_eq_set]
      rw [hstep, if_neg hf, hset, pprDone, if_neg hc, if_neg hf]
      exact ⟨hppr, hsoft, fun _ hm => ⟨fun hn => absurd hn hmem, fun _ => hrep hm⟩⟩

theorem pprStep_of_none {failed : List Nat} {i : Nat} {s : State} (h : s.mpr.soft[i]? = none) : pprStep failed i s = s := by
  unfold pprStep
  rw [h]

theorem pprStep_ppr (failed : List Nat) (i : Nat) (s : State) : PprKeeps s (pprStep failed i s) := by
  cases h : s.mpr.soft[i]? with
  | none => rw [pprStep_of_none h]; exact .refl s
  | some r => exact (pprStep_of_some h).1

theorem pprSteps_ppr (failed : List Nat) (n : Nat) (s : State) : PprKeeps s (forN n (pprStep failed) s) := by
  induction n with
  | zero => exact .refl s
  | succ n ih => rw [forN_succ]; exact ih.trans (pprStep_ppr ..)

/-- The first `n` repairs are done, and the others as they were. -/
theorem pprSteps_soft (failed : List Nat) (n : Nat) (s : State) (j : Nat) : (forN n (pprStep failed) s).mpr.soft[j]? =
    if j < n then s.mpr.soft[j]?.map (pprDone failed) else s.mpr.soft[j]? := by
  induction n generalizing j with
  | zero => rfl
  | succ n ih =>
    have hn := ih n
    rw [if_neg (Nat.lt_irrefl n)] at hn
    rw [forN_succ]
    cases h : s.mpr.soft[n]? with
    | none =>
      rw [pprStep_of_none (hn.trans h), ih]
      by_cases hj : j = n
      · subst hj
        simp [h]
      · have hlt : j < n + 1 ↔ j < n := by omega
        simp only [hlt]
    | some r =>
      obtain ⟨_, hset, _⟩ := pprStep_of_some (hn.trans h)
      rw [hset, List.getElem?_set, ih]
      by_cases hj : n = j
      · subst hj
        have hlen : n < (forN n (pprStep failed) s).mpr.soft.length := (List.getElem?_eq_some_iff.1 (hn.trans h)).1
        simp [hlen, h]
      · have hlt : j < n + 1 ↔ j < n := by omega
        simp only [if_neg hj, hlt]

theorem applyPpr_soft (failed : List Nat) (s : State) : (applyPpr failed s).mpr.soft = s.mpr.soft.map (pprDone failed) := by
  rw [applyPpr_eq]
  refine List.ext_getElem? fun j => ?_
  rw [pprSteps_soft, List.getElem?_map]
  split
  · rfl
  · rename_i h
    rw [List.getElem?_eq_none (by omega), Option.map_none]

/-- What the repair of each DRAM row reports. -/
theorem pprSteps_report (failed : List Nat) (n : Nat) {s : State} (hm : s.sys.mode ≠ .dormant) {i : Nat} (hi : i < n) {r : Repair}
    (hr : s.mpr.soft[i]? = some r) (hc : r.cls = 3) :
    (r.line ∈ failed → EvtSet .drmEvt 4 (forN n (pprStep failed) s) ∧ Latched 325 (forN n (pprStep failed) s)) ∧
      (r.line ∉ failed → Latched 364 (forN n (pprStep failed) s)) := by
  induction n with
  | zero => omega
  | succ n ih =>
    rw [forN_succ]
    by_cases h : i = n
    · subst h
      have hs : (forN i (pprStep failed) s).mpr.soft[i]? = some r := by rw [pprSteps_soft, if_neg (Nat.lt_irrefl i), hr]
      obtain ⟨_, _, hrep⟩ := pprStep_of_some hs
      exact hrep hc (by rw [(pprSteps_ppr failed i s).sys]; exact hm)
    · obtain ⟨hf, hd⟩ := ih (by omega)
      have hk := pprStep_ppr failed n (forN n (pprStep failed) s)
      refine ⟨fun hl => ?_, fun hl => hk.latched _ (hd hl)⟩
      obtain ⟨hevt, hlat⟩ := hf hl
      exact ⟨hk.event hevt, hk.latched _ hlat⟩

theorem applyPpr_ppr (failed : List Nat) (s : State) : PprKeeps s (applyPpr failed s) := applyPpr_eq failed s ▸ pprSteps_ppr ..

/-- R351: what the repairs of the boot record leave. -/
theorem applyPpr_repairs (failed : List Nat) {s : State} (hm : s.sys.mode ≠ .dormant) :
    (∀ r ∈ (applyPpr failed s).mpr.soft, r.cls = 3 → r.line ∉ failed → r.kind = 1) ∧
      ∀ r ∈ s.mpr.soft, r.cls = 3 →
        (r.line ∈ failed → r ∈ (applyPpr failed s).mpr.soft ∧ EvtSet .drmEvt 4 (applyPpr failed s) ∧ Latched 325 (applyPpr failed s)) ∧
        (r.line ∉ failed → Latched 364 (applyPpr failed s)) := by
  rw [applyPpr_soft]
  refine ⟨fun r hr hc hl => ?_, fun r hr hc => ?_⟩
  · obtain ⟨x, _, rfl⟩ := List.mem_map.1 hr
    by_cases h3 : x.cls ≠ 3
    · rw [pprDone, if_pos h3] at hc
      exact absurd hc h3
    · by_cases hx : failed.contains x.line = true
      · rw [pprDone, if_neg h3, if_pos hx] at hl
        exact absurd (by simpa using hx) hl
      · rw [pprDone, if_neg h3, if_neg hx]
  · obtain ⟨i, hi, hri⟩ := List.mem_iff_getElem.1 hr
    have hsome : s.mpr.soft[i]? = some r := by rw [List.getElem?_eq_getElem hi, hri]
    obtain ⟨hf, hd⟩ := pprSteps_report failed s.mpr.soft.length hm hi hsome hc
    rw [← applyPpr_eq] at hf hd
    refine ⟨fun hl => ⟨List.mem_map.2 ⟨r, hr, ?_⟩, hf hl⟩, hd⟩
    exact (if_neg (not_not.2 hc)).trans (if_pos (by simpa using hl))

/-! ## Training -/

/-- DRAM that has begun to train, with its repairs applied. -/
def dramRepaired (f : List Nat) (s : State) : State := applyPpr f (onDrm (fun d => { d with started := true }) s)

theorem dramRepaired_drm (f : List Nat) (s : State) : (dramRepaired f s).drm = { s.drm with started := true } :=
  (applyPpr_ppr f _).rest.same .drm (by decide)

theorem dramRepaired_sys (f : List Nat) (s : State) :
    (dramRepaired f s).sys = { s.sys with resetReq := (dramRepaired f s).sys.resetReq, wakeReq := (dramRepaired f s).sys.wakeReq } :=
  (applyPpr_ppr f (onDrm (fun d => { d with started := true }) s)).sys

/-- Training that passes sets DRM and the trough in DRAM, over the repairs. -/
theorem trainDram_passes (gib rate : Nat) (f : List Nat) (s : State) : ∃ chs n, trainDram true gib rate f s = { dramRepaired f s with
    cam := { (dramRepaired f s).cam with dramTrough := true }
    drm := { (dramRepaired f s).drm with trained := true, size := gib, rate := min rate (min 8533 (rfld s .drmCfg 0 16)), chs }
    free := n } := ⟨_, _, rfl⟩

/-- R43: where the DRAM trained does not fit, boot is held. -/
theorem bootDram_of_not_fit {ok : Bool} {gib rate : Nat} {f : List Nat} {s : State} (hst : s.drm.started = false)
    (h : dramFits (trainDram ok gib rate f s) = false) : bootDram ok gib rate f s = holdBoot 4 (trainDram ok gib rate f s) := by
  simp [bootDram, hst, h]

theorem bootDram_of_fit {ok : Bool} {gib rate : Nat} {f : List Nat} {s : State} (hst : s.drm.started = false)
    (h : dramFits (trainDram ok gib rate f s) = true) : bootDram ok gib rate f s = stepDone 5 (trainDram ok gib rate f s) := by
  simp [bootDram, hst, h]

/-- Table 2-10, step 5: what DRAM that fits leaves. -/
theorem dram_fits {gib rate : Nat} {f : List Nat} {s : State} (hm : s.sys.mode = .boot) (hst : s.drm.started = false)
    (h : dramFits (trainDram true gib rate f s) = true) : let t := bootDram true gib rate f s
    t.sys.step = 5 ∧ t.drm.trained = true ∧ t.drm.size = gib ∧ t.drm.rate = min rate (min 8533 (rfld s .drmCfg 0 16)) ∧
      t.cam = { s.cam with dramTrough := true } ∧ (∀ r ∈ t.mpr.soft, r.cls = 3 → r.line ∉ f → r.kind = 1) ∧
      ∀ r ∈ s.mpr.soft, r.cls = 3 → (r.line ∈ f → r ∈ t.mpr.soft ∧ EvtSet .drmEvt 4 t ∧ Latched 325 t) ∧
        (r.line ∉ f → Latched 364 t) := by
  intro t
  have ht : t = stepDone 5 (trainDram true gib rate f s) := bootDram_of_fit hst h
  obtain ⟨chs, n, htrain⟩ := trainDram_passes gib rate f s
  obtain ⟨hkind, hrep⟩ := applyPpr_repairs f (s := onDrm (fun d => { d with started := true }) s) (by rw [onDrm_sys, hm]; decide)
  have hcam : (dramRepaired f s).cam = s.cam := (applyPpr_ppr f _).rest.same .cam (by decide)
  rw [htrain] at ht
  have hmpr : t.mpr = (dramRepaired f s).mpr := by rw [ht]; rfl
  have hregs : t.regs = (dramRepaired f s).regs := by rw [ht]; rfl
  have hflt : t.flt = (dramRepaired f s).flt := by rw [ht]; rfl
  refine ⟨by rw [ht]; rfl, by rw [ht]; rfl, by rw [ht]; rfl, by rw [ht]; rfl, ?_, by rw [hmpr]; exact hkind, fun r hr hc => ?_⟩
  · rw [← hcam, ht]
    rfl
  · obtain ⟨hfail, hdone⟩ := hrep r hr hc
    refine ⟨fun hl => ?_, fun hl => (hdone hl).of_flt hflt⟩
    obtain ⟨hmem, hevt, hlat⟩ := hfail hl
    exact ⟨by rw [hmpr]; exact hmem, hevt.of_reg (by rw [hregs]; rfl), hlat.of_flt hflt⟩

/-- R178: less than 8 GiB does not fit. -/
theorem dram_small {gib : Nat} (rate : Nat) (f : List Nat) {s : State} (hst : s.drm.started = false) (hg : gib < 8) :
    let t := bootDram true gib rate f s
    t.sys.hold = true ∧ t.sys.holdWhy = 4 ∧ t.sys.step = s.sys.step := by
  intro t
  obtain ⟨chs, n, htrain⟩ := trainDram_passes gib rate f s
  have hsize : (trainDram true gib rate f s).drm.size = gib := by rw [htrain]
  have hsys : (trainDram true gib rate f s).sys = (dramRepaired f s).sys := by rw [htrain]
  have ht : t = holdBoot 4 (trainDram true gib rate f s) := bootDram_of_not_fit hst (by simp [dramFits, hsize, hg])
  rw [ht, holdBoot, onSys_sys, hsys, dramRepaired_sys]
  exact ⟨rfl, rfl, rfl⟩

/-- Table 2-10, step 5: DRAM that does not train. -/
theorem dram_fails (gib rate : Nat) (f : List Nat) {s : State} (hm : s.sys.mode = .boot) (hst : s.drm.started = false)
    (htr : s.drm.trained = false) : let t := bootDram false gib rate f s
    t.sys.hold = true ∧ t.sys.holdWhy = 4 ∧ t.sys.step = s.sys.step ∧ Latched 362 t ∧ EvtSet .drmEvt 1 t := by
  intro t
  have htrain : trainDram false gib rate f s = raiseSrc 362 (evt .drmEvt 1 (dramRepaired f s)) := rfl
  have hmode : (evt .drmEvt 1 (dramRepaired f s)).sys.mode ≠ .dormant := by
    rw [evt_sys, dramRepaired_sys, hm]
    decide
  obtain ⟨hl, hk⟩ := raiseSrc_raised 362 _ (by decide) hmode
  have hdrm : (trainDram false gib rate f s).drm.trained = false := by
    rw [htrain, hk.rest.same .drm (by decide), evt_drm, dramRepaired_drm]
    exact htr
  have ht : t = holdBoot 4 (trainDram false gib rate f s) := bootDram_of_not_fit hst (by simp [dramFits, hdrm])
  rw [htrain] at ht
  have hsys := hk.sys
  rw [evt_sys, dramRepaired_sys] at hsys
  refine ⟨by rw [ht]; rfl, by rw [ht]; rfl, ?_, ?_, ?_⟩
  · rw [ht, holdBoot, onSys_sys, hsys]
  · exact hl.of_flt (by rw [ht]; rfl)
  · refine EvtSet.of_reg ((evtSet_evt .drmEvt 1 (by decide) (dramRepaired f s)).of_onlyRegs hk.regs (by decide)) ?_
    rw [ht]
    rfl

end Sys2Proof

namespace Sys2Proof

open Machine

/-! BOOT: the channels, dies and blocks (R208, R230, Tables 9-5 and 9-7). -/

/-- A loop that sets something for each element, and keeps what it has set for the others, has set it for all. -/
theorem forEach_sets {α : Type} (f : α → State → State) (inv : State → Prop) (P : α → State → Prop)
    (hinv : ∀ x s, inv s → inv (f x s)) (hset : ∀ x s, inv s → P x (f x s))
    (hkeep : ∀ x y s, inv s → P y s → P y (f x s)) (l : List α) {s : State} (hs : inv s) :
    ∀ y, y ∈ l ∨ P y s → P y (forEach l f s) := by
  unfold forEach
  induction l generalizing s with
  | nil => exact fun y hy => hy.resolve_left List.not_mem_nil
  | cons x l ih =>
    intro y hy
    refine ih (hinv x s hs) y ?_
    rcases hy with hy | hy
    · rcases List.mem_cons.1 hy with rfl | hy
      · exact .inr (hset y s hs)
      · exact .inl hy
    · exact .inr (hkeep x y s hs hy)

/-! ## Dies and channels -/

/-- Bringing up dies and channels leaves the blocks and the eye limits; its other work is on NAND. -/
structure BringKeeps (s t : State) : Prop where
  fte : t.fte = s.fte
  cfg : reg t .fchCfg2 = reg s .fchCfg2
  work : WorkKeeps s t

theorem BringKeeps.refl (s : State) : BringKeeps s s := ⟨rfl, rfl, .refl s⟩

theorem BringKeeps.trans {s t u : State} (h : BringKeeps s t) (k : BringKeeps t u) : BringKeeps s u :=
  ⟨k.fte.trans h.fte, k.cfg.trans h.cfg, h.work.trans k.work⟩

theorem BringKeeps.each {α : Type} (xs : List α) (f : α → State → State) (s : State) (h : ∀ x s, BringKeeps s (f x s)) :
    BringKeeps s (forEach xs f s) := by
  unfold forEach
  induction xs generalizing s with
  | nil => exact .refl s
  | cons x xs ih => exact (h x s).trans (ih (f x s))

theorem onFch_bring (f : Fch → Fch) (s : State) : BringKeeps s (onFch f s) := ⟨rfl, rfl, onFch_work f s⟩

theorem drawn_bring (s : State) : BringKeeps s (drawn s) := ⟨rfl, rfl, .of_only ((drawn_only s).wide _ rfl)⟩

/-- An event of FCH with its source leaves dies and channels. -/
theorem fchEvent_keeps (i b : Nat) (s : State) : BringKeeps s (raiseSrc i (evt .fchEvt b s)) ∧
    (raiseSrc i (evt .fchEvt b s)).fch = s.fch := by
  have hk := raiseSrc_keeps i (evt .fchEvt b s)
  have hregs : tget (raiseSrc i (evt .fchEvt b s)).regs (regA .fchCfg2) = tget s.regs (regA .fchCfg2) :=
    (hk.regs.same _ (by decide)).trans ((evt_onlyRegs .fchEvt b s).same _ (by decide))
  refine ⟨⟨?_, ?_, raiseEvt_work ..⟩, ?_⟩
  · rw [hk.rest.same .fte (by decide), evt_fte]
  · exact congrArg (fun o => Option.getD o (regDef .fchCfg2).reset) hregs
  · rw [hk.rest.same .fch (by decide), evt_fch]

/-- A die as its reset and ID read leave it: its place in the table is set, and every other die stays. -/
theorem bringDie_dies (silent : List Nat) (die : Nat) (s : State) : BringKeeps s (bringDie silent die s) ∧ ∃ d : Die,
    (bringDie silent die s).fch.dies = tset s.fch.dies die d ∧ d.present = !silent.contains die ∧
      (silent.contains die = true → d.failed = true) := by
  unfold bringDie
  extract_lets x gone d s1
  have h1 : BringKeeps s s1 := (onFch_bring ..).trans (drawn_bring _)
  have hd : s1.fch.dies = tset s.fch.dies die d := rfl
  have hf : silent.contains die = true → d.failed = true := fun h => by simp only [d, gone, h, Bool.or_true]
  obtain ⟨hk, hfch⟩ := fchEvent_keeps 239 1 s1
  split
  · exact ⟨h1.trans hk, d, by rw [hfch, hd], rfl, hf⟩
  · exact ⟨h1, d, hd, rfl, hf⟩

/-- A die that has been brought up. -/
def DieBrought (silent : List Nat) (d : Nat) (s : State) : Prop :=
  (dieAt s d).present = !silent.contains d ∧ (silent.contains d = true → (dieAt s d).failed = true)

theorem dieBrought_bringDie_same (silent : List Nat) (d : Nat) (s : State) : DieBrought silent d (bringDie silent d s) := by
  obtain ⟨_, x, hx, hp, hf⟩ := bringDie_dies silent d s
  have hd : dieAt (bringDie silent d s) d = x := by rw [dieAt, hx, tgetD_tset_same]
  rw [DieBrought, hd]
  exact ⟨hp, hf⟩

theorem dieBrought_bringDie {silent : List Nat} {d : Nat} (die : Nat) {s : State} (h : DieBrought silent d s) :
    DieBrought silent d (bringDie silent die s) := by
  by_cases hd : d = die
  · exact hd ▸ dieBrought_bringDie_same silent d s
  · obtain ⟨_, x, hx, _⟩ := bringDie_dies silent die s
    have hsame : dieAt (bringDie silent die s) d = dieAt s d := by rw [dieAt, hx, tgetD_tset_ne _ _ _ hd, dieAt]
    rw [DieBrought, hsame]
    exact h

/-- R208: every listed die is brought up. -/
theorem dieBrought_all (silent l : List Nat) (s : State) : ∀ d ∈ l, DieBrought silent d (forEach l (bringDie silent) s) := fun d hd =>
  forEach_sets (bringDie silent) (fun _ => True) (DieBrought silent) (fun _ _ _ => trivial) (fun x s _ => dieBrought_bringDie_same silent x s)
    (fun x _ _ _ h => dieBrought_bringDie x h) l trivial d (.inl hd)

/-- The acceptance test of R230 for a channel's training. -/
def trainPasses (s : State) (t : ChTrain) : Bool := s.prof.rates.contains t.rate && decide (eyeMin s + 2 * eyeGuard s ≤ t.eye)

/-- A channel whose training has ended. -/
def ChanTrained (ok : Bool) (rate : Nat) (c : Nat) (s : State) : Prop :=
  (chanAt s c).up = ok ∧ (chanAt s c).failed = !ok ∧ (ok = true → (chanAt s c).rate = rate)

theorem bringChan_chans (ch : Nat) (t : ChTrain) (s : State) : BringKeeps s (bringChan ch t s) ∧
    (bringChan ch t s).fch.dies = s.fch.dies ∧ ∃ c : Chan, (bringChan ch t s).fch.chans = tset s.fch.chans ch c ∧
      c.up = trainPasses s t ∧ c.failed = !trainPasses s t ∧ (trainPasses s t = true → c.rate = t.rate) := by
  unfold bringChan
  extract_lets ok c s1
  have h1 : BringKeeps s s1 := onFch_bring ..
  have hd : s1.fch.dies = s.fch.dies := rfl
  have hc : s1.fch.chans = tset s.fch.chans ch c := rfl
  have hr : trainPasses s t = true → c.rate = t.rate := fun h => if_pos h
  obtain ⟨hk, hfch⟩ := fchEvent_keeps (206 + ch) 3 s1
  split
  · exact ⟨h1.trans hk, by rw [hfch, hd], c, by rw [hfch, hc], rfl, rfl, hr⟩
  · exact ⟨h1, hd, c, hc, rfl, rfl, hr⟩

theorem BringKeeps.prof {s t : State} (h : BringKeeps s t) : t.prof = s.prof := h.work.parts.same .prof (by decide)

theorem trainPasses_congr {s t : State} (hp : t.prof = s.prof) (hc : reg t .fchCfg2 = reg s .fchCfg2) (x : ChTrain) :
    trainPasses t x = trainPasses s x := by
  have hmin : eyeMin t = eyeMin s := by rw [eyeMin, eyeMin, rfld, rfld, hc]
  have hguard : eyeGuard t = eyeGuard s := by rw [eyeGuard, eyeGuard, rfld, rfld, hc]
  rw [trainPasses, trainPasses, hp, hmin, hguard]

theorem trainPasses_of_kept {s t : State} (h : BringKeeps s t) (x : ChTrain) : trainPasses t x = trainPasses s x :=
  trainPasses_congr h.prof h.cfg x

theorem chanTrained_bringChan_same (c : Nat) (t : ChTrain) (s : State) :
    ChanTrained (trainPasses s t) t.rate c (bringChan c t s) := by
  obtain ⟨_, _, x, hx, hup, hfail, hrate⟩ := bringChan_chans c t s
  have hc : chanAt (bringChan c t s) c = x := by rw [chanAt, hx, tgetD_tset_same]
  rw [ChanTrained, hc]
  exact ⟨hup, hfail, hrate⟩

theorem chanTrained_bringChan_ne {ok : Bool} {rate c ch : Nat} (hne : c ≠ ch) (t : ChTrain) {s : State} (h : ChanTrained ok rate c s) :
    ChanTrained ok rate c (bringChan ch t s) := by
  obtain ⟨_, _, x, hx, _⟩ := bringChan_chans ch t s
  have hsame : chanAt (bringChan ch t s) c = chanAt s c := by rw [chanAt, hx, tgetD_tset_ne _ _ _ hne, chanAt]
  rw [ChanTrained, hsame]
  exact h

/-- Every channel of the list is trained. -/
def bringChans (ts : List ChTrain) (l : List Nat) (s : State) : State :=
  forEach l (fun c s => bringChan c (ts.getD c { rate := 0, eye := 0, temp := 0 }) s) s

theorem bringChans_bring (ts : List ChTrain) (l : List Nat) (s : State) : BringKeeps s (bringChans ts l s) :=
  .each _ _ _ fun c s => (bringChan_chans c _ s).1

theorem bringChans_dies (ts : List ChTrain) (l : List Nat) (s : State) : (bringChans ts l s).fch.dies = s.fch.dies := by
  unfold bringChans forEach
  induction l generalizing s with
  | nil => rfl
  | cons c l ih =>
    obtain ⟨_, hdies, _⟩ := bringChan_chans c (ts.getD c { rate := 0, eye := 0, temp := 0 }) s
    exact (ih _).trans hdies

/-- R230: each channel's training passes or fails by the limits in force when it began. -/
theorem chanTrained_all (ts : List ChTrain) (l : List Nat) (s : State) : ∀ c ∈ l,
    ChanTrained (trainPasses s (ts.getD c { rate := 0, eye := 0, temp := 0 })) (ts.getD c { rate := 0, eye := 0, temp := 0 }).rate c
      (bringChans ts l s) := fun c hc => by
  refine forEach_sets (fun c s => bringChan c (ts.getD c { rate := 0, eye := 0, temp := 0 }) s) (BringKeeps s)
    (fun c => ChanTrained (trainPasses s (ts.getD c { rate := 0, eye := 0, temp := 0 })) (ts.getD c { rate := 0, eye := 0, temp := 0 }).rate c)
    (fun c u hu => hu.trans (bringChan_chans c _ u).1) (fun c u hu => ?_) (fun c d u hu hd => ?_) l (.refl s) c (.inl hc)
  · rw [← trainPasses_of_kept hu]
    exact chanTrained_bringChan_same ..
  · by_cases h : d = c
    · subst h
      rw [← trainPasses_of_kept hu]
      exact chanTrained_bringChan_same ..
    · exact chanTrained_bringChan_ne h _ hd

/-! ## Blocks -/

/-- A block of the bad-block table, once its die is read. -/
def Marked (x : Nat × Nat) (s : State) : Prop := (blkAt s x.1 x.2).st = .retired ∧ (blkAt s x.1 x.2).bst = .bad

theorem blkAt_blkMod (d b : Nat) (f : Blk → Blk) (s : State) (x : Nat × Nat) : blkAt (blkMod d b f s) x.1 x.2 =
    if blkKey x.1 x.2 = blkKey d b then f (blkAt s d b) else blkAt s x.1 x.2 := by
  simp only [blkAt, blkMod, tgetD, tget_tset]
  split <;> rfl

theorem onFte_only (f : Fte → Fte) (s : State) : OnlyChanges [.fte] s (onFte f s) := by
  constructor; intro p hp; cases p <;> simp_all [Part.same]

theorem onSre_only (f : Sre → Sre) (s : State) : OnlyChanges [.sre] s (onSre f s) := by
  constructor; intro p hp; cases p <;> simp_all [Part.same]

theorem markBadBlk_only (y : Nat × Nat) (s : State) : OnlyChanges [.fte] s (markBadBlk y s) :=
  .cond (fun _ => onFte_only (fun f => { f with blks := tset f.blks (blkKey y.1 y.2) { blkAt s y.1 y.2 with st := .retired, bst := .bad } }) s)
    fun _ => .refl _ _

theorem markBadBlk_work (y : Nat × Nat) (s : State) : WorkKeeps s (markBadBlk y s) := .cond (fun _ => blkMod_work ..) fun _ => .refl s

/-- Marking changes the block named alone. -/
theorem markBadBlk_at (x y : Nat × Nat) (s : State) :
    blkAt (markBadBlk y s) x.1 x.2 = blkAt s x.1 x.2 ∨ Marked x (markBadBlk y s) := by
  unfold markBadBlk
  split
  · by_cases hk : blkKey x.1 x.2 = blkKey y.1 y.2
    · right
      rw [Marked, blkAt_blkMod, if_pos hk]
      exact ⟨rfl, rfl⟩
    · left
      rw [blkAt_blkMod, if_neg hk]
  · exact .inl rfl

/-- A block that is free, or marked already. -/
def FreeOrMarked (x : Nat × Nat) (s : State) : Prop := (blkAt s x.1 x.2).st = .free ∨ Marked x s

theorem marked_markBadBlk {x : Nat × Nat} (y : Nat × Nat) {s : State} (h : Marked x s) : Marked x (markBadBlk y s) := by
  rcases markBadBlk_at x y s with he | hm
  · rw [Marked, he]
    exact h
  · exact hm

theorem freeOrMarked_markBadBlk {x : Nat × Nat} (y : Nat × Nat) {s : State} (h : FreeOrMarked x s) : FreeOrMarked x (markBadBlk y s) := by
  rcases h with h | h
  · rcases markBadBlk_at x y s with he | hm
    · exact .inl (by rw [he]; exact h)
    · exact .inr hm
  · exact .inr (marked_markBadBlk y h)

theorem marked_markBadBlk_same {x : Nat × Nat} {s : State} (h : FreeOrMarked x s) (hb : x.2 < s.prof.blocksPerDie) :
    Marked x (markBadBlk x s) := by
  rcases h with h | h
  · unfold markBadBlk
    rw [if_pos ⟨hb, h⟩, Marked, blkAt_blkMod, if_pos rfl]
    exact ⟨rfl, rfl⟩
  · exact marked_markBadBlk x h

/-- Table 9-5: every block listed that was free is marked. -/
theorem marked_all {l : List (Nat × Nat)} {x : Nat × Nat} (hx : x ∈ l) {s : State} (hf : FreeOrMarked x s) (hb : x.2 < s.prof.blocksPerDie) :
    Marked x (forEach l markBadBlk s) := by
  refine forEach_sets markBadBlk (fun u => FreeOrMarked x u ∧ x.2 < u.prof.blocksPerDie) (fun y u => y = x → Marked x u)
    (fun y u hu => ⟨freeOrMarked_markBadBlk y hu.1, ?_⟩) (fun y u hu hy => ?_) (fun y z u hu hz he => marked_markBadBlk y (hz he)) l
    ⟨hf, hb⟩ x (.inl hx) rfl
  · rw [(markBadBlk_work y u).parts.same .prof (by decide)]
    exact hu.2
  · rw [hy]
    exact marked_markBadBlk_same hu.1 hu.2

theorem seedCol_only (x : Nat × Nat × Nat) (s : State) : OnlyChanges [.sre] s (seedCol x s) := .cond (fun _ => .refl _ _) fun _ => onSre_only ..

/-- Laying out a domain leaves the blocks and the dies. -/
theorem layDomain_keeps (d : Nat) (s : State) : WorkKeeps s (layDomain d s) ∧ (layDomain d s).fte.blks = s.fte.blks ∧
    (layDomain d s).fch = s.fch := by
  unfold layDomain
  split
  · exact ⟨.refl s, rfl, rfl⟩
  · extract_lets s1
    exact ⟨(modDom_work ..).trans (onFte_work _ s1), rfl, rfl⟩

theorem layDomains_keeps (n : Nat) (s : State) : WorkKeeps s (forN n layDomain s) ∧ (forN n layDomain s).fte.blks = s.fte.blks ∧
    (forN n layDomain s).fch = s.fch := by
  induction n with
  | zero => exact ⟨.refl s, rfl, rfl⟩
  | succ n ih =>
    rw [forN_succ]
    obtain ⟨hw0, hb0, hf0⟩ := ih
    obtain ⟨hw, hb, hf⟩ := layDomain_keeps n (forN n layDomain s)
    exact ⟨hw0.trans hw, hb.trans hb0, hf.trans hf0⟩

/-! ## Step 0x6 -/

/-- The dies answered, their bad blocks marked and their bad columns listed. -/
def diesRead (silent : List Nat) (bad : List (Nat × Nat)) (cols : List (Nat × Nat × Nat)) (s : State) : State :=
  let read (die : Nat) : Bool := s.prof.dies.contains die && !silent.contains die
  forEach (cols.filter fun x => read x.1) seedCol
    (forEach (bad.filter fun x => read x.1) markBadBlk (forEach s.prof.dies (bringDie silent) s))

/-- The channels that the profile lists. -/
def profChans (s : State) : List Nat := (s.prof.dies.map chanOf).eraseDups

theorem bootNand_eq (silent : List Nat) (mismatch : Bool) (ts : List ChTrain) (bad : List (Nat × Nat)) (cols : List (Nat × Nat × Nat))
    (s : State) : bootNand silent mismatch ts bad cols s =
      if mismatch then holdBoot 2 (diesRead silent bad cols s)
      else if (profChans s).any fun c => (chanAt (bringChans ts (profChans s) (diesRead silent bad cols s)) c).failed then
        holdBoot 3 (raiseSrc 244 (bringChans ts (profChans s) (diesRead silent bad cols s)))
      else stepDone 6 (forN 4 layDomain (bringChans ts (profChans s) (diesRead silent bad cols s))) := rfl

/-- What reading the dies leaves. -/
theorem diesRead_keeps (silent : List Nat) (bad : List (Nat × Nat)) (cols : List (Nat × Nat × Nat)) (s : State) :
    WorkKeeps s (diesRead silent bad cols s) ∧ reg (diesRead silent bad cols s) .fchCfg2 = reg s .fchCfg2 ∧
      (∀ d ∈ s.prof.dies, DieBrought silent d (diesRead silent bad cols s)) ∧
      ∀ x ∈ bad, x.1 ∈ s.prof.dies → x.1 ∉ silent → x.2 < s.prof.blocksPerDie → (blkAt s x.1 x.2).st = .free →
        Marked x (diesRead silent bad cols s) := by
  have hbring : BringKeeps s (forEach s.prof.dies (bringDie silent) s) := .each _ _ _ fun d s => (bringDie_dies silent d s).1
  have hdies := dieBrought_all silent s.prof.dies s
  unfold diesRead
  extract_lets read
  generalize forEach s.prof.dies (bringDie silent) s = u at hbring hdies
  have hmark : WorkKeeps u (forEach (bad.filter fun x => read x.1) markBadBlk u) := .each _ _ _ markBadBlk_work
  have hmarkOnly : OnlyChanges [.fte] u (forEach (bad.filter fun x => read x.1) markBadBlk u)  := .each _ _ _ _ markBadBlk_only
  have hmarked (x : Nat × Nat) (hx : x ∈ bad.filter fun x => read x.1) (hf : (blkAt u x.1 x.2).st = .free)
      (hb : x.2 < u.prof.blocksPerDie) := marked_all hx (.inl hf) hb
  generalize forEach (bad.filter fun x => read x.1) markBadBlk u = v at hmark hmarkOnly hmarked
  have hcol : OnlyChanges [.sre] v (forEach (cols.filter fun x => read x.1) seedCol v) := .each _ _ _ _ seedCol_only
  generalize forEach (cols.filter fun x => read x.1) seedCol v = w at hcol
  have hwfch : w.fch = u.fch := (hcol.same .fch (by decide)).trans (hmarkOnly.same .fch (by decide))
  have hwfte : w.fte = v.fte := hcol.same .fte (by decide)
  have hwprof : w.prof = v.prof := hcol.same .prof (by decide)
  have hwregs : w.regs = u.regs := (hcol.same .regs (by decide)).trans (hmarkOnly.same .regs (by decide))
  have hblkU (x : Nat × Nat) : blkAt u x.1 x.2 = blkAt s x.1 x.2 := by rw [blkAt, blkAt, hbring.fte, hbring.prof]
  have hblkW (x : Nat × Nat) : blkAt w x.1 x.2 = blkAt v x.1 x.2 := by rw [blkAt, blkAt, hwfte, hwprof]
  refine ⟨(hbring.work.trans hmark).trans (.of_only (hcol.wide _ rfl)), ?_, fun d hd => ?_, fun x hx hd hs hb hf => ?_⟩
  · rw [← hbring.cfg, reg, reg, hwregs]
  · have h : dieAt w d = dieAt u d := by rw [dieAt, dieAt, hwfch]
    rw [DieBrought, h]
    exact hdies d hd
  · rw [Marked, hblkW]
    refine hmarked x (List.mem_filter.2 ⟨hx, ?_⟩) (by rw [hblkU]; exact hf) (by rw [hbring.prof]; exact hb)
    simp [read, hd, hs]

theorem trainPasses_diesRead (silent : List Nat) (bad : List (Nat × Nat)) (cols : List (Nat × Nat × Nat)) (s : State) (x : ChTrain) :
    trainPasses (diesRead silent bad cols s) x = trainPasses s x := by
  obtain ⟨hw, hcfg, _⟩ := diesRead_keeps silent bad cols s
  exact trainPasses_congr (hw.parts.same .prof (by decide)) hcfg x

theorem mem_profChans {s : State} {d : Nat} (h : d ∈ s.prof.dies) : chanOf d ∈ profChans s :=
  List.mem_eraseDups.2 (List.mem_map.2 ⟨d, h, rfl⟩)

theorem exists_die_of_mem_profChans {s : State} {c : Nat} (h : c ∈ profChans s) : ∃ d ∈ s.prof.dies, chanOf d = c :=
  List.mem_map.1 (List.mem_eraseDups.1 h)

/-- R43: a die that mismatches the profile holds boot. -/
theorem nand_mismatch (silent : List Nat) (ts : List ChTrain) (bad : List (Nat × Nat)) (cols : List (Nat × Nat × Nat)) (s : State) :
    let t := bootNand silent true ts bad cols s
    t.sys.hold = true ∧ t.sys.holdWhy = 2 ∧ t.sys.step = s.sys.step := by
  intro t
  have ht : t = holdBoot 2 (diesRead silent bad cols s) := bootNand_eq ..
  rw [ht, holdBoot, onSys_sys, (diesRead_keeps silent bad cols s).1.sys]
  exact ⟨rfl, rfl, rfl⟩

/-- Table 2-10, step 6: what channels that all train leave. -/
theorem nand_trains {silent : List Nat} {ts : List ChTrain} {bad : List (Nat × Nat)} {cols : List (Nat × Nat × Nat)} {s : State}
    (hh : s.sys.hold = false)
    (hp : ∀ d ∈ s.prof.dies, trainPasses s (ts.getD (chanOf d) { rate := 0, eye := 0, temp := 0 }) = true) :
    let t := bootNand silent false ts bad cols s
    t.sys.step = 6 ∧ t.sys.hold = false ∧ (∀ d ∈ s.prof.dies, DieBrought silent d t) ∧
      (∀ d ∈ s.prof.dies, (chanAt t (chanOf d)).up = true ∧
        (chanAt t (chanOf d)).rate = (ts.getD (chanOf d) { rate := 0, eye := 0, temp := 0 }).rate) ∧
      ∀ x ∈ bad, x.1 ∈ s.prof.dies → x.1 ∉ silent → x.2 < s.prof.blocksPerDie → (blkAt s x.1 x.2).st = .free → Marked x t := by
  intro t
  obtain ⟨hw, _, hdies, hblks⟩ := diesRead_keeps silent bad cols s
  have hpass := trainPasses_diesRead silent bad cols s
  have heq := bootNand_eq silent false ts bad cols s
  generalize diesRead silent bad cols s = u at hw hdies hblks hpass heq
  have hbring := bringChans_bring ts (profChans s) u
  have hfdies := bringChans_dies ts (profChans s) u
  have hchan := chanTrained_all ts (profChans s) u
  generalize bringChans ts (profChans s) u = v at hbring hfdies hchan heq
  have hnone : ¬((profChans s).any fun c => (chanAt v c).failed) = true := by
    simp only [List.any_eq_true, not_exists, not_and, Bool.not_eq_true]
    intro c hc
    obtain ⟨d, hd, rfl⟩ := exists_die_of_mem_profChans hc
    obtain ⟨_, hfailed, _⟩ := hchan _ hc
    rw [hfailed, hpass, hp d hd, Bool.not_true]
  have ht : t = stepDone 6 (forN 4 layDomain v) := heq.trans (if_neg hnone)
  obtain ⟨hlay, hlblks, hlfch⟩ := layDomains_keeps 4 v
  generalize forN 4 layDomain v = w at hlay hlblks hlfch ht
  have hsys := (hw.trans (hbring.work.trans hlay)).sys
  have htfch : t.fch = v.fch := by rw [ht]; exact hlfch
  refine ⟨by rw [ht]; rfl, ?_, fun d hd => ?_, fun d hd => ?_, fun x hx h1 h2 h3 h4 => ?_⟩
  · rw [ht, stepDone, onSys_sys, hsys]
    exact hh
  · have h : dieAt t d = dieAt u d := by rw [dieAt, dieAt, htfch, hfdies]
    rw [DieBrought, h]
    exact hdies d hd
  · obtain ⟨hup, _, hrate⟩ := hchan _ (mem_profChans hd)
    rw [hpass, hp d hd] at hup hrate
    have h : chanAt t (chanOf d) = chanAt v (chanOf d) := by rw [chanAt, chanAt, htfch]
    rw [h]
    exact ⟨hup, hrate rfl⟩
  · have hblk : t.fte.blks = u.fte.blks := by
      rw [ht, ← hbring.fte]
      exact hlblks
    have hprof : t.prof = u.prof := by
      rw [ht]
      exact (hlay.parts.same .prof (by decide)).trans hbring.prof
    rw [Marked, blkAt, hblk, hprof]
    exact hblks x hx h1 h2 h3 h4

/-- R43, R230: a channel that does not train holds boot. -/
theorem nand_untrained {silent : List Nat} {ts : List ChTrain} {bad : List (Nat × Nat)} {cols : List (Nat × Nat × Nat)} {s : State}
    (hm : s.sys.mode = .boot)
    (hp : ∃ d ∈ s.prof.dies, trainPasses s (ts.getD (chanOf d) { rate := 0, eye := 0, temp := 0 }) = false) :
    let t := bootNand silent false ts bad cols s
    t.sys.hold = true ∧ t.sys.holdWhy = 3 ∧ t.sys.step = s.sys.step ∧ Latched 244 t := by
  intro t
  obtain ⟨hw, _⟩ := diesRead_keeps silent bad cols s
  have hpass := trainPasses_diesRead silent bad cols s
  have heq := bootNand_eq silent false ts bad cols s
  generalize diesRead silent bad cols s = u at hw hpass heq
  have hbring := bringChans_bring ts (profChans s) u
  have hchan := chanTrained_all ts (profChans s) u
  generalize bringChans ts (profChans s) u = v at hbring hchan heq
  obtain ⟨d, hd, hfail⟩ := hp
  have hany : ((profChans s).any fun c => (chanAt v c).failed) = true := by
    refine List.any_eq_true.2 ⟨chanOf d, mem_profChans hd, ?_⟩
    obtain ⟨_, hfailed, _⟩ := hchan _ (mem_profChans hd)
    rw [hfailed, hpass, hfail, Bool.not_false]
  have ht : t = holdBoot 3 (raiseSrc 244 v) := heq.trans (if_pos hany)
  have hsys := (hw.trans hbring.work).sys
  obtain ⟨hl, hk⟩ := raiseSrc_raised 244 v (by decide) (by rw [hsys, hm]; decide)
  refine ⟨by rw [ht]; rfl, by rw [ht]; rfl, ?_, hl.of_flt (by rw [ht]; rfl)⟩
  rw [ht, holdBoot, onSys_sys, hk.sys, hsys]

end Sys2Proof

namespace Sys2Proof

open Machine

/-! BOOT: replay of the cistern (R304, R309, R310), and the resumption of what a reset broke off (R285, R450, Table 8-6). -/

/-! ## Replay -/

theorem logEvent_work (c : Nat) (o n k : Word) (s : State) : WorkKeeps s (logEvent c o n k s) := .of_only ((logEvent_only ..).wide _ rfl)

theorem free_work (s : State) (n : Nat) : WorkKeeps s { s with free := n } :=
  .of_only ⟨fun p hp => by cases p <;> simp_all [Part.same, workParts]⟩

theorem setUnc_work (ns iu src : Nat) (s : State) : WorkKeeps s (setUnc ns iu src s) := by
  unfold setUnc
  extract_lets inst
  exact (onFte_work ..).trans (appendDelta_work ..)

theorem markBad_work (ns iu mask src : Nat) (s : State) : WorkKeeps s (markBad ns iu mask src s) := by
  unfold markBad
  split
  · exact .refl s
  · extract_lets had m
    refine .cond (fun _ => setUnc_work ..) fun _ => .cond (fun _ => onFte_work ..) fun _ => ?_
    exact .cond (fun _ => (raiseEvt_work ..).trans (setUnc_work ..)) fun _ => onFte_work ..

theorem readSpill_work (bad : List Nat) (s : State) : WorkKeeps s (readSpill bad s) := by
  refine .cond (fun _ => .refl s) fun _ => ?_
  extract_lets good lost unlisted s1 s2 s3 w
  have h1 : WorkKeeps s s1 := .each _ _ _ fun _ _ => markBad_work ..
  have h2 : WorkKeeps s1 s2 := .cond (fun _ => .refl s1) fun _ => raiseEvt_work ..
  have h3 : WorkKeeps s2 s3 := .cond (fun _ => .refl s2) fun _ => logOpen_work ..
  have hs3 : WorkKeeps s s3 := h1.trans (h2.trans h3)
  clear_value s1 s2 s3 w
  refine .cond (fun _ => hs3) fun _ => hs3.trans ?_
  exact (free_work s3 (s3.free + 2)).trans ((logEvent_work ..).trans (raiseSrc_work ..))

theorem programPage_work (ns page : Nat) (s : State) : WorkKeeps s (programPage ns page s) := place_work ..
theorem programDir_work (no : Nat) (s : State) : WorkKeeps s (programDir no s) := place_work ..

theorem copyIu_work (a : Nat) (bad : Bool) (s : State) : WorkKeeps s (copyIu a bad s) := by
  unfold copyIu
  split
  · exact .refl s
  · rename_i c _
    refine .cond (fun _ => .cond (fun _ => .refl s) fun _ => programDir_work ..) fun _ => .cond (fun _ => ?_) fun _ =>
      .cond (fun _ => .refl s) fun _ => place_work ..
    refine .cond (fun _ => .refl s) fun _ => ?_
    extract_lets x
    have hx : WorkKeeps s x.2 := engRun_work ..
    exact .cond (fun _ => hx.trans (programPage_work ..)) fun _ => hx

theorem moveFound_work (d n : Nat) (l : List Nat) (s : State) : WorkKeeps s (moveFound d n l s) :=
  .trans (.each _ _ _ fun _ _ => copyIu_work ..) (markFirst_work ..)

theorem closeFound_work (d n : Nat) (s : State) : WorkKeeps s (closeFound d n s) := by
  unfold closeFound
  split
  · exact .refl s
  · extract_lets t1
    exact (setStripe_work ..).trans ((closeBlks_work ..).trans ((evt_work ..).trans (finishStripe_work ..)))

theorem completeStripe_work (good : List Spill) (d n : Nat) (s : State) : WorkKeeps s (completeStripe good d n s) := by
  unfold completeStripe
  split
  · exact .refl s
  · extract_lets first begun stop steps s1 passed s2 s3
    have h1 : WorkKeeps s s1 := setStripe_work ..
    have h2 : WorkKeeps s1 s2 := .onlyIf _ (queueSteps_work ..)
    have h3 : WorkKeeps s2 s3 := .cond (fun _ => moveFound_work ..) fun _ => .refl s2
    exact h1.trans (h2.trans (h3.trans (closeFound_work ..)))

theorem replayStripes_work (good : List Spill) (s : State) : WorkKeeps s (replayStripes good s) := by
  unfold replayStripes
  extract_lets s1 s2
  have h1 : WorkKeeps s s1 := .each _ _ _ fun _ _ => completeStripe_work ..
  have h2 : WorkKeeps s1 s2 := .each _ _ _ fun _ _ => moveFound_work ..
  exact h1.trans (h2.trans (finishPrograms_work s2))

theorem commitSpill_work (good : List Spill) (s : State) : WorkKeeps s (commitSpill good s) := by
  unfold commitSpill
  extract_lets rs0 rs s1 s2
  have h1 : WorkKeeps s s1 := .each _ _ _ fun _ _ => (onFte_work ..).trans (place_work ..)
  have h2 : WorkKeeps s1 s2 := .each _ _ _ fun _ _ => closePartial_work ..
  exact h1.trans (h2.trans (finishPrograms_work s2))

theorem loseSre_only (lost : List Nat) (s : State) : OnlyChanges [.sre] s (loseSre lost s) := onSre_only ..

theorem shadowOnly_loseSre (lost : List Nat) (s : State) : shadowOnly (loseSre lost s) = shadowOnly s := rfl

/-- Replay from a bank of the cistern: its sectors, its stripes, and what it can commit. -/
def banksReplayed (bad : List Nat) (s : State) : State :=
  commitSpill (spillGood bad s) (replayStripes (spillGood bad s) (readSpill bad s))

theorem banksReplayed_work (bad : List Nat) (s : State) : WorkKeeps s (banksReplayed bad s) :=
  (readSpill_work bad s).trans ((replayStripes_work ..).trans (commitSpill_work ..))

theorem bootReplay_of_banks (bad : List Nat) (ok : Bool) (k : Nat) {s : State} (h : shadowOnly s = false) :
    bootReplay bad ok k s = stepDone 7 (banksReplayed bad s) := if_neg (by simp [h])

/-- Table 2-10, step 7: replay from a bank of the cistern always ends. -/
theorem replay_banks (bad : List Nat) (ok : Bool) (k : Nat) (lost : List Nat) {s : State} (hsh : shadowOnly s = false)
    (hh : s.sys.hold = false) : let t := bootReplay bad ok k (loseSre lost s)
    t.sys.step = 7 ∧ t.sys.hold = false := by
  intro t
  have hlost : WorkKeeps s (loseSre lost s) := .of_only ((loseSre_only lost s).wide _ rfl)
  have ht : t = stepDone 7 (banksReplayed bad (loseSre lost s)) := bootReplay_of_banks bad ok k ((shadowOnly_loseSre lost s).trans hsh)
  have hw := hlost.trans (banksReplayed_work bad (loseSre lost s))
  generalize banksReplayed bad (loseSre lost s) = v at ht hw
  rw [ht]
  exact ⟨rfl, by rw [stepDone, onSys_sys, hw.sys]; exact hh⟩

/-- R43: with no bank left, and no checkpoint or a scan that fails, boot is held. -/
theorem replay_held (bad : List Nat) {ok : Bool} (k : Nat) (lost : List Nat) {s : State} (hsh : shadowOnly s = true)
    (h : s.cst.ckpt = none ∨ ok = false) : let t := bootReplay bad ok k (loseSre lost s)
    t.sys = { s.sys with hold := true, holdWhy := 5 } ∧
      Keeps [.fte, .dre, .cst, .cam, .hpc, .nvq, .ovr, .prof, .sec, .upd, .pending] s t := by
  intro t
  have ht : t = holdBoot 5 (loseSre lost s) := by
    have hno : shadowOnly (loseSre lost s) = true := (shadowOnly_loseSre lost s).trans hsh
    have hck : (loseSre lost s).cst = s.cst := (loseSre_only lost s).same .cst (by decide)
    unfold t bootReplay
    rw [if_pos hno, hck]
    rcases h with h | h
    · rw [h]
    · subst h
      cases s.cst.ckpt <;> rfl
  have honly : OnlyChanges [.sys, .sre] s t := by
    rw [ht]
    exact ((loseSre_only ..).wide _ rfl).trans ((holdBoot_only ..).wide _ rfl)
  exact ⟨by rw [ht]; rfl, .of_only honly rfl⟩

/-! ## Resumption -/

theorem doubtBlk_work (die b : Nat) (s : State) : WorkKeeps s (doubtBlk die b s) := by
  unfold doubtBlk
  extract_lets ec s1 s2
  have h1 : WorkKeeps s s1 := (blkMod_work ..).trans (blkDelta_work ..)
  have h2 : WorkKeeps s1 s2 := onCst_work ..
  exact h1.trans (h2.trans ((modDie_work ..).trans (queueOp_work ..)))

theorem onSan_work (f : SanRec → SanRec) (s : State) : WorkKeeps s (onSan f s) := onCst_work ..

theorem takeCkpt_work (s : State) : WorkKeeps s (takeCkpt s) := onCst_work ..

theorem sanErase_work (die : Nat) (s : State) : WorkKeeps s (sanErase die s) := by
  unfold sanErase
  split
  · exact .refl s
  · refine .cond (fun _ => .refl s) fun _ => ?_
    extract_lets cur
    have hcur (b : Nat) : WorkKeeps s (cur b s) := onCst_work ..
    split
    · exact hcur _
    · exact .cond (fun _ => hcur _) fun _ => (hcur _).trans (doubtBlk_work ..)

theorem beginFinish_work (s : State) : WorkKeeps s (beginFinish s) := by
  unfold beginFinish
  extract_lets old block s1 s2 s3
  have h1 : WorkKeeps s s1 := .cond (fun _ => (onFte_work ..).trans (onDre_work _ _ rfl)) fun _ => .refl s
  have h2 : WorkKeeps s1 s2 := (place_work ..).trans (takeCkpt_work _)
  have h3 : WorkKeeps s2 s3 := onSan_work ..
  have hs3 := h1.trans (h2.trans h3)
  exact .cond (fun _ => hs3.trans (.each _ _ _ fun _ _ => doubtBlk_work ..)) fun _ => hs3

theorem drawRoot_active (s : State) : (drawRoot s).dre.active = s.dre.active := by
  unfold drawRoot
  split <;> rfl

/-- R450: what resumes a sanitize operation leaves the granules of mirror commands. -/
theorem resumeSan_active (s : State) : (resumeSan s).dre.active = s.dre.active := by
  unfold resumeSan
  split
  · rfl
  · split
    · rfl
    · split
      · exact drawRoot_active s
      · exact (WorkKeeps.each _ _ _ sanErase_work).active
      · exact (beginFinish_work s).active
      · rfl

theorem freeSpill_work (s : State) : WorkKeeps s (freeSpill s) := .each _ _ _ fun _ _ => .each _ _ _ fun _ _ => doubtBlk_work ..

/-- Table 2-10, step 8: what resumption leaves. -/
theorem resume_ends (s : State) : let t := bootResume s
    t.sys.step = 8 ∧ t.cst.hold.st = 0 ∧ t.cst.spill = [] ∧ t.dre.active = [] := by
  intro t
  refine ⟨rfl, rfl, rfl, ?_⟩
  exact (freeSpill_work _).active.trans (resumeSan_active _)

end Sys2Proof

namespace Sys2Proof

open Machine

/-! BOOT: its end (Table 2-2, R50, R208, R398, R434, R463), and the boot steps together. -/

/-! ## Conditions of the media -/

/-- What a condition of the media that changes keeps: SYS but for the mode among the modes of R30, what Table 2-8 reports of it, and a chip
reset or a wake asked for; and the mode events. -/
structure MediaKeeps (s t : State) : Prop where
  sys : t.sys = { s.sys with
    mode := t.sys.mode, prevMode := t.sys.prevMode, chgCnt := t.sys.chgCnt, chgTime := t.sys.chgTime
    resetReq := t.sys.resetReq, wakeReq := t.sys.wakeReq }
  mode : t.sys.mode = s.sys.mode ∨ (s.sys.mode.derived = true ∧ t.sys.mode.derived = true)
  events : ModeEvtsKept s t

theorem MediaKeeps.refl (s : State) : MediaKeeps s s := ⟨rfl, .inl rfl, ⟨fun _ h => h⟩⟩

theorem MediaKeeps.trans {s t u : State} (h : MediaKeeps s t) (k : MediaKeeps t u) : MediaKeeps s u := by
  refine ⟨by rw [k.sys, h.sys], ?_, ⟨fun b hb => k.events.kept b (h.events.kept b hb)⟩⟩
  rcases k.mode with km | ⟨kd, ke⟩
  · rcases h.mode with hm | ⟨hd, he⟩
    · exact .inl (km.trans hm)
    · exact .inr ⟨hd, by rw [km, he]⟩
  · rcases h.mode with hm | ⟨hd, _⟩
    · exact .inr ⟨by rw [← hm, kd], ke⟩
    · exact .inr ⟨hd, ke⟩

theorem MediaKeeps.each {α : Type} (xs : List α) (f : α → State → State) (s : State) (h : ∀ x s, MediaKeeps s (f x s)) :
    MediaKeeps s (forEach xs f s) := by
  unfold forEach
  induction xs generalizing s with
  | nil => exact .refl s
  | cons x xs ih => exact (h x s).trans (ih (f x s))

theorem MediaKeeps.cond {s t u : State} {c : Prop} [Decidable c] (h : c → MediaKeeps s t) (k : ¬c → MediaKeeps s u) :
    MediaKeeps s (if c then t else u) := by
  split
  · exact h ‹_›
  · exact k ‹_›

theorem MediaKeeps.of_same {s t : State} (hs : t.sys = s.sys) (hr : t.regs = s.regs) : MediaKeeps s t :=
  ⟨by rw [hs], .inl (by rw [hs]), .of_regs hr⟩

theorem WorkKeeps.media {s t : State} (h : WorkKeeps s t) : MediaKeeps s t :=
  ⟨by rw [h.sys], .inl (by rw [h.sys]), h.events⟩

theorem evt_media (r : RegId) (b : Nat) (s : State) : MediaKeeps s (evt r b s) := (evt_work r b s).media
theorem raiseSrc_media (i : Nat) (s : State) : MediaKeeps s (raiseSrc i s) := (raiseSrc_work i s).media

/-! ### The mode -/

theorem deriveMode_derived (s : State) : (deriveMode s).derived = true := by
  unfold deriveMode
  split
  · rfl
  · split
    · rfl
    · split
      · rfl
      · split <;> rfl

theorem moveMode_regs (m : Mode) (s : State) : (moveMode m s).regs = s.regs ∨ (moveMode m s).regs = (evt .sysModeEvt m.code s).regs := by
  unfold moveMode
  split
  · exact .inl rfl
  · exact .inr rfl

theorem moveMode_events (m : Mode) (s : State) : ModeEvtsKept s (moveMode m s) := by
  rcases moveMode_regs m s with h | h
  · exact .of_regs h
  · exact ⟨fun b hb => (hb.evt .sysModeEvt m.code).of_reg (by rw [h])⟩

/-- R30: a derived mode follows the conditions of the media. -/
theorem moveMode_derived {s : State} (hd : s.sys.mode.derived = true) : MediaKeeps s (moveMode (deriveMode s) s) := by
  have hs := moveMode_sys (deriveMode s) s
  have hm : (moveMode (deriveMode s) s).sys.mode = deriveMode s := by rw [hs]
  exact ⟨by rw [hs], .inr ⟨hd, by rw [hm, deriveMode_derived]⟩, moveMode_events ..⟩

theorem logMode_media (s0 : State) (c d : Nat) (s : State) : MediaKeeps s (logMode s0 c d s) :=
  .of_same ((logMode_only ..).same .sys (by decide)) ((logMode_only ..).same .regs (by decide))

theorem domEvents_media (s0 s : State) : MediaKeeps s (domEvents s0 s) := by
  refine .each _ _ _ fun d u => .cond (fun _ => .refl u) fun _ => ?_
  exact .cond (fun _ => evt_media ..) fun _ => .cond (fun _ => evt_media ..) fun _ => .refl u

theorem settle_media (s0 : State) (c d : Nat) (s : State) : MediaKeeps s (settle s0 c d s) := by
  unfold settle
  extract_lets s1
  have h0 : MediaKeeps s (if s.sys.mode.derived then moveMode (deriveMode s) s else s) :=
    .cond (fun hd => moveMode_derived hd) fun _ => .refl s
  have h1 : MediaKeeps s s1 := h0.trans (domEvents_media ..)
  exact .cond (fun _ => h1) fun _ => h1.trans (logMode_media ..)

theorem warnNew_only (s0 s : State) : OnlyChanges [.nvq] s (warnNew s0 s) := by
  unfold warnNew
  extract_lets fresh held warned s1
  have h1 : OnlyChanges [.nvq] s s1 :=
    .cond (fun _ => onNvq_only (fun n => { n with ctrls := tmap n.ctrls fun _ x => { x with heldWarn := x.heldWarn &&& held } }) s)
      fun _ => .refl _ _
  exact .cond (fun _ => h1) fun _ => h1.trans (.each _ _ _ _ fun _ _ => .cond (fun _ => sendAen_only ..) fun _ => .refl _ _)

theorem mediaChange_media (s0 : State) (c d : Nat) (s : State) : MediaKeeps s (mediaChange s0 c d s) :=
  (settle_media s0 c d s).trans (.of_same ((warnNew_only ..).same .sys (by decide)) ((warnNew_only ..).same .regs (by decide)))

/-! ### Spare and lost dies -/

theorem post_work (k : Nat) (sc : Sc) (a : Nat) (s : State) : WorkKeeps s (post k sc a s) := .of_only ((post_only ..).wide _ rfl)

theorem outHit_work (k : Option Nat) (s : State) : WorkKeeps s (outHit k s) := by
  unfold outHit
  split
  · exact .cond (fun _ => raiseEvt_work ..) fun _ => .refl s
  · exact .refl s

theorem postEarly_work (k : Nat) (sc : Sc) (s : State) : WorkKeeps s (postEarly k sc s) := (post_work ..).trans (outHit_work ..)

theorem failGrants_work (s : State) : WorkKeeps s (failGrants s) := by
  refine .each _ _ _ fun k u => ?_
  split
  · exact .cond (fun _ => postEarly_work ..) fun _ => .refl u
  · exact .refl u

theorem checkSpare_media (s : State) : MediaKeeps s (checkSpare s) := by
  unfold checkSpare
  extract_lets ds
  refine .cond (fun _ => .refl s) fun _ => .cond (fun _ => .trans ?_ (mediaChange_media ..)) fun _ =>
    .cond (fun _ => .trans ?_ (mediaChange_media ..)) fun _ => .refl s
  · exact (((onFte_work ..).trans (raiseEvt_work ..)).trans (failGrants_work _)).media
  · exact (onFte_work ..).media

theorem moveOff_work (a : Nat) (s : State) : WorkKeeps s (moveOff a s) := by
  unfold moveOff
  split
  · exact .refl s
  · exact .cond (fun _ => .refl s) fun _ => place_work ..

theorem openDieLoss_work (d n die : Nat) (s : State) : WorkKeeps s (openDieLoss d n die s) := by
  unfold openDieLoss
  split
  · exact .refl s
  · split
    · exact .refl s
    · refine .cond (fun _ => parityLoss_work ..) fun _ => ?_
      extract_lets block per lost s1
      have h1 : WorkKeeps s s1 := (closePartial_work ..).trans (raiseEvt_work ..)
      exact h1.trans (.each _ _ _ fun _ _ => moveOff_work ..)

theorem sanTotal_work (s : State) : WorkKeeps s (sanTotal s) := by
  unfold sanTotal
  split
  · exact .refl s
  · exact .cond (fun _ => .refl s) fun _ => onCst_work ..

theorem dieLost_media (c die : Nat) (s : State) : MediaKeeps s (dieLost c die s) := by
  unfold dieLost
  extract_lets d opens data s1 n ex s2
  have h1 : WorkKeeps s s1 := .each _ _ _ fun _ _ => openDieLoss_work ..
  have h2 : WorkKeeps s1 s2 := by
    unfold s2
    split
    · refine .cond (fun _ => modDie_work ..) fun _ => .cond (fun _ => ?_) fun _ => (modDom_work ..).trans (raiseEvt_work ..)
      exact (modDom_work ..).trans (evt_work ..)
    · exact (modDom_work ..).trans (raiseEvt_work ..)
    · exact .refl s1
  clear_value s1 s2
  have h3 : WorkKeeps s2 (gcLevels (sanTotal s2)) := (sanTotal_work s2).trans (gcLevels_work _)
  exact ((h1.trans (h2.trans h3)).media.trans (mediaChange_media ..)).trans (checkSpare_media _)

/-! ## Step 0x9 -/

theorem makeReady_work (c : Nat) (s : State) : WorkKeeps s (makeReady c s) := by
  unfold makeReady
  extract_lets s1
  have h1 : WorkKeeps s s1 := .of_only ((modCtrl_only ..).wide _ rfl)
  exact .cond (fun _ => h1.trans ((onNvq_work ..).trans (placeWaiting_work _))) fun _ => h1

theorem readyCtrls_work (s : State) : WorkKeeps s (readyCtrls s) :=
  .each _ _ _ fun _ u => .cond (fun _ => makeReady_work ..) fun _ => .refl u

theorem huLow_media (s : State) : MediaKeeps s (huLow s) := (raiseEvt_work ..).media

theorem ctrlCapture_media (s : State) : MediaKeeps s (ctrlCapture s) :=
  .of_same ((ctrlCapture_only s).same .sys (by decide)) ((ctrlCapture_only s).same .regs (by decide))

theorem rescale_media (s : State) : MediaKeeps s (rescale s) := by
  unfold rescale
  refine .cond (fun _ => .refl s) fun _ => ?_
  dsimp only
  have hq (f : Qos → Qos) : MediaKeeps s (onQos f s) := .of_same rfl rfl
  have hlog (u : State) : MediaKeeps u (logGroup 0x0D (evt .qosEvt 0 u)) := (evt_media ..).trans (logOpen_work ..).media
  refine .cond (fun _ => hq _) fun _ => .cond (fun _ => ?_) fun _ => (hq _).trans (hlog _)
  exact ((hq _).trans (hlog _)).trans (raiseSrc_media ..)

/-- R43: the mode entered is not BOOT, and its event is set. -/
theorem enterMode_ends {m : Mode} (c : Nat) {s : State} (hm : m ≠ s.sys.mode) (hc : m.code < 32) :
    (enterMode m c s).sys.mode = m ∧ EvtSet .sysModeEvt m.code (enterMode m c s) := by
  have hregs : (enterMode m c s).regs = (moveMode m s).regs := (logMode_only ..).same .regs (by decide)
  have hmove : (moveMode m s).regs = (evt .sysModeEvt m.code s).regs := by
    unfold moveMode
    rw [if_neg hm]
    rfl
  refine ⟨by rw [enterMode_sys, moveMode_sys], (evtSet_evt .sysModeEvt m.code hc s).of_reg ?_⟩
  rw [hregs, hmove]

/-- The mode that BOOT ends in, Table 2-2. -/
def bootMode (s : State) : Mode := if s.sys.testArmed then .factory else deriveMode s

theorem bootMode_cases (s : State) : (s.sys.testArmed = true → bootMode s = .factory) ∧
    (s.sys.testArmed = false → bootMode s = deriveMode s) := by
  unfold bootMode
  exact ⟨fun h => if_pos h, fun h => if_neg (by simp [h])⟩

theorem bootMode_ne_boot (s : State) : bootMode s ≠ .boot := by
  intro h
  obtain ⟨hf, hd⟩ := bootMode_cases s
  cases ha : s.sys.testArmed with
  | true => exact absurd ((hf ha).symm.trans h) (by decide)
  | false =>
    have hder := deriveMode_derived s
    rw [← hd ha, h] at hder
    exact absurd hder (by decide)

theorem code_lt (m : Mode) : m.code < 32 := by cases m <;> decide

/-- R43: the mode that ends BOOT is entered; what was set before in SYS stays. -/
theorem enterMode_from_boot {m : Mode} {u v : State} (hw : WorkKeeps u v) (hb : u.sys.mode = .boot) (hm : m ≠ .boot) (c : Nat) :
    (enterMode m c v).sys.step = u.sys.step ∧ (enterMode m c v).sys.locked = u.sys.locked ∧
      (enterMode m c v).sys.testArmed = u.sys.testArmed ∧ (enterMode m c v).sys.mode = m ∧
      EvtSet .sysModeEvt m.code (enterMode m c v) := by
  have hv : v.sys.mode = .boot := by rw [hw.sys]; exact hb
  obtain ⟨hmode, hevt⟩ := enterMode_ends c (hv ▸ hm) (code_lt m)
  refine ⟨?_, ?_, ?_, hmode, hevt⟩
  · rw [enterMode_sys, moveMode_sys, hw.sys]
  · rw [enterMode_sys, moveMode_sys, hw.sys]
  · rw [enterMode_sys, moveMode_sys, hw.sys]

/-- Table 2-2: what the end of BOOT leaves: the state `u` in which its mode has just been entered, what its conditions change, and the media
root of R434. -/
theorem bootFinish_steps {s : State} (hm : s.sys.mode = .boot) : ∃ u, u.sys.step = 9 ∧ u.sys.locked = (!s.sys.testArmed) ∧
    u.sys.testArmed = s.sys.testArmed ∧ u.sys.mode = bootMode s ∧ EvtSet .sysModeEvt (bootMode s).code u ∧
    MediaKeeps u (bootFinish s) ∧ (s.sys.testArmed = false → (bootFinish s).sec.rooted = true) := by
  unfold bootFinish
  extract_lets s0 s1 s2 s3 s4 s5 s6
  obtain ⟨hstep, hlock, harm, hmode, hevt⟩ :=
    enterMode_from_boot (u := s1) (readyCtrls_work s1) hm (bootMode_ne_boot s) 0x01
  have h2 : s2 = enterMode (bootMode s) 0x01 (readyCtrls s1) := rfl
  rw [← h2] at hstep hlock harm hmode hevt
  have h3 : MediaKeeps s2 s3 :=
    ((MediaKeeps.each _ _ _ fun _ _ => dieLost_media ..).trans (gcLevels_work _).media).trans (checkSpare_media _)
  have h4 : MediaKeeps s3 s4 := .cond (fun _ => .refl s3) fun _ => huLow_media s3
  have h5 : MediaKeeps s4 s5 := .trans (.cond (fun _ => ctrlCapture_media s4) fun _ => .refl s4) (rescale_media _)
  have h25 := h3.trans (h4.trans h5)
  have harm5 : s5.sys.testArmed = s.sys.testArmed := by rw [h25.sys]; exact harm
  refine ⟨s2, hstep, hlock, harm, hmode, hevt, h25.trans ?_, fun ha => ?_⟩
  · have h6 : MediaKeeps s5 s6 := .cond (fun _ => .refl s5) fun _ => .of_same rfl rfl
    exact h6.trans (.of_same rfl rfl)
  · have h6 : s6.sec.rooted = true := by
      unfold s6
      split
      · rename_i hr
        simpa [harm5, ha] using hr
      · rfl
    exact h6

/-- Table 2-10, step 9: what the end of BOOT leaves. -/
theorem finish_ends {s : State} (hm : s.sys.mode = .boot) : let t := bootFinish s
    t.sys.step = 9 ∧ t.sys.locked = (!s.sys.testArmed) ∧ (s.sys.testArmed = true → t.sys.mode = .factory ∧ EvtSet .sysModeEvt 9 t) ∧
      (s.sys.testArmed = false → t.sys.mode.derived = true ∧ EvtSet .sysModeEvt (deriveMode s).code t ∧ t.sec.rooted = true) := by
  intro t
  obtain ⟨u, hstep, hlock, _, hmode, hevt, hk, hroot⟩ := bootFinish_steps hm
  obtain ⟨hfact, hder⟩ := bootMode_cases s
  refine ⟨by rw [hk.sys]; exact hstep, by rw [hk.sys]; exact hlock, fun ha => ?_, fun ha => ?_⟩
  · rw [hfact ha] at hmode hevt
    refine ⟨?_, hk.events.kept _ hevt⟩
    rcases hk.mode with h | ⟨h, _⟩
    · exact h.trans hmode
    · rw [hmode] at h
      exact absurd h (by decide)
  · rw [hder ha] at hmode hevt
    refine ⟨?_, hk.events.kept _ hevt, hroot ha⟩
    rcases hk.mode with h | ⟨_, h⟩
    · rw [h, hmode]
      exact deriveMode_derived s
    · exact h

/-! ## The boot steps together -/

/-- Settles O34: each boot step's work, clause by clause of Table 2-10. -/
theorem bootSteps : Obligations.BootSteps := by
  unfold Obligations.BootSteps
  refine ⟨?_, ?_, ?_, ?_, ?_, ?_, ?_, ?_, ?_, ?_, ?_, ?_, ?_, ?_, ?_, ?_⟩
  · exact fun l s h => ⟨(exec_bootStep_of_atStep (e := .fuses l true) h).trans (congrArg Host.Outcome.next (fuses_ok l s)),
      ends_fuses h (fuses_fail l h.mode)⟩
  · exact fun a b s h ht hn hb => ends_images h (images_active ht hn hb)
  · exact fun a b s h ht hn hb => ends_images h (images_next ht hn hb)
  · exact fun a b s h ht h2 _ hb => ends_images h (images_fallback ht h2 hb)
  · intro a b s h hb
    obtain ⟨hold, hwhy, hstep⟩ := bootImages_held hb
    exact ends_images h ⟨hold, hwhy, hstep.trans h.before⟩
  · exact fun root s h h0 h1 hs => ends_cistern h (cistern_good root h0 h1 hs)
  · exact fun root s h h0 h1 => ends_cistern h (cistern_bank0 root h.mode h0 h1)
  · exact fun a b s h hn _ hv hp => ends_profile h (profile_active h.notHeld hn hv hp)
  · intro a b s h h1 h2 ha hn
    obtain ⟨hold, hwhy, hstep, hrel⟩ := profile_held (a := a) (b := b) h1 h2 ha hn
    exact ends_profile h ⟨hold, hwhy, hstep.trans h.before, hrel⟩
  · intro gib rate f s h hst
    refine ⟨fun hf => ends_dram h (dram_fits h.mode hst hf), fun hg => ?_⟩
    obtain ⟨hold, hwhy, hstep⟩ := dram_small rate f hst hg
    exact ends_dram h ⟨hold, hwhy, hstep.trans h.before⟩
  · intro gib rate f s h hst htr
    obtain ⟨hold, hwhy, hstep, hlat, hevt⟩ := dram_fails gib rate f h.mode hst htr
    exact ends_dram h ⟨hold, hwhy, hstep.trans h.before, hlat, hevt⟩
  · intro silent ts bad cols s h passes train
    have hstep5 : s.sys.step = 5 := h.before
    refine ⟨?_, fun hp => ?_, fun hp => ?_⟩
    · obtain ⟨hold, hwhy, hstep⟩ := nand_mismatch silent ts bad cols s
      exact ends_nand h ⟨hold, hwhy, hstep.trans hstep5⟩
    · obtain ⟨hstep, hold, hdies, hchan, hblks⟩ := nand_trains (silent := silent) (bad := bad) (cols := cols) h.notHeld hp
      refine ends_nand h ⟨hstep, hold, fun d hd hs => ?_, fun d hd hs => ?_, hchan, hblks⟩
      · exact (hdies d hd).1.trans (by simp [hs])
      · exact (hdies d hd).2 (by simp [hs])
    · obtain ⟨hold, hwhy, hstep, hlat⟩ := nand_untrained (silent := silent) (bad := bad) (cols := cols) h.mode hp
      exact ends_nand h ⟨hold, hwhy, hstep.trans hstep5, hlat⟩
  · exact fun bad ok k l s h => ⟨fun hsh => ends_replay h (replay_banks bad ok k l hsh h.notHeld),
      fun hsh hc => ends_replay h (replay_held bad k l hsh hc)⟩
  · exact fun s h => ends_resume h (resume_ends s)
  · exact fun s h => ends_finish h (finish_ends h.mode)
  · exact fun e s h => exec_bootStep_of_not_boot h e

end Sys2Proof

namespace Sys2Proof

open Machine

/-! The byte memories (R46, R91, R323, R326): every operation that stores bytes keeps their canonical form, and every
other one leaves them alone. -/

section

variable {s t : State}

/-! ## How the form composes -/

theorem MemsWf.ite {c : Prop} [Decidable c] (ws : MemsWf s) (wt : MemsWf t) : MemsWf (if c then s else t) := by
  split
  · exact ws
  · exact wt

theorem MemsWf.fold {α : Type} {l : List α} {f : State → α → State} (w : MemsWf s) (hf : ∀ s x, MemsWf s → MemsWf (f s x)) :
    MemsWf (l.foldl f s) := by
  induction l generalizing s with
  | nil => exact w
  | cons x l ih => exact ih (hf s x w)

theorem MemsWf.each {α : Type} {l : List α} {f : α → State → State} (w : MemsWf s) (hf : ∀ x s, MemsWf s → MemsWf (f x s)) :
    MemsWf (forEach l f s) := .fold w fun s x => hf x s

theorem MemsWf.upto {n : Nat} {f : Nat → State → State} (w : MemsWf s) (hf : ∀ x s, MemsWf s → MemsWf (f x s)) :
    MemsWf (forN n f s) := .each w hf

theorem MemsWf.onlyIf {c : Bool} {f : State → State} (w : MemsWf s) (hf : ∀ s, MemsWf s → MemsWf (f s)) : MemsWf (onlyIf c f s) :=
  .ite (hf s w) w

theorem MemsWf.same (w : MemsWf s) (hc : t.cam = s.cam) (hh : t.hpc = s.hpc) (hw : t.wel = s.wel) (hp : t.pmp = s.pmp) : MemsWf t := by
  unfold MemsWf
  rw [hc, hh, hw, hp]
  exact w

section

variable {sys : Sys} {pins : Pins} {regs ovr : Tbl Word} {cam : Cam} {hpc : Hpc} {nvq : Nvq} {qos : Qos} {xlt : Xlt} {fte : Fte} {fch : Fch}
    {sre : Sre} {dre : Dre} {cst : Cst} {wel : Wel} {pmp : Pmp} {mpr : Mpr} {flt : Flt}
  {pwr : Pwr} {whs : Whs} {up : Upd} {sec : Sec} {sbm : Sbm} {drm : Drm} {prof : Profile} {profOn : Bool} {out : List Output} {free : Nat}
      {pending : List Instr}

theorem MemsWf.upd (w : MemsWf s) : MemsWf ⟨sys, pins, regs, ovr, s.cam, s.hpc, nvq, qos, xlt, fte, fch, sre, dre, cst, s.wel, s.pmp, mpr, flt,
    pwr, whs, up, sec, sbm, drm, prof, profOn, out, free, pending⟩ := w

theorem MemsWf.updCam (w : MemsWf s) (h : cam.mem = s.cam.mem) : MemsWf ⟨sys, pins, regs, ovr, cam, s.hpc, nvq, qos, xlt, fte, fch, sre, dre, cst,
    s.wel, s.pmp, mpr, flt, pwr, whs, up, sec, sbm, drm, prof, profOn, out, free, pending⟩ := ⟨by rw [h]; exact w.1, w.2⟩

theorem MemsWf.updHpc (w : MemsWf s) (h : hpc.window = s.hpc.window) : MemsWf ⟨sys, pins, regs, ovr, s.cam, hpc, nvq, qos, xlt, fte, fch, sre,
    dre, cst, s.wel, s.pmp, mpr, flt, pwr, whs, up, sec, sbm, drm, prof, profOn, out, free, pending⟩ :=
  ⟨w.1, by rw [h]; exact w.2.1, w.2.2⟩

theorem MemsWf.updWel (w : MemsWf s) (h : wel.mem = s.wel.mem) : MemsWf ⟨sys, pins, regs, ovr, s.cam, s.hpc, nvq, qos, xlt, fte, fch, sre, dre,
    cst, wel, s.pmp, mpr, flt, pwr, whs, up, sec, sbm, drm, prof, profOn, out, free, pending⟩ :=
  ⟨w.1, w.2.1, by rw [h]; exact w.2.2.1, w.2.2.2⟩

theorem MemsWf.updPmp (w : MemsWf s) (h : pmp.dram = s.pmp.dram) : MemsWf ⟨sys, pins, regs, ovr, s.cam, s.hpc, nvq, qos, xlt, fte, fch, sre, dre,
    cst, s.wel, pmp, mpr, flt, pwr, whs, up, sec, sbm, drm, prof, profOn, out, free, pending⟩ :=
  ⟨w.1, w.2.1, w.2.2.1, by rw [h]; exact w.2.2.2⟩

end

theorem MemsWf.faults (k : FaultKeeps s t) (w : MemsWf s) : MemsWf t :=
  .same w (k.rest.same .cam (by decide)) (k.rest.same .hpc (by decide)) (k.rest.same .wel (by decide)) (k.rest.same .pmp (by decide))

theorem MemsWf.work (k : WorkKeeps s t) (w : MemsWf s) : MemsWf t :=
  .same w (k.parts.same .cam (by decide)) (k.parts.same .hpc (by decide)) (k.parts.same .wel (by decide)) (k.parts.same .pmp (by decide))

theorem MemsWf.raiseSrc {i : Nat} (w : MemsWf s) : MemsWf (raiseSrc i s) := .faults (raiseSrc_keeps i s) w

/-- Where an answer has a next state, its byte memories have their canonical form. -/
def NextWf (r : Res) : Prop := ∀ t, r = .next t → MemsWf t

theorem NextWf.next (w : MemsWf s) : NextWf (.next s) := by
  intro t ht
  cases ht
  exact w

theorem NextWf.fault {f : Fault} : NextWf (.fault f) := by
  intro t ht
  cases ht

theorem NextWf.ite {c : Prop} [Decidable c] {a b : Res} (wa : NextWf a) (wb : NextWf b) : NextWf (if c then a else b) := by
  split
  · exact wa
  · exact wb

theorem NextWf.onSeq {k : Nat} {r : Res} (w : MemsWf s) (wr : NextWf r) : NextWf (onSeq k s r) := .ite wr (.next w)

/-! ## The operations -/


theorem MemsWf.rebuildTb (wf : MemsWf s) : MemsWf (rebuildTb s) := by
  unfold Machine.rebuildTb
  split
  · exact .upd (.upd wf)
  · exact .upd wf

theorem MemsWf.chipReset {cause : Nat} {strap fuse : Bool} : MemsWf (chipReset cause strap fuse s) :=
  .rebuildTb ⟨memWf_nil 0, memWf_nil 0, memWf_nil 0, memWf_nil 0⟩

theorem MemsWf.sleepRtc (wf : MemsWf s) : MemsWf (sleepRtc s) :=
  .ite (.upd (.upd wf)) wf

theorem MemsWf.bootFuses {repairs : List (Nat × Nat × Nat)} {mapOk : Bool} (wf : MemsWf s) : MemsWf (bootFuses repairs mapOk s) :=
  .upd (.ite (.upd wf) (.raiseSrc (.upd wf)))

theorem MemsWf.chooseImage (wf : MemsWf s) : MemsWf (chooseImage s).2 := by
  unfold Machine.chooseImage
  dsimp only
  split
  · exact .upd wf
  · split
    · exact .upd (.upd wf)
    · split
      · exact .upd wf
      · exact wf

theorem MemsWf.imgRuns {k : Nat} (wf : MemsWf s) : MemsWf (imgRuns k s) :=
  .upd (.upd (.upd (.upd (.ite wf (.upd wf)))))

theorem MemsWf.sigFail (wf : MemsWf s) : MemsWf (sigFail s) :=
  .raiseSrc (.upd wf)

theorem MemsWf.verifyFails {i : Option Image} (wf : MemsWf s) : MemsWf (verifyFails i s) := by
  unfold Machine.verifyFails
  extract_lets s1
  have hs1 : MemsWf s1 := .raiseSrc (.upd wf)
  exact .ite (.sigFail hs1) hs1

theorem MemsWf.imgFails {k : Nat} (wf : MemsWf s) : MemsWf (imgFails k s) := by
  unfold Machine.imgFails
  extract_lets x s1
  have hs1 : MemsWf s1 := .ite (.verifyFails (.upd (.upd wf))) wf
  exact .ite (.upd hs1) hs1

theorem MemsWf.bootImages {aOk bOk : Bool} (wf : MemsWf s) : MemsWf (bootImages aOk bOk s) :=
  .ite (.upd (.imgRuns (.chooseImage wf)))
    (.ite (.upd (.imgRuns (.imgFails (.chooseImage wf)))) (.upd (.imgFails (.imgFails (.chooseImage wf)))))

theorem MemsWf.bankFail {b : Nat} (wf : MemsWf s) : MemsWf (bankFail b s) := by
  unfold Machine.bankFail
  refine .ite wf ?_
  extract_lets s1 s2
  have hs2 : MemsWf s2 := .raiseSrc (.upd (.upd (.upd (.upd wf))))
  exact .ite (.raiseSrc (.upd (.upd (.upd hs2)))) hs2

theorem MemsWf.bankTest {b : Nat} {passed : Bool} (wf : MemsWf s) : MemsWf (bankTest b passed s) :=
  .ite (.ite wf (.upd (.upd (.upd (.upd wf))))) (.bankFail wf)

theorem MemsWf.repairFull (wf : MemsWf s) : MemsWf (repairFull s) :=
  .raiseSrc (.upd wf)

theorem MemsWf.applyRepairs (wf : MemsWf s) : MemsWf (applyRepairs s) := by
  unfold Machine.applyRepairs
  refine .upto wf fun _ _ wf => ?_
  split
  · exact wf
  · exact .ite wf (.ite (.repairFull wf) (.upd wf))

theorem MemsWf.loadHold (wf : MemsWf s) : MemsWf (loadHold s) :=
  .ite wf (.upd wf)

theorem MemsWf.bootCistern {bank0 bank1 rootOk : Bool} (wf : MemsWf s) : MemsWf (bootCistern bank0 bank1 rootOk s) := by
  unfold Machine.bootCistern
  extract_lets s1 s2
  have hs1 : MemsWf s1 := .bankTest (.bankTest wf)
  have hs2 : MemsWf s2 := .ite (.applyRepairs (.loadHold (.upd (.upd hs1)))) hs1
  exact .ite (.upd hs2) (.upd hs2)

theorem MemsWf.giveFlex {p : Profile} (wf : MemsWf s) : MemsWf (giveFlex p s) :=
  .each wf fun _ _ wf => .upd wf

theorem MemsWf.releasePorts {p : Profile} (wf : MemsWf s) : MemsWf (releasePorts p s) := by
  unfold Machine.releasePorts
  extract_lets s1 s2
  have wf1 : MemsWf s1 := .updHpc (.upd wf) rfl
  have wf2 : MemsWf s2 := .upto wf1 fun _ _ wf => .ite (.updHpc wf rfl) wf
  clear_value s2
  split
  · exact wf2
  · exact .upd (.updHpc (.updHpc wf2 rfl) rfl)

theorem MemsWf.applyPorts {p : Profile} (wf : MemsWf s) : MemsWf (applyPorts p s) :=
  .ite (.giveFlex (.ite (.updHpc wf rfl) (.updHpc wf rfl))) (.releasePorts (.updHpc wf rfl))

theorem MemsWf.loadReacts {p : Profile} (wf : MemsWf s) : MemsWf (loadReacts p s) :=
  .each wf fun _ _ wf => .upd wf

theorem MemsWf.loadRegs {p : Profile} (wf : MemsWf s) : MemsWf (loadRegs p s) := by
  unfold Machine.loadRegs
  refine .each wf fun _ _ wf => ?_
  split
  · exact .ite wf (.upd wf)
  · exact wf

theorem MemsWf.applyProfile {p : Profile} (wf : MemsWf s) : MemsWf (applyProfile p s) := by
  unfold Machine.applyProfile
  extract_lets s1 s2 s3
  have hs2 : MemsWf s2 := .upto (.applyPorts (.loadReacts (.loadRegs (.upd wf)))) fun _ _ wf => .upd wf
  exact .upd (.ite hs2 (.updWel hs2 rfl))

theorem MemsWf.useProfile {slot : Nat} (wf : MemsWf s) : MemsWf (useProfile slot s) :=
  .applyProfile (.upd (.ite wf (.upd wf)))

theorem MemsWf.bootProfile {aOk bOk : Bool} (wf : MemsWf s) : MemsWf (bootProfile aOk bOk s) := by
  unfold Machine.bootProfile
  refine .ite (.upd (.useProfile wf)) ?_
  extract_lets s1
  have hs1 : MemsWf s1 := .faults (prfFails_keeps ..) wf
  exact .ite (.upd (.useProfile hs1)) (.upd (.releasePorts (.faults (prfFails_keeps ..) hs1)))

theorem MemsWf.applyPpr {failed : List Nat} (wf : MemsWf s) : MemsWf (applyPpr failed s) := by
  unfold Machine.applyPpr
  refine .upto wf fun _ _ wf => ?_
  split
  · exact wf
  · exact .ite wf (.ite (.raiseSrc (.upd wf)) (.raiseSrc (.upd wf)))

theorem MemsWf.trainDram {ok : Bool} {gib rate : Nat} {ppr : List Nat} (wf : MemsWf s) : MemsWf (trainDram ok gib rate ppr s) := by
  unfold Machine.trainDram
  extract_lets s1
  have hs1 : MemsWf s1 := .applyPpr (.upd wf)
  exact .ite (.updCam (.upd (.upd hs1)) rfl) (.raiseSrc (.upd hs1))

theorem MemsWf.bootDram {ok : Bool} {gib rate : Nat} {ppr : List Nat} (wf : MemsWf s) : MemsWf (bootDram ok gib rate ppr s) := by
  unfold Machine.bootDram
  extract_lets s1
  have hs1 : MemsWf s1 := .ite wf (.trainDram wf)
  exact .ite (.upd hs1) (.upd hs1)

theorem MemsWf.bringDie {silent : List Nat} {die : Nat} (wf : MemsWf s) : MemsWf (bringDie silent die s) := by
  unfold Machine.bringDie
  extract_lets x gone d s1
  have hs1 : MemsWf s1 := .upd (.upd wf)
  exact .ite (.raiseSrc (.upd hs1)) hs1

theorem MemsWf.seedCol {x : Nat × Nat × Nat} (wf : MemsWf s) : MemsWf (seedCol x s) :=
  .ite wf (.upd wf)

theorem MemsWf.bringChan {ch : Nat} {t : ChTrain} (wf : MemsWf s) : MemsWf (bringChan ch t s) :=
  .ite (.raiseSrc (.upd (.upd wf))) (.upd wf)

theorem MemsWf.layDomain {d : Nat} (wf : MemsWf s) : MemsWf (layDomain d s) :=
  .ite wf (.upd (.upd wf))

theorem MemsWf.bootNand {silent : List Nat} {mismatch : Bool} {trains : List ChTrain} {bad : List (Nat × Nat)} {cols : List (Nat × Nat × Nat)}
    (wf : MemsWf s) :
    MemsWf (bootNand silent mismatch trains bad cols s) := by
  unfold Machine.bootNand
  extract_lets read s0 s1 chs s2
  have hs0 : MemsWf s0 := .each (.each wf fun _ _ wf => .bringDie wf) fun _ _ wf => .work (markBadBlk_work ..) wf
  have hs1 : MemsWf s1 := .each hs0 fun _ _ wf => .seedCol wf
  have hs2 : MemsWf s2 := .each hs1 fun _ _ wf => .bringChan wf
  exact .ite (.upd hs1) (.ite (.upd (.raiseSrc hs2)) (.upd (.upto hs2 fun _ _ wf => .layDomain wf)))

theorem MemsWf.debit {tnt : Option Nat} {bytes : Int} (wf : MemsWf s) : MemsWf (debit tnt bytes s) := by
  unfold Machine.debit
  split <;> exact .upd wf

theorem MemsWf.giveQuanta {n t : Nat} (wf : MemsWf s) : MemsWf (giveQuanta n t s) :=
  .debit wf

theorem MemsWf.drrServe {rest : Bool} {t : Nat} {cs : List Nat} (wf : MemsWf s) : MemsWf (drrServe rest t cs s) :=
  .upd (.ite wf (.each (.each (.giveQuanta wf) fun _ _ wf => .giveQuanta wf) fun _ _ wf => .giveQuanta wf))

theorem MemsWf.qosServe {t : Nat} {ts : List Nat} (wf : MemsWf s) : MemsWf (qosServe t ts s) :=
  .drrServe wf

theorem MemsWf.drainQ {die : Nat} (wf : MemsWf s) : MemsWf (drainQ die s) :=
  .work (drainN_work ..) wf

theorem MemsWf.scanCopies {l : List (Nat × Stripe)} (wf : MemsWf s) : MemsWf (scanCopies l s) := by
  unfold Machine.scanCopies
  extract_lets cws s1
  have hs1 : MemsWf s1 := by
    unfold s1
    refine .each wf fun _ _ wf => ?_
    split
    · exact .ite (.upd wf) wf
    · exact wf
  refine .each hs1 fun _ _ wf => ?_
  split
  · exact .ite (.upd wf) wf
  · exact wf

theorem MemsWf.applyRange {ns lo n ver v src : Nat} (wf : MemsWf s) : MemsWf (applyRange ns lo n ver v src s) :=
  .each wf fun _ _ wf => .ite wf (.upd (.upd wf))

theorem MemsWf.scanMap {k : Ckpt} (wf : MemsWf s) : MemsWf (scanMap k s) := by
  unfold Machine.scanMap
  refine .each (.upd (.upd wf)) fun _ _ wf => ?_
  refine .ite (.ite (.upd wf) wf) ?_
  refine .ite ?_ (.ite (.upd wf) wf)
  split
  · exact .applyRange wf
  · exact wf

theorem MemsWf.wantPage {ns page : Nat} (wf : MemsWf s) : MemsWf (wantPage ns page s).2 := by
  unfold Machine.wantPage
  split
  · exact .upd wf
  · split
    · exact .work (cachePage_work ..) wf
    · exact wf

theorem MemsWf.queueReadOp {x : Nat × Dop} (wf : MemsWf s) : MemsWf (queueReadOp x s) :=
  .work (queueOp_work ..) (.upd wf)

theorem MemsWf.askRecons (wf : MemsWf s) : MemsWf (askRecons s) :=
  .each wf fun _ _ wf => .work (askSurv_work ..) wf

theorem MemsWf.startMapReads (wf : MemsWf s) : MemsWf (startMapReads s) :=
  .work (startReadsN_work ..) wf

theorem MemsWf.engRun {e : EngCtx} (wf : MemsWf s) : MemsWf (engRun e s).2 := by
  unfold Machine.engRun
  split
  · exact wf
  · split
    · exact .raiseSrc (.upd (.upd wf))
    · have wf1 := MemsWf.wantPage (ns := e.ns) (page := e.iu / iusPerPage) wf
      dsimp only
      split
      · exact .work (prefetch_work ..) wf1
      · exact .work (askMapPage_work ..) (.upd wf1)

theorem MemsWf.pageStep {ns page step : Nat} (wf : MemsWf s) : MemsWf (pageStep ns page step s).2 :=
  .engRun wf

theorem MemsWf.openScan {k : Ckpt} {relocated : Nat} (wf : MemsWf s) : MemsWf (openScan k relocated s) := by
  unfold Machine.openScan
  extract_lets set s0 s1 s2 s3 s4 s5 s6 idle
  have hs3 : MemsWf s3 := .upd (.upd (.each (.scanCopies (.scanMap (.upd wf))) fun _ _ wf => .work (closeFound_work ..) wf))
  have hs6 : MemsWf s6 := by
    unfold s6
    refine .each (.each (.ite hs3 (.upd (.upd (.raiseSrc (.upd hs3))))) fun _ _ wf => .work (moveFound_work ..) wf) fun _ _ wf => ?_
    split
    · exact .upd wf
    · exact wf
  exact .each (.work (finishPrograms_work ..) hs6) fun _ _ wf4 => .each wf4 fun _ _ wf => .work (doubtBlk_work ..) wf

theorem MemsWf.bootReplay {bad : List Nat} {scanOk : Bool} {relocated : Nat} (wf : MemsWf s) : MemsWf (bootReplay bad scanOk relocated s) := by
  unfold Machine.bootReplay
  refine .ite ?_ (.upd (.work (commitSpill_work ..) (.work (replayStripes_work ..) (.work (readSpill_work ..) wf))))
  split
  · exact .upd (.work (commitSpill_work ..) (.openScan wf))
  · exact .upd wf

theorem MemsWf.redoErases (wf : MemsWf s) : MemsWf (redoErases s) :=
  .each wf fun _ _ wf => .ite (.ite wf (.work (doubtBlk_work ..) wf)) (.upd (.upd wf))

theorem MemsWf.drawRoot (wf : MemsWf s) : MemsWf (drawRoot s) :=
  .ite (.upd (.upd wf)) (.upd wf)

theorem MemsWf.resumeSan (wf : MemsWf s) : MemsWf (resumeSan s) := by
  unfold Machine.resumeSan
  split
  · exact wf
  · refine .ite wf ?_
    split
    · exact .drawRoot wf
    · exact .each wf fun _ _ wf => .work (sanErase_work ..) wf
    · exact .work (beginFinish_work ..) wf
    · exact wf

theorem MemsWf.bootResume (wf : MemsWf s) : MemsWf (bootResume s) :=
  .upd (.upd (.work (freeSpill_work ..) (.resumeSan (.upd (.upd (.upd (.redoErases wf)))))))

theorem MemsWf.moveMode {m : Mode} (wf : MemsWf s) : MemsWf (moveMode m s) :=
  .ite wf (.upd (.upd wf))

theorem MemsWf.enterMode {m : Mode} {code : Nat} (wf : MemsWf s) : MemsWf (enterMode m code s) :=
  .upd (.upd (.moveMode wf))

theorem MemsWf.warnNew {s0 : State} (wf : MemsWf s) : MemsWf (warnNew s0 s) := by
  unfold Machine.warnNew
  extract_lets fresh held _ s1
  have hs1 : MemsWf s1 := .ite (.upd wf) wf
  exact .ite hs1 (.each hs1 fun _ _ wf => .ite (.faults (sendAen_keeps ..) wf) wf)

theorem MemsWf.domEvents {s0 : State} (wf : MemsWf s) : MemsWf (domEvents s0 s) :=
  .upto wf fun _ _ wf => .ite wf (.ite (.upd wf) (.ite (.upd wf) wf))

theorem MemsWf.settle {s0 : State} {code die : Nat} (wf : MemsWf s) : MemsWf (settle s0 code die s) := by
  unfold Machine.settle
  extract_lets s1
  have hs1 : MemsWf s1 := .domEvents (.ite (.moveMode wf) wf)
  exact .ite hs1 (.upd (.upd hs1))

theorem MemsWf.mediaChange {s0 : State} {code die : Nat} (wf : MemsWf s) : MemsWf (mediaChange s0 code die s) :=
  .warnNew (.settle wf)

theorem MemsWf.traceAdd {t units ops : Nat} (wf : MemsWf s) : MemsWf (traceAdd t units ops s) := by
  unfold Machine.traceAdd
  split
  · exact wf
  · exact .ite wf (.ite (.upd wf) wf)

theorem MemsWf.chargeData {tnt : Option Nat} {bytes resv : Nat} (wf : MemsWf s) : MemsWf (chargeData tnt bytes resv s) := by
  unfold Machine.chargeData
  split
  · exact wf
  · exact .traceAdd (.upd wf)

theorem MemsWf.enterPost {tag : Nat} {sc : Sc} {dnr : Bool} {dw0 dw1 : Nat} (wf : MemsWf s) : MemsWf (enterPost tag sc dnr dw0 dw1 s) := by
  unfold Machine.enterPost
  split
  · exact wf
  · exact .ite (.chargeData (.faults (setPost_keeps ..) wf)) (.faults (setPost_keeps ..) wf)

theorem MemsWf.postDnr {tag : Nat} {sc : Sc} {dnr : Bool} {dw0 dw1 : Nat} (wf : MemsWf s) : MemsWf (postDnr tag sc dnr dw0 dw1 s) := by
  unfold Machine.postDnr
  split
  · exact .enterPost (.enterPost wf)
  · exact .enterPost wf

theorem MemsWf.checkSpare (wf : MemsWf s) : MemsWf (checkSpare s) :=
  .ite wf (.ite (.mediaChange (.work (failGrants_work ..) (.raiseSrc (.upd (.upd wf))))) (.ite (.mediaChange (.upd wf)) wf))

theorem MemsWf.dieLost {code die : Nat} (wf : MemsWf s) : MemsWf (dieLost code die s) := by
  have hs1 (l : List Nat) : MemsWf (forEach l (fun n s => openDieLoss (dieDom die) n die s) s) :=
    .each wf fun _ _ wf => .work (openDieLoss_work ..) wf
  refine .checkSpare (.mediaChange (.work (gcLevels_work ..) (.work (sanTotal_work ..) ?_)))
  split
  · exact .ite (.upd (hs1 _)) (.ite (.upd (.upd (hs1 _))) (.raiseSrc (.upd (.upd (hs1 _)))))
  · exact .raiseSrc (.upd (.upd (hs1 _)))
  · exact hs1 _

theorem MemsWf.huLow (wf : MemsWf s) : MemsWf (huLow s) :=
  .raiseSrc (.upd wf)

theorem MemsWf.rescale (wf : MemsWf s) : MemsWf (rescale s) := by
  unfold Machine.rescale
  refine .ite wf ?_
  refine .ite (.upd wf) ?_
  extract_lets s2
  have hs2 : MemsWf s2 := .upd (.upd (.upd (.upd wf)))
  exact .ite (.raiseSrc hs2) hs2

theorem MemsWf.bootFinish (wf : MemsWf s) : MemsWf (bootFinish s) := by
  unfold Machine.bootFinish
  extract_lets s0 s1 s2 s3 s4 s5 s6
  have wf2 : MemsWf s2 := .enterMode (.work (readyCtrls_work ..) (.updHpc (.upd (.upd (.upd wf))) rfl))
  have wf3 : MemsWf s3 := .checkSpare (.work (gcLevels_work ..) (.each wf2 fun _ _ wf => .dieLost wf))
  have wf4 : MemsWf s4 := .ite wf3 (.huLow wf3)
  have wf5 : MemsWf s5 := .rescale (.ite (.faults (ctrlCapture_keeps ..) wf4) wf4)
  exact .upd (.ite wf5 (.upd wf5))

theorem MemsWf.endRefs {die : Nat} {o : Dop} (wf : MemsWf s) : MemsWf (endRefs die o s) :=
  .ite (.upd wf) wf

theorem MemsWf.holdDie {die : Nat} (wf : MemsWf s) : MemsWf (holdDie die s) :=
  .upd (.each wf fun _ _ wf => .endRefs (.upd wf))

theorem MemsWf.endSelfTest {code item : Nat} (wf : MemsWf s) : MemsWf (endSelfTest code item s) :=
  .ite wf (.upd wf)

theorem MemsWf.endErasePulse (wf : MemsWf s) : MemsWf (endErasePulse s) :=
  .ite (.upd wf) wf

theorem MemsWf.setIslands {l : List (Nat × IslSt)} (wf : MemsWf s) : MemsWf (setIslands l s) :=
  .each (.upd wf) fun _ _ wf => .upd wf

theorem MemsWf.planSpill (wf : MemsWf s) : MemsWf (planSpill s) :=
  .ite (.upd (.upd wf)) (.upd wf)

theorem MemsWf.enterHoldup {code cause : Nat} (wf : MemsWf s) : MemsWf (enterHoldup code cause s) := by
  unfold Machine.enterHoldup
  extract_lets boot s0 s1 s2 s3 s4 s5 s6
  have hs6 : MemsWf s6 := .upd (.endSelfTest (.endErasePulse (.setIslands (.updPmp (.updWel (.upd (.upd (.upd (.upd (.upd (.each (.upd (.enterMode
      (.upd (.ite (.rebuildTb (.sleepRtc wf)) wf)))) fun _ _ wf => .holdDie wf)))))) rfl) rfl))))
  exact .ite hs6 (.planSpill hs6)

theorem MemsWf.powerLoss (wf : MemsWf s) : MemsWf (powerLoss s) :=
  .ite (.upd wf) (.ite (.enterHoldup wf) wf)

theorem MemsWf.supplyLoss (wf : MemsWf s) : MemsWf (supplyLoss s) :=
  .ite (.raiseSrc (.powerLoss wf)) (.powerLoss wf)

theorem MemsWf.bankFaults {l : List Nat} (wf : MemsWf s) : MemsWf (bankFaults l s) :=
  .onlyIf (.onlyIf wf fun _ wf => .bankFail wf) fun _ wf => .bankFail wf

theorem MemsWf.queueSenses {cw step : Nat} (wf : MemsWf s) : MemsWf (queueSenses cw step s) := by
  unfold Machine.queueSenses
  split
  · exact wf
  · exact .each (.upd wf) fun _ _ wf => .queueReadOp wf

theorem MemsWf.restartAt2 {cw : Nat} (wf : MemsWf s) : MemsWf (restartAt2 cw s) :=
  .queueSenses (.upd wf)

theorem MemsWf.switchBanks (wf : MemsWf s) : MemsWf (switchBanks s) :=
  .upd (.upd (.each (.faults (sendAll_keeps ..) wf) fun _ _ wf => .ite (.restartAt2 wf) wf))

theorem MemsWf.fallBack (wf : MemsWf s) : MemsWf (fallBack s) := by
  have hs1 (f : Upd → Upd) : MemsWf (putDir f (Machine.switchBanks s)) := .upd (.switchBanks wf)
  refine .faults (ctrlCapture_keeps ..) (.raiseSrc (.upd (.ite ?_ (hs1 _))))
  split
  · exact .upd (hs1 _)
  · exact hs1 _

theorem MemsWf.afterFaults {s0 : State} (wf : MemsWf s) : MemsWf (afterFaults s0 s) := by
  unfold Machine.afterFaults
  extract_lets l s1 s2
  have hs2 : MemsWf s2 := .bankFaults (.onlyIf (.onlyIf (.ite (.upd wf) wf) fun _ wf => .upd wf) fun _ wf => .upd wf)
  exact .ite (.fallBack hs2) hs2

theorem MemsWf.lockCharger (wf : MemsWf s) : MemsWf (lockCharger s) := by
  unfold Machine.lockCharger
  split
  · exact wf
  · exact .ite wf (.ite (.upd wf) (.raiseSrc (.upd (.upd (.upd (.upd wf))))))

theorem MemsWf.beginOv (wf : MemsWf s) : MemsWf (beginOv s) := by
  unfold Machine.beginOv
  refine .ite wf ?_
  extract_lets s1 s2
  have hs1 : MemsWf s1 := .upd (.upd wf)
  exact .faults (wake_keeps ..) (.upd (.lockCharger (.ite hs1 (.raiseSrc (.upd (.upd (.upd hs1)))))))

theorem MemsWf.failUngranted (wf : MemsWf s) : MemsWf (failUngranted s) := by
  unfold Machine.failUngranted
  refine .each wf fun _ _ wf => ?_
  split
  · exact .ite (.postDnr wf) wf
  · exact wf

theorem MemsWf.chgBack (wf : MemsWf s) : MemsWf (chgBack s) :=
  .ite (.upd (.upd wf)) (.upd wf)

theorem MemsWf.serveAgain (wf : MemsWf s) : MemsWf (serveAgain s) :=
  .ite (.upd wf) (.work (placeWaiting_work ..) (.upd (.upd wf)))

theorem MemsWf.quiet (wf : MemsWf s) : MemsWf (quiet s) :=
  .work (finishPrograms_work ..) (.work (closeAll_work ..) (.upd wf))

theorem MemsWf.scrubAlarm (wf : MemsWf s) : MemsWf (scrubAlarm s) :=
  .ite (.upd (.upd wf)) wf

theorem MemsWf.memStore {a : Nat} {bs : List Byte} (wf : MemsWf s) : MemsWf (memStore a bs s) :=
  ⟨memWf_mwrite 0 bs _ a wf.1, wf.2⟩

theorem MemsWf.setOwn {a : Nat} {on : Bool} (wf : MemsWf s) : MemsWf (setOwn a on s) :=
  .memStore wf

theorem MemsWf.initRing {p : Nat} (wf : MemsWf s) : MemsWf (initRing p s) :=
  .upto (.updCam wf rfl) fun _ _ wf => .setOwn (.setOwn wf)

theorem MemsWf.writeRcfg {p : Nat} {v : Word} (wf : MemsWf s) : MemsWf (writeRcfg p v s) := by
  unfold Machine.writeRcfg
  extract_lets r0 r1 s1
  have wf1 : MemsWf s1 := .updCam wf rfl
  exact .ite (.ite (.initRing (.updCam wf1 rfl)) (.updCam wf1 rfl)) (.ite (.updCam (.updCam wf1 rfl) rfl) wf1)

theorem MemsWf.writeRdb {p : Nat} {v : Word} (wf : MemsWf s) : MemsWf (writeRdb p v s) :=
  .ite wf (.ite (.updCam wf rfl) (.updCam wf rfl))

theorem MemsWf.writeBits {r : RegId} {i : Nat} {v0 : Word} (wf : MemsWf s) : MemsWf (writeBits r i v0 s) := by
  unfold Machine.writeBits
  extract_lets d old v m new s1
  have hs1 : MemsWf s1 := .ite wf (.upd wf)
  exact .ite hs1 (.upd hs1)

theorem MemsWf.finishMirror {tag : Nat} (wf : MemsWf s) : MemsWf (finishMirror tag s) := by
  unfold Machine.finishMirror
  split
  · exact wf
  · exact .ite (.work (post_work ..) (.upd wf)) (.upd wf)

theorem MemsWf.partnerLost (wf : MemsWf s) : MemsWf (partnerLost s) := by
  unfold Machine.partnerLost
  refine .ite wf ?_
  refine .each (.raiseSrc (.upd (.upd wf))) fun _ _ wf => ?_
  split
  · exact .ite (.finishMirror (.upd wf)) wf
  · exact wf

theorem MemsWf.twinLost (wf : MemsWf s) : MemsWf (twinLost s) :=
  .ite wf (.raiseSrc (.partnerLost (.updHpc wf rfl)))

theorem MemsWf.holdPartner {n : Nat} (wf : MemsWf s) : MemsWf (holdPartner n s) := by
  unfold Machine.holdPartner
  refine .ite wf ?_
  extract_lets s1
  have hs1 : MemsWf s1 := .upd (.updHpc wf rfl)
  exact .ite hs1 (.twinLost hs1)

theorem MemsWf.clearLatch {i : Nat} (wf : MemsWf s) : MemsWf (clearLatch i s) :=
  .ite wf (.upd wf)

theorem MemsWf.clearLatches {w : Nat} {mask : Word} (wf : MemsWf s) : MemsWf (clearLatches w mask s) :=
  .upto wf fun _ _ wf => .ite (.clearLatch wf) wf

theorem MemsWf.releasePin (wf : MemsWf s) : MemsWf (releasePin s) :=
  .ite wf (.upd (.upd (.upd wf)))

theorem MemsWf.stopInj (wf : MemsWf s) : MemsWf (stopInj s) := by
  unfold Machine.stopInj
  split
  · exact wf
  · exact .faults (takeRails_keeps ..) (.upd wf)

theorem MemsWf.writeInj {v : Word} (wf : MemsWf s) : MemsWf (writeInj v s) := by
  unfold Machine.writeInj
  refine .ite wf ?_
  refine .ite (.ite wf (.ite (.upd wf) (.upd (.stopInj wf)))) ?_
  refine .ite ?_ (.upd wf)
  extract_lets rails s1
  have hs1 : MemsWf s1 := .upd (.upd (.upd wf))
  exact .ite (.afterFaults (.faults (takeRails_keeps ..) hs1)) hs1

theorem MemsWf.dstStore {sp a : Nat} {bs : List Byte} (wf : MemsWf s) : MemsWf (dstStore sp a bs s) := by
  obtain ⟨hcam, hwin, hwel, hdram⟩ := wf
  exact .ite ⟨hcam, hwin, memWf_mwrite 0 bs _ a hwel, hdram⟩
    (.ite ⟨hcam, hwin, hwel, memWf_mwrite 0 bs _ a hdram⟩ (.memStore ⟨hcam, hwin, hwel, hdram⟩))

theorem MemsWf.losePast {p : Pump} (wf : MemsWf s) : MemsWf (losePast p s) :=
  .upd (.dstStore wf)

theorem MemsWf.issuePump {k : Nat} (wf : MemsWf s) : MemsWf (issuePump k s) :=
  .ite wf (.updPmp wf rfl)

theorem MemsWf.pumpSlots (wf : MemsWf s) : MemsWf (pumpSlots s) :=
  .each wf fun _ _ wf1 => .upto wf1 fun _ _ wf => .ite (.issuePump wf) wf

theorem MemsWf.ringReply {p : Nat} {ws : List Word} {noIrq : Bool} (wf : MemsWf s) : MemsWf (ringReply p ws noIrq s) := by
  unfold Machine.ringReply
  refine .ite wf ?_
  extract_lets s1 due s2 s3
  have hs2 : MemsWf s2 := .updCam (.memStore wf) rfl
  exact .ite (.upd (.upd hs2)) (.upd hs2)

theorem MemsWf.replyTo {r : CamReq} {status : Nat} {detail : List Word} {payload : List Byte} {final : Bool} (wf : MemsWf s) :
    MemsWf (replyTo r status detail payload final s) := by
  unfold Machine.replyTo
  refine .ite wf ?_
  refine .ite (.ringReply wf) ?_
  split
  · split
    · exact .ite wf (.postDnr (.upd (.upd wf)))
    · exact wf
  · exact .upd (.upd wf)

theorem MemsWf.openGate {h : Nat} (wf : MemsWf s) : MemsWf (openGate h s) :=
  .each (.updCam wf rfl) fun _ _ wf => .replyTo wf

theorem MemsWf.returnSlots {first n : Nat} {written : Option Nat} (wf : MemsWf s) : MemsWf (returnSlots first n written s) :=
  .ite wf (.upto wf fun _ _ wf => .updCam wf rfl)

theorem MemsWf.fillSlots {first : Nat} {data : List Byte} (wf : MemsWf s) : MemsWf (fillSlots first data s) :=
  .ite wf (.memStore wf)

theorem MemsWf.completeOp {h status : Nat} {detail : List Word} {data : List Byte} {o : LongOp} (wf : MemsWf s) :
    MemsWf (completeOp h status detail data o s) := by
  unfold Machine.completeOp
  extract_lets s1 o1 s2
  have hs1 : MemsWf s1 := by
    unfold s1
    split
    · exact .returnSlots (.fillSlots wf)
    · exact wf
  have hs2 : MemsWf s2 := .updCam hs1 rfl
  exact .ite (.replyTo hs2) hs2

theorem MemsWf.endOpN {n h st : Nat} {d : List Word} {data : List Byte} (wf : MemsWf s) : MemsWf (endOpN n h st d data s) := by
  induction n generalizing h st d data s with
  | zero => exact wf
  | succ n ih =>
    unfold Machine.endOpN
    split
    · exact wf
    · refine .ite wf (.ite ?_ wf)
      refine .each (.openGate (.completeOp wf)) fun _ _ wf1 => ?_
      split
      · exact ih wf1
      · exact wf1

theorem MemsWf.endOp {h status : Nat} {detail : List Word} {data : List Byte} (wf : MemsWf s) : MemsWf (endOp h status detail data s) :=
  .endOpN wf

theorem MemsWf.endOpt {h : Option Nat} {status : Nat} {detail : List Word} (wf : MemsWf s) : MemsWf (endOpt h status detail s) := by
  unfold Machine.endOpt
  split
  · exact .endOp wf
  · exact wf

theorem MemsWf.endPump {k status : Nat} (wf : MemsWf s) : MemsWf (endPump k status s) :=
  .updPmp (.endOpt wf) rfl

theorem MemsWf.abortNow {k : Nat} (wf : MemsWf s) : MemsWf (abortNow k s) :=
  .pumpSlots (.endPump (.upd (.losePast (.updPmp wf rfl))))

theorem MemsWf.haltNow {k err : Nat} (wf : MemsWf s) : MemsWf (haltNow k err s) :=
  .pumpSlots (.endPump (.raiseSrc (.upd (.losePast (.updPmp wf rfl)))))

theorem MemsWf.endStop {k : Nat} (wf : MemsWf s) : MemsWf (endStop k s) := by
  unfold Machine.endStop
  dsimp only
  split
  · exact .ite wf (.ite (.abortNow wf) (.haltNow wf))
  · exact wf

theorem MemsWf.abortPump {k : Nat} (wf : MemsWf s) : MemsWf (abortPump k s) :=
  .ite wf (.endStop (.pumpSlots (.updPmp wf rfl)))

theorem MemsWf.startRun {k : Nat} {ctl : Word} {op : Option Nat} (wf : MemsWf s) : MemsWf (startRun k ctl op s) := by
  unfold Machine.startRun
  refine .ite wf ?_
  dsimp only
  split
  · exact .upd (.updPmp wf rfl)
  · exact .pumpSlots (.updPmp wf rfl)

theorem MemsWf.writePump {k : Nat} {r : RegId} {v : Word} (wf : MemsWf s) : MemsWf (writePump k r v s) := by
  unfold Machine.writePump
  refine .ite wf ?_
  refine .ite (.ite (.abortPump wf) wf) ?_
  split
  · exact .updPmp wf rfl
  · exact .updPmp wf rfl
  · exact .updPmp wf rfl
  · exact .updPmp wf rfl
  · exact .ite (.startRun wf) (.updPmp wf rfl)
  · exact wf

theorem MemsWf.writeReg {r : RegId} {i : Nat} {v : Word} (wf : MemsWf s) : MemsWf (writeReg r i v s) := by
  unfold Machine.writeReg
  split
  · exact .writeRcfg wf
  · exact .writeRdb wf
  · exact .updCam wf rfl
  · extract_lets s1
    have hs1 : MemsWf s1 := .writeBits wf
    exact .ite (.holdPartner hs1) hs1
  · exact .clearLatches wf
  · exact .ite (.releasePin wf) wf
  · exact .writeInj wf
  · exact .ite wf (.upd (.upd wf))
  · exact .writePump wf
  · exact .writePump wf
  · exact .writePump wf
  · exact .writePump wf
  · exact .writePump wf
  · exact .ite wf (.upd wf)
  · exact .ite wf (.upd wf)
  · exact wf
  · exact .writeBits wf

theorem MemsWf.writeAt {a : Nat} {v : Word} (wf : MemsWf s) : MemsWf (writeAt a v s) := by
  unfold Machine.writeAt
  split
  · exact wf
  · exact .writeReg wf

theorem MemsWf.doWrite {addr size value : Nat} (wf : MemsWf s) : MemsWf (doWrite addr size value s) := by
  unfold Machine.doWrite
  extract_lets s1
  have hs1 : MemsWf s1 := .writeAt wf
  exact .ite (.writeAt hs1) hs1

theorem MemsWf.readEffect {r : RegId} {i : Nat} (wf : MemsWf s) : MemsWf (readEffect r i s) := by
  unfold Machine.readEffect
  split
  · exact .upd wf
  · exact .upd wf
  · exact .upd wf
  · exact .updWel wf rfl
  · exact .upd wf
  · exact .upd wf
  · exact .upd wf
  · exact .upd wf
  · exact .upd wf
  · exact .upd wf
  · exact .upd wf
  · exact wf

theorem MemsWf.readAt {a : Nat} (wf : MemsWf s) : MemsWf (readAt a s) := by
  unfold Machine.readAt
  split
  · exact wf
  · exact .readEffect wf

theorem MemsWf.doRead {addr size : Nat} (wf : MemsWf s) : MemsWf (doRead addr size s) :=
  .ite (.readAt (.upd wf)) (.ite (.upd (.readAt (.readAt wf))) (.upd wf))

theorem MemsWf.doHeld {x : HeldAcc} (wf : MemsWf s) : MemsWf (doHeld x s) :=
  .ite (.doWrite wf) (.doRead wf)

theorem MemsWf.offer {x : HeldAcc} (wf : MemsWf s) : MemsWf (offer x s) :=
  .ite (.doHeld wf) (.updHpc wf rfl)

theorem MemsWf.deliver (wf : MemsWf s) : MemsWf (deliver s) :=
  .each (.updHpc wf rfl) fun _ _ wf => .offer wf

theorem MemsWf.askRetrain {r : Retrain} (wf : MemsWf s) : MemsWf (askRetrain r s) :=
  .ite wf (.upd wf)

theorem MemsWf.wakeTrain (wf : MemsWf s) : MemsWf (wakeTrain s) :=
  .upto wf fun _ _ wf => .ite (.askRetrain wf) wf

theorem MemsWf.sigFailed {i : Nat} (wf : MemsWf s) : MemsWf (sigFailed i s) :=
  .raiseSrc (.upd (.upd (.upd wf)))

theorem MemsWf.dataLoss {d n member step : Nat} (wf : MemsWf s) : MemsWf (dataLoss d n member step s) := by
  unfold Machine.dataLoss
  split
  · exact wf
  · extract_lets late accs s1
    have hs1 : MemsWf s1 := .upd (.upd wf)
    exact .ite (.work (parityLoss_work ..) hs1) (.work (closePartial_work ..) hs1)

theorem MemsWf.failProgram {die block step : Nat} (wf : MemsWf s) : MemsWf (failProgram die block step s) := by
  unfold Machine.failProgram
  extract_lets b d l s1 s2 s3
  have hs2 : MemsWf s2 := .upd (.work (withdraw_work ..) (.work (blkDelta_work ..) (.upd wf)))
  have hs3 : MemsWf s3 := by
    unfold s3
    split
    · exact hs2
    · split
      · exact .ite (.each (.work (parityLoss_work ..) hs2) fun _ _ wf => .work (moveOff_work ..) wf) (.upd hs2)
      · exact .ite (.ite (.work (parityLoss_work ..) hs2) (.dataLoss hs2)) (.upd hs2)
  exact .checkSpare (.work (gcLevels_work ..) (.work (placeAgain_work ..) hs3))

theorem MemsWf.sanErased {die block : Nat} {ok : Bool} (wf : MemsWf s) : MemsWf (sanErased die block ok s) := by
  unfold Machine.sanErased
  split
  · exact wf
  · exact .ite (.work (sanErase_work ..) (.work (sanTotal_work ..) (.upd wf))) (.ite (.upd wf) wf)

theorem MemsWf.retireErased {die block : Nat} (wf : MemsWf s) : MemsWf (retireErased die block s) := by
  unfold Machine.retireErased
  extract_lets s1 s2
  have wf2 : MemsWf s2 := .upd (.work (blkDelta_work ..) (.upd wf))
  exact .checkSpare (.work (gcLevels_work ..) (.upd (.sanErased (.upd wf2))))

theorem MemsWf.endProbe {l : Ladder} {d0 : Word} {bits synd : Nat} (wf : MemsWf s) : MemsWf (endProbe l d0 bits synd s) := by
  unfold Machine.endProbe
  refine .each wf fun _ _ wf => ?_
  split
  · exact .endOp wf
  · exact wf

theorem MemsWf.goStep {l : Ladder} {step : Nat} (wf : MemsWf s) : MemsWf (goStep l step s) :=
  .ite (.queueSenses wf) (.queueSenses (.ite (.upd (.upd wf)) (.upd wf)))

theorem MemsWf.stepFailed {l : Ladder} (wf : MemsWf s) : MemsWf (stepFailed l s) :=
  .ite (.ite (.queueSenses (.upd wf)) (.ite (.endProbe (.upd wf)) (.goStep wf))) (.ite (.work (enterStep5_work ..) wf) (.ite (.ite (.goStep wf)
      (.goStep wf)) (.ite (.ite (.queueSenses (.upd wf)) (.goStep wf)) (.ite (.goStep wf) (.work (enterStep5_work ..) wf)))))

theorem MemsWf.timedOut {die : Nat} {o : Dop} (wf : MemsWf s) : MemsWf (timedOut die o s) := by
  unfold Machine.timedOut
  split
  · exact .failProgram wf
  · exact .retireErased wf
  · refine .each wf fun _ _ wf => ?_
    extract_lets s'
    have hs' : MemsWf s' := by
      unfold s'
      split
      · exact wf
      · exact .work (toLadder_work ..) wf
    split
    · exact .stepFailed hs'
    · exact hs'
  · exact wf
  · exact wf

theorem MemsWf.groupOp {die : Nat} {o : Dop} (wf : MemsWf s) : MemsWf (groupOp die o s) :=
  .ite wf (.ite (.ite (.upd (.upd (.upd (.upd (.upd wf))))) wf) (.timedOut (.work (freeEntry_work ..) (.endRefs wf))))

theorem MemsWf.groupDie {die : Nat} (wf : MemsWf s) : MemsWf (groupDie die s) :=
  .ite wf (.upd (.each wf fun _ _ wf => .groupOp wf))

theorem MemsWf.resetFchGroup {g : Nat} (wf : MemsWf s) : MemsWf (resetFchGroup g s) := by
  unfold Machine.resetFchGroup
  refine .each wf fun _ _ wf1 => ?_
  extract_lets s1
  have hs1 : MemsWf s1 := .upto wf1 fun _ _ wf => .groupDie wf
  exact .ite (.askRetrain hs1) hs1

theorem MemsWf.resetSreGroup {g : Nat} (wf : MemsWf s) : MemsWf (resetSreGroup g s) :=
  .each wf fun _ _ wf => .ite (.queueSenses (.upd wf)) wf

theorem MemsWf.endJob {j : UpdJob} {sc : Sc} {status : Nat} {detail : State → List Word} (wf : MemsWf s) :
    MemsWf (endJob j sc status detail s) := by
  unfold Machine.endJob
  extract_lets s1 s2
  have hs1 : MemsWf s1 := .upd (.upd wf)
  have hs2 : MemsWf s2 := by
    unfold s2
    split
    · exact .work (post_work ..) hs1
    · exact hs1
  exact .endOpt hs2

theorem MemsWf.resetWhs (wf : MemsWf s) : MemsWf (resetWhs s) := by
  unfold Machine.resetWhs
  extract_lets s1
  have hs1 : MemsWf s1 := .endErasePulse (.ite (.upd (.upd (.upd wf))) wf)
  split
  · exact hs1
  · exact .endJob (.upd (.upd (.upd hs1)))

theorem MemsWf.resetSeqIsland {isl : Nat} (wf : MemsWf s) : MemsWf (resetSeqIsland isl s) := by
  unfold Machine.resetSeqIsland
  extract_lets mine s0 s1
  have hs1 : MemsWf s1 := .each (.upd wf) fun _ _ wf => .faults (reportSrc_keeps ..) wf
  exact .ite hs1 (.each hs1 fun _ _ wf => .ite (.restartAt2 wf) wf)

theorem MemsWf.islandEffect {isl : Nat} (wf : MemsWf s) : MemsWf (islandEffect isl s) :=
  .ite (.resetFchGroup wf) (.ite (.resetSreGroup wf) (.ite (.upto wf fun _ _ wf => .ite (.haltNow wf) wf) (.ite (.upd wf) (.ite (.resetWhs wf)
      (.ite (.upd (.upd (.updCam wf rfl))) (.ite (.resetSeqIsland wf) (.ite (.bankFail wf) wf)))))))

theorem MemsWf.loseWells {bank : Nat} (wf : MemsWf s) : MemsWf (loseWells bank s) :=
  .each (.each wf fun _ _ wf => .updWel wf rfl) fun _ _ wf => .islandEffect wf

theorem MemsWf.restoreIsland {i : Nat} (wf : MemsWf s) : MemsWf (restoreIsland i s) :=
  .ite (.updCam wf rfl) (.ite (.upd wf) (.ite (.upd wf) (.ite (.upd wf) (.ite (.each wf fun _ _ wf => .ite (.askRetrain wf) wf)
    (.ite (.upd wf) (.ite (.loseWells wf) (.ite (.updHpc wf rfl) (.ite (.upd wf) (.ite (.islandEffect wf) wf)))))))))

theorem MemsWf.standpipeWake {rtcDelta : Nat} {mismatch : List Nat} (wf : MemsWf s) : MemsWf (standpipeWake rtcDelta mismatch s) := by
  unfold Machine.standpipeWake
  extract_lets s1 s2 bad s3
  have wf2 : MemsWf s2 := .upd (.setIslands (.rebuildTb (.upd wf)))
  have wf3 : MemsWf s3 := .wakeTrain (.each wf2 fun _ _ wf1 => .sigFailed (.restoreIsland wf1))
  exact .serveAgain (.upd (.enterMode wf3))

theorem MemsWf.portsOff (wf : MemsWf s) : MemsWf (portsOff s) := by
  unfold Machine.portsOff
  extract_lets s1
  have hs1 : MemsWf s1 := .updHpc wf rfl
  split
  · exact hs1
  · exact .upd (.updHpc hs1 rfl)

theorem MemsWf.endAcc {x : HeldAcc} (wf : MemsWf s) : MemsWf (endAcc x s) :=
  .ite wf (.upd wf)

theorem MemsWf.startOp {die : Nat} {o : Dop} {cost : Nat} (wf : MemsWf s) : MemsWf (startOp die o cost s) :=
  .ite (.upd (.upd wf)) (.upd (.upd wf))

theorem MemsWf.dropReads {k : Nat} (wf : MemsWf s) : MemsWf (dropReads k s) :=
  .each (.upd (.each (.upd (.each wf fun _ _ wf1 => .each wf1 fun _ _ wf => .ite (.endRefs
      (.upd wf)) wf)) fun _ _ wf => .drainQ wf)) fun _ _ wf => .upd wf

theorem MemsWf.returnResv {tag : Nat} (wf : MemsWf s) : MemsWf (returnResv tag s) := by
  unfold Machine.returnResv
  split
  · exact wf
  · dsimp only
    split
    · exact .upd wf
    · exact .upd (.upd wf)

theorem MemsWf.closeDue (wf : MemsWf s) : MemsWf (closeDue s) :=
  .ite (.work (closeAll_work ..) wf) wf

theorem MemsWf.afterFree (wf : MemsWf s) : MemsWf (afterFree s) :=
  .closeDue (.upd (.upd wf))

theorem MemsWf.askPieces {k : Nat} {t : Tag} {n i : Nat} {l : List Nat} (wf : MemsWf s) : MemsWf (askPieces k t n i l s) := by
  induction n generalizing i l s with
  | zero => exact wf
  | succ n ih =>
    cases l with
    | nil => exact wf
    | cons p l => exact .ite (ih wf) (.ite wf (ih wf))

theorem MemsWf.lookahead {k : Nat} (wf : MemsWf s) : MemsWf (lookahead k s) := by
  unfold Machine.lookahead
  split
  · exact wf
  · exact .ite wf (.askPieces wf)

theorem MemsWf.sendFaults {l n : Nat} (wf : MemsWf s) : MemsWf (sendFaults l n s) := by
  induction n generalizing s with
  | zero => exact wf
  | succ n ih =>
    refine .ite wf ?_
    split
    · exact wf
    · split
      · exact wf
      · exact ih wf

theorem MemsWf.nextXlat {l : Nat} (wf : MemsWf s) : MemsWf (nextXlat l s) := by
  unfold Machine.nextXlat
  refine .each (.sendFaults wf) fun _ _ wf => ?_
  split
  · exact .ite (.lookahead wf) wf
  · exact wf

theorem MemsWf.endCmd {k : Nat} (wf : MemsWf s) : MemsWf (endCmd k s) := by
  unfold Machine.endCmd
  split
  · exact wf
  · exact .afterFree (.nextXlat (.upd (.updCam (.upd (.upd (.dropReads (.returnResv wf)))) rfl)))

theorem MemsWf.endCmds {p : Tag → Bool} (wf : MemsWf s) : MemsWf (endCmds p s) := by
  unfold Machine.endCmds
  refine .each wf fun _ _ wf => ?_
  split
  · exact .ite (.endCmd wf) wf
  · exact wf

theorem MemsWf.resetCtrl {c : Nat} (wf : MemsWf s) : MemsWf (resetCtrl c s) := by
  unfold Machine.resetCtrl
  extract_lets s1 clear s2
  have hs1 : MemsWf s1 := .endCmds wf
  exact .upd (.upd (.ite (.endSelfTest hs1) hs1))

theorem MemsWf.checkShut {last : Option Nat} (wf : MemsWf s) : MemsWf (checkShut last s) :=
  .ite wf (.closeDue (.upd wf))

theorem MemsWf.resetFns {cs : List Nat} {sticky : Bool} (wf : MemsWf s) : MemsWf (resetFns cs sticky s) := by
  unfold Machine.resetFns
  extract_lets s1 _ s2 s3 s4 s5
  have wf2 : MemsWf s2 := .updHpc (.each wf fun _ _ wf => .resetCtrl wf) rfl
  have wf3 : MemsWf s3 := .upd (.upd wf2)
  have wf4 : MemsWf s4 := .ite (.updCam wf3 rfl) wf3
  have wf5 : MemsWf s5 := .ite (.updHpc wf4 rfl) wf4
  exact .checkShut (.rescale wf5)

theorem MemsWf.resetLink {n : Nat} {perst : Bool} {st bits : Nat} (wf : MemsWf s) : MemsWf (resetLink n perst st bits s) :=
  .upd (.updHpc (.resetFns wf) rfl)

theorem MemsWf.atsOff {c : Nat} (wf : MemsWf s) : MemsWf (atsOff c s) := by
  unfold Machine.atsOff
  refine .each (.upd wf) fun _ _ wf => ?_
  split
  · exact .ite (.upd (.upd wf)) wf
  · exact wf

theorem MemsWf.failCtx {k code bit src : Nat} {sc : Sc} {x : Ctx} (wf : MemsWf s) : MemsWf (failCtx k code bit src sc x s) := by
  unfold Machine.failCtx
  split
  · exact wf
  · exact .nextXlat (.upd (.work (post_work ..) (.returnResv (.upd (.upd (.raiseSrc (.upd wf)))))))

theorem MemsWf.failPg {k : Nat} (wf : MemsWf s) : MemsWf (failPg k s) := by
  unfold Machine.failPg
  split
  · exact .failCtx wf
  · exact wf

theorem MemsWf.stopPri {c : Nat} (wf : MemsWf s) : MemsWf (stopPri c s) := by
  unfold Machine.stopPri
  refine .each (.updHpc wf rfl) fun _ _ wf => ?_
  split
  · exact .ite (.failPg wf) wf
  · exact wf

theorem MemsWf.configure {c : Nat} {op : ConfigOp} (wf : MemsWf s) : MemsWf (configure c op s) := by
  unfold Machine.configure
  split
  · exact wf
  · refine .ite wf ?_
    extract_lets vfs s1
    have hs1 : MemsWf s1 := .updHpc wf rfl
    exact .ite (.each hs1 fun _ _ wf => .ite (.work (makeReady_work ..) wf) wf) (.resetFns hs1)
  · extract_lets s1
    have hs1 : MemsWf s1 := .updHpc wf rfl
    exact .ite hs1 (.atsOff (.upd hs1))
  · exact .ite (.updHpc wf rfl) (.stopPri (.updHpc wf rfl))
  · exact .updHpc wf rfl
  · exact .ite (.updHpc wf rfl) wf
  · exact .ite (.updHpc wf rfl) wf
  · exact .ite wf (.updHpc wf rfl)
  · exact .ite wf (.updHpc wf rfl)
  · exact .ite wf (.upd (.updHpc wf rfl))
  · exact .ite (.updHpc wf rfl) wf
  · exact .updHpc wf rfl
  · exact .updHpc wf rfl
  · split
    · exact .updHpc wf rfl
    · exact wf
  · split
    · exact .updHpc wf rfl
    · exact wf
  · exact .updHpc wf rfl
  · exact .updHpc wf rfl
  · exact .ite (.updHpc wf rfl) wf
  · exact .ite (.updHpc wf rfl) wf
  · exact .updHpc wf rfl
  · exact .updHpc wf rfl

theorem MemsWf.loseData {tag : Option Nat} (wf : MemsWf s) : MemsWf (loseData tag s) := by
  unfold Machine.loseData
  split
  · exact wf
  · split
    · exact wf
    · exact .ite (.work (post_work ..) (.returnResv wf)) wf

theorem MemsWf.askAgain {c : Nat} (wf : MemsWf s) : MemsWf (askAgain c s) := by
  unfold Machine.askAgain
  refine .each wf fun _ _ wf => ?_
  split
  · exact .ite (.lookahead (.upd wf)) wf
  · exact wf

theorem MemsWf.dueActivation (wf : MemsWf s) : MemsWf (dueActivation s) := by
  unfold Machine.dueActivation
  refine .ite wf ?_
  split
  · exact wf
  · exact .upd wf
  · exact .upd wf

theorem MemsWf.subsysReset (wf : MemsWf s) : MemsWf (subsysReset s) :=
  .checkShut (.rescale (.upto (.each wf fun _ _ wf => .upd (.resetCtrl wf)) fun _ _ wf => .ite (.updHpc wf rfl) wf))

theorem MemsWf.badDoorbell {c : Nat} {a : Aen} (wf : MemsWf s) : MemsWf (badDoorbell c a s) :=
  .faults (sendAen_keeps ..) (.raiseSrc (.upd (.faults (wake_keeps ..) wf)))

theorem MemsWf.makeHot {k : Nat} (wf : MemsWf s) : MemsWf (makeHot k s) := by
  unfold Machine.makeHot
  dsimp only
  split
  · exact wf
  · refine .ite (.upd (.upd wf)) ?_
    refine .ite (.upd (.upd wf)) ?_
    split
    · exact .upd (.upd (.upd wf))
    · exact wf

theorem MemsWf.serveCtrl {c : Nat} (wf : MemsWf s) : MemsWf (serveCtrl c s) :=
  .upd (.ite wf (.qosServe wf))

theorem MemsWf.takeSeq (wf : MemsWf s) : MemsWf (takeSeq s).2 :=
  .upd (.ite (.upd wf) wf)

theorem MemsWf.assign {c qid : Nat} {e : Entry} {via : Option Bus} (wf : MemsWf s) : MemsWf (assign c qid e via s).2 := by
  unfold Machine.assign
  have wf1 : MemsWf (Machine.takeSeq s).2 := .takeSeq wf
  generalize Machine.takeSeq s = x at wf1
  obtain ⟨seq, s1⟩ := x
  dsimp -zeta only at wf1 ⊢
  extract_lets k t s2 n s3 s4
  have hs3 : MemsWf s3 := .upd (.upd wf1)
  have hs4 : MemsWf s4 := .ite (.raiseSrc (.upd hs3)) hs3
  split
  · exact .work (outHit_work ..) (.postDnr (.upd hs4))
  · exact hs4

theorem MemsWf.fetchOne {c qid : Nat} {e : Entry} (wf : MemsWf s) : MemsWf (fetchOne c qid e s).2 :=
  .assign (.upd wf)

theorem MemsWf.takeOvl {k : Nat} {t : Tag} (wf : MemsWf s) : MemsWf (takeOvl k t s) :=
  .ite (.upd (.upd wf)) (.upd wf)

theorem MemsWf.enterOvl {k : Nat} (wf : MemsWf s) : MemsWf (enterOvl k s) := by
  unfold Machine.enterOvl
  split
  · exact wf
  · exact .ite wf (.ite (.takeOvl wf) (.ite wf (.upd (.upd wf))))

theorem MemsWf.tiePair {a b : Nat} (wf : MemsWf s) : MemsWf (tiePair a b s) := by
  unfold Machine.tiePair
  split
  · exact .ite (.work (post_work ..) (.upd (.work (post_work ..) (.upd wf)))) (.ite (.work (post_work ..) (.upd wf)) (.ite (.enterOvl wf)
      (.enterOvl (.upd (.upd wf)))))
  · exact wf

theorem MemsWf.alone {c qid k : Nat} {e : Entry} (wf : MemsWf s) : MemsWf (alone c qid k e s) :=
  .ite (.upd wf) (.ite (.work (postEarly_work ..) wf) (.enterOvl wf))

theorem MemsWf.pairUp {c qid k : Nat} {e : Entry} {half : Option Nat} (wf : MemsWf s) : MemsWf (pairUp c qid k e half s) := by
  unfold Machine.pairUp
  split
  · exact .ite (.work (outHit_work ..) (.tiePair (.upd wf))) (.alone (.work (postEarly_work ..) (.upd wf)))
  · exact .alone wf

theorem MemsWf.fetchList {c qid n present : Nat} {l : List Entry} (wf : MemsWf s) : MemsWf (fetchList c qid n present l s) := by
  induction n generalizing present l s with
  | zero => exact wf
  | succ n ih =>
    cases l with
    | nil => exact wf
    | cons e l => exact .ite wf (.ite wf (ih (.pairUp (.fetchOne wf))))

theorem MemsWf.fetchFrom {c qid : Nat} {es : List Entry} (wf : MemsWf s) : MemsWf (fetchFrom c qid es s) := by
  unfold Machine.fetchFrom
  split
  · exact wf
  · dsimp only
    have hs1 : MemsWf (if qid ≠ 0 ∧ !(‹Sq› : Sq).hot then evt .nvqEvt 1 s else s) := .ite (.upd wf) wf
    exact .ite (.makeHot (.upd (.fetchList (.ite (.serveCtrl hs1) hs1)))) (.upd (.fetchList (.ite (.serveCtrl hs1) hs1)))

theorem MemsWf.stopQueue {c qid : Nat} {sc : Sc} (wf : MemsWf s) : MemsWf (stopQueue c qid sc s) :=
  .raiseSrc (.upd (.upd (.faults (sendAen_keeps ..) (.upd (.upd wf)))))

theorem MemsWf.startDma {k : Nat} (wf : MemsWf s) : MemsWf (startDma k s) :=
  .lookahead (.upd wf)

theorem MemsWf.run1 {k : Nat} (wf : MemsWf s) : MemsWf (run1 k s) := by
  unfold Machine.run1
  split
  · exact wf
  · exact .startDma (.work (outHit_work ..) (.ite (.debit (.upd wf)) (.upd wf)))

theorem MemsWf.startTunnels (wf : MemsWf s) : MemsWf (startTunnels s) :=
  .each wf fun _ _ wf => .ite (.assign (.upd wf)) wf

theorem MemsWf.freeTag {k : Nat} (wf : MemsWf s) : MemsWf (freeTag k s) := by
  unfold Machine.freeTag
  extract_lets s1 s2
  have hs1 : MemsWf s1 := .upd (.upd wf)
  have hs2 : MemsWf s2 := by
    unfold s2
    split
    · exact .ite hs1 (.upd hs1)
    · exact hs1
  exact .afterFree hs2

theorem MemsWf.raiseMsix {c qid iv : Nat} (wf : MemsWf s) : MemsWf (raiseMsix c qid iv s) :=
  .ite (.upd wf) (.ite (.upd (.upd wf)) (.upd wf))

theorem MemsWf.chargeOps {tnt : Option Nat} {n : Nat} (wf : MemsWf s) : MemsWf (chargeOps tnt n s) := by
  unfold Machine.chargeOps
  split
  · exact wf
  · exact .traceAdd (.upd wf)

theorem MemsWf.untrkSusp {t : Tag} (wf : MemsWf s) : MemsWf (untrkSusp t s) :=
  .ite (.raiseSrc (.upd wf)) wf

theorem MemsWf.txFault {k : Nat} {m : Miss} (wf : MemsWf s) : MemsWf (txFault k m s) := by
  unfold Machine.txFault
  split
  · exact wf
  · exact .nextXlat (.untrkSusp (.upd (.upd (.upd wf))))

theorem MemsWf.sendRun {segs : List (Nat × Nat)} {mps ctrl : Nat} {ep : Bool} {n p q : Nat} (wf : MemsWf s) :
    MemsWf (sendRun segs mps ctrl ep n p q s) := by
  induction n generalizing p q s with
  | zero => exact wf
  | succ n ih =>
    refine .ite wf ?_
    split
    · exact wf
    · exact ih wf

theorem MemsWf.sendAdmin {t : Tag} {p q : Nat} (wf : MemsWf s) : MemsWf (sendAdmin t p q s) :=
  .sendRun wf

theorem MemsWf.admin {k op : Nat} {eff : Tag → State → State} (heff : ∀ (a0 : Tag) (a1 : State), MemsWf a1 → MemsWf (eff a0 a1)) (wf : MemsWf s) :
    MemsWf (admin k op eff s) := by
  unfold Machine.admin
  split
  · exact wf
  · refine .ite wf ?_
    extract_lets r sends
    have hr : MemsWf r := heff _ _ wf
    refine .ite hr ?_
    split
    · exact .txFault (.onlyIf wf fun _ wf => .sendAdmin wf)
    · exact .ite (heff _ _ (.sendAdmin wf)) hr

theorem MemsWf.readCtrlCap {upto : Nat} (wf : MemsWf s) : MemsWf (readCtrlCap upto s) :=
  .ite wf (.upd wf)

theorem MemsWf.answer {k what : Nat} {vals : List Nat} (wf : MemsWf s) : MemsWf (answer k what vals s) :=
  .work (post_work ..) (.upd wf)

theorem MemsWf.relayout {d : Nat} (wf : MemsWf s) : MemsWf (relayout d s) := by
  unfold Machine.relayout
  refine .ite wf ?_
  extract_lets s1 mine s2 s3 s4 s5
  have hs5 : MemsWf s5 := .upd (.upd (.each (.upd (.upd (.each wf fun _ _ wf => .ite (.upd wf) wf))) fun _ _ wf => .ite (.work
      (doubtBlk_work ..) wf) wf))
  exact .ite hs5 (.mediaChange (.work (gcLevels_work ..) (.upd hs5)))

theorem MemsWf.afterAlloc (wf : MemsWf s) : MemsWf (afterAlloc s) :=
  .checkSpare (.upto wf fun _ _ wf => .relayout wf)

theorem MemsWf.createNs {tag nsze ncap fmt : Nat} {t : Tag} (wf : MemsWf s) : MemsWf (createNs tag nsze ncap fmt t s) := by
  unfold Machine.createNs
  dsimp only
  split
  · exact .work (post_work ..) wf
  · refine .ite (.work (post_work ..) wf) ?_
    refine .ite (.work (post_work ..) wf) ?_
    refine .ite (.work (post_work ..) wf) ?_
    split
    · exact .work (post_work ..) wf
    · exact .work (post_work ..) (.afterAlloc (.upd (.upd (.upd wf))))

theorem MemsWf.tellChanged {ns : Nat} {cs : List Nat} (wf : MemsWf s) : MemsWf (tellChanged ns cs s) :=
  .each wf fun _ _ wf => .faults (sendAen_keeps ..) (.upd wf)

theorem MemsWf.deleteNs {ns : Nat} (wf : MemsWf s) : MemsWf (deleteNs ns s) := by
  unfold Machine.deleteNs
  split
  · exact wf
  · extract_lets s1 s2 s3 s4 s5
    have hs3 : MemsWf s3 := .upd (.upd (.upd (.upd (.upd wf))))
    have hs4 : MemsWf s4 := by
      unfold s4
      split
      · exact .endOpt hs3
      · exact hs3
    exact .tellChanged (.rescale (.work (appendDelta_work ..) (.upd hs4)))

theorem MemsWf.prohibit {k : Nat} {t : Tag} {why : Nat} (wf : MemsWf s) : MemsWf (prohibit k t why s) :=
  .postDnr (.upd (.upd wf))

theorem MemsWf.nextPulse (wf : MemsWf s) : MemsWf (nextPulse s) := by
  unfold Machine.nextPulse
  split
  · exact wf
  · refine .ite wf ?_
    refine .ite (.ite wf (.upd (.upd (.upd (.upd wf))))) ?_
    refine .ite ?_ wf
    split <;> exact .upd wf

theorem MemsWf.startJob {j : UpdJob} {pages : Nat} (wf : MemsWf s) : MemsWf (startJob j pages s) :=
  .nextPulse (.upd (.upd wf))

theorem MemsWf.commit {slot ca : Nat} {img : Image} {j : UpdJob} (wf : MemsWf s) : MemsWf (commit slot ca img j s) := by
  unfold Machine.commit
  refine .ite ?_ (.ite (.endJob (.upd wf)) (.upd wf))
  dsimp only
  split
  · exact .upd (.endJob wf)
  · exact .startJob (.upd wf)

theorem MemsWf.answerReq {r : CamReq} {status : Nat} {detail : List Word} {payload : List Byte} (wf : MemsWf s) :
    MemsWf (answerReq r status detail payload s) := by
  unfold Machine.answerReq
  split
  · exact .replyTo wf
  · exact .updCam wf rfl

theorem MemsWf.endSide (wf : MemsWf s) : MemsWf (endSide s) :=
  .each (.updCam wf rfl) fun _ _ wf => .answerReq wf

theorem MemsWf.miAct {op : MiOp} (wf : MemsWf s) : MemsWf (miAct op s).1 := by
  unfold Machine.miAct
  split
  · split
    · exact wf
    · split
      · exact wf
      · split
        · exact wf
        · split
          · exact wf
          · split <;> exact wf
  · exact wf
  · split
    · exact wf
    · split <;> exact wf
  · split
    · exact wf
    · split <;> exact wf
  · split
    · exact .upd wf
    · split <;> exact wf
  · split <;> exact wf
  · exact wf
  · exact .ite (.dueActivation (.subsysReset (.endSide wf))) wf

theorem MemsWf.unmapAll {ns slot ver : Nat} {n : Ns} (wf : MemsWf s) : MemsWf (unmapAll ns slot ver n s) :=
  .work (appendDelta_work ..) (.upd wf)

theorem MemsWf.spdmAct {port : Option Nat} {r : SpdmReq} (wf : MemsWf s) : MemsWf (spdmAct port r s).2 := by
  unfold Machine.spdmAct
  split
  · exact wf
  · exact wf
  · exact wf
  · split
    · exact .raiseSrc (.upd wf)
    · split
      · exact wf
      · exact .upd wf
  · split
    · exact wf
    · exact .upd wf
  · split
    · split
      · exact wf
      · exact .updHpc wf rfl
    · exact wf

theorem MemsWf.endRebuilds (wf : MemsWf s) : MemsWf (endRebuilds s) :=
  .upto wf fun _ _ wf => .ite wf (.upd (.upd wf))

theorem MemsWf.closeSan {result : Nat} (wf : MemsWf s) : MemsWf (closeSan result s) :=
  .mediaChange (.endRebuilds (.upd (.upd wf)))

theorem MemsWf.clearMap (wf : MemsWf s) : MemsWf (clearMap s) := by
  unfold Machine.clearMap
  refine .each (.upd (.upd (.upd wf))) fun _ _ wf => ?_
  split
  · exact .upd wf
  · exact wf

theorem MemsWf.discardWells (wf : MemsWf s) : MemsWf (discardWells s) :=
  .afterFree (.upd (.upd (.each (.upd (.each (.upd
      (.each wf fun _ _ wf1 => .each wf1 fun _ _ wf => .upd wf)) fun _ _ wf => .drainQ wf)) fun _ _ wf => .ite (.work (closeBlks_work ..) wf) wf)))

theorem MemsWf.failAdmit (wf : MemsWf s) : MemsWf (failAdmit s) := by
  unfold Machine.failAdmit
  refine .each wf fun _ _ wf => ?_
  split
  · refine .ite ?_ wf
    split
    · exact .postDnr wf
    · exact wf
  · exact wf

theorem MemsWf.openSan {act : Nat} {ause : Bool} {cdw10 : Word} (wf : MemsWf s) : MemsWf (openSan act ause cdw10 s) :=
  .failAdmit (.mediaChange (.endSelfTest (.upd (.upd wf))))

theorem MemsWf.dropSecond {r : CamReq} (wf : MemsWf s) : MemsWf (dropSecond r s) :=
  .ite (.updCam wf rfl) wf

theorem MemsWf.popReq {src : Nat} (wf : MemsWf s) : MemsWf (popReq src s) := by
  refine ⟨?_, wf.2⟩
  simp only [Machine.popReq, onCam_cam]
  split <;> exact wf.1

theorem MemsWf.refuseFront {src n : Nat} (wf : MemsWf s) : MemsWf (refuseFront src n s) := by
  induction n generalizing s with
  | zero => exact wf
  | succ n ih =>
    unfold Machine.refuseFront
    split
    · exact wf
    · split
      · exact ih (.answerReq (.dropSecond (.popReq wf)))
      · exact wf

theorem MemsWf.arrive {q : CamReq} (wf : MemsWf s) : MemsWf (arrive q s) := by
  refine .refuseFront ⟨?_, wf.2⟩
  simp only [onCam_cam]
  split <;> exact wf.1

theorem MemsWf.io {k op : Nat} {eff : Tag → Ns → State → State} (heff : ∀ (a0 : Tag) (a1 : Ns) (a2 : State), MemsWf a2 → MemsWf (eff a0 a1 a2))
    (wf : MemsWf s) : MemsWf (io k op eff s) := by
  unfold Machine.io
  split
  · exact wf
  · refine .ite wf ?_
    split
    · exact .work (post_work ..) wf
    · exact heff _ _ _ wf

theorem MemsWf.ingressFail {k : Nat} {ing : Ingress} (wf : MemsWf s) : MemsWf (ingressFail k ing s) := by
  unfold Machine.ingressFail
  split
  · exact wf
  · exact wf
  · exact .work (post_work ..) (.returnResv wf)
  · exact .work (post_work ..) (.returnResv wf)
  · exact .work (post_work ..) (.returnResv wf)
  · exact .work (post_work ..) (.returnResv (.raiseSrc (.upd wf)))
  · exact .work (post_work ..) (.returnResv wf)
  · exact .work (post_work ..) (.returnResv wf)

theorem MemsWf.giveBack {tnt : Option Nat} {bytes : Nat} (wf : MemsWf s) : MemsWf (giveBack tnt bytes s) := by
  unfold Machine.giveBack
  split
  · exact wf
  · exact .upd wf

theorem MemsWf.chargeMoved {k c u : Nat} (wf : MemsWf s) : MemsWf (chargeMoved k c u s) := by
  unfold Machine.chargeMoved
  split
  · exact wf
  · exact .giveBack (.chargeData (.upd wf))

theorem MemsWf.readIu {k ns iu : Nat} {parts : List Nat} (wf : MemsWf s) : MemsWf (readIu k ns iu parts s) := by
  unfold Machine.readIu
  split
  · exact .ite wf (.each wf fun _ _ wf => .work (readCw_work ..) (.upd wf))
  · exact wf

theorem MemsWf.mergeIu {k ns : Nat} {n : Ns} {iu : Nat} (wf : MemsWf s) : MemsWf (mergeIu k ns n iu s) := by
  unfold Machine.mergeIu
  refine .ite ?_ ?_
  · refine .readIu ?_
    split
    · exact wf
    · exact .engRun wf
  · split
    · exact wf
    · exact .engRun wf

theorem MemsWf.placeIu {k : Nat} {t : Tag} {n : Ns} {iu cover : Nat} {body0 : IuData} (wf : MemsWf s) : MemsWf (placeIu k t n iu cover body0 s) :=
  .work (place_work ..) (.upd (.ite wf (.ite (.upd wf) (.upd wf))))

theorem MemsWf.placeMerges {k : Nat} {t : Tag} {n : Ns} {lba cnt : Nat} {val : Nat → Nat} {bad : List Nat} {olds : List (Nat × List LbaGot)}
    (wf : MemsWf s) : MemsWf (placeMerges k t n lba cnt val bad olds s) :=
  .each wf fun _ _ wf => .placeIu wf

theorem MemsWf.mergeAndPlace {k : Nat} {t : Tag} {n : Ns} {val : Nat → Nat} {bad whole : List Nat} {rest : State → State} (hrest : ∀
    (a0 : State), MemsWf a0 → MemsWf (rest a0)) (wf : MemsWf s) : MemsWf (mergeAndPlace k t n val bad whole rest s) := by
  unfold Machine.mergeAndPlace
  extract_lets e ns l s1
  have hs1 : MemsWf s1 := .each wf fun _ _ wf => .mergeIu wf
  dsimp only
  split
  · exact hs1
  · exact .ite (.work (post_work ..) hs1) (hrest _ (.each (.placeMerges hs1) fun _ _ wf => .placeIu wf))

theorem MemsWf.fillWindow {k : Nat} {t : Tag} {n : Ns} {partner : Nat} (wf : MemsWf s) : MemsWf (fillWindow k t n partner s) :=
  ⟨wf.1, memWf_mwrite 0 _ _ _ (memWf_mwrite 0 _ _ _ wf.2.1), wf.2.2⟩

theorem MemsWf.localDone {k : Nat} {mirOk : Bool} (wf : MemsWf s) : MemsWf (localDone k mirOk s) := by
  unfold Machine.localDone
  split
  · exact wf
  · dsimp only
    split
    · exact .ite (.work (post_work ..) (.upd wf)) (.upd (.fillWindow (.upd (.upd (.onlyIf wf fun _ wf => .upd (.work (sealFail_work ..) wf))))))
    · exact .work (post_work ..) wf

theorem MemsWf.allPlaced {k : Nat} {mirOk : Bool} (wf : MemsWf s) : MemsWf (allPlaced k mirOk s) :=
  .closeDue (.localDone (.upd (.upd (.upd wf))))

theorem MemsWf.progress {k q : Nat} (wf : MemsWf s) : MemsWf (progress k q s) :=
  .lookahead (.upd wf)

theorem MemsWf.writeEff {k : Nat} {ing : Ingress} {mirOk : Bool} {data : List Nat} {t : Tag} {n : Ns} (wf : MemsWf s) :
    MemsWf (writeEff k ing mirOk data t n s) := by
  unfold Machine.writeEff
  refine .ite wf ?_
  refine .ite (.ingressFail wf) ?_
  extract_lets lim q s1 s2
  have hs1 : MemsWf s1 := .ite wf (.chargeMoved wf)
  refine .ite (.mergeAndPlace (fun _ wf => .allPlaced wf) (.upd hs1)) ?_
  split
  · exact .ite (.txFault (.upd hs1)) (.progress (.upd hs1))
  · exact .progress (.upd hs1)

theorem MemsWf.mpFault {k iu : Nat} (wf : MemsWf s) : MemsWf (mpFault k iu s) := by
  unfold Machine.mpFault
  split
  · exact wf
  · exact .work (askMapPage_work ..) (.upd (.upd (.upd wf)))

theorem MemsWf.lookups {k : Nat} {e : Entry} {ns : Nat} {n : Ns} {l : List Nat} (wf : MemsWf s) : MemsWf (lookups k e ns n l s) := by
  induction l generalizing s with
  | nil => exact wf
  | cons iu l ih =>
    unfold Machine.lookups
    have wf1 : MemsWf (if (liveRec s ns iu).isSome then (true, s) else Machine.wantPage ns (iu / iusPerPage) s).2 := by
      split
      · exact wf
      · exact .wantPage wf
    generalize (if (liveRec s ns iu).isSome then (true, s) else Machine.wantPage ns (iu / iusPerPage) s) = x at wf1
    obtain ⟨ok, s1⟩ := x
    exact .ite (ih (.work (prefetch_work ..) (.readIu (.upd wf1)))) (.mpFault wf1)

theorem MemsWf.lookAll {k : Nat} {t : Tag} {n : Ns} (wf : MemsWf s) : MemsWf (lookAll k t n s) := by
  unfold Machine.lookAll
  extract_lets e ns sp start s1
  have hs1 : MemsWf s1 := .each wf fun _ _ wf => .readIu wf
  exact .ite (.lookups hs1) hs1

theorem MemsWf.readAgain {k iu : Nat} {t : Tag} {ps : List Nat} (wf : MemsWf s) : MemsWf (readAgain k iu t ps s) :=
  .readIu (.upd wf)

theorem MemsWf.passIu {k iu : Nat} {t : Tag} {n : Ns} {ls : List LbaGot} {nand : Bool} {o : IuOutcome} (wf : MemsWf s) :
    MemsWf (passIu k iu t n ls nand o s).2 := by
  unfold Machine.passIu
  split
  · exact wf
  · exact wf
  · extract_lets s1 fresh
    have hs1 : MemsWf s1 := .each wf fun _ _ wf => .work (sealFail_work ..) wf
    split
    · exact hs1
    · exact .readAgain hs1
  · exact .upd (.raiseSrc (.upd wf))
  · exact .raiseSrc (.upd wf)

theorem MemsWf.seeIu {k iu : Nat} {t : Tag} {n : Ns} {o : IuOutcome} (wf : MemsWf s) : MemsWf (seeIu k iu t n o s).2 := by
  unfold Machine.seeIu
  dsimp only
  split
  · split
    · exact wf
    · split
      · exact wf
      · exact wf
      · exact .passIu wf
  · split
    · exact wf
    · exact wf
    · exact .passIu wf

theorem MemsWf.gather {k : Nat} {t : Tag} {n : Ns} {outs : List IuOutcome} {first : Nat} {l : List Nat} (wf : MemsWf s) :
    MemsWf (gather k t n outs first l s).2 := by
  induction l generalizing s with
  | nil => exact wf
  | cons iu l ih =>
    unfold Machine.gather
    split
    · exact wf
    · have hw := MemsWf.seeIu (k := k) (iu := iu) (t := t) (n := n) (o := outs.getD (iu - first) .clean) wf
      split
      · next h => rw [h] at hw; exact hw
      · next h => rw [h] at hw; exact ih hw

theorem MemsWf.ready {k : Nat} {t : Tag} {n : Ns} {outs : List IuOutcome} {lim : Nat} (wf : MemsWf s) :
    MemsWf (ready k t n outs lim s).2.2.2 := by
  unfold Machine.ready
  dsimp only
  split
  · exact wf
  · exact .gather wf

theorem MemsWf.sendRuns {segs : List (Nat × Nat)} {c mps lb : Nat} {hold : Bool} {p q : Nat} {ls : List LbaGot} (wf : MemsWf s) :
    MemsWf (sendRuns segs c mps lb hold p q ls s) :=
  .each wf fun _ _ wf => .ite wf (.sendRun wf)

theorem MemsWf.sendRead {k : Nat} {t : Tag} {n : Ns} {p q : Nat} {ls : List LbaGot} (wf : MemsWf s) : MemsWf (sendRead k t n p q ls s) := by
  unfold Machine.sendRead
  extract_lets xb mb port mps hold full s1 s2 s3
  have hs1 : MemsWf s1 := .sendRuns wf
  have hs3 : MemsWf s3 := by
    unfold s3
    refine .upto (.ite hs1 (.sendRuns hs1)) fun _ _ wf => ?_
    split
    · exact .upd wf
    · exact .ite wf (.upd wf)
    · exact wf
  exact .ite (.upd hs3) hs3

theorem MemsWf.egress {k : Nat} {outs : List IuOutcome} {t : Tag} {n : Ns} (wf : MemsWf s) : MemsWf (egress k outs t n s) := by
  unfold Machine.egress
  dsimp only
  have hs1 : MemsWf (Machine.ready k t n outs (moveLimit s t n).1 s).2.2.2 := .ready wf
  refine .ite (.work (post_work ..) (.upd (.chargeMoved (.ite (.sendRead hs1) hs1)))) ?_
  split
  · exact .ite (.txFault (.upd (.chargeMoved (.ite (.sendRead hs1) hs1)))) (.progress (.upd (.chargeMoved (.ite (.sendRead hs1) hs1))))
  · exact .progress (.upd (.chargeMoved (.ite (.sendRead hs1) hs1)))

theorem MemsWf.recsWait {k q : Nat} (wf : MemsWf s) : MemsWf (recsWait k q s) :=
  .ite (.allPlaced wf) wf

theorem MemsWf.recordIo {k op : Nat} {eff : Tag → Ns → State → State} (heff : ∀ (a0 : Tag) (a1 : Ns)
    (a2 : State), MemsWf a2 → MemsWf (eff a0 a1 a2)) (wf : MemsWf s) : MemsWf (recordIo k op eff s) := by
  unfold Machine.recordIo
  refine .io (fun _ _ _ wf => ?_) wf
  refine .ite wf ?_
  split
  · exact .recsWait wf
  · exact heff _ _ _ wf

theorem MemsWf.withRanges {need : Nat} {go : State → State} (hgo : ∀ (a0 : State), MemsWf a0 → MemsWf (go a0)) (wf : MemsWf s) :
    MemsWf (withRanges need go s) :=
  .ite (hgo _ wf) (.ite (.upd wf) (.ite (.work (fullLog_work ..) wf) (hgo _ wf)))

theorem MemsWf.markPart {ns ver iu mask : Nat} (wf : MemsWf s) : MemsWf (markPart ns ver iu mask s) :=
  .ite wf (.upd wf)

theorem MemsWf.setRange {ns : Nat} {n : Ns} {kind : RangeKind} {ver lo cnt : Nat} (wf : MemsWf s) : MemsWf (setRange ns n kind ver lo cnt s) := by
  unfold Machine.setRange
  split
  · exact wf
  · exact wf
  · exact .work (appendDelta_work ..) (.upd (.applyRange wf))

theorem MemsWf.recsDone {k : Nat} (wf : MemsWf s) : MemsWf (recsDone k s) :=
  .ite (.allPlaced wf) (.upd wf)

theorem MemsWf.cmpStep {k : Nat} {outs : List IuOutcome} {data : List Nat} {t : Tag} {n : Ns} (wf : MemsWf s) :
    MemsWf (cmpStep k outs data t n s).1 := by
  unfold Machine.cmpStep
  have hs1 : MemsWf (Machine.ready k t n outs (moveLimit s t n).1 s).2.2.2 := .ready wf
  dsimp only
  split
  · exact .chargeMoved hs1
  · exact .chargeMoved hs1
  · split
    · exact .upd (.chargeMoved hs1)
    · split
      · split
        · exact .txFault (.upd (.chargeMoved hs1))
        · exact .progress (.upd (.chargeMoved hs1))
      · exact .progress (.upd (.chargeMoved hs1))

theorem MemsWf.cmpEff {k : Nat} {outs : List IuOutcome} {data : List Nat} {t : Tag} {n : Ns} (wf : MemsWf s) :
    MemsWf (cmpEff k outs data t n s).1 := by
  unfold Machine.cmpEff
  extract_lets s1
  have hs1 : MemsWf s1 := .lookAll wf
  split
  · split
    · exact .cmpStep hs1
    · exact hs1
  · exact hs1

theorem MemsWf.advanceRtc {ns : Nat} (wf : MemsWf s) : MemsWf (advanceRtc ns s) :=
  .ite wf (.upd wf)

theorem MemsWf.agedMsix (wf : MemsWf s) : MemsWf (agedMsix s) :=
  .each wf fun _ _ wf1 => .each wf1 fun _ _ wf => .upd (.upd wf)

theorem MemsWf.endTrace {x : Trace} {n status : Nat} (wf : MemsWf s) : MemsWf (endTrace x n status s) :=
  .endOp (.upd wf)

theorem MemsWf.denied {k : Nat} (wf : MemsWf s) : MemsWf (denied k s) := by
  unfold Machine.denied
  split
  · exact wf
  · exact .ite (.untrkSusp (.upd (.upd (.upd wf)))) (.failPg wf)

theorem MemsWf.grantXlat {r : XReq} {pages : Nat} {rd wr : Bool} (wf : MemsWf s) : MemsWf (grantXlat r pages rd wr s) := by
  unfold Machine.grantXlat
  refine .each (.ite (.upd wf) wf) fun _ _ wf => ?_
  split
  · exact .ite (.upd (.upd wf)) (.ite (.denied wf) wf)
  · exact wf

theorem MemsWf.failTx {k : Nat} (wf : MemsWf s) : MemsWf (failTx k s) := by
  unfold Machine.failTx
  split
  · exact .failCtx wf
  · exact wf

theorem MemsWf.waitGroup {k idx : Nat} {t : Tag} (wf : MemsWf s) : MemsWf (waitGroup k idx t s) :=
  .untrkSusp (.upd wf)

theorem MemsWf.sendGroup {c idx : Nat} {b : Bool} {l : List Nat} (wf : MemsWf s) : MemsWf (sendGroup c idx b l s) := by
  induction l generalizing s with
  | nil => exact wf
  | cons p l ih => exact ih wf

theorem MemsWf.failPgTo {k : Nat} (wf : MemsWf s) : MemsWf (failPgTo k s) := by
  unfold Machine.failPgTo
  split
  · exact .failCtx wf
  · exact wf

theorem MemsWf.pageArrived {ns page : Nat} {lost : List Nat} (wf : MemsWf s) : MemsWf (pageArrived ns page lost s) := by
  unfold Machine.pageArrived
  extract_lets key s1
  have hs1 : MemsWf s1 := by
    unfold s1
    refine .each wf fun _ _ wf => ?_
    split
    · exact .ite wf (.ite (.failCtx wf) (.upd (.upd wf)))
    · exact wf
  exact .upd hs1

theorem MemsWf.engFreed {i : Nat} (wf : MemsWf s) : MemsWf (engFreed i s) := by
  unfold Machine.engFreed
  dsimp only
  split
  · exact .upd wf
  · exact .engRun (.upd (.upd wf))

theorem MemsWf.accMismatch {d n : Nat} (wf : MemsWf s) : MemsWf (accMismatch d n s) := by
  unfold Machine.accMismatch
  split
  · exact .ite (.work (parityLoss_work ..) (.upd wf)) wf
  · exact wf

theorem MemsWf.engAll {es : List EngCtx} (wf : MemsWf s) : MemsWf (engAll es s).2 :=
  List.foldlRecOn (motive := fun a : Bool × State => MemsWf a.2) es _ wf fun _ wf1 _ _ => .engRun wf1

theorem MemsWf.gcIu {d n addr : Nat} {o : IuOutcome} (wf : MemsWf s) : MemsWf (gcIu d n addr o s) := by
  unfold Machine.gcIu
  split
  · exact wf
  · exact .ite (.work (copyIu_work ..) wf) (.ite wf (.each (.upd wf) fun _ _ wf => .work (readCw_work ..) wf))

theorem MemsWf.gcTargets (wf : MemsWf s) : MemsWf (gcTargets s) :=
  .upto wf fun _ _ wf => .ite (.endOpt (.work (gcLevels_work ..) (.upd wf))) wf

theorem MemsWf.timeoutBlk {die : Nat} {o : Dop} (wf : MemsWf s) : MemsWf (timeoutBlk die o s) :=
  .ite wf (.upd (.upd (.work (blkDelta_work ..) (.upd wf))))

theorem MemsWf.readToStep5 {o : Dop} (wf : MemsWf s) : MemsWf (readToStep5 o s) := by
  unfold Machine.readToStep5
  refine .ite wf ?_
  refine .each wf fun _ _ wf => ?_
  refine .ite wf ?_
  refine .work (enterStep5_work ..) ?_
  split
  · exact wf
  · exact .work (toLadder_work ..) wf

theorem MemsWf.loseDie {fch : Bool} {code die : Nat} (wf : MemsWf s) : MemsWf (loseDie fch code die s) := by
  unfold Machine.loseDie
  refine .ite wf ?_
  extract_lets ops s1 s2 s3 l s4
  have hs2 : MemsWf s2 := .each (.upd wf) fun _ _ wf => .timeoutBlk (.endRefs (.upd wf))
  exact .each (.work (placeAgain_work ..) (.dieLost (.ite (.raiseSrc (.upd hs2)) hs2))) fun _ _ wf => .readToStep5 wf

theorem MemsWf.failDie {die : Nat} (wf : MemsWf s) : MemsWf (failDie die s) :=
  .loseDie wf

theorem MemsWf.suspLimit {die : Nat} {o : Dop} (wf : MemsWf s) : MemsWf (suspLimit die o s) :=
  .ite wf (.raiseSrc (.upd (.upd wf)))

theorem MemsWf.repeatReads {ch : Nat} (wf : MemsWf s) : MemsWf (repeatReads ch s) :=
  .each wf fun _ _ wf => .queueReadOp (.upd wf)

theorem MemsWf.senseDone {l : Ladder} (wf : MemsWf s) : MemsWf (senseDone l s) :=
  .ite (.upd wf) (.ite (.stepFailed (.upd wf)) (.upd wf))

theorem MemsWf.slip {ch : Nat} (wf : MemsWf s) : MemsWf (slip ch s) :=
  .ite (.askRetrain (.upd wf)) (.upd wf)

theorem MemsWf.addCol {die : Nat} {c : Col} (wf : MemsWf s) : MemsWf (addCol die c s) :=
  .ite wf (.ite (.raiseSrc (.upd wf)) (.upd (.upd wf)))

theorem MemsWf.hitCol {die plane col : Nat} (wf : MemsWf s) : MemsWf (hitCol die plane col s) := by
  unfold Machine.hitCol
  refine .ite wf ?_
  dsimp only
  split
  · exact .upd wf
  · exact .ite (.addCol (.upd (.upd wf))) (.upd wf)

theorem MemsWf.countDecode {cw : Nat} {d : Decode} (wf : MemsWf s) : MemsWf (countDecode cw d s) := by
  unfold Machine.countDecode
  extract_lets die plane s1 s2
  have hs2 : MemsWf s2 := .each (.upd wf) fun _ _ wf => .hitCol wf
  exact .ite (.upd hs2) hs2

theorem MemsWf.addWl {cw : Nat} (wf : MemsWf s) : MemsWf (addWl cw s) :=
  .ite wf (.upd (.upd wf))

theorem MemsWf.relocate {cw : Nat} (wf : MemsWf s) : MemsWf (relocate cw s) := by
  unfold Machine.relocate
  split
  · exact wf
  · exact .ite wf (.work (place_work ..) wf)

theorem MemsWf.giveReader {cw : Nat} {poison : Bool} {r : Reader} (wf : MemsWf s) : MemsWf (giveReader cw poison r s) := by
  unfold Machine.giveReader
  split
  · exact .upd wf
  · exact .upd wf
  · exact wf
  · exact wf
  · exact wf
  · exact wf
  · exact wf
  · exact wf
  · exact wf

theorem MemsWf.finishCw {l : Ladder} {step : Nat} {poison : Bool} (wf : MemsWf s) : MemsWf (finishCw l step poison s) := by
  unfold Machine.finishCw
  extract_lets s1 s2 s3 s4
  have hs2 : MemsWf s2 := .ite (.upd (.upd wf)) (.upd wf)
  have hs3 : MemsWf s3 := .ite (.addWl hs2) hs2
  exact .each (.ite (.relocate hs3) hs3) fun _ _ wf => .ite (.work (survGot_work ..) wf) (.giveReader wf)

theorem MemsWf.step6 {l : Ladder} (wf : MemsWf s) : MemsWf (step6 l s) :=
  .finishCw (.raiseSrc (.upd (.upd wf)))

theorem MemsWf.beginRepl {d n : Nat} {t : Stripe} (wf : MemsWf s) : MemsWf (beginRepl d n t s) := by
  unfold Machine.beginRepl
  split
  · split
    · exact wf
    · extract_lets s1 s2
      have hs1 : MemsWf s1 := .work (takeBlk_work ..) wf
      exact .upd (.ite (.raiseSrc (.upd hs1)) hs1)
  · exact wf

theorem MemsWf.finishRepl {d n : Nat} {t : Stripe} {r : Repl} (wf : MemsWf s) : MemsWf (finishRepl d n t r s) :=
  .upd (.work (blkDelta_work ..) (.upd (.upd wf)))

theorem MemsWf.moveIu {addr : Nat} (wf : MemsWf s) : MemsWf (moveIu addr s) := by
  unfold Machine.moveIu
  split
  · exact wf
  · exact .ite (.ite wf (.work (programDir_work ..) wf)) (.ite (.ite wf (.ite (.work (programPage_work ..) (.pageStep wf)) (.pageStep wf)))
      (.ite wf (.work (place_work ..) wf)))

theorem MemsWf.lostRow {d n : Nat} {t : Stripe} {r : Repl} {pos a dst : Nat} {u : Option Nat} (wf : MemsWf s) :
    MemsWf (lostRow d n t r pos a dst u s) :=
  .each (.raiseSrc (.upd (.upd (.upd (.upd wf))))) fun _ _ wf => .moveIu wf

theorem MemsWf.replPos {d n : Nat} {t : Stripe} {r : Repl} {unread sealBad : List Nat} {pos : Nat} (wf : MemsWf s) :
    MemsWf (replPos d n t r unread sealBad pos s) := by
  unfold Machine.replPos
  split
  · exact wf
  · dsimp only
    split
    · exact .lostRow wf
    · refine .ite (.lostRow wf) ?_
      split
      · exact wf
      · exact .ite (.lostRow (.work (sealFail_work ..) wf)) (.ite wf (.upd wf))

theorem MemsWf.giveRepl {d m n : Nat} {t : Stripe} {r : Repl} {unread sealBad : List Nat} (wf : MemsWf s) :
    MemsWf (giveRepl d m n t r unread sealBad s) :=
  .upd (.each (.each wf fun _ _ wf => .replPos wf) fun _ _ wf => .work (queueOp_work ..) wf)

theorem MemsWf.parityMis {d n : Nat} {t : Stripe} (wf : MemsWf s) : MemsWf (parityMis d n t s) :=
  .each (.upd (.upd wf)) fun _ _ wf => .moveIu wf

theorem MemsWf.scanLost {l : List Nat} (wf : MemsWf s) : MemsWf (scanLost l s) := by
  unfold Machine.scanLost
  refine .each wf fun _ _ wf1 => ?_
  dsimp only
  split
  · exact wf1
  · exact .ite wf1 (.upto wf1 fun _ _ wf => .ite (.work (markBad_work ..) wf) wf)

theorem MemsWf.saveDirs (wf : MemsWf s) : MemsWf (saveDirs s) :=
  .each wf fun _ _ wf => .ite wf (.work (programDir_work ..) wf)

theorem MemsWf.badBuf {bit : Nat} (wf : MemsWf s) : MemsWf (badBuf bit s) :=
  .raiseSrc (.upd wf)

theorem MemsWf.popBuf {p : Nat} (wf : MemsWf s) : MemsWf (popBuf p s).2 :=
  .updWel wf rfl

theorem MemsWf.takeBufs {w : Wait} (wf : MemsWf s) : MemsWf (takeBufs w s) := by
  unfold Machine.takeBufs
  extract_lets p cls s1 s2
  have hs2 : MemsWf s2 := .updWel (.upto wf fun _ _ wf => .updWel (.popBuf wf) rfl) rfl
  exact .ite hs2 (.upd (.updWel hs2 rfl))

theorem MemsWf.joinBuf {rq buf : Nat} {b : Buf} (wf : MemsWf s) : MemsWf (joinBuf rq buf b s) :=
  .ite (.upd (.updWel wf rfl)) (.updWel wf rfl)

theorem MemsWf.nextAttach {buf : Nat} (wf : MemsWf s) : MemsWf (nextAttach buf s) := by
  unfold Machine.nextAttach
  split
  · exact .ite (.updWel wf rfl) (.joinBuf (.updWel wf rfl))
  · exact .updWel wf rfl
  · exact wf

theorem MemsWf.markPsn {sp a : Nat} (wf : MemsWf s) : MemsWf (markPsn sp a s) := by
  unfold Machine.markPsn
  refine .ite ?_ (.ite (.upd wf) wf)
  split
  · exact .updWel wf rfl
  · exact wf

theorem MemsWf.xoRead (wf : MemsWf s) : MemsWf (xoRead s) :=
  .raiseSrc (.upd wf)

theorem MemsWf.haltPump {k idx err : Nat} (wf : MemsWf s) : MemsWf (haltPump k idx err s) :=
  .endStop (.pumpSlots (.updPmp wf rfl))

theorem MemsWf.noteErr {ue : Bool} {cls mac loc : Nat} (wf : MemsWf s) : MemsWf (noteErr ue cls mac loc s) :=
  .ite wf (.upd wf)

theorem MemsWf.softRepair {cls mac loc : Nat} (wf : MemsWf s) : MemsWf (softRepair cls mac loc s) :=
  .ite wf (.ite wf (.ite (.repairFull wf) (.ite (.upd (.upd wf)) (.raiseSrc (.upd (.upd wf))))))

theorem MemsWf.trackErr {cls mac loc : Nat} (wf : MemsWf s) : MemsWf (trackErr cls mac loc s) :=
  .ite (.softRepair (.upd wf)) (.upd wf)

theorem MemsWf.correctedErr {cls mac loc : Nat} (wf : MemsWf s) : MemsWf (correctedErr cls mac loc s) := by
  unfold Machine.correctedErr
  refine .ite (.upd wf) ?_
  extract_lets s1
  have hs1 : MemsWf s1 := .upd (.noteErr wf)
  exact .ite (.trackErr hs1) hs1

theorem MemsWf.psnRecord {d : Option (Nat × Nat × Nat)} (wf : MemsWf s) : MemsWf (psnRecord d s) := by
  unfold Machine.psnRecord
  split
  · exact wf
  · exact .upd wf

theorem MemsWf.takeEntry {p : Nat} {q : CamReq} (wf : MemsWf s) : MemsWf (takeEntry p q s) :=
  .setOwn (.updCam wf rfl)

theorem MemsWf.tearSide {k : Nat} (wf : MemsWf s) : MemsWf (tearSide k s) :=
  .refuseFront (.updCam wf rfl)

theorem MemsWf.ueEffect {w : UeWhere} (wf : MemsWf s) : MemsWf (ueEffect w s) := by
  unfold Machine.ueEffect
  split
  · exact wf
  · exact wf
  · exact .psnRecord (.raiseSrc (.markPsn wf))
  · exact .psnRecord (.raiseSrc (.updWel wf rfl))
  · exact .markPsn wf
  · exact .work (askMapPage_work ..) (.raiseSrc (.upd (.upd wf)))
  · exact .raiseSrc wf
  · exact .upd wf
  · exact .raiseSrc (.ite (.work (post_work ..) wf) (.endCmd wf))
  · exact .raiseSrc (.stopQueue wf)
  · exact .raiseSrc (.upd wf)
  · exact .raiseSrc (.upd wf)
  · exact .ite wf (.arrive (.takeEntry wf))
  · exact .tearSide wf

theorem MemsWf.readErr {cls mac loc : Nat} {stuck : Bool} {w : UeWhere} (wf : MemsWf s) : MemsWf (readErr cls mac loc stuck w s) := by
  unfold Machine.readErr
  split
  · exact .correctedErr wf
  · exact .ueEffect wf
  · exact .ueEffect wf
  · exact .ueEffect wf
  · refine .ite (.ite (.bankFail (.upd wf)) (.upd wf)) ?_
    extract_lets s1 s2
    have hs2 : MemsWf s2 := .ueEffect (.onlyIf (.raiseSrc (.upd (.noteErr wf))) fun _ wf => .raiseSrc (.upd wf))
    exact .ite (.softRepair hs2) hs2

theorem MemsWf.mergeUe {mem word : Nat} (wf : MemsWf s) : MemsWf (mergeUe mem word s) :=
  .ite (.readErr wf) (.ite (.readErr wf) (.readErr wf))

theorem MemsWf.scrubNand {corrected : List (Nat × Nat)} {bad : List (Nat × Nat × UeWhere)} (wf : MemsWf s) : MemsWf (scrubNand corrected bad s) :=
  .each (.each wf fun _ _ wf => .relocate wf) fun _ _ wf => .raiseSrc (.upd (.upd wf))

theorem MemsWf.scrubMem {cls : Nat} {corrected : List (Nat × Nat)} {bad : List (Nat × Nat × UeWhere)} (wf : MemsWf s) :
    MemsWf (scrubMem cls corrected bad s) :=
  .each (.each wf fun _ _ wf => .correctedErr wf) fun _ _ wf => .readErr wf

theorem MemsWf.activate {slot : Nat} {i : Image} (wf : MemsWf s) : MemsWf (activate slot i s) := by
  unfold Machine.activate
  refine .upd ?_
  refine .ite (.upd wf) ?_
  split
  · exact .upd (.upd wf)
  · exact .upd wf

theorem MemsWf.failJob (wf : MemsWf s) : MemsWf (failJob s) := by
  unfold Machine.failJob
  extract_lets s1
  have hs1 : MemsWf s1 := .raiseSrc (.upd wf)
  split
  · exact hs1
  · exact .ite (.endJob hs1) (.endJob (.upd (.upd hs1)))

theorem MemsWf.finishJob {j : UpdJob} (wf : MemsWf s) : MemsWf (finishJob j s) := by
  unfold Machine.finishJob
  refine .ite ?_ (.endJob (.ite (.upd (.upd wf)) (.upd wf)))
  split
  · exact .endJob wf
  · exact .ite (.endJob (.ite (.upd (.upd wf)) (.upd wf))) (.endJob (.ite (.sigFail wf) wf))

theorem MemsWf.takeMsg {b : Bus} {ty : Nat} (wf : MemsWf s) : MemsWf (takeMsg b ty s) := by
  unfold Machine.takeMsg
  split
  · exact .upd wf
  · exact wf

theorem MemsWf.beginErase (wf : MemsWf s) : MemsWf (beginErase s) :=
  .each (.work (sanTotal_work ..) (.upd (.upd wf))) fun _ _ wf => .work (sanErase_work ..) wf

theorem MemsWf.asmError (wf : MemsWf s) : MemsWf (asmError s) :=
  .raiseSrc (.upd wf)

theorem MemsWf.tunnelIn {b : Bus} {c : Nat} {e : Entry} (wf : MemsWf s) : MemsWf (tunnelIn b c e s) :=
  .ite (.assign wf) (.upd wf)

theorem MemsWf.tunnel {b : Bus} {m : Msg} (wf : MemsWf s) : MemsWf (tunnel b m s) :=
  .ite (.upd wf) (.ite (.upd wf) (.tunnelIn wf))

theorem MemsWf.wholeMsg {b : Bus} {m : Msg} (wf : MemsWf s) : MemsWf (wholeMsg b m s) :=
  .ite (.ite wf (.upd (.upd wf))) (.ite (.ite (.upd wf) (.ite (.tunnel (.upd wf)) (.ite wf (.upd (.upd wf))))) (.ite wf (.upd wf)))

theorem MemsWf.joinMsg {b : Bus} {m : Msg} {p : MctpPacket} (wf : MemsWf s) : MemsWf (joinMsg b m p s) := by
  unfold Machine.joinMsg
  refine .ite (.asmError (.upd wf)) ?_
  extract_lets s2
  have hs2 : MemsWf s2 := .upd (.upd wf)
  exact .ite (.wholeMsg hs2) hs2

theorem MemsWf.firstPacket {b : Bus} {p : MctpPacket} (wf : MemsWf s) : MemsWf (firstPacket b p s) := by
  unfold Machine.firstPacket
  extract_lets s1
  have hs1 : MemsWf s1 := by
    unfold s1
    split
    · exact .asmError (.upd wf)
    · exact wf
  exact .ite (.upd hs1) (.joinMsg (.faults (wake_keeps ..) hs1))

theorem MemsWf.answerMsg {b : Bus} {ty : Nat} {this : Msg → Bool} {act : State → State × List Nat} (hact : ∀
    (a0 : State), MemsWf a0 → MemsWf (act a0).1) (wf : MemsWf s) : MemsWf (answerMsg b ty this act s) :=
  .ite wf (.ite (.faults (wake_keeps ..) wf) (.upd (hact _ (.takeMsg wf))))

theorem MemsWf.miMsg {b : Bus} {op : MiOp} (wf : MemsWf s) : MemsWf (miMsg b op s) :=
  .answerMsg (fun _ wf => .miAct wf) wf

theorem MemsWf.badConversion {site : Nat} (wf : MemsWf s) : MemsWf (badConversion site s) :=
  .ite (.raiseSrc (.upd (.upd wf))) (.upd wf)

theorem MemsWf.endSnapshot {h : Nat} {o : LongOp} (wf : MemsWf s) : MemsWf (endSnapshot h o s) :=
  .endOp (.ite (.readCtrlCap wf) wf)

theorem MemsWf.finish {r : CamReq} {status : Nat} {detail : List Word} {payload : List Byte} (wf : MemsWf s) :
    MemsWf (finish r status detail payload s) :=
  .refuseFront (.answerReq (.dropSecond wf))

theorem MemsWf.noteRefusal {op status : Nat} (wf : MemsWf s) : MemsWf (noteRefusal op status s) := by
  unfold Machine.noteRefusal
  split
  · exact .upd wf
  · exact wf

theorem MemsWf.holdSlots {first n : Nat} (wf : MemsWf s) : MemsWf (holdSlots first n s) :=
  .each wf fun _ _ wf => .updCam wf rfl

theorem MemsWf.serve {src op : Nat} {long : CamReq → Bool} {pre : State → CamReq → Option (Nat × List Word)}
    {act : CamReq → Nat → State → State × Ans}
    (hact : ∀ r h s, MemsWf s → MemsWf (act r h s).1) (wf : MemsWf s) : MemsWf (serve src op long pre act s) := by
  unfold Machine.serve
  split
  · refine .ite wf ?_
    extract_lets r s0 refuse
    have hs0 : MemsWf s0 := .popReq wf
    have hno (x : Nat × List Word) : MemsWf (refuse x) := .finish (.noteRefusal hs0)
    split
    · exact hno _
    · refine .ite (hno _) (.ite (hno _) (.ite (hno _) (.ite (hno _) ?_)))
      split
      · exact hno _
      · split
        · exact hno _
        · have hs1 : MemsWf (if rqTrough r then Machine.holdSlots (rqFirst r) (rqCount r) s0 else s0) := .ite (.holdSlots hs0) hs0
          refine .ite ?_ (.finish (.ite (.returnSlots (.fillSlots (hact _ _ _ hs1))) (hact _ _ _ hs1)))
          split
          · exact hno _
          · exact hact _ _ _ (.refuseFront (.replyTo (.upd (.updCam hs1 rfl))))
  · exact wf

theorem MemsWf.serveRead {src op : Nat} {f : State → CamReq → Nat × List Word} (wf : MemsWf s) : MemsWf (serveRead src op f s) :=
  .serve (fun _ _ _ wf => wf) wf

theorem MemsWf.cancelTrace (wf : MemsWf s) : MemsWf (cancelTrace s) := by
  unfold Machine.cancelTrace
  split
  · exact wf
  · exact .endTrace wf

theorem MemsWf.cancelOp {h : Nat} {o : LongOp} (wf : MemsWf s) : MemsWf (cancelOp h o s) :=
  .ite (.cancelTrace wf) (.ite (.abortPump wf) (.endOp (.ite (.upd wf) (.ite (.upd wf) (.ite (.upd wf) (.ite (.upd wf) wf))))))

theorem MemsWf.signFail (wf : MemsWf s) : MemsWf (signFail s) :=
  .raiseSrc (.upd (.upd wf))

theorem MemsWf.signedReq {p src op : Nat} {sigOk : Bool} {params : List Byte → Option (Nat × List Word)} {owner : State → Option Nat}
    {late : State → List Byte → Option Nat} {eff : List Byte → State → State × List Word}
    (heff : ∀ bs s, MemsWf s → MemsWf (eff bs s).1) (wf : MemsWf s) : MemsWf (signedReq p src op sigOk params owner late eff s) := by
  refine .serve (fun r _ s wf => ?_) wf
  dsimp only
  split
  · exact wf
  · split
    · exact wf
    · split
      · exact .upd wf
      · split
        · exact .signFail (.upd wf)
        · split
          · exact .upd (.upd wf)
          · exact heff _ _ (.upd (.upd wf))

theorem MemsWf.writeFlag {k : Nat} {v : Word} (wf : MemsWf s) : MemsWf (writeFlag k v s) :=
  .ite wf (.updCam wf rfl)

theorem MemsWf.hostBytes {a : Nat} {bs : List Byte} (wf : MemsWf s) : MemsWf (hostBytes a bs s) := by
  refine ⟨?_, wf.2⟩
  refine List.foldlRecOn (motive := fun m => memWf 0 m = true) bs.zipIdx _ wf.1 fun m hm x _ => ?_
  split
  · exact memWf_mput 0 m _ _ hm
  · exact hm

theorem NextWf.execBootStepComplete {env : BootEnv} (wf : MemsWf s) : NextWf (execBootStepComplete env s) := by
  unfold Machine.execBootStepComplete
  refine .onSeq wf ?_
  refine .next ?_
  dsimp only
  split
  · exact .ite (.bootFuses wf) wf
  · exact .ite (.bootImages wf) wf
  · exact .ite (.bootCistern wf) wf
  · exact .ite (.bootProfile wf) wf
  · exact .ite (.bootDram wf) (.ite (.trainDram wf) wf)
  · exact .ite (.bootNand wf) wf
  · exact .ite (.bootReplay (.upd wf)) wf
  · exact .ite (.bootResume wf) wf
  · exact .ite (.bootFinish wf) wf

theorem NextWf.execSpillProgramPass {die : Nat} (wf : MemsWf s) : NextWf (execSpillProgramPass die s) := by
  unfold Machine.execSpillProgramPass
  refine .next ?_
  split
  · refine .ite wf ?_
    extract_lets plan s1
    have hs1 : MemsWf s1 := .upd (.upd wf)
    exact .ite (.upd hs1) hs1
  · exact wf

theorem NextWf.execResetSpillStart (wf : MemsWf s) : NextWf (execResetSpillStart s) := by
  unfold Machine.execResetSpillStart
  refine .next ?_
  split
  · exact wf
  · exact .ite (.enterHoldup wf) wf

theorem NextWf.execCapvConversion {uv : Nat} (wf : MemsWf s) : NextWf (execCapvConversion uv s) := by
  unfold Machine.execCapvConversion
  refine .next ?_
  refine .ite wf ?_
  extract_lets c s1 s2
  have hs2 : MemsWf s2 := .ite (.upd (.upd wf)) (.ite (.huLow (.upd (.upd wf))) (.upd wf))
  exact .ite (.beginOv hs2) (.ite (.upd hs2) hs2)

theorem NextWf.execStandpipeEntry (wf : MemsWf s) : NextWf (execStandpipeEntry s) :=
  .onSeq wf (.next (.ite wf (.ite (.serveAgain wf) (.ite wf (.upd (.upd (.enterMode (.upd (.updPmp (.setIslands (.scrubAlarm (.upd (.endSelfTest
      (.upd (.quiet wf)))))) rfl)))))))))

theorem NextWf.execDormantEntry (wf : MemsWf s) : NextWf (execDormantEntry s) :=
  .onSeq wf (.next (.ite wf (.portsOff (.setIslands (.upd (.enterMode (.upd (.upd (.endSelfTest (.quiet wf))))))))))

theorem NextWf.execAlarmMatch {a : Nat} (wf : MemsWf s) : NextWf (execAlarmMatch a s) := by
  unfold Machine.execAlarmMatch
  refine .next ?_
  refine .ite wf ?_
  refine .ite (.ite (.upd (.upd wf)) (.upd wf)) ?_
  extract_lets s2
  have hs2 : MemsWf s2 := .upd (.upd wf)
  exact .ite (.faults (wake_keeps ..) hs2) hs2

theorem NextWf.execPtmExchangeComplete {port hostTime : Nat} (wf : MemsWf s) : NextWf (execPtmExchangeComplete port hostTime s) := by
  unfold Machine.execPtmExchangeComplete
  refine .next ?_
  refine .ite wf ?_
  extract_lets s1
  have hs1 : MemsWf s1 := .updHpc wf rfl
  exact .ite hs1 (.upd hs1)

theorem NextWf.execThermalRead (wf : MemsWf s) : NextWf (execThermalRead s) := by
  unfold Machine.execThermalRead
  refine .onSeq wf ?_
  refine .next ?_
  refine .ite wf ?_
  extract_lets t w s1 s2 s3 s4
  have hs2 : MemsWf s2 := .each (.upd wf) fun _ _ wf => .ite (.faults (sendAen_keeps ..) wf) wf
  have hs3 : MemsWf s3 := .ite (.raiseSrc (.upd hs2)) hs2
  exact .rescale (.ite (.raiseSrc (.upd (.upd (.upd (.upd hs3))))) (.ite (.upd (.upd (.upd hs3))) hs3))

theorem NextWf.execTokenGrant {die op : Nat} (wf : MemsWf s) : NextWf (execTokenGrant die op s) := by
  unfold Machine.execTokenGrant
  refine .ite (.next wf) ?_
  refine .ite ?_ ?_
  · split
    · exact .next wf
    · exact .ite (.ite (.next (.work (refuseOp_work ..) wf)) (.next (.upd (.startOp (.upd wf))))) (.next wf)
  · dsimp only
    split
    · exact .next wf
    · split
      · exact .next wf
      · exact .ite (.next (.startOp wf)) (.next wf)

theorem NextWf.execSelfTestComplete {fail : SelfTestFail} (wf : MemsWf s) : NextWf (execSelfTestComplete fail s) := by
  unfold Machine.execSelfTestComplete
  refine .ite (.next wf) ?_
  split
  · exact .next (.endSelfTest wf)
  · exact .next (.raiseSrc (.endSelfTest wf))

theorem NextWf.execRecalibrationRead {die bin : Nat} (wf : MemsWf s) : NextWf (execRecalibrationRead die bin s) := by
  unfold Machine.execRecalibrationRead
  refine .next ?_
  refine .ite wf ?_
  split
  · exact wf
  · exact .queueReadOp wf

theorem NextWf.execPerstNDeasserted {port : Nat} (wf : MemsWf s) : NextWf (execPerstNDeasserted port s) := by
  unfold Machine.execPerstNDeasserted
  refine .ite (.next wf) ?_
  extract_lets s1
  have hs1 : MemsWf s1 := .updHpc wf rfl
  exact .ite (.next (.upd hs1)) (.ite (.next hs1) (.next (.updHpc hs1 rfl)))

theorem NextWf.execLinkDown {port : Nat} (wf : MemsWf s) : NextWf (execLinkDown port s) := by
  unfold Machine.execLinkDown
  refine .ite (.next wf) ?_
  extract_lets s1
  have hs1 : MemsWf s1 := .resetLink wf
  exact .next (.ite (.twinLost hs1) hs1)

theorem NextWf.execConfigRequest {ctrl : Nat} {op : ConfigOp} {ready : Bool} (wf : MemsWf s) : NextWf (execConfigRequest ctrl op ready s) := by
  unfold Machine.execConfigRequest
  extract_lets n s1
  have wf1 : MemsWf s1 := .updHpc wf rfl
  exact .ite (.next wf) (.ite (.next (.upd wf)) (.ite (.next (.upd wf1)) (.next (.faults (wake_keeps _) (.configure (.upd wf1))))))

theorem NextWf.execReceivedErrorTlp {port : Nat} {e : ErrTlp} {fn : Nat} {tag : Option Nat} {hdr : List Word} (wf : MemsWf s) :
    NextWf (execReceivedErrorTlp port e fn tag hdr s) := by
  unfold Machine.execReceivedErrorTlp
  refine .ite (.next wf) ?_
  extract_lets bit s1
  have hs1 : MemsWf s1 := .faults (wake_keeps ..) wf
  split
  · exact .next (.loseData (.upd (.updHpc hs1 rfl)))
  · exact .next (.loseData (.upd (.updHpc hs1 rfl)))
  · exact .next (.loseData (.upd hs1))
  · exact .next (.loseData (.upd hs1))
  · exact .next (.upd (.updHpc hs1 rfl))
  · exact .next (.loseData (.raiseSrc (.upd (.updHpc hs1 rfl))))

theorem NextWf.execCompletionTimeout {port : Nat} {tag : Option Nat} (wf : MemsWf s) : NextWf (execCompletionTimeout port tag s) := by
  unfold Machine.execCompletionTimeout
  refine .ite (.next wf) ?_
  extract_lets s1 s2
  have hs2 : MemsWf s2 := .loseData (.raiseSrc (.upd (.ite wf (.updHpc wf rfl))))
  exact .next (.ite (.twinLost hs2) hs2)

theorem NextWf.execInboundWindowRequest {fromPartner : Bool} {addr : Nat} {r : WindowReq} (wf : MemsWf s) :
    NextWf (execInboundWindowRequest fromPartner addr r s) := by
  unfold Machine.execInboundWindowRequest
  split
  · exact .next wf
  · refine .ite (.next wf) (.ite (.next wf) ?_)
    split
    · exact .next wf
    · exact .next ⟨wf.1, memWf_mwrite 0 _ _ _ wf.2.1, wf.2.2⟩

theorem NextWf.execPrPerstRelease (wf : MemsWf s) : NextWf (execPrPerstRelease s) := by
  unfold Machine.execPrPerstRelease
  split
  · exact .next wf
  · exact .ite (.next wf) (.next (.upd (.updHpc (.updHpc wf rfl) rfl)))

theorem NextWf.execTwinConfigStart {chipId : Word} {pface authOk rdy : Bool} (wf : MemsWf s) :
    NextWf (execTwinConfigStart chipId pface authOk rdy s) := by
  unfold Machine.execTwinConfigStart
  split
  · exact .next wf
  · refine .ite (.next wf) ?_
    refine .ite (.next (.twinLost (.upd (.updHpc wf rfl)))) ?_
    refine .ite (.next (.twinLost (.raiseSrc (.upd wf)))) ?_
    extract_lets s0 s1
    have hs0 : MemsWf s0 := .ite wf (.upd (.updHpc wf rfl))
    have hs1 : MemsWf s1 := .ite (.updHpc hs0 rfl) hs0
    exact .ite (.next (.updHpc hs1 rfl)) (.next (.upd (.updHpc hs1 rfl)))

theorem NextWf.execTwinPartnerLost (wf : MemsWf s) : NextWf (execTwinPartnerLost s) := by
  unfold Machine.execTwinPartnerLost
  split
  · exact .next wf
  · exact .ite (.next wf) (.next (.twinLost wf))

theorem NextWf.execTwinRetry (wf : MemsWf s) : NextWf (execTwinRetry s) := by
  unfold Machine.execTwinRetry
  split
  · exact .next wf
  · exact .ite (.next wf) (.next (.upd (.updHpc (.updHpc wf rfl) rfl)))

theorem NextWf.execControllerEnable {ctrl ams mps asqs acqs : Nat} (wf : MemsWf s) : NextWf (execControllerEnable ctrl ams mps asqs acqs s) := by
  unfold Machine.execControllerEnable
  split
  · exact .next wf
  · extract_lets s0 s1 s2 s3
    have wf2 : MemsWf s2 := .upd (.upd (.faults (wake_keeps s) wf))
    have wf3 : MemsWf s3 := .ite (.updHpc wf2 rfl) wf2
    exact .ite (.next wf) (.next (.ite wf3 (.work (makeReady_work ..) wf3)))

theorem NextWf.execSqTailDoorbell {ctrl qid value : Nat} (wf : MemsWf s) : NextWf (execSqTailDoorbell ctrl qid value s) := by
  unfold Machine.execSqTailDoorbell
  refine .ite (.next wf) ?_
  split
  · exact .next (.badDoorbell wf)
  · refine .ite (.next (.badDoorbell wf)) ?_
    extract_lets s1
    have hs1 : MemsWf s1 := .faults (wake_keeps ..) (.upd wf)
    exact .next (.ite (.makeHot hs1) hs1)

theorem NextWf.execCqHeadDoorbell {ctrl qid value : Nat} (wf : MemsWf s) : NextWf (execCqHeadDoorbell ctrl qid value s) := by
  unfold Machine.execCqHeadDoorbell
  refine .ite (.next wf) ?_
  split
  · exact .next (.badDoorbell wf)
  · exact .ite (.next (.badDoorbell wf)) (.next (.upd (.faults (wake_keeps ..) wf)))

theorem NextWf.execSubmissionFetch {ctrl qid : Nat} {r : FetchResult} (wf : MemsWf s) : NextWf (execSubmissionFetch ctrl qid r s) := by
  unfold Machine.execSubmissionFetch
  split
  · exact .next wf
  · refine .ite (.next wf) ?_
    split
    · exact .next (.fetchFrom wf)
    · exact .next (.upd wf)

theorem NextWf.execContextMadeHot {ctrl qid : Nat} (wf : MemsWf s) : NextWf (execContextMadeHot ctrl qid s) := by
  unfold Machine.execContextMadeHot
  split
  · exact .next wf
  · exact .ite (.next (.makeHot wf)) (.next wf)

theorem NextWf.execFetchRetry {ctrl qid : Nat} {r : FetchResult} (wf : MemsWf s) : NextWf (execFetchRetry ctrl qid r s) := by
  unfold Machine.execFetchRetry
  split
  · exact .next wf
  · refine .ite (.next wf) ?_
    dsimp only
    split
    · exact .next (.ite (.fetchFrom (.upd wf)) (.upd wf))
    · exact .next (.stopQueue (.upd wf))

theorem NextWf.execAdmitToRun {tag : Nat} (wf : MemsWf s) : NextWf (execAdmitToRun tag s) := by
  unfold Machine.execAdmitToRun
  split
  · exact .next wf
  · refine .ite (.next wf) ?_
    split
    · exact .next (.run1 wf)
    · split
      · exact .next (.run1 wf)
      · exact .ite (.next (.run1 wf)) (.ite (.next wf) (.ite (.next (.run1 (.run1 (.ite wf (.enterOvl wf))))) (.next wf)))

theorem NextWf.execCompletionPost {tag : Nat} (wf : MemsWf s) : NextWf (execCompletionPost tag s) := by
  unfold Machine.execCompletionPost
  split
  · exact .next wf
  · split
    · exact .ite (.next wf) (.next (.startTunnels (.freeTag (.upd wf))))
    · exact .next wf
    · split
      · exact .next wf
      · refine .ite (.next wf) ?_
        extract_lets head s1 q1 s2 s3 s4
        have hs2 : MemsWf s2 := .upd (.upd wf)
        have hs3 : MemsWf s3 := .ite (.raiseMsix hs2) hs2
        exact .next (.startTunnels (.freeTag (.returnResv (.ite (.debit (.chargeOps hs3)) hs3))))

theorem NextWf.execCreateIoSubmissionQueue {tag : Nat} (wf : MemsWf s) : NextWf (execCreateIoSubmissionQueue tag s) :=
  .next (.admin (fun _ _ wf => .ite (.work (post_work ..) wf) (.ite (.work (post_work ..) wf) (.ite (.work (post_work ..) wf) (.ite (.work
      (post_work ..) wf) (.work (post_work ..) (.upd wf)))))) wf)

theorem NextWf.execGetLogPage {tag : Nat} (wf : MemsWf s) : NextWf (execGetLogPage tag s) := by
  unfold Machine.execGetLogPage
  refine .next ?_
  refine .admin (fun _ _ wf => ?_) wf
  refine .ite ?_ (.ite (.work (post_work ..) wf) (.answer (.ite (.upd wf) wf)))
  extract_lets s1 cap s2
  have hs1 : MemsWf s1 := .ite (.upd wf) wf
  exact .answer (.ite (.readCtrlCap hs1) hs1)

theorem NextWf.execDeleteIoCompletionQueue {tag : Nat} (wf : MemsWf s) : NextWf (execDeleteIoCompletionQueue tag s) :=
  .next (.admin (fun _ _ wf => .ite (.work (post_work ..) wf) (.ite (.work (post_work ..) wf) (.work (post_work ..) (.upd wf)))) wf)

theorem NextWf.execCreateIoCompletionQueue {tag : Nat} (wf : MemsWf s) : NextWf (execCreateIoCompletionQueue tag s) :=
  .next (.admin (fun _ _ wf => .ite (.work (post_work ..) wf) (.ite (.work (post_work ..) wf) (.ite (.work (post_work ..) wf) (.ite (.work
      (post_work ..) wf) (.work (post_work ..) (.upd wf)))))) wf)

theorem NextWf.execIdentify {tag : Nat} (wf : MemsWf s) : NextWf (execIdentify tag s) := by
  unfold Machine.execIdentify
  refine .next ?_
  refine .admin (fun _ _ wf => ?_) wf
  dsimp only
  split
  · split
    · exact .answer wf
    · exact .work (post_work ..) wf
  · exact .answer wf
  · exact .answer wf
  · split
    · exact .answer wf
    · exact .work (post_work ..) wf
  · exact .answer wf
  · split
    · exact .answer wf
    · exact .work (post_work ..) wf
  · split
    · exact .answer wf
    · exact .work (post_work ..) wf
  · exact .answer wf
  · exact .answer wf
  · exact .answer wf
  · exact .work (post_work ..) wf

theorem NextWf.execAbort {tag : Nat} (wf : MemsWf s) : NextWf (execAbort tag s) := by
  unfold Machine.execAbort
  refine .next ?_
  refine .admin (fun _ _ wf => ?_) wf
  refine .ite (.work (post_work ..) wf) ?_
  split
  · exact .work (post_work ..) (.work (postEarly_work ..) (.upd wf))
  · exact .work (post_work ..) wf

theorem NextWf.execSetFeatures {tag : Nat} (wf : MemsWf s) : NextWf (execSetFeatures tag s) :=
  .next (.admin (fun _ _ wf => .ite (.work (post_work ..) wf) (.ite (.ite (.work (post_work ..) wf) (.work (post_work ..) (.rescale (.upd wf))))
      (.ite (.ite (.work (post_work ..) wf) (.work (post_work ..) (.upd wf))) (.ite (.ite (.work (post_work ..) wf) (.work (post_work ..)
      (.upd wf))) (.ite (.ite (.work (post_work ..) wf) (.work (post_work ..) (.upd wf))) (.work (post_work ..) (.upd wf))))))) wf)

theorem NextWf.execGetFeatures {tag : Nat} (wf : MemsWf s) : NextWf (execGetFeatures tag s) :=
  .next (.admin (fun _ _ wf => .ite (.work (post_work ..) wf) (.ite (.work (post_work ..) wf) (.ite (.work (post_work ..) wf) (.work
      (post_work ..) wf)))) wf)

theorem NextWf.execAsynchronousEventRequest {tag : Nat} (wf : MemsWf s) : NextWf (execAsynchronousEventRequest tag s) := by
  unfold Machine.execAsynchronousEventRequest
  refine .next ?_
  refine .admin (fun _ _ wf => ?_) wf
  refine .ite wf ?_
  refine .ite (.work (post_work ..) wf) ?_
  split
  · exact .work (post_work ..) (.upd wf)
  · exact .upd wf

theorem NextWf.execNamespaceManagement {tag nsze ncap fmt : Nat} (wf : MemsWf s) : NextWf (execNamespaceManagement tag nsze ncap fmt s) := by
  unfold Machine.execNamespaceManagement
  refine .next ?_
  refine .admin (fun _ _ wf1 => ?_) wf
  dsimp only
  split
  · exact .createNs wf1
  · exact .ite (.work (post_work ..) wf1) (.ite (.work (fullLog_work ..) wf1) (.work (post_work ..) (.afterAlloc
      (.each wf1 fun _ _ wf => .deleteNs wf))))
  · exact .work (post_work ..) wf1

theorem NextWf.execFirmwareCommit {tag : Nat} {img : Image} (wf : MemsWf s) : NextWf (execFirmwareCommit tag img s) := by
  unfold Machine.execFirmwareCommit
  refine .next ?_
  refine .admin (fun _ _ wf => ?_) wf
  refine .ite wf ?_
  refine .ite (.work (post_work ..) wf) ?_
  refine .ite (.work (post_work ..) wf) ?_
  split
  · exact .prohibit wf
  · exact .commit wf

theorem NextWf.execFirmwareImageDownload {tag : Nat} (wf : MemsWf s) : NextWf (execFirmwareImageDownload tag s) := by
  unfold Machine.execFirmwareImageDownload
  refine .next ?_
  refine .admin (fun _ _ wf => ?_) wf
  refine .ite (.work (post_work ..) wf) ?_
  split
  · exact .prohibit wf
  · exact .ite (.work (post_work ..) wf) (.work (post_work ..) (.upd (.upd wf)))

theorem NextWf.execDeviceSelfTest {tag : Nat} (wf : MemsWf s) : NextWf (execDeviceSelfTest tag s) :=
  .next (.admin (fun _ _ wf => .ite (.work (post_work ..) (.endSelfTest wf)) (.ite (.work (post_work ..) wf) (.ite (.work (post_work ..) wf) (.work
      (post_work ..) (.upd wf))))) wf)

theorem NextWf.execNamespaceAttachment {tag : Nat} {ctrls : List Nat} (wf : MemsWf s) : NextWf (execNamespaceAttachment tag ctrls s) := by
  unfold Machine.execNamespaceAttachment
  refine .next ?_
  refine .admin (fun _ _ wf => ?_) wf
  dsimp only
  split
  · exact .work (post_work ..) wf
  · exact .ite (.work (post_work ..) wf) (.ite (.ite (.work (post_work ..) wf) (.ite (.work (post_work ..) wf) (.work (post_work ..) (.tellChanged
      (.upd wf))))) (.ite (.ite (.work (post_work ..) wf) (.work (post_work ..) (.tellChanged (.upd wf)))) (.work (post_work ..) wf)))

theorem NextWf.execVirtualizationManagement {tag : Nat} (wf : MemsWf s) : NextWf (execVirtualizationManagement tag s) := by
  unfold Machine.execVirtualizationManagement
  refine .next ?_
  refine .admin (fun _ _ wf => ?_) wf
  dsimp only
  split
  · exact .ite (.work (post_work ..) wf) (.ite (.work (post_work ..) wf) (.ite (.work (post_work ..) wf) (.work (post_work ..) (.upd wf))))
  · exact .ite (.work (post_work ..) wf) (.work (post_work ..) (.upd (.resetCtrl wf)))
  · exact .ite (.work (post_work ..) wf) (.ite (.work (post_work ..) wf) (.ite (.work (post_work ..) wf) (.ite (.work (post_work ..) wf) (.work
      (post_work ..) (.upd wf)))))
  · exact .ite (.work (post_work ..) wf) (.ite (.work (post_work ..) wf) (.work (post_work ..) (.upd wf)))
  · exact .work (post_work ..) wf

theorem NextWf.execNvmeMiSend {tag : Nat} (wf : MemsWf s) : NextWf (execNvmeMiSend tag s) := by
  unfold Machine.execNvmeMiSend
  refine .next ?_
  refine .admin (fun _ _ wf => ?_) wf
  dsimp only
  split
  · exact .work (post_work ..) wf
  · exact .miAct (.work (post_work ..) wf)
  · exact .work (post_work ..) (.miAct wf)

theorem NextWf.execNvmeMiReceive {tag : Nat} (wf : MemsWf s) : NextWf (execNvmeMiReceive tag s) := by
  unfold Machine.execNvmeMiReceive
  refine .next ?_
  refine .admin (fun _ _ wf => ?_) wf
  dsimp only
  split
  · exact .work (post_work ..) wf
  · exact .work (post_work ..) (.upd (.miAct wf))

theorem NextWf.execFormatNvm {tag : Nat} (wf : MemsWf s) : NextWf (execFormatNvm tag s) := by
  unfold Machine.execFormatNvm
  refine .next ?_
  refine .admin (fun _ _ wf => ?_) wf
  dsimp only
  split
  · exact .work (post_work ..) wf
  · refine .ite (.work (post_work ..) wf) ?_
    refine .ite (.work (post_work ..) wf) ?_
    refine .ite (.work (fullLog_work ..) wf) ?_
    split
    · exact .work (post_work ..) wf
    · exact .upd wf
    · exact .work (post_work ..) (.afterAlloc (.tellChanged (.upd (.upd (.unmapAll (.upd wf))))))

theorem NextWf.execSecuritySend {tag : Nat} {req : SpdmReq} (wf : MemsWf s) : NextWf (execSecuritySend tag req s) := by
  refine .next (.admin (fun t s wf1 => ?_) wf)
  refine .ite (.work (post_work ..) wf1) (.ite (.work (post_work ..) wf1) (.ite wf1 ?_))
  dsimp only
  exact .work (post_work ..) (.upd (.spdmAct wf1))

theorem NextWf.execSanitize {tag : Nat} (wf : MemsWf s) : NextWf (execSanitize tag s) := by
  unfold Machine.execSanitize
  refine .next ?_
  refine .admin (fun _ _ wf => ?_) wf
  refine .ite wf ?_
  refine .ite (.work (post_work ..) wf) ?_
  refine .ite (.work (post_work ..) wf) ?_
  refine .ite ?_ (.work (post_work ..) (.openSan wf))
  split
  · exact .work (post_work ..) wf
  · exact .ite (.work (post_work ..) wf) (.work (post_work ..) (.closeSan (.clearMap (.discardWells wf))))

theorem NextWf.execFlush {tag : Nat} (wf : MemsWf s) : NextWf (execFlush tag s) := by
  unfold Machine.execFlush
  split
  · exact .next wf
  · exact .ite (.next wf) (.next (.work (post_work ..) wf))

theorem NextWf.execRead {tag : Nat} {outcomes : List IuOutcome} (wf : MemsWf s) : NextWf (execRead tag outcomes s) := by
  unfold Machine.execRead
  refine .next ?_
  refine .io (fun _ _ _ wf => ?_) wf
  extract_lets s1
  have hs1 : MemsWf s1 := .lookAll wf
  split
  · exact .ite (.egress hs1) hs1
  · exact hs1

theorem NextWf.execWriteUncorrectable {tag : Nat} (wf : MemsWf s) : NextWf (execWriteUncorrectable tag s) :=
  .next (.recordIo (fun _ _ _ wf1 => .ite (.work (post_work ..) wf1) (.withRanges (fun _ wf2 => .recsDone (.setRange (.each
      (.each wf2 fun _ _ wf => .markPart wf) fun _ _ wf => .setRange wf))) wf1)) wf)

theorem NextWf.execCompare {tag : Nat} {outcomes : List IuOutcome} {data : List Nat} (wf : MemsWf s) :
    NextWf (execCompare tag outcomes data s) := by
  refine .next (.io (fun t n s wf => .ite wf ?_) wf)
  have wf1 := MemsWf.cmpEff (k := tag) (outs := outcomes) (data := data) (t := t) (n := n) wf
  generalize cmpEff tag outcomes data t n s = x at wf1
  obtain ⟨s1, _ | sc⟩ := x
  · exact wf1
  · exact .work (post_work ..) wf1

theorem NextWf.execFusedCompareAndWrite {tag : Nat} {outcomes : List IuOutcome} {mirOk : Bool} {expect data : List Nat} (wf : MemsWf s) :
    NextWf (execFusedCompareAndWrite tag outcomes mirOk expect data s) := by
  refine .next (.io (fun t n s wf => ?_) wf)
  split
  · exact wf
  · have wf1 := MemsWf.cmpEff (k := tag) (outs := outcomes) (data := expect) (t := t) (n := n) wf
    generalize cmpEff tag outcomes expect t n s = x at wf1 ⊢
    split
    · exact .io (fun _ _ _ wf => .writeEff wf) (.work (post_work ..) wf1)
    · exact .work (post_work ..) wf1
    · exact wf1

theorem NextWf.execWriteZeroes {tag : Nat} {ing : Ingress} (wf : MemsWf s) : NextWf (execWriteZeroes tag ing s) := by
  unfold Machine.execWriteZeroes
  refine .next ?_
  refine .recordIo (fun _ _ _ wf1 => ?_) wf
  refine .ite (.ingressFail wf1) ?_
  refine .withRanges (fun _ wf2 => ?_) wf1
  refine .mergeAndPlace (fun _ wf => ?_) wf2
  extract_lets s1
  have hs1 : MemsWf s1 := .setRange wf
  exact .ite (.allPlaced hs1) (.recsDone hs1)

theorem NextWf.execDatasetManagement {tag : Nat} (wf : MemsWf s) : NextWf (execDatasetManagement tag s) :=
  .onSeq wf (.next (.recordIo (fun _ _ _ wf1 => .ite (.work (post_work ..) wf1) (.withRanges (fun _ wf2 => .recsDone
      (.each wf2 fun _ _ wf => .setRange wf)) wf1)) wf))

theorem NextWf.execVerify {tag : Nat} {outcomes : List IuOutcome} (wf : MemsWf s) : NextWf (execVerify tag outcomes s) := by
  unfold Machine.execVerify
  refine .next ?_
  refine .io (fun _ _ _ wf => ?_) wf
  extract_lets s1
  have hs1 : MemsWf s1 := .lookAll wf
  dsimp only
  split
  · exact hs1
  · exact .ite hs1 (.ite (.gather hs1) (.work (post_work ..) (.gather hs1)))

theorem NextWf.execMeterTick (wf : MemsWf s) : NextWf (execMeterTick s) := by
  unfold Machine.execMeterTick
  extract_lets s0
  have hs0 : MemsWf s0 := .ite wf (.advanceRtc (.upd wf))
  exact .ite (.next hs0) (.next (.upd (.rescale (.agedMsix hs0))))

theorem NextWf.execTransferBlockStart {tag : Nat} (wf : MemsWf s) : NextWf (execTransferBlockStart tag s) := by
  unfold Machine.execTransferBlockStart
  split
  · exact .next wf
  · split
    · exact .ite (.next wf) (.next (.upd (.upd wf)))
    · exact .next wf

theorem NextWf.execTraceEnd (wf : MemsWf s) : NextWf (execTraceEnd s) := by
  unfold Machine.execTraceEnd
  split
  · exact .next wf
  · exact .ite (.next wf) (.next (.endTrace (.upd wf)))

theorem NextWf.execTranslationCompletion {req : Nat} {a : XlatAnswer} (wf : MemsWf s) : NextWf (execTranslationCompletion req a s) := by
  unfold Machine.execTranslationCompletion
  split
  · exact .next wf
  · refine .ite (.next wf) ?_
    refine .ite (.next (.nextXlat (.upd wf))) ?_
    refine .ite (.next (.upd (.upd wf))) ?_
    dsimp only
    split
    · exact .next (.nextXlat (.grantXlat (.upd wf)))
    · exact .next (.nextXlat (.each (.upd wf) fun _ _ wf => .denied wf))
    · exact .ite (.next (.nextXlat (.each (.upd wf) fun _ _ wf => .failTx wf))) (.next (.nextXlat (.upd wf)))

theorem NextWf.execTranslationRetry {req : Nat} (wf : MemsWf s) : NextWf (execTranslationRetry req s) := by
  unfold Machine.execTranslationRetry
  split
  · exact .next wf
  · exact .ite (.next wf) (.ite (.next (.upd wf)) (.ite (.next wf) (.next (.upd (.upd wf)))))

theorem NextWf.execPrgSend {tag : Nat} (wf : MemsWf s) : NextWf (execPrgSend tag s) := by
  unfold Machine.execPrgSend
  split
  · exact .next wf
  · refine .ite (.next wf) ?_
    split
    · exact .next (.waitGroup wf)
    · split
      · exact .next wf
      · exact .ite (.next wf) (.next (.waitGroup (.sendGroup (.upd wf))))

theorem NextWf.execPrgResponse {ctrl prg : Nat} {a : PrgAnswer} (wf : MemsWf s) : NextWf (execPrgResponse ctrl prg a s) := by
  unfold Machine.execPrgResponse
  refine .ite (.next wf) ?_
  dsimp only
  split
  · refine .next ?_
    refine .nextXlat ?_
    refine .each (.upd wf) fun _ _ wf => ?_
    split
    · exact .untrkSusp (.upd wf)
    · exact wf
  · exact .next (.each (.upd wf) fun _ _ wf => .failPg wf)
  · exact .next (.stopPri (.each (.updHpc (.upd wf) rfl) fun _ _ wf => .failPg wf))

theorem NextWf.execMapPageLoaded {ns page : Nat} {readable : Bool} (wf : MemsWf s) : NextWf (execMapPageLoaded ns page readable s) := by
  unfold Machine.execMapPageLoaded
  refine .onSeq wf (.ite (.next wf) ?_)
  extract_lets s1 lost s2 s3 s4
  have hs1 : MemsWf s1 := .work (cachePage_work ..) (.upd wf)
  have hs3 : MemsWf s3 := .upd (.upd (.upd (.each hs1 fun _ _ wf => .work (setUnc_work ..) wf)))
  exact .ite (.next (.startMapReads (.pageArrived hs1)))
    (.next (.startMapReads (.pageArrived (.ite hs3 (.work (programPage_work ..) hs3)))))

theorem NextWf.execContextResume {id : Nat} {k : CtxKind} (wf : MemsWf s) : NextWf (execContextResume id k s) := by
  unfold Machine.execContextResume
  refine .ite (.next wf) ?_
  split
  · split
    · exact .ite (.next (.engFreed (.upd wf))) (.next wf)
    · exact .next wf
  · split
    · exact .ite (.next (.upd (.upd (.upd wf)))) (.next wf)
    · exact .next wf
  · split
    · exact .ite (.next (.lookahead (.upd (.upd (.upd wf))))) (.next wf)
    · exact .next wf

theorem NextWf.execMapFold (wf : MemsWf s) : NextWf (execMapFold s) := by
  unfold Machine.execMapFold
  refine .onSeq wf ?_
  refine .ite (.next wf) ?_
  split
  · exact .next wf
  · exact .ite (.next wf) (.next (.ite (.work (programPage_work ..) (.pageStep wf)) (.pageStep wf)))

theorem NextWf.execLogCompaction (wf : MemsWf s) : NextWf (execLogCompaction s) := by
  unfold Machine.execLogCompaction
  refine .onSeq wf ?_
  refine .ite (.next wf) ?_
  split
  · exact .next wf
  · exact .ite (.next wf) (.next (.work (afterCommit_work ..) (.upd wf)))

theorem NextWf.execRangeRecordFold {slot : Nat} (wf : MemsWf s) : NextWf (execRangeRecordFold slot s) := by
  unfold Machine.execRangeRecordFold
  refine .ite (.next wf) ?_
  split
  · exact .next wf
  · exact .next (.work (afterCommit_work ..) (.upd wf))

theorem NextWf.execWriteGrant {tag : Nat} (wf : MemsWf s) : NextWf (execWriteGrant tag s) := by
  unfold Machine.execWriteGrant
  refine .onSeq wf ?_
  split
  · exact .next wf
  · exact .ite (.next (.upd wf)) (.next wf)

theorem NextWf.execGcSelect {dom : Nat} {s0 : State} (wf : MemsWf s0) : NextWf (execGcSelect dom s0) := by
  unfold Machine.execGcSelect
  refine .onSeq wf ?_
  refine .ite (.next wf) ?_
  dsimp only
  split
  · exact .next wf
  · split
    · exact .next wf
    · exact .next (.upd (.each (.work (gcLevels_work ..) wf) fun _ _ wf => .ite (.upd wf) wf))

theorem NextWf.execGcScan {dom stripe : Nat} {outcomes : List IuOutcome} (wf : MemsWf s) : NextWf (execGcScan dom stripe outcomes s) := by
  unfold Machine.execGcScan
  refine .onSeq wf ?_
  split
  · exact .ite (.ite (.next (.upd (.engAll wf))) (.next (.work (afterCommit_work ..) (.upd (.upto (.engAll wf) fun _ _ wf => .gcIu wf)))))
      (.next wf)
  · exact .next wf

theorem NextWf.execGcDrain {dom stripe : Nat} (wf : MemsWf s) : NextWf (execGcDrain dom stripe s) := by
  unfold Machine.execGcDrain
  refine .onSeq wf ?_
  split
  · exact .ite (.next (.upd (.upd (.upd (.upd (.upd (.each wf fun _ _ wf => .ite (.work (doubtBlk_work ..) wf) wf))))))) (.next wf)
  · exact .next wf

theorem NextWf.execErasePass {die block : Nat} (wf : MemsWf s) : NextWf (execErasePass die block s) := by
  unfold Machine.execErasePass
  split
  · exact .next wf
  · exact .next (.work (afterCommit_work ..) (.gcTargets (.work (gcLevels_work ..) (.upd (.sanErased (.onlyIf (.upd (.upd (.upd (.work
      (blkDelta_work ..) (.upd (.work (freeEntry_work ..) wf)))))) fun _ wf => .upd wf))))))

theorem NextWf.execEraseFailure {die block : Nat} (wf : MemsWf s) : NextWf (execEraseFailure die block s) := by
  unfold Machine.execEraseFailure
  split
  · exact .next wf
  · exact .next (.retireErased (.upd (.work (freeEntry_work ..) wf)))

theorem NextWf.execProgramFailure {die block step : Nat} (wf : MemsWf s) : NextWf (execProgramFailure die block step s) := by
  unfold Machine.execProgramFailure
  split
  · exact .next wf
  · exact .next (.failProgram (.upd (.work (freeEntry_work ..) wf)))

theorem NextWf.execDieEntryChosen {die : Nat} {s0 : State} (wf : MemsWf s0) : NextWf (execDieEntryChosen die s0) := by
  unfold Machine.execDieEntryChosen
  extract_lets s d
  have hs : MemsWf s := .ite (.upd (.drainQ wf)) wf
  refine .ite (.next hs) ?_
  dsimp only
  split
  · exact .next hs
  · exact .ite (.next (.work (refuseOp_work ..) hs)) (.ite (.next (.upd (.upd (.upd hs)))) (.next (.upd (.ite (.upd hs) (.upd (.upd hs))))))

theorem NextWf.execBusTransferGrant {ch die : Nat} (wf : MemsWf s) : NextWf (execBusTransferGrant ch die s) := by
  unfold Machine.execBusTransferGrant
  refine .ite (.next wf) ?_
  split
  · exact .next wf
  · refine .ite (.next wf) ?_
    extract_lets s1
    have hs1 : MemsWf s1 := .work (freeEntry_work ..) (.endRefs wf)
    split
    · exact .next (.each hs1 fun _ _ wf => .upd (.work (toLadder_work ..) wf))
    · exact .next (.each hs1 fun _ _ wf => .upd (.work (toLadder_work ..) wf))
    · exact .next (.each hs1 fun _ _ wf => .upd (.work (toLadder_work ..) wf))
    · exact .next (.each hs1 fun _ _ wf => .upd (.work (toLadder_work ..) wf))
    · exact .next (.each hs1 fun _ _ wf => .upd (.work (toLadder_work ..) wf))
    · exact .next (.each hs1 fun _ _ wf => .upd (.work (toLadder_work ..) wf))
    · exact .next (.upd hs1)
    · exact .next hs1
    · exact .next hs1
    · exact .next hs1
    · exact .next hs1
    · exact .next hs1

theorem NextWf.execDieReadyPoll {die : Nat} (wf : MemsWf s) : NextWf (execDieReadyPoll die s) := by
  refine .ite (.next wf) (.ite (.next (.upd wf)) ?_)
  split
  · exact .next wf
  · extract_lets s1
    have hs1 : MemsWf s1 := .upd (.upd wf)
    split
    · exact .next (.upd hs1)
    · exact .next (.upd (.upd hs1))
    · exact .next (.upd hs1)
    · exact .next (.work (freeEntry_work ..) hs1)
    · exact .next (.work (freeEntry_work ..) hs1)

theorem NextWf.execArrayOverrun {die : Nat} (wf : MemsWf s) : NextWf (execArrayOverrun die s) := by
  refine .ite (.next wf) ?_
  split
  · exact .next wf
  · extract_lets s1 s2 s3 s4
    have hs1 : MemsWf s1 := .raiseSrc (.upd (.work (freeEntry_work ..) (.endRefs wf)))
    have hs2 : MemsWf s2 := .upd hs1
    clear_value s2
    have hs3 : MemsWf s3 := by
      unfold s3
      split
      · exact .upd (.upd (.upd (.upd (.upd hs2))))
      · exact hs2
    clear_value s3
    have hs4 : MemsWf s4 := .timedOut hs3
    exact .next (.ite (.failDie hs4) hs4)

theorem NextWf.execSuspendDue {die : Nat} (wf : MemsWf s) : NextWf (execSuspendDue die s) := by
  unfold Machine.execSuspendDue
  dsimp only
  split
  · exact .next wf
  · exact .ite (.next wf) (.ite (.next (.suspLimit wf)) (.ite (.next wf) (.next (.upd wf))))

theorem NextWf.execEraseSuspendDone {die : Nat} (wf : MemsWf s) : NextWf (execEraseSuspendDone die s) := by
  unfold Machine.execEraseSuspendDone
  split
  · exact .next wf
  · exact .ite (.next (.upd (.upd wf))) (.next wf)

theorem NextWf.execResumeDue {die : Nat} (wf : MemsWf s) : NextWf (execResumeDue die s) := by
  unfold Machine.execResumeDue
  dsimp only
  split
  · exact .next wf
  · exact .ite (.next wf) (.ite (.next (.upd wf)) (.next wf))

theorem NextWf.execReadAroundOffer {die op : Nat} (wf : MemsWf s) : NextWf (execReadAroundOffer die op s) := by
  unfold Machine.execReadAroundOffer
  extract_lets d ra s0
  split
  · exact .next wf
  · extract_lets own s1 s2
    have hs0 : MemsWf s0 := by
      unfold s0
      split
      · exact .ite (.suspLimit wf) wf
      · exact wf
    refine .ite (.next wf) (.ite (.next hs0) (.next (.upd (.each (.work (freeEntry_work ..) (.endRefs hs0)) fun _ _ wf => ?_))))
    exact .work (toRecon_work ..) (.upd (.upd (.upd (.work (toLadder_work ..) wf))))

theorem NextWf.execRetrainQueueServed (wf : MemsWf s) : NextWf (execRetrainQueueServed s) := by
  unfold Machine.execRetrainQueueServed
  refine .onSeq wf ?_
  refine .ite (.next wf) ?_
  split
  · exact .next wf
  · exact .next (.upd (.upd wf))

theorem NextWf.execRetrainComplete {t : ChTrain} (wf : MemsWf s) : NextWf (execRetrainComplete t s) := by
  unfold Machine.execRetrainComplete
  refine .onSeq wf ?_
  split
  · exact .next wf
  · extract_lets c from0 s1 s2
    have hs2 : MemsWf s2 := .repeatReads (.upd (.upd (.upd wf)))
    exact .ite (.next (.endOpt (.upd hs2))) (.ite (.next (.askRetrain (.raiseSrc (.upd (.upd hs2))))) (.next (.endOpt (.upto (.raiseSrc (.upd
        (.upd hs2))) fun _ _ wf => .ite (.failDie wf) wf))))

theorem NextWf.execFrameReceived {ch cw : Nat} {m : Marks} (wf : MemsWf s) : NextWf (execFrameReceived ch cw m s) := by
  unfold Machine.execFrameReceived
  split
  · exact .next wf
  · extract_lets quiet fail
    have hfail {s : State} (wf : MemsWf s) : MemsWf (fail s) := by
      refine .ite (.endProbe (.upd wf)) ?_
      extract_lets s1 s2
      have hs2 : MemsWf s2 := .askRetrain (.raiseSrc (.raiseSrc (.upd (.upd wf))))
      exact .ite (.senseDone hs2) (.upd hs2)
    refine .ite (.next wf) ?_
    split
    · exact .ite (.next (.senseDone wf)) (.ite (.next (hfail wf)) (.ite (.next (.senseDone wf)) (.next (.slip (.upd (.upd (.senseDone wf)))))))
    · exact .ite (.next (.senseDone wf)) (.next (.slip (.upd (.upd (.senseDone wf)))))
    · exact .ite (.next (hfail wf)) (.ite (.next (.endProbe (.upd wf))) (.next (.work (enterStep5_work ..) (.upd wf))))

theorem NextWf.execDecodeResult {cw step : Nat} {d : Decode} (wf : MemsWf s) : NextWf (execDecodeResult cw step d s) := by
  unfold Machine.execDecodeResult
  split
  · exact .next wf
  · refine .ite (.next wf) ?_
    extract_lets low l quiet s0 s1
    have hs1 : MemsWf s1 := .ite (.upd (.upd wf)) (.upd wf)
    exact .ite (.ite (.next (.endProbe (.upd hs1))) (.next (.finishCw (.ite (.countDecode hs1) hs1)))) (.ite (.next (.stepFailed (.ite (.upd hs1)
        (.raiseSrc (.upd (.upd hs1)))))) (.next (.stepFailed hs1)))

theorem NextWf.execCandidateExpiry {die plane col : Nat} (wf : MemsWf s) : NextWf (execCandidateExpiry die plane col s) := by
  unfold Machine.execCandidateExpiry
  refine .onSeq wf ?_
  dsimp only
  split
  · exact .next wf
  · exact .ite (.next (.upd wf)) (.next wf)

theorem NextWf.execReconstructionDone {cw : Nat} {sealOk partner : Bool} (wf : MemsWf s) : NextWf (execReconstructionDone cw sealOk partner s) := by
  unfold Machine.execReconstructionDone
  refine .ite (.next wf) ?_
  extract_lets ok s0 s1
  have hs1 : MemsWf s1 := .onlyIf (.askRecons (.upd (.upd wf))) fun _ wf => .work (sealFail_work ..) wf
  split
  · exact .next hs1
  · exact .ite (.next (.finishCw hs1)) (.next (.step6 (.raiseSrc (.upd hs1))))

theorem NextWf.execRebuildStripeStep {dom stripe : Nat} {sealBad : List Nat} {accMis : Bool} (wf : MemsWf s) :
    NextWf (execRebuildStripeStep dom stripe sealBad accMis s) := by
  refine .onSeq wf ?_
  split
  · exact .next wf
  · refine .ite (.next wf) (.ite (.next (.upd wf)) (.ite (.next wf) ?_))
    extract_lets s1
    have hs1 : MemsWf s1 := .ite (.beginRepl wf) wf
    split
    · exact .next hs1
    · split
      · exact .next hs1
      · refine .ite (.next hs1) (.ite (.ite (.next hs1) (.next (.finishRepl hs1))) (.ite (.next hs1) (.ite (.next ?_) ?_)))
        · exact .each hs1 fun _ _ wf => .work (askSurv_work ..) wf
        · exact .next (.ite (.parityMis (.upd (.giveRepl hs1))) (.upd (.giveRepl hs1)))

theorem NextWf.execRebuildMapScan {dom : Nat} (wf : MemsWf s) : NextWf (execRebuildMapScan dom s) := by
  unfold Machine.execRebuildMapScan
  refine .onSeq wf ?_
  refine .ite (.next wf) ?_
  refine .ite ?_ ?_
  · refine .next ?_
    split
    · exact wf
    · exact .engAll wf
  · extract_lets s1 s2
    have hs1 : MemsWf s1 := by
      unfold s1
      refine .onlyIf ?_ (fun _ wf => .scanLost wf)
      split
      · exact wf
      · exact .engAll wf
    exact .next (.checkSpare (.mediaChange (.upd (.work (gcLevels_work ..) (.upd (.upd hs1))))))

theorem NextWf.execMirrorCompletion {tag : Nat} (wf : MemsWf s) : NextWf (execMirrorCompletion tag s) := by
  unfold Machine.execMirrorCompletion
  split
  · exact .next wf
  · exact .ite (.next (.finishMirror wf)) (.next wf)

theorem NextWf.execMirrorTimeout {tag : Nat} (wf : MemsWf s) : NextWf (execMirrorTimeout tag s) := by
  unfold Machine.execMirrorTimeout
  split
  · exact .next wf
  · exact .ite (.next (.partnerLost wf)) (.next wf)

theorem NextWf.execResyncChunkComplete {ns gran : Nat} {last sealOk : Bool} {s0 : State} (wf : MemsWf s0) :
    NextWf (execResyncChunkComplete ns gran last sealOk s0) := by
  unfold Machine.execResyncChunkComplete
  refine .onSeq wf ?_
  extract_lets s k
  have hs : MemsWf s := .onlyIf wf fun _ wf => .work (sealFail_work ..) wf
  dsimp only
  split
  · exact .next hs
  · exact .ite (.next hs) (.ite (.next (.upd hs)) (.next (.endOpt (.upd (.upd (.upd hs))))))

theorem NextWf.execCheckpoint {ok : Bool} (wf : MemsWf s) : NextWf (execCheckpoint ok s) :=
  .onSeq wf (.ite (.next wf) (.ite (.next (.raiseSrc (.upd wf))) (.next (.upd (.endOpt (.work (drainDue_work ..) (.upd (.saveDirs (.work
      (place_work ..) wf)))))))))

theorem NextWf.execAllocate {rq size : Nat} (wf : MemsWf s) : NextWf (execAllocate rq size s) := by
  unfold Machine.execAllocate
  refine .next ?_
  refine .ite wf ?_
  refine .ite (.badBuf wf) ?_
  split
  · exact wf
  · refine .ite wf ?_
    refine .ite (.takeBufs wf) ?_
    extract_lets s1
    have hs1 : MemsWf s1 := .upd (.updWel wf rfl)
    exact .ite hs1 (.ite (.upd hs1) (.upd hs1))

theorem NextWf.execAllocationWaitServed {pool : Nat} (wf : MemsWf s) : NextWf (execAllocationWaitServed pool s) := by
  unfold Machine.execAllocationWaitServed
  refine .next ?_
  refine .ite wf ?_
  split
  · exact wf
  · exact .takeBufs (.updWel wf rfl)

theorem NextWf.execFree {rq buf : Nat} (wf : MemsWf s) : NextWf (execFree rq buf s) := by
  unfold Machine.execFree
  refine .next ?_
  refine .ite wf ?_
  refine .ite (.badBuf wf) ?_
  split
  · exact .badBuf wf
  · exact .ite (.badBuf wf) (.ite wf (.ite (.updWel wf rfl) (.updWel wf rfl)))

theorem NextWf.execAttach {rq buf : Nat} (wf : MemsWf s) : NextWf (execAttach rq buf s) := by
  unfold Machine.execAttach
  refine .next ?_
  refine .ite wf ?_
  refine .ite (.badBuf wf) ?_
  split
  · exact .badBuf wf
  · exact .ite wf (.joinBuf wf)

theorem NextWf.execDetach {rq buf : Nat} (wf : MemsWf s) : NextWf (execDetach rq buf s) := by
  unfold Machine.execDetach
  refine .next ?_
  refine .ite wf ?_
  refine .ite (.badBuf wf) ?_
  split
  · exact .badBuf wf
  · exact .ite (.badBuf wf) (.ite (.ite (.nextAttach (.updWel wf rfl)) (.updWel wf rfl)) (.ite wf (.nextAttach (.updWel wf rfl))))

theorem NextWf.execHandover {rq buf rcv : Nat} (wf : MemsWf s) : NextWf (execHandover rq buf rcv s) := by
  unfold Machine.execHandover
  refine .next ?_
  refine .ite wf ?_
  refine .ite (.badBuf wf) ?_
  split
  · exact wf
  · exact .ite (.badBuf wf) (.ite wf (.updWel wf rfl))

theorem NextWf.execBurstAck {ch idx : Nat} (wf : MemsWf s) : NextWf (execBurstAck ch idx s) := by
  unfold Machine.execBurstAck
  refine .next ?_
  refine .ite wf ?_
  extract_lets n o bs s1 s2 s3 p1
  have hs2 : MemsWf s2 := .each (.dstStore (.ite (.upd wf) wf)) fun _ _ wf => .markPsn wf
  have hs3 : MemsWf s3 := .ite (.xoRead hs2) hs2
  exact .ite (.endStop (.updPmp hs3 rfl)) (.ite (.pumpSlots (.updPmp hs3 rfl)) (.pumpSlots (.endPump (.upd (.updPmp hs3 rfl)))))

theorem NextWf.execBurstError {ch idx : Nat} {e : BurstErr} (wf : MemsWf s) : NextWf (execBurstError ch idx e s) :=
  .next (.ite wf (.ite (.haltPump (.ite (.raiseSrc (.upd wf)) wf)) (.pumpSlots (.updPmp (.ite (.raiseSrc (.upd wf)) wf) rfl))))

theorem NextWf.execNarrowWrite {mem word : Nat} {oldUe : Bool} (wf : MemsWf s) : NextWf (execNarrowWrite mem word oldUe s) := by
  unfold Machine.execNarrowWrite
  refine .next ?_
  refine .ite wf ?_
  refine .ite wf ?_
  extract_lets s1
  have hs1 : MemsWf s1 := .ite (.upd wf) (.upd wf)
  exact .ite (.mergeUe hs1) hs1

theorem NextWf.execMergeBufferFree {mem : Nat} (wf : MemsWf s) : NextWf (execMergeBufferFree mem s) := by
  unfold Machine.execMergeBufferFree
  refine .next ?_
  refine .ite wf ?_
  split
  · exact wf
  · dsimp only
    split <;> exact .upd wf

theorem NextWf.execFaultRailCode {src : Nat} {p n : Bool} {samples : Nat} (wf : MemsWf s) : NextWf (execFaultRailCode src p n samples s) := by
  unfold Machine.execFaultRailCode
  refine .next ?_
  refine .ite wf ?_
  extract_lets u
  have hu : MemsWf u := .afterFaults (.faults (takeRails_keeps ..) wf)
  exact .ite (.upd (.upd (.upd (.upd hu)))) hu

theorem NextWf.execWarmActivationSwitch {verifyOk : Bool} (wf : MemsWf s) : NextWf (execWarmActivationSwitch verifyOk s) := by
  unfold Machine.execWarmActivationSwitch
  refine .onSeq wf ?_
  refine .next ?_
  split
  · exact wf
  · exact .ite wf (.ite (.endJob (.activate (.switchBanks wf))) (.endJob (.verifyFails (.upd wf))))

theorem NextWf.execReverseHandoverTimeout {restartOk : Bool} (wf : MemsWf s) : NextWf (execReverseHandoverTimeout restartOk s) := by
  unfold Machine.execReverseHandoverTimeout
  refine .next ?_
  refine .ite wf ?_
  extract_lets s1
  have hs1 : MemsWf s1 := .each (.fallBack wf) fun _ _ wf => .upd (.upd wf)
  exact .ite hs1 (.faults (askReset_keeps ..) hs1)

theorem NextWf.execWhsOperationComplete {ok : Bool} (wf : MemsWf s) : NextWf (execWhsOperationComplete ok s) := by
  unfold Machine.execWhsOperationComplete
  refine .onSeq wf ?_
  refine .next ?_
  refine .ite wf ?_
  refine .ite (.failJob (.upd wf)) ?_
  refine .ite (.nextPulse (.upd (.upd (.upd (.upd wf))))) ?_
  extract_lets s1 s2
  have hs1 : MemsWf s1 := .upd (.upd (.upd wf))
  refine .ite ?_ (.nextPulse (.upd hs1))
  split
  · exact .finishJob (.upd hs1)
  · exact .upd hs1

theorem NextWf.execSpdmRequest {bus : Nat} {r : SpdmReq} (wf : MemsWf s) : NextWf (execSpdmRequest bus r s) :=
  .onSeq wf (.next (.ite wf (.ite (.faults (wake_keeps ..) wf) (.ite wf (.upd (.spdmAct (.ite wf (.takeMsg wf))))))))

theorem NextWf.execSanitizePhaseDone {rootWritten : Bool} (wf : MemsWf s) : NextWf (execSanitizePhaseDone rootWritten s) := by
  unfold Machine.execSanitizePhaseDone
  refine .onSeq wf ?_
  refine .next ?_
  split
  · exact wf
  · refine .ite wf ?_
    refine .ite wf ?_
    refine .ite (.upd (.upd wf)) ?_
    dsimp only
    split
    · exact .drawRoot (.upd (.discardWells wf))
    · exact .upd (.upd (.upd (.upd (.upd wf))))
    · exact .ite (.beginErase (.clearMap wf)) (.work (beginFinish_work ..) (.clearMap wf))
    · exact .work (beginFinish_work ..) wf
    · exact .closeSan wf

theorem NextWf.execSanitizeQuiesceTimeout (wf : MemsWf s) : NextWf (execSanitizeQuiesceTimeout s) := by
  unfold Machine.execSanitizeQuiesceTimeout
  refine .next ?_
  split
  · exact .ite (.endCmds wf) wf
  · exact wf

theorem NextWf.execMctpPacketReceived {b : Bus} {p : MctpPacket} (wf : MemsWf s) : NextWf (execMctpPacketReceived b p s) := by
  unfold Machine.execMctpPacketReceived
  refine .next ?_
  refine .ite wf ?_
  refine .ite (.raiseSrc (.upd wf)) ?_
  refine .ite (.firstPacket wf) ?_
  split
  · exact .asmError wf
  · exact .ite (.joinMsg wf) (.asmError (.upd wf))

theorem NextWf.execMctpAssemblyTimeout {b : Bus} (wf : MemsWf s) : NextWf (execMctpAssemblyTimeout b s) := by
  unfold Machine.execMctpAssemblyTimeout
  refine .next ?_
  split
  · exact .asmError (.upd wf)
  · exact wf

theorem NextWf.execSetEndpointId {b : Bus} {eid : Nat} (wf : MemsWf s) : NextWf (execSetEndpointId b eid s) := by
  unfold Machine.execSetEndpointId
  refine .next ?_
  refine .answerMsg (fun _ wf => ?_) wf
  split
  · exact wf
  · exact .upd wf

theorem NextWf.execSidebandBusReset {b : Bus} {storm : Bool} (wf : MemsWf s) : NextWf (execSidebandBusReset b storm s) := by
  unfold Machine.execSidebandBusReset
  refine .next ?_
  refine .ite wf ?_
  extract_lets s1
  have hs1 : MemsWf s1 := .upd (.upd (.updCam wf rfl))
  exact .ite (.raiseSrc (.upd hs1)) hs1

theorem NextWf.execSensorConversion {site : Nat} {reading : Option Int} (wf : MemsWf s) : NextWf (execSensorConversion site reading s) := by
  unfold Machine.execSensorConversion
  refine .next ?_
  refine .ite wf ?_
  split
  · exact .badConversion wf
  · exact .ite (.badConversion (.raiseSrc (.upd wf))) (.upd wf)

theorem NextWf.execCamentMctpMessage {b : Bus} (wf : MemsWf s) : NextWf (execCamentMctpMessage b s) := by
  unfold Machine.execCamentMctpMessage
  refine .onSeq wf ?_
  refine .next ?_
  refine .ite wf ?_
  split
  · exact wf
  · split
    · exact .upd wf
    · exact .ite (.faults (wake_keeps ..) (.arrive (.upd wf))) (.upd wf)

theorem NextWf.execLongOperationEnd {h status : Nat} {detail : List Word} (wf : MemsWf s) : NextWf (execLongOperationEnd h status detail s) := by
  unfold Machine.execLongOperationEnd
  refine .next ?_
  split
  · exact wf
  · exact .ite wf (.ite (.endOp (.ite (.upd (.upd (.upd (.upd wf)))) wf)) (.ite (.ite (.endSnapshot wf) (.endOp wf)) wf))

theorem NextWf.execOpCancel {src : Nat} (wf : MemsWf s) : NextWf (execOpCancel src s) := by
  unfold Machine.execOpCancel
  refine .next ?_
  refine .serve (fun _ _ _ wf => ?_) wf
  dsimp only
  split
  · exact .cancelOp wf
  · exact wf

theorem NextWf.execTroughPut {src : Nat} (wf : MemsWf s) : NextWf (execTroughPut src s) := by
  unfold Machine.execTroughPut
  refine .next ?_
  refine .serve (fun _ _ _ wf => ?_) wf
  extract_lets k s1 s2
  have hs1 : MemsWf s1 := .memStore wf
  exact .ite (.updCam hs1 rfl) hs1

theorem NextWf.execGcControl {src : Nat} (wf : MemsWf s) : NextWf (execGcControl src s) := by
  refine .next (.serve (fun r h s wf1 => ?_) wf)
  extract_lets d g set s1
  have wf2 : MemsWf s1 := .endOpt wf1
  clear_value s1
  split
  · dsimp only [set]
    exact .gcTargets (.work (gcLevels_work _) (.upd wf2))
  · dsimp only [set]
    exact .work (gcLevels_work _) (.upd wf2)

theorem NextWf.execColdefAdd {src : Nat} (wf : MemsWf s) : NextWf (execColdefAdd src s) := by
  unfold Machine.execColdefAdd
  refine .next ?_
  refine .serve (fun _ _ _ wf => ?_) wf
  extract_lets c s1
  have hs1 : MemsWf s1 := .addCol wf
  split <;> exact hs1

theorem NextWf.execLadderProbe {src : Nat} (wf : MemsWf s) : NextWf (execLadderProbe src s) := by
  unfold Machine.execLadderProbe
  refine .next ?_
  refine .serve (fun _ _ _ wf => ?_) wf
  extract_lets cw fresh s1
  have hs1 : MemsWf s1 := .work (toLadder_work ..) wf
  exact .ite (.queueSenses hs1) hs1

theorem NextWf.execMirrorSet {src : Nat} {storeOk : Bool} (wf : MemsWf s) : NextWf (execMirrorSet src storeOk s) := by
  unfold Machine.execMirrorSet
  refine .next ?_
  refine .serve (fun _ _ _ wf => ?_) wf
  extract_lets ns s0
  have hs0 : MemsWf s0 := by
    unfold s0
    split
    · exact .endOpt wf
    · exact wf
  dsimp only
  split
  · exact .upd (.upd hs0)
  · exact .upd hs0

theorem NextWf.execOwnerLock {src : Nat} {sigOk : SigOk} (wf : MemsWf s) : NextWf (execOwnerLock src sigOk s) := by
  unfold Machine.execOwnerLock
  refine .next ?_
  refine .signedReq (fun _ _ wf => ?_) wf
  extract_lets on s1 s2
  have hs1 : MemsWf s1 := .upd (.upd wf)
  exact .ite hs1 (.upd hs1)

theorem NextWf.execRegisterWrite {fn addr size value : Nat} (wf : MemsWf s) : NextWf (execRegisterWrite fn addr size value s) :=
  .ite .fault (.next (.ite wf (.ite (.ite (.faults (wake_keeps ..) wf) (.offer (.faults (wake_keeps ..) wf))) (.ite (.ite (.writeFlag (.faults
      (wake_keeps ..) wf)) (.faults (wake_keeps ..) wf)) (.hostBytes (.faults (wake_keeps ..) wf))))))

theorem NextWf.exec (c : Instr) (wf : MemsWf s) : NextWf (exec c s) := by
  cases c with
  | nop | deviceInfo | opQuery | modeGet | qosInfo | tenantGet | xltInfo | fteInfo | domCapacity | blockInfo | nsPlacement |
    fchInfo | chStatus | dieStatus | bstGet | sreInfo | loopGet | dreInfo | stripeInfo | mirrorStatus | cstInfo | welInfo |
    rqStatus | pumpStatus | mprInfo | eccCounts | fltInfo | srcStatus | pwrInfo | timeGet | profileInfo | updInfo | slotInfo
    | secInfo | telInfo | sensorRead => exact .next (.serveRead wf)
  | troughCheck | troughGet | suspList | dieParam | defectList | eventRead | bankRetest | poolStatus | repairList |
    faultList => exact .next (.serve (fun _ _ _ wf => wf) wf)
  | tenantBind | tenantTrace | loopReset | domStatus | rebuildCtl | ckptNow | scrubNow | rtcAlarm | stageDiscard => exact .next (.serve
      (fun _ _ _ wf => .upd wf) wf)
  | readNvmeMiDataStructure | nvmSubsystemHealthStatusPoll | controllerHealthStatusPoll | configurationGet |
    configurationSet | vpdRead | vpdWrite | miReset => exact .next (.miMsg wf)
  | autoDormantTimer | slewAbsorbed | whsResume | basicManagementRead | dynamicAddressAssignment | crystalStart => exact .next (.ite wf (.upd wf))
  | getEndpointId | getEndpointUuid | getMctpVersionSupport | getMessageTypeSupport | getVendorDefinedMessageSupport => exact .next (.answerMsg
      (fun _ wf => wf) wf)
  | ptmLost | entropyFailure | dramRetrain => exact .next (.ite wf (.raiseSrc (.upd (.upd wf))))
  | ratioWindow | stagingTimeout | challengeLockoutEnd => exact .next (.ite (.upd wf) wf)
  | flrPf | flrVf => exact .ite (.next wf) (.next (.resetFns (.faults (wake_keeps ..) wf)))
  | allocationWaitTimeout | keyScheduleMismatch => exact .next (.ite (.raiseSrc wf) wf)
  | trackingEntryExpiry | nonceExpiry => exact .next (.upd wf)
  | ownerSet | ownerRelease => exact .next (.signedReq (fun _ _ wf => .upd (.upd (.upd wf))) wf)
  | powerOn => exact .next (.ite wf .chipReset)
  | chipResetToBoot => exact .next (.ite wf .chipReset)
  | bootStepComplete => exact NextWf.execBootStepComplete wf
  | pwrgdLow => exact .next (.ite wf (.supplyLoss (.upd wf)))
  | railOutOfRange => exact .next (.ite wf (.supplyLoss wf))
  | plossNAsserted => exact .next (.powerLoss (.upd wf))
  | plossNShortPulse => exact .next (.ite wf (.afterFaults (.raiseSrc wf)))
  | spillProgramPass => exact NextWf.execSpillProgramPass wf
  | holdupComplete => exact .next (.ite wf (.ite (.ite wf (.upd (.upd (.upd wf)))) (.upd (.upd wf))))
  | resetSpillStart => exact NextWf.execResetSpillStart wf
  | overvoltageOnset => exact .next (.beginOv (.ite wf (.upd wf)))
  | overvoltagePersist => exact .next (.ite wf (.raiseSrc (.failUngranted (.upd wf))))
  | wrStopClear => exact .next (.ite wf (.upd (.upd (.upd wf))))
  | chgEnRestore => exact .next (.ite wf (.chgBack (.upd (.upd (.upd wf)))))
  | chgEnStartupHoldEnd => exact .next (.upd (.upd wf))
  | capvConversion => exact NextWf.execCapvConversion wf
  | standpipeEntry => exact NextWf.execStandpipeEntry wf
  | standpipeSample => exact .next (.ite wf (.ite (.upd wf) (.faults (wake_keeps ..) (.raiseSrc (.upd (.upd wf))))))
  | standpipeWake => exact .next (.ite wf (.deliver (.standpipeWake wf)))
  | dormantEntry => exact NextWf.execDormantEntry wf
  | idleGating => exact .next (.ite wf (.upd (.upd wf)))
  | islandWakeOnAccess => exact .next (.ite wf (.deliver (.ite (.upd wf) (.sigFailed (.restoreIsland (.upd wf))))))
  | handshakeTimeout => exact .next (.ite wf (.each (.updHpc (.afterFaults (.raiseSrc wf)) rfl) fun _ _ wf => .endAcc wf))
  | alarmMatch => exact NextWf.execAlarmMatch wf
  | crystalStopDetect => exact .next (.ite wf (.raiseSrc (.upd wf)))
  | ptmRequest => exact .next (.ite wf (.ite (.upd wf) (.ite wf (.upd (.updHpc wf rfl)))))
  | ptmExchangeComplete => exact NextWf.execPtmExchangeComplete wf
  | thermalRead => exact NextWf.execThermalRead wf
  | poolRecompute => exact .onSeq wf (.next (.ite wf (.upd wf)))
  | tokenGrant => exact NextWf.execTokenGrant wf
  | zk540Window => exact .ite (.next (.upd wf)) (.next wf)
  | powerAverageCheck => exact .onSeq wf (.next (.ite (.raiseSrc (.upd wf)) wf))
  | selfTestComplete => exact NextWf.execSelfTestComplete wf
  | recalibrationRead => exact NextWf.execRecalibrationRead wf
  | perstNAsserted => exact .ite (.next wf) (.ite (.next (.updHpc wf rfl)) (.next (.resetLink wf)))
  | perstNDeasserted => exact NextWf.execPerstNDeasserted wf
  | hotReset => exact .ite (.next wf) (.next (.resetLink wf))
  | linkDown => exact NextWf.execLinkDown wf
  | configRequest => exact NextWf.execConfigRequest wf
  | ideCheckFail => exact .ite (.next wf) (.next (.loseData (.raiseSrc (.upd (.updHpc (.updHpc wf rfl) rfl)))))
  | receivedErrorTlp => exact NextWf.execReceivedErrorTlp wf
  | completionTimeout => exact NextWf.execCompletionTimeout wf
  | inboundWindowRequest => exact NextWf.execInboundWindowRequest wf
  | prPerstRelease => exact NextWf.execPrPerstRelease wf
  | twinConfigStart => exact NextWf.execTwinConfigStart wf
  | twinPartnerLost => exact NextWf.execTwinPartnerLost wf
  | twinRetry => exact NextWf.execTwinRetry wf
  | atsInvalidateRequest => exact .ite (.next wf) (.next (.faults (wake_keeps ..) (.upd (.askAgain (.upd (.upd wf))))))
  | controllerEnable => exact NextWf.execControllerEnable wf
  | controllerReset => exact .ite (.next (.checkShut (.rescale (.resetCtrl (.faults (wake_keeps ..) wf))))) (.next wf)
  | shutdownNotification => exact .ite (.next (.checkShut (.upd (.faults (wake_keeps ..) wf)))) (.next wf)
  | nvmSubsystemReset => exact .next (.ite wf (.dueActivation (.subsysReset (.faults (wake_keeps ..) wf))))
  | sqTailDoorbell => exact NextWf.execSqTailDoorbell wf
  | cqHeadDoorbell => exact NextWf.execCqHeadDoorbell wf
  | submissionFetch => exact NextWf.execSubmissionFetch wf
  | contextMadeHot => exact NextWf.execContextMadeHot wf
  | fetchRetry => exact NextWf.execFetchRetry wf
  | admitToRun => exact NextWf.execAdmitToRun wf
  | completionPost => exact NextWf.execCompletionPost wf
  | heldAenDelivery => exact .ite (.next wf) (.next (.faults (sendAen_keeps ..) (.upd wf)))
  | deleteIoSubmissionQueue => exact .next (.admin (fun _ _ wf => .ite (.work (post_work ..) wf) (.work (post_work ..) (.upd (.endCmds wf)))) wf)
  | createIoSubmissionQueue => exact NextWf.execCreateIoSubmissionQueue wf
  | getLogPage => exact NextWf.execGetLogPage wf
  | deleteIoCompletionQueue => exact NextWf.execDeleteIoCompletionQueue wf
  | createIoCompletionQueue => exact NextWf.execCreateIoCompletionQueue wf
  | identify => exact NextWf.execIdentify wf
  | abort => exact NextWf.execAbort wf
  | setFeatures => exact NextWf.execSetFeatures wf
  | getFeatures => exact NextWf.execGetFeatures wf
  | asynchronousEventRequest => exact NextWf.execAsynchronousEventRequest wf
  | namespaceManagement => exact NextWf.execNamespaceManagement wf
  | firmwareCommit => exact NextWf.execFirmwareCommit wf
  | firmwareImageDownload => exact NextWf.execFirmwareImageDownload wf
  | deviceSelfTest => exact NextWf.execDeviceSelfTest wf
  | namespaceAttachment => exact NextWf.execNamespaceAttachment wf
  | virtualizationManagement => exact NextWf.execVirtualizationManagement wf
  | nvmeMiSend => exact NextWf.execNvmeMiSend wf
  | nvmeMiReceive => exact NextWf.execNvmeMiReceive wf
  | formatNvm => exact NextWf.execFormatNvm wf
  | securitySend => exact NextWf.execSecuritySend wf
  | securityReceive => exact .next (.admin (fun _ _ wf => .ite (.answer wf) (.ite (.work (post_work ..) wf) (.answer (.upd wf)))) wf)
  | sanitize => exact NextWf.execSanitize wf
  | camentPacket => exact .next (.admin (fun _ _ wf => .ite wf (.arrive wf)) wf)
  | flush => exact NextWf.execFlush wf
  | write => exact .next (.io (fun _ _ _ wf => .ite (.writeEff wf) wf) wf)
  | read => exact NextWf.execRead wf
  | writeUncorrectable => exact NextWf.execWriteUncorrectable wf
  | compare => exact NextWf.execCompare wf
  | fusedCompareAndWrite => exact NextWf.execFusedCompareAndWrite wf
  | writeZeroes => exact NextWf.execWriteZeroes wf
  | datasetManagement => exact NextWf.execDatasetManagement wf
  | verify => exact NextWf.execVerify wf
  | meterTick => exact NextWf.execMeterTick wf
  | transferBlockStart => exact NextWf.execTransferBlockStart wf
  | traceEnd => exact NextWf.execTraceEnd wf
  | translationCompletion => exact NextWf.execTranslationCompletion wf
  | translationRetry => exact NextWf.execTranslationRetry wf
  | prgSend => exact NextWf.execPrgSend wf
  | prgResponse => exact NextWf.execPrgResponse wf
  | prgTimeout => exact .ite (.next wf) (.next (.each (.upd wf) fun _ _ wf => .failPgTo wf))
  | mapPageLoaded => exact NextWf.execMapPageLoaded wf
  | contextResume => exact NextWf.execContextResume wf
  | engineStepStart => exact .ite (.next wf) (.next (.engRun wf))
  | pagePassed => exact .next (.ite (.accMismatch (.work (passPage_work ..) wf)) (.work (passPage_work ..) wf))
  | mapFold => exact NextWf.execMapFold wf
  | logCompaction => exact NextWf.execLogCompaction wf
  | rangeRecordFold => exact NextWf.execRangeRecordFold wf
  | writeGrant => exact NextWf.execWriteGrant wf
  | gcSelect dom => exact NextWf.execGcSelect (dom := dom) wf
  | gcScan => exact NextWf.execGcScan wf
  | gcDrain => exact NextWf.execGcDrain wf
  | erasePass => exact NextWf.execErasePass wf
  | eraseFailure => exact NextWf.execEraseFailure wf
  | programFailure => exact NextWf.execProgramFailure wf
  | dieEntryChosen => exact NextWf.execDieEntryChosen wf
  | busTransferGrant => exact NextWf.execBusTransferGrant wf
  | dieReadyPoll => exact NextWf.execDieReadyPoll wf
  | arrayOverrun => exact NextWf.execArrayOverrun wf
  | suspendDue => exact NextWf.execSuspendDue wf
  | eraseSuspendDone => exact NextWf.execEraseSuspendDone wf
  | resumeDue => exact NextWf.execResumeDue wf
  | readAroundOffer => exact NextWf.execReadAroundOffer wf
  | channelTempSample => exact .ite (.next wf) (.next (.ite (.askRetrain (.upd wf)) (.upd wf)))
  | marginCheck => exact .onSeq wf (.ite (.next wf) (.next (.ite (.askRetrain (.upd wf)) (.upd wf))))
  | retrainQueueServed => exact NextWf.execRetrainQueueServed wf
  | retrainComplete => exact NextWf.execRetrainComplete wf
  | frameReceived => exact NextWf.execFrameReceived wf
  | decodeResult => exact NextWf.execDecodeResult wf
  | candidateExpiry => exact NextWf.execCandidateExpiry wf
  | loopWindowUpdate => exact .onSeq wf (.ite (.next wf) (.next (.ite (.raiseSrc (.upd (.upd wf))) (.upd wf))))
  | sreStatePageWrite => exact .ite (.next wf) (.next (.work (place_work ..) (.upd (.upd wf))))
  | reconstructionDone => exact NextWf.execReconstructionDone wf
  | stripeIdleClose => exact .onSeq wf (.ite (.next wf) (.next (.work (closePartial_work ..) wf)))
  | rebuildStripeStep => exact NextWf.execRebuildStripeStep wf
  | rebuildMapScan => exact NextWf.execRebuildMapScan wf
  | mirrorCompletion => exact NextWf.execMirrorCompletion wf
  | mirrorTimeout => exact NextWf.execMirrorTimeout wf
  | granuleInactive => exact .onSeq wf (.ite (.next (.upd wf)) (.next wf))
  | resyncChunkComplete => exact NextWf.execResyncChunkComplete wf
  | checkpoint => exact NextWf.execCheckpoint wf
  | allocate => exact NextWf.execAllocate wf
  | allocationWaitServed => exact NextWf.execAllocationWaitServed wf
  | free => exact NextWf.execFree wf
  | attach => exact NextWf.execAttach wf
  | detach => exact NextWf.execDetach wf
  | handover => exact NextWf.execHandover wf
  | unallocatedAccess => exact .next (.ite (.raiseSrc (.upd wf)) wf)
  | pmpGo => exact .next (.ite wf (.ite (.writePump wf) (.ite wf (.startRun (.updPmp wf rfl)))))
  | pmpAbort => exact .next (.ite (.abortPump wf) wf)
  | burstAck => exact NextWf.execBurstAck wf
  | burstError => exact NextWf.execBurstError wf
  | burstRetry => exact .next (.ite wf (.updPmp wf rfl))
  | uncorrectableRead => exact .next (.ite (.readErr wf) wf)
  | narrowWrite => exact NextWf.execNarrowWrite wf
  | mergeBufferFree => exact NextWf.execMergeBufferFree wf
  | scrubPass => exact .onSeq wf (.next (.ite wf (.upd (.endOpt (.ite (.scrubNand wf) (.scrubMem wf))))))
  | faultRailCode => exact NextWf.execFaultRailCode wf
  | nmtEscalation => exact .next (.ite wf (.afterFaults (.upd (.upd (.upd (.upd (.upd wf)))))))
  | islandResetComplete => exact .next (.ite wf (.deliver (.upd (.islandEffect (.upd (.upd wf))))))
  | fltLatchClear => exact .next (.ite wf (.clearLatches (.faults (wake_keeps ..) wf)))
  | fltPinClr => exact .next (.ite (.releasePin (.faults (wake_keeps ..) wf)) wf)
  | fltInj => exact .next (.ite (.writeInj (.faults (wake_keeps ..) wf)) wf)
  | injectionEnd => exact .next (.ite (.stopInj wf) wf)
  | warmActivationSwitch => exact NextWf.execWarmActivationSwitch wf
  | updConfirm => exact .onSeq wf (.next (.ite wf (.upd (.ite (.upd wf) (.upd (.upd wf))))))
  | trialTimerExpiry => exact .next (.ite (.fallBack wf) wf)
  | reverseHandoverTimeout => exact NextWf.execReverseHandoverTimeout wf
  | whsOperationComplete => exact NextWf.execWhsOperationComplete wf
  | whsSuspendDue => exact .next (.ite wf (.ite (.upd (.upd wf)) (.upd wf)))
  | executeOnlyRead => exact .next (.ite (.xoRead wf) wf)
  | brownout => exact .next (.ite wf (.raiseSrc (.upd (.endErasePulse (.upd wf)))))
  | brownoutRecovery => exact .next (.ite wf (.nextPulse (.upd wf)))
  | spdmRequest => exact NextWf.execSpdmRequest wf
  | sanitizePhaseDone => exact NextWf.execSanitizePhaseDone wf
  | sanitizeQuiesceTimeout => exact NextWf.execSanitizeQuiesceTimeout wf
  | mctpPacketReceived => exact NextWf.execMctpPacketReceived wf
  | mctpAssemblyTimeout => exact NextWf.execMctpAssemblyTimeout wf
  | setEndpointId => exact NextWf.execSetEndpointId wf
  | sidebandBusReset => exact NextWf.execSidebandBusReset wf
  | sensorConversion => exact NextWf.execSensorConversion wf
  | sysCamRcfg => exact .next (.ite wf (.writeRcfg (.faults (wake_keeps ..) wf)))
  | sysCamRdb => exact .next (.ite wf (.writeRdb (.faults (wake_keeps ..) wf)))
  | requestTaken => exact .onSeq wf (.next (.ite wf (.ite (.updCam wf rfl) (.ite wf (.arrive (.takeEntry wf))))))
  | replyStallTimeout => exact .next (.ite wf (.updCam wf rfl))
  | camentMctpMessage => exact NextWf.execCamentMctpMessage wf
  | longOperationEnd => exact NextWf.execLongOperationEnd wf
  | opCancel => exact NextWf.execOpCancel wf
  | chipReset => exact .next (.serve (fun _ _ _ wf => .faults (askReset_keeps ..) wf) wf)
  | troughRelease => exact .next (.serve (fun _ _ _ wf1 => .each wf1 fun _ _ wf => .updCam wf rfl) wf)
  | troughPut => exact NextWf.execTroughPut wf
  | modeRequest => exact .next (.serve (fun _ _ _ wf => .ite (.ite (.serveAgain wf) wf) (.upd wf)) wf)
  | tenantSet => exact .next (.serve (fun _ _ _ wf => .upd (.rescale (.upd wf))) wf)
  | atcDrop => exact .next (.serve (fun _ _ _ wf1 => .each (.upd wf1) fun _ _ wf => .askAgain wf) wf)
  | gcControl => exact NextWf.execGcControl wf
  | badlbaList => exact .next (.serve (fun _ _ _ wf => .endOp wf) wf)
  | chRetrain => exact .next (.serve (fun _ _ _ wf => .askRetrain wf) wf)
  | coldefAdd => exact NextWf.execColdefAdd wf
  | ladderProbe => exact NextWf.execLadderProbe wf
  | dieRetire => exact .next (.serve (fun _ _ _ wf => .loseDie wf) wf)
  | mirrorSet => exact NextWf.execMirrorSet wf
  | pumpStart => exact .next (.serve (fun _ _ _ wf => .startRun (.updPmp wf rfl)) wf)
  | srcClear => exact .next (.serve (fun _ _ _ wf => .clearLatch wf) wf)
  | faultInject => exact .next (.serve (fun _ _ _ wf => .writeInj wf) wf)
  | pinRelease => exact .next (.serve (fun _ _ _ wf => .releasePin wf) wf)
  | powerCapSet => exact .next (.serve (fun _ _ _ wf => .rescale (.upd wf)) wf)
  | chargerCtl => exact .next (.serve (fun _ _ _ wf => .chgBack (.upd wf)) wf)
  | profileWrite => exact .next (.serve (fun _ _ _ wf => .startJob wf) wf)
  | profileSelect => exact .next (.serve (fun _ _ _ wf => .ite (.upd (.useProfile wf)) (.upd wf)) wf)
  | imageStage => exact .next (.serve (fun _ _ _ wf => .upd (.upd wf)) wf)
  | imageCommit => exact .next (.serve (fun _ _ _ wf => .commit wf) wf)
  | whsRead => exact .next (.ite (.upd wf) (.serve (fun _ _ _ wf => .ite (.xoRead wf) wf) (.upd wf)))
  | ownerChallenge => exact .next (.ite wf (.serve (fun _ _ _ wf => .upd (.upd wf)) wf))
  | ownerLock => exact NextWf.execOwnerLock wf
  | svnRaise => exact .next (.signedReq (fun _ _ wf => .upd (.upd wf)) wf)
  | telSnapshot => exact .next (.serve (fun _ _ _ wf => .updCam (.ite (.upd wf) wf) rfl) wf)
  | registerWrite => exact NextWf.execRegisterWrite wf
  | registerRead => exact .ite .fault (.next (.ite wf (.ite (.offer (.faults (wake_keeps ..) wf)) (.upd (.faults (wake_keeps ..) wf)))))
  | ringEntryWrite => exact .ite .fault (.next (.ite (.hostBytes (.faults (wake_keeps ..) wf)) wf))
  | slotFlagWrite => exact .ite .fault (.next (.ite (.writeFlag (.faults (wake_keeps ..) wf)) wf))
  | linkUp => exact .ite (.next wf) (.next (.updHpc wf rfl))
  | dieResetReadyTimeout => exact .ite (.next (.failDie wf)) (.next wf)
  | whsReadBusyTimeout => exact .next (.ite wf (.serve (fun _ _ _ wf => wf) (.upd wf)))
  | entropySourcePass => exact .next (.ite wf (.ite (.drawRoot (.upd wf)) (.upd wf)))

end

/-- Settles O3: an empty queue changes nothing, and every command of the dispatch keeps the form. -/
theorem stepsKeepMemoryForm : Obligations.StepsKeepMemoryForm := by
  intro s t wf hstep
  cases hp : s.pending with
  | nil =>
    rw [step_of_pending_nil hp] at hstep
    cases hstep
    exact wf
  | cons c rest =>
    rw [step_of_pending_cons hp] at hstep
    exact NextWf.exec c (.upd wf) t hstep

end Sys2Proof

namespace Sys2Proof

open Machine

/-! Cament requests that wait before the checks (R56, R64): OWNER_CHALLENGE waits for the entropy source and WHS_READ for the pulse that runs,
each ahead of the checks that `serve` makes. -/

section

variable {src op : Nat} {long : CamReq → Bool} {pre : State → CamReq → Option (Nat × List Word)} {act : CamReq → Nat → State → State × Ans}
  {s : State}

/-- With no waiting request of its source, the service of an opcode does nothing. -/
theorem serve_of_no_request (h : nextReq s src = none) : serve src op long pre act s = s := by
  unfold serve
  rw [h]

/-- While the entropy source fails, OWNER_CHALLENGE waits, whatever its checks would answer. -/
theorem execOwnerChallenge_waits {r : CamReq} (he : s.sec.entropyOk = false) (hr : nextReq s src = some r) (hop : rqOp r = 0x0B01) :
    execOwnerChallenge src s = .next s := by
  simp [execOwnerChallenge, he, hr, hop]

/-- With no waiting request, WHS_READ takes its source off the list of those that wait for a pulse. -/
theorem execWhsRead_of_no_request (h : nextReq s src = none) :
    execWhsRead src s = .next (onWhs (fun w => { w with readWait := w.readWait.erase src }) s) := by
  have hw : whsReadNext s src = false := by simp [whsReadNext, h]
  have hn : nextReq (onWhs (fun w => { w with readWait := w.readWait.erase src }) s) src = none := h
  simp [execWhsRead, hw, serve_of_no_request hn]

end

/-- An OWNER_CHALLENGE from ring 0 whose TARGET is out of range. -/
def strayChallenge : CamReq := { src := 0, words := [0x00010B01, 0] }

/-- An operational device whose entropy source fails and on which that request waits. -/
def challengeWaits : State := { sys := { mode := .operational }, sec := { entropyOk := false }, cam := { queue := [strayChallenge] } }

/-- Refutes O12: while the entropy source fails, an OWNER_CHALLENGE whose TARGET is out of range waits and is not answered 0x0007. -/
theorem not_requestChecks : ¬ Obligations.RequestChecks := by
  intro h
  obtain ⟨-, -, -, hrange⟩ := h (.ownerChallenge 0) 0x0B01 0 challengeWaits strayChallenge { len := 1 } rfl (by decide) (by decide) (by decide)
    (by decide) (by decide) (by decide)
  obtain ⟨htarget, -⟩ := hrange (by decide) (by decide) (by decide)
  have hrefused := htarget (by decide)
  have hwaits : exec (.ownerChallenge 0) challengeWaits = .next challengeWaits :=
    execOwnerChallenge_waits (r := strayChallenge) rfl (by decide) (by decide)
  rw [hwaits] at hrefused
  injection hrefused with hstate
  have hqueue := congrArg (fun t : State => t.cam.queue) hstate
  exact absurd hqueue (by decide)

/-- A device on which source 0 is noted to wait with a WHS_READ, and no request waits. -/
def readNoted : State := { whs := { readWait := [0] } }

/-- Refutes O13: with no request of its source, WHS_READ still takes that source off the list of those that wait for a pulse. -/
theorem not_opcodesServeTheirRequest : ¬ Obligations.OpcodesServeTheirRequest := by
  intro h
  have hnone : nextReq readNoted 0 = none := by decide
  have hsame : exec (.whsRead 0) readNoted = .next readNoted := (h (.whsRead 0) 0x0A0D 0 readNoted rfl).1 hnone
  rw [show exec (.whsRead 0) readNoted = _ from execWhsRead_of_no_request hnone] at hsame
  injection hsame with hstate
  have hlist := congrArg (fun t : State => t.whs.readWait) hstate
  exact absurd hlist (by decide)

end Sys2Proof

namespace Sys2Proof

open Machine

/-! Ring area and trough as bytes (R46): what a store of bytes makes of a read, of a word and of an entry's OWN. -/

section

variable {s : State} {a b : Nat}

theorem mread_succ (d : Byte) (m : List Host.Cell) (a n : Nat) : mread d m a (n + 1) = mget d m a :: mread d m (a + 1) n := by
  simp [mread, upFrom, List.range_succ_eq_map, Nat.add_assoc, Nat.add_comm 1]

theorem mread_congr {d : Byte} {m m' : List Host.Cell} {a n : Nat} (h : ∀ c, a ≤ c → c < a + n → mget d m' c = mget d m c) :
    mread d m' a n = mread d m a n := by
  induction n generalizing a with
  | zero => rfl
  | succ n ih =>
    rw [mread_succ, mread_succ, h a (by omega) (by omega), ih fun c h1 h2 => h c (by omega) (by omega)]

theorem mread_mwrite_same (d : Byte) (bs : List Byte) (m : List Host.Cell) (a : Nat) : mread d (mwrite d m a bs) a bs.length = bs := by
  induction bs generalizing m a with
  | nil => rfl
  | cons b bs ih =>
    have hb : mget d (mwrite d m a (b :: bs)) a = b := by
      rw [mwrite, mget_mwrite_out d bs _ _ _ (by omega), mget_mput_same]
    rw [List.length_cons, mread_succ, hb, mwrite, ih]

theorem mread_mwrite_out {d : Byte} {bs : List Byte} {m : List Host.Cell} {a b n : Nat} (h : b + n ≤ a ∨ a + bs.length ≤ b) :
    mread d (mwrite d m a bs) b n = mread d m b n :=
  mread_congr fun c _ _ => mget_mwrite_out d bs m a c (by omega)

@[simp] theorem leBytes_length (n v : Nat) : (leBytes n v).length = n := by
  induction n generalizing v with
  | zero => rfl
  | succ n ih => rw [leBytes, List.length_cons, ih]

theorem leNat_leBytes (n v : Nat) : leNat (leBytes n v) = v % 256 ^ n := by
  induction n generalizing v with
  | zero => rw [leBytes, leNat, Nat.pow_zero, Nat.mod_one]
  | succ n ih => rw [leBytes, leNat, ih, BitVec.toNat_ofNat, pow_succ' 256 n, Nat.mod_mul]

@[simp] theorem wordBytes_length (ws : List Word) : (wordBytes ws).length = 4 * ws.length := by
  induction ws with
  | nil => rfl
  | cons w ws ih => simp only [wordBytes, List.flatMap_cons, List.length_append, leBytes_length, List.length_cons] at ih ⊢; omega

/-! ## Words of the ring area -/

theorem memWord_memStore_same (w : Word) : memWord (memStore a (leBytes 4 w.toNat) s) a = w := by
  have h := mread_mwrite_same 0 (leBytes 4 w.toNat) s.cam.mem a
  rw [leBytes_length] at h
  rw [memWord, memStore, onCam, h, leNat_leBytes, Nat.mod_eq_of_lt (b := 256 ^ 4) w.isLt, BitVec.ofNat_toNat, BitVec.setWidth_eq]

theorem memWord_memStore_out {bs : List Byte} (h : b + 4 ≤ a ∨ a + bs.length ≤ b) : memWord (memStore a bs s) b = memWord s b :=
  congrArg (fun l => BitVec.ofNat 32 (leNat l)) (mread_mwrite_out h)

/-- Writing OWN stores the four bytes of the entry's first word. -/
theorem setOwn_stores (a : Nat) (on : Bool) (s : State) : ∃ w : Word, w.getLsbD 31 = on ∧ setOwn a on s = memStore a (leBytes 4 w.toNat) s := by
  refine ⟨_, ?_, rfl⟩
  cases on <;> simp [bitW]

@[simp] theorem ownAt_setOwn_same (on : Bool) : ownAt (setOwn a on s) a = on := by
  obtain ⟨w, hw, h⟩ := setOwn_stores a on s
  rw [ownAt, h, memWord_memStore_same, bitOf, hw]

theorem ownAt_setOwn_out {on : Bool} (h : b + 4 ≤ a ∨ a + 4 ≤ b) : ownAt (setOwn a on s) b = ownAt s b := by
  rw [ownAt, setOwn, memWord_memStore_out (by rw [leBytes_length]; exact h), ownAt]

theorem mget_setOwn_out {on : Bool} (h : b < a ∨ a + 4 ≤ b) : mget 0 (setOwn a on s).cam.mem b = mget 0 s.cam.mem b :=
  mget_mwrite_out 0 _ _ _ _ (by rw [leBytes_length]; exact h)

end

end Sys2Proof

namespace Sys2Proof

open Machine

/-! SYS_CAM_RCFG and SYS_CAM_RDB (R51, R53). -/

section

variable {s : State} {p q : Nat} {v : Word}

@[simp] theorem wake_cam (s : State) : (wake s).cam = s.cam := (wake_only s).same .cam (by decide)

@[simp] theorem ringAt_wake (s : State) (p : Nat) : ringAt (wake s) p = ringAt s p := by rw [ringAt, wake_cam, ringAt]

@[simp] theorem ringActive_wake (s : State) (p : Nat) : ringActive (wake s) p = ringActive s p := by rw [ringActive, wake_cam, ringActive]

@[simp] theorem ringAt_setRing_same (r : Ring) : ringAt (setRing p r s) p = r := by simp [ringAt, setRing, tgetD]

theorem ringAt_setRing_ne (h : q ≠ p) (r : Ring) : ringAt (setRing p r s) q = ringAt s q := by simp [ringAt, setRing, tgetD, tget_tset_ne _ _ h]

theorem setRing_only (p : Nat) (r : Ring) (s : State) : OnlyChanges [.cam] s (setRing p r s) := onCam_only ..

theorem memStore_only (a : Nat) (bs : List Byte) (s : State) : OnlyChanges [.cam] s (memStore a bs s) := onCam_only ..

theorem setOwn_only (a : Nat) (on : Bool) (s : State) : OnlyChanges [.cam] s (setOwn a on s) := memStore_only ..

/-- What only changes the Cament state after a wake. -/
theorem OnlyChanges.of_wake {t : State} (h : OnlyChanges [.cam] (wake s) t) : OnlyChanges [.cam, .sys] s t :=
  ((wake_only s).wide _ rfl).trans (h.wide _ rfl)

/-! ## The initialisation of a ring's entries -/

/-- The two entries of a place of a ring, as R51 initialises them. -/
def ownEntry (p i : Nat) (s : State) : State := setOwn (rplAddr p i) true (setOwn (reqAddr p i) false s)

/-- An address lies in the first word of neither entry of a place. -/
def OffEntry (p i a : Nat) : Prop := (a < reqAddr p i ∨ reqAddr p i + 4 ≤ a) ∧ (a < rplAddr p i ∨ rplAddr p i + 4 ≤ a)

theorem initRing_eq : initRing p s =
    forN (ringAt s p).n (ownEntry p) (setRing p { ringAt s p with head := 0, rplNext := 0, tail := 0, reserved := 0 } s) := rfl

theorem mget_ownEntry_out {i a : Nat} (h : OffEntry p i a) : mget 0 (ownEntry p i s).cam.mem a = mget 0 s.cam.mem a := by
  rw [ownEntry, mget_setOwn_out h.2, mget_setOwn_out h.1]

theorem ownEntry_owns {i : Nat} (hi : i < 4096) :
    ownAt (ownEntry p i s) (reqAddr p i) = false ∧ ownAt (ownEntry p i s) (rplAddr p i) = true := by
  refine ⟨?_, ownAt_setOwn_same _⟩
  rw [ownEntry, ownAt_setOwn_out (by unfold reqAddr rplAddr; omega), ownAt_setOwn_same]

theorem ownEntry_keeps {i j : Nat} (hi : i < 4096) (hj : j < 4096) (h : j ≠ i) :
    ownAt (ownEntry p i s) (reqAddr p j) = ownAt s (reqAddr p j) ∧ ownAt (ownEntry p i s) (rplAddr p j) = ownAt s (rplAddr p j) := by
  unfold ownEntry
  constructor
  · rw [ownAt_setOwn_out (by unfold reqAddr rplAddr; omega), ownAt_setOwn_out (by unfold reqAddr; omega)]
  · rw [ownAt_setOwn_out (by unfold rplAddr; omega), ownAt_setOwn_out (by unfold reqAddr rplAddr; omega)]

/-- The entries of the first `n` places are initialised. -/
theorem ownEntries_owns {n i : Nat} (hn : n ≤ 4096) (hi : i < n) (s : State) :
    ownAt (forN n (ownEntry p) s) (reqAddr p i) = false ∧ ownAt (forN n (ownEntry p) s) (rplAddr p i) = true := by
  induction n with
  | zero => omega
  | succ n ih =>
    rw [forN_succ]
    rcases Nat.lt_succ_iff_lt_or_eq.1 hi with h | rfl
    · rw [(ownEntry_keeps (by omega) (by omega) (by omega)).1, (ownEntry_keeps (by omega) (by omega) (by omega)).2]
      exact ih (by omega) h
    · exact ownEntry_owns (by omega)

theorem ownEntries_keeps {n : Nat} (s : State) : (forN n (ownEntry p) s).cam.rings = s.cam.rings ∧
    ∀ a, (∀ i, i < n → OffEntry p i a) → mget 0 (forN n (ownEntry p) s).cam.mem a = mget 0 s.cam.mem a := by
  induction n with
  | zero => exact ⟨rfl, fun _ _ => rfl⟩
  | succ n ih =>
    rw [forN_succ]
    refine ⟨ih.1, fun a ha => ?_⟩
    rw [mget_ownEntry_out (ha n (by omega)), ih.2 a fun i hi => ha i (by omega)]

theorem initRing_only (p : Nat) (s : State) : OnlyChanges [.cam] s (initRing p s) :=
  (setRing_only ..).trans (.upto _ _ _ _ fun _ _ => (setOwn_only ..).trans (setOwn_only ..))

theorem ringAt_initRing (p q : Nat) (s : State) : ringAt (initRing p s) q =
    ringAt (setRing p { ringAt s p with head := 0, rplNext := 0, tail := 0, reserved := 0 } s) q := by
  exact congrArg (fun t => tgetD t q {}) (ownEntries_keeps _).1

/-! ## What a write of SYS_CAM_RCFG does -/

/-- The settings that a write of SYS_CAM_RCFG gives a ring that is neither enabled nor active. -/
def ringSet (r : Ring) (v : Word) : Ring := { r with vec := fld v 16 11, irqEn := bitOf v 8, size := fld v 4 4 }

theorem writeRcfg_of_starts (he : (ringAt s p).en = false) (ha : ringActive s p = false) (hv : bitOf v 0 = true) (h6 : 6 ≤ fld v 4 4)
    (h12 : fld v 4 4 ≤ 12) : writeRcfg p v s =
      initRing p (setRing p { ringSet (ringAt s p) v with en := true } (setRing p (ringSet (ringAt s p) v) s)) := by
  simp [writeRcfg, ringSet, he, ha, hv, h6, h12]

theorem writeRcfg_of_badSize (he : (ringAt s p).en = false) (ha : ringActive s p = false) (hv : bitOf v 0 = true)
    (hn : fld v 4 4 < 6 ∨ 12 < fld v 4 4) : writeRcfg p v s =
      setRing p { ringSet (ringAt s p) v with cfgErr := true } (setRing p (ringSet (ringAt s p) v) s) := by
  have hn' : ¬ (6 ≤ fld v 4 4 ∧ fld v 4 4 ≤ 12) := by omega
  simp [writeRcfg, ringSet, he, ha, hv, hn']

theorem writeRcfg_of_stops (he : (ringAt s p).en = true) (hv : bitOf v 0 = false) : writeRcfg p v s =
    stopRing p (setRing p { ringAt s p with vec := fld v 16 11, irqEn := bitOf v 8 } s) := by
  simp [writeRcfg, he, hv]

theorem exec_sysCamRcfg {fn : Nat} (hb : barUp s fn = true) (hp : p < 4) :
    exec (.sysCamRcfg fn p v) s = .next (writeRcfg p v (wake s)) := by
  show execSysCamRcfg fn p v s = _
  simp [execSysCamRcfg, hb, hp]

theorem exec_sysCamRdb {fn : Nat} (hb : barUp s fn = true) (hp : p < 4) : exec (.sysCamRdb fn p v) s = .next (writeRdb p v (wake s)) := by
  show execSysCamRdb fn p v s = _
  simp [execSysCamRdb, hb, hp]

theorem exec_rings_of_barDown {fn : Nat} (hb : barUp s fn = false) :
    exec (.sysCamRcfg fn p v) s = .next s ∧ exec (.sysCamRdb fn p v) s = .next s := by
  constructor
  · show execSysCamRcfg fn p v s = _
    simp [execSysCamRcfg, hb]
  · show execSysCamRdb fn p v s = _
    simp [execSysCamRdb, hb]

theorem stopRing_only (p : Nat) (s : State) : OnlyChanges [.cam] s (stopRing p s) := onCam_only .. |>.trans (onCam_only ..)

theorem stopRing_mutes : (∀ r ∈ (stopRing p s).cam.queue, r.src = p → r.mute = true) ∧
    (∀ g ∈ (stopRing p s).cam.gate, g.req.src = p → g.req.mute = true) ∧
    ∀ h o, tget (stopRing p s).cam.ops h = some o → o.src = p → o.discard = true := by
  simp only [stopRing, muteReqs, modRing, onCam_cam]
  refine ⟨fun r hr hsrc => ?_, fun g hg hsrc => ?_, fun h o ho hsrc => ?_⟩
  · obtain ⟨x, -, rfl⟩ := List.mem_map.1 hr
    by_cases hx : x.src = p
    · simp [hx]
    · simp [hx] at hsrc
  · obtain ⟨x, -, rfl⟩ := List.mem_map.1 hg
    by_cases hx : x.req.src = p
    · simp [hx]
    · simp [hx] at hsrc
  · rw [tget_tmap, Option.map_eq_some_iff] at ho
    obtain ⟨x, -, rfl⟩ := ho
    by_cases hx : x.src = p
    · simp [hx]
    · simp [hx] at hsrc

/-- Disabling a ring keeps its settings but for EN. -/
theorem ringAt_stopRing : ringAt (stopRing p s) p = { ringAt s p with en := false } := by
  simp [stopRing, muteReqs, modRing, ringAt, tgetD, tupd]

theorem writeRdb_of_inside (he : (ringAt s p).en = true) (ht : fld v 0 12 < (ringAt s p).n) :
    writeRdb p v s = setRing p { ringAt s p with tail := fld v 0 12 } s := by
  simp [writeRdb, he, Nat.not_le.2 ht]

theorem writeRdb_of_outside (he : (ringAt s p).en = true) (ht : (ringAt s p).n ≤ fld v 0 12) :
    writeRdb p v s = setRing p { ringAt s p with dbErr := true } s := by
  simp [writeRdb, he, ht]

end

/-- Settles O8, by what a write of either register does to the ring in each of its states; enabling goes through the places one by one. -/
theorem ringConfiguration : Obligations.RingConfiguration := by
  refine ⟨fun fn p v s hb hp he ha hv h6 h12 => ?_, fun fn p v s hb hp he ha hv hn => ?_, fun fn p v s hb hp he hv => ?_,
    fun fn p v s hb hp he ht => ?_, fun fn p v s hb hp he ht => ?_, fun fn p v s hb hp he => ?_, fun fn p v s hb => exec_rings_of_barDown hb⟩
  · refine ⟨_, exec_sysCamRcfg hb hp, ?_⟩
    rw [writeRcfg_of_starts (by simpa using he) (by simpa using ha) hv h6 h12]
    have hn : 2 ^ fld v 4 4 ≤ 4096 := Nat.pow_le_pow_right (n := 2) (by decide) h12
    refine ⟨?_, ?_, ?_, ?_, ?_, ?_, fun i hi => ?_, fun a hout => ?_, fun q hq => ?_,
      ((setRing_only ..).trans ((setRing_only ..).trans (initRing_only ..))).of_wake⟩
    iterate 6 simp [ringAt_initRing, ringSet]
    · rw [initRing_eq, ringAt_setRing_same]
      exact ownEntries_owns hn hi _
    · rw [initRing_eq, ringAt_setRing_same]
      refine ((ownEntries_keeps _).2 a hout).trans ?_
      simp [setRing]
    · rw [ringAt_initRing, ringAt_setRing_ne hq, ringAt_setRing_ne hq, ringAt_setRing_ne hq, ringAt_wake]
  · refine ⟨_, exec_sysCamRcfg hb hp, ?_⟩
    rw [writeRcfg_of_badSize (by simpa using he) (by simpa using ha) hv hn]
    exact ⟨by simp [ringSet, he], by simp, by simp [setRing], ((setRing_only ..).trans (setRing_only ..)).of_wake⟩
  · refine ⟨_, exec_sysCamRcfg hb hp, ?_⟩
    rw [writeRcfg_of_stops (by simpa using he) hv]
    obtain ⟨hqueue, hgate, hops⟩ := stopRing_mutes (p := p) (s := setRing p { ringAt (wake s) p with vec := fld v 16 11, irqEn := bitOf v 8 } (wake s))
    exact ⟨by rw [ringAt_stopRing], by rw [ringAt_stopRing]; simp, by simp [stopRing, muteReqs, modRing, setRing], hqueue, hgate, hops,
      ((setRing_only ..).trans (stopRing_only ..)).of_wake⟩
  · refine ⟨_, exec_sysCamRdb hb hp, ?_⟩
    rw [writeRdb_of_inside (by simpa using he) (by simpa using ht)]
    exact ⟨by simp, by simp [setRing], fun q hq => by rw [ringAt_setRing_ne hq, ringAt_wake], (setRing_only ..).of_wake⟩
  · refine ⟨_, exec_sysCamRdb hb hp, ?_⟩
    rw [writeRdb_of_outside (by simpa using he) (by simpa using ht)]
    exact ⟨by simp, (setRing_only ..).of_wake⟩
  · rw [exec_sysCamRdb hb hp]
    simp [writeRdb, he]

end Sys2Proof

namespace Sys2Proof

open Machine

/-! What a reply, and the answers that follow it in their queue, leave of the state (R55, R56). -/

section

variable {s t u : State} {r q : CamReq} {p src : Nat}

/-- A ring after a reply has been written at RPL_NEXT. -/
def ringReplied (x : Ring) (noIrq : Bool) : Ring :=
  { x with rplNext := (x.rplNext + 1) % x.n, reserved := x.reserved - 1, owed := (x.owed || !noIrq) && !x.irqEn }

theorem ringReply_of_disabled {ws : List Word} {b : Bool} (h : (ringAt s p).en = false) : ringReply p ws b s = s := by
  simp [ringReply, h]

theorem ringReply_of_enabled {ws : List Word} {b : Bool} (h : (ringAt s p).en = true) :
    ringReply p ws b s = onlyIf ((ringAt s p).irqEn && ((ringAt s p).owed || !b)) (emit (.ringMsix (mgmtPf s) p (ringAt s p).vec))
      (emit (.reply p ws []) (setRing p (ringReplied (ringAt s p) b) (memStore (rplAddr p (ringAt s p).rplNext) (wordBytes ws) s))) := by
  simp [ringReply, h, onlyIf, ringReplied]

theorem onlyIf_only {l : List Part} {c : Bool} {f : State → State} (h : OnlyChanges l s (f s)) : OnlyChanges l s (onlyIf c f s) :=
  .cond (fun _ => h) fun _ => .refl ..

theorem ringReply_only (p : Nat) (ws : List Word) (b : Bool) (s : State) : OnlyChanges [.cam, .out] s (ringReply p ws b s) := by
  cases h : (ringAt s p).en with
  | false => rw [ringReply_of_disabled h]; exact .refl ..
  | true =>
    rw [ringReply_of_enabled h]
    exact ((((memStore_only ..).trans (setRing_only ..)).wide _ rfl).trans ((emit_only ..).wide _ rfl)).trans
      ((onlyIf_only (emit_only ..)).wide _ rfl)

/-- The reply to a C0h command. -/
theorem replyTo_of_command {tag : Nat} {x : Tag} {st : Nat} {d : List Word} {pl : List Byte} (hm : s.sys.mode ≠ .holdup) (hr : r.mute = false)
    (h4 : 4 ≤ r.src) (ht : r.tag = some tag) (hx : tget s.nvq.tags tag = some x) : replyTo r st d pl false s =
      postDnr tag .success false ((replyWords r st d false).getD 0 0).toNat ((replyWords r st d false).getD 2 0).toNat
        (modCtrl x.ctrl (fun c => { c with lastReply := replyWords r st d false }) (emit (.reply r.src (replyWords r st d false) []) s)) := by
  simp [replyTo, hm, hr, ht, hx, Nat.not_lt.2 h4]

theorem replyTo_of_ring {st : Nat} {d : List Word} {pl : List Byte} {fin : Bool} (hm : s.sys.mode ≠ .holdup) (hr : r.mute = false)
    (h4 : r.src < 4) : replyTo r st d pl fin s = ringReply r.src (replyWords r st d fin) (rqNoIrq r) s := by
  simp [replyTo, hm, hr, h4]

theorem replyTo_of_sideband {st : Nat} {d : List Word} {pl : List Byte} {fin : Bool} (hm : s.sys.mode ≠ .holdup) (hr : r.mute = false)
    (h4 : 4 ≤ r.src) (ht : r.tag = none) : replyTo r st d pl fin s =
      emit (.sideband r.bus (camHeader ++ (wordBytes (replyWords r st d fin) ++ pl).map (·.toNat)))
        (emit (.reply r.src (replyWords r st d fin) pl) s) := by
  simp [replyTo, hm, hr, ht, Nat.not_lt.2 h4]

/-- No reply is written in HOLDUP, nor to a request whose path was lost (Table 3-13). -/
theorem replyTo_of_silent {st : Nat} {d : List Word} {pl : List Byte} {fin : Bool} (h : s.sys.mode = .holdup ∨ r.mute = true) :
    replyTo r st d pl fin s = s := by
  simp [replyTo, h]

/-- What stays when requests are answered: but for ring entries and indices, the queues and the answers that wait, the Cament state; and
the other parts, but for the completion of a C0h command. -/
structure AnswerKeeps (s t : State) : Prop where
  cam : t.cam = { s.cam with rings := t.cam.rings, mem := t.cam.mem, queue := t.cam.queue, side := t.cam.side, gate := t.cam.gate }
  rest : OnlyChanges [.cam, .nvq, .qos, .out] s t

theorem AnswerKeeps.refl (s : State) : AnswerKeeps s s := ⟨rfl, .refl ..⟩

theorem AnswerKeeps.trans (h : AnswerKeeps s t) (k : AnswerKeeps t u) : AnswerKeeps s u :=
  ⟨by rw [k.cam, h.cam], h.rest.trans k.rest⟩

theorem AnswerKeeps.ops (h : AnswerKeeps s t) : t.cam.ops = s.cam.ops := by rw [h.cam]

/-- A reply writes entries and ring indices, and no other part of the Cament state. -/
theorem replyTo_cam (r : CamReq) (st : Nat) (d : List Word) (pl : List Byte) (fin : Bool) (s : State) :
    (replyTo r st d pl fin s).cam =
      { s.cam with rings := (replyTo r st d pl fin s).cam.rings, mem := (replyTo r st d pl fin s).cam.mem } := by
  unfold replyTo
  split
  · rfl
  · dsimp only
    split
    · cases h : (ringAt s r.src).en with
      | false => rw [ringReply_of_disabled h]
      | true =>
        rw [ringReply_of_enabled h]
        unfold onlyIf
        split <;> rfl
    · split
      · split
        · split
          · rfl
          · rw [(postDnr_only ..).same .cam (by decide)]
            rfl
        · rfl
      · rfl

theorem replyTo_only (r : CamReq) (st : Nat) (d : List Word) (pl : List Byte) (fin : Bool) (s : State) :
    OnlyChanges [.cam, .nvq, .qos, .out] s (replyTo r st d pl fin s) := by
  unfold replyTo
  refine .cond (fun _ => .refl ..) fun _ => .cond (fun _ => (ringReply_only ..).wide _ rfl) fun _ => ?_
  split
  · split
    · exact .cond (fun _ => .refl ..) fun _ => ((emit_only ..).wide _ rfl).trans (((modCtrl_only ..).wide _ rfl).trans ((postDnr_only ..).wide _ rfl))
    · exact .refl ..
  · exact ((emit_only ..).trans (emit_only ..)).wide _ rfl

theorem replyTo_keeps (r : CamReq) (st : Nat) (d : List Word) (pl : List Byte) (fin : Bool) (s : State) :
    AnswerKeeps s (replyTo r st d pl fin s) :=
  ⟨by rw [replyTo_cam], replyTo_only ..⟩

@[simp] theorem replyTo_queue (r : CamReq) (st : Nat) (d : List Word) (pl : List Byte) (fin : Bool) (s : State) :
    (replyTo r st d pl fin s).cam.queue = s.cam.queue := by rw [replyTo_cam]

@[simp] theorem replyTo_gate (r : CamReq) (st : Nat) (d : List Word) (pl : List Byte) (fin : Bool) (s : State) :
    (replyTo r st d pl fin s).cam.gate = s.cam.gate := by rw [replyTo_cam]

@[simp] theorem replyTo_ops (r : CamReq) (st : Nat) (d : List Word) (pl : List Byte) (fin : Bool) (s : State) :
    (replyTo r st d pl fin s).cam.ops = s.cam.ops := by rw [replyTo_cam]

theorem answerReq_keeps (r : CamReq) (st : Nat) (d : List Word) (pl : List Byte) (s : State) : AnswerKeeps s (answerReq r st d pl s) := by
  unfold answerReq
  split
  · exact replyTo_keeps ..
  · exact ⟨rfl, (onCam_only ..).wide _ rfl⟩

@[simp] theorem answerReq_queue (r : CamReq) (st : Nat) (d : List Word) (pl : List Byte) (s : State) :
    (answerReq r st d pl s).cam.queue = s.cam.queue := by
  unfold answerReq
  split
  · exact replyTo_queue ..
  · rfl

theorem dropSecond_keeps (r : CamReq) (s : State) : AnswerKeeps s (dropSecond r s) := by
  unfold dropSecond
  split
  · exact ⟨rfl, (onCam_only ..).wide _ rfl⟩
  · exact .refl s

@[simp] theorem dropSecond_queue (r : CamReq) (s : State) : (dropSecond r s).cam.queue = s.cam.queue := by
  unfold dropSecond
  split <;> rfl

theorem popReq_keeps (src : Nat) (s : State) : AnswerKeeps s (popReq src s) := by
  refine ⟨?_, (onCam_only ..).wide _ rfl⟩
  unfold popReq onCam
  dsimp only
  split <;> rfl

theorem refuseFront_keeps (src n : Nat) (s : State) : AnswerKeeps s (refuseFront src n s) := by
  induction n generalizing s with
  | zero => exact .refl s
  | succ n ih =>
    unfold refuseFront
    split
    · exact .refl s
    · split
      · exact (((popReq_keeps ..).trans (dropSecond_keeps ..)).trans (answerReq_keeps ..)).trans (ih _)
      · exact .refl s

theorem finish_keeps (r : CamReq) (st : Nat) (d : List Word) (pl : List Byte) (s : State) : AnswerKeeps s (finish r st d pl s) :=
  ((dropSecond_keeps ..).trans (answerReq_keeps ..)).trans (refuseFront_keeps ..)

/-- At the front of a source's queue stands no request that fails a check of 1 to 4: none is answered. -/
theorem refuseFront_of_passes {n : Nat} (h : ((srcQueue s src).find? fun r => r.src == src).all (fun r => check14 r == none) = true) :
    refuseFront src n s = s := by
  cases n with
  | zero => rfl
  | succ n =>
    unfold refuseFront
    split
    · rfl
    · next r hr =>
      have hc : check14 r = none := by simpa [hr] using h
      rw [hc]

theorem refuseFront_of_absent {n : Nat} (h : (srcQueue s src).any (fun r => r.src == src) = false) : refuseFront src n s = s := by
  refine refuseFront_of_passes ?_
  rw [List.find?_eq_none.2 fun r hr => ?_]
  · rfl
  · simpa using List.any_eq_false.1 h r hr

theorem srcQueue_of_ne (h : src ≠ 8) : srcQueue s src = s.cam.queue := if_neg h

end

end Sys2Proof

namespace Sys2Proof

open Machine

/-! Taking a request entry (R53, R54): what the entry, its ring and the queue become. -/

section

variable {s t : State} {q r : CamReq} {p : Nat}

/-- A ring whose entry at REQ_HEAD has been taken for a request. -/
def ringTaken (x : Ring) (q : CamReq) : Ring :=
  { x with head := (x.head + 1) % x.n, reserved := x.reserved + (if rqNotify q then 2 else 1) }

/-- A request joins those that wait by ring or C0h. -/
def joined (q : CamReq) (s : State) : State := onCam (fun c => { c with queue := c.queue ++ [q] }) s

theorem ringAt_takeEntry (p : Nat) (q : CamReq) (s : State) : ringAt (takeEntry p q s) p = ringTaken (ringAt s p) q := by
  simp [ringAt, takeEntry, setOwn, memStore, modRing, tgetD, tupd, ringTaken]

theorem takeEntry_only (p : Nat) (q : CamReq) (s : State) : OnlyChanges [.cam] s (takeEntry p q s) :=
  (onCam_only ..).trans (setOwn_only ..)

theorem takeEntry_own (p : Nat) (q : CamReq) (s : State) : ownAt (takeEntry p q s) (reqAddr p (ringAt s p).head) = false :=
  ownAt_setOwn_same false

theorem mget_takeEntry_out {a : Nat} (h : a < reqAddr p (ringAt s p).head ∨ reqAddr p (ringAt s p).head + 4 ≤ a) :
    mget 0 (takeEntry p q s).cam.mem a = mget 0 s.cam.mem a := mget_setOwn_out h

theorem arrive_of_ne (h : q.src ≠ 8) : arrive q s = refuseFront q.src (s.cam.queue.length + 1) (joined q s) := by
  simp [arrive, joined, srcQueue, h]

theorem dropReq_append_of_absent {l : List CamReq} (h : l.any (fun r => r.src == q.src) = false) : dropReq q.src (l ++ [q]) = l := by
  induction l with
  | nil => simp [dropReq]
  | cons r l ih =>
    obtain ⟨hr, hl⟩ : (r.src == q.src) = false ∧ l.any (fun r => r.src == q.src) = false := by simpa using h
    rw [List.cons_append, dropReq, if_neg (by simpa using hr), ih hl]

theorem popReq_joined (h8 : q.src ≠ 8) (h : s.cam.queue.any (fun r => r.src == q.src) = false) : popReq q.src (joined q s) = s := by
  simp [popReq, joined, onCam, h8, dropReq_append_of_absent h]

/-- A request that fails a check of 1 to 4 is answered as it arrives, where no request of its source waits (R56). -/
theorem arrive_of_fails {x : Nat × List Word} (h8 : q.src ≠ 8) (hc : check14 q = some x)
    (h : s.cam.queue.any (fun r => r.src == q.src) = false) : arrive q s = replied q x.1 x.2 s := by
  have hnone : s.cam.queue.find? (fun r => r.src == q.src) = none :=
    List.find?_eq_none.2 fun r hr => by simpa using List.any_eq_false.1 h r hr
  have hfirst : (srcQueue (joined q s) q.src).find? (fun r => r.src == q.src) = some q := by
    simp [srcQueue, h8, joined, hnone]
  have hrest (n : Nat) : refuseFront q.src n (answerReq q x.1 x.2 [] (dropSecond q s)) = answerReq q x.1 x.2 [] (dropSecond q s) :=
    refuseFront_of_absent (by simpa [srcQueue, h8] using h)
  rw [arrive_of_ne h8, refuseFront, hfirst]
  dsimp only
  rw [hc]
  dsimp only
  rw [popReq_joined h8 h, hrest, replied, finish, hrest]

theorem exec_requestTaken_of_free (hp : seqUp s 0 = true) (hs : ringsServed s = true) (he : (ringAt s p).en = true)
    (hd : (ringAt s p).head ≠ (ringAt s p).tail) (ho : ownAt s (reqAddr p (ringAt s p).head) = true)
    (hr : replyRoom s p (ringAt s p) (headReq s p) = true) :
    exec (.requestTaken p) s = .next (arrive (headReq s p) (takeEntry p (headReq s p) s)) := by
  show execRequestTaken p s = _
  simp [execRequestTaken, onSeq, hp, hs, he, hd, ho, hr]

theorem exec_requestTaken_of_notOwned (hp : seqUp s 0 = true) (hs : ringsServed s = true) (he : (ringAt s p).en = true)
    (hd : (ringAt s p).head ≠ (ringAt s p).tail) (ho : ownAt s (reqAddr p (ringAt s p).head) = false) :
    exec (.requestTaken p) s = .next (setRing p { ringAt s p with ownErr := true, tail := (ringAt s p).head } s) := by
  show execRequestTaken p s = _
  simp [execRequestTaken, onSeq, hp, hs, he, hd, ho]

theorem exec_requestTaken_of_full (hr : replyRoom s p (ringAt s p) (headReq s p) = false) (ho : ownAt s (reqAddr p (ringAt s p).head) = true) :
    exec (.requestTaken p) s = .next s := by
  show execRequestTaken p s = _
  simp [execRequestTaken, onSeq, ho, hr]

theorem exec_replyStallTimeout (hs : ringsServed s = true) (he : (ringAt s p).en = true) (hd : (ringAt s p).head ≠ (ringAt s p).tail)
    (ho : ownAt s (reqAddr p (ringAt s p).head) = true) (hr : replyRoom s p (ringAt s p) (headReq s p) = false) :
    exec (.replyStallTimeout p) s = .next (setRing p { ringAt s p with rplStall := true } s) := by
  show execReplyStallTimeout p s = _
  simp [execReplyStallTimeout, hs, he, hd, ho, hr]

end

/-- Settles O9, by the four outcomes at REQ_HEAD: taken, taken and answered, not owned, no reply space. -/
theorem requestTaking : Obligations.RequestTaking := by
  refine ⟨fun p s hp4 hp hs he hd ho hr hpass => ?_, fun p s x hp4 hp hs he hd ho hr hc hno => ?_, fun p s hp4 hp hs he hd ho => ?_,
    fun p s hp4 hs he hd ho hr => ⟨exec_requestTaken_of_full hr ho, _, exec_replyStallTimeout hs he hd ho hr, ?_⟩⟩
  · have hsrc : (headReq s p).src ≠ 8 := by show p ≠ 8; omega
    refine ⟨joined (headReq s p) (takeEntry p (headReq s p) s), ?_, rfl, takeEntry_own .., ringAt_takeEntry .., fun a ha => mget_takeEntry_out ha,
      (takeEntry_only ..).trans (onCam_only ..)⟩
    rw [exec_requestTaken_of_free hp hs he hd ho hr, arrive_of_ne hsrc, refuseFront_of_passes]
    rw [srcQueue_of_ne hsrc]
    exact hpass
  · have hsrc : (headReq s p).src ≠ 8 := by show p ≠ 8; omega
    rw [exec_requestTaken_of_free hp hs he hd ho hr, arrive_of_fails (s := takeEntry p (headReq s p) s) hsrc hc hno]
  · exact ⟨_, exec_requestTaken_of_notOwned hp hs he hd ho, ringAt_setRing_same _, rfl, rfl, setRing_only ..⟩
  · exact ⟨ringAt_setRing_same _, rfl, rfl, setRing_only ..⟩

/-! Host accesses to the window outside the registers (R46, R52, R59, R60). -/

section

variable {s : State} {fn addr k : Nat} {bytes : List Byte} {v : Word}

/-- The store of those bytes of a TLP that reach memory, from its byte `i` on. -/
def storeWhere (keep : Nat → Bool) (a : Nat) (m : List Host.Cell) (i : Nat) (bs : List Byte) : List Host.Cell :=
  (bs.zipIdx i).foldl (fun m x => if keep (a + x.2) then mput 0 m (a + x.2) x.1 else m) m

theorem storeWhere_of_all {keep : Nat → Bool} {a i : Nat} {bs : List Byte} (h : ∀ j, i ≤ j → j < i + bs.length → keep (a + j) = true)
    (m : List Host.Cell) : storeWhere keep a m i bs = mwrite 0 m (a + i) bs := by
  induction bs generalizing m i with
  | nil => rfl
  | cons b bs ih =>
    rw [List.length_cons] at h
    simp only [storeWhere, List.zipIdx_cons, List.foldl_cons, h i (by omega) (by omega), if_true]
    exact ih (fun j h1 h2 => h j (by omega) (by omega)) _

theorem storeWhere_of_none {keep : Nat → Bool} {a i : Nat} {bs : List Byte} (h : ∀ j, i ≤ j → j < i + bs.length → keep (a + j) = false)
    (m : List Host.Cell) : storeWhere keep a m i bs = m := by
  induction bs generalizing m i with
  | nil => rfl
  | cons b bs ih =>
    rw [List.length_cons] at h
    simp only [storeWhere, List.zipIdx_cons, List.foldl_cons, h i (by omega) (by omega)]
    exact ih (fun j h1 h2 => h j (by omega) (by omega)) _

/-- A byte of a host write reaches memory. -/
def reaches (s : State) (a : Nat) : Bool := (ringByte a && !dropsWrite s a) || troughByte s a

theorem hostBytes_mem : (hostBytes addr bytes s).cam.mem = storeWhere (reaches s) addr s.cam.mem 0 bytes := rfl

theorem hostBytes_only (a : Nat) (bs : List Byte) (s : State) : OnlyChanges [.cam] s (hostBytes a bs s) := onCam_only ..

theorem troughByte_of_sideSlots {a : Nat} (h1 : 0x05F00000 ≤ a) (h2 : a < 0x06000000) : troughByte s a = true := by
  simp [troughByte, h1, h2, (show 0x02000000 ≤ a by omega)]

theorem reaches_of_owned {p i j : Nat} (hp : p < 4) (he : (ringAt s p).en = true) (hi : i < (ringAt s p).n) (hn : (ringAt s p).n ≤ 4096)
    (hj : j < 64) (ho : ownAt s (reqAddr p i) = true) : reaches s (reqAddr p i + j) = false := by
  have hring : (reqAddr p i + j - 0x01000000) / 0x00200000 = p := by unfold reqAddr ringBase; omega
  have hoff : (reqAddr p i + j - 0x01000000) % 0x00200000 = 64 * i + j := by unfold reqAddr ringBase; omega
  have hbase : (reqAddr p i + j) / 64 * 64 = reqAddr p i := by unfold reqAddr ringBase; omega
  have htrough : ¬ 0x02000000 ≤ reqAddr p i + j := by unfold reqAddr ringBase; omega
  have hin : 64 * i + j < 64 * (ringAt s p).n := by omega
  simp [reaches, dropsWrite, troughByte, hring, hoff, hbase, htrough, hin, he, ho]

theorem exec_ringEntryWrite (hw : addr + bytes.length ≤ 2 ^ 27) (hb : barUp s fn = true) :
    exec (.ringEntryWrite fn addr bytes) s = .next (hostBytes addr bytes (wake s)) := by
  show execRingEntryWrite fn addr bytes s = _
  rw [execRingEntryWrite, if_neg (Nat.not_lt.2 hw), if_pos hb]

theorem ownAt_wake (a : Nat) : ownAt (wake s) a = ownAt s a := by rw [ownAt, memWord, wake_cam, ownAt, memWord]

theorem slotFlag_wake (k : Nat) : slotFlag (wake s) k = slotFlag s k := by rw [slotFlag, wake_cam, slotFlag]

theorem setFlag_only (k : Nat) (w : Word) (s : State) : OnlyChanges [.cam] s (setFlag k w s) := onCam_only ..

theorem slotFlag_setFlag_same (h : sideSlot ≤ k) (w : Word) : slotFlag (setFlag k w s) k = w := by
  have hk : (decide (k < sideSlot) && !s.cam.dramTrough) = false := by simp [Nat.not_lt.2 h]
  by_cases hw : w = 0
  · simp [slotFlag, setFlag, hk, tgetD, hw]
  · simp only [slotFlag, setFlag, onCam_cam, hk, tgetD, if_neg hw, tget_tset_same, Option.getD_some]
    rfl

theorem slotFlag_setFlag_ne {j : Nat} (h : j ≠ k) (w : Word) : slotFlag (setFlag k w s) j = slotFlag s j := by
  have hget : tget (if w = 0 then terase s.cam.flags k else tset s.cam.flags k w) j = tget s.cam.flags j := by
    split
    · exact tget_terase_ne _ h
    · exact tget_tset_ne _ _ h
  simp only [slotFlag, setFlag, onCam_cam, tgetD, hget]

theorem exec_slotFlagWrite (hk : k < slotCount) (hb : barUp s fn = true) :
    exec (.slotFlagWrite fn (0x01800000 + 4 * k) 4 v) s = .next (writeFlag k v (wake s)) := by
  unfold slotCount at hk
  show execSlotFlagWrite fn (0x01800000 + 4 * k) 4 v s = _
  have hw : ¬ 2 ^ 27 < 0x01800000 + 4 * k + 4 := by omega
  have ha : (0x01800000 + 4 * k) % 4 = 0 := by omega
  have hi : (0x01800000 + 4 * k - 0x01800000) / 4 = k := by omega
  have hlt : 0x01800000 + 4 * k < 0x01810000 := by omega
  rw [execSlotFlagWrite, if_neg hw, hi]
  simp [ha, hb, hlt]

theorem windowByte_of_sideSlots {a : Nat} (h1 : 0x05F00000 ≤ a) (h2 : a < 0x06000000) : windowByte s a = mget 0 s.cam.mem a := by
  simp [windowByte, troughByte_of_sideSlots h1 h2]

end

/-- Settles O10, by which bytes of a write reach memory: all of them in the sideband slots, none in an entry whose OWN is 1. -/
theorem windowMemory : Obligations.WindowMemory := by
  refine ⟨fun fn addr bytes s hb h1 h2 => ?_, fun fn p i bytes s hb hp he hi hn hl ho => ?_, fun fn k v s hb h1 h2 hheld => ?_,
    fun fn k v s hb hk hheld => ?_, fun fn addr size s hb h1 h2 => ?_⟩
  · have hmem : (hostBytes addr bytes (wake s)).cam.mem = mwrite 0 s.cam.mem addr bytes := by
      rw [hostBytes_mem, storeWhere_of_all, wake_cam]
      · rfl
      · intro j _ hj
        simp [reaches, troughByte_of_sideSlots (s := wake s) (a := addr + j) (by omega) (by omega)]
    refine ⟨_, exec_ringEntryWrite (by omega) hb, ?_, fun a ha => ?_, ?_, ?_, ?_, (hostBytes_only ..).of_wake⟩
    · rw [hmem, mread_mwrite_same]
    · rw [hmem, mget_mwrite_out 0 bytes _ _ _ ha]
    iterate 3 simp [hostBytes]
  · refine ⟨_, exec_ringEntryWrite (by unfold reqAddr ringBase; omega) hb, ?_, (hostBytes_only ..).of_wake⟩
    rw [hostBytes_mem, storeWhere_of_none, wake_cam]
    intro j _ hj
    exact reaches_of_owned hp (by simpa using he) (by simpa using hi) (by simpa using hn) (by omega) (by rw [ownAt_wake]; exact ho)
  · have hw : writeFlag k v (wake s) = setFlag k (v &&& 0x80001FFF) (wake s) := by
      simp [writeFlag, slotFlag_wake, hheld, Nat.not_lt.2 h1]
    refine ⟨_, exec_slotFlagWrite h2 hb, ?_, fun j hj => ?_, ?_, ?_⟩ <;> rw [hw]
    · exact slotFlag_setFlag_same h1 _
    · rw [slotFlag_setFlag_ne hj, slotFlag_wake]
    · simp [setFlag]
    · exact (setFlag_only ..).of_wake
  · rw [exec_slotFlagWrite hk hb]
    simp [writeFlag, slotFlag_wake, hheld]
  · show execRegisterRead fn addr size s = _
    have hbytes : (upFrom addr size).map (windowByte (wake s)) = mread 0 s.cam.mem addr size := by
      refine List.map_congr_left fun a ha => ?_
      obtain ⟨i, hi, rfl⟩ := List.mem_map.1 ha
      have := List.mem_range.1 hi
      rw [windowByte_of_sideSlots (by omega) (by omega), wake_cam]
    rw [execRegisterRead, if_neg (by omega), hbytes]
    simp [hb, show ¬ addr < 0x01000000 by omega]

/-! Where a reply goes (R55, R67, R68). -/

section

variable {s : State} {p : Nat}

theorem postDnr_success {tag : Nat} {dnr : Bool} {a b : Nat} (s : State) : postDnr tag .success dnr a b s = enterPost tag .success dnr a b s := by
  have h : failedPair tag .success s = none := by
    unfold failedPair
    split <;> simp
  rw [postDnr, h]

/-- A C0h command that succeeds: no pair and no tenant's transfer is charged with it. -/
theorem postDnr_success_of_cament {tag : Nat} {x : Tag} {dnr : Bool} {a b : Nat} (hx : tget s.nvq.tags tag = some x)
    (hop : opc x.ent = 0xC0) : postDnr tag .success dnr a b s = setPost tag .success dnr a b (·.moved) s := by
  rw [postDnr_success, enterPost, hx]
  simp [hop]

theorem setPost_posted {tag : Nat} {x : Tag} (hx : tget s.nvq.tags tag = some x) (hst : x.st ≠ .post) (sc : Sc) (dnr : Bool) (a b : Nat)
    (m : Tag → Nat) : ∃ y, tget (setPost tag sc dnr a b m s).nvq.tags tag = some y ∧ y.st = .post ∧ y.status = sc ∧ y.dw0 = a ∧ y.dw1 = b := by
  simp only [setPost, hx, hst, if_false]
  exact ⟨_, tget_tset_same .., rfl, rfl, rfl, rfl⟩

theorem replyWords_length (r : CamReq) (st : Nat) (d : List Word) (fin : Bool) : (replyWords r st d fin).length = 8 := by
  simp [replyWords]

theorem ringReply_cam {ws : List Word} {b : Bool} (h : (ringAt s p).en = true) : (ringReply p ws b s).cam =
    { s.cam with mem := mwrite 0 s.cam.mem (rplAddr p (ringAt s p).rplNext) (wordBytes ws),
                 rings := tset s.cam.rings p (ringReplied (ringAt s p) b) } := by
  rw [ringReply_of_enabled h]
  unfold onlyIf
  split <;> rfl

theorem ringReply_out {ws : List Word} {b : Bool} (h : (ringAt s p).en = true) : (ringReply p ws b s).out =
    (if (ringAt s p).irqEn = true ∧ ((ringAt s p).owed = true ∨ b = false) then [.ringMsix (mgmtPf s) p (ringAt s p).vec] else []) ++
      .reply p ws [] :: s.out := by
  rw [ringReply_of_enabled h]
  unfold onlyIf
  split
  · next hc => rw [if_pos (by simpa using hc)]; rfl
  · next hc => rw [if_neg (by simpa using hc)]; rfl

end

/-- Settles O11, path by path. -/
theorem repliesByPath : Obligations.RepliesByPath := by
  refine ⟨fun r st d pl fin s hm hr h4 he hn => ?_, fun r st tag d x s hm hr h4 ht hx hst hop hc => ?_, fun r st d pl fin s hm hr h4 ht => ?_,
    fun r st d pl fin s h => replyTo_of_silent h⟩
  · dsimp only
    have hlen : (wordBytes (replyWords r st d fin)).length = 32 := by rw [wordBytes_length, replyWords_length]
    rw [replyTo_of_ring hm hr h4]
    refine ⟨?_, fun a ha => ?_, ?_, ringReply_out he, ringReply_only ..⟩
    · rw [ringReply_cam he, ← hlen]
      exact mread_mwrite_same ..
    · rw [ringReply_cam he]
      exact mget_mwrite_out _ _ _ _ _ (by rw [hlen]; exact ha)
    · rw [ringAt, ringReply_cam he]
      simp [tgetD, ringReplied]
  · dsimp only
    obtain ⟨y, hy⟩ := Option.isSome_iff_exists.1 hc
    rw [replyTo_of_command hm hr h4 ht hx, postDnr_success_of_cament (s := modCtrl _ _ (emit _ s)) (x := x) hx hop]
    refine ⟨setPost_posted (s := modCtrl _ _ (emit _ s)) hx hst .., ?_, ?_⟩
    · simp [ctrlAt, setPost_ctrls, modCtrl, tmod, hy, tgetD]
    · exact ((emit_only ..).wide _ rfl).trans (((modCtrl_only ..).wide _ rfl).trans ((setPost_only ..).wide _ rfl))
  · rw [replyTo_of_sideband hm hr h4 ht]
    exact ⟨_, rfl, (emit_only ..).trans (emit_only ..)⟩

end Sys2Proof

namespace Sys2Proof

open Machine

/-! Two answers that do not come alone: a cancelled operation under a handle that the table of operations lists twice, and a reply with a
request behind it that fails a check. -/

/-- An OP_CANCEL of handle 5 from ring 0. -/
def cancelFive : CamReq := { src := 0, words := [0x00020103, 0xFFFF0000, 5, 0] }

/-- A running GC_CONTROL operation of ring 1. -/
def gcRuns : LongOp := { src := 1, tag := 7, opcode := 0x0304 }

/-- A state whose table of operations lists handle 5 twice: the operation runs, and by the second entry its result, status 0, is kept. -/
def handleTwice : State :=
  { sys := { mode := .operational },
    cam := { queue := [cancelFive], ops := [(5, gcRuns), (5, { gcRuns with ended := some (0, [], []) })] } }

/-- The request OP_CANCEL carries out there passes its checks. -/
theorem handleTwice_accepts : Accepted 0 0x0103 handleTwice cancelFive :=
  ⟨⟨cancelFive, by decide⟩, by decide, ⟨{ len := 2 }, by decide⟩⟩

/-- The status that a handle's operation holds in the next state. -/
def statusAfter (c : Instr) (s : State) (h : Nat) : Option Nat := match exec c s with
  | .next t => (tget t.cam.ops h).map (·.status)
  | _ => none

theorem handleTwice_status : statusAfter (.opCancel 0) handleTwice 5 = some 0 := by decide +kernel

/-- Refutes O15: where the table of operations lists a handle twice, the result that its second entry keeps replaces the 0x0003 of OP_CANCEL. -/
theorem not_resetAndCancel : ¬ Obligations.ResetAndCancel := by
  intro h
  obtain ⟨-, -, hcancel, -⟩ := h
  obtain ⟨v, hexec, o', ho', hcomplete, -⟩ := hcancel 0 5 handleTwice cancelFive gcRuns handleTwice_accepts (by decide) (by decide) (by decide)
    (by decide) (by decide) (by decide) (by decide) (by decide)
  have hkept : (replied cancelFive 0 [] v).cam.ops = v.cam.ops := (finish_keeps ..).ops
  have hstatus : statusAfter (.opCancel 0) handleTwice 5 = some o'.status := by simp [statusAfter, hexec, hkept, ho']
  rw [handleTwice_status, (hcomplete rfl).2] at hstatus
  exact absurd hstatus (by decide)

/-- A TROUGH_GET of slot 16,128, and a request behind it whose LEN is 0. -/
def getFirst : CamReq := { src := 8, words := [0x00020121, 0xFFFF0000, 0x3F00, 0] }
def emptyRequest : CamReq := { src := 8, words := [] }

/-- An operational device on which both wait. -/
def getThenEmpty : State := { sys := { mode := .operational }, cam := { side := [getFirst, emptyRequest] } }

theorem getThenEmpty_accepts : Accepted 8 0x0121 getThenEmpty getFirst :=
  ⟨⟨getFirst, by decide⟩, by decide, ⟨{ len := 2, paths := 2 }, by decide⟩⟩

/-- The sideband requests that wait in the next state. -/
def sideAfter (c : Instr) (s : State) : Option (List CamReq) := match exec c s with
  | .next t => some t.cam.side
  | _ => none

theorem getThenEmpty_side : sideAfter (.troughGet 8) getThenEmpty = some [] := by decide +kernel

/-- Refutes O17: behind a TROUGH_GET, a request that fails a check of 1 to 4 is answered too, and leaves its queue. -/
theorem not_troughOpcodes : ¬ Obligations.TroughOpcodes := by
  intro h
  obtain ⟨-, -, -, hget⟩ := h
  have hexec := hget getThenEmpty getFirst getThenEmpty_accepts (by decide) (by decide)
  have hside : sideAfter (.troughGet 8) getThenEmpty = some [emptyRequest] := by
    rw [sideAfter, hexec]
    decide +kernel
  rw [getThenEmpty_side] at hside
  exact absurd hside (by decide)

end Sys2Proof

namespace Sys2Proof

open Machine

/-! The end of a long operation (R56, R57, R63): the result under its handle, the answers that waited for it, and the operations that then
complete. -/

section

variable {s t : State} {h st : Nat} {d : List Word} {o : LongOp} {g : Gated} {l : List Gated}

theorem forEach_of_fixed {α σ : Type} {l : List α} {f : α → σ → σ} {s : σ} (h : ∀ x ∈ l, f x s = s) : forEach l f s = s := by
  induction l with
  | nil => rfl
  | cons x l ih =>
    have hx : f x s = s := h x (List.mem_cons_self ..)
    simpa only [forEach, List.foldl_cons, hx] using ih fun y hy => h y (List.mem_cons_of_mem _ hy)

/-- The entry of a long operation that has its result. -/
def opDone (st : Nat) (d : List Word) (o : LongOp) (s : State) : LongOp :=
  { o with st := .complete, status := st, detail := d, done := s.cam.opSeq, written := 0, ended := none }

/-- The result of a long operation is kept under its handle. -/
def opKept (h st : Nat) (d : List Word) (o : LongOp) (s : State) : State :=
  onCam (fun c => { c with opSeq := c.opSeq + 1, ops := tset c.ops h (opDone st d o s) }) s

theorem opKept_only (h st : Nat) (d : List Word) (o : LongOp) (s : State) : OnlyChanges [.cam] s (opKept h st d o s) := onCam_only ..

theorem completeOp_of_noSlots (hs : o.slots = none) : completeOp h st d [] o s =
    onlyIf (o.notify && !o.discard) (replyTo (opReq o) st d [] true) (opKept h st d o s) := by
  simp [completeOp, opKept, opDone, hs, onlyIf]

theorem completeOp_of_silent (hs : o.slots = none) (hn : o.notify = false) : completeOp h st d [] o s = opKept h st d o s := by
  rw [completeOp_of_noSlots hs, hn]
  rfl

theorem completeOp_of_notify (hs : o.slots = none) (hn : o.notify = true) (hd : o.discard = false) :
    completeOp h st d [] o s = replyTo (opReq o) st d [] true (opKept h st d o s) := by
  rw [completeOp_of_noSlots hs, hn, hd]
  rfl

theorem completeOp_cam (hs : o.slots = none) : (completeOp h st d [] o s).cam.ops = tset s.cam.ops h (opDone st d o s) ∧
    (completeOp h st d [] o s).cam.gate = s.cam.gate := by
  rw [completeOp_of_noSlots hs, onlyIf]
  split
  · rw [replyTo_ops, replyTo_gate]
    exact ⟨rfl, rfl⟩
  · exact ⟨rfl, rfl⟩

/-! ## The answers and the operations that waited -/

/-- No answer and no operation waits for the one under a handle. -/
structure Unawaited (h : Nat) (s : State) : Prop where
  gate : ∀ g ∈ s.cam.gate, g.behind ≠ [] ∧ h ∉ g.behind
  ops : ∀ e ∈ s.cam.ops, h ∉ e.2.behind

theorem gate_erase (hg : ∀ g ∈ l, g.behind ≠ [] ∧ h ∉ g.behind) :
    (l.map fun x => { x with behind := x.behind.erase h }) = l ∧ (l.filter fun x => x.behind.isEmpty) = [] ∧
      (l.filter fun x => !x.behind.isEmpty) = l := by
  refine ⟨?_, ?_, ?_⟩
  · refine (List.map_congr_left fun g hmem => ?_).trans (List.map_id l)
    rw [List.erase_of_not_mem (hg g hmem).2]
    rfl
  · exact List.filter_eq_nil_iff.2 fun g hmem => by simpa using (hg g hmem).1
  · exact List.filter_eq_self.2 fun g hmem => by simpa using (hg g hmem).1

theorem ops_erase {t : Tbl LongOp} (ht : ∀ e ∈ t, h ∉ e.2.behind) : (tmap t fun _ o => { o with behind := o.behind.erase h }) = t := by
  refine (List.map_congr_left fun e hmem => ?_).trans (List.map_id t)
  dsimp only
  rw [List.erase_of_not_mem (ht e hmem)]
  rfl

theorem openGate_of_unawaited (hu : Unawaited h s) : openGate h s = s := by
  obtain ⟨hmap, hnone, hall⟩ := gate_erase hu.gate
  simp only [openGate, hmap, hnone, hall]
  show onCam (fun c => { c with gate := s.cam.gate, ops := tmap c.ops fun _ o => { o with behind := o.behind.erase h } }) s = s
  simp only [onCam, ops_erase hu.ops]

/-- One answer waits, for the operation under the handle alone: it is written. -/
theorem openGate_of_awaited (hg : s.cam.gate = g :: l) (hb : g.behind = [h])
    (hu : Unawaited h (onCam (fun c => { c with gate := l }) s)) :
    openGate h s = replyTo g.req g.status g.detail g.payload false (onCam (fun c => { c with gate := l }) s) := by
  obtain ⟨hmap, hnone, hall⟩ := gate_erase hu.gate
  have hops := ops_erase hu.ops
  simp only [onCam_cam] at hmap hnone hall hops
  simp only [openGate, hg, List.map_cons, hmap, List.filter_cons, hb, hnone, hall, List.erase_cons_head, List.isEmpty_nil, Bool.not_true,
    if_true, Bool.false_eq_true, if_false]
  simp only [forEach, List.foldl_cons, List.foldl_nil, onCam, hops]

/-- A running operation ends first where no kept result follows it: nothing but the answers that waited for it comes after. -/
theorem endOp_of_quiet (hget : tget s.cam.ops h = some o) (hrun : o.st = .running) (hb : o.behind = []) (he : o.ended = none)
    (hquiet : ∀ e ∈ (openGate h (completeOp h st d [] o s)).cam.ops, e.2.st = .running → e.2.behind = [] → e.2.ended = none) :
    endOp h st d [] s = openGate h (completeOp h st d [] o s) := by
  rw [endOp, endOpN, hget]
  simp only [hrun, he, hb, Option.isSome_none, Bool.false_eq_true, or_false, List.isEmpty_nil, if_true, reduceCtorEq, if_false]
  refine forEach_of_fixed fun e hmem => ?_
  obtain ⟨hmem, hcond⟩ := List.mem_filter.1 hmem
  have hcond : e.2.st = .running ∧ e.2.behind = [] := by simpa using hcond
  rw [hquiet e hmem hcond.1 hcond.2]

theorem EndsFirst.unawaited (hf : EndsFirst h o s) : Unawaited h s := ⟨hf.2.1, fun e he => (hf.2.2 e he).1⟩

/-- The entries of the operations after one has ended: its own is complete and waits for none. -/
theorem opDone_entries (hf : EndsFirst h o s) {e : Nat × LongOp} (he : e ∈ tset s.cam.ops h (opDone st d o s)) :
    h ∉ e.2.behind ∧ (e.2.st = .running → e.2.behind = [] → e.2.ended = none) := by
  obtain ⟨⟨hb, -⟩, -, hops⟩ := hf
  rcases mem_tset _ _ _ _ he with rfl | he
  · exact ⟨by simp [opDone, hb], fun _ _ => rfl⟩
  · exact ⟨(hops e he).1, fun _ => (hops e he).2⟩

/-- An operation that ends first, and for which nothing waits, has its result and nothing comes after. -/
theorem endOp_of_first (hget : tget s.cam.ops h = some o) (hrun : o.st = .running) (hf : EndsFirst h o s) (hs : o.slots = none) :
    endOp h st d [] s = completeOp h st d [] o s := by
  obtain ⟨hops, hgate⟩ := completeOp_cam (h := h) (st := st) (d := d) (s := s) hs
  have hopen : openGate h (completeOp h st d [] o s) = completeOp h st d [] o s :=
    openGate_of_unawaited ⟨by rw [hgate]; exact hf.unawaited.gate, by rw [hops]; exact fun e he => (opDone_entries hf he).1⟩
  rw [endOp_of_quiet hget hrun hf.1.1 hf.1.2, hopen]
  rw [hopen, hops]
  exact fun e he => (opDone_entries hf he).2

theorem endOp_of_behind (hget : tget s.cam.ops h = some o) (hrun : o.st = .running) (he : o.ended = none) (hb : o.behind ≠ []) :
    endOp h st d [] s = onCam (fun c => { c with ops := tset c.ops h { o with ended := some (st, d, []) } }) s := by
  rw [endOp, endOpN, hget]
  simp [hrun, he, hb]

/-- An operation ends for which one answer waits: that answer is written once the result is kept. -/
theorem endOp_of_awaited (hget : tget s.cam.ops h = some o) (hrun : o.st = .running) (hg : s.cam.gate = g :: l) (hb : g.behind = [h])
    (hf : EndsFirst h o { s with cam := { s.cam with gate := l } }) (hn : o.notify = false) (hs : o.slots = none) :
    endOp h st d [] s =
      replyTo g.req g.status g.detail g.payload false (onCam (fun c => { c with gate := l }) (opKept h st d o s)) := by
  have hkept : completeOp h st d [] o s = opKept h st d o s := completeOp_of_silent hs hn
  have hopen : openGate h (opKept h st d o s) =
      replyTo g.req g.status g.detail g.payload false (onCam (fun c => { c with gate := l }) (opKept h st d o s)) :=
    openGate_of_awaited hg hb ⟨hf.unawaited.gate, fun e he => (opDone_entries hf he).1⟩
  rw [endOp_of_quiet hget hrun hf.1.1 hf.1.2, hkept, hopen]
  rw [hkept, hopen, replyTo_ops]
  exact fun e he => (opDone_entries hf he).2

/-! ## LONG_OPERATION_END of BANK_RETEST -/

theorem exec_longOperationEnd_of_retest (hget : tget s.cam.ops h = some o) (hrun : o.st = .running) (hop : o.opcode = 0x0603)
    (hh : s.sys.mode ≠ .holdup) (hd : s.sys.mode ≠ .dormant) : exec (.longOperationEnd h st d) s =
      .next (if st = 0 then endOp h 0 [regValue (bankBack o.target s) .cstSts 0] [] (bankBack o.target s) else endOp h st d [] s) := by
  show execLongOperationEnd h st d s = _
  by_cases hst : st = 0 <;> simp [execLongOperationEnd, hget, hrun, hop, hh, hd, hst]

end

/-- Settles O16, by what waits for the operation: nothing, the operations before it, or one answer. -/
theorem longOperationsEnd : Obligations.LongOperationsEnd := by
  refine ⟨fun h st d s o hget hrun hf hn hs hm => ?_, fun h st d s o hget hrun hf hn hd hs hm => ?_,
    fun h st d s o hget hrun he hb => endOp_of_behind hget hrun he hb, fun h st d g l s o hget hrun hg hb hf hn hs => ?_,
    fun h st d s o hget hrun hop hst hh hd => ?_, fun h d s o hget hrun hop hh hd => exec_longOperationEnd_of_retest hget hrun hop hh hd⟩
  · dsimp only
    rw [endOp_of_first hget hrun hf hs, completeOp_of_silent hs hn]
    refine ⟨?_, fun k hk => tget_tset_ne _ _ hk, rfl, opKept_only ..⟩
    exact (tget_tset_same ..).trans (by simp [opDone, hf.1.2])
  · exact ⟨_, by rw [endOp_of_first hget hrun hf hs, completeOp_of_notify hs hn hd], opKept_only ..⟩
  · exact ⟨_, endOp_of_awaited hget hrun hg hb hf hn hs, rfl, (opKept_only ..).trans (onCam_only ..)⟩
  · rw [exec_longOperationEnd_of_retest hget hrun hop hh hd, if_neg hst]

end Sys2Proof

namespace Sys2Proof

open Machine

/-! What an accepted Cament request comes to (R56, R57, R64). -/

section

variable {src op h : Nat} {long : CamReq → Bool} {pre : State → CamReq → Option (Nat × List Word)} {act : CamReq → Nat → State → State × Ans}
  {s : State} {r : CamReq} {d : OpDef}

/-- Checks 5 to 8 and the slot checks of an accepted request, as `serve` makes them. -/
structure PassesChecks (src op : Nat) (s : State) (r : CamReq) (d : OpDef) : Prop where
  next : ∃ r0, nextReq s src = some r0 ∧ r = trimReq r0 ∧ ¬ (rqOp r0 ≠ op ∨ (!seqUp s 0) = true ∨ (!s.sys.mode.serving && s.sys.mode ≠ .boot) = true)
  check : check57 (popReq src s) r d = none
  target : ¬ (rqTgt r < d.lo ∨ d.hi < rqTgt r)
  trough : (rqTrough r != (d.trough != 0)) = false
  words : ¬ (rqTrough r ∧ rqW r 2 &&& 0xC000C000 ≠ 0) ∧ ¬ (rqTrough r ∧ rqW r 3 &&& 0xF8000000 ≠ 0)
  slots : (if rqTrough r then slotCheck (popReq src s) r d.trough else none) = none

theorem Accepted.passes (ha : Accepted src op s r) (hd : opDef op = some d) : PassesChecks src op s r d := by
  obtain ⟨⟨r0, hnext, hr, hop⟩, ⟨hmode, hseq⟩, d', hd', hcheck, hlo, hhi, htrough, hslots⟩ := ha
  obtain rfl : d' = d := Option.some.inj (hd'.symm.trans hd)
  refine ⟨⟨r0, hnext, hr, ?_⟩, hcheck, by omega, by simp [htrough], ⟨fun h => h.2 (hslots h.1).1, fun h => h.2 (hslots h.1).2.1⟩, ?_⟩
  · rcases hmode with hm | hm <;> simp [hop, hseq, hm]
  · split
    · exact (hslots ‹_›).2.2
    · rfl

/-- Check 9 refuses an accepted request. -/
theorem serve_of_refused {x : Nat × List Word} (ha : Accepted src op s r) (hd : opDef op = some d) (hp : pre (taken src s) r = some x) :
    serve src op long pre act s = finish r x.1 x.2 [] (noteRefusal op x.1 (taken src s)) := by
  obtain ⟨⟨r0, hnext, rfl, hserves⟩, hcheck, htarget, htrough, ⟨hw2, hw3⟩, -⟩ := ha.passes hd
  have hp' : pre (popReq src s) (trimReq r0) = some x := hp
  simp only [serve, hnext, hd]
  rw [if_neg hserves, hcheck]
  dsimp only
  rw [if_neg htarget, htrough, if_neg (by decide), if_neg hw2, if_neg hw3, hp']
  rfl

/-- An accepted request without slots that is no long operation is answered once it has taken effect. -/
theorem serve_at_once (ha : Accepted src op s r) (hd : opDef op = some d) (h0 : d.trough = 0) (hl : long r = false)
    (hp : pre (taken src s) r = none) : serve src op long pre act s =
      finish r (act r 0 (taken src s)).2.status (act r 0 (taken src s)).2.detail (act r 0 (taken src s)).2.data (act r 0 (taken src s)).1 := by
  obtain ⟨⟨r0, hnext, rfl, hserves⟩, hcheck, htarget, htrough, ⟨hw2, hw3⟩, hslots⟩ := ha.passes hd
  have hp' : pre (popReq src s) (trimReq r0) = none := hp
  have ht : rqTrough (trimReq r0) = false := by simpa [h0] using htrough
  simp only [serve, hnext, hd]
  rw [if_neg hserves, hcheck]
  dsimp only
  rw [if_neg htarget, htrough, if_neg (by decide), if_neg hw2, if_neg hw3, hp', hslots]
  simp only [hl, ht, Bool.false_eq_true, if_false]
  rfl

/-- An opcode that only reads answers with its status and detail. -/
theorem serveRead_at_once {f : State → CamReq → Nat × List Word} (ha : Accepted src op s r) (hd : opDef op = some d) (h0 : d.trough = 0) :
    serveRead src op f s = replied r (f (taken src s) r).1 (f (taken src s) r).2 (taken src s) :=
  serve_at_once ha hd h0 rfl rfl

/-- The state in which the request `r` begins a long operation under handle `h`: its slots are held, and the operation is noted. -/
def opNoted (src op h : Nat) (r : CamReq) (d : OpDef) (s : State) : State :=
  onCam (fun c => { c with ops := tset c.ops h (opOf src op r (d.trough == 2) (earlier (taken src s) r)) })
    (if rqTrough r then holdSlots (rqFirst r) (rqCount r) (taken src s) else taken src s)

/-- A long operation's first reply, and the answers that follow it. -/
def firstReply (src h : Nat) (r : CamReq) (s : State) : State :=
  let s1 := replyTo r 0x0001 [pack [(16, 16, freeBelow s 0x10000), (0, 6, h)]] [] false (drawn s)
  refuseFront src (srcQueue s1 src).length s1

/-- An accepted request that begins a long operation. -/
theorem serve_of_long (ha : Accepted src op s r) (hd : opDef op = some d) (hl : long r = true) (hp : pre (taken src s) r = none)
    (hh : pickHandle (taken src s) = some h) :
    serve src op long pre act s = (act r h (firstReply src h r (opNoted src op h r d s))).1 := by
  obtain ⟨⟨r0, hnext, rfl, hserves⟩, hcheck, htarget, htrough, ⟨hw2, hw3⟩, hslots⟩ := ha.passes hd
  have hp' : pre (popReq src s) (trimReq r0) = none := hp
  have hh' : pickHandle (popReq src s) = some h := hh
  simp only [serve, hnext, hd]
  rw [if_neg hserves, hcheck]
  dsimp only
  rw [if_neg htarget, htrough, if_neg (by decide), if_neg hw2, if_neg hw3, hp', hslots]
  simp only [hl, hh', if_true]
  rfl

end

/-! TEL_INFO by the sideband: CAM_BUSY counts the requests that still wait (Table 19-6b), and the one that is answered no longer does. -/

theorem exec_telInfo {src : Nat} {s : State} {r : CamReq} (ha : Accepted src 0x0C00 s r) :
    let u := taken src s
    exec (.telInfo src) s = .next (replied r 0 [reg u .sbmCfg, regValue u .sbmSts 0,
      pack [(16, 1, b2n u.sbm.ctrlCap.isSome), (8, 8, u.sbm.ctrlGen), (0, 8, u.sbm.hostGen)]] u) := by
  show execTelInfo src s = _
  rw [execTelInfo, serveRead_at_once ha (d := { len := 1 }) rfl rfl]

/-- A TEL_INFO from the sideband. -/
def telInfoReq : CamReq := { src := 8, words := [0x00010C00, 0xFFFF0000] }

/-- An operational device on which it waits alone. -/
def telInfoWaits : State := { sys := { mode := .operational }, cam := { side := [telInfoReq] } }

theorem telInfoWaits_accepts : Accepted 8 0x0C00 telInfoWaits telInfoReq :=
  ⟨⟨telInfoReq, by decide⟩, by decide, ⟨{ len := 1 }, by decide⟩⟩

/-- The words of the newest reply. -/
def lastWords (s : State) : List Word := match s.out.drop 1 with
  | .reply _ ws _ :: _ => ws
  | _ => []

/-- Refutes O60: a TEL_INFO that waits alone on the sideband is answered with CAM_BUSY 0, not with SBM_STS as it reads before. -/
theorem not_sidebandAndTelemetry : ¬ Obligations.SidebandAndTelemetry := by
  intro h
  obtain ⟨-, -, -, -, -, -, -, -, -, -, -, -, -, hopcodes⟩ := h
  have hbefore := (hopcodes 8 telInfoWaits telInfoReq).1 telInfoWaits_accepts
  rw [exec_telInfo telInfoWaits_accepts] at hbefore
  injection hbefore with hstate
  have hwords := congrArg (fun t => (lastWords t).getD 3 0) hstate
  exact absurd hwords (by decide +kernel)

end Sys2Proof

namespace Sys2Proof

open Machine

/-! Relations that compose; ports; the loss of the twin link's partner (R92, R284); requests that look ahead (R158). -/

/-! ## Relations that compose -/

/-- A relation between states that composes. -/
structure Composes (R : State → State → Prop) : Prop where
  refl : ∀ s, R s s
  trans : ∀ {s t u}, R s t → R t u → R s u

theorem Composes.each {R : State → State → Prop} (hR : Composes R) {α : Type} (xs : List α) (f : α → State → State) (s : State)
    (h : ∀ x s, R s (f x s)) : R s (forEach xs f s) := by
  unfold forEach
  induction xs generalizing s with
  | nil => exact hR.refl s
  | cons x xs ih => exact hR.trans (h x s) (ih (f x s))

theorem rel_ite {R : State → State → Prop} {s t u : State} {c : Prop} [Decidable c] (h : R s t) (k : R s u) :
    R s (if c then t else u) := by
  split
  · exact h
  · exact k

/-! ## Ports and functions -/

theorem portAt_modPort_same (n : Nat) (f : Port → Port) (s : State) : portAt (modPort n f s) n = f (portAt s n) := tgetD_tset_same ..

theorem portAt_modPort_ne {m n : Nat} (h : m ≠ n) (f : Port → Port) (s : State) : portAt (modPort n f s) m = portAt s m :=
  tgetD_tset_ne _ _ _ h

theorem receives_iff {s : State} {n : Nat} : receives s n = true ↔ governs s n = true ∧ (portAt s n).up = true ∧ portsLive s = true := by
  simp [receives, and_assoc]

theorem governs_lt {s : State} {n : Nat} (h : governs s n = true) : n < 4 := by simp [governs] at h; exact h.1

theorem portsLive_mode {s : State} (h : portsLive s = true) : s.sys.mode ≠ .dormant := by simp [portsLive] at h; exact h.2

/-! ## The loss of the partner -/

theorem onDre_only (f : Dre → Dre) (s : State) : OnlyChanges [.dre] s (onDre f s) := by
  constructor; intro p hp; cases p <;> simp_all [Part.same]

theorem finishMirror_only (k : Nat) (s : State) : OnlyChanges [.nvq, .qos] s (finishMirror k s) := by
  unfold finishMirror
  split
  · exact .refl _ _
  · rename_i t _
    have h : OnlyChanges [.nvq, .qos] s (setTag k { t with mirWait := false } s) := (setTag_only ..).wide _ rfl
    exact .cond (fun _ => h.trans (post_only ..)) fun _ => h

/-- Mirror commands in progress end on this device alone (R284). -/
structure MirrorsEnd (s t : State) : Prop where
  only : OnlyChanges [.nvq, .qos, .dre] s t
  lost : t.dre.lost = s.dre.lost

theorem MirrorsEnd.composes : Composes MirrorsEnd := ⟨fun _ => ⟨.refl _ _, rfl⟩, fun h k => ⟨h.only.trans k.only, k.lost.trans h.lost⟩⟩

theorem finishMirror_ends (k : Nat) (l : List Nat) (s : State) : MirrorsEnd s (finishMirror k (dirtyGrans l s)) := by
  have h := finishMirror_only k (dirtyGrans l s)
  exact ⟨((onDre_only ..).wide _ rfl).trans (h.wide _ rfl), by rw [h.same .dre (by decide)]; rfl⟩

/-- What the loss of the partner can change (R92, R284), the twin link's own state apart. -/
def partnerParts : List Part := [.qos, .dre] ++ faultParts

/-- The partner has been lost from state `s`: latches stay, and a loss that was none before is an event with its source. -/
structure PartnerGone (s t : State) : Prop where
  only : OnlyChanges partnerParts s t
  mode : t.sys.mode = s.sys.mode
  lost : t.dre.lost = true
  latched : ∀ j, Latched j s → Latched j t
  first : s.dre.lost = false → Latched 268 t ∧ EvtSet .dreEvt 8 t

theorem PartnerGone.trans_ends {s t u : State} (h : PartnerGone s t) (k : MirrorsEnd t u) : PartnerGone s u := by
  obtain ⟨ho, hl⟩ := k
  have hflt := ho.same .flt (by decide)
  refine ⟨h.only.trans (ho.wide _ rfl), by rw [ho.same .sys (by decide), h.mode], hl.trans h.lost,
    fun j hj => (h.latched j hj).of_flt hflt, fun hs => ?_⟩
  obtain ⟨h1, h2⟩ := h.first hs
  exact ⟨h1.of_flt hflt, h2.of_reg (by rw [ho.same .regs (by decide)])⟩

theorem partnerLost_gone {s : State} (hm : s.sys.mode ≠ .dormant) : PartnerGone s (partnerLost s) := by
  unfold partnerLost
  split
  · rename_i hl
    exact ⟨.refl _ _, rfl, hl, fun _ h => h, fun h => absurd hl (by simp [h])⟩
  · extract_lets s1
    obtain ⟨hlat, hk⟩ : RaisedFrom 268 _ s1 := raiseSrc_raised 268 _ (by decide) hm
    have hgone : PartnerGone s s1 :=
      { only := .trans (((onDre_only ..).wide _ rfl).trans ((evt_only ..).wide _ rfl)) (hk.rest.wide _ rfl)
        mode := by rw [hk.sys]; rfl
        lost := by rw [hk.rest.same .dre (by decide)]; rfl
        latched := fun j h => hk.latched j (h.of_flt rfl)
        first := fun _ => ⟨hlat, (evtSet_evt .dreEvt 8 (by decide) _).of_onlyRegs hk.regs (by decide)⟩ }
    refine hgone.trans_ends (MirrorsEnd.composes.each _ _ _ fun k s => ?_)
    split
    · exact rel_ite (finishMirror_ends ..) (MirrorsEnd.composes.refl s)
    · exact MirrorsEnd.composes.refl s

/-- The loss of the partner on the twin link: TWIN becomes 101b, with source 174. -/
theorem twinLost_gone {s : State} (ht : s.hpc.twin ≠ 0) (hm : s.sys.mode ≠ .dormant) :
    PartnerGone (onHpc (fun h => { h with twin := 5, partner := {} }) s) (twinLost s) ∧ Latched 174 (twinLost s) := by
  unfold twinLost
  rw [if_neg ht]
  set u : State := onHpc (fun h => { h with twin := 5, partner := {} }) s
  obtain ⟨ho, hmode, hl, hlat, hf⟩ : PartnerGone u (partnerLost u) := partnerLost_gone hm
  obtain ⟨h174, hk⟩ : RaisedFrom 174 _ (raiseSrc 174 (partnerLost u)) := raiseSrc_raised 174 _ (by decide) (by rw [hmode]; exact hm)
  refine ⟨⟨ho.trans (hk.rest.wide _ rfl), by rw [hk.sys]; exact hmode, ?_, fun j h => hk.latched j (hlat j h), fun h => ?_⟩, h174⟩
  · rw [hk.rest.same .dre (by decide)]; exact hl
  · obtain ⟨h1, h2⟩ := hf h
    exact ⟨hk.latched 268 h1, h2.of_onlyRegs hk.regs (by decide)⟩

theorem twinLost_hpc {s : State} (ht : s.hpc.twin ≠ 0) (hm : s.sys.mode ≠ .dormant) :
    (twinLost s).hpc = { s.hpc with twin := 5, partner := {} } := (twinLost_gone ht hm).1.only.same .hpc (by decide)

theorem twinLost_twin {s : State} (ht : s.hpc.twin ≠ 0) (hm : s.sys.mode ≠ .dormant) : (twinLost s).hpc.twin = 5 := by
  rw [twinLost_hpc ht hm]

theorem twinLost_port {s : State} (ht : s.hpc.twin ≠ 0) (hm : s.sys.mode ≠ .dormant) (n : Nat) :
    portAt (twinLost s) n = portAt s n := by rw [portAt, twinLost_hpc ht hm, portAt]

/-! ## Requests that look ahead (R158, R159) -/

/-- A relation that composes, and that asking ahead for a context and sending a request keep. -/
structure AskRel (R : State → State → Prop) : Prop extends Composes R where
  ahead : ∀ k n s, R s (modTag k (fun t => { t with dma := { t.dma with ahead := n } }) s)
  send : ∀ k c page pages s, R s (sendReq k c page pages s)

theorem AskRel.askPieces {R : State → State → Prop} (hR : AskRel R) (k : Nat) (t : Tag) (fuel i : Nat) (l : List Nat) (s : State) :
    R s (askPieces k t fuel i l s) := by
  induction fuel generalizing i l s with
  | zero => exact hR.refl s
  | succ fuel ih =>
    cases l with
    | nil => exact hR.refl s
    | cons p l =>
      rw [Machine.askPieces]
      exact rel_ite (hR.trans (hR.ahead ..) (ih ..)) (rel_ite (hR.refl s) (hR.trans (hR.trans (hR.send ..) (hR.ahead ..)) (ih ..)))

theorem AskRel.lookahead {R : State → State → Prop} (hR : AskRel R) (k : Nat) (s : State) : R s (lookahead k s) := by
  unfold Machine.lookahead
  split
  · exact hR.refl s
  · exact rel_ite (hR.refl s) (hR.askPieces ..)

/-- Requests made ahead of the contexts leave the entries and the requests already sent. -/
structure AsksAhead (s t : State) : Prop where
  only : OnlyChanges [.nvq, .xlt, .out] s t
  atc : t.xlt.atc = s.xlt.atc
  next : s.xlt.nextReq ≤ t.xlt.nextReq
  reqs : ∀ k, k < s.xlt.nextReq → tget t.xlt.reqs k = tget s.xlt.reqs k

theorem onNvq_asks (f : Nvq → Nvq) (s : State) : AsksAhead s (onNvq f s) := ⟨(onNvq_only ..).wide _ rfl, rfl, le_rfl, fun _ _ => rfl⟩

theorem AsksAhead.rel : AskRel AsksAhead where
  refl _ := ⟨.refl _ _, rfl, le_rfl, fun _ _ => rfl⟩
  trans h k := ⟨h.only.trans k.only, k.atc.trans h.atc, h.next.trans k.next,
    fun j hj => (k.reqs j (hj.trans_le h.next)).trans (h.reqs j hj)⟩
  ahead _ _ _ := onNvq_asks ..
  send _ _ _ _ _ := ⟨((onXlt_only ..).wide _ rfl).trans ((emit_only ..).wide _ rfl), rfl, Nat.le_succ _, fun _ hj => tget_tset_ne _ _ hj.ne⟩

theorem askAgain_asks (c : Nat) (s : State) : AsksAhead s (askAgain c s) := by
  refine AsksAhead.rel.each _ _ _ fun k s => ?_
  split
  · exact rel_ite (AsksAhead.rel.trans (onNvq_asks ..) (AsksAhead.rel.lookahead ..)) (AsksAhead.rel.refl s)
  · exact AsksAhead.rel.refl s

end Sys2Proof

namespace Sys2Proof

open Machine

/-! The twin link (R88 to R92) and ATS invalidation (R80, R159). -/

/-! ## The window and the bring-up -/

section

variable {n : Nat} {s : State}

theorem exec_window_write {a : Nat} {bs : List Byte} (hp : prPort s = some n) (hr : receives s n = true) (ha : a + bs.length ≤ 2 ^ 32) :
    exec (.inboundWindowRequest true (2 ^ 32 + a) (.write bs)) s = .next (onHpc (fun h => { h with window := mwrite 0 h.window a bs }) s) := by
  have hin : ¬ 8589934592 < 4294967296 + a + bs.length := by omega
  simp [exec, execInboundWindowRequest, hp, hr, hin]

theorem exec_window_read {a k : Nat} (hp : prPort s = some n) (hr : receives s n = true) (ha : a + k ≤ 2 ^ 32) :
    exec (.inboundWindowRequest true (2 ^ 32 + a) (.read k)) s = .next (emit (.windowReply (some (mread 0 s.hpc.window a k))) s) := by
  have hin : ¬ 8589934592 < 4294967296 + a + k := by omega
  simp [exec, execInboundWindowRequest, hp, hr, hin]

theorem exec_window_outside {addr : Nat} {partner : Bool} (r : WindowReq) (hp : prPort s = some n) (hr : receives s n = true)
    (ha : partner = false ∨ addr < 2 ^ 32) : exec (.inboundWindowRequest partner addr r) s = .next (emit (.windowReply none) s) := by
  simp only [exec, execInboundWindowRequest, hp, hr]
  rw [if_neg (by decide), if_pos]
  rcases ha with rfl | ha
  · rfl
  · simp only [ha, decide_true, Bool.or_true, Bool.true_or]

theorem exec_prPerstRelease (hp : prPort s = some n) (ht : s.hpc.twin = 1) (hrel : s.hpc.released = true) (hh : prHold s n = false)
    (hl : portsLive s = true) : exec .prPerstRelease s = .next (emit (.prPerst false)
      (modPort n (fun p => { p with perst := false, st := 1 }) (onHpc (fun h => { h with twin := 2 }) s))) := by
  simp [exec, execPrPerstRelease, hp, ht, hrel, hh, hl]

theorem exec_twinRetry (hp : prPort s = some n) (ht : s.hpc.twin = 5) (hh : prHold s n = false) (hl : portsLive s = true) :
    exec .twinRetry s = .next (emit (.prPerst true) (modPort n (fun p =>
      { p with up := false, st := 0, width := 0, rate := 0, flit := false, cfgReady := false, perst := true })
      (onHpc (fun h => { h with twin := 1 }) s))) := by
  simp [exec, execTwinRetry, hp, ht, hh, hl]

theorem exec_twinPartnerLost (hp : prPort s = some n) (h0 : s.hpc.twin ≠ 0) (h5 : s.hpc.twin ≠ 5) (hl : portsLive s = true) :
    exec .twinPartnerLost s = .next (twinLost s) := by
  simp [exec, execTwinPartnerLost, hp, h0, h5, hl]

/-- The partner is enumerated, once (Table 4-5 stage 3). -/
def enumerated (s : State) : State := if s.hpc.partner.bus.isSome then s else enumerate s

/-- The bring-up to where the partner is ready or not yet: it is enumerated, and the stream of the authenticated session is on where the
profile requires it (R88). -/
def broughtUp (n : Nat) (s : State) : State :=
  if s.prof.ideTwin then modPort n (fun p => { p with ideKeys := [0], ideInsecure := [] }) (enumerated s) else enumerated s

theorem enumerated_only (s : State) : OnlyChanges [.hpc, .free] s (enumerated s) := by
  refine .cond (fun _ => .refl _ _) fun _ => ?_
  constructor; intro p hp; cases p <;> simp_all [Part.same, enumerate]

theorem broughtUp_only (n : Nat) (s : State) : OnlyChanges [.hpc, .free] s (broughtUp n s) :=
  .cond (fun _ => (enumerated_only s).trans ((modPort_only ..).wide _ rfl)) fun _ => enumerated_only s

theorem broughtUp_port (n : Nat) (s : State) :
    portAt (broughtUp n s) n = if s.prof.ideTwin then { portAt s n with ideKeys := [0], ideInsecure := [] } else portAt s n := by
  have h : portAt (enumerated s) n = portAt s n := by unfold enumerated; split <;> rfl
  unfold broughtUp
  split
  · rw [portAt_modPort_same, h]
  · exact h

theorem broughtUp_partner (n : Nat) (s : State) : (broughtUp n s).hpc.partner.bus.isSome = true ∧
    (s.hpc.partner.bus = none → (broughtUp n s).hpc.partner.bme = true) := by
  have h : (broughtUp n s).hpc.partner = (enumerated s).hpc.partner := by unfold broughtUp; split <;> rfl
  rw [h]
  unfold enumerated
  split
  · rename_i hb
    exact ⟨hb, fun hn => by rw [hn] at hb; cases hb⟩
  · exact ⟨rfl, fun _ => rfl⟩

/-- The link of a partner whose VSEC fails its check goes down, and is not to train (R88). -/
def vsecFailed (n : Nat) (s : State) : State :=
  orReg .hpcPortEvt n (bitW 0) (modPort n (fun p => { p with up := false, st := 7, cfgReady := false }) s)

theorem portAt_vsecFailed (n : Nat) (s : State) :
    portAt (vsecFailed n s) n = { portAt s n with up := false, st := 7, cfgReady := false } := portAt_modPort_same ..

theorem twinConfig_expected (ht : s.hpc.twin = 2 ∨ s.hpc.twin = 3) (hr : receives s n = true) :
    ¬((s.hpc.twin ≠ 2 ∧ s.hpc.twin ≠ 3) ∨ (!receives s n) = true) := by
  rintro (⟨h2, h3⟩ | h)
  · exact ht.elim h2 h3
  · rw [hr] at h; cases h

section

variable (hp : prPort s = some n) (ht : s.hpc.twin = 2 ∨ s.hpc.twin = 3) (hr : receives s n = true)
include hp ht hr

theorem exec_twinConfigStart_ready : exec (.twinConfigStart (regValue s .sysChipId 0) true true true) s = .next
    (onDre (fun d => { d with lost := false }) (onHpc (fun h =>
      { h with twin := 4, partner := { h.partner with adminQ := true, mirrorQs := Config.mirrorQueues } }) (broughtUp n s))) := by
  simp only [exec, execTwinConfigStart, hp]
  rw [if_neg (twinConfig_expected ht hr)]
  simp [vsecOk, broughtUp, enumerated]

theorem exec_twinConfigStart_waits : exec (.twinConfigStart (regValue s .sysChipId 0) true true false) s =
    .next (onHpc (fun h => { h with twin := 3 }) (broughtUp n s)) := by
  simp only [exec, execTwinConfigStart, hp]
  rw [if_neg (twinConfig_expected ht hr)]
  simp [vsecOk, broughtUp, enumerated]

theorem exec_twinConfigStart_unauthenticated (rdy : Bool) : exec (.twinConfigStart (regValue s .sysChipId 0) true false rdy) s =
    .next (twinLost (raiseSrc 306 (evt .secEvt 1 s))) := by
  simp only [exec, execTwinConfigStart, hp]
  rw [if_neg (twinConfig_expected ht hr)]
  simp [vsecOk]

theorem exec_twinConfigStart_vsec {w : Word} {pf : Bool} (hw : w ≠ regValue s .sysChipId 0 ∨ pf = false) (auth rdy : Bool) :
    exec (.twinConfigStart w pf auth rdy) s = .next (twinLost (vsecFailed n s)) := by
  have hv : vsecOk s w pf = false := by
    rcases hw with hw | hw <;> simp [vsecOk, hw]
  simp only [exec, execTwinConfigStart, hp]
  rw [if_neg (twinConfig_expected ht hr), hv]
  rfl

end

end

/-! ## Invalidation -/

/-- The entries and the requests that an Invalidate Request names (R80, R159). -/
def invalidated (c page pages : Nat) (s : State) : State :=
  onXlt (fun x => { x with reqs := tmap x.reqs fun _ r =>
    if r.ctrl == c && !r.wait && spansMeet (r.page, r.pages) (page, pages) then { r with stale := true } else r }) (atcDropSpan c page pages s)

theorem exec_atsInvalidateRequest {n : Nat} {s : State} (hr : receives s n = true) (hp : isPr s n = false) (rid page pages : Nat) :
    exec (.atsInvalidateRequest n rid page pages) s = .next (wake (emit (.invalDone (ctrlAtRid s n rid) page pages)
      (askAgain (ctrlAtRid s n rid) (invalidated (ctrlAtRid s n rid) page pages s)))) := by
  simp [exec, execAtsInvalidateRequest, hr, hp, invalidated]

theorem invalidated_req {c page pages k : Nat} {r : XReq} {s : State} (hk : tget s.xlt.reqs k = some r) (hc : r.ctrl = c)
    (hw : r.wait = false) (hm : spansMeet (r.page, r.pages) (page, pages) = true) :
    tget (invalidated c page pages s).xlt.reqs k = some { r with stale := true } := by
  simp [invalidated, atcDropSpan, onXlt, tget_tmap, hk, hc, hw, hm]

/-- Settles O37: the window by the laws of byte memories, the stages by their commands' equations, the loss of the partner by what it keeps, and
an invalidation by what requests that look ahead keep. -/
theorem twinLink : Obligations.TwinLink := by
  unfold Obligations.TwinLink
  refine ⟨?_, ?_, ?_, ?_, ?_, ?_, ?_, ?_, ?_⟩
  · intro n a bs s hp hr ha
    exact ⟨_, exec_window_write hp hr ha, mread_mwrite_same .., fun x hx => mget_mwrite_out _ _ _ _ _ hx, onHpc_only ..⟩
  · intro n a k s hp hr ha
    exact exec_window_read hp hr ha
  · intro n addr partner r s hp hr ha
    exact exec_window_outside r hp hr ha
  · intro n s hp ht hrel hh hl
    exact ⟨_, exec_prPerstRelease hp ht hrel hh hl, rfl, portAt_modPort_same .., rfl,
      ((onHpc_only ..).wide _ rfl).trans (((modPort_only ..).wide _ rfl).trans ((emit_only ..).wide _ rfl))⟩
  · intro n s hp ht hr
    have hne : s.hpc.twin ≠ 0 := by omega
    have hm : s.sys.mode ≠ .dormant := portsLive_mode (receives_iff.1 hr).2.2
    obtain ⟨hbus, hbme⟩ := broughtUp_partner n s
    refine ⟨?_, ?_, fun rdy => ?_, fun w pf auth rdy hw => ?_⟩
    · exact ⟨_, exec_twinConfigStart_ready hp ht hr, rfl,
        congrArg (fun d : Dre => { d with lost := false }) ((broughtUp_only n s).same .dre (by decide)), broughtUp_port n s, hbus, rfl, rfl,
        ((broughtUp_only n s).wide _ rfl).trans (((onHpc_only ..).wide _ rfl).trans ((onDre_only ..).wide _ rfl))⟩
    · exact ⟨_, exec_twinConfigStart_waits hp ht hr, rfl, broughtUp_port n s, hbus, hbme,
        (broughtUp_only n s).trans ((onHpc_only ..).wide _ rfl)⟩
    · obtain ⟨h306, hk⟩ : RaisedFrom 306 _ (raiseSrc 306 (evt .secEvt 1 s)) := raiseSrc_raised 306 _ (by decide) hm
      have hne' : (raiseSrc 306 (evt .secEvt 1 s)).hpc.twin ≠ 0 := by rw [hk.rest.same .hpc (by decide)]; exact hne
      have hm' : (raiseSrc 306 (evt .secEvt 1 s)).sys.mode ≠ .dormant := by rw [hk.sys]; exact hm
      obtain ⟨hg, h174⟩ := twinLost_gone hne' hm'
      exact ⟨_, exec_twinConfigStart_unauthenticated hp ht hr rdy, twinLost_twin hne' hm', hg.latched 306 h306, h174, hg.lost⟩
    · have hne' : (vsecFailed n s).hpc.twin ≠ 0 := hne
      have hm' : (vsecFailed n s).sys.mode ≠ .dormant := hm
      have hport := (twinLost_port hne' hm' n).trans (portAt_vsecFailed n s)
      exact ⟨_, exec_twinConfigStart_vsec hp ht hr hw auth rdy, twinLost_twin hne' hm', by rw [hport], by rw [hport],
        (twinLost_gone hne' hm').2⟩
  · intro n s hp h0 h5 hl
    obtain ⟨hg, h174⟩ := twinLost_gone h0 (portsLive_mode hl)
    exact ⟨_, exec_twinPartnerLost hp h0 h5 hl, twinLost_twin h0 (portsLive_mode hl), h174, hg.lost, hg.first⟩
  · intro n s hp ht hh hl
    let down (p : Port) : Port := { p with up := false, st := 0, width := 0, rate := 0, flit := false, cfgReady := false, perst := true }
    have hport := portAt_modPort_same n down (onHpc (fun h => { h with twin := 1 }) s)
    exact ⟨_, exec_twinRetry hp ht hh hl, rfl, congrArg Port.up hport, congrArg Port.perst hport, rfl,
      ((onHpc_only ..).wide _ rfl).trans (((modPort_only ..).wide _ rfl).trans ((emit_only ..).wide _ rfl))⟩
  · intro s hp
    simp [exec, execPrPerstRelease, execTwinRetry, execTwinPartnerLost, hp]
  · intro n rid page pages s hr hp
    extract_lets c
    have hw := wake_only (emit (.invalDone c page pages) (askAgain c (invalidated c page pages s)))
    have hask := askAgain_asks c (invalidated c page pages s)
    have hxlt := hw.same .xlt (by decide)
    refine ⟨_, exec_atsInvalidateRequest hr hp rid page pages, ?_, ?_, fun k r hk hlt hc hwait hmeet => ?_, ?_⟩
    · rw [hw.same .out (by decide)]; rfl
    · rw [hxlt]; exact hask.atc
    · rw [hxlt]
      exact (hask.reqs k hlt).trans (invalidated_req hk hc hwait hmeet)
    · have hinv : OnlyChanges [.xlt] s (invalidated c page pages s) := (onXlt_only ..).trans (onXlt_only ..)
      exact (hinv.wide _ rfl).trans ((hask.only.wide _ rfl).trans (((emit_only ..).wide _ rfl).trans (hw.wide _ rfl)))

end Sys2Proof

namespace Sys2Proof

open Machine

/-! What events, and the placing and closing of data, leave of any relation between states (R126, R193, R366). Their case analyses are made once,
for every relation that the single changes keep. -/

/-! ## Asynchronous events -/

/-- A relation that composes, that holds across every change outside NVQ, and that the single changes of an asynchronous event keep: a completion
prepared, an event sent to a controller that is enabled, an entry of its error log. -/
structure EventRel (R : State → State → Prop) : Prop extends Composes R where
  outside : ∀ {s t}, t.nvq = s.nvq → R s t
  post : ∀ k sc d a b m s, R s (setPost k sc d a b m s)
  event : ∀ {c x s} (as : List Nat) (es : List Aen), tget s.nvq.ctrls c = some x → x.en = true →
    R s (setCtrl c { x with aers := as, events := es } s)
  errLog : ∀ c e s, R s (logErr c e s)

namespace EventRel

variable {R : State → State → Prop} (hR : EventRel R)
include hR

theorem onlyIf {s t : State} {c : Prop} [Decidable c] (h : R s t) : R s (if c then t else s) := rel_ite h (hR.refl s)

theorem sendAen (c : Nat) (a : Aen) (s : State) : R s (sendAen c a s) := by
  unfold Machine.sendAen
  split
  · exact hR.refl s
  · rename_i x hx
    split
    · exact hR.refl s
    · rename_i hon
      have hen : x.en = true := by simp at hon; exact hon.1.1
      split
      · exact hR.event x.aers _ hx hen
      · exact hR.trans (hR.event _ x.events hx hen) (hR.post ..)

theorem sendAll (a : Aen) (s : State) : R s (sendAll a s) := hR.each _ _ _ fun _ _ => hR.onlyIf (hR.sendAen ..)

theorem ctrlCapture (s : State) : R s (ctrlCapture s) := by
  have h : ∀ u, u.nvq = s.nvq → R s (Machine.sendAll .telemetryNotice u) := fun u hu => hR.trans (hR.outside hu) (hR.sendAll ..)
  exact rel_ite (hR.refl s) (h _ rfl)

theorem reportSrc (i r q : Nat) (s : State) : R s (reportSrc i r q s) :=
  rel_ite (hR.trans (hR.each _ _ _ fun _ _ => hR.onlyIf (hR.errLog ..)) (hR.sendAll ..)) (rel_ite (hR.sendAll ..) (hR.onlyIf (hR.sendAll ..)))

theorem interrupt (i r q : Nat) (s : State) : R s (interrupt i r q s) := by
  have hw : R s (wake { s with flt := { s.flt with ints := s.flt.ints ++ [i] } }) := hR.outside ((wake_only _).same .nvq (by decide))
  exact rel_ite (hR.trans hw (hR.outside rfl)) (hR.trans hw (hR.reportSrc ..))

theorem react (i r q : Nat) (s : State) : R s (react i r q s) := by
  unfold Machine.react
  extract_lets pin s1 isl chp blk s2 _ s3
  have h1 : R s s1 := hR.onlyIf (hR.trans (hR.outside ((pinAssert_only s).same .nvq (by decide))) (hR.ctrlCapture _))
  have h2 : R s s2 := hR.trans h1 (hR.onlyIf (hR.interrupt ..))
  have h3 : R s s3 := hR.trans h2 (hR.onlyIf (hR.outside rfl))
  clear_value s3 blk isl
  refine rel_ite h1 (rel_ite (hR.trans h1 (hR.outside ((askReset_only ..).same .nvq (by decide)))) ?_)
  split
  · exact hR.trans h3 (hR.outside ((holdIsland_only ..).same .nvq (by decide)))
  · exact h3

theorem latchSrc (i : Nat) (p n : Bool) (s : State) : R s (latchSrc i p n s) := by
  refine hR.trans ?_ (hR.react ..)
  exact hR.outside rfl

theorem takeRails (i : Nat) (p n : Bool) (s : State) : R s (takeRails i p n s) := by
  unfold Machine.takeRails
  extract_lets x wasWire _ s1 s2
  have h : R s s2 := hR.outside (by unfold s2; split <;> rfl)
  exact rel_ite (hR.refl s) (rel_ite (hR.trans h (hR.latchSrc ..)) h)

theorem raiseSrc (i : Nat) (s : State) : R s (raiseSrc i s) := hR.trans (hR.takeRails ..) (hR.takeRails ..)

end EventRel

/-! ## Placing, closing and queueing -/

/-- The parts that placing, closing and queueing data reach, but for the fault sources they raise. -/
def placeParts : List Part := [.fte, .dre, .fch, .sre, .qos, .cst, .pwr, .regs]

/-- A relation that composes, that holds across every change of those parts, and that a fault source keeps. -/
structure WorkRel (R : State → State → Prop) : Prop extends Composes R where
  place : ∀ {s t}, OnlyChanges placeParts s t → R s t
  raise : ∀ i s, R s (raiseSrc i s)

namespace WorkRel

variable {R : State → State → Prop} (hR : WorkRel R)
include hR

theorem upto (n : Nat) (f : Nat → State → State) (s : State) (h : ∀ x s, R s (f x s)) : R s (forN n f s) := hR.each _ _ _ h

theorem onFte (f : Fte → Fte) (s : State) : R s (onFte f s) := hR.place ((onFte_only ..).wide _ rfl)
theorem onFch (f : Fch → Fch) (s : State) : R s (onFch f s) := hR.place (by constructor; intro p hp; cases p <;> simp_all [Part.same, placeParts])
theorem onSre (f : Sre → Sre) (s : State) : R s (onSre f s) := hR.place ((onSre_only ..).wide _ rfl)
theorem onDre (f : Dre → Dre) (s : State) : R s (onDre f s) := hR.place ((onDre_only ..).wide _ rfl)
theorem onCst (f : Cst → Cst) (s : State) : R s (onCst f s) := hR.place ((onCst_only ..).wide _ rfl)
theorem onPwr (f : Pwr → Pwr) (s : State) : R s (onPwr f s) := hR.place ((onPwr_only ..).wide _ rfl)
theorem blkMod (die b : Nat) (f : Blk → Blk) (s : State) : R s (blkMod die b f s) :=
  hR.onFte (fun x => { x with blks := tset x.blks (blkKey die b) (f (blkAt s die b)) }) s
theorem evt (r : RegId) (b : Nat) (s : State) : R s (evt r b s) := hR.place ((evt_only ..).wide _ rfl)

theorem raiseEvt (i : Nat) (r : RegId) (b : Nat) (s : State) : R s (raiseSrc i (Machine.evt r b s)) := hR.trans (hR.evt ..) (hR.raise ..)

theorem enterQueue (die : Nat) (o : Dop) (s : State) : R s (enterQueue die o s) := by
  unfold Machine.enterQueue
  extract_lets ts s1
  refine hR.trans ?_ (hR.onFch ..)
  unfold s1
  split
  · exact rel_ite (hR.refl s) (hR.place ((qosServe_only ..).wide _ rfl))
  · exact hR.refl s

theorem drainN (n die : Nat) (s : State) : R s (drainN n die s) := by
  induction n generalizing s with
  | zero => exact hR.refl s
  | succ n ih =>
    unfold Machine.drainN
    split
    · exact hR.refl s
    · exact hR.trans (hR.enterQueue ..) (ih _)

theorem queueOp (die : Nat) (o : Dop) (s : State) : R s (queueOp die o s) :=
  rel_ite (hR.refl s) (hR.trans (hR.trans (hR.onFch ..) (hR.onFch ..)) (hR.drainN ..))

theorem blkDelta (die b : Nat) (s : State) : R s (blkDelta die b s) := by
  unfold Machine.blkDelta appendDelta
  refine rel_ite (hR.trans (hR.onCst ..) (hR.raiseEvt ..)) ?_
  rw [writeDelta, if_neg (by simp)]
  exact hR.onCst ..

theorem gcLevels (s : State) : R s (gcLevels s) :=
  hR.upto _ _ _ fun d s => by
    extract_lets urg want act fresh s1
    have h1 : R s s1 := hR.onFte ..
    exact rel_ite (hR.trans h1 (hR.raiseEvt ..)) h1

theorem openStripe (d stream : Nat) (s : State) : R s (openStripe d stream s) := by
  unfold Machine.openStripe
  refine rel_ite (hR.refl s) ?_
  split
  · exact hR.refl s
  · extract_lets held s1 t s2 s3
    have h1 : R s s1 := hR.upto _ _ _ fun j s => by
      split
      · exact hR.trans (hR.blkMod ..) (hR.blkDelta ..)
      · exact hR.refl s
    have h2 : R s s2 := hR.trans h1 (hR.trans (hR.onDre ..) (hR.onDre ..))
    have h3 : R s s3 := rel_ite (hR.trans h2 (hR.onFte ..)) h2
    exact hR.trans (rel_ite (hR.trans h3 (hR.raiseEvt ..)) h3) (hR.gcLevels _)

theorem queueSteps (t : Stripe) (m lo hi : Nat) (s : State) : R s (queueSteps t m lo hi s) := by
  unfold Machine.queueSteps
  split
  · exact hR.each _ _ _ fun _ _ => hR.queueOp ..
  · exact hR.refl s

theorem gavePos (d n : Nat) (s : State) : R s (gavePos d n s) := by
  unfold Machine.gavePos
  split
  · exact hR.refl s
  · extract_lets per fill parity
    split
    extract_lets accs0 accs s1 s2
    have h1 : R s s1 := hR.onDre ..
    have h2 : R s s2 := rel_ite (hR.trans h1 (hR.queueSteps ..)) h1
    exact rel_ite (hR.trans h2 (hR.queueSteps ..)) h2

theorem giveCw (d n : Nat) (c : Prog) (s : State) : R s (giveCw d n c s) := by
  unfold Machine.giveCw
  split
  · exact hR.refl s
  · split
    split
    · exact hR.refl s
    · exact hR.trans (hR.onFte ..) (hR.gavePos ..)

theorem giveIu (d n u : Nat) (c : Prog) (s : State) : R s (giveIu d n u c s) := by
  unfold Machine.giveIu
  split
  · exact hR.refl s
  · exact hR.trans (hR.upto _ _ _ fun _ _ => hR.gavePos ..) (hR.upto _ _ _ fun _ _ => hR.giveCw ..)

theorem placeProg (d stream : Nat) (c : Prog) (s : State) : R s (Machine.place d stream c s) := by
  unfold Machine.place
  extract_lets u s1
  have h1 : R s s1 := hR.openStripe ..
  split
  · exact hR.giveIu ..
  · split
    · exact hR.trans h1 (hR.giveIu ..)
    · exact hR.trans h1 (hR.onFte ..)

theorem placeWaiting (s : State) : R s (placeWaiting s) :=
  hR.trans (t := Machine.onFte (fun f => { f with wait := [] }) s) (hR.onFte ..) (hR.each _ _ _ fun _ _ => hR.placeProg ..)

theorem closeBlks (t : Stripe) (s : State) : R s (closeBlks t s) :=
  hR.each _ _ _ fun _ s => rel_ite (hR.trans (hR.blkMod ..) (hR.blkDelta ..)) (hR.refl s)

theorem finishStripe (d n : Nat) (s : State) : R s (finishStripe d n s) := by
  unfold Machine.finishStripe
  split
  · exact hR.refl s
  · exact rel_ite (hR.trans (hR.onDre ..) (hR.closeBlks ..)) (hR.refl s)

theorem flushMember (t : Stripe) (m : Nat) (s : State) : R s (flushMember t m s) := by
  unfold Machine.flushMember
  split
  · exact hR.refl s
  · exact hR.queueSteps ..

theorem closePartial (d n : Nat) (s : State) : R s (closePartial d n s) := by
  unfold Machine.closePartial
  split
  · exact hR.refl s
  · rename_i t _
    refine rel_ite (hR.refl s) ?_
    have h : R s (Machine.flushMember t t.ppos (forEach (dataMembers t) (Machine.flushMember t) s)) :=
      hR.trans (hR.each _ _ _ fun _ _ => hR.flushMember ..) (hR.flushMember ..)
    exact hR.trans h (hR.trans (hR.onDre ..) (hR.trans (hR.closeBlks ..) (hR.trans (hR.evt ..) (hR.finishStripe ..))))

end WorkRel

end Sys2Proof

namespace Sys2Proof

open Machine

/-! The reset of controllers and functions (R93, R125, Table 4-6). -/

/-! ## Tables -/

theorem tget_tfilter_key {α : Type} (t : Tbl α) (p : Nat → Bool) (k : Nat) :
    tget (tfilter t fun i _ => p i) k = if p k then tget t k else none := by
  induction t with
  | nil => simp [tfilter]
  | cons e t ih =>
    obtain ⟨j, v⟩ := e
    simp only [tfilter] at ih ⊢
    by_cases hj : j = k
    · subst hj
      by_cases hp : p j = true
      · simp [tget, hp]
      · simpa [hp] using ih
    · by_cases hp : p j = true
      · simp [tget, hj, hp, ih]
      · simp [tget, hj, hp, ih]

/-! ## Commands, queues and controllers -/

/-- A controller is as a reset leaves it. -/
structure CtrlOff (x : Ctrl) : Prop where
  en : x.en = false
  rdy : x.rdy = false
  shn : x.shn = false
  feats : x.feats = []
  aers : x.aers = []

/-- The controllers `cs` are reset: their queues and commands are gone, and no other queue. Controllers that were reset before stay so, and no
command is new. With no controllers in the list: what changes elsewhere leave of NVQ. -/
structure CmdsReset (cs : List Nat) (s t : State) : Prop where
  queues : ∀ k, k / 65536 ∈ cs → tget t.nvq.sqs k = none ∧ tget t.nvq.cqs k = none
  others : ∀ k, k / 65536 ∉ cs → SqKept k s t ∧ tget t.nvq.cqs k = tget s.nvq.cqs k
  tags : ∀ k x, tget t.nvq.tags k = some x → x.ctrl ∉ cs ∧ ∃ y, tget s.nvq.tags k = some y ∧ y.ctrl = x.ctrl
  ctrls : ∀ c ∈ cs, CtrlOff (ctrlAt t c)
  off : ∀ c, CtrlOff (ctrlAt s c) → CtrlOff (ctrlAt t c)

theorem SqKept.trans {k : Nat} {s t u : State} (h : SqKept k s t) (g : SqKept k t u) : SqKept k s u := Eq.trans g h

theorem SqKept.none {k : Nat} {s t : State} (h : SqKept k s t) (hs : tget s.nvq.sqs k = none) : tget t.nvq.sqs k = none := by
  rw [SqKept, hs] at h
  exact Option.map_eq_none_iff.1 h

theorem CmdsReset.trans {as bs : List Nat} {s t u : State} (h : CmdsReset as s t) (g : CmdsReset bs t u) : CmdsReset (as ++ bs) s u := by
  constructor
  · intro k hk
    by_cases hb : k / 65536 ∈ bs
    · exact g.queues k hb
    · obtain ⟨hq, hc⟩ := h.queues k ((List.mem_append.1 hk).resolve_right hb)
      obtain ⟨gq, gc⟩ := g.others k hb
      exact ⟨gq.none hq, gc.trans hc⟩
  · intro k hk
    obtain ⟨ha, hb⟩ := not_or.1 (mt List.mem_append.2 hk)
    obtain ⟨hq, hc⟩ := h.others k ha
    obtain ⟨gq, gc⟩ := g.others k hb
    exact ⟨hq.trans gq, gc.trans hc⟩
  · intro k x hx
    obtain ⟨hxb, y, hy, hyx⟩ := g.tags k x hx
    obtain ⟨hya, z, hz, hzy⟩ := h.tags k y hy
    rw [hyx] at hya
    exact ⟨fun hm => (List.mem_append.1 hm).elim hya hxb, z, hz, hzy.trans hyx⟩
  · intro c hc
    by_cases hb : c ∈ bs
    · exact g.ctrls c hb
    · exact g.off c (h.ctrls c ((List.mem_append.1 hc).resolve_right hb))
  · exact fun c hc => g.off c (h.off c hc)

theorem CmdsReset.trans_nil {cs : List Nat} {s t u : State} (h : CmdsReset cs s t) (g : CmdsReset [] t u) : CmdsReset cs s u := by
  simpa using h.trans g

/-- A change that leaves queues and controllers, and makes no command new, resets nothing. -/
theorem CmdsReset.of_kept {s t : State} (hs : ∀ k, SqKept k s t) (hc : t.nvq.cqs = s.nvq.cqs)
    (ht : ∀ k x, tget t.nvq.tags k = some x → ∃ y, tget s.nvq.tags k = some y ∧ y.ctrl = x.ctrl)
    (ho : ∀ c, CtrlOff (ctrlAt s c) → CtrlOff (ctrlAt t c)) : CmdsReset [] s t :=
  ⟨nofun, fun k _ => ⟨hs k, by rw [hc]⟩, fun k x hx => ⟨List.not_mem_nil, ht k x hx⟩, nofun, ho⟩

theorem ctrlAt_of_ctrls {s t : State} (h : t.nvq.ctrls = s.nvq.ctrls) (c : Nat) : ctrlAt t c = ctrlAt s c := by
  rw [ctrlAt, h, ctrlAt]

theorem CmdsReset.of_tags {s t : State} (hs : t.nvq.sqs = s.nvq.sqs) (hc : t.nvq.cqs = s.nvq.cqs) (hx : t.nvq.ctrls = s.nvq.ctrls)
    (ht : ∀ k x, tget t.nvq.tags k = some x → ∃ y, tget s.nvq.tags k = some y ∧ y.ctrl = x.ctrl) : CmdsReset [] s t :=
  .of_kept (fun k => by rw [SqKept, hs]) hc ht fun c ho => by rwa [ctrlAt_of_ctrls hx]

theorem CmdsReset.of_nvq {s t : State} (h : t.nvq = s.nvq) : CmdsReset [] s t :=
  .of_tags (by rw [h]) (by rw [h]) (by rw [h]) fun k x hx => ⟨x, by rw [← h, hx], rfl⟩

/-- A tag whose entry changes keeps its controller. -/
theorem CmdsReset.of_tag {k : Nat} {s t : State} {x y : Tag} (hx : tget s.nvq.tags k = some x) (hy : y.ctrl = x.ctrl)
    (ht : t.nvq.tags = tset s.nvq.tags k y) (hs : t.nvq.sqs = s.nvq.sqs) (hc : t.nvq.cqs = s.nvq.cqs) (hz : t.nvq.ctrls = s.nvq.ctrls) :
    CmdsReset [] s t := by
  refine .of_tags hs hc hz fun j z hj => ?_
  rw [ht, tget_tset] at hj
  split at hj
  · rename_i hjk
    cases hj
    exact ⟨x, by rw [hjk, hx], hy.symm⟩
  · exact ⟨z, hj, rfl⟩

theorem setTag_reset {k : Nat} {s : State} {x y : Tag} (hx : tget s.nvq.tags k = some x) (hy : y.ctrl = x.ctrl) :
    CmdsReset [] s (setTag k y s) := .of_tag hx hy rfl rfl rfl rfl

theorem modTag_reset {f : Tag → Tag} (hf : ∀ t, (f t).ctrl = t.ctrl) (k : Nat) (s : State) : CmdsReset [] s (modTag k f s) := by
  cases hk : tget s.nvq.tags k with
  | none => exact .of_nvq (by simp [modTag, onNvq, tmod, hk])
  | some x => exact .of_tag hk (hf x) (by simp [modTag, onNvq, tmod, hk]) rfl rfl rfl

theorem setPost_reset (k : Nat) (sc : Sc) (d : Bool) (a b : Nat) (m : Tag → Nat) (s : State) : CmdsReset [] s (setPost k sc d a b m s) := by
  unfold setPost
  split
  · exact .of_nvq rfl
  · rename_i x hx
    split
    · exact .of_nvq rfl
    · refine .of_tag hx ?_ rfl rfl rfl rfl
      rfl

theorem CtrlOff.setCtrl {c d : Nat} {y : Ctrl} {s : State} (hy : CtrlOff (ctrlAt s c) → CtrlOff y) (ho : CtrlOff (ctrlAt s d)) :
    CtrlOff (ctrlAt (setCtrl c y s) d) := by
  rw [ctrlAt_setCtrl]
  split
  · rename_i hd; exact hy (hd ▸ ho)
  · exact ho

theorem setCtrl_reset {c : Nat} {y : Ctrl} {s : State} (hy : CtrlOff (ctrlAt s c) → CtrlOff y) : CmdsReset [] s (setCtrl c y s) :=
  .of_kept (fun _ => rfl) rfl (fun _ x hx => ⟨x, hx, rfl⟩) fun _ ho => ho.setCtrl hy

theorem logErr_reset (c : Nat) (e : ErrEntry) (s : State) : CmdsReset [] s (logErr c e s) := by
  unfold logErr modCtrl tmod
  split
  · rename_i x hx
    refine setCtrl_reset fun ho => ?_
    rw [← ctrlAt_of_tget hx]
    exact ⟨ho.en, ho.rdy, ho.shn, ho.feats, ho.aers⟩
  · exact .of_nvq rfl

/-- Asynchronous events make no command, and send nothing to a controller that is disabled. -/
theorem CmdsReset.events : EventRel (CmdsReset []) where
  refl _ := .of_nvq rfl
  trans h g := h.trans_nil g
  outside := .of_nvq
  post := setPost_reset
  event _ _ hx hen := setCtrl_reset fun ho => absurd (ctrlAt_of_tget hx ▸ ho.en) (by simp [hen])
  errLog := logErr_reset

/-! ## The parts a reset reaches -/

/-- The parts that the reset of controllers can change: all but HPC's, those of the profile and those of the units that no command reaches. -/
def resetParts : List Part := [.cam, .upd, .out] ++ backgroundParts

/-- The controllers `cs` are reset, and nothing changes but what their reset reaches: the mode and the translations stay. -/
structure CtrlsGone (cs : List Nat) (s t : State) : Prop where
  cmds : CmdsReset cs s t
  parts : OnlyChanges resetParts s t
  mode : t.sys.mode = s.sys.mode
  atc : t.xlt.atc = s.xlt.atc

theorem CtrlsGone.trans {as bs : List Nat} {s t u : State} (h : CtrlsGone as s t) (g : CtrlsGone bs t u) : CtrlsGone (as ++ bs) s u :=
  ⟨h.cmds.trans g.cmds, h.parts.trans g.parts, g.mode.trans h.mode, g.atc.trans h.atc⟩

theorem CtrlsGone.trans_nil {cs : List Nat} {s t u : State} (h : CtrlsGone cs s t) (g : CtrlsGone [] t u) : CtrlsGone cs s u := by
  simpa using h.trans g

theorem CtrlsGone.nil_trans {cs : List Nat} {s t u : State} (h : CtrlsGone [] s t) (g : CtrlsGone cs t u) : CtrlsGone cs s u := h.trans g

/-- The parts that hold no command, no translation and no mode. -/
def plainParts : List Part := [.cam, .upd, .out, .fte, .dre, .fch, .sre, .qos, .cst, .pwr, .regs, .flt, .free]

theorem CtrlsGone.of_only {s t : State} (h : OnlyChanges plainParts s t) : CtrlsGone [] s t :=
  ⟨.of_nvq (h.same .nvq (by decide)), h.wide _ rfl, by rw [h.same .sys (by decide)], by rw [h.same .xlt (by decide)]⟩

theorem CtrlsGone.of_nvq {s t : State} (h : OnlyChanges [.nvq] s t) (hc : CmdsReset [] s t) : CtrlsGone [] s t :=
  ⟨hc, h.wide _ rfl, by rw [h.same .sys (by decide)], by rw [h.same .xlt (by decide)]⟩

theorem raiseSrc_gone (i : Nat) (s : State) : CtrlsGone [] s (raiseSrc i s) :=
  have h := raiseSrc_keeps i s
  ⟨CmdsReset.events.raiseSrc i s, h.rest.wide _ rfl, by rw [h.sys], by rw [h.rest.same .xlt (by decide)]⟩

theorem CtrlsGone.composes : Composes (CtrlsGone []) := ⟨fun _ => .of_only (.refl _ _), fun h g => h.trans_nil g⟩

theorem CtrlsGone.work : WorkRel (CtrlsGone []) where
  toComposes := CtrlsGone.composes
  place h := .of_only (h.wide _ rfl)
  raise := raiseSrc_gone

theorem CtrlsGone.asks : AskRel (CtrlsGone []) where
  toComposes := CtrlsGone.composes
  ahead k n s := by
    refine .of_nvq (modTag_only ..) (modTag_reset ?_ k s)
    exact fun _ => rfl
  send k c page pages s := ⟨.of_nvq rfl, ((onXlt_only ..).wide _ rfl).trans ((emit_only ..).wide _ rfl), rfl, rfl⟩

/-! ## The end of a command -/

theorem closeAll_gone (s : State) : CtrlsGone [] s (closeAll s) := by
  have hR := CtrlsGone.work
  unfold closeAll
  extract_lets s1 s2
  have h1 : CtrlsGone [] s s1 := hR.placeWaiting s
  have h2 : CtrlsGone [] s1 s2 := hR.each _ _ _ fun _ _ => hR.closePartial ..
  refine (h1.trans_nil h2).trans_nil (.of_nvq (onNvq_only ..) ?_)
  exact .of_tags rfl rfl rfl fun _ x hx => ⟨x, hx, rfl⟩

theorem closeDue_gone (s : State) : CtrlsGone [] s (closeDue s) := rel_ite (closeAll_gone s) (CtrlsGone.composes.refl s)

theorem returnResv_gone (k : Nat) (s : State) : CtrlsGone [] s (returnResv k s) := by
  unfold returnResv
  split
  · exact CtrlsGone.composes.refl s
  · rename_i t ht
    extract_lets s1
    have h1 : CtrlsGone [] s s1 := .of_nvq (setTag_only ..) (setTag_reset ht rfl)
    split
    · exact h1
    · exact h1.trans_nil (.of_only ((modTnt_only ..).wide _ rfl))

theorem dropReads_gone (k : Nat) (s : State) : CtrlsGone [] s (dropReads k s) := by
  have hR := CtrlsGone.work
  unfold dropReads
  extract_lets mine early s1 go s2 s3 l s4
  have h1 : CtrlsGone [] s s1 := hR.each _ _ _ fun d s => hR.each _ _ _ fun o s =>
    rel_ite (hR.trans (hR.onPwr ..) (rel_ite (hR.blkMod ..) (hR.refl _))) (hR.refl s)
  have h2 : CtrlsGone [] s s2 := hR.trans h1 (hR.onFch ..)
  have h3 : CtrlsGone [] s s3 := hR.trans h2 (hR.each _ _ _ fun d s => hR.drainN ..)
  exact hR.trans h3 (hR.trans (hR.onSre ..) (hR.each _ _ _ fun l s => hR.onSre ..))

theorem eraseTag_gone (k : Nat) (s : State) : CtrlsGone [] s (eraseTag k s) ∧ tget (eraseTag k s).nvq.tags k = none := by
  have htags : ∀ j x, tget (eraseTag k s).nvq.tags j = some x → j ≠ k ∧ ∃ y, tget s.nvq.tags j = some y ∧ y.ctrl = x.ctrl := by
    intro j x hj
    simp only [eraseTag, onUpd, onNvq, tget_tmap] at hj
    obtain ⟨y, hy, rfl⟩ := Option.map_eq_some_iff.1 hj
    by_cases hjk : j = k
    · rw [hjk, tget_terase_same] at hy; cases hy
    · rw [tget_terase_ne _ hjk] at hy
      exact ⟨hjk, y, hy, by split <;> rfl⟩
  refine ⟨⟨.of_kept (fun j => ?_) rfl (fun j x hj => (htags j x hj).2) fun _ ho => ho, ?_, rfl, rfl⟩, ?_⟩
  · simp only [SqKept, eraseTag, onUpd, onNvq, tget_tmap, Option.map_map]
    congr 1
    funext q
    simp only [Function.comp]
    split <;> rfl
  · unfold eraseTag
    exact .trans ((onNvq_only ..).wide _ rfl) ((onUpd_only ..).wide _ rfl)
  · cases hk : tget (eraseTag k s).nvq.tags k with
    | none => rfl
    | some x => exact absurd rfl (htags k x hk).1

theorem sendFaults_gone (l n : Nat) (s : State) : CtrlsGone [] s (sendFaults l n s) := by
  induction n generalizing s with
  | zero => exact CtrlsGone.composes.refl s
  | succ n ih =>
    unfold sendFaults
    split
    · exact CtrlsGone.composes.refl s
    · split
      · exact CtrlsGone.composes.refl s
      · split
        · exact CtrlsGone.composes.refl s
        · exact (CtrlsGone.asks.send ..).trans_nil (ih _)

theorem nextXlat_gone (l : Nat) (s : State) : CtrlsGone [] s (nextXlat l s) := by
  have hR := CtrlsGone.asks
  refine hR.trans (sendFaults_gone ..) (hR.each _ _ _ fun k s => ?_)
  split
  · exact rel_ite (hR.lookahead ..) (hR.refl s)
  · exact hR.refl s

theorem dropReqs_gone (p : XReq → Bool) (s : State) : CtrlsGone [] s (dropReqs p s) :=
  ⟨.of_nvq rfl, (onXlt_only ..).wide _ rfl, rfl, rfl⟩

theorem afterFree_gone (s : State) : CtrlsGone [] s (afterFree s) := by
  have hR := CtrlsGone.work
  have h1 : CtrlsGone [] s (releaseKept s) := hR.onFte ..
  have h2 : CtrlsGone [] (releaseKept s) (sweepOvl (releaseKept s)) := by
    unfold sweepOvl
    exact .of_nvq (onNvq_only ..) (.of_tags rfl rfl rfl fun _ x hx => ⟨x, hx, rfl⟩)
  exact hR.trans h1 (hR.trans h2 (closeDue_gone _))

theorem CtrlsGone.no_tag {cs : List Nat} {k : Nat} {s t : State} (g : CtrlsGone cs s t) (h : tget s.nvq.tags k = none) :
    tget t.nvq.tags k = none := by
  cases hk : tget t.nvq.tags k with
  | none => rfl
  | some x =>
    obtain ⟨-, y, hy, -⟩ := g.cmds.tags k x hk
    rw [h] at hy; cases hy

theorem endCmd_gone (k : Nat) (s : State) : CtrlsGone [] s (endCmd k s) ∧ tget (endCmd k s).nvq.tags k = none := by
  unfold endCmd
  split
  · rename_i hk
    exact ⟨CtrlsGone.composes.refl s, hk⟩
  · rename_i t _
    extract_lets s1
    obtain ⟨he, hk⟩ := eraseTag_gone k (dropReads k (returnResv k s))
    have hcam : CtrlsGone [] (eraseTag k (dropReads k (returnResv k s))) s1 := .of_only ((onCam_only ..).wide _ rfl)
    have hbefore : CtrlsGone [] s s1 := (((returnResv_gone k s).trans_nil (dropReads_gone ..)).trans_nil he).trans_nil hcam
    have hafter : CtrlsGone [] s1 (afterFree (nextXlat (ctrlLink s t.ctrl) (dropReqs (·.tag == some k) s1))) :=
      ((dropReqs_gone ..).trans_nil (nextXlat_gone ..)).trans_nil (afterFree_gone _)
    exact ⟨hbefore.trans_nil hafter, hafter.no_tag (hcam.no_tag hk)⟩

/-- A controller has no command with tag `k`. -/
def NoCmd (c k : Nat) (s : State) : Prop := ∀ x, tget s.nvq.tags k = some x → x.ctrl ≠ c

theorem NoCmd.of_gone {c k : Nat} {s t : State} (h : NoCmd c k s) (g : CtrlsGone [] s t) : NoCmd c k t := by
  intro x hx
  obtain ⟨-, y, hy, hyx⟩ := g.cmds.tags k x hx
  rw [← hyx]
  exact h y hy

/-- The end of a command, if it is one of controller `c`. -/
def endOwn (c k : Nat) (s : State) : State :=
  match tget s.nvq.tags k with
  | some t => if t.ctrl == c then endCmd k s else s
  | none => s

theorem endOwn_gone (c k : Nat) (s : State) : CtrlsGone [] s (endOwn c k s) ∧ NoCmd c k (endOwn c k s) := by
  unfold endOwn
  split
  · rename_i t ht
    split
    · obtain ⟨hg, hk⟩ := endCmd_gone k s
      exact ⟨hg, fun x hx => by rw [hk] at hx; cases hx⟩
    · rename_i hc
      refine ⟨CtrlsGone.composes.refl s, fun x hx => ?_⟩
      rw [ht] at hx
      cases hx
      simpa using hc
  · rename_i hk
    exact ⟨CtrlsGone.composes.refl s, fun x hx => by rw [hk] at hx; cases hx⟩

theorem endOwns_gone (c : Nat) (l : List Nat) (s : State) :
    CtrlsGone [] s (forEach l (endOwn c) s) ∧ ∀ k ∈ l, NoCmd c k (forEach l (endOwn c) s) := by
  induction l generalizing s with
  | nil => exact ⟨CtrlsGone.composes.refl s, nofun⟩
  | cons k l ih =>
    obtain ⟨h1, hk⟩ := endOwn_gone c k s
    obtain ⟨h2, hl⟩ := ih (endOwn c k s)
    refine ⟨h1.trans_nil h2, fun j hj => ?_⟩
    rcases List.mem_cons.1 hj with rfl | hj
    · exact hk.of_gone h2
    · exact hl j hj

theorem endCmds_gone (c : Nat) (s : State) :
    CtrlsGone [] s (endCmds (fun t => t.ctrl == c) s) ∧ ∀ k, NoCmd c k (endCmds (fun t => t.ctrl == c) s) := by
  have hends : endCmds (fun t => t.ctrl == c) s = forEach (tkeys s.nvq.tags) (endOwn c) s := rfl
  rw [hends]
  obtain ⟨hg, hall⟩ := endOwns_gone c (tkeys s.nvq.tags) s
  refine ⟨hg, fun k => ?_⟩
  by_cases hk : k ∈ tkeys s.nvq.tags
  · exact hall k hk
  · refine NoCmd.of_gone (fun x hx => absurd ?_ hk) hg
    exact List.mem_map.2 ⟨(k, x), Tests.mem_of_tget hx, rfl⟩

/-! ## The reset of a controller -/

/-- A controller as its reset leaves it (Table 5-8). -/
def ctrlCleared (x : Ctrl) : Ctrl :=
  { x with en := false, rdy := false, shn := false, ams := 0, mps := 0, numQ := none, feats := [], ps := 0, aers := [], events := [],
           vqFlex := (x.flexNext.map (·.1)).getD x.vqFlex, viFlex := (x.flexNext.map (·.2)).getD x.viFlex, flexNext := none,
           secResp := none, lastQ := 0, burst := 0, turns := [], credits := [0, 0, 0], aggr := [] }

/-- A controller that has no command left loses its queues and its settings. -/
def ctrlForgotten (c : Nat) (s : State) : State :=
  onNvq (fun n => { n with sqs := tfilter n.sqs fun k _ => k / 65536 != c, cqs := tfilter n.cqs fun k _ => k / 65536 != c,
                           tun := n.tun.filter fun x => x.2.1 != c, ctrls := tmod n.ctrls c ctrlCleared }) s

theorem ctrlCleared_off (x : Ctrl) : CtrlOff (ctrlCleared x) := ⟨rfl, rfl, rfl, rfl, rfl⟩

theorem ctrlForgotten_off (c : Nat) (s : State) :
    CtrlOff (ctrlAt (ctrlForgotten c s) c) ∧ ∀ d, CtrlOff (ctrlAt s d) → CtrlOff (ctrlAt (ctrlForgotten c s) d) := by
  cases hc : tget s.nvq.ctrls c with
  | none =>
    have hctrls : (ctrlForgotten c s).nvq.ctrls = s.nvq.ctrls := by simp [ctrlForgotten, onNvq, tmod, hc]
    simp only [ctrlAt_of_ctrls hctrls]
    exact ⟨by constructor <;> simp [ctrlAt, tgetD, hc], fun _ hd => hd⟩
  | some x =>
    have hctrls : (ctrlForgotten c s).nvq.ctrls = (setCtrl c (ctrlCleared x) s).nvq.ctrls := by
      simp [ctrlForgotten, onNvq, tmod, hc, setCtrl]
    simp only [ctrlAt_of_ctrls hctrls]
    exact ⟨by rw [ctrlAt_setCtrl, if_pos rfl]; exact ctrlCleared_off x, fun _ hd => hd.setCtrl fun _ => ctrlCleared_off x⟩

theorem ctrlForgotten_gone {c : Nat} {s : State} (h : ∀ k, NoCmd c k s) : CtrlsGone [c] s (ctrlForgotten c s) := by
  have honly : OnlyChanges [.nvq] s (ctrlForgotten c s) := onNvq_only ..
  refine ⟨⟨fun k hk => ?_, fun k hk => ?_, fun k x hx => ?_, ?_, ?_⟩, honly.wide _ rfl, rfl, rfl⟩
  · have hk' : k / 65536 = c := List.mem_singleton.1 hk
    simp [ctrlForgotten, onNvq, tget_tfilter_key, hk']
  · have hk' : k / 65536 ≠ c := fun h => hk (List.mem_singleton.2 h)
    simp [SqKept, ctrlForgotten, onNvq, tget_tfilter_key, hk']
  · exact ⟨by simpa using h k x hx, x, hx, rfl⟩
  · intro d hd
    rw [List.mem_singleton.1 hd]
    exact (ctrlForgotten_off c s).1
  · exact (ctrlForgotten_off c s).2

theorem resetCtrl_gone (c : Nat) (s : State) : CtrlsGone [c] s (resetCtrl c s) := by
  unfold resetCtrl
  extract_lets s1 clear s2
  obtain ⟨h1, hnone⟩ : CtrlsGone [] s s1 ∧ ∀ k, NoCmd c k s1 := endCmds_gone c s
  have htest : CtrlsGone [] s1 (if s1.pwr.selfTest.any fun x => x.1 == c then endSelfTest 2 0 s1 else s1) :=
    rel_ite (.of_only ((endSelfTest_only ..).wide _ rfl)) (CtrlsGone.composes.refl s1)
  have h2 : CtrlsGone [c] _ s2 := ctrlForgotten_gone fun k => (hnone k).of_gone htest
  exact ((h1.trans_nil htest).nil_trans h2).trans_nil (.of_only ((onUpd_only ..).wide _ rfl))

theorem resetCtrls_gone (cs : List Nat) (s : State) : CtrlsGone cs s (forEach cs resetCtrl s) := by
  induction cs generalizing s with
  | nil => exact CtrlsGone.composes.refl s
  | cons c cs ih => exact (resetCtrl_gone c s).trans (ih (resetCtrl c s))

/-! ## The reset of functions -/

theorem rescale_gone (s : State) : CtrlsGone [] s (rescale s) := by
  obtain ⟨u, hu, h | h⟩ := rescale_cases s <;> rw [h]
  · exact .of_only (hu.wide _ rfl)
  · exact (CtrlsGone.of_only (hu.wide _ rfl)).trans_nil (raiseSrc_gone 187 u)

theorem checkShut_gone (last : Option Nat) (s : State) : CtrlsGone [] s (checkShut last s) := by
  refine rel_ite (CtrlsGone.composes.refl s) (.trans_nil ?_ (closeDue_gone _))
  exact .of_nvq (onNvq_only ..) (.of_tags rfl rfl rfl fun _ x hx => ⟨x, hx, rfl⟩)

/-- The table of functions after a reset of `cs` (Table 4-6). -/
def fnsReset (sticky : Bool) (cs : List Nat) (f : Tbl Fn) : Tbl Fn :=
  if sticky then tmap f fun c x => if cs.contains c then { aer := x.aer, aerHdr := x.aerHdr } else x else tfilter f fun c _ => !cs.contains c

theorem tgetD_fnsReset {cs : List Nat} {c : Nat} (hc : c ∈ cs) (sticky : Bool) (f : Tbl Fn) :
    tgetD (fnsReset sticky cs f) c {} =
      if sticky then { aer := (tgetD f c {}).aer, aerHdr := (tgetD f c {}).aerHdr } else {} := by
  have hc' : cs.contains c = true := List.contains_iff_mem.2 hc
  unfold fnsReset tgetD
  split
  · rw [tget_tmap]
    cases tget f c <;> simp [hc]
  · rw [tget_tfilter_key f (fun c => !cs.contains c), hc']
    rfl

/-- What the reset of functions makes of the state beside the reset of their controllers: HPC but for their configuration, the mode, and the
translations of other functions. -/
structure FnsGone (sticky : Bool) (cs : List Nat) (s t : State) : Prop where
  cmds : CmdsReset cs s t
  parts : OnlyChanges (.hpc :: resetParts) s t
  hpc : t.hpc = { s.hpc with fns := fnsReset sticky cs s.hpc.fns, pfState := t.hpc.pfState }
  mode : t.sys.mode = s.sys.mode
  atc : t.xlt.atc = s.xlt.atc.filter fun a => !cs.contains a.ctrl

theorem resetFns_gone (cs : List Nat) (sticky : Bool) (s : State) : FnsGone sticky cs s (resetFns cs sticky s) := by
  unfold resetFns
  extract_lets s1 reset s2 s3 s4 s5
  have h1 : CtrlsGone cs s s1 := resetCtrls_gone cs s
  have hhpc : s1.hpc = s.hpc := h1.parts.same .hpc (by decide)
  have h6 : CtrlsGone [] s5 (checkShut none (rescale s5)) := (rescale_gone s5).trans_nil (checkShut_gone ..)
  have h13 : OnlyChanges [.hpc, .xlt] s1 s3 := ((onHpc_only ..).wide _ rfl).trans (((onXlt_only ..).trans (onXlt_only ..)).wide _ rfl)
  have h34 : OnlyChanges [.cam] s3 s4 := rel_ite (onCam_only ..) (.refl _ _)
  have h45 : OnlyChanges [.hpc] s4 s5 := rel_ite (onHpc_only ..) (.refl _ _)
  have h15 : OnlyChanges [.hpc, .xlt, .cam] s1 s5 := (h13.wide _ rfl).trans ((h34.wide _ rfl).trans (h45.wide _ rfl))
  have hpc3 : s3.hpc = { s.hpc with fns := fnsReset sticky cs s.hpc.fns } := by rw [← hhpc]; rfl
  have hpc5 : s5.hpc = { s4.hpc with pfState := s5.hpc.pfState } := by unfold s5; split <;> rfl
  have hatc : s3.xlt.atc = s.xlt.atc.filter fun a => !cs.contains a.ctrl := by rw [← h1.atc]; rfl
  clear_value s5 s4 s3 s1
  refine ⟨?_, ?_, ?_, ?_, ?_⟩
  · exact (h1.cmds.trans_nil (.of_nvq (h15.same .nvq (by decide)))).trans_nil h6.cmds
  · exact (h1.parts.wide _ rfl).trans ((h15.wide _ rfl).trans (h6.parts.wide _ rfl))
  · rw [h6.parts.same .hpc (by decide), hpc5, h34.same .hpc (by decide), hpc3]
  · rw [h6.mode, h15.same .sys (by decide), h1.mode]
  · rw [h6.atc, h45.same .xlt (by decide), h34.same .xlt (by decide), hatc]

/-- R93, Table 4-6, in the terms of the obligations. -/
theorem FnsGone.reset {sticky : Bool} {cs : List Nat} {s t : State} (h : FnsGone sticky cs s t) : FnsReset sticky cs s t where
  ctrls :=
    { ctrls := fun c hc => ⟨(h.cmds.ctrls c hc).en, (h.cmds.ctrls c hc).rdy, (h.cmds.ctrls c hc).shn, (h.cmds.ctrls c hc).feats,
        (h.cmds.ctrls c hc).aers⟩
      queues := h.cmds.queues
      others := h.cmds.others
      tags := fun k x hx => (h.cmds.tags k x hx).1
      rest := .of_only h.parts rfl }
  fns c hc := by
    rw [fnAt, h.hpc]
    exact tgetD_fnsReset hc ..
  atc a ha := by
    rw [h.atc] at ha
    simpa using (List.mem_filter.1 ha).2

theorem FnsGone.portAt {sticky : Bool} {cs : List Nat} {s t : State} (h : FnsGone sticky cs s t) (n : Nat) : portAt t n = portAt s n := by
  rw [Machine.portAt, h.hpc, Machine.portAt]

theorem Keeps.trans {l : List Part} {s t u : State} (h : Keeps l s t) (k : Keeps l t u) : Keeps l s u := by
  intro p hp
  have ht := h p hp
  have hu := k p hp
  cases p <;> exact Eq.trans hu ht

/-- A reset of functions after changes of links, of settings and of what waits for an answer, which leave the AER state where it is sticky. -/
theorem FnsReset.of_start {sticky : Bool} {cs : List Nat} {s u t : State} (h : FnsReset sticky cs u t)
    (ho : OnlyChanges [.hpc, .out, .sys] s u) (hf : sticky = true → ∀ c ∈ cs, fnAt u c = fnAt s c) : FnsReset sticky cs s t := by
  have hn : u.nvq = s.nvq := ho.same .nvq (by decide)
  obtain ⟨⟨hctrls, hqueues, hothers, htags, hrest⟩, hfns, hatc⟩ := h
  refine ⟨⟨hctrls, hqueues, fun k hk => ?_, htags, (Keeps.of_only ho rfl).trans hrest⟩, fun c hc => ?_, hatc⟩
  · simpa only [SqKept, hn] using hothers k hk
  · rw [hfns c hc]
    split
    · rw [hf ‹_› c hc]
    · rfl

/-- Changes of links and events, and a wake, leave what a reset of functions did. -/
theorem FnsReset.of_end {sticky : Bool} {cs : List Nat} {s t u : State} (h : FnsReset sticky cs s t)
    (ho : OnlyChanges [.hpc, .sys, .regs] t u) (hf : u.hpc.fns = t.hpc.fns) : FnsReset sticky cs s u := by
  have hn : u.nvq = t.nvq := ho.same .nvq (by decide)
  obtain ⟨⟨hctrls, hqueues, hothers, htags, hrest⟩, hfns, hatc⟩ := h
  refine ⟨⟨?_, ?_, ?_, ?_, hrest.trans (Keeps.of_only ho rfl)⟩, ?_, ?_⟩
  · simpa only [ctrlAt, hn] using hctrls
  · simpa only [hn] using hqueues
  · simpa only [SqKept, hn] using hothers
  · simpa only [hn] using htags
  · simpa only [fnAt, hf] using hfns
  · rw [ho.same .xlt (by decide)]; exact hatc

end Sys2Proof

namespace Sys2Proof

open Machine

/-! Links and their resets (R75, R93 to R95, Table 4-6). -/

/-! ## The reset of a link -/

/-- A port whose link is reset (Table 4-6): IDE keys go with PERST_N, and else their streams are Insecure. -/
def portReset (perst : Bool) (st : Nat) (p : Port) : Port :=
  { p with up := false, st, width := 0, rate := 0, flit := false, cfgReady := false, ptmOut := false, perst := perst || p.perst,
           ideInsecure := if perst then [] else (p.ideInsecure ++ p.ideKeys).eraseDups, ideKeys := if perst then [] else p.ideKeys }

section

variable (n : Nat) (perst : Bool) (st bits : Nat) (s : State)

theorem resetLink_fns : FnsReset (!perst) (linkCtrls s n) s (resetLink n perst st bits s) := by
  refine (resetFns_gone (linkCtrls s n) (!perst) s).reset.of_end ?_ rfl
  unfold resetLink
  exact ((modPort_only ..).wide _ rfl).trans ((orReg_only ..).wide _ rfl)

theorem resetLink_port : portAt (resetLink n perst st bits s) n = portReset perst st (portAt s n) := by
  have h := portAt_modPort_same n (portReset perst st) (resetFns (linkCtrls s n) (!perst) s)
  rw [(resetFns_gone ..).portAt] at h
  exact h

theorem resetLink_mode : (resetLink n perst st bits s).sys.mode = s.sys.mode := (resetFns_gone (linkCtrls s n) (!perst) s).mode

theorem resetLink_twin : (resetLink n perst st bits s).hpc.twin = s.hpc.twin := by
  show (resetFns (linkCtrls s n) (!perst) s).hpc.twin = _
  rw [(resetFns_gone ..).hpc]

/-- The event bits of a reset of the link are set. -/
theorem resetLink_evt {b : Nat} (hb : (BitVec.ofNat 32 bits).getLsbD b = true) :
    bitOf (reg (resetLink n perst st bits s) .hpcPortEvt n) b = true := by
  unfold resetLink
  rw [reg_orReg, bitOf_or, bitOf, bitOf, hb, Bool.or_true]

end

/-! ## The commands of links -/

section

variable {n : Nat} {s : State}

theorem exec_perstNAsserted (hg : governs s n = true) (hp : isPr s n = false) (hn : (portAt s n).perst = false) (hl : portsLive s = true) :
    exec (.perstNAsserted n) s = .next (resetLink n true 0 (2 + b2n (portAt s n).up) s) := by
  simp [exec, execPerstNAsserted, hg, hp, hn, hl]

theorem exec_perstNAsserted_ignored (h : isPr s n = true ∨ governs s n = false ∨ (portAt s n).perst = true) :
    exec (.perstNAsserted n) s = .next s := by
  rcases h with h | h | h <;> simp [exec, execPerstNAsserted, h]

theorem exec_perstNDeasserted (hg : governs s n = true) (hp : isPr s n = false) (hn : (portAt s n).perst = true) (hl : portsLive s = true) :
    exec (.perstNDeasserted n) s =
      .next (modPort n (fun p => { p with st := if s.hpc.released then 1 else 0 }) (modPort n (fun p => { p with perst := false }) s)) := by
  obtain ⟨hh, hd⟩ : s.sys.mode ≠ .holdup ∧ s.sys.mode ≠ .dormant := by simpa [portsLive] using hl
  simp [exec, execPerstNDeasserted, hg, hp, hn, hh, hd]

theorem exec_perstNDeasserted_dormant (hg : governs s n = true) (hp : isPr s n = false) (hn : (portAt s n).perst = true)
    (hm : s.sys.mode = .dormant) : exec (.perstNDeasserted n) s = .next (wakeDormant (modPort n (fun p => { p with perst := false }) s)) := by
  simp [exec, execPerstNDeasserted, hg, hp, hn, hm]

theorem exec_hotReset (hg : governs s n = true) (hp : isPr s n = false) (hup : (portAt s n).up = true) (hl : portsLive s = true) :
    exec (.hotReset n) s = .next (resetLink n false 8 0 s) := by
  simp [exec, execHotReset, hg, hp, hup, hl]

theorem exec_linkDown_ep (hg : governs s n = true) (hp : isPr s n = false) (hup : (portAt s n).up = true) (hl : portsLive s = true) :
    exec (.linkDown n) s = .next (resetLink n false 0 1 s) := by
  simp [exec, execLinkDown, hg, hp, hup, hl]

theorem exec_linkDown_pr (hg : governs s n = true) (hp : isPr s n = true) (hup : (portAt s n).up = true) (hl : portsLive s = true) :
    exec (.linkDown n) s = .next (twinLost (resetLink n false 0 1 s)) := by
  simp [exec, execLinkDown, hg, hp, hup, hl]

theorem exec_linkUp {w rate : Nat} {flit : Bool} (hg : governs s n = true) (hl : portsLive s = true) (hrel : s.hpc.released = true)
    (hup : (portAt s n).up = false) (hperst : (portAt s n).perst = false) (hst : (portAt s n).st ≠ 7)
    (hpr : isPr s n = true → prHold s n = false) (hw : w ∈ ([1, 2, 4, 8, 16] : List Nat)) (hwl : w ≤ laneCount s n) (h1 : 1 ≤ rate)
    (h6 : rate ≤ 6) (hf : rate = 6 → flit = true) :
    exec (.linkUp n w rate flit) s = .next (modPort n (fun p => { p with up := true, st := 3, width := w, rate, flit }) s) := by
  have hhold : (isPr s n && prHold s n) = false := by
    cases hpr' : isPr s n with
    | false => rfl
    | true => rw [hpr hpr']; rfl
  have hflit : (rate != 6 || flit) = true := by
    by_cases h : rate = 6
    · simp [hf h]
    · simp [h]
  have hwidth : [1, 2, 4, 8, 16].contains w = true := List.contains_iff_mem.2 hw
  simp only [exec, execLinkUp, hg, hl, hrel, hup, hperst, hhold, hwidth, hwl, h1, h6, hflit, hst, ne_eq, not_false_eq_true, decide_true,
    Bool.not_false, Bool.and_true, Bool.not_true, Bool.false_eq_true, if_false]

/-- Flit mode is required at 64 GT/s (R78). -/
theorem exec_linkUp_noFlit (n w : Nat) (s : State) : exec (.linkUp n w 6 false) s = .next s := by
  simp [exec, execLinkUp]

theorem flr_ends {cs : List Nat} (s : State) : FnsReset false cs s (resetFns cs false (wake s)) :=
  (resetFns_gone cs false (wake s)).reset.of_start ((wake_only s).wide _ rfl) nofun

theorem exec_flrPf {c : Nat} (hc : isPf c = true) (hh : thas s.nvq.ctrls c = true) (hl : portsLive s = true) :
    exec (.flrPf c) s = .next (resetFns ((tkeys s.nvq.ctrls).filter fun x => portOf x == portOf c) false (wake s)) := by
  simp [exec, execFlrPf, hc, hh, hl]

theorem exec_flrVf {c : Nat} (hc : isPf c = false) (hh : thas s.nvq.ctrls c = true) (hl : portsLive s = true) :
    exec (.flrVf c) s = .next (resetFns [c] false (wake s)) := by
  simp [exec, execFlrVf, hc, hh, hl]

end

/-- Settles O35: a reset of functions is taken apart into what ending a command, resetting a controller and the events that follow leave of NVQ
(`resetFns_gone`); a reset of a link adds the port's own state and events. -/
theorem linksAndResets : Obligations.LinksAndResets := by
  unfold Obligations.LinksAndResets
  refine ⟨?_, ?_, ?_, ?_, ?_, ?_, ?_, ?_, ?_⟩
  · intro n s hg hp hn hl
    have hport := resetLink_port n true 0 (2 + b2n (portAt s n).up) s
    refine ⟨_, exec_perstNAsserted hg hp hn hl, resetLink_fns n true .., ?_, ?_, ?_, ?_, ?_, ?_, ?_, fun hup => ?_⟩
    iterate 6 rw [hport]; rfl
    · exact resetLink_evt _ _ _ _ _ (by cases (portAt s n).up <;> rfl)
    · exact resetLink_evt _ _ _ _ _ (by rw [hup]; rfl)
  · intro n s h
    exact exec_perstNAsserted_ignored h
  · intro n s hg hp hn
    refine ⟨fun hl => ⟨_, exec_perstNDeasserted hg hp hn hl, ?_, (modPort_only ..).trans (modPort_only ..)⟩,
      fun hm => ⟨_, exec_perstNDeasserted_dormant hg hp hn hm, rfl, ?_, ((modPort_only ..).wide _ rfl).trans ((onSys_only ..).wide _ rfl)⟩⟩
    · rw [portAt_modPort_same, portAt_modPort_same]
    · exact congrArg Port.perst (portAt_modPort_same n (fun p => { p with perst := false }) s)
  · intro n s hg hp hup hl
    have hhot := resetLink_port n false 8 0 s
    have hdown := resetLink_port n false 0 1 s
    constructor
    · refine ⟨_, exec_hotReset hg hp hup hl, resetLink_fns n false .., ?_, ?_, ?_, ?_, fun k hk => ?_⟩
      iterate 4 rw [hhot]; rfl
      rw [hhot]
      exact List.mem_eraseDups.2 (List.mem_append_right _ hk)
    · refine ⟨_, exec_linkDown_ep hg hp hup hl, resetLink_fns n false .., ?_, ?_, resetLink_evt _ _ _ _ _ rfl⟩
      iterate 2 rw [hdown]; rfl
  · intro n s hg hp hup hl ht
    have ht' : (resetLink n false 0 1 s).hpc.twin ≠ 0 := by rw [resetLink_twin]; exact ht
    have hm' : (resetLink n false 0 1 s).sys.mode ≠ .dormant := by rw [resetLink_mode]; exact portsLive_mode hl
    obtain ⟨hgone, h174⟩ := twinLost_gone ht' hm'
    exact ⟨_, exec_linkDown_pr hg hp hup hl, twinLost_twin ht' hm', h174, hgone.lost, by rw [twinLost_port ht' hm', resetLink_port]; rfl⟩
  · intro n w rate flit s hg hl hrel hup hperst hst hpr hw hwl h1 h6 hf
    exact ⟨_, exec_linkUp hg hl hrel hup hperst hst hpr hw hwl h1 h6 hf, portAt_modPort_same .., fun m hm => portAt_modPort_ne hm ..,
      modPort_only ..⟩
  · exact exec_linkUp_noFlit
  · intro c s hc hh hl
    exact ⟨_, exec_flrPf hc hh hl, flr_ends s⟩
  · intro c s hc hh hl
    exact ⟨_, exec_flrVf hc hh hl, flr_ends s⟩

end Sys2Proof

namespace Sys2Proof

open Machine

/-! Configuration requests and errors on a link (R79, R81, R95, R98, Table 4-7). -/

/-! ## Configuration requests -/

theorem modFn_only (c : Nat) (f : Fn → Fn) (s : State) : OnlyChanges [.hpc] s (modFn c f s) := onHpc_only ..

theorem fnAt_modFn_same (c : Nat) (f : Fn → Fn) (s : State) : fnAt (modFn c f s) c = f (fnAt s c) := tgetD_tset_same ..

theorem fnAt_wake (s : State) (c : Nat) : fnAt (wake s) c = fnAt s c := by rw [fnAt, wake_hpc, fnAt]

/-- The answer to a configuration request, from a link whose configuration space is ready (R95). -/
def configAnswered (c : Nat) (op : ConfigOp) (s : State) : State :=
  emit (.cfgReply c (.done (if op = .read then some (cfgSpace s c) else none))) (modPort (ctrlLink s c) (fun p => { p with cfgReady := true }) s)

theorem configAnswered_only (c : Nat) (op : ConfigOp) (s : State) : OnlyChanges [.hpc, .out] s (configAnswered c op s) :=
  ((modPort_only ..).wide _ rfl).trans ((emit_only ..).wide _ rfl)

section

variable {c : Nat} {rdy : Bool} {s : State}

theorem exec_configRequest_retry (hp : isPr s (ctrlLink s c) = false) (hup : (portAt s (ctrlLink s c)).up = true) (hl : portsLive s = true)
    (hr : (portAt s (ctrlLink s c)).cfgReady = false) (op : ConfigOp) :
    exec (.configRequest c op false) s = .next (emit (.cfgReply c .retry) s) := by
  simp [exec, execConfigRequest, hp, hup, hl, hr]

theorem exec_configRequest_absent (hp : isPr s (ctrlLink s c) = false) (hup : (portAt s (ctrlLink s c)).up = true) (hl : portsLive s = true)
    (hr : (portAt s (ctrlLink s c)).cfgReady = true ∨ rdy = true) (hf : fnThere s c = false) (op : ConfigOp) :
    exec (.configRequest c op rdy) s =
      .next (emit (.cfgReply c .unsupported) (modPort (ctrlLink s c) (fun p => { p with cfgReady := true }) s)) := by
  rcases hr with hr | hr <;> simp [exec, execConfigRequest, hp, hup, hl, hr, hf]

section

variable (hp : isPr s (ctrlLink s c) = false) (hup : (portAt s (ctrlLink s c)).up = true) (hl : portsLive s = true)
  (hr : (portAt s (ctrlLink s c)).cfgReady = true ∨ rdy = true) (hf : fnThere s c = true)
include hp hup hl hr hf

theorem exec_configRequest_there (op : ConfigOp) :
    exec (.configRequest c op rdy) s = .next (wake (configure c op (configAnswered c op s))) := by
  rcases hr with hr | hr <;> simp [exec, execConfigRequest, configAnswered, hp, hup, hl, hr, hf]

/-- A request that changes settings of the function alone, by `g`. -/
theorem configRequest_ends {op : ConfigOp} {g : Fn → Fn} (hg : configure c op (configAnswered c op s) = modFn c g (configAnswered c op s)) :
    Ends (.configRequest c op rdy) s fun t => t.out = (configAnswered c op s).out ∧ fnAt t c = g (fnAt s c) ∧
      OnlyChanges [.hpc, .out, .sys] s t := by
  refine ⟨_, exec_configRequest_there hp hup hl hr hf op, ?_⟩
  rw [hg]
  have hw := wake_only (modFn c g (configAnswered c op s))
  refine ⟨hw.same .out (by decide), by rw [fnAt_wake, fnAt_modFn_same]; rfl, ?_⟩
  exact ((configAnswered_only ..).wide _ rfl).trans (((modFn_only ..).wide _ rfl).trans (hw.wide _ rfl))

theorem configRequest_sets {op : ConfigOp} (hop : op ≠ .read) {g : Fn → Fn}
    (hg : configure c op (configAnswered c op s) = modFn c g (configAnswered c op s)) : CfgSets c rdy s op (g (fnAt s c)) := by
  obtain ⟨t, ht, hout, hfn, ho⟩ := configRequest_ends hp hup hl hr hf hg
  exact ⟨t, ht, hout.trans (by rw [configAnswered, if_neg hop]; rfl), hfn, ho⟩

theorem configRequest_bar {x : Nat × Nat} (hx : x ∈ barSizes s c) (k : Nat) : Ends (.configRequest c (.bar x.1 k) rdy) s fun t =>
    tget (fnAt t c).bars x.1 = some (k % 2 ^ 64 / x.2 * x.2) ∧ OnlyChanges [.hpc, .out, .sys] s t := by
  have hfind : ((barSizes s c).find? fun y => y.1 == x.1) = some x := by
    unfold barSizes at hx ⊢
    split at hx
    · cases hx
    · rename_i hpf
      rw [if_neg hpf]
      split at hx
      · simp only [List.cons_append, List.nil_append, List.mem_cons, List.not_mem_nil, or_false] at hx
        rcases hx with rfl | rfl | rfl <;> simp [*]
      · simp only [List.cons_append, List.nil_append, List.mem_cons, List.not_mem_nil, or_false] at hx
        rcases hx with rfl | rfl <;> simp [*]
  have hbars : barSizes (configAnswered c (.bar x.1 k) s) c = barSizes s c := rfl
  obtain ⟨t, ht, -, hfn, ho⟩ := configRequest_ends hp hup hl hr hf (op := .bar x.1 k)
    (g := fun f => { f with bars := tset f.bars x.1 (k % 2 ^ 64 / x.2 * x.2) }) (by simp only [configure, hbars, hfind])
  exact ⟨t, ht, by rw [hfn, tget_tset_same], ho⟩

theorem configRequest_read : Ends (.configRequest c .read rdy) s fun t => t.out = .cfgReply c (.done (some (cfgSpace s c))) :: s.out ∧
    t.hpc.fns = s.hpc.fns ∧ OnlyChanges [.hpc, .out, .sys] s t := by
  have hw := wake_only (configAnswered c .read s)
  exact ⟨_, exec_configRequest_there hp hup hl hr hf .read, hw.same .out (by decide), by rw [configure, wake_hpc]; rfl,
    ((configAnswered_only ..).wide _ rfl).trans (hw.wide _ rfl)⟩

/-- VF Enable cleared resets the VFs of the function (R83, Table 4-6). -/
theorem configRequest_vfsOff (hpf : isPf c = true) (hface : isPface s (ctrlLink s c) = false) :
    Ends (.configRequest c (.vfEnable false) rdy) s
      (FnsReset false ((tkeys s.nvq.ctrls).filter fun v => portOf v == portOf c && !isPf v) s) := by
  have hface' : isPface (configAnswered c (.vfEnable false) s) (ctrlLink (configAnswered c (.vfEnable false) s) c) = false := hface
  have hset : configure c (.vfEnable false) (configAnswered c (.vfEnable false) s) =
      resetFns ((tkeys s.nvq.ctrls).filter fun v => portOf v == portOf c && !isPf v) false
        (modFn c (fun f => { f with vfEnable := false }) (configAnswered c (.vfEnable false) s)) := by
    simp only [configure, hpf, hface', Bool.not_true, Bool.or_false, Bool.false_eq_true, if_false]
    rfl
  have honly : OnlyChanges [.hpc, .out, .sys] s (modFn c (fun f => { f with vfEnable := false }) (configAnswered c (.vfEnable false) s)) :=
    ((configAnswered_only ..).wide _ rfl).trans ((modFn_only ..).wide _ rfl)
  generalize modFn c (fun f => { f with vfEnable := false }) (configAnswered c (.vfEnable false) s) = u at hset honly
  refine ⟨_, exec_configRequest_there hp hup hl hr hf (.vfEnable false), ?_⟩
  rw [hset]
  exact ((resetFns_gone _ false u).reset.of_start honly nofun).of_end ((wake_only _).wide _ rfl) (by rw [wake_hpc])

end

end

/-! ## Data that is lost -/

section

variable {k : Nat} {x : Tag} {s : State}

theorem tget_returnResv (hx : tget s.nvq.tags k = some x) : tget (returnResv k s).nvq.tags k = some { x with reserved := 0 } := by
  unfold returnResv
  rw [hx]
  dsimp only
  split
  · exact tget_setTag_same ..
  · exact tget_setTag_same ..

theorem loseData_posted (hx : tget s.nvq.tags k = some x) (hst : x.st = .run ∨ x.st = .suspended) :
    Posted k .dataTransfer (loseData (some k) s) := by
  have hne : x.st ≠ .post := by rcases hst with h | h <;> simp [h]
  simp only [loseData, hx, if_pos hst]
  exact post_posted (tget_returnResv hx) hne ..

/-- A command that no asynchronous event completes loses its data with a source that asserts. -/
theorem loseData_raiseSrc_posted (hx : tget s.nvq.tags k = some x) (hst : x.st = .run ∨ x.st = .suspended) (ha : NoAer k s) (i : Nat) :
    Posted k .dataTransfer (loseData (some k) (raiseSrc i s)) :=
  loseData_posted (((raiseSrc_cmds i s).kept k ha).2.trans hx) hst

theorem NoAer.of_nvq {t : State} (h : t.nvq = s.nvq) (ha : NoAer k s) : NoAer k t := by simpa only [NoAer, h] using ha

end

/-! ## Errors -/

theorem aerLog_only (c : Nat) (e : AerErr) (hdr : List Word) (s : State) : OnlyChanges [.hpc] s (aerLog c e hdr s) := modFn_only ..

theorem mem_aer_aerLog (c : Nat) (e : AerErr) (hdr : List Word) (s : State) : e ∈ (fnAt (aerLog c e hdr s) c).aer := by
  rw [aerLog, fnAt_modFn_same]
  dsimp only
  split
  · exact List.contains_iff_mem.1 ‹_›
  · exact List.mem_append_right _ List.mem_cons_self

theorem aerFn_some {s : State} {k : Nat} {x : Tag} (hx : tget s.nvq.tags k = some x) (c : Nat) : aerFn s (some k) c = x.ctrl := by
  simp [aerFn, hx]

theorem bitOf_orReg {b : Nat} (hb : b < 32) (r : RegId) (n : Nat) (s : State) : bitOf (reg (orReg r n (bitW b) s) r n) b = true := by
  simp [bitOf, bitW, hb]

/-- A check of IDE that fails: the stream is Insecure, and the error stands in AER and in the port's events (R81). -/
def ideNoted (n i : Nat) (hdr : List Word) (s : State) : State :=
  orReg .hpcPortEvt n (bitW 6) (aerLog (ctrlOf n 0) .ideCheck hdr (modPort n (fun p =>
    { p with ideInsecure := if p.ideInsecure.contains i then p.ideInsecure else p.ideInsecure ++ [i] }) s))

/-- An ECRC that fails stands in AER and in the port's events (Table 4-7). -/
def ecrcNoted (n c : Nat) (hdr : List Word) (s : State) : State :=
  orReg .hpcPortEvt n (bitW 2) (aerLog c .ecrc hdr (wake s))

/-- Data poisoned stands in AER and in the port's events; a completion with UR or CA in the port's events alone (Table 4-7). -/
def errorNoted (n c : Nat) (e : ErrTlp) (hdr : List Word) (s : State) : State :=
  orReg .hpcPortEvt n (bitW 5) (if e = .urFetch ∨ e = .caFetch then wake s else aerLog c .poisonedTlp hdr (wake s))

/-- A read abandoned stands in AER and in the port's events (Table 4-7). -/
def timeoutNoted (n c : Nat) (s : State) : State := orReg .hpcPortEvt n (bitW 3) (aerLog c .completionTimeout [] s)

theorem ideNoted_only (n i : Nat) (hdr : List Word) (s : State) : OnlyChanges [.hpc, .regs] s (ideNoted n i hdr s) :=
  ((modPort_only ..).wide _ rfl).trans (((aerLog_only ..).wide _ rfl).trans ((orReg_only ..).wide _ rfl))

theorem ecrcNoted_only (n c : Nat) (hdr : List Word) (s : State) : OnlyChanges [.hpc, .sys, .regs] s (ecrcNoted n c hdr s) :=
  ((wake_only s).wide _ rfl).trans (((aerLog_only ..).wide _ rfl).trans ((orReg_only ..).wide _ rfl))

theorem errorNoted_only (n c : Nat) (e : ErrTlp) (hdr : List Word) (s : State) :
    OnlyChanges [.hpc, .sys, .regs] s (errorNoted n c e hdr s) := by
  refine .trans ?_ ((orReg_only ..).wide _ rfl)
  have hw : OnlyChanges [.hpc, .sys, .regs] s (wake s) := (wake_only s).wide _ rfl
  exact .cond (fun _ => hw) fun _ => hw.trans ((aerLog_only ..).wide _ rfl)

theorem timeoutNoted_only (n c : Nat) (s : State) : OnlyChanges [.hpc, .regs] s (timeoutNoted n c s) :=
  ((aerLog_only ..).wide _ rfl).trans ((orReg_only ..).wide _ rfl)

section

variable {n : Nat} {s : State} (hr : receives s n = true)
include hr

theorem exec_ideCheckFail (i : Nat) (tag : Option Nat) (hdr : List Word) :
    exec (.ideCheckFail n i tag hdr) s = .next (loseData tag (raiseSrc (170 + n) (ideNoted n i hdr s))) := by
  simp [exec, execIdeCheckFail, hr, ideNoted]

theorem exec_receivedErrorTlp_ecrc {c : Nat} {tag : Option Nat} (hc : (fnAt s (aerFn s tag c)).ecrcChk = true) (hdr : List Word) :
    exec (.receivedErrorTlp n .ecrc c tag hdr) s = .next (loseData tag (raiseSrc 176 (ecrcNoted n (aerFn s tag c) hdr s))) := by
  simp [exec, execReceivedErrorTlp, hr, hc, ecrcNoted]

theorem exec_receivedErrorTlp_of_ne {e : ErrTlp} (he : e ≠ .ecrc) {tag : Option Nat} (ht : e = .epBarWrite → tag = none) (c : Nat)
    (hdr : List Word) : exec (.receivedErrorTlp n e c tag hdr) s = .next (loseData tag (errorNoted n (aerFn s tag c) e hdr s)) := by
  cases e with
  | ecrc => exact absurd rfl he
  | epBarWrite =>
    obtain rfl := ht rfl
    simp [exec, execReceivedErrorTlp, hr, errorNoted, loseData]
  | epDataRead => simp [exec, execReceivedErrorTlp, hr, errorNoted]
  | epFetch => simp [exec, execReceivedErrorTlp, hr, errorNoted]
  | urFetch => simp [exec, execReceivedErrorTlp, hr, errorNoted]
  | caFetch => simp [exec, execReceivedErrorTlp, hr, errorNoted]

theorem exec_completionTimeout (hp : isPr s n = false) (tag : Option Nat) :
    exec (.completionTimeout n tag) s = .next (loseData tag (raiseSrc 177 (timeoutNoted n (aerFn s tag (ctrlOf n 0)) s))) := by
  simp [exec, execCompletionTimeout, hr, hp, timeoutNoted]

end

theorem exec_receivedErrorTlp_unchecked {c : Nat} {s : State} (hc : (fnAt s c).ecrcChk = false) (n : Nat) (hdr : List Word) :
    exec (.receivedErrorTlp n .ecrc c none hdr) s = .next s := by
  simp [exec, execReceivedErrorTlp, aerFn, hc]

/-- Nothing received on a link that is down, or without device power (R95). -/
theorem exec_errors_of_not_receives {n : Nat} {s : State} (hr : receives s n = false) (k c : Nat) (e : ErrTlp) (hdr : List Word) :
    exec (.ideCheckFail n k none hdr) s = .next s ∧ exec (.receivedErrorTlp n e c none hdr) s = .next s ∧
    exec (.completionTimeout n none) s = .next s := by
  simp [exec, execIdeCheckFail, execReceivedErrorTlp, execCompletionTimeout, hr]

section

variable {n : Nat} {s : State}

theorem receivedErrorTlp_noted (hr : receives s n = true) (c : Nat) (e : ErrTlp) (hdr : List Word) :
    (e = .epDataRead ∨ e = .epFetch ∨ e = .epBarWrite → Ends (.receivedErrorTlp n e c none hdr) s fun t =>
      bitOf (reg t .hpcPortEvt n) 5 = true ∧ .poisonedTlp ∈ (fnAt t c).aer ∧ t.hpc.ports = s.hpc.ports ∧ OnlyChanges [.hpc, .sys, .regs] s t) ∧
    (e = .urFetch ∨ e = .caFetch → Ends (.receivedErrorTlp n e c none hdr) s fun t =>
      bitOf (reg t .hpcPortEvt n) 5 = true ∧ OnlyChanges [.sys, .regs] s t) := by
  constructor
  · intro he
    have hcase : errorNoted n c e hdr s = orReg .hpcPortEvt n (bitW 5) (aerLog c .poisonedTlp hdr (wake s)) := by
      rcases he with rfl | rfl | rfl <;> rfl
    refine ⟨_, exec_receivedErrorTlp_of_ne hr (by rcases he with rfl | rfl | rfl <;> decide) (fun _ => rfl) c hdr, ?_, ?_, ?_,
      errorNoted_only n c e hdr s⟩
    · exact bitOf_orReg (by decide) ..
    · show _ ∈ (fnAt (errorNoted n c e hdr s) c).aer
      rw [hcase]
      exact mem_aer_aerLog c .poisonedTlp hdr (wake s)
    · show (errorNoted n c e hdr s).hpc.ports = _
      rw [hcase]
      show (wake s).hpc.ports = _
      rw [wake_hpc]
  · intro he
    have hcase : errorNoted n c e hdr s = orReg .hpcPortEvt n (bitW 5) (wake s) := by
      rcases he with rfl | rfl <;> rfl
    refine ⟨_, exec_receivedErrorTlp_of_ne hr (by rcases he with rfl | rfl <;> decide) (fun _ => rfl) c hdr, ?_, ?_⟩
    · exact bitOf_orReg (by decide) ..
    · show OnlyChanges _ s (errorNoted n c e hdr s)
      rw [hcase]
      exact ((wake_only s).wide _ rfl).trans ((orReg_only ..).wide _ rfl)

section

variable {k : Nat} {x : Tag} (hr : receives s n = true) (hx : tget s.nvq.tags k = some x) (hst : x.st = .run ∨ x.st = .suspended)
  (ha : NoAer k s)
include hr hx hst ha

theorem ideCheckFail_posts (i : Nat) (hdr : List Word) : Ends (.ideCheckFail n i (some k) hdr) s (Posted k .dataTransfer) := by
  have hn := (ideNoted_only n i hdr s).same .nvq (by decide)
  exact ⟨_, exec_ideCheckFail hr i (some k) hdr, loseData_raiseSrc_posted (by rw [hn, hx]) hst (ha.of_nvq hn) _⟩

theorem completionTimeout_posts (hp : isPr s n = false) : Ends (.completionTimeout n (some k)) s (Posted k .dataTransfer) := by
  have hn := (timeoutNoted_only n (aerFn s (some k) (ctrlOf n 0)) s).same .nvq (by decide)
  exact ⟨_, exec_completionTimeout hr hp (some k), loseData_raiseSrc_posted (by rw [hn, hx]) hst (ha.of_nvq hn) _⟩

theorem receivedErrorTlp_posts {e : ErrTlp} (hb : e ≠ .epBarWrite) (hc : e = .ecrc → (fnAt s x.ctrl).ecrcChk = true) (c : Nat)
    (hdr : List Word) : Ends (.receivedErrorTlp n e c (some k) hdr) s (Posted k .dataTransfer) := by
  by_cases he : e = .ecrc
  · subst he
    have hn := (ecrcNoted_only n (aerFn s (some k) c) hdr s).same .nvq (by decide)
    exact ⟨_, exec_receivedErrorTlp_ecrc hr (by rw [aerFn_some hx]; exact hc rfl) hdr,
      loseData_raiseSrc_posted (by rw [hn, hx]) hst (ha.of_nvq hn) _⟩
  · have hn := (errorNoted_only n (aerFn s (some k) c) e hdr s).same .nvq (by decide)
    exact ⟨_, exec_receivedErrorTlp_of_ne hr he (fun h => absurd h hb) c hdr, loseData_posted (by rw [hn, hx]) hst⟩

end

end

/-- Settles O36: each configuration request is one change of the function's settings, VF Enable cleared a reset of functions; each error is noted,
raises its source, and a command that loses data and that no asynchronous event completes is left to end with Data Transfer Error. -/
theorem configurationAndLinkErrors : Obligations.ConfigurationAndLinkErrors := by
  unfold Obligations.ConfigurationAndLinkErrors
  refine ⟨fun c op rdy s => ?_, ?_, ?_, ?_, ?_, ?_, ?_, ?_, ?_⟩
  · intro n hp hup hl
    refine ⟨fun hr => exec_configRequest_retry hp hup hl hr op, fun hr hf => ?_, fun hr hf => ?_⟩
    · exact ⟨_, exec_configRequest_absent hp hup hl hr hf op, rfl, portAt_modPort_same .., rfl,
        ((modPort_only ..).wide _ rfl).trans ((emit_only ..).wide _ rfl)⟩
    · intro f
      have sets (op : ConfigOp) (g : Fn → Fn) (hop : op ≠ .read)
          (hg : configure c op (configAnswered c op s) = modFn c g (configAnswered c op s)) : CfgSets c rdy s op (g (fnAt s c)) :=
        configRequest_sets hp hup hl hr hf hop hg
      refine ⟨configRequest_read hp hup hl hr hf, sets (.atsEnable true) (fun f => { f with atsEn := true }) nofun rfl,
        sets (.priEnable true) (fun f => { f with priEn := true, priStopped := f.priFail && f.priStopped }) nofun rfl,
        fun k hk => sets (.maxPayload k) (fun f => { f with mps := k }) nofun (by rcases hk with rfl | rfl | rfl <;> rfl),
        fun k hk => sets (.maxRead k) (fun f => { f with mrrs := k }) nofun (by rcases hk with rfl | rfl | rfl <;> rfl),
        fun k => sets (.priAlloc k) (fun f => { f with priAlloc := min k 1024 }) nofun rfl,
        fun b => ⟨sets (.d3hot b) (fun f => { f with d3hot := b }) nofun rfl,
          sets (.msix b true) (fun f => { f with msixEn := b, msixMask := true }) nofun rfl,
          sets (.ecrc b true) (fun f => { f with ecrcGen := b, ecrcChk := true }) nofun rfl⟩,
        fun x hx k => configRequest_bar hp hup hl hr hf hx k, ?_⟩
      · exact fun hpf hface => configRequest_vfsOff hp hup hl hr hf hpf hface
  · intro n k hdr s hr ins
    have hn : n < 4 := governs_lt (receives_iff.1 hr).1
    exact ⟨_, exec_ideCheckFail hr k none hdr, raiseSrc_raised _ _ (by omega) (portsLive_mode (receives_iff.1 hr).2.2)⟩
  · intro n i k hdr x s hr hx hst ha
    exact ideCheckFail_posts hr hx hst ha i hdr
  · intro n c e hdr s hr
    exact receivedErrorTlp_noted hr c e hdr
  · intro n c hdr s hr
    have hm : (wake s).sys.mode ≠ .dormant := by rw [(wake_keeps s).sys]; exact portsLive_mode (receives_iff.1 hr).2.2
    exact ⟨fun hc => ⟨_, exec_receivedErrorTlp_ecrc (tag := none) hr hc hdr, raiseSrc_raised _ _ (by decide) hm⟩,
      fun hc => exec_receivedErrorTlp_unchecked hc n hdr⟩
  · intro n c k e hdr x s hr hb hx hst ha hc
    exact receivedErrorTlp_posts hr hx hst ha hb hc c hdr
  · intro n s hr hp
    exact ⟨_, exec_completionTimeout hr hp none, raiseSrc_raised _ _ (by decide) (portsLive_mode (receives_iff.1 hr).2.2)⟩
  · intro n k x s hr hp hx hst ha
    exact completionTimeout_posts hr hx hst ha hp
  · intro n k c e hdr s hr
    exact exec_errors_of_not_receives hr k c e hdr

end Sys2Proof

namespace Sys2Proof

open Machine

/-! What an asynchronous event and the end of a command leave of any relation between states (R93, R118, R366). An event completes a command with
success alone, which `EventRel` does not say. -/

/-! ## Asynchronous events that are sent -/

/-- A relation that composes, and that holds across every change outside NVQ, every event sent and every entry of an error log. -/
structure AenRel (R : State → State → Prop) : Prop extends Composes R where
  outside : ∀ {s t}, t.nvq = s.nvq → R s t
  aen : ∀ c a s, R s (sendAen c a s)
  errLog : ∀ c e s, R s (logErr c e s)

namespace AenRel

variable {R : State → State → Prop} (hR : AenRel R)
include hR

theorem when {s t : State} {c : Prop} [Decidable c] (h : R s t) : R s (if c then t else s) := rel_ite h (hR.refl s)

theorem sendAll (a : Aen) (s : State) : R s (sendAll a s) := hR.each _ _ _ fun _ _ => hR.when (hR.aen ..)

theorem ctrlCapture (s : State) : R s (ctrlCapture s) := by
  have hsend (u : State) (hu : u.nvq = s.nvq) : R s (Machine.sendAll .telemetryNotice u) := hR.trans (hR.outside hu) (hR.sendAll ..)
  exact rel_ite (hR.refl s) (hsend _ rfl)

theorem reportSrc (i r q : Nat) (s : State) : R s (reportSrc i r q s) :=
  rel_ite (hR.trans (hR.each _ _ _ fun _ _ => hR.when (hR.errLog ..)) (hR.sendAll ..)) (rel_ite (hR.sendAll ..) (hR.when (hR.sendAll ..)))

theorem interrupt (i r q : Nat) (s : State) : R s (interrupt i r q s) := by
  have hwake : R s (wake { s with flt := { s.flt with ints := s.flt.ints ++ [i] } }) := hR.outside ((wake_only _).same .nvq (by decide))
  exact hR.trans hwake (rel_ite (hR.outside rfl) (hR.reportSrc ..))

theorem react (i r q : Nat) (s : State) : R s (react i r q s) := by
  unfold Machine.react
  extract_lets pin pinned isl chp blk told _ waits
  have hpin : R s pinned := hR.when (hR.trans (hR.outside ((pinAssert_only s).same .nvq (by decide))) (hR.ctrlCapture _))
  have hwaits : R s waits := hR.trans hpin (hR.trans (hR.when (hR.interrupt ..)) (hR.when (hR.outside rfl)))
  clear_value waits blk isl
  refine rel_ite hpin (rel_ite (hR.trans hpin (hR.outside ((askReset_only ..).same .nvq (by decide)))) ?_)
  split
  · exact hR.trans hwaits (hR.outside ((holdIsland_only ..).same .nvq (by decide)))
  · exact hwaits

theorem takeRails (i : Nat) (p n : Bool) (s : State) : R s (takeRails i p n s) := by
  unfold Machine.takeRails
  extract_lets x wasWire _ railed logged
  have hlogged : R s logged := hR.outside (by unfold logged; split <;> rfl)
  have hlatch : R logged (latchSrc i p n logged) := by
    refine hR.trans ?_ (hR.react ..)
    exact hR.outside rfl
  exact rel_ite (hR.refl s) (rel_ite (hR.trans hlogged hlatch) hlogged)

theorem raiseSrc (i : Nat) (s : State) : R s (raiseSrc i s) := hR.trans (hR.takeRails ..) (hR.takeRails ..)

/-- Placing, closing and queueing data change nothing of NVQ but by the fault sources they raise. -/
theorem work : WorkRel R where
  toComposes := hR.toComposes
  place h := hR.outside (h.same .nvq (by decide))
  raise := hR.raiseSrc

end AenRel

/-! ## The end of a command -/

/-- A relation that holds across every event sent, every change that leaves commands, queues and controllers, and the changes of a command's
context and reservation. -/
structure CmdRel (R : State → State → Prop) : Prop extends AenRel R where
  tables : ∀ {s t}, t.nvq.tags = s.nvq.tags → t.nvq.sqs = s.nvq.sqs → t.nvq.cqs = s.nvq.cqs → t.nvq.ctrls = s.nvq.ctrls → R s t
  ahead : ∀ k n s, R s (modTag k (fun t => { t with dma := { t.dma with ahead := n } }) s)
  reserved : ∀ {k t s} (n : Nat), tget s.nvq.tags k = some t → R s (setTag k { t with reserved := n } s)

namespace CmdRel

variable {R : State → State → Prop} (hR : CmdRel R)
include hR

theorem asks : AskRel R where
  toComposes := hR.toComposes
  ahead := hR.ahead
  send _ _ _ _ _ := hR.outside rfl

theorem closeAll (s : State) : R s (closeAll s) := by
  unfold Machine.closeAll
  extract_lets placed closed
  have hclosed : R s closed := hR.trans (hR.work.placeWaiting s) (hR.each _ _ _ fun _ _ => hR.work.closePartial ..)
  exact hR.trans hclosed (hR.tables rfl rfl rfl rfl)

theorem closeDue (s : State) : R s (closeDue s) := rel_ite (hR.closeAll s) (hR.refl s)

theorem afterFree (s : State) : R s (afterFree s) := by
  have hsweep : R (releaseKept s) (sweepOvl (releaseKept s)) := hR.tables rfl rfl rfl rfl
  exact hR.trans (hR.work.onFte _ s) (hR.trans hsweep (hR.closeDue _))

theorem returnResv (k : Nat) (s : State) : R s (returnResv k s) := by
  unfold Machine.returnResv
  split
  · exact hR.refl s
  · rename_i t ht
    extract_lets returned
    have h : R s returned := hR.reserved 0 ht
    split
    · exact h
    · exact hR.trans h (hR.outside rfl)

theorem dropReads (k : Nat) (s : State) : R s (dropReads k s) := by
  have hW := hR.work
  unfold Machine.dropReads
  extract_lets mine early ended go taken drained l left
  have hended : R s ended := hW.each _ _ _ fun d s => hW.each _ _ _ fun o s =>
    rel_ite (hW.trans (hW.onPwr ..) (rel_ite (hW.blkMod ..) (hW.refl _))) (hW.refl s)
  have hdrained : R s drained := hW.trans hended (hW.trans (hW.onFch ..) (hW.each _ _ _ fun d s => hW.drainN ..))
  exact hW.trans hdrained (hW.trans (hW.onSre ..) (hW.each _ _ _ fun l s => hW.onSre ..))

theorem sendFaults (l n : Nat) (s : State) : R s (sendFaults l n s) := by
  induction n generalizing s with
  | zero => exact hR.refl s
  | succ n ih =>
    unfold Machine.sendFaults
    split
    · exact hR.refl s
    · split
      · exact hR.refl s
      · split
        · exact hR.refl s
        · exact hR.trans (hR.asks.send ..) (ih _)

theorem nextXlat (l : Nat) (s : State) : R s (nextXlat l s) := by
  refine hR.trans (hR.sendFaults ..) (hR.each _ _ _ fun k s => ?_)
  split
  · exact rel_ite (hR.asks.lookahead ..) (hR.refl s)
  · exact hR.refl s

/-- The end of a command, once its tag may go. -/
theorem endCmd {k : Nat} (herase : ∀ s, R s (eraseTag k s)) (s : State) : R s (endCmd k s) := by
  unfold Machine.endCmd
  split
  · exact hR.refl s
  · rename_i t _
    extract_lets erased
    have hbefore : R s (Machine.dropReads k (Machine.returnResv k s)) := hR.trans (hR.returnResv ..) (hR.dropReads ..)
    have hmuted : R (eraseTag k (Machine.dropReads k (Machine.returnResv k s))) erased := hR.outside rfl
    have herased : R s erased := hR.trans hbefore (hR.trans (herase _) hmuted)
    have hdropped : R erased (dropReqs (·.tag == some k) erased) := hR.outside rfl
    exact hR.trans herased (hR.trans hdropped (hR.trans (hR.nextXlat ..) (hR.afterFree _)))

end CmdRel

end Sys2Proof

namespace Sys2Proof

open Machine

/-! Creating and deleting I/O queues (R104, Table 5-1). -/

/-! ## Commands that stay when others end -/

/-- A tag entry after the ends of other commands: its command is the same one, in the state it was or completed by an event. -/
structure TagLives (x y : Tag) : Prop where
  ctrl : y.ctrl = x.ctrl
  qid : y.qid = x.qid
  st : (y.st = x.st ∧ y.status = x.status) ∨ (y.st = .post ∧ y.status = .success)

theorem TagLives.refl (x : Tag) : TagLives x x := ⟨rfl, rfl, .inl ⟨rfl, rfl⟩⟩

theorem TagLives.trans {x y z : Tag} (h : TagLives x y) (g : TagLives y z) : TagLives x z := by
  refine ⟨g.ctrl.trans h.ctrl, g.qid.trans h.qid, ?_⟩
  rcases g.st with ⟨hst, hsc⟩ | hpost
  · rw [hst, hsc]; exact h.st
  · exact .inr hpost

/-- Commands but those with a tag in `E` stay, and no command is new. -/
structure TagsLive (E : Nat → Prop) (s t : State) : Prop where
  stay : ∀ j x, ¬E j → tget s.nvq.tags j = some x → ∃ y, tget t.nvq.tags j = some y ∧ TagLives x y
  came : ∀ j y, tget t.nvq.tags j = some y → ∃ x, tget s.nvq.tags j = some x ∧ y.ctrl = x.ctrl ∧ y.qid = x.qid

namespace TagsLive

variable {E : Nat → Prop} {s t : State}

theorem trans {u : State} (h : TagsLive E s t) (g : TagsLive E t u) : TagsLive E s u := by
  constructor
  · intro j x hj hx
    obtain ⟨y, hy, hxy⟩ := h.stay j x hj hx
    obtain ⟨z, hz, hyz⟩ := g.stay j y hj hy
    exact ⟨z, hz, hxy.trans hyz⟩
  · intro j z hz
    obtain ⟨y, hy, hc, hq⟩ := g.came j z hz
    obtain ⟨x, hx, hc', hq'⟩ := h.came j y hy
    exact ⟨x, hx, hc.trans hc', hq.trans hq'⟩

theorem of_tags (h : t.nvq.tags = s.nvq.tags) : TagsLive E s t :=
  ⟨fun _ x _ hx => ⟨x, h ▸ hx, .refl x⟩, fun _ y hy => ⟨y, h ▸ hy, rfl, rfl⟩⟩

/-- One tag's entry changes. -/
theorem of_tset {k : Nat} {x y : Tag} (hx : tget s.nvq.tags k = some x) (hy : TagLives x y) (ht : t.nvq.tags = tset s.nvq.tags k y) :
    TagsLive E s t := by
  constructor
  · intro j z _ hz
    rw [ht, tget_tset]
    split
    · rename_i hjk
      obtain rfl : x = z := Option.some.inj (hx.symm.trans (hjk ▸ hz))
      exact ⟨y, rfl, hy⟩
    · exact ⟨z, hz, .refl z⟩
  · intro j z hz
    rw [ht, tget_tset] at hz
    split at hz
    · rename_i hjk
      cases hz
      exact ⟨x, hjk ▸ hx, hy.ctrl, hy.qid⟩
    · exact ⟨z, hz, rfl, rfl⟩

theorem eraseTag {k : Nat} (hk : E k) (s : State) : TagsLive E s (eraseTag k s) := by
  let alone (t : Tag) : Tag := if t.fused = some k then { t with fused := none } else t
  have htags (j : Nat) : tget (Machine.eraseTag k s).nvq.tags j = (tget (terase s.nvq.tags k) j).map alone :=
    tget_tmap (terase s.nvq.tags k) (fun _ => alone) j
  have hlives (x : Tag) : TagLives x (alone x) := by
    unfold alone
    split <;> exact ⟨rfl, rfl, .inl ⟨rfl, rfl⟩⟩
  constructor
  · intro j x hj hx
    have hjk : j ≠ k := fun h => hj (h ▸ hk)
    exact ⟨alone x, by rw [htags, tget_terase_ne _ hjk, hx]; rfl, hlives x⟩
  · intro j y hy
    rw [htags] at hy
    obtain ⟨x, hx, rfl⟩ := Option.map_eq_some_iff.1 hy
    by_cases hjk : j = k
    · rw [hjk, tget_terase_same] at hx; cases hx
    · rw [tget_terase_ne _ hjk] at hx
      exact ⟨x, hx, (hlives x).ctrl, (hlives x).qid⟩

theorem setPost (k : Nat) (d : Bool) (a b : Nat) (m : Tag → Nat) (s : State) : TagsLive E s (setPost k .success d a b m s) := by
  unfold Machine.setPost
  split
  · exact .of_tags rfl
  · rename_i x hx
    split
    · exact .of_tags rfl
    · extract_lets _ _ y
      have hlives : TagLives x y := ⟨rfl, rfl, .inr ⟨rfl, rfl⟩⟩
      exact .of_tset hx hlives rfl

theorem modTag {f : Tag → Tag} (hf : ∀ x, TagLives x (f x)) (k : Nat) (s : State) : TagsLive E s (modTag k f s) := by
  cases hk : tget s.nvq.tags k with
  | none => exact .of_tags (by simp [Machine.modTag, onNvq, tmod, hk])
  | some x => exact .of_tset hk (hf x) (by simp [Machine.modTag, onNvq, tmod, hk])

theorem sendAen (c : Nat) (a : Aen) (s : State) : TagsLive E s (sendAen c a s) := by
  unfold Machine.sendAen
  split
  · exact .of_tags rfl
  · rename_i x _
    split
    · exact .of_tags rfl
    · split
      · exact .of_tags rfl
      · rename_i rest _
        have hset : TagsLive E s (setCtrl c { x with aers := rest } s) := .of_tags rfl
        exact hset.trans (setPost ..)

theorem rel : CmdRel (TagsLive E) where
  refl _ := .of_tags rfl
  trans := .trans
  outside h := .of_tags (by rw [h])
  aen := sendAen
  errLog _ _ _ := .of_tags rfl
  tables h _ _ _ := .of_tags h
  ahead k n s := by
    refine .modTag (fun x => ?_) k s
    exact ⟨rfl, rfl, .inl ⟨rfl, rfl⟩⟩
  reserved n ht := by
    refine .of_tset ht ?_ rfl
    exact ⟨rfl, rfl, .inl ⟨rfl, rfl⟩⟩

end TagsLive

/-! ## The commands of a queue end -/

/-- The end of a command, if it passes a test. -/
def endIf (p : Tag → Bool) (k : Nat) (s : State) : State :=
  match tget s.nvq.tags k with
  | some t => if p t then endCmd k s else s
  | none => s

theorem endCmds_eq (p : Tag → Bool) (s : State) : endCmds p s = forEach (tkeys s.nvq.tags) (endIf p) s := rfl

/-- The tags of commands that pass a test. -/
def tagsOf (p : Tag → Bool) (s : State) (k : Nat) : Prop := ∃ x, tget s.nvq.tags k = some x ∧ p x = true

/-- No command of tag `k` passes a test. -/
def NoneOf (p : Tag → Bool) (k : Nat) (s : State) : Prop := ∀ x, tget s.nvq.tags k = some x → p x = false

theorem endIf_none (p : Tag → Bool) (k : Nat) (s : State) : NoneOf p k (endIf p k s) := by
  unfold endIf
  intro x hx
  split at hx
  · rename_i t ht
    split at hx
    · rw [(endCmd_gone k s).2] at hx; cases hx
    · obtain rfl : t = x := Option.some.inj (ht.symm.trans hx)
      simpa using ‹¬p t = true›
  · rename_i hk
    rw [hk] at hx; cases hx

theorem endIf_gone (p : Tag → Bool) (k : Nat) (s : State) : CtrlsGone [] s (endIf p k s) := by
  unfold endIf
  split
  · exact rel_ite (endCmd_gone k s).1 (CtrlsGone.composes.refl s)
  · exact CtrlsGone.composes.refl s

section

variable {p : Tag → Bool} (hp : ∀ x y : Tag, y.ctrl = x.ctrl → y.qid = x.qid → p y = p x)
include hp

theorem NoneOf.of_live {E : Nat → Prop} {k : Nat} {s t : State} (h : NoneOf p k s) (g : TagsLive E s t) : NoneOf p k t := by
  intro y hy
  obtain ⟨x, hx, hc, hq⟩ := g.came k y hy
  rw [hp x y hc hq, h x hx]

theorem endIf_live {s0 s : State} (h : TagsLive (tagsOf p s0) s0 s) (k : Nat) : TagsLive (tagsOf p s0) s (endIf p k s) := by
  unfold endIf
  split
  · rename_i t ht
    split
    · rename_i hpt
      obtain ⟨x, hx, hc, hq⟩ := h.came k t ht
      have hk : tagsOf p s0 k := ⟨x, hx, by rw [← hp x t hc hq, hpt]⟩
      exact TagsLive.rel.endCmd (.eraseTag hk) s
    · exact .of_tags rfl
  · exact .of_tags rfl

theorem endIfs_live {s0 s : State} (l : List Nat) (h : TagsLive (tagsOf p s0) s0 s) :
    TagsLive (tagsOf p s0) s (forEach l (endIf p) s) ∧ ∀ k ∈ l, NoneOf p k (forEach l (endIf p) s) := by
  induction l generalizing s with
  | nil => exact ⟨.of_tags rfl, nofun⟩
  | cons k l ih =>
    have h1 := endIf_live hp h k
    obtain ⟨h2, hl⟩ := ih (h.trans h1)
    refine ⟨h1.trans h2, fun j hj => ?_⟩
    rcases List.mem_cons.1 hj with rfl | hj
    · exact (endIf_none p j s).of_live hp h2
    · exact hl j hj

/-- The commands that pass a test of their queue end; the others stay. -/
theorem endCmds_live (s : State) :
    CtrlsGone [] s (endCmds p s) ∧ TagsLive (tagsOf p s) s (endCmds p s) ∧ ∀ k, NoneOf p k (endCmds p s) := by
  rw [endCmds_eq]
  obtain ⟨hlive, hnone⟩ := endIfs_live hp (tkeys s.nvq.tags) (s0 := s) (s := s) (.of_tags rfl)
  refine ⟨CtrlsGone.composes.each _ _ _ (endIf_gone p), hlive, fun k => ?_⟩
  by_cases hk : k ∈ tkeys s.nvq.tags
  · exact hnone k hk
  · refine NoneOf.of_live hp (fun x hx => absurd ?_ hk) hlive
    exact List.mem_map.2 ⟨(k, x), Tests.mem_of_tget hx, rfl⟩

end

/-! ## A completion that is prepared -/

theorem failedPair_of_success (k : Nat) (s : State) : failedPair k .success s = none := by
  unfold failedPair
  split
  · rfl
  · exact if_neg fun h => h.1 rfl

theorem post_success_nvq (k dw : Nat) (s : State) :
    ∃ m, (post k .success dw s).nvq = (setPost k .success false dw 0 m s).nvq := by
  simp only [post, postDnr, failedPair_of_success]
  exact enterPost_nvq k .success false dw 0 s

theorem setPost_nvq (k : Nat) (sc : Sc) (d : Bool) (a b : Nat) (m : Tag → Nat) (s : State) :
    ∃ tags n, (setPost k sc d a b m s).nvq = { s.nvq with tags, postSeq := n } := by
  unfold setPost
  split
  · exact ⟨_, _, rfl⟩
  · split
    · exact ⟨_, _, rfl⟩
    · exact ⟨_, _, rfl⟩

theorem enterPost_tables (k : Nat) (sc : Sc) (d : Bool) (a b : Nat) (s : State) :
    ∃ tags n, (enterPost k sc d a b s).nvq = { s.nvq with tags, postSeq := n } := by
  obtain ⟨m, h⟩ := enterPost_nvq k sc d a b s
  rw [h]
  exact setPost_nvq ..

/-- A completion changes the tags and the count of completions, and nothing else of NVQ. -/
theorem postDnr_tables (k : Nat) (sc : Sc) (d : Bool) (a b : Nat) (s : State) :
    ∃ tags n, (postDnr k sc d a b s).nvq = { s.nvq with tags, postSeq := n } := by
  unfold postDnr
  split
  · rename_i o _
    obtain ⟨tags, n, h⟩ := enterPost_tables k sc d a b s
    obtain ⟨tags', n', h'⟩ := enterPost_tables o .failedFused (scDnr .failedFused) 0 0 (enterPost k sc d a b s)
    exact ⟨tags', n', by rw [h', h]⟩
  · exact enterPost_tables ..

theorem post_tables (k : Nat) (sc : Sc) (dw : Nat) (s : State) :
    ∃ tags n, (post k sc dw s).nvq = { s.nvq with tags, postSeq := n } := postDnr_tables ..

/-- A completion once prepared keeps its own (R123). -/
theorem post_of_posted {k : Nat} {x : Tag} {s : State} (hx : tget s.nvq.tags k = some x) (hst : x.st = .post) (sc : Sc) (dw : Nat) :
    post k sc dw s = s := by
  have hpair : failedPair k sc s = none := by simp [failedPair, hx, hst]
  simp [post, postDnr, hpair, enterPost, setPost, hx, hst]

/-! ## The four commands -/

theorem exec_createIoCompletionQueue {k : Nat} {t : Tag} {s : State} (h : AdminRuns k 0x05 s t) :
    exec (.createIoCompletionQueue k) s = .next (
      let qid := fld (cdw t.ent 10) 0 16
      let n := fld (cdw t.ent 10) 16 16 + 1
      let iv := fld (cdw t.ent 11) 16 16
      if qid = 0 ∨ (queueAlloc s t.ctrl).2 < qid ∨ 16384 ≤ (ioCqs s).length ∨ thas s.nvq.cqs (qkey t.ctrl qid) = true then
        post k .invalidQid 0 s
      else if n < 2 ∨ (ctrlAt s t.ctrl).cap.mqes + 1 < n then post k .invalidQueueSize 0 s
      else if bitOf (cdw t.ent 11) 0 = false then post k .invalidField 0 s
      else if viRes s t.ctrl ≤ iv then post k .invalidVector 0 s
      else post k .success 0 { s with nvq := { s.nvq with
        cqs := tset s.nvq.cqs (qkey t.ctrl qid) { size := n, iv, ien := bitOf (cdw t.ent 11) 1 } } }) := by
  refine congrArg Host.Outcome.next ?_
  rw [admin_of_noData h rfl]
  simp only [Bool.or_eq_true, decide_eq_true_eq, Bool.not_eq_true', or_assoc, onNvq, Nat.lt_sub_iff_add_lt]

theorem exec_createIoSubmissionQueue {k : Nat} {t : Tag} {s : State} (h : AdminRuns k 0x01 s t) :
    exec (.createIoSubmissionQueue k) s = .next (
      let qid := fld (cdw t.ent 10) 0 16
      let n := fld (cdw t.ent 10) 16 16 + 1
      let cq := fld (cdw t.ent 11) 16 16
      if qid = 0 ∨ (queueAlloc s t.ctrl).1 < qid ∨ 16384 ≤ (ioSqs s).length ∨ thas s.nvq.sqs (qkey t.ctrl qid) = true then
        post k .invalidQid 0 s
      else if n < 2 ∨ (ctrlAt s t.ctrl).cap.mqes + 1 < n then post k .invalidQueueSize 0 s
      else if bitOf (cdw t.ent 11) 0 = false then post k .invalidField 0 s
      else if cq = 0 ∨ thas s.nvq.cqs (qkey t.ctrl cq) = false then post k .completionQueueInvalid 0 s
      else post k .success 0 { s with nvq := { s.nvq with
        sqs := tset s.nvq.sqs (qkey t.ctrl qid) { size := n, cqid := cq, prio := fld (cdw t.ent 11) 1 2 } } }) := by
  refine congrArg Host.Outcome.next ?_
  rw [admin_of_noData h rfl]
  simp only [Bool.or_eq_true, decide_eq_true_eq, Bool.not_eq_true', or_assoc, onNvq, Nat.lt_sub_iff_add_lt]

theorem exec_deleteIoCompletionQueue {k : Nat} {t : Tag} {s : State} (h : AdminRuns k 0x04 s t) :
    exec (.deleteIoCompletionQueue k) s = .next (
      let qid := fld (cdw t.ent 10) 0 16
      if qid = 0 ∨ thas s.nvq.cqs (qkey t.ctrl qid) = false then post k .invalidQid 0 s
      else if (s.nvq.sqs.any fun e => e.1 / 65536 == t.ctrl && e.2.cqid == qid) = true then post k .invalidQDeletion 0 s
      else post k .success 0 { s with nvq := { s.nvq with cqs := terase s.nvq.cqs (qkey t.ctrl qid) } }) := by
  refine congrArg Host.Outcome.next ?_
  rw [admin_of_noData h rfl]
  simp only [Bool.or_eq_true, decide_eq_true_eq, Bool.not_eq_true', onNvq]

/-- The queue goes, and its commands. -/
def queueDeleted (c qid : Nat) (s : State) : State :=
  let s1 := endCmds (fun x => x.ctrl == c && x.qid == qid) s
  { s1 with nvq := { s1.nvq with sqs := terase s1.nvq.sqs (qkey c qid) } }

theorem exec_deleteIoSubmissionQueue {k : Nat} {t : Tag} {s : State} (h : AdminRuns k 0x00 s t) :
    exec (.deleteIoSubmissionQueue k) s = .next (
      let qid := fld (cdw t.ent 10) 0 16
      if qid = 0 ∨ thas s.nvq.sqs (qkey t.ctrl qid) = false then post k .invalidQid 0 s
      else post k .success 0 (queueDeleted t.ctrl qid s)) := by
  refine congrArg Host.Outcome.next ?_
  rw [admin_of_noData h rfl]
  simp only [Bool.or_eq_true, decide_eq_true_eq, Bool.not_eq_true', onNvq, queueDeleted]

/-! ## The submission queue that goes -/

theorem NoneOf.of_nvq {p : Tag → Bool} {k : Nat} {s t : State} (h : NoneOf p k s) (ht : t.nvq.tags = s.nvq.tags) : NoneOf p k t := by
  simpa only [NoneOf, ht] using h

theorem post_success_live (E : Nat → Prop) (k dw : Nat) (s : State) : TagsLive E s (post k .success dw s) := by
  obtain ⟨m, h⟩ := post_success_nvq k dw s
  exact .trans (.setPost k false dw 0 m s) (.of_tags (by rw [h]))

/-- A command in RUN, or completed with success by an event, is then completed with success. -/
theorem posted_success_of_lives {k : Nat} {x y : Tag} {s : State} (hy : tget s.nvq.tags k = some y) (hxy : TagLives x y) (hx : x.st ≠ .post)
    (dw : Nat) : Posted k .success (post k .success dw s) := by
  by_cases hst : y.st = .post
  · have hsc : y.status = .success := by
      rcases hxy.st with ⟨h, -⟩ | ⟨-, h⟩
      · exact absurd (h ▸ hst) hx
      · exact h
    rw [post_of_posted hy hst]
    exact ⟨y, hy, hst, hsc⟩
  · exact post_posted hy hst ..

theorem deleteIoSubmissionQueue_deletes {k : Nat} {t : Tag} {s : State} (h : AdminRuns k 0x00 s t) {qid : Nat} (hq : qid ≠ 0) :
    let u := post k .success 0 (queueDeleted t.ctrl qid s)
    tget u.nvq.sqs (qkey t.ctrl qid) = none ∧ (∀ j, j ≠ qkey t.ctrl qid → SqKept j s u) ∧
      (∀ j x, tget u.nvq.tags j = some x → x.ctrl ≠ t.ctrl ∨ x.qid ≠ qid) ∧ Posted k .success u := by
  intro u
  let p (x : Tag) : Bool := x.ctrl == t.ctrl && x.qid == qid
  have hp (x y : Tag) (hc : y.ctrl = x.ctrl) (hq : y.qid = x.qid) : p y = p x := by simp only [p, hc, hq]
  obtain ⟨hgone, hlive, hnone⟩ := endCmds_live hp s
  obtain ⟨tags, n, hu⟩ := post_tables k .success 0 (queueDeleted t.ctrl qid s)
  have hsqs : u.nvq.sqs = terase (endCmds p s).nvq.sqs (qkey t.ctrl qid) := by unfold u; rw [hu]; rfl
  have hown : ¬tagsOf p s k := by
    rintro ⟨x, hx, hpx⟩
    obtain rfl : t = x := Option.some.inj (h.tag.symm.trans hx)
    have hx0 : t.qid = qid := by simp only [p, Bool.and_eq_true, beq_iff_eq] at hpx; exact hpx.2
    exact hq (hx0 ▸ h.run.2.1)
  obtain ⟨y, hy, hty⟩ := hlive.stay k t hown h.tag
  refine ⟨?_, fun j hj => ?_, fun j x hx => ?_, ?_⟩
  · rw [hsqs, tget_terase_same]
  · have hkept : SqKept j s (endCmds p s) := (hgone.cmds.others j List.not_mem_nil).1
    rw [SqKept, hsqs, tget_terase_ne _ hj]
    exact hkept
  · have hj : NoneOf p j (queueDeleted t.ctrl qid s) := (hnone j).of_nvq rfl
    have hx' := hj.of_live hp (post_success_live (fun _ => False) k 0 _) x hx
    simpa only [p, Bool.and_eq_false_iff, beq_eq_false_iff_ne] using hx'
  · exact posted_success_of_lives (s := queueDeleted t.ctrl qid s) hy hty h.st_ne_post 0

/-- Settles O44, command by command; what a deleted queue leaves, by what the end of its commands leaves. -/
theorem ioQueueCommands : Obligations.IoQueueCommands := by
  unfold Obligations.IoQueueCommands
  refine ⟨fun k t s h => ?_, fun k t s h => ?_, fun k t s h => ?_, fun k t s h => ?_⟩
  · intro qid n iv mqes taken
    have hexec := exec_createIoCompletionQueue h
    refine ⟨fun ht => ?_, fun ht hn => ?_, fun ht h2 hn hpc hiv => ?_, fun ht h2 hn hpc hiv => ?_⟩ <;>
      refine hexec.trans (congrArg Host.Outcome.next ?_)
    · exact if_pos ht
    · exact (if_neg ht).trans (if_pos hn)
    · exact (if_neg ht).trans ((if_neg (by omega)).trans ((if_neg (ne_false_of_eq_true hpc)).trans (if_pos hiv)))
    · exact (if_neg ht).trans ((if_neg (by omega)).trans ((if_neg (ne_false_of_eq_true hpc)).trans (if_neg (Nat.not_le.2 hiv))))
  · intro qid n cq mqes taken
    have hexec := exec_createIoSubmissionQueue h
    refine ⟨fun ht => ?_, fun ht hn => ?_, fun ht h2 hn hpc hcq => ?_, fun ht h2 hn hpc hcq hhas => ?_⟩ <;>
      refine hexec.trans (congrArg Host.Outcome.next ?_)
    · exact if_pos ht
    · exact (if_neg ht).trans (if_pos hn)
    · exact (if_neg ht).trans ((if_neg (by omega)).trans ((if_neg (ne_false_of_eq_true hpc)).trans (if_pos hcq)))
    · exact (if_neg ht).trans ((if_neg (by omega)).trans ((if_neg (ne_false_of_eq_true hpc)).trans (if_neg (not_or.2 ⟨hcq, ne_false_of_eq_true hhas⟩))))
  · intro qid
    have hexec := exec_deleteIoSubmissionQueue h
    refine ⟨fun hno => hexec.trans (congrArg Host.Outcome.next (if_pos hno)), fun hq hhas => ?_⟩
    exact ⟨_, hexec.trans (congrArg Host.Outcome.next (if_neg (not_or.2 ⟨hq, ne_false_of_eq_true hhas⟩))), deleteIoSubmissionQueue_deletes h hq⟩
  · intro qid used
    have hexec := exec_deleteIoCompletionQueue h
    refine ⟨fun hno => ?_, fun hq hhas hused => ?_, fun hq hhas hused => ?_⟩ <;> refine hexec.trans (congrArg Host.Outcome.next ?_)
    · exact if_pos hno
    · exact (if_neg (not_or.2 ⟨hq, ne_false_of_eq_true hhas⟩)).trans (if_pos hused)
    · exact (if_neg (not_or.2 ⟨hq, ne_false_of_eq_true hhas⟩)).trans (if_neg (ne_true_of_eq_false hused))

end Sys2Proof

namespace Sys2Proof

open Machine

/-! Doorbells and the contexts of submission queues (R106 to R108). -/

/-! ## Queues -/

theorem tget_tmod {α : Type} (t : Tbl α) (k : Nat) (f : α → α) (j : Nat) :
    tget (tmod t k f) j = if j = k then (tget t k).map f else tget t j := by
  unfold tmod
  split
  · rename_i v hv
    rw [tget_tset, hv]
    rfl
  · rename_i hk
    split
    · rename_i hj; rw [hj, hk]; rfl
    · rfl

theorem sqAt_modSq (k : Nat) (f : Sq → Sq) (s : State) (j : Nat) :
    sqAt (modSq k f s) j = if j = k then (sqAt s k).map f else sqAt s j := tget_tmod ..

theorem modSq_only (k : Nat) (f : Sq → Sq) (s : State) : OnlyChanges [.nvq] s (modSq k f s) := onNvq_only ..

theorem sqAt_of_sqs {s t : State} (h : t.nvq.sqs = s.nvq.sqs) (k : Nat) : sqAt t k = sqAt s k := by rw [sqAt, h, sqAt]

theorem wake_mode (s : State) : (wake s).sys.mode = s.sys.mode := by rw [(wake_keeps s).sys]

theorem wake_nvq (s : State) : (wake s).nvq = s.nvq := (wake_only s).same .nvq (by decide)

/-- A queue but for its hot context. -/
def coldSq (q : Sq) : Sq := { q with hot := false, used := 0 }

/-- Queues stay but for which contexts are hot, and nothing else changes. -/
structure HotKeeps (s t : State) : Prop where
  queues : ∀ k, (sqAt t k).map coldSq = (sqAt s k).map coldSq
  nvq : t.nvq = { s.nvq with sqs := t.nvq.sqs, useSeq := t.nvq.useSeq }
  only : OnlyChanges [.nvq] s t

theorem HotKeeps.refl (s : State) : HotKeeps s s := ⟨fun _ => rfl, rfl, .refl _ _⟩

theorem HotKeeps.trans {s t u : State} (h : HotKeeps s t) (g : HotKeeps t u) : HotKeeps s u :=
  ⟨fun k => (g.queues k).trans (h.queues k), by rw [g.nvq, h.nvq], h.only.trans g.only⟩

theorem modSq_hot {f : Sq → Sq} (hf : ∀ q, coldSq (f q) = coldSq q) (k : Nat) (s : State) : HotKeeps s (modSq k f s) := by
  refine ⟨fun j => ?_, rfl, modSq_only ..⟩
  rw [sqAt_modSq]
  split
  · rename_i hj
    rw [hj, Option.map_map]
    congr 1
    exact funext hf
  · rfl

/-- A context becomes hot, the most recently used. -/
def heated (k : Nat) (s : State) : State :=
  modSq k (fun q => { q with hot := true, used := s.nvq.useSeq }) (onNvq (fun n => { n with useSeq := n.useSeq + 1 }) s)

theorem heated_hot (k : Nat) (s : State) : HotKeeps s (heated k s) := by
  refine .trans ?_ (modSq_hot ?_ k _)
  · exact ⟨fun _ => rfl, rfl, onNvq_only ..⟩
  · exact fun _ => rfl

/-- R108: which contexts can become hot for an active queue's. -/
theorem makeHot_cases (k : Nat) (s : State) : makeHot k s = s ∨ makeHot k s = heated k s ∨
    ∃ j, makeHot k s = heated k (modSq j (fun q => { q with hot := false }) s) := by
  unfold makeHot
  extract_lets used
  split
  · exact .inl rfl
  · split
    · exact .inr (.inl rfl)
    · split
      · exact .inr (.inl rfl)
      · split
        · rename_i j _
          exact .inr (.inr ⟨j, rfl⟩)
        · exact .inl rfl

theorem makeHot_hot (k : Nat) (s : State) : HotKeeps s (makeHot k s) := by
  rcases makeHot_cases k s with h | h | ⟨j, h⟩ <;> rw [h]
  · exact .refl s
  · exact heated_hot ..
  · have hcool : HotKeeps s (modSq j (fun q => { q with hot := false }) s) := by
      refine modSq_hot ?_ j s
      exact fun _ => rfl
    exact hcool.trans (heated_hot ..)

theorem makeHot_of_room {k : Nat} {q : Sq} {s : State} (hq : sqAt s k = some q) (hroom : hotCount s < 4096) : makeHot k s = heated k s := by
  simp only [makeHot, hq, if_pos hroom, ite_self]
  rfl

/-! ## Doorbells -/

theorem doorbellsUp_mode {s : State} (h : doorbellsUp s = true) : s.sys.mode ≠ .dormant := by
  intro hd
  rw [doorbellsUp, hd] at h
  exact absurd h (by decide)

/-- An invalid doorbell write is an event with its source, and leaves the queues (R106). -/
theorem badDoorbell_raises (c : Nat) (a : Aen) {s : State} (hm : s.sys.mode ≠ .dormant) :
    let t := badDoorbell c a s
    Latched 183 t ∧ EvtSet .nvqEvt 4 t ∧ t.nvq.sqs = s.nvq.sqs ∧ t.nvq.cqs = s.nvq.cqs := by
  intro t
  obtain ⟨hlatch, hraise⟩ : RaisedFrom 183 _ (raiseSrc 183 (evt .nvqEvt 4 (wake s))) :=
    raiseSrc_raised 183 _ (by decide) (by rw [evt_sys, wake_mode]; exact hm)
  have haen : FaultKeeps _ t := sendAen_keeps c a _
  have hkeeps := hraise.trans haen
  have hevt := (evtSet_evt .nvqEvt 4 (by decide) (wake s)).of_onlyRegs hkeeps.regs (by decide)
  refine ⟨haen.latched 183 hlatch, hevt, ?_, ?_⟩ <;> rw [hkeeps.nvq, evt_nvq, wake_nvq]

theorem doorbells_reach {c : Nat} {s : State} (hc : thas s.nvq.ctrls c = true) (hd : doorbellsUp s = true) :
    ¬(!thas s.nvq.ctrls c || !doorbellsUp s) = true := by simp [hc, hd]

section

variable {c qid v : Nat} {s : State} (hc : thas s.nvq.ctrls c = true) (hd : doorbellsUp s = true)
include hc hd

theorem exec_sqTailDoorbell_invalid (h : sqAt s (qkey c qid) = none ∨ ∃ q, sqAt s (qkey c qid) = some q ∧ q.size ≤ v) :
    ∃ a, exec (.sqTailDoorbell c qid v) s = .next (badDoorbell c a s) := by
  simp only [exec, execSqTailDoorbell, if_neg (doorbells_reach hc hd)]
  rcases h with h | ⟨q, h, hv⟩
  · exact ⟨.invalidDoorbellReg, by simp only [h]⟩
  · exact ⟨.invalidDoorbellValue, by simp only [h, if_pos hv]⟩

/-- The tail that a valid doorbell write captures. -/
def tailWritten (k v : Nat) (s : State) : State :=
  wake (modSq k (fun q => { q with tail := v, lone := q.lone && q.tail == v }) s)

theorem exec_sqTailDoorbell_valid {q : Sq} (hq : sqAt s (qkey c qid) = some q) (hv : v < q.size) : exec (.sqTailDoorbell c qid v) s =
    .next (if qid ≠ 0 ∧ v ≠ q.head then makeHot (qkey c qid) (tailWritten (qkey c qid) v s) else tailWritten (qkey c qid) v s) := by
  simp only [exec, execSqTailDoorbell, if_neg (doorbells_reach hc hd), hq, if_neg (Nat.not_le.2 hv)]
  rfl

theorem exec_cqHeadDoorbell_valid {q : Cq} (hq : tget s.nvq.cqs (qkey c qid) = some q) (hv : v < q.size)
    (hposted : (v + q.size - q.head) % q.size ≤ (q.tail + q.size - q.head) % q.size) : exec (.cqHeadDoorbell c qid v) s =
    .next (onNvq (fun n => { n with cqs := tset n.cqs (qkey c qid) { q with head := v } }) (wake s)) := by
  simp only [exec, execCqHeadDoorbell, if_neg (doorbells_reach hc hd), hq]
  rw [if_neg]
  omega

theorem exec_cqHeadDoorbell_noQueue (hq : tget s.nvq.cqs (qkey c qid) = none) :
    exec (.cqHeadDoorbell c qid v) s = .next (badDoorbell c .invalidDoorbellReg s) := by
  simp only [exec, execCqHeadDoorbell, if_neg (doorbells_reach hc hd), hq]

end

theorem exec_doorbells_down {s : State} (hd : doorbellsUp s = false) (c qid v : Nat) :
    exec (.sqTailDoorbell c qid v) s = .next s ∧ exec (.cqHeadDoorbell c qid v) s = .next s := by
  have hno : (!thas s.nvq.ctrls c || !doorbellsUp s) = true := by simp [hd]
  exact ⟨by simp only [exec, execSqTailDoorbell, if_pos hno], by simp only [exec, execCqHeadDoorbell, if_pos hno]⟩

/-! ## What a valid doorbell leaves -/

theorem tailWritten_sqAt (k v : Nat) (s : State) (j : Nat) : sqAt (tailWritten k v s) j =
    if j = k then (sqAt s k).map fun q => { q with tail := v, lone := q.lone && q.tail == v } else sqAt s j := by
  rw [tailWritten, sqAt_of_sqs (congrArg Nvq.sqs (wake_nvq _)), sqAt_modSq]

theorem tailWritten_only (k v : Nat) (s : State) : OnlyChanges [.nvq, .sys] s (tailWritten k v s) :=
  ((modSq_only ..).wide _ rfl).trans ((wake_only _).wide _ rfl)

/-- A valid doorbell write gives its queue its tail, and every other queue keeps its own (R106). -/
structure TailSet (k v : Nat) (q : Sq) (s t : State) : Prop where
  own : ∃ q', sqAt t k = some q' ∧ q'.tail = v ∧ q'.head = q.head ∧ q'.size = q.size ∧ q'.stopped = q.stopped
  others : ∀ j, j ≠ k → (sqAt t j).map (fun x => (x.tail, x.head, x.size)) = (sqAt s j).map fun x => (x.tail, x.head, x.size)
  rest : t.nvq.tags = s.nvq.tags ∧ t.nvq.cqs = s.nvq.cqs
  only : OnlyChanges [.nvq, .sys] s t

theorem TailSet.of_hot {k v : Nat} {q : Sq} {s t u : State} (h : TailSet k v q s t) (g : HotKeeps t u) : TailSet k v q s u := by
  refine ⟨?_, fun j hj => ?_, ?_, h.only.trans (g.only.wide _ rfl)⟩
  · obtain ⟨q', hq', htail, hhead, hsize, hstop⟩ := h.own
    have hcold := g.queues k
    rw [hq', Option.map_some, Option.map_eq_some_iff] at hcold
    obtain ⟨q'', hq'', hsame⟩ := hcold
    simp only [coldSq, Sq.mk.injEq] at hsame
    exact ⟨q'', hq'', by simp [hsame, htail], by simp [hsame, hhead], by simp [hsame, hsize], by simp [hsame, hstop]⟩
  · have hcore := congrArg (Option.map fun x : Sq => (x.tail, x.head, x.size)) (g.queues j)
    rw [Option.map_map, Option.map_map] at hcore
    exact Eq.trans hcore (h.others j hj)
  · rw [g.nvq]; exact h.rest

theorem tailWritten_set {k v : Nat} {q : Sq} {s : State} (hq : sqAt s k = some q) : TailSet k v q s (tailWritten k v s) := by
  have hnvq : (tailWritten k v s).nvq = (modSq k (fun q => { q with tail := v, lone := q.lone && q.tail == v }) s).nvq := wake_nvq _
  have hown : sqAt (tailWritten k v s) k = some { q with tail := v, lone := q.lone && q.tail == v } := by
    rw [tailWritten_sqAt, if_pos rfl, hq]; rfl
  refine ⟨⟨_, hown, rfl, rfl, rfl, rfl⟩, fun j hj => ?_, by rw [hnvq]; exact ⟨rfl, rfl⟩, tailWritten_only ..⟩
  rw [tailWritten_sqAt, if_neg hj]

/-- Settles O41: a valid doorbell by what hot contexts leave of a queue, an invalid one by what its source keeps. -/
theorem doorbellsAndContexts : Obligations.DoorbellsAndContexts := by
  unfold Obligations.DoorbellsAndContexts
  refine ⟨?_, ?_, ?_, ?_, ?_, ?_⟩
  · intro c qid v q s hc hd hq hv
    have hset : TailSet (qkey c qid) v q s (tailWritten (qkey c qid) v s) := tailWritten_set hq
    refine ⟨_, exec_sqTailDoorbell_valid hc hd hq hv, ?_⟩
    have hend : TailSet (qkey c qid) v q s (if qid ≠ 0 ∧ v ≠ q.head then makeHot (qkey c qid) (tailWritten (qkey c qid) v s)
        else tailWritten (qkey c qid) v s) := by
      split
      · exact hset.of_hot (makeHot_hot ..)
      · exact hset
    exact ⟨hend.own, hend.others, hend.rest.1, hend.rest.2, hend.only⟩
  · intro c qid v s hc hd h
    obtain ⟨a, ha⟩ := exec_sqTailDoorbell_invalid hc hd h
    exact ⟨_, ha, badDoorbell_raises c a (doorbellsUp_mode hd)⟩
  · intro c qid v q s hc hd hq hv hposted
    refine ⟨_, exec_cqHeadDoorbell_valid hc hd hq hv hposted, ?_, ((wake_only s).wide _ rfl).trans ((onNvq_only ..).wide _ rfl)⟩
    rw [onNvq_nvq, wake_nvq]
  · intro c qid v s hc hd hq
    obtain ⟨hlatch, hevt, -, hcqs⟩ := badDoorbell_raises c .invalidDoorbellReg (doorbellsUp_mode hd)
    exact ⟨_, exec_cqHeadDoorbell_noQueue hc hd hq, hlatch, hevt, hcqs⟩
  · intro c qid v s hd
    exact exec_doorbells_down hd c qid v
  · intro c qid q s hq hhot hqid hact hroom
    have hgo : (!q.hot && qid != 0 && sqActive s (qkey c qid) q) = true := by simp [hhot, hqid, hact]
    have hexec : exec (.contextMadeHot c qid) s = .next (heated (qkey c qid) s) := by
      simp only [exec, execContextMadeHot, hq, if_pos hgo, makeHot_of_room hq hroom]
    have hsqs (j : Nat) : sqAt (onNvq (fun n => { n with useSeq := n.useSeq + 1 }) s) j = sqAt s j := rfl
    refine ⟨_, hexec, ?_, fun j hj => ?_, (heated_hot ..).only⟩ <;> rw [heated, sqAt_modSq, hsqs]
    · rw [if_pos rfl, hq]; rfl
    · rw [if_neg hj, hsqs]

end Sys2Proof

namespace Sys2Proof

open Machine

/-! Admission to RUN and the posting of completions (R111, R123, R40, Table 5-6). -/

/-! ## A completion that is prepared -/

/-- A command's entry with its completion prepared. -/
def completed (t : Tag) (sc : Sc) (dnr : Bool) (dw0 dw1 postSeq moved : Nat) : Tag :=
  { t with st := .post, status := sc, dnr, dw0, dw1, postSeq, dma := { t.dma with st := .idle }, lkp := { t.lkp with st := .idle }, moved }

section

variable {k : Nat} {t : Tag} {s : State} (ht : tget s.nvq.tags k = some t) (hst : t.st ≠ .post)
include ht hst

theorem setPost_completes (sc : Sc) (d : Bool) (a b : Nat) (m : Tag → Nat) : (setPost k sc d a b m s).nvq =
    { s.nvq with tags := tset s.nvq.tags k (completed t sc d a b s.nvq.postSeq (m t)), postSeq := s.nvq.postSeq + 1 } := by
  simp only [setPost, ht, if_neg hst, completed]

/-- A command of no pair ends alone. -/
theorem postDnr_completes (hf : t.fused = none) (sc : Sc) (d : Bool) (a b : Nat) : ∃ moved, (postDnr k sc d a b s).nvq =
    { s.nvq with tags := tset s.nvq.tags k (completed t sc d a b s.nvq.postSeq moved), postSeq := s.nvq.postSeq + 1 } := by
  simp only [postDnr, failedPair_of_unpaired ht hf]
  obtain ⟨m, hm⟩ := enterPost_nvq k sc d a b s
  exact ⟨m t, by rw [hm, setPost_completes ht hst]⟩

end

/-! ## Admission -/

theorem outHit_only (k : Option Nat) (s : State) : OnlyChanges faultParts s (outHit k s) := by
  unfold outHit
  split
  · exact .cond (fun _ => ((evt_only ..).wide _ rfl).trans (raiseSrc_only ..)) fun _ => .refl _ _
  · exact .refl _ _

theorem outHit_cmds (k : Option Nat) (s : State) : CmdsKept s (outHit k s) := by
  unfold outHit
  split
  · exact .cond (fun _ => .trans (.of_nvq (evt_nvq ..)) (raiseSrc_cmds ..)) fun _ => .refl s
  · exact .refl s

/-- Nothing is asked ahead for a function without address translation (R158). -/
theorem lookahead_of_no_ats {k : Nat} {t : Tag} {s : State} (ht : tget s.nvq.tags k = some t) (ha : (fnAt s t.ctrl).atsEn = false) :
    lookahead k s = s := by
  simp only [lookahead, ht, ha, Bool.and_false, Bool.not_false, if_true]

theorem startDma_of_no_ats {k : Nat} {t : Tag} {s : State} (ht : tget s.nvq.tags k = some t) (ha : (fnAt s t.ctrl).atsEn = false) :
    startDma k s = modTag k (fun t => { t with dma := { st := .running } }) s := by
  refine lookahead_of_no_ats (tget_modTag_same ht _) ?_
  exact ha

/-- The entry of a command that moves to RUN: its data has been debited. -/
def ranTag (s : State) (t : Tag) : Tag := { t with st := .run, debited := if isIo t then dataBytes s t.ent else 0 }

/-- A command that moves to RUN, before its tenant's limit and its context. -/
def ranFrom (k : Nat) (t : Tag) (s : State) : State :=
  if isIo t then debit t.tenant (ranTag s t).debited (setTag k (ranTag s t) s) else setTag k (ranTag s t) s

theorem run1_eq {k : Nat} {t : Tag} {s : State} (ht : tget s.nvq.tags k = some t) :
    run1 k s = startDma k (outHit t.tenant (ranFrom k t s)) := by
  simp only [run1, ht, ranFrom, ranTag]

theorem ranFrom_nvq (k : Nat) (t : Tag) (s : State) : (ranFrom k t s).nvq = { s.nvq with tags := tset s.nvq.tags k (ranTag s t) } := by
  unfold ranFrom
  split
  · exact (debit_only t.tenant _ _).same .nvq (by decide)
  · rfl

theorem ranFrom_only (k : Nat) (t : Tag) (s : State) : OnlyChanges [.nvq, .qos] s (ranFrom k t s) :=
  have h : OnlyChanges [.nvq, .qos] s (setTag k (ranTag s t) s) := (setTag_only ..).wide _ rfl
  .cond (fun _ => h.trans ((debit_only ..).wide _ rfl)) fun _ => h

section

variable {k : Nat} {x : Tag} {s : State} (hx : tget s.nvq.tags k = some x) (hats : (fnAt s x.ctrl).atsEn = false)
include hx hats

theorem run1_runs (ha : NoAer k s) : ∃ y, tget (run1 k s).nvq.tags k = some y ∧ y.st = .run ∧ y.ent = x.ent ∧ y.seq = x.seq := by
  have hran : tget (ranFrom k x s).nvq.tags k = some (ranTag s x) := by rw [ranFrom_nvq]; exact tget_tset_same ..
  have ha' : NoAer k (ranFrom k x s) := by
    intro c z hz
    rw [ranFrom_nvq] at hz
    exact ha c z hz
  have hy : tget (outHit x.tenant (ranFrom k x s)).nvq.tags k = some (ranTag s x) := ((outHit_cmds ..).kept k ha').2.trans hran
  have hhpc : (outHit x.tenant (ranFrom k x s)).hpc = s.hpc :=
    ((outHit_only ..).same .hpc (by decide)).trans ((ranFrom_only k x s).same .hpc (by decide))
  have hfn : (fnAt (outHit x.tenant (ranFrom k x s)) (ranTag s x).ctrl).atsEn = false := by
    rw [fnAt, hhpc]
    exact hats
  rw [run1_eq hx, startDma_of_no_ats hy hfn]
  exact ⟨_, tget_modTag_same hy _, rfl, rfl, rfl⟩

theorem run1_untenanted (hn : x.tenant = none) :
    OnlyChanges [.nvq, .qos] s (run1 k s) ∧ ∀ j, j ≠ k → tget (run1 k s).nvq.tags j = tget s.nvq.tags j := by
  have hy : tget (ranFrom k x s).nvq.tags k = some (ranTag s x) := by rw [ranFrom_nvq]; exact tget_tset_same ..
  have hfn : (fnAt (ranFrom k x s) (ranTag s x).ctrl).atsEn = false := by
    rw [fnAt, (ranFrom_only k x s).same .hpc (by decide)]
    exact hats
  have hrun : run1 k s = modTag k (fun t => { t with dma := { st := .running } }) (ranFrom k x s) := by
    rw [run1_eq hx, hn]
    exact startDma_of_no_ats hy hfn
  rw [hrun]
  refine ⟨(ranFrom_only k x s).trans ((modTag_only ..).wide _ rfl), fun j hj => ?_⟩
  rw [tget_modTag_ne hj, ranFrom_nvq]
  exact tget_tset_ne _ _ hj

end

theorem exec_admitToRun_alone {k : Nat} {x : Tag} {s : State} (hx : tget s.nvq.tags k = some x) (hst : x.st = .adm) (hf : x.fused = none)
    (hm : s.sys.mode.serving = true) (had : admissible s x = true) (hw : waitsHalf s k x = false) :
    exec (.admitToRun k) s = .next (run1 k s) := by
  have hgo : ¬(x.st ≠ .adm ∨ (!engines s) = true ∨ waitsHalf s k x = true ∨ (!admissible s x) = true) := by
    simp [hst, engines, hm, had, hw]
  simp only [exec, execAdmitToRun, hx, if_neg hgo, hf]

theorem exec_admitToRun_held {k : Nat} {x : Tag} {s : State} (hx : tget s.nvq.tags k = some x)
    (h : x.st ≠ .adm ∨ admissible s x = false ∨ waitsHalf s k x = true) : exec (.admitToRun k) s = .next s := by
  have hno : x.st ≠ .adm ∨ (!engines s) = true ∨ waitsHalf s k x = true ∨ (!admissible s x) = true := by
    rcases h with h | h | h <;> simp [h]
  simp only [exec, execAdmitToRun, hx, if_pos hno]

/-! ## The interrupt of a completion -/

/-- Whether a completion sends its message at once, or the aggregation threshold is passed (Table 5-6). -/
def msixDue (x : Ctrl) (qid iv tb : Nat) : Bool :=
  qid == 0 || nfld (tgetD x.feats 8 0) 8 8 == 0 || nfld (tgetD x.feats (0x90000 + iv) 0) 16 1 == 1 ||
    decide (nfld (tgetD x.feats 8 0) 0 8 ≤ (tgetD x.aggr iv (0, tb)).1)

theorem tget_modCtrl (c : Nat) (f : Ctrl → Ctrl) (s : State) (d : Nat) :
    tget (modCtrl c f s).nvq.ctrls d = if d = c then (tget s.nvq.ctrls c).map f else tget s.nvq.ctrls d := tget_tmod ..

theorem ctrlAt_modCtrl_same {c : Nat} {x : Ctrl} {s : State} (hx : tget s.nvq.ctrls c = some x) (f : Ctrl → Ctrl) :
    ctrlAt (modCtrl c f s) c = f (ctrlAt s c) := by
  rw [ctrlAt_of_tget hx]
  exact ctrlAt_of_tget (by rw [tget_modCtrl, if_pos rfl, hx]; rfl)

theorem ctrlAt_modCtrl_ne {c d : Nat} (hd : d ≠ c) (f : Ctrl → Ctrl) (s : State) : ctrlAt (modCtrl c f s) d = ctrlAt s d := by
  rw [ctrlAt, tgetD, tget_modCtrl, if_neg hd]
  rfl

theorem ctrlAt_of_none {c : Nat} {s : State} (h : tget s.nvq.ctrls c = none) : ctrlAt s c = {} := by
  rw [ctrlAt, tgetD, h]
  rfl

/-- What a completion's message, sent or put off, changes: its output, and the count of its vector. -/
structure MsixKeeps (due : Bool) (c iv : Nat) (s t : State) : Prop where
  out : t.out = (if due then [.msix c iv] else []) ++ s.out
  nvq : t.nvq = { s.nvq with ctrls := t.nvq.ctrls }
  aggr : due = false → tget (ctrlAt t c).aggr iv =
    some ((tgetD (ctrlAt s c).aggr iv (0, s.pwr.tb)).1 + 1, (tgetD (ctrlAt s c).aggr iv (0, s.pwr.tb)).2)
  only : OnlyChanges [.nvq, .out] s t

theorem raiseMsix_keeps (c qid iv : Nat) (s : State) : MsixKeeps (msixDue (ctrlAt s c) qid iv s.pwr.tb) c iv s (raiseMsix c qid iv s) := by
  unfold raiseMsix
  extract_lets x f a
  have hdue : msixDue (ctrlAt s c) qid iv s.pwr.tb =
      ((decide (qid = 0) || nfld f 8 8 == 0 || nfld (tgetD x.feats (0x90000 + iv) 0) 16 1 == 1) || decide (nfld f 0 8 ≤ a.1)) := rfl
  generalize hnow : (decide (qid = 0) || nfld f 8 8 == 0 || nfld (tgetD x.feats (0x90000 + iv) 0) 16 1 == 1) = now at hdue
  rw [hdue]
  cases now with
  | true => exact ⟨rfl, rfl, nofun, (emit_only ..).wide _ rfl⟩
  | false =>
    by_cases hpast : nfld f 0 8 ≤ a.1
    · rw [if_neg (by decide), if_pos hpast, decide_eq_true hpast]
      exact ⟨rfl, rfl, nofun, ((modCtrl_only ..).wide _ rfl).trans ((emit_only ..).wide _ rfl)⟩
    · rw [if_neg (by decide), if_neg hpast, decide_eq_false hpast]
      refine ⟨rfl, rfl, fun _ => ?_, (modCtrl_only ..).wide _ rfl⟩
      cases hc : tget s.nvq.ctrls c with
      | none =>
        have hx : x = {} := ctrlAt_of_none hc
        simp [f, hx, tgetD, nfld] at hnow
      | some y => rw [ctrlAt_modCtrl_same hc, tget_tset_same]

/-! ## The posting of a completion -/

theorem chargeOps_only (k : Option Nat) (n : Nat) (s : State) : OnlyChanges [.qos] s (chargeOps k n s) := by
  unfold chargeOps
  split
  · exact .refl _ _
  · exact (modTnt_only ..).trans (traceAdd_only ..)

/-- Reservations that a command gives back change its tenant and its own entry alone. -/
theorem returnResv_keeps (k : Nat) (s : State) : OnlyChanges [.nvq, .qos] s (returnResv k s) ∧
    (returnResv k s).nvq = { s.nvq with tags := (returnResv k s).nvq.tags } ∧
    ∀ j, j ≠ k → tget (returnResv k s).nvq.tags j = tget s.nvq.tags j := by
  unfold returnResv
  split
  · exact ⟨.refl _ _, rfl, fun _ _ => rfl⟩
  · rename_i t _
    extract_lets s1
    have hset : OnlyChanges [.nvq, .qos] s s1 := (setTag_only ..).wide _ rfl
    have htags (j : Nat) (hj : j ≠ k) : tget s1.nvq.tags j = tget s.nvq.tags j := tget_tset_ne _ _ hj
    split
    · exact ⟨hset, rfl, htags⟩
    · exact ⟨hset.trans ((modTnt_only ..).wide _ rfl), rfl, htags⟩

/-- A tag that is freed while no shutdown is due: what is left of the detector goes, and nothing closes. -/
theorem freeTag_keeps {k : Nat} {s : State} (h : s.nvq.shutDue = false) : OnlyChanges [.nvq, .fte, .upd] s (freeTag k s) ∧
    (freeTag k s).nvq = { (eraseTag k s).nvq with ovl := (freeTag k s).nvq.ovl, ovlFullTill := (freeTag k s).nvq.ovlFullTill } := by
  have hclose (u : State) (hu : u.nvq.shutDue = false) : closeDue u = u := by simp [closeDue, hu]
  have herase : OnlyChanges [.nvq, .fte, .upd] s (eraseTag k s) := by
    unfold eraseTag
    exact .trans ((onNvq_only ..).wide _ rfl) ((onUpd_only ..).wide _ rfl)
  have hafter (u : State) (hu : u.nvq.shutDue = false) : OnlyChanges [.nvq, .fte, .upd] u (afterFree u) ∧
      (afterFree u).nvq = { u.nvq with ovl := (afterFree u).nvq.ovl } := by
    rw [afterFree, hclose (sweepOvl (releaseKept u)) hu]
    have hkept : OnlyChanges [.nvq, .fte, .upd] u (releaseKept u) := (onFte_only ..).wide _ rfl
    have hswept : OnlyChanges [.nvq, .fte, .upd] (releaseKept u) (sweepOvl (releaseKept u)) := by
      unfold sweepOvl
      exact (onNvq_only ..).wide _ rfl
    exact ⟨hkept.trans hswept, rfl⟩
  unfold freeTag
  extract_lets s1 s2
  have h2 : OnlyChanges [.nvq, .fte, .upd] s s2 ∧ s2.nvq = { s1.nvq with ovlFullTill := s2.nvq.ovlFullTill } := by
    unfold s2
    split
    · split
      · exact ⟨herase, rfl⟩
      · exact ⟨herase.trans ((onNvq_only ..).wide _ rfl), rfl⟩
    · exact ⟨herase, rfl⟩
  obtain ⟨ho2, hn2⟩ := h2
  obtain ⟨ho, hn⟩ := hafter s2 (by rw [hn2]; exact h)
  refine ⟨ho2.trans ho, ?_⟩
  rw [hn, hn2]

theorem startTunnels_of_none {s : State} (h : s.nvq.tun = []) : startTunnels s = s := by
  rw [startTunnels, h]
  rfl

/-- A completion queue once an entry is written at its tail: the phase turns where the queue begins anew. -/
def cqAfter (q : Cq) : Cq :=
  { q with tail := (q.tail + 1) % q.size, phase := if q.tail + 1 = q.size then !q.phase else q.phase }

/-- The completion entry is written, with its message. -/
def entryWritten (ck : Nat) (x : Tag) (q : Cq) (s : State) : State :=
  let head := ((sqAt s (qkey x.ctrl x.qid)).map (·.head)).getD 0
  let s1 := emit (.completion x.ctrl (ck % 65536) (cidOf x.ent) x.qid head x.status x.dnr x.dw0 x.dw1) s
  let s2 := onNvq (fun n => { n with cqs := tset n.cqs ck (cqAfter q) }) s1
  if q.ien then raiseMsix x.ctrl x.qid q.iv s2 else s2

/-- The operation of a completion is charged and its deficit settled (R129, R137). -/
def opCharged (x : Tag) (s : State) : State :=
  if isIo x && !x.uncharged then debit x.tenant ((x.moved : Int) - (x.debited : Int)) (chargeOps x.tenant 1 s) else s

theorem opCharged_only (x : Tag) (s : State) : OnlyChanges [.qos] s (opCharged x s) :=
  .cond (fun _ => (chargeOps_only ..).trans (debit_only ..)) fun _ => .refl _ _

section

variable {k ck : Nat} {x : Tag} {q : Cq} {s : State} (hx : tget s.nvq.tags k = some x) (hvia : x.via = none) (hck : cqOf s x = some ck)
  (hq : tget s.nvq.cqs ck = some q)
include hx hvia hck hq

theorem exec_completionPost_full (hfull : (q.tail + 1) % q.size = q.head) : exec (.completionPost k) s = .next s := by
  simp only [exec, execCompletionPost, hx, hvia, hck, hq, hfull, beq_self_eq_true, true_or, or_true, if_true]

theorem exec_completionPost_next (hst : x.st = .post) (hfull : (q.tail + 1) % q.size ≠ q.head) (hm : s.sys.mode.serving = true)
    (hmeter : meterHeld s x = false)
    (hnext : ∀ e ∈ s.nvq.tags, e.2.st = .post → cqOf s e.2 = some ck → x.postSeq ≤ e.2.postSeq ∨ meterHeld s e.2 = true) :
    exec (.completionPost k) s = .next (startTunnels (freeTag k (returnResv k (opCharged x (entryWritten ck x q s))))) := by
  have hearlier : (s.nvq.tags.any fun e => e.2.st == .post && cqOf s e.2 == some ck && decide (e.2.postSeq < x.postSeq) &&
      !meterHeld s e.2) = false := by
    refine List.any_eq_false.2 fun e he => ?_
    intro hbad
    simp only [Bool.and_eq_true, beq_iff_eq, decide_eq_true_eq, Bool.not_eq_true'] at hbad
    obtain ⟨⟨⟨hepost, hecq⟩, helt⟩, hemeter⟩ := hbad
    rcases hnext e he hepost hecq with h | h
    · omega
    · rw [hemeter] at h; cases h
  have hgo : ¬(x.st ≠ .post ∨ ((q.tail + 1) % q.size == q.head) = true ∨ (s.nvq.tags.any fun e => e.2.st == .post && cqOf s e.2 == some ck &&
      decide (e.2.postSeq < x.postSeq) && !meterHeld s e.2) = true ∨ meterHeld s x = true ∨ (!engines s) = true) := by
    simp [hst, hfull, hearlier, hmeter, engines, hm]
  simp only [exec, execCompletionPost, hx, hvia, hck, hq, if_neg hgo]
  rfl

end

/-- What a completion entry leaves: its record and its message in the output, its queue's tail, and the count of its vector. -/
structure EntryPosted (ck : Nat) (x : Tag) (q : Cq) (s t : State) : Prop where
  out : t.out = (if q.ien && msixDue (ctrlAt s x.ctrl) x.qid q.iv s.pwr.tb then [.msix x.ctrl q.iv] else []) ++
    .completion x.ctrl (ck % 65536) (cidOf x.ent) x.qid (((sqAt s (qkey x.ctrl x.qid)).map (·.head)).getD 0) x.status x.dnr x.dw0 x.dw1 ::
      s.out
  nvq : t.nvq = { s.nvq with ctrls := t.nvq.ctrls, cqs := tset s.nvq.cqs ck (cqAfter q) }
  aggr : q.ien = true → msixDue (ctrlAt s x.ctrl) x.qid q.iv s.pwr.tb = false → tget (ctrlAt t x.ctrl).aggr q.iv =
    some ((tgetD (ctrlAt s x.ctrl).aggr q.iv (0, s.pwr.tb)).1 + 1, (tgetD (ctrlAt s x.ctrl).aggr q.iv (0, s.pwr.tb)).2)
  only : OnlyChanges [.nvq, .out] s t

theorem entryWritten_posts (ck : Nat) (x : Tag) (q : Cq) (s : State) : EntryPosted ck x q s (entryWritten ck x q s) := by
  unfold entryWritten
  extract_lets head s1 s2
  have h1 : OnlyChanges [.nvq, .out] s s1 := (emit_only ..).wide _ rfl
  have h2 : OnlyChanges [.nvq, .out] s1 s2 := (onNvq_only ..).wide _ rfl
  have h12 : OnlyChanges [.nvq, .out] s s2 := h1.trans h2
  by_cases hien : q.ien = true
  · obtain ⟨hout, hnvq, haggr, honly⟩ := raiseMsix_keeps x.ctrl x.qid q.iv s2
    rw [if_pos hien]
    refine ⟨?_, hnvq, fun _ => haggr, h12.trans honly⟩
    rw [hien, Bool.true_and]
    exact hout
  · rw [if_neg hien]
    refine ⟨?_, rfl, fun h => absurd h hien, h12⟩
    rw [Bool.eq_false_iff.2 hien]
    rfl

/-- What is left once a tag's completion is posted and its tag freed. -/
structure TagFreed (k : Nat) (s t : State) : Prop where
  own : tget t.nvq.tags k = none
  others : ∀ j, j ≠ k → tget t.nvq.tags j = (tget s.nvq.tags j).map fun y => if y.fused = some k then { y with fused := none } else y
  queues : ∀ j, sqAt t j = (sqAt s j).map fun y => if y.half = some k then { y with half := none } else y
  cqs : t.nvq.cqs = s.nvq.cqs
  ctrls : t.nvq.ctrls = s.nvq.ctrls
  out : t.out = s.out
  only : OnlyChanges [.nvq, .fte, .qos, .upd] s t

theorem tget_eraseTag (k : Nat) (s : State) (j : Nat) : tget (eraseTag k s).nvq.tags j =
    (tget (terase s.nvq.tags k) j).map fun y => if y.fused = some k then { y with fused := none } else y :=
  tget_tmap (terase s.nvq.tags k) (fun _ (y : Tag) => if y.fused = some k then { y with fused := none } else y) j

theorem sqAt_eraseTag (k : Nat) (s : State) (j : Nat) : sqAt (eraseTag k s) j =
    (sqAt s j).map fun y => if y.half = some k then { y with half := none } else y :=
  tget_tmap s.nvq.sqs (fun _ (y : Sq) => if y.half = some k then { y with half := none } else y) j

theorem completion_frees {k : Nat} {s : State} (x : Tag) (htun : s.nvq.tun = []) (hdue : s.nvq.shutDue = false) :
    TagFreed k s (startTunnels (freeTag k (returnResv k (opCharged x s)))) := by
  have hcharged := opCharged_only x s
  have hcn : (opCharged x s).nvq = s.nvq := hcharged.same .nvq (by decide)
  obtain ⟨hro, hrn, hrt⟩ := returnResv_keeps k (opCharged x s)
  generalize hr : returnResv k (opCharged x s) = r at hro hrn hrt ⊢
  rw [hcn] at hrn hrt
  obtain ⟨hfo, hfn⟩ := freeTag_keeps (k := k) (s := r) (by rw [hrn]; exact hdue)
  have htunnels : startTunnels (freeTag k r) = freeTag k r := startTunnels_of_none (by rw [hfn]; show r.nvq.tun = []; rw [hrn]; exact htun)
  rw [htunnels]
  have hsqs : r.nvq.sqs = s.nvq.sqs := by rw [hrn]
  refine ⟨?_, fun j hj => ?_, fun j => ?_, ?_, ?_, ?_, ?_⟩
  · rw [hfn]
    show tget (eraseTag k r).nvq.tags k = none
    rw [tget_eraseTag, tget_terase_same]; rfl
  · rw [hfn]
    show tget (eraseTag k r).nvq.tags j = _
    rw [tget_eraseTag, tget_terase_ne _ hj, hrt j hj]
  · rw [sqAt_of_sqs (t := freeTag k r) (s := eraseTag k r) (by rw [hfn]), sqAt_eraseTag, sqAt_of_sqs hsqs]
  · rw [hfn]; show r.nvq.cqs = _; rw [hrn]
  · rw [hfn]; show r.nvq.ctrls = _; rw [hrn]
  · rw [hfo.same .out (by decide), hro.same .out (by decide), hcharged.same .out (by decide)]
  · exact (hcharged.wide _ rfl).trans ((hro.wide _ rfl).trans (hfo.wide _ rfl))

/-! ## A held critical warning -/

theorem critWarn_lt (s : State) : critWarn s < 2 ^ 8 := by
  unfold critWarn
  split
  · decide
  · split <;> split <;> decide

/-- The bit that is delivered is one of those held, still set and enabled. -/
theorem deliveredBit_testBit {go : Nat} (h0 : go ≠ 0) (hlt : go < 2 ^ 8) : go.testBit (((List.range 8).find? fun i => go.testBit i).getD 0) = true := by
  obtain ⟨i, hi⟩ := Nat.exists_testBit_of_ne_zero h0
  have hi8 : i < 8 := by
    by_contra h
    have hpow : 2 ^ 8 ≤ 2 ^ i := Nat.pow_le_pow_right (by decide) (by omega)
    have := Nat.ge_two_pow_of_testBit hi
    omega
  cases hfind : (List.range 8).find? fun i => go.testBit i with
  | none => exact absurd hi (by simpa using List.find?_eq_none.1 hfind i (List.mem_range.2 hi8))
  | some b => exact List.find?_some hfind

/-- R40: the oldest request of a ready controller ends with the event. -/
theorem sendAen_smart {c a : Nat} {x : Ctrl} {as' : List Nat} {s : State} (hx : tget s.nvq.ctrls c = some x) (hen : x.en = true)
    (hrdy : x.rdy = true) (ha : x.aers = a :: as') :
    sendAen c .smart s = setPost a .success false (Aen.dw0 .smart) 0 (·.moved) (setCtrl c { x with aers := as' } s) := by
  have hgo : ¬(!x.en || !x.rdy || !aenEnabled x .smart) = true := by simp [hen, hrdy, aenEnabled]
  simp only [sendAen, hx, if_neg hgo, ha]

theorem ctrl_of_enabled {c : Nat} {s : State} (hen : (ctrlAt s c).en = true) : ∃ x, tget s.nvq.ctrls c = some x := by
  cases h : tget s.nvq.ctrls c with
  | none => rw [ctrlAt_of_none h] at hen; cases hen
  | some x => exact ⟨x, rfl⟩

/-- R40: a controller's bit that is still set and enabled ends its oldest request. -/
theorem heldWarning_delivered {c a : Nat} {y : Tag} {s : State} (hen : (ctrlAt s c).en = true) (hrdy : (ctrlAt s c).rdy = true)
    (ha : (ctrlAt s c).aers.head? = some a) (hy : tget s.nvq.tags a = some y) (hst : y.st ≠ .post) (hm : s.sys.mode.serving = true)
    (hgo : (ctrlAt s c).heldWarn &&& critWarn s &&& aenConfig (ctrlAt s c) ≠ 0) :
    Ends (.heldAenDelivery c) s fun t => (ctrlAt t c).aers = (ctrlAt s c).aers.tail ∧ PostedDw a .success (Aen.dw0 .smart) t ∧
      (ctrlAt t c).heldWarn < (ctrlAt s c).heldWarn &&& critWarn s ∧ OnlyChanges [.nvq] s t := by
  obtain ⟨x, hx⟩ := ctrl_of_enabled hen
  have hcx := ctrlAt_of_tget hx
  rw [hcx] at hen hrdy ha hgo ⊢
  obtain ⟨rest, hrest⟩ : ∃ rest, x.aers = a :: rest := List.head?_eq_some_iff.1 ha
  generalize hl : x.heldWarn &&& critWarn s = live at hgo ⊢
  have hlive : live < 2 ^ 8 := hl ▸ Nat.and_lt_two_pow _ (critWarn_lt s)
  have hbit := deliveredBit_testBit hgo (Nat.lt_of_le_of_lt Nat.and_le_left hlive)
  generalize hb : (((List.range 8).find? fun i => (live &&& aenConfig x).testBit i).getD 0) = b at hbit
  have hpow : 2 ^ b ≤ live := by
    rw [Nat.testBit_and, Bool.and_eq_true] at hbit
    exact Nat.ge_two_pow_of_testBit hbit.1
  let x1 : Ctrl := { x with heldWarn := live - 2 ^ b }
  have hx1 : tget (modCtrl c (fun x => { x with heldWarn := live - 2 ^ b }) s).nvq.ctrls c = some x1 := by
    rw [tget_modCtrl, if_pos rfl, hx]; rfl
  have hexec : exec (.heldAenDelivery c) s = .next (setPost a .success false (Aen.dw0 .smart) 0 (·.moved)
      (setCtrl c { x1 with aers := rest } (modCtrl c (fun x => { x with heldWarn := live - 2 ^ b }) s))) := by
    have hgo' : ¬((!x.en || !x.rdy || x.aers.isEmpty || decide (live &&& aenConfig x = 0) || !engines s) = true) := by
      simp [hen, hrdy, hrest, engines, hm, hgo]
    rw [← sendAen_smart hx1 hen hrdy hrest]
    simp only [exec, execHeldAenDelivery, hcx, hl, hb]
    exact if_neg hgo'
  generalize hu : setCtrl c { x1 with aers := rest } (modCtrl c (fun x => { x with heldWarn := live - 2 ^ b }) s) = u at hexec
  have hun : u.nvq.tags = s.nvq.tags := by rw [← hu]; rfl
  have huc : ctrlAt u c = { x1 with aers := rest } := by rw [← hu, ctrlAt_setCtrl, if_pos rfl]
  have hnvq := setPost_completes (s := u) (by rw [hun]; exact hy) hst .success false (Aen.dw0 .smart) 0 (·.moved)
  generalize ht : setPost a .success false (Aen.dw0 .smart) 0 (·.moved) u = t at hexec hnvq
  have hct : ctrlAt t c = { x1 with aers := rest } := (ctrlAt_of_ctrls (by rw [hnvq]) c).trans huc
  refine ⟨t, hexec, ?_, ⟨completed y .success false (Aen.dw0 .smart) 0 u.nvq.postSeq y.moved, ?_, rfl, rfl, rfl⟩, ?_, ?_⟩
  · rw [hct, hrest]; rfl
  · rw [hnvq]; exact tget_tset_same ..
  · rw [hct]
    have : 0 < 2 ^ b := Nat.two_pow_pos b
    show live - 2 ^ b < live
    omega
  · rw [← ht, ← hu]
    exact (modCtrl_only ..).trans ((setCtrl_only ..).trans (setPost_only ..))

/-! ## Admission and completion -/

/-- Settles O43, clause by clause: a completion's entry is that of `completed`, admission is `run1`, and a posting is the written entry
followed by the tag's freeing. -/
theorem admissionAndCompletion : Obligations.AdmissionAndCompletion := by
  refine ⟨?_, ?_, ?_, ?_, ?_, ?_, ?_⟩
  · intro k dw sc x s hx hst hf
    obtain ⟨moved, hnvq⟩ := postDnr_completes hx hst hf sc (scDnr sc) dw 0
    change (post k sc dw s).nvq = _ at hnvq
    refine ⟨⟨completed x sc (scDnr sc) dw 0 s.nvq.postSeq moved, ?_, rfl, rfl, rfl, rfl, rfl, rfl, rfl, rfl⟩, fun j hj => ?_, post_only ..⟩
    · rw [hnvq]; exact tget_tset_same ..
    · rw [hnvq]; exact tget_tset_ne _ _ hj
  · intro k dw sc x s hx hst
    exact post_of_posted hx hst sc dw
  · intro k x s hx hst hf hm had hw hats
    exact ⟨_, exec_admitToRun_alone hx hst hf hm had hw, run1_runs hx hats, run1_untenanted hx hats⟩
  · intro k x s hx h
    exact exec_admitToRun_held hx h
  · intro k ck x q s hx hst hvia hck hq hfull hm hmeter hnext htun hdue f due
    have hduef : due = msixDue (ctrlAt s x.ctrl) x.qid q.iv s.pwr.tb := rfl
    rw [hduef]
    have hposts := entryWritten_posts ck x q s
    have hfreed : TagFreed k (entryWritten ck x q s) _ :=
      completion_frees x (by rw [hposts.nvq]; exact htun) (by rw [hposts.nvq]; exact hdue)
    refine ⟨_, exec_completionPost_next hx hvia hck hq hst hfull hm hmeter hnext, ?_, hfreed.own, fun j hj => ?_, ?_, fun j => ?_,
      fun hien hnow => ?_, (hposts.only.wide _ rfl).trans (hfreed.only.wide _ rfl)⟩
    · rw [hfreed.out, hposts.out]
    · rw [hfreed.others j hj, hposts.nvq]
    · rw [hfreed.cqs, hposts.nvq]
      exact tget_tset_same ..
    · rw [hfreed.queues j, sqAt_of_sqs (t := entryWritten ck x q s) (s := s) (by rw [hposts.nvq])]
    · rw [ctrlAt_of_ctrls hfreed.ctrls]
      exact hposts.aggr hien hnow
  · intro k ck x q s hx hvia hck hq hfull
    exact exec_completionPost_full hx hvia hck hq hfull
  · intro c a y s hen hrdy ha hy hst hm hgo
    exact heldWarning_delivered hen hrdy ha hy hst hm hgo

end Sys2Proof

namespace Sys2Proof

open Machine

/-! Fetching of submission entries (R109 to R112, R121, R295). -/

/-! ## The lowest free tag -/

theorem freeTagFrom_ge (i : Nat) (l : Tbl Tag) : i ≤ freeTagFrom i l := by
  induction l generalizing i with
  | nil => exact Nat.le_refl i
  | cons e l ih =>
    obtain ⟨k, x⟩ := e
    rw [freeTagFrom]
    split
    · exact Nat.le_of_succ_le (ih (i + 1))
    · exact Nat.le_refl i

theorem tget_none_of_lt {α : Type} {l : Tbl α} {k : Nat} (h : ∀ e ∈ l, k < e.1) : tget l k = none := by
  cases hk : tget l k with
  | none => rfl
  | some v => exact absurd (h (k, v) (Tests.mem_of_tget hk)) (Nat.lt_irrefl k)

theorem freeTagFrom_free {i : Nat} {l : Tbl Tag} (hr : keysRise l = true) (hi : ∀ e ∈ l, i ≤ e.1) : tget l (freeTagFrom i l) = none := by
  induction l generalizing i with
  | nil => rfl
  | cons e l ih =>
    obtain ⟨k, x⟩ := e
    have hgt := keysRise_lt l k x hr
    have hik : i ≤ k := hi (k, x) List.mem_cons_self
    rw [freeTagFrom]
    split
    · rename_i hk
      have hnext := freeTagFrom_ge (i + 1) l
      rw [tget, if_neg (by omega)]
      exact ih ((keysRise_cons k x l).1 hr).1 fun e he => hk ▸ hgt e he
    · refine tget_none_of_lt fun e he => ?_
      rcases List.mem_cons.1 he with rfl | he
      · show i < k; omega
      · have := hgt e he; omega

theorem tset_length_le {α : Type} (l : Tbl α) (k : Nat) (v : α) : (tset l k v).length ≤ l.length + 1 := by
  induction l with
  | nil => exact Nat.le_refl 1
  | cons e l ih =>
    obtain ⟨j, w⟩ := e
    simp only [tset]
    split
    · exact Nat.le_refl _
    · split <;> simp only [List.length_cons] <;> omega

/-! ## What the choice of a queue leaves of the checks -/

/-- The checks of an entry and its classification are the same: beside queues, meters and the event register nothing they ask of has changed. -/
structure ChecksAlike (s t : State) : Prop where
  only : OnlyChanges [.nvq, .qos, .regs] s t
  regs : OnlyRegs [regA .nvqEvt] s t
  ctrls : t.nvq.ctrls = s.nvq.ctrls
  binds : t.qos.bindC = s.qos.bindC ∧ t.qos.bindN = s.qos.bindN
  enabled : ∀ k, (tntAt t k).en = (tntAt s k).en

theorem ChecksAlike.refl (s : State) : ChecksAlike s s := ⟨.refl _ _, .refl _ _, rfl, ⟨rfl, rfl⟩, fun _ => rfl⟩

theorem ChecksAlike.trans {s t u : State} (h : ChecksAlike s t) (g : ChecksAlike t u) : ChecksAlike s u :=
  ⟨h.only.trans g.only, h.regs.trans g.regs, g.ctrls.trans h.ctrls, ⟨g.binds.1.trans h.binds.1, g.binds.2.trans h.binds.2⟩,
    fun k => (g.enabled k).trans (h.enabled k)⟩

theorem ChecksAlike.each {α : Type} (l : List α) {f : α → State → State} (hf : ∀ a s, ChecksAlike s (f a s)) (s : State) :
    ChecksAlike s (forEach l f s) := by
  unfold forEach
  induction l generalizing s with
  | nil => exact .refl s
  | cons a l ih => exact (hf a s).trans (ih _)

theorem ChecksAlike.cond {s t u : State} {c : Prop} [Decidable c] (h : ChecksAlike s t) (g : ChecksAlike s u) :
    ChecksAlike s (if c then t else u) := by split <;> assumption

/-- A register of the checks reads the same. -/
theorem ChecksAlike.reg {s t : State} (h : ChecksAlike s t) {r : RegId} (hr : regA r ∉ [regA .nvqEvt]) : reg t r = reg s r :=
  congrArg (·.getD (regDef r).reset) (h.regs.same _ hr)

theorem ChecksAlike.classify {s t : State} (h : ChecksAlike s t) (c ns : Nat) : classify t c ns = classify s c ns := by
  have hhpc : t.hpc = s.hpc := h.only.same .hpc (by decide)
  simp only [Machine.classify, h.reg (r := .qosCfg) (by decide), h.binds.1, h.binds.2, h.enabled, isPface, linkOf, hhpc] <;> rfl

/-- A state with other queues, meters and registers. -/
def withMeters (s : State) (n : Nvq) (q : Qos) (r : Tbl Word) : State := { s with nvq := n, qos := q, regs := r }

theorem eq_of_parts {s t : State} (h : ∀ p : Part, p.same s t) : t = s := by
  cases s
  cases t
  simp only [State.mk.injEq]
  exact ⟨h .sys, h .pins, h .regs, h .ovr, h .cam, h .hpc, h .nvq, h .qos, h .xlt, h .fte, h .fch, h .sre, h .dre, h .cst, h .wel, h .pmp,
    h .mpr, h .flt, h .pwr, h .whs, h .upd, h .sec, h .sbm, h .drm, h .prof, h .profOn, h .out, h .free, h .pending⟩

theorem OnlyChanges.metered {s t : State} (h : OnlyChanges [.nvq, .qos, .regs] s t) : t = withMeters s t.nvq t.qos t.regs := by
  refine eq_of_parts fun p => ?_
  have hsame := h.same p
  cases p with
  | nvq => rfl
  | qos => rfl
  | regs => rfl
  | _ => exact hsame (by decide)

theorem ChecksAlike.checkCmd {s t : State} (h : ChecksAlike s t) (c qid : Nat) (e : Entry) : checkCmd t c qid e = checkCmd s c qid e := by
  have hcfg : Machine.reg t .dreCfg = Machine.reg s .dreCfg := h.reg (by decide)
  have hcam : Machine.reg t .sysCamCtl = Machine.reg s .sysCamCtl := h.reg (by decide)
  have hctrl : ctrlAt t c = ctrlAt s c := ctrlAt_of_ctrls h.ctrls c
  have ht := h.only.metered
  unfold Machine.checkCmd check4 check7
  rw [hcfg, hcam, hctrl, ht]
  rfl

theorem evt_alike (b : Nat) (s : State) : ChecksAlike s (evt .nvqEvt b s) :=
  ⟨(evt_only ..).wide _ rfl, evt_onlyRegs .., rfl, ⟨rfl, rfl⟩, fun _ => rfl⟩

theorem modSq_alike (k : Nat) (f : Sq → Sq) (s : State) : ChecksAlike s (modSq k f s) :=
  ⟨(modSq_only ..).wide _ rfl, .of_eq rfl, rfl, ⟨rfl, rfl⟩, fun _ => rfl⟩

theorem modTnt_alike {f : Tenant → Tenant} (hf : ∀ x, (f x).en = x.en) (k : Nat) (s : State) : ChecksAlike s (modTnt k f s) := by
  refine ⟨(modTnt_only ..).wide _ rfl, .of_eq rfl, rfl, ⟨rfl, rfl⟩, fun j => ?_⟩
  simp only [tntAt, modTnt, onQos_qos, tupd, tgetD, tget_tset]
  split
  · rename_i hj; rw [hj]; exact hf _
  · rfl

theorem debit_alike (k : Option Nat) (n : Int) (s : State) : ChecksAlike s (debit k n s) := by
  cases k with
  | none => exact ⟨(debit_only ..).wide _ rfl, .of_eq rfl, rfl, ⟨rfl, rfl⟩, fun _ => rfl⟩
  | some k =>
    refine modTnt_alike ?_ k s
    exact fun _ => rfl

theorem giveQuanta_alike (n k : Nat) (s : State) : ChecksAlike s (giveQuanta n k s) := debit_alike ..

theorem qosServe_alike (k : Nat) (ts : List Nat) (s : State) : ChecksAlike s (qosServe k ts s) := by
  unfold qosServe drrServe
  extract_lets last n l before after s1
  have h1 : ChecksAlike s s1 := by
    refine .cond (.refl s) ?_
    exact (giveQuanta_alike ..).trans ((ChecksAlike.each before (giveQuanta_alike n) _).trans (.each after (giveQuanta_alike _) _))
  have hlast (f : Qos → Qos) (hf : ∀ q, (f q).tnts = q.tnts ∧ (f q).bindC = q.bindC ∧ (f q).bindN = q.bindN) : ChecksAlike s1 (onQos f s1) :=
    ⟨(onQos_only ..).wide _ rfl, .of_eq rfl, rfl, (hf _).2, fun k => by rw [tntAt, onQos_qos, (hf _).1, tntAt]⟩
  refine h1.trans (hlast _ fun q => ?_)
  split <;> exact ⟨rfl, rfl, rfl⟩

theorem serveCtrl_alike (c : Nat) (s : State) : ChecksAlike s (serveCtrl c s) := by
  unfold serveCtrl
  exact .trans (.cond (.refl s) (qosServe_alike ..)) ⟨(onNvq_only ..).wide _ rfl, .of_eq rfl, rfl, ⟨rfl, rfl⟩, fun _ => rfl⟩

/-! ## An entry takes its tag -/

/-- The entry of a command that is fetched. -/
def fetchedTag (c qid : Nat) (e : Entry) (s : State) : Tag :=
  { ctrl := c, qid, ent := e, seq := s.nvq.seq, tenant := if qid = 0 then none else classify s c (entNsid e) }

/-- A tag is taken with the next fetch sequence number. -/
def tagTaken (k : Nat) (t : Tag) (s : State) : State :=
  onNvq (fun x => { x with tagHwm := max x.tagHwm (setTag k t (takeSeq s).2).nvq.tags.length }) (setTag k t (takeSeq s).2)

theorem takeSeq_nvq (s : State) : (takeSeq s).2.nvq = { s.nvq with seq := (s.nvq.seq + 1) % 2 ^ 32 } := by
  unfold takeSeq
  extract_lets n s1
  have h1 : s1.nvq = s.nvq := by
    unfold s1
    split
    · exact onCst_nvq ..
    · rfl
  rw [onNvq_nvq, h1]

theorem takeSeq_only (s : State) : OnlyChanges [.nvq, .cst] s (takeSeq s).2 := by
  unfold takeSeq
  extract_lets n s1
  have h1 : OnlyChanges [.nvq, .cst] s s1 := .cond (fun _ => (onCst_only ..).wide _ rfl) fun _ => .refl _ _
  have h2 : OnlyChanges [.nvq, .cst] s1 (onNvq (fun x => { x with seq := (n + 1) % 2 ^ 32 }) s1) := (onNvq_only ..).wide _ rfl
  exact h1.trans h2

theorem tagTaken_nvq (k : Nat) (t : Tag) (s : State) : ∃ hwm, (tagTaken k t s).nvq =
    { s.nvq with seq := (s.nvq.seq + 1) % 2 ^ 32, tags := tset s.nvq.tags k t, tagHwm := hwm } :=
  ⟨_, by rw [tagTaken, onNvq_nvq, setTag, onNvq_nvq, takeSeq_nvq]⟩

theorem tagTaken_only (k : Nat) (t : Tag) (s : State) : OnlyChanges [.nvq, .cst] s (tagTaken k t s) :=
  (takeSeq_only s).trans (((setTag_only ..).wide _ rfl).trans ((onNvq_only ..).wide _ rfl))

/-- The end of an entry that fails a check: prepared uncharged, and counted for its tenant (R121, R136). -/
def checkFailed (k : Nat) (t : Tag) (sc : Sc) (dnr : Bool) (s : State) : State :=
  outHit t.tenant (postDnr k sc dnr 0 0 (setTag k { t with uncharged := true } s))

theorem assign_eq {c qid : Nat} {e : Entry} {s : State} (hroom : s.nvq.tags.length < 65535) :
    assign c qid e none s = (freeTagFrom 0 s.nvq.tags,
      match checkCmd s c qid e with
      | some (sc, dnr) => checkFailed (freeTagFrom 0 s.nvq.tags) (fetchedTag c qid e s) sc dnr
          (tagTaken (freeTagFrom 0 s.nvq.tags) (fetchedTag c qid e s) s)
      | none => tagTaken (freeTagFrom 0 s.nvq.tags) (fetchedTag c qid e s) s) := by
  have hseq : (takeSeq s).2.nvq.tags = s.nvq.tags := by rw [takeSeq_nvq]
  have hlen (k : Nat) (t : Tag) : (setTag k t (takeSeq s).2).nvq.tags.length ≠ 65536 := by
    have hle := tset_length_le s.nvq.tags k t
    have htags : (setTag k t (takeSeq s).2).nvq.tags = tset s.nvq.tags k t := by rw [← hseq]; rfl
    rw [htags]
    exact Nat.ne_of_lt (by omega)
  simp only [assign]
  rw [hseq]
  rw [if_neg (hlen _ _)]
  cases checkCmd s c qid e <;> rfl

/-! ## The overlap detector at the fetch -/

theorem EvtSet.evt_same {r : RegId} {b : Nat} {s : State} (h : EvtSet r b s) (i : Nat) : EvtSet r b (Machine.evt r i s) := by
  unfold EvtSet Machine.evt at *
  rw [reg_orReg, bitOf_or, h, Bool.true_or]

/-- A tag's write enters the detector, or is admitted untracked. -/
structure OvlEnters (k : Nat) (s t : State) : Prop where
  own : ∀ x, tget s.nvq.tags k = some x → ∃ b, tget t.nvq.tags k = some { x with untracked := b }
  others : ∀ j, j ≠ k → tget t.nvq.tags j = tget s.nvq.tags j
  nvq : t.nvq = { s.nvq with tags := t.nvq.tags, ovl := t.nvq.ovl, ovlHwm := t.nvq.ovlHwm }
  evts : ∀ b, EvtSet .nvqEvt b s → EvtSet .nvqEvt b t
  only : OnlyChanges [.nvq, .regs] s t

theorem OvlEnters.refl (k : Nat) (s : State) : OvlEnters k s s := ⟨fun x hx => ⟨x.untracked, hx⟩, fun _ _ => rfl, rfl, fun _ h => h, .refl _ _⟩

theorem takeOvl_enters (k : Nat) (x : Tag) (s : State) : OvlEnters k s (takeOvl k x s) := by
  unfold takeOvl
  extract_lets es l s1
  have h1 : OnlyChanges [.nvq, .regs] s s1 := (onNvq_only ..).wide _ rfl
  split
  · exact ⟨fun y hy => ⟨y.untracked, hy⟩, fun _ _ => rfl, rfl, fun _ h => EvtSet.evt_same (s := s1) h 2, h1.trans ((evt_only ..).wide _ rfl)⟩
  · exact ⟨fun y hy => ⟨y.untracked, hy⟩, fun _ _ => rfl, rfl, fun _ h => h, h1⟩

theorem enterOvl_enters (k : Nat) (s : State) : OvlEnters k s (enterOvl k s) := by
  unfold enterOvl
  split
  · exact .refl k s
  · rename_i x hx
    split
    · exact .refl k s
    · split
      · exact takeOvl_enters k x s
      · split
        · exact .refl k s
        · have hset : OnlyChanges [.nvq, .regs] s (setTag k { x with untracked := true } s) := (setTag_only ..).wide _ rfl
          refine ⟨fun y hy => ⟨true, ?_⟩, fun j hj => tget_tset_ne _ _ hj, rfl, fun _ h => EvtSet.evt_same (s := setTag k _ s) h 3,
            hset.trans ((evt_only ..).wide _ rfl)⟩
          obtain rfl : x = y := Option.some.inj (hx.symm.trans hy)
          exact tget_tset_same ..

/-! ## A fetched entry -/

/-- What the fetch of an entry gives tag `k`, and what it leaves, where `chk` is the first check that fails. -/
structure Fetched (c qid : Nat) (e : Entry) (tnt : Option Nat) (chk : Option (Sc × Bool)) (k : Nat) (s t : State) : Prop where
  own : NoAer k s → ∃ x, tget t.nvq.tags k = some x ∧ x.ctrl = c ∧ x.qid = qid ∧ x.ent = e ∧ x.seq = s.nvq.seq ∧ x.tenant = tnt ∧
    (chk = none → x.st = .adm) ∧ (∀ sc dnr, chk = some (sc, dnr) → x.st = .post ∧ x.status = sc ∧ x.dnr = dnr)
  seq : t.nvq.seq = (s.nvq.seq + 1) % 2 ^ 32
  sqs : t.nvq.sqs = s.nvq.sqs
  evts : ∀ b, EvtSet .nvqEvt b s → EvtSet .nvqEvt b t
  calm : tnt = none ∨ chk = none → (∀ j, j ≠ k → tget t.nvq.tags j = tget s.nvq.tags j) ∧ OnlyChanges [.nvq, .qos, .cst, .regs] s t
  only : OnlyChanges (.qos :: faultParts) s t

theorem Fetched.enters {c qid k : Nat} {e : Entry} {tnt : Option Nat} {chk : Option (Sc × Bool)} {s t u : State}
    (h : Fetched c qid e tnt chk k s t) (g : OvlEnters k t u) : Fetched c qid e tnt chk k s u := by
  refine ⟨fun ha => ?_, ?_, ?_, fun b hb => g.evts b (h.evts b hb), fun hc => ?_, h.only.trans (g.only.wide _ rfl)⟩
  · obtain ⟨x, hx, hrest⟩ := h.own ha
    obtain ⟨b, hb⟩ := g.own x hx
    exact ⟨_, hb, hrest⟩
  · rw [g.nvq]; exact h.seq
  · rw [g.nvq]; exact h.sqs
  · obtain ⟨hothers, honly⟩ := h.calm hc
    exact ⟨fun j hj => (g.others j hj).trans (hothers j hj), honly.trans (g.only.wide _ rfl)⟩

theorem outHit_regs (k : Option Nat) (s : State) : OnlyRegs [regA .qosEvt, regA .fltEvt] s (outHit k s) := by
  unfold outHit
  split
  · split
    · refine ⟨fun a ha => ?_⟩
      rw [(raiseSrc_keeps ..).regs.same a (by simp_all), (evt_onlyRegs ..).same a (by simp_all)]
    · exact .refl _ _
  · exact .refl _ _

theorem outHit_nvq (k : Option Nat) (s : State) : ∃ ctrls tags n, (outHit k s).nvq = { s.nvq with ctrls, tags, postSeq := n } := by
  unfold outHit
  split
  · split
    · exact ⟨_, _, _, (raiseSrc_keeps ..).nvq⟩
    · exact ⟨_, _, _, rfl⟩
  · exact ⟨_, _, _, rfl⟩

/-- R121: what the end of an entry that fails a check leaves. -/
theorem checkFailed_fetched {k : Nat} {x : Tag} {s : State} (hst : x.st ≠ .post) (hf : x.fused = none) (sc : Sc) (dnr : Bool) :
    let t := checkFailed k x sc dnr s
    (NoAer k s → ∃ moved n, tget t.nvq.tags k = some (completed { x with uncharged := true } sc dnr 0 0 n moved)) ∧
    t.nvq.seq = s.nvq.seq ∧ t.nvq.sqs = s.nvq.sqs ∧ (∀ b, EvtSet .nvqEvt b s → EvtSet .nvqEvt b t) ∧
    (x.tenant = none → (∀ j, j ≠ k → tget t.nvq.tags j = tget s.nvq.tags j) ∧ OnlyChanges [.nvq, .qos] s t) ∧
    OnlyChanges (.qos :: faultParts) s t := by
  intro t
  obtain ⟨u, hu⟩ : ∃ u, u = postDnr k sc dnr 0 0 (setTag k { x with uncharged := true } s) := ⟨_, rfl⟩
  have ht : t = outHit x.tenant u := hu ▸ rfl
  have hou : OnlyChanges [.nvq, .qos] s u := hu ▸ ((setTag_only ..).wide _ rfl).trans (postDnr_only ..)
  obtain ⟨moved, hun⟩ := postDnr_completes (s := setTag k { x with uncharged := true } s) (tget_setTag_same ..) hst hf sc dnr 0 0
  rw [← hu] at hun
  have hothers (j : Nat) (hj : j ≠ k) : tget u.nvq.tags j = tget s.nvq.tags j := by
    rw [hun]
    exact (tget_tset_ne _ _ hj).trans (tget_tset_ne _ _ hj)
  obtain ⟨ctrls, tags, n, hn⟩ := outHit_nvq x.tenant u
  rw [← ht] at hn
  refine ⟨fun ha => ?_, ?_, ?_, fun b hb => ?_, fun hnone => ?_, ?_⟩
  · have ha' : NoAer k u := fun c z hz => ha c z (by rw [hun] at hz; exact hz)
    have hkept := ((outHit_cmds x.tenant u).kept k ha').2
    rw [ht, hkept, hun]
    exact ⟨moved, _, tget_tset_same ..⟩
  · rw [hn]; show u.nvq.seq = _; rw [hun]; rfl
  · rw [hn]; show u.nvq.sqs = _; rw [hun]; rfl
  · rw [ht]
    exact EvtSet.of_onlyRegs (hb.of_reg (by rw [hou.same .regs (by decide)])) (outHit_regs ..) (by decide)
  · rw [ht, hnone]
    exact ⟨hothers, hou⟩
  · rw [ht]
    exact (hou.wide _ rfl).trans ((outHit_only ..).wide _ rfl)

theorem tagTaken_fetched (c qid : Nat) (e : Entry) (k : Nat) (s : State) :
    Fetched c qid e (fetchedTag c qid e s).tenant none k s (tagTaken k (fetchedTag c qid e s) s) := by
  obtain ⟨hwm, hn⟩ := tagTaken_nvq k (fetchedTag c qid e s) s
  have honly := tagTaken_only k (fetchedTag c qid e s) s
  refine ⟨fun _ => ⟨fetchedTag c qid e s, ?_, rfl, rfl, rfl, rfl, rfl, fun _ => rfl, nofun⟩, ?_, ?_, fun b hb => ?_, fun _ => ⟨fun j hj => ?_, ?_⟩, ?_⟩
  · rw [hn]; exact tget_tset_same ..
  · rw [hn]
  · rw [hn]
  · exact hb.of_reg (by rw [honly.same .regs (by decide)])
  · rw [hn]; exact tget_tset_ne _ _ hj
  · exact honly.wide _ rfl
  · exact honly.wide _ rfl

theorem Fetched.failed {c qid k : Nat} {e : Entry} {x : Tag} {s t : State} (h : Fetched c qid e x.tenant none k s t)
    (hx : x.ctrl = c ∧ x.qid = qid ∧ x.ent = e ∧ x.seq = s.nvq.seq) (hst : x.st ≠ .post) (hf : x.fused = none) (ha : NoAer k s → NoAer k t)
    (sc : Sc) (dnr : Bool) : Fetched c qid e x.tenant (some (sc, dnr)) k s (checkFailed k x sc dnr t) := by
  obtain ⟨hown, hseq, hsqs, hevts, hcalm, honly⟩ := checkFailed_fetched (k := k) (s := t) hst hf sc dnr
  obtain ⟨hcx, hqx, hex, hsx⟩ := hx
  refine ⟨fun hno => ?_, hseq.trans h.seq, hsqs.trans h.sqs, fun b hb => hevts b (h.evts b hb), fun hc => ?_, h.only.trans honly⟩
  · obtain ⟨moved, n, hy⟩ := hown (ha hno)
    refine ⟨_, hy, hcx, hqx, hex, hsx, rfl, nofun, fun sc' dnr' heq => ?_⟩
    obtain ⟨rfl, rfl⟩ := Prod.mk.inj (Option.some.inj heq)
    exact ⟨rfl, rfl, rfl⟩
  · obtain ⟨hothers, ho⟩ := hcalm (hc.resolve_right nofun)
    obtain ⟨hothers', ho'⟩ := h.calm (.inr rfl)
    exact ⟨fun j hj => (hothers j hj).trans (hothers' j hj), ho'.trans (ho.wide _ rfl)⟩

/-- R110, R121: an entry takes the lowest free tag, with its end prepared where a check fails. -/
theorem assign_fetched (c qid : Nat) (e : Entry) {s : State} (hroom : s.nvq.tags.length < 65535) :
    (assign c qid e none s).1 = freeTagFrom 0 s.nvq.tags ∧
      Fetched c qid e (fetchedTag c qid e s).tenant (checkCmd s c qid e) (freeTagFrom 0 s.nvq.tags) s (assign c qid e none s).2 := by
  rw [assign_eq hroom]
  refine ⟨rfl, ?_⟩
  have htaken := tagTaken_fetched c qid e (freeTagFrom 0 s.nvq.tags) s
  cases checkCmd s c qid e with
  | none => exact htaken
  | some f =>
    obtain ⟨sc, dnr⟩ := f
    refine htaken.failed ⟨rfl, rfl, rfl, rfl⟩ nofun rfl (fun ha d z hz => ha d z ?_) sc dnr
    obtain ⟨hwm, hn⟩ := tagTaken_nvq (freeTagFrom 0 s.nvq.tags) (fetchedTag c qid e s) s
    rw [hn] at hz
    exact hz

/-! ## One entry of a queue -/

theorem fetchList_nil (c qid n present : Nat) (s : State) : fetchList c qid n present [] s = s := by cases n <;> rfl

theorem isFirst_of_plain {e : Entry} (hf : fuseOf e = 0) (qid : Nat) : isFirst qid e = false := by simp [isFirst, hf]

theorem alone_of_plain {e : Entry} (hf : fuseOf e = 0) (c qid k : Nat) (s : State) : alone c qid k e s = enterOvl k s := by
  rw [alone, if_neg (by simp [isFirst_of_plain hf]), if_neg (by omega)]

theorem fetchList_one {c qid n present : Nat} {e : Entry} {q : Sq} {s : State} (hn : 0 < n) (hq : sqAt s (qkey c qid) = some q)
    (hfree : tagsFree s qid = true) (hhalf : q.half = none) (hf : fuseOf e = 0) :
    fetchList c qid n present [e] s = enterOvl (fetchOne c qid e s).1 (fetchOne c qid e s).2 := by
  obtain ⟨m, rfl⟩ : ∃ m, n = m + 1 := ⟨n - 1, by omega⟩
  have hhalf' : ((sqAt s (qkey c qid)).bind (·.half)) = none := by rw [hq]; exact hhalf
  rw [fetchList, if_neg (by simp [hfree]), if_neg (by simp [isFirst_of_plain hf])]
  simp only [fetchList_nil, hhalf', pairUp, alone_of_plain hf]

/-- The queue once its entry is fetched. -/
def headMoved (q : Sq) : Sq := { q with head := (q.head + 1) % q.size }

/-- A queue's one entry is fetched from state `u`, in which checks and classification are as in state `s`. -/
theorem fetchOne_fetched {c qid : Nat} {e : Entry} {s u : State} (h : ChecksAlike s u) (htags : u.nvq.tags = s.nvq.tags)
    (hroom : s.nvq.tags.length < 65535) :
    let t := enterOvl (fetchOne c qid e u).1 (fetchOne c qid e u).2
    Fetched c qid e (if qid = 0 then none else classify s c (entNsid e)) (checkCmd s c qid e) (freeTagFrom 0 s.nvq.tags)
      (modSq (qkey c qid) headMoved u) t := by
  intro t
  have halike := h.trans (modSq_alike (qkey c qid) headMoved u)
  have htags' : (modSq (qkey c qid) headMoved u).nvq.tags = s.nvq.tags := htags
  obtain ⟨hk, hfetched⟩ := assign_fetched c qid e (s := modSq (qkey c qid) headMoved u) (by rw [htags']; exact hroom)
  have htnt : (fetchedTag c qid e (modSq (qkey c qid) headMoved u)).tenant = if qid = 0 then none else classify s c (entNsid e) := by
    rw [← halike.classify]; rfl
  rw [htnt, halike.checkCmd, htags'] at hfetched
  rw [htags'] at hk
  have hend := hfetched.enters (enterOvl_enters _ _)
  rw [← hk] at hend ⊢
  exact hend

/-! ## A queue's turn -/

/-- A queue has its turn: a spilled context is noted, and the choice of its controller is served. -/
def turnTaken (c qid : Nat) (q : Sq) (s : State) : State :=
  let s1 := if qid ≠ 0 ∧ !q.hot then evt .nvqEvt 1 s else s
  if qid ≠ 0 then serveCtrl c s1 else s1

theorem spillNoted_alike (qid : Nat) (q : Sq) (s : State) : ChecksAlike s (if qid ≠ 0 ∧ !q.hot then evt .nvqEvt 1 s else s) :=
  .cond (evt_alike ..) (.refl s)

theorem turnTaken_alike (c qid : Nat) (q : Sq) (s : State) : ChecksAlike s (turnTaken c qid q s) := by
  unfold turnTaken
  exact .cond ((spillNoted_alike ..).trans (serveCtrl_alike ..)) (spillNoted_alike ..)

theorem serveCtrl_nvq (c : Nat) (s : State) : (serveCtrl c s).nvq = { s.nvq with lastCtl := c } := by
  unfold serveCtrl
  extract_lets s1
  have h1 : s1.nvq = s.nvq := by
    unfold s1
    split
    · rfl
    · exact (qosServe_only ..).same .nvq (by decide)
  rw [onNvq_nvq, h1]

theorem serveCtrl_only (c : Nat) (s : State) : OnlyChanges [.nvq, .qos] s (serveCtrl c s) := by
  unfold serveCtrl
  extract_lets s1
  have h1 : OnlyChanges [.nvq, .qos] s s1 := .cond (fun _ => .refl _ _) fun _ => (qosServe_only ..).wide _ rfl
  have h2 : OnlyChanges [.nvq, .qos] s1 (onNvq (fun n => { n with lastCtl := c }) s1) := (onNvq_only ..).wide _ rfl
  exact h1.trans h2

theorem turnTaken_nvq (c qid : Nat) (q : Sq) (s : State) : ∃ last, (turnTaken c qid q s).nvq = { s.nvq with lastCtl := last } := by
  unfold turnTaken
  extract_lets s1
  have h1 : s1.nvq = s.nvq := by unfold s1; split <;> rfl
  split
  · exact ⟨c, by rw [serveCtrl_nvq, h1]⟩
  · exact ⟨s.nvq.lastCtl, by rw [h1]⟩

/-- R108: the fetch for a queue whose context is spilled is noted. -/
theorem turnTaken_spill {c qid : Nat} {q : Sq} {s : State} (hqid : qid ≠ 0) (hhot : q.hot = false) : EvtSet .nvqEvt 1 (turnTaken c qid q s) := by
  rw [turnTaken, if_pos hqid, if_pos ⟨hqid, by simp [hhot]⟩]
  exact (evtSet_evt .nvqEvt 1 (by decide) s).of_reg (by rw [(serveCtrl_only ..).same .regs (by decide)])

theorem fetchMax_pos (s : State) : 0 < fetchMax s := by
  unfold fetchMax
  extract_lets v
  split <;> omega

theorem arbBurst_pos (x : Ctrl) : 0 < arbBurst x := by
  unfold arbBurst
  extract_lets ab
  split
  · decide
  · exact Nat.two_pow_pos ab

theorem canFetch_queue {c qid : Nat} {q : Sq} {s : State} (hq : sqAt s (qkey c qid) = some q) (h : canFetch s c qid = true) :
    tagsFree s qid = true ∧ q.head ≠ q.tail := by
  simp only [canFetch, hq, Bool.and_eq_true, bne_iff_ne, ne_eq] at h
  exact ⟨h.1.1.2, h.2.1.1.1⟩

theorem exec_submissionFetch {c qid : Nat} {q : Sq} {s : State} (hq : sqAt s (qkey c qid) = some q) (hcan : canFetch s c qid = true)
    (hturn : queueTurn s c qid q = true) (hctrl : qid ≠ 0 → ctrlTurn s c = true) :
    (∀ es, exec (.submissionFetch c qid (.entries es)) s = .next (fetchFrom c qid es s)) ∧
      exec (.submissionFetch c qid .failed) s = .next (modSq (qkey c qid) (fun q => { q with retry := true }) s) := by
  have hgo : ¬(!canFetch s c qid || !queueTurn s c qid q || (qid != 0 && !ctrlTurn s c)) = true := by
    by_cases h0 : qid = 0
    · subst h0
      simp [hcan, hturn]
    · simp [hcan, hturn, hctrl h0]
  simp only [exec, execSubmissionFetch, hq, if_neg hgo, implies_true, and_self]

theorem fetchFrom_one {c qid : Nat} {e : Entry} {q : Sq} {s : State} (hq : sqAt s (qkey c qid) = some q) (hcan : canFetch s c qid = true)
    (hhead : q.head < q.size) (htail : q.tail < q.size) (hhalf : q.half = none) (hf : fuseOf e = 0) :
    let x := fetchOne c qid e (turnTaken c qid q s)
    ∃ f, fetchFrom c qid [e] s =
      if qid ≠ 0 then makeHot (qkey c qid) (modCtrl c f (enterOvl x.1 x.2)) else modCtrl c f (enterOvl x.1 x.2) := by
  intro x
  obtain ⟨hfree, hne⟩ := canFetch_queue hq hcan
  obtain ⟨last, hn⟩ := turnTaken_nvq c qid q s
  have hpresent : 0 < (q.tail + q.size - q.head) % q.size := by
    rcases Nat.lt_or_gt_of_ne hne with hlt | hlt
    · rw [show q.tail + q.size - q.head = q.tail - q.head + q.size by omega, Nat.add_mod_right, Nat.mod_eq_of_lt (by omega)]
      omega
    · rw [Nat.mod_eq_of_lt (by omega)]
      omega
  have hburst : 0 < if (ctrlAt s c).lastQ = qid ∧ 0 < (ctrlAt s c).burst then (ctrlAt s c).burst else arbBurst (ctrlAt s c) := by
    split
    · omega
    · exact arbBurst_pos _
  have htake (n : Nat) (h : 0 < n) : [e].take n = [e] := List.take_of_length_le h
  have hlist (n present : Nat) (h : 0 < n) : fetchList c qid n present [e] (turnTaken c qid q s) = enterOvl x.1 x.2 :=
    fetchList_one h (by rw [sqAt, hn]; exact hq) (by rw [tagsFree, hn]; exact hfree) hhalf hf
  simp only [fetchFrom, hq, htake _ hpresent]
  have hcount : 0 < min (fetchMax s) (min ((q.tail + q.size - q.head) % q.size)
      (if (ctrlAt s c).lastQ = qid ∧ 0 < (ctrlAt s c).burst then (ctrlAt s c).burst else arbBurst (ctrlAt s c))) := by
    have := fetchMax_pos s
    omega
  exact ⟨_, by rw [← hlist _ _ hcount]; rfl⟩

/-- What the end of a queue's turn leaves. -/
structure TurnEnds (s t : State) : Prop where
  tags : t.nvq.tags = s.nvq.tags
  seq : t.nvq.seq = s.nvq.seq
  heads : ∀ k, (sqAt t k).map (·.head) = (sqAt s k).map (·.head)
  only : OnlyChanges [.nvq] s t

theorem HotKeeps.ends {s t : State} (h : HotKeeps s t) : TurnEnds s t := by
  refine ⟨by rw [h.nvq], by rw [h.nvq], fun k => ?_, h.only⟩
  have hhead := congrArg (Option.map fun x : Sq => x.head) (h.queues k)
  rw [Option.map_map, Option.map_map] at hhead
  exact hhead

theorem turn_ends (c qid : Nat) (f : Ctrl → Ctrl) (s : State) :
    TurnEnds s (if qid ≠ 0 then makeHot (qkey c qid) (modCtrl c f s) else modCtrl c f s) := by
  have hcharge : TurnEnds s (modCtrl c f s) := ⟨rfl, rfl, fun _ => rfl, modCtrl_only ..⟩
  split
  · obtain ⟨htags, hseq, hheads, honly⟩ := (makeHot_hot (qkey c qid) (modCtrl c f s)).ends
    exact ⟨htags, hseq, hheads, hcharge.only.trans honly⟩
  · exact hcharge

/-- What the fetch of a queue's one entry leaves (R109, R110, R121, R295). -/
theorem submissionFetch_one {c qid : Nat} {e : Entry} {q : Sq} {s : State} (hq : sqAt s (qkey c qid) = some q)
    (hcan : canFetch s c qid = true) (hhead : q.head < q.size) (htail : q.tail < q.size) (hhalf : q.half = none) (hf : fuseOf e = 0)
    (hroom : s.nvq.tags.length < 65535) :
    Fetched c qid e (if qid = 0 then none else classify s c (entNsid e)) (checkCmd s c qid e) (freeTagFrom 0 s.nvq.tags)
      (modSq (qkey c qid) headMoved (turnTaken c qid q s))
      (enterOvl (fetchOne c qid e (turnTaken c qid q s)).1 (fetchOne c qid e (turnTaken c qid q s)).2) ∧
    TurnEnds (enterOvl (fetchOne c qid e (turnTaken c qid q s)).1 (fetchOne c qid e (turnTaken c qid q s)).2) (fetchFrom c qid [e] s) := by
  obtain ⟨last, hn⟩ := turnTaken_nvq c qid q s
  obtain ⟨f, hfrom⟩ := fetchFrom_one hq hcan hhead htail hhalf hf
  exact ⟨fetchOne_fetched (turnTaken_alike ..) (by rw [hn]) hroom, hfrom ▸ turn_ends ..⟩

theorem exec_fetchRetry {c qid : Nat} {q : Sq} {s : State} (hq : sqAt s (qkey c qid) = some q) (hr : q.retry = true)
    (hm : s.sys.mode.serving = true) :
    let u := modSq (qkey c qid) (fun q => { q with retry := false }) s
    (∀ es, exec (.fetchRetry c qid (.entries es)) s = .next (if canFetch u c qid then fetchFrom c qid es u else u)) ∧
      exec (.fetchRetry c qid .failed) s = .next (stopQueue c qid .dataTransfer u) := by
  have hgo : ¬(!q.retry || !s.sys.mode.serving) = true := by simp [hr, hm]
  simp only [exec, execFetchRetry, hq, if_neg hgo, implies_true, and_self]

theorem logErr_keeps (c : Nat) (e : ErrEntry) (s : State) : FaultKeeps s (logErr c e s) := by
  unfold logErr modCtrl
  exact .ofNvq _ _ rfl

/-- R112: a queue that is stopped is marked, with its event, its record and its source. -/
theorem stopQueue_stops {c qid : Nat} {q : Sq} {sc : Sc} {s : State} (hq : sqAt s (qkey c qid) = some q) (hm : s.sys.mode ≠ .dormant) :
    let t := stopQueue c qid sc s
    sqAt t (qkey c qid) = some { q with stopped := true } ∧ EvtSet .nvqEvt 5 t ∧ Latched 182 t ∧
      (s.nvq.sqStop = none → t.nvq.sqStop = some (c, qid)) ∧ OnlyChanges faultParts s t := by
  intro t
  unfold t stopQueue
  extract_lets s2 s3 s4
  have h2 : OnlyChanges faultParts s s2 := (modSq_only ..).wide _ rfl
  have h3 : FaultKeeps s2 (sendAen c .persistentInternal s3) := (logErr_keeps ..).trans (sendAen_keeps ..)
  have h4 : OnlyChanges faultParts (sendAen c .persistentInternal s3) s4 := (onNvq_only ..).wide _ rfl
  have hmode : s4.sys.mode ≠ .dormant := by
    show (sendAen c .persistentInternal s3).sys.mode ≠ _
    rw [h3.sys]
    exact hm
  obtain ⟨hlatch, hraise⟩ : RaisedFrom 182 _ (raiseSrc 182 (evt .nvqEvt 5 s4)) := raiseSrc_raised 182 _ (by decide) hmode
  have hn4 : (evt .nvqEvt 5 s4).nvq = { (sendAen c .persistentInternal s3).nvq with
      sqStop := (sendAen c .persistentInternal s3).nvq.sqStop.or (some (c, qid)) } := rfl
  refine ⟨?_, (evtSet_evt .nvqEvt 5 (by decide) s4).of_onlyRegs hraise.regs (by decide), hlatch, fun hnone => ?_, ?_⟩
  · have hsqs : (raiseSrc 182 (evt .nvqEvt 5 s4)).nvq.sqs = s2.nvq.sqs := by rw [hraise.nvq, hn4, h3.nvq]
    rw [sqAt_of_sqs hsqs, sqAt_modSq, if_pos rfl, hq]
    rfl
  · rw [hraise.nvq, hn4, h3.nvq]
    show s.nvq.sqStop.or (some (c, qid)) = _
    rw [hnone]
    rfl
  · exact h2.trans (h3.rest.trans (h4.trans (((evt_only ..).wide _ rfl).trans hraise.rest)))

/-- Settles O42: the entry of a queue that has its turn takes its tag in a state whose checks are those of the first. -/
theorem submissionFetches : Obligations.SubmissionFetches := by
  refine ⟨?_, ?_, ?_, ?_, ?_⟩
  · intro c qid e q s hq hcan hturn hctrl hhead htail hhalf hf hrise hroom k tnt
    refine ⟨freeTagFrom_free hrise fun _ _ => Nat.zero_le _, _, (exec_submissionFetch hq hcan hturn hctrl).1 [e], ?_⟩
    obtain ⟨hfetched, hends⟩ := submissionFetch_one (e := e) hq hcan hhead htail hhalf hf hroom
    obtain ⟨last, hn⟩ := turnTaken_nvq c qid q s
    have honly := (turnTaken_alike c qid q s).only
    refine ⟨fun ha => ?_, ?_, ?_, fun hqid hhot => ?_, fun hc => ⟨fun j hj => ?_, ?_⟩, ?_⟩
    · rw [hends.tags]
      have hseq : (turnTaken c qid q s).nvq.seq = s.nvq.seq := by rw [hn]
      have hown := hfetched.own fun d z hz => ha d z (by rw [← (turnTaken_alike c qid q s).ctrls]; exact hz)
      exact hseq ▸ hown
    · rw [hends.seq, hfetched.seq]
      show ((turnTaken c qid q s).nvq.seq + 1) % _ = _
      rw [hn]
    · rw [hends.heads, sqAt_of_sqs hfetched.sqs, sqAt_modSq, if_pos rfl, sqAt, hn]
      show ((sqAt s (qkey c qid)).map headMoved).map _ = _
      rw [hq]
      rfl
    · exact (hfetched.evts 1 (turnTaken_spill hqid hhot)).of_reg (by rw [hends.only.same .regs (by decide)])
    · rw [hends.tags, (hfetched.calm hc).1 j hj]
      show tget (turnTaken c qid q s).nvq.tags j = _
      rw [hn]
    · exact (honly.wide _ rfl).trans (((modSq_only ..).wide _ rfl).trans ((hfetched.calm hc).2.trans (hends.only.wide _ rfl)))
    · exact (honly.wide _ rfl).trans (((modSq_only ..).wide _ rfl).trans (hfetched.only.trans (hends.only.wide _ rfl)))
  · intro c qid q s hq hcan hturn hctrl
    refine ⟨_, (exec_submissionFetch hq hcan hturn hctrl).2, ?_, fun j hj => ?_, modSq_only ..⟩
    · rw [sqAt_modSq, if_pos rfl, hq]; rfl
    · rw [sqAt_modSq, if_neg hj]
  · intro c qid r s hcan
    simp only [exec, execSubmissionFetch, hcan, Bool.not_false, Bool.true_or, if_true]
    split <;> rfl
  · intro c qid q es s hq hr hm u hcan
    rw [(exec_fetchRetry hq hr hm).1 es, if_pos hcan]
  · intro c qid q s hq hr hm
    have hq' : sqAt (modSq (qkey c qid) (fun q => { q with retry := false }) s) (qkey c qid) = some { q with retry := false } := by
      rw [sqAt_modSq, if_pos rfl, hq]; rfl
    have hmode : s.sys.mode ≠ .dormant := by
      intro h
      rw [h] at hm
      exact absurd hm (by decide)
    obtain ⟨hsq, hevt, hlatch, hstop, honly⟩ := stopQueue_stops (sc := .dataTransfer) hq' hmode
    exact ⟨_, (exec_fetchRetry hq hr hm).2, hsq, hevt, hlatch, hstop, ((modSq_only ..).wide _ rfl).trans honly⟩

end Sys2Proof

namespace Sys2Proof

open Machine

/-! Controller enable, resets and shutdown (R125 to R127). -/

/-! ## Enabling a controller -/

theorem placeWaiting_of_none {s : State} (h : s.fte.wait = []) : placeWaiting s = s := by
  have hfte : { s.fte with wait := [] } = s.fte := by rw [← h]
  rw [placeWaiting, h]
  exact congrArg (fun f => { s with fte := f }) hfte

/-- A controller that is enabled, before it is ready. -/
def ctrlEnabled (x : Ctrl) (ams mps : Nat) : Ctrl := { x with en := true, rdy := false, shn := false, ams, mps }

/-- A controller is enabled: its settings, its admin queues, and the state of the partner-facing link. -/
def enabledFrom (c ams mps asqs acqs : Nat) (x : Ctrl) (s : State) : State :=
  let s1 := onNvq (fun n => { n with sqs := tset n.sqs (qkey c 0) { size := asqs + 1, hot := true },
                                     cqs := tset n.cqs (qkey c 0) { size := acqs + 1 } }) (setCtrl c (ctrlEnabled x ams mps) (wake s))
  if isPface s (ctrlLink s c) then onHpc (fun h => { h with pfState := 2 }) s1 else s1

section

variable (c ams mps asqs acqs : Nat) (x : Ctrl) (s : State)

/-- What a controller's enabling sets and leaves. -/
structure Enables (y : Ctrl) (t : State) : Prop where
  own : ctrlAt t c = y
  queues : tget t.nvq.sqs (qkey c 0) = some { size := asqs + 1, hot := true } ∧ tget t.nvq.cqs (qkey c 0) = some { size := acqs + 1 }
  others : (∀ k, k ≠ qkey c 0 → tget t.nvq.sqs k = tget s.nvq.sqs k) ∧ ∀ d, d ≠ c → ctrlAt t d = ctrlAt s d
  tags : t.nvq.tags = s.nvq.tags
  only : OnlyChanges [.nvq, .hpc, .sys] s t

theorem enabledFrom_nvq : (enabledFrom c ams mps asqs acqs x s).nvq = { s.nvq with
    ctrls := tset s.nvq.ctrls c (ctrlEnabled x ams mps), sqs := tset s.nvq.sqs (qkey c 0) { size := asqs + 1, hot := true },
    cqs := tset s.nvq.cqs (qkey c 0) { size := acqs + 1 } } := by
  unfold enabledFrom
  extract_lets s1
  have h1 : s1.nvq = { s.nvq with
      ctrls := tset s.nvq.ctrls c (ctrlEnabled x ams mps), sqs := tset s.nvq.sqs (qkey c 0) { size := asqs + 1, hot := true },
      cqs := tset s.nvq.cqs (qkey c 0) { size := acqs + 1 } } := by
    rw [← wake_nvq s]; rfl
  rw [← h1]
  split <;> rfl

theorem enabledFrom_fns : (enabledFrom c ams mps asqs acqs x s).hpc.fns = s.hpc.fns := by
  unfold enabledFrom
  extract_lets s1
  have h1 : s1.hpc.fns = s.hpc.fns := congrArg Hpc.fns (wake_hpc s)
  split <;> exact h1

theorem enabledFrom_only : OnlyChanges [.nvq, .hpc, .sys] s (enabledFrom c ams mps asqs acqs x s) := by
  unfold enabledFrom
  extract_lets s1
  have hset : OnlyChanges [.nvq, .hpc, .sys] (wake s) (setCtrl c (ctrlEnabled x ams mps) (wake s)) := (setCtrl_only ..).wide _ rfl
  have hqueues : OnlyChanges [.nvq, .hpc, .sys] (setCtrl c (ctrlEnabled x ams mps) (wake s)) s1 := (onNvq_only ..).wide _ rfl
  have h1 : OnlyChanges [.nvq, .hpc, .sys] s s1 := ((wake_only s).wide _ rfl).trans (hset.trans hqueues)
  exact .cond (fun _ => h1.trans ((onHpc_only ..).wide _ rfl)) fun _ => h1

theorem enabledFrom_enables : Enables c asqs acqs s (ctrlEnabled x ams mps) (enabledFrom c ams mps asqs acqs x s) := by
  have hn := enabledFrom_nvq c ams mps asqs acqs x s
  refine ⟨?_, ⟨?_, ?_⟩, ⟨fun k hk => ?_, fun d hd => ?_⟩, by rw [hn], enabledFrom_only ..⟩
  · exact ctrlAt_of_tget (by rw [hn]; exact tget_tset_same ..)
  · rw [hn]; exact tget_tset_same ..
  · rw [hn]; exact tget_tset_same ..
  · rw [hn]; exact tget_tset_ne _ _ hk
  · rw [ctrlAt, tgetD, hn, tget_tset_ne _ _ hd]; rfl

theorem canReady_enabledFrom :
    canReady (enabledFrom c ams mps asqs acqs x s) c = canReady (setCtrl c { x with mps } s) c := by
  have hfn (d : Nat) : fnAt (enabledFrom c ams mps asqs acqs x s) d = fnAt s d := by
    rw [fnAt, enabledFrom_fns, fnAt]
  have hown := (enabledFrom_enables c ams mps asqs acqs x s).own
  have hset : ctrlAt (setCtrl c { x with mps } s) c = { x with mps } := by rw [ctrlAt_setCtrl, if_pos rfl]
  simp only [canReady, vqRes, viRes, hown, hset, hfn] <;> rfl

end

/-- A controller becomes ready. -/
theorem makeReady_enables {c asqs acqs : Nat} {y : Ctrl} {s t : State} (h : Enables c asqs acqs s y t) (hy : tget t.nvq.ctrls c = some y)
    (hw : t.fte.wait = []) : Enables c asqs acqs s { y with rdy := true } (makeReady c t) := by
  have hset : Enables c asqs acqs s { y with rdy := true } (modCtrl c (fun x => { x with rdy := true }) t) := by
    refine ⟨?_, h.queues, ⟨h.others.1, fun d hd => ?_⟩, h.tags, h.only.trans ((modCtrl_only ..).wide _ rfl)⟩
    · rw [ctrlAt_modCtrl_same hy, h.own]
    · rw [ctrlAt_modCtrl_ne hd]; exact h.others.2 d hd
  unfold makeReady
  extract_lets s1
  split
  · rw [placeWaiting_of_none (by exact hw)]
    exact ⟨hset.own, hset.queues, hset.others, hset.tags, hset.only.trans ((onNvq_only ..).wide _ rfl)⟩
  · exact hset

theorem exec_controllerEnable {c : Nat} {x : Ctrl} {s : State} (hx : tget s.nvq.ctrls c = some x) (hen : x.en = false)
    (hm : s.sys.mode.serving = true ∨ s.sys.mode = .boot) (ams mps asqs acqs : Nat) : exec (.controllerEnable c ams mps asqs acqs) s =
      .next (if s.sys.mode = .boot ∨ !canReady (enabledFrom c ams mps asqs acqs x s) c then enabledFrom c ams mps asqs acqs x s
        else makeReady c (enabledFrom c ams mps asqs acqs x s)) := by
  have hgo : ¬(x.en || (!s.sys.mode.serving && s.sys.mode != .boot && s.sys.mode != .standpipe)) = true := by
    rcases hm with h | h <;> simp [hen, h]
  simp only [exec, execControllerEnable, hx, if_neg hgo]
  rfl

theorem exec_controllerEnable_enabled {c : Nat} {s : State} (hen : (ctrlAt s c).en = true) (ams mps asqs acqs : Nat) :
    exec (.controllerEnable c ams mps asqs acqs) s = .next s := by
  cases hx : tget s.nvq.ctrls c with
  | none => simp only [exec, execControllerEnable, hx]
  | some x =>
    rw [ctrlAt_of_tget hx] at hen
    simp only [exec, execControllerEnable, hx, hen, Bool.true_or, if_true]

/-! ## Marks that only a controller's own commands change -/

/-- Every controller keeps its marks of a reset of the subsystem and of a shutdown. -/
def MarksKept (s t : State) : Prop :=
  ∀ d x, tget s.nvq.ctrls d = some x → ∃ y, tget t.nvq.ctrls d = some y ∧ y.nssro = x.nssro ∧ y.shn = x.shn

theorem MarksKept.of_ctrls {s t : State} (h : t.nvq.ctrls = s.nvq.ctrls) : MarksKept s t := fun _ x hx => ⟨x, by rw [h, hx], rfl, rfl⟩

theorem MarksKept.trans {s t u : State} (h : MarksKept s t) (g : MarksKept t u) : MarksKept s u := by
  intro d x hx
  obtain ⟨y, hy, hyn, hys⟩ := h d x hx
  obtain ⟨z, hz, hzn, hzs⟩ := g d y hy
  exact ⟨z, hz, hzn.trans hyn, hzs.trans hys⟩

theorem MarksKept.setCtrl {c : Nat} {x y : Ctrl} {s : State} (hx : tget s.nvq.ctrls c = some x) (hy : y.nssro = x.nssro ∧ y.shn = x.shn) :
    MarksKept s (setCtrl c y s) := by
  intro d z hz
  simp only [Machine.setCtrl, tget_tset]
  split
  · rename_i hd
    obtain rfl : x = z := Option.some.inj (hx.symm.trans (hd ▸ hz))
    exact ⟨y, rfl, hy⟩
  · exact ⟨z, hz, rfl, rfl⟩

theorem MarksKept.modCtrl {f : Ctrl → Ctrl} (hf : ∀ x, (f x).nssro = x.nssro ∧ (f x).shn = x.shn) (c : Nat) (s : State) :
    MarksKept s (modCtrl c f s) := by
  intro d x hx
  rw [tget_modCtrl]
  split
  · rename_i hd
    rw [← hd, hx]
    exact ⟨f x, rfl, hf x⟩
  · exact ⟨x, hx, rfl, rfl⟩

theorem sendAen_marks (c : Nat) (a : Aen) (s : State) : MarksKept s (sendAen c a s) := by
  unfold sendAen
  split
  · exact .of_ctrls rfl
  · rename_i x hx
    split
    · exact .of_ctrls rfl
    · split
      · exact .setCtrl hx ⟨rfl, rfl⟩
      · rename_i k ks _
        have hset : MarksKept s (setCtrl c { x with aers := ks } s) := .setCtrl hx ⟨rfl, rfl⟩
        exact hset.trans (.of_ctrls (setPost_ctrls ..))

theorem MarksKept.cmds : CmdRel MarksKept where
  refl _ := .of_ctrls rfl
  trans := .trans
  outside h := .of_ctrls (by rw [h])
  aen := sendAen_marks
  errLog c e s := by
    unfold logErr
    refine .modCtrl ?_ c s
    exact fun _ => ⟨rfl, rfl⟩
  tables _ _ _ h := .of_ctrls h
  ahead _ _ _ := .of_ctrls rfl
  reserved _ _ := .of_ctrls rfl

/-- The mark of a reset of the subsystem outlives the reset of a controller. -/
def NssrosKept (s t : State) : Prop := ∀ d x, tget s.nvq.ctrls d = some x → ∃ y, tget t.nvq.ctrls d = some y ∧ (x.nssro = true → y.nssro = true)

theorem NssrosKept.trans {s t u : State} (h : NssrosKept s t) (g : NssrosKept t u) : NssrosKept s u := by
  intro d x hx
  obtain ⟨y, hy, hyn⟩ := h d x hx
  obtain ⟨z, hz, hzn⟩ := g d y hy
  exact ⟨z, hz, fun h => hzn (hyn h)⟩

theorem MarksKept.nssros {s t : State} (h : MarksKept s t) : NssrosKept s t := by
  intro d x hx
  obtain ⟨y, hy, hyn, -⟩ := h d x hx
  exact ⟨y, hy, fun hn => hyn.trans hn⟩

theorem NssrosKept.modCtrl {f : Ctrl → Ctrl} (hf : ∀ x, x.nssro = true → (f x).nssro = true) (c : Nat) (s : State) :
    NssrosKept s (modCtrl c f s) := by
  intro d x hx
  rw [tget_modCtrl]
  split
  · rename_i hd
    rw [← hd, hx]
    exact ⟨f x, rfl, hf x⟩
  · exact ⟨x, hx, id⟩

theorem endCmds_marks (p : Tag → Bool) (s : State) : MarksKept s (endCmds p s) := by
  have hR := MarksKept.cmds
  refine hR.each _ _ _ fun k s => ?_
  split
  · refine rel_ite (hR.endCmd ?_ s) (hR.refl s)
    exact fun _ => .of_ctrls rfl
  · exact hR.refl s

theorem resetCtrl_nssros (c : Nat) (s : State) : NssrosKept s (resetCtrl c s) := by
  unfold resetCtrl
  extract_lets s1 clear s2
  have hR := MarksKept.cmds
  have h1 : MarksKept s s1 := endCmds_marks _ s
  have htest : MarksKept s1 (if s1.pwr.selfTest.any fun x => x.1 == c then endSelfTest 2 0 s1 else s1) :=
    hR.when (.of_ctrls (by rw [(endSelfTest_only ..).same .nvq (by decide)]))
  have h2 : NssrosKept (if s1.pwr.selfTest.any fun x => x.1 == c then endSelfTest 2 0 s1 else s1) s2 :=
    NssrosKept.modCtrl (f := clear) (fun _ => id) c _
  refine (h1.trans htest).nssros.trans (h2.trans ?_)
  exact MarksKept.nssros (.of_ctrls rfl)

theorem rescale_marks (s : State) : MarksKept s (rescale s) := by
  have hR := MarksKept.cmds
  obtain ⟨u, hu, h | h⟩ := rescale_cases s <;> rw [h]
  · exact hR.outside (hu.same .nvq (by decide))
  · exact hR.trans (hR.outside (hu.same .nvq (by decide))) (hR.raiseSrc 187 u)

theorem checkShut_marks (last : Option Nat) (s : State) : MarksKept s (checkShut last s) := by
  have hR := MarksKept.cmds
  refine rel_ite (hR.refl s) (hR.trans ?_ (hR.closeDue _))
  exact .of_ctrls rfl

/-! ## Resets -/

/-- R125, in the terms of the obligations. -/
theorem CmdsReset.ctrlsReset {cs : List Nat} {s t : State} (h : CmdsReset cs s t) (hp : OnlyChanges (.hpc :: resetParts) s t) :
    CtrlsReset cs s t where
  ctrls c hc := ⟨(h.ctrls c hc).en, (h.ctrls c hc).rdy, (h.ctrls c hc).shn, (h.ctrls c hc).feats, (h.ctrls c hc).aers⟩
  queues := h.queues
  others := h.others
  tags k x hx := (h.tags k x hx).1
  rest := .of_only hp rfl

theorem wake_reset (s : State) : CmdsReset [] s (wake s) := .of_nvq (wake_nvq s)

theorem controllerReset_resets (c : Nat) (s : State) : CtrlsReset [c] s (checkShut none (rescale (resetCtrl c (wake s)))) := by
  have hgone : CtrlsGone [c] (wake s) (checkShut none (rescale (resetCtrl c (wake s)))) :=
    ((resetCtrl_gone ..).trans_nil (rescale_gone _)).trans_nil (checkShut_gone ..)
  exact ((wake_reset s).trans hgone.cmds).ctrlsReset (((wake_only s).wide _ rfl).trans (hgone.parts.wide _ rfl))

/-- The reset of a controller by a reset of the subsystem leaves its mark (R421). -/
def nssroReset (c : Nat) (s : State) : State := modCtrl c (fun x => { x with nssro := true }) (resetCtrl c s)

theorem nssroReset_gone (c : Nat) (s : State) : CtrlsGone [c] s (nssroReset c s) := by
  have hmark (u : State) : CmdsReset [] u (modCtrl c (fun x => { x with nssro := true }) u) := by
    unfold modCtrl tmod
    split
    · rename_i x hx
      refine setCtrl_reset fun ho => ?_
      rw [← ctrlAt_of_tget hx]
      exact ⟨ho.en, ho.rdy, ho.shn, ho.feats, ho.aers⟩
    · exact .of_nvq rfl
  exact (resetCtrl_gone c s).trans_nil (.of_nvq (modCtrl_only ..) (hmark _))

theorem nssroReset_nssros (c : Nat) (s : State) : NssrosKept s (nssroReset c s) :=
  (resetCtrl_nssros c s).trans (.modCtrl (f := fun x => { x with nssro := true }) (fun _ _ => rfl) c _)

theorem nssroReset_marks {c : Nat} {x : Ctrl} {s : State} (hx : tget s.nvq.ctrls c = some x) :
    ∃ y, tget (nssroReset c s).nvq.ctrls c = some y ∧ y.nssro = true := by
  obtain ⟨y, hy, -⟩ := resetCtrl_nssros c s c x hx
  exact ⟨{ y with nssro := true }, by rw [nssroReset, tget_modCtrl, if_pos rfl, hy]; rfl, rfl⟩

theorem nssroResets_gone (cs : List Nat) (s : State) : CtrlsGone cs s (forEach cs nssroReset s) ∧ NssrosKept s (forEach cs nssroReset s) ∧
    ∀ c ∈ cs, ∀ x, tget s.nvq.ctrls c = some x → ∃ y, tget (forEach cs nssroReset s).nvq.ctrls c = some y ∧ y.nssro = true := by
  induction cs generalizing s with
  | nil => exact ⟨CtrlsGone.composes.refl s, fun _ x hx => ⟨x, hx, id⟩, nofun⟩
  | cons c cs ih =>
    obtain ⟨hgone, hkept, hmarks⟩ := ih (nssroReset c s)
    refine ⟨(nssroReset_gone c s).trans hgone, (nssroReset_nssros c s).trans hkept, fun d hd x hx => ?_⟩
    rcases List.mem_cons.1 hd with rfl | hd
    · obtain ⟨y, hy, hyn⟩ := nssroReset_marks hx
      obtain ⟨z, hz, hzn⟩ := hkept d y hy
      exact ⟨z, hz, hzn hyn⟩
    · obtain ⟨y, hy, -⟩ := nssroReset_nssros c s d x hx
      exact hmarks d hd y hy

/-- A host link that is up goes down (R125). -/
def linkDropped (n : Nat) (s : State) : State :=
  if hostLink s n && (portAt s n).up then
    modPort n (fun p => { p with up := false, st := 1, width := 0, rate := 0, flit := false, cfgReady := false, ptmOut := false }) s
  else s

theorem hostLink_linkDropped (n m : Nat) (s : State) : hostLink (linkDropped n s) m = hostLink s m := by
  unfold linkDropped
  split <;> rfl

theorem linkDropped_only (n : Nat) (s : State) : OnlyChanges [.hpc] s (linkDropped n s) := .cond (fun _ => modPort_only ..) fun _ => .refl _ _

theorem linkDropped_down {n : Nat} {s : State} (h : hostLink s n = true) : (portAt (linkDropped n s) n).up = false := by
  unfold linkDropped
  split
  · rw [portAt_modPort_same]
  · rename_i hup
    simpa [h] using hup

theorem linkDropped_ne {n m : Nat} (hm : m ≠ n) (s : State) : portAt (linkDropped n s) m = portAt s m := by
  unfold linkDropped
  split
  · exact portAt_modPort_ne hm ..
  · rfl

theorem linksDropped_down (n : Nat) (s : State) : OnlyChanges [.hpc] s (forN n linkDropped s) ∧
    (∀ m, hostLink (forN n linkDropped s) m = hostLink s m) ∧ ∀ m, m < n → hostLink s m = true → (portAt (forN n linkDropped s) m).up = false := by
  induction n with
  | zero => exact ⟨.refl _ _, fun _ => rfl, nofun⟩
  | succ n ih =>
    obtain ⟨honly, hlinks, hdown⟩ := ih
    rw [forN_succ]
    refine ⟨honly.trans (linkDropped_only ..), fun m => (hostLink_linkDropped ..).trans (hlinks m), fun m hm hl => ?_⟩
    by_cases hmn : m = n
    · rw [hmn] at hl ⊢
      exact linkDropped_down ((hlinks n).trans hl)
    · rw [linkDropped_ne hmn]
      exact hdown m (by omega) hl

theorem dueActivation_only (s : State) : OnlyChanges [.upd, .regs] s (dueActivation s) := by
  unfold dueActivation
  split
  · exact .refl _ _
  · split
    · exact .refl _ _
    · exact (evt_only ..).wide _ rfl
    · exact (onUpd_only ..).wide _ rfl

theorem hostLink_of_hpc {s t : State} (h : t.hpc = s.hpc) (n : Nat) : hostLink t n = hostLink s n := by
  rw [hostLink, linkOf, isPr, isPface, h] <;> rfl

theorem tget_of_mem {α : Type} {l : Tbl α} {e : Nat × α} (h : e ∈ l) : ∃ x, tget l e.1 = some x := by
  induction l with
  | nil => cases h
  | cons d l ih =>
    obtain ⟨k, v⟩ := d
    rw [tget]
    split
    · exact ⟨v, rfl⟩
    · rename_i hk
      rcases List.mem_cons.1 h with rfl | h
      · exact absurd rfl hk
      · exact ih h

/-- What a reset of the subsystem resets: the controllers of host links, which are marked, and those links. -/
theorem subsysReset_resets (s : State) :
    let cs := (tkeys s.nvq.ctrls).filter (hostCtrl s)
    let t := dueActivation (subsysReset s)
    CmdsReset cs s t ∧ OnlyChanges (.hpc :: resetParts) s t ∧
      (∀ c ∈ cs, (ctrlAt t c).nssro = true) ∧ ∀ n, n < 4 → hostLink s n = true → (portAt t n).up = false := by
  intro cs t
  obtain ⟨hgone, -, hmarks⟩ := nssroResets_gone cs s
  obtain ⟨hports, -, hdown⟩ := linksDropped_down 4 (forEach cs nssroReset s)
  have hshut : CtrlsGone [] (forN 4 linkDropped (forEach cs nssroReset s)) (subsysReset s) :=
    (rescale_gone _).trans_nil (checkShut_gone ..)
  have hmarksEnd : MarksKept (forN 4 linkDropped (forEach cs nssroReset s)) (subsysReset s) := (rescale_marks _).trans (checkShut_marks none _)
  have hdue := dueActivation_only (subsysReset s)
  have hhpc : t.hpc = (forN 4 linkDropped (forEach cs nssroReset s)).hpc :=
    (hdue.same .hpc (by decide)).trans (hshut.parts.same .hpc (by decide))
  have hpn : (forN 4 linkDropped (forEach cs nssroReset s)).nvq = (forEach cs nssroReset s).nvq := hports.same .nvq (by decide)
  have hlinks (n : Nat) : hostLink (forEach cs nssroReset s) n = hostLink s n := hostLink_of_hpc (hgone.parts.same .hpc (by decide)) n
  refine ⟨?_, ?_, fun c hc => ?_, fun n hn hl => ?_⟩
  · exact ((hgone.cmds.trans_nil (.of_nvq hpn)).trans_nil hshut.cmds).trans_nil (.of_nvq (hdue.same .nvq (by decide)))
  · exact (hgone.parts.wide _ rfl).trans ((hports.wide _ rfl).trans ((hshut.parts.wide _ rfl).trans (hdue.wide _ rfl)))
  · obtain ⟨e, he, rfl⟩ := List.mem_map.1 (List.mem_filter.1 hc).1
    obtain ⟨x, hx⟩ := tget_of_mem he
    obtain ⟨y, hy, hyn⟩ := hmarks _ hc x hx
    obtain ⟨z, hz, hzn, -⟩ := hmarksEnd e.1 y (by rw [hpn]; exact hy)
    have hnt : t.nvq = (subsysReset s).nvq := hdue.same .nvq (by decide)
    rw [ctrlAt_of_tget (by rw [hnt]; exact hz), hzn, hyn]
  · rw [portAt, hhpc]
    exact hdown n hn ((hlinks n).trans hl)

/-! ## The stripes that a shutdown closes -/

theorem onFch_only (f : Fch → Fch) (s : State) : OnlyChanges [.fch] s (onFch f s) := by
  constructor; intro p hp; cases p <;> simp_all [Part.same]

theorem modDie_only (die : Nat) (f : Die → Die) (s : State) : OnlyChanges [.fch] s (modDie die f s) := onFch_only ..

theorem drainN_only (n die : Nat) (s : State) : OnlyChanges [.fch, .qos] s (drainN n die s) := by
  induction n generalizing s with
  | zero => exact .refl _ _
  | succ n ih =>
    rw [drainN]
    split
    · exact .refl _ _
    · rename_i o _
      refine .trans ?_ (ih _)
      unfold enterQueue
      extract_lets ts s1
      have h1 : OnlyChanges [.fch, .qos] s s1 := by
        unfold s1
        split
        · exact .cond (fun _ => .refl _ _) fun _ => (qosServe_only ..).wide _ rfl
        · exact .refl _ _
      exact h1.trans ((modDie_only ..).wide _ rfl)

theorem queueOp_only (die : Nat) (o : Dop) (s : State) : OnlyChanges [.fch, .qos] s (queueOp die o s) :=
  .cond (fun _ => .refl _ _) fun _ => .trans ((onFch_only ..).wide _ rfl) (.trans ((modDie_only ..).wide _ rfl) (drainN_only ..))

theorem flushMember_only (t : Stripe) (m : Nat) (s : State) : OnlyChanges [.fch, .qos] s (flushMember t m s) := by
  unfold flushMember queueSteps
  split
  · exact .refl _ _
  · extract_lets per full
    split
    · exact .each _ _ _ _ fun _ _ => queueOp_only ..
    · exact .refl _ _

theorem blkDelta_only (die b : Nat) (s : State) : OnlyChanges faultParts s (blkDelta die b s) := by
  have hdue (f : Cst → Cst) : OnlyChanges faultParts s (onCst f s) := (onCst_only ..).wide _ rfl
  refine .cond (fun _ => ?_) fun _ => ?_
  · exact (hdue _).trans (((evt_only ..).wide _ rfl).trans (raiseSrc_only ..))
  · rw [writeDelta, if_neg (by simp)]
    exact hdue _

theorem blkMod_only (die b : Nat) (f : Blk → Blk) (s : State) : OnlyChanges [.fte] s (blkMod die b f s) := by
  constructor; intro p hp; cases p <;> simp_all [Part.same, blkMod]

theorem closeBlks_only (t : Stripe) (s : State) : OnlyChanges (.fte :: faultParts) s (closeBlks t s) :=
  .each _ _ _ _ fun _ _ => .cond (fun _ => ((blkMod_only ..).wide _ rfl).trans ((blkDelta_only ..).wide _ rfl)) fun _ => .refl _ _

/-- The stripes of a state in which those that are open, but for one, are those of another state, and that one is being closed. -/
def ShutAt (key : Nat) (s t : State) : Prop := ∀ k x, tget t.dre.stripes k = some x → x.st = .opened →
  x.part = true ∨ (k ≠ key ∧ tget s.dre.stripes k = some x)

theorem stripes_setStripe (d n : Nat) (t : Stripe) (s : State) : (setStripe d n t s).dre.stripes = tset s.dre.stripes (stripeKey d n) t := rfl

theorem ShutAt.set {d n : Nat} {x : Stripe} {s t : State} (hx : x.part = true) (h : t.dre.stripes = tset s.dre.stripes (stripeKey d n) x) :
    ShutAt (stripeKey d n) s t := by
  intro k y hy _
  rw [h, tget_tset] at hy
  split at hy
  · cases hy; exact .inl hx
  · rename_i hk
    exact .inr ⟨hk, hy⟩

/-- A stripe being closed is finished, or stays so. -/
theorem finishStripe_shut {d n : Nat} {x : Stripe} {s : State} (hs : stripeAt s d n = some x) (hx : x.part = true) :
    ShutAt (stripeKey d n) s (finishStripe d n s) := by
  simp only [finishStripe, hs]
  split
  · exact .set (x := { x with st := .closed, closeT := s.pwr.tb }) hx (by rw [(closeBlks_only ..).same .dre (by decide)]; rfl)
  · intro k y hy _
    by_cases hk : k = stripeKey d n
    · rw [hk] at hy
      obtain rfl : x = y := Option.some.inj (hs.symm.trans hy)
      exact .inl hx
    · exact .inr ⟨hk, hy⟩

/-- R272: no other stripe opens while one is closed partially. -/
theorem closePartial_shut (d n : Nat) (s : State) : ShutAt (stripeKey d n) s (closePartial d n s) := by
  cases hs : stripeAt s d n with
  | none =>
    intro k x hx _
    simp only [closePartial, hs] at hx
    refine .inr ⟨fun hk => ?_, hx⟩
    rw [hk, ← stripeAt, hs] at hx
    cases hx
  | some t =>
    simp only [closePartial, hs]
    split
    · rename_i hdone
      intro k x hx ho
      by_cases hk : k = stripeKey d n
      · rw [hk, ← stripeAt, hs] at hx
        cases hx
        exact .inl (hdone.resolve_left (not_not.2 ho))
      · exact .inr ⟨hk, hx⟩
    · have hflush := OnlyChanges.each [.fch, .qos] (dataMembers t) (flushMember t) s fun m s => flushMember_only t m s
      generalize forEach (dataMembers t) (flushMember t) s = s1 at hflush ⊢
      have hs2 := hflush.trans (flushMember_only t t.ppos s1)
      generalize flushMember t t.ppos s1 = s2 at hs2 ⊢
      generalize ht1 : ({ t with part := true, accs := t.accs.map fun a => { a with queued := true } } : Stripe) = t1
      have hpart : t1.part = true := by rw [← ht1]
      have hdre : (evt .dreEvt 6 (closeBlks t1 (setStripe d n t1 s2))).dre = (setStripe d n t1 s2).dre :=
        ((evt_only ..).same .dre (by decide)).trans ((closeBlks_only ..).same .dre (by decide))
      have hstripes : (evt .dreEvt 6 (closeBlks t1 (setStripe d n t1 s2))).dre.stripes = tset s.dre.stripes (stripeKey d n) t1 := by
        rw [hdre, stripes_setStripe, hs2.same .dre (by decide)]
      have hfinish := finishStripe_shut (s := evt .dreEvt 6 (closeBlks t1 (setStripe d n t1 s2))) (by rw [stripeAt, hstripes]; exact tget_tset_same ..) hpart
      intro k y hy ho
      rcases hfinish k y hy ho with h | ⟨hk, h⟩
      · exact .inl h
      · rw [hstripes, tget_tset_ne _ _ hk] at h
        exact .inr ⟨hk, h⟩

/-- A stripe of a table key is closed partially. -/
def shutStripe (e : Nat × Stripe) (s : State) : State := closePartial (e.1 / 2 ^ 32) (e.1 % 2 ^ 32) s

theorem shutStripes_shut (l : List (Nat × Stripe)) (s : State)
    (h : ∀ k x, tget s.dre.stripes k = some x → x.st = .opened → x.part = true ∨ ∃ e ∈ l, e.1 = k) :
    ∀ k x, tget (forEach l shutStripe s).dre.stripes k = some x → x.st = .opened → x.part = true := by
  induction l generalizing s with
  | nil => exact fun k x hx ho => (h k x hx ho).resolve_right (by simp)
  | cons e l ih =>
    refine ih (shutStripe e s) fun k x hx ho => ?_
    have hkey : stripeKey (e.1 / 2 ^ 32) (e.1 % 2 ^ 32) = e.1 := Nat.div_add_mod ..
    rcases closePartial_shut _ _ s k x hx ho with hp | ⟨hne, hx'⟩
    · exact .inl hp
    · rcases h k x hx' ho with hp | ⟨e', he', rfl⟩
      · exact .inl hp
      · rcases List.mem_cons.1 he' with rfl | he'
        · exact absurd hkey.symm hne
        · exact .inr ⟨e', he', rfl⟩

/-- R126: once the closing of the stripes begins, every open stripe is being closed. -/
theorem closeAll_stripes (s : State) : ∀ k x, tget (closeAll s).dre.stripes k = some x → x.st = .opened → x.part = true := by
  have hall := shutStripes_shut ((placeWaiting s).dre.stripes.filter fun e => e.2.st == .opened) (placeWaiting s) fun k x hx ho =>
    .inr ⟨(k, x), List.mem_filter.2 ⟨Tests.mem_of_tget hx, by simp [ho]⟩, rfl⟩
  exact hall

/-! ## Shutdown -/

/-- A command of a controller that R126 counts has data left to place. -/
def placing (s : State) : Bool := s.nvq.tags.any fun e => hostCtrl s e.2.ctrl && unplaced e.2

theorem closeDue_eq (s : State) : closeDue s = if s.nvq.shutDue && s.sys.mode.serving && !placing s then closeAll s else s := by
  simp only [closeDue, placing, unplaced, Bool.and_assoc]

theorem AenRel.shutLast : AenRel fun s t => t.nvq.shutLast = s.nvq.shutLast where
  refl _ := rfl
  trans h g := g.trans h
  outside h := by rw [h]
  aen c a s := by rw [(sendAen_keeps c a s).nvq]
  errLog c e s := by rw [(logErr_keeps c e s).nvq]

/-- R126: what the programming and closing of a shutdown leave. -/
theorem closeAll_shuts (s : State) : (closeAll s).nvq.shutHold = true ∧ (closeAll s).nvq.shutDue = false ∧
    (closeAll s).nvq.shutLast = s.nvq.shutLast := by
  refine ⟨rfl, rfl, ?_⟩
  have hR := AenRel.shutLast.work
  exact hR.trans (hR.placeWaiting s) (hR.each _ _ _ fun _ _ => hR.closePartial ..)

theorem hostCtrl_of_hpc {s t : State} (h : t.hpc = s.hpc) (c : Nat) : hostCtrl t c = hostCtrl s c := by
  rw [hostCtrl, hostLink_of_hpc h, hostCtrl, linkOf, linkOf, h]

theorem allDown_of {s t : State} (hc : t.nvq.ctrls = s.nvq.ctrls) (hh : t.hpc = s.hpc) : allDown t = allDown s := by
  simp only [allDown, ctrlDown, hc, hostCtrl_of_hpc hh, ctrlAt_of_ctrls hc]

/-- A controller's shutdown is notified. -/
def shutNotified (c : Nat) (s : State) : State := modCtrl c (fun x => { x with shn := true }) (wake s)

theorem shutNotified_only (c : Nat) (s : State) : OnlyChanges [.nvq, .sys] s (shutNotified c s) :=
  ((wake_only s).wide _ rfl).trans ((modCtrl_only ..).wide _ rfl)

theorem shutNotified_nvq (c : Nat) (s : State) :
    (shutNotified c s).nvq = { s.nvq with ctrls := tmod s.nvq.ctrls c fun x => { x with shn := true } } := by
  rw [← wake_nvq s]
  rfl

theorem shutNotified_mode (c : Nat) (s : State) : (shutNotified c s).sys.mode = s.sys.mode := wake_mode s

section

variable {c : Nat} {s : State}

theorem shutNotified_own (hen : (ctrlAt s c).en = true) : ctrlAt (shutNotified c s) c = { ctrlAt s c with shn := true } := by
  obtain ⟨x, hx⟩ := ctrl_of_enabled hen
  rw [ctrlAt_of_tget hx]
  exact ctrlAt_of_tget (by rw [shutNotified_nvq]; show tget (tmod ..) c = _; rw [tget_tmod, if_pos rfl, hx]; rfl)

theorem allDown_shutNotified : allDown (shutNotified c s) = allDown (modCtrl c (fun x => { x with shn := true }) s) :=
  allDown_of (by rw [shutNotified_nvq]; rfl) (wake_hpc s)

theorem exec_shutdownNotification (hen : (ctrlAt s c).en = true) (hshn : (ctrlAt s c).shn = false) (hm : s.sys.mode.serving = true) :
    exec (.shutdownNotification c) s = .next (checkShut (if hostCtrl s c then some c else none) (shutNotified c s)) := by
  have hgo : ((ctrlAt s c).en && !(ctrlAt s c).shn && doorbellsUp s) = true := by simp [hen, hshn, doorbellsUp, hm]
  simp only [exec, execShutdownNotification, if_pos hgo]
  rfl

/-- The set of R126 is complete with a shutdown. -/
def shutBegun (c : Nat) (s : State) : State :=
  onNvq (fun n => { n with shutLast := if hostCtrl s c then some c else none, shutDue := true }) (shutNotified c s)

theorem placing_shutBegun : placing (shutBegun c s) = placing s := by
  have hhpc : (shutBegun c s).hpc = s.hpc := wake_hpc s
  have htags : (shutBegun c s).nvq.tags = s.nvq.tags := by
    show (shutNotified c s).nvq.tags = _
    rw [shutNotified_nvq]
  simp only [placing, htags, hostCtrl_of_hpc hhpc]

theorem checkShut_open (hd : allDown (shutNotified c s) = false) (last : Option Nat) :
    checkShut last (shutNotified c s) = shutNotified c s := by
  simp [checkShut, hd]

theorem checkShut_complete (hd : allDown (shutNotified c s) = true) (hhold : s.nvq.shutHold = false) (hdue : s.nvq.shutDue = false)
    (hm : s.sys.mode.serving = true) : checkShut (if hostCtrl s c then some c else none) (shutNotified c s) =
      if placing s then shutBegun c s else closeAll (shutBegun c s) := by
  have hhold' : (shutNotified c s).nvq.shutHold = false := by rw [shutNotified_nvq]; exact hhold
  have hdue' : (shutNotified c s).nvq.shutDue = false := by rw [shutNotified_nvq]; exact hdue
  have hm' : (shutNotified c s).sys.mode.serving = true := by rw [shutNotified_mode]; exact hm
  rw [checkShut, if_neg (by simp [hd, hhold', hdue', hm'])]
  refine (closeDue_eq (shutBegun c s)).trans ?_
  have hmode : (shutBegun c s).sys.mode.serving = true := hm'
  have hbegun : (shutBegun c s).nvq.shutDue = true := rfl
  rw [placing_shutBegun, hmode, hbegun]
  cases placing s <;> rfl

end

/-- Settles O40: each command's end state, by what enabling, the resets and a shutdown leave. -/
theorem controllerLifecycle : Obligations.ControllerLifecycle := by
  refine ⟨?_, ?_, ?_, ?_, ?_, ?_⟩
  · intro c ams mps asqs acqs x s hx hen hw fit
    have henables := enabledFrom_enables c ams mps asqs acqs x s
    have hfit : canReady (enabledFrom c ams mps asqs acqs x s) c = fit := canReady_enabledFrom ..
    refine ⟨fun hm hf => ?_, fun h => ?_⟩
    · have hboot : s.sys.mode ≠ .boot := by
        intro h
        rw [h] at hm
        exact absurd hm (by decide)
      have hexec := exec_controllerEnable hx hen (.inl hm) ams mps asqs acqs
      rw [if_neg (by simp [hboot, hfit, hf])] at hexec
      have hready := makeReady_enables henables (by rw [enabledFrom_nvq]; exact tget_tset_same ..)
        (by rw [henables.only.same .fte (by decide)]; exact hw)
      exact ⟨_, hexec, hready.own, hready.queues.1, hready.queues.2, hready.others.1, hready.others.2, hready.tags, hready.only⟩
    · have hm : s.sys.mode.serving = true ∨ s.sys.mode = .boot := h.elim .inr fun h => .inl h.1
      have hexec := exec_controllerEnable hx hen hm ams mps asqs acqs
      rw [if_pos (by rw [hfit]; exact h.imp_right fun h => by rw [h.2]; rfl)] at hexec
      exact ⟨_, hexec, henables.own, henables.only⟩
  · intro c ams mps asqs acqs s hen
    exact exec_controllerEnable_enabled hen ams mps asqs acqs
  · intro c s hen hh hd
    have hexec : exec (.controllerReset c) s = .next (checkShut none (rescale (resetCtrl c (wake s)))) := by
      simp [exec, execControllerReset, hen, hh, hd]
    exact ⟨_, hexec, controllerReset_resets c s⟩
  · intro c s hen
    simp [exec, execControllerReset, hen]
  · intro c s hpf hc hm
    have hexec : exec (.nvmSubsystemReset c) s = .next (dueActivation (subsysReset (wake s))) := by
      simp [exec, execNvmSubsystemReset, hpf, hc, doorbellsUp, hm]
    obtain ⟨hcmds, honly, hmarks, hdown⟩ := subsysReset_resets (wake s)
    have hhost : hostCtrl (wake s) = hostCtrl s := funext (hostCtrl_of_hpc (wake_hpc s))
    rw [wake_nvq, hhost] at hcmds hmarks
    refine ⟨_, hexec, ?_, hmarks, fun n hn hl => hdown n hn ((hostLink_of_hpc (wake_hpc s) n).trans hl)⟩
    exact ((wake_reset s).trans hcmds).ctrlsReset (((wake_only s).wide _ rfl).trans honly)
  · intro c s hen hshn hm
    have hexec := exec_shutdownNotification hen hshn hm
    have hown := shutNotified_own hen
    rw [← allDown_shutNotified]
    refine ⟨fun hdown => ?_, fun hdown hhold hdue => ?_⟩
    · rw [checkShut_open hdown] at hexec
      refine ⟨_, hexec, hown, fun d hd => ?_, by rw [shutNotified_nvq], shutNotified_only ..⟩
      rw [shutNotified, ctrlAt_modCtrl_ne hd]
      exact ctrlAt_of_ctrls (by rw [wake_nvq]) d
    · intro busy
      have hbusy : placing s = busy := rfl
      rw [checkShut_complete hdown hhold hdue hm, hbusy] at hexec
      refine ⟨fun hb => ?_, fun hb => ?_⟩
      · rw [if_pos hb] at hexec
        refine ⟨_, hexec, ?_, rfl, rfl, (shutNotified_only c s).trans ((onNvq_only ..).wide _ rfl)⟩
        exact congrArg Ctrl.shn hown
      · rw [if_neg (by simp [hb])] at hexec
        obtain ⟨h1, h2, h3⟩ := closeAll_shuts (shutBegun c s)
        obtain ⟨x, hx⟩ := ctrl_of_enabled hen
        obtain ⟨y, hy, -, hys⟩ := MarksKept.cmds.closeAll (shutBegun c s) c { x with shn := true } (by
          show tget (shutNotified c s).nvq.ctrls c = _
          rw [shutNotified_nvq]
          show tget (tmod ..) c = _
          rw [tget_tmod, if_pos rfl, hx]
          rfl)
        exact ⟨_, hexec, by rw [ctrlAt_of_tget hy, hys], h1, h2, h3, closeAll_stripes _⟩

end Sys2Proof

namespace Sys2Proof

open Machine

/-! What the allocation of capacity keeps of an admin command and of namespaces (R32, R191, R202). -/

/-! ## An admin command that works -/

/-- The entry of an admin command that no event completes stays. -/
structure AdminKept (k : Nat) (s t : State) : Prop where
  kept : NoAer k s → NoAer k t ∧ ∀ x, tget s.nvq.tags k = some x → x.qid = 0 → tget t.nvq.tags k = some x

namespace AdminKept

variable {k : Nat} {s t : State}

theorem trans {u : State} (h : AdminKept k s t) (g : AdminKept k t u) : AdminKept k s u := by
  refine ⟨fun ha => ?_⟩
  obtain ⟨hb, ht⟩ := h.kept ha
  obtain ⟨hc, hu⟩ := g.kept hb
  exact ⟨hc, fun x hx hq => hu x (ht x hx hq) hq⟩

theorem of_cmds (h : CmdsKept s t) : AdminKept k s t := by
  refine ⟨fun ha => ?_⟩
  obtain ⟨hb, ht⟩ := h.kept k ha
  exact ⟨hb, fun x hx _ => ht.trans hx⟩

theorem of_nvq (h : t.nvq = s.nvq) : AdminKept k s t := .of_cmds (.of_nvq h)

end AdminKept

/-- An admin command, and namespaces with their maps and records in wells, stay. -/
structure AllocKeeps (k : Nat) (s t : State) : Prop where
  admin : AdminKept k s t
  nss : t.fte.nss = s.fte.nss
  map : t.fte.map = s.fte.map
  idx : t.fte.idx = s.fte.idx

namespace AllocKeeps

variable {k : Nat} {s t : State}

theorem trans {u : State} (h : AllocKeeps k s t) (g : AllocKeeps k t u) : AllocKeeps k s u :=
  ⟨h.admin.trans g.admin, g.nss.trans h.nss, g.map.trans h.map, g.idx.trans h.idx⟩

theorem of_background (h : BackgroundKeeps s t) : AllocKeeps k s t := ⟨.of_cmds h.cmds, by rw [h.fte], by rw [h.fte], by rw [h.fte]⟩

theorem of_cmds (h : CmdsKept s t) (hf : t.fte = s.fte) : AllocKeeps k s t := ⟨.of_cmds h, by rw [hf], by rw [hf], by rw [hf]⟩

theorem of_only (h : OnlyChanges [.cam, .upd, .out, .dre, .fch, .sre, .qos, .cst, .pwr, .regs, .flt, .free, .sys] s t) : AllocKeeps k s t :=
  .of_cmds (.of_nvq (h.same .nvq (by decide))) (h.same .fte (by decide))

theorem refl (k : Nat) (s : State) : AllocKeeps k s s := .of_only (.refl _ _)

theorem composes : Composes (AllocKeeps k) := ⟨refl k, trans⟩

/-- The hypothesis is proved by `rfl` for an update of other fields. -/
theorem onFte (f : Fte → Fte) (s : State)
    (h : (f s.fte).nss = s.fte.nss ∧ (f s.fte).map = s.fte.map ∧ (f s.fte).idx = s.fte.idx) : AllocKeeps k s (onFte f s) :=
  ⟨.of_nvq rfl, h.1, h.2.1, h.2.2⟩

end AllocKeeps

/-! ## A condition of the media changes -/

theorem domEvents_only (s0 s : State) : OnlyChanges [.regs] s (domEvents s0 s) :=
  .each _ _ _ _ fun _ _ => .cond (fun _ => .refl _ _) fun _ => .cond (fun _ => evt_only ..) fun _ => .cond (fun _ => evt_only ..) fun _ => .refl _ _

theorem settle_only (s0 : State) (c d : Nat) (s : State) : OnlyChanges [.sys, .regs, .cst] s (settle s0 c d s) := by
  unfold settle
  extract_lets s1
  have hmode : OnlyChanges [.sys, .regs, .cst] s (if s.sys.mode.derived then moveMode (deriveMode s) s else s) :=
    .cond (fun _ => (moveMode_only ..).wide _ rfl) fun _ => .refl _ _
  have h1 : OnlyChanges [.sys, .regs, .cst] s s1 := hmode.trans ((domEvents_only ..).wide _ rfl)
  exact .cond (fun _ => h1) fun _ => h1.trans ((logMode_only ..).wide _ rfl)

/-- A change of every controller that leaves its outstanding requests leaves commands. -/
theorem mapCtrls_cmds {f : Ctrl → Ctrl} (hf : ∀ x, (f x).aers = x.aers) (s : State) :
    CmdsKept s { s with nvq := { s.nvq with ctrls := tmap s.nvq.ctrls fun _ x => f x } } := by
  refine ⟨fun j hj => ⟨fun c y hy => ?_, rfl⟩⟩
  simp only [tget_tmap] at hy
  obtain ⟨x, hx, rfl⟩ := Option.map_eq_some_iff.1 hy
  rw [hf]
  exact hj c x hx

theorem warnNew_cmds (s0 s : State) : CmdsKept s (warnNew s0 s) := by
  unfold warnNew
  extract_lets fresh held warned s1
  have h1 : CmdsKept s s1 := by
    refine .cond (fun _ => ?_) fun _ => .refl s
    refine mapCtrls_cmds (f := fun x => { x with heldWarn := x.heldWarn &&& held }) ?_ s
    exact fun _ => rfl
  exact .cond (fun _ => h1) fun _ => h1.trans (.each _ _ _ fun _ _ => .cond (fun _ => sendAen_cmds ..) fun _ => .refl _)

theorem mediaChange_keeps (k : Nat) (s0 : State) (c d : Nat) (s : State) : AllocKeeps k s (mediaChange s0 c d s) := by
  have hsettle : AllocKeeps k s (settle s0 c d s) := .of_only ((settle_only ..).wide _ rfl)
  exact hsettle.trans (.of_cmds (warnNew_cmds ..) ((warnNew_only ..).same .fte (by decide)))

/-! ## Spare is followed -/

theorem failedPair_of_opc {j : Nat} {x : Tag} {s : State} (hx : tget s.nvq.tags j = some x) (ho : opc x.ent ≠ 5) (sc : Sc) :
    failedPair j sc s = none := by
  have hop : (x.ent.dw.getD 0 0).toNat % 256 ≠ 5 := by simpa [opc, cdw, fld, nfld] using ho
  simp only [failedPair, hx]
  exact if_neg fun h => hop h.2.2

/-- A completion that ends no pair leaves every other tag. -/
theorem post_others {j k : Nat} {x : Tag} {s : State} (hx : tget s.nvq.tags j = some x) (ho : opc x.ent ≠ 5) (hk : k ≠ j) (sc : Sc) (dw : Nat) :
    tget (post j sc dw s).nvq.tags k = tget s.nvq.tags k := by
  simp only [post, postDnr, failedPair_of_opc hx ho]
  exact tget_enterPost_ne hk ..

/-- The early end of an I/O command that is no Compare leaves admin commands. -/
theorem postEarly_keeps {j : Nat} {x : Tag} {s : State} (hx : tget s.nvq.tags j = some x) (hio : isIo x = true) (ho : opc x.ent ≠ 5)
    (k : Nat) (sc : Sc) : AllocKeeps k s (postEarly j sc s) := by
  have hpost : AllocKeeps k s (post j sc 0 s) := by
    have hfte : (post j sc 0 s).fte = s.fte := (post_only ..).same .fte (by decide)
    refine ⟨⟨fun ha => ⟨fun c y hy => ha c y (by rwa [post_ctrls] at hy), fun y hy hq => ?_⟩⟩, by rw [hfte], by rw [hfte], by rw [hfte]⟩
    have hk : k ≠ j := by
      rintro rfl
      obtain rfl : x = y := Option.some.inj (hx.symm.trans hy)
      simp [isIo, hq] at hio
    rw [post_others hx ho hk, hy]
  exact hpost.trans (.of_cmds (outHit_cmds ..) ((outHit_only ..).same .fte (by decide)))

/-- A write in ADMIT that is refused, if it has no grant. -/
def grantFailed (j : Nat) (s : State) : State :=
  match tget s.nvq.tags j with
  | some t => if t.st = .adm && isIo t && writeLike t.ent && !t.granted && s.sys.mode != .factory then postEarly j .writeProtected s else s
  | none => s

theorem writeLike_opc {e : Entry} (h : writeLike e = true) : opc e ≠ 5 := by
  intro ho
  simp [writeLike, ho] at h

theorem grantFailed_keeps (k j : Nat) (s : State) : AllocKeeps k s (grantFailed j s) := by
  unfold grantFailed
  split
  · rename_i x hx
    split
    · rename_i hgo
      simp only [Bool.and_eq_true] at hgo
      obtain ⟨⟨⟨⟨-, hio⟩, hw⟩, -⟩, -⟩ := hgo
      exact postEarly_keeps hx hio (writeLike_opc hw) k _
    · exact .refl k s
  · exact .refl k s

theorem failGrants_keeps (k : Nat) (s : State) : AllocKeeps k s (failGrants s) :=
  AllocKeeps.composes.each (tkeys s.nvq.tags) grantFailed s fun j s => grantFailed_keeps k j s

theorem checkSpare_keeps (k : Nat) (s : State) : AllocKeeps k s (checkSpare s) := by
  have hprotect (b : Bool) : AllocKeeps k s (onFte (fun f => { f with wp := b }) s) := .onFte _ s ⟨rfl, rfl, rfl⟩
  unfold checkSpare
  extract_lets ds
  refine rel_ite (.refl k s) (rel_ite ?_ (rel_ite ?_ (.refl k s)))
  · refine (hprotect true).trans (.trans ?_ (.trans (failGrants_keeps ..) (mediaChange_keeps ..)))
    exact .of_background ((evt_background ..).trans (raiseSrc_background ..))
  · exact (hprotect false).trans (mediaChange_keeps ..)

/-! ## A domain laid out afresh -/

theorem doubtBlk_background (die b : Nat) (s : State) : BackgroundKeeps s (doubtBlk die b s) := by
  unfold doubtBlk
  extract_lets ec s1 s2
  have h1 : BackgroundKeeps s s1 := (blkMod_background ..).trans (blkDelta_background ..)
  have h2 : BackgroundKeeps s s2 := h1.trans (onCst_background ..)
  exact h2.trans ((modDie_background ..).trans (queueOp_background ..))

theorem relayout_keeps (k d : Nat) (s : State) : AllocKeeps k s (relayout d s) := by
  unfold relayout
  extract_lets used s1 mine s2 s3 s4 s5
  have h1 : AllocKeeps k s s1 := .of_background (.each _ _ _ fun _ _ => .cond (fun _ => modDie_background ..) fun _ => .refl _)
  have h2 : AllocKeeps k s s2 := h1.trans (.of_only ((onDre_only ..).wide _ rfl))
  have h3 : AllocKeeps k s2 s3 := .onFte _ s2 ⟨rfl, rfl, rfl⟩
  have h4 : AllocKeeps k s3 s4 := .of_background (.each _ _ _ fun _ _ => .cond (fun _ => doubtBlk_background ..) fun _ => .refl _)
  have hcap : AllocKeeps k s4 (onFte (fun f => { f with capD := tset f.capD d (layCapD s4 d) }) s4) := .onFte _ s4 ⟨rfl, rfl, rfl⟩
  have h5 : AllocKeeps k s s5 := h2.trans (h3.trans (h4.trans (hcap.trans (.of_background (modDom_background ..)))))
  refine rel_ite (.refl k s) (rel_ite h5 (h5.trans (.trans ?_ (mediaChange_keeps ..))))
  exact .of_background ((modDom_background ..).trans (gcLevels_background _))

theorem afterAlloc_keeps (k : Nat) (s : State) : AllocKeeps k s (afterAlloc s) :=
  .trans (AllocKeeps.composes.each _ _ _ fun d s => relayout_keeps k d s) (checkSpare_keeps ..)

/-! ## Controllers are told -/

theorem modCtrl_cmds {f : Ctrl → Ctrl} (hf : ∀ x, (f x).aers = x.aers) (c : Nat) (s : State) : CmdsKept s (modCtrl c f s) := by
  refine ⟨fun j hj => ⟨fun d y hy => ?_, rfl⟩⟩
  rw [tget_modCtrl] at hy
  split at hy
  · obtain ⟨x, hx, rfl⟩ := Option.map_eq_some_iff.1 hy
    rw [hf]
    exact hj c x hx
  · exact hj d y hy

/-- A controller notes that a namespace of its changed. -/
def changeNoted (ns : Nat) (x : Ctrl) : Ctrl :=
  { x with changedNs := if x.changedNs.contains ns then x.changedNs else x.changedNs ++ [ns] }

theorem tellChanged_only (ns : Nat) (cs : List Nat) (s : State) : OnlyChanges [.nvq] s (tellChanged ns cs s) :=
  .each _ _ _ _ fun _ _ => (modCtrl_only ..).trans (sendAen_only ..)

theorem tellChanged_cmds (ns : Nat) (cs : List Nat) (s : State) : CmdsKept s (tellChanged ns cs s) := by
  refine .each _ _ _ fun c s => .trans (modCtrl_cmds (f := changeNoted ns) ?_ c s) (sendAen_cmds ..)
  exact fun _ => rfl

theorem tellChanged_keeps (k ns : Nat) (cs : List Nat) (s : State) : AllocKeeps k s (tellChanged ns cs s) :=
  .of_cmds (tellChanged_cmds ..) ((tellChanged_only ..).same .fte (by decide))

/-! ## Namespaces -/

theorem nsAt_tset_same {s t : State} {ns : Nat} {n : Ns} (h : t.fte.nss = tset s.fte.nss ns n) (hl : n.live = true) : nsAt t ns = some n := by
  rw [nsAt, h, tget_tset_same, Option.filter_some_pos hl]

theorem nsAt_tset_dead {s t : State} {ns : Nat} {n : Ns} (h : t.fte.nss = tset s.fte.nss ns n) (hl : n.live = false) : nsAt t ns = none := by
  rw [nsAt, h, tget_tset_same, Option.filter_some_neg (by simp [hl])]

theorem nsAt_tset_ne {s t : State} {ns j : Nat} {n : Ns} (h : t.fte.nss = tset s.fte.nss ns n) (hj : j ≠ ns) : nsAt t j = nsAt s j := by
  rw [nsAt, h, tget_tset_ne _ _ hj, nsAt]

theorem nsAt_live {s : State} {ns : Nat} {n : Ns} (h : nsAt s ns = some n) : n.live = true := (Option.filter_eq_some_iff.1 h).2

end Sys2Proof

namespace Sys2Proof

open Machine

/-! Namespaces and the resources of virtualization (R102, R103, R105, R180, R191, R192). -/

/-! ## The completion of an admin command -/

section

variable {k : Nat} {x : Tag} {s : State} (hx : tget s.nvq.tags k = some x) (hq : x.qid = 0)
include hx hq

theorem post_success_admin (dw : Nat) : post k .success dw s = setPost k .success false dw 0 (·.moved) s := by
  simp [post, postDnr, failedPair_of_success, enterPost, hx, isIo, hq, scDnr]

theorem post_success_postedDw (hst : x.st ≠ .post) (dw : Nat) : PostedDw k .success dw (post k .success dw s) := by
  rw [post_success_admin hx hq, PostedDw, setPost_completes hx hst]
  exact ⟨_, tget_tset_same .., rfl, rfl, rfl⟩

end

theorem PostedDw.posted {k dw : Nat} {sc : Sc} {s : State} (h : PostedDw k sc dw s) : Posted k sc s := by
  obtain ⟨y, hy, hst, hsc, -⟩ := h
  exact ⟨y, hy, hst, hsc⟩

theorem post_fte (k : Nat) (sc : Sc) (dw : Nat) (s : State) : (post k sc dw s).fte = s.fte := (post_only ..).same .fte (by decide)

section

variable {k op : Nat} {t : Tag} {s u : State} (h : AdminRuns k op s t)
include h

/-- An admin command that no event completes ends with success after an effect that leaves it. -/
theorem AdminRuns.ends (ha : NoAer k s) (hu : AdminKept k s u) (dw : Nat) : PostedDw k .success dw (post k .success dw u) :=
  post_success_postedDw ((hu.kept ha).2 t h.tag h.run.2.1) h.run.2.1 h.st_ne_post dw

end

/-! ## The creation of a namespace -/

theorem exec_namespaceManagement_create {k nsze ncap fmt : Nat} {t : Tag} {s : State} (h : AdminRuns k 0x0D s t)
    (hsel : fld (cdw t.ent 10) 0 4 = 0) : exec (.namespaceManagement k nsze ncap fmt) s = .next (createNs k nsze ncap fmt t s) := by
  refine congrArg Host.Outcome.next ?_
  rw [admin_of_noData h rfl]
  simp only [hsel]

/-- A namespace that is created. -/
def createdNs (nsze fmt ns : Nat) (segs : List (Nat × Nat × Nat)) (t : Tag) (s : State) : Ns :=
  { inst := match tget s.fte.nss ns with
      | some o => (o.inst + 1) % 65536
      | none => 0
    size := nsze, fmt := fmt % 16, pi := fmt / 256 % 8, mset := fmt.testBit 4, segs, live := true, mirror := isPface s (ctrlLink s t.ctrl) }

/-- A namespace takes its place, with no contents. -/
def nsPlaced (ns : Nat) (n : Ns) (s : State) : State := onFte (fun x => { x with nss := tset x.nss ns n }) (dropContents ns s)

theorem badFormat_iff (f pi : Nat) : badFormat f pi = true ↔ 7 < f ∨ 3 < pi ∨ (metaBytes f = 0 ∧ pi ≠ 0) := by
  simp [badFormat, or_assoc]

section

variable {k nsze ncap fmt ns : Nat} {t : Tag} {s : State} (hns : (upFrom 1 1024).find? (fun i => (nsAt s i).isNone) = some ns)
include hns

theorem createNs_badFormat (hbad : badFormat (fmt % 16) (fmt / 256 % 8) = true) : createNs k nsze ncap fmt t s = post k .invalidFormat 0 s := by
  unfold createNs
  extract_lets f u l
  rw [hns]
  exact if_pos hbad

variable (hok : ¬badFormat (fmt % 16) (fmt / 256 % 8) = true)
include hok

theorem createNs_badSize (h : ncap ≠ nsze ∨ nsze % lbasPerIu (fmt % 16) ≠ 0) : createNs k nsze ncap fmt t s = post k .invalidField 0 s := by
  unfold createNs
  extract_lets f u l
  rw [hns]
  exact (if_neg hok).trans (if_pos h)

variable (hcap : ncap = nsze) (hsize : nsze % lbasPerIu (fmt % 16) = 0)
include hcap hsize

theorem createNs_noRoom (h : unalloc s < nsze / lbasPerIu (fmt % 16) * iuUnits (fmt % 16)) :
    createNs k nsze ncap fmt t s = post k .insufficientCapacity 0 s := by
  unfold createNs
  extract_lets f u l
  rw [hns]
  exact (if_neg hok).trans ((if_neg (not_or.2 ⟨not_not.2 hcap, not_not.2 hsize⟩)).trans (if_pos h))

theorem createNs_placed {segs : List (Nat × Nat × Nat)} (h : nsze / lbasPerIu (fmt % 16) * iuUnits (fmt % 16) ≤ unalloc s)
    (hsegs : placeNs s (unallocD s) (iuUnits (fmt % 16)) 0 (nsze / lbasPerIu (fmt % 16)) = some segs) :
    createNs k nsze ncap fmt t s = post k .success ns (afterAlloc (nsPlaced ns (createdNs nsze fmt ns segs t s) s)) := by
  unfold createNs
  extract_lets f u l
  rw [hns]
  refine (if_neg hok).trans ((if_neg (not_or.2 ⟨not_not.2 hcap, not_not.2 hsize⟩)).trans ((if_neg (Nat.not_lt.2 h)).trans ?_))
  rw [hsegs]
  rfl

end

theorem dropContents_nss (ns : Nat) (s : State) : (dropContents ns s).fte.nss = s.fte.nss := by
  simp only [dropContents, onCst_fte, onFte_fte]

theorem nsPlaced_created {k nsze fmt ns dw : Nat} {op : Nat} {segs : List (Nat × Nat × Nat)} {t : Tag} {s : State} (h : AdminRuns k op s t)
    (ha : NoAer k s) :
    let u := post k .success dw (afterAlloc (nsPlaced ns (createdNs nsze fmt ns segs t s) s))
    PostedDw k .success dw u ∧ nsAt u ns = some (createdNs nsze fmt ns segs t s) ∧ ∀ j, j ≠ ns → nsAt u j = nsAt s j := by
  intro u
  have halloc := afterAlloc_keeps k (nsPlaced ns (createdNs nsze fmt ns segs t s) s)
  have hplaced : AdminKept k s (nsPlaced ns (createdNs nsze fmt ns segs t s) s) := .of_nvq rfl
  have hnss : u.fte.nss = tset s.fte.nss ns (createdNs nsze fmt ns segs t s) := by
    rw [post_fte, halloc.nss, nsPlaced, onFte_fte, dropContents_nss]
  exact ⟨h.ends ha (hplaced.trans halloc.admin) dw, nsAt_tset_same hnss rfl, fun j hj => nsAt_tset_ne hnss hj⟩

/-! ## The end of a long operation -/

/-- An admin command that no event completes stays, or ends with success. -/
structure AdminLives (k : Nat) (s t : State) : Prop where
  kept : NoAer k s → NoAer k t ∧ ∀ x, tget s.nvq.tags k = some x → x.qid = 0 → ∃ y, tget t.nvq.tags k = some y ∧ TagLives x y

theorem AdminLives.trans {k : Nat} {s t u : State} (h : AdminLives k s t) (g : AdminLives k t u) : AdminLives k s u := by
  refine ⟨fun ha => ?_⟩
  obtain ⟨hb, ht⟩ := h.kept ha
  obtain ⟨hc, hu⟩ := g.kept hb
  refine ⟨hc, fun x hx hq => ?_⟩
  obtain ⟨y, hy, hxy⟩ := ht x hx hq
  obtain ⟨z, hz, hyz⟩ := hu y hy (hxy.qid.trans hq)
  exact ⟨z, hz, hxy.trans hyz⟩

theorem AdminKept.lives {k : Nat} {s t : State} (h : AdminKept k s t) : AdminLives k s t := by
  refine ⟨fun ha => ?_⟩
  obtain ⟨hb, ht⟩ := h.kept ha
  exact ⟨hb, fun x hx hq => ⟨x, ht x hx hq, .refl x⟩⟩

/-- An admin command lives, and the flash translation is left alone. -/
structure OpKeeps (k : Nat) (s t : State) : Prop where
  admin : AdminLives k s t
  fte : t.fte = s.fte

theorem OpKeeps.of_nvq {k : Nat} {s t : State} (h : t.nvq = s.nvq) (hf : t.fte = s.fte) : OpKeeps k s t := ⟨(AdminKept.of_nvq h).lives, hf⟩

theorem OpKeeps.of_only {k : Nat} {s t : State} (h : OnlyChanges [.cam, .out] s t) : OpKeeps k s t :=
  .of_nvq (h.same .nvq (by decide)) (h.same .fte (by decide))

theorem OpKeeps.trans {k : Nat} {s t u : State} (h : OpKeeps k s t) (g : OpKeeps k t u) : OpKeeps k s u :=
  ⟨h.admin.trans g.admin, g.fte.trans h.fte⟩

theorem OpKeeps.composes {k : Nat} : Composes (OpKeeps k) := ⟨fun _ => .of_nvq rfl rfl, .trans⟩

theorem postDnr_success_opKeeps (k j : Nat) (d : Bool) (a b : Nat) (s : State) : OpKeeps k s (postDnr j .success d a b s) := by
  refine ⟨⟨fun ha => ⟨fun c y hy => ?_, fun x hx _ => ?_⟩⟩, (postDnr_only ..).same .fte (by decide)⟩
  · obtain ⟨tags, n, h⟩ := postDnr_tables j .success d a b s
    rw [h] at hy
    exact ha c y hy
  · have hlive : TagsLive (fun _ => False) s (postDnr j .success d a b s) := by
      simp only [postDnr, failedPair_of_success]
      obtain ⟨m, h⟩ := enterPost_nvq j .success d a b s
      exact .trans (.setPost j d a b m s) (.of_tags (by rw [h]))
    exact hlive.stay k x id hx

theorem replyTo_opKeeps (k : Nat) (r : CamReq) (st : Nat) (d : List Word) (pl : List Byte) (fin : Bool) (s : State) :
    OpKeeps k s (replyTo r st d pl fin s) := by
  have hR := OpKeeps.composes (k := k)
  unfold replyTo
  extract_lets ws
  refine rel_ite (hR.refl s) (rel_ite (.of_only (ringReply_only ..)) ?_)
  split
  · split
    · rename_i j x _
      refine rel_ite (hR.refl s) (.trans ?_ (postDnr_success_opKeeps ..))
      have hemit : OpKeeps k s (emit (.reply r.src ws []) s) := .of_only ((emit_only ..).wide _ rfl)
      have hnote : CmdsKept (emit (.reply r.src ws []) s) (modCtrl x.ctrl (fun c => { c with lastReply := ws }) (emit (.reply r.src ws []) s)) := by
        refine modCtrl_cmds ?_ ..
        exact fun _ => rfl
      exact hemit.trans ⟨(AdminKept.of_cmds hnote).lives, rfl⟩
    · exact hR.refl s
  · have hreply : OpKeeps k s (emit (.reply r.src ws pl) s) := .of_only ((emit_only ..).wide _ rfl)
    exact hreply.trans (.of_only ((emit_only ..).wide _ rfl))

theorem returnSlots_only (f n : Nat) (w : Option Nat) (s : State) : OnlyChanges [.cam] s (returnSlots f n w s) :=
  .cond (fun _ => .refl _ _) fun _ => .each _ _ _ _ fun _ _ => setFlag_only ..

theorem fillSlots_only (f : Nat) (data : List Byte) (s : State) : OnlyChanges [.cam] s (fillSlots f data s) :=
  .cond (fun _ => .refl _ _) fun _ => memStore_only ..

theorem completeOp_opKeeps (k h st : Nat) (d : List Word) (data : List Byte) (o : LongOp) (s : State) : OpKeeps k s (completeOp h st d data o s) := by
  unfold completeOp
  extract_lets s1 o1 s2
  have h1 : OnlyChanges [.cam] s s1 := by
    unfold s1
    split
    · exact (fillSlots_only ..).trans (returnSlots_only ..)
    · exact .refl _ _
  have h2 : OpKeeps k s s2 := .of_only ((h1.trans (onCam_only ..)).wide _ rfl)
  exact rel_ite (h2.trans (replyTo_opKeeps ..)) h2

theorem openGate_opKeeps (k h : Nat) (s : State) : OpKeeps k s (openGate h s) := by
  have hcam (f : Cam → Cam) : OpKeeps k s (onCam f s) := .of_only ((onCam_only ..).wide _ rfl)
  exact (hcam _).trans (OpKeeps.composes.each _ _ _ fun _ _ => replyTo_opKeeps ..)

theorem endOpN_opKeeps (k n h st : Nat) (d : List Word) (data : List Byte) (s : State) : OpKeeps k s (endOpN n h st d data s) := by
  have hR := OpKeeps.composes (k := k)
  have hcam (f : Cam → Cam) (u : State) : OpKeeps k u (onCam f u) := .of_only ((onCam_only ..).wide _ rfl)
  induction n generalizing h st d data s with
  | zero => exact hR.refl s
  | succ n ih =>
    unfold endOpN
    split
    · exact hR.refl s
    · rename_i o _
      extract_lets s1
      refine rel_ite (hR.refl s) (rel_ite ?_ (hcam ..))
      have h1 : OpKeeps k s s1 := (completeOp_opKeeps ..).trans (openGate_opKeeps ..)
      refine h1.trans (hR.each _ _ _ fun e u => ?_)
      split
      · exact (hcam ..).trans (ih ..)
      · exact hR.refl u

theorem endOpt_opKeeps (k : Nat) (h : Option Nat) (st : Nat) (d : List Word) (s : State) : OpKeeps k s (endOpt h st d s) := by
  unfold endOpt
  split
  · exact endOpN_opKeeps ..
  · exact OpKeeps.composes.refl s

/-! ## The deletion of a namespace -/

theorem CmdsKept.of_tables {s t : State} (ht : t.nvq.tags = s.nvq.tags) (hc : t.nvq.ctrls = s.nvq.ctrls) : CmdsKept s t :=
  ⟨fun j ha => ⟨fun c x hx => ha c x (by rwa [hc] at hx), by rw [ht]⟩⟩

/-- A namespace that is deleted. -/
def deadNs (n : Ns) : Ns := { n with live := false, att := [], segs := [] }

/-- What the deletion of a namespace leaves. -/
structure NsDeleted (k ns : Nat) (n : Ns) (s t : State) : Prop where
  admin : AdminLives k s t
  nss : t.fte.nss = tset s.fte.nss ns (deadNs n)
  map : t.fte.map = (dropContents ns s).fte.map
  idx : t.fte.idx = (dropContents ns s).fte.idx

theorem NsDeleted.keeps {k ns : Nat} {n : Ns} {s t u : State} (h : NsDeleted k ns n s t) (g : AllocKeeps k t u) : NsDeleted k ns n s u :=
  ⟨h.admin.trans g.admin.lives, g.nss.trans h.nss, g.map.trans h.map, g.idx.trans h.idx⟩

theorem NsDeleted.op {k ns : Nat} {n : Ns} {s t u : State} (h : NsDeleted k ns n s t) (g : OpKeeps k t u) : NsDeleted k ns n s u :=
  ⟨h.admin.trans g.admin, by rw [g.fte, h.nss], by rw [g.fte, h.map], by rw [g.fte, h.idx]⟩

theorem rescale_only (s : State) : OnlyChanges (.qos :: faultParts) s (rescale s) := by
  obtain ⟨u, hu, h | h⟩ := rescale_cases s <;> rw [h]
  · exact hu.wide _ rfl
  · exact (hu.wide _ rfl).trans ((raiseSrc_only ..).wide _ rfl)

theorem deleteNs_deleted {ns : Nat} {n : Ns} {s : State} (hn : nsAt s ns = some n) (k : Nat) : NsDeleted k ns n s (deleteNs ns s) := by
  unfold deleteNs
  split
  · rename_i hnone
    rw [hn] at hnone
    cases hnone
  · rename_i m hm
    obtain rfl : n = m := Option.some.inj (hn.symm.trans hm)
    extract_lets s1 s2 s3 s4 s5
    have h1 : AdminKept k s s1 := .of_cmds (.of_tables rfl rfl)
    have h2 : NsDeleted k ns n s s2 := by
      have h12 : AdminKept k s1 s2 := .of_nvq rfl
      refine ⟨(h1.trans h12).lives, ?_, rfl, rfl⟩
      exact congrArg (fun x => tset x ns (deadNs n)) (dropContents_nss ns s)
    have h3 : NsDeleted k ns n s s3 := h2.keeps (.of_only ((onQos_only ..).wide _ rfl))
    have h4 : NsDeleted k ns n s s4 := by
      unfold s4
      split
      · exact h3.op (endOpt_opKeeps ..)
      · exact h3
    have h5 : NsDeleted k ns n s s5 := h4.keeps (.of_only ((onDre_only ..).wide _ rfl))
    have hdelta : AllocKeeps k s5 (appendDelta { kind := .nsdel, ns, inst := n.inst } s5) := .of_background (appendDelta_background (by simp) s5)
    refine ((h5.keeps hdelta).keeps ?_).keeps (tellChanged_keeps ..)
    exact .of_cmds (rescale_cmds _) ((rescale_only _).same .fte (by decide))

/-- The contents of a namespace are dropped: its map entries, and its records in wells. -/
theorem dropContents_map {ns x : Nat} (h : x / 2 ^ 40 = ns) (s : State) : tget (dropContents ns s).fte.map x = none := by
  have hmap : (dropContents ns s).fte.map = tfilter s.fte.map fun k _ => k / 2 ^ 40 != ns := by
    simp only [dropContents, onCst_fte, onFte_fte]
  rw [hmap, tget_tfilter_key s.fte.map (fun k => k / 2 ^ 40 != ns), h]
  simp

theorem dropContents_idx {ns : Nat} {s : State} {r : WellRec} (h : r ∈ (dropContents ns s).fte.idx) : r.ns ≠ ns := by
  simp only [dropContents, onCst_fte, onFte_fte] at h
  simpa using (List.mem_filter.1 h).2

theorem exec_namespaceManagement_delete {k a b c : Nat} {t : Tag} {s : State} (h : AdminRuns k 0x0D s t)
    (hsel : fld (cdw t.ent 10) 0 4 = 1) (hns : entNsid t.ent ≠ 0xFFFFFFFF) : exec (.namespaceManagement k a b c) s = .next (
      if (nsAt s (entNsid t.ent)).isNone then post k .invalidNs 0 s
      else if logWaits s then fullLog s
      else post k .success 0 (afterAlloc (deleteNs (entNsid t.ent) s))) := by
  refine congrArg Host.Outcome.next ?_
  rw [admin_of_noData h rfl]
  simp only [hsel, hns, ne_eq, not_false_eq_true, decide_true, Bool.true_and]
  rfl

/-- R102: what a deletion leaves once it has ended. -/
theorem deletedNs_ends {k ns : Nat} {n : Ns} {t : Tag} {s : State} (h : AdminRuns k 0x0D s t) (hn : nsAt s ns = some n) (ha : NoAer k s) :
    let u := post k .success 0 (afterAlloc (deleteNs ns s))
    nsAt u ns = none ∧ (∀ j, j ≠ ns → nsAt u j = nsAt s j) ∧ (∀ x, x / 2 ^ 40 = ns → tget u.fte.map x = none) ∧
      (∀ r ∈ u.fte.idx, r.ns ≠ ns) ∧ Posted k .success u := by
  intro u
  obtain ⟨hadmin, hnss, hmap, hidx⟩ := (deleteNs_deleted hn k).keeps (afterAlloc_keeps k (deleteNs ns s))
  have hfte : u.fte = (afterAlloc (deleteNs ns s)).fte := post_fte ..
  obtain ⟨y, hy, hty⟩ := (hadmin.kept ha).2 t h.tag h.run.2.1
  rw [← hfte] at hnss hmap hidx
  refine ⟨nsAt_tset_dead hnss rfl, fun j hj => nsAt_tset_ne hnss hj, fun x hx => ?_, fun r hr => ?_, ?_⟩
  · rw [hmap]; exact dropContents_map hx s
  · rw [hidx] at hr; exact dropContents_idx hr
  · exact posted_success_of_lives hy hty h.st_ne_post 0

/-! ## Attachment -/

/-- A change of a namespace takes effect. -/
def nsSet (ns : Nat) (n : Ns) (s : State) : State := onFte (fun x => { x with nss := tset x.nss ns n }) s

theorem nsSet_only (ns : Nat) (n : Ns) (s : State) : OnlyChanges [.fte] s (nsSet ns n s) := onFte_only ..

section

variable {k : Nat} {cs : List Nat} {n : Ns} {t : Tag} {s : State} (h : AdminRuns k 0x15 s t) (hn : nsAt s (entNsid t.ent) = some n)
  (hcs : ∀ c ∈ cs, thas s.nvq.ctrls c = true)
include h hn hcs

theorem exec_namespaceAttachment : exec (.namespaceAttachment k cs) s = .next (
    let ns := entNsid t.ent
    if fld (cdw t.ent 10) 0 4 = 0 then
      if cs.any fun c => n.mirror != isPface s (ctrlLink s c) then post k .nsPrivate 0 s
      else if cs.any n.att.contains then post k .nsAttached 0 s
      else post k .success 0 (tellChanged ns cs (nsSet ns { n with att := n.att ++ cs } s))
    else if fld (cdw t.ent 10) 0 4 = 1 then
      if cs.any fun c => !n.att.contains c then post k .nsNotAttached 0 s
      else post k .success 0 (tellChanged ns cs (nsSet ns { n with att := n.att.filter fun c => !cs.contains c } s))
    else post k .invalidField 0 s) := by
  have hall : ¬(cs.any fun c => !thas s.nvq.ctrls c) = true := by
    simpa using fun c hc => hcs c hc
  refine congrArg Host.Outcome.next ?_
  rw [admin_of_noData h rfl]
  simp only [hn, if_neg hall]
  rfl

end

/-- Every controller keeps the namespaces it notes as changed. -/
def ChangesKept (s t : State) : Prop :=
  ∀ d x, tget s.nvq.ctrls d = some x → ∃ y, tget t.nvq.ctrls d = some y ∧ ∀ n ∈ x.changedNs, n ∈ y.changedNs

theorem ChangesKept.of_ctrls {s t : State} (h : t.nvq.ctrls = s.nvq.ctrls) : ChangesKept s t := fun _ x hx => ⟨x, by rw [h, hx], fun _ hn => hn⟩

theorem ChangesKept.trans {s t u : State} (h : ChangesKept s t) (g : ChangesKept t u) : ChangesKept s u := by
  intro d x hx
  obtain ⟨y, hy, hxy⟩ := h d x hx
  obtain ⟨z, hz, hyz⟩ := g d y hy
  exact ⟨z, hz, fun n hn => hyz n (hxy n hn)⟩

theorem ChangesKept.setCtrl {c : Nat} {x y : Ctrl} {s : State} (hx : tget s.nvq.ctrls c = some x) (hy : y.changedNs = x.changedNs) :
    ChangesKept s (setCtrl c y s) := by
  intro d z hz
  simp only [Machine.setCtrl, tget_tset]
  split
  · rename_i hd
    obtain rfl : x = z := Option.some.inj (hx.symm.trans (hd ▸ hz))
    exact ⟨y, rfl, fun n hn => hy ▸ hn⟩
  · exact ⟨z, hz, fun _ hn => hn⟩

theorem sendAen_changes (c : Nat) (a : Aen) (s : State) : ChangesKept s (sendAen c a s) := by
  unfold sendAen
  split
  · exact .of_ctrls rfl
  · rename_i x hx
    split
    · exact .of_ctrls rfl
    · split
      · exact .setCtrl hx rfl
      · rename_i j js _
        have hset : ChangesKept s (setCtrl c { x with aers := js } s) := .setCtrl hx rfl
        exact hset.trans (.of_ctrls (setPost_ctrls ..))

theorem changeNoted_mem (ns : Nat) (x : Ctrl) : ns ∈ (changeNoted ns x).changedNs ∧ ∀ n ∈ x.changedNs, n ∈ (changeNoted ns x).changedNs := by
  unfold changeNoted
  dsimp only
  split
  · rename_i hin
    exact ⟨List.contains_iff_mem.1 hin, fun _ hn => hn⟩
  · exact ⟨List.mem_append_right _ List.mem_cons_self, fun _ hn => List.mem_append_left _ hn⟩

/-- One controller is told that a namespace changed. -/
def told (ns c : Nat) (s : State) : State := sendAen c .nsChanged (modCtrl c (changeNoted ns) s)

theorem tellChanged_eq (ns : Nat) (cs : List Nat) (s : State) : tellChanged ns cs s = forEach cs (told ns) s := rfl

theorem told_changes (ns c : Nat) (s : State) : ChangesKept s (told ns c s) ∧
    ∀ x, tget s.nvq.ctrls c = some x → ∃ y, tget (told ns c s).nvq.ctrls c = some y ∧ ns ∈ y.changedNs := by
  have hsend := sendAen_changes c .nsChanged (modCtrl c (changeNoted ns) s)
  refine ⟨fun d x hx => ?_, fun x hx => ?_⟩
  · by_cases hd : d = c
    · obtain ⟨y, hy, hxy⟩ := hsend d (changeNoted ns x) (by rw [tget_modCtrl, if_pos hd, ← hd, hx]; rfl)
      exact ⟨y, hy, fun n hn => hxy n ((changeNoted_mem ns x).2 n hn)⟩
    · exact hsend d x (by rw [tget_modCtrl, if_neg hd, hx])
  · obtain ⟨y, hy, hxy⟩ := hsend c (changeNoted ns x) (by rw [tget_modCtrl, if_pos rfl, hx]; rfl)
    exact ⟨y, hy, hxy ns (changeNoted_mem ns x).1⟩

theorem tellChanged_changes (ns : Nat) (cs : List Nat) (s : State) : ChangesKept s (tellChanged ns cs s) ∧
    ∀ c ∈ cs, ∀ x, tget s.nvq.ctrls c = some x → ∃ y, tget (tellChanged ns cs s).nvq.ctrls c = some y ∧ ns ∈ y.changedNs := by
  rw [tellChanged_eq]
  induction cs generalizing s with
  | nil => exact ⟨.of_ctrls rfl, nofun⟩
  | cons c cs ih =>
    obtain ⟨hkept, htold⟩ := ih (told ns c s)
    obtain ⟨hkept1, htold1⟩ := told_changes ns c s
    refine ⟨hkept1.trans hkept, fun d hd x hx => ?_⟩
    rcases List.mem_cons.1 hd with rfl | hd
    · obtain ⟨y, hy, hyn⟩ := htold1 x hx
      obtain ⟨z, hz, hyz⟩ := hkept d y hy
      exact ⟨z, hz, hyz ns hyn⟩
    · obtain ⟨y, hy, -⟩ := hkept1 d x hx
      exact htold d hd y hy

/-- What an attachment or a detachment leaves. -/
theorem nsSet_told {k op ns : Nat} {cs : List Nat} {n : Ns} {t : Tag} {s : State} (h : AdminRuns k op s t) (ha : NoAer k s)
    (hl : n.live = true) (hcs : ∀ c ∈ cs, thas s.nvq.ctrls c = true) :
    let u := post k .success 0 (tellChanged ns cs (nsSet ns n s))
    nsAt u ns = some n ∧ Posted k .success u ∧ (∀ c ∈ cs, ns ∈ (ctrlAt u c).changedNs) ∧ OnlyChanges [.fte, .nvq] s u := by
  intro u
  have htold := tellChanged_keeps k ns cs (nsSet ns n s)
  have hset : AdminKept k s (nsSet ns n s) := .of_nvq rfl
  have hkept := hset.trans htold.admin
  have hnss : u.fte.nss = tset s.fte.nss ns n := by
    rw [post_fte, htold.nss]
    rfl
  refine ⟨nsAt_tset_same hnss hl, (h.ends ha hkept 0).posted, fun c hc => ?_, ?_⟩
  · obtain ⟨x, hx⟩ := Option.isSome_iff_exists.1 (hcs c hc)
    obtain ⟨y, hy, hyn⟩ := (tellChanged_changes ns cs (nsSet ns n s)).2 c hc x hx
    rw [ctrlAt_of_tget (by rw [post_ctrls]; exact hy)]
    exact hyn
  · have htag := (hkept.kept ha).2 t h.tag h.run.2.1
    have hpost : OnlyChanges [.nvq] (tellChanged ns cs (nsSet ns n s)) u := by
      unfold u
      rw [post_success_admin htag h.run.2.1]
      exact setPost_only ..
    exact ((nsSet_only ..).wide _ rfl).trans (((tellChanged_only ..).wide _ rfl).trans (hpost.wide _ rfl))

/-! ## Virtualization -/

/-- A secondary controller of the port of the command's controller. -/
def isSecondary (s : State) (t : Tag) (c : Nat) : Bool := thas s.nvq.ctrls c && portOf c == portOf t.ctrl && !isPf c

theorem isSecondary_iff (s : State) (t : Tag) (c : Nat) :
    isSecondary s t c = true ↔ thas s.nvq.ctrls c = true ∧ portOf c = portOf t.ctrl ∧ isPf c = false := by
  simp [isSecondary, and_assoc]

section

variable {k c rt nr : Nat} {t : Tag} {s : State} (h : AdminRuns k 0x1C s t) (hc : fld (cdw t.ent 10) 16 16 = c)
  (hrt : fld (cdw t.ent 10) 8 3 = rt) (hnr : fld (cdw t.ent 11) 0 16 = nr)
include h hc

theorem exec_virtualization_online (hsel : fld (cdw t.ent 10) 0 4 = 9) : exec (.virtualizationManagement k) s = .next (
    if !isSecondary s t c then post k .invalidCtrlId 0 s
    else if (ctrlAt s c).vqFlex < 2 ∨ (ctrlAt s c).viFlex < 1 ∨ !(fnAt s (ctrlOf (portOf c) 0)).vfEnable then
      post k .invalidSecondaryState 0 s
    else post k .success 0 (setCtrl c { ctrlAt s c with online := true } s)) := by
  refine congrArg Host.Outcome.next ?_
  rw [admin_of_noData h rfl]
  simp only [hsel, hc]
  rfl

include hrt hnr

theorem exec_virtualization_primary (hsel : fld (cdw t.ent 10) 0 4 = 1) : exec (.virtualizationManagement k) s = .next (
    let x := ctrlAt s c
    if c ≠ t.ctrl ∨ !isPf c then post k .invalidCtrlId 0 s
    else if 1 < rt then post k .invalidResourceId 0 s
    else if (rt = 0 ∧ 4032 < nr) ∨ flexLeft s c rt + flexHeld rt x < nr then post k .invalidResourceNum 0 s
    else
      let cur := x.flexNext.getD (x.vqFlex, x.viFlex)
      post k .success nr (setCtrl c { x with flexNext := some (if rt = 0 then (nr, cur.2) else (cur.1, nr)) } s)) := by
  refine congrArg Host.Outcome.next ?_
  rw [admin_of_noData h rfl]
  simp only [hsel, hc, hrt, hnr]

theorem exec_virtualization_assign (hsel : fld (cdw t.ent 10) 0 4 = 8) : exec (.virtualizationManagement k) s = .next (
    let x := ctrlAt s c
    if !isSecondary s t c then post k .invalidCtrlId 0 s
    else if 1 < rt then post k .invalidResourceId 0 s
    else if x.online then post k .invalidSecondaryState 0 s
    else if (if rt = 0 then 129 else 64) < nr ∨ flexLeft s c rt + (if rt = 0 then x.vqFlex else x.viFlex) < nr then
      post k .invalidResourceNum 0 s
    else post k .success nr (setCtrl c (if rt = 0 then { x with vqFlex := nr } else { x with viFlex := nr }) s)) := by
  refine congrArg Host.Outcome.next ?_
  rw [admin_of_noData h rfl]
  simp only [hsel, hc, hrt, hnr]
  rfl

end

/-- R105: the port of a partner-facing controller has no flexible resources. -/
theorem flexLeft_of_pface {s : State} {c : Nat} (hp : isPface s (ctrlLink s c) = true) (rt : Nat) : flexLeft s c rt = 0 := by
  have hport : portOf (ctrlOf (portOf c) 0) = portOf c := by
    unfold portOf ctrlOf
    omega
  have hlink : isPface s (ctrlLink s (ctrlOf (portOf c) 0)) = true := by rw [ctrlLink, hport]; exact hp
  simp only [flexLeft, vqFrt, viFrt, hlink, if_true, ite_self, Nat.zero_sub]

/-! ## Format -/

/-- A namespace that is formatted. -/
def formattedNs (segs : List (Nat × Nat × Nat)) (w : Word) (n : Ns) : Ns :=
  { n with segs, size := segs.foldl (fun a g => a + g.2.2) 0 * lbasPerIu (fld w 0 4), fmt := fld w 0 4, pi := fld w 5 3, mset := bitOf w 4,
           kgen := if fld w 9 3 = 0 then n.kgen else (n.kgen + 1) % 65536 }

/-- Every IU of a namespace is unmapped by the version of a Format NVM, and its older records in wells go. -/
def formatUnmapped (ns slot ver : Nat) (n : Ns) (s : State) : State :=
  sweepOvl (unmapAll ns slot ver n (onFte (fun x => { x with idx := x.idx.filter fun r => r.ns != ns || newer r.ver ver }) s))

section

variable {k : Nat} {n : Ns} {t : Tag} {s : State} (h : AdminRuns k 0x80 s t) (hn : nsAt s (entNsid t.ent) = some n)
include h hn

theorem exec_formatNvm_badSes (hses : 2 < fld (cdw t.ent 10) 9 3) : exec (.formatNvm k) s = .next (post k .invalidField 0 s) := by
  refine congrArg Host.Outcome.next ?_
  rw [admin_of_noData h rfl]
  simp only [hn]
  exact if_pos hses

variable (hses : fld (cdw t.ent 10) 9 3 ≤ 2)
include hses

theorem exec_formatNvm_badFormat (hbad : badFormat (fld (cdw t.ent 10) 0 4) (fld (cdw t.ent 10) 5 3) = true) :
    exec (.formatNvm k) s = .next (post k .invalidFormat 0 s) := by
  refine congrArg Host.Outcome.next ?_
  rw [admin_of_noData h rfl]
  simp only [hn]
  exact (if_neg (Nat.not_lt.2 hses)).trans (if_pos hbad)

theorem exec_formatNvm_formats {segs : List (Nat × Nat × Nat)} {slot : Nat}
    (hok : ¬badFormat (fld (cdw t.ent 10) 0 4) (fld (cdw t.ent 10) 5 3) = true) (hlog : logWaits s = false)
    (hsegs : reSegs s (iuUnits n.fmt) (iuUnits (fld (cdw t.ent 10) 0 4)) n.segs (unallocD s) 0 = some segs) (hslot : freeRng s = some slot) :
    exec (.formatNvm k) s = .next (post k .success 0 (afterAlloc (tellChanged (entNsid t.ent) n.att
      (nsSet (entNsid t.ent) (formattedNs segs (cdw t.ent 10) n) (formatUnmapped (entNsid t.ent) slot t.seq n s))))) := by
  refine congrArg Host.Outcome.next ?_
  rw [admin_of_noData h rfl]
  simp only [hn]
  refine (if_neg (Nat.not_lt.2 hses)).trans ((if_neg hok).trans ((if_neg (ne_true_of_eq_false hlog)).trans ?_))
  rw [hsegs, hslot]
  rfl

end

/-- What the unmapping of a Format NVM leaves. -/
theorem formatUnmapped_keeps (k ns slot ver : Nat) (n : Ns) (s : State) :
    AdminKept k s (formatUnmapped ns slot ver n s) ∧ (formatUnmapped ns slot ver n s).fte.nss = s.fte.nss ∧
      (formatUnmapped ns slot ver n s).fte.map = tfilter s.fte.map fun i _ => i / 2 ^ 40 != ns := by
  have hdelta (d : Delta) (hd : d.kind ≠ .map) (u : State) : AllocKeeps k u (appendDelta d u) := .of_background (appendDelta_background hd u)
  unfold formatUnmapped unmapAll
  extract_lets last r s1
  obtain ⟨hadmin, hnss, hmap, -⟩ := hdelta { kind := .range, ns, key := slot, inst := n.inst, ver } (by simp) s1
  have h1 : AdminKept k s s1 := .of_nvq rfl
  have hsweep : AdminKept k (appendDelta { kind := .range, ns, key := slot, inst := n.inst, ver } s1)
      (sweepOvl (appendDelta { kind := .range, ns, key := slot, inst := n.inst, ver } s1)) := .of_cmds (.of_tables rfl rfl)
  refine ⟨(h1.trans hadmin).trans hsweep, ?_, ?_⟩
  · exact hnss
  · exact hmap

theorem formatted_ends {k ns slot : Nat} {segs : List (Nat × Nat × Nat)} {n : Ns} {t : Tag} {s : State} (h : AdminRuns k 0x80 s t)
    (hn : nsAt s ns = some n) (ha : NoAer k s) (w : Word) :
    let u := post k .success 0 (afterAlloc (tellChanged ns n.att (nsSet ns (formattedNs segs w n) (formatUnmapped ns slot t.seq n s))))
    Posted k .success u ∧ (∀ x, x / 2 ^ 40 = ns → tget u.fte.map x = none) ∧ nsAt u ns = some (formattedNs segs w n) := by
  intro u
  obtain ⟨hunmapped, hnss0, hmap0⟩ := formatUnmapped_keeps k ns slot t.seq n s
  have hset : AdminKept k (formatUnmapped ns slot t.seq n s) (nsSet ns (formattedNs segs w n) (formatUnmapped ns slot t.seq n s)) := .of_nvq rfl
  obtain ⟨hadmin, hnss, hmap, -⟩ := (tellChanged_keeps k ns n.att (nsSet ns (formattedNs segs w n) (formatUnmapped ns slot t.seq n s))).trans
    (afterAlloc_keeps k _)
  have hfte : u.fte = _ := post_fte ..
  rw [← hfte] at hnss hmap
  have hnssu : u.fte.nss = tset s.fte.nss ns (formattedNs segs w n) := by rw [hnss, ← hnss0]; rfl
  have hlive : (formattedNs segs w n).live = true := nsAt_live (n := n) hn
  refine ⟨(h.ends ha ((hunmapped.trans hset).trans hadmin) 0).posted, fun x hx => ?_, nsAt_tset_same hnssu hlive⟩
  rw [hmap]
  show tget (formatUnmapped ns slot t.seq n s).fte.map x = none
  rw [hmap0, tget_tfilter_key s.fte.map (fun i => i / 2 ^ 40 != ns), hx]
  simp

/-- Settles O46, command by command: refusals by the command's branches, successes by what allocation and the controllers told leave. -/
theorem namespaceCommands : Obligations.NamespaceCommands := by
  refine ⟨?_, ?_, ?_, ?_, ?_⟩
  · intro k nsze ncap fmt ns t s h hsel hns f pi bad
    have hbad : badFormat (fmt % 16) (fmt / 256 % 8) = true ↔ bad := badFormat_iff ..
    rw [exec_namespaceManagement_create h hsel]
    refine ⟨fun hb => ?_, fun hb hsize => ?_, fun hb hcap hsize hroom => ?_, fun segs hb hcap hsize hroom hsegs ha => ?_⟩
    · rw [createNs_badFormat hns (hbad.2 hb)]
    · rw [createNs_badSize hns (mt hbad.1 hb) hsize]
    · rw [createNs_noRoom hns (mt hbad.1 hb) hcap hsize hroom]
    · obtain ⟨hposted, hown, hothers⟩ := nsPlaced_created (nsze := nsze) (fmt := fmt) (ns := ns) (dw := ns) (segs := segs) h ha
      refine ⟨_, ?_, hposted, ⟨_, hown, rfl, rfl, rfl, rfl, rfl⟩, hothers⟩
      rw [exec_namespaceManagement_create h hsel, createNs_placed hns (mt hbad.1 hb) hcap hsize hroom hsegs]
  · intro k a b c t s h hsel hns
    have hexec := exec_namespaceManagement_delete (a := a) (b := b) (c := c) h hsel hns
    refine ⟨fun hnone => ?_, fun hsome hlog => ?_, fun hsome hlog ha => ?_⟩
    · exact hexec.trans (congrArg Host.Outcome.next (if_pos hnone))
    · obtain ⟨n, hn⟩ := Option.isSome_iff_exists.1 hsome
      exact hexec.trans (congrArg Host.Outcome.next ((if_neg (by simp [hn])).trans (if_pos hlog)))
    · obtain ⟨n, hn⟩ := Option.isSome_iff_exists.1 hsome
      exact ⟨_, hexec.trans (congrArg Host.Outcome.next ((if_neg (by simp [hn])).trans (if_neg (ne_true_of_eq_false hlog)))),
        deletedNs_ends h hn ha⟩
  · intro k cs n t s h hn hcs
    have hexec := exec_namespaceAttachment h hn hcs
    have hmirror (hm : ∀ c ∈ cs, n.mirror = isPface s (ctrlLink s c)) : ¬(cs.any fun c => n.mirror != isPface s (ctrlLink s c)) = true := by
      simpa using hm
    refine ⟨fun hsel hm hfree ha => ?_, fun hsel hm hin => ?_, fun hsel hin ha => ?_, fun hsel hout => ?_⟩
    · obtain ⟨hown, hposted, hchanged, honly⟩ := nsSet_told (n := { n with att := n.att ++ cs }) h ha (nsAt_live (n := n) hn) hcs
      have hfree' : ¬(cs.any n.att.contains) = true := by simpa using hfree
      exact ⟨_, hexec.trans (congrArg Host.Outcome.next ((if_pos hsel).trans ((if_neg (hmirror hm)).trans (if_neg hfree')))),
        hown, hposted, hchanged, honly⟩
    · have hin' : cs.any n.att.contains = true := by simpa using hin
      exact hexec.trans (congrArg Host.Outcome.next ((if_pos hsel).trans ((if_neg (hmirror hm)).trans (if_pos hin'))))
    · obtain ⟨hown, hposted, -, honly⟩ := nsSet_told (n := { n with att := n.att.filter fun c => !cs.contains c }) h ha (nsAt_live (n := n) hn) hcs
      have hin' : ¬(cs.any fun c => !n.att.contains c) = true := by simpa using hin
      exact ⟨_, hexec.trans (congrArg Host.Outcome.next ((if_neg (by omega)).trans ((if_pos hsel).trans (if_neg hin')))), hown, hposted, honly⟩
    · have hout' : (cs.any fun c => !n.att.contains c) = true := by simpa using hout
      exact hexec.trans (congrArg Host.Outcome.next ((if_neg (by omega)).trans ((if_pos hsel).trans (if_pos hout'))))
  · intro k t s h w c nr x mine cur
    have hno (hm : mine) : ¬(!isSecondary s t c) = true := by simp [(isSecondary_iff s t c).2 hm]
    have hprimary (hc : c = t.ctrl) (hpf : isPf c = true) : ¬(c ≠ t.ctrl ∨ (!isPf c) = true) :=
      not_or.2 ⟨not_not.2 hc, by rw [hpf]; exact Bool.false_ne_true⟩
    refine ⟨fun hsel hc hpf hrt hmax hleft => ?_, fun hsel hc hpf hrt hp hheld => ?_, fun hsel hm hrt hoff hmax hleft => ?_,
      fun hsel hm hrt hoff hmax hleft => ?_, fun hsel hm hrt hon => ?_, fun hsel hm hvq hvi hvf => ?_, fun hsel hm => ?_⟩
    · refine (exec_virtualization_primary h (c := c) rfl hrt rfl hsel).trans (congrArg Host.Outcome.next ?_)
      exact (if_neg (hprimary hc hpf)).trans ((if_neg (by decide)).trans
        (if_neg (not_or.2 ⟨fun hn => absurd hn.2 (Nat.not_lt.2 hmax), Nat.not_lt.2 hleft⟩)))
    · refine (exec_virtualization_primary h (c := c) rfl rfl rfl hsel).trans (congrArg Host.Outcome.next ?_)
      refine (if_neg (hprimary hc hpf)).trans ((if_neg (Nat.not_lt.2 hrt)).trans (if_pos (.inr ?_)))
      rw [flexLeft_of_pface hp, Nat.zero_add]
      exact hheld
    · refine (exec_virtualization_assign h (c := c) rfl hrt rfl hsel).trans (congrArg Host.Outcome.next ?_)
      exact (if_neg (hno hm)).trans ((if_neg (by decide)).trans ((if_neg (ne_true_of_eq_false hoff)).trans
        (if_neg (not_or.2 ⟨Nat.not_lt.2 hmax, Nat.not_lt.2 hleft⟩))))
    · refine (exec_virtualization_assign h (c := c) rfl hrt rfl hsel).trans (congrArg Host.Outcome.next ?_)
      exact (if_neg (hno hm)).trans ((if_neg (by decide)).trans ((if_neg (ne_true_of_eq_false hoff)).trans
        (if_neg (not_or.2 ⟨Nat.not_lt.2 hmax, Nat.not_lt.2 hleft⟩))))
    · refine (exec_virtualization_assign h (c := c) rfl rfl rfl hsel).trans (congrArg Host.Outcome.next ?_)
      exact (if_neg (hno hm)).trans ((if_neg (Nat.not_lt.2 hrt)).trans (if_pos hon))
    · refine (exec_virtualization_online h (c := c) rfl hsel).trans (congrArg Host.Outcome.next ?_)
      refine (if_neg (hno hm)).trans (if_neg (not_or.2 ⟨Nat.not_lt.2 hvq, not_or.2 ⟨Nat.not_lt.2 hvi, ?_⟩⟩))
      rw [hvf]
      exact Bool.false_ne_true
    · have hforeign : (!isSecondary s t c) = true := by
        rw [Bool.not_eq_true', ← Bool.not_eq_true]
        exact mt (isSecondary_iff s t c).1 hm
      rcases hsel with hsel | hsel
      · exact (exec_virtualization_assign h (c := c) rfl rfl rfl hsel).trans (congrArg Host.Outcome.next (if_pos hforeign))
      · exact (exec_virtualization_online h (c := c) rfl hsel).trans (congrArg Host.Outcome.next (if_pos hforeign))
  · intro k n t s h hn w
    refine ⟨exec_formatNvm_badSes h hn, ?_⟩
    intro bad
    have hbad : badFormat (fld w 0 4) (fld w 5 3) = true ↔ bad := badFormat_iff ..
    refine ⟨fun hses hb => exec_formatNvm_badFormat h hn hses (hbad.2 hb), fun segs slot hses hb hlog hsegs hslot ha => ?_⟩
    obtain ⟨hposted, hmap, hown⟩ := formatted_ends (slot := slot) (segs := segs) h hn ha (cdw t.ent 10)
    have hexec := exec_formatNvm_formats h hn hses (mt hbad.1 hb) hlog hsegs hslot
    exact ⟨_, hexec, hposted, hmap, _, hown, rfl, rfl, rfl, rfl, rfl⟩

end Sys2Proof
